-- ==== Sys2Proof/Word.lean ====
section
/-! DEFINITION. The word and byte types (R7). -/

namespace Sys2Proof

/-- A 32-bit register word (R7). -/
abbrev Word := BitVec 32

/-- A byte of DRAM, flash or a buffer. -/
abbrev Byte := BitVec 8

end Sys2Proof
end

