-- ==== Sys2Proof/Syntax.lean ====
section
/-! DEFINITION. The commands of the block: Instr has one constructor per row of spec/opcode_table.json, with the operands
that the row's rule gives it, and the types those operands need. What a sensor, a supply, a device outside the block or a
far end presents at the instant of a command is an operand of that command. -/

namespace Sys2Proof

/-! ### Requesters, access paths and results -/

/-- Access path identity (R37): a tenant, or a system requester (management pair or Oruiris core) acting for a tenant. -/
inductive Who
  | ten (n : Fin 16)
  | sys (behalf : Fin 16)
  deriving DecidableEq, Repr

/-- The path an access comes by (R31, R33). -/
inductive Path
  | link (p : Fin 4)
  | spia
  | mgmt
  | osec
  | jtag
  deriving DecidableEq, Repr

/-- One requester on one path. -/
structure Access where
  who : Who
  path : Path
  deriving DecidableEq, Repr

/-- A reason code with its detail (R53). -/
structure Rc where
  code : Nat
  detail : Nat
  deriving DecidableEq, Repr

/-! ### Basius frames (Table 4.4), as received on a port -/

/-- What the local ingress holds when a frame arrives (R93): bytes of earlier records of its slot, bytes of the pool in use, an earlier MGMT
or SESSION frame of its slot. -/
structure Ingress where
  own : Nat
  pool : Nat
  mgmt : Bool
  deriving DecidableEq, Repr

/-- Header and outer facts of a received frame. `resv`: a reserved header bit is 1. `hcrcOk`, `fcsOk`: the header check and
the frame check sequence pass; `ing`: what the ingress holds already; `fecCor`, `fecUnc`: codewords that RS-FEC corrected, and could not
correct, while it came. `at_`: the grain of its first bit (R102). -/
structure Frame where
  port : Fin 4
  at_ : Nat
  etype : Nat
  len : Nat
  ver : Nat
  dir : Nat
  typ : Nat
  force : Bool
  tenant : Fin 16
  nrec : Nat
  first : Nat
  last : Nat
  dcn : Nat
  fctr : Nat
  seq : Nat
  blen : Nat
  hop : Nat
  resv : Bool
  hcrcOk : Bool
  fcsOk : Bool
  ing : Ingress
  fecCor : Nat
  fecUnc : Nat
  deriving DecidableEq, Repr

/-- One segment record of a FEED frame (Table 4.7). `key` names the key its tag was made under (0: no valid tag). -/
structure FeedRec where
  tile : Nat
  slen : Nat
  offset : Nat
  data : List Byte
  key : Nat
  deriving DecidableEq, Repr

/-- A piece record (R337, Table 4.11): offset of its first byte that breaks MAGIC or a reserved field, if any; KIND; update
identifier, piece number, length, data, whether its CRC checks. -/
structure Piece where
  malformed : Option Nat
  kind : Nat
  upid : Nat
  index : Nat
  len : Nat
  data : List Byte
  crcOk : Bool
  deriving DecidableEq, Repr

/-- One management operation (Tables 4.10 and 4.11). -/
inductive MOp
  | read (inc : Bool) (count addr : Nat)
  | write (inc : Bool) (count addr : Nat) (data : List Word)
  | writem (count addr : Nat) (mask data : Word)
  | piece (count addr : Nat) (p : Piece)
  | nop (count addr : Nat)
  | status
  | other (op : Nat)
  deriving DecidableEq, Repr

/-- The result of one operation (Table 4.12). -/
structure OpRes where
  rc : Rc
  data : List Word
  deriving DecidableEq, Repr

/-- The body of a BEAT frame (Table 5.2), and the key its tag was made under. -/
structure Beat where
  tSec : Nat
  tNs : Nat
  tsSec : Nat
  tsNs : Nat
  resync : Bool
  key : Nat
  deriving DecidableEq, Repr

/-- Clock fields of a PTP message: domain, log interval, correction in grains, origin in grains, step kind, identity. -/
structure PtpMsg where
  port : Fin 4
  at_ : Nat
  domain : Nat
  logInt : Int
  origin : Nat
  correction : Int
  twoStep : Bool
  seq : Nat
  gmid : Nat
  deriving DecidableEq, Repr

/-- What a boundary finds under way: what transfers that a revocation stops have received (R66), bits on SPIC and bytes on TWI; ports
through which a frame is in flight (R96). -/
structure StopRx where
  spic : List Bool
  twi : List Byte
  cut : List Nat
  deriving DecidableEq, Repr

/-! ### What the sensing circuits of a span present (chapters 8 to 10) -/

/-- Measurements of the span that ends and conditions of the span that starts. `lowRows`: ROW pins found low at grain
sg − 64; `openMv`, `shortMv`, `hrMv`: columns, in mV, at the open, short and headroom samples (an unlisted sink passes and
reads full headroom); `cond`: counted periods at set and fine level (an unlisted sink counts as placed); `late`: stones
whose words are not complete at the first grain; `dbe`: plan-store words with a double-bit error (unit, word); `rx`: transfers and
frames under way at the boundary. -/
structure SpanEnv where
  lowRows : List Nat
  openMv : List (Nat × Nat)
  shortMv : List (Nat × Nat)
  hrMv : List (Nat × Nat)
  cond : List (Nat × Nat × Nat)
  late : List Nat
  dbe : List (Nat × Nat)
  rx : StopRx
  deriving DecidableEq, Repr

/-- A reading of PHnCS (R233): mV, and grains after the phase's zero. -/
structure CsRead where
  mv : Nat
  at_ : Nat
  deriving DecidableEq, Repr

/-- What the queued board reads find (R158, R297, R298): the readings of TFIELD entries 16 to 47, none for one that fails, and, when SDA is
found low, whether the bus clear frees it. -/
structure BoardRead where
  raw : List (Option Nat)
  sdaLow : Option Bool
  deriving DecidableEq, Repr

/-- What a phase's pins show at its zero. Of the period that ends (R230, R234): delays of PHnSWS after HG and LG fall, PHnSWS rose and fell in
time. Of the period that starts (R227): grains until PHnCS reads below 0 mV, if it does. -/
structure PhaseEnv where
  tf : Option Nat
  tr : Option Nat
  rose : Bool
  fell : Bool
  neg : Option Nat
  deriving DecidableEq, Repr

/-- Raw results of self-trim (Tables 12.1 and 12.2): stone sensors, sink deviations (96 per stone), stone deviations, tap
counts, converter, comparator and coder, and row-monitor results. -/
structure TrimMeas where
  temps : List Int
  dev : List (List Int)
  stones : List Int
  taps : List Int
  convOfs : List Int
  convGain : List Int
  offs : List Int
  rows : List Int
  deriving DecidableEq, Repr

/-- A spot check (R155, R156): its lamp, the second and the third engine by their places among those that can be taken, and the wrong
bits in the results of the first, the second and the third. -/
structure Spot where
  lamp : Nat
  second : Nat
  third : Nat
  e1 : Nat
  e2 : Nat
  e3 : Nat
  deriving DecidableEq, Repr

/-- What the array reports when a job ends (R155, R156, R165): the engine of each slice by its place among those in service, the spot
checks whose results have wrong bits, lamps whose coefficient read met a double-bit error, lamps whose input came from a poisoned DRAM
word (Table 13.7), and the slices under audit whose recomputed result differs from the original engine's. -/
structure JobResult where
  engines : List Nat
  spots : List Spot
  dbe : List Nat
  poison : List Nat
  auditDiff : List Nat
  deriving DecidableEq, Repr

/-! ### DRAM (chapter 13) -/

/-- Requesters of DRAM (R265, Table 13.6); `b`: PIXB. -/
inductive DUser
  | akast (b : Bool)
  | patt (e : Fin 16)
  | feed
  | clip
  | tset
  | mgmt
  | osec
  deriving DecidableEq, Repr

/-- One attempt at training (R267): the density MR8 names (none: no row of Table 13.2) and the step that fails. -/
structure TrainTry where
  density : Option (Fin 3)
  fail : Option (Fin 7)
  deriving DecidableEq, Repr

/-- What training leaves to be read (Table 13.12). -/
structure TrainRes where
  us : Nat
  vref : Word
  lanes : List Word
  cas : List Word
  mr : Word
  deriving DecidableEq, Repr

/-- How a TWI transaction ends (R296, R298): complete with the bytes read, address or a write byte not acknowledged, a line not
at its released level, with whether the bus clear that follows frees SDA. -/
inductive TwiEnd
  | done (bytes : List Byte)
  | addrNack
  | byteNack (index : Nat)
  | busErr (index : Nat) (freed : Bool)
  deriving DecidableEq, Repr

/-! ### Oruiris objects (chapter 15). Public and symmetric keys are numbers that name them (0: none). -/

/-- The body of an object (Table 15.2). `transfer`: the key whose hash NEWHASH is (0: all zero). `keywrap`: the key unwrapped (0: the
tag fails). -/
inductive ObjBody
  | voucher (pub : Nat)
  | transfer (next : Nat)
  | enrol (role winperm : Nat) (pw pr : List Word) (pub : Nat)
  | unenrol
  | keywrap (kind gen actdcn key : Nat)
  | debug (chal : List Word) (scope : Word)
  | policy (flags : Word) (minsvn : List Nat)
  | otpcfg (bytes : List Nat)
  | reserved
  deriving DecidableEq, Repr

/-- An object (Table 15.1): the offset of its first format fault, if any; the keys under which its signatures verify, in order. -/
structure Obj where
  malformed : Option Nat
  slot : Fin 16
  uid : Nat
  ctr : Nat
  signers : List Nat
  body : ObjBody
  deriving DecidableEq, Repr

/-- What a SESSION frame asks (Table 15.4). -/
inductive SessBody
  | establish (sctr signer mkey : Nat)
  | object (o : Obj)
  | attest (nonce : List Word)
  | cert
  deriving DecidableEq, Repr

/-! ### Images and bundles (chapter 16), as read from flash or DRAM -/

/-- An image entry (Table 16.3). -/
structure Image where
  typ : Nat
  ctr : Nat
  svn : Nat
  port : Nat
  len : Nat
  hash : List Nat
  deriving DecidableEq, Repr

/-- A manifest (Table 16.2) and its measurement. -/
structure Manifest where
  build : Nat
  hover : Nat
  handover : Bool
  certified : Bool
  meas : List Nat
  images : List Image
  deriving DecidableEq, Repr

/-- A slot as the checks of Table 15.5 find it: the certificate chains to the root, the Zararis signature is valid, the owner
countersignature is present and valid, the first image whose key the policy revokes, the first image whose hash differs. -/
structure ImgRead where
  chainOk : Bool
  sigOk : Bool
  ownerOk : Bool
  revoked : Option Nat
  badHash : Option Nat
  man : Manifest
  deriving DecidableEq, Repr

/-- A section of a bundle (Table 16.5); pixels as four 16-bit values each. -/
inductive BSection
  | tset (k lamps : Nat) (entries : List Nat)
  | clip (c width height : Nat) (frames : List (List (Nat × Nat × Nat × Nat)))
  | preset
  | other
  deriving DecidableEq, Repr

/-- A bundle as read (Table 16.4): owner signature valid, first section whose hash fails, UID, BID, its hash, its sections. -/
structure BundleRead where
  sigOk : Bool
  badHash : Option Nat
  uid : Nat
  bid : Nat
  hash : List Nat
  sections : List BSection
  deriving DecidableEq, Repr

/-- What devices and stores outside the registers present to a write, for the registers whose write asks for it: the flash's answer
(SPIB_CMD), SDA found low before a START and whether a bus clear frees it (TWI_XFER), the outcome of a bus clear (TWI_GCMD), the
object in the buffer (OSEC_CMD), the bundle that APPLYCFG names (UPD_CMD). -/
structure Env where
  flash : List Byte
  sdaLow : Option Bool
  freed : Bool
  obj : Obj
  bundle : BundleRead
  deriving DecidableEq, Repr

/-! ### The commands -/

/-- One command per row of spec/opcode_table.json; the docstring of each meaning in Machine/ cites its rule. -/
inductive Instr
  | registerWrite (a : Access) (addr : Nat) (data : Word) (env : Env)
  | snapshotRead (a : Access) (addr : Nat)
  | readClear (a : Access) (addr : Nat)
  | enable (a : Access) (page : Nat)
  | enableCheckDone (page : Nat)
  | unitStart (page : Nat)
  | disable (a : Access) (page : Nat)
  | unitStop (page : Nat)
  | pageReset (a : Access) (page : Nat)
  | pageResetApply (page : Nat)
  | hold (a : Access) (page : Nat) (on : Bool)
  | open_ (a : Access)
  | stageWrite (a : Access) (data : Word)
  | commit (a : Access) (h : Nat)
  | commitChecksDone (h : Nat)
  | abort (a : Access) (h : Nat)
  | renew (a : Access) (h : Nat)
  | cancel (a : Access) (h : Nat)
  | firkinLeaseExpire (h : Nat)
  | firkinApply (h : Nat)
  | firkinInstantPassed (h : Nat)
  | eqPop (a : Access)
  | eventFrameSend (t : Fin 16)
  | coldReset (a : Access)
  | managementPairReset (a : Access)
  | pixaReset (a : Access)
  | pixbReset (a : Access)
  | kick (a : Access)
  | watchdogExpire
  | registerAccessRestored
  | modeRequest (a : Access) (req : Nat)
  | modeChange
  | sleepEntry
  | wake (src : Fin 4)
  | retentionImage (crcOk : Bool)
  | sessionLeaseExpire (t : Fin 16)
  | tenCmdReset (a : Access) (t : Fin 16)
  | tenCmdQuarantine (a : Access) (t : Fin 16)
  | tenCmdRelease (a : Access) (t : Fin 16)
  | tenRunWrite (a : Access) (t : Fin 16) (run : Bool)
  | quarantineInterval
  | tenantResetInstant (rx : StopRx)
  | feedFrame (f : Frame) (recs : List FeedRec)
  | mgmtFrame (f : Frame) (key : Nat) (ops : List MOp) (overrun : Bool) (env : Env)
  | upForward (f : Frame)
  | enum (f : Frame) (key : Nat)
  | heartbeat (f : Frame) (req : Bool)
  | heartbeatTimeout (p : Fin 4)
  | revert
  | linkLock (p : Fin 4) (gig25 : Bool)
  | lossOfLock (p : Fin 4) (midFrame : Bool)
  | speedSeekTimeout (p : Fin 4)
  | nospeed (p : Fin 4)
  | foreignFrame (f : Frame)
  | sync (m : PtpMsg)
  | followUp (m : PtpMsg)
  | pdelayInterval
  | pdelayReq (m : PtpMsg)
  | pdelayResp (m : PtpMsg) (t2 t3 : Nat)
  | announce (m : PtpMsg)
  | syncTimeout
  | ptpHoldoverExpire
  | beat (f : Frame) (b : Beat)
  | cycleStart (e : SpanEnv) (auditErr : List (Nat × Nat × Nat))
  | holdoverExpire
  | pllLoss
  | pllLock
  | pps
  | dry (a : Access)
  | patternFrameDone (e : Fin 16) (poison : List (Nat × Nat × Nat))
  | jobStart
  | jobComplete (k : Nat) (r : JobResult)
  | returnToService (a : Access) (half : Fin 2) (data : Word)
  | sensorSample (die : List (Option Int))
  | boardSensorRead (r : BoardRead)
  | sensorReturn (a : Access) (half : Fin 2) (data : Word)
  | fieldRefresh
  | blendComplete (engines : List Nat) (spots : List Spot) (poison : List Nat)
  | blendResume
  | spanBoundary (e : SpanEnv)
  | override (a : Access) (k : Fin 4) (data : Word)
  | domainSwitch
  | preset (rec_ : Option (List (Nat × Nat × Word)))
  | wireQuery (a : Access) (lamp : Nat)
  | clear (a : Access)
  | clearall (a : Access)
  | healthQuery (a : Access) (lamp : Nat)
  | listQuery (a : Access) (idx : Nat)
  | rbClr (a : Access) (stones : Nat)
  | conversion (code : Nat) (value : Int)
  | phaseZero (n : Fin 8) (e : PhaseEnv)
  | loadAll (a : Access)
  | trip (n : Fin 8) (cs : CsRead)
  | feedbackSample (rail : Fin 2) (mv : Nat)
  | railStart (rail : Fin 2) (mv : Nat)
  | railRunning (rail : Fin 2) (mv : Nat)
  | startTimeout (rail : Fin 2)
  | railOff (rail : Fin 2) (mv : Nat)
  | sfltn
  | overVoltage (rail : Fin 2) (fb : Nat)
  | underVoltage (rail : Fin 2) (fb : Nat)
  | auxPeriod
  | phTest (a : Access) (n : Fin 8) (data : Word)
  | selfTrim
  | trimResult (m : Option TrimMeas)
  | journalWrite
  | journalCommit
  | forget (a : Access)
  | dramTraining (first second : TrainTry)
  | trainingComplete (r : TrainRes)
  | zqCalibration
  | dqsOscillator (count : Nat) (wdq : Option (List Nat))
  | refresh (sc : Fin 2) (n : Nat)
  | mr4Poll (a b : Fin 8)
  | dramRequest (u : DUser) (addr : Nat) (wr : Option (List (Option Byte)))
  | dramCompletion (k : Nat) (errs : List (Nat × List Nat))
  | scrubRead (errs : List Nat)
  | pageIdleExpire (sc : Fin 2) (bank : Fin 8)
  | errorInjection (a : Access) (data : Word)
  | spiaFrame (dev : Option Nat) (op : MOp) (short : Option Nat) (lost : Option Nat) (env : Env)
  | read (inc : Bool) (count addr : Nat) (lost : Option Nat)
  | write (inc : Bool) (addr : Nat) (data : List Word) (env : Env)
  | writem (addr : Nat) (mask data : Word) (env : Env)
  | piece (p : Piece)
  | nop
  | status
  | spiaPoll (op : MOp) (env : Env)
  | spibRead (a : Access) (data : Word) (flash : List Byte)
  | program (a : Access) (data : Word)
  | erase4k (a : Access) (data : Word)
  | erase64k (a : Access) (data : Word)
  | readsr (a : Access) (data : Word) (sr : Byte)
  | statusPoll (sr : Byte)
  | flashTimeout
  | fetch (off : Nat) (flash : List Byte) (lat held : Nat)
  | request (a : Access) (twi : Bool)
  | release (a : Access) (twi : Bool)
  | busclear (a : Access) (freed : Bool)
  | grantExpire (twi : Bool) (rx : StopRx)
  | spicTransfer (a : Access) (data : Word)
  | spicTransferDone (rx : List Bool)
  | twiTransfer (a : Access) (data : Word) (sdaLow : Option Bool)
  | twiTransferDone (r : TwiEnd)
  | stretchTimeout (index : Nat) (freed : Bool)
  | establish (f : Frame) (sctr signer mkey : Nat)
  | object (f : Frame) (o : Obj)
  | submit (a : Access) (data : Word) (o : Obj)
  | voucher
  | transfer
  | enrol
  | unenrol
  | keywrap
  | debug
  | policy
  | otpcfg
  | attest (f : Frame) (nonce : List Word)
  | cert (f : Frame)
  | report (a : Access)
  | attCert (a : Access)
  | attestationReady
  | dbgchal (a : Access)
  | raise (a : Access)
  | challengeExpire
  | boot (slotA slotB : ImgRead)
  | begin (a : Access)
  | updAbort (a : Access)
  | arm (a : Access)
  | armComplete (r : ImgRead)
  | disarm (a : Access)
  | activatePause (a : Access) (trig : Fin 4)
  | activateHandover (a : Access) (trig : Fin 4)
  | applycfg (a : Access) (trig : Fin 4) (b : BundleRead)
  | updCancel (a : Access)
  | activation
  | activationComplete (badHash : Option Nat)
  | handoverStage
  | companionStatusPoll (reply : Option (Nat × Nat))
  | pieceProgrammed
  | pieceJournalTimer
  | bundleApply
  | bundleLoaded
  | bundleReload (b : BundleRead)
  | porn (straps : Fin 4096)
  | domainPowerGood (d : Fin 11)
  | pgoodTimeout (d : Fin 11)
  | trimEnd (freed : Bool)
  | brownoutWarning
  | brownoutReset
  | overTemperatureTrip (stone : Option (Fin 16))
  | shutdownDark
  | lockstepMismatch
  | halt (a : Access) (core : Fin 5)
  | resume (a : Access) (core : Fin 5)
  | bypass (tdi : Bool)
  | idcode
  | samplePreload (pins preload : Nat)
  | extest (tdi : Bool)
  | sensorProbe (ack : BitVec 8)
  | vdd33Return
  | overTemperatureClear (stone : Fin 16)
  | sfltnRelease
  | highBitErrorRate (p : Fin 4)
  | delayReq (m : PtpMsg)
  deriving DecidableEq, Repr

end Sys2Proof
end

