-- ==== Sys2Proof/Decode.lean ====
section
/-! DEFINITION. The command that a word of the command table spells. The rows of the table give no bits (the block is
commanded by accesses, frames and events, not by encoded words), so there is none. -/

namespace Sys2Proof

/-- The command that the word `w` of `nbits` bits spells by the table's bits: no row of the table gives bits, so every word is
rejected. -/
def decodeTableWord (_nbits _w : Nat) : Option Instr := none

end Sys2Proof
end

