-- ==== Sys2Proof/Machine/Bits.lean ====
section
/-! DEFINITION. Bit fields, two's complement, saturating counters and wrapping 32-bit arithmetic (R7, R9, R51): register
contents are 32-bit words; computed quantities are exact numbers narrowed explicitly. -/

namespace Sys2Proof

/-- Bits `hi` down to `lo` of `v`, as a number. -/
def bitsOf (v hi lo : Nat) : Nat := (v >>> lo) % 2 ^ (hi + 1 - lo)

/-- `v` with bits `hi` down to `lo` replaced by `x` (narrowed to the field). -/
def putBits (v hi lo x : Nat) : Nat :=
  v - bitsOf v hi lo * 2 ^ lo + (x % 2 ^ (hi + 1 - lo)) * 2 ^ lo

/-- Bit `i` of `v`. -/
def bit (v i : Nat) : Bool := bitsOf v i i == 1

/-- `n` saturated at the largest value of `w` bits. -/
def satN (w n : Nat) : Nat := min n (2 ^ w - 1)

/-- The signed number whose `w`-bit two's complement is `n`. -/
def sgn (w n : Nat) : Int := if n % 2 ^ w < 2 ^ (w - 1) then (n % 2 ^ w : Nat) else (n % 2 ^ w : Nat) - (2 ^ w : Nat)

/-- The `w`-bit two's complement of `i`. -/
def twos (w : Nat) (i : Int) : Nat := (i % (2 ^ w : Nat)).toNat

/-- A signed number saturated to `w` bits. -/
def satI (w : Nat) (i : Int) : Int := max (-(2 ^ (w - 1) : Nat)) (min i ((2 ^ (w - 1) : Nat) - 1))

/-- Division rounded up; 0 when the divisor is 0. -/
def ceilDiv (a b : Nat) : Nat := if b = 0 then 0 else (a + b - 1) / b

/-- `a - b` in 32-bit wrapping arithmetic (DCN differences, R51). -/
def sub32 (a b : Nat) : Nat := (a + 2 ^ 32 - b % 2 ^ 32) % 2 ^ 32

/-- `a + b` in 32-bit wrapping arithmetic. -/
def add32 (a b : Nat) : Nat := (a + b) % 2 ^ 32

/-- DCN `n` lies in the future of DCN `cur` (R51). -/
def dcnFuture (n cur : Nat) : Bool := 1 ≤ sub32 n cur && sub32 n cur < 2 ^ 31

/-- 1 for true, 0 for false. -/
def b2n (b : Bool) : Nat := if b then 1 else 0

/-- Bytes of `v`, most significant first (R78). -/
def be (k v : Nat) : List Nat := (List.range k).map fun i => v / 256 ^ (k - 1 - i) % 256

/-- One bit of CRC-32C. -/
def crcBit (c : Nat) : Nat := if c % 2 = 1 then Nat.xor (c / 2) 0x82F63B78 else c / 2

/-- CRC-32C of bytes: the Castagnoli polynomial reflected, initial value and final XOR all ones (log entry 66). -/
def crc32c (l : List Nat) : Nat :=
  Nat.xor (l.foldl (fun c b => (List.range 8).foldl (fun c _ => crcBit c) (Nat.xor c b)) 0xFFFFFFFF) 0xFFFFFFFF

/-- Element `i` of a list, `d` beyond its end. -/
def nth {α : Type} (l : List α) (i : Nat) (d : α) : α := (l[i]?).getD d

end Sys2Proof
end

