-- ==== Sys2Proof/Machine/PlanTypes.lean ====
section
/-! DEFINITION. The data of plans and of the span engine: wiring map (R194), job inputs (R133, R154), plans and occurrences
(R17 to R19, R175), placed pulses (R183), and the per-lamp and per-sink records of health and read-back (R211, R215). -/

namespace Sys2Proof.Machine

/-- A sparse memory of numbered cells: keys strictly rising, no entry equal to what an unlisted key reads as. -/
abbrev Cells (α : Type) := List (Nat × α)

/-- A coefficient entry with its fields apart (Table 7.1). -/
structure Coef where
  cr : Int
  cg : Int
  cb : Int
  ofs : Nat
  off : Bool
  deriving DecidableEq, Repr

/-- A pixel of a pattern frame: red, green, blue (16 bits), alpha (8 bits). -/
structure Px where
  r : Nat
  g : Nat
  b : Nat
  a : Nat
  deriving DecidableEq, Repr

/-- Current choice and minimum pulses: DIM_CUR's fields. -/
structure DimCur where
  fineEn : Bool
  fullmin : Nat
  pmin : Nat
  deriving DecidableEq, Repr

/-- One enabled region of the wiring map (R194). `g` its number. -/
structure Rgn where
  g : Nat
  jf : Nat
  jl : Nat
  rf : Nat
  rl : Nat
  x0 : Nat
  y0 : Nat
  swap : Bool
  yneg : Bool
  xneg : Bool
  deriving DecidableEq, Repr

/-- The wiring map: grid and enabled regions. -/
structure WireMap where
  w : Nat
  h : Nat
  rgns : List Rgn
  deriving DecidableEq, Repr

/-- The picture a job computes from (R133): nothing, picture `p` of feed `n` sent for `dcn`, in set `set`, or the frame of a pattern
engine. -/
inductive Src
  | dark
  | feed (n p dcn fmt set : Nat) (bytes : Cells Byte)
  | patt (e dcn : Nat) (px : List Px)
  deriving DecidableEq, Repr

/-- Everything a job reads, fixed when it starts (R133, R154, R25). `degam`: none is identity, else three tables, of bank `dgBank`; `ovl`: engine,
promised DCN and frame of a shown overlay; `coef`: none is the bypass of R152; `copy`: the number of the coefficient copy;
`srcNew`, `ovlNew`: released for a new source frame (R132), for a new overlay frame (R133); `curGen`: the generation of DIM_CUR (R175). -/
structure JobIn where
  src : Src
  pal : List (Nat × Nat × Nat)
  degam : Option (List (List Nat))
  dgBank : Nat
  ovl : Option (Nat × Nat × List Px)
  walpha : Nat
  dith : Bool
  cur : DimCur
  n : Nat
  lg : Nat
  coef : Option (Cells Coef)
  copy : Nat
  wire : WireMap
  dcn : Nat
  srcNew : Bool
  ovlNew : Bool
  curGen : Nat
  deriving DecidableEq, Repr

/-- A finished plan with what the directory records (R17, R175, R218). `engines`: engine of each slice; `zero`: lamps of value 0 because
an input read wrong (R165, Table 13.7). -/
structure Plan where
  id : Nat
  units : List Nat
  inp : JobIn
  ents : List Nat
  engines : List Nat
  zero : List Nat
  deriving DecidableEq, Repr

/-- One occurrence of a window being played (R175): entries as played. -/
structure Occ where
  win : Nat
  plan : Plan
  dcn : Nat
  n : Nat
  lg : Nat
  cur : DimCur
  derive_ : Bool
  ents : List Nat
  wire : WireMap
  deriving DecidableEq, Repr

/-- One edge word (Table 8.3). -/
structure EdgeWord where
  valid : Bool
  fine : Bool
  off : Nat
  on : Nat
  deriving DecidableEq, Repr

/-- A sink's word in a span. `lamp`: the wiring-map lamp, if its slot is mapped in this row; `sampled`: the
health engine samples it; `counted`: read-back counts the span (R209, R215). -/
structure PSink where
  sink : Nat
  lamp : Option Nat
  col : Nat
  word : EdgeWord
  ovr : Bool
  sampled : Bool
  counted : Bool
  deriving DecidableEq, Repr

/-- The words of the next span, prepared during the one in progress (R181): its place, the occurrence they come from (window, plan, DCN, N,
lg, generation of DIM_CUR), and each sink of the row. -/
structure Prep where
  sweep : Nat
  span : Nat
  occ : List Nat
  sinks : List PSink
  deriving DecidableEq, Repr

/-- What a window's span drives (R191, R192): its row, the grain from which the row is selected, the grain at which pre-charge ends, the
stones that pre-charge, and the level of each colour in 50 mV. -/
structure RowDrive where
  row : Nat
  selAt : Nat
  preEnd : Nat
  stones : List Nat
  level : List Nat
  deriving DecidableEq, Repr

/-- Row monitor of one pin (R193): runs of mismatching and matching samples at each expected level; the failed level
(true: expected high, found low). -/
structure RowMon where
  hiBad : Nat
  hiOk : Nat
  loBad : Nat
  loOk : Nat
  faulty : Option Bool
  deriving DecidableEq, Repr

/-- Health of one lamp (Table 10.1): open and short counts, confirmed marks. -/
structure LampH where
  oc : Nat
  sc : Nat
  oconf : Bool
  sconf : Bool
  deriving DecidableEq, Repr

/-- Planned and measured conduction of one sink in a cycle (R215, R216). -/
structure RdSink where
  ps : Nat
  pf : Nat
  ms : Nat
  mf : Nat
  np : Nat
  deriving DecidableEq, Repr

end Sys2Proof.Machine
end

