-- ==== Sys2Proof/Machine/Cells.lean ====
section
/-! DEFINITION. Sparse memories of numbered cells in one canonical form: keys strictly rising, and no entry equal to what an
unlisted key reads as (`d`, a function of the key). Registers, DRAM, flash and per-lamp tables are held this way. -/

namespace Sys2Proof.Machine

/-- Value of cell `k`, `d` when it is not listed. -/
def cget {α : Type} (m : Cells α) (k : Nat) (d : α) : α :=
  match m with
  | [] => d
  | (a, v) :: rest => if a = k then v else cget rest k d

/-- `m` without cell `k`. -/
def cdel {α : Type} (m : Cells α) (k : Nat) : Cells α :=
  match m with
  | [] => []
  | (a, v) :: rest => if a = k then cdel rest k else (a, v) :: cdel rest k

/-- `m` with cell `k` listed as `v`, in order. -/
def cins {α : Type} (m : Cells α) (k : Nat) (v : α) : Cells α :=
  match m with
  | [] => [(k, v)]
  | (a, w) :: rest =>
    if k < a then (k, v) :: (a, w) :: rest
    else if k = a then (k, v) :: rest
    else (a, w) :: cins rest k v

/-- Write `v` to cell `k`, where an unlisted `k` reads as `d`: writing `d` removes the entry. -/
def cput {α : Type} [DecidableEq α] (m : Cells α) (k : Nat) (v d : α) : Cells α :=
  if v = d then cdel m k else cins m k v

/-- The canonical form: keys strictly rising from `lo` on, no entry equal to its default. -/
def cwfFrom {α : Type} [DecidableEq α] (d : Nat → α) : Nat → Cells α → Bool
  | _, [] => true
  | lo, (a, v) :: rest => decide (lo ≤ a) && decide (v ≠ d a) && cwfFrom d (a + 1) rest

/-- The canonical form of a sparse memory. -/
def cwf {α : Type} [DecidableEq α] (d : Nat → α) (m : Cells α) : Bool := cwfFrom d 0 m

end Sys2Proof.Machine
end

