-- ==== Sys2Proof/Config.lean ====
section
/-! DEFINITION. The constants an implementation fixes, and the free values: values the spec leaves open are opaque, so that
nothing proved in this model can depend on one (log entry 2). A free value is applied to a counter of State, or to the
operands it depends on. -/

namespace Sys2Proof.Config

/-- Grains in one nanosecond: a grain is 1/32 of the 2 ns edge-clock period (R5, R99). -/
def grainsPerNs : Nat := 16

/-- Grains in one microsecond. -/
def us : Nat := 16000

/-- Grains in one millisecond. -/
def ms : Nat := 16000000

/-- Grains in one second. -/
def sec : Nat := 16000000000

/-- Tenant slots (R57). -/
def nTen : Nat := 16

/-- Firkin handles (R47). -/
def nHandles : Nat := 128

/-- Handles one tenant may hold (R47). -/
def tenHandles : Nat := 8

/-- Staged writes one firkin may hold (R48). -/
def maxStaged : Nat := 512

/-- Entries of one event queue (R56). -/
def evqLen : Nat := 256

/-- FREE VALUE. A number the spec leaves open; the argument is a counter that the step reads and advances. -/
opaque freeValue : Nat → Nat

/-- FREE VALUE. A bit the spec leaves open. -/
opaque freeBit : Nat → Bool

/-- The Zararis voucher key, as a number that names it (Table 15.2). -/
def zVoucherKey : Nat := 1

/-- The Zararis debug key. -/
def zDebugKey : Nat := 2

/-- FREE VALUE. The identifier of a public key (R328). -/
opaque keyId : Nat → Nat

/-- FREE VALUE. Byte `i` of a public key's uncompressed point. -/
opaque pubByte : Nat → Nat → Nat

/-- FREE VALUE. Byte `i` of SHA-384 of a list of bytes. -/
opaque sha384 : List Nat → Nat → Nat

/-- FREE VALUE. Length of the IDK certificate in bytes; at most 1,024 (R306). -/
opaque certLen : Nat

/-- FREE VALUE. Byte `i` of the IDK certificate followed by the KAK statement. -/
opaque certByte : Nat → Nat

/-- FREE VALUE. Byte `i` of the image whose SHA-384 is a list of bytes (R333). -/
opaque imageByte : List Nat → Nat → Nat

/-- FREE VALUE. The board carries the SPIB flash of R397 (R398). -/
opaque flashFitted : Bool

end Sys2Proof.Config
end

