-- ==== Sys2Proof/Machine/MapTypes.lean ====
section
/-! DEFINITION. The types of the register map: how a field table of spec/ is written as data (Tables 2.3 and 2.4, R35, R54). -/

namespace Sys2Proof.Machine

/-- Access types of Table 2.3. -/
inductive Acc
  | ro | rw | w1c | w1s | wo | rc
  deriving DecidableEq, Repr

/-- Staging classes of R35: not staged, 'Staged.', 'Staged at cycle.'. -/
inductive Cls
  | plain | staged | cycle
  deriving DecidableEq, Repr

/-- Values a field table refuses, with the code it gives. -/
inductive Bad
  | rng (lo hi code : Nat)
  | odd (code : Nat)
  deriving DecidableEq, Repr

/-- One field of a register. -/
structure Fld where
  hi : Nat
  lo : Nat
  acc : Acc
  cls : Cls
  bad : List Bad
  deriving DecidableEq, Repr

/-- One row of a page's register table: `cnt` registers from `off`, `stride` bytes apart. -/
structure Reg where
  name : String
  off : Nat
  cnt : Nat
  stride : Nat
  reset : Nat
  banked : Bool
  flds : List Fld
  deriving DecidableEq, Repr

/-- A reference to a field: first page index, offset, stride of the register array, bits. -/
structure FRef where
  page : Nat
  off : Nat
  stride : Nat
  hi : Nat
  lo : Nat
  deriving DecidableEq, Repr

end Sys2Proof.Machine
end

