-- ==== Sys2Proof/Machine/MapA.lean ====
section
/-! DEFINITION. The register map, part A: the system, tenant, link and time pages, as the field tables of spec/ give them:
one reference per register and per field, and one row per register with its access types, staging class (R35) and
the values its field table refuses (Table 2.18, R54). -/

namespace Sys2Proof.Machine

/-! ### SYS: 02_register_pages_and_firkins.md, Table 2.19 -/

def SYS_PART : FRef := ⟨0x00, 0x040, 0, 31, 0⟩
def SYS_PART_PART : FRef := ⟨0x00, 0x040, 0, 31, 16⟩
def SYS_PART_REV : FRef := ⟨0x00, 0x040, 0, 15, 8⟩
def SYS_PART_PKG : FRef := ⟨0x00, 0x040, 0, 7, 0⟩
def SYS_UID0 : FRef := ⟨0x00, 0x044, 0, 31, 0⟩
def SYS_UID0_UID_LO : FRef := ⟨0x00, 0x044, 0, 31, 0⟩
def SYS_UID1 : FRef := ⟨0x00, 0x048, 0, 31, 0⟩
def SYS_UID1_UID_HI : FRef := ⟨0x00, 0x048, 0, 31, 0⟩
def SYS_STRAP : FRef := ⟨0x00, 0x04C, 0, 31, 0⟩
def SYS_STRAP_CFG : FRef := ⟨0x00, 0x04C, 0, 11, 0⟩
def SYS_MODE : FRef := ⟨0x00, 0x050, 0, 31, 0⟩
def SYS_MODE_MODE_ACT : FRef := ⟨0x00, 0x050, 0, 10, 8⟩
def SYS_MODE_MODE_REQ : FRef := ⟨0x00, 0x050, 0, 2, 0⟩
def SYS_DCN : FRef := ⟨0x00, 0x054, 0, 31, 0⟩
def SYS_DCN_DCN : FRef := ⟨0x00, 0x054, 0, 31, 0⟩
def SYS_SPIA : FRef := ⟨0x00, 0x058, 0, 31, 0⟩
def SYS_SPIA_EN : FRef := ⟨0x00, 0x058, 0, 4, 4⟩
def SYS_SPIA_TEN : FRef := ⟨0x00, 0x058, 0, 3, 0⟩
def SYS_WRERR : FRef := ⟨0x00, 0x05C, 0, 31, 0⟩
def SYS_WRERR_CODE : FRef := ⟨0x00, 0x05C, 0, 31, 16⟩
def SYS_WRERR_DETAIL : FRef := ⟨0x00, 0x05C, 0, 15, 0⟩
def SYS_SCRATCH : FRef := ⟨0x00, 0x060, 0, 31, 0⟩
def SYS_SCRATCH_DATA : FRef := ⟨0x00, 0x060, 0, 31, 0⟩

/-- The block registers of SYS: name, offset, count, stride, reset value, banked, fields. -/
def regsSYS : List Reg := [
  ⟨"SYS_PART", 0x040, 1, 4, 0x1536A101, false,
    [⟨31, 16, .ro, .plain, []⟩, ⟨15, 8, .ro, .plain, []⟩, ⟨7, 0, .ro, .plain, []⟩]⟩,
  ⟨"SYS_UID0", 0x044, 1, 4, 0x00000000, false,
    [⟨31, 0, .ro, .plain, []⟩]⟩,
  ⟨"SYS_UID1", 0x048, 1, 4, 0x00000000, false,
    [⟨31, 0, .ro, .plain, []⟩]⟩,
  ⟨"SYS_STRAP", 0x04C, 1, 4, 0x00000000, false,
    [⟨11, 0, .ro, .plain, []⟩]⟩,
  ⟨"SYS_MODE", 0x050, 1, 4, 0x00000100, false,
    [⟨10, 8, .ro, .plain, []⟩, ⟨2, 0, .rw, .plain, [.rng 1 2 0x1003, .rng 6 7 0x1003]⟩]⟩,
  ⟨"SYS_DCN", 0x054, 1, 4, 0x00000000, false,
    [⟨31, 0, .ro, .plain, []⟩]⟩,
  ⟨"SYS_SPIA", 0x058, 1, 4, 0x00000010, false,
    [⟨4, 4, .rw, .plain, []⟩, ⟨3, 0, .rw, .plain, []⟩]⟩,
  ⟨"SYS_WRERR", 0x05C, 1, 4, 0x00000000, true,
    [⟨31, 16, .rc, .plain, []⟩, ⟨15, 0, .rc, .plain, []⟩]⟩,
  ⟨"SYS_SCRATCH", 0x060, 1, 4, 0x00000000, true,
    [⟨31, 0, .rw, .plain, []⟩]⟩]

/-! ### RST: 02_register_pages_and_firkins.md, Table 2.23 -/

def RST_CMD : FRef := ⟨0x01, 0x040, 0, 31, 0⟩
def RST_CMD_KEY : FRef := ⟨0x01, 0x040, 0, 31, 16⟩
def RST_CMD_ACTION : FRef := ⟨0x01, 0x040, 0, 3, 0⟩
def RST_CAUSE : FRef := ⟨0x01, 0x044, 0, 31, 0⟩
def RST_CAUSE_CAUSE : FRef := ⟨0x01, 0x044, 0, 7, 0⟩
def RST_COUNT : FRef := ⟨0x01, 0x048, 0, 31, 0⟩
def RST_COUNT_COLD : FRef := ⟨0x01, 0x048, 0, 31, 16⟩
def RST_COUNT_MGMT : FRef := ⟨0x01, 0x048, 0, 15, 0⟩
def RST_WDOG : FRef := ⟨0x01, 0x04C, 0, 31, 0⟩
def RST_WDOG_TIMEOUT : FRef := ⟨0x01, 0x04C, 0, 15, 0⟩
def RST_KICK : FRef := ⟨0x01, 0x050, 0, 31, 0⟩
def RST_KICK_KICK : FRef := ⟨0x01, 0x050, 0, 0, 0⟩

/-- The block registers of RST: name, offset, count, stride, reset value, banked, fields. -/
def regsRST : List Reg := [
  ⟨"RST_CMD", 0x040, 1, 4, 0x00000000, false,
    [⟨31, 16, .wo, .plain, []⟩, ⟨3, 0, .wo, .plain, []⟩]⟩,
  ⟨"RST_CAUSE", 0x044, 1, 4, 0x00000001, false,
    [⟨7, 0, .ro, .plain, []⟩]⟩,
  ⟨"RST_COUNT", 0x048, 1, 4, 0x00000000, false,
    [⟨31, 16, .ro, .plain, []⟩, ⟨15, 0, .ro, .plain, []⟩]⟩,
  ⟨"RST_WDOG", 0x04C, 1, 4, 0x000003E8, false,
    [⟨15, 0, .rw, .plain, []⟩]⟩,
  ⟨"RST_KICK", 0x050, 1, 4, 0x00000000, false,
    [⟨0, 0, .wo, .plain, []⟩]⟩]

/-! ### FIRKIN: 02_register_pages_and_firkins.md, Table 2.26 -/

def FK_CMD : FRef := ⟨0x06, 0x040, 0, 31, 0⟩
def FK_CMD_HANDLE : FRef := ⟨0x06, 0x040, 0, 14, 8⟩
def FK_CMD_OP : FRef := ⟨0x06, 0x040, 0, 3, 0⟩
def FK_RESULT : FRef := ⟨0x06, 0x044, 0, 31, 0⟩
def FK_RESULT_CODE : FRef := ⟨0x06, 0x044, 0, 31, 16⟩
def FK_RESULT_DETAIL : FRef := ⟨0x06, 0x044, 0, 15, 0⟩
def FK_LEASE : FRef := ⟨0x06, 0x048, 0, 31, 0⟩
def FK_LEASE_MS : FRef := ⟨0x06, 0x048, 0, 15, 0⟩
def FK_TRIG : FRef := ⟨0x06, 0x04C, 0, 31, 0⟩
def FK_TRIG_TYPE : FRef := ⟨0x06, 0x04C, 0, 1, 0⟩
def FK_TDCN : FRef := ⟨0x06, 0x050, 0, 31, 0⟩
def FK_TDCN_DCN : FRef := ⟨0x06, 0x050, 0, 31, 0⟩
def FK_TSEC_H : FRef := ⟨0x06, 0x054, 0, 31, 0⟩
def FK_TSEC_H_SEC_H : FRef := ⟨0x06, 0x054, 0, 15, 0⟩
def FK_TSEC_L : FRef := ⟨0x06, 0x058, 0, 31, 0⟩
def FK_TSEC_L_SEC_L : FRef := ⟨0x06, 0x058, 0, 31, 0⟩
def FK_TNS : FRef := ⟨0x06, 0x05C, 0, 31, 0⟩
def FK_TNS_NS : FRef := ⟨0x06, 0x05C, 0, 31, 0⟩
def FK_SEL : FRef := ⟨0x06, 0x060, 0, 31, 0⟩
def FK_SEL_HANDLE : FRef := ⟨0x06, 0x060, 0, 6, 0⟩
def FK_SADDR : FRef := ⟨0x06, 0x064, 0, 31, 0⟩
def FK_SADDR_PAGE : FRef := ⟨0x06, 0x064, 0, 19, 12⟩
def FK_SADDR_WORD : FRef := ⟨0x06, 0x064, 0, 11, 2⟩
def FK_SADDR_INC : FRef := ⟨0x06, 0x064, 0, 0, 0⟩
def FK_SMASK : FRef := ⟨0x06, 0x068, 0, 31, 0⟩
def FK_SMASK_MASK : FRef := ⟨0x06, 0x068, 0, 31, 0⟩
def FK_SDATA : FRef := ⟨0x06, 0x06C, 0, 31, 0⟩
def FK_SDATA_DATA : FRef := ⟨0x06, 0x06C, 0, 31, 0⟩
def FK_STAT : FRef := ⟨0x06, 0x070, 0, 31, 0⟩
def FK_STAT_STATE : FRef := ⟨0x06, 0x070, 0, 14, 12⟩
def FK_STAT_COUNT : FRef := ⟨0x06, 0x070, 0, 9, 0⟩
def FK_LEFT : FRef := ⟨0x06, 0x074, 0, 31, 0⟩
def FK_LEFT_MS : FRef := ⟨0x06, 0x074, 0, 15, 0⟩
def FK_FAIL : FRef := ⟨0x06, 0x078, 0, 31, 0⟩
def FK_FAIL_CODE : FRef := ⟨0x06, 0x078, 0, 31, 16⟩
def FK_FAIL_INDEX : FRef := ⟨0x06, 0x078, 0, 9, 0⟩
def FK_USE : FRef := ⟨0x06, 0x07C, 0, 31, 0⟩
def FK_USE_MINE : FRef := ⟨0x06, 0x07C, 0, 11, 8⟩
def FK_USE_ALL : FRef := ⟨0x06, 0x07C, 0, 7, 0⟩

/-- The block registers of FIRKIN: name, offset, count, stride, reset value, banked, fields. -/
def regsFIRKIN : List Reg := [
  ⟨"FK_CMD", 0x040, 1, 4, 0x00000000, false,
    [⟨14, 8, .wo, .plain, []⟩, ⟨3, 0, .wo, .plain, [.rng 0 0 0x1003, .rng 6 15 0x1003]⟩]⟩,
  ⟨"FK_RESULT", 0x044, 1, 4, 0x00000000, true,
    [⟨31, 16, .ro, .plain, []⟩, ⟨15, 0, .ro, .plain, []⟩]⟩,
  ⟨"FK_LEASE", 0x048, 1, 4, 0x000007D0, true,
    [⟨15, 0, .rw, .plain, [.rng 60001 65535 0x1002]⟩]⟩,
  ⟨"FK_TRIG", 0x04C, 1, 4, 0x00000000, true,
    [⟨1, 0, .rw, .plain, []⟩]⟩,
  ⟨"FK_TDCN", 0x050, 1, 4, 0x00000000, true,
    [⟨31, 0, .rw, .plain, []⟩]⟩,
  ⟨"FK_TSEC_H", 0x054, 1, 4, 0x00000000, true,
    [⟨15, 0, .rw, .plain, []⟩]⟩,
  ⟨"FK_TSEC_L", 0x058, 1, 4, 0x00000000, true,
    [⟨31, 0, .rw, .plain, []⟩]⟩,
  ⟨"FK_TNS", 0x05C, 1, 4, 0x00000000, true,
    [⟨31, 0, .rw, .plain, []⟩]⟩,
  ⟨"FK_SEL", 0x060, 1, 4, 0x00000000, true,
    [⟨6, 0, .rw, .plain, []⟩]⟩,
  ⟨"FK_SADDR", 0x064, 1, 4, 0x00000000, true,
    [⟨19, 12, .rw, .plain, []⟩, ⟨11, 2, .rw, .plain, []⟩, ⟨0, 0, .rw, .plain, []⟩]⟩,
  ⟨"FK_SMASK", 0x068, 1, 4, 0xFFFFFFFF, true,
    [⟨31, 0, .rw, .plain, []⟩]⟩,
  ⟨"FK_SDATA", 0x06C, 1, 4, 0x00000000, false,
    [⟨31, 0, .wo, .plain, []⟩]⟩,
  ⟨"FK_STAT", 0x070, 1, 4, 0x00000000, true,
    [⟨14, 12, .ro, .plain, []⟩, ⟨9, 0, .ro, .plain, []⟩]⟩,
  ⟨"FK_LEFT", 0x074, 1, 4, 0x00000000, true,
    [⟨15, 0, .ro, .plain, []⟩]⟩,
  ⟨"FK_FAIL", 0x078, 1, 4, 0x00000000, true,
    [⟨31, 16, .ro, .plain, []⟩, ⟨9, 0, .ro, .plain, []⟩]⟩,
  ⟨"FK_USE", 0x07C, 1, 4, 0x00000000, false,
    [⟨11, 8, .ro, .plain, []⟩, ⟨7, 0, .ro, .plain, []⟩]⟩]

/-! ### EVTQ: 02_register_pages_and_firkins.md, Table 2.31 -/

def EQ_SEL : FRef := ⟨0x07, 0x040, 0, 31, 0⟩
def EQ_SEL_TEN : FRef := ⟨0x07, 0x040, 0, 3, 0⟩
def EQ_COUNT : FRef := ⟨0x07, 0x044, 0, 31, 0⟩
def EQ_COUNT_COUNT : FRef := ⟨0x07, 0x044, 0, 8, 0⟩
def EQ_E0 : FRef := ⟨0x07, 0x048, 0, 31, 0⟩
def EQ_E0_CODE : FRef := ⟨0x07, 0x048, 0, 31, 16⟩
def EQ_E0_DETAIL : FRef := ⟨0x07, 0x048, 0, 15, 0⟩
def EQ_E1 : FRef := ⟨0x07, 0x04C, 0, 31, 0⟩
def EQ_E1_OVF : FRef := ⟨0x07, 0x04C, 0, 31, 31⟩
def EQ_E1_KIND : FRef := ⟨0x07, 0x04C, 0, 19, 16⟩
def EQ_E1_UNIT : FRef := ⟨0x07, 0x04C, 0, 15, 8⟩
def EQ_E1_PAGE : FRef := ⟨0x07, 0x04C, 0, 7, 0⟩
def EQ_E2 : FRef := ⟨0x07, 0x050, 0, 31, 0⟩
def EQ_E2_DCN : FRef := ⟨0x07, 0x050, 0, 31, 0⟩
def EQ_E3 : FRef := ⟨0x07, 0x054, 0, 31, 0⟩
def EQ_E3_NS : FRef := ⟨0x07, 0x054, 0, 31, 0⟩
def EQ_POP : FRef := ⟨0x07, 0x058, 0, 31, 0⟩
def EQ_POP_POP : FRef := ⟨0x07, 0x058, 0, 0, 0⟩
def EQ_LOST : FRef := ⟨0x07, 0x05C, 0, 31, 0⟩
def EQ_LOST_LOST : FRef := ⟨0x07, 0x05C, 0, 15, 0⟩
def EQ_CTRL : FRef := ⟨0x07, 0x060, 0, 31, 0⟩
def EQ_CTRL_DELIVER : FRef := ⟨0x07, 0x060, 0, 0, 0⟩

/-- The block registers of EVTQ: name, offset, count, stride, reset value, banked, fields. -/
def regsEVTQ : List Reg := [
  ⟨"EQ_SEL", 0x040, 1, 4, 0x00000000, true,
    [⟨3, 0, .rw, .plain, []⟩]⟩,
  ⟨"EQ_COUNT", 0x044, 1, 4, 0x00000000, false,
    [⟨8, 0, .ro, .plain, []⟩]⟩,
  ⟨"EQ_E0", 0x048, 1, 4, 0x00000000, false,
    [⟨31, 16, .ro, .plain, []⟩, ⟨15, 0, .ro, .plain, []⟩]⟩,
  ⟨"EQ_E1", 0x04C, 1, 4, 0x00000000, false,
    [⟨31, 31, .ro, .plain, []⟩, ⟨19, 16, .ro, .plain, []⟩, ⟨15, 8, .ro, .plain, []⟩, ⟨7, 0, .ro, .plain, []⟩]⟩,
  ⟨"EQ_E2", 0x050, 1, 4, 0x00000000, false,
    [⟨31, 0, .ro, .plain, []⟩]⟩,
  ⟨"EQ_E3", 0x054, 1, 4, 0x00000000, false,
    [⟨31, 0, .ro, .plain, []⟩]⟩,
  ⟨"EQ_POP", 0x058, 1, 4, 0x00000000, false,
    [⟨0, 0, .wo, .plain, []⟩]⟩,
  ⟨"EQ_LOST", 0x05C, 1, 4, 0x00000000, false,
    [⟨15, 0, .rc, .plain, []⟩]⟩,
  ⟨"EQ_CTRL", 0x060, 1, 4, 0x00000001, true,
    [⟨0, 0, .rw, .plain, []⟩]⟩]

/-! ### TEN: 03_tenants.md, Table 3.6 -/

def TEN_STATE : FRef := ⟨0x10, 0x040, 0, 31, 0⟩
def TEN_STATE_QTRIG : FRef := ⟨0x10, 0x040, 0, 15, 12⟩
def TEN_STATE_VIA_LINK : FRef := ⟨0x10, 0x040, 0, 9, 9⟩
def TEN_STATE_VIA_SPIA : FRef := ⟨0x10, 0x040, 0, 8, 8⟩
def TEN_STATE_ROLE : FRef := ⟨0x10, 0x040, 0, 6, 4⟩
def TEN_STATE_STATE : FRef := ⟨0x10, 0x040, 0, 2, 0⟩
def TEN_RUN : FRef := ⟨0x10, 0x044, 0, 31, 0⟩
def TEN_RUN_RUN_ACT : FRef := ⟨0x10, 0x044, 0, 8, 8⟩
def TEN_RUN_RUN_REQ : FRef := ⟨0x10, 0x044, 0, 0, 0⟩
def TEN_CMD : FRef := ⟨0x10, 0x048, 0, 31, 0⟩
def TEN_CMD_OP : FRef := ⟨0x10, 0x048, 0, 3, 0⟩
def TEN_KEEP : FRef := ⟨0x10, 0x04C, 0, 31, 0⟩
def TEN_KEEP_MS : FRef := ⟨0x10, 0x04C, 0, 19, 0⟩
def TEN_LEFT : FRef := ⟨0x10, 0x050, 0, 31, 0⟩
def TEN_LEFT_MS : FRef := ⟨0x10, 0x050, 0, 19, 0⟩
def TEN_QCFG : FRef := ⟨0x10, 0x054, 0, 31, 0⟩
def TEN_QCFG_FLOOD : FRef := ⟨0x10, 0x054, 0, 15, 8⟩
def TEN_QCFG_PERMF : FRef := ⟨0x10, 0x054, 0, 7, 0⟩
def TEN_SEQ : FRef := ⟨0x10, 0x058, 0, 31, 0⟩
def TEN_SEQ_HIGH : FRef := ⟨0x10, 0x058, 0, 31, 16⟩
def TEN_SEQ_MISSING : FRef := ⟨0x10, 0x058, 0, 6, 0⟩
def TEN_ERR : FRef := ⟨0x10, 0x05C, 0, 31, 0⟩
def TEN_ERR_AUTHF : FRef := ⟨0x10, 0x05C, 0, 31, 16⟩
def TEN_ERR_PERMF : FRef := ⟨0x10, 0x05C, 0, 15, 0⟩
def TEN_HELD : FRef := ⟨0x10, 0x060, 0, 31, 0⟩
def TEN_HELD_FIRKINS : FRef := ⟨0x10, 0x060, 0, 31, 28⟩
def TEN_HELD_TWI : FRef := ⟨0x10, 0x060, 0, 27, 27⟩
def TEN_HELD_SPIC : FRef := ⟨0x10, 0x060, 0, 26, 26⟩
def TEN_HELD_WINDOWS : FRef := ⟨0x10, 0x060, 0, 24, 20⟩
def TEN_HELD_FEEDBUF : FRef := ⟨0x10, 0x060, 0, 16, 16⟩
def TEN_HELD_PAGES : FRef := ⟨0x10, 0x060, 0, 7, 0⟩
def TEN_RST : FRef := ⟨0x10, 0x064, 0, 31, 0⟩
def TEN_RST_COUNT : FRef := ⟨0x10, 0x064, 0, 31, 16⟩
def TEN_RST_CAUSE : FRef := ⟨0x10, 0x064, 0, 15, 12⟩
def TEN_WINPERM : FRef := ⟨0x10, 0x068, 0, 31, 0⟩
def TEN_WINPERM_WIN : FRef := ⟨0x10, 0x068, 0, 15, 0⟩
def TEN_PW : FRef := ⟨0x10, 0x06C, 4, 31, 0⟩
def TEN_PW_PW : FRef := ⟨0x10, 0x06C, 4, 31, 0⟩
def TEN_PR : FRef := ⟨0x10, 0x08C, 4, 31, 0⟩
def TEN_PR_PR : FRef := ⟨0x10, 0x08C, 4, 31, 0⟩

/-- The block registers of TEN: name, offset, count, stride, reset value, banked, fields. -/
def regsTEN : List Reg := [
  ⟨"TEN_STATE", 0x040, 1, 4, 0x00000000, false,
    [⟨15, 12, .ro, .plain, []⟩, ⟨9, 9, .ro, .plain, []⟩, ⟨8, 8, .ro, .plain, []⟩, ⟨6, 4, .ro, .plain, []⟩, ⟨2, 0, .ro, .plain, []⟩]⟩,
  ⟨"TEN_RUN", 0x044, 1, 4, 0x00000101, false,
    [⟨8, 8, .ro, .plain, []⟩, ⟨0, 0, .rw, .plain, []⟩]⟩,
  ⟨"TEN_CMD", 0x048, 1, 4, 0x00000000, false,
    [⟨3, 0, .wo, .plain, []⟩]⟩,
  ⟨"TEN_KEEP", 0x04C, 1, 4, 0x00002710, false,
    [⟨19, 0, .rw, .plain, [.rng 0 0 0x1101, .rng 1 99 0x1103, .rng 600001 1048575 0x1102]⟩]⟩,
  ⟨"TEN_LEFT", 0x050, 1, 4, 0x00000000, false,
    [⟨19, 0, .ro, .plain, []⟩]⟩,
  ⟨"TEN_QCFG", 0x054, 1, 4, 0x00000820, false,
    [⟨15, 8, .rw, .plain, []⟩, ⟨7, 0, .rw, .plain, []⟩]⟩,
  ⟨"TEN_SEQ", 0x058, 1, 4, 0x00000000, false,
    [⟨31, 16, .ro, .plain, []⟩, ⟨6, 0, .ro, .plain, []⟩]⟩,
  ⟨"TEN_ERR", 0x05C, 1, 4, 0x00000000, false,
    [⟨31, 16, .rc, .plain, []⟩, ⟨15, 0, .rc, .plain, []⟩]⟩,
  ⟨"TEN_HELD", 0x060, 1, 4, 0x00000000, false,
    [⟨31, 28, .ro, .plain, []⟩, ⟨27, 27, .ro, .plain, []⟩, ⟨26, 26, .ro, .plain, []⟩, ⟨24, 20, .ro, .plain, []⟩, ⟨16, 16, .ro, .plain, []⟩, ⟨7, 0, .ro, .plain, []⟩]⟩,
  ⟨"TEN_RST", 0x064, 1, 4, 0x00000000, false,
    [⟨31, 16, .ro, .plain, []⟩, ⟨15, 12, .ro, .plain, []⟩]⟩,
  ⟨"TEN_WINPERM", 0x068, 1, 4, 0x00000000, false,
    [⟨15, 0, .ro, .plain, []⟩]⟩,
  ⟨"TEN_PW", 0x06C, 8, 4, 0x00000000, false,
    [⟨31, 0, .ro, .plain, []⟩]⟩,
  ⟨"TEN_PR", 0x08C, 8, 4, 0x00000000, false,
    [⟨31, 0, .ro, .plain, []⟩]⟩]

/-! ### LNK: 04_basius_link.md, Table 4.16 -/

def LNK_CFG : FRef := ⟨0x20, 0x040, 0, 31, 0⟩
def LNK_CFG_LPBK : FRef := ⟨0x20, 0x040, 0, 5, 4⟩
def LNK_CFG_SPEED_REQ : FRef := ⟨0x20, 0x040, 0, 1, 0⟩
def LNK_STAT : FRef := ⟨0x20, 0x044, 0, 31, 0⟩
def LNK_STAT_HB_OK : FRef := ⟨0x20, 0x044, 0, 8, 8⟩
def LNK_STAT_SIGDET : FRef := ⟨0x20, 0x044, 0, 7, 7⟩
def LNK_STAT_HIBER : FRef := ⟨0x20, 0x044, 0, 6, 6⟩
def LNK_STAT_ALIGN : FRef := ⟨0x20, 0x044, 0, 5, 5⟩
def LNK_STAT_BLOCK : FRef := ⟨0x20, 0x044, 0, 4, 4⟩
def LNK_STAT_UP : FRef := ⟨0x20, 0x044, 0, 3, 3⟩
def LNK_STAT_SPEED_ACT : FRef := ⟨0x20, 0x044, 0, 1, 0⟩
def LNK_TXEQ : FRef := ⟨0x20, 0x048, 0, 31, 0⟩
def LNK_TXEQ_POST : FRef := ⟨0x20, 0x048, 0, 20, 16⟩
def LNK_TXEQ_MAIN : FRef := ⟨0x20, 0x048, 0, 12, 8⟩
def LNK_TXEQ_PRE : FRef := ⟨0x20, 0x048, 0, 4, 0⟩
def LNK_FWDLAT : FRef := ⟨0x20, 0x04C, 0, 31, 0⟩
def LNK_FWDLAT_VAR : FRef := ⟨0x20, 0x04C, 0, 23, 16⟩
def LNK_FWDLAT_LAT : FRef := ⟨0x20, 0x04C, 0, 15, 0⟩
def LNK_RXFR : FRef := ⟨0x20, 0x050, 0, 31, 0⟩
def LNK_RXFR_COUNT : FRef := ⟨0x20, 0x050, 0, 31, 0⟩
def LNK_TXFR : FRef := ⟨0x20, 0x054, 0, 31, 0⟩
def LNK_TXFR_COUNT : FRef := ⟨0x20, 0x054, 0, 31, 0⟩
def LNK_FCSERR : FRef := ⟨0x20, 0x058, 0, 31, 0⟩
def LNK_FCSERR_COUNT : FRef := ⟨0x20, 0x058, 0, 31, 0⟩
def LNK_FECCOR : FRef := ⟨0x20, 0x05C, 0, 31, 0⟩
def LNK_FECCOR_COUNT : FRef := ⟨0x20, 0x05C, 0, 31, 0⟩
def LNK_FECUNC : FRef := ⟨0x20, 0x060, 0, 31, 0⟩
def LNK_FECUNC_COUNT : FRef := ⟨0x20, 0x060, 0, 31, 0⟩
def LNK_HDRERR : FRef := ⟨0x20, 0x064, 0, 31, 0⟩
def LNK_HDRERR_HCRC : FRef := ⟨0x20, 0x064, 0, 31, 16⟩
def LNK_HDRERR_FORMAT : FRef := ⟨0x20, 0x064, 0, 15, 0⟩
def LNK_DROP : FRef := ⟨0x20, 0x068, 0, 31, 0⟩
def LNK_DROP_FULL : FRef := ⟨0x20, 0x068, 0, 31, 16⟩
def LNK_DROP_FOREIGN : FRef := ⟨0x20, 0x068, 0, 15, 0⟩
def LNK_AUTHF : FRef := ⟨0x20, 0x06C, 0, 31, 0⟩
def LNK_AUTHF_COUNT : FRef := ⟨0x20, 0x06C, 0, 31, 0⟩
def LNK_HOPS : FRef := ⟨0x20, 0x070, 0, 31, 0⟩
def LNK_HOPS_STOMP : FRef := ⟨0x20, 0x070, 0, 31, 16⟩
def LNK_HOPS_HOPLIM : FRef := ⟨0x20, 0x070, 0, 15, 0⟩
def LNK_SHORT : FRef := ⟨0x20, 0x074, 0, 31, 0⟩
def LNK_SHORT_COUNT : FRef := ⟨0x20, 0x074, 0, 31, 0⟩
def LNK_LOAD : FRef := ⟨0x20, 0x078, 0, 31, 0⟩
def LNK_LOAD_MBPS : FRef := ⟨0x20, 0x078, 0, 15, 0⟩
def LNK_DOWNS : FRef := ⟨0x20, 0x07C, 0, 31, 0⟩
def LNK_DOWNS_COUNT : FRef := ⟨0x20, 0x07C, 0, 15, 0⟩

/-- The block registers of LNK: name, offset, count, stride, reset value, banked, fields. -/
def regsLNK : List Reg := [
  ⟨"LNK_CFG", 0x040, 1, 4, 0x00000000, false,
    [⟨5, 4, .rw, .plain, []⟩, ⟨1, 0, .rw, .plain, []⟩]⟩,
  ⟨"LNK_STAT", 0x044, 1, 4, 0x00000000, false,
    [⟨8, 8, .ro, .plain, []⟩, ⟨7, 7, .ro, .plain, []⟩, ⟨6, 6, .ro, .plain, []⟩, ⟨5, 5, .ro, .plain, []⟩, ⟨4, 4, .ro, .plain, []⟩, ⟨3, 3, .ro, .plain, []⟩, ⟨1, 0, .ro, .plain, []⟩]⟩,
  ⟨"LNK_TXEQ", 0x048, 1, 4, 0x00041C02, false,
    [⟨20, 16, .rw, .plain, []⟩, ⟨12, 8, .rw, .plain, []⟩, ⟨4, 0, .rw, .plain, []⟩]⟩,
  ⟨"LNK_FWDLAT", 0x04C, 1, 4, 0x00000000, false,
    [⟨23, 16, .ro, .plain, []⟩, ⟨15, 0, .ro, .plain, []⟩]⟩,
  ⟨"LNK_RXFR", 0x050, 1, 4, 0x00000000, false,
    [⟨31, 0, .rc, .plain, []⟩]⟩,
  ⟨"LNK_TXFR", 0x054, 1, 4, 0x00000000, false,
    [⟨31, 0, .rc, .plain, []⟩]⟩,
  ⟨"LNK_FCSERR", 0x058, 1, 4, 0x00000000, false,
    [⟨31, 0, .rc, .plain, []⟩]⟩,
  ⟨"LNK_FECCOR", 0x05C, 1, 4, 0x00000000, false,
    [⟨31, 0, .rc, .plain, []⟩]⟩,
  ⟨"LNK_FECUNC", 0x060, 1, 4, 0x00000000, false,
    [⟨31, 0, .rc, .plain, []⟩]⟩,
  ⟨"LNK_HDRERR", 0x064, 1, 4, 0x00000000, false,
    [⟨31, 16, .rc, .plain, []⟩, ⟨15, 0, .rc, .plain, []⟩]⟩,
  ⟨"LNK_DROP", 0x068, 1, 4, 0x00000000, false,
    [⟨31, 16, .rc, .plain, []⟩, ⟨15, 0, .rc, .plain, []⟩]⟩,
  ⟨"LNK_AUTHF", 0x06C, 1, 4, 0x00000000, false,
    [⟨31, 0, .rc, .plain, []⟩]⟩,
  ⟨"LNK_HOPS", 0x070, 1, 4, 0x00000000, false,
    [⟨31, 16, .rc, .plain, []⟩, ⟨15, 0, .rc, .plain, []⟩]⟩,
  ⟨"LNK_SHORT", 0x074, 1, 4, 0x00000000, false,
    [⟨31, 0, .rc, .plain, []⟩]⟩,
  ⟨"LNK_LOAD", 0x078, 1, 4, 0x00000000, false,
    [⟨15, 0, .ro, .plain, []⟩]⟩,
  ⟨"LNK_DOWNS", 0x07C, 1, 4, 0x00000000, false,
    [⟨15, 0, .rc, .plain, []⟩]⟩]

/-! ### CHAIN: 04_basius_link.md, Table 4.18 -/

def CH_ETYPE : FRef := ⟨0x24, 0x040, 0, 31, 0⟩
def CH_ETYPE_ETYPE : FRef := ⟨0x24, 0x040, 0, 15, 0⟩
def CH_ROLE : FRef := ⟨0x24, 0x044, 0, 31, 0⟩
def CH_ROLE_ROLE : FRef := ⟨0x24, 0x044, 0, 1, 0⟩
def CH_TILE : FRef := ⟨0x24, 0x048, 0, 31, 0⟩
def CH_TILE_LOCK : FRef := ⟨0x24, 0x048, 0, 13, 13⟩
def CH_TILE_VALID : FRef := ⟨0x24, 0x048, 0, 12, 12⟩
def CH_TILE_ID : FRef := ⟨0x24, 0x048, 0, 11, 0⟩
def CH_POS : FRef := ⟨0x24, 0x04C, 0, 31, 0⟩
def CH_POS_VALID : FRef := ⟨0x24, 0x04C, 0, 7, 7⟩
def CH_POS_POS : FRef := ⟨0x24, 0x04C, 0, 5, 0⟩
def CH_PATH : FRef := ⟨0x24, 0x050, 0, 31, 0⟩
def CH_PATH_REVERT : FRef := ⟨0x24, 0x050, 0, 31, 24⟩
def CH_PATH_AUTOSW : FRef := ⟨0x24, 0x050, 0, 16, 16⟩
def CH_PATH_PATH_ACT : FRef := ⟨0x24, 0x050, 0, 8, 8⟩
def CH_PATH_PATH_REQ : FRef := ⟨0x24, 0x050, 0, 0, 0⟩
def CH_HB : FRef := ⟨0x24, 0x054, 0, 31, 0⟩
def CH_HB_TO : FRef := ⟨0x24, 0x054, 0, 3, 0⟩
def CH_SEGMIN : FRef := ⟨0x24, 0x058, 0, 31, 0⟩
def CH_SEGMIN_BYTES : FRef := ⟨0x24, 0x058, 0, 13, 0⟩
def CH_FWD0 : FRef := ⟨0x24, 0x05C, 0, 31, 0⟩
def CH_FWD0_KBPS : FRef := ⟨0x24, 0x05C, 0, 31, 0⟩
def CH_FWD1 : FRef := ⟨0x24, 0x060, 0, 31, 0⟩
def CH_FWD1_KBPS : FRef := ⟨0x24, 0x060, 0, 31, 0⟩
def CH_MAXFR : FRef := ⟨0x24, 0x064, 0, 31, 0⟩
def CH_MAXFR_BYTES : FRef := ⟨0x24, 0x064, 0, 13, 0⟩
def CH_FOREIGN : FRef := ⟨0x24, 0x068, 0, 31, 0⟩
def CH_FOREIGN_FWD : FRef := ⟨0x24, 0x068, 0, 0, 0⟩
def CH_UPDA_H : FRef := ⟨0x24, 0x06C, 0, 31, 0⟩
def CH_UPDA_H_DA_H : FRef := ⟨0x24, 0x06C, 0, 15, 0⟩
def CH_UPDA_L : FRef := ⟨0x24, 0x070, 0, 31, 0⟩
def CH_UPDA_L_DA_L : FRef := ⟨0x24, 0x070, 0, 31, 0⟩
def CH_SWCNT : FRef := ⟨0x24, 0x074, 0, 31, 0⟩
def CH_SWCNT_COUNT : FRef := ⟨0x24, 0x074, 0, 15, 0⟩

/-- The block registers of CHAIN: name, offset, count, stride, reset value, banked, fields. -/
def regsCHAIN : List Reg := [
  ⟨"CH_ETYPE", 0x040, 1, 4, 0x00000000, false,
    [⟨15, 0, .rw, .cycle, []⟩]⟩,
  ⟨"CH_ROLE", 0x044, 1, 4, 0x00000000, false,
    [⟨1, 0, .rw, .cycle, []⟩]⟩,
  ⟨"CH_TILE", 0x048, 1, 4, 0x00000000, false,
    [⟨13, 13, .rw, .plain, []⟩, ⟨12, 12, .rw, .plain, []⟩, ⟨11, 0, .rw, .plain, []⟩]⟩,
  ⟨"CH_POS", 0x04C, 1, 4, 0x00000000, false,
    [⟨7, 7, .ro, .plain, []⟩, ⟨5, 0, .ro, .plain, []⟩]⟩,
  ⟨"CH_PATH", 0x050, 1, 4, 0x00010000, false,
    [⟨31, 24, .rw, .plain, []⟩, ⟨16, 16, .rw, .plain, []⟩, ⟨8, 8, .ro, .plain, []⟩, ⟨0, 0, .rw, .staged, []⟩]⟩,
  ⟨"CH_HB", 0x054, 1, 4, 0x00000004, false,
    [⟨3, 0, .rw, .plain, [.rng 0 0 0x1201, .rng 1 1 0x1203, .rng 9 15 0x1202]⟩]⟩,
  ⟨"CH_SEGMIN", 0x058, 1, 4, 0x00002000, false,
    [⟨13, 0, .rw, .staged, [.rng 0 0 0x1201, .rng 1 1023 0x1203, .rng 8961 16383 0x1202]⟩]⟩,
  ⟨"CH_FWD0", 0x05C, 1, 4, 0x00000000, false,
    [⟨31, 0, .rw, .staged, []⟩]⟩,
  ⟨"CH_FWD1", 0x060, 1, 4, 0x00000000, false,
    [⟨31, 0, .rw, .staged, []⟩]⟩,
  ⟨"CH_MAXFR", 0x064, 1, 4, 0x00002400, false,
    [⟨13, 0, .rw, .plain, [.rng 0 0 0x1201, .rng 1 1517 0x1203, .rng 9217 16383 0x1202]⟩]⟩,
  ⟨"CH_FOREIGN", 0x068, 1, 4, 0x00000000, false,
    [⟨0, 0, .rw, .plain, []⟩]⟩,
  ⟨"CH_UPDA_H", 0x06C, 1, 4, 0x0000FFFF, false,
    [⟨15, 0, .rw, .plain, []⟩]⟩,
  ⟨"CH_UPDA_L", 0x070, 1, 4, 0xFFFFFFFF, false,
    [⟨31, 0, .rw, .plain, []⟩]⟩,
  ⟨"CH_SWCNT", 0x074, 1, 4, 0x00000000, false,
    [⟨15, 0, .rc, .plain, []⟩]⟩]

/-! ### ADMIT: 05_time_lock_and_admission.md, Table 5.10 -/

def ADM_CMD : FRef := ⟨0x05, 0x040, 0, 31, 0⟩
def ADM_CMD_OP : FRef := ⟨0x05, 0x040, 0, 3, 0⟩
def ADM_RESULT : FRef := ⟨0x05, 0x044, 0, 31, 0⟩
def ADM_RESULT_CODE : FRef := ⟨0x05, 0x044, 0, 31, 16⟩
def ADM_RESULT_DETAIL : FRef := ⟨0x05, 0x044, 0, 15, 0⟩
def ADM_SRC : FRef := ⟨0x05, 0x048, 0, 31, 0⟩
def ADM_SRC_HANDLE : FRef := ⟨0x05, 0x048, 0, 22, 16⟩
def ADM_SRC_PAGE : FRef := ⟨0x05, 0x048, 0, 15, 8⟩
def ADM_SRC_KIND : FRef := ⟨0x05, 0x048, 0, 1, 0⟩
def ADM_AK : FRef := ⟨0x05, 0x04C, 0, 31, 0⟩
def ADM_AK_PXS : FRef := ⟨0x05, 0x04C, 0, 31, 0⟩
def ADM_AKPCT : FRef := ⟨0x05, 0x050, 0, 31, 0⟩
def ADM_AKPCT_HALF : FRef := ⟨0x05, 0x050, 0, 31, 16⟩
def ADM_AKPCT_FULL : FRef := ⟨0x05, 0x050, 0, 15, 0⟩
def ADM_LINK : FRef := ⟨0x05, 0x054, 0, 31, 0⟩
def ADM_LINK_L1 : FRef := ⟨0x05, 0x054, 0, 31, 16⟩
def ADM_LINK_L0 : FRef := ⟨0x05, 0x054, 0, 15, 0⟩
def ADM_DRAM : FRef := ⟨0x05, 0x058, 0, 31, 0⟩
def ADM_DRAM_PERMIL : FRef := ⟨0x05, 0x058, 0, 31, 16⟩
def ADM_DRAM_MBPS : FRef := ⟨0x05, 0x058, 0, 15, 0⟩
def ADM_PLAN : FRef := ⟨0x05, 0x05C, 0, 31, 0⟩
def ADM_PLAN_UNITS : FRef := ⟨0x05, 0x05C, 0, 8, 0⟩
def ADM_RAIL : FRef := ⟨0x05, 0x060, 0, 31, 0⟩
def ADM_RAIL_B : FRef := ⟨0x05, 0x060, 0, 31, 16⟩
def ADM_RAIL_A : FRef := ⟨0x05, 0x060, 0, 15, 0⟩
def ADM_SINK : FRef := ⟨0x05, 0x064, 0, 31, 0⟩
def ADM_SINK_TJ : FRef := ⟨0x05, 0x064, 0, 31, 16⟩
def ADM_SINK_MW : FRef := ⟨0x05, 0x064, 0, 15, 0⟩
def ADM_DECL : FRef := ⟨0x05, 0x068, 0, 31, 0⟩
def ADM_DECL_VSPREAD : FRef := ⟨0x05, 0x068, 0, 31, 24⟩
def ADM_DECL_TAMB : FRef := ⟨0x05, 0x068, 0, 23, 16⟩
def ADM_DECL_THETA : FRef := ⟨0x05, 0x068, 0, 15, 0⟩
def ADM_COUNT : FRef := ⟨0x05, 0x06C, 0, 31, 0⟩
def ADM_COUNT_REFUSED : FRef := ⟨0x05, 0x06C, 0, 31, 16⟩
def ADM_COUNT_ACCEPTED : FRef := ⟨0x05, 0x06C, 0, 15, 0⟩

/-- The block registers of ADMIT: name, offset, count, stride, reset value, banked, fields. -/
def regsADMIT : List Reg := [
  ⟨"ADM_CMD", 0x040, 1, 4, 0x00000000, false,
    [⟨3, 0, .wo, .plain, [.rng 0 0 0x1303, .rng 2 15 0x1303]⟩]⟩,
  ⟨"ADM_RESULT", 0x044, 1, 4, 0x00000000, false,
    [⟨31, 16, .ro, .plain, []⟩, ⟨15, 0, .ro, .plain, []⟩]⟩,
  ⟨"ADM_SRC", 0x048, 1, 4, 0x00000000, false,
    [⟨22, 16, .ro, .plain, []⟩, ⟨15, 8, .ro, .plain, []⟩, ⟨1, 0, .ro, .plain, []⟩]⟩,
  ⟨"ADM_AK", 0x04C, 1, 4, 0x00000000, false,
    [⟨31, 0, .ro, .plain, []⟩]⟩,
  ⟨"ADM_AKPCT", 0x050, 1, 4, 0x00000000, false,
    [⟨31, 16, .ro, .plain, []⟩, ⟨15, 0, .ro, .plain, []⟩]⟩,
  ⟨"ADM_LINK", 0x054, 1, 4, 0x00000000, false,
    [⟨31, 16, .ro, .plain, []⟩, ⟨15, 0, .ro, .plain, []⟩]⟩,
  ⟨"ADM_DRAM", 0x058, 1, 4, 0x00000000, false,
    [⟨31, 16, .ro, .plain, []⟩, ⟨15, 0, .ro, .plain, []⟩]⟩,
  ⟨"ADM_PLAN", 0x05C, 1, 4, 0x00000000, false,
    [⟨8, 0, .ro, .plain, []⟩]⟩,
  ⟨"ADM_RAIL", 0x060, 1, 4, 0x00000000, false,
    [⟨31, 16, .ro, .plain, []⟩, ⟨15, 0, .ro, .plain, []⟩]⟩,
  ⟨"ADM_SINK", 0x064, 1, 4, 0x00000000, false,
    [⟨31, 16, .ro, .plain, []⟩, ⟨15, 0, .ro, .plain, []⟩]⟩,
  ⟨"ADM_DECL", 0x068, 1, 4, 0x142800C8, false,
    [⟨31, 24, .rw, .staged, [.rng 101 255 0x1302]⟩, ⟨23, 16, .rw, .staged, [.rng 86 255 0x1302]⟩, ⟨15, 0, .rw, .staged, [.rng 0 0 0x1301]⟩]⟩,
  ⟨"ADM_COUNT", 0x06C, 1, 4, 0x00000000, false,
    [⟨31, 16, .rc, .plain, []⟩, ⟨15, 0, .rc, .plain, []⟩]⟩]

/-! ### PTP: 05_time_lock_and_admission.md, Table 5.12 -/

def PTP_CFG : FRef := ⟨0x25, 0x040, 0, 31, 0⟩
def PTP_CFG_GMCHK : FRef := ⟨0x25, 0x040, 0, 24, 24⟩
def PTP_CFG_TC : FRef := ⟨0x25, 0x040, 0, 19, 16⟩
def PTP_CFG_PD_LOG : FRef := ⟨0x25, 0x040, 0, 11, 8⟩
def PTP_CFG_DOMAIN : FRef := ⟨0x25, 0x040, 0, 7, 0⟩
def PTP_GMID_H : FRef := ⟨0x25, 0x044, 0, 31, 0⟩
def PTP_GMID_H_ID : FRef := ⟨0x25, 0x044, 0, 31, 0⟩
def PTP_GMID_L : FRef := ⟨0x25, 0x048, 0, 31, 0⟩
def PTP_GMID_L_ID : FRef := ⟨0x25, 0x048, 0, 31, 0⟩
def PTP_STAT : FRef := ⟨0x25, 0x04C, 0, 31, 0⟩
def PTP_STAT_TWOSTEP : FRef := ⟨0x25, 0x04C, 0, 16, 16⟩
def PTP_STAT_LOGSYNC : FRef := ⟨0x25, 0x04C, 0, 15, 8⟩
def PTP_STAT_PORT : FRef := ⟨0x25, 0x04C, 0, 5, 5⟩
def PTP_STAT_WT_VALID : FRef := ⟨0x25, 0x04C, 0, 4, 4⟩
def PTP_STAT_STATE : FRef := ⟨0x25, 0x04C, 0, 2, 0⟩
def PTP_OFFSET : FRef := ⟨0x25, 0x050, 0, 31, 0⟩
def PTP_OFFSET_GRAINS : FRef := ⟨0x25, 0x050, 0, 31, 0⟩
def PTP_FREQ : FRef := ⟨0x25, 0x054, 0, 31, 0⟩
def PTP_FREQ_PPB : FRef := ⟨0x25, 0x054, 0, 31, 0⟩
def PTP_PD0 : FRef := ⟨0x25, 0x058, 0, 31, 0⟩
def PTP_PD0_GRAINS : FRef := ⟨0x25, 0x058, 0, 31, 0⟩
def PTP_PD1 : FRef := ⟨0x25, 0x05C, 0, 31, 0⟩
def PTP_PD1_GRAINS : FRef := ⟨0x25, 0x05C, 0, 31, 0⟩
def PTP_ASYM : FRef := ⟨0x25, 0x060, 0, 31, 0⟩
def PTP_ASYM_L1 : FRef := ⟨0x25, 0x060, 0, 31, 16⟩
def PTP_ASYM_L0 : FRef := ⟨0x25, 0x060, 0, 15, 0⟩
def PTP_RXCNT : FRef := ⟨0x25, 0x064, 0, 31, 0⟩
def PTP_RXCNT_DROP : FRef := ⟨0x25, 0x064, 0, 31, 16⟩
def PTP_RXCNT_SYNC : FRef := ⟨0x25, 0x064, 0, 15, 0⟩
def PTP_PDCNT : FRef := ⟨0x25, 0x068, 0, 31, 0⟩
def PTP_PDCNT_FAIL : FRef := ⟨0x25, 0x068, 0, 31, 16⟩
def PTP_PDCNT_OK : FRef := ⟨0x25, 0x068, 0, 15, 0⟩

/-- The block registers of PTP: name, offset, count, stride, reset value, banked, fields. -/
def regsPTP : List Reg := [
  ⟨"PTP_CFG", 0x040, 1, 4, 0x000F0000, false,
    [⟨24, 24, .rw, .plain, []⟩, ⟨19, 16, .rw, .plain, []⟩, ⟨11, 8, .rw, .plain, [.rng 4 12 0x1303]⟩, ⟨7, 0, .rw, .plain, [.rng 128 255 0x1303]⟩]⟩,
  ⟨"PTP_GMID_H", 0x044, 1, 4, 0x00000000, false,
    [⟨31, 0, .rw, .plain, []⟩]⟩,
  ⟨"PTP_GMID_L", 0x048, 1, 4, 0x00000000, false,
    [⟨31, 0, .rw, .plain, []⟩]⟩,
  ⟨"PTP_STAT", 0x04C, 1, 4, 0x00000000, false,
    [⟨16, 16, .ro, .plain, []⟩, ⟨15, 8, .ro, .plain, []⟩, ⟨5, 5, .ro, .plain, []⟩, ⟨4, 4, .ro, .plain, []⟩, ⟨2, 0, .ro, .plain, []⟩]⟩,
  ⟨"PTP_OFFSET", 0x050, 1, 4, 0x00000000, false,
    [⟨31, 0, .ro, .plain, []⟩]⟩,
  ⟨"PTP_FREQ", 0x054, 1, 4, 0x00000000, false,
    [⟨31, 0, .ro, .plain, []⟩]⟩,
  ⟨"PTP_PD0", 0x058, 1, 4, 0x00000000, false,
    [⟨31, 0, .ro, .plain, []⟩]⟩,
  ⟨"PTP_PD1", 0x05C, 1, 4, 0x00000000, false,
    [⟨31, 0, .ro, .plain, []⟩]⟩,
  ⟨"PTP_ASYM", 0x060, 1, 4, 0x00000000, false,
    [⟨31, 16, .rw, .plain, []⟩, ⟨15, 0, .rw, .plain, []⟩]⟩,
  ⟨"PTP_RXCNT", 0x064, 1, 4, 0x00000000, false,
    [⟨31, 16, .rc, .plain, []⟩, ⟨15, 0, .rc, .plain, []⟩]⟩,
  ⟨"PTP_PDCNT", 0x068, 1, 4, 0x00000000, false,
    [⟨31, 16, .rc, .plain, []⟩, ⟨15, 0, .rc, .plain, []⟩]⟩]

/-! ### TIME: 05_time_lock_and_admission.md, Table 5.14 -/

def TIME_PER_G : FRef := ⟨0x26, 0x040, 0, 31, 0⟩
def TIME_PER_G_GRAINS : FRef := ⟨0x26, 0x040, 0, 31, 0⟩
def TIME_PER_F : FRef := ⟨0x26, 0x044, 0, 31, 0⟩
def TIME_PER_F_FRAC : FRef := ⟨0x26, 0x044, 0, 15, 0⟩
def TIME_LOCK : FRef := ⟨0x26, 0x048, 0, 31, 0⟩
def TIME_LOCK_SUSP : FRef := ⟨0x26, 0x048, 0, 29, 16⟩
def TIME_LOCK_HOLD_S : FRef := ⟨0x26, 0x048, 0, 11, 8⟩
def TIME_LOCK_FALLBACK : FRef := ⟨0x26, 0x048, 0, 4, 4⟩
def TIME_LOCK_SOURCE : FRef := ⟨0x26, 0x048, 0, 1, 0⟩
def TIME_STAT : FRef := ⟨0x26, 0x04C, 0, 31, 0⟩
def TIME_STAT_HOLD_LEFT : FRef := ⟨0x26, 0x04C, 0, 23, 16⟩
def TIME_STAT_MISS : FRef := ⟨0x26, 0x04C, 0, 15, 12⟩
def TIME_STAT_PLL_LOCK : FRef := ⟨0x26, 0x04C, 0, 9, 9⟩
def TIME_STAT_WT_VALID : FRef := ⟨0x26, 0x04C, 0, 8, 8⟩
def TIME_STAT_STATE : FRef := ⟨0x26, 0x04C, 0, 2, 0⟩
def TIME_NOW_SH : FRef := ⟨0x26, 0x050, 0, 31, 0⟩
def TIME_NOW_SH_SEC_H : FRef := ⟨0x26, 0x050, 0, 15, 0⟩
def TIME_NOW_SL : FRef := ⟨0x26, 0x054, 0, 31, 0⟩
def TIME_NOW_SL_SEC_L : FRef := ⟨0x26, 0x054, 0, 31, 0⟩
def TIME_NOW_NS : FRef := ⟨0x26, 0x058, 0, 31, 0⟩
def TIME_NOW_NS_NS : FRef := ⟨0x26, 0x058, 0, 31, 0⟩
def TIME_CS_SH : FRef := ⟨0x26, 0x05C, 0, 31, 0⟩
def TIME_CS_SH_SEC_H : FRef := ⟨0x26, 0x05C, 0, 15, 0⟩
def TIME_CS_SL : FRef := ⟨0x26, 0x060, 0, 31, 0⟩
def TIME_CS_SL_SEC_L : FRef := ⟨0x26, 0x060, 0, 31, 0⟩
def TIME_CS_NS : FRef := ⟨0x26, 0x064, 0, 31, 0⟩
def TIME_CS_NS_NS : FRef := ⟨0x26, 0x064, 0, 31, 0⟩
def TIME_BDCN : FRef := ⟨0x26, 0x068, 0, 31, 0⟩
def TIME_BDCN_DCN : FRef := ⟨0x26, 0x068, 0, 31, 0⟩
def TIME_BERRNS : FRef := ⟨0x26, 0x06C, 0, 31, 0⟩
def TIME_BERRNS_NS : FRef := ⟨0x26, 0x06C, 0, 31, 0⟩
def TIME_BCNT : FRef := ⟨0x26, 0x070, 0, 31, 0⟩
def TIME_BCNT_DUP : FRef := ⟨0x26, 0x070, 0, 31, 16⟩
def TIME_BCNT_ACCEPT : FRef := ⟨0x26, 0x070, 0, 15, 0⟩
def TIME_BERR : FRef := ⟨0x26, 0x074, 0, 31, 0⟩
def TIME_BERR_OTHER : FRef := ⟨0x26, 0x074, 0, 31, 24⟩
def TIME_BERR_CONF : FRef := ⟨0x26, 0x074, 0, 23, 16⟩
def TIME_BERR_STEP : FRef := ⟨0x26, 0x074, 0, 15, 8⟩
def TIME_BERR_LATE : FRef := ⟨0x26, 0x074, 0, 7, 0⟩
def TIME_CYO : FRef := ⟨0x26, 0x078, 0, 31, 0⟩
def TIME_CYO_WIDTH : FRef := ⟨0x26, 0x078, 0, 31, 16⟩
def TIME_CYO_WIN : FRef := ⟨0x26, 0x078, 0, 7, 4⟩
def TIME_CYO_MODE : FRef := ⟨0x26, 0x078, 0, 3, 2⟩
def TIME_CYO_POL : FRef := ⟨0x26, 0x078, 0, 1, 1⟩
def TIME_CYO_EN : FRef := ⟨0x26, 0x078, 0, 0, 0⟩
def TIME_PPS : FRef := ⟨0x26, 0x07C, 0, 31, 0⟩
def TIME_PPS_WIDTH : FRef := ⟨0x26, 0x07C, 0, 31, 16⟩
def TIME_PPS_HOLD : FRef := ⟨0x26, 0x07C, 0, 2, 2⟩
def TIME_PPS_POL : FRef := ⟨0x26, 0x07C, 0, 1, 1⟩
def TIME_PPS_EN : FRef := ⟨0x26, 0x07C, 0, 0, 0⟩

/-- The block registers of TIME: name, offset, count, stride, reset value, banked, fields. -/
def regsTIME : List Reg := [
  ⟨"TIME_PER_G", 0x040, 1, 4, 0x0FE502AA, false,
    [⟨31, 0, .rw, .cycle, []⟩]⟩,
  ⟨"TIME_PER_F", 0x044, 1, 4, 0x0000AAAB, false,
    [⟨15, 0, .rw, .cycle, []⟩]⟩,
  ⟨"TIME_LOCK", 0x048, 1, 4, 0x03E80A00, false,
    [⟨29, 16, .rw, .plain, [.rng 0 49 0x1303, .rng 10001 16383 0x1302]⟩, ⟨11, 8, .rw, .plain, [.rng 0 0 0x1301, .rng 11 15 0x1302]⟩, ⟨4, 4, .rw, .plain, []⟩, ⟨1, 0, .rw, .staged, []⟩]⟩,
  ⟨"TIME_STAT", 0x04C, 1, 4, 0x00000000, false,
    [⟨23, 16, .ro, .plain, []⟩, ⟨15, 12, .ro, .plain, []⟩, ⟨9, 9, .ro, .plain, []⟩, ⟨8, 8, .ro, .plain, []⟩, ⟨2, 0, .ro, .plain, []⟩]⟩,
  ⟨"TIME_NOW_SH", 0x050, 1, 4, 0x00000000, false,
    [⟨15, 0, .ro, .plain, []⟩]⟩,
  ⟨"TIME_NOW_SL", 0x054, 1, 4, 0x00000000, false,
    [⟨31, 0, .ro, .plain, []⟩]⟩,
  ⟨"TIME_NOW_NS", 0x058, 1, 4, 0x00000000, false,
    [⟨31, 0, .ro, .plain, []⟩]⟩,
  ⟨"TIME_CS_SH", 0x05C, 1, 4, 0x00000000, false,
    [⟨15, 0, .ro, .plain, []⟩]⟩,
  ⟨"TIME_CS_SL", 0x060, 1, 4, 0x00000000, false,
    [⟨31, 0, .ro, .plain, []⟩]⟩,
  ⟨"TIME_CS_NS", 0x064, 1, 4, 0x00000000, false,
    [⟨31, 0, .ro, .plain, []⟩]⟩,
  ⟨"TIME_BDCN", 0x068, 1, 4, 0x00000000, false,
    [⟨31, 0, .ro, .plain, []⟩]⟩,
  ⟨"TIME_BERRNS", 0x06C, 1, 4, 0x00000000, false,
    [⟨31, 0, .ro, .plain, []⟩]⟩,
  ⟨"TIME_BCNT", 0x070, 1, 4, 0x00000000, false,
    [⟨31, 16, .rc, .plain, []⟩, ⟨15, 0, .rc, .plain, []⟩]⟩,
  ⟨"TIME_BERR", 0x074, 1, 4, 0x00000000, false,
    [⟨31, 24, .rc, .plain, []⟩, ⟨23, 16, .rc, .plain, []⟩, ⟨15, 8, .rc, .plain, []⟩, ⟨7, 0, .rc, .plain, []⟩]⟩,
  ⟨"TIME_CYO", 0x078, 1, 4, 0x03E80000, false,
    [⟨31, 16, .rw, .plain, [.rng 0 0 0x1301]⟩, ⟨7, 4, .rw, .plain, []⟩, ⟨3, 2, .rw, .plain, [.rng 3 3 0x1303]⟩, ⟨1, 1, .rw, .plain, []⟩, ⟨0, 0, .rw, .plain, []⟩]⟩,
  ⟨"TIME_PPS", 0x07C, 1, 4, 0x00640000, false,
    [⟨31, 16, .rw, .plain, [.rng 0 0 0x1301]⟩, ⟨2, 2, .rw, .plain, []⟩, ⟨1, 1, .rw, .plain, []⟩, ⟨0, 0, .rw, .plain, []⟩]⟩]

end Sys2Proof.Machine
end

