-- ==== Sys2Proof/Machine/MapB.lean ====
section
/-! DEFINITION. The register map, part B: the pixel-path pages, as the field tables of spec/ give them:
one reference per register and per field, and one row per register with its access types, staging class (R35) and
the values its field table refuses (Table 2.18, R54). -/

namespace Sys2Proof.Machine

/-! ### FEED: 06_feed_pipeline.md, Table 6.4 -/

def FEED_FMT : FRef := ⟨0x30, 0x040, 0, 31, 0⟩
def FEED_FMT_FPC : FRef := ⟨0x30, 0x040, 0, 10, 8⟩
def FEED_FMT_FORMAT : FRef := ⟨0x30, 0x040, 0, 3, 0⟩
def FEED_RATE : FRef := ⟨0x30, 0x044, 0, 31, 0⟩
def FEED_RATE_MHZ : FRef := ⟨0x30, 0x044, 0, 31, 0⟩
def FEED_RUN : FRef := ⟨0x30, 0x048, 0, 31, 0⟩
def FEED_RUN_RUN_ACT : FRef := ⟨0x30, 0x048, 0, 8, 8⟩
def FEED_RUN_RUN_REQ : FRef := ⟨0x30, 0x048, 0, 0, 0⟩
def FEED_LATE : FRef := ⟨0x30, 0x04C, 0, 31, 0⟩
def FEED_LATE_STALE : FRef := ⟨0x30, 0x04C, 0, 15, 8⟩
def FEED_LATE_STRICT : FRef := ⟨0x30, 0x04C, 0, 0, 0⟩
def FEED_DG : FRef := ⟨0x30, 0x050, 0, 31, 0⟩
def FEED_DG_BANK : FRef := ⟨0x30, 0x050, 0, 4, 4⟩
def FEED_DG_MODE : FRef := ⟨0x30, 0x050, 0, 1, 0⟩
def FEED_STAT : FRef := ⟨0x30, 0x054, 0, 31, 0⟩
def FEED_STAT_STALE : FRef := ⟨0x30, 0x054, 0, 8, 8⟩
def FEED_STAT_FILLING : FRef := ⟨0x30, 0x054, 0, 3, 2⟩
def FEED_STAT_FREE : FRef := ⟨0x30, 0x054, 0, 1, 0⟩
def FEED_NEWDCN : FRef := ⟨0x30, 0x058, 0, 31, 0⟩
def FEED_NEWDCN_DCN : FRef := ⟨0x30, 0x058, 0, 31, 0⟩
def FEED_BYTES : FRef := ⟨0x30, 0x05C, 0, 31, 0⟩
def FEED_BYTES_B : FRef := ⟨0x30, 0x05C, 0, 18, 0⟩
def FEED_CNT0 : FRef := ⟨0x30, 0x060, 0, 31, 0⟩
def FEED_CNT0_COMPLETE : FRef := ⟨0x30, 0x060, 0, 31, 16⟩
def FEED_CNT0_LATE : FRef := ⟨0x30, 0x060, 0, 15, 0⟩
def FEED_CNT1 : FRef := ⟨0x30, 0x064, 0, 31, 0⟩
def FEED_CNT1_PAST : FRef := ⟨0x30, 0x064, 0, 31, 24⟩
def FEED_CNT1_FUTURE : FRef := ⟨0x30, 0x064, 0, 23, 16⟩
def FEED_CNT1_RANGE : FRef := ⟨0x30, 0x064, 0, 15, 8⟩
def FEED_CNT1_NOBUF : FRef := ⟨0x30, 0x064, 0, 7, 0⟩
def FEED_CNT2 : FRef := ⟨0x30, 0x068, 0, 31, 0⟩
def FEED_CNT2_MISSED : FRef := ⟨0x30, 0x068, 0, 15, 0⟩
def FEED_DG0 : FRef := ⟨0x30, 0x200, 4, 31, 0⟩
def FEED_DG0_VALUE : FRef := ⟨0x30, 0x200, 4, 23, 0⟩
def FEED_DG1 : FRef := ⟨0x30, 0x800, 4, 31, 0⟩
def FEED_DG1_VALUE : FRef := ⟨0x30, 0x800, 4, 23, 0⟩

/-- The block registers of FEED: name, offset, count, stride, reset value, banked, fields. -/
def regsFEED : List Reg := [
  ⟨"FEED_FMT", 0x040, 1, 4, 0x00000100, false,
    [⟨10, 8, .rw, .cycle, [.rng 0 0 0x1401, .rng 5 7 0x1402]⟩, ⟨3, 0, .rw, .cycle, [.rng 8 15 0x1403]⟩]⟩,
  ⟨"FEED_RATE", 0x044, 1, 4, 0x0000EA60, false,
    [⟨31, 0, .rw, .cycle, [.rng 0 0 0x1401]⟩]⟩,
  ⟨"FEED_RUN", 0x048, 1, 4, 0x00000001, false,
    [⟨8, 8, .ro, .plain, []⟩, ⟨0, 0, .rw, .staged, []⟩]⟩,
  ⟨"FEED_LATE", 0x04C, 1, 4, 0x00000000, false,
    [⟨15, 8, .rw, .staged, []⟩, ⟨0, 0, .rw, .staged, []⟩]⟩,
  ⟨"FEED_DG", 0x050, 1, 4, 0x00000000, false,
    [⟨4, 4, .rw, .staged, []⟩, ⟨1, 0, .rw, .staged, [.rng 2 3 0x1403]⟩]⟩,
  ⟨"FEED_STAT", 0x054, 1, 4, 0x00000003, false,
    [⟨8, 8, .ro, .plain, []⟩, ⟨3, 2, .ro, .plain, []⟩, ⟨1, 0, .ro, .plain, []⟩]⟩,
  ⟨"FEED_NEWDCN", 0x058, 1, 4, 0x00000000, false,
    [⟨31, 0, .ro, .plain, []⟩]⟩,
  ⟨"FEED_BYTES", 0x05C, 1, 4, 0x00000000, false,
    [⟨18, 0, .ro, .plain, []⟩]⟩,
  ⟨"FEED_CNT0", 0x060, 1, 4, 0x00000000, false,
    [⟨31, 16, .rc, .plain, []⟩, ⟨15, 0, .rc, .plain, []⟩]⟩,
  ⟨"FEED_CNT1", 0x064, 1, 4, 0x00000000, false,
    [⟨31, 24, .rc, .plain, []⟩, ⟨23, 16, .rc, .plain, []⟩, ⟨15, 8, .rc, .plain, []⟩, ⟨7, 0, .rc, .plain, []⟩]⟩,
  ⟨"FEED_CNT2", 0x068, 1, 4, 0x00000000, false,
    [⟨15, 0, .rc, .plain, []⟩]⟩,
  ⟨"FEED_DG0", 0x200, 339, 4, 0x00000000, false,
    [⟨23, 0, .rw, .plain, []⟩]⟩,
  ⟨"FEED_DG1", 0x800, 339, 4, 0x00000000, false,
    [⟨23, 0, .rw, .plain, []⟩]⟩]

/-! ### WIN: 06_feed_pipeline.md, Table 6.6 -/

def WIN_TOTAL : FRef := ⟨0x40, 0x040, 0, 31, 0⟩
def WIN_TOTAL_COUNT : FRef := ⟨0x40, 0x040, 0, 20, 16⟩
def WIN_TOTAL_SWEEPS : FRef := ⟨0x40, 0x040, 0, 9, 0⟩
def WIN_NOW : FRef := ⟨0x40, 0x044, 0, 31, 0⟩
def WIN_NOW_DARK : FRef := ⟨0x40, 0x044, 0, 4, 4⟩
def WIN_NOW_WIN : FRef := ⟨0x40, 0x044, 0, 3, 0⟩
def WIN_FBCNT : FRef := ⟨0x40, 0x048, 0, 31, 0⟩
def WIN_FBCNT_COUNT : FRef := ⟨0x40, 0x048, 0, 15, 0⟩
def WIN_SWP : FRef := ⟨0x40, 0x100, 32, 31, 0⟩
def WIN_SWP_SWEEPS : FRef := ⟨0x40, 0x100, 32, 9, 0⟩
def WIN_SRC_REQ : FRef := ⟨0x40, 0x104, 32, 31, 0⟩
def WIN_SRC_REQ_PIC : FRef := ⟨0x40, 0x104, 32, 9, 8⟩
def WIN_SRC_REQ_INDEX : FRef := ⟨0x40, 0x104, 32, 7, 4⟩
def WIN_SRC_REQ_KIND : FRef := ⟨0x40, 0x104, 32, 1, 0⟩
def WIN_SRC_ACT : FRef := ⟨0x40, 0x108, 32, 31, 0⟩
def WIN_SRC_ACT_FBK : FRef := ⟨0x40, 0x108, 32, 16, 16⟩
def WIN_SRC_ACT_PIC : FRef := ⟨0x40, 0x108, 32, 9, 8⟩
def WIN_SRC_ACT_INDEX : FRef := ⟨0x40, 0x108, 32, 7, 4⟩
def WIN_SRC_ACT_KIND : FRef := ⟨0x40, 0x108, 32, 1, 0⟩
def WIN_OVL_REQ : FRef := ⟨0x40, 0x10C, 32, 31, 0⟩
def WIN_OVL_REQ_ALPHA : FRef := ⟨0x40, 0x10C, 32, 23, 16⟩
def WIN_OVL_REQ_OINDEX : FRef := ⟨0x40, 0x10C, 32, 7, 4⟩
def WIN_OVL_REQ_OKIND : FRef := ⟨0x40, 0x10C, 32, 1, 0⟩
def WIN_OVL_ACT : FRef := ⟨0x40, 0x110, 32, 31, 0⟩
def WIN_OVL_ACT_ALPHA : FRef := ⟨0x40, 0x110, 32, 23, 16⟩
def WIN_OVL_ACT_OINDEX : FRef := ⟨0x40, 0x110, 32, 7, 4⟩
def WIN_OVL_ACT_OKIND : FRef := ⟨0x40, 0x110, 32, 1, 0⟩
def WIN_FBK : FRef := ⟨0x40, 0x114, 32, 31, 0⟩
def WIN_FBK_FINDEX : FRef := ⟨0x40, 0x114, 32, 7, 4⟩
def WIN_FBK_FKIND : FRef := ⟨0x40, 0x114, 32, 1, 0⟩
def WIN_START : FRef := ⟨0x40, 0x118, 32, 31, 0⟩
def WIN_START_SWEEP : FRef := ⟨0x40, 0x118, 32, 9, 0⟩

/-- The block registers of WIN: name, offset, count, stride, reset value, banked, fields. -/
def regsWIN : List Reg := [
  ⟨"WIN_TOTAL", 0x040, 1, 4, 0x00000000, false,
    [⟨20, 16, .ro, .plain, []⟩, ⟨9, 0, .ro, .plain, []⟩]⟩,
  ⟨"WIN_NOW", 0x044, 1, 4, 0x00000010, false,
    [⟨4, 4, .ro, .plain, []⟩, ⟨3, 0, .ro, .plain, []⟩]⟩,
  ⟨"WIN_FBCNT", 0x048, 1, 4, 0x00000000, false,
    [⟨15, 0, .rc, .plain, []⟩]⟩,
  ⟨"WIN_SWP", 0x100, 16, 32, 0x00000000, false,
    [⟨9, 0, .rw, .cycle, [.rng 513 1023 0x1402]⟩]⟩,
  ⟨"WIN_SRC_REQ", 0x104, 16, 32, 0x00000000, false,
    [⟨9, 8, .rw, .staged, []⟩, ⟨7, 4, .rw, .staged, []⟩, ⟨1, 0, .rw, .staged, []⟩]⟩,
  ⟨"WIN_SRC_ACT", 0x108, 16, 32, 0x00000000, false,
    [⟨16, 16, .ro, .plain, []⟩, ⟨9, 8, .ro, .plain, []⟩, ⟨7, 4, .ro, .plain, []⟩, ⟨1, 0, .ro, .plain, []⟩]⟩,
  ⟨"WIN_OVL_REQ", 0x10C, 16, 32, 0x00000000, false,
    [⟨23, 16, .rw, .staged, []⟩, ⟨7, 4, .rw, .staged, []⟩, ⟨1, 0, .rw, .staged, []⟩]⟩,
  ⟨"WIN_OVL_ACT", 0x110, 16, 32, 0x00000000, false,
    [⟨23, 16, .ro, .plain, []⟩, ⟨7, 4, .ro, .plain, []⟩, ⟨1, 0, .ro, .plain, []⟩]⟩,
  ⟨"WIN_FBK", 0x114, 16, 32, 0x00000000, false,
    [⟨7, 4, .rw, .staged, []⟩, ⟨1, 0, .rw, .staged, []⟩]⟩,
  ⟨"WIN_START", 0x118, 16, 32, 0x00000000, false,
    [⟨9, 0, .ro, .plain, []⟩]⟩]

/-! ### PAL: 06_feed_pipeline.md, Table 6.8 -/

def PAL_SEL : FRef := ⟨0x41, 0x040, 0, 31, 0⟩
def PAL_SEL_FEED : FRef := ⟨0x41, 0x040, 0, 3, 0⟩
def PAL_LEN : FRef := ⟨0x41, 0x044, 0, 31, 0⟩
def PAL_LEN_LEN : FRef := ⟨0x41, 0x044, 0, 8, 0⟩
def PAL_ENT : FRef := ⟨0x41, 0x400, 4, 31, 0⟩
def PAL_ENT_HI : FRef := ⟨0x41, 0x400, 4, 31, 16⟩
def PAL_ENT_LO : FRef := ⟨0x41, 0x400, 4, 15, 0⟩
def CLIP_DIM : FRef := ⟨0x41, 0xC00, 8, 31, 0⟩
def CLIP_DIM_HEIGHT : FRef := ⟨0x41, 0xC00, 8, 31, 16⟩
def CLIP_DIM_WIDTH : FRef := ⟨0x41, 0xC00, 8, 15, 0⟩
def CLIP_FR : FRef := ⟨0x41, 0xC04, 8, 31, 0⟩
def CLIP_FR_FRAMES : FRef := ⟨0x41, 0xC04, 8, 15, 0⟩

/-- The block registers of PAL: name, offset, count, stride, reset value, banked, fields. -/
def regsPAL : List Reg := [
  ⟨"PAL_SEL", 0x040, 1, 4, 0x00000000, true,
    [⟨3, 0, .rw, .plain, []⟩]⟩,
  ⟨"PAL_LEN", 0x044, 1, 4, 0x00000100, false,
    [⟨8, 0, .rw, .staged, [.rng 0 0 0x1401, .rng 257 511 0x1402]⟩]⟩,
  ⟨"PAL_ENT", 0x400, 384, 4, 0x00000000, false,
    [⟨31, 16, .rw, .staged, []⟩, ⟨15, 0, .rw, .staged, []⟩]⟩,
  ⟨"CLIP_DIM", 0xC00, 64, 8, 0x00000000, false,
    [⟨31, 16, .ro, .plain, []⟩, ⟨15, 0, .ro, .plain, []⟩]⟩,
  ⟨"CLIP_FR", 0xC04, 64, 8, 0x00000000, false,
    [⟨15, 0, .ro, .plain, []⟩]⟩]

/-! ### PATT: 06_feed_pipeline.md, Table 6.10 -/

def PATT_CFG : FRef := ⟨0x42, 0x040, 0, 31, 0⟩
def PATT_CFG_BANK : FRef := ⟨0x42, 0x040, 0, 8, 8⟩
def PATT_CFG_DIV : FRef := ⟨0x42, 0x040, 0, 7, 0⟩
def PATT_RATE : FRef := ⟨0x42, 0x044, 0, 31, 0⟩
def PATT_RATE_MHZ : FRef := ⟨0x42, 0x044, 0, 31, 0⟩
def PATT_DRAM : FRef := ⟨0x42, 0x048, 0, 31, 0⟩
def PATT_DRAM_KBPS : FRef := ⟨0x42, 0x048, 0, 31, 0⟩
def PATT_STAT : FRef := ⟨0x42, 0x04C, 0, 31, 0⟩
def PATT_STAT_PC : FRef := ⟨0x42, 0x04C, 0, 14, 8⟩
def PATT_STAT_STATE : FRef := ⟨0x42, 0x04C, 0, 2, 0⟩
def PATT_FC : FRef := ⟨0x42, 0x050, 0, 31, 0⟩
def PATT_FC_FC : FRef := ⟨0x42, 0x050, 0, 31, 0⟩
def PATT_DCN0 : FRef := ⟨0x42, 0x054, 0, 31, 0⟩
def PATT_DCN0_DCN : FRef := ⟨0x42, 0x054, 0, 31, 0⟩
def PATT_NEWDCN : FRef := ⟨0x42, 0x058, 0, 31, 0⟩
def PATT_NEWDCN_DCN : FRef := ⟨0x42, 0x058, 0, 31, 0⟩
def PATT_CNT : FRef := ⟨0x42, 0x05C, 0, 31, 0⟩
def PATT_CNT_FRAMES : FRef := ⟨0x42, 0x05C, 0, 31, 16⟩
def PATT_CNT_OVERRUN : FRef := ⟨0x42, 0x05C, 0, 15, 0⟩
def PATT_P0 : FRef := ⟨0x42, 0x400, 4, 31, 0⟩
def PATT_P0_WORD : FRef := ⟨0x42, 0x400, 4, 31, 0⟩
def PATT_P1 : FRef := ⟨0x42, 0xA00, 4, 31, 0⟩
def PATT_P1_WORD : FRef := ⟨0x42, 0xA00, 4, 31, 0⟩

/-- The block registers of PATT: name, offset, count, stride, reset value, banked, fields. -/
def regsPATT : List Reg := [
  ⟨"PATT_CFG", 0x040, 1, 4, 0x00000001, false,
    [⟨8, 8, .rw, .cycle, []⟩, ⟨7, 0, .rw, .cycle, []⟩]⟩,
  ⟨"PATT_RATE", 0x044, 1, 4, 0x0000EA60, false,
    [⟨31, 0, .rw, .staged, []⟩]⟩,
  ⟨"PATT_DRAM", 0x048, 1, 4, 0x00007D00, false,
    [⟨31, 0, .rw, .staged, [.rng 0 0 0x1401, .rng 4000001 4294967295 0x1402]⟩]⟩,
  ⟨"PATT_STAT", 0x04C, 1, 4, 0x00000000, false,
    [⟨14, 8, .ro, .plain, []⟩, ⟨2, 0, .ro, .plain, []⟩]⟩,
  ⟨"PATT_FC", 0x050, 1, 4, 0x00000000, false,
    [⟨31, 0, .ro, .plain, []⟩]⟩,
  ⟨"PATT_DCN0", 0x054, 1, 4, 0x00000000, false,
    [⟨31, 0, .ro, .plain, []⟩]⟩,
  ⟨"PATT_NEWDCN", 0x058, 1, 4, 0x00000000, false,
    [⟨31, 0, .ro, .plain, []⟩]⟩,
  ⟨"PATT_CNT", 0x05C, 1, 4, 0x00000000, false,
    [⟨31, 16, .rc, .plain, []⟩, ⟨15, 0, .rc, .plain, []⟩]⟩,
  ⟨"PATT_P0", 0x400, 384, 4, 0x00000000, false,
    [⟨31, 0, .rw, .plain, []⟩]⟩,
  ⟨"PATT_P1", 0xA00, 384, 4, 0x00000000, false,
    [⟨31, 0, .rw, .plain, []⟩]⟩]

/-! ### PIX: 07_lamp_correction.md, Table 7.7 -/

def PIX_DITH : FRef := ⟨0x52, 0x040, 0, 31, 0⟩
def PIX_DITH_EN : FRef := ⟨0x52, 0x040, 0, 0, 0⟩
def PIX_RET_A : FRef := ⟨0x52, 0x044, 0, 31, 0⟩
def PIX_RET_A_RET : FRef := ⟨0x52, 0x044, 0, 31, 0⟩
def PIX_RET_B : FRef := ⟨0x52, 0x048, 0, 31, 0⟩
def PIX_RET_B_RET : FRef := ⟨0x52, 0x048, 0, 31, 0⟩
def PIX_HALF : FRef := ⟨0x52, 0x04C, 0, 31, 0⟩
def PIX_HALF_B : FRef := ⟨0x52, 0x04C, 0, 5, 4⟩
def PIX_HALF_A : FRef := ⟨0x52, 0x04C, 0, 1, 0⟩
def PIX_SPEED : FRef := ⟨0x52, 0x050, 0, 31, 0⟩
def PIX_SPEED_B : FRef := ⟨0x52, 0x050, 0, 31, 16⟩
def PIX_SPEED_A : FRef := ⟨0x52, 0x050, 0, 15, 0⟩
def PIX_QUEUE : FRef := ⟨0x52, 0x054, 0, 31, 0⟩
def PIX_QUEUE_RUNNING : FRef := ⟨0x52, 0x054, 0, 20, 16⟩
def PIX_QUEUE_WAITING : FRef := ⟨0x52, 0x054, 0, 4, 0⟩
def PIX_JOBLAT : FRef := ⟨0x52, 0x058, 0, 31, 0⟩
def PIX_JOBLAT_MAX : FRef := ⟨0x52, 0x058, 0, 31, 16⟩
def PIX_JOBLAT_LAST : FRef := ⟨0x52, 0x058, 0, 15, 0⟩
def PIX_JOBCNT : FRef := ⟨0x52, 0x05C, 0, 31, 0⟩
def PIX_JOBCNT_DONE : FRef := ⟨0x52, 0x05C, 0, 31, 16⟩
def PIX_JOBCNT_DISCARDED : FRef := ⟨0x52, 0x05C, 0, 15, 0⟩
def PIX_SPOTCNT : FRef := ⟨0x52, 0x060, 0, 31, 0⟩
def PIX_SPOTCNT_CHECKS : FRef := ⟨0x52, 0x060, 0, 31, 8⟩
def PIX_SPOTCNT_MISMATCH : FRef := ⟨0x52, 0x060, 0, 7, 0⟩

/-- The block registers of PIX: name, offset, count, stride, reset value, banked, fields. -/
def regsPIX : List Reg := [
  ⟨"PIX_DITH", 0x040, 1, 4, 0x00000001, false,
    [⟨0, 0, .rw, .staged, []⟩]⟩,
  ⟨"PIX_RET_A", 0x044, 1, 4, 0x00000000, false,
    [⟨31, 0, .w1c, .plain, []⟩]⟩,
  ⟨"PIX_RET_B", 0x048, 1, 4, 0x00000000, false,
    [⟨31, 0, .w1c, .plain, []⟩]⟩,
  ⟨"PIX_HALF", 0x04C, 1, 4, 0x00000000, false,
    [⟨5, 4, .ro, .plain, []⟩, ⟨1, 0, .ro, .plain, []⟩]⟩,
  ⟨"PIX_SPEED", 0x050, 1, 4, 0x00000000, false,
    [⟨31, 16, .ro, .plain, []⟩, ⟨15, 0, .ro, .plain, []⟩]⟩,
  ⟨"PIX_QUEUE", 0x054, 1, 4, 0x00000000, false,
    [⟨20, 16, .ro, .plain, []⟩, ⟨4, 0, .ro, .plain, []⟩]⟩,
  ⟨"PIX_JOBLAT", 0x058, 1, 4, 0x00000000, false,
    [⟨31, 16, .rc, .plain, []⟩, ⟨15, 0, .rc, .plain, []⟩]⟩,
  ⟨"PIX_JOBCNT", 0x05C, 1, 4, 0x00000000, false,
    [⟨31, 16, .rc, .plain, []⟩, ⟨15, 0, .rc, .plain, []⟩]⟩,
  ⟨"PIX_SPOTCNT", 0x060, 1, 4, 0x00000000, false,
    [⟨31, 8, .rc, .plain, []⟩, ⟨7, 0, .rc, .plain, []⟩]⟩]

/-! ### CORR: 07_lamp_correction.md, Table 7.9 -/

def CORR_NSET : FRef := ⟨0x53, 0x040, 0, 31, 0⟩
def CORR_NSET_NSET : FRef := ⟨0x53, 0x040, 0, 2, 0⟩
def CORR_FIX : FRef := ⟨0x53, 0x044, 0, 31, 0⟩
def CORR_FIX_EN : FRef := ⟨0x53, 0x044, 0, 8, 8⟩
def CORR_FIX_SET : FRef := ⟨0x53, 0x044, 0, 1, 0⟩
def CORR_STAT : FRef := ⟨0x53, 0x048, 0, 31, 0⟩
def CORR_STAT_COPY : FRef := ⟨0x53, 0x048, 0, 8, 8⟩
def CORR_STAT_BLEND : FRef := ⟨0x53, 0x048, 0, 2, 0⟩
def CORR_SWDCN : FRef := ⟨0x53, 0x04C, 0, 31, 0⟩
def CORR_SWDCN_DCN : FRef := ⟨0x53, 0x04C, 0, 31, 0⟩
def CORR_CNT : FRef := ⟨0x53, 0x050, 0, 31, 0⟩
def CORR_CNT_BLENDS : FRef := ⟨0x53, 0x050, 0, 31, 16⟩
def CORR_CNT_SKIPPED : FRef := ⟨0x53, 0x050, 0, 15, 8⟩
def CORR_CNT_DEFERRED : FRef := ⟨0x53, 0x050, 0, 7, 0⟩
def CORR_DBE : FRef := ⟨0x53, 0x054, 0, 31, 0⟩
def CORR_DBE_LAMP : FRef := ⟨0x53, 0x054, 0, 17, 0⟩
def CORR_TS_A : FRef := ⟨0x53, 0x080, 16, 31, 0⟩
def CORR_TS_A_LOADED : FRef := ⟨0x53, 0x080, 16, 31, 31⟩
def CORR_TS_A_LAMPS : FRef := ⟨0x53, 0x080, 16, 17, 0⟩
def CORR_TS_REF : FRef := ⟨0x53, 0x084, 16, 31, 0⟩
def CORR_TS_REF_TREF : FRef := ⟨0x53, 0x084, 16, 15, 0⟩
def CORR_TS_ID : FRef := ⟨0x53, 0x088, 16, 31, 0⟩
def CORR_TS_ID_ID : FRef := ⟨0x53, 0x088, 16, 31, 0⟩
def CORR_ZB : FRef := ⟨0x53, 0x200, 4, 31, 0⟩
def CORR_ZB_SET : FRef := ⟨0x53, 0x200, 4, 9, 8⟩
def CORR_ZB_F : FRef := ⟨0x53, 0x200, 4, 7, 0⟩

/-- The block registers of CORR: name, offset, count, stride, reset value, banked, fields. -/
def regsCORR : List Reg := [
  ⟨"CORR_NSET", 0x040, 1, 4, 0x00000000, false,
    [⟨2, 0, .rw, .staged, [.rng 5 7 0x1502]⟩]⟩,
  ⟨"CORR_FIX", 0x044, 1, 4, 0x00000000, false,
    [⟨8, 8, .rw, .staged, []⟩, ⟨1, 0, .rw, .staged, []⟩]⟩,
  ⟨"CORR_STAT", 0x048, 1, 4, 0x00000000, false,
    [⟨8, 8, .ro, .plain, []⟩, ⟨2, 0, .ro, .plain, []⟩]⟩,
  ⟨"CORR_SWDCN", 0x04C, 1, 4, 0x00000000, false,
    [⟨31, 0, .ro, .plain, []⟩]⟩,
  ⟨"CORR_CNT", 0x050, 1, 4, 0x00000000, false,
    [⟨31, 16, .rc, .plain, []⟩, ⟨15, 8, .rc, .plain, []⟩, ⟨7, 0, .rc, .plain, []⟩]⟩,
  ⟨"CORR_DBE", 0x054, 1, 4, 0x00000000, false,
    [⟨17, 0, .ro, .plain, []⟩]⟩,
  ⟨"CORR_TS_A", 0x080, 4, 16, 0x00000000, false,
    [⟨31, 31, .ro, .plain, []⟩, ⟨17, 0, .ro, .plain, []⟩]⟩,
  ⟨"CORR_TS_REF", 0x084, 4, 16, 0x00000000, false,
    [⟨15, 0, .rw, .staged, []⟩]⟩,
  ⟨"CORR_TS_ID", 0x088, 4, 16, 0x00000000, false,
    [⟨31, 0, .ro, .plain, []⟩]⟩,
  ⟨"CORR_ZB", 0x200, 64, 4, 0x00000000, false,
    [⟨9, 8, .ro, .plain, []⟩, ⟨7, 0, .ro, .plain, []⟩]⟩]

/-! ### TFIELD: 07_lamp_correction.md, Table 7.11 -/

def TF_PERIOD : FRef := ⟨0x54, 0x040, 0, 31, 0⟩
def TF_PERIOD_MS : FRef := ⟨0x54, 0x040, 0, 13, 0⟩
def TF_XCHK : FRef := ⟨0x54, 0x044, 0, 31, 0⟩
def TF_XCHK_DELTA : FRef := ⟨0x54, 0x044, 0, 7, 0⟩
def TF_STAT : FRef := ⟨0x54, 0x048, 0, 31, 0⟩
def TF_STAT_VALID : FRef := ⟨0x54, 0x048, 0, 21, 16⟩
def TF_STAT_REFRESH : FRef := ⟨0x54, 0x048, 0, 15, 0⟩
def TF_ZMAX : FRef := ⟨0x54, 0x04C, 0, 31, 0⟩
def TF_ZMAX_ZONE : FRef := ⟨0x54, 0x04C, 0, 21, 16⟩
def TF_ZMAX_TEMP : FRef := ⟨0x54, 0x04C, 0, 15, 0⟩
def TF_SFAIL0 : FRef := ⟨0x54, 0x050, 0, 31, 0⟩
def TF_SFAIL0_FAILED : FRef := ⟨0x54, 0x050, 0, 31, 0⟩
def TF_SFAIL1 : FRef := ⟨0x54, 0x054, 0, 31, 0⟩
def TF_SFAIL1_FAILED : FRef := ⟨0x54, 0x054, 0, 15, 0⟩
def TF_RDCN : FRef := ⟨0x54, 0x058, 0, 31, 0⟩
def TF_RDCN_DCN : FRef := ⟨0x54, 0x058, 0, 31, 0⟩
def TF_SA : FRef := ⟨0x54, 0x100, 8, 31, 0⟩
def TF_SA_EN : FRef := ⟨0x54, 0x100, 8, 31, 31⟩
def TF_SA_FMT : FRef := ⟨0x54, 0x100, 8, 29, 28⟩
def TF_SA_ADDR : FRef := ⟨0x54, 0x100, 8, 26, 20⟩
def TF_SA_REG : FRef := ⟨0x54, 0x100, 8, 19, 12⟩
def TF_SA_OFS : FRef := ⟨0x54, 0x100, 8, 11, 0⟩
def TF_SB : FRef := ⟨0x54, 0x104, 8, 31, 0⟩
def TF_SB_P2 : FRef := ⟨0x54, 0x104, 8, 31, 26⟩
def TF_SB_P1 : FRef := ⟨0x54, 0x104, 8, 25, 20⟩
def TF_SB_X : FRef := ⟨0x54, 0x104, 8, 14, 8⟩
def TF_SB_Y : FRef := ⟨0x54, 0x104, 8, 6, 0⟩
def TF_SRD : FRef := ⟨0x54, 0x300, 4, 31, 0⟩
def TF_SRD_VALID : FRef := ⟨0x54, 0x300, 4, 31, 31⟩
def TF_SRD_FAILED : FRef := ⟨0x54, 0x300, 4, 30, 30⟩
def TF_SRD_SUSP : FRef := ⟨0x54, 0x300, 4, 29, 28⟩
def TF_SRD_TEMP : FRef := ⟨0x54, 0x300, 4, 15, 0⟩
def TF_Z : FRef := ⟨0x54, 0x400, 4, 31, 0⟩
def TF_Z_TEMP : FRef := ⟨0x54, 0x400, 4, 15, 0⟩

/-- The block registers of TFIELD: name, offset, count, stride, reset value, banked, fields. -/
def regsTFIELD : List Reg := [
  ⟨"TF_PERIOD", 0x040, 1, 4, 0x000003E8, false,
    [⟨13, 0, .rw, .staged, [.rng 0 0 0x1501, .rng 1 249 0x1503, .rng 10001 16383 0x1502]⟩]⟩,
  ⟨"TF_XCHK", 0x044, 1, 4, 0x00000050, false,
    [⟨7, 0, .rw, .staged, [.rng 0 0 0x1501, .rng 1 15 0x1503]⟩]⟩,
  ⟨"TF_STAT", 0x048, 1, 4, 0x00000000, false,
    [⟨21, 16, .ro, .plain, []⟩, ⟨15, 0, .ro, .plain, []⟩]⟩,
  ⟨"TF_ZMAX", 0x04C, 1, 4, 0x00000000, false,
    [⟨21, 16, .ro, .plain, []⟩, ⟨15, 0, .ro, .plain, []⟩]⟩,
  ⟨"TF_SFAIL0", 0x050, 1, 4, 0x00000000, false,
    [⟨31, 0, .w1c, .plain, []⟩]⟩,
  ⟨"TF_SFAIL1", 0x054, 1, 4, 0x00000000, false,
    [⟨15, 0, .w1c, .plain, []⟩]⟩,
  ⟨"TF_RDCN", 0x058, 1, 4, 0x00000000, false,
    [⟨31, 0, .ro, .plain, []⟩]⟩,
  ⟨"TF_SA", 0x100, 48, 8, 0x00000000, false,
    [⟨31, 31, .rw, .staged, []⟩, ⟨29, 28, .rw, .staged, []⟩, ⟨26, 20, .rw, .staged, []⟩, ⟨19, 12, .rw, .staged, []⟩, ⟨11, 0, .rw, .staged, []⟩]⟩,
  ⟨"TF_SB", 0x104, 48, 8, 0x00000000, false,
    [⟨31, 26, .rw, .staged, [.rng 48 63 0x1502]⟩, ⟨25, 20, .rw, .staged, [.rng 48 63 0x1502]⟩, ⟨14, 8, .rw, .staged, []⟩, ⟨6, 0, .rw, .staged, []⟩]⟩,
  ⟨"TF_SRD", 0x300, 48, 4, 0x00000000, false,
    [⟨31, 31, .ro, .plain, []⟩, ⟨30, 30, .ro, .plain, []⟩, ⟨29, 28, .ro, .plain, []⟩, ⟨15, 0, .ro, .plain, []⟩]⟩,
  ⟨"TF_Z", 0x400, 64, 4, 0x00000190, false,
    [⟨15, 0, .ro, .plain, []⟩]⟩]

/-! ### DIM: 08_dimming_engine.md, Table 8.8 -/

def DIM_CUR : FRef := ⟨0x60, 0x040, 0, 31, 0⟩
def DIM_CUR_FINE_EN : FRef := ⟨0x60, 0x040, 0, 31, 31⟩
def DIM_CUR_FULLMIN : FRef := ⟨0x60, 0x040, 0, 27, 16⟩
def DIM_CUR_PMIN : FRef := ⟨0x60, 0x040, 0, 11, 0⟩
def DIM_PLACE : FRef := ⟨0x60, 0x044, 0, 31, 0⟩
def DIM_PLACE_STAG : FRef := ⟨0x60, 0x044, 0, 13, 8⟩
def DIM_PLACE_ALIGN : FRef := ⟨0x60, 0x044, 0, 1, 0⟩
def DIM_STAT : FRef := ⟨0x60, 0x048, 0, 31, 0⟩
def DIM_STAT_DERIVE : FRef := ⟨0x60, 0x048, 0, 31, 31⟩
def DIM_STAT_FINEOFF : FRef := ⟨0x60, 0x048, 0, 30, 30⟩
def DIM_STAT_LG : FRef := ⟨0x60, 0x048, 0, 20, 0⟩
def DIM_DBE : FRef := ⟨0x60, 0x04C, 0, 31, 0⟩
def DIM_DBE_UNIT : FRef := ⟨0x60, 0x04C, 0, 31, 24⟩
def DIM_DBE_WORD : FRef := ⟨0x60, 0x04C, 0, 12, 0⟩
def DIM_CNT : FRef := ⟨0x60, 0x050, 0, 31, 0⟩
def DIM_CNT_UNDERRUN : FRef := ⟨0x60, 0x050, 0, 31, 16⟩
def DIM_CNT_DBELAMPS : FRef := ⟨0x60, 0x050, 0, 15, 0⟩
def DIM_MSEL : FRef := ⟨0x60, 0x054, 0, 31, 0⟩
def DIM_MSEL_WIN : FRef := ⟨0x60, 0x054, 0, 3, 0⟩
def DIM_MC0 : FRef := ⟨0x60, 0x058, 0, 31, 0⟩
def DIM_MC0_LAMPS : FRef := ⟨0x60, 0x058, 0, 17, 0⟩
def DIM_MC1 : FRef := ⟨0x60, 0x05C, 0, 31, 0⟩
def DIM_MC1_LAMPS : FRef := ⟨0x60, 0x05C, 0, 17, 0⟩
def DIM_MC2 : FRef := ⟨0x60, 0x060, 0, 31, 0⟩
def DIM_MC2_LAMPS : FRef := ⟨0x60, 0x060, 0, 17, 0⟩
def DIM_MC3 : FRef := ⟨0x60, 0x064, 0, 31, 0⟩
def DIM_MC3_LAMPS : FRef := ⟨0x60, 0x064, 0, 17, 0⟩
def DIM_PSEL : FRef := ⟨0x60, 0x068, 0, 31, 0⟩
def DIM_PSEL_WIN : FRef := ⟨0x60, 0x068, 0, 27, 24⟩
def DIM_PSEL_LAMP : FRef := ⟨0x60, 0x068, 0, 17, 0⟩
def DIM_PCTL : FRef := ⟨0x60, 0x06C, 0, 31, 0⟩
def DIM_PCTL_CTL : FRef := ⟨0x60, 0x06C, 0, 31, 24⟩
def DIM_PCTL_V : FRef := ⟨0x60, 0x06C, 0, 23, 0⟩
def DIM_PTOT : FRef := ⟨0x60, 0x070, 0, 31, 0⟩
def DIM_PTOT_T : FRef := ⟨0x60, 0x070, 0, 31, 0⟩
def DIM_PDCN : FRef := ⟨0x60, 0x074, 0, 31, 0⟩
def DIM_PDCN_DCN : FRef := ⟨0x60, 0x074, 0, 31, 0⟩

/-- The block registers of DIM: name, offset, count, stride, reset value, banked, fields. -/
def regsDIM : List Reg := [
  ⟨"DIM_CUR", 0x040, 1, 4, 0x80C000C0, false,
    [⟨31, 31, .rw, .cycle, []⟩, ⟨27, 16, .rw, .cycle, [.rng 0 0 0x1601, .rng 1 191 0x1603]⟩, ⟨11, 0, .rw, .cycle, [.rng 0 0 0x1601, .rng 1 191 0x1603]⟩]⟩,
  ⟨"DIM_PLACE", 0x044, 1, 4, 0x00000000, false,
    [⟨13, 8, .rw, .staged, []⟩, ⟨1, 0, .rw, .staged, [.rng 3 3 0x1603]⟩]⟩,
  ⟨"DIM_STAT", 0x048, 1, 4, 0x00000000, false,
    [⟨31, 31, .ro, .plain, []⟩, ⟨30, 30, .ro, .plain, []⟩, ⟨20, 0, .ro, .plain, []⟩]⟩,
  ⟨"DIM_DBE", 0x04C, 1, 4, 0x00000000, false,
    [⟨31, 24, .ro, .plain, []⟩, ⟨12, 0, .ro, .plain, []⟩]⟩,
  ⟨"DIM_CNT", 0x050, 1, 4, 0x00000000, false,
    [⟨31, 16, .rc, .plain, []⟩, ⟨15, 0, .rc, .plain, []⟩]⟩,
  ⟨"DIM_MSEL", 0x054, 1, 4, 0x00000000, true,
    [⟨3, 0, .rw, .plain, []⟩]⟩,
  ⟨"DIM_MC0", 0x058, 1, 4, 0x00000000, false,
    [⟨17, 0, .ro, .plain, []⟩]⟩,
  ⟨"DIM_MC1", 0x05C, 1, 4, 0x00000000, false,
    [⟨17, 0, .ro, .plain, []⟩]⟩,
  ⟨"DIM_MC2", 0x060, 1, 4, 0x00000000, false,
    [⟨17, 0, .ro, .plain, []⟩]⟩,
  ⟨"DIM_MC3", 0x064, 1, 4, 0x00000000, false,
    [⟨17, 0, .ro, .plain, []⟩]⟩,
  ⟨"DIM_PSEL", 0x068, 1, 4, 0x00000000, true,
    [⟨27, 24, .rw, .plain, []⟩, ⟨17, 0, .rw, .plain, []⟩]⟩,
  ⟨"DIM_PCTL", 0x06C, 1, 4, 0x00000000, false,
    [⟨31, 24, .ro, .plain, []⟩, ⟨23, 0, .ro, .plain, []⟩]⟩,
  ⟨"DIM_PTOT", 0x070, 1, 4, 0x00000000, false,
    [⟨31, 0, .ro, .plain, []⟩]⟩,
  ⟨"DIM_PDCN", 0x074, 1, 4, 0x00000000, false,
    [⟨31, 0, .ro, .plain, []⟩]⟩]

/-! ### EDGE: 08_dimming_engine.md, Table 8.10 -/

def EDGE_STAT : FRef := ⟨0x61, 0x040, 0, 31, 0⟩
def EDGE_STAT_CLK_RUN : FRef := ⟨0x61, 0x040, 0, 31, 31⟩
def EDGE_STAT_TAPCAL : FRef := ⟨0x61, 0x040, 0, 30, 30⟩
def EDGE_STAT_FRAC : FRef := ⟨0x61, 0x040, 0, 15, 8⟩
def EDGE_STAT_BIN_HI : FRef := ⟨0x61, 0x040, 0, 6, 4⟩
def EDGE_STAT_BIN_LO : FRef := ⟨0x61, 0x040, 0, 2, 0⟩
def ORDER_ERR : FRef := ⟨0x61, 0x044, 0, 31, 0⟩
def ORDER_ERR_COUNT : FRef := ⟨0x61, 0x044, 0, 31, 0⟩
def EDGE_PERR : FRef := ⟨0x61, 0x048, 0, 31, 0⟩
def EDGE_PERR_SHORT : FRef := ⟨0x61, 0x048, 0, 31, 16⟩
def EDGE_PERR_RANGE : FRef := ⟨0x61, 0x048, 0, 15, 0⟩
def EDGE_OVR_CTRL : FRef := ⟨0x61, 0x04C, 0, 31, 0⟩
def EDGE_OVR_CTRL_FINE : FRef := ⟨0x61, 0x04C, 0, 16, 16⟩
def EDGE_OVR_CTRL_ROW : FRef := ⟨0x61, 0x04C, 0, 14, 8⟩
def EDGE_OVR_CTRL_ALLROWS : FRef := ⟨0x61, 0x04C, 0, 1, 1⟩
def EDGE_OVR_CTRL_EN : FRef := ⟨0x61, 0x04C, 0, 0, 0⟩
def EDGE_OVR_SEL : FRef := ⟨0x61, 0x050, 0, 31, 0⟩
def EDGE_OVR_SEL_LAST : FRef := ⟨0x61, 0x050, 0, 26, 16⟩
def EDGE_OVR_SEL_FIRST : FRef := ⟨0x61, 0x050, 0, 10, 0⟩
def EDGE_OVR_ON : FRef := ⟨0x61, 0x054, 0, 31, 0⟩
def EDGE_OVR_ON_ON : FRef := ⟨0x61, 0x054, 0, 20, 0⟩
def EDGE_OVR_OFF : FRef := ⟨0x61, 0x058, 0, 31, 0⟩
def EDGE_OVR_OFF_OFF : FRef := ⟨0x61, 0x058, 0, 20, 0⟩
def EDGE_OVR_CNT : FRef := ⟨0x61, 0x05C, 0, 31, 0⟩
def EDGE_OVR_CNT_SPANS : FRef := ⟨0x61, 0x05C, 0, 31, 0⟩

/-- The block registers of EDGE: name, offset, count, stride, reset value, banked, fields. -/
def regsEDGE : List Reg := [
  ⟨"EDGE_STAT", 0x040, 1, 4, 0x00000000, false,
    [⟨31, 31, .ro, .plain, []⟩, ⟨30, 30, .ro, .plain, []⟩, ⟨15, 8, .ro, .plain, []⟩, ⟨6, 4, .ro, .plain, []⟩, ⟨2, 0, .ro, .plain, []⟩]⟩,
  ⟨"ORDER_ERR", 0x044, 1, 4, 0x00000000, false,
    [⟨31, 0, .rc, .plain, []⟩]⟩,
  ⟨"EDGE_PERR", 0x048, 1, 4, 0x00000000, false,
    [⟨31, 16, .rc, .plain, []⟩, ⟨15, 0, .rc, .plain, []⟩]⟩,
  ⟨"EDGE_OVR_CTRL", 0x04C, 1, 4, 0x00000000, false,
    [⟨16, 16, .rw, .plain, []⟩, ⟨14, 8, .rw, .plain, []⟩, ⟨1, 1, .rw, .plain, []⟩, ⟨0, 0, .rw, .plain, []⟩]⟩,
  ⟨"EDGE_OVR_SEL", 0x050, 1, 4, 0x00000000, false,
    [⟨26, 16, .rw, .plain, [.rng 1536 2047 0x1602]⟩, ⟨10, 0, .rw, .plain, [.rng 1536 2047 0x1602]⟩]⟩,
  ⟨"EDGE_OVR_ON", 0x054, 1, 4, 0x00000000, false,
    [⟨20, 0, .rw, .plain, []⟩]⟩,
  ⟨"EDGE_OVR_OFF", 0x058, 1, 4, 0x00000000, false,
    [⟨20, 0, .rw, .plain, [.rng 1048577 2097151 0x1602]⟩]⟩,
  ⟨"EDGE_OVR_CNT", 0x05C, 1, 4, 0x00000000, false,
    [⟨31, 0, .rc, .plain, []⟩]⟩]

/-! ### SCAN: 09_scan_out_and_sinks.md, Table 9.6 -/

def SCAN_SPAN : FRef := ⟨0x62, 0x040, 0, 31, 0⟩
def SCAN_SPAN_UNITS : FRef := ⟨0x62, 0x040, 0, 15, 0⟩
def SCAN_RATIO : FRef := ⟨0x62, 0x044, 0, 31, 0⟩
def SCAN_RATIO_ROWS : FRef := ⟨0x62, 0x044, 0, 7, 0⟩
def SCAN_BLANK : FRef := ⟨0x62, 0x048, 0, 31, 0⟩
def SCAN_BLANK_DIS : FRef := ⟨0x62, 0x048, 0, 25, 16⟩
def SCAN_BLANK_BLANK : FRef := ⟨0x62, 0x048, 0, 9, 0⟩
def SCAN_PRE : FRef := ⟨0x62, 0x04C, 0, 31, 0⟩
def SCAN_PRE_LEN : FRef := ⟨0x62, 0x04C, 0, 9, 0⟩
def SCAN_PREV : FRef := ⟨0x62, 0x050, 0, 31, 0⟩
def SCAN_PREV_R : FRef := ⟨0x62, 0x050, 0, 22, 16⟩
def SCAN_PREV_G : FRef := ⟨0x62, 0x050, 0, 14, 8⟩
def SCAN_PREV_B : FRef := ⟨0x62, 0x050, 0, 6, 0⟩
def SCAN_GCUR0 : FRef := ⟨0x62, 0x054, 0, 31, 0⟩
def SCAN_GCUR0_R : FRef := ⟨0x62, 0x054, 0, 26, 16⟩
def SCAN_GCUR0_G : FRef := ⟨0x62, 0x054, 0, 10, 0⟩
def SCAN_GCUR1 : FRef := ⟨0x62, 0x058, 0, 31, 0⟩
def SCAN_GCUR1_B : FRef := ⟨0x62, 0x058, 0, 10, 0⟩
def SCAN_ROWT : FRef := ⟨0x62, 0x05C, 0, 31, 0⟩
def SCAN_ROWT_DRIVE : FRef := ⟨0x62, 0x05C, 0, 1, 0⟩
def SCAN_HR : FRef := ⟨0x62, 0x060, 0, 31, 0⟩
def SCAN_HR_DELAY : FRef := ⟨0x62, 0x060, 0, 9, 0⟩
def SCAN_ROWF : FRef := ⟨0x62, 0x064, 0, 31, 0⟩
def SCAN_ROWF_ACT : FRef := ⟨0x62, 0x064, 0, 0, 0⟩
def SCAN_ROWST : FRef := ⟨0x62, 0x068, 0, 31, 0⟩
def SCAN_ROWST_VALID : FRef := ⟨0x62, 0x068, 0, 15, 15⟩
def SCAN_ROWST_LOW : FRef := ⟨0x62, 0x068, 0, 8, 8⟩
def SCAN_ROWST_ROW : FRef := ⟨0x62, 0x068, 0, 6, 0⟩
def SCAN_ROWCNT : FRef := ⟨0x62, 0x06C, 0, 31, 0⟩
def SCAN_ROWCNT_COUNT : FRef := ⟨0x62, 0x06C, 0, 15, 0⟩
def SCAN_STAT : FRef := ⟨0x62, 0x070, 0, 31, 0⟩
def SCAN_STAT_TAIL : FRef := ⟨0x62, 0x070, 0, 31, 31⟩
def SCAN_STAT_SWEEP : FRef := ⟨0x62, 0x070, 0, 24, 16⟩
def SCAN_STAT_SPAN : FRef := ⟨0x62, 0x070, 0, 6, 0⟩
def SCAN_RLVL : FRef := ⟨0x62, 0x074, 4, 31, 0⟩
def SCAN_RLVL_LVL : FRef := ⟨0x62, 0x074, 4, 31, 0⟩

/-- The block registers of SCAN: name, offset, count, stride, reset value, banked, fields. -/
def regsSCAN : List Reg := [
  ⟨"SCAN_SPAN", 0x040, 1, 4, 0x000007F2, false,
    [⟨15, 0, .rw, .cycle, [.rng 0 0 0x1701, .rng 1 63 0x1703, .rng 32769 65535 0x1702]⟩]⟩,
  ⟨"SCAN_RATIO", 0x044, 1, 4, 0x00000080, false,
    [⟨7, 0, .rw, .cycle, [.rng 0 0 0x1701, .rng 129 255 0x1702]⟩]⟩,
  ⟨"SCAN_BLANK", 0x048, 1, 4, 0x00500064, false,
    [⟨25, 16, .rw, .cycle, []⟩, ⟨9, 0, .rw, .cycle, [.rng 0 0 0x1701, .rng 1 19 0x1703, .rng 1001 1023 0x1702]⟩]⟩,
  ⟨"SCAN_PRE", 0x04C, 1, 4, 0x00000000, false,
    [⟨9, 0, .rw, .cycle, []⟩]⟩,
  ⟨"SCAN_PREV", 0x050, 1, 4, 0x00141E1E, false,
    [⟨22, 16, .rw, .staged, [.rng 81 127 0x1702]⟩, ⟨14, 8, .rw, .staged, [.rng 81 127 0x1702]⟩, ⟨6, 0, .rw, .staged, [.rng 81 127 0x1702]⟩]⟩,
  ⟨"SCAN_GCUR0", 0x054, 1, 4, 0x00000000, false,
    [⟨26, 16, .rw, .cycle, []⟩, ⟨10, 0, .rw, .cycle, []⟩]⟩,
  ⟨"SCAN_GCUR1", 0x058, 1, 4, 0x00000000, false,
    [⟨10, 0, .rw, .cycle, []⟩]⟩,
  ⟨"SCAN_ROWT", 0x05C, 1, 4, 0x00000001, false,
    [⟨1, 0, .rw, .staged, []⟩]⟩,
  ⟨"SCAN_HR", 0x060, 1, 4, 0x00000200, false,
    [⟨9, 0, .rw, .staged, [.rng 0 0 0x1701, .rng 1 127 0x1703]⟩]⟩,
  ⟨"SCAN_ROWF", 0x064, 1, 4, 0x00000001, false,
    [⟨0, 0, .rw, .plain, []⟩]⟩,
  ⟨"SCAN_ROWST", 0x068, 1, 4, 0x00000000, false,
    [⟨15, 15, .ro, .plain, []⟩, ⟨8, 8, .ro, .plain, []⟩, ⟨6, 0, .ro, .plain, []⟩]⟩,
  ⟨"SCAN_ROWCNT", 0x06C, 1, 4, 0x00000000, false,
    [⟨15, 0, .rc, .plain, []⟩]⟩,
  ⟨"SCAN_STAT", 0x070, 1, 4, 0x80000000, false,
    [⟨31, 31, .ro, .plain, []⟩, ⟨24, 16, .ro, .plain, []⟩, ⟨6, 0, .ro, .plain, []⟩]⟩,
  ⟨"SCAN_RLVL", 0x074, 4, 4, 0xFFFFFFFF, false,
    [⟨31, 0, .ro, .plain, []⟩]⟩]

/-! ### WIRE: 09_scan_out_and_sinks.md, Table 9.8 -/

def WIRE_GRID : FRef := ⟨0x63, 0x040, 0, 31, 0⟩
def WIRE_GRID_W : FRef := ⟨0x63, 0x040, 0, 28, 16⟩
def WIRE_GRID_H : FRef := ⟨0x63, 0x040, 0, 12, 0⟩
def WIRE_CORD0 : FRef := ⟨0x63, 0x044, 0, 31, 0⟩
def WIRE_CORD0_CORD0 : FRef := ⟨0x63, 0x044, 0, 2, 0⟩
def WIRE_CORD0_CORD1 : FRef := ⟨0x63, 0x044, 0, 6, 4⟩
def WIRE_CORD0_CORD2 : FRef := ⟨0x63, 0x044, 0, 10, 8⟩
def WIRE_CORD0_CORD3 : FRef := ⟨0x63, 0x044, 0, 14, 12⟩
def WIRE_CORD0_CORD4 : FRef := ⟨0x63, 0x044, 0, 18, 16⟩
def WIRE_CORD0_CORD5 : FRef := ⟨0x63, 0x044, 0, 22, 20⟩
def WIRE_CORD0_CORD6 : FRef := ⟨0x63, 0x044, 0, 26, 24⟩
def WIRE_CORD0_CORD7 : FRef := ⟨0x63, 0x044, 0, 30, 28⟩
def WIRE_CORD1 : FRef := ⟨0x63, 0x048, 0, 31, 0⟩
def WIRE_CORD1_CORD0 : FRef := ⟨0x63, 0x048, 0, 2, 0⟩
def WIRE_CORD1_CORD1 : FRef := ⟨0x63, 0x048, 0, 6, 4⟩
def WIRE_CORD1_CORD2 : FRef := ⟨0x63, 0x048, 0, 10, 8⟩
def WIRE_CORD1_CORD3 : FRef := ⟨0x63, 0x048, 0, 14, 12⟩
def WIRE_CORD1_CORD4 : FRef := ⟨0x63, 0x048, 0, 18, 16⟩
def WIRE_CORD1_CORD5 : FRef := ⟨0x63, 0x048, 0, 22, 20⟩
def WIRE_CORD1_CORD6 : FRef := ⟨0x63, 0x048, 0, 26, 24⟩
def WIRE_CORD1_CORD7 : FRef := ⟨0x63, 0x048, 0, 30, 28⟩
def WIRE_RAIL : FRef := ⟨0x63, 0x04C, 0, 31, 0⟩
def WIRE_RAIL_B : FRef := ⟨0x63, 0x04C, 0, 2, 2⟩
def WIRE_RAIL_G : FRef := ⟨0x63, 0x04C, 0, 1, 1⟩
def WIRE_RAIL_R : FRef := ⟨0x63, 0x04C, 0, 0, 0⟩
def WIRE_PIX : FRef := ⟨0x63, 0x050, 0, 31, 0⟩
def WIRE_PIX_PIXELS : FRef := ⟨0x63, 0x050, 0, 16, 0⟩
def WIRE_LAMPS : FRef := ⟨0x63, 0x054, 0, 31, 0⟩
def WIRE_LAMPS_LAMPS : FRef := ⟨0x63, 0x054, 0, 17, 0⟩
def WIRE_USE : FRef := ⟨0x63, 0x058, 0, 31, 0⟩
def WIRE_USE_ROWS : FRef := ⟨0x63, 0x058, 0, 23, 16⟩
def WIRE_USE_STONES : FRef := ⟨0x63, 0x058, 0, 15, 0⟩
def WIRE_QSEL : FRef := ⟨0x63, 0x05C, 0, 31, 0⟩
def WIRE_QSEL_LAMP : FRef := ⟨0x63, 0x05C, 0, 17, 0⟩
def WIRE_QRES0 : FRef := ⟨0x63, 0x060, 0, 31, 0⟩
def WIRE_QRES0_PY : FRef := ⟨0x63, 0x060, 0, 27, 16⟩
def WIRE_QRES0_PX : FRef := ⟨0x63, 0x060, 0, 11, 0⟩
def WIRE_QRES1 : FRef := ⟨0x63, 0x064, 0, 31, 0⟩
def WIRE_QRES1_VALID : FRef := ⟨0x63, 0x064, 0, 31, 31⟩
def WIRE_QRES1_COL : FRef := ⟨0x63, 0x064, 0, 25, 24⟩
def WIRE_QRES1_ROW : FRef := ⟨0x63, 0x064, 0, 22, 16⟩
def WIRE_QRES1_SINK : FRef := ⟨0x63, 0x064, 0, 10, 0⟩
def WIRE_RJ : FRef := ⟨0x63, 0x100, 16, 31, 0⟩
def WIRE_RJ_EN : FRef := ⟨0x63, 0x100, 16, 31, 31⟩
def WIRE_RJ_JLAST : FRef := ⟨0x63, 0x100, 16, 24, 16⟩
def WIRE_RJ_JFIRST : FRef := ⟨0x63, 0x100, 16, 8, 0⟩
def WIRE_RR : FRef := ⟨0x63, 0x104, 16, 31, 0⟩
def WIRE_RR_RLAST : FRef := ⟨0x63, 0x104, 16, 22, 16⟩
def WIRE_RR_RFIRST : FRef := ⟨0x63, 0x104, 16, 6, 0⟩
def WIRE_RXY : FRef := ⟨0x63, 0x108, 16, 31, 0⟩
def WIRE_RXY_Y0 : FRef := ⟨0x63, 0x108, 16, 27, 16⟩
def WIRE_RXY_X0 : FRef := ⟨0x63, 0x108, 16, 11, 0⟩
def WIRE_RO : FRef := ⟨0x63, 0x10C, 16, 31, 0⟩
def WIRE_RO_SWAP : FRef := ⟨0x63, 0x10C, 16, 2, 2⟩
def WIRE_RO_YNEG : FRef := ⟨0x63, 0x10C, 16, 1, 1⟩
def WIRE_RO_XNEG : FRef := ⟨0x63, 0x10C, 16, 0, 0⟩

/-- The block registers of WIRE: name, offset, count, stride, reset value, banked, fields. -/
def regsWIRE : List Reg := [
  ⟨"WIRE_GRID", 0x040, 1, 4, 0x00000000, false,
    [⟨28, 16, .rw, .cycle, []⟩, ⟨12, 0, .rw, .cycle, []⟩]⟩,
  ⟨"WIRE_CORD0", 0x044, 1, 4, 0x00000000, false,
    [⟨2, 0, .rw, .cycle, [.rng 6 7 0x1703]⟩, ⟨6, 4, .rw, .cycle, [.rng 6 7 0x1703]⟩, ⟨10, 8, .rw, .cycle, [.rng 6 7 0x1703]⟩, ⟨14, 12, .rw, .cycle, [.rng 6 7 0x1703]⟩, ⟨18, 16, .rw, .cycle, [.rng 6 7 0x1703]⟩, ⟨22, 20, .rw, .cycle, [.rng 6 7 0x1703]⟩, ⟨26, 24, .rw, .cycle, [.rng 6 7 0x1703]⟩, ⟨30, 28, .rw, .cycle, [.rng 6 7 0x1703]⟩]⟩,
  ⟨"WIRE_CORD1", 0x048, 1, 4, 0x00000000, false,
    [⟨2, 0, .rw, .cycle, [.rng 6 7 0x1703]⟩, ⟨6, 4, .rw, .cycle, [.rng 6 7 0x1703]⟩, ⟨10, 8, .rw, .cycle, [.rng 6 7 0x1703]⟩, ⟨14, 12, .rw, .cycle, [.rng 6 7 0x1703]⟩, ⟨18, 16, .rw, .cycle, [.rng 6 7 0x1703]⟩, ⟨22, 20, .rw, .cycle, [.rng 6 7 0x1703]⟩, ⟨26, 24, .rw, .cycle, [.rng 6 7 0x1703]⟩, ⟨30, 28, .rw, .cycle, [.rng 6 7 0x1703]⟩]⟩,
  ⟨"WIRE_RAIL", 0x04C, 1, 4, 0x00000006, false,
    [⟨2, 2, .rw, .cycle, []⟩, ⟨1, 1, .rw, .cycle, []⟩, ⟨0, 0, .rw, .cycle, []⟩]⟩,
  ⟨"WIRE_PIX", 0x050, 1, 4, 0x00000000, false,
    [⟨16, 0, .ro, .plain, []⟩]⟩,
  ⟨"WIRE_LAMPS", 0x054, 1, 4, 0x00000000, false,
    [⟨17, 0, .ro, .plain, []⟩]⟩,
  ⟨"WIRE_USE", 0x058, 1, 4, 0x00000000, false,
    [⟨23, 16, .ro, .plain, []⟩, ⟨15, 0, .ro, .plain, []⟩]⟩,
  ⟨"WIRE_QSEL", 0x05C, 1, 4, 0x00000000, true,
    [⟨17, 0, .rw, .plain, []⟩]⟩,
  ⟨"WIRE_QRES0", 0x060, 1, 4, 0x00000000, false,
    [⟨27, 16, .ro, .plain, []⟩, ⟨11, 0, .ro, .plain, []⟩]⟩,
  ⟨"WIRE_QRES1", 0x064, 1, 4, 0x00000000, false,
    [⟨31, 31, .ro, .plain, []⟩, ⟨25, 24, .ro, .plain, []⟩, ⟨22, 16, .ro, .plain, []⟩, ⟨10, 0, .ro, .plain, []⟩]⟩,
  ⟨"WIRE_RJ", 0x100, 16, 16, 0x00000000, false,
    [⟨31, 31, .rw, .cycle, []⟩, ⟨24, 16, .rw, .cycle, []⟩, ⟨8, 0, .rw, .cycle, []⟩]⟩,
  ⟨"WIRE_RR", 0x104, 16, 16, 0x00000000, false,
    [⟨22, 16, .rw, .cycle, []⟩, ⟨6, 0, .rw, .cycle, []⟩]⟩,
  ⟨"WIRE_RXY", 0x108, 16, 16, 0x00000000, false,
    [⟨27, 16, .rw, .cycle, []⟩, ⟨11, 0, .rw, .cycle, []⟩]⟩,
  ⟨"WIRE_RO", 0x10C, 16, 16, 0x00000000, false,
    [⟨2, 2, .rw, .cycle, []⟩, ⟨1, 1, .rw, .cycle, []⟩, ⟨0, 0, .rw, .cycle, []⟩]⟩]

/-! ### STONE: 09_scan_out_and_sinks.md, Table 9.10 -/

def ST_CUR : FRef := ⟨0x70, 0x040, 0, 31, 0⟩
def ST_CUR_SCALE : FRef := ⟨0x70, 0x040, 0, 5, 0⟩
def ST_STAT : FRef := ⟨0x70, 0x044, 0, 31, 0⟩
def ST_STAT_THERMAL : FRef := ⟨0x70, 0x044, 0, 2, 2⟩
def ST_STAT_FORCED : FRef := ⟨0x70, 0x044, 0, 1, 1⟩
def ST_STAT_DOMAIN : FRef := ⟨0x70, 0x044, 0, 0, 0⟩
def ST_HR : FRef := ⟨0x70, 0x048, 0, 31, 0⟩
def ST_HR_VB : FRef := ⟨0x70, 0x048, 0, 15, 15⟩
def ST_HR_HRB : FRef := ⟨0x70, 0x048, 0, 13, 8⟩
def ST_HR_VA : FRef := ⟨0x70, 0x048, 0, 7, 7⟩
def ST_HR_HRA : FRef := ⟨0x70, 0x048, 0, 5, 0⟩
def ST_HRMIN : FRef := ⟨0x70, 0x04C, 0, 31, 0⟩
def ST_HRMIN_VB : FRef := ⟨0x70, 0x04C, 0, 15, 15⟩
def ST_HRMIN_HRB : FRef := ⟨0x70, 0x04C, 0, 13, 8⟩
def ST_HRMIN_VA : FRef := ⟨0x70, 0x04C, 0, 7, 7⟩
def ST_HRMIN_HRA : FRef := ⟨0x70, 0x04C, 0, 5, 0⟩
def ST_IRG : FRef := ⟨0x70, 0x050, 0, 31, 0⟩
def ST_IRG_R : FRef := ⟨0x70, 0x050, 0, 29, 16⟩
def ST_IRG_G : FRef := ⟨0x70, 0x050, 0, 13, 0⟩
def ST_IB : FRef := ⟨0x70, 0x054, 0, 31, 0⟩
def ST_IB_B : FRef := ⟨0x70, 0x054, 0, 13, 0⟩
def ST_ISUM : FRef := ⟨0x70, 0x058, 0, 31, 0⟩
def ST_ISUM_A : FRef := ⟨0x70, 0x058, 0, 31, 16⟩
def ST_ISUM_B : FRef := ⟨0x70, 0x058, 0, 15, 0⟩
def ST_TRIM : FRef := ⟨0x70, 0x100, 4, 31, 0⟩
def ST_TRIM_T0 : FRef := ⟨0x70, 0x100, 4, 6, 0⟩
def ST_TRIM_T1 : FRef := ⟨0x70, 0x100, 4, 14, 8⟩
def ST_TRIM_T2 : FRef := ⟨0x70, 0x100, 4, 22, 16⟩
def ST_TRIM_T3 : FRef := ⟨0x70, 0x100, 4, 30, 24⟩

/-- The block registers of STONE: name, offset, count, stride, reset value, banked, fields. -/
def regsSTONE : List Reg := [
  ⟨"ST_CUR", 0x040, 1, 4, 0x0000003F, false,
    [⟨5, 0, .rw, .cycle, []⟩]⟩,
  ⟨"ST_STAT", 0x044, 1, 4, 0x00000000, false,
    [⟨2, 2, .ro, .plain, []⟩, ⟨1, 1, .ro, .plain, []⟩, ⟨0, 0, .ro, .plain, []⟩]⟩,
  ⟨"ST_HR", 0x048, 1, 4, 0x00000000, false,
    [⟨15, 15, .ro, .plain, []⟩, ⟨13, 8, .ro, .plain, []⟩, ⟨7, 7, .ro, .plain, []⟩, ⟨5, 0, .ro, .plain, []⟩]⟩,
  ⟨"ST_HRMIN", 0x04C, 1, 4, 0x00000000, false,
    [⟨15, 15, .rc, .plain, []⟩, ⟨13, 8, .rc, .plain, []⟩, ⟨7, 7, .rc, .plain, []⟩, ⟨5, 0, .rc, .plain, []⟩]⟩,
  ⟨"ST_IRG", 0x050, 1, 4, 0x00000000, false,
    [⟨29, 16, .ro, .plain, []⟩, ⟨13, 0, .ro, .plain, []⟩]⟩,
  ⟨"ST_IB", 0x054, 1, 4, 0x00000000, false,
    [⟨13, 0, .ro, .plain, []⟩]⟩,
  ⟨"ST_ISUM", 0x058, 1, 4, 0x00000000, false,
    [⟨31, 16, .ro, .plain, []⟩, ⟨15, 0, .ro, .plain, []⟩]⟩,
  ⟨"ST_TRIM", 0x100, 24, 4, 0x00000000, false,
    [⟨6, 0, .ro, .plain, []⟩, ⟨14, 8, .ro, .plain, []⟩, ⟨22, 16, .ro, .plain, []⟩, ⟨30, 24, .ro, .plain, []⟩]⟩]

/-! ### HEALTH: 10_lamp_health_and_readback.md, Table 10.6 -/

def HEALTH_CFG : FRef := ⟨0x80, 0x040, 0, 31, 0⟩
def HEALTH_CFG_ODLY : FRef := ⟨0x80, 0x040, 0, 25, 16⟩
def HEALTH_CFG_CONF : FRef := ⟨0x80, 0x040, 0, 11, 8⟩
def HEALTH_CFG_SHORTACT : FRef := ⟨0x80, 0x040, 0, 3, 3⟩
def HEALTH_CFG_PIXACT : FRef := ⟨0x80, 0x040, 0, 2, 2⟩
def HEALTH_CFG_SHORT_EN : FRef := ⟨0x80, 0x040, 0, 1, 1⟩
def HEALTH_CFG_OPEN_EN : FRef := ⟨0x80, 0x040, 0, 0, 0⟩
def HEALTH_OTH : FRef := ⟨0x80, 0x044, 0, 31, 0⟩
def HEALTH_OTH_B : FRef := ⟨0x80, 0x044, 0, 23, 16⟩
def HEALTH_OTH_G : FRef := ⟨0x80, 0x044, 0, 15, 8⟩
def HEALTH_OTH_R : FRef := ⟨0x80, 0x044, 0, 7, 0⟩
def HEALTH_STH : FRef := ⟨0x80, 0x048, 0, 31, 0⟩
def HEALTH_STH_B : FRef := ⟨0x80, 0x048, 0, 23, 16⟩
def HEALTH_STH_G : FRef := ⟨0x80, 0x048, 0, 15, 8⟩
def HEALTH_STH_R : FRef := ⟨0x80, 0x048, 0, 7, 0⟩
def HEALTH_GUARD : FRef := ⟨0x80, 0x04C, 0, 31, 0⟩
def HEALTH_GUARD_MAXSHORT : FRef := ⟨0x80, 0x04C, 0, 15, 8⟩
def HEALTH_GUARD_MAXOPEN : FRef := ⟨0x80, 0x04C, 0, 7, 0⟩
def HEALTH_CMD : FRef := ⟨0x80, 0x050, 0, 31, 0⟩
def HEALTH_CMD_OP : FRef := ⟨0x80, 0x050, 0, 3, 0⟩
def HEALTH_SUM : FRef := ⟨0x80, 0x054, 0, 31, 0⟩
def HEALTH_SUM_SHORT : FRef := ⟨0x80, 0x054, 0, 31, 16⟩
def HEALTH_SUM_OPEN : FRef := ⟨0x80, 0x054, 0, 15, 0⟩
def HEALTH_CNT : FRef := ⟨0x80, 0x058, 0, 31, 0⟩
def HEALTH_CNT_SHORTSUS : FRef := ⟨0x80, 0x058, 0, 31, 16⟩
def HEALTH_CNT_RAILSUS : FRef := ⟨0x80, 0x058, 0, 15, 0⟩
def HEALTH_QSEL : FRef := ⟨0x80, 0x05C, 0, 31, 0⟩
def HEALTH_QSEL_LAMP : FRef := ⟨0x80, 0x05C, 0, 17, 0⟩
def HEALTH_QRES : FRef := ⟨0x80, 0x060, 0, 31, 0⟩
def HEALTH_QRES_VALID : FRef := ⟨0x80, 0x060, 0, 31, 31⟩
def HEALTH_QRES_SCNT : FRef := ⟨0x80, 0x060, 0, 11, 8⟩
def HEALTH_QRES_OCNT : FRef := ⟨0x80, 0x060, 0, 7, 4⟩
def HEALTH_QRES_DARK : FRef := ⟨0x80, 0x060, 0, 3, 3⟩
def HEALTH_QRES_PIXDARK : FRef := ⟨0x80, 0x060, 0, 2, 2⟩
def HEALTH_QRES_SHORT : FRef := ⟨0x80, 0x060, 0, 1, 1⟩
def HEALTH_QRES_OPEN : FRef := ⟨0x80, 0x060, 0, 0, 0⟩
def HEALTH_LCNT : FRef := ⟨0x80, 0x064, 0, 31, 0⟩
def HEALTH_LCNT_OVF : FRef := ⟨0x80, 0x064, 0, 31, 31⟩
def HEALTH_LCNT_COUNT : FRef := ⟨0x80, 0x064, 0, 10, 0⟩
def HEALTH_LSEL : FRef := ⟨0x80, 0x068, 0, 31, 0⟩
def HEALTH_LSEL_INDEX : FRef := ⟨0x80, 0x068, 0, 9, 0⟩
def HEALTH_LENT : FRef := ⟨0x80, 0x06C, 0, 31, 0⟩
def HEALTH_LENT_VALID : FRef := ⟨0x80, 0x06C, 0, 31, 31⟩
def HEALTH_LENT_KIND : FRef := ⟨0x80, 0x06C, 0, 30, 30⟩
def HEALTH_LENT_LAMP : FRef := ⟨0x80, 0x06C, 0, 17, 0⟩
def HEALTH_LDCN : FRef := ⟨0x80, 0x070, 0, 31, 0⟩
def HEALTH_LDCN_DCN : FRef := ⟨0x80, 0x070, 0, 31, 0⟩

/-- The block registers of HEALTH: name, offset, count, stride, reset value, banked, fields. -/
def regsHEALTH : List Reg := [
  ⟨"HEALTH_CFG", 0x040, 1, 4, 0x0080030B, false,
    [⟨25, 16, .rw, .staged, [.rng 0 0 0x1801, .rng 1 127 0x1803]⟩, ⟨11, 8, .rw, .staged, [.rng 0 0 0x1801]⟩, ⟨3, 3, .rw, .staged, []⟩, ⟨2, 2, .rw, .staged, []⟩, ⟨1, 1, .rw, .staged, []⟩, ⟨0, 0, .rw, .staged, []⟩]⟩,
  ⟨"HEALTH_OTH", 0x044, 1, 4, 0x000A0A0A, false,
    [⟨23, 16, .rw, .staged, [.rng 0 4 0x1803, .rng 31 255 0x1802]⟩, ⟨15, 8, .rw, .staged, [.rng 0 4 0x1803, .rng 31 255 0x1802]⟩, ⟨7, 0, .rw, .staged, [.rng 0 4 0x1803, .rng 31 255 0x1802]⟩]⟩,
  ⟨"HEALTH_STH", 0x048, 1, 4, 0x007D7D4B, false,
    [⟨23, 16, .rw, .staged, [.rng 201 255 0x1802]⟩, ⟨15, 8, .rw, .staged, [.rng 201 255 0x1802]⟩, ⟨7, 0, .rw, .staged, [.rng 201 255 0x1802]⟩]⟩,
  ⟨"HEALTH_GUARD", 0x04C, 1, 4, 0x00000808, false,
    [⟨15, 8, .rw, .staged, [.rng 0 0 0x1801, .rng 97 255 0x1802]⟩, ⟨7, 0, .rw, .staged, [.rng 0 0 0x1801, .rng 97 255 0x1802]⟩]⟩,
  ⟨"HEALTH_CMD", 0x050, 1, 4, 0x00000000, false,
    [⟨3, 0, .wo, .plain, [.rng 0 0 0x1803, .rng 3 15 0x1803]⟩]⟩,
  ⟨"HEALTH_SUM", 0x054, 1, 4, 0x00000000, false,
    [⟨31, 16, .ro, .plain, []⟩, ⟨15, 0, .ro, .plain, []⟩]⟩,
  ⟨"HEALTH_CNT", 0x058, 1, 4, 0x00000000, false,
    [⟨31, 16, .rc, .plain, []⟩, ⟨15, 0, .rc, .plain, []⟩]⟩,
  ⟨"HEALTH_QSEL", 0x05C, 1, 4, 0x00000000, true,
    [⟨17, 0, .rw, .plain, []⟩]⟩,
  ⟨"HEALTH_QRES", 0x060, 1, 4, 0x00000000, false,
    [⟨31, 31, .ro, .plain, []⟩, ⟨11, 8, .ro, .plain, []⟩, ⟨7, 4, .ro, .plain, []⟩, ⟨3, 3, .ro, .plain, []⟩, ⟨2, 2, .ro, .plain, []⟩, ⟨1, 1, .ro, .plain, []⟩, ⟨0, 0, .ro, .plain, []⟩]⟩,
  ⟨"HEALTH_LCNT", 0x064, 1, 4, 0x00000000, false,
    [⟨31, 31, .ro, .plain, []⟩, ⟨10, 0, .ro, .plain, []⟩]⟩,
  ⟨"HEALTH_LSEL", 0x068, 1, 4, 0x00000000, true,
    [⟨9, 0, .rw, .plain, []⟩]⟩,
  ⟨"HEALTH_LENT", 0x06C, 1, 4, 0x00000000, false,
    [⟨31, 31, .ro, .plain, []⟩, ⟨30, 30, .ro, .plain, []⟩, ⟨17, 0, .ro, .plain, []⟩]⟩,
  ⟨"HEALTH_LDCN", 0x070, 1, 4, 0x00000000, false,
    [⟨31, 0, .ro, .plain, []⟩]⟩]

/-! ### RDBK: 10_lamp_health_and_readback.md, Table 10.8 -/

def RB_CFG : FRef := ⟨0x81, 0x040, 0, 31, 0⟩
def RB_CFG_REL : FRef := ⟨0x81, 0x040, 0, 23, 16⟩
def RB_CFG_PULSE : FRef := ⟨0x81, 0x040, 0, 15, 8⟩
def RB_CFG_AUDIT_EN : FRef := ⟨0x81, 0x040, 0, 2, 2⟩
def RB_CFG_ACT : FRef := ⟨0x81, 0x040, 0, 1, 1⟩
def RB_CFG_EN : FRef := ⟨0x81, 0x040, 0, 0, 0⟩
def RB_LDCN : FRef := ⟨0x81, 0x044, 0, 31, 0⟩
def RB_LDCN_DCN : FRef := ⟨0x81, 0x044, 0, 31, 0⟩
def RB_FORCED : FRef := ⟨0x81, 0x048, 0, 31, 0⟩
def RB_FORCED_STONES : FRef := ⟨0x81, 0x048, 0, 15, 0⟩
def RB_CLR : FRef := ⟨0x81, 0x04C, 0, 31, 0⟩
def RB_CLR_STONES : FRef := ⟨0x81, 0x04C, 0, 15, 0⟩
def RB_SSEL : FRef := ⟨0x81, 0x050, 0, 31, 0⟩
def RB_SSEL_SINK : FRef := ⟨0x81, 0x050, 0, 10, 0⟩
def RB_SPLAN_S : FRef := ⟨0x81, 0x054, 0, 31, 0⟩
def RB_SPLAN_S_GRAINS : FRef := ⟨0x81, 0x054, 0, 31, 0⟩
def RB_SPLAN_F : FRef := ⟨0x81, 0x058, 0, 31, 0⟩
def RB_SPLAN_F_GRAINS : FRef := ⟨0x81, 0x058, 0, 31, 0⟩
def RB_SMEAS_S : FRef := ⟨0x81, 0x05C, 0, 31, 0⟩
def RB_SMEAS_S_PERIODS : FRef := ⟨0x81, 0x05C, 0, 31, 0⟩
def RB_SMEAS_F : FRef := ⟨0x81, 0x060, 0, 31, 0⟩
def RB_SMEAS_F_PERIODS : FRef := ⟨0x81, 0x060, 0, 31, 0⟩
def RB_SPULSE : FRef := ⟨0x81, 0x064, 0, 31, 0⟩
def RB_SPULSE_FAULT : FRef := ⟨0x81, 0x064, 0, 17, 17⟩
def RB_SPULSE_MIS : FRef := ⟨0x81, 0x064, 0, 16, 16⟩
def RB_SPULSE_NP : FRef := ⟨0x81, 0x064, 0, 15, 0⟩
def RB_AUDIT : FRef := ⟨0x81, 0x068, 0, 31, 0⟩
def RB_AUDIT_SKIP : FRef := ⟨0x81, 0x068, 0, 31, 16⟩
def RB_AUDIT_MISMATCH : FRef := ⟨0x81, 0x068, 0, 15, 0⟩
def RB_ST : FRef := ⟨0x81, 0x080, 4, 31, 0⟩
def RB_ST_FAULT : FRef := ⟨0x81, 0x080, 4, 31, 31⟩
def RB_ST_SINK : FRef := ⟨0x81, 0x080, 4, 26, 16⟩
def RB_ST_MIS : FRef := ⟨0x81, 0x080, 4, 6, 0⟩

/-- The block registers of RDBK: name, offset, count, stride, reset value, banked, fields. -/
def regsRDBK : List Reg := [
  ⟨"RB_CFG", 0x040, 1, 4, 0x000A0507, false,
    [⟨23, 16, .rw, .staged, [.rng 0 0 0x1801]⟩, ⟨15, 8, .rw, .staged, [.rng 0 0 0x1801]⟩, ⟨2, 2, .rw, .staged, []⟩, ⟨1, 1, .rw, .staged, []⟩, ⟨0, 0, .rw, .staged, []⟩]⟩,
  ⟨"RB_LDCN", 0x044, 1, 4, 0x00000000, false,
    [⟨31, 0, .ro, .plain, []⟩]⟩,
  ⟨"RB_FORCED", 0x048, 1, 4, 0x00000000, false,
    [⟨15, 0, .ro, .plain, []⟩]⟩,
  ⟨"RB_CLR", 0x04C, 1, 4, 0x00000000, false,
    [⟨15, 0, .wo, .plain, []⟩]⟩,
  ⟨"RB_SSEL", 0x050, 1, 4, 0x00000000, true,
    [⟨10, 0, .rw, .plain, []⟩]⟩,
  ⟨"RB_SPLAN_S", 0x054, 1, 4, 0x00000000, false,
    [⟨31, 0, .ro, .plain, []⟩]⟩,
  ⟨"RB_SPLAN_F", 0x058, 1, 4, 0x00000000, false,
    [⟨31, 0, .ro, .plain, []⟩]⟩,
  ⟨"RB_SMEAS_S", 0x05C, 1, 4, 0x00000000, false,
    [⟨31, 0, .ro, .plain, []⟩]⟩,
  ⟨"RB_SMEAS_F", 0x060, 1, 4, 0x00000000, false,
    [⟨31, 0, .ro, .plain, []⟩]⟩,
  ⟨"RB_SPULSE", 0x064, 1, 4, 0x00000000, false,
    [⟨17, 17, .ro, .plain, []⟩, ⟨16, 16, .ro, .plain, []⟩, ⟨15, 0, .ro, .plain, []⟩]⟩,
  ⟨"RB_AUDIT", 0x068, 1, 4, 0x00000000, false,
    [⟨31, 16, .rc, .plain, []⟩, ⟨15, 0, .rc, .plain, []⟩]⟩,
  ⟨"RB_ST", 0x080, 16, 4, 0x00000000, false,
    [⟨31, 31, .ro, .plain, []⟩, ⟨26, 16, .ro, .plain, []⟩, ⟨6, 0, .ro, .plain, []⟩]⟩]

/-! ### SENSE: 10_lamp_health_and_readback.md, Table 10.10 -/

def SENSE_CFG : FRef := ⟨0x82, 0x040, 0, 31, 0⟩
def SENSE_CFG_CONT : FRef := ⟨0x82, 0x040, 0, 8, 8⟩
def SENSE_CFG_LEN : FRef := ⟨0x82, 0x040, 0, 3, 0⟩
def SENSE_COLSEL : FRef := ⟨0x82, 0x044, 0, 31, 0⟩
def SENSE_COLSEL_SINK : FRef := ⟨0x82, 0x044, 0, 10, 0⟩
def SENSE_STAT : FRef := ⟨0x82, 0x048, 0, 31, 0⟩
def SENSE_STAT_ENTRY : FRef := ⟨0x82, 0x048, 0, 7, 4⟩
def SENSE_STAT_BUSY : FRef := ⟨0x82, 0x048, 0, 0, 0⟩
def SENSE_RAW : FRef := ⟨0x82, 0x04C, 0, 31, 0⟩
def SENSE_RAW_SETTLING : FRef := ⟨0x82, 0x04C, 0, 31, 31⟩
def SENSE_RAW_ENTRY : FRef := ⟨0x82, 0x04C, 0, 27, 24⟩
def SENSE_RAW_CODE : FRef := ⟨0x82, 0x04C, 0, 11, 0⟩
def SENSE_SEQ : FRef := ⟨0x82, 0x050, 4, 31, 0⟩
def SENSE_SEQ_AVG : FRef := ⟨0x82, 0x050, 4, 13, 12⟩
def SENSE_SEQ_GAIN : FRef := ⟨0x82, 0x050, 4, 9, 8⟩
def SENSE_SEQ_CH : FRef := ⟨0x82, 0x050, 4, 7, 0⟩
def SENSE_RES : FRef := ⟨0x82, 0x070, 4, 31, 0⟩
def SENSE_RES_SETTLING : FRef := ⟨0x82, 0x070, 4, 31, 31⟩
def SENSE_RES_VALID : FRef := ⟨0x82, 0x070, 4, 30, 30⟩
def SENSE_RES_COUNT : FRef := ⟨0x82, 0x070, 4, 23, 16⟩
def SENSE_RES_VALUE : FRef := ⟨0x82, 0x070, 4, 15, 0⟩
def SENSE_CNT : FRef := ⟨0x82, 0x090, 0, 31, 0⟩
def SENSE_CNT_TAGGED : FRef := ⟨0x82, 0x090, 0, 15, 0⟩

/-- The block registers of SENSE: name, offset, count, stride, reset value, banked, fields. -/
def regsSENSE : List Reg := [
  ⟨"SENSE_CFG", 0x040, 1, 4, 0x00000101, false,
    [⟨8, 8, .rw, .plain, []⟩, ⟨3, 0, .rw, .plain, [.rng 0 0 0x1801, .rng 9 15 0x1802]⟩]⟩,
  ⟨"SENSE_COLSEL", 0x044, 1, 4, 0x00000000, false,
    [⟨10, 0, .rw, .plain, [.rng 1536 2047 0x1802]⟩]⟩,
  ⟨"SENSE_STAT", 0x048, 1, 4, 0x00000000, false,
    [⟨7, 4, .ro, .plain, []⟩, ⟨0, 0, .ro, .plain, []⟩]⟩,
  ⟨"SENSE_RAW", 0x04C, 1, 4, 0x00000000, false,
    [⟨31, 31, .ro, .plain, []⟩, ⟨27, 24, .ro, .plain, []⟩, ⟨11, 0, .ro, .plain, []⟩]⟩,
  ⟨"SENSE_SEQ", 0x050, 8, 4, 0x00000016, false,
    [⟨13, 12, .rw, .plain, []⟩, ⟨9, 8, .rw, .plain, []⟩, ⟨7, 0, .rw, .plain, [.rng 0x19 0xFF 0x1803]⟩]⟩,
  ⟨"SENSE_RES", 0x070, 8, 4, 0x00000000, false,
    [⟨31, 31, .ro, .plain, []⟩, ⟨30, 30, .ro, .plain, []⟩, ⟨23, 16, .ro, .plain, []⟩, ⟨15, 0, .ro, .plain, []⟩]⟩,
  ⟨"SENSE_CNT", 0x090, 1, 4, 0x00000000, false,
    [⟨15, 0, .rc, .plain, []⟩]⟩]

end Sys2Proof.Machine
end

