-- ==== Sys2Proof/Machine/MapC.lean ====
section
/-! DEFINITION. The register map, part C: the supply, memory, port, security, update and mode pages, as the field tables of spec/ give them:
one reference per register and per field, and one row per register with its access types, staging class (R35) and
the values its field table refuses (Table 2.18, R54). -/

namespace Sys2Proof.Machine

/-! ### SUPPLY: 11_supply_stage.md, Table 11.6 -/

def SUP_CFG : FRef := ⟨0x90, 0x040, 0, 31, 0⟩
def SUP_CFG_PRESENT : FRef := ⟨0x90, 0x040, 0, 31, 31⟩
def SUP_CFG_KEEP : FRef := ⟨0x90, 0x040, 0, 15, 8⟩
def SUP_CFG_LOCK : FRef := ⟨0x90, 0x040, 0, 4, 4⟩
def SUP_CFG_MODE : FRef := ⟨0x90, 0x040, 0, 1, 0⟩
def SUP_PER : FRef := ⟨0x90, 0x044, 0, 31, 0⟩
def SUP_PER_GRAINS : FRef := ⟨0x90, 0x044, 0, 16, 0⟩
def LOAD_ALL : FRef := ⟨0x90, 0x048, 0, 31, 0⟩
def LOAD_ALL_ALL : FRef := ⟨0x90, 0x048, 0, 0, 0⟩
def SUP_STAT : FRef := ⟨0x90, 0x04C, 0, 31, 0⟩
def SUP_STAT_SFLTN : FRef := ⟨0x90, 0x04C, 0, 10, 10⟩
def SUP_STAT_HALT : FRef := ⟨0x90, 0x04C, 0, 9, 9⟩
def SUP_STAT_PENDING : FRef := ⟨0x90, 0x04C, 0, 8, 8⟩
def SUP_STAT_RAILB : FRef := ⟨0x90, 0x04C, 0, 6, 4⟩
def SUP_STAT_RAILA : FRef := ⟨0x90, 0x04C, 0, 2, 0⟩
def SUP_RAILA_T : FRef := ⟨0x90, 0x050, 0, 31, 0⟩
def SUP_RAILA_T_DOWN : FRef := ⟨0x90, 0x050, 0, 20, 16⟩
def SUP_RAILA_T_UP : FRef := ⟨0x90, 0x050, 0, 12, 8⟩
def SUP_RAILA_T_HT : FRef := ⟨0x90, 0x050, 0, 4, 0⟩
def SUP_RAILA_V : FRef := ⟨0x90, 0x054, 0, 31, 0⟩
def SUP_RAILA_V_VMAX : FRef := ⟨0x90, 0x054, 0, 25, 16⟩
def SUP_RAILA_V_VMIN : FRef := ⟨0x90, 0x054, 0, 9, 0⟩
def SUP_RAILB_T : FRef := ⟨0x90, 0x058, 0, 31, 0⟩
def SUP_RAILB_T_DOWN : FRef := ⟨0x90, 0x058, 0, 20, 16⟩
def SUP_RAILB_T_UP : FRef := ⟨0x90, 0x058, 0, 12, 8⟩
def SUP_RAILB_T_HT : FRef := ⟨0x90, 0x058, 0, 4, 0⟩
def SUP_RAILB_V : FRef := ⟨0x90, 0x05C, 0, 31, 0⟩
def SUP_RAILB_V_VMAX : FRef := ⟨0x90, 0x05C, 0, 25, 16⟩
def SUP_RAILB_V_VMIN : FRef := ⟨0x90, 0x05C, 0, 9, 0⟩
def SUP_LOOP : FRef := ⟨0x90, 0x060, 0, 31, 0⟩
def SUP_LOOP_IDLE : FRef := ⟨0x90, 0x060, 0, 31, 24⟩
def SUP_LOOP_SETTLE : FRef := ⟨0x90, 0x060, 0, 19, 16⟩
def SUP_LOOP_KI : FRef := ⟨0x90, 0x060, 0, 15, 8⟩
def SUP_LOOP_KP : FRef := ⟨0x90, 0x060, 0, 7, 0⟩
def SUP_PROT : FRef := ⟨0x90, 0x064, 0, 31, 0⟩
def SUP_PROT_SOFT : FRef := ⟨0x90, 0x064, 0, 23, 16⟩
def SUP_PROT_UVM : FRef := ⟨0x90, 0x064, 0, 15, 8⟩
def SUP_PROT_OVM : FRef := ⟨0x90, 0x064, 0, 7, 0⟩
def SUP_VSET : FRef := ⟨0x90, 0x068, 0, 31, 0⟩
def SUP_VSET_B : FRef := ⟨0x90, 0x068, 0, 31, 16⟩
def SUP_VSET_A : FRef := ⟨0x90, 0x068, 0, 15, 0⟩
def SUP_VFB : FRef := ⟨0x90, 0x06C, 0, 31, 0⟩
def SUP_VFB_B : FRef := ⟨0x90, 0x06C, 0, 31, 16⟩
def SUP_VFB_A : FRef := ⟨0x90, 0x06C, 0, 15, 0⟩
def SUP_HMIN : FRef := ⟨0x90, 0x070, 0, 31, 0⟩
def SUP_HMIN_VB : FRef := ⟨0x90, 0x070, 0, 15, 15⟩
def SUP_HMIN_HB : FRef := ⟨0x90, 0x070, 0, 13, 8⟩
def SUP_HMIN_VA : FRef := ⟨0x90, 0x070, 0, 7, 7⟩
def SUP_HMIN_HA : FRef := ⟨0x90, 0x070, 0, 5, 0⟩
def SUP_CNT : FRef := ⟨0x90, 0x074, 0, 31, 0⟩
def SUP_CNT_KEEPMISS : FRef := ⟨0x90, 0x074, 0, 31, 16⟩
def SUP_CNT_LOADS : FRef := ⟨0x90, 0x074, 0, 15, 0⟩
def SUP_EXTLIM : FRef := ⟨0x90, 0x078, 0, 31, 0⟩
def SUP_EXTLIM_B : FRef := ⟨0x90, 0x078, 0, 31, 16⟩
def SUP_EXTLIM_A : FRef := ⟨0x90, 0x078, 0, 15, 0⟩

/-- The block registers of SUPPLY: name, offset, count, stride, reset value, banked, fields. -/
def regsSUPPLY : List Reg := [
  ⟨"SUP_CFG", 0x040, 1, 4, 0x00000010, false,
    [⟨31, 31, .ro, .plain, []⟩, ⟨15, 8, .rw, .staged, []⟩, ⟨4, 4, .rw, .cycle, []⟩, ⟨1, 0, .rw, .staged, [.rng 2 3 0x1903]⟩]⟩,
  ⟨"SUP_PER", 0x044, 1, 4, 0x00003E80, false,
    [⟨16, 0, .rw, .cycle, [.rng 0 0 0x1901, .rng 1 7999 0x1903, .odd 0x1904, .rng 64001 131071 0x1902]⟩]⟩,
  ⟨"LOAD_ALL", 0x048, 1, 4, 0x00000000, false,
    [⟨0, 0, .wo, .plain, []⟩]⟩,
  ⟨"SUP_STAT", 0x04C, 1, 4, 0x00000000, false,
    [⟨10, 10, .ro, .plain, []⟩, ⟨9, 9, .ro, .plain, []⟩, ⟨8, 8, .ro, .plain, []⟩, ⟨6, 4, .ro, .plain, []⟩, ⟨2, 0, .ro, .plain, []⟩]⟩,
  ⟨"SUP_RAILA_T", 0x050, 1, 4, 0x0001080C, false,
    [⟨20, 16, .rw, .staged, [.rng 0 0 0x1901, .rng 21 31 0x1902]⟩, ⟨12, 8, .rw, .staged, [.rng 0 0 0x1901, .rng 21 31 0x1902]⟩, ⟨4, 0, .rw, .staged, [.rng 0 0 0x1901, .rng 1 7 0x1903, .rng 25 31 0x1902]⟩]⟩,
  ⟨"SUP_RAILA_V", 0x054, 1, 4, 0x01C2012C, false,
    [⟨25, 16, .rw, .staged, [.rng 601 1023 0x1902]⟩, ⟨9, 0, .rw, .staged, [.rng 0 0 0x1901, .rng 1 49 0x1903, .rng 591 1023 0x1902]⟩]⟩,
  ⟨"SUP_RAILB_T", 0x058, 1, 4, 0x0001080C, false,
    [⟨20, 16, .rw, .staged, [.rng 0 0 0x1901, .rng 21 31 0x1902]⟩, ⟨12, 8, .rw, .staged, [.rng 0 0 0x1901, .rng 21 31 0x1902]⟩, ⟨4, 0, .rw, .staged, [.rng 0 0 0x1901, .rng 1 7 0x1903, .rng 25 31 0x1902]⟩]⟩,
  ⟨"SUP_RAILB_V", 0x05C, 1, 4, 0x01C2012C, false,
    [⟨25, 16, .rw, .staged, [.rng 601 1023 0x1902]⟩, ⟨9, 0, .rw, .staged, [.rng 0 0 0x1901, .rng 1 49 0x1903, .rng 591 1023 0x1902]⟩]⟩,
  ⟨"SUP_LOOP", 0x060, 1, 4, 0x40080420, false,
    [⟨31, 24, .rw, .staged, []⟩, ⟨19, 16, .rw, .staged, []⟩, ⟨15, 8, .rw, .staged, []⟩, ⟨7, 0, .rw, .staged, []⟩]⟩,
  ⟨"SUP_PROT", 0x064, 1, 4, 0x00321E1E, false,
    [⟨23, 16, .rw, .staged, [.rng 0 0 0x1901]⟩, ⟨15, 8, .rw, .staged, [.rng 0 9 0x1903, .rng 101 255 0x1902]⟩, ⟨7, 0, .rw, .staged, [.rng 0 9 0x1903, .rng 101 255 0x1902]⟩]⟩,
  ⟨"SUP_VSET", 0x068, 1, 4, 0x00000000, false,
    [⟨31, 16, .ro, .plain, []⟩, ⟨15, 0, .ro, .plain, []⟩]⟩,
  ⟨"SUP_VFB", 0x06C, 1, 4, 0x00000000, false,
    [⟨31, 16, .ro, .plain, []⟩, ⟨15, 0, .ro, .plain, []⟩]⟩,
  ⟨"SUP_HMIN", 0x070, 1, 4, 0x00000000, false,
    [⟨15, 15, .ro, .plain, []⟩, ⟨13, 8, .ro, .plain, []⟩, ⟨7, 7, .ro, .plain, []⟩, ⟨5, 0, .ro, .plain, []⟩]⟩,
  ⟨"SUP_CNT", 0x074, 1, 4, 0x00000000, false,
    [⟨31, 16, .rc, .plain, []⟩, ⟨15, 0, .rc, .plain, []⟩]⟩,
  ⟨"SUP_EXTLIM", 0x078, 1, 4, 0x00000000, false,
    [⟨31, 16, .rw, .staged, []⟩, ⟨15, 0, .rw, .staged, []⟩]⟩]

/-! ### PHASE: 11_supply_stage.md, Table 11.8 -/

def PH_CFG : FRef := ⟨0x91, 0x040, 0, 31, 0⟩
def PH_CFG_PRESCALE : FRef := ⟨0x91, 0x040, 0, 15, 8⟩
def PH_CFG_EVSEL : FRef := ⟨0x91, 0x040, 0, 5, 4⟩
def PH_CFG_RAIL : FRef := ⟨0x91, 0x040, 0, 0, 0⟩
def PH_RUN : FRef := ⟨0x91, 0x044, 0, 31, 0⟩
def PH_RUN_RUN_ACT : FRef := ⟨0x91, 0x044, 0, 8, 8⟩
def PH_RUN_RUN_REQ : FRef := ⟨0x91, 0x044, 0, 0, 0⟩
def PH_OFS : FRef := ⟨0x91, 0x048, 0, 31, 0⟩
def PH_OFS_OFS : FRef := ⟨0x91, 0x048, 0, 16, 0⟩
def PH_DT : FRef := ⟨0x91, 0x04C, 0, 31, 0⟩
def PH_DT_DTMAX : FRef := ⟨0x91, 0x04C, 0, 25, 16⟩
def PH_DT_DTMIN : FRef := ⟨0x91, 0x04C, 0, 9, 0⟩
def PH_DTADJ : FRef := ⟨0x91, 0x050, 0, 31, 0⟩
def PH_DTADJ_ADAPT : FRef := ⟨0x91, 0x050, 0, 8, 8⟩
def PH_DTADJ_MARGIN : FRef := ⟨0x91, 0x050, 0, 7, 0⟩
def PH_REF : FRef := ⟨0x91, 0x054, 0, 31, 0⟩
def PH_REF_REFN : FRef := ⟨0x91, 0x054, 0, 21, 16⟩
def PH_REF_REFW : FRef := ⟨0x91, 0x054, 0, 7, 0⟩
def PH_TRIP : FRef := ⟨0x91, 0x058, 0, 31, 0⟩
def PH_TRIP_N : FRef := ⟨0x91, 0x058, 0, 31, 24⟩
def PH_TRIP_LEB : FRef := ⟨0x91, 0x058, 0, 19, 12⟩
def PH_TRIP_THR : FRef := ⟨0x91, 0x058, 0, 9, 0⟩
def PH_ILIM : FRef := ⟨0x91, 0x05C, 0, 31, 0⟩
def PH_ILIM_MA : FRef := ⟨0x91, 0x05C, 0, 15, 0⟩
def PH_DUTY : FRef := ⟨0x91, 0x060, 0, 31, 0⟩
def PH_DUTY_D : FRef := ⟨0x91, 0x060, 0, 15, 0⟩
def PH_STAT : FRef := ⟨0x91, 0x064, 0, 31, 0⟩
def PH_STAT_D : FRef := ⟨0x91, 0x064, 0, 31, 16⟩
def PH_STAT_FULL : FRef := ⟨0x91, 0x064, 0, 4, 4⟩
def PH_STAT_STATE : FRef := ⟨0x91, 0x064, 0, 2, 0⟩
def PH_DTACT : FRef := ⟨0x91, 0x068, 0, 31, 0⟩
def PH_DTACT_DTF : FRef := ⟨0x91, 0x068, 0, 25, 16⟩
def PH_DTACT_DTR : FRef := ⟨0x91, 0x068, 0, 9, 0⟩
def PH_TRCNT : FRef := ⟨0x91, 0x06C, 0, 31, 0⟩
def PH_TRCNT_COUNT : FRef := ⟨0x91, 0x06C, 0, 7, 0⟩
def PH_CNT : FRef := ⟨0x91, 0x070, 0, 31, 0⟩
def PH_CNT_TRIPS : FRef := ⟨0x91, 0x070, 0, 31, 16⟩
def PH_CNT_SHOOT : FRef := ⟨0x91, 0x070, 0, 15, 0⟩
def PH_EVCNT : FRef := ⟨0x91, 0x074, 0, 31, 0⟩
def PH_EVCNT_EVENTS : FRef := ⟨0x91, 0x074, 0, 31, 0⟩
def PH_TEST : FRef := ⟨0x91, 0x078, 0, 31, 0⟩
def PH_TEST_LG : FRef := ⟨0x91, 0x078, 0, 2, 2⟩
def PH_TEST_HG : FRef := ⟨0x91, 0x078, 0, 1, 1⟩
def PH_TEST_FORCE : FRef := ⟨0x91, 0x078, 0, 0, 0⟩

/-- The block registers of PHASE: name, offset, count, stride, reset value, banked, fields. -/
def regsPHASE : List Reg := [
  ⟨"PH_CFG", 0x040, 1, 4, 0x00000000, false,
    [⟨15, 8, .rw, .staged, []⟩, ⟨5, 4, .rw, .staged, [.rng 3 3 0x1903]⟩, ⟨0, 0, .rw, .staged, []⟩]⟩,
  ⟨"PH_RUN", 0x044, 1, 4, 0x00000001, false,
    [⟨8, 8, .ro, .plain, []⟩, ⟨0, 0, .rw, .staged, []⟩]⟩,
  ⟨"PH_OFS", 0x048, 1, 4, 0x00000000, false,
    [⟨16, 0, .rw, .staged, []⟩]⟩,
  ⟨"PH_DT", 0x04C, 1, 4, 0x01E000A0, false,
    [⟨25, 16, .rw, .staged, []⟩, ⟨9, 0, .rw, .staged, [.rng 0 0 0x1901, .rng 1 159 0x1903]⟩]⟩,
  ⟨"PH_DTADJ", 0x050, 1, 4, 0x00000120, false,
    [⟨8, 8, .rw, .staged, []⟩, ⟨7, 0, .rw, .staged, []⟩]⟩,
  ⟨"PH_REF", 0x054, 1, 4, 0x00080032, false,
    [⟨21, 16, .rw, .staged, [.rng 0 0 0x1901]⟩, ⟨7, 0, .rw, .staged, [.rng 0 0 0x1901, .rng 1 19 0x1903, .rng 201 255 0x1902]⟩]⟩,
  ⟨"PH_TRIP", 0x058, 1, 4, 0x100140C8, false,
    [⟨31, 24, .rw, .staged, [.rng 0 0 0x1901]⟩, ⟨19, 12, .rw, .staged, [.rng 0 0 0x1901, .rng 1 4 0x1903, .rng 51 255 0x1902]⟩, ⟨9, 0, .rw, .staged, [.rng 0 0 0x1901, .rng 1 9 0x1903, .rng 501 1023 0x1902]⟩]⟩,
  ⟨"PH_ILIM", 0x05C, 1, 4, 0x000007D0, false,
    [⟨15, 0, .rw, .staged, [.rng 0 0 0x1901, .rng 1 99 0x1903, .rng 20001 65535 0x1902]⟩]⟩,
  ⟨"PH_DUTY", 0x060, 1, 4, 0x00000000, false,
    [⟨15, 0, .rw, .staged, []⟩]⟩,
  ⟨"PH_STAT", 0x064, 1, 4, 0x00000000, false,
    [⟨31, 16, .ro, .plain, []⟩, ⟨4, 4, .ro, .plain, []⟩, ⟨2, 0, .ro, .plain, []⟩]⟩,
  ⟨"PH_DTACT", 0x068, 1, 4, 0x00000000, false,
    [⟨25, 16, .ro, .plain, []⟩, ⟨9, 0, .ro, .plain, []⟩]⟩,
  ⟨"PH_TRCNT", 0x06C, 1, 4, 0x00000000, false,
    [⟨7, 0, .ro, .plain, []⟩]⟩,
  ⟨"PH_CNT", 0x070, 1, 4, 0x00000000, false,
    [⟨31, 16, .rc, .plain, []⟩, ⟨15, 0, .rc, .plain, []⟩]⟩,
  ⟨"PH_EVCNT", 0x074, 1, 4, 0x00000000, false,
    [⟨31, 0, .rc, .plain, []⟩]⟩,
  ⟨"PH_TEST", 0x078, 1, 4, 0x00000000, false,
    [⟨2, 2, .rw, .plain, []⟩, ⟨1, 1, .rw, .plain, []⟩, ⟨0, 0, .rw, .plain, []⟩]⟩]

/-! ### AUXPWM: 11_supply_stage.md, Table 11.10 -/

def AUX_CTRL : FRef := ⟨0x99, 0x040, 0, 31, 0⟩
def AUX_CTRL_POL1 : FRef := ⟨0x99, 0x040, 0, 5, 5⟩
def AUX_CTRL_EN1 : FRef := ⟨0x99, 0x040, 0, 4, 4⟩
def AUX_CTRL_POL0 : FRef := ⟨0x99, 0x040, 0, 1, 1⟩
def AUX_CTRL_EN0 : FRef := ⟨0x99, 0x040, 0, 0, 0⟩
def AUX_CMP0 : FRef := ⟨0x99, 0x044, 0, 31, 0⟩
def AUX_CMP0_CMP : FRef := ⟨0x99, 0x044, 0, 15, 0⟩
def AUX_CMP1 : FRef := ⟨0x99, 0x048, 0, 31, 0⟩
def AUX_CMP1_CMP : FRef := ⟨0x99, 0x048, 0, 15, 0⟩
def AUX_STAT : FRef := ⟨0x99, 0x04C, 0, 31, 0⟩
def AUX_STAT_LVL1 : FRef := ⟨0x99, 0x04C, 0, 1, 1⟩
def AUX_STAT_LVL0 : FRef := ⟨0x99, 0x04C, 0, 0, 0⟩

/-- The block registers of AUXPWM: name, offset, count, stride, reset value, banked, fields. -/
def regsAUXPWM : List Reg := [
  ⟨"AUX_CTRL", 0x040, 1, 4, 0x00000000, false,
    [⟨5, 5, .rw, .plain, []⟩, ⟨4, 4, .rw, .plain, []⟩, ⟨1, 1, .rw, .plain, []⟩, ⟨0, 0, .rw, .plain, []⟩]⟩,
  ⟨"AUX_CMP0", 0x044, 1, 4, 0x00000000, false,
    [⟨15, 0, .rw, .staged, []⟩]⟩,
  ⟨"AUX_CMP1", 0x048, 1, 4, 0x00000000, false,
    [⟨15, 0, .rw, .staged, []⟩]⟩,
  ⟨"AUX_STAT", 0x04C, 1, 4, 0x00000000, false,
    [⟨1, 1, .ro, .plain, []⟩, ⟨0, 0, .ro, .plain, []⟩]⟩]

/-! ### TRIM: 12_self_trim.md, Table 12.6 -/

def TRIM_DIE : FRef := ⟨0xA0, 0x040, 0, 31, 0⟩
def TRIM_DIE_BIN : FRef := ⟨0xA0, 0x040, 0, 18, 16⟩
def TRIM_DIE_TEMP : FRef := ⟨0xA0, 0x040, 0, 15, 0⟩
def TRIM_INTERP : FRef := ⟨0xA0, 0x044, 0, 31, 0⟩
def TRIM_INTERP_FRAC : FRef := ⟨0xA0, 0x044, 0, 15, 8⟩
def TRIM_INTERP_BIN_HI : FRef := ⟨0xA0, 0x044, 0, 6, 4⟩
def TRIM_INTERP_BIN_LO : FRef := ⟨0xA0, 0x044, 0, 2, 0⟩
def TRIM_BINS : FRef := ⟨0xA0, 0x048, 0, 31, 0⟩
def TRIM_BINS_WRITING : FRef := ⟨0xA0, 0x048, 0, 19, 19⟩
def TRIM_BINS_HOT : FRef := ⟨0xA0, 0x048, 0, 18, 18⟩
def TRIM_BINS_NOFLASH : FRef := ⟨0xA0, 0x048, 0, 17, 17⟩
def TRIM_BINS_STORED : FRef := ⟨0xA0, 0x048, 0, 16, 16⟩
def TRIM_BINS_NOW : FRef := ⟨0xA0, 0x048, 0, 10, 8⟩
def TRIM_BINS_MEAS : FRef := ⟨0xA0, 0x048, 0, 4, 0⟩
def TRIM_JSEQ : FRef := ⟨0xA0, 0x04C, 0, 31, 0⟩
def TRIM_JSEQ_SEQ : FRef := ⟨0xA0, 0x04C, 0, 31, 0⟩
def TRIM_JSTAT : FRef := ⟨0xA0, 0x050, 0, 31, 0⟩
def TRIM_JSTAT_BLOCK : FRef := ⟨0xA0, 0x050, 0, 4, 4⟩
def TRIM_JSTAT_IGN : FRef := ⟨0xA0, 0x050, 0, 1, 0⟩
def TRIM_CMD : FRef := ⟨0xA0, 0x054, 0, 31, 0⟩
def TRIM_CMD_OP : FRef := ⟨0xA0, 0x054, 0, 3, 0⟩
def TRIM_BT : FRef := ⟨0xA0, 0x060, 4, 31, 0⟩
def TRIM_BT_VALID : FRef := ⟨0xA0, 0x060, 4, 31, 31⟩
def TRIM_BT_TM : FRef := ⟨0xA0, 0x060, 4, 15, 0⟩
def TRIM_TAP : FRef := ⟨0xA0, 0x080, 4, 31, 0⟩
def TRIM_TAP_ODD : FRef := ⟨0xA0, 0x080, 4, 31, 16⟩
def TRIM_TAP_EVEN : FRef := ⟨0xA0, 0x080, 4, 15, 0⟩

/-- The block registers of TRIM: name, offset, count, stride, reset value, banked, fields. -/
def regsTRIM : List Reg := [
  ⟨"TRIM_DIE", 0x040, 1, 4, 0x00000000, false,
    [⟨18, 16, .ro, .plain, []⟩, ⟨15, 0, .ro, .plain, []⟩]⟩,
  ⟨"TRIM_INTERP", 0x044, 1, 4, 0x00000000, false,
    [⟨15, 8, .ro, .plain, []⟩, ⟨6, 4, .ro, .plain, []⟩, ⟨2, 0, .ro, .plain, []⟩]⟩,
  ⟨"TRIM_BINS", 0x048, 1, 4, 0x00000000, false,
    [⟨19, 19, .ro, .plain, []⟩, ⟨18, 18, .ro, .plain, []⟩, ⟨17, 17, .ro, .plain, []⟩, ⟨16, 16, .ro, .plain, []⟩, ⟨10, 8, .ro, .plain, []⟩, ⟨4, 0, .ro, .plain, []⟩]⟩,
  ⟨"TRIM_JSEQ", 0x04C, 1, 4, 0x00000000, false,
    [⟨31, 0, .ro, .plain, []⟩]⟩,
  ⟨"TRIM_JSTAT", 0x050, 1, 4, 0x00000000, false,
    [⟨4, 4, .ro, .plain, []⟩, ⟨1, 0, .ro, .plain, []⟩]⟩,
  ⟨"TRIM_CMD", 0x054, 1, 4, 0x00000000, false,
    [⟨3, 0, .wo, .plain, [.rng 0 0 0x1A03, .rng 2 15 0x1A03]⟩]⟩,
  ⟨"TRIM_BT", 0x060, 5, 4, 0x00000000, false,
    [⟨31, 31, .ro, .plain, []⟩, ⟨15, 0, .ro, .plain, []⟩]⟩,
  ⟨"TRIM_TAP", 0x080, 16, 4, 0x00000000, false,
    [⟨31, 16, .ro, .plain, []⟩, ⟨15, 0, .ro, .plain, []⟩]⟩]

/-! ### MEMC: 13_memory.md, Table 13.9 -/

def MEMC_CFG : FRef := ⟨0xB0, 0x040, 0, 31, 0⟩
def MEMC_CFG_HINT : FRef := ⟨0xB0, 0x040, 0, 5, 4⟩
def MEMC_CFG_DENSITY : FRef := ⟨0xB0, 0x040, 0, 1, 0⟩
def MEMC_RATE : FRef := ⟨0xB0, 0x044, 0, 31, 0⟩
def MEMC_RATE_MTS : FRef := ⟨0xB0, 0x044, 0, 12, 0⟩
def MEMC_SIZE : FRef := ⟨0xB0, 0x048, 0, 31, 0⟩
def MEMC_SIZE_MB : FRef := ⟨0xB0, 0x048, 0, 15, 0⟩
def MEMC_PAGE : FRef := ⟨0xB0, 0x04C, 0, 31, 0⟩
def MEMC_PAGE_IDLE : FRef := ⟨0xB0, 0x04C, 0, 9, 0⟩
def MEMC_REF : FRef := ⟨0xB0, 0x050, 0, 31, 0⟩
def MEMC_REF_POSTMAX : FRef := ⟨0xB0, 0x050, 0, 11, 8⟩
def MEMC_REF_MR4MS : FRef := ⟨0xB0, 0x050, 0, 7, 0⟩
def MEMC_REFST : FRef := ⟨0xB0, 0x054, 0, 31, 0⟩
def MEMC_REFST_OVERTEMP : FRef := ⟨0xB0, 0x054, 0, 7, 7⟩
def MEMC_REFST_DERATE : FRef := ⟨0xB0, 0x054, 0, 6, 6⟩
def MEMC_REFST_MULT : FRef := ⟨0xB0, 0x054, 0, 5, 4⟩
def MEMC_REFST_MR4 : FRef := ⟨0xB0, 0x054, 0, 2, 0⟩
def MEMC_SR : FRef := ⟨0xB0, 0x058, 0, 31, 0⟩
def MEMC_SR_KEEP : FRef := ⟨0xB0, 0x058, 0, 0, 0⟩
def MEMC_STAT : FRef := ⟨0xB0, 0x05C, 0, 31, 0⟩
def MEMC_STAT_INFLIGHT : FRef := ⟨0xB0, 0x05C, 0, 24, 16⟩
def MEMC_STAT_STATE : FRef := ⟨0xB0, 0x05C, 0, 2, 0⟩
def MEMC_CLS0 : FRef := ⟨0xB0, 0x060, 0, 31, 0⟩
def MEMC_CLS0_HI : FRef := ⟨0xB0, 0x060, 0, 23, 16⟩
def MEMC_CLS0_LO : FRef := ⟨0xB0, 0x060, 0, 7, 0⟩
def MEMC_CLS1 : FRef := ⟨0xB0, 0x064, 0, 31, 0⟩
def MEMC_CLS1_HI : FRef := ⟨0xB0, 0x064, 0, 23, 16⟩
def MEMC_CLS1_LO : FRef := ⟨0xB0, 0x064, 0, 7, 0⟩
def MEMC_BW : FRef := ⟨0xB0, 0x068, 0, 31, 0⟩
def MEMC_BW_WR : FRef := ⟨0xB0, 0x068, 0, 31, 16⟩
def MEMC_BW_RD : FRef := ⟨0xB0, 0x068, 0, 15, 0⟩
def MEMC_MGLAT : FRef := ⟨0xB0, 0x06C, 0, 31, 0⟩
def MEMC_MGLAT_NS10 : FRef := ⟨0xB0, 0x06C, 0, 15, 0⟩
def MEMC_ORD : FRef := ⟨0xB0, 0x070, 0, 31, 0⟩
def MEMC_ORD_HELD : FRef := ⟨0xB0, 0x070, 0, 31, 16⟩
def MEMC_ORD_FWD : FRef := ⟨0xB0, 0x070, 0, 15, 0⟩

/-- The block registers of MEMC: name, offset, count, stride, reset value, banked, fields. -/
def regsMEMC : List Reg := [
  ⟨"MEMC_CFG", 0x040, 1, 4, 0x00000000, false,
    [⟨5, 4, .ro, .plain, []⟩, ⟨1, 0, .ro, .plain, []⟩]⟩,
  ⟨"MEMC_RATE", 0x044, 1, 4, 0x00000C80, false,
    [⟨12, 0, .ro, .plain, []⟩]⟩,
  ⟨"MEMC_SIZE", 0x048, 1, 4, 0x00000000, false,
    [⟨15, 0, .ro, .plain, []⟩]⟩,
  ⟨"MEMC_PAGE", 0x04C, 1, 4, 0x00000040, false,
    [⟨9, 0, .rw, .staged, []⟩]⟩,
  ⟨"MEMC_REF", 0x050, 1, 4, 0x00000810, false,
    [⟨11, 8, .rw, .staged, [.rng 9 15 0x1B02]⟩, ⟨7, 0, .rw, .staged, [.rng 0 0 0x1B01]⟩]⟩,
  ⟨"MEMC_REFST", 0x054, 1, 4, 0x00000000, false,
    [⟨7, 7, .ro, .plain, []⟩, ⟨6, 6, .ro, .plain, []⟩, ⟨5, 4, .ro, .plain, []⟩, ⟨2, 0, .ro, .plain, []⟩]⟩,
  ⟨"MEMC_SR", 0x058, 1, 4, 0x00000001, false,
    [⟨0, 0, .rw, .plain, []⟩]⟩,
  ⟨"MEMC_STAT", 0x05C, 1, 4, 0x00000000, false,
    [⟨24, 16, .ro, .plain, []⟩, ⟨2, 0, .ro, .plain, []⟩]⟩,
  ⟨"MEMC_CLS0", 0x060, 1, 4, 0x00000000, false,
    [⟨23, 16, .ro, .plain, []⟩, ⟨7, 0, .ro, .plain, []⟩]⟩,
  ⟨"MEMC_CLS1", 0x064, 1, 4, 0x00000000, false,
    [⟨23, 16, .ro, .plain, []⟩, ⟨7, 0, .ro, .plain, []⟩]⟩,
  ⟨"MEMC_BW", 0x068, 1, 4, 0x00000000, false,
    [⟨31, 16, .ro, .plain, []⟩, ⟨15, 0, .ro, .plain, []⟩]⟩,
  ⟨"MEMC_MGLAT", 0x06C, 1, 4, 0x00000000, false,
    [⟨15, 0, .rc, .plain, []⟩]⟩,
  ⟨"MEMC_ORD", 0x070, 1, 4, 0x00000000, false,
    [⟨31, 16, .rc, .plain, []⟩, ⟨15, 0, .rc, .plain, []⟩]⟩]

/-! ### MEMPHY: 13_memory.md, Table 13.11 -/

def MP_TRAIN : FRef := ⟨0xB1, 0x040, 0, 31, 0⟩
def MP_TRAIN_TIME : FRef := ⟨0xB1, 0x040, 0, 31, 16⟩
def MP_TRAIN_ATTEMPTS : FRef := ⟨0xB1, 0x040, 0, 13, 12⟩
def MP_TRAIN_FAILSTEP : FRef := ⟨0xB1, 0x040, 0, 10, 8⟩
def MP_TRAIN_DONE : FRef := ⟨0xB1, 0x040, 0, 4, 0⟩
def MP_VREF : FRef := ⟨0xB1, 0x044, 0, 31, 0⟩
def MP_VREF_DQ : FRef := ⟨0xB1, 0x044, 0, 13, 8⟩
def MP_VREF_CA : FRef := ⟨0xB1, 0x044, 0, 5, 0⟩
def MP_LANE : FRef := ⟨0xB1, 0x048, 4, 31, 0⟩
def MP_LANE_MARGIN : FRef := ⟨0xB1, 0x048, 4, 31, 24⟩
def MP_LANE_WDQ : FRef := ⟨0xB1, 0x048, 4, 23, 16⟩
def MP_LANE_RDQS : FRef := ⟨0xB1, 0x048, 4, 15, 8⟩
def MP_LANE_WL : FRef := ⟨0xB1, 0x048, 4, 7, 0⟩
def MP_CA : FRef := ⟨0xB1, 0x058, 4, 31, 0⟩
def MP_CA_MARGIN : FRef := ⟨0xB1, 0x058, 4, 23, 16⟩
def MP_CA_CS : FRef := ⟨0xB1, 0x058, 4, 15, 8⟩
def MP_CA_CA : FRef := ⟨0xB1, 0x058, 4, 7, 0⟩
def MP_DRV : FRef := ⟨0xB1, 0x060, 0, 31, 0⟩
def MP_DRV_SOCODT : FRef := ⟨0xB1, 0x060, 0, 14, 12⟩
def MP_DRV_CAODT : FRef := ⟨0xB1, 0x060, 0, 11, 9⟩
def MP_DRV_DQODT : FRef := ⟨0xB1, 0x060, 0, 8, 6⟩
def MP_DRV_PDDS : FRef := ⟨0xB1, 0x060, 0, 5, 3⟩
def MP_DRV_PHYDRV : FRef := ⟨0xB1, 0x060, 0, 2, 0⟩
def MP_TRACK : FRef := ⟨0xB1, 0x064, 0, 31, 0⟩
def MP_TRACK_ADJ : FRef := ⟨0xB1, 0x064, 0, 31, 16⟩
def MP_TRACK_OSC : FRef := ⟨0xB1, 0x064, 0, 15, 0⟩
def MP_MR : FRef := ⟨0xB1, 0x068, 0, 31, 0⟩
def MP_MR_MR8 : FRef := ⟨0xB1, 0x068, 0, 31, 24⟩
def MP_MR_MR7 : FRef := ⟨0xB1, 0x068, 0, 23, 16⟩
def MP_MR_MR6 : FRef := ⟨0xB1, 0x068, 0, 15, 8⟩
def MP_MR_MR5 : FRef := ⟨0xB1, 0x068, 0, 7, 0⟩

/-- The block registers of MEMPHY: name, offset, count, stride, reset value, banked, fields. -/
def regsMEMPHY : List Reg := [
  ⟨"MP_TRAIN", 0x040, 1, 4, 0x00000000, false,
    [⟨31, 16, .ro, .plain, []⟩, ⟨13, 12, .ro, .plain, []⟩, ⟨10, 8, .ro, .plain, []⟩, ⟨4, 0, .ro, .plain, []⟩]⟩,
  ⟨"MP_VREF", 0x044, 1, 4, 0x00000000, false,
    [⟨13, 8, .ro, .plain, []⟩, ⟨5, 0, .ro, .plain, []⟩]⟩,
  ⟨"MP_LANE", 0x048, 4, 4, 0x00000000, false,
    [⟨31, 24, .ro, .plain, []⟩, ⟨23, 16, .ro, .plain, []⟩, ⟨15, 8, .ro, .plain, []⟩, ⟨7, 0, .ro, .plain, []⟩]⟩,
  ⟨"MP_CA", 0x058, 2, 4, 0x00000000, false,
    [⟨23, 16, .ro, .plain, []⟩, ⟨15, 8, .ro, .plain, []⟩, ⟨7, 0, .ro, .plain, []⟩]⟩,
  ⟨"MP_DRV", 0x060, 1, 4, 0x00004933, false,
    [⟨14, 12, .ro, .plain, []⟩, ⟨11, 9, .ro, .plain, []⟩, ⟨8, 6, .ro, .plain, []⟩, ⟨5, 3, .ro, .plain, []⟩, ⟨2, 0, .ro, .plain, []⟩]⟩,
  ⟨"MP_TRACK", 0x064, 1, 4, 0x00000000, false,
    [⟨31, 16, .ro, .plain, []⟩, ⟨15, 0, .ro, .plain, []⟩]⟩,
  ⟨"MP_MR", 0x068, 1, 4, 0x00000000, false,
    [⟨31, 24, .ro, .plain, []⟩, ⟨23, 16, .ro, .plain, []⟩, ⟨15, 8, .ro, .plain, []⟩, ⟨7, 0, .ro, .plain, []⟩]⟩]

/-! ### MECC: 13_memory.md, Table 13.13 -/

def ME_CFG : FRef := ⟨0xB2, 0x040, 0, 31, 0⟩
def ME_CFG_SCRUBH : FRef := ⟨0xB2, 0x040, 0, 15, 8⟩
def ME_CFG_WBACK : FRef := ⟨0xB2, 0x040, 0, 1, 1⟩
def ME_CFG_SCRUB : FRef := ⟨0xB2, 0x040, 0, 0, 0⟩
def ME_SBE : FRef := ⟨0xB2, 0x044, 0, 31, 0⟩
def ME_SBE_COUNT : FRef := ⟨0xB2, 0x044, 0, 31, 0⟩
def ME_DBE : FRef := ⟨0xB2, 0x048, 0, 31, 0⟩
def ME_DBE_COUNT : FRef := ⟨0xB2, 0x048, 0, 15, 0⟩
def ME_SADDR : FRef := ⟨0xB2, 0x04C, 0, 31, 0⟩
def ME_SADDR_WORD : FRef := ⟨0xB2, 0x04C, 0, 29, 0⟩
def ME_SINFO : FRef := ⟨0xB2, 0x050, 0, 31, 0⟩
def ME_SINFO_BIT : FRef := ⟨0xB2, 0x050, 0, 14, 8⟩
def ME_SINFO_CLASS : FRef := ⟨0xB2, 0x050, 0, 2, 0⟩
def ME_DADDR : FRef := ⟨0xB2, 0x054, 0, 31, 0⟩
def ME_DADDR_WORD : FRef := ⟨0xB2, 0x054, 0, 29, 0⟩
def ME_DINFO : FRef := ⟨0xB2, 0x058, 0, 31, 0⟩
def ME_DINFO_CLASS : FRef := ⟨0xB2, 0x058, 0, 2, 0⟩
def ME_SCRUBST : FRef := ⟨0xB2, 0x05C, 0, 31, 0⟩
def ME_SCRUBST_PASSES : FRef := ⟨0xB2, 0x05C, 0, 31, 16⟩
def ME_SCRUBST_POS : FRef := ⟨0xB2, 0x05C, 0, 15, 0⟩
def ME_INJ : FRef := ⟨0xB2, 0x060, 0, 31, 0⟩
def ME_INJ_INJ : FRef := ⟨0xB2, 0x060, 0, 1, 0⟩
def ME_INJA : FRef := ⟨0xB2, 0x064, 0, 31, 0⟩
def ME_INJA_WORD : FRef := ⟨0xB2, 0x064, 0, 29, 0⟩

/-- The block registers of MECC: name, offset, count, stride, reset value, banked, fields. -/
def regsMECC : List Reg := [
  ⟨"ME_CFG", 0x040, 1, 4, 0x00001803, false,
    [⟨15, 8, .rw, .staged, [.rng 0 0 0x1B01, .rng 169 255 0x1B02]⟩, ⟨1, 1, .rw, .staged, []⟩, ⟨0, 0, .rw, .staged, []⟩]⟩,
  ⟨"ME_SBE", 0x044, 1, 4, 0x00000000, false,
    [⟨31, 0, .rc, .plain, []⟩]⟩,
  ⟨"ME_DBE", 0x048, 1, 4, 0x00000000, false,
    [⟨15, 0, .rc, .plain, []⟩]⟩,
  ⟨"ME_SADDR", 0x04C, 1, 4, 0x00000000, false,
    [⟨29, 0, .ro, .plain, []⟩]⟩,
  ⟨"ME_SINFO", 0x050, 1, 4, 0x00000000, false,
    [⟨14, 8, .ro, .plain, []⟩, ⟨2, 0, .ro, .plain, []⟩]⟩,
  ⟨"ME_DADDR", 0x054, 1, 4, 0x00000000, false,
    [⟨29, 0, .ro, .plain, []⟩]⟩,
  ⟨"ME_DINFO", 0x058, 1, 4, 0x00000000, false,
    [⟨2, 0, .ro, .plain, []⟩]⟩,
  ⟨"ME_SCRUBST", 0x05C, 1, 4, 0x00000000, false,
    [⟨31, 16, .ro, .plain, []⟩, ⟨15, 0, .ro, .plain, []⟩]⟩,
  ⟨"ME_INJ", 0x060, 1, 4, 0x00000000, false,
    [⟨1, 0, .rw, .plain, [.rng 3 3 0x1B03]⟩]⟩,
  ⟨"ME_INJA", 0x064, 1, 4, 0x00000000, false,
    [⟨29, 0, .rw, .plain, []⟩]⟩]

/-! ### SPIA: 14_serial_ports.md, Table 14.6 -/

def SPIA_CFG : FRef := ⟨0xC0, 0x040, 0, 31, 0⟩
def SPIA_CFG_WAIT : FRef := ⟨0xC0, 0x040, 0, 31, 24⟩
def SPIA_CFG_POS : FRef := ⟨0xC0, 0x040, 0, 19, 16⟩
def SPIA_CFG_CHAIN : FRef := ⟨0xC0, 0x040, 0, 8, 8⟩
def SPIA_CFG_ROLE : FRef := ⟨0xC0, 0x040, 0, 4, 4⟩
def SPIA_CFG_MODE : FRef := ⟨0xC0, 0x040, 0, 1, 0⟩
def SPIA_MCFG : FRef := ⟨0xC0, 0x044, 0, 31, 0⟩
def SPIA_MCFG_POLL : FRef := ⟨0xC0, 0x044, 0, 31, 16⟩
def SPIA_MCFG_DIV : FRef := ⟨0xC0, 0x044, 0, 9, 0⟩
def SPIA_LAST : FRef := ⟨0xC0, 0x048, 0, 31, 0⟩
def SPIA_LAST_CODE : FRef := ⟨0xC0, 0x048, 0, 31, 16⟩
def SPIA_LAST_DETAIL : FRef := ⟨0xC0, 0x048, 0, 15, 0⟩
def SPIA_CNT : FRef := ⟨0xC0, 0x04C, 0, 31, 0⟩
def SPIA_CNT_FRAMES : FRef := ⟨0xC0, 0x04C, 0, 31, 16⟩
def SPIA_CNT_UNDERRUN : FRef := ⟨0xC0, 0x04C, 0, 15, 8⟩
def SPIA_CNT_SHORT : FRef := ⟨0xC0, 0x04C, 0, 7, 0⟩

/-- The block registers of SPIA: name, offset, count, stride, reset value, banked, fields. -/
def regsSPIA : List Reg := [
  ⟨"SPIA_CFG", 0x040, 1, 4, 0x00000000, false,
    [⟨31, 24, .rw, .plain, []⟩, ⟨19, 16, .rw, .plain, []⟩, ⟨8, 8, .rw, .plain, []⟩, ⟨4, 4, .ro, .plain, []⟩, ⟨1, 0, .rw, .plain, []⟩]⟩,
  ⟨"SPIA_MCFG", 0x044, 1, 4, 0x00640014, false,
    [⟨31, 16, .rw, .plain, [.rng 0 0 0x1C01, .rng 1 9 0x1C03]⟩, ⟨9, 0, .rw, .plain, [.rng 0 0 0x1C01, .rng 1 9 0x1C03, .rng 1001 1023 0x1C02]⟩]⟩,
  ⟨"SPIA_LAST", 0x048, 1, 4, 0x00000000, false,
    [⟨31, 16, .ro, .plain, []⟩, ⟨15, 0, .ro, .plain, []⟩]⟩,
  ⟨"SPIA_CNT", 0x04C, 1, 4, 0x00000000, false,
    [⟨31, 16, .rc, .plain, []⟩, ⟨15, 8, .rc, .plain, []⟩, ⟨7, 0, .rc, .plain, []⟩]⟩]

/-! ### SPIB: 14_serial_ports.md, Table 14.8 -/

def SPIB_CFG : FRef := ⟨0xC1, 0x040, 0, 31, 0⟩
def SPIB_CFG_XIP_SUSPEND : FRef := ⟨0xC1, 0x040, 0, 17, 17⟩
def SPIB_CFG_XIP_EN : FRef := ⟨0xC1, 0x040, 0, 16, 16⟩
def SPIB_CFG_ADDR4 : FRef := ⟨0xC1, 0x040, 0, 8, 8⟩
def SPIB_CFG_DIV : FRef := ⟨0xC1, 0x040, 0, 7, 0⟩
def SPIB_XBASE : FRef := ⟨0xC1, 0x044, 0, 31, 0⟩
def SPIB_XBASE_BASE : FRef := ⟨0xC1, 0x044, 0, 31, 16⟩
def SPIB_SUS : FRef := ⟨0xC1, 0x048, 0, 31, 0⟩
def SPIB_SUS_SUSLAT : FRef := ⟨0xC1, 0x048, 0, 31, 16⟩
def SPIB_SUS_RESCMD : FRef := ⟨0xC1, 0x048, 0, 15, 8⟩
def SPIB_SUS_SUSCMD : FRef := ⟨0xC1, 0x048, 0, 7, 0⟩
def SPIB_CMD : FRef := ⟨0xC1, 0x04C, 0, 31, 0⟩
def SPIB_CMD_OP : FRef := ⟨0xC1, 0x04C, 0, 31, 28⟩
def SPIB_CMD_LEN : FRef := ⟨0xC1, 0x04C, 0, 8, 0⟩
def SPIB_ADDR : FRef := ⟨0xC1, 0x050, 0, 31, 0⟩
def SPIB_ADDR_ADDR : FRef := ⟨0xC1, 0x050, 0, 31, 0⟩
def SPIB_STAT : FRef := ⟨0xC1, 0x054, 0, 31, 0⟩
def SPIB_STAT_SR : FRef := ⟨0xC1, 0x054, 0, 15, 8⟩
def SPIB_STAT_STATE : FRef := ⟨0xC1, 0x054, 0, 2, 0⟩
def SPIB_RES : FRef := ⟨0xC1, 0x058, 0, 31, 0⟩
def SPIB_RES_CODE : FRef := ⟨0xC1, 0x058, 0, 31, 16⟩
def SPIB_RES_DETAIL : FRef := ⟨0xC1, 0x058, 0, 15, 0⟩
def SPIB_CNT : FRef := ⟨0xC1, 0x05C, 0, 31, 0⟩
def SPIB_CNT_SUSPENDS : FRef := ⟨0xC1, 0x05C, 0, 31, 16⟩
def SPIB_CNT_FWMAX : FRef := ⟨0xC1, 0x05C, 0, 15, 0⟩
def SPIB_BUF : FRef := ⟨0xC1, 0x100, 4, 31, 0⟩
def SPIB_BUF_DATA : FRef := ⟨0xC1, 0x100, 4, 31, 0⟩

/-- The block registers of SPIB: name, offset, count, stride, reset value, banked, fields. -/
def regsSPIB : List Reg := [
  ⟨"SPIB_CFG", 0x040, 1, 4, 0x00000119, false,
    [⟨17, 17, .rw, .plain, []⟩, ⟨16, 16, .rw, .plain, []⟩, ⟨8, 8, .ro, .plain, []⟩, ⟨7, 0, .rw, .plain, [.rng 0 4 0x1C03, .rng 251 255 0x1C03]⟩]⟩,
  ⟨"SPIB_XBASE", 0x044, 1, 4, 0x00000000, false,
    [⟨31, 16, .rw, .plain, []⟩]⟩,
  ⟨"SPIB_SUS", 0x048, 1, 4, 0x00327A75, false,
    [⟨31, 16, .rw, .plain, [.rng 0 0 0x1C01, .rng 1001 65535 0x1C02]⟩, ⟨15, 8, .rw, .plain, []⟩, ⟨7, 0, .rw, .plain, []⟩]⟩,
  ⟨"SPIB_CMD", 0x04C, 1, 4, 0x00000000, false,
    [⟨31, 28, .wo, .plain, [.rng 0 0 0x1C03, .rng 6 15 0x1C03]⟩, ⟨8, 0, .wo, .plain, []⟩]⟩,
  ⟨"SPIB_ADDR", 0x050, 1, 4, 0x00000000, false,
    [⟨31, 0, .rw, .plain, []⟩]⟩,
  ⟨"SPIB_STAT", 0x054, 1, 4, 0x00000000, false,
    [⟨15, 8, .ro, .plain, []⟩, ⟨2, 0, .ro, .plain, []⟩]⟩,
  ⟨"SPIB_RES", 0x058, 1, 4, 0x00000000, false,
    [⟨31, 16, .ro, .plain, []⟩, ⟨15, 0, .ro, .plain, []⟩]⟩,
  ⟨"SPIB_CNT", 0x05C, 1, 4, 0x00000000, false,
    [⟨31, 16, .rc, .plain, []⟩, ⟨15, 0, .rc, .plain, []⟩]⟩,
  ⟨"SPIB_BUF", 0x100, 64, 4, 0x00000000, false,
    [⟨31, 0, .rw, .plain, []⟩]⟩]

/-! ### SPIC: 14_serial_ports.md, Table 14.10 -/

def SPIC_GRANT : FRef := ⟨0xC2, 0x040, 0, 31, 0⟩
def SPIC_GRANT_MS : FRef := ⟨0xC2, 0x040, 0, 31, 16⟩
def SPIC_GRANT_HELD : FRef := ⟨0xC2, 0x040, 0, 8, 8⟩
def SPIC_GRANT_HOLDER : FRef := ⟨0xC2, 0x040, 0, 3, 0⟩
def SPIC_GCMD : FRef := ⟨0xC2, 0x044, 0, 31, 0⟩
def SPIC_GCMD_OP : FRef := ⟨0xC2, 0x044, 0, 3, 0⟩
def SPIC_CTRL : FRef := ⟨0xC2, 0x048, 0, 31, 0⟩
def SPIC_CTRL_BUSY : FRef := ⟨0xC2, 0x048, 0, 31, 31⟩
def SPIC_CTRL_KEPT : FRef := ⟨0xC2, 0x048, 0, 30, 30⟩
def SPIC_CTRL_GAP : FRef := ⟨0xC2, 0x048, 0, 7, 0⟩
def SPIC_XFER : FRef := ⟨0xC2, 0x04C, 0, 31, 0⟩
def SPIC_XFER_KEEP : FRef := ⟨0xC2, 0x04C, 0, 31, 31⟩
def SPIC_XFER_BITS : FRef := ⟨0xC2, 0x04C, 0, 30, 16⟩
def SPIC_XFER_SEL : FRef := ⟨0xC2, 0x04C, 0, 2, 0⟩
def SPIC_RES : FRef := ⟨0xC2, 0x050, 0, 31, 0⟩
def SPIC_RES_CODE : FRef := ⟨0xC2, 0x050, 0, 31, 16⟩
def SPIC_RES_DETAIL : FRef := ⟨0xC2, 0x050, 0, 15, 0⟩
def SPIC_SCFG : FRef := ⟨0xC2, 0x080, 4, 31, 0⟩
def SPIC_SCFG_TRAIL : FRef := ⟨0xC2, 0x080, 4, 31, 24⟩
def SPIC_SCFG_LEAD : FRef := ⟨0xC2, 0x080, 4, 23, 16⟩
def SPIC_SCFG_LSB : FRef := ⟨0xC2, 0x080, 4, 14, 14⟩
def SPIC_SCFG_MODE : FRef := ⟨0xC2, 0x080, 4, 13, 12⟩
def SPIC_SCFG_DIV : FRef := ⟨0xC2, 0x080, 4, 9, 0⟩
def SPIC_BUF : FRef := ⟨0xC2, 0x800, 4, 31, 0⟩
def SPIC_BUF_DATA : FRef := ⟨0xC2, 0x800, 4, 31, 0⟩

/-- The block registers of SPIC: name, offset, count, stride, reset value, banked, fields. -/
def regsSPIC : List Reg := [
  ⟨"SPIC_GRANT", 0x040, 1, 4, 0x03E80000, false,
    [⟨31, 16, .rw, .plain, [.rng 0 0 0x1C01, .rng 60001 65535 0x1C02]⟩, ⟨8, 8, .ro, .plain, []⟩, ⟨3, 0, .ro, .plain, []⟩]⟩,
  ⟨"SPIC_GCMD", 0x044, 1, 4, 0x00000000, false,
    [⟨3, 0, .wo, .plain, [.rng 0 0 0x1C03, .rng 3 15 0x1C03]⟩]⟩,
  ⟨"SPIC_CTRL", 0x048, 1, 4, 0x00000004, false,
    [⟨31, 31, .ro, .plain, []⟩, ⟨30, 30, .ro, .plain, []⟩, ⟨7, 0, .rw, .plain, [.rng 0 0 0x1C01]⟩]⟩,
  ⟨"SPIC_XFER", 0x04C, 1, 4, 0x00000000, false,
    [⟨31, 31, .wo, .plain, []⟩, ⟨30, 16, .wo, .plain, []⟩, ⟨2, 0, .wo, .plain, []⟩]⟩,
  ⟨"SPIC_RES", 0x050, 1, 4, 0x00000000, false,
    [⟨31, 16, .ro, .plain, []⟩, ⟨15, 0, .ro, .plain, []⟩]⟩,
  ⟨"SPIC_SCFG", 0x080, 8, 4, 0x02020014, false,
    [⟨31, 24, .rw, .plain, [.rng 0 0 0x1C01]⟩, ⟨23, 16, .rw, .plain, [.rng 0 0 0x1C01]⟩, ⟨14, 14, .rw, .plain, []⟩, ⟨13, 12, .rw, .plain, []⟩, ⟨9, 0, .rw, .plain, [.rng 0 0 0x1C01, .rng 1 9 0x1C03, .rng 1001 1023 0x1C02]⟩]⟩,
  ⟨"SPIC_BUF", 0x800, 512, 4, 0x00000000, false,
    [⟨31, 0, .rw, .plain, []⟩]⟩]

/-! ### TWI: 14_serial_ports.md, Table 14.12 -/

def TWI_CFG : FRef := ⟨0xC3, 0x040, 0, 31, 0⟩
def TWI_CFG_STRETCH : FRef := ⟨0xC3, 0x040, 0, 15, 8⟩
def TWI_CFG_RATE : FRef := ⟨0xC3, 0x040, 0, 1, 0⟩
def TWI_GRANT : FRef := ⟨0xC3, 0x044, 0, 31, 0⟩
def TWI_GRANT_MS : FRef := ⟨0xC3, 0x044, 0, 31, 16⟩
def TWI_GRANT_HELD : FRef := ⟨0xC3, 0x044, 0, 8, 8⟩
def TWI_GRANT_HOLDER : FRef := ⟨0xC3, 0x044, 0, 3, 0⟩
def TWI_GCMD : FRef := ⟨0xC3, 0x048, 0, 31, 0⟩
def TWI_GCMD_OP : FRef := ⟨0xC3, 0x048, 0, 3, 0⟩
def TWI_XFER : FRef := ⟨0xC3, 0x04C, 0, 31, 0⟩
def TWI_XFER_RLEN : FRef := ⟨0xC3, 0x04C, 0, 25, 17⟩
def TWI_XFER_WLEN : FRef := ⟨0xC3, 0x04C, 0, 16, 8⟩
def TWI_XFER_ADDR : FRef := ⟨0xC3, 0x04C, 0, 6, 0⟩
def TWI_STAT : FRef := ⟨0xC3, 0x050, 0, 31, 0⟩
def TWI_STAT_BUSY : FRef := ⟨0xC3, 0x050, 0, 31, 31⟩
def TWI_STAT_STUCK : FRef := ⟨0xC3, 0x050, 0, 30, 30⟩
def TWI_STAT_SDA : FRef := ⟨0xC3, 0x050, 0, 29, 29⟩
def TWI_STAT_SCL : FRef := ⟨0xC3, 0x050, 0, 28, 28⟩
def TWI_RES : FRef := ⟨0xC3, 0x054, 0, 31, 0⟩
def TWI_RES_CODE : FRef := ⟨0xC3, 0x054, 0, 31, 16⟩
def TWI_RES_DETAIL : FRef := ⟨0xC3, 0x054, 0, 15, 0⟩
def TWI_WBUF : FRef := ⟨0xC3, 0x400, 4, 31, 0⟩
def TWI_WBUF_DATA : FRef := ⟨0xC3, 0x400, 4, 31, 0⟩
def TWI_RBUF : FRef := ⟨0xC3, 0x500, 4, 31, 0⟩
def TWI_RBUF_DATA : FRef := ⟨0xC3, 0x500, 4, 31, 0⟩

/-- The block registers of TWI: name, offset, count, stride, reset value, banked, fields. -/
def regsTWI : List Reg := [
  ⟨"TWI_CFG", 0x040, 1, 4, 0x00000A01, false,
    [⟨15, 8, .rw, .plain, [.rng 0 0 0x1C01]⟩, ⟨1, 0, .rw, .plain, [.rng 3 3 0x1C03]⟩]⟩,
  ⟨"TWI_GRANT", 0x044, 1, 4, 0x03E80000, false,
    [⟨31, 16, .rw, .plain, [.rng 0 0 0x1C01, .rng 60001 65535 0x1C02]⟩, ⟨8, 8, .ro, .plain, []⟩, ⟨3, 0, .ro, .plain, []⟩]⟩,
  ⟨"TWI_GCMD", 0x048, 1, 4, 0x00000000, false,
    [⟨3, 0, .wo, .plain, [.rng 0 0 0x1C03, .rng 4 15 0x1C03]⟩]⟩,
  ⟨"TWI_XFER", 0x04C, 1, 4, 0x00000000, false,
    [⟨25, 17, .wo, .plain, []⟩, ⟨16, 8, .wo, .plain, []⟩, ⟨6, 0, .wo, .plain, []⟩]⟩,
  ⟨"TWI_STAT", 0x050, 1, 4, 0x30000000, false,
    [⟨31, 31, .ro, .plain, []⟩, ⟨30, 30, .ro, .plain, []⟩, ⟨29, 29, .ro, .plain, []⟩, ⟨28, 28, .ro, .plain, []⟩]⟩,
  ⟨"TWI_RES", 0x054, 1, 4, 0x00000000, false,
    [⟨31, 16, .ro, .plain, []⟩, ⟨15, 0, .ro, .plain, []⟩]⟩,
  ⟨"TWI_WBUF", 0x400, 64, 4, 0x00000000, false,
    [⟨31, 0, .rw, .plain, []⟩]⟩,
  ⟨"TWI_RBUF", 0x500, 64, 4, 0x00000000, false,
    [⟨31, 0, .ro, .plain, []⟩]⟩]

/-! ### OSEC: 15_security.md, Table 15.12 -/

def OSEC_LC : FRef := ⟨0xD0, 0x040, 0, 31, 0⟩
def OSEC_LC_STORE : FRef := ⟨0xD0, 0x040, 0, 10, 10⟩
def OSEC_LC_CERTCFG : FRef := ⟨0xD0, 0x040, 0, 9, 9⟩
def OSEC_LC_DEBUGGED : FRef := ⟨0xD0, 0x040, 0, 8, 8⟩
def OSEC_LC_LC : FRef := ⟨0xD0, 0x040, 0, 2, 0⟩
def OSEC_CMD : FRef := ⟨0xD0, 0x044, 0, 31, 0⟩
def OSEC_CMD_LEN : FRef := ⟨0xD0, 0x044, 0, 27, 16⟩
def OSEC_CMD_OP : FRef := ⟨0xD0, 0x044, 0, 3, 0⟩
def OSEC_RES : FRef := ⟨0xD0, 0x048, 0, 31, 0⟩
def OSEC_RES_CODE : FRef := ⟨0xD0, 0x048, 0, 31, 16⟩
def OSEC_RES_DETAIL : FRef := ⟨0xD0, 0x048, 0, 15, 0⟩
def OSEC_STAT : FRef := ⟨0xD0, 0x04C, 0, 31, 0⟩
def OSEC_STAT_CHALLEFT : FRef := ⟨0xD0, 0x04C, 0, 31, 16⟩
def OSEC_STAT_CHAL : FRef := ⟨0xD0, 0x04C, 0, 1, 1⟩
def OSEC_STAT_BUSY : FRef := ⟨0xD0, 0x04C, 0, 0, 0⟩
def OSEC_POL : FRef := ⟨0xD0, 0x050, 0, 31, 0⟩
def OSEC_POL_DEBUGOK : FRef := ⟨0xD0, 0x050, 0, 1, 1⟩
def OSEC_POL_OWNERSIGN : FRef := ⟨0xD0, 0x050, 0, 0, 0⟩
def OSEC_OCTR : FRef := ⟨0xD0, 0x054, 0, 31, 0⟩
def OSEC_OCTR_CTR : FRef := ⟨0xD0, 0x054, 0, 31, 0⟩
def OSEC_EPOCH : FRef := ⟨0xD0, 0x058, 0, 31, 0⟩
def OSEC_EPOCH_BLOCK : FRef := ⟨0xD0, 0x058, 0, 16, 16⟩
def OSEC_EPOCH_STORE : FRef := ⟨0xD0, 0x058, 0, 15, 8⟩
def OSEC_EPOCH_MIN : FRef := ⟨0xD0, 0x058, 0, 7, 0⟩
def OSEC_CNT : FRef := ⟨0xD0, 0x05C, 0, 31, 0⟩
def OSEC_CNT_OBJFAIL : FRef := ⟨0xD0, 0x05C, 0, 31, 16⟩
def OSEC_CNT_SESSDROP : FRef := ⟨0xD0, 0x05C, 0, 15, 0⟩
def OSEC_RATE : FRef := ⟨0xD0, 0x060, 0, 31, 0⟩
def OSEC_RATE_PER_S : FRef := ⟨0xD0, 0x060, 0, 7, 0⟩
def OSEC_CFGREC : FRef := ⟨0xD0, 0x064, 0, 31, 0⟩
def OSEC_CFGREC_USED : FRef := ⟨0xD0, 0x064, 0, 11, 8⟩
def OSEC_CFGREC_CUR : FRef := ⟨0xD0, 0x064, 0, 3, 0⟩
def OSEC_CHAL : FRef := ⟨0xD0, 0x080, 4, 31, 0⟩
def OSEC_CHAL_BYTES : FRef := ⟨0xD0, 0x080, 4, 31, 0⟩
def OSEC_ARB : FRef := ⟨0xD0, 0x100, 4, 31, 0⟩
def OSEC_ARB_MINSVN : FRef := ⟨0xD0, 0x100, 4, 23, 16⟩
def OSEC_ARB_BVALID : FRef := ⟨0xD0, 0x100, 4, 9, 9⟩
def OSEC_ARB_AVALID : FRef := ⟨0xD0, 0x100, 4, 8, 8⟩
def OSEC_ARB_VALUE : FRef := ⟨0xD0, 0x100, 4, 7, 0⟩
def OSEC_OBJ : FRef := ⟨0xD0, 0x800, 4, 31, 0⟩
def OSEC_OBJ_DATA : FRef := ⟨0xD0, 0x800, 4, 31, 0⟩

/-- The block registers of OSEC: name, offset, count, stride, reset value, banked, fields. -/
def regsOSEC : List Reg := [
  ⟨"OSEC_LC", 0x040, 1, 4, 0x00000001, false,
    [⟨10, 10, .ro, .plain, []⟩, ⟨9, 9, .ro, .plain, []⟩, ⟨8, 8, .ro, .plain, []⟩, ⟨2, 0, .ro, .plain, []⟩]⟩,
  ⟨"OSEC_CMD", 0x044, 1, 4, 0x00000000, false,
    [⟨27, 16, .wo, .plain, []⟩, ⟨3, 0, .wo, .plain, [.rng 0 0 0x1D03, .rng 4 15 0x1D03]⟩]⟩,
  ⟨"OSEC_RES", 0x048, 1, 4, 0x00000000, false,
    [⟨31, 16, .ro, .plain, []⟩, ⟨15, 0, .ro, .plain, []⟩]⟩,
  ⟨"OSEC_STAT", 0x04C, 1, 4, 0x00000000, false,
    [⟨31, 16, .ro, .plain, []⟩, ⟨1, 1, .ro, .plain, []⟩, ⟨0, 0, .ro, .plain, []⟩]⟩,
  ⟨"OSEC_POL", 0x050, 1, 4, 0x00000000, false,
    [⟨1, 1, .ro, .plain, []⟩, ⟨0, 0, .ro, .plain, []⟩]⟩,
  ⟨"OSEC_OCTR", 0x054, 1, 4, 0x00000000, false,
    [⟨31, 0, .ro, .plain, []⟩]⟩,
  ⟨"OSEC_EPOCH", 0x058, 1, 4, 0x00000000, false,
    [⟨16, 16, .ro, .plain, []⟩, ⟨15, 8, .ro, .plain, []⟩, ⟨7, 0, .ro, .plain, []⟩]⟩,
  ⟨"OSEC_CNT", 0x05C, 1, 4, 0x00000000, false,
    [⟨31, 16, .rc, .plain, []⟩, ⟨15, 0, .rc, .plain, []⟩]⟩,
  ⟨"OSEC_RATE", 0x060, 1, 4, 0x00000040, false,
    [⟨7, 0, .rw, .plain, [.rng 0 0 0x1D01]⟩]⟩,
  ⟨"OSEC_CFGREC", 0x064, 1, 4, 0x0000000F, false,
    [⟨11, 8, .ro, .plain, []⟩, ⟨3, 0, .ro, .plain, []⟩]⟩,
  ⟨"OSEC_CHAL", 0x080, 12, 4, 0x00000000, false,
    [⟨31, 0, .ro, .plain, []⟩]⟩,
  ⟨"OSEC_ARB", 0x100, 64, 4, 0x00000000, false,
    [⟨23, 16, .ro, .plain, []⟩, ⟨9, 9, .ro, .plain, []⟩, ⟨8, 8, .ro, .plain, []⟩, ⟨7, 0, .ro, .plain, []⟩]⟩,
  ⟨"OSEC_OBJ", 0x800, 512, 4, 0x00000000, false,
    [⟨31, 0, .rw, .plain, []⟩]⟩]

/-! ### KEYST: 15_security.md, Table 15.14 -/

def KS_IDKID : FRef := ⟨0xD1, 0x040, 0, 31, 0⟩
def KS_IDKID_ID : FRef := ⟨0xD1, 0x040, 0, 31, 0⟩
def KS_KAKID : FRef := ⟨0xD1, 0x044, 0, 31, 0⟩
def KS_KAKID_ID : FRef := ⟨0xD1, 0x044, 0, 31, 0⟩
def KS_SLOT : FRef := ⟨0xD1, 0x100, 16, 31, 0⟩
def KS_SLOT_FGEN : FRef := ⟨0xD1, 0x100, 16, 31, 16⟩
def KS_SLOT_NEXT : FRef := ⟨0xD1, 0x100, 16, 3, 3⟩
def KS_SLOT_FEEDKEY : FRef := ⟨0xD1, 0x100, 16, 2, 2⟩
def KS_SLOT_SESSION : FRef := ⟨0xD1, 0x100, 16, 1, 1⟩
def KS_SLOT_ENROLLED : FRef := ⟨0xD1, 0x100, 16, 0, 0⟩
def KS_KEYID : FRef := ⟨0xD1, 0x104, 16, 31, 0⟩
def KS_KEYID_ID : FRef := ⟨0xD1, 0x104, 16, 31, 0⟩
def KS_NACT : FRef := ⟨0xD1, 0x108, 16, 31, 0⟩
def KS_NACT_DCN : FRef := ⟨0xD1, 0x108, 16, 31, 0⟩
def KS_SCTR : FRef := ⟨0xD1, 0x10C, 16, 31, 0⟩
def KS_SCTR_SCTR : FRef := ⟨0xD1, 0x10C, 16, 31, 0⟩
def KS_BEAT : FRef := ⟨0xD1, 0x200, 0, 31, 0⟩
def KS_BEAT_GEN : FRef := ⟨0xD1, 0x200, 0, 31, 16⟩
def KS_BEAT_NEXT : FRef := ⟨0xD1, 0x200, 0, 5, 5⟩
def KS_BEAT_VALID : FRef := ⟨0xD1, 0x200, 0, 4, 4⟩
def KS_BEAT_SLOT : FRef := ⟨0xD1, 0x200, 0, 3, 0⟩
def KS_ENUM : FRef := ⟨0xD1, 0x204, 0, 31, 0⟩
def KS_ENUM_GEN : FRef := ⟨0xD1, 0x204, 0, 31, 16⟩
def KS_ENUM_NEXT : FRef := ⟨0xD1, 0x204, 0, 5, 5⟩
def KS_ENUM_VALID : FRef := ⟨0xD1, 0x204, 0, 4, 4⟩
def KS_ENUM_SLOT : FRef := ⟨0xD1, 0x204, 0, 3, 0⟩

/-- The block registers of KEYST: name, offset, count, stride, reset value, banked, fields. -/
def regsKEYST : List Reg := [
  ⟨"KS_IDKID", 0x040, 1, 4, 0x00000000, false,
    [⟨31, 0, .ro, .plain, []⟩]⟩,
  ⟨"KS_KAKID", 0x044, 1, 4, 0x00000000, false,
    [⟨31, 0, .ro, .plain, []⟩]⟩,
  ⟨"KS_SLOT", 0x100, 16, 16, 0x00000000, false,
    [⟨31, 16, .ro, .plain, []⟩, ⟨3, 3, .ro, .plain, []⟩, ⟨2, 2, .ro, .plain, []⟩, ⟨1, 1, .ro, .plain, []⟩, ⟨0, 0, .ro, .plain, []⟩]⟩,
  ⟨"KS_KEYID", 0x104, 16, 16, 0x00000000, false,
    [⟨31, 0, .ro, .plain, []⟩]⟩,
  ⟨"KS_NACT", 0x108, 16, 16, 0x00000000, false,
    [⟨31, 0, .ro, .plain, []⟩]⟩,
  ⟨"KS_SCTR", 0x10C, 16, 16, 0x00000000, false,
    [⟨31, 0, .ro, .plain, []⟩]⟩,
  ⟨"KS_BEAT", 0x200, 1, 4, 0x00000000, false,
    [⟨31, 16, .ro, .plain, []⟩, ⟨5, 5, .ro, .plain, []⟩, ⟨4, 4, .ro, .plain, []⟩, ⟨3, 0, .ro, .plain, []⟩]⟩,
  ⟨"KS_ENUM", 0x204, 1, 4, 0x00000000, false,
    [⟨31, 16, .ro, .plain, []⟩, ⟨5, 5, .ro, .plain, []⟩, ⟨4, 4, .ro, .plain, []⟩, ⟨3, 0, .ro, .plain, []⟩]⟩]

/-! ### ATTEST: 15_security.md, Table 15.16 -/

def ATT_CMD : FRef := ⟨0xD2, 0x040, 0, 31, 0⟩
def ATT_CMD_OP : FRef := ⟨0xD2, 0x040, 0, 3, 0⟩
def ATT_STAT : FRef := ⟨0xD2, 0x044, 0, 31, 0⟩
def ATT_STAT_LEN : FRef := ⟨0xD2, 0x044, 0, 31, 16⟩
def ATT_STAT_READY : FRef := ⟨0xD2, 0x044, 0, 1, 1⟩
def ATT_STAT_BUSY : FRef := ⟨0xD2, 0x044, 0, 0, 0⟩
def ATT_RES : FRef := ⟨0xD2, 0x048, 0, 31, 0⟩
def ATT_RES_CODE : FRef := ⟨0xD2, 0x048, 0, 31, 16⟩
def ATT_RES_DETAIL : FRef := ⟨0xD2, 0x048, 0, 15, 0⟩
def ATT_NONCE : FRef := ⟨0xD2, 0x080, 4, 31, 0⟩
def ATT_NONCE_BYTES : FRef := ⟨0xD2, 0x080, 4, 31, 0⟩
def ATT_BUF : FRef := ⟨0xD2, 0x400, 4, 31, 0⟩
def ATT_BUF_DATA : FRef := ⟨0xD2, 0x400, 4, 31, 0⟩

/-- The block registers of ATTEST: name, offset, count, stride, reset value, banked, fields. -/
def regsATTEST : List Reg := [
  ⟨"ATT_CMD", 0x040, 1, 4, 0x00000000, true,
    [⟨3, 0, .wo, .plain, [.rng 0 0 0x1D03, .rng 3 15 0x1D03]⟩]⟩,
  ⟨"ATT_STAT", 0x044, 1, 4, 0x00000000, true,
    [⟨31, 16, .ro, .plain, []⟩, ⟨1, 1, .ro, .plain, []⟩, ⟨0, 0, .ro, .plain, []⟩]⟩,
  ⟨"ATT_RES", 0x048, 1, 4, 0x00000000, true,
    [⟨31, 16, .ro, .plain, []⟩, ⟨15, 0, .ro, .plain, []⟩]⟩,
  ⟨"ATT_NONCE", 0x080, 12, 4, 0x00000000, true,
    [⟨31, 0, .rw, .plain, []⟩]⟩,
  ⟨"ATT_BUF", 0x400, 256, 4, 0x00000000, true,
    [⟨31, 0, .ro, .plain, []⟩]⟩]

/-! ### UPD: 16_firmware_update.md, Table 16.13 -/

def UPD_CMD : FRef := ⟨0xE0, 0x040, 0, 31, 0⟩
def UPD_CMD_TRIG : FRef := ⟨0xE0, 0x040, 0, 9, 8⟩
def UPD_CMD_METHOD : FRef := ⟨0xE0, 0x040, 0, 5, 4⟩
def UPD_CMD_OP : FRef := ⟨0xE0, 0x040, 0, 3, 0⟩
def UPD_BEGIN : FRef := ⟨0xE0, 0x044, 0, 31, 0⟩
def UPD_BEGIN_SLOT : FRef := ⟨0xE0, 0x044, 0, 4, 4⟩
def UPD_BEGIN_KIND : FRef := ⟨0xE0, 0x044, 0, 1, 0⟩
def UPD_LEN : FRef := ⟨0xE0, 0x048, 0, 31, 0⟩
def UPD_LEN_BYTES : FRef := ⟨0xE0, 0x048, 0, 31, 0⟩
def UPD_ID : FRef := ⟨0xE0, 0x04C, 0, 31, 0⟩
def UPD_ID_UPID : FRef := ⟨0xE0, 0x04C, 0, 31, 0⟩
def UPD_TDCN : FRef := ⟨0xE0, 0x050, 0, 31, 0⟩
def UPD_TDCN_DCN : FRef := ⟨0xE0, 0x050, 0, 31, 0⟩
def UPD_CFG : FRef := ⟨0xE0, 0x054, 0, 31, 0⟩
def UPD_CFG_HOENROL : FRef := ⟨0xE0, 0x054, 0, 8, 8⟩
def UPD_CFG_JPIECES : FRef := ⟨0xE0, 0x054, 0, 7, 0⟩
def UPD_STAT : FRef := ⟨0xE0, 0x058, 0, 31, 0⟩
def UPD_STAT_COMP : FRef := ⟨0xE0, 0x058, 0, 11, 8⟩
def UPD_STAT_PEND : FRef := ⟨0xE0, 0x058, 0, 7, 7⟩
def UPD_STAT_KIND : FRef := ⟨0xE0, 0x058, 0, 5, 4⟩
def UPD_STAT_STATE : FRef := ⟨0xE0, 0x058, 0, 2, 0⟩
def UPD_RCVD : FRef := ⟨0xE0, 0x05C, 0, 31, 0⟩
def UPD_RCVD_TOTAL : FRef := ⟨0xE0, 0x05C, 0, 31, 16⟩
def UPD_RCVD_DONE : FRef := ⟨0xE0, 0x05C, 0, 15, 0⟩
def UPD_RES : FRef := ⟨0xE0, 0x060, 0, 31, 0⟩
def UPD_RES_CODE : FRef := ⟨0xE0, 0x060, 0, 31, 16⟩
def UPD_RES_DETAIL : FRef := ⟨0xE0, 0x060, 0, 15, 0⟩
def UPD_CNT : FRef := ⟨0xE0, 0x064, 0, 31, 0⟩
def UPD_CNT_ACCEPTED : FRef := ⟨0xE0, 0x064, 0, 31, 16⟩
def UPD_CNT_CRCFAIL : FRef := ⟨0xE0, 0x064, 0, 15, 8⟩
def UPD_CNT_DUP : FRef := ⟨0xE0, 0x064, 0, 7, 0⟩
def UPD_MBASE : FRef := ⟨0xE0, 0x068, 0, 31, 0⟩
def UPD_MBASE_GROUP : FRef := ⟨0xE0, 0x068, 0, 2, 0⟩
def UPD_STOP : FRef := ⟨0xE0, 0x06C, 0, 31, 0⟩
def UPD_STOP_MS : FRef := ⟨0xE0, 0x06C, 0, 15, 0⟩
def UPD_MAP : FRef := ⟨0xE0, 0x800, 4, 31, 0⟩
def UPD_MAP_BITS : FRef := ⟨0xE0, 0x800, 4, 31, 0⟩

/-- The block registers of UPD: name, offset, count, stride, reset value, banked, fields. -/
def regsUPD : List Reg := [
  ⟨"UPD_CMD", 0x040, 1, 4, 0x00000000, false,
    [⟨9, 8, .wo, .plain, [.rng 2 3 0x1E03]⟩, ⟨5, 4, .wo, .plain, []⟩, ⟨3, 0, .wo, .plain, [.rng 0 0 0x1E03, .rng 8 15 0x1E03]⟩]⟩,
  ⟨"UPD_BEGIN", 0x044, 1, 4, 0x00000000, false,
    [⟨4, 4, .rw, .plain, []⟩, ⟨1, 0, .rw, .plain, []⟩]⟩,
  ⟨"UPD_LEN", 0x048, 1, 4, 0x00000000, false,
    [⟨31, 0, .rw, .plain, []⟩]⟩,
  ⟨"UPD_ID", 0x04C, 1, 4, 0x00000000, false,
    [⟨31, 0, .rw, .plain, []⟩]⟩,
  ⟨"UPD_TDCN", 0x050, 1, 4, 0x00000000, false,
    [⟨31, 0, .rw, .plain, []⟩]⟩,
  ⟨"UPD_CFG", 0x054, 1, 4, 0x00000040, false,
    [⟨8, 8, .rw, .plain, []⟩, ⟨7, 0, .rw, .plain, [.rng 0 0 0x1E01]⟩]⟩,
  ⟨"UPD_STAT", 0x058, 1, 4, 0x00000000, false,
    [⟨11, 8, .ro, .plain, []⟩, ⟨7, 7, .ro, .plain, []⟩, ⟨5, 4, .ro, .plain, []⟩, ⟨2, 0, .ro, .plain, []⟩]⟩,
  ⟨"UPD_RCVD", 0x05C, 1, 4, 0x00000000, false,
    [⟨31, 16, .ro, .plain, []⟩, ⟨15, 0, .ro, .plain, []⟩]⟩,
  ⟨"UPD_RES", 0x060, 1, 4, 0x00000000, false,
    [⟨31, 16, .ro, .plain, []⟩, ⟨15, 0, .ro, .plain, []⟩]⟩,
  ⟨"UPD_CNT", 0x064, 1, 4, 0x00000000, false,
    [⟨31, 16, .rc, .plain, []⟩, ⟨15, 8, .rc, .plain, []⟩, ⟨7, 0, .rc, .plain, []⟩]⟩,
  ⟨"UPD_MBASE", 0x068, 1, 4, 0x00000000, true,
    [⟨2, 0, .rw, .plain, []⟩]⟩,
  ⟨"UPD_STOP", 0x06C, 1, 4, 0x00000000, false,
    [⟨15, 0, .ro, .plain, []⟩]⟩,
  ⟨"UPD_MAP", 0x800, 128, 4, 0x00000000, false,
    [⟨31, 0, .ro, .plain, []⟩]⟩]

/-! ### SLOT: 16_firmware_update.md, Table 16.15 -/

def SLOT_BOOT : FRef := ⟨0xE1, 0x040, 0, 31, 0⟩
def SLOT_BOOT_SOURCE : FRef := ⟨0xE1, 0x040, 0, 21, 20⟩
def SLOT_BOOT_BUNDLE : FRef := ⟨0xE1, 0x040, 0, 17, 16⟩
def SLOT_BOOT_PENDCOMP : FRef := ⟨0xE1, 0x040, 0, 9, 9⟩
def SLOT_BOOT_FBVALID : FRef := ⟨0xE1, 0x040, 0, 8, 8⟩
def SLOT_BOOT_ACT : FRef := ⟨0xE1, 0x040, 0, 4, 4⟩
def SLOT_BOOT_RUN : FRef := ⟨0xE1, 0x040, 0, 1, 0⟩
def SLOT_FAIL : FRef := ⟨0xE1, 0x044, 0, 31, 0⟩
def SLOT_FAIL_CODE : FRef := ⟨0xE1, 0x044, 0, 31, 16⟩
def SLOT_FAIL_SLOT : FRef := ⟨0xE1, 0x044, 0, 8, 8⟩
def SLOT_FAIL_DBL : FRef := ⟨0xE1, 0x044, 0, 1, 0⟩
def SLOT_SEQ : FRef := ⟨0xE1, 0x048, 0, 31, 0⟩
def SLOT_SEQ_SEQ : FRef := ⟨0xE1, 0x048, 0, 31, 0⟩
def SLOT_INFO : FRef := ⟨0xE1, 0x050, 16, 31, 0⟩
def SLOT_INFO_NIMG : FRef := ⟨0xE1, 0x050, 16, 11, 8⟩
def SLOT_INFO_STATE : FRef := ⟨0xE1, 0x050, 16, 2, 0⟩
def SLOT_BUILD : FRef := ⟨0xE1, 0x054, 16, 31, 0⟩
def SLOT_BUILD_BUILD : FRef := ⟨0xE1, 0x054, 16, 31, 0⟩
def SLOT_MEAS : FRef := ⟨0xE1, 0x058, 16, 31, 0⟩
def SLOT_MEAS_BYTES : FRef := ⟨0xE1, 0x058, 16, 31, 0⟩
def SLOT_BND : FRef := ⟨0xE1, 0x070, 16, 31, 0⟩
def SLOT_BND_STATE : FRef := ⟨0xE1, 0x070, 16, 2, 0⟩
def SLOT_BID : FRef := ⟨0xE1, 0x074, 16, 31, 0⟩
def SLOT_BID_BID : FRef := ⟨0xE1, 0x074, 16, 31, 0⟩
def SLOT_COMP : FRef := ⟨0xE1, 0x0A0, 4, 31, 0⟩
def SLOT_COMP_CODE : FRef := ⟨0xE1, 0x0A0, 4, 31, 16⟩
def SLOT_COMP_STATE : FRef := ⟨0xE1, 0x0A0, 4, 7, 0⟩

/-- The block registers of SLOT: name, offset, count, stride, reset value, banked, fields. -/
def regsSLOT : List Reg := [
  ⟨"SLOT_BOOT", 0x040, 1, 4, 0x00000000, false,
    [⟨21, 20, .ro, .plain, []⟩, ⟨17, 16, .ro, .plain, []⟩, ⟨9, 9, .ro, .plain, []⟩, ⟨8, 8, .ro, .plain, []⟩, ⟨4, 4, .ro, .plain, []⟩, ⟨1, 0, .ro, .plain, []⟩]⟩,
  ⟨"SLOT_FAIL", 0x044, 1, 4, 0x00000000, false,
    [⟨31, 16, .ro, .plain, []⟩, ⟨8, 8, .ro, .plain, []⟩, ⟨1, 0, .ro, .plain, []⟩]⟩,
  ⟨"SLOT_SEQ", 0x048, 1, 4, 0x00000000, false,
    [⟨31, 0, .ro, .plain, []⟩]⟩,
  ⟨"SLOT_INFO", 0x050, 2, 16, 0x00000000, false,
    [⟨11, 8, .ro, .plain, []⟩, ⟨2, 0, .ro, .plain, []⟩]⟩,
  ⟨"SLOT_BUILD", 0x054, 2, 16, 0x00000000, false,
    [⟨31, 0, .ro, .plain, []⟩]⟩,
  ⟨"SLOT_MEAS", 0x058, 2, 16, 0x00000000, false,
    [⟨31, 0, .ro, .plain, []⟩]⟩,
  ⟨"SLOT_BND", 0x070, 2, 16, 0x00000000, false,
    [⟨2, 0, .ro, .plain, []⟩]⟩,
  ⟨"SLOT_BID", 0x074, 2, 16, 0x00000000, false,
    [⟨31, 0, .ro, .plain, []⟩]⟩,
  ⟨"SLOT_COMP", 0x0A0, 4, 4, 0x00000000, false,
    [⟨31, 16, .ro, .plain, []⟩, ⟨7, 0, .ro, .plain, []⟩]⟩]

/-! ### PWRDOM: 17_modes_power_and_faults.md, Table 17.10 -/

def PD_BOOT : FRef := ⟨0x02, 0x040, 0, 31, 0⟩
def PD_BOOT_SVCBOOT : FRef := ⟨0x02, 0x040, 0, 0, 0⟩
def PD_CFG : FRef := ⟨0x02, 0x044, 0, 31, 0⟩
def PD_CFG_TIME : FRef := ⟨0x02, 0x044, 0, 7, 7⟩
def PD_CFG_SPIA : FRef := ⟨0x02, 0x044, 0, 6, 6⟩
def PD_CFG_SIGDET : FRef := ⟨0x02, 0x044, 0, 5, 5⟩
def PD_CFG_WAKEN : FRef := ⟨0x02, 0x044, 0, 4, 4⟩
def PD_REQ : FRef := ⟨0x02, 0x048, 0, 31, 0⟩
def PD_REQ_SUPPLY : FRef := ⟨0x02, 0x048, 0, 10, 10⟩
def PD_REQ_SINKB : FRef := ⟨0x02, 0x048, 0, 9, 9⟩
def PD_REQ_SINKA : FRef := ⟨0x02, 0x048, 0, 8, 8⟩
def PD_ACT : FRef := ⟨0x02, 0x04C, 0, 31, 0⟩
def PD_ACT_DOM : FRef := ⟨0x02, 0x04C, 0, 10, 0⟩
def PD_WAKE : FRef := ⟨0x02, 0x050, 0, 31, 0⟩
def PD_WAKE_SEC : FRef := ⟨0x02, 0x050, 0, 31, 0⟩
def PD_WAKESRC : FRef := ⟨0x02, 0x054, 0, 31, 0⟩
def PD_WAKESRC_WAKES : FRef := ⟨0x02, 0x054, 0, 31, 16⟩
def PD_WAKESRC_SRC : FRef := ⟨0x02, 0x054, 0, 2, 0⟩
def PD_BOD : FRef := ⟨0x02, 0x058, 0, 31, 0⟩
def PD_BOD_WARN : FRef := ⟨0x02, 0x058, 0, 31, 16⟩
def PD_BOD_RESETS : FRef := ⟨0x02, 0x058, 0, 15, 0⟩

/-- The block registers of PWRDOM: name, offset, count, stride, reset value, banked, fields. -/
def regsPWRDOM : List Reg := [
  ⟨"PD_BOOT", 0x040, 1, 4, 0x00000000, false,
    [⟨0, 0, .ro, .plain, []⟩]⟩,
  ⟨"PD_CFG", 0x044, 1, 4, 0x00000070, false,
    [⟨7, 7, .rw, .plain, []⟩, ⟨6, 6, .rw, .plain, []⟩, ⟨5, 5, .rw, .plain, []⟩, ⟨4, 4, .rw, .plain, []⟩]⟩,
  ⟨"PD_REQ", 0x048, 1, 4, 0x00000700, false,
    [⟨10, 10, .rw, .staged, []⟩, ⟨9, 9, .rw, .staged, []⟩, ⟨8, 8, .rw, .staged, []⟩]⟩,
  ⟨"PD_ACT", 0x04C, 1, 4, 0x000007FF, false,
    [⟨10, 0, .ro, .plain, []⟩]⟩,
  ⟨"PD_WAKE", 0x050, 1, 4, 0x00000000, false,
    [⟨31, 0, .rw, .plain, []⟩]⟩,
  ⟨"PD_WAKESRC", 0x054, 1, 4, 0x00000000, false,
    [⟨31, 16, .ro, .plain, []⟩, ⟨2, 0, .ro, .plain, []⟩]⟩,
  ⟨"PD_BOD", 0x058, 1, 4, 0x00000000, false,
    [⟨31, 16, .ro, .plain, []⟩, ⟨15, 0, .ro, .plain, []⟩]⟩]

/-! ### THERM: 17_modes_power_and_faults.md, Table 17.12 -/

def TH_CFG : FRef := ⟨0x03, 0x040, 0, 31, 0⟩
def TH_CFG_DERATE : FRef := ⟨0x03, 0x040, 0, 23, 16⟩
def TH_CFG_WARN : FRef := ⟨0x03, 0x040, 0, 15, 8⟩
def TH_CFG_HYST : FRef := ⟨0x03, 0x040, 0, 7, 0⟩
def TH_BCFG : FRef := ⟨0x03, 0x044, 0, 31, 0⟩
def TH_BCFG_BDERATE : FRef := ⟨0x03, 0x044, 0, 7, 0⟩
def TH_DS : FRef := ⟨0x03, 0x048, 0, 31, 0⟩
def TH_DS_REC : FRef := ⟨0x03, 0x048, 0, 23, 16⟩
def TH_DS_STEP : FRef := ⟨0x03, 0x048, 0, 15, 8⟩
def TH_DS_DMIN : FRef := ⟨0x03, 0x048, 0, 4, 0⟩
def TH_STONE : FRef := ⟨0x03, 0x04C, 0, 31, 0⟩
def TH_STONE_DARK : FRef := ⟨0x03, 0x04C, 0, 7, 0⟩
def TH_STAT : FRef := ⟨0x03, 0x050, 0, 31, 0⟩
def TH_STAT_DIEMAX : FRef := ⟨0x03, 0x050, 0, 31, 16⟩
def TH_STAT_HOT : FRef := ⟨0x03, 0x050, 0, 15, 12⟩
def TH_STAT_SHUT : FRef := ⟨0x03, 0x050, 0, 9, 9⟩
def TH_STAT_WARN : FRef := ⟨0x03, 0x050, 0, 8, 8⟩
def TH_STAT_DS : FRef := ⟨0x03, 0x050, 0, 4, 0⟩
def TH_DARK : FRef := ⟨0x03, 0x054, 0, 31, 0⟩
def TH_DARK_STONES : FRef := ⟨0x03, 0x054, 0, 15, 0⟩
def TH_PEAK : FRef := ⟨0x03, 0x058, 0, 31, 0⟩
def TH_PEAK_TEMP : FRef := ⟨0x03, 0x058, 0, 15, 0⟩
def TH_CNT : FRef := ⟨0x03, 0x05C, 0, 31, 0⟩
def TH_CNT_STEPS : FRef := ⟨0x03, 0x05C, 0, 31, 16⟩
def TH_CNT_SHUTDOWNS : FRef := ⟨0x03, 0x05C, 0, 15, 0⟩

/-- The block registers of THERM: name, offset, count, stride, reset value, banked, fields. -/
def regsTHERM : List Reg := [
  ⟨"TH_CFG", 0x040, 1, 4, 0x00696405, false,
    [⟨23, 16, .rw, .staged, [.rng 0 89 0x1003, .rng 116 255 0x1003]⟩, ⟨15, 8, .rw, .staged, [.rng 0 79 0x1003, .rng 116 255 0x1003]⟩, ⟨7, 0, .rw, .staged, [.rng 0 0 0x1001, .rng 21 255 0x1002]⟩]⟩,
  ⟨"TH_BCFG", 0x044, 1, 4, 0x00000000, false,
    [⟨7, 0, .rw, .staged, [.rng 1 39 0x1003, .rng 151 255 0x1002]⟩]⟩,
  ⟨"TH_DS", 0x048, 1, 4, 0x000A0108, false,
    [⟨23, 16, .rw, .staged, [.rng 0 0 0x1001]⟩, ⟨15, 8, .rw, .staged, [.rng 0 0 0x1001, .rng 61 255 0x1002]⟩, ⟨4, 0, .rw, .staged, [.rng 0 7 0x1003, .rng 17 31 0x1003]⟩]⟩,
  ⟨"TH_STONE", 0x04C, 1, 4, 0x00000070, false,
    [⟨7, 0, .rw, .staged, [.rng 0 99 0x1003, .rng 119 255 0x1003]⟩]⟩,
  ⟨"TH_STAT", 0x050, 1, 4, 0x00000010, false,
    [⟨31, 16, .ro, .plain, []⟩, ⟨15, 12, .ro, .plain, []⟩, ⟨9, 9, .ro, .plain, []⟩, ⟨8, 8, .ro, .plain, []⟩, ⟨4, 0, .ro, .plain, []⟩]⟩,
  ⟨"TH_DARK", 0x054, 1, 4, 0x00000000, false,
    [⟨15, 0, .ro, .plain, []⟩]⟩,
  ⟨"TH_PEAK", 0x058, 1, 4, 0x00000000, false,
    [⟨15, 0, .ro, .plain, []⟩]⟩,
  ⟨"TH_CNT", 0x05C, 1, 4, 0x00000000, false,
    [⟨31, 16, .rc, .plain, []⟩, ⟨15, 0, .rc, .plain, []⟩]⟩]

/-! ### FAULT: 17_modes_power_and_faults.md, Table 17.14 -/

def FLT_CAUSE : FRef := ⟨0x04, 0x040, 0, 31, 0⟩
def FLT_CAUSE_ACTIVE : FRef := ⟨0x04, 0x040, 0, 9, 0⟩
def FLT_LATCH : FRef := ⟨0x04, 0x044, 0, 31, 0⟩
def FLT_LATCH_SEEN : FRef := ⟨0x04, 0x044, 0, 9, 0⟩
def FLT_ENTRY : FRef := ⟨0x04, 0x048, 0, 31, 0⟩
def FLT_ENTRY_DCN : FRef := ⟨0x04, 0x048, 0, 31, 16⟩
def FLT_ENTRY_CAUSE : FRef := ⟨0x04, 0x048, 0, 3, 0⟩
def FLT_COND : FRef := ⟨0x04, 0x04C, 0, 31, 0⟩
def FLT_COND_ALL : FRef := ⟨0x04, 0x04C, 0, 31, 31⟩
def FLT_COND_CHECKS : FRef := ⟨0x04, 0x04C, 0, 5, 5⟩
def FLT_COND_UNMASKED : FRef := ⟨0x04, 0x04C, 0, 4, 4⟩
def FLT_COND_SENSORS : FRef := ⟨0x04, 0x04C, 0, 3, 3⟩
def FLT_COND_FLASH : FRef := ⟨0x04, 0x04C, 0, 2, 2⟩
def FLT_COND_RING : FRef := ⟨0x04, 0x04C, 0, 1, 1⟩
def FLT_COND_OPCOND : FRef := ⟨0x04, 0x04C, 0, 0, 0⟩
def FLT_LAST : FRef := ⟨0x04, 0x050, 0, 31, 0⟩
def FLT_LAST_CODE : FRef := ⟨0x04, 0x050, 0, 31, 16⟩
def FLT_LAST_DETAIL : FRef := ⟨0x04, 0x050, 0, 15, 0⟩
def FLT_LOCK : FRef := ⟨0x04, 0x054, 0, 31, 0⟩
def FLT_LOCK_COUNT : FRef := ⟨0x04, 0x054, 0, 15, 0⟩
def FLT_PAGE : FRef := ⟨0x04, 0x060, 4, 31, 0⟩
def FLT_PAGE_PAGES : FRef := ⟨0x04, 0x060, 4, 31, 0⟩

/-- The block registers of FAULT: name, offset, count, stride, reset value, banked, fields. -/
def regsFAULT : List Reg := [
  ⟨"FLT_CAUSE", 0x040, 1, 4, 0x00000000, false,
    [⟨9, 0, .ro, .plain, []⟩]⟩,
  ⟨"FLT_LATCH", 0x044, 1, 4, 0x00000000, false,
    [⟨9, 0, .w1c, .plain, []⟩]⟩,
  ⟨"FLT_ENTRY", 0x048, 1, 4, 0x00000000, false,
    [⟨31, 16, .ro, .plain, []⟩, ⟨3, 0, .ro, .plain, []⟩]⟩,
  ⟨"FLT_COND", 0x04C, 1, 4, 0x00000000, false,
    [⟨31, 31, .ro, .plain, []⟩, ⟨5, 5, .ro, .plain, []⟩, ⟨4, 4, .ro, .plain, []⟩, ⟨3, 3, .ro, .plain, []⟩, ⟨2, 2, .ro, .plain, []⟩, ⟨1, 1, .ro, .plain, []⟩, ⟨0, 0, .ro, .plain, []⟩]⟩,
  ⟨"FLT_LAST", 0x050, 1, 4, 0x00000000, false,
    [⟨31, 16, .ro, .plain, []⟩, ⟨15, 0, .ro, .plain, []⟩]⟩,
  ⟨"FLT_LOCK", 0x054, 1, 4, 0x00000000, false,
    [⟨15, 0, .rc, .plain, []⟩]⟩,
  ⟨"FLT_PAGE", 0x060, 8, 4, 0x00000000, false,
    [⟨31, 0, .ro, .plain, []⟩]⟩]

/-! ### DBG: 17_modes_power_and_faults.md, Table 17.16 -/

def DBG_SCOPE : FRef := ⟨0xF0, 0x040, 0, 31, 0⟩
def DBG_SCOPE_SCOPE : FRef := ⟨0xF0, 0x040, 0, 4, 0⟩
def DBG_HALT : FRef := ⟨0xF0, 0x044, 0, 31, 0⟩
def DBG_HALT_HALT : FRef := ⟨0xF0, 0x044, 0, 4, 0⟩
def DBG_STAT : FRef := ⟨0xF0, 0x048, 0, 31, 0⟩
def DBG_STAT_EXTEST : FRef := ⟨0xF0, 0x048, 0, 8, 8⟩
def DBG_STAT_HALTED : FRef := ⟨0xF0, 0x048, 0, 4, 0⟩
def DBG_IDCODE : FRef := ⟨0xF0, 0x04C, 0, 31, 0⟩
def DBG_IDCODE_VER : FRef := ⟨0xF0, 0x04C, 0, 31, 28⟩
def DBG_IDCODE_PART : FRef := ⟨0xF0, 0x04C, 0, 27, 12⟩
def DBG_IDCODE_MFR : FRef := ⟨0xF0, 0x04C, 0, 11, 1⟩
def DBG_IDCODE_ONE : FRef := ⟨0xF0, 0x04C, 0, 0, 0⟩

/-- The block registers of DBG: name, offset, count, stride, reset value, banked, fields. -/
def regsDBG : List Reg := [
  ⟨"DBG_SCOPE", 0x040, 1, 4, 0x00000000, false,
    [⟨4, 0, .ro, .plain, []⟩]⟩,
  ⟨"DBG_HALT", 0x044, 1, 4, 0x00000000, false,
    [⟨4, 0, .rw, .plain, []⟩]⟩,
  ⟨"DBG_STAT", 0x048, 1, 4, 0x00000000, false,
    [⟨8, 8, .ro, .plain, []⟩, ⟨4, 0, .ro, .plain, []⟩]⟩,
  ⟨"DBG_IDCODE", 0x04C, 1, 4, 0x11536001, false,
    [⟨31, 28, .ro, .plain, []⟩, ⟨27, 12, .ro, .plain, []⟩, ⟨11, 1, .ro, .plain, []⟩, ⟨0, 0, .ro, .plain, []⟩]⟩]

end Sys2Proof.Machine
end

