-- ==== Sys2Proof/Machine/Pages.lean ====
section
/-! DEFINITION. The page index map of Table 2.2 (R34) with each page's block digit (Table 2.17), capabilities (PG_CAP, each
owning chapter), whether it has a unit to enable (R41, R414) and whether its fields can be staged at all (R48). -/

namespace Sys2Proof.Machine

/-- One row of Table 2.2: `cnt` pages from index `base`. -/
structure PageRow where
  name : String
  base : Nat
  cnt : Nat
  blk : Nat
  cap : Nat
  unit : Bool
  stageable : Bool
  regs : List Reg
  deriving DecidableEq, Repr

/-- Table 2.2. -/
def pageRows : List PageRow := [
  ⟨"SYS", 0x00, 1, 0x0, 2, false, true, regsSYS⟩,
  ⟨"RST", 0x01, 1, 0x0, 0, false, false, regsRST⟩,
  ⟨"PWRDOM", 0x02, 1, 0x0, 6, false, true, regsPWRDOM⟩,
  ⟨"THERM", 0x03, 1, 0x0, 4, false, true, regsTHERM⟩,
  ⟨"FAULT", 0x04, 1, 0x0, 0, false, true, regsFAULT⟩,
  ⟨"ADMIT", 0x05, 1, 0x3, 4, false, true, regsADMIT⟩,
  ⟨"FIRKIN", 0x06, 1, 0x0, 0, false, false, regsFIRKIN⟩,
  ⟨"EVTQ", 0x07, 1, 0x0, 0, false, false, regsEVTQ⟩,
  ⟨"TEN", 0x10, 16, 0x1, 2, false, true, regsTEN⟩,
  ⟨"LNK", 0x20, 4, 0x2, 2, true, true, regsLNK⟩,
  ⟨"CHAIN", 0x24, 1, 0x2, 6, true, true, regsCHAIN⟩,
  ⟨"PTP", 0x25, 1, 0x3, 0, true, true, regsPTP⟩,
  ⟨"TIME", 0x26, 1, 0x3, 4, true, true, regsTIME⟩,
  ⟨"FEED", 0x30, 16, 0x4, 6, true, true, regsFEED⟩,
  ⟨"WIN", 0x40, 1, 0x4, 6, true, true, regsWIN⟩,
  ⟨"PAL", 0x41, 1, 0x4, 4, false, true, regsPAL⟩,
  ⟨"PATT", 0x42, 16, 0x4, 5, true, true, regsPATT⟩,
  ⟨"PIX", 0x52, 1, 0x5, 4, false, true, regsPIX⟩,
  ⟨"CORR", 0x53, 1, 0x5, 4, false, true, regsCORR⟩,
  ⟨"TFIELD", 0x54, 1, 0x5, 4, false, true, regsTFIELD⟩,
  ⟨"DIM", 0x60, 1, 0x6, 4, false, true, regsDIM⟩,
  ⟨"EDGE", 0x61, 1, 0x6, 0, false, true, regsEDGE⟩,
  ⟨"SCAN", 0x62, 1, 0x7, 4, true, true, regsSCAN⟩,
  ⟨"WIRE", 0x63, 1, 0x7, 4, true, true, regsWIRE⟩,
  ⟨"STONE", 0x70, 16, 0x7, 4, true, true, regsSTONE⟩,
  ⟨"HEALTH", 0x80, 1, 0x8, 4, false, true, regsHEALTH⟩,
  ⟨"RDBK", 0x81, 1, 0x8, 4, false, true, regsRDBK⟩,
  ⟨"SENSE", 0x82, 1, 0x8, 0, true, true, regsSENSE⟩,
  ⟨"SUPPLY", 0x90, 1, 0x9, 4, true, true, regsSUPPLY⟩,
  ⟨"PHASE", 0x91, 8, 0x9, 6, true, true, regsPHASE⟩,
  ⟨"AUXPWM", 0x99, 1, 0x9, 0, false, true, regsAUXPWM⟩,
  ⟨"TRIM", 0xA0, 1, 0xA, 0, false, false, regsTRIM⟩,
  ⟨"MEMC", 0xB0, 1, 0xB, 4, false, true, regsMEMC⟩,
  ⟨"MEMPHY", 0xB1, 1, 0xB, 0, false, true, regsMEMPHY⟩,
  ⟨"MECC", 0xB2, 1, 0xB, 4, false, true, regsMECC⟩,
  ⟨"SPIA", 0xC0, 1, 0xC, 0, false, false, regsSPIA⟩,
  ⟨"SPIB", 0xC1, 1, 0xC, 0, false, false, regsSPIB⟩,
  ⟨"SPIC", 0xC2, 1, 0xC, 0, false, false, regsSPIC⟩,
  ⟨"TWI", 0xC3, 1, 0xC, 0, false, false, regsTWI⟩,
  ⟨"OSEC", 0xD0, 1, 0xD, 0, false, false, regsOSEC⟩,
  ⟨"KEYST", 0xD1, 1, 0xD, 0, false, true, regsKEYST⟩,
  ⟨"ATTEST", 0xD2, 1, 0xD, 0, false, false, regsATTEST⟩,
  ⟨"UPD", 0xE0, 1, 0xE, 0, false, false, regsUPD⟩,
  ⟨"SLOT", 0xE1, 1, 0xE, 0, false, true, regsSLOT⟩,
  ⟨"DBG", 0xF0, 1, 0xF, 0, false, false, regsDBG⟩]

/-- The row of page index `p`, if the index is used (R34). -/
def pageRow? (p : Nat) : Option PageRow :=
  pageRows.find? fun r => decide (r.base ≤ p) && decide (p < r.base + r.cnt)

/-- Every used page index, rising. -/
def usedPages : List Nat :=
  pageRows.flatMap fun r => (List.range r.cnt).map (r.base + ·)

/-- The block digit of a page's reason codes; 0 when no page exists (R32). -/
def pageBlk (p : Nat) : Nat := match pageRow? p with
  | some r => r.blk
  | none => 0

/-- Whether page `p` has a unit to enable (R41, R414). -/
def pageHasUnit (p : Nat) : Bool := match pageRow? p with
  | some r => r.unit
  | none => false

/-- The register row that holds offset `off`. -/
def Reg.holds (off : Nat) (r : Reg) : Bool :=
  decide (r.off ≤ off) && decide (off < r.off + r.cnt * r.stride) && (off - r.off) % r.stride == 0

/-- The block register at page `p`, offset `off`. -/
def regAt (p off : Nat) : Option Reg :=
  (pageRow? p).bind fun r => r.regs.find? (Reg.holds off)

/-- PG_EVENT[15:3] of page `p` can be written: ADMIT, TEN, PTP, TIME, PAL, SPIB, SPIC and TWI, whose rules do not say that it reads 0
(R72, R119, R120, R121, R145, R301 to R303). -/
def pageEvents (p : Nat) : Bool := p / 16 == 1 || [0x05, 0x25, 0x26, 0x41, 0xC1, 0xC2, 0xC3].contains p

/-- The header registers of Table 2.5, in the same form (reset of PG_EVENT 0x3, of PG_OWNER 0x1F). PG_CTRL.RESET is set by
a write of 1; PG_EVENT[15:3] is read-only 0 on the pages whose rule says that it reads 0 there (R39, Table 2.11). -/
def headerRegs (p : Nat) : List Reg := [
  ⟨"PG_ID", 0x000, 1, 4, 0, false, [⟨31, 0, .ro, .plain, []⟩]⟩,
  ⟨"PG_CAP", 0x004, 1, 4, 0, false, [⟨31, 0, .ro, .plain, []⟩]⟩,
  ⟨"PG_CTRL", 0x008, 1, 4, 0, false, [⟨31, 16, .rw, .plain, []⟩, ⟨2, 2, .rw, .plain, []⟩, ⟨1, 1, .w1s, .plain, []⟩,
    ⟨0, 0, .rw, .plain, []⟩]⟩,
  ⟨"PG_STAT", 0x00C, 1, 4, 0, false, [⟨31, 0, .ro, .plain, []⟩]⟩,
  ⟨"PG_REASON", 0x010, 1, 4, 0, false, [⟨31, 0, .ro, .plain, []⟩]⟩,
  ⟨"PG_FAULT", 0x014, 1, 4, 0, false, [⟨31, 0, .w1c, .plain, []⟩]⟩,
  ⟨"PG_FMASK", 0x018, 1, 4, 0, false, [⟨31, 0, .rw, .plain, []⟩]⟩,
  ⟨"PG_EVENT", 0x01C, 1, 4, 3, false,
    (if pageEvents p then [⟨15, 3, .rw, .plain, []⟩] else []) ++ [⟨2, 0, .rw, .plain, []⟩]⟩,
  ⟨"PG_OWNER", 0x020, 1, 4, 0x1F, false, [⟨4, 4, .rw, .plain, []⟩, ⟨3, 0, .rw, .plain, []⟩]⟩,
  ⟨"PG_GEN", 0x024, 1, 4, 0, false, [⟨31, 0, .ro, .plain, []⟩]⟩]

/-- The register at page `p`, offset `off`, header included; none at an unused offset (R32). -/
def anyRegAt (p off : Nat) : Option Reg :=
  if (pageRow? p).isNone then none
  else if off < 0x40 then (headerRegs p).find? (Reg.holds off) else regAt p off

/-- The value a register holds at reset (Table 2.4; entries 'OTP', 'strap', 'trim' and 'undefined' as logged). -/
def regReset (p off : Nat) : Nat := match anyRegAt p off with
  | some r => r.reset
  | none => 0

/-- Page indexes by name. -/
def pgSYS : Nat := 0x00
def pgRST : Nat := 0x01
def pgPWRDOM : Nat := 0x02
def pgTHERM : Nat := 0x03
def pgFAULT : Nat := 0x04
def pgADMIT : Nat := 0x05
def pgFIRKIN : Nat := 0x06
def pgEVTQ : Nat := 0x07
def pgTEN : Nat := 0x10
def pgLNK : Nat := 0x20
def pgCHAIN : Nat := 0x24
def pgPTP : Nat := 0x25
def pgTIME : Nat := 0x26
def pgFEED : Nat := 0x30
def pgWIN : Nat := 0x40
def pgPAL : Nat := 0x41
def pgPATT : Nat := 0x42
def pgPIX : Nat := 0x52
def pgCORR : Nat := 0x53
def pgTFIELD : Nat := 0x54
def pgDIM : Nat := 0x60
def pgEDGE : Nat := 0x61
def pgSCAN : Nat := 0x62
def pgWIRE : Nat := 0x63
def pgSTONE : Nat := 0x70
def pgHEALTH : Nat := 0x80
def pgRDBK : Nat := 0x81
def pgSENSE : Nat := 0x82
def pgSUPPLY : Nat := 0x90
def pgPHASE : Nat := 0x91
def pgAUXPWM : Nat := 0x99
def pgTRIM : Nat := 0xA0
def pgMEMC : Nat := 0xB0
def pgMEMPHY : Nat := 0xB1
def pgMECC : Nat := 0xB2
def pgSPIA : Nat := 0xC0
def pgSPIB : Nat := 0xC1
def pgSPIC : Nat := 0xC2
def pgTWI : Nat := 0xC3
def pgOSEC : Nat := 0xD0
def pgKEYST : Nat := 0xD1
def pgATTEST : Nat := 0xD2
def pgUPD : Nat := 0xE0
def pgSLOT : Nat := 0xE1
def pgDBG : Nat := 0xF0

end Sys2Proof.Machine
end

