-- ==== Sys2Proof/Machine/State.lean ====
section
/-! DEFINITION. The state of the block as plain data: the register file, and beside it every table, queue, buffer, engine
and timer that the spec gives the machine and no register holds whole. Each structure names the chapter it serves. -/

namespace Sys2Proof.Machine

/-- Faults of a step: the block has none. Every error the spec names is an effect on its registers and events. -/
inductive Fault
  deriving DecidableEq, Repr

/-- Refusals of a step. -/
inductive Refusal
  /-- raised by an arm of `exec` for a command whose meaning is not written; safe -/
  | notModelled (mnemonic : String)
  deriving DecidableEq, Repr

/-- What a step answers. -/
abbrev Ans (σ : Type) := Host.Outcome σ Fault Refusal

/-- Major modes (Table 17.1). -/
inductive Mode
  | sleep | trim | recovery | service | show | dark
  deriving DecidableEq, Repr

/-! ### Outputs -/

/-- What surrounds the body of an UP frame that the tile sends (R77, R78, R81): the 14 bytes before the header, the 32 bytes of the header,
zero bytes of padding after the body, and the nonce of its GCM computation, whose associated data is the header (none for a frame without
one). -/
structure UpHdr where
  eth : List Nat
  bytes : List Nat
  pad : Nat
  nonce : List Nat
  deriving DecidableEq, Repr

/-- How bytes go out on a serial port (R283, R284, R290, R295, R296): port 0 SPIA, 1 SPIB, 2 SPIC, 3 TWI; select; DIV, for TWI the rate in kHz, 0
for a clock from outside; MODE; LSB first; lead, trail and gap of the select in 10 ns. -/
structure Wire where
  port : Nat
  sel : Nat
  div : Nat
  mode : Nat
  lsb : Bool
  lead : Nat
  trail : Nat
  gap : Nat
  deriving DecidableEq, Repr

/-- What a command puts on the ports and pins. -/
inductive Out
  /-- result of a direct access (R32, R36) -/
  | res (rc : Rc) (data : List Word)
  /-- a frame forwarded from `inp` on `outp` (R82, R85, R77) -/
  | fwd (inp outp typ hop : Nat) (stomped : Bool)
  /-- an ACK (Table 4.12) -/
  | ack (h : UpHdr) (port tenant seq : Nat) (resent : Bool) (status : Nat) (results : List OpRes)
  /-- an EVENT frame (Table 4.13) -/
  | event (h : UpHdr) (port tenant seq : Nat) (entries : List (List Nat))
  /-- a REPORT (Table 4.9) -/
  | report (h : UpHdr) (port reason uid id pos state latP latR speeds : Nat)
  /-- a SESSREP (Table 15.4) -/
  | sessrep (h : UpHdr) (port tenant code detail : Nat) (body : List Nat)
  /-- a PTP message sent: kind, port, correction -/
  | ptp (kind port : Nat) (correction : Int)
  /-- a pulse on CYCLEOUT (0) or PPS (1): start grain, length in grains (R113) -/
  | pulse (pin start len : Nat)
  /-- the level of CYCLEOUT (0) or PPS (1) at rest, put out when it is disabled, stops or is configured (R113) -/
  | level (pin : Nat) (high : Bool)
  /-- bytes on a serial port (R285, R289, R290, R295, R296) -/
  | serial (w : Wire) (bytes : List Nat)
  /-- a chain frame driven on SPIASDO 8 periods later, with the device's own response in place of the bytes it replaces (R288) -/
  | chain (w : Wire) (dev : Nat) (op : MOp) (own : Option (List Nat))
  /-- STOP on TWI: a transaction ends, or a bus clear (R66, R296, R298) -/
  | twiStop
  /-- read data returned to a requester of DRAM: class, visible offset, bytes, poisoned words (R276) -/
  | dram (cls off : Nat) (bytes : List Byte) (poisoned : List Nat)
  /-- an access of a core that returns an error to it (R291, Table 13.7) -/
  | coreError
  /-- bits shifted out of the TAP (R373) -/
  | tap (value width : Nat)
  /-- the boundary register drives the pins (R373) -/
  | pins (value : Nat)
  deriving DecidableEq, Repr

/-! ### Chapter 2: firkins and event queues -/

/-- States of a handle other than FREE (Table 2.13). -/
inductive FkState
  | open_ | failed | checking | pending
  deriving DecidableEq, Repr

/-- One staged write (R48). `feed`: the feed PAL_SEL named at staging (R145). -/
structure SWrite where
  page : Nat
  off : Nat
  mask : Nat
  data : Nat
  feed : Nat
  deriving DecidableEq, Repr

/-- Triggers of Table 2.15. -/
inductive Trig
  | imm
  | dcn (n : Nat)
  | wall (t : Nat)
  | bad
  deriving DecidableEq, Repr

/-- One firkin that is not FREE. `order`: the order in which commits were accepted (R50); `since`: when its checks passed (Table 2.15). -/
structure Firkin where
  h : Nat
  who : Who
  auto : Bool
  st : FkState
  writes : List SWrite
  leaseEnd : Nat
  trig : Trig
  fail : Rc
  failIdx : Nat
  order : Nat
  since : Nat
  deriving DecidableEq, Repr

/-- One event entry (Table 2.32). -/
structure Event where
  code : Nat
  detail : Nat
  ovf : Bool
  kind : Nat
  unit : Nat
  page : Nat
  dcn : Nat
  ns : Nat
  deriving DecidableEq, Repr

/-- One event queue (R56, R92). `unsent`: entries at the tail not yet sent; `seq`: count of EVENT frames. -/
structure EvQ where
  q : List Event
  lost : Nat
  ovf : Bool
  unsent : Nat
  seq : Nat
  deriving DecidableEq, Repr

/-! ### Chapter 3: tenants -/

/-- What a slot holds beside its TEN page. `port`: link of the session; `stored`: results of executed numbers (R70);
`missing`: numbers skipped after session start. -/
structure Ten where
  leaseEnd : Nat
  port : Option Nat
  cause : Nat
  toQuar : Bool
  stored : List (Nat × Nat × List OpRes)
  missing : List Nat
  permf : Nat
  floodRun : Nat
  feedBytes : Nat
  evq : EvQ
  deriving DecidableEq, Repr

/-! ### Chapter 4: link -/

/-- One port. `seek25`: the speed sought (R75); `hb`: heartbeat valid; `hbAt`: its last heartbeat; `hbSince`: valid since;
`down`: payload bytes received DOWN in this cycle (R94); `noLockAt`: without lock, at the speed sought, since. -/
structure Port where
  seek25 : Bool
  hb : Bool
  hbAt : Nat
  hbSince : Nat
  down : Nat
  noLockAt : Nat
  deriving DecidableEq, Repr

/-- Link state: the ports, the end of the last record received for this tile (R90), where the measurement of payload began
(R94), the FCTR of the next UP frame (R81). -/
structure LinkSt where
  ports : List Port
  lastRec : Nat
  measureAt : Nat
  fctr : Nat
  deriving DecidableEq, Repr

/-! ### Chapter 15: session and chain keys -/

/-- One chain key (R317): current (generation, key) and pending (generation, key, ACTDCN). Keys are numbers that name them. -/
structure KeySlot where
  cur : Option (Nat × Nat)
  pend : Option (Nat × Nat × Nat)
  deriving DecidableEq, Repr

/-- Keys of a slot: management key of its session (0: none), and its feed, beat and enumeration keys. -/
structure SlotKeys where
  mkey : Nat
  kinds : List KeySlot
  deriving DecidableEq, Repr

/-! ### Chapter 5: time -/

/-- A held beat (R106). `t`: T in wall-time grains; `waiting`: tested outside LOCKED, so held under RESYNC semantics (R108). -/
structure Held where
  dcn : Nat
  t : Nat
  resync : Bool
  waiting : Bool
  deriving DecidableEq, Repr

/-- Time state: wall time is `now + wallOff`; `acc` the start of the cycle in progress in 1/65,536 grain (R107); `cycled`: a cycle
has started since cold reset; `running`: a cycle is in progress; `lastF`: last accepted FCTR of each slot plus 1, 0 with none
(R106); `holdEnd`: end of the holdover timer; servo counts, its last Sync and its holdover's end (R103); the two-step Sync that
waits for its Follow_Up; the master followed; peer-delay requests out on L0 and L1, their number and the last interval; `lost`: the
DARK cause TIMELOSS is active (R110); the grains at which the pulses on CYCLEOUT and PPS end (R113). -/
structure TimeSt where
  wallOff : Int
  acc : Nat
  cycled : Bool
  running : Bool
  held : List Held
  lastF : List Nat
  holdEnd : Option Nat
  good : Nat
  badRun : Nat
  lastSync : Nat
  ptpHoldEnd : Nat
  twoStep : Option PtpMsg
  gm : Option Nat
  pdSent : List (Option Nat)
  pdSeq : Nat
  pdAt : Nat
  lost : Bool
  cyoEnd : Nat
  ppsEnd : Nat
  deriving DecidableEq, Repr

/-! ### Chapter 6: feeds, windows, pattern engines -/

/-- One picture of a set: bytes written (offset within the picture, value), complete. -/
structure Pic where
  bytes : Cells Byte
  done : Bool
  deriving DecidableEq, Repr

/-- One claimed set of a feed (R127): its number among the feed's claims, the format bound to it and its pictures; `late`: its pictures
that are not complete are discarded. A set that is not claimed is FREE. -/
structure FSet where
  id : Nat
  dcn : Nat
  fmt : Nat
  fpc : Nat
  b : Nat
  pics : List Pic
  late : Bool
  deriving DecidableEq, Repr

/-- One feed sequencer: claimed sets, oldest first; newest complete picture per index as its DCN; cycles without one; a picture
completed in this cycle; sets claimed so far. -/
structure Feed where
  sets : List FSet
  newest : List (Option Nat)
  quiet : Nat
  got : Bool
  claims : Nat
  deriving DecidableEq, Repr

/-- A clip of the clip store (R138, R139): width, height, frames (each row by row). -/
structure Clip where
  id : Nat
  width : Nat
  height : Nat
  frames : List (List Px)
  deriving DecidableEq, Repr

/-- One pattern engine (R137, R138): colour registers, region (none: the whole grid), a frame in progress, stopped, frame
number, its promised DCN, late already, newest finished frame with its DCN, bank of the frame in progress, clips in use, DCN0
known, when ENABLE took effect. -/
structure Patt where
  colours : List Px
  region : Option (Nat × Nat × Nat × Nat)
  rendering : Bool
  halted : Bool
  k : Nat
  promised : Nat
  overrun : Bool
  newest : Option (Nat × List Px)
  bank : Nat
  clips : List Clip
  dcn0set : Bool
  since : Nat
  deriving DecidableEq, Repr

/-! ### Fabric (chapter 2) -/

/-- Armed page actions: enable checks that run, the tenant that asked for each (page, slot), starts, stops and resets that wait for a span boundary (R41, R42); the
accesses' snapshot latches (R33: access path, value's first address, words); disagreement counts (R45); register access
available, since when not (R69), start of the watchdog count, the event that waits for the restoration (R371); firkins, commits
accepted, handles whose loss is still to be told (Table 2.13: handle, tenant); start of the quarantine interval (R63); first
halves of wide values that wait for the write of their highest register (R33: path identity, page, value). -/
structure FabSt where
  checking : List Nat
  asked : List (Nat × Nat)
  starting : List Nat
  stopping : List Nat
  resetting : List Nat
  latches : List (Nat × Nat × List Word)
  agree : Cells Nat
  access : Bool
  pausedAt : Nat
  wdogAt : Nat
  lockEv : Bool
  quarAt : Nat
  fks : List Firkin
  fkOrder : Nat
  fkLost : List (Nat × Nat)
  wide : List (Nat × Nat × Nat)
  deriving DecidableEq, Repr

/-! ### Span engine (chapters 8 and 9) -/

/-- The span in progress and what follows it: `inCycle`: a display cycle runs; `sweep`, `span`: its sweep and span now;
`startAt`: start of this span; `clean`: it had no underrun; `driven`: rows driven in this span; `seenCur`, `seenPrev`: the
pending plan of each window at the start of this span and of the one before (R19); `hold`: nothing shows until every plan is
regenerated (R22); `occ`, `lastOcc`: occurrence in progress
and last complete occurrence of each window; `hr`: headroom minima of the sweep in progress, by 2 × stone + rail; `next`: the words
prepared for the next span (R181); `dbe`: plan-store words found wrong by the prefetches of this span and of the one before, which read
the rows two spans ahead (R182); `drive`: the row outputs and pre-charge of this span; `curGen`: generation of DIM_CUR (R175). -/
structure ScanSt where
  inCycle : Bool
  sweep : Nat
  span : Nat
  startAt : Nat
  clean : Bool
  win : Option Nat
  driven : Bool
  placed : List PSink
  seenCur : List (Option Plan)
  seenPrev : List (Option Plan)
  hold : Bool
  occ : Option Occ
  lastOcc : List (Option Occ)
  shown : List (Nat × Plan × List Nat)
  rows : List RowMon
  hr : List (Option Nat)
  next : Option Prep
  dbe : List (List (Nat × Nat))
  drive : Option RowDrive
  curGen : Nat
  deriving DecidableEq, Repr

/-! ### Health and read-back (chapter 10) -/

/-- Health map, fault list (short?, lamp, DCN) and waiting clears (none: all). -/
structure HealthSt where
  lamps : Cells LampH
  list : List (Bool × Nat × Nat)
  ovf : Bool
  told : Bool
  clr : List (Option Nat)
  deriving DecidableEq, Repr

/-- Read-back: the cycle's figures so far, those of the last compared cycle, sinks that mismatched in it, runs of mismatching
cycles, faulty sinks; stones to force and to release at the next span boundary; forced stones with where their first complete cycle is:
0 to come, 1 in progress, 2 over (R217). -/
structure RdbkSt where
  acc : Cells RdSink
  last : Cells RdSink
  mis : List Nat
  run : Cells Nat
  faulty : List Nat
  toForce : List Nat
  toFree : List Nat
  forced : List (Nat × Nat)
  deriving DecidableEq, Repr

/-- SADC1: entry in progress, conversions still to tag, codes of the untagged conversions made, last channel and gain. -/
structure SenseSt where
  busy : Bool
  entry : Nat
  tagLeft : Nat
  codes : List Nat
  last : Option (Nat × Nat × Nat)
  deriving DecidableEq, Repr

/-! ### Supply stage (chapter 11) -/

/-- One rail: state code of SUP_STAT, setpoint (mV), integrator, state entry instant, last ramp update; a setpoint that
takes effect at the end of this span, spans still left out, lowest code and idle count of R241; FB reading of a start that waits for the
span boundary. -/
structure Rail where
  st : Nat
  vset : Nat
  integ : Int
  since : Nat
  rampAt : Nat
  move : Option Nat
  settle : Nat
  low : Option Nat
  idle : Nat
  ask : Option Nat
  deriving DecidableEq, Repr

/-- One edge that a phase makes: grain, high side, rising. -/
structure GateEdge where
  at_ : Nat
  hs : Bool
  up : Bool
  deriving DecidableEq, Repr

/-- One phase: state code of PH_STAT, loaded values of the shadows, duty in force, dead times, the numbers of its tripped
periods, periods run, failed run, divider and refresh counts, LOAD_ALL still to take. `hg`, `lg`, `hgAt`: gate levels, and when HG last
rose, before `edges` act; `zeroAt`: its last zero; `hold`: no period runs until the first zero counted from this reference (R229); `neg`:
grain from which LG stays low; `evAt`: event of the period to sample at, counted already or not; `refOn`: a refresh is centred on the next
zero; `held`: state to go back to from SAFE. -/
structure Phase where
  st : Nat
  per : Nat
  ofs : Nat
  dtMax : Nat
  dtMin : Nat
  man : Nat
  next : Nat
  d : Nat
  full : Bool
  dtf : Nat
  dtr : Nat
  period : Nat
  trips : List Nat
  trippedNow : Bool
  failRun : Nat
  div : Nat
  ref : Nat
  due : Bool
  hg : Bool
  lg : Bool
  hgAt : Nat
  edges : List GateEdge
  zeroAt : Nat
  hold : Option Nat
  neg : Option Nat
  evAt : Option (Nat × Bool)
  refOn : Bool
  held : Nat
  deriving DecidableEq, Repr

/-- The stage: rails A and B, phases, pin SFLTN, halted sequencer, AUX pulse lengths in force and period starts, and when SUPPLY was last
enabled. -/
structure SupplySt where
  rails : List Rail
  phases : List Phase
  sfltn : Bool
  halt : Bool
  aux : List Nat
  auxAt : Nat
  since : Nat
  deriving DecidableEq, Repr

/-! ### Self-trim (chapter 12) -/

/-- Values of one bin (Table 12.3): Tm, sink codes, tap counts, converter values, comparator and coder offsets, row offsets. -/
structure BinVal where
  tm : Int
  sinks : List Int
  taps : List Int
  conv : List Int
  offs : List Int
  rows : List Int
  deriving DecidableEq, Repr

/-- A valid journal record: its SEQ and bins (R255). -/
structure JRec where
  seq : Nat
  bins : List (Option BinVal)
  deriving DecidableEq, Repr

/-- Trim state: bins, running values (R254) and those of the next span boundary with the instant of their sample, the two journal blocks (none: no valid
record), record being written (block, record), a waiting FORGET, converter trim done. -/
structure TrimSt where
  bins : List (Option BinVal)
  run : Option BinVal
  next : Option (BinVal × Nat × Nat × Nat)
  nextAt : Nat
  blocks : List (Option JRec)
  used : Option Nat
  writing : Option (Nat × JRec)
  wanted : Option JRec
  forget : Bool
  active : Bool
  deriving DecidableEq, Repr

/-! ### Correction array (chapters 1 and 7) -/

/-- An audit that a re-released job is to decide (R218): the plan, its slices that differed with the engines that computed them, and
whether nothing but the audit released the job. -/
structure Audit where
  plan : Nat
  slices : List (Nat × Nat)
  solo : Bool
  deriving DecidableEq, Repr

/-- A released job (R15): its window, whether a new source or overlay frame released it, the audit it is to decide (R218). -/
structure Rel where
  win : Nat
  src : Bool
  ovl : Bool
  audit : Option Audit
  deriving DecidableEq, Repr

/-- One regeneration job in flight: its window, what it reads, its buffer, its serial number (R155), its start instant, whether
it is to be discarded at completion (Table 1.6), the audit it decides. -/
structure Job where
  win : Nat
  inp : JobIn
  units : List Nat
  serial : Nat
  startAt : Nat
  drop : Bool
  audit : Option Audit
  deriving DecidableEq, Repr

/-- One entry of the plan directory (R17 to R19). -/
structure Dir where
  cur : Option Plan
  pend : Option Plan
  deriving DecidableEq, Repr

/-- The array: jobs released, releases deferred (R131), jobs in flight, directory, number of plans made, jobs
started (R155), DCN of each window's last occurrence whose directory read was made (R132). -/
structure PixSt where
  released : List Rel
  deferred : List Rel
  jobs : List Job
  dir : List Dir
  plans : Nat
  serial : Nat
  readFor : List (Option Nat)
  deriving DecidableEq, Repr

/-- Coefficient copies and the blend (R161 to R164). `front` is the copy in force, none while it holds bypass entries; `swaps`
counts swaps; `rewriting`: a blend has started since the last swap; `sel` and `nset` the job's latched selection; `fast`: it
swaps as soon as it completes; `back` the finished back copy; `fresh`: a refresh came while it ran; `begun`: its slices have
started. -/
structure BlendSt where
  front : Option (Cells Coef)
  swaps : Nat
  rewriting : Bool
  sel : List (Nat × Nat)
  nset : Nat
  fast : Bool
  back : Option (Option (Cells Coef))
  fresh : Bool
  begun : Bool
  startAt : Nat
  serial : Nat
  deriving DecidableEq, Repr

/-- The temperature field: next refresh instant, a run of refreshes without a valid sensor, next sample instant, die samples of a
sample whose board reads are queued (R158, R160). -/
structure FieldSt where
  refreshAt : Nat
  noField : Bool
  sampleAt : Nat
  queued : Option (List (Option Int))
  deriving DecidableEq, Repr

/-! ### DRAM (chapter 13) -/

/-- A request accepted or waiting (R272): requester, class code of Table 13.14, visible offset of its 64-byte block, bytes written
(none: a read), instant of acceptance. -/
structure DReq where
  user : DUser
  cls : Nat
  off : Nat
  wr : Option (List (Option Byte))
  since : Nat
  deriving DecidableEq, Repr

/-- Controller and device: visible bytes (`dram`), bits of a stored word that are wrong (`flips`, by visible offset ÷ 8), requests
in flight in acceptance order and those without a credit (R272), open row of each bank with its last access (R271), refreshes
owed by each bank, the bank next in turn and the last refresh of each subchannel (R269), last MR4 read, ZQ calibration and
oscillator run, start of training, word the scrubber reads next and when it was due to read the last, training from self-refresh (R270), corrections of the second that began at `sbeAt`, bytes read and
written since `bwAt`. -/
structure MemSt where
  dram : Cells Byte
  flips : Cells (List Nat)
  inflight : List DReq
  waiting : List DReq
  rows : List (Option (Nat × Nat))
  owed : List Nat
  turn : List Nat
  refAt : List Nat
  mr4At : Nat
  zqAt : Nat
  oscAt : Nat
  trainAt : Nat
  scrub : Nat
  scrubAt : Nat
  restored : Bool
  sbeAt : Nat
  sbeCnt : Nat
  rd : Nat
  wr : Nat
  bwAt : Nat
  deriving DecidableEq, Repr

/-! ### Serial ports (chapter 14) -/

/-- A transfer on SPIC (R295): slot that started it, select, bits, KEEP, its end. -/
structure SpicX where
  slot : Nat
  sel : Nat
  bits : Nat
  keep : Bool
  endAt : Nat
  deriving DecidableEq, Repr

/-- A transaction on TWI (R296): slot that started it, address, bytes to write and to read; what it is to send while queued board reads go
first (R297). -/
structure TwiX where
  slot : Nat
  addr : Nat
  wlen : Nat
  rlen : Nat
  wait : Option (List Nat)
  deriving DecidableEq, Repr

/-- The ports. SPIA: frames counted since PORN, index of the first refused word of the last frame (R286), words that the next poll
sends, last poll (R289). SPIB: OP that keeps the flash busy (0: none), its start, last status poll, grains suspended (R292). SPIC
and TWI: ends of the grants, transfers that run, the select held by KEEP, when a select of SPIC may assert again. -/
structure SerSt where
  frames : Nat
  badWord : Nat
  toSend : List Word
  pollAt : Nat
  op : Nat
  opAt : Nat
  srAt : Nat
  held : Nat
  spicEnd : Nat
  twiEnd : Nat
  spicX : Option SpicX
  twiX : Option TwiX
  kept : Option Nat
  spicFree : Nat
  deriving DecidableEq, Repr

/-! ### Modes, power, thermal (chapter 17) -/

/-- The retention image of R361: registers by key, with the mask of what is held, and event queues. -/
structure RetImage where
  regs : List (Nat × Nat × Nat)
  evqs : List EvQ
  deriving DecidableEq, Repr

/-- Modes and power: accepted mode request that waits for its boundary (its code, the register bank of its requester); SLEEP entry under way, a wake source seen during
it; instant of DARK entry; self-trim and DRAM failures (Table 17.3); VDD33 below the warning level, or not yet 10 ms above 3.10 V;
tripped comparators; sinks dark by shutdown, with the detail of the DARK entry that waits for writes under way; a new DS that waits
for its boundary, the sample of the last fall, cool since (R367); stones cool since (R368); the PD_REQ that the switchable domains
follow (R364); domains powering up; TRIM ended since the last reset; boot verified; consecutive double boot failures (R348); retention image; preset
and probe done; bypass bit and boundary register of the TAP (R373). -/
structure PowSt where
  req : Option (Nat × Nat)
  sleeping : Bool
  wakeSrc : Option Nat
  darkAt : Nat
  trimFail : Bool
  memFail : Bool
  vddLow : Bool
  tripped : List Nat
  shut : Bool
  shutWait : Option Nat
  dsNext : Option Nat
  dsFell : Option Nat
  coolAt : Option Nat
  stoneCool : List (Option Nat)
  pdReq : Nat
  powering : List Nat
  trimDone : Bool
  booted : Bool
  bootFails : Nat
  image : Option RetImage
  probed : Bool
  presetDone : Bool
  tapHold : Bool
  tapPins : Nat
  deriving DecidableEq, Repr

/-! ### Oruiris core (chapter 15) -/

/-- An enrolment record (Table 15.2, ENROL). -/
structure Enrol where
  role : Nat
  winperm : Nat
  pw : List Nat
  pr : List Nat
  pub : Nat
  deriving DecidableEq, Repr

/-- What the enrolment store holds (R312): LC is OWNED, owner key, owner and voucher counters, policy, records of T1 to T15 by slot. -/
structure Store where
  owned : Bool
  owner : Nat
  octr : Nat
  vctr : Nat
  flags : Nat
  minsvn : List Nat
  recs : List (Option Enrol)
  deriving DecidableEq, Repr

/-- A usable record of a store block: sequence number, epoch, payload. -/
structure StoreRec where
  seq : Nat
  epoch : Nat
  body : Store
  deriving DecidableEq, Repr

/-- A SESSION answered, with its answer (R315). -/
structure Reply where
  at_ : Nat
  frame : Frame
  body : SessBody
  code : Nat
  detail : Nat
  bytes : List Nat
  deriving DecidableEq, Repr

/-- A report asked for (R323): slot of the requester (16: none), the SESSION frame it came in, or its bank, and the nonce. -/
structure AttReq where
  slot : Nat
  sess : Option Frame
  bank : Nat
  nonce : List Nat
  deriving DecidableEq, Repr

/-- The core: store in force, blocks E0 and E1 (none: no usable record), wrap counters by slot, key a TRANSFER that waits names,
accepted objects that wait for their boundary, end of the challenge, store closed to writes (R324), copies A and B of the
anti-rollback counters (none: invalid), configuration records programmed (none: its CRC fails), SESSION instants per port in the
last second, last 0x4D12, SESSIONs answered, reports asked for, manifest of the boot marked as certified, reset keys of the hash
of the last bundle applied. -/
structure SecSt where
  store : Store
  blocks : List (Option StoreRec)
  wrap : List Nat
  transfer : Option Nat
  acc : List Obj
  chalEnd : Nat
  storeLock : Bool
  arb : List (Option Nat × Option Nat)
  cfgs : List (Option (List Nat))
  served : List (List Nat)
  dropEv : Option Nat
  replies : List Reply
  att : List AttReq
  certified : Bool
  meas : List Nat
  cfgHash : List Nat
  deriving DecidableEq, Repr

/-! ### Update (chapter 16) -/

/-- A boot record (R332). -/
structure BootRec where
  seq : Nat
  active : Nat
  fbvalid : Bool
  pendcomp : Bool
  bundle : Nat
  bid : Nat
  deriving DecidableEq, Repr

/-- A piece journal record (R339). -/
structure PRec where
  upid : Nat
  kind : Nat
  len : Nat
  got : Cells Bool
  deriving DecidableEq, Repr

/-- A pending activation or APPLYCFG (R342, R350): `cfg` names APPLYCFG; handover; trigger DCN, none immediate; kind and target (slot
or bundle area) of its update. -/
structure Act where
  cfg : Bool
  handover : Bool
  dcn : Option Nat
  kind : Nat
  target : Nat
  deriving DecidableEq, Repr

/-- The companion protocol (R346): purpose (0 arming, 1 commit, 2 rollback after a commit failure, 3 rollback without consequence), slot's companions
still to serve, their command, offset reached, instant sent, last poll, the one that failed; `held`: the command waits for its port (R297). -/
structure CompSt where
  purpose : Nat
  todo : List Nat
  cmd : Nat
  off : Nat
  sentAt : Nat
  pollAt : Nat
  failed : Nat
  held : Bool
  deriving DecidableEq, Repr

/-- Update state: kind, target (slot or bundle area), identifier and length of the update; received pieces; staging queue; newest journal record, pieces programmed
since, when the first of them was; boot record in use; manifests last verified of slots A and B; pending activation; activation
under way: handover stage (0 none), its start, previous slot; companion protocol; bundle of the update, bundles of BA and BB and the
volatile one, bundle being loaded and whether its end is announced (R350); `prog`: the piece at the front is being programmed. -/
structure UpdSt where
  kind : Nat
  target : Nat
  upid : Nat
  len : Nat
  got : Cells Bool
  queue : List Piece
  jrec : Option PRec
  unj : Nat
  unjAt : Option Nat
  brec : Option BootRec
  slots : List (Option Manifest)
  pend : List Act
  stage : Nat
  actAt : Nat
  prev : Nat
  comp : Option CompSt
  bundle : Option BundleRead
  areas : List (Option BundleRead)
  loading : Option BundleRead
  announce : Bool
  prog : Bool
  deriving DecidableEq, Repr

/-- The machine. -/
structure State where
  /-- timebase time in grains (R11) -/
  now : Nat
  /-- what the last command put on ports and pins -/
  outs : List Out
  /-- the model's own counter that indexes free values (log entry 2) -/
  freeCtr : Nat
  /-- waiting commands, first in first out -/
  pending : List Instr
  /-- registers, sparse over their reset values -/
  regs : Cells Word
  /-- general SRAM (Table 2.1), by word -/
  sram : Cells Word
  /-- mode in force (SYS_MODE.MODE_ACT) -/
  mode : Mode
  fab : FabSt
  tens : List Ten
  lnk : LinkSt
  keys : List SlotKeys
  tim : TimeSt
  feeds : List Feed
  patts : List Patt
  clips : List Clip
  pix : PixSt
  blend : BlendSt
  field : FieldSt
  scan : ScanSt
  health : HealthSt
  rdbk : RdbkSt
  sense : SenseSt
  sup : SupplySt
  trim : TrimSt
  mem : MemSt
  ser : SerSt
  sec : SecSt
  upd : UpdSt
  pow : PowSt
  deriving DecidableEq, Repr

/-! ### Reset

Every register stands at its reset value (the register file lists nothing), every table and queue is empty, the mode is TRIM and
register access is unavailable until TRIM ends (Table 2.25); straps, OTP and trim entries are loaded by the commands that the spec
gives for them (log entry 9). -/

/-- A queue without events. -/
def EvQ.empty : EvQ := ⟨[], 0, false, 0, 0⟩

/-- A slot at reset. -/
def Ten.empty : Ten :=
  { leaseEnd := 0, port := none, cause := 0, toQuar := false, stored := [], missing := [], permf := 0,
    floodRun := 0, feedBytes := 0, evq := EvQ.empty }

/-- The machine right after reset. -/
def State.reset : State where
  now := 0
  outs := []
  freeCtr := 0
  pending := []
  regs := []
  sram := []
  mode := .trim
  fab :=
    { checking := [], asked := [], starting := [], stopping := [], resetting := [], latches := [], agree := [], access := false, pausedAt := 0,
      wdogAt := 0, lockEv := false, quarAt := 0, fks := [], fkOrder := 0, fkLost := [], wide := [] }
  tens := List.replicate 16 Ten.empty
  lnk := { ports := List.replicate 4 ⟨true, false, 0, 0, 0, 0⟩, lastRec := 0, measureAt := 0, fctr := 0 }
  keys := List.replicate 16 ⟨0, List.replicate 3 ⟨none, none⟩⟩
  tim :=
    { wallOff := 0, acc := 0, cycled := false, running := false, held := [], lastF := List.replicate 16 0, holdEnd := none,
      good := 0, badRun := 0, lastSync := 0, ptpHoldEnd := 0, twoStep := none, gm := none, pdSent := [none, none], pdSeq := 0,
      pdAt := 0, lost := false, cyoEnd := 0, ppsEnd := 0 }
  feeds := List.replicate 16 ⟨[], List.replicate 4 none, 0, false, 0⟩
  patts := List.replicate 16 ⟨List.replicate 4 ⟨0, 0, 0, 0⟩, none, false, false, 0, 0, false, none, 0, [], false, 0⟩
  clips := []
  pix :=
    { released := [], deferred := [], jobs := [], dir := List.replicate 16 ⟨none, none⟩, plans := 0, serial := 0,
      readFor := List.replicate 16 none }
  blend :=
    { front := none, swaps := 0, rewriting := false, sel := [], nset := 0, fast := false, back := none, fresh := false, begun := false,
      startAt := 0, serial := 0 }
  field := { refreshAt := 0, noField := false, sampleAt := 0, queued := none }
  scan :=
    { inCycle := false, sweep := 0, span := 0, startAt := 0, clean := true, win := none, driven := false,
      placed := [], seenCur := [], seenPrev := [], hold := false, occ := none, lastOcc := List.replicate 16 none, shown := [],
      rows := List.replicate 128 ⟨0, 0, 0, 0, none⟩, hr := List.replicate 32 none,
      next := none, dbe := [], drive := none, curGen := 0 }
  health := { lamps := [], list := [], ovf := false, told := false, clr := [] }
  rdbk := { acc := [], last := [], mis := [], run := [], faulty := [], toForce := [], toFree := [], forced := [] }
  sense := { busy := false, entry := 0, tagLeft := 0, codes := [], last := none }
  sup :=
    { rails := List.replicate 2 ⟨0, 0, 0, 0, 0, none, 0, none, 0, none⟩,
      phases := List.replicate 8 ⟨0, 16000, 0, 480, 160, 0, 0, 0, false, 480, 480, 0, [], false, 0, 0, 0, false, false,
        false, 0, [], 0, none, none, none, false, 0⟩,
      sfltn := true, halt := false, aux := [0, 0], auxAt := 0, since := 0 }
  trim :=
    { bins := List.replicate 5 none, run := none, next := none, nextAt := 0, blocks := [none, none], used := none, writing := none,
      wanted := none, forget := false, active := false }
  mem :=
    { dram := [], flips := [], inflight := [], waiting := [], rows := List.replicate 16 none, owed := List.replicate 16 0,
      turn := [0, 0], refAt := [0, 0], mr4At := 0, zqAt := 0, oscAt := 0, trainAt := 0, scrub := 0, scrubAt := 0, restored := false, sbeAt := 0, sbeCnt := 0,
      rd := 0, wr := 0, bwAt := 0 }
  ser :=
    { frames := 0, badWord := 0, toSend := [], pollAt := 0, op := 0, opAt := 0, srAt := 0, held := 0, spicEnd := 0, twiEnd := 0,
      spicX := none, twiX := none, kept := none, spicFree := 0 }
  sec :=
    { store := ⟨false, 0, 0, 0, 0, List.replicate 64 0, List.replicate 16 none⟩, blocks := [none, none],
      wrap := List.replicate 16 0, transfer := none, acc := [], chalEnd := 0, storeLock := false,
      arb := List.replicate 64 (some 0, some 0), cfgs := [], served := List.replicate 4 [], dropEv := none, replies := [],
      att := [], certified := false, meas := [], cfgHash := [] }
  upd :=
    { kind := 0, target := 0, upid := 0, len := 0, got := [], queue := [], jrec := none, unj := 0, unjAt := none, brec := none,
      slots := [none, none, none], pend := [], stage := 0, actAt := 0, prev := 0, comp := none, bundle := none,
      areas := [none, none, none], loading := none, announce := false, prog := false }
  pow :=
    { req := none, sleeping := false, wakeSrc := none, darkAt := 0, trimFail := false, memFail := false, vddLow := false,
      tripped := [], shut := false, shutWait := none, dsNext := none, dsFell := none, coolAt := none,
      stoneCool := List.replicate 16 none, pdReq := 0x700, powering := [], trimDone := false, booted := false,
      bootFails := 0, image := none, probed := false, presetDone := false, tapHold := false, tapPins := 0 }

end Sys2Proof.Machine
end

