-- ==== Sys2Proof/Machine/Ops.lean ====
section
/-! DEFINITION. The named operations over the register file and the state: one home for every register (R35, R37), time, page
headers (Table 2.5), event queues (R56), faults (R40), free values, and list updates by index. -/

namespace Sys2Proof.Machine

/-! ### Register file -/

/-- A register file: sparse over reset values. -/
abbrev Regs := Cells Word

/-- Key of a register: bank 0 is unbanked; 1 to 16 are T0 to T15, 17 the system, 32 + n feed n (R37, R145). -/
def regKey (bank page off : Nat) : Nat := bank * 2 ^ 20 + page * 2 ^ 12 + off

/-- What an unlisted register key reads as: its reset value (Table 2.4). -/
def regDflt (k : Nat) : Word := BitVec.ofNat 32 (regReset (k / 2 ^ 12 % 2 ^ 8) (k % 2 ^ 12))

/-- Register `off` of `page` in `bank`. -/
def rget (r : Regs) (bank page off : Nat) : Nat :=
  (cget r (regKey bank page off) (regDflt (regKey bank page off))).toNat

/-- Write a register, narrowed to 32 bits. -/
def rput (r : Regs) (bank page off v : Nat) : Regs :=
  cput r (regKey bank page off) (BitVec.ofNat 32 v) (regDflt (regKey bank page off))

/-- Field `f` of instance `i`, array index `k`, in a bank. -/
def rfgetB (r : Regs) (bank : Nat) (f : FRef) (i k : Nat) : Nat :=
  bitsOf (rget r bank (f.page + i) (f.off + k * f.stride)) f.hi f.lo

/-- Field `f` of instance `i`, array index `k`. -/
def rfget (r : Regs) (f : FRef) (i k : Nat) : Nat := rfgetB r 0 f i k

/-- Set a field in a bank. -/
def rfputB (r : Regs) (bank : Nat) (f : FRef) (i k v : Nat) : Regs :=
  rput r bank (f.page + i) (f.off + k * f.stride) (putBits (rget r bank (f.page + i) (f.off + k * f.stride)) f.hi f.lo v)

/-- Set a field. -/
def rfput (r : Regs) (f : FRef) (i k v : Nat) : Regs := rfputB r 0 f i k v

namespace State

/-- Register of a page. -/
def reg (s : State) (page off : Nat) : Nat := rget s.regs 0 page off

/-- Write a register of a page. -/
def setReg (s : State) (page off v : Nat) : State := { s with regs := rput s.regs 0 page off v }

/-- Field of instance 0, index 0. -/
def fg (s : State) (f : FRef) : Nat := rfget s.regs f 0 0

/-- Field of instance `i`. -/
def fgi (s : State) (f : FRef) (i : Nat) : Nat := rfget s.regs f i 0

/-- Field of instance `i`, array index `k`. -/
def fgk (s : State) (f : FRef) (i k : Nat) : Nat := rfget s.regs f i k

/-- Set a field of instance 0, index 0. -/
def fs (s : State) (f : FRef) (v : Nat) : State := { s with regs := rfput s.regs f 0 0 v }

/-- Set a field of instance `i`. -/
def fsi (s : State) (f : FRef) (i v : Nat) : State := { s with regs := rfput s.regs f i 0 v }

/-- Set a field of instance `i`, array index `k`. -/
def fsk (s : State) (f : FRef) (i k v : Nat) : State := { s with regs := rfput s.regs f i k v }

/-- Banked field of an identity's bank. -/
def fgb (s : State) (bank : Nat) (f : FRef) : Nat := rfgetB s.regs bank f 0 0

/-- Set a banked field. -/
def fsb (s : State) (bank : Nat) (f : FRef) (v : Nat) : State := { s with regs := rfputB s.regs bank f 0 0 v }

/-- Add `n` to a counter field, saturating at its width (the 'saturating' counters of the field tables). -/
def inc (s : State) (f : FRef) (i n : Nat) : State :=
  s.fsi f i (min (s.fgi f i + n) (2 ^ (f.hi + 1 - f.lo) - 1))

/-- Add `n` to a counter field of array index `k`, saturating. -/
def inck (s : State) (f : FRef) (i k n : Nat) : State :=
  s.fsk f i k (min (s.fgk f i k + n) (2 ^ (f.hi + 1 - f.lo) - 1))

end State

/-! ### Page header fields (Tables 2.8 to 2.12) -/

/-- PG_CTRL.ENABLE of page `p`. -/
def hENABLE (p : Nat) : FRef := ⟨p, 0x008, 4, 0, 0⟩
/-- PG_CTRL.HOLD. -/
def hHOLD (p : Nat) : FRef := ⟨p, 0x008, 4, 2, 2⟩
/-- PG_CTRL.PAGE. -/
def hCTRLPAGE (p : Nat) : FRef := ⟨p, 0x008, 4, 31, 16⟩
/-- PG_STAT.ACTIVE. -/
def hACTIVE (p : Nat) : FRef := ⟨p, 0x00C, 4, 0, 0⟩
/-- PG_STAT.REFUSED. -/
def hREFUSED (p : Nat) : FRef := ⟨p, 0x00C, 4, 1, 1⟩
/-- PG_STAT.MISMATCH. -/
def hMISMATCH (p : Nat) : FRef := ⟨p, 0x00C, 4, 3, 3⟩
/-- PG_STAT.HELD. -/
def hHELD (p : Nat) : FRef := ⟨p, 0x00C, 4, 5, 5⟩
/-- PG_STAT.PAGE. -/
def hSTATPAGE (p : Nat) : FRef := ⟨p, 0x00C, 4, 31, 16⟩
/-- PG_REASON, whole. -/
def hREASON (p : Nat) : FRef := ⟨p, 0x010, 4, 31, 0⟩
/-- PG_FAULT, whole. -/
def hFAULT (p : Nat) : FRef := ⟨p, 0x014, 4, 31, 0⟩
/-- PG_FMASK, whole. -/
def hFMASK (p : Nat) : FRef := ⟨p, 0x018, 4, 31, 0⟩
/-- PG_EVENT, whole. -/
def hEVENT (p : Nat) : FRef := ⟨p, 0x01C, 4, 31, 0⟩
/-- PG_OWNER.SYSTEM. -/
def hSYSTEM (p : Nat) : FRef := ⟨p, 0x020, 4, 4, 4⟩
/-- PG_OWNER.TENANT. -/
def hTENANT (p : Nat) : FRef := ⟨p, 0x020, 4, 3, 0⟩
/-- PG_GEN. -/
def hGEN (p : Nat) : FRef := ⟨p, 0x024, 4, 31, 0⟩

/-- A page's unit is enabled: PG_CTRL.ENABLE reads 1 (R35). -/
def enabledR (r : Regs) (p : Nat) : Bool := rfget r (hENABLE p) 0 0 == 1

/-- A page's unit runs: PG_STAT.ACTIVE. -/
def State.active (s : State) (p : Nat) : Bool := s.fg (hACTIVE p) == 1

/-! ### Lists by index -/

/-- Change element `i`. -/
def modAt {α : Type} (l : List α) (i : Nat) (f : α → α) : List α :=
  match l, i with
  | [], _ => []
  | a :: rest, 0 => f a :: rest
  | a :: rest, i + 1 => a :: modAt rest i f

/-- The number of the first element that satisfies `p`. -/
def findIdx? {α : Type} (l : List α) (p : α → Bool) : Option Nat :=
  ((l.zipIdx).find? fun x => p x.1).map (·.2)

/-! ### Time, free values, outputs -/

/-- Wall time in grains; meaningful while valid (R103). -/
def State.wall (s : State) : Nat := ((s.now : Int) + s.tim.wallOff).toNat

/-- Wall-time nanoseconds within the second (Table 2.32). -/
def State.wallNs (s : State) : Nat := s.wall / Config.grainsPerNs % 1000000000

/-- Advance the timebase to `t` (never back). -/
def State.advance (s : State) (t : Nat) : State := { s with now := max s.now t }

/-- The DCN of the cycle in progress (SYS_DCN). -/
def State.dcn (s : State) : Nat := s.fg SYS_DCN_DCN

/-- A fresh free value below `m`, and the state with the counter advanced (log entry 2). -/
def State.free (s : State) (m : Nat) : Nat × State :=
  (if m = 0 then 0 else Config.freeValue s.freeCtr % m, { s with freeCtr := s.freeCtr + 1 })

/-- Put something on a port or pin. -/
def State.emit (s : State) (o : Out) : State := { s with outs := s.outs ++ [o] }

/-! ### Events and faults (R40, R53, R56) -/

/-- Kinds of Table 2.32. -/
def kRefusal : Nat := 0
/-- Fault events. -/
def kFault : Nat := 1
/-- Mismatch events. -/
def kMismatch : Nat := 2
/-- Firkin events. -/
def kFirkin : Nat := 3
/-- Informational events. -/
def kInfo : Nat := 4

/-- A queue with one event more; a full queue drops it, counts it and marks the next entry written (R56). -/
def EvQ.push (q : EvQ) (e : Event) : EvQ :=
  if Config.evqLen ≤ q.q.length then { q with lost := satN 16 (q.lost + 1), ovf := true }
  else { q with q := q.q ++ [{ e with ovf := q.ovf }], ovf := false, unsent := q.unsent + 1 }

/-- The tenant whose queue takes a page's events: its owner, or T0 for a system page (R56). -/
def evOwner (r : Regs) (page : Nat) : Nat :=
  if rfget r (hSYSTEM page) 0 0 = 1 then 0 else rfget r (hTENANT page) 0 0

namespace State

/-- Enter an event in the queue of tenant `t`. -/
def evTo (s : State) (t : Nat) (page code detail kind unit : Nat) : State :=
  let e : Event := ⟨code, detail % 2 ^ 16, false, kind, unit % 256, page, s.dcn, s.wallNs⟩
  let s := if code / 2 ^ 12 = 7 then (s.fs FLT_LAST_CODE code).fs FLT_LAST_DETAIL detail else s
  { s with tens := modAt s.tens t fun x => { x with evq := x.evq.push e } }

/-- Enter an event in the queue of the page's owner. -/
def ev (s : State) (page code detail kind unit : Nat) : State :=
  s.evTo (evOwner s.regs page) page code detail kind unit

/-- An event that concerns a command of tenant `w` on page `p` goes to that tenant, else to the page's owner (R56). -/
def evCmd (s : State) (w : Option Nat) (p code detail kind unit : Nat) : State := match w with
  | some n => s.evTo n p code detail kind unit
  | none => s.ev p code detail kind unit

/-- The fault bit is masked: recorded only (Table 2.11). -/
def masked (s : State) (page b : Nat) : Bool := bit (s.fg (hFMASK page)) b

/-- Record fault bit `b` of a page; unless it is masked, raise its event (R40). -/
def fault (s : State) (page b code detail unit : Nat) : State :=
  let s1 := s.fs (hFAULT page) (Nat.lor (s.fg (hFAULT page)) (2 ^ b))
  if s.masked page b then s1 else s1.ev page code detail kFault unit

/-- Record a fault bit without an event. -/
def faultBit (s : State) (page b : Nat) : State :=
  s.fs (hFAULT page) (Nat.lor (s.fg (hFAULT page)) (2 ^ b))

/-- A recorded fault bit. -/
def hasFault (s : State) (page b : Nat) : Bool := bit (s.fg (hFAULT page)) b

end State

end Sys2Proof.Machine
end

