-- ==== Sys2Proof/Machine/Pairs.lean ====
section
/-! DEFINITION. Requested and actual pairs (R45): the pairs of each page, their disagreement counts, and PG_STAT.MISMATCH. A count
returns to 0 as soon as its pair agrees: whatever changes a _REQ or _ACT field settles the page. -/

namespace Sys2Proof.Machine

/-- A pair of a page: its number there, the unit number, the register and mask of the _REQ field, and whether the two agree. -/
structure Pair where
  k : Nat
  unit : Nat
  page : Nat
  off : Nat
  mask : Nat
  agree : Bool
  deriving DecidableEq, Repr

namespace State

/-- The fields of array index `k` of instance `i` hold equal codes. -/
def sameAt (s : State) (i k : Nat) (l : List (FRef × FRef)) : Bool := l.all fun x => s.fgk x.1 i k == s.fgk x.2 i k

/-- The pairs of page `p`. Equal codes agree; SPEED_REQ auto agrees with both speeds (R75). -/
def pairsOf (s : State) (p : Nat) : List Pair :=
  if p = pgSYS then [⟨0, 0, p, SYS_MODE.off, 7, s.sameAt 0 0 [(SYS_MODE_MODE_REQ, SYS_MODE_MODE_ACT)]⟩]
  else if p = pgCHAIN then [⟨0, 0, p, CH_PATH.off, 1, s.sameAt 0 0 [(CH_PATH_PATH_REQ, CH_PATH_PATH_ACT)]⟩]
  else if p = pgPWRDOM then
    [8, 9, 10].map fun d => ⟨d - 8, d, p, PD_REQ.off, 2 ^ d, bit (s.reg p PD_REQ.off) d == bit (s.fg PD_ACT_DOM) d⟩
  else if p / 16 = 1 then [⟨0, p - pgTEN, p, TEN_RUN.off, 1, s.sameAt (p - pgTEN) 0 [(TEN_RUN_RUN_REQ, TEN_RUN_RUN_ACT)]⟩]
  else if pgLNK ≤ p ∧ p < pgCHAIN then
    let n := p - pgLNK
    [⟨0, n, p, LNK_CFG.off, 3,
      if s.fgi LNK_CFG_SPEED_REQ n = 0 then s.fgi LNK_STAT_SPEED_ACT n != 0 else s.sameAt n 0 [(LNK_CFG_SPEED_REQ, LNK_STAT_SPEED_ACT)]⟩]
  else if p / 16 = 3 then [⟨0, p - pgFEED, p, FEED_RUN.off, 1, s.sameAt (p - pgFEED) 0 [(FEED_RUN_RUN_REQ, FEED_RUN_RUN_ACT)]⟩]
  else if p = pgWIN then
    ((List.range 16).map fun w => ⟨w, w, p, 0x104 + 32 * w, 0x3F3,
      s.sameAt 0 w [(WIN_SRC_REQ_KIND, WIN_SRC_ACT_KIND), (WIN_SRC_REQ_INDEX, WIN_SRC_ACT_INDEX), (WIN_SRC_REQ_PIC, WIN_SRC_ACT_PIC)]⟩) ++
    ((List.range 16).map fun w => ⟨16 + w, w, p, 0x10C + 32 * w, 0xFF00F3,
      s.sameAt 0 w [(WIN_OVL_REQ_OKIND, WIN_OVL_ACT_OKIND), (WIN_OVL_REQ_OINDEX, WIN_OVL_ACT_OINDEX),
        (WIN_OVL_REQ_ALPHA, WIN_OVL_ACT_ALPHA)]⟩)
  else if pgPHASE ≤ p ∧ p < pgPHASE + 8 then
    [⟨0, p - pgPHASE, p, PH_RUN.off, 1, s.sameAt (p - pgPHASE) 0 [(PH_RUN_RUN_REQ, PH_RUN_RUN_ACT)]⟩]
  else []

/-- Pages with pairs. -/
def pairPages : List Nat :=
  [pgSYS, pgCHAIN, pgPWRDOM, pgWIN] ++ ((List.range 16).map (pgTEN + ·)) ++ ((List.range 4).map (pgLNK + ·)) ++
  ((List.range 16).map (pgFEED + ·)) ++ (List.range 8).map (pgPHASE + ·)

/-- Key of a pair's count. -/
def pairKey (x : Pair) : Nat := x.page * 64 + x.k

/-- Set a pair's count. -/
def setAgree (s : State) (x : Pair) (n : Nat) : State :=
  { s with fab := { s.fab with agree := cput s.fab.agree (pairKey x) n 0 } }

/-- Page `p` after a change of a _REQ or _ACT field: pairs that agree count 0, and MISMATCH clears once all of them do (R45). -/
def settle (s : State) (p : Nat) : State :=
  let l := s.pairsOf p
  let s := (l.filter (·.agree)).foldl (fun s x => s.setAgree x 0) s
  if s.fg (hMISMATCH p) = 1 ∧ (l.all (·.agree)) = true then
    let s := s.fs (hMISMATCH p) 0
    if bit (s.fg (hEVENT p)) 0 then s.ev p (pageBlk p * 2 ^ 8 + 4) 0 kMismatch 0 else s
  else s

/-- A pending firkin writes the _REQ field of a pair. -/
def reqPending (s : State) (x : Pair) : Bool :=
  s.fab.fks.any fun f => f.st == .pending &&
    f.writes.any fun w => w.page == x.page && w.off == x.off && decide (0 < Nat.land w.mask x.mask)

/-- One pair at a display-cycle boundary. -/
def pairCount (s : State) (x : Pair) : State :=
  let n := cget s.fab.agree (pairKey x) 0
  if x.agree || s.reqPending x then s
  else
    let s := s.setAgree x (min 4 (n + 1))
    if n + 1 = 3 then
      let s := s.fs (hMISMATCH x.page) 1
      if bit (s.fg (hEVENT x.page)) 0 then s.ev x.page (pageBlk x.page * 2 ^ 8 + 3) x.unit kMismatch x.unit else s
    else s

/-- The pairs at a display-cycle boundary (R45). -/
def pairsCycle (s : State) : State := pairPages.foldl (fun s p => (s.settle p).pairsOf p |>.foldl State.pairCount (s.settle p)) s

/-- A firkin that writes _REQ fields has been applied: their counts restart, and its pages settle. -/
def pairsApplied (s : State) (ws : List SWrite) : State :=
  (pairPages.filter fun p => ws.any (·.page == p)).foldl (fun s p =>
    let s := (s.pairsOf p).foldl (fun s x =>
      if ws.any fun w => w.page == x.page && w.off == x.off && decide (0 < Nat.land w.mask x.mask) then s.setAgree x 0 else s) s
    s.settle p) s

end State

end Sys2Proof.Machine
end

