-- ==== Sys2Proof/Machine/Sessions.lean ====
section
/-! DEFINITION. Tenant slots: roles, states and permissions (R57 to R62), session start and renewal, the order of a tenant
reset (R65), and the count of refusals that R63 evaluates. Used by every access. -/

namespace Sys2Proof

/-- Slot a requester acts for. -/
def Who.slot : Who → Nat
  | .ten n => n.val
  | .sys b => b.val

/-- The requester is a system requester. -/
def Who.isSys : Who → Bool
  | .ten _ => false
  | .sys _ => true

/-- The slot of a tenant's own access. -/
def Who.tenant : Who → Option Nat
  | .ten n => some n.val
  | .sys _ => none

/-- The requester is T0, the owner. -/
def Who.isT0 : Who → Bool
  | .ten n => n.val == 0
  | .sys _ => false

/-- Register bank of a requester (R37). -/
def Who.bank : Who → Nat
  | .ten n => 1 + n.val
  | .sys _ => 17

namespace Machine

/-! ### Codes of TEN_STATE.STATE and ROLE -/

/-- EMPTY. -/
def tEMPTY : Nat := 0
/-- ENROLLED. -/
def tENROLLED : Nat := 1
/-- ACTIVE. -/
def tACTIVE : Nat := 2
/-- RESETTING. -/
def tRESETTING : Nat := 3
/-- QUARANTINED. -/
def tQUAR : Nat := 4

/-- Owner role code. -/
def roleOwner : Nat := 1
/-- Feed role code. -/
def roleFeed : Nat := 2
/-- Service role code. -/
def roleService : Nat := 4
/-- Timing-master role code. -/
def roleTiming : Nat := 5

/-- State of slot `n` in a register file. -/
def tenStateR (r : Regs) (n : Nat) : Nat := rfget r TEN_STATE_STATE n 0

/-- Role of slot `n`. -/
def roleR (r : Regs) (n : Nat) : Nat := rfget r TEN_STATE_ROLE n 0

/-- Bits that read 0 for every slot but T0: RST, TEN pages, OSEC, KEYST, DBG (R59). -/
def pageForbidden (p : Nat) : Bool := p == 0x01 || p / 16 == 1 || p == 0xD0 || p == 0xD1 || p == 0xF0

/-- Role and TEN_PW let the requester write page `p` (R58, R59). -/
def mayWriteR (r : Regs) (w : Who) (p : Nat) : Bool :=
  match w with
  | .sys _ => true
  | .ten n =>
    let ro := roleR r n.val
    if ro = roleOwner then true
    else (ro == roleFeed || ro == roleService || ro == roleTiming) && !pageForbidden p &&
      bit (rfget r TEN_PW_PW n.val (p / 32)) (p % 32)

/-- Pages a requester may read (R59). -/
def mayReadR (r : Regs) (w : Who) (p : Nat) : Bool :=
  match w with
  | .sys _ => true
  | .ten n =>
    let ro := roleR r n.val
    if ro = 0 then false
    else if ro = roleOwner then true
    else p == pgSYS || p == pgEVTQ || p == pgTEN + n.val || p == pgFEED + n.val ||
      (!pageForbidden p && (bit (rfget r TEN_PW_PW n.val (p / 32)) (p % 32) || bit (rfget r TEN_PR_PR n.val (p / 32)) (p % 32)))

namespace State

/-- State of slot `n`. -/
def tst (s : State) (n : Nat) : Nat := tenStateR s.regs n

/-- Set the state of slot `n`. -/
def setTst (s : State) (n v : Nat) : State := s.fsi TEN_STATE_STATE n v

/-- Change what a slot holds beside its page. -/
def modTen (s : State) (n : Nat) (f : Ten → Ten) : State := { s with tens := modAt s.tens n f }

/-- RUN_ACT follows R61: 0 while QUARANTINED, or while RUN_REQ is 0 (no session is accepted then). -/
def runAct (s : State) (n : Nat) : State :=
  (s.fsi TEN_RUN_RUN_ACT n (b2n (s.tst n != tQUAR && s.fgi TEN_RUN_RUN_REQ n == 1))).settle (pgTEN + n)

/-- End of a session lease started now: TEN_KEEP milliseconds (R62), counted from the instant at which a pause stopped the timers
(R69). -/
def keepEnd (s : State) (n : Nat) : Nat := (if s.fab.access then s.now else s.fab.pausedAt) + s.fgi TEN_KEEP_MS n * Config.ms

/-- Restart the session lease of an ACTIVE slot (R62). -/
def renewSession (s : State) (n : Nat) : State :=
  if s.tst n = tACTIVE then s.modTen n fun t => { t with leaseEnd := s.keepEnd n } else s

/-- Start a session: command window opened, lease started, event 0x0112 (R61, R70). `port` none is SPIA; `seq` the sequence
number of the establishment: SPIA carries none, and 0 is taken for it, so H is 0xFFFF (log entry 65). -/
def startSession (s : State) (n : Nat) (port : Option Nat) (seq : Nat) : State :=
  let s := (s.setTst n tACTIVE).fsi TEN_STATE_VIA_LINK n (b2n port.isSome)
  let s := s.fsi TEN_STATE_VIA_SPIA n (b2n port.isNone)
  let s := (s.fsi TEN_SEQ_HIGH n ((seq + 65535) % 65536)).fsi TEN_SEQ_MISSING n 0
  let s := s.modTen n fun t => { t with leaseEnd := s.keepEnd n, port := port, stored := [], missing := [], floodRun := 0 }
  s.ev (pgTEN + n) 0x0112 n kInfo n

/-- Order a tenant reset with a cause (R65); a quarantine cause prevails over another order (Table 3.5), and of two quarantine causes the
later is kept (log entry 65). `trig`: QTRIG of a quarantine. -/
def orderReset (s : State) (n cause trig : Nat) : State :=
  let quar := cause == 3 || cause == 4
  let s := if quar then s.fsi TEN_STATE_QTRIG n trig else s
  if s.tst n = tRESETTING then
    if quar then s.modTen n fun t => { t with cause := cause, toQuar := true } else s
  else if s.tst n = tEMPTY then s
  else
    let was := s.tst n == tQUAR
    (s.setTst n tRESETTING).modTen n fun t => { t with cause := cause, toQuar := quar || was }

/-- Count a refusal with family 5 of a tenant's own access (Table 3.4, TEN_ERR.PERMF). -/
def countPermf (s : State) (n : Nat) : State :=
  (s.inc TEN_ERR_PERMF n 1).modTen n fun t => { t with permf := t.permf + 1 }

/-- Count a frame that failed authentication (R63). -/
def countAuthf (s : State) (n : Nat) : State := s.inc TEN_ERR_AUTHF n 1

/-- A frame from port `p` that names slot `n` failed authentication (R63, R81). -/
def authFail (s : State) (p n : Nat) : State := (s.inc LNK_AUTHF_COUNT p 1).countAuthf n

end State

end Machine

end Sys2Proof
end

