-- ==== Sys2Proof/Machine/Flags.lean ====
section
/-! DEFINITION. Status that is computed, not stored: PG_STAT bits (Table 2.9), firkin status (Table 2.30), event queue views
(Table 2.32), leases held (Table 3.9), lamp queries (Tables 9.9 and 10.7), and PG_ID, PG_CAP (Tables 2.6, 2.7). -/

namespace Sys2Proof.Machine

/-- A pending firkin touches page `p` (R36, R42). -/
def State.pendingOn (s : State) (p : Nat) : Bool :=
  s.fab.fks.any fun f => f.st == .pending && f.writes.any fun w => w.page == p

/-- A commit check or an enable check touches page `p` (PG_STAT.CHECKING). -/
def State.checkingOn (s : State) (p : Nat) : Bool :=
  s.fab.checking.contains p || s.fab.fks.any fun f => f.st == .checking && f.writes.any fun w => w.page == p

/-- PG_STAT.FAULT: an unmasked fault bit is set. -/
def State.faultOn (s : State) (p : Nat) : Bool :=
  decide (0 < Nat.land (s.fg (hFAULT p)) (2 ^ 32 - 1 - s.fg (hFMASK p)))

/-- PG_STAT as read: PENDING, FAULT and CHECKING computed, the rest stored. -/
def State.pgStat (s : State) (p : Nat) : Nat :=
  let v := s.reg p 0x00C
  let v := putBits v 6 6 (b2n (s.checkingOn p))
  let v := putBits v 4 4 (b2n (s.pendingOn p))
  putBits v 2 2 (b2n (s.faultOn p))

/-- PG_ID as read (Table 2.6). -/
def pgIdOf (p : Nat) : Nat := match pageRow? p with
  | some r => r.base * 2 ^ 16 + (p - r.base) * 2 ^ 8 + 1
  | none => 0

/-- PG_CAP as read (Table 2.7). -/
def pgCapOf (p : Nat) : Nat := match pageRow? p with
  | some r => r.cap
  | none => 0

/-! ### Firkins (Table 2.30) -/

/-- The entry of handle `h`, none when it is FREE. -/
def State.fk? (s : State) (h : Nat) : Option Firkin := s.fab.fks.find? fun f => f.h == h

/-- The handle is a requester's own. -/
def fkMine (w : Who) (f : Firkin) : Bool := !f.auto && f.who == w

/-- STATE code. -/
def FkState.code : FkState → Nat
  | .open_ => 1
  | .failed => 2
  | .checking => 3
  | .pending => 4

/-- FK_STAT of the handle a requester selects. -/
def State.fkStat (s : State) (w : Who) : Nat :=
  match s.fk? (s.fgb w.bank FK_SEL_HANDLE) with
  | some f => if fkMine w f then f.st.code * 2 ^ 12 + f.writes.length % 1024 else 0
  | none => 0

/-- FK_LEFT: whole milliseconds of the lease that remain. -/
def State.fkLeft (s : State) (w : Who) : Nat :=
  match s.fk? (s.fgb w.bank FK_SEL_HANDLE) with
  | some f => if fkMine w f && (f.st == .open_ || f.st == .failed) then (f.leaseEnd - s.now) / Config.ms else 0
  | none => 0

/-- FK_FAIL of the handle a requester selects. -/
def State.fkFail (s : State) (w : Who) : Nat :=
  match s.fk? (s.fgb w.bank FK_SEL_HANDLE) with
  | some f => if fkMine w f && f.st == .failed then f.fail.code * 2 ^ 16 + f.failIdx else 0
  | none => 0

/-- Handles not FREE that draw on the allotment of slot `n` (R47). -/
def State.fkCount (s : State) (n : Nat) : Nat := (s.fab.fks.filter fun f => !f.auto && f.who.slot == n).length

/-- FK_USE. -/
def State.fkUse (s : State) (w : Who) : Nat := s.fkCount w.slot * 2 ^ 8 + s.fab.fks.length

/-! ### Event queues (Table 2.32) -/

/-- The queue a requester views: only the owner views another tenant's. -/
def State.eqView (s : State) (w : Who) : Nat :=
  if w.isT0 then s.fgb w.bank EQ_SEL_TEN else w.slot

/-- Event queue of slot `n`. -/
def State.evq (s : State) (n : Nat) : EvQ := nth (s.tens.map (·.evq)) n ⟨[], 0, false, 0, 0⟩

/-- The four words of an entry. -/
def Event.words (e : Event) : List Nat :=
  [e.code * 2 ^ 16 + e.detail, b2n e.ovf * 2 ^ 31 + e.kind * 2 ^ 16 + e.unit * 2 ^ 8 + e.page, e.dcn, e.ns]

/-- Word `k` of the head of a viewed queue. -/
def State.eqWord (s : State) (w : Who) (k : Nat) : Nat :=
  match (s.evq (s.eqView w)).q with
  | e :: _ => nth e.words k 0
  | [] => 0

end Sys2Proof.Machine
end

