-- ==== Sys2Proof/Machine/Operands.lean ====
section
/-! DEFINITION. The operand of an access: address and reach (R31, R32), the register bank it names (R37, R145), permission
and the rules that accept or refuse a writer by identity (R38, R48, R55, R60, R72 and each page's own), field formats (R54),
how a write changes a register by its fields' access types (Table 2.3), and the refusals of R36. -/

namespace Sys2Proof.Machine

/-- A reason code of page `p`'s block: family, specific (R53). -/
def pageCode (fam p spec : Nat) : Nat := fam * 2 ^ 12 + pageBlk p * 2 ^ 8 + spec

/-- Page and offset of a register address; none outside the register pages (Table 2.1). -/
def addrReg (addr : Nat) : Option (Nat × Nat) :=
  if 0x40000000 ≤ addr ∧ addr < 0x40100000 then some ((addr - 0x40000000) / 2 ^ 12, addr % 2 ^ 12) else none

/-- Address of a register (R32). -/
def regAddr (page off : Nat) : Nat := 0x40000000 + page * 2 ^ 12 + off

/-- Regions of Table 2.1 beside the register pages. -/
inductive Region
  | sram | xip | dram | unmapped
  deriving DecidableEq, Repr

/-- The region of an address that is no register page; `dramSize` bytes of DRAM are visible. -/
def regionOf (dramSize addr : Nat) : Region :=
  if 0x10000000 ≤ addr ∧ addr < 0x10400000 then .sram
  else if 0x20000000 ≤ addr ∧ addr < 0x21000000 then .xip
  else if 0x1000000000 ≤ addr ∧ addr < 0x1000000000 + dramSize then .dram
  else .unmapped

/-- Paths that reach a region (Table 2.1). -/
def reaches (p : Path) (r : Region) : Bool :=
  match r, p with
  | .sram, .mgmt => true
  | .xip, .mgmt => true
  | .dram, .mgmt => true
  | .dram, .osec => true
  | .unmapped, _ => true
  | _, _ => false

/-- The bank a requester's access to a register uses (R37); the palette's is that of the feed PAL_SEL names (R145). -/
def bankOfReg (r : Regs) (w : Who) (page off : Nat) : Nat :=
  if page = pgPAL ∧ (off = 0x044 ∨ 0x400 ≤ off) then 32 + rfgetB r w.bank PAL_SEL_FEED 0 0
  else match anyRegAt page off with
    | some g => if g.banked then w.bank else 0
    | none => 0

/-! ### Fields -/

/-- The mask of a field's bits. -/
def Fld.mask (f : Fld) : Nat := (2 ^ (f.hi + 1 - f.lo) - 1) * 2 ^ f.lo

/-- The field can be written at all. -/
def Fld.writable (f : Fld) : Bool := match f.acc with
  | .ro => false
  | .rc => false
  | _ => true

/-- Bits of a register that can be written. -/
def Reg.wmask (g : Reg) : Nat := g.flds.foldl (fun m f => if f.writable then Nat.lor m f.mask else m) 0

/-- What a write of `data` under `mask` leaves in a register that held `old` (Table 2.3). -/
def mergeFlds (flds : List Fld) (old data mask : Nat) : Nat :=
  flds.foldl (fun v f =>
    let m := Nat.land f.mask mask
    match f.acc with
    | .rw => Nat.lor (v - Nat.land v m) (Nat.land data m)
    | .w1c => v - Nat.land v (Nat.land data m)
    | .w1s => Nat.lor v (Nat.land data m)
    | _ => v) old

/-- The detail of a format code (Table 2.18): bit position, count written, or address. -/
def fmtDetail (code lo v addr : Nat) : Nat :=
  if code % 256 = 2 then v % 2 ^ 16 else if code % 256 = 4 then addr % 2 ^ 16 else lo

/-- A value that a field refuses. -/
def Fld.refuses (f : Fld) (v addr : Nat) : Option Rc :=
  (f.bad.find? fun b => match b with
    | .rng lo hi _ => decide (lo ≤ v) && decide (v ≤ hi)
    | .odd _ => v % 2 == 1).map fun b => match b with
    | .rng _ _ c => ⟨c, fmtDetail c f.lo v addr⟩
    | .odd c => ⟨c, fmtDetail c f.lo v addr⟩

/-- The field formats of the written bits, most significant field first (R41, R48, R54). -/
def fmtCheck (flds : List Fld) (old data mask addr : Nat) : Option Rc :=
  let v := Nat.lor (old - Nat.land old mask) (Nat.land data mask)
  flds.findSome? fun f =>
    if f.writable && decide (0 < Nat.land f.mask mask) then f.refuses (bitsOf v f.hi f.lo) addr else none

/-- Whether a write under `mask` touches a field of class `c`. -/
def touchesCls (flds : List Fld) (mask : Nat) (c : Cls) : Bool :=
  flds.any fun f => f.cls == c && f.writable && decide (0 < Nat.land f.mask mask)

/-! ### Writers -/

/-- The window whose WIN entry lies at offset `off` of page WIN. -/
def winOfOff (off : Nat) : Option Nat := if 0x100 ≤ off ∧ off < 0x300 then some ((off - 0x100) / 32) else none

/-- A feed tenant's write of a WIN entry of a window in its TEN_WINPERM (Table 3.1). -/
def feedWindow (r : Regs) (w : Who) (page off : Nat) : Bool := match w, winOfOff off with
  | .ten n, some k => page == pgWIN && roleR r n.val == roleFeed && bit (rfget r TEN_WINPERM_WIN n.val 0) k
  | _, _ => false

/-- Rules of R48's kind: pages and registers that accept or refuse a writer by identity (R55, R56, R60, R72, R119, R145, R167, R185, R279,
R281, R294, R300, R301, R352, R355, R375, R376, R378). `cur` is the register's value. -/
def writerRule (r : Regs) (w : Who) (page off cur data mask : Nat) : Option Rc :=
  let t0 : Nat → Option Rc := fun c => if w.isT0 then none else some ⟨c, w.slot⟩
  let v := Nat.lor (cur - Nat.land cur mask) (Nat.land data mask)
  if page / 16 = 1 then
    if w.isT0 then none
    else if off = 0x048 ∧ page = pgTEN + w.slot ∧ !w.isSys ∧ bitsOf v 3 0 = 1 then none
    else some ⟨0x5101, w.slot⟩
  else if page = pgRST then
    if off = 0x050 then (if w.isSys || w.isT0 then none else some ⟨0x5001, w.slot⟩)
    else if off = 0x040 ∨ off = 0x04C then t0 0x5001 else none
  else if page = pgSYS ∧ off = 0x058 ∧ 0 < Nat.land mask 0xF then t0 0x5001
  else if page = pgEVTQ ∧ off = 0x040 then
    if w.isT0 || bitsOf v 3 0 == w.slot then none else some ⟨0x5001, w.slot⟩
  else if page = pgSYS ∧ off = 0x050 ∧ 0 < Nat.land mask 7 then
    (if w.isT0 || (!w.isSys && roleR r w.slot == roleService && (v % 8 == 3 || v % 8 == 4)) then none else some ⟨0x5010, w.slot⟩)
  else if page = pgPWRDOM ∨ page = pgTHERM then t0 0x5001
  else if page = pgADMIT ∧ off = ADM_DECL.off then t0 0x5301
  else if page = pgWIN then
    match winOfOff off with
    | none => none
    | some wn =>
      let perm := w.isSys || roleR r w.slot == roleOwner || bit (rfget r TEN_WINPERM_WIN w.slot 0) wn
      if !perm then some ⟨0x5401, w.slot⟩
      else if off % 32 = 4 ∧ bitsOf v 1 0 = 1 ∧ !w.isT0 ∧ (w.isSys ∨ bitsOf v 7 4 ≠ w.slot) then some ⟨0x5401, w.slot⟩
      else none
  else if page = pgPAL ∧ (off = 0x044 ∨ 0x400 ≤ off) then
    if w.isT0 || (!w.isSys && rfgetB r w.bank PAL_SEL_FEED 0 0 == w.slot) then none else some ⟨0x5401, w.slot⟩
  else if page = pgPIX ∧ (off = PIX_RET_A.off ∨ off = PIX_RET_B.off) then t0 0x5501
  else if page = pgEDGE ∧ off = EDGE_OVR_CTRL.off ∧ bit v 0 = true then
    (if w.isT0 || (!w.isSys && roleR r w.slot == roleService) then none else some ⟨0x5601, w.slot⟩)
  else if page = pgMEMC then t0 0x5B01
  else if page = pgMECC ∧ off = ME_CFG.off then t0 0x5B01
  else if page = pgSPIA then t0 0x5C01
  else if page = pgSPIC then
    let mine := rfget r SPIC_GRANT_HELD 0 0 == 1 && rfget r SPIC_GRANT_HOLDER 0 0 == w.slot
    if off < 0x040 ∨ mine ∨ (off = SPIC_GCMD.off ∧ (bitsOf v 3 0 ≠ 2 ∨ w.isT0 = true)) ∨
      (w.isT0 = true ∧ off ≠ SPIC_XFER.off ∧ off < SPIC_BUF.off) then none
    else some ⟨0x5C10, w.slot⟩
  else if page = pgTWI then
    let mine := rfget r TWI_GRANT_HELD 0 0 == 1 && rfget r TWI_GRANT_HOLDER 0 0 == w.slot
    if off < 0x040 ∨ mine ∨ (off = TWI_GCMD.off ∧ (bitsOf v 3 0 = 1 ∨ 3 < bitsOf v 3 0 ∨ w.isT0 = true)) ∨
      (w.isT0 = true ∧ off ≠ TWI_XFER.off ∧ off < TWI_WBUF.off) then none
    else some ⟨0x5C10, w.slot⟩
  else if page = pgSPIB then
    if w.isSys then none
    else if w.isT0 && (off == SPIB_ADDR.off || (decide (SPIB_BUF.off ≤ off)) ||
      (off == SPIB_CMD.off && (bitsOf v 31 28 == 1 || bitsOf v 31 28 == 5))) then none
    else some ⟨0x5C01, w.slot⟩
  else if page = pgUPD ∧ off = UPD_CFG.off ∧ 0 < Nat.land mask 0x100 then t0 0x5E01
  else if page = pgDBG then t0 0x5F01
  else none

/-- A register that has no writable bit: a write is ignored and is not an accepted write (R43). -/
def noWritable (g : Reg) : Bool := g.wmask == 0

/-- Alignment, mapping, permission and writer rule of a write, in this order (R32, R38, R48). The register found. -/
def writeTarget (r : Regs) (w : Who) (addr data mask : Nat) : Except Rc (Nat × Nat × Reg) :=
  let d := addr % 2 ^ 16
  match addrReg addr with
  | none => .error ⟨if addr % 4 ≠ 0 then 0x1004 else 0x1005, d⟩
  | some (p, o) =>
    if addr % 4 ≠ 0 then .error ⟨pageCode 1 p 4, d⟩
    else match anyRegAt p o with
      | none => .error ⟨pageCode 1 p 5, d⟩
      | some g =>
        if !mayWriteR r w p && !(p / 16 == 1) && !feedWindow r w p o then .error ⟨pageCode 5 p 1, w.slot⟩
        else match writerRule r w p o (rget r (bankOfReg r w p o) p o) data mask with
          | some c => .error c
          | none => .ok (p, o, g)

/-- The refusals of R36 for a direct write: a page touched by a pending firkin, a staged field of an enabled page. -/
def directRule (s : State) (p o : Nat) (g : Reg) (mask : Nat) : Option Rc :=
  let d := regAddr p o % 2 ^ 16
  if s.pendingOn p && (decide (0x40 ≤ o) || o == 0x008) then some ⟨pageCode 6 p 2, d⟩
  else if enabledR s.regs p && decide (0x40 ≤ o) && (touchesCls g.flds mask .staged || touchesCls g.flds mask .cycle) then
    some ⟨pageCode 6 p 5, d⟩
  else none

/-- Record a refused direct access in the requester's SYS_WRERR, and count a family-5 refusal of a tenant (R63). -/
def State.refuse (s : State) (w : Who) (c : Rc) : State :=
  let s := (s.fsb w.bank SYS_WRERR_CODE c.code).fsb w.bank SYS_WRERR_DETAIL c.detail
  match w with
  | .ten n => if c.code / 2 ^ 12 = 5 then s.countPermf n.val else s
  | .sys _ => s

end Sys2Proof.Machine
end

