-- ==== Sys2Proof/Machine/WireMap.lean ====
section
/-! DEFINITION. The wiring map (chapter 9): where a region places a slot (R194), the numbering of pixels and lamps (R195),
colour order (R196, Table 9.2), the tests of Table 9.3 that need the map alone, and set currents (R198, R199). -/

namespace Sys2Proof.Machine

/-- Whether region `q` covers slot `j` of row `r` (R194). -/
def Rgn.covers (q : Rgn) (j r : Nat) : Bool :=
  decide (q.jf ≤ j) && decide (j ≤ q.jl) && decide (q.rf ≤ r) && decide (r ≤ q.rl)

/-- The tile pixel of slot `j` of row `r` in region `q` (R194). -/
def Rgn.pixel (q : Rgn) (j r : Nat) : Int × Int :=
  let u : Int := (j : Int) - q.jf
  let w : Int := (r : Int) - q.rf
  let a := if q.swap then w else u
  let b := if q.swap then u else w
  (if q.xneg then q.x0 - a else q.x0 + a, if q.yneg then q.y0 - b else q.y0 + b)

/-- Slots of a region's row. -/
def Rgn.cols (q : Rgn) : Nat := q.jl + 1 - q.jf

/-- Rows of a region. -/
def Rgn.rows (q : Rgn) : Nat := q.rl + 1 - q.rf

/-- Slots of region `q` before slot (j, r) in the order of R195. -/
def Rgn.before (q : Rgn) (j r : Nat) : Nat :=
  (min (q.rl + 1) r - q.rf) * q.cols + (if q.rf ≤ r ∧ r ≤ q.rl then min (q.jl + 1) j - q.jf else 0)

/-- Sum of a list of numbers. -/
def sumNat (l : List Nat) : Nat := l.foldl (· + ·) 0

namespace WireMap

/-- The region that covers a slot. -/
def rgnAt (m : WireMap) (j r : Nat) : Option Rgn := m.rgns.find? (Rgn.covers · j r)

/-- pmap, the number of mapped slots (R195). -/
def pmap (m : WireMap) : Nat := sumNat (m.rgns.map fun q => q.cols * q.rows)

/-- Lamps of the map. -/
def lamps (m : WireMap) : Nat := 3 * m.pmap

/-- The pixel index of slot (j, r): mapped slots before it, row by row (R195). -/
def index (m : WireMap) (j r : Nat) : Nat := sumNat (m.rgns.map (Rgn.before · j r))

/-- The tile pixel of a mapped slot; (0, 0) of an unmapped one. -/
def pixel (m : WireMap) (j r : Nat) : Nat × Nat :=
  match m.rgnAt j r with
  | some q => ((q.pixel j r).1.toNat, (q.pixel j r).2.toNat)
  | none => (0, 0)

/-- Rows used: highest RLAST + 1. -/
def rowsUsed (m : WireMap) : Nat := m.rgns.foldl (fun n q => max n (q.rl + 1)) 0

/-- The row of pixel index `i`. -/
def rowOf (m : WireMap) (i : Nat) : Nat :=
  (((List.range m.rowsUsed).find? fun r => decide (i < m.index 0 (r + 1)))).getD 0

/-- The slot (j, r) of pixel index `i`; none beyond the map. -/
def slotOf (m : WireMap) (i : Nat) : Option (Nat × Nat) :=
  if i < m.pmap then
    let r := m.rowOf i
    ((List.range 512).find? fun j => (m.rgnAt j r).isSome && m.index j r == i).map fun j => (j, r)
  else none

/-- Mapped slots of row `r`, rising. -/
def rowSlots (m : WireMap) (r : Nat) : List Nat := (List.range 512).filter fun j => (m.rgnAt j r).isSome

/-- Stones that hold a mapped slot. -/
def usesStone (m : WireMap) (k : Nat) : Bool := m.rgns.any fun q => decide (q.jf / 32 ≤ k) && decide (k ≤ q.jl / 32)

/-- Mapped slots of stone `k` in any row: those whose sinks can conduct. -/
def stoneSlots (m : WireMap) (k : Nat) : Nat :=
  ((List.range 32).filter fun b => m.rgns.any fun q => decide (q.jf ≤ 32 * k + b) && decide (32 * k + b ≤ q.jl)).length

/-- Pixel-space rectangle of a region: x low, x high, y low, y high. -/
def box (q : Rgn) : Int × Int × Int × Int :=
  let p := q.pixel q.jf q.rf
  let e := q.pixel q.jl q.rl
  (min p.1 e.1, max p.1 e.1, min p.2 e.2, max p.2 e.2)

/-- The lowest-numbered region that satisfies `f` together with some lower region. -/
def firstPair (m : WireMap) (f : Rgn → Rgn → Bool) : Option Nat :=
  (m.rgns.find? fun q => m.rgns.any fun p => decide (p.g < q.g) && f p q).map (·.g)

/-- Two regions cover one slot. -/
def slotClash (p q : Rgn) : Bool :=
  decide (p.jf ≤ q.jl) && decide (q.jf ≤ p.jl) && decide (p.rf ≤ q.rl) && decide (q.rf ≤ p.rl)

/-- Two regions place slots on one pixel. -/
def pixelClash (p q : Rgn) : Bool :=
  let a := box p
  let b := box q
  decide (a.1 ≤ b.2.1) && decide (b.1 ≤ a.2.1) && decide (a.2.2.1 ≤ b.2.2.2) && decide (b.2.2.1 ≤ a.2.2.2)

/-- A region places a pixel outside the grid. -/
def outside (m : WireMap) (q : Rgn) : Bool :=
  let a := box q
  decide (a.1 < 0) || decide ((m.w : Int) ≤ a.2.1) || decide (a.2.2.1 < 0) || decide ((m.h : Int) ≤ a.2.2.2)

/-- Tests 2 to 6 of Table 9.3, first failure; `rows` the scan ratio. -/
def tests (m : WireMap) (rows : Nat) : Option (Nat × Nat) :=
  match m.rgns.find? fun q => decide (q.jl < q.jf) || decide (511 < q.jl) || decide (q.rl < q.rf) || decide (127 < q.rl) with
  | some q => some (0x2717, q.g)
  | none =>
  match m.firstPair slotClash with
  | some g => some (0x2710, g)
  | none =>
  match m.rgns.find? m.outside with
  | some q => some (0x2711, q.g)
  | none =>
  match m.firstPair pixelClash with
  | some g => some (0x2712, g)
  | none =>
  if m.pmap ≠ m.w * m.h then some (0x2712, 0xFFFF)
  else
  match m.rgns.find? fun q => decide (rows ≤ q.rl) with
  | some q => some (0x2714, q.g)
  | none => none

end WireMap

/-- The colour of the sink at position `p` of a slot under code `c` (Table 9.2): 0 red, 1 green, 2 blue. -/
def cordCol (c p : Nat) : Nat :=
  let t : List Nat := match c with
    | 0 => [0, 1, 2]
    | 1 => [0, 2, 1]
    | 2 => [1, 0, 2]
    | 3 => [1, 2, 0]
    | 4 => [2, 0, 1]
    | 5 => [2, 1, 0]
    | _ => [0, 1, 2]
  nth t p 0

/-- The position of colour `col` in a slot under code `c` (R196). -/
def cordPos (c col : Nat) : Nat := ((List.range 3).find? fun p => cordCol c p == col).getD 0

/-- Nominal set current in units of 0.1 µA: G × (S + 1) (R198). -/
def setCurrent (g scale : Nat) : Nat := g * (scale + 1)

/-- The set current is in range (R199). -/
def currentOk (g scale : Nat) : Bool := decide (1000 ≤ setCurrent g scale) && decide (setCurrent g scale ≤ 120000)

/-- Commanded current in nA with trim code `t` (signed): I × (1 + 3 t / 3200) (R198). -/
def trimmedNa (g scale : Nat) (t : Int) : Int := (setCurrent g scale : Nat) * 100 * (3200 + 3 * t) / 3200

/-- The headroom code of a column voltage `mv` at the conducted current `c` / `d` in 0.1 µA (R201): 25 mV steps above the regulation
minimum, 0.20 V up to 6 mA and 1/60 V more per mA above. -/
def headroomCode (mv : Nat) (c : Int) (d : Nat) : Nat :=
  let n : Int := (600 * mv * d : Nat) - (120000 * d : Nat) - max 0 (c - (60000 * d : Nat))
  if n ≤ 0 then 0 else min 63 (n / (15000 * d : Nat)).toNat

end Sys2Proof.Machine
end

