-- ==== Sys2Proof/Machine/Common.lean ====
section
/-! DEFINITION. What many units share: modes and the entry to DARK (R356, R358, Table 17.3), the wiring map in force, window
bindings and the release of regeneration jobs (R15, Table 1.6), currents and rails of sinks (R196, R198). -/

namespace Sys2Proof.Machine

/-! ### Modes -/

/-- Code of a mode (Table 2.22). -/
def Mode.code : Mode → Nat
  | .sleep => 0
  | .trim => 1
  | .recovery => 2
  | .service => 3
  | .show => 4
  | .dark => 5

/-- The mode of a code. -/
def Mode.ofCode : Nat → Mode
  | 0 => .sleep
  | 1 => .trim
  | 2 => .recovery
  | 3 => .service
  | 4 => .show
  | _ => .dark

/-- One rail moved to a state code, its entry instant noted; a headroom move or a start that waits lapses. -/
def Rail.to (r : Rail) (now st : Nat) : Rail := { r with st := st, since := now, rampAt := now, move := none, ask := none }

/-- A rail that runs or starts enters STOPPING. -/
def Rail.soft (now : Nat) (r : Rail) : Rail := if r.st = 1 ∨ r.st = 2 then r.to now 3 else r

/-- A sink's word without its pulse. -/
def PSink.dark (p : PSink) : PSink := { p with word := { p.word with valid := false } }

namespace State

/-- The mode lights lamps (Table 17.1); sinks stay dark during SLEEP entry, shutdown and EXTEST (R360, R369, R373). -/
def lit (s : State) : Bool :=
  (s.mode == .show || s.mode == .service) && !s.pow.sleeping && !s.pow.shut && s.fg DBG_STAT_EXTEST == 0

/-- What is cleared when SERVICE is left, for any mode (Table 17.2, R96, R185, R245, R246, R281): the override, forced gates, the
supply mode, an armed injection and every loopback. -/
def leaveService (s : State) : State :=
  let s := ((s.fs EDGE_OVR_CTRL_EN 0).fs SUP_CFG_MODE 0).fs ME_INJ 0
  let s := (List.range 8).foldl (fun s n => s.fsi PH_TEST n 0) s
  let s := (List.range 4).foldl (fun s p => s.fsi LNK_CFG_LPBK p 0) s
  { s with sup := { s.sup with phases := s.sup.phases.map fun p => if p.st = 1 then p else { p with hg := false, lg := false, edges := [] } } }

/-- Put a mode in force; each change raises event 0x0010 (R356). -/
def setMode (s : State) (m : Mode) : State :=
  let s := if s.mode = .service ∧ m ≠ .service then s.leaveService else s
  (({ s with mode := m }.fs SYS_MODE_MODE_ACT m.code).ev pgSYS 0x0010 m.code kInfo 0).settle pgSYS

/-- Domain `d` of Table 17.4 has power. -/
def powered (s : State) (d : Nat) : Bool := bit (s.fg PD_ACT_DOM) d

/-- The domain of stone `k`: SINKA for 0 to 7, SINKB for 8 to 15. -/
def stoneDomain (k : Nat) : Nat := if k < 8 then 8 else 9

/-- The die temperature that the rules of non-volatile writes see: the highest stone sensor of the last sample (Table 17.6), before the
first sample what self-trim measured. -/
def dieNow (s : State) : Int := max (sgn 16 (s.fg TH_STAT_DIEMAX)) (sgn 16 (s.fg TRIM_DIE_TEMP))

/-- Active DARK causes (Table 17.3), as a bit set: FLT_CAUSE. -/
def activeCauses (s : State) : Nat :=
  let tst := s.fg TIME_STAT_STATE
  let timeOk := tst == 2 || (s.fg TIME_LOCK_SOURCE == 1 && tst == 4)
  let lost := s.tim.lost && !timeOk
  let hot := !s.pow.tripped.isEmpty || decide (1760 ≤ sgn 16 (s.fg TH_STAT_DIEMAX))
  b2n s.pow.trimFail * 2 + b2n s.pow.memFail * 4 + b2n (s.fg TIME_STAT_PLL_LOCK == 0) * 8 + b2n lost * 16 +
  b2n (!s.sup.sfltn || s.hasFault pgSUPPLY 0 || s.hasFault pgSUPPLY 1 || s.hasFault pgSUPPLY 2) * 32 +
  b2n (s.hasFault pgSCAN 1) * 64 + b2n (s.hasFault pgRDBK 1) * 128 + b2n hot * 256 + b2n s.pow.vddLow * 512

/-- Rails that run or start enter STOPPING (Table 11.2). -/
def stopRails (s : State) : State :=
  { s with sup := { s.sup with rails := s.sup.rails.map (Rail.soft s.now) } }

/-- The actions on entry to DARK (R358): every sink off and every row released, the rails STOPPING. -/
def darkActions (s : State) : State :=
  let s := s.stopRails
  { s with scan := { s.scan with placed := s.scan.placed.map PSink.dark, driven := false, drive := none } }

/-- A cause is seen: FLT_LATCH. -/
def latchCause (s : State) (cause : Nat) : State := s.fs FLT_LATCH_SEEN (Nat.lor (s.fg FLT_LATCH_SEEN) (2 ^ cause))

/-- Enter DARK for a cause (R358). In DARK already, the cause is latched; of two causes at one instant the lower is recorded
(Table 17.9). Rails that run enter STOPPING; of the mode requests that wait, SLEEP alone stays. -/
def darkNow (s : State) (cause : Nat) : State :=
  let s := s.latchCause cause
  if s.mode = .dark then
    if s.pow.darkAt = s.now ∧ cause < s.fg FLT_ENTRY_CAUSE then s.fs FLT_ENTRY_CAUSE cause else s
  else
    let s := (s.fs FLT_ENTRY_CAUSE cause).fs FLT_ENTRY_DCN (s.dcn % 2 ^ 16)
    let s := s.darkActions
    let s := { s with pow := { s.pow with darkAt := s.now, req := s.pow.req.filter (·.1 == 0) } }
    (s.setMode .dark).fault pgFAULT 0 0x7010 cause 0

/-- A cause becomes active: from SHOW and SERVICE it enters DARK, from TRIM only a failed trim or training does; in SLEEP and RECOVERY
the cause is latched (Table 17.2). -/
def enterDark (s : State) (cause : Nat) : State := match s.mode with
  | .sleep => s.latchCause cause
  | .recovery => s.latchCause cause
  | .trim => if cause = 1 ∨ cause = 2 then s.darkNow cause else s.latchCause cause
  | _ => s.darkNow cause

/-- SCAN_STAT and WIN_NOW: TAIL and DARK read 1 in the tail and while no cycle runs. -/
def showScan (s : State) : State :=
  let t := s.scan.win.isNone
  let s := ((s.fs SCAN_STAT_TAIL (b2n t)).fs SCAN_STAT_SWEEP (if s.scan.inCycle then min 511 s.scan.sweep else 0)).fs SCAN_STAT_SPAN
    (if s.scan.inCycle then s.scan.span else 0)
  (s.fs WIN_NOW_DARK (b2n t)).fs WIN_NOW_WIN (s.scan.win.getD 0)

/-- Enter DARK for a fault of a page, unless the fault bit is masked (R358, R40). -/
def enterDarkFor (s : State) (page b cause : Nat) : State := if s.masked page b then s else s.enterDark cause

end State

/-! ### The span -/

/-- bg in force (R171): grain of the first edge allowed. -/
def State.bgG (s : State) : Nat := 32 * s.fg SCAN_BLANK_BLANK

/-- sg in force (R171): grains of a span. -/
def State.sgG (s : State) : Nat := 32 * s.fg SCAN_SPAN_UNITS

/-- Length of a span in grains, never 0. -/
def State.spanLen (s : State) : Nat := max 1 s.sgG

/-! ### Wiring map in force -/

/-- The map a register file describes; empty while WIRE is disabled (R199, R206). -/
def wireMapR (r : Regs) : WireMap :=
  if enabledR r pgWIRE then
    ⟨rfget r WIRE_GRID_W 0 0, rfget r WIRE_GRID_H 0 0,
      (List.range 16).filterMap fun g =>
        if rfget r WIRE_RJ_EN 0 g = 1 then
          some ⟨g, rfget r WIRE_RJ_JFIRST 0 g, rfget r WIRE_RJ_JLAST 0 g, rfget r WIRE_RR_RFIRST 0 g, rfget r WIRE_RR_RLAST 0 g,
            rfget r WIRE_RXY_X0 0 g, rfget r WIRE_RXY_Y0 0 g, rfget r WIRE_RO_SWAP 0 g == 1, rfget r WIRE_RO_YNEG 0 g == 1,
            rfget r WIRE_RO_XNEG 0 g == 1⟩
        else none⟩
  else ⟨0, 0, []⟩

/-- The map in force: that of the registers once the unit runs. -/
def State.wmap (s : State) : WireMap := if s.active pgWIRE then wireMapR s.regs else ⟨0, 0, []⟩

/-- Colour order code of stone `k`. -/
def cordOf (r : Regs) (k : Nat) : Nat := bitsOf (rget r 0 pgWIRE (0x048 + k / 8 * 4)) (4 * (k % 8) + 2) (4 * (k % 8))

/-- Global current code of a colour (0 red, 1 green, 2 blue). -/
def gcurOf (r : Regs) (col : Nat) : Nat :=
  match col with
  | 0 => rfget r SCAN_GCUR0_R 0 0
  | 1 => rfget r SCAN_GCUR0_G 0 0
  | _ => rfget r SCAN_GCUR1_B 0 0

/-- Rail of a colour: 0 VLED_A, 1 VLED_B (R196). -/
def railOf (r : Regs) (col : Nat) : Nat := bitsOf (rget r 0 pgWIRE 0x04C) col col

/-- Set current of colour `col` in stone `k`, 0.1 µA (R198). -/
def stoneCurrent (r : Regs) (k col : Nat) : Nat := setCurrent (gcurOf r col) (rfget r ST_CUR_SCALE k 0)

/-- ST_ISUM's figure of stone `k` and a rail, in 0.1 mA rounded up: mapped sinks at their nominal current (R207). -/
def stoneIsum (r : Regs) (m : WireMap) (k rail : Nat) : Nat :=
  if enabledR r (pgSTONE + k) then
    ceilDiv (sumNat ((List.range 3).map fun c => if railOf r c = rail then m.stoneSlots k * stoneCurrent r k c else 0)) 1000
  else 0

/-! ### Windows -/

/-- Sweeps of window `w`. -/
def winSweeps (r : Regs) (w : Nat) : Nat := rfget r WIN_SWP_SWEEPS 0 w

/-- First sweep of window `w`: windows follow one another in index order (R134). -/
def winFirst (r : Regs) (w : Nat) : Nat := sumNat ((List.range w).map (winSweeps r))

/-- The window of a sweep. -/
def winOfSweep (r : Regs) (sw : Nat) : Option Nat :=
  (List.range 16).find? fun w => decide (winFirst r w ≤ sw) && decide (sw < winFirst r w + winSweeps r w)

namespace State

/-- Window `w` is enabled: WIN runs and it has sweeps. -/
def winOn (s : State) (w : Nat) : Bool := s.active pgWIN && decide (0 < winSweeps s.regs w)

/-- Change the array's state. -/
def modPix (s : State) (f : PixSt → PixSt) : State := { s with pix := f s.pix }

/-- Release a regeneration job for window `w` (R15): one job serves every release before it starts; none while WIRE is disabled
(R206). `src`, `ovl`: a new source or overlay frame is the cause. -/
def releaseFor (s : State) (w : Nat) (src ovl : Bool) : State :=
  if s.winOn w && s.active pgWIRE then
    s.modPix fun p =>
      if p.released.any fun x => x.win == w then
        { p with released := p.released.map fun x => if x.win = w then
          { x with src := x.src || src, ovl := x.ovl || ovl, audit := x.audit.map fun a => { a with solo := false } } else x }
      else { p with released := p.released ++ [⟨w, src, ovl, none⟩] }
  else s

/-- Release a job for a cause other than a new frame. -/
def releaseWin (s : State) (w : Nat) : State := s.releaseFor w false false

/-- Release a job for every enabled window. -/
def releaseAll (s : State) : State := (List.range 16).foldl State.releaseWin s

/-- The pending plan of window `w` returns to the pool and its jobs in flight are discarded at completion. -/
def dropPending (s : State) (w : Nat) : State :=
  { s with
    pix := { s.pix with
      dir := modAt s.pix.dir w fun d => { d with pend := none },
      jobs := s.pix.jobs.map fun j => if j.win = w then { j with drop := true } else j,
      deferred := s.pix.deferred.filter (·.win != w) },
    scan := { s.scan with
      seenCur := modAt s.scan.seenCur w fun _ => none, seenPrev := modAt s.scan.seenPrev w fun _ => none } }

/-- A window's binding changed: its pending plan returns, its jobs in flight are discarded at completion, and a job for the new
binding is released (Table 1.6). -/
def rebind (s : State) (w : Nat) : State := (s.dropPending w).releaseWin w

/-- Every current and pending plan becomes invalid: a wiring-map change, or DARK left for SHOW (Table 1.6, R22). -/
def dropPlans (s : State) : State :=
  { s with
    pix := { s.pix with
      dir := s.pix.dir.map fun _ => ⟨none, none⟩, jobs := s.pix.jobs.map fun j => { j with drop := true }, deferred := [] },
    scan := { s.scan with seenCur := [], seenPrev := [], occ := none } }

end State

end Sys2Proof.Machine
end

