-- ==== Sys2Proof/Machine/Access.lean ====
section
/-! DEFINITION. One direct access to the register fabric (R32, R36, R38, R43): who is admitted by which path, the checks of a
write in order, its effect through a handler, and what is recorded when it is refused. -/

namespace Sys2Proof.Machine

/-- A handler of an accepted write: requester, page, offset, register, data. It may still refuse. -/
abbrev Handler := State → Who → Nat → Nat → Reg → Nat → Except Rc State

/-- The ROM loader runs: in RECOVERY, or while it waits for an image (R349, Table 17.2). -/
def State.loader (s : State) : Bool := s.fg SLOT_BOOT_RUN == 3

/-- Admission of a requester by its path to an address (R61, R62, R65, R349, Table 2.25, Table 17.8). SPIA carries the identity of
SYS_SPIA; under the ROM loader it acts as T0 and reaches the update commands alone. JTAG reaches DBG_HALT as the owner while scope [4] is open (R372, R373). -/
def grantAccess (s : State) (a : Access) (addr : Nat) : Except Rc (State × Who) :=
  let atLoader := s.loader && decide (addr / 2 ^ 12 = 0x400E0)
  let halted := bit (s.fg DBG_STAT_HALTED) 0
  if a.path = .jtag then
    if addr ≠ 0x40000000 + pgDBG * 2 ^ 12 + DBG_HALT.off then .error ⟨0x5001, 0⟩
    else if !bit (s.fg DBG_SCOPE_SCOPE) 4 then .error ⟨0x5F10, 4⟩
    else if !s.fab.access && !halted then .error ⟨0x4C11, 0⟩
    else .ok (s, .ten 0)
  else if (!s.fab.access && !atLoader) || halted then .error ⟨0x4C11, 0⟩
  else match a.path, a.who with
    | .spia, .ten _ =>
      let n := s.fg SYS_SPIA_TEN
      let w : Who := .ten (Fin.ofNat 16 n)
      if atLoader then .ok (s, .sys 0)
      else if s.fg SYS_SPIA_EN = 0 then .error ⟨0x5C01, n⟩
      else if s.tst n = tACTIVE then .ok (s.renewSession n, w)
      else if s.tst n = tQUAR then .error ⟨0x5110, n⟩
      else if s.tst n = tRESETTING then .error ⟨0x6112, n⟩
      else if s.tst n = tEMPTY then .error ⟨0x5001, n⟩
      else if s.fgi TEN_RUN_RUN_REQ n = 1 then .ok (s.startSession n none 0, w)
      else .error ⟨0x5111, n⟩
    | .link _, .ten n =>
      if s.tst n.val = tACTIVE then .ok (s.renewSession n.val, a.who)
      else if s.tst n.val = tRESETTING then .error ⟨0x6112, n.val⟩
      else .error ⟨0x5002, 0⟩
    | .mgmt, .sys _ => .ok (s, a.who)
    | .osec, .sys _ => .ok (s, a.who)
    | _, _ => .error ⟨0x5001, a.who.slot⟩

/-- PG_GEN + 1 (R43). -/
def State.bumpGen (s : State) (p : Nat) : State := s.fs (hGEN p) (add32 (s.fg (hGEN p)) 1)

/-- What a write under a mask writes whole: RW fields keep their value outside it, fields that act on a 1 take 0 (Table 4.11). -/
def maskedData (g : Reg) (old data mask : Nat) : Nat :=
  let keep := g.flds.foldl (fun m f => if f.acc = .rw then Nat.lor m f.mask else m) 0
  Nat.lor (Nat.land data mask) (Nat.land (old - Nat.land old mask) keep)

/-- PH_DUTY.D above GRAINS / 2, in a write of value `v` (Table 11.9). -/
def dutyFail (r : Regs) (p o v mask : Nat) : Option Rc :=
  if pgPHASE ≤ p ∧ p < pgPHASE + 8 ∧ o = PH_DUTY.off ∧ 0 < mask % 2 ^ 16 then
    if rfget r SUP_PER_GRAINS 0 0 / 2 < v % 2 ^ 16 then some ⟨0x1902, v % 2 ^ 16⟩ else none
  else none

/-- The first field that refuses its new value (Table 2.18). -/
def State.fieldFail (s : State) (w : Who) (p o : Nat) (g : Reg) (data mask addr : Nat) : Option Rc :=
  let old := rget s.regs (bankOfReg s.regs w p o) p o
  (fmtCheck g.flds old data mask addr).or (dutyFail s.regs p o (Nat.lor (old - Nat.land old mask) (Nat.land data mask)) mask)

/-- A direct write under a mask by an admitted requester: checks, handler, generation. A register with no writable bit ignores it
(R43). -/
def writeMasked (s : State) (w : Who) (addr data mask : Nat) (h : Handler) : Except Rc State :=
  match writeTarget s.regs w addr data mask with
  | .error c => .error c
  | .ok (p, o, g) =>
    match directRule s p o g mask with
    | some c => .error c
    | none =>
      if noWritable g then .ok s
      else match s.fieldFail w p o g data mask addr with
        | some c => .error c
        | none =>
          let old := rget s.regs (bankOfReg s.regs w p o) p o
          (h s w p o g (if mask = 2 ^ 32 - 1 then data else maskedData g old data mask)).map (State.bumpGen · p)

/-- A direct write of a whole register. -/
def writeAs (s : State) (w : Who) (addr data : Nat) (h : Handler) : Except Rc State := writeMasked s w addr data (2 ^ 32 - 1) h

/-- A refused RESET of a page that a pending firkin touches: PG_REASON, and the event that PG_EVENT.REFUSAL enables (R42, Tables 2.10,
2.11). -/
def State.resetRefused (s : State) (w : Who) (addr data : Nat) (c : Rc) : State := match addrReg addr with
  | some (p, o) =>
    if o = 0x008 ∧ bit data 1 = true ∧ c.code = pageCode 6 p 2 then
      let s := s.fs (hREASON p) (c.code * 2 ^ 16 + c.detail % 2 ^ 16)
      if bit (s.fg (hEVENT p)) 1 then s.evCmd w.tenant p c.code c.detail kRefusal 0 else s
    else s
  | none => s

/-- An access that its path does not admit: an access from a link that names a slot without a session is authenticated by no key and is
counted as such (R63); any other refusal is recorded. -/
def State.notAdmitted (s : State) (a : Access) (c : Rc) : State := match a.path with
  | .link p => if c.code = 0x5002 then s.authFail p.val a.who.slot else s.refuse a.who c
  | _ => s.refuse a.who c

/-- One write by an admitted requester: the state with what a refusal records, and the result. -/
def accessWrite (s : State) (w : Who) (addr data mask : Nat) (h : Handler) : State × Rc :=
  match writeMasked s w addr data mask h with
  | .error c => ((s.refuse w c).resetRefused w addr data c, c)
  | .ok s => (s, ⟨0, 0⟩)

/-- Default effect of a write: fields change by their access types. -/
def storeReg (s : State) (w : Who) (p o : Nat) (g : Reg) (data : Nat) : State :=
  let b := bankOfReg s.regs w p o
  { s with regs := rput s.regs b p o (mergeFlds g.flds (rget s.regs b p o) data (2 ^ 32 - 1)) }

/-- One direct write, its result on the requester's path (R32). -/
def direct (s : State) (a : Access) (addr : Nat) (data : Nat) (h : Handler) : State :=
  match grantAccess s a addr with
  | .error c => (s.notAdmitted a c).emit (.res c [])
  | .ok (s, w) =>
    let r := accessWrite s w addr data (2 ^ 32 - 1) h
    r.1.emit (.res r.2 [])

/-- A command's state before its effect: outputs cleared. -/
def State.begin_ (s : State) : State := { s with outs := [] }

end Sys2Proof.Machine
end

