-- ==== Sys2Proof/Machine/Pixel.lean ====
section
/-! DEFINITION. The arithmetic of a picture's way to lamp values: formats and pixel extraction (R123, R124), de-gamma (R125),
the overlay blend (R136), the correction of one lamp with its dither threshold (R149 to R152), the zone selection and the
blend of two set entries (R161, R162), and the drawing of pattern instructions (R138). -/

namespace Sys2Proof.Machine

/-- Bits per pixel of a feed format (Table 6.1); none for a reserved code. -/
def fmtBpp (fmt : Nat) : Option Nat :=
  match fmt with
  | 0 => some 24
  | 1 => some 30
  | 2 => some 36
  | 3 => some 48
  | 4 => some 1
  | 5 => some 2
  | 6 => some 4
  | 7 => some 8
  | _ => none

/-- B, the bytes of one picture: ceil(pmap × bpp / 8) (R123). -/
def picBytes (pmap fmt : Nat) : Nat := ceilDiv (pmap * (fmtBpp fmt).getD 0) 8

/-- `n` bits of a picture's stream from bit `i` on; bit 0 is the most significant bit of byte 0 (R123). -/
def streamBits (bytes : Cells Byte) : (i n : Nat) → Nat
  | _, 0 => 0
  | i, n + 1 =>
    let byte := (cget bytes (i / 8) 0#8).toNat
    (byte / 2 ^ (7 - i % 8) % 2) * 2 ^ n + streamBits bytes (i + 1) n

/-- Bit replication of an N-bit colour value to 16 bits (R124). -/
def replicate16 (n v : Nat) : Nat :=
  match n with
  | 8 => v * 256 + v
  | 10 => v * 64 + v / 16
  | 12 => v * 16 + v / 256
  | _ => v

/-- The encoded 16-bit red, green and blue of pixel `i` (R123, R124). `pal` lists the palette's entries (red, green, blue). -/
def pixelRGB (fmt : Nat) (bytes : Cells Byte) (pal : List (Nat × Nat × Nat)) (i : Nat) : Nat × Nat × Nat :=
  let bpp := (fmtBpp fmt).getD 0
  if fmt < 4 then
    let n := bpp / 3
    let c (j : Nat) := replicate16 n (streamBits bytes (i * bpp + j * n) n)
    (c 0, c 1, c 2)
  else nth pal (streamBits bytes (i * bpp) bpp) (0, 0, 0)

/-- The linear value of a 16-bit value by identity: (x << 8) | (x >> 8) (R125). -/
def linIdentity (x : Nat) : Nat := x * 256 + x / 256

/-- Table de-gamma: 113 points, eight per octave, interpolated as R125's listing. -/
def linTable (t : List Nat) (x : Nat) : Nat :=
  let e := if x < 8 then 0 else Nat.log2 x - 3
  let k := if x < 8 then x else 8 + 8 * e + (x / 2 ^ e - 8)
  let f := if x < 8 then 0 else x % 2 ^ e
  let lo : Nat := nth t k 0
  let hi : Nat := nth t (k + 1) 0
  let r : Int := (((hi : Int) - lo) * f + ((2 ^ e / 2 : Nat) : Int)) / ((2 ^ e : Nat) : Int)
  ((lo : Int) + r).toNat

/-- De-gamma of one colour: `none` is MODE identity, `some t` the colour's points of the bank in force (R125). -/
def linear (tab : Option (List Nat)) (x : Nat) : Nat :=
  match tab with
  | none => linIdentity x
  | some t => linTable t x

/-! ### Coefficient entries (Table 7.1) -/

/-- The entry in a 64-bit word; a word with a reserved bit set is loaded as 0 (Table 7.1). -/
def Coef.ofWord (w : Nat) : Coef :=
  if bitsOf w 63 57 ≠ 0 then ⟨0, 0, 0, 0, false⟩
  else ⟨sgn 16 (bitsOf w 15 0), sgn 16 (bitsOf w 31 16), sgn 16 (bitsOf w 47 32), bitsOf w 55 48, bit w 56⟩

/-- The 64-bit word of an entry. -/
def Coef.toWord (c : Coef) : Nat :=
  twos 16 c.cr + twos 16 c.cg * 2 ^ 16 + twos 16 c.cb * 2 ^ 32 + (c.ofs % 256) * 2 ^ 48 + b2n c.off * 2 ^ 56

/-- The bypass entry of a lamp of colour `col` (R152). -/
def Coef.bypass (col : Nat) : Coef :=
  ⟨if col = 0 then 8192 else 0, if col = 1 then 8192 else 0, if col = 2 then 8192 else 0, 0, false⟩

/-- The dither threshold of a pixel, colour and plan DCN; 128 while dithering is off (R151). -/
def ditherTh (en : Bool) (px py col d : Nat) : Nat :=
  if !en then 128
  else
    let bx := (px + 3 * col + d % 16) % 16
    let by_ := (py + 5 * col + d / 16 % 16) % 16
    let a := Nat.xor bx by_
    (List.range 4).foldl (fun th b => th + bitsOf a b b * 2 ^ (7 - 2 * b) + bitsOf bx b b * 2 ^ (6 - 2 * b)) 0

/-- The correction of one lamp (R150). -/
def correct (c : Coef) (y : Nat × Nat × Nat) (th : Nat) : Nat :=
  let acc : Int := c.cr * y.1 + c.cg * y.2.1 + c.cb * y.2.2
  let a : Int := acc / 32
  if c.off || a ≤ 0 then 0
  else min ((a + (c.ofs * 4096 : Nat) + th) / 256).toNat 0xFFFFFF

/-- The overlay blend of one lamp (R136). -/
def overlay (s o walpha pa : Nat) : Nat :=
  let a := (walpha * pa + 127) / 255
  (s * (255 - a) + o * a + 127) / 255

/-! ### Zones and blends -/

/-- The set pair and factor of a zone (R161): (k, f). -/
def zoneSel (fix : Option Nat) (n : Nat) (ref : List Int) (tz : Int) : Nat × Nat :=
  match fix with
  | some k => (k, 0)
  | none =>
    if tz ≤ nth ref 0 0 then (0, 0)
    else if nth ref (n - 1) 0 ≤ tz then (n - 1, 0)
    else
      let k := (List.range n).foldl (fun m i => if nth ref i 0 ≤ tz then i else m) 0
      let span := nth ref (k + 1) 0 - nth ref k 0
      (k, ((tz - nth ref k 0) * 256 / span).toNat)

/-- The blend of two entries (R162). -/
def blendCoef (lo hi : Coef) (f : Nat) : Coef :=
  let g (a b : Int) : Int := a + ((b - a) * f + 128) / 256
  ⟨g lo.cr hi.cr, g lo.cg hi.cg, g lo.cb hi.cb, (g lo.ofs hi.ofs).toNat,
    if f = 0 then lo.off else lo.off || hi.off⟩

/-! ### Pattern drawing (Table 6.2) -/

/-- The empty pixel. -/
def Px.zero : Px := ⟨0, 0, 0, 0⟩

/-- A component of a gradient: C division truncates toward zero (R9). -/
def gradC (a b : Nat) (t n : Nat) : Nat :=
  if n = 0 then a else ((a : Int) + Int.tdiv (((b : Int) - a) * t + (n / 2 : Nat)) n).toNat

/-- Draw on every pixel of region (x0, y0, x1, y1) clipped to the W × H grid: `f` gives the new pixel, or none to leave it. -/
def drawRegion (w h : Nat) (rg : Nat × Nat × Nat × Nat) (f : Nat → Nat → Option Px) (img : List Px) : List Px :=
  img.zipIdx.map fun (p, i) =>
    let x := i % w
    let y := i / w
    if w = 0 ∨ h = 0 then p
    else if rg.1 ≤ x ∧ x ≤ rg.2.2.1 ∧ rg.2.1 ≤ y ∧ y ≤ rg.2.2.2 then (f x y).getD p else p

/-- The pixel of a CLIP instruction at (x, y) (Table 6.2): `c` the clip, `fr` its frame. -/
def clipPx (c : Clip) (fr : Nat) (wrap : Bool) (x0 y0 : Nat) (xo yo dx dy : Int) (fc x y : Nat) : Option Px :=
  let cx : Int := (x : Int) - x0 - (xo + fc * dx)
  let cy : Int := (y : Int) - y0 - (yo + fc * dy)
  let px (i j : Nat) : Option Px := (nth c.frames fr [])[j * c.width + i]?
  if wrap then px (cx % c.width).toNat (cy % c.height).toNat
  else if 0 ≤ cx ∧ cx < c.width ∧ 0 ≤ cy ∧ cy < c.height then px cx.toNat cy.toNat else none

end Sys2Proof.Machine
end

