-- ==== Sys2Proof/Machine/Reckon.lean ====
section
/-! DEFINITION. The tile's reckoning of the next cycle start (R107 to R110), and of the spans until a window opens (R19, R190). -/

namespace Sys2Proof.Machine

/-- A cycle start: its grain, `acc` (R107), DCN, whether a beat makes it and with RESYNC semantics. -/
structure CycNext where
  g : Nat
  acc : Nat
  dcn : Nat
  beat : Bool
  resync : Bool
  deriving DecidableEq, Repr

/-- The nearest grain of a time in 1/65,536 grain; a tie is later. -/
def nearGrain (a : Nat) : Nat := (a + 0x8000) / 65536

namespace State

/-- Change the time state. -/
def modTim (s : State) (f : TimeSt → TimeSt) : State := { s with tim := f s.tim }

/-- TIME_STAT.STATE: 0 STOPPED, 1 WAITING, 2 LOCKED, 3 HOLDOVER, 4 FREERUN. -/
def gen (s : State) : Nat := s.fg TIME_STAT_STATE

/-- SOURCE is free-run. -/
def freeRun (s : State) : Bool := s.fg TIME_LOCK_SOURCE == 1

/-- PTP_STAT.STATE: 0 DISABLED, 1 LISTENING, 2 ACQUIRING, 3 LOCKED, 4 HOLDOVER, 5 FREERUN. -/
def servo (s : State) : Nat := s.fg PTP_STAT_STATE

/-- The period in force, in 1/65,536 grain. -/
def period (s : State) : Nat := s.fg TIME_PER_G_GRAINS * 65536 + s.fg TIME_PER_F_FRAC

/-- The grain of a wall-time instant. -/
def grainOf (s : State) (t : Nat) : Int := (t : Int) - s.tim.wallOff

/-- The time in 1/65,536 grain, wrapped at 64 bits to `m` (R107), that lies nearest `near`. -/
def unwrap64 (near m : Nat) : Nat :=
  let d := (m + 2 ^ 64 - near % 2 ^ 64) % 2 ^ 64
  if d < 2 ^ 63 then near + d else near + d - 2 ^ 64

/-- The start of the cycle in progress, in 1/65,536 grain of timebase time. -/
def accAbs (s : State) : Nat := unwrap64 (s.now * 65536) s.tim.acc

/-- The held beat with the earliest T that satisfies `p`. -/
def firstHeld (s : State) (p : Held → Bool) : Option Held :=
  s.tim.held.foldl (fun b h => if p h then match b with
    | some y => if h.t < y.t then some h else some y
    | none => some h
  else b) none

/-- The start that a held beat makes; never before the present grain. -/
def beatStart (s : State) (h : Held) (resync : Bool) : CycNext :=
  let g := max s.now (s.grainOf h.t).toNat
  ⟨g, g * 65536 % 2 ^ 64, h.dcn, true, resync⟩

/-- The start on the tile's own reckoning; from FREERUN without a cycle in progress, at the next span boundary (Table 5.4). -/
def ownStart (s : State) : CycNext :=
  if s.tim.running then
    let acc := s.accAbs + s.period
    ⟨nearGrain acc, acc % 2 ^ 64, add32 s.dcn 1, false, false⟩
  else
    let g := ceilDiv s.now 32 * 32
    ⟨g, g * 65536 % 2 ^ 64, if s.tim.cycled then add32 s.dcn 1 else 0, false, false⟩

/-- The next cycle start as it stands now; none while the generator is STOPPED, or WAITING without a beat. -/
def nextCycle (s : State) : Option CycNext :=
  let lim : Int := nearGrain (s.accAbs + 2 * s.period)
  let early (h : Held) : Bool := decide (s.grainOf h.t < lim)
  match s.gen with
  | 0 => none
  | 1 => (s.firstHeld fun _ => true).map fun h => s.beatStart h true
  | 2 =>
    let n := add32 s.dcn 1
    some (match s.firstHeld fun h => if h.resync then early h else h.dcn == n with
      | some h => s.beatStart h h.resync
      | none => s.ownStart)
  | _ =>
    if s.freeRun && s.gen == 4 then some s.ownStart
    else
      let pick := if s.servo = 3 ∧ s.tim.running then s.firstHeld early else none
      some (match pick with
        | some h => s.beatStart h true
        | none => s.ownStart)

/-- Spans until window `w` opens, counting the one in progress, while its directory read lies behind (R19): 1 or 2. The read for a
window that opens the next cycle is made in the dark tail, two spans before the start that the timebase foresees. -/
def opensIn (s : State) (w : Nat) : Option Nat :=
  let first := winFirst s.regs w * s.fg SCAN_RATIO_ROWS
  let at_ := s.scan.sweep * s.fg SCAN_RATIO_ROWS + s.scan.span
  if !s.tim.running then none
  else if first = 0 then
    match s.nextCycle with
    | some c =>
      if c.g ≤ s.scan.startAt + s.spanLen then some 1 else if c.g ≤ s.scan.startAt + 2 * s.spanLen then some 2 else none
    | none => none
  else if first = at_ + 1 then some 1
  else if first = at_ + 2 then some 2
  else none

/-- The plan that the directory read for window `w`'s next occurrence has taken, when that read is made. -/
def readPlan (s : State) (w : Nat) : Option Plan := match s.opensIn w with
  | some 1 => nth s.scan.seenPrev w none
  | some _ => nth s.scan.seenCur w none
  | none => none

end State

end Sys2Proof.Machine
end

