-- ==== Sys2Proof/Machine/Feeds.lean ====
section
/-! DEFINITION. Feeds and windows (chapter 6): sets and their completion (R123 to R130), the release of a job for a new frame
(R131), bindings (R135) and the palette and de-gamma a job reads. A picture's bytes are held as the cells written so far. -/

namespace Sys2Proof.Machine

/-- A feed with every set FREE. -/
def Feed.empty : Feed := ⟨[], [none, none, none, none], 0, false, 0⟩

/-- An engine that is idle, as at reset. -/
def Patt.idle : Patt := ⟨List.replicate 4 Px.zero, none, false, false, 0, 0, false, none, 0, [], false, 0⟩

/-- Byte `k` of a picture has been written. -/
def written (m : Cells Byte) (k : Nat) : Bool := m.any fun x => x.1 == k

/-- A set can still complete: a picture misses bytes and its DCN has not passed. -/
def FSet.open_ (x : FSet) : Bool := !x.late && x.pics.any fun p => !p.done

/-- One byte at offset `o` of the frame; a byte written twice keeps its first value (R128). -/
def FSet.put (x : FSet) (o : Nat) (v : Byte) : FSet :=
  if x.b = 0 then x
  else { x with pics := modAt x.pics (o / x.b) fun p =>
    if p.done || written p.bytes (o % x.b) then p else { p with bytes := cins p.bytes (o % x.b) v } }

/-- Bytes from offset `o` on. -/
def FSet.putAll (x : FSet) (o : Nat) : List Byte → FSet
  | [] => x
  | v :: vs => (x.put o v).putAll (o + 1) vs

/-- Numbers of the pictures that have just all their bytes. -/
def FSet.fresh (x : FSet) : List Nat :=
  (x.pics.zipIdx.filter fun p => !p.1.done && p.1.bytes.length == x.b).map (·.2)

/-- Mark pictures complete. -/
def FSet.finish (x : FSet) (ps : List Nat) : FSet := { x with pics := ps.foldl (fun l p => modAt l p fun y => { y with done := true }) x.pics }

/-- Whether a job's or plan's input is a picture of set `i` of feed `n`. -/
def JobIn.reads (j : JobIn) (n i : Nat) : Bool := match j.src with
  | .feed m _ _ _ k _ => m == n && k == i
  | _ => false

/-- DCNs for which the frames of an input are promised. -/
def JobIn.frames (j : JobIn) : List Nat :=
  (match j.src with
    | .feed _ _ d _ _ _ => [d]
    | .patt _ d _ => [d]
    | .dark => []) ++ (match j.ovl with
    | some (_, d, _) => [d]
    | none => [])

namespace State

/-- Directory entry of window `w`. -/
def dirOf (s : State) (w : Nat) : Dir := nth s.pix.dir w ⟨none, none⟩

/-- Feed `n`. -/
def feed (s : State) (n : Nat) : Feed := nth s.feeds n Feed.empty

/-- Change feed `n`. -/
def modFeed (s : State) (n : Nat) (f : Feed → Feed) : State := { s with feeds := modAt s.feeds n f }

/-- B in force (R123). -/
def feedB (s : State) (n : Nat) : Nat := picBytes s.wmap.pmap (s.fgi FEED_FMT_FORMAT n)

/-- A plan, a plan that a directory read has taken, or a job in flight was computed from set `i` of feed `n` (R129). -/
def feedUsed (s : State) (n i : Nat) : Bool :=
  (s.pix.dir.any fun x => (x.cur.any (·.inp.reads n i)) || (x.pend.any (·.inp.reads n i))) ||
  s.pix.jobs.any (·.inp.reads n i) || (List.range 16).any fun w => s.winOn w && (s.readPlan w).any (·.inp.reads n i)

/-- Free the sets that meet R129. -/
def feedTidy (s : State) (n : Nat) : State :=
  s.modFeed n fun f => { f with sets := f.sets.filter fun x =>
    x.open_ || (f.newest.zipIdx.any fun y => y.1 == some x.dcn && (nth x.pics y.2 ⟨[], false⟩).done) || s.feedUsed n x.id }

/-- Free what can be freed of every feed. -/
def feedTidyAll (s : State) : State := (List.range 16).foldl State.feedTidy s

/-- FEED_NEWDCN: the DCN of the newest complete picture, 0 with none. -/
def feedNewDcn (s : State) (n : Nat) : Nat :=
  ((s.feed n).newest.foldl (fun b x => match x, b with
    | some d, some y => if dcnFuture d y then some d else some y
    | some d, none => some d
    | none, b => b) none).getD 0

/-- The pending plan of window `w` was computed from a frame promised before `d` whose occurrence has not passed: a later frame's job
is deferred (R131). -/
def mustDefer (s : State) (w d : Nat) : Bool := match (s.dirOf w).pend with
  | some pl =>
    let passed (d0 : Nat) : Bool := (match nth s.pix.readFor w none with
      | some x => x == d0 || dcnFuture x d0
      | none => false) && !(s.scan.occ.any fun o => o.win == w)
    pl.inp.frames.any fun d0 => dcnFuture d d0 && !passed d0
  | none => false

/-- Defer a release of window `w` for new frames. -/
def deferRel (s : State) (w : Nat) (src ovl : Bool) : State :=
  s.modPix fun p =>
    if p.deferred.any fun x => x.win == w then
      { p with deferred := p.deferred.map fun x => if x.win = w then { x with src := x.src || src, ovl := x.ovl || ovl } else x }
    else { p with deferred := p.deferred ++ [⟨w, src, ovl, none⟩] }

/-- Window `w` has a new complete frame promised for `d` (R131). -/
def newFrame (s : State) (w d : Nat) (src ovl : Bool) : State :=
  if s.mustDefer w d then s.deferRel w src ovl else s.releaseFor w src ovl

/-- Kind, index and picture of a window's actual source. -/
def srcAct (s : State) (w : Nat) : Nat × Nat × Nat :=
  (s.fgk WIN_SRC_ACT_KIND 0 w, s.fgk WIN_SRC_ACT_INDEX 0 w, s.fgk WIN_SRC_ACT_PIC 0 w)

/-- DCNs of the frames that a release for new frames is about: the newest of the source, of the overlay engine. -/
def relFrames (s : State) (x : Rel) : List Nat :=
  let a := s.srcAct x.win
  let eng (e : Nat) : Option Nat := (nth s.patts e Patt.idle).newest.map (·.1)
  let src := if a.1 = 1 then nth (s.feed a.2.1).newest a.2.2 none else if a.1 = 2 then eng a.2.1 else none
  let ovl := if s.fgk WIN_OVL_ACT_OKIND 0 x.win = 2 then eng (s.fgk WIN_OVL_ACT_OINDEX 0 x.win) else none
  (if x.src then src.toList else []) ++ if x.ovl then ovl.toList else []

/-- The frames of a release are too early for the window's pending plan (R131). -/
def relHeld (s : State) (x : Rel) : Bool := (s.relFrames x).any (s.mustDefer x.win)

/-- Deferred releases whose obstacle has gone are made (R131). `w` is the window whose occurrence passed or started. -/
def undefer (s : State) (w : Nat) : State :=
  match s.pix.deferred.find? fun x => x.win == w with
  | some x =>
    if s.relHeld x then s
    else (s.modPix fun p => { p with deferred := p.deferred.filter (·.win != w) }).releaseFor w x.src x.ovl
  | none => s

/-- A pending plan has come to window `w`: a job released for a later frame and not started is deferred too (R131). -/
def deferHeld (s : State) (w : Nat) : State :=
  (s.pix.released.filter fun x => x.win == w && s.relHeld x).foldl (fun s x =>
    (s.modPix fun p => { p with released := p.released.filter (· != x) }).deferRel w x.src x.ovl) s

/-! ### Window sources -/

/-- A source can serve (R135). -/
def serves (s : State) (kind idx : Nat) : Bool :=
  if kind = 1 then s.active (pgFEED + idx) && s.fgi FEED_RUN_RUN_ACT idx == 1 && s.tst idx == tACTIVE
  else if kind = 2 then s.active (pgPATT + idx)
  else true

/-- Put a source in WIN_SRC_ACT. -/
def putSrc (s : State) (w kind idx pic fbk : Nat) : State :=
  (((s.fsk WIN_SRC_ACT_KIND 0 w kind).fsk WIN_SRC_ACT_INDEX 0 w idx).fsk WIN_SRC_ACT_PIC 0 w pic).fsk WIN_SRC_ACT_FBK 0 w fbk

/-- The window moves to its fallback; an engine that is not enabled gives dark (R135). -/
def toFallback (s : State) (w : Nat) : State :=
  let k := s.fgk WIN_FBK_FKIND 0 w
  let i := s.fgk WIN_FBK_FINDEX 0 w
  let s := if k = 2 ∧ s.active (pgPATT + i) then s.putSrc w 2 i 0 1 else s.putSrc w 0 0 0 1
  ((s.inc WIN_FBCNT_COUNT 0 1).fault pgWIN 0 0x0410 w w).settle pgWIN

/-- WIN_OVL_ACT on binding (R135). -/
def bindOvl (s : State) (w : Nat) : State :=
  let k := s.fgk WIN_OVL_REQ_OKIND 0 w
  let i := s.fgk WIN_OVL_REQ_OINDEX 0 w
  if k = 2 ∧ s.active (pgPATT + i) then
    ((s.fsk WIN_OVL_ACT_OKIND 0 w 2).fsk WIN_OVL_ACT_OINDEX 0 w i).fsk WIN_OVL_ACT_ALPHA 0 w (s.fgk WIN_OVL_REQ_ALPHA 0 w)
  else ((s.fsk WIN_OVL_ACT_OKIND 0 w 0).fsk WIN_OVL_ACT_OINDEX 0 w 0).fsk WIN_OVL_ACT_ALPHA 0 w 0

/-- The sources of window `w` as one value. -/
def srcKey (s : State) (w : Nat) : List Nat :=
  [s.fgk WIN_SRC_ACT_KIND 0 w, s.fgk WIN_SRC_ACT_INDEX 0 w, s.fgk WIN_SRC_ACT_PIC 0 w, s.fgk WIN_OVL_ACT_OKIND 0 w,
    s.fgk WIN_OVL_ACT_OINDEX 0 w]

/-- Bind the source of window `w` (R135). -/
def bindSrc (s : State) (w : Nat) : State :=
  let k := s.fgk WIN_SRC_REQ_KIND 0 w
  let i := s.fgk WIN_SRC_REQ_INDEX 0 w
  if s.serves k i then s.putSrc w k i (s.fgk WIN_SRC_REQ_PIC 0 w) 0 else s.toFallback w

/-- A write of WIN_SRC_REQ or WIN_OVL_REQ applied, or WIN enabled: bind, and regenerate the window (R135, R15, Table 1.6). -/
def bindWindow (s0 : State) (w : Nat) (src ovl : Bool) : State :=
  let s := if src then s0.bindSrc w else s0
  let s := if ovl then s.bindOvl w else s
  ((if s.srcKey w = s0.srcKey w then s.releaseWin w else s.rebind w).settle pgWIN).feedTidyAll

/-- A window bound to a revoked feed moves to its fallback (R66). -/
def unbindFeed (s : State) (n : Nat) : State :=
  (List.range 16).foldl (fun s w =>
    if s.fgk WIN_SRC_ACT_KIND 0 w = 1 ∧ s.fgk WIN_SRC_ACT_INDEX 0 w = n then ((s.toFallback w).rebind w).feedTidyAll else s) s

/-! ### Records of a feed -/

/-- Complete pictures of feed `n`, DCN `d`, are noted and their windows get a new frame (R128, R131). -/
def picsDone (s : State) (n d : Nat) (ps : List Nat) : State :=
  ps.foldl (fun s p =>
    let s := (s.inc FEED_CNT0_COMPLETE n 1).fsi FEED_STAT_STALE n 0
    let later := match nth (s.feed n).newest p none with
      | some x => dcnFuture d x
      | none => true
    let s := s.modFeed n fun f => { f with got := true, quiet := 0, newest := if later then modAt f.newest p fun _ => some d else f.newest }
    (List.range 16).foldl (fun s w =>
      let a := s.srcAct w
      if a.1 = 1 ∧ a.2.1 = n ∧ a.2.2 = p then s.newFrame w d true false else s) s) s

/-- The DCN in force at this instant: at the grain of the next cycle start it is already that cycle's, and the deadline of R128 has
passed (Table 6.3). -/
def dcnHere (s : State) : Nat := match s.nextCycle with
  | some c => if s.tim.running && decide (c.g ≤ s.now) then c.dcn else s.dcn
  | none => s.dcn

/-- One verified record of a running feed (R123, R126 to R128): `d` its DCN, `o` its offset in the tile's frame. -/
def feedRecord (s0 : State) (n d o : Nat) (data : List Byte) : State :=
  let s := s0.feedTidy n
  let q := sub32 d s.dcnHere
  if 4 < q ∧ q < 2 ^ 31 then s.inc FEED_CNT1_FUTURE n 1
  else if 2 ^ 31 ≤ q then s.inc FEED_CNT1_PAST n 1
  else
    let old := (s.feed n).sets.find? fun x => x.dcn == d && !x.late
    let fpc := match old with
      | some x => x.fpc
      | none => s.fgi FEED_FMT_FPC n
    let b := match old with
      | some x => x.b
      | none => s.feedB n
    if fpc * b < o + data.length then s.inc FEED_CNT1_RANGE n 1
    else match old with
      | none =>
        if 3 ≤ (s.feed n).sets.length then (s.inc FEED_CNT1_NOBUF n 1).fault (pgFEED + n) 2 0x4410 d n
        else
          let x := (⟨(s.feed n).claims, d, s.fgi FEED_FMT_FORMAT n, fpc, b, List.replicate fpc ⟨[], false⟩, false⟩ : FSet).putAll o data
          let s := s.modFeed n fun f => { f with sets := f.sets ++ [x.finish x.fresh], claims := f.claims + 1 }
          (s.picsDone n d x.fresh).feedTidy n
      | some x0 =>
        let x := x0.putAll o data
        let s := s.modFeed n fun f => { f with sets := f.sets.map fun y => if y.dcn = d ∧ !y.late then x.finish x.fresh else y }
        (s.picsDone n d x.fresh).feedTidy n

/-- Sets become late: `pass` picks them; their incomplete pictures are discarded and counted (R128). -/
def feedLate (s : State) (n : Nat) (pass : FSet → Bool) : State :=
  (s.feed n).sets.foldl (fun s x =>
    if x.open_ && pass x then
      let miss := (x.pics.filter fun p => !p.done).length
      let s := s.modFeed n fun f => { f with sets := f.sets.map fun y => if y = x then { y with late := true } else y }
      (s.inc FEED_CNT0_LATE n miss).fault (pgFEED + n) 0 0x6410 x.dcn n
    else s) s

/-- Staleness at the end of a display cycle (R130): the count reaches STALE, or STALE was lowered to it. -/
def feedStale (s : State) (n : Nat) : State :=
  let f := s.feed n
  let lim := s.fgi FEED_LATE_STALE n
  if s.fgi FEED_RUN_RUN_ACT n = 1 ∧ lim ≠ 0 ∧ !f.got then
    let s := s.modFeed n fun f => { f with quiet := f.quiet + 1 }
    if lim ≤ f.quiet + 1 ∧ (f.quiet < lim ∨ s.fgi FEED_STAT_STALE n = 0) then
      (s.fsi FEED_STAT_STALE n 1).fault (pgFEED + n) 1 0x6411 n n
    else s
  else s.modFeed n fun f => { f with quiet := 0 }

/-- Staleness of every feed at the end of a display cycle. -/
def feedsStale (s : State) : State := (List.range 16).foldl State.feedStale s

/-- DCN `s.dcn` starts: the deadline of R128, and the next cycle's count of R130. -/
def feedsCycle (s : State) : State :=
  (List.range 16).foldl (fun s n =>
    ((s.feedLate n fun x => dcnFuture s.dcn x.dcn).modFeed n fun f => { f with got := false }).feedTidy n) s

/-- Releases for a new frame of feed `n` that a discarded picture gave rise to are withdrawn (Table 6.3): a deferred one stays only for a
picture later than the window's pending plan. -/
def dropDiscarded (s : State) (n : Nat) : State :=
  let of (x : Rel) : Bool := (s.srcAct x.win).1 == 1 && (s.srcAct x.win).2.1 == n
  s.modPix fun p => { p with
    deferred := (p.deferred.map fun x => if of x && !s.relHeld { x with ovl := false } then { x with src := false } else x).filter
      fun x => x.src || x.ovl,
    released := p.released.map fun x => if of x then { x with src := false } else x }

/-- RUN_ACT follows RUN_REQ on enabling and on a write of RUN_REQ (R129). -/
def feedRunAct (s : State) (n : Nat) : State :=
  (s.fsi FEED_RUN_RUN_ACT n (b2n (s.fgi FEED_RUN_RUN_REQ n == 1 && s.active (pgFEED + n) && s.tst n == tACTIVE))).settle (pgFEED + n)

/-- A revocation frees every set (R66, R129). -/
def feedRevoke (s : State) (n : Nat) : State := ((s.fsi FEED_RUN_RUN_ACT n 0).settle (pgFEED + n)).modFeed n fun f => { Feed.empty with claims := f.claims }

/-- FEED_FMT changed at DCN `s.dcn` while sets exist for it or later (Table 6.3). -/
def feedFmtChanged (s : State) (n : Nat) : State :=
  let gone (x : FSet) : Bool := x.dcn == s.dcn || dcnFuture x.dcn s.dcn
  let s := s.feedLate n gone
  let s := s.modFeed n fun f =>
    let sets := f.sets.map fun x => if gone x then { x with late := true, pics := x.pics.map fun p => { p with done := false } } else x
    let best (p : Nat) : Option Nat := sets.foldl (fun b x =>
      if (nth x.pics p ⟨[], false⟩).done then match b with
        | some y => if dcnFuture x.dcn y then some x.dcn else b
        | none => some x.dcn
      else b) none
    { f with sets := sets, newest := (List.range 4).map best }
  (if (s.feed n).sets.any gone then s.dropDiscarded n else s).feedTidy n

end State

/-! ### What a job reads of a feed -/

/-- The palette of feed `n`: an index at or above LEN is black (R124, R145). -/
def paletteOf (r : Regs) (n : Nat) : List (Nat × Nat × Nat) :=
  let len := rfgetB r (32 + n) PAL_LEN_LEN 0 0
  let wd (k : Nat) : Nat := rget r (32 + n) pgPAL (0x400 + 4 * k)
  (List.range 256).map fun i =>
    let a := wd (i / 2 * 3)
    let b := wd (i / 2 * 3 + 1)
    let c := wd (i / 2 * 3 + 2)
    if len ≤ i then (0, 0, 0)
    else if i % 2 = 0 then (a / 2 ^ 16, a % 2 ^ 16, b / 2 ^ 16)
    else (b % 2 ^ 16, c / 2 ^ 16, c % 2 ^ 16)

/-- The de-gamma tables in force for feed `n`; none is identity (R125, Table 6.5). -/
def degammaOf (r : Regs) (n : Nat) : Option (List (List Nat)) :=
  if rfget r FEED_DG_MODE n 0 = 1 then
    let base := 0x200 + 0x600 * rfget r FEED_DG_BANK n 0
    some ((List.range 3).map fun c => (List.range 113).map fun k => rget r 0 (pgFEED + n) (base + 0x1C4 * c + 4 * k) % 2 ^ 24)
  else none

end Sys2Proof.Machine
end

