-- ==== Sys2Proof/Machine/Link.lean ====
section
/-! DEFINITION. The Basius link (chapter 4): ports and roles (R75, R76), reception and its drops (R77 to R80), forwarding (R82 to
R85), FEED frames (R86, R87, R93), enumeration, heartbeats and reports (R88, R89), path selection (R90), EVENT frames (R92), and
the keys that authenticate frames (R81, R317). A key is a number that names it; a tag is valid when it was made under the key
the part selects. -/

namespace Sys2Proof.Machine

/-! ### Keys -/

/-- The key of a frame for DCN `d`: the pending one from its ACTDCN on, else the current one; 0 is none (R317). -/
def KeySlot.at_ (k : KeySlot) (d : Nat) : Nat :=
  let cur := (k.cur.map (·.2)).getD 0
  match k.pend with
  | some (_, key, act) => if sub32 d act < 2 ^ 31 then key else cur
  | none => cur

/-- No key. -/
def KeySlot.empty : KeySlot := ⟨none, none⟩

/-- No keys. -/
def SlotKeys.empty : SlotKeys := ⟨0, [KeySlot.empty, KeySlot.empty, KeySlot.empty]⟩

namespace State

/-- Keys of slot `n`. -/
def slotKeys (s : State) (n : Nat) : SlotKeys := nth s.keys n SlotKeys.empty

/-- Chain key of kind `k` (0 feed, 1 beat, 2 enumeration) of slot `n`. -/
def chainKey (s : State) (n k : Nat) : KeySlot := nth (s.slotKeys n).kinds k KeySlot.empty

/-- A tag made under `key` passes under the key selected for DCN `d`. -/
def keyOk (s : State) (n k d key : Nat) : Bool := key != 0 && (s.chainKey n k).at_ d == key

/-! ### Ports -/

/-- Port `p`. -/
def port (s : State) (p : Nat) : Port := nth s.lnk.ports p ⟨true, false, 0, 0, 0, 0⟩

/-- Change port `p`. -/
def modPort (s : State) (p : Nat) (f : Port → Port) : State :=
  { s with lnk := { s.lnk with ports := modAt s.lnk.ports p f } }

end State

/-- A port is used in a role (Table 4.3). -/
def portUsed (role p : Nat) : Bool :=
  decide (p < 2) || (p == 2 && role < 2) || (p == 3 && (role == 1 || role == 2))

/-- The port along the path (R77). -/
def partner (p : Nat) : Nat := if p < 2 then p + 2 else p - 2

/-- Types that run DOWN (Table 4.5). -/
def typeDown (t : Nat) : Bool := t == 1 || t == 2 || t == 5 || t == 6 || t == 7 || t == 9

/-- A TYPE of Table 4.5. -/
def typeKnown (t : Nat) : Bool := decide (1 ≤ t) && decide (t ≤ 10)

/-- The FIRST and LAST rule of each type (Table 4.5, R80). -/
def rangeOk (f : Frame) : Bool :=
  if f.typ = 1 ∨ f.typ = 5 then decide (f.first ≤ f.last)
  else if f.typ = 7 then f.first == 0 && f.last == 0xFFF
  else if f.typ = 6 then true
  else f.first == f.last

/-- The header faults of R79 other than HCRC and HOP. -/
def headerBad (f : Frame) : Bool :=
  f.ver != 1 || !typeKnown f.typ || f.resv || decide (0xFFF < f.first) || decide (0xFFF < f.last) ||
  (if f.typ = 1 then !(decide (1 ≤ f.nrec) && decide (f.nrec ≤ 64)) else f.nrec != 0) ||
  f.dir != b2n (decide (2 ≤ f.port.val)) || typeDown f.typ != (f.dir == 0)

/-- Room for a MGMT or SESSION frame: 9 KB of its slot's reserve hold one at all times (R93). -/
def mgmtRoom (f : Frame) : Bool := !f.ing.mgmt && decide (f.len ≤ 9216)

namespace State

/-- ROLE in force. -/
def role (s : State) : Nat := s.fg CH_ROLE_ROLE

/-- The port passes frames. -/
def passes (s : State) (p : Nat) : Bool := s.active (pgLNK + p) && s.fgi LNK_STAT_UP p == 1

/-- Own tile ID in force for DOWN frames: none while it is not valid or CHAIN is disabled (R82). -/
def ownId (s : State) : Option Nat :=
  if s.fg CH_TILE_VALID = 1 ∧ s.active pgCHAIN then some (s.fg CH_TILE_ID) else none

/-- PATH_ACT. -/
def pathAct (s : State) : Nat := s.fg CH_PATH_PATH_ACT

/-- A frame leaves on port `q`: counted when the port passes frames. -/
def transmit (s : State) (q : Nat) (o : Out) : State :=
  if s.passes q then (s.inc LNK_TXFR_COUNT q 1).emit o else s

/-- Header and envelope of an UP frame that the tile sends now (R77, R78): the own ID is the tile ID register's, HOP is 0. -/
def upHdr (s : State) (typ tenant : Nat) (resent : Bool) (seq blen : Nat) : UpHdr :=
  let id := s.fg CH_TILE_ID
  let h := [0x18, typ, b2n resent * 16 + tenant, 0] ++ be 2 id ++ be 2 id ++ be 4 s.dcn ++ be 8 s.lnk.fctr ++ be 2 seq ++ be 2 blen ++
    [0, 0, 0, 0]
  { eth := be 2 (s.fg CH_UPDA_H) ++ be 4 (s.fg CH_UPDA_L) ++ [2, 0, 0, 0, id / 256, id % 256] ++ be 2 (s.fg CH_ETYPE_ETYPE),
    bytes := h ++ be 4 (crc32c h), pad := 64 - (14 + 32 + blen + 4),
    nonce := if typ = 3 ∨ typ = 4 then be 8 s.lnk.fctr ++ be 2 id ++ [typ, 0] else [] }

/-- Send an UP frame of the tile's own on port `p`: no FCTR is used twice (R81). -/
def sendUp (s : State) (p : Nat) (h : UpHdr) (o : UpHdr → Out) : State :=
  ({ s with lnk := { s.lnk with fctr := s.lnk.fctr + 1 } }).transmit p (o h)

/-- A frame from port `p` leaves on its partner, when that is used; a frame whose FCS fails leaves with the FCS of R84. -/
def relay (s : State) (f : Frame) (hop : Nat) : State :=
  let q := partner f.port.val
  if !portUsed s.role q then s
  else
    let s := s.transmit q (.fwd f.port.val q f.typ hop (!f.fcsOk))
    if f.fcsOk then s else s.inc LNK_HOPS_STOMP f.port.val 1

/-- A frame that is neither Basius nor PTP (R77, Table 4.2): PAUSE is always dropped. -/
def foreign (s : State) (f : Frame) : State :=
  if s.fg CH_FOREIGN_FWD = 1 ∧ f.etype ≠ 0x8808 then s.relay f f.hop else s.inc LNK_DROP_FOREIGN f.port.val 1

/-- The pruning of R82. -/
def goesOn (s : State) (f : Frame) : Bool :=
  match s.ownId with
  | none => true
  | some own => f.typ == 6 || f.typ == 7 || if f.port.val = 0 then decide (own < f.last) else decide (f.first < own)

/-- What RS-FEC met while a frame came on an aligned port (R96). -/
def fecSeen (s : State) (p : Nat) (f : Frame) : State :=
  if s.fgi LNK_STAT_ALIGN p = 0 then s
  else
    let s := (s.inc LNK_FECCOR_COUNT p f.fecCor).inc LNK_FECUNC_COUNT p f.fecUnc
    if f.fecUnc = 0 then s else s.faultBit (pgLNK + p) 2

/-- Reception of one frame (R77, R79, R80, R82, R84, R85): time, counters, drops and forwarding. True when its header passed. -/
def rxHead (s0 : State) (f : Frame) : State × Bool :=
  let p := f.port.val
  if !s0.passes p then (s0, false)
  else
    let s := ((s0.advance f.at_).inc LNK_RXFR_COUNT p 1).fecSeen p f
    let s := if f.fcsOk then s else s.inc LNK_FCSERR_COUNT p 1
    if f.etype ≠ s.fg CH_ETYPE_ETYPE ∨ f.etype = 0 then (s.foreign f, false)
    else if s.fg CH_MAXFR_BYTES < f.len then (s.inc LNK_HDRERR_FORMAT p 1, false)
    else if !f.hcrcOk then (s.inc LNK_HDRERR_HCRC p 1, false)
    else if headerBad f then (s.inc LNK_HDRERR_FORMAT p 1, false)
    else if 64 ≤ f.hop then ((s.inc LNK_HOPS_HOPLIM p 1).fault pgCHAIN 2 0x7213 p p, false)
    else if !rangeOk f then (s.inc LNK_HDRERR_FORMAT p 1, false)
    else if 2 ≤ p ∨ s.goesOn f then (s.relay f (f.hop + 1), true)
    else (s, true)

/-- Reception of a DOWN frame of type `t`; true when its body may be consumed: FCS passed, CHAIN enabled, right type. -/
def rxDown (s : State) (f : Frame) (t : Nat) : State × Bool :=
  let (s, ok) := s.rxHead f
  (s, ok && f.fcsOk && f.typ == t && s.active pgCHAIN && decide (f.port.val < 2))

/-! ### Reports, heartbeats and paths -/

/-- Send a REPORT (Table 4.9). -/
def report (s : State) (p reason : Nat) : State :=
  let id := s.fg CH_TILE_VALID * 2 ^ 15 + s.fg CH_TILE_ID
  let pos := s.fg CH_POS_VALID * 2 ^ 7 + s.fg CH_POS_POS
  let st := s.fg CH_PATH_AUTOSW * 8 + s.pathAct * 4 + s.role
  let sp := sumNat ((List.range 4).map fun k => s.fgi LNK_STAT_SPEED_ACT k * 4 ^ k)
  s.sendUp p (s.upHdr 8 0 false 0 24) fun h =>
    .report h p reason (s.fg SYS_UID1 * 2 ^ 32 + s.fg SYS_UID0) id pos st (s.fgi LNK_FWDLAT_LAT 0) (s.fgi LNK_FWDLAT_LAT 1) sp

/-- Heartbeat of port `p` is valid. -/
def hbOk (s : State) (p : Nat) : Bool := (s.port p).hb

/-- Switchover when the active heartbeat is invalid and the other one valid (R90). -/
def pathCheck (s : State) : State :=
  let a := s.pathAct
  let o := 1 - a
  if s.fg CH_PATH_AUTOSW = 1 ∧ !s.hbOk a ∧ s.hbOk o then
    ((((((s.fs CH_PATH_PATH_ACT o).settle pgCHAIN).faultBit pgCHAIN 0).inc CH_SWCNT_COUNT 0 1).ev pgCHAIN 0x0210 o kInfo 0).report o 1)
  else s

/-- The heartbeat of port `p` becomes invalid (R89, R90). -/
def hbLost (s : State) (p : Nat) : State :=
  if !s.hbOk p then s
  else
    let s := ((s.modPort p fun x => { x with hb := false }).fsi LNK_STAT_HB_OK p 0).faultBit (pgLNK + p) 3
    let s := if !s.hbOk 0 ∧ !s.hbOk 1 then s.fault pgCHAIN 1 0x7210 0 0 else s
    s.pathCheck

/-- A HEARTBEAT arrived on port `p`. -/
def hbSeen (s : State) (p : Nat) : State :=
  let s := (s.modPort p fun x => { x with hb := true, hbAt := s.now, hbSince := if x.hb then x.hbSince else s.now }).fsi
    LNK_STAT_HB_OK p 1
  s.pathCheck

/-- A firkin that writes PATH_REQ has been applied (R90). -/
def pathReqApplied (s : State) : State :=
  let r := s.fg CH_PATH_PATH_REQ
  if s.hbOk r then (s.fs CH_PATH_PATH_ACT r).settle pgCHAIN else s

/-! ### Lock -/

/-- A port starts (R96): seeking begins. -/
def portStart (s : State) (p : Nat) : State :=
  s.modPort p fun x => { x with seek25 := s.fgi LNK_CFG_SPEED_REQ p != 2, noLockAt := s.now }

/-- A port has block lock. -/
def locked (s : State) (p : Nat) : Bool := s.fgi LNK_STAT_BLOCK p == 1

/-- Heartbeats whose port has been without lock for 1 µs become invalid (R89). -/
def hbTick (s : State) : State :=
  [0, 1].foldl (fun s p => if s.hbOk p && !s.locked p && decide ((s.port p).noLockAt + Config.us ≤ s.now) then s.hbLost p else s) s

/-- A port gains lock at a speed it seeks (R75). -/
def lockGained (s : State) (p : Nat) (g25 : Bool) : State :=
  let req := s.fgi LNK_CFG_SPEED_REQ p
  let seeks := if req = 1 then g25 else if req = 2 then !g25 else (s.port p).seek25 == g25
  if !s.active (pgLNK + p) || s.locked p || !seeks then s
  else
    let s := ((s.hbTick.fsi LNK_STAT_BLOCK p 1).fsi LNK_STAT_ALIGN p (b2n g25)).fsi LNK_STAT_SIGDET p 1
    let s := ((s.fsi LNK_STAT_SPEED_ACT p (if g25 then 1 else 2)).fsi LNK_STAT_HIBER p 0).settle (pgLNK + p)
    if s.fgi LNK_CFG_LPBK p ≠ 0 then s
    else
      let s := s.fsi LNK_STAT_UP p 1
      if p < 2 then (s.fsi LNK_FWDLAT_LAT p (if g25 then 0x2400 else 0x1A00)).fsi LNK_FWDLAT_VAR p 0x0C else s

/-- A port stops passing frames: status and latency follow, and seeking begins anew (R75). Its heartbeat goes with the lock, once that has
been lost for 1 µs (`hbTick`). -/
def portDark (s : State) (p : Nat) : State :=
  let s := ((s.fsi LNK_STAT_UP p 0).fsi LNK_STAT_BLOCK p 0).fsi LNK_STAT_ALIGN p 0
  let s := (((s.fsi LNK_STAT_SPEED_ACT p 0).fsi LNK_FWDLAT_LAT p 0).fsi LNK_FWDLAT_VAR p 0).settle (pgLNK + p)
  s.modPort p fun x => { x with noLockAt := s.now, seek25 := s.fgi LNK_CFG_SPEED_REQ p != 2 }

/-- A frame that was being forwarded from port `p` ends with the FCS of R84; STOMP counts it, FCSERR does not, since no FCS arrived (log
entry 66). -/
def cutFrame (s : State) (p : Nat) : State :=
  let q := partner p
  if portUsed s.role q then (s.transmit q (.fwd p q 0 0 true)).inc LNK_HOPS_STOMP p 1 else s

/-- A port loses lock (R84, R89, R96); what its signal detector reads then is left open. -/
def lockLost (s : State) (p : Nat) (mid : Bool) : State :=
  if !s.active (pgLNK + p) || !s.locked p then s
  else
    let s := if mid && s.passes p then s.cutFrame p else s
    let (x, s) := s.free 2
    ((s.fsi LNK_STAT_SIGDET p x).inc LNK_DOWNS_COUNT p 1).fault (pgLNK + p) 0 0x7211 p p |>.portDark p

/-- A port is powered down (R96). -/
def portStop (s : State) (p : Nat) : State :=
  ((s.fsi LNK_STAT_SIGDET p 0).fsi LNK_STAT_HIBER p 0).portDark p

/-- LPBK was written: a port in loopback passes no frames until it regains lock (R96). -/
def loopWritten (s : State) (p : Nat) : State :=
  if s.fgi LNK_CFG_LPBK p ≠ 0 then s.portDark p else s

/-! ### FEED frames (R86, R87, R93) -/

/-- Bytes of a record on the wire. -/
def recBytes (r : FeedRec) : Nat := ceilDiv (24 + r.slen) 4 * 4

/-- Feed sequencers take records: not while the management pair restarts or an activation stops it (Table 2.25, R343). A handover stops it
between two records, and a debug halt leaves feeds alone (Table 16.9, Table 17.8). -/
def feedsUp (s : State) : Bool := s.fab.access || s.upd.stage == 5 || bit (s.fg DBG_STAT_HALTED) 0

/-- The slot's feed records are served (R93). -/
def feedServed (s : State) (n : Nat) : Bool :=
  s.feedsUp && s.tst n == tACTIVE && s.active (pgFEED + n) && s.fgi FEED_RUN_RUN_ACT n == 1

/-- Room for a record of `n` bytes beside what its slot holds: 7 KB of the reserve, then at most 64 KB of the pool (R93). -/
def ingressTakes (i : Ingress) (n : Nat) : Bool :=
  let all := i.own + n
  decide (all ≤ 7168 + 65536) && decide (i.pool + (all - max i.own 7168) ≤ 262144)

/-- The record of this tile: the scan ends at its own TILE or a higher one (R86). -/
def ownRec (own : Nat) : List FeedRec → Option FeedRec
  | [] => none
  | r :: rs => if r.tile = own then some r else if own < r.tile then none else ownRec own rs

/-- This tile's record of a FEED frame received whole on the PATH_ACT port. A record of an old session finds no buffers after the reset
instant: it counts in LNK_DROP.FULL alone (log entry 65). -/
def feedOwn (s : State) (f : Frame) (r : FeedRec) : State :=
  let p := f.port.val
  let n := f.tenant.val
  if r.slen = 0 ∨ 8960 < r.slen then s.inc LNK_HDRERR_FORMAT p 1
  else if !s.feedServed n ∨ ingressTakes f.ing (recBytes r) = false then s.inc LNK_DROP_FULL p 1
  else if !s.keyOk n 0 f.dcn r.key then s.authFail p n
  else
    let s := s.renewSession n
    let s := s.modTen n fun t => { t with feedBytes := t.feedBytes + r.slen }
    let size := match (s.feed n).sets.find? fun x => x.dcn == f.dcn && !x.late with
      | some x => x.fpc * x.b
      | none => s.fgi FEED_FMT_FPC n * s.feedB n
    let s := if r.slen < s.fg CH_SEGMIN_BYTES ∧ r.offset + r.slen ≠ size then s.inc LNK_SHORT_COUNT p 1 else s
    s.feedRecord n f.dcn r.offset (r.data.take r.slen)

/-- The frame holds fewer records than NREC, or they overrun BLEN (R86). -/
def recsOver (f : Frame) (recs : List FeedRec) : Bool :=
  decide (recs.length < f.nrec) || decide (f.blen < sumNat ((recs.take f.nrec).map recBytes))

/-- A FEED frame: a frame whose records overrun BLEN is dropped whole on the PATH_ACT port. -/
def feedFrame (s : State) (f : Frame) (recs : List FeedRec) : State :=
  let (s1, ok) := s.rxHead f
  let s1 := if ok ∧ f.typ = 1 then s1.modPort f.port.val fun x => { x with down := x.down + sumNat (recs.map (·.slen)) } else s1
  match s1.ownId with
  | none => s1
  | some own =>
    if !(ok && f.fcsOk && f.typ == 1) then s1
    else if recsOver f recs then (if f.port.val = s1.pathAct then s1.inc LNK_HDRERR_FORMAT f.port.val 1 else s1)
    else match ownRec own (recs.take f.nrec) with
      | none => s1
      | some r =>
        let s1 := { s1 with lnk := { s1.lnk with lastRec := s1.now } }
        if f.port.val ≠ s1.pathAct then s1 else s1.feedOwn f r

/-! ### Enumeration -/

/-- An authenticated ENUM (R88). -/
def enumerate (s : State) (f : Frame) : State :=
  let s := (s.fs CH_POS_POS f.hop).fs CH_POS_VALID 1
  let id := f.first + f.hop
  let s := if s.fg CH_TILE_LOCK = 0 ∧ (s.fg CH_TILE_VALID = 0 ∨ f.force = true) ∧ id ≤ 0xFFF then
      ((s.fs CH_TILE_ID id).fs CH_TILE_VALID 1).ev pgCHAIN 0x0212 id kInfo 0
    else s
  s.report s.pathAct 0

/-! ### EVENT frames (R92) -/

/-- The entries of slot `t` that have not been sent, at most 16, in one EVENT frame. The model's choices (log entry 66): entries that came
while DELIVER was 0 stay unsent and are sent once it is 1; SEQ counts from 0 and goes on from one session to the next. -/
def sendEvents (s : State) (t : Nat) : State :=
  let x := s.evq t
  let viaLink := match s.tens[t]? with
    | some y => y.port.isSome
    | none => false
  if s.tst t ≠ tACTIVE ∨ !viaLink ∨ s.fgb (1 + t) EQ_CTRL_DELIVER = 0 ∨ x.unsent = 0 ∨ !s.passes s.pathAct then s
  else
    let n := min 16 x.unsent
    let es := (x.q.drop (x.q.length - x.unsent)).take n
    let s := s.modTen t fun y => { y with evq := { y.evq with unsent := y.evq.unsent - n, seq := (y.evq.seq + 1) % 65536 } }
    s.sendUp s.pathAct (s.upHdr 4 t false x.seq (4 + 16 * n + 16)) fun h => .event h s.pathAct t x.seq (es.map Event.words)

end State

/-! ### Commands -/

/-- FEED_FRAME (R82, R84, R86, R87, R93, R126). -/
def execFeedFrame (f : Frame) (recs : List FeedRec) (s : State) : Ans State := .next (s.begin_.feedFrame f recs)

/-- UP_FORWARD (R85, R79): an UP frame from L2 or L3. -/
def execUpForward (f : Frame) (s : State) : Ans State := .next (s.begin_.rxHead f).1

/-- ENUM (R88): consumed from L0 only; the owner's chain key, current or pending, authenticates it (R317). -/
def execEnum (f : Frame) (key : Nat) (s0 : State) : Ans State :=
  let (s, ok) := s0.begin_.rxDown f 6
  if !ok ∨ f.port.val ≠ 0 then .next s
  else
    let k := s.chainKey 0 2
    let good := key != 0 && (k.cur.any (fun (x : Nat × Nat) => x.2 == key) || k.pend.any (fun (x : Nat × Nat × Nat) => x.2.1 == key))
    if !good then .next (s.authFail 0 f.tenant.val) else .next ((s.renewSession 0).enumerate f)

/-- HEARTBEAT (R89, R85): `req` asks for a REPORT on its port. -/
def execHeartbeat (f : Frame) (req : Bool) (s0 : State) : Ans State :=
  let (s, ok) := s0.begin_.rxDown f 7
  if !ok then .next s
  else
    let s := s.hbSeen f.port.val
    .next (if req then s.report f.port.val 3 else s)

/-- HEARTBEAT_TIMEOUT (R89): TO × 250 µs without a HEARTBEAT on L0 or L1, or 1 µs without lock. -/
def execHeartbeatTimeout (p : Fin 4) (s0 : State) : Ans State :=
  let s := s0.begin_
  if s.hbOk p.val then
    let t := (s.port p.val).hbAt + s.fg CH_HB_TO * 250 * Config.us
    .next ((s.advance (if s.locked p.val then t else min t ((s.port p.val).noLockAt + Config.us))).hbLost p.val)
  else .next s

/-- REVERT (R90): after REVERT seconds of valid heartbeat on the requested port, in a 50 µs interval without a record. -/
def execRevert (s0 : State) : Ans State :=
  let s := s0.begin_
  let r := s.fg CH_PATH_PATH_REQ
  if s.fg CH_PATH_AUTOSW = 1 ∧ s.fg CH_PATH_REVERT ≠ 0 ∧ s.pathAct ≠ r ∧ s.hbOk r then
    let s := s.advance (max ((s.port r).hbSince + s.fg CH_PATH_REVERT * Config.sec) (s.lnk.lastRec + 50 * Config.us))
    .next ((((s.fs CH_PATH_PATH_ACT r).settle pgCHAIN).ev pgCHAIN 0x0211 r kInfo 0).report r 2)
  else .next s

/-- LINK_LOCK (R75): port `p` finds lock at 25G or 10G. -/
def execLinkLock (p : Fin 4) (g25 : Bool) (s : State) : Ans State := .next (s.begin_.lockGained p.val g25)

/-- LOSS_OF_LOCK (R84, R89, R96). -/
def execLossOfLock (p : Fin 4) (mid : Bool) (s : State) : Ans State := .next (s.begin_.lockLost p.val mid)

/-- SPEED_SEEK_TIMEOUT (R75): 200 ms without lock at the speed an auto port seeks. -/
def execSpeedSeekTimeout (p : Fin 4) (s0 : State) : Ans State :=
  let s := s0.begin_
  let k := p.val
  if s.active (pgLNK + k) && !s.locked k && s.fgi LNK_CFG_SPEED_REQ k == 0 then
    let s := s.advance ((s.port k).noLockAt + 200 * Config.ms)
    .next (s.modPort k fun x => { x with seek25 := !x.seek25, noLockAt := s.now })
  else .next s

/-- NOSPEED (R96): a 25G-only port without lock for 1 s. -/
def execNospeed (p : Fin 4) (s0 : State) : Ans State :=
  let s := s0.begin_
  let k := p.val
  if s.active (pgLNK + k) && !s.locked k && s.fgi LNK_CFG_SPEED_REQ k == 1 then
    .next ((s.advance ((s.port k).noLockAt + Config.sec)).fault (pgLNK + k) 4 0x7212 k k)
  else .next s

/-- HIGH_BIT_ERROR_RATE (R96). -/
def execHighBitErrorRate (p : Fin 4) (s0 : State) : Ans State :=
  let s := s0.begin_
  if s.active (pgLNK + p.val) then .next ((s.fsi LNK_STAT_HIBER p.val 1).faultBit (pgLNK + p.val) 1) else .next s

/-- FOREIGN_FRAME (R77, Table 5.1): a frame that is not Basius; a PTP general message of no other row is forwarded unchanged. -/
def execForeignFrame (f : Frame) (s0 : State) : Ans State :=
  let s := s0.begin_
  if f.etype = 0x88F7 ∧ s.passes f.port.val then
    .next (((s.advance f.at_).inc LNK_RXFR_COUNT f.port.val 1).relay f f.hop)
  else .next (s.rxHead f).1

/-- EVENT_FRAME_SEND (R92). -/
def execEventFrameSend (t : Fin 16) (s : State) : Ans State := .next (s.begin_.sendEvents t.val)

end Sys2Proof.Machine
end

