-- ==== Sys2Proof/Machine/Gates.lean ====
section
/-! DEFINITION. The gates of one phase (R227, R229, R231 to R233): the edges that a period commands, the keep-out delay, the interlock, and
the levels that follow from them. -/

namespace Sys2Proof.Machine

/-! ### Levels -/

/-- Levels of a phase's gates, and the grain at which HG last rose. -/
structure GateLv where
  hg : Bool
  lg : Bool
  hgAt : Nat
  deriving DecidableEq, Repr

/-- The levels after an edge. -/
def GateLv.edge (v : GateLv) (x : GateEdge) : GateLv :=
  if x.hs then { v with hg := x.up, hgAt := if x.up && !v.hg then x.at_ else v.hgAt } else { v with lg := x.up }

/-- The levels of a phase's gates at grain `t`. -/
def Phase.gates (p : Phase) (t : Nat) : GateLv :=
  (p.edges.filter fun x => decide (x.at_ ≤ t)).foldl GateLv.edge ⟨p.hg, p.lg, p.hgAt⟩

/-- The phase with the levels it has at grain `t`, and `edges` still to come. -/
def Phase.gatesFrom (p : Phase) (t : Nat) (edges : List GateEdge) : Phase :=
  let v := p.gates t
  { p with hg := v.hg, lg := v.lg, hgAt := v.hgAt, edges := edges }

/-- Both gates low at once. -/
def Phase.gatesLow (p : Phase) : Phase := { p with hg := false, lg := false, edges := [] }

/-- HG low at grain `t`, LG 160 grains later (R237). -/
def Phase.gatesOff (p : Phase) (t : Nat) : Phase :=
  let v := p.gates t
  { p with hg := false, lg := v.lg, hgAt := v.hgAt, edges := if v.lg then [⟨t + 160, false, false⟩] else [] }

/-! ### Order of edges -/

/-- `a` comes before `b`: by grain, and of one grain the falling edge first. -/
def GateEdge.before (a b : GateEdge) : Bool := decide (a.at_ < b.at_) || (a.at_ == b.at_ && !a.up && b.up)

/-- Insert an edge in order. -/
def insertEdge (x : GateEdge) : List GateEdge → List GateEdge
  | [] => [x]
  | y :: l => if x.before y then x :: y :: l else y :: insertEdge x l

/-- Edges in order. -/
def sortEdges (l : List GateEdge) : List GateEdge := l.foldl (fun acc x => insertEdge x acc) []

/-! ### What a period commands -/

/-- Edges of the period from zero `z` to zero `nz` in counter half `h`, from levels `v`. `held`: it is not started; `w`: width of a refresh,
`now`, `next`: centred on `z`, on `nz` (R231). -/
def periodEdges (p : Phase) (z nz h w : Nat) (v : GateLv) (held now next : Bool) : List GateEdge :=
  let fall (hs : Bool) (t : Nat) : GateEdge := ⟨t, hs, false⟩
  let rise (hs : Bool) (t : Nat) : GateEdge := ⟨t, hs, true⟩
  if held then [fall true z]
  else if p.full then
    (if now then [fall false (z + w / 2), rise true (z + w / 2 + p.dtr)]
      else if v.hg then []
      else if v.lg then [fall false z, rise true (z + p.dtr)]
      else [rise true z]) ++
    (if next then [fall true (nz - w / 2 - p.dtf), rise false (nz - w / 2)] else [])
  else if p.d = 0 then [fall true z, fall false z]
  else
    let low := max z (z + h - p.d - p.dtr)
    (if v.hg then fall true z :: (if z + p.dtf < low then [rise false (z + p.dtf)] else []) else []) ++
      [fall false low, rise true (z + h - p.d), fall true (z + h + p.d), rise false (z + h + p.d + p.dtf)]

/-! ### Keep-out (R229) -/

/-- Grains from `t` to the end of the keep-out window that holds it, 0 outside: spans of `sg` grains from `start`, the row selected at
grain `sel`. -/
def keepDelay (start sg sel keep t : Nat) : Nat :=
  let p := (t - start) % sg
  if p < keep then keep - p
  else if sg ≤ p + keep then sg - p + keep
  else if sel ≤ p + keep ∧ p < sel + keep then sel + keep - p
  else 0

/-- Every edge, delayed by its own window and by the delays before it. -/
def delayEdges (f : Nat → Nat) (d : Nat) : List GateEdge → List GateEdge
  | [] => []
  | x :: l => let a := d + f (x.at_ + d); { x with at_ := x.at_ + a } :: delayEdges f a l

/-- The edges before the next zero `nz` with their keep-out delays; none is delayed when the last rise of LG would come within 160 grains of
that zero, which is a miss. -/
def keepOut (f : Nat → Nat) (nz : Nat) (l : List GateEdge) : List GateEdge × Bool :=
  let own := l.filter fun x => decide (x.at_ < nz)
  let late := delayEdges f 0 own
  let miss := (own.zip late).any fun x => !x.1.hs && x.1.up && decide (x.1.at_ < x.2.at_) && decide (nz < x.2.at_ + 160)
  if miss then (l, true) else (late ++ l.filter fun x => decide (nz ≤ x.at_), false)

/-! ### Diode emulation and the interlock -/

/-- LG stays low from grain `t` to the next zero `nz` (R227). -/
def diodeCut (t : Option Nat) (nz : Nat) (l : List GateEdge) : List GateEdge := match t with
  | none => l
  | some t => (l.filter fun x => !(!x.hs && x.up && decide (t ≤ x.at_) && decide (x.at_ < nz))) ++ [⟨t, false, false⟩]

/-- The interlock (R232): of two commands for high, the later rising edge is suppressed and both gates are low for 160 grains; the other
gate is then high again when it is still commanded so. The edges made and the suppressions. -/
def interlock (hg lg : Bool) : List GateEdge → List GateEdge × Nat
  | [] => ([], 0)
  | x :: l =>
    if x.up && (if x.hs then lg else hg) then
      let back := (l.find? fun y => y.hs != x.hs && !y.up).all fun y => decide (x.at_ + 160 < y.at_)
      let r := interlock hg lg l
      (⟨x.at_, true, false⟩ :: ⟨x.at_, false, false⟩ :: ((if back then [⟨x.at_ + 160, !x.hs, true⟩] else []) ++ r.1), r.2 + 1)
    else
      let r := interlock (if x.hs then x.up else hg) (if x.hs then lg else x.up) l
      (x :: r.1, r.2)

end Sys2Proof.Machine
end

