-- ==== Sys2Proof/Machine/Supply.lean ====
section
/-! DEFINITION. The supply stage (chapter 11): rails (Table 11.2), hard stops (R237), phases and their shadows (R227 to R235),
the inner loop (R240), the headroom loop (R241), AUX outputs (R247) and the commands of these rules. Rails and phases are named
by number: rail 0 is VLED_A, 1 VLED_B. -/

namespace Sys2Proof.Machine

/-- Fields of a rail's target and limits. -/
structure RailCfg where
  down : Nat
  up : Nat
  ht : Nat
  vmax : Nat
  vmin : Nat
  deriving DecidableEq, Repr

/-- SUP_RAILx_T and SUP_RAILx_V of a rail. -/
def railCfg (r : Regs) (k : Nat) : RailCfg :=
  if k = 0 then ⟨rfget r SUP_RAILA_T_DOWN 0 0, rfget r SUP_RAILA_T_UP 0 0, rfget r SUP_RAILA_T_HT 0 0,
    rfget r SUP_RAILA_V_VMAX 0 0, rfget r SUP_RAILA_V_VMIN 0 0⟩
  else ⟨rfget r SUP_RAILB_T_DOWN 0 0, rfget r SUP_RAILB_T_UP 0 0, rfget r SUP_RAILB_T_HT 0 0,
    rfget r SUP_RAILB_V_VMAX 0 0, rfget r SUP_RAILB_V_VMIN 0 0⟩

/-- A rail that is OFF. -/
def Rail.off0 : Rail := ⟨0, 0, 0, 0, 0, none, 0, none, 0, none⟩

/-- A phase at reset. -/
def Phase.reset : Phase :=
  ⟨0, 16000, 0, 480, 160, 0, 0, 0, false, 480, 480, 0, [], false, 0, 0, 0, false, false, false, 0, [], 0, none, none, none, false, 0⟩

/-- Tripped periods among a phase's last 1,024 (R233). -/
def Phase.tripCount (p : Phase) : Nat := (p.trips.filter fun t => decide (p.period < t + 1024)).length

/-- A phase that makes no period, in a state. -/
def Phase.idle (p : Phase) (st : Nat) : Phase :=
  { p with st := st, d := 0, next := 0, full := false, trippedNow := false, hold := none, neg := none, evAt := none, refOn := false }

/-- The first grain from `t` on that is a zero of the phase, counted from `ref` (R227). -/
def Phase.gridFrom (p : Phase) (ref t : Nat) : Nat :=
  let r := (ref + p.ofs) % p.per
  let f := t % p.per
  if f ≤ r then t + (r - f) else t + (r + p.per - f)

namespace State

/-- Rail `k`. -/
def rail (s : State) (k : Nat) : Rail := nth s.sup.rails k Rail.off0

/-- Phase `n`. -/
def phase (s : State) (n : Nat) : Phase := nth s.sup.phases n Phase.reset

/-- Change rail `k`. -/
def modRail (s : State) (k : Nat) (f : Rail → Rail) : State :=
  { s with sup := { s.sup with rails := modAt s.sup.rails k f } }

/-- Change phase `n`. -/
def modPhase (s : State) (n : Nat) (f : Phase → Phase) : State :=
  { s with sup := { s.sup with phases := modAt s.sup.phases n f } }

/-- The supply stage is present (SUP_CFG.PRESENT, strap CFG5). -/
def supPresent (s : State) : Bool := s.fg SUP_CFG_PRESENT == 1

/-- Rail a phase serves. -/
def phaseRail (s : State) (n : Nat) : Nat := s.fgi PH_CFG_RAIL n

/-- A phase is runnable (R226). -/
def runnable (s : State) (n : Nat) : Bool :=
  s.active (pgPHASE + n) && s.fgi PH_RUN_RUN_REQ n == 1 && (s.phase n).st != 2 && (s.phase n).st != 3

/-- Numbers of a rail's phases that satisfy `f`. -/
def railPhases (s : State) (k : Nat) (f : Nat → Bool) : List Nat :=
  (List.range 8).filter fun n => s.phaseRail n == k && f n

/-- The conditions under which a rail may leave OFF (Table 11.2). -/
def railMayStart (s : State) (k : Nat) : Bool :=
  s.supPresent && s.active pgSUPPLY && s.lit && s.powered 10 && !s.sup.halt && s.sup.sfltn &&
  !s.hasFault pgSUPPLY 0 && !s.hasFault pgSUPPLY (1 + k) && !s.hasFault pgSUPPLY (5 + k) && !s.hasFault pgSUPPLY (7 + k) &&
  !(s.railPhases k s.runnable).isEmpty

/-- PH_STAT.STATE and RUN_ACT follow the phase. -/
def showPhase (s : State) (n : Nat) : State :=
  let p := s.phase n
  let s := (s.fsi PH_STAT_STATE n p.st).fsi PH_RUN_RUN_ACT n (b2n (p.st == 1))
  let s := (s.fsi PH_STAT_D n p.d).fsi PH_STAT_FULL n (b2n p.full)
  let s := (s.fsi PH_DTACT_DTF n p.dtf).fsi PH_DTACT_DTR n p.dtr
  (s.fsi PH_TRCNT_COUNT n (min 255 p.tripCount)).settle (pgPHASE + n)

/-- A phase stops in a state: both gates low, no duty. -/
def haltPhase (s : State) (n st : Nat) : State := (s.modPhase n fun p => (p.idle st).gatesLow).showPhase n

/-- The rail's current figure, in 0.1 mA: the sum of ST_ISUM over the enabled stones (R235). -/
def railFigure (s : State) (k : Nat) : Nat :=
  sumNat ((List.range 16).map fun st => stoneIsum s.regs s.wmap st k)

/-- Compare the running phases with the rail's figure when a phase has stopped (R235). -/
def budget (s : State) (k : Nat) : State :=
  let have_ := sumNat ((s.railPhases k fun n => (s.phase n).st == 1).map fun n => s.fgi PH_ILIM_MA n * 10)
  if have_ < s.railFigure k ∧ ((s.rail k).st = 1 ∨ (s.rail k).st = 2) then
    let s1 := s.fault pgSUPPLY (5 + k) 0x7914 k k
    if s.masked pgSUPPLY (5 + k) then s1 else s1.modRail k (Rail.to · s.now 3)
  else s

/-- Start the phases of R226 that should run and stop those that should not; LATCHED, FAILED and SAFE phases stay. -/
def syncPhases (s : State) : State :=
  (List.range 8).foldl (fun s n =>
    let p := s.phase n
    let rs := (s.rail (s.phaseRail n)).st
    let want := s.runnable n && s.active pgSUPPLY && s.powered 10 && (rs == 1 || rs == 2 || rs == 3)
    let want := want || (p.st == 1 && rs == 3 && s.runnable n)
    if p.st = 0 ∧ want then
      (s.modPhase n fun p => { p.gatesLow with
        st := 1, dtf := p.dtMax, dtr := p.dtMax, failRun := 0, ref := 0, refOn := false, hold := none }).showPhase n
    else if p.st = 1 ∧ !want then (s.haltPhase n 0).budget (s.phaseRail n)
    else s) s

/-- Stop a phase for a fault: LATCHED (2) or FAILED (3), then the budget (R233 to R235). -/
def failPhase (s : State) (n st bit_ code : Nat) : State :=
  let s := (s.haltPhase n st).fault (pgPHASE + n) bit_ code n n
  s.budget (s.phaseRail n)

/-- Count the present period of a phase as tripped, once (R232, R233): PG_FAULT.TRIP, event 0x7911 after 1,024 periods without a trip,
latch-off at N. -/
def tripPeriod (s : State) (n : Nat) : State :=
  let p := s.phase n
  if p.trippedNow ∨ p.st ≠ 1 then s
  else
    let recent := p.trips.filter fun t => decide (p.period ≤ t + 1024)
    let s := (s.modPhase n fun p => { p with trips := recent ++ [p.period], trippedNow := true }).inc PH_CNT_TRIPS n 1
    let s := if recent.isEmpty then s.fault (pgPHASE + n) 1 0x7911 n n else s.faultBit (pgPHASE + n) 1
    let s := s.showPhase n
    if s.fgi PH_TRIP_N n ≤ (s.phase n).tripCount then s.failPhase n 2 2 0x7912 else s

/-- A rising edge suppressed by the interlock (R232). -/
def shoot (s : State) (n : Nat) : State := (s.fault (pgPHASE + n) 0 0x7910 n n).inc PH_CNT_SHOOT n 1

/-- A phase takes its shadows (R228). -/
def takeShadows (s : State) (n : Nat) : State :=
  s.modPhase n fun p => { p with
    per := s.fg SUP_PER_GRAINS, ofs := s.fgi PH_OFS_OFS n, dtMax := s.fgi PH_DT_DTMAX n, dtMin := s.fgi PH_DT_DTMIN n,
    man := s.fgi PH_DUTY_D n, due := false }

/-- The span or GRAINS changed at a cycle start with LOCK 1: every phase takes its shadows there, and holds HG low until its new zero
(Table 11.5). -/
def takeAllLocked (s : State) : State :=
  if s.fg SUP_CFG_LOCK = 1 then
    (List.range 8).foldl (fun s n => (s.takeShadows n).modPhase n fun p =>
      if p.st = 1 then
        { p.idle 1 with hg := false, lg := (p.gates s.now).lg, hgAt := (p.gates s.now).hgAt, edges := [], next := p.next, hold := some s.now }
      else p) s
  else s

/-- LOAD_ALL is written with 1 (R228): every enabled phase is to take its shadows; one still pending changes nothing further. -/
def loadAll (s : State) : State :=
  let s1 := s.inc SUP_CNT_LOADS 0 1
  if s.sup.phases.any (·.due) then s1
  else (List.range 8).foldl (fun s n => if s.active (pgPHASE + n) then s.modPhase n fun p => { p with due := true } else s) s1

/-- LOAD_ALL in a firkin: a new GRAINS applied at a cycle start with LOCK 1 acts at once (Table 11.5). -/
def loadAllStaged (s : State) : State :=
  let s := s.loadAll
  let start := s.scan.inCycle && s.scan.sweep == 0 && s.scan.span == 0
  if start && s.sup.phases.any fun p => p.due && p.per != s.fg SUP_PER_GRAINS then s.takeAllLocked else s

/-- Every gate low, HG first, and both rails OFF: the hard stops of Table 11.3. Running phases stop; `safe`: every phase takes the safe state
(R243). -/
def hardStop (s : State) (safe : Bool) : State :=
  let stop (p : Phase) : Phase :=
    if safe then { (p.idle 4).gatesOff s.now with held := if p.st = 4 then p.held else if p.st = 1 then 0 else p.st }
    else if p.st = 1 then (p.idle 0).gatesOff s.now
    else p.gatesOff s.now
  let s := { s with sup := { s.sup with
    phases := s.sup.phases.map stop, rails := s.sup.rails.map fun r => { (r.to s.now 0) with vset := 0 } } }
  (List.range 8).foldl State.showPhase s

/-- A rail enters OFF: the gates of its phases are low (Table 11.2). -/
def railOff (s : State) (k : Nat) : State :=
  let s := (s.railPhases k fun n => (s.phase n).st == 1).foldl (fun s n => s.haltPhase n 0) s
  s.modRail k fun r => { (r.to s.now 0) with vset := 0 }

/-- The setpoint ramp of STARTING and STOPPING: SOFT × 10 mV per ms toward the goal (R240). -/
def ramp (s : State) (k : Nat) : State :=
  let r := s.rail k
  let rate := s.fg SUP_PROT_SOFT * 10
  if rate = 0 ∨ ¬(r.st = 1 ∨ r.st = 3) then s
  else
    let goal := if r.st = 1 then (railCfg s.regs k).vmin * 10 else 0
    let d := (s.now - r.rampAt) * rate / Config.ms
    let v := if goal ≤ r.vset then max goal (r.vset - d) else min goal (r.vset + d)
    s.modRail k fun r => { r with vset := v, rampAt := r.rampAt + d * Config.ms / rate }

/-- A lamp of colour `col` may place pulses: its rail RUNNING, or the stage absent (R239). -/
def railLit (s : State) (col : Nat) : Bool := !s.supPresent || (s.rail (railOf s.regs col)).st == 2

end State

/-! ### Loops -/

/-- Saturate an integer to a range. -/
def satRange (lo hi x : Int) : Int := max lo (min hi x)

/-- The inner loop: new integrator and duty (R240). -/
def innerLoop (ki kp : Nat) (integ : Int) (vset vfb h : Nat) : Int × Nat :=
  let err : Int := (vset : Int) - vfb
  let integ' := satRange 0 16777216 (integ + ki * err)
  let u := satRange 0 16777216 (kp * err * 256 + integ') / 256
  (integ', u.toNat * h / 65536)

/-- The step of the headroom loop: new idle count and step in mV (R241). -/
def headroomStep (h : Option Nat) (idle idleCfg ht up down : Nat) : Nat × Int :=
  match h with
  | none =>
    let i := min 255 (idle + 1)
    (i, if idleCfg ≠ 0 ∧ idleCfg ≤ i then -(25 * down : Nat) else 0)
  | some 0 => (0, (25 * up : Nat))
  | some c => (0, satRange (-(25 * down : Nat)) (25 * up : Nat) (25 * ((ht : Int) - c)))

namespace State

/-- At the end of a sweep of a window: each RUNNING rail's next setpoint, which takes effect one span later (R241). -/
def headroomLoop (s : State) : State :=
  (List.range 2).foldl (fun s k =>
    let r := s.rail k
    let c := railCfg s.regs k
    let s := if k = 0 then (s.fs SUP_HMIN_VA (b2n r.low.isSome)).fs SUP_HMIN_HA (r.low.getD 0)
      else (s.fs SUP_HMIN_VB (b2n r.low.isSome)).fs SUP_HMIN_HB (r.low.getD 0)
    if r.st = 2 then
      let (idle, step) := headroomStep r.low r.idle (s.fg SUP_LOOP_IDLE) c.ht c.up c.down
      let v := (satRange (10 * c.vmin : Nat) (10 * c.vmax : Nat) ((r.vset : Int) + step)).toNat
      s.modRail k fun r => { r with low := none, idle := idle, move := if v = r.vset then none else some v }
    else s.modRail k fun r => { r with low := none }) s

/-- A span has ended: count its minima toward the sweep unless R241 leaves it out, and let a due setpoint take effect. `mins`:
lowest code of each rail in the span. -/
def railSpanEnd (s : State) (mins : List (Option Nat)) : State :=
  (List.range 2).foldl (fun s k =>
    s.modRail k fun r =>
      match r.move with
      | some v => { r with vset := v, move := none, settle := s.fg SUP_LOOP_SETTLE }
      | none =>
        if 0 < r.settle then { r with settle := r.settle - 1 }
        else match nth mins k none, r.low with
          | some a, some b => { r with low := some (min a b) }
          | some a, none => { r with low := some a }
          | none, l => { r with low := l }) s

end State

/-! ### Commands -/

namespace State

/-- The instant from which the zeros count (R227): the start of every span, or when SUPPLY was last enabled. -/
def stageRef (s : State) : Nat := if s.fg SUP_CFG_LOCK = 1 then s.scan.startAt else s.sup.since

/-- The next zero of a phase. -/
def nextZero (s : State) (n : Nat) : Nat :=
  let p := s.phase n
  match p.hold with
  | some r => p.gridFrom r (max s.now r)
  | none => p.gridFrom s.stageRef (max s.now (p.zeroAt + 1))

/-- The next reference when the cycle start cuts the span that it ends (R190, R229). -/
def cutRef (s : State) : Option Nat := match s.nextCycle with
  | some c => if s.fg SUP_CFG_LOCK = 1 ∧ s.tim.running ∧ (c.g - s.scan.startAt) % s.spanLen ≠ 0 then some c.g else none
  | none => none

/-- The event of a phase's period is counted (R240). -/
def countEvent (s : State) (n : Nat) : State := match (s.phase n).evAt with
  | some (_, false) => s.inc PH_EVCNT_EVENTS n 1
  | _ => s

/-- The dead times of the period that starts (R230). -/
def deadTimes (s : State) (n : Nat) (e : PhaseEnv) : State :=
  let p := s.phase n
  let mg := s.fgi PH_DTADJ_MARGIN n
  let lim (t : Nat) : Nat := min (max (t + mg) p.dtMin) p.dtMax
  let gf := (e.tf.map lim).getD p.dtMax
  let gr := (e.tr.map lim).getD p.dtMin
  let toward (dt g : Nat) : Nat := if dt < g then g else max (dt - 16) g
  if s.fgi PH_DTADJ_ADAPT n = 1 then s.modPhase n fun p => { p with dtf := toward p.dtf gf, dtr := toward p.dtr gr }
  else s.modPhase n fun p => { p with dtf := p.dtMax, dtr := p.dtMax }

/-- The duty of the period that starts: short pulses are skipped, and a low side too short for its dead times gives full duty (R227). -/
def phaseDuty (p : Phase) (want : Nat) : Nat × Bool :=
  let h := p.per / 2
  let want := min h want
  if 2 * want < 160 then (0, false)
  else if 2 * (h - want) < p.dtr + p.dtf + 160 then (h, true)
  else (want, false)

/-- Place the edges of the period from zero `z` to zero `nz` (R227, R229, R231, R232). `held`: the period is not started. -/
def placeEdges (s : State) (n z nz : Nat) (held now : Bool) : State :=
  let p := s.phase n
  let v := p.gates z
  let left := if !held && !p.full && p.d == 0 then [] else p.edges.filter fun x => decide (z < x.at_)
  let own := periodEdges p z nz (p.per / 2) (32 * s.fgi PH_REF_REFW n) v held now p.refOn
  let all := sortEdges (own ++ left)
  let keep := s.fg SUP_CFG_KEEP
  let (kept, miss) := if s.fg SUP_CFG_LOCK = 1 ∧ keep ≠ 0 then
      keepOut (keepDelay s.scan.startAt s.spanLen (32 * s.fg SCAN_BLANK_DIS) keep) nz all
    else (all, false)
  let (made, hits) := interlock v.hg v.lg (sortEdges (diodeCut p.neg nz kept))
  let s := s.modPhase n fun p => p.gatesFrom z (sortEdges made)
  let s := if miss then s.inc SUP_CNT_KEEPMISS 0 1 else s
  if hits = 0 then s else ((List.replicate hits n).foldl State.shoot s).tripPeriod n

/-- The event of the period from zero `z`, when one follows after prescaling (R240): at the zero, at the peak, or at the rise of HG. -/
def placeEvent (s : State) (n z : Nat) : State :=
  let p := s.phase n
  let at_ : Option Nat := match s.fgi PH_CFG_EVSEL n with
    | 0 => some z
    | 1 => some (z + p.per / 2)
    | _ => (p.edges.find? fun x => x.hs && x.up && decide (z ≤ x.at_)).map (·.at_)
  match at_ with
  | none => s
  | some t =>
    if p.div + 1 ≤ s.fgi PH_CFG_PRESCALE n then s.modPhase n fun p => { p with div := p.div + 1 }
    else
      let s := s.modPhase n fun p => { p with div := 0, evAt := some (t, t == z) }
      if t = z then s.inc PH_EVCNT_EVENTS n 1 else s

/-- A running phase is at its zero `z`: the period that starts, unless it waits for a zero of another reference (R229, Table 11.5). -/
def startPeriod (s : State) (n z : Nat) (e : PhaseEnv) : State :=
  let ref := ((s.phase n).hold).getD s.stageRef
  let s := (if (s.phase n).due then s.takeShadows n else s).deadTimes n e
  let p := s.phase n
  let cut := s.cutRef.filter fun c => decide (z < c) && decide (c < z + p.per)
  let hold := if p.gridFrom ref z = z then cut else some ref
  let held := hold.isSome
  let (d, full) := if held then (0, false) else phaseDuty p (if s.fg SUP_CFG_MODE = 1 then p.man else p.next)
  let refNow := p.refOn
  let refNext := full && decide (s.fgi PH_REF_REFN n ≤ p.ref + 1)
  let period := if held then p.period else p.period + 1
  let s := s.modPhase n fun p => { p with
    zeroAt := z, hold := hold, d := d, full := full, refOn := refNext, ref := if full && !refNext then p.ref + 1 else 0,
    period := period, trippedNow := false, trips := p.trips.filter fun t => decide (period ≤ t + 1024),
    neg := e.neg.map (z + ·), evAt := none }
  let s := s.placeEdges n z (p.gridFrom ref (z + 1)) held refNow
  (if held then s else s.placeEvent n z).showPhase n

end State

/-- PHASE_ZERO (R227 to R234): at the phase's next zero the period that ends is judged, shadows due are taken, and the next period
starts. Zeros of a halted sequencer do nothing (R244). -/
def execPhaseZero (n : Fin 8) (e : PhaseEnv) (s0 : State) : Ans State :=
  let s := s0.begin_
  let n := n.val
  if !s.active (pgPHASE + n) || !s.powered 10 || s.sup.halt then .next s
  else
    let z := s.nextZero n
    let s := (s.advance z).countEvent n
    let p := s.phase n
    if p.st ≠ 1 then .next ((if p.due then s.takeShadows n else s).modPhase n fun p => { p with zeroAt := z, hold := none, evAt := none })
    else
      let judged := !p.full && decide (160 ≤ 2 * p.d)
      let fail := if judged then (if e.rose && e.fell then 0 else p.failRun + 1) else p.failRun
      let s := s.modPhase n fun p => { p with failRun := fail }
      .next (if 16 ≤ fail then s.failPhase n 3 3 0x7913 else s.startPeriod n z e)

/-- The handler of LOAD_ALL (R228). -/
def hLoadAll : Handler := fun s _ _ _ _ data => .ok (if data % 2 = 0 then s else s.loadAll)

/-- LOAD_ALL (R228). -/
def execLoadAll (a : Sys2Proof.Access) (s : State) : Ans State :=
  .next (direct s.begin_ a (regAddr pgSUPPLY LOAD_ALL.off) 1 hLoadAll)

/-- A phase's HG pulse ends at grain `t`, and LG follows after dtf (R233). A refresh to come is still made (Table 11.5). -/
def Phase.endPulse (p : Phase) (t : Nat) : Phase :=
  let v := p.gates t
  let rest := if p.full then p.edges.filter fun x => decide (t < x.at_) else []
  { p with
    hg := false, lg := v.lg, hgAt := v.hgAt,
    edges := sortEdges (diodeCut p.neg (p.zeroAt + p.per) (⟨t + p.dtf, false, true⟩ :: rest)) }

/-- TRIP (R233): a reading of PHnCS above THR, after blanking, ends the pulse; the period is tripped. -/
def execTrip (n : Fin 8) (cs : CsRead) (s0 : State) : Ans State :=
  let s := s0.begin_
  let n := n.val
  let s := s.advance ((s.phase n).zeroAt + cs.at_)
  let v := (s.phase n).gates s.now
  if (s.phase n).st = 1 ∧ v.hg ∧ v.hgAt + 32 * s.fgi PH_TRIP_LEB n ≤ s.now ∧ s.fgi PH_TRIP_THR n < cs.mv then
    .next ((s.modPhase n fun p => p.endPulse s.now).tripPeriod n)
  else .next s

/-- FEEDBACK_SAMPLE (R240): at the event of the rail's lowest-numbered running phase, the ramp, the inner loop, and the duty every running
phase of the rail takes at its next zero. No event, no sample. -/
def execFeedbackSample (k : Fin 2) (mv : Nat) (s0 : State) : Ans State :=
  let s := s0.begin_
  let k := k.val
  let run := s.railPhases k fun n => (s.phase n).st == 1
  match run.head?.bind fun n => (s.phase n).evAt.map fun x => (n, x.1) with
  | none => .next s
  | some (n, t) =>
    let s := ((s.advance t).countEvent n).modPhase n fun p => { p with evAt := none }
    let s := (if k = 0 then s.fs SUP_VFB_A mv else s.fs SUP_VFB_B mv).ramp k
    let r := s.rail k
    let (integ, d) := innerLoop (s.fg SUP_LOOP_KI) (s.fg SUP_LOOP_KP) r.integ r.vset mv ((s.phase n).per / 2)
    let s := s.modRail k fun r => { r with integ := integ }
    .next (if s.fg SUP_CFG_MODE = 0 then run.foldl (fun s n => s.modPhase n fun p => { p with next := d }) s else s)

namespace State

/-- A rail may enter STARTING (Table 11.2): from OFF, or from STOPPING with no BUDGET or START bit. -/
def startsFrom (s : State) (k : Nat) : Bool :=
  ((s.rail k).st == 0 && s.railMayStart k) ||
  ((s.rail k).st == 3 && s.active pgSUPPLY && s.lit && !s.hasFault pgSUPPLY (5 + k) && !s.hasFault pgSUPPLY (7 + k))

/-- At a span boundary the rails that may start enter STARTING, from OFF at the FB reading, and their runnable phases start (R226). -/
def railBoundary (s : State) : State :=
  let enter (s : State) (k : Nat) : State := match (s.rail k).ask with
    | none => s
    | some mv =>
      if s.startsFrom k then s.modRail k fun r => { (r.to s.now 1) with vset := if r.st = 0 then mv else r.vset, integ := 0 }
      else s.modRail k fun r => { r with ask := none }
  if s.sup.rails.any (·.ask.isSome) then ((List.range 2).foldl enter s).syncPhases else s

end State

/-- RAIL_START (Table 11.2): a rail that may start is to enter STARTING at the next span boundary. `mv`: the FB reading. -/
def execRailStart (k : Fin 2) (mv : Nat) (s0 : State) : Ans State :=
  let s := s0.begin_
  .next (if s.startsFrom k.val then s.modRail k.val fun r => { r with ask := some mv } else s)

/-- RAIL_RUNNING (Table 11.2): FB within 50 mV of VMIN; the headroom loop starts from VMIN. -/
def execRailRunning (k : Fin 2) (mv : Nat) (s0 : State) : Ans State :=
  let s := s0.begin_
  let k := k.val
  let v := (railCfg s.regs k).vmin * 10
  if (s.rail k).st = 1 ∧ mv ≤ v + 50 ∧ v ≤ mv + 50 then
    .next ((s.modRail k fun r => { (r.to s.now 2) with vset := v, idle := 0, low := none, settle := 0 }).ev pgSUPPLY 0x0910 k kInfo k)
  else .next s

/-- START_TIMEOUT (Table 11.2): 100 ms in STARTING. -/
def execStartTimeout (k : Fin 2) (s0 : State) : Ans State :=
  let s := s0.begin_
  let k := k.val
  if (s.rail k).st = 1 then
    let s := s.advance ((s.rail k).since + 100 * Config.ms)
    .next ((s.fault pgSUPPLY (7 + k) 0x7918 k k).modRail k (Rail.to · s.now 3))
  else .next s

/-- RAIL_OFF (Table 11.2): FB below 300 mV, or 50 ms in STOPPING. -/
def execRailOff (k : Fin 2) (mv : Nat) (s0 : State) : Ans State :=
  let s := s0.begin_
  let k := k.val
  if (s.rail k).st = 3 then
    let s := if mv < 300 then s else s.advance ((s.rail k).since + 50 * Config.ms)
    .next ((s.railOff k).ev pgSUPPLY 0x0911 k kInfo k)
  else .next s

/-- SFLTN (R237): the pin low stops every phase and enters DARK. -/
def execSfltn (s0 : State) : Ans State :=
  let s := s0.begin_
  let s := { s with sup := { s.sup with sfltn := false } }
  let s := (s.hardStop false).fault pgSUPPLY 0 0x7917 0 0
  .next (s.enterDarkFor pgSUPPLY 0 5)

/-- SFLTN_RELEASE (R236): the pin high. -/
def execSfltnRelease (s0 : State) : Ans State :=
  let s := s0.begin_
  .next { s with sup := { s.sup with sfltn := true } }

/-- OVER_VOLTAGE (R238, R237): FB, in mV, above (VMAX + OVM) / 8. -/
def execOverVoltage (k : Fin 2) (fb : Nat) (s0 : State) : Ans State :=
  let s := s0.begin_
  let k := k.val
  if 10 * ((railCfg s.regs k).vmax + s.fg SUP_PROT_OVM) < 8 * fb then
    let s := (s.hardStop false).fault pgSUPPLY (1 + k) 0x7915 k k
    .next (s.enterDarkFor pgSUPPLY (1 + k) 5)
  else .next s

/-- UNDER_VOLTAGE (R238): a RUNNING rail with FB below (VMIN − UVM) / 8. -/
def execUnderVoltage (k : Fin 2) (fb : Nat) (s0 : State) : Ans State :=
  let s := s0.begin_
  let k := k.val
  if (s.rail k).st = 2 ∧ 8 * fb + 10 * s.fg SUP_PROT_UVM < 10 * (railCfg s.regs k).vmin then
    .next (s.fault pgSUPPLY (3 + k) 0x7916 k k)
  else .next s

/-- Active grains of an AUX output (R247). -/
def auxLen (cmp : Nat) : Nat :=
  if cmp = 0 then 0 else if cmp = 0xFFFF then 640000
  else min 639840 (max 160 ((cmp * 640000 + 32767) / 65535))

/-- An AUX period starts now with the CMP values that stand (R247). -/
def State.auxStart (s : State) : State :=
  { s with sup := { s.sup with auxAt := s.now, aux := [auxLen (s.fg AUX_CMP0_CMP), auxLen (s.fg AUX_CMP1_CMP)] } }

/-- AUX_PERIOD (R247). -/
def execAuxPeriod (s0 : State) : Ans State :=
  let s := s0.begin_
  .next (if s.powered 10 && s.mode != .trim && s.mode != .sleep then (s.advance (s.sup.auxAt + 640000)).auxStart else s)

/-- An AUX pin now: high-impedance while its domain is off, at its inactive level while it is disabled (R247). -/
def State.auxPin (s : State) (i : Nat) : Option Bool :=
  let c := s.reg pgAUXPWM 0x040
  if s.powered 10 then some ((bit c (4 * i) && decide (s.now - s.sup.auxAt < nth s.sup.aux i 0)) != bit c (4 * i + 1)) else none

/-- The level of an AUX pin that AUX_STAT shows. -/
def State.auxLevel (s : State) (i : Nat) : Nat := b2n ((s.auxPin i).getD false)

/-- The gates of a phase are forced through the interlock (R246, R232): with both commanded high, the edges that would rise are suppressed and a
gate that was high is so again after 160 grains. They stay low without the stage or its power. -/
def State.forceGates (s : State) (n : Nat) (hg lg : Bool) : State :=
  if !s.supPresent || !s.powered 10 then s.modPhase n Phase.gatesLow
  else
    let v := (s.phase n).gates s.now
    if hg && lg then
      let back := if v.hg then [⟨s.now + 160, true, true⟩] else if v.lg then [⟨s.now + 160, false, true⟩] else []
      (s.modPhase n fun p => { p with hg := false, lg := false, edges := back }).shoot n
    else s.modPhase n fun p => { p with hg := hg, lg := lg, edges := [] }

/-- The handler of PH_TEST (R246): SERVICE with SUPPLY disabled only. -/
def hPhTest : Handler := fun s w p o g data =>
  if s.mode ≠ .service ∨ enabledR s.regs pgSUPPLY then .error ⟨0x5910, w.slot⟩
  else .ok ((storeReg s w p o g data).forceGates (p - pgPHASE) (bit data 0 && bit data 1) (bit data 0 && bit data 2))

/-- PH_TEST (R246). -/
def execPhTest (a : Sys2Proof.Access) (n : Fin 8) (data : Word) (s : State) : Ans State :=
  .next (direct s.begin_ a (regAddr (pgPHASE + n.val) PH_TEST.off) data.toNat hPhTest)

/-- A write of PH_RUN applied: a LATCHED or FAILED phase whose LATCH and PHFAIL bits are clear may run again (R235); in SAFE, once it
leaves it. -/
def State.phaseRunWritten (s : State) (n : Nat) : State :=
  let stuck (x : Nat) : Bool := (x == 2 || x == 3) && s.fgi PH_RUN_RUN_REQ n == 1 && !s.hasFault (pgPHASE + n) 2 && !s.hasFault (pgPHASE + n) 3
  let p := s.phase n
  let s := if stuck p.st then s.haltPhase n 0 else if p.st = 4 ∧ stuck p.held = true then s.modPhase n fun p => { p with held := 0 } else s
  s.syncPhases

/-- Debug halt of the supply sequencer (R243). -/
def State.haltSupply (s : State) : State :=
  let s := { s with sup := { s.sup with halt := true } }
  (s.hardStop true).ev pgSUPPLY 0x7919 0 kFault 0

/-- Resume of the supply sequencer: phases leave SAFE, LATCHED and FAILED ones for the state they had; rails start again through STARTING. -/
def State.resumeSupply (s : State) : State :=
  (List.range 8).foldl (fun s n => if (s.phase n).st = 4 then s.haltPhase n (s.phase n).held else s)
    { s with sup := { s.sup with halt := false } }

end Sys2Proof.Machine
end

