-- ==== Sys2Proof/Machine/Time.lean ====
section
/-! DEFINITION. Wall time and the cycle generator (chapter 5): the PTP servo and the transparent clock (R102 to R104, R120), beats
(R105, R106), the instant and number of the next cycle start (R107 to R109), and the generator's states (R110, R101). -/

namespace Sys2Proof.Machine

namespace State

/-- `num / den` where the spec states no rounding: the whole number, or one of its two neighbours (log entry 2). -/
def roundFree (s : State) (num : Int) (den : Nat) : Int × State :=
  if den = 0 ∨ num % den = 0 then (num / den, s)
  else
    let (x, s) := s.free 2
    (num / den + x, s)

/-! ### The cycle generator (R110) -/

/-- Set the generator's state; LOCKED, or FREERUN on SOURCE free-run, ends the DARK cause TIMELOSS (Table 17.3). -/
def setGen (s : State) (v : Nat) : State :=
  (s.fs TIME_STAT_STATE v).modTim fun t => { t with lost := t.lost && v != 2 && !(v == 4 && s.freeRun) }

/-- Wall time is valid (R103). -/
def wtValid (s : State) : Bool := s.fg PTP_STAT_WT_VALID == 1

/-- WT_VALID and its copy. -/
def setWt (s : State) (v : Nat) : State := (s.fs PTP_STAT_WT_VALID v).fs TIME_STAT_WT_VALID v

/-- HOLD_S in grains. -/
def holdLen (s : State) : Nat := s.fg TIME_LOCK_HOLD_S * Config.sec

/-- The STOPPED rows of Table 5.4: conditions that act as soon as they hold. -/
def genCheck (s : State) : State :=
  if s.gen = 0 ∧ s.active pgTIME ∧ s.fg TIME_STAT_PLL_LOCK = 1 then s.setGen (if s.freeRun then 4 else 1) else s

/-! ### CYCLEOUT and PPS (R113) -/

/-- CYCLEOUT (0) or PPS (1) is enabled. -/
def pinEn (s : State) (pin : Nat) : Bool := (if pin = 0 then s.fg TIME_CYO_EN else s.fg TIME_PPS_EN) == 1

/-- POL of CYCLEOUT or PPS. -/
def pinPol (s : State) (pin : Nat) : Bool := (if pin = 0 then s.fg TIME_CYO_POL else s.fg TIME_PPS_POL) == 1

/-- Grain at which the latest pulse of an output ends. -/
def pinEnd (s : State) (pin : Nat) : Nat := if pin = 0 then s.tim.cyoEnd else s.tim.ppsEnd

/-- Set that grain. -/
def setPinEnd (s : State) (pin e : Nat) : State :=
  s.modTim fun t => if pin = 0 then { t with cyoEnd := e } else { t with ppsEnd := e }

/-- The level of CYCLEOUT or PPS: active during a pulse, inactive at rest (R113). -/
def pinLevel (s : State) (pin : Nat) : Bool := decide (s.now < s.pinEnd pin) != s.pinPol pin

/-- A pulse of `len` grains starts now; a pulse under way is extended by it. -/
def pulse (s : State) (pin len : Nat) : State := (s.setPinEnd pin (s.now + len)).emit (.pulse pin s.now len)

/-- The output rests in STOPPED and when disabled; its level is put out anew. -/
def pinRest (s : State) (pin : Nat) : State :=
  let s := if (s.gen = 0 ∨ !s.pinEn pin) ∧ s.now < s.pinEnd pin then s.setPinEnd pin s.now else s
  s.emit (.level pin (s.pinLevel pin))

/-- The generator stops: no spans; what the span engine showed is dark. -/
def genStop (s : State) : State :=
  let s := ({ (s.modTim fun t => { t with running := false, holdEnd := none }).setGen 0 with
    scan := { s.scan with
      inCycle := false, win := none, driven := false, drive := none, placed := [], next := none, dbe := [], occ := none, sweep := 0, span := 0,
      seenCur := [], seenPrev := [],
      hr := s.scan.hr.map fun _ => none } }).showScan
  (s.pinRest 0).pinRest 1

/-- A firkin applied TIME_LOCK.SOURCE (Table 5.4). -/
def sourceApplied (s : State) : State :=
  if s.freeRun then
    if s.gen = 1 then s.setGen 4
    else if s.gen = 2 ∨ s.gen = 3 then (s.setGen 4).modTim fun t => { t with holdEnd := none, held := [] }
    else s
  else s

/-- Holdover begins (Table 5.4): the timer starts unless it runs. -/
def startHold (s : State) : State :=
  let s := s.modTim fun t => { t with holdEnd := match t.holdEnd with
    | some e => some e
    | none => some (s.now + s.holdLen) }
  if s.gen = 4 then s else s.setGen 3

/-- PTP enters HOLDOVER (Table 5.4): fault PTPLOSS, and the generator's row. -/
def ptpHeld (s : State) (port : Nat) : State :=
  let s := s.fault pgTIME 5 0x7314 port 0
  if s.gen = 2 ∨ s.gen = 3 ∨ s.gen = 4 then
    (if s.masked pgTIME 5 then s else s.ev pgTIME 0x7311 2 kFault 0).startHold
  else s

/-! ### PTP messages (R102, R104) -/

/-- Mean link delay of L0 or L1. -/
def linkDelay (s : State) (p : Nat) : Int := sgn 32 (if p = 0 then s.fg PTP_PD0_GRAINS else s.fg PTP_PD1_GRAINS)

/-- Asymmetry of L0 or L1. -/
def asym (s : State) (p : Nat) : Int := sgn 16 (if p = 0 then s.fg PTP_ASYM_L0 else s.fg PTP_ASYM_L1)

/-- A PTP message arrives; false when the port does not pass frames. -/
def rxPtp (s : State) (m : PtpMsg) : State × Bool :=
  let p := m.port.val
  if s.passes p then ((s.advance m.at_).inc LNK_RXFR_COUNT p 1, true) else (s, false)

/-- The message is of the one domain that is used (Table 5.1). -/
def ownDomain (s : State) (m : PtpMsg) : Bool := m.domain == s.fg PTP_CFG_DOMAIN

/-- Forward a PTP message along its path. With `corr` and the port's TC bit the residence and the link delay are added: DOWN the
fixed latency within its variation (R83), UP a value the spec does not fix. -/
def relayPtp (s : State) (kind : Nat) (m : PtpMsg) (corr : Bool) : State :=
  let p := m.port.val
  let q := partner p
  if !portUsed s.role q then s
  else if corr && bit (s.fg PTP_CFG_TC) p then
    let (x, s) := if p < 2 then s.free 25 else s.free (2 ^ 32)
    let res : Int := if p < 2 then (s.fgi LNK_FWDLAT_LAT p : Int) - 12 + x + s.linkDelay p else x
    s.transmit q (.ptp kind q (m.correction + res))
  else s.transmit q (.ptp kind q m.correction)

/-- A message of another domain is foreign general traffic: forwarded unchanged, or dropped (Table 5.1, R77). -/
def foreignPtp (s : State) (kind : Nat) (m : PtpMsg) : State :=
  if s.fg CH_FOREIGN_FWD = 1 then s.relayPtp kind m false else s.inc LNK_DROP_FOREIGN m.port.val 1

/-- Steering after a used Sync (R100): PTP_FREQ moves by at most 0.1 ppm per ms and stays within ±200 ppm; how far is left open. -/
def steer (s : State) : State :=
  let d := min 400000 ((s.now - s.tim.lastSync) * 100 / Config.ms)
  let (x, s) := s.free (2 * d + 1)
  let v : Int := sgn 32 (s.fg PTP_FREQ_PPB) - d + x
  s.fs PTP_FREQ_PPB (twos 32 (max (-200000) (min 200000 v)))

/-- Step wall time so that an offset becomes 0. -/
def step_ (s : State) (off : Int) : State := s.modTim fun t => { t with wallOff := t.wallOff - off }

/-- A usable Sync with offset `off`, in grains (R103). -/
def servoSync (s : State) (off : Int) : State :=
  let a := off.natAbs
  let s := ((s.fs PTP_OFFSET_GRAINS (twos 32 off)).inc PTP_RXCNT_SYNC 0 1).steer
  let s := s.modTim fun t => { t with lastSync := s.now }
  let far := decide (Config.us < a)
  let near := decide (a ≤ 50 * Config.grainsPerNs)
  let acquire (s : State) : State :=
    let s := ((s.fs PTP_STAT_STATE 2).setWt 0).modTim fun t => { t with good := b2n near, badRun := 0 }
    if far then s.step_ off else s
  match s.servo with
  | 1 => acquire s
  | 5 => acquire s
  | 2 =>
    let s := if far then s.step_ off else s
    let g := if near then s.tim.good + 1 else 0
    if 64 ≤ g then ((s.fs PTP_STAT_STATE 3).setWt 1).modTim fun t => { t with good := 0, badRun := 0 }
    else s.modTim fun t => { t with good := g }
  | 3 =>
    if far then
      if 4 ≤ s.tim.badRun + 1 then acquire s else s.modTim fun t => { t with badRun := t.badRun + 1 }
    else s.modTim fun t => { t with badRun := 0 }
  | 4 =>
    if far then acquire s else (s.fs PTP_STAT_STATE 3).modTim fun t => { t with badRun := 0 }
  | _ => s

/-- The message comes from the master followed, on the PATH_ACT port, in the own domain, while the servo runs (R102, R103). -/
def ptpMine (s : State) (m : PtpMsg) : Bool :=
  let named := s.fg PTP_GMID_H_ID * 2 ^ 32 + s.fg PTP_GMID_L_ID
  s.servo != 0 && m.port.val == s.pathAct && s.ownDomain m &&
  (if s.fg PTP_CFG_GMCHK = 1 then m.gmid == named else s.tim.gm == some m.gmid)

/-- The offset of R104 from ingress wall time. -/
def ptpOffset (s : State) (p : Nat) (ingress : Int) (origin : Nat) (corr : Int) : Int :=
  ingress - (origin + corr + s.linkDelay p + s.asym p)

/-- The servo starts (R120). -/
def ptpStart (s : State) : State :=
  (s.fs PTP_STAT_STATE 1).modTim fun t => { t with
    gm := none, good := 0, badRun := 0, lastSync := s.now, twoStep := none, pdSent := [none, none], pdAt := s.now }

/-- The servo is disabled. -/
def ptpStop (s : State) : State := (s.fs PTP_STAT_STATE 0).setWt 0

/-! ### Beats (R106) -/

/-- T or TS of a beat in wall-time grains. -/
def beatTime (sec ns : Nat) : Nat := sec * Config.sec + ns * Config.grainsPerNs

/-- The signed distance of DCN `n` from the current one. -/
def dcnDist (s : State) (n : Nat) : Int := sgn 32 (sub32 n s.dcn)

/-- T − expected start of DCN `n`, in 1/65,536 grain. -/
def beatError (s : State) (n t : Nat) : Int :=
  s.grainOf t * 65536 - ((s.accAbs : Int) + s.dcnDist n * s.period)

/-- Tests 10 and 11 (Table 5.3). -/
def beatHold (s : State) (n t : Nat) (resync : Bool) : State :=
  let err := s.beatError n t
  let s := if s.gen = 2 then
      let (x, s) := s.roundFree err (65536 * Config.grainsPerNs)
      s.fs TIME_BERRNS_NS (twos 32 x)
    else s
  if s.gen = 2 ∧ !resync ∧ 500 * Config.grainsPerNs * 65536 < err.natAbs then
    let (x, s) := s.roundFree err.natAbs (65536 * 100 * Config.grainsPerNs)
    (s.ev pgTIME 0x6311 (satN 16 x.toNat) kRefusal 0).inc TIME_BERR_STEP 0 1
  else
    let w := s.gen != 2
    let same := s.tim.held.any fun h => h.dcn == n && h.t == t
    if !same ∧ 4 ≤ s.tim.held.length then s.inc TIME_BERR_OTHER 0 1
    else
      let h : Held := ⟨n, t, resync, w⟩
      ((s.modTim fun x => { x with
        held := if same then x.held.map fun y => if y.dcn = n ∧ y.t = t then h else y else x.held ++ [h] }).fs
        TIME_BDCN_DCN n).inc TIME_BCNT_ACCEPT 0 1

/-- Tests 3 to 9 of an authenticated beat of slot `k` (Table 5.3). -/
def beatTests (s : State) (f : Frame) (b : Beat) : State :=
  let k := f.tenant.val
  let n := f.dcn
  let other (s : State) : State := s.inc TIME_BERR_OTHER 0 1
  if roleR s.regs k ≠ roleTiming then other (s.ev pgTIME 0x5310 k kRefusal k)
  else if f.fctr < nth s.tim.lastF k 0 then s.inc TIME_BCNT_DUP 0 1
  else
    let s := s.modTim fun x => { x with lastF := modAt x.lastF k fun _ => f.fctr + 1 }
    let ing : Int := s.wall
    let t := beatTime b.tSec b.tNs
    let ts := beatTime b.tsSec b.tsNs
    if !s.wtValid then other s
    else if s.fg TIME_LOCK_SUSP * Config.us < (ing - ts).natAbs then other (s.fault pgTIME 3 0x7312 0 0)
    else if (t : Int) - ing < (100 * Config.us : Nat) then (s.ev pgTIME 0x6310 n kRefusal 0).inc TIME_BERR_LATE 0 1
    else
      let q := sub32 n s.dcn
      if (Config.sec : Int) < (t : Int) - ing ∨ (s.gen ≠ 1 ∧ !b.resync ∧ ¬(1 ≤ q ∧ q ≤ 4)) then other s
      else if s.tim.held.any fun h => h.dcn == n && h.t != t then
        (s.fault pgTIME 4 0x7313 n 0).inc TIME_BERR_CONF 0 1
      else s.beatHold n t b.resync

/-! ### The next cycle start (R107 to R110) -/

/-- What a cycle start does to time (R107 to R110): the clock, DCN, TIME_CS, the miss count, beats discarded, the state. -/
def startTime (s : State) (c : CycNext) : State :=
  let s := (s.advance c.g).fs SYS_DCN_DCN c.dcn
  let w := s.wall / Config.grainsPerNs
  let s := ((s.fs TIME_CS_SH_SEC_H (w / 10 ^ 9 / 2 ^ 32)).fs TIME_CS_SL_SEC_L (w / 10 ^ 9)).fs TIME_CS_NS_NS (w % 10 ^ 9)
  let miss := if c.beat then 0 else min 15 (s.fg TIME_STAT_MISS + 1)
  let was := s.gen
  let s := (s.fs TIME_STAT_MISS miss).modTim fun t => { t with
    acc := c.acc, cycled := true, running := true,
    held := t.held.filter fun h => decide ((c.g : Int) < s.grainOf h.t) &&
      (h.resync || h.waiting || (decide (1 ≤ sub32 h.dcn c.dcn) && decide (sub32 h.dcn c.dcn ≤ 4))) }
  let s := if c.resync then s.ev pgTIME 0x0313 c.dcn kInfo 0 else s
  if c.beat ∧ was ≠ 2 then ((s.setGen 2).ev pgTIME 0x0310 c.dcn kInfo 0).modTim fun t => { t with holdEnd := none }
  else if was = 2 ∧ 2 ≤ miss then (s.fault pgTIME 1 0x7311 1 0).startHold
  else s

/-- A pulse on CYCLEOUT for an event of Table 5.15's MODE: a cycle start, or the start of window `w` (R113). -/
def cycleOut (s : State) (w : Option Nat) : State :=
  let m := s.fg TIME_CYO_MODE
  let hit := match w with
    | none => m == 0
    | some k => m == 1 || (m == 2 && s.fg TIME_CYO_WIN == k)
  if s.fg TIME_CYO_EN = 1 ∧ s.gen ≠ 0 ∧ hit = true then s.pulse 0 (s.fg TIME_CYO_WIDTH * 32) else s

end State

/-! ### Commands -/

/-- SYNC (R102 to R104, R83): forwarded along its path; from the master on the PATH_ACT port, a one-step Sync drives the servo and
a two-step one waits for its Follow_Up. -/
def execSync (m : PtpMsg) (s0 : State) : Ans State :=
  let (s, ok) := s0.begin_.rxPtp m
  if !ok then .next s
  else if !s.ownDomain m then .next (s.foreignPtp 0 m)
  else if ¬(-7 ≤ m.logInt ∧ m.logInt ≤ 0) then .next (s.inc PTP_RXCNT_DROP 0 1)
  else
    let s := s.relayPtp 0 m (!m.twoStep)
    if !s.ptpMine m then .next s
    else
      let s := ((s.fs PTP_STAT_TWOSTEP (b2n m.twoStep)).fs PTP_STAT_LOGSYNC (twos 8 m.logInt)).fs PTP_STAT_PORT m.port.val
      if m.twoStep then .next (s.modTim fun t => { t with twoStep := some m })
      else .next (s.servoSync (s.ptpOffset m.port.val ((m.at_ : Int) + s.tim.wallOff) m.origin m.correction))

/-- FOLLOW_UP (R102, R104): origin and corrections of the two-step Sync of the same number on the same port. -/
def execFollowUp (m : PtpMsg) (s0 : State) : Ans State :=
  let (s, ok) := s0.begin_.rxPtp m
  if !ok then .next s
  else if !s.ownDomain m then .next (s.foreignPtp 1 m)
  else
    let s := s.relayPtp 1 m true
    match s.tim.twoStep with
    | none => .next s
    | some y =>
      if s.ptpMine m ∧ y.port = m.port ∧ y.seq = m.seq then
        let s := s.modTim fun t => { t with twoStep := none }
        .next (s.servoSync (s.ptpOffset m.port.val ((y.at_ : Int) + s.tim.wallOff) m.origin (y.correction + m.correction)))
      else .next s

/-- PDELAY_INTERVAL (R102): every 2^PD_LOG s a Pdelay_Req leaves on L0 and on L1; one still without a response has failed. -/
def execPdelayInterval (s0 : State) : Ans State :=
  let s := s0.begin_
  if s.servo = 0 then .next s
  else
    let e := (sgn 4 (s.fg PTP_CFG_PD_LOG) + 3).toNat
    let s := s.advance (s.tim.pdAt + Config.sec / 8 * 2 ^ e)
    let s := s.modTim fun t => { t with pdAt := s.now, pdSeq := t.pdSeq + 1 }
    .next ((List.range 2).foldl (fun s p =>
      let s := if (nth s.tim.pdSent p none).isSome then s.inc PTP_PDCNT_FAIL 0 1 else s
      if s.passes p then
        (s.modTim fun t => { t with pdSent := modAt t.pdSent p fun _ => some s.now }).transmit p (.ptp 2 p 0)
      else s.modTim fun t => { t with pdSent := modAt t.pdSent p fun _ => none }) s)

/-- PDELAY_REQ (R102): answered on every used port with a one-step Pdelay_Resp, whose turnaround time the spec leaves open. One of
another domain is not used, and like every peer-delay message not forwarded (R77; log entry 67). -/
def execPdelayReq (m : PtpMsg) (s0 : State) : Ans State :=
  let (s, ok) := s0.begin_.rxPtp m
  if !ok ∨ !s.ownDomain m then .next s
  else
    let (x, s) := s.free (2 ^ 32)
    .next (s.transmit m.port.val (.ptp 3 m.port.val (m.correction + x)))

/-- PDELAY_RESP (R102, R120): completes the exchange of its port: the mean of both directions, less the responder's turnaround. -/
def execPdelayResp (m : PtpMsg) (t2 t3 : Nat) (s0 : State) : Ans State :=
  let (s, ok) := s0.begin_.rxPtp m
  let p := m.port.val
  if !ok ∨ !s.ownDomain m ∨ s.servo = 0 then .next s
  else match nth s.tim.pdSent p none with
    | none => .next s
    | some t1 =>
      if m.seq % 65536 ≠ s.tim.pdSeq % 65536 then .next s
      else
        let (d, s) := s.roundFree (((m.at_ : Int) - t1) - ((t3 : Int) - t2) - m.correction) 2
        let s := (s.modTim fun t => { t with pdSent := modAt t.pdSent p fun _ => none }).inc PTP_PDCNT_OK 0 1
        .next (if p = 0 then s.fs PTP_PD0_GRAINS (twos 32 d) else s.fs PTP_PD1_GRAINS (twos 32 d))

/-- ANNOUNCE (R102): forwarded DOWN; the first on the PATH_ACT port names the master when GMCHK is 0. -/
def execAnnounce (m : PtpMsg) (s0 : State) : Ans State :=
  let (s, ok) := s0.begin_.rxPtp m
  if !ok then .next s
  else if !s.ownDomain m then .next (s.foreignPtp 4 m)
  else
    let s := if m.port.val < 2 then s.relayPtp 4 m false else s
    if s.servo ≠ 0 ∧ m.port.val = s.pathAct ∧ s.tim.gm = none then
      .next (s.modTim fun t => { t with gm := some m.gmid })
    else .next s

/-- DELAY_REQ (R102, Table 5.1): a Delay_Req or Delay_Resp is dropped and counted. -/
def execDelayReq (m : PtpMsg) (s0 : State) : Ans State :=
  let (s, ok) := s0.begin_.rxPtp m
  .next (if ok then s.inc PTP_RXCNT_DROP 0 1 else s)

/-- SYNC_TIMEOUT (R103): no Sync accepted for 1 s. -/
def execSyncTimeout (s0 : State) : Ans State :=
  let s := s0.begin_
  if s.servo = 2 then
    .next ((s.advance (s.tim.lastSync + Config.sec)).fs PTP_STAT_STATE 1)
  else if s.servo = 3 then
    let s := s.advance (s.tim.lastSync + Config.sec)
    .next (((s.fs PTP_STAT_STATE 4).modTim fun t => { t with ptpHoldEnd := s.now + s.holdLen }).ptpHeld (s.fg PTP_STAT_PORT))
  else .next s

/-- PTP_HOLDOVER_EXPIRE (R103). -/
def execPtpHoldoverExpire (s0 : State) : Ans State :=
  let s := s0.begin_
  if s.servo = 4 then .next (((s.advance s.tim.ptpHoldEnd).fs PTP_STAT_STATE 5).setWt 0) else .next s

/-- BEAT (R105, R106, Table 5.3). -/
def execBeat (f : Frame) (b : Beat) (s0 : State) : Ans State :=
  let (s, ok) := s0.begin_.rxDown f 5
  if !ok then .next s
  else match s.ownId with
    | none => .next s
    | some own =>
      if own < f.first ∨ f.last < own then .next s
      else if !s.keyOk f.tenant.val 1 f.dcn b.key then .next (s.authFail f.port.val f.tenant.val)
      else .next ((s.renewSession f.tenant.val).beatTests f b)

/-- HOLDOVER_EXPIRE (R110): the holdover timer runs out. -/
def execHoldoverExpire (s0 : State) : Ans State :=
  let s := s0.begin_
  match s.tim.holdEnd with
  | none => .next s
  | some e =>
    let s := (s.advance e).modTim fun t => { t with holdEnd := none }
    if s.gen ≠ 3 then .next s
    else
      let fb := s.fg TIME_LOCK_FALLBACK
      let s := s.fault pgTIME 2 0x0312 fb 0
      if fb = 0 then .next (s.setGen 4) 
      else
        let s := if s.masked pgTIME 2 then s else s.modTim fun t => { t with lost := true }
        .next ((s.enterDarkFor pgTIME 2 4).genStop.genCheck)

/-- PLL_LOSS (R101). -/
def execPllLoss (s0 : State) : Ans State :=
  let s := s0.begin_
  if s.fg TIME_STAT_PLL_LOCK = 0 then .next s
  else
    let s := ((s.fs TIME_STAT_PLL_LOCK 0).fs EDGE_STAT_CLK_RUN 0).fault pgTIME 0 0x7310 0 0
    .next ((s.hardStop false).enterDark 3).genStop

/-- PLL_LOCK (R101, Table 5.4). -/
def execPllLock (s0 : State) : Ans State :=
  let s := s0.begin_
  .next ((s.fs TIME_STAT_PLL_LOCK 1).fs EDGE_STAT_CLK_RUN 1).genCheck

/-- PPS (R113): the next whole wall-time second. -/
def execPps (s0 : State) : Ans State :=
  let s := s0.begin_
  if !s.wtValid then .next s
  else
    let s := s.advance ((s.grainOf ((s.wall / Config.sec + 1) * Config.sec)).toNat)
    if s.fg TIME_PPS_EN = 1 ∧ s.gen ≠ 0 ∧ (s.gen ≠ 3 ∨ s.fg TIME_PPS_HOLD = 1) then
      .next (s.pulse 1 (s.fg TIME_PPS_WIDTH * Config.us))
    else .next s

end Sys2Proof.Machine
end

