-- ==== Sys2Proof/Machine/Memory.lean ====
section
/-! DEFINITION. The LPDDR4X controller (chapter 13): training, refresh, requests and their order, inline ECC, scrubbing. -/

namespace Sys2Proof.Machine

/-! ### Requesters, areas, places (R264, R265, R272) -/

/-- Class code of a requester (Table 13.14): 0 class 0A, 1 class 0B, 2 class 1, 3 class 2. -/
def userCls : DUser → Nat
  | .akast b => b2n b
  | .patt e => if e.val < 8 then 0 else 1
  | .feed => 2
  | _ => 3

/-- The area of a visible offset (Table 13.3): 0 T-sets, 1 feed sets, 2 pattern frames, 3 clip store, 4 management. -/
def areaOf (off : Nat) : Nat :=
  if off < 0x00600000 then 0 else if off < 0x04E00000 then 1 else if off < 0x06600000 then 2
  else if off < 0x0E600000 then 3 else 4

/-- Areas a requester may access (R265). -/
def userMay (u : DUser) (area : Nat) : Bool := match u with
  | .akast _ => decide (area ≤ 2)
  | .patt _ => area == 2 || area == 3
  | .feed => area == 1
  | .clip => area == 3
  | .tset => area == 0
  | .mgmt => true
  | .osec => true

/-- Subchannel, bank and row of a visible offset (R264). -/
def dramPlace (off : Nat) : Nat × Nat × Nat :=
  let p := off / 448 * 512 + off % 448
  let row := p / 2 ^ 15
  (p / 2 ^ 9 % 2, Nat.xor (p / 2 ^ 12 % 8) (row % 8), row)

/-- MEMC_SIZE.MB of a density (Table 13.2). -/
def dramMB (density : Nat) : Nat := 1792 * 2 ^ density

/-- What a byte of DRAM that nothing has written reads as (log entry 3). -/
def dramBlank : Byte := 0

namespace State

/-- Change the controller's state. -/
def modMem (s : State) (f : MemSt → MemSt) : State := { s with mem := f s.mem }

/-- MEMC_STAT.STATE: 0 OFF, 1 TRAINING, 2 READY, 3 SELFREF, 4 FAILED. -/
def memState (s : State) : Nat := s.fg MEMC_STAT_STATE

/-- The controller serves. -/
def memReady (s : State) : Bool := s.memState == 2

/-- Bytes of the visible view. -/
def viewBytes (s : State) : Nat := s.fg MEMC_SIZE_MB * 2 ^ 20

/-- MEMC_STAT.INFLIGHT, MEMC_CLS0 and MEMC_CLS1 follow the requests in flight. -/
def showCredits (s : State) : State :=
  let n (c : Nat) : Nat := (s.mem.inflight.filter fun r => r.cls == c).length
  let s := s.fs MEMC_STAT_INFLIGHT s.mem.inflight.length
  (((s.fs MEMC_CLS0_LO (n 0)).fs MEMC_CLS0_HI (n 1)).fs MEMC_CLS1_LO (n 2)).fs MEMC_CLS1_HI (n 3)

/-! ### Acceptance (R272, R274) -/

/-- A class has a free credit. -/
def credit (s : State) (c : Nat) : Bool := decide ((s.mem.inflight.filter fun r => r.cls == c).length < 128)

/-- Accept a request: a write to a block with a read out is held, a read of a block with a write pending is served from it. -/
def accept (s : State) (r : DReq) : State :=
  let same := s.mem.inflight.filter fun x => x.off == r.off
  let s := match r.wr with
    | some _ => if same.any fun x => x.wr.isNone then s.inc MEMC_ORD_HELD 0 1 else s
    | none => if same.any fun x => x.wr.isSome then s.inc MEMC_ORD_FWD 0 1 else s
  (s.modMem fun m => { m with inflight := m.inflight ++ [{ r with since := s.now }] }).showCredits

/-- Accept waiting requests while credits are free, oldest first within a class. -/
def acceptWaiting (s : State) : State :=
  if s.memReady then
    s.mem.waiting.foldl (fun (s : State) r =>
      if s.credit r.cls then s.accept r else s.modMem fun m => { m with waiting := m.waiting ++ [r] })
      (s.modMem fun m => { m with waiting := [] })
  else s

/-- A request arrives (R265, R272): outside its requester's area or the view it is refused, and never executed; without a credit,
or before the controller is READY, it waits. -/
def dramRequest (s : State) (u : DUser) (addr : Nat) (wr : Option (List (Option Byte))) : State :=
  let off := (addr - 0x1000000000) / 64 * 64
  if addr < 0x1000000000 ∨ s.viewBytes ≤ off ∨ !userMay u (areaOf off) then s.emit (.res ⟨0x4B10, userCls u⟩ [])
  else
    let r : DReq := ⟨u, userCls u, off, wr.map fun l => (List.range 64).map fun i => nth l i none, s.now⟩
    if s.memReady ∧ s.credit (userCls u) then s.accept r else s.modMem fun m => { m with waiting := m.waiting ++ [r] }

/-! ### Inline ECC (R275, R276) -/

/-- The event of a second in which single-bit errors were corrected (R276). -/
def sbeTick (s : State) : State :=
  if s.mem.sbeCnt ≠ 0 ∧ s.mem.sbeAt + Config.sec ≤ s.now then
    let n := satN 16 s.mem.sbeCnt
    (if s.masked pgMECC 0 then s else s.ev pgMECC 0x0B12 n kFault 0).modMem fun m => { m with sbeCnt := 0 }
  else s

/-- Wrong bits of a stored word. -/
def flipsOf (s : State) (w : Nat) : List Nat := cget s.mem.flips w []

/-- Set the wrong bits of a stored word. -/
def setFlips (s : State) (w : Nat) (l : List Nat) : State := s.modMem fun m => { m with flips := cput m.flips w l [] }

/-- A read of a stored word finds its wrong bits: none, one (corrected and recorded) or more (poisoned). -/
def checkWord (s : State) (w cls : Nat) (wback : Bool) : State × Bool := match s.flipsOf w with
  | [] => (s, false)
  | [b] =>
    let s := (s.inc ME_SBE_COUNT 0 1).fs ME_SADDR_WORD w
    let s := ((s.fs ME_SINFO_BIT b).fs ME_SINFO_CLASS cls).faultBit pgMECC 0
    let s := if s.mem.sbeCnt = 0 then s.modMem fun m => { m with sbeAt := s.now, sbeCnt := 1 }
      else s.modMem fun m => { m with sbeCnt := m.sbeCnt + 1 }
    (if wback then s.setFlips w [] else s, false)
  | _ =>
    let s := (s.inc ME_DBE_COUNT 0 1).fs ME_DADDR_WORD w
    ((s.fs ME_DINFO_CLASS cls).fault pgMECC 1 0x7B11 cls cls, true)

/-- Bits of a word found wrong in the device are wrong in the stored word. -/
def addFlips (s : State) (w : Nat) (bits : List Nat) : State :=
  if bits.isEmpty then s else s.setFlips w ((s.flipsOf w) ++ ((bits.map (· % 72)).filter fun b => !(s.flipsOf w).contains b).eraseDups)

/-- A stored byte. -/
def dramByte (s : State) (off : Nat) : Byte := cget s.mem.dram off dramBlank

/-- Store a byte. -/
def putByte (s : State) (off : Nat) (v : Byte) : State := s.modMem fun m => { m with dram := cput m.dram off v dramBlank }

/-- Armed error injection takes effect on a word just written (R281, Table 13.8): which bits flip is open. -/
def inject (s : State) (w : Nat) : State :=
  let n := s.fg ME_INJ_INJ
  if n = 0 ∨ s.fg ME_INJA_WORD ≠ w then s
  else
    let (a, s) := s.free 64
    let (b, s) := s.free 63
    (s.setFlips w (if n = 1 then [a] else [a, (a + 1 + b) % 64])).fs ME_INJ_INJ 0

/-- Store one word of a write (R275): a part of a word reads the word first. A word that read poisoned keeps the new bytes beside
zeros for class 1 (Table 13.7) and is not written for the others. True: the requester gets an error. -/
def storeWord (s : State) (r : DReq) (i : Nat) : State × Bool :=
  let w := r.off / 8 + i
  let new := (List.range 8).map fun b => nth (r.wr.getD []) (8 * i + b) none
  let put (s : State) (zeros : Bool) : State :=
    let s := new.zipIdx.foldl (fun (s : State) x => match x.1 with
      | some v => s.putByte (8 * w + x.2) v
      | none => if zeros then s.putByte (8 * w + x.2) 0 else s) s
    (s.setFlips w []).inject w
  if new.all Option.isNone then (s, false)
  else if new.all Option.isSome then (put s false, false)
  else
    let (s, bad) := s.checkWord w r.cls false
    if !bad then (put s false, false)
    else if r.cls = 2 then (put s true, false)
    else (s, true)

/-- Store a whole word, least significant byte first. -/
def putWord (s : State) (w v : Nat) : State :=
  let s := (List.range 8).foldl (fun (s : State) b => s.putByte (8 * w + b) (BitVec.ofNat 8 (v / 2 ^ (8 * b)))) s
  (s.setFlips w []).inject w

/-- A stored word. -/
def wordAt (s : State) (w : Nat) : Nat := sumNat ((List.range 8).map fun b => (s.dramByte (8 * w + b)).toNat * 2 ^ (8 * b))

/-- The newest pending write of a byte among requests accepted before. -/
def pendingByte (before : List DReq) (off i : Nat) : Option Byte :=
  before.foldl (fun b x => if x.off = off then match nth (x.wr.getD []) i none with
    | some v => some v
    | none => b else b) none

/-- The access opens its row, or precharges it with IDLE 0 (R271). -/
def openRow (s : State) (off : Nat) : State :=
  let p := dramPlace off
  s.modMem fun m => { m with
    rows := modAt m.rows (8 * p.1 + p.2.1) fun _ => if s.fg MEMC_PAGE_IDLE = 0 then none else some (p.2.2, s.now) }

/-- The longest class 2 completion (R273). -/
def mgLat (s : State) (r : DReq) : State :=
  if r.cls = 3 then
    let (x, s) := s.roundFree ((s.now - r.since : Nat) : Int) (10 * Config.grainsPerNs)
    s.fs MEMC_MGLAT_NS10 (max (s.fg MEMC_MGLAT_NS10) (satN 16 x.toNat))
  else s

/-- Drain rank of a class of Table 13.6. -/
def drainRank (c : Nat) : Nat := if c ≤ 1 then 4 else if c = 2 then 5 else 7

/-- Of two requests in flight, `q` accepted before `r` is served first: by its lower drain rank, unless `r` is of class 2 and has waited
2 µs, or because it is of class 2 and had waited 2 µs when `r` came (R28, R273). -/
def servedFirst (s : State) (q r : DReq) : Bool :=
  (decide (drainRank q.cls < drainRank r.cls) && !(r.cls == 3 && decide (r.since + 2 * Config.us ≤ s.now))) ||
    (q.cls == 3 && r.cls != 3 && decide (q.since + 2 * Config.us ≤ r.since))

/-- Request `k` in flight may not complete yet: it is a write whose block has an earlier request in flight (R274), or an earlier request
that is not so held is served first. -/
def dramHeld (s : State) (k : Nat) : Bool :=
  let l := s.mem.inflight
  let blocked (i : Nat) (r : DReq) : Bool := r.wr.isSome && (l.take i).any fun x => x.off == r.off
  match l[k]? with
  | none => false
  | some r => blocked k r || (l.take k).zipIdx.any fun x => s.servedFirst x.1 r && !blocked x.2 x.1

/-- Refreshes of a subchannel's banks that have reached MEMC_REF.POSTMAX are issued before any request to it (R269). -/
def forcedRefresh (s : State) (sc : Nat) : State :=
  let due (b : Nat) : Bool := decide (max 1 (s.fg MEMC_REF_POSTMAX) ≤ nth s.mem.owed b 0)
  let banks := ((List.range 8).map (8 * sc + ·)).filter due
  s.modMem fun m => { m with
    owed := banks.foldl (fun l b => modAt l b (· - 1)) m.owed, rows := banks.foldl (fun l b => modAt l b fun _ => none) m.rows }

/-- Request `k` in flight completes, the device showing wrong bits `errs` (word of the block, bits) (R274, R276), unless
it is held. -/
def dramComplete (s : State) (k : Nat) (errs : List (Nat × List Nat)) : State :=
  match s.mem.inflight[k]? with
  | none => s
  | some r =>
    let before := s.mem.inflight.take k
    if s.dramHeld k then s
    else
      let s := (s.modMem fun m => { m with inflight := m.inflight.eraseIdx k }).forcedRefresh (dramPlace r.off).1 |>.openRow r.off
      let s := errs.foldl (fun s x => if x.1 < 8 then s.addFlips (r.off / 8 + x.1) x.2 else s) s
      let s := match r.wr with
        | some _ =>
          let (s, bad) := (List.range 8).foldl (fun (a : State × List Nat) i =>
            let (s, b) := a.1.storeWord r i
            (s, if b then a.2 ++ [i] else a.2)) (s, [])
          let s := s.modMem fun m => { m with wr := m.wr + 64 }
          if bad.isEmpty then s else s.emit (.dram r.cls r.off [] bad)
        | none =>
          let late := s.mem.inflight.any fun x => x.off == r.off && x.wr.isSome
          let (s, bad) := (List.range 8).foldl (fun (a : State × List Nat) i =>
            if (List.range 8).all fun b => (pendingByte before r.off (8 * i + b)).isSome then a
            else
              let (s, b) := a.1.checkWord (r.off / 8 + i) r.cls (a.1.fg ME_CFG_WBACK == 1 && !late)
              (s, if b then a.2 ++ [i] else a.2)) (s, [])
          let bytes := (List.range 64).map fun i => (pendingByte before r.off i).getD (s.dramByte (r.off + i))
          (s.modMem fun m => { m with rd := m.rd + 64 }).emit (.dram r.cls r.off bytes bad)
      ((s.mgLat r).showCredits).acceptWaiting.sbeTick

/-- MEMC_BW at a display-cycle boundary: MB/s of the cycle that ends, rounded up. -/
def memCycle (s : State) : State :=
  let d := s.now - s.mem.bwAt
  let mb (n : Nat) : Nat := satN 16 (ceilDiv (n * Config.sec) (d * 1000000))
  let s := (s.fs MEMC_BW_RD (mb s.mem.rd)).fs MEMC_BW_WR (mb s.mem.wr)
  s.modMem fun m => { m with rd := 0, wr := 0, bwAt := s.now }

/-! ### Training (R262, R266, R267) -/

/-- The step at which an attempt fails: ZQ calibration comes before the density is read (Table 13.4). -/
def trainFails (t : TrainTry) : Option Nat := match t.fail, t.density with
  | some 6, _ => some 6
  | some 1, _ => some 1
  | _, none => some 1
  | some 0, _ => none
  | some x, _ => some x.val
  | none, some _ => none

/-- MP_TRAIN.DONE when step `f` fails. -/
def trainDone (f : Nat) : Nat := match f with
  | 6 => 0
  | 1 => 1
  | 2 => 1
  | 3 => 3
  | 4 => 7
  | _ => 15

/-- The device starts to be trained; a second failure leaves it FAILED (R267). From self-refresh only read DQ calibration and write DQ
training are made first (R270); the whole sequence after a failure loses the contents. -/
def trainStart (s : State) (a b : TrainTry) : State :=
  let kept := s.memState == 3
  let s := (s.fs MEMC_STAT_STATE 1).modMem fun m => { m with trainAt := s.now, restored := kept }
  let s := (s.fs MP_TRAIN_DONE (if kept then 7 else 0)).fs MP_TRAIN_FAILSTEP 0
  let ok (s : State) (t : TrainTry) (n : Nat) : State :=
    let d := (t.density.map (·.val)).getD 0
    ((s.fs MP_TRAIN_ATTEMPTS n).fs MEMC_CFG_DENSITY d).fs MEMC_SIZE_MB (dramMB d)
  let fails := if kept then a.fail.any (fun x => decide (4 ≤ x.val) && decide (x.val ≤ 5)) else (trainFails a).isSome
  if !fails then (if kept then s.fs MP_TRAIN_ATTEMPTS 1 else ok s a 1)
  else
    let s := s.modMem fun m => { m with restored := false, dram := if kept then [] else m.dram, flips := if kept then [] else m.flips }
    match trainFails b with
    | none => ok s b 2
    | some f =>
      let s := ((s.fs MP_TRAIN_ATTEMPTS 2).fs MP_TRAIN_FAILSTEP f).fs MP_TRAIN_DONE (trainDone f)
      let s := (s.fs MEMC_STAT_STATE 4).fault pgMEMC 0 0x7B10 f 0
      { s with pow := { s.pow with memFail := true } }.enterDark 2

/-- Training ends: the controller is READY and accepts requests (Table 13.4, R262). -/
def trainEnd (s : State) (r : TrainRes) : State :=
  let s := s.advance (s.mem.trainAt + r.us * Config.us)
  let s := (s.fs MP_TRAIN_TIME (satN 16 r.us)).fs MP_TRAIN_DONE 0x1F
  let s := (s.setReg pgMEMPHY MP_VREF.off (Nat.land r.vref.toNat 0x3F3F)).setReg pgMEMPHY MP_MR.off r.mr.toNat
  let s := r.lanes.zipIdx.foldl (fun s x => if x.2 < 4 then s.fsk MP_LANE 0 x.2 x.1.toNat else s) s
  let s := r.cas.zipIdx.foldl (fun s x => if x.2 < 2 then s.fsk MP_CA 0 x.2 (x.1.toNat % 2 ^ 24) else s) s
  let s := s.fs MEMC_STAT_STATE 2
  let s := s.modMem fun m => { m with
    rows := List.replicate 16 none, owed := List.replicate 16 0, turn := [0, 0], refAt := [s.now, s.now], mr4At := s.now,
    zqAt := s.now, oscAt := s.now, bwAt := s.now, scrubAt := s.now }
  let s := s.ev pgMEMC 0x0B10 (s.fg MEMC_RATE_MTS) kInfo 0
  let d := s.fg MEMC_CFG_DENSITY
  let hint := s.fg MEMC_CFG_HINT
  let s := if hint ≠ 3 ∧ hint ≠ d ∧ !s.mem.restored then s.ev pgMEMC 0x0B11 d kInfo 0 else s
  s.acceptWaiting

/-- MEM loses power with the device in reset: its contents are lost (R270). -/
def memOff (s : State) : State :=
  ((s.fs MEMC_STAT_STATE 0).modMem fun m => { m with dram := [], flips := [], inflight := [], waiting := [] }).showCredits

/-! ### Refresh (R269) -/

/-- tREFIpb in grains. -/
def refInterval (s : State) : Nat := 7808 / 2 ^ s.fg MEMC_REFST_MULT

/-- A refresh of the bank in turn falls due on subchannel `sc`; `n` refreshes of it are issued now, and one more where it would
otherwise owe more than POSTMAX. -/
def refreshTick (s : State) (sc n : Nat) : State :=
  if s.memReady then
    let s := s.advance (nth s.mem.refAt sc 0 + s.refInterval)
    let b := 8 * sc + nth s.mem.turn sc 0 % 8
    let due := nth s.mem.owed b 0 + 1
    let left := due - n
    let force := decide (s.fg MEMC_REF_POSTMAX < left)
    State.sbeTick <| s.modMem fun m => { m with
      owed := modAt m.owed b fun _ => if force then s.fg MEMC_REF_POSTMAX else left,
      rows := if force ∨ 0 < n then modAt m.rows b fun _ => none else m.rows,
      turn := modAt m.turn sc fun x => (x + 1) % 8, refAt := modAt m.refAt sc fun _ => s.now }
  else s

/-- MR4 is read on both subchannels, and the hotter governs both (Table 13.5). OVERTEMP is told once until its bit is cleared. -/
def mr4Poll (s : State) (a b : Nat) : State :=
  if s.memReady then
    let s := s.advance (s.mem.mr4At + s.fg MEMC_REF_MR4MS * Config.ms)
    let h := max a b
    let s := (s.fs MEMC_REFST_MR4 h).fs MEMC_REFST_MULT (if h < 4 then 0 else if h = 4 then 1 else 2)
    let s := (s.fs MEMC_REFST_DERATE (b2n (decide (6 ≤ h)))).fs MEMC_REFST_OVERTEMP (b2n (h == 7))
    let s := s.modMem fun m => { m with mr4At := s.now }
    if h = 7 ∧ !s.hasFault pgMEMC 1 then s.fault pgMEMC 1 0x7B12 (if a = 7 then 0 else 1) 0 else s
  else s

/-! ### Scrubbing (R277) -/

/-- The scrubber reads the next visible word, unless requests of classes 0 and 1 are ready: every word once in SCRUBH hours. -/
def scrub (s : State) (errs : List Nat) : State :=
  let words := s.viewBytes / 8
  if !s.memReady ∨ s.fg ME_CFG_SCRUB = 0 ∨ words = 0 ∨ (s.mem.inflight ++ s.mem.waiting).any (fun r => decide (r.cls < 3)) then s
  else
    let due := s.mem.scrubAt + s.fg ME_CFG_SCRUBH * 3600 * Config.sec / words
    let s := (s.advance due).modMem fun m => { m with scrubAt := due }
    let w := s.mem.scrub % words
    let late := s.mem.inflight.any fun x => x.off == w / 8 * 64 && x.wr.isSome
    let s := s.addFlips w errs
    let s := (s.checkWord w 4 (s.fg ME_CFG_WBACK == 1 && !late)).1
    let nx := (w + 1) % words
    let s := s.fs ME_SCRUBST_POS (nx * 65536 / words)
    let s := if nx = 0 then s.fs ME_SCRUBST_PASSES (s.fg ME_SCRUBST_PASSES + 1) else s
    (s.modMem fun m => { m with scrub := nx }).sbeTick

end State

/-! ### Commands -/

/-- DRAM_TRAINING (R266, R267, R270): MEM has power; the device is initialised and trained, or, in self-refresh, restored. -/
def execDramTraining (a b : TrainTry) (s0 : State) : Ans State :=
  let s := s0.begin_
  .next (if s.powered 4 && (s.memState == 0 || s.memState == 3) then s.trainStart a b else s)

/-- TRAINING_COMPLETE (R266). -/
def execTrainingComplete (r : TrainRes) (s0 : State) : Ans State :=
  let s := s0.begin_
  .next (if s.memState = 1 then s.trainEnd r else s)

/-- ZQ_CALIBRATION (R268): no data is touched. -/
def execZqCalibration (s0 : State) : Ans State :=
  let s := s0.begin_
  .next (if s.memReady then
    let s := s.advance (s.mem.zqAt + 64 * Config.ms)
    s.modMem fun m => { m with zqAt := s.now }
  else s)

/-- DQS_OSCILLATOR (R268): `wdq` gives the lanes' write DQ delays after a move, none while the drift stays within 1/64 UI. -/
def execDqsOscillator (count : Nat) (wdq : Option (List Nat)) (s0 : State) : Ans State :=
  let s := s0.begin_
  .next (if s.memReady then
    let s := s.advance (s.mem.oscAt + 100 * Config.ms)
    let s := (s.fs MP_TRACK_OSC count).modMem fun m => { m with oscAt := s.now }
    match wdq with
    | some l => (l.zipIdx.foldl (fun s x => if x.2 < 4 then s.fsk MP_LANE_WDQ 0 x.2 x.1 else s) s).fs MP_TRACK_ADJ (s.fg MP_TRACK_ADJ + 1)
    | none => s
  else s)

/-- REFRESH (R269). -/
def execRefresh (sc : Fin 2) (n : Nat) (s : State) : Ans State := .next (s.begin_.refreshTick sc.val n)

/-- MR4_POLL (R269). -/
def execMr4Poll (a b : Fin 8) (s : State) : Ans State := .next (s.begin_.mr4Poll a.val b.val)

/-- DRAM_REQUEST (R265, R272). -/
def execDramRequest (u : DUser) (addr : Nat) (wr : Option (List (Option Byte))) (s : State) : Ans State :=
  .next (s.begin_.dramRequest u addr wr)

/-- DRAM_COMPLETION (R276). -/
def execDramCompletion (k : Nat) (errs : List (Nat × List Nat)) (s : State) : Ans State := .next (s.begin_.dramComplete k errs)

/-- SCRUB_READ (R277). -/
def execScrubRead (errs : List Nat) (s : State) : Ans State := .next (s.begin_.scrub errs)

/-- PAGE_IDLE_EXPIRE (R271): a bank without a request for IDLE DRAM clocks is precharged. -/
def execPageIdleExpire (sc : Fin 2) (bank : Fin 8) (s0 : State) : Ans State :=
  let s := s0.begin_
  let i := 8 * sc.val + bank.val
  .next (match nth s.mem.rows i none with
    | some (_, t) =>
      let s := s.advance (t + ceilDiv (s.fg MEMC_PAGE_IDLE * 32000) (s.fg MEMC_RATE_MTS))
      s.modMem fun m => { m with rows := modAt m.rows i fun _ => none }
    | none => s)

/-- Effect of a write of ME_INJ (R281): refused outside SERVICE when it arms. -/
def hInject : Handler := fun s w p o g data =>
  if data % 4 ≠ 0 ∧ s.mode ≠ .service then .error ⟨0x5B10, w.slot⟩ else .ok (storeReg s w p o g data)

/-- Effect of a write of ME_INJA (R281): beyond the view refused. -/
def hInjectAddr : Handler := fun s w p o g data =>
  if s.viewBytes ≤ 8 * (data % 2 ^ 30) then .error ⟨0x1B02, data % 2 ^ 16⟩ else .ok (storeReg s w p o g data)

/-- ERROR_INJECTION (R281): a write of ME_INJ. -/
def execErrorInjection (a : Sys2Proof.Access) (data : Word) (s : State) : Ans State :=
  .next (direct s.begin_ a (regAddr pgMECC ME_INJ.off) data.toNat hInject)

end Sys2Proof.Machine
end

