-- ==== Sys2Proof/Machine/Dim.lean ====
section
/-! DEFINITION. The arithmetic of the dimming engine (chapter 8): the control byte (R174), the distribution of an
occurrence over its sweeps (R176), the place of a pulse in its span (R178), and the checks of an edge word (R184). -/

namespace Sys2Proof.Machine

/-- The fields of a DIM_CUR word. -/
def DimCur.ofWord (w : Nat) : DimCur := ⟨bit w 31, bitsOf w 27 16, bitsOf w 11 0⟩

/-- lg, the lit grains per span: sg − bg, from the span in 2 ns units and the blanking in ns (R171). -/
def litGrains (spanUnits blankNs : Nat) : Nat := 32 * spanUnits - 16 * blankNs

/-- Whether fine current may be chosen (R174, DIM_STAT.FINEOFF). -/
def fineOk (c : DimCur) (lg : Nat) : Bool := c.fineEn && decide (16 * c.fullmin ≤ lg)

/-- The phase GPH of a lamp (R174). -/
def gphOf (px py col : Nat) : Nat := (13 * px + 7 * py + 11 * col) % 32

/-- The control byte of a lamp (R174). -/
def ctlByte (v n lg : Nat) (c : DimCur) (px py col : Nat) : Nat :=
  let gph := gphOf px py col
  let e := v * n * lg
  let pf := v * lg / 2 ^ 24
  let pq := v * lg / 2 ^ 20
  if v = 0 then 0
  else if fineOk c lg then
    if c.fullmin ≤ pf then 0x20 + gph
    else if c.pmin ≤ pq then 0xA0 + gph
    else if c.pmin ≤ e / 2 ^ 20 then 0xC0 + gph
    else 0xE0 + gph
  else if c.pmin ≤ pf then 0x20 + gph
  else if c.pmin ≤ e / 2 ^ 24 then 0x40 + gph
  else 0x60 + gph

/-- The shift of one unit: one grain at the current the byte chooses (R176). -/
def unitShift (ctl : Nat) : Nat := if ctl / 128 % 2 = 1 then 20 else 24

/-- t, the units of this occurrence (R176); `dd` the low 24 bits of the DCN. -/
def occUnits (v n lg ctl dd : Nat) : Nat :=
  let u := 2 ^ unitShift ctl
  let e := v * n * lg
  let f := e % u
  let hc := ctl % 32 * 2 ^ (unitShift ctl - 5)
  e / u + (((dd + 1) * f + hc) / u - (dd * f + hc) / u)

/-- The pulse of sweep `j`, in grains at the current of the byte (R176). -/
def pulseAt (v n lg pmin ctl dd j : Nat) : Nat :=
  let t := occUnits v n lg ctl dd
  let gph := ctl % 32
  let ph := gph * n / 32
  match ctl / 32 % 4 with
  | 1 => ((j + 1) * t + ph) / n - (j * t + ph) / n
  | 2 =>
    let k := min n (t / pmin)
    let i := (j * k + ph) / n
    let i0 := ph / n
    if (((j + 1) * k + ph) / n - i) = 1 then (i - i0 + 1) * t / k - (i - i0) * t / k else 0
  | 3 =>
    let u := unitShift ctl
    let e := v * n * lg
    let pw := pmin * 2 ^ u
    let hc := gph * 2 ^ (u - 5)
    if ((dd + 1) * e + hc) / pw - (dd * e + hc) / pw = 1 ∧ j = ph then pmin else 0
  | _ => 0

/-- The on edge of a pulse of `p` grains of stone `k` (R178). -/
def placeOn (bg lg p k align stag : Nat) : Nat :=
  let room := lg - p
  let base := if align = 0 then 0 else if align = 1 then room / 2 else room
  bg + min (base + k * stag) room

/-- No pulse. -/
def EdgeWord.none : EdgeWord := ⟨false, false, 0, 0⟩

/-- The edge word of a lamp in one span: its byte, its pulse and its place (R179). -/
def edgeWordOf (v n lg pmin ctl dd j bg stone align stag : Nat) : EdgeWord :=
  let p := pulseAt v n lg pmin ctl dd j
  let on := placeOn bg lg p stone align stag
  if p = 0 then ⟨false, ctl / 128 % 2 == 1, 0, 0⟩ else ⟨true, ctl / 128 % 2 == 1, on + p, on⟩

/-- What the check of R184 finds in an edge word (Table 8.4). -/
inductive EdgeFind
  | placed | nothing | order | short | range
  deriving DecidableEq, Repr

/-- The check of R184: `bg` and `sg` bound the lit interval. -/
def edgeCheck (bg sg : Nat) (w : EdgeWord) : EdgeFind :=
  if !w.valid || w.off == w.on then .nothing
  else if w.off < w.on then .order
  else if w.off - w.on < 192 then .short
  else if w.on < bg || sg < w.off then .range
  else .placed

end Sys2Proof.Machine
end

