-- ==== Sys2Proof/Machine/Patt.lean ====
section
/-! DEFINITION. Pattern engines (R137 to R140): instructions (Table 6.2), the program check, the rendering of a frame, and the
instants at which frames are promised. -/

namespace Sys2Proof.Machine

/-- One instruction: its four words. -/
structure PInstr where
  w0 : Nat
  w1 : Nat
  w2 : Nat
  w3 : Nat
  deriving DecidableEq, Repr

/-- Instruction `i` of bank `b` of engine `e`. -/
def pinstr (r : Regs) (e b i : Nat) : PInstr :=
  let base := (if b = 0 then 0x400 else 0xA00) + 16 * i
  ⟨rget r 0 (pgPATT + e) base, rget r 0 (pgPATT + e) (base + 4), rget r 0 (pgPATT + e) (base + 8), rget r 0 (pgPATT + e) (base + 12)⟩

namespace PInstr

/-- Opcode. -/
def op (p : PInstr) : Nat := p.w0 / 2 ^ 24

/-- Word 0 below the opcode. -/
def arg (p : PInstr) : Nat := p.w0 % 2 ^ 24

/-- Low and high halves of word 1 and of word 2. -/
def lo1 (p : PInstr) : Nat := p.w1 % 2 ^ 16
/-- High half of word 1. -/
def hi1 (p : PInstr) : Nat := p.w1 / 2 ^ 16
/-- Low half of word 2. -/
def lo2 (p : PInstr) : Nat := p.w2 % 2 ^ 16
/-- High half of word 2. -/
def hi2 (p : PInstr) : Nat := p.w2 / 2 ^ 16

/-- Reserved opcode, non-zero unused field, target or cell out of range: 0x1410 of R139. -/
def malformed (p : PInstr) : Bool :=
  let z12 := p.w1 == 0 && p.w2 == 0 && p.w3 == 0
  match p.op with
  | 0 => !(p.arg == 0 && z12)
  | 1 => !(p.arg == 0 && p.w3 == 0)
  | 2 => !(decide (p.arg < 4) && decide (p.lo2 < 256) && p.w3 == 0)
  | 3 => !(decide (p.arg < 4) && z12)
  | 4 => !(decide (p.arg < 32) && z12)
  | 5 => !(decide (p.arg < 16) && decide (1 ≤ p.hi1) && decide (p.hi1 ≤ 512) && decide (1 ≤ p.lo1) && decide (p.lo1 ≤ 512) &&
    p.w2 == 0 && p.w3 == 0)
  | 6 => !decide (p.arg < 256)
  | 7 => !(p.arg == 0 && z12)
  | 8 => !(decide (p.arg < 96) && z12)
  | 9 => !(p.arg == 0 && z12)
  | _ => true

end PInstr

/-- The clip an instruction names, in a store. -/
def clipOf (clips : List Clip) (id : Nat) : Option Clip := clips.find? fun c => c.id == id

/-- 96 consecutive instructions of the path from instruction 0 with no FRAME or HOLD: the index where the run is complete. `run`
counts since the last FRAME. -/
def loopAt (prog : List PInstr) : (fuel pc run : Nat) → Option Nat
  | 0, _, _ => none
  | fuel + 1, pc, run =>
    let p := nth prog pc ⟨0, 0, 0, 0⟩
    if p.op = 9 then none
    else if p.op = 7 then loopAt prog fuel ((pc + 1) % 96) 0
    else if 96 ≤ run + 1 then some pc
    else loopAt prog fuel (if p.op = 8 then p.arg % 96 else (pc + 1) % 96) (run + 1)

/-- The program check of R139 on a bank. -/
def progCheck (r : Regs) (clips : List Clip) (e b : Nat) : Option Rc :=
  let prog := (List.range 96).map (pinstr r e b)
  match findIdx? prog PInstr.malformed with
  | some i => some ⟨0x1410, i⟩
  | none => match loopAt prog 9500 0 0 with
    | some i => some ⟨0x2415, i⟩
    | none =>
      let bad (p : PInstr) : Bool := p.op == 6 && match clipOf clips (p.arg % 64) with
        | some c => !bit p.arg 7 && decide (c.frames.length ≤ p.w3)
        | none => true
      (findIdx? prog bad).map fun i => ⟨0x2416, i⟩

/-- Clips a bank names. -/
def clipsNamed (r : Regs) (e b : Nat) : List Nat :=
  (List.range 96).filterMap fun i => let p := pinstr r e b i; if p.op = 6 then some (p.arg % 64) else none

/-- Drawing state: engine, picture, program counter. -/
structure Draw where
  patt : Patt
  img : List Px
  pc : Nat
  stop : Bool
  deriving DecidableEq, Repr

/-- Colour register `k`. -/
def Patt.col (p : Patt) (k : Nat) : Px := nth p.colours k Px.zero

/-- The region in force on a W × H grid. -/
def Patt.rgn (p : Patt) (w h : Nat) : Nat × Nat × Nat × Nat := p.region.getD (0, 0, w - 1, h - 1)

/-- One drawing instruction on a W × H grid; `fc` is PATT_FC (Table 6.2). -/
def drawOne (w h fc : Nat) (i : PInstr) (d : Draw) : Draw :=
  let p := d.patt
  let rg := p.rgn w h
  match i.op with
  | 1 => { d with patt := { p with region := some (i.lo1, i.hi1, i.lo2, i.hi2) } }
  | 2 => { d with patt := { p with colours := modAt p.colours (i.arg % 4) fun _ => ⟨i.hi1, i.lo1, i.hi2, i.lo2 % 256⟩ } }
  | 3 => { d with img := drawRegion w h rg (fun _ _ => some (p.col (i.arg % 4))) d.img }
  | 4 =>
    let a := p.col (i.arg % 4)
    let b := p.col (i.arg / 4 % 4)
    let along := bit i.arg 4
    let n := if along then rg.2.2.2 - rg.2.1 else rg.2.2.1 - rg.1
    let f (x y : Nat) : Px :=
      let t := if along then y - rg.2.1 else x - rg.1
      ⟨gradC a.r b.r t n, gradC a.g b.g t n, gradC a.b b.b t n, gradC a.a b.a t n⟩
    { d with img := drawRegion w h rg (fun x y => some (f x y)) d.img }
  | 5 =>
    let f (x y : Nat) : Px :=
      if ((x - rg.1) / i.lo1 + (y - rg.2.1) / i.hi1) % 2 = 0 then p.col (i.arg % 4) else p.col (i.arg / 4 % 4)
    { d with img := drawRegion w h rg (fun x y => some (f x y)) d.img }
  | 6 => match clipOf p.clips (i.arg % 64) with
    | some c =>
      let fr := if bit i.arg 7 then (i.w3 + fc) % c.frames.length else i.w3
      let f (x y : Nat) : Option Px :=
        clipPx c fr (bit i.arg 6) rg.1 rg.2.1 (sgn 16 i.lo1) (sgn 16 i.hi1) (sgn 16 i.lo2) (sgn 16 i.hi2) fc x y
      { d with img := drawRegion w h rg f d.img }
    | none => d
  | _ => d

/-- Run the program until FRAME or HOLD (R138). -/
def runFrame (prog : List PInstr) (w h fc : Nat) : (fuel : Nat) → Draw → Draw
  | 0, d => d
  | fuel + 1, d =>
    let i := nth prog d.pc ⟨0, 0, 0, 0⟩
    let nx := (d.pc + 1) % 96
    match i.op with
    | 7 => { d with pc := nx }
    | 9 => { d with pc := nx, stop := true }
    | 8 => runFrame prog w h fc fuel { d with pc := i.arg % 96 }
    | _ => runFrame prog w h fc fuel { (drawOne w h fc i d) with pc := nx }

namespace State

/-- Engine `e`. -/
def patt (s : State) (e : Nat) : Patt := nth s.patts e Patt.idle

/-- Change engine `e`. -/
def modPatt (s : State) (e : Nat) (f : Patt → Patt) : State := { s with patts := modAt s.patts e f }

/-- The half-array of engine `e` serves. -/
def halfServes (s : State) (b : Bool) : Bool := if b then s.fg PIX_HALF_B == 1 else s.fg PIX_HALF_A == 1

/-- Clips that an engine's bank names and that it does not hold yet (R139: a replaced clip stays until the engine stops). -/
def takeClips (s : State) (e b : Nat) : State :=
  let add := s.clips.filter fun c => (clipsNamed s.regs e b).contains c.id && (clipOf (s.patt e).clips c.id).isNone
  s.modPatt e fun p => { p with clips := p.clips ++ add }

/-- Start to render a frame promised for `d` (R137); a bank switched since starts at instruction 0 (Table 6.3). -/
def pattRender (s : State) (e d : Nat) : State :=
  let b := s.fgi PATT_CFG_BANK e
  let s := if b = (s.patt e).bank then s else (s.takeClips e b).fsi PATT_STAT_PC e 0
  (s.modPatt e fun p => { p with rendering := true, promised := d, overrun := false, bank := b }).fsi PATT_STAT_STATE e 1

/-- ENABLE takes effect: frame 0 is rendered, promised for the next DCN to start (R137). -/
def pattStart (s : State) (e : Nat) : State :=
  let b := s.fgi PATT_CFG_BANK e
  let s := s.modPatt e fun p => { Patt.idle with bank := b, newest := p.newest, since := s.now }
  let s := ((s.fsi PATT_FC_FC e 0).fsi PATT_STAT_PC e 0).fsi PATT_DCN0_DCN e 0
  let s := s.takeClips e b
  if s.fg (hHOLD (pgPATT + e)) = 1 then s.fsi PATT_STAT_STATE e 2 else s.pattRender e (add32 s.dcn 1)

/-- Disabled: rendering stops, the newest finished frame is kept (R137). -/
def pattStop (s : State) (e : Nat) : State :=
  (s.modPatt e fun p => { p with rendering := false, clips := [] }).fsi PATT_STAT_STATE e 0

/-- A display cycle with DCN `s.dcn` starts: DCN0, overruns and the next frame of engine `e` (R137). A cycle that starts as ENABLE takes
effect is not after it; an instant that passes during HOLD is no overrun, and its frame is late all the same. -/
def pattCycle (s : State) (e : Nat) : State :=
  if !s.active (pgPATT + e) ∨ ((s.patt e).since = s.now ∧ !(s.patt e).dcn0set) then s
  else
    let p0 := s.patt e
    let n := s.dcn
    let div := s.fgi PATT_CFG_DIV e
    let held := s.fg (hHOLD (pgPATT + e)) == 1
    let s := if p0.dcn0set then s
      else (s.modPatt e fun p => { p with
        dcn0set := true, promised := if p.overrun then p.promised else n,
        newest := if 0 < p.k then p.newest.map fun x => (n, x.2) else p.newest }).fsi PATT_DCN0_DCN e n
    let s := if p0.dcn0set ∨ p0.k = 0 then s else s.fsi PATT_NEWDCN_DCN e n
    let p := s.patt e
    let due := p.promised == n || dcnFuture n p.promised
    if p.rendering then
      if due ∧ !p.overrun then
        let s := s.modPatt e fun p => { p with overrun := true }
        if held then s else (s.inc PATT_CNT_OVERRUN e 1).fault (pgPATT + e) 0 0x6412 e e
      else s
    else if p.halted ∨ held ∨ (div = 0 ∧ 0 < p.k) then s
    else if p.k = 0 ∧ div = 0 then s.pattRender e n
    else if due then
      let d0 := s.fgi PATT_DCN0_DCN e
      if div ≠ 0 ∧ sub32 n d0 % div = 0 then s.pattRender e (add32 n div) else s
    else s

/-- The instant for which a late frame is promised: the first at or after its completion (R137). -/
def pattLateDcn (s : State) (e : Nat) : Nat :=
  let d0 := s.fgi PATT_DCN0_DCN e
  let div := s.fgi PATT_CFG_DIV e
  if div = 0 then add32 s.dcn 1
  else add32 s.dcn (div - sub32 s.dcn d0 % div)

/-- Clips with the pixels of poisoned words read as (0, 0, 0, 0) (Table 13.7): clip identifier, frame, pixel. -/
def poisonClips (clips : List Clip) (poison : List (Nat × Nat × Nat)) : List Clip :=
  clips.map fun c => { c with
    frames := c.frames.zipIdx.map fun x => x.1.zipIdx.map fun y => if poison.contains (c.id, x.2, y.2) then Px.zero else y.1 }

/-- The frame in progress finishes (R137, R138): a new frame of every window that uses the engine as source or overlay. -/
def pattDone (s : State) (e : Nat) (poison : List (Nat × Nat × Nat)) : State :=
  let p := s.patt e
  if !p.rendering ∨ !s.halfServes (decide (8 ≤ e)) then s
  else
    let w := s.wmap.w
    let h := s.wmap.h
    let prog := (List.range 96).map (pinstr s.regs e p.bank)
    let d := runFrame prog w h (s.fgi PATT_FC_FC e) 97
      ⟨{ p with clips := if poison.isEmpty then p.clips else poisonClips p.clips poison }, List.replicate (w * h) Px.zero, s.fgi PATT_STAT_PC e, false⟩
    let dcn := if p.overrun then s.pattLateDcn e else p.promised
    let s := s.modPatt e fun _ => { d.patt with
      clips := p.clips, rendering := false, halted := d.stop, k := p.k + 1, promised := dcn, newest := some (dcn, d.img) }
    let s := (s.fsi PATT_STAT_PC e d.pc).fsi PATT_FC_FC e (add32 (s.fgi PATT_FC_FC e) 1)
    let s := (s.inc PATT_CNT_FRAMES e 1).fsi PATT_NEWDCN_DCN e dcn
    let s := s.fsi PATT_STAT_STATE e (if d.stop ∨ s.fgi PATT_CFG_DIV e = 0 then 3 else 2)
    (List.range 16).foldl (fun s w =>
      let src := s.fgk WIN_SRC_ACT_KIND 0 w == 2 && s.fgk WIN_SRC_ACT_INDEX 0 w == e
      let ovl := s.fgk WIN_OVL_ACT_OKIND 0 w == 2 && s.fgk WIN_OVL_ACT_OINDEX 0 w == e
      if src || ovl then s.newFrame w dcn src ovl else s) s

end State

/-- PATTERN_FRAME_DONE (R137): engine `e` finishes the frame in progress; `poison`: clip pixels read from poisoned words. -/
def execPatternFrameDone (e : Fin 16) (poison : List (Nat × Nat × Nat)) (s : State) : Ans State :=
  .next (s.begin_.pattDone e.val poison)

end Sys2Proof.Machine
end

