-- ==== Sys2Proof/Machine/Plan.lean ====
section
/-! DEFINITION. Plans (chapters 1 and 7): what a job reads (R133, R154), the entries it computes (R148), the order of jobs (R153),
their start (R18) and completion (R155, R156), and the directory read of an occurrence (R19, R131, R132). -/

namespace Sys2Proof.Machine

/-! ### One lamp -/

/-- The linear inputs of pixel (px, py), index `i`, of a source; none for dark (R148 step 1). -/
def JobIn.linearAt (j : JobIn) (i px py : Nat) : Option (Nat × Nat × Nat) := match j.src with
  | .dark => none
  | .feed _ _ _ fmt _ bytes =>
    let x := pixelRGB fmt bytes j.pal i
    let t (c : Nat) : Option (List Nat) := j.degam.map fun l => nth l c []
    some (linear (t 0) x.1, linear (t 1) x.2.1, linear (t 2) x.2.2)
  | .patt _ _ img =>
    let p := nth img (py * j.wire.w + px) Px.zero
    some (linIdentity p.r, linIdentity p.g, linIdentity p.b)

/-- The coefficient entry of lamp `l`, colour `col` (R152). -/
def JobIn.coefOf (j : JobIn) (l col : Nat) : Coef := match j.coef with
  | none => Coef.bypass col
  | some m => cget m l ⟨0, 0, 0, 0, false⟩

/-- The lamp value of pixel `i` at (px, py), colour `col` (R148 steps 1 to 4). -/
def JobIn.value (j : JobIn) (i px py col : Nat) : Nat :=
  let th := ditherTh j.dith px py col j.dcn
  let c := j.coefOf (3 * i + col) col
  let sv := match j.linearAt i px py with
    | some y => correct c y th
    | none => 0
  match j.ovl with
  | some (_, _, img) =>
    let p := nth img (py * j.wire.w + px) Px.zero
    overlay sv (correct c (linIdentity p.r, linIdentity p.g, linIdentity p.b) th) j.walpha p.a
  | none => sv

/-- A plan entry: control byte and lamp value (R17, R148 step 5). -/
def JobIn.entry (j : JobIn) (i px py col : Nat) : Nat :=
  let v := j.value i px py col
  ctlByte v j.n j.lg j.cur px py col * 2 ^ 24 + v

/-- The pixels of a map in index order, with their coordinates (R195). -/
def WireMap.pixels (m : WireMap) : List (Nat × Nat) :=
  (List.range m.rowsUsed).flatMap fun r => (m.rowSlots r).map fun j => m.pixel j r

/-- The entries a job computes; a lamp whose coefficient read met a double-bit error (R165), or whose input came from a poisoned DRAM
word (Table 13.7), takes value 0. -/
def JobIn.entries (j : JobIn) (dbe : List Nat) : List Nat :=
  j.wire.pixels.zipIdx.flatMap fun x => (List.range 3).map fun col =>
    if dbe.contains (3 * x.2 + col) then 0 else j.entry x.2 x.1.1 x.1.2 col

/-- Feed whose new frame released the job (R132). -/
def JobIn.newFeed (j : JobIn) : Option (Nat × Nat) := match j.src with
  | .feed n _ d _ _ _ => if j.srcNew then some (n, d) else none
  | _ => none

/-- One entry of a plan from the inputs that the directory records (R218). -/
def JobIn.entryAt (j : JobIn) (zero : List Nat) (l : Nat) : Nat :=
  let p := nth j.wire.pixels (l / 3) (0, 0)
  if zero.contains l then 0 else j.entry (l / 3) p.1 p.2 (l % 3)

namespace State

/-! ### Job inputs (R133) -/

/-- The newest plan of a window. -/
def newestPlan (s : State) (w : Nat) : Option Plan := match (s.dirOf w).pend with
  | some p => some p
  | none => (s.dirOf w).cur

/-- The newest complete frame of a source. -/
def newestFrame (s : State) (kind idx pic : Nat) : Src :=
  if kind = 1 then match nth (s.feed idx).newest pic none with
    | some d => match (s.feed idx).sets.find? fun x => x.dcn == d && (nth x.pics pic ⟨[], false⟩).done with
      | some x => .feed idx pic d x.fmt x.id (nth x.pics pic ⟨[], false⟩).bytes
      | none => .dark
    | none => .dark
  else if kind = 2 then match (s.patt idx).newest with
    | some (d, img) => .patt idx d img
    | none => .dark
  else .dark

/-- The source frame of a job (R133): the newest for a new frame or a new source, else the newest plan's. -/
def jobSrc (s : State) (w : Nat) (new : Bool) : Src :=
  let a := s.srcAct w
  let fresh := s.newestFrame a.1 a.2.1 a.2.2
  if new then fresh
  else match s.newestPlan w with
    | some pl => match pl.inp.src with
      | .feed n p d f i b => if a.1 = 1 ∧ a.2.1 = n ∧ a.2.2 = p then .feed n p d f i b else fresh
      | .patt e d img => if a.1 = 2 ∧ a.2.1 = e then .patt e d img else fresh
      | .dark => fresh
    | none => fresh

/-- The overlay frame of a job (R133, R136): none while hidden. -/
def jobOvl (s : State) (w : Nat) (new : Bool) : Option (Nat × Nat × List Px) :=
  let e := s.fgk WIN_OVL_ACT_OINDEX 0 w
  if s.fgk WIN_OVL_ACT_OKIND 0 w ≠ 2 ∨ s.fgk WIN_OVL_ACT_ALPHA 0 w = 0 then none
  else
    let fresh := (s.patt e).newest.map fun x => (e, x.1, x.2)
    if new then fresh
    else match s.newestPlan w with
      | some pl => match pl.inp.ovl with
        | some o => if o.1 = e then some o else fresh
        | none => fresh
      | none => fresh

/-- lg under the registers in force (R171). -/
def litG (s : State) : Nat := litGrains (s.fg SCAN_SPAN_UNITS) (2 * s.fg SCAN_BLANK_BLANK)

/-- What a job for window `w` reads when it starts now (R133, R154). -/
def jobInput (s : State) (r : Rel) : JobIn :=
  let w := r.win
  let src := s.jobSrc w r.src
  let ovl := s.jobOvl w r.ovl
  let n := match src with
    | .feed n _ _ _ _ _ => some n
    | _ => none
  let d := match src, ovl with
    | .feed _ _ d _ _ _, _ => d
    | .patt _ d _, _ => d
    | .dark, some o => o.2.1
    | .dark, none => s.dcn
  { src := src, pal := (n.map (paletteOf s.regs)).getD [], degam := n.bind (degammaOf s.regs),
    dgBank := (n.map (s.fgi FEED_DG_BANK)).getD 0, ovl := ovl,
    walpha := s.fgk WIN_OVL_ACT_ALPHA 0 w, dith := s.fg PIX_DITH_EN == 1, cur := DimCur.ofWord (s.fg DIM_CUR),
    n := winSweeps s.regs w, lg := s.litG, coef := if s.fg CORR_NSET_NSET = 0 then none else s.blend.front,
    copy := s.blend.swaps, wire := s.wmap, dcn := d, srcNew := r.src, ovlNew := r.ovl,
    curGen := s.scan.curGen }

/-! ### The order and start of jobs (R153, R18) -/

/-- When window `w`'s next directory read comes, as a rising key (R153): in this cycle, else in the next, else, when the read for the
next cycle is made already, in the one after it. -/
def readKey (s : State) (w : Nat) : Nat :=
  let first := winFirst s.regs w * s.fg SCAN_RATIO_ROWS
  let at_ := s.scan.sweep * s.fg SCAN_RATIO_ROWS + s.scan.span
  if !s.scan.inCycle ∨ at_ + 2 < first then first
  else if first = 0 ∧ (s.opensIn w).isSome = true then 2 ^ 33
  else first + 2 ^ 32

/-- The released job that goes first. -/
def nextRel (s : State) : Option Rel :=
  s.pix.released.foldl (fun b x => match b with
    | none => some x
    | some y =>
      let kx := s.readKey x.win
      let ky := s.readKey y.win
      if kx < ky ∨ (kx = ky ∧ x.win < y.win) then some x else b) none

/-- Units of one plan buffer (R17). -/
def planUnits (s : State) : Nat := ceilDiv (4 * s.wmap.lamps) 65536

/-- Plan-store units in use: current and pending buffers, those of jobs in flight, and a plan that a directory read has taken (R18 to
R20). -/
def unitsUsed (s : State) : List Nat :=
  (s.pix.dir.flatMap fun d => (d.cur.map (·.units)).getD [] ++ (d.pend.map (·.units)).getD []) ++ s.pix.jobs.flatMap (·.units) ++
  (List.range 16).flatMap fun w => if s.winOn w then ((s.readPlan w).map (·.units)).getD [] else []

/-- Free units of the pool, rising (Table 1.5). Which of them a job claims is the model's choice: the lowest, adjacent or not (log entry
63). -/
def unitsFree (s : State) : List Nat :=
  let used := s.unitsUsed
  (List.range 252).filterMap fun i => if used.contains (i + 4) then none else some (i + 4)

/-- Engines retired. -/
def retired (s : State) : List Nat :=
  (List.range 64).filter fun e => if e < 32 then bit (s.fg PIX_RET_A) e else bit (s.fg PIX_RET_B) (e - 32)

/-- Engines in service: of a half-array that serves, not retired (R153, R156). -/
def inService (s : State) : List Nat :=
  (List.range 64).filter fun e => s.halfServes (decide (32 ≤ e)) && !s.retired.contains e

/-- An engine is in service. -/
def arrayServes (s : State) : Bool := !s.inService.isEmpty

/-- Blend state of CORR_STAT (Table 7.2). -/
def blendState (s : State) : Nat := s.fg CORR_STAT_BLEND

/-- A blend that runs before the regeneration jobs is under way (R163). -/
def blendFirst (s : State) : Bool := s.blend.fast && s.blendState != 0

/-- The blend starts its slices: no plan job is under way or can start before it (R153), or it runs first (R163). -/
def blendBegin (s : State) : State :=
  let ready := s.pix.released.any fun r => s.winOn r.win && s.active pgWIRE && decide (s.planUnits ≤ s.unitsFree.length)
  if s.blendState = 1 ∧ (s.blend.fast ∨ (s.pix.jobs.isEmpty ∧ !ready)) then
    { s with blend := { s.blend with begun := true } }
  else s

/-- An audit alone released the job, and a newer plan has replaced the audited one (Table 10.5). -/
def auditOld (s : State) (r : Rel) : Bool := r.audit.any fun a =>
  a.solo && ((s.dirOf r.win).pend.isSome || !(s.dirOf r.win).cur.any fun (p : Plan) => p.id == a.plan)

/-- Start the next released job, when a buffer is free (R18, R153). -/
def jobStart (s : State) : State :=
  match s.nextRel with
  | none => s
  | some r =>
    let drop (s : State) : State := s.modPix fun p => { p with released := p.released.filter (· != r) }
    if !s.winOn r.win || !s.active pgWIRE then drop s
    else if !s.arrayServes || s.blendFirst || decide (s.unitsFree.length < s.planUnits) then s
    else
      let job : Job := ⟨r.win, s.jobInput r, s.unitsFree.take s.planUnits, s.pix.serial % 64, s.now, s.auditOld r, r.audit⟩
      (drop s).modPix fun p => { p with jobs := p.jobs ++ [job], serial := p.serial + 1 }

/-! ### Retirement and completion (R155, R156) -/

/-- The engine at place `i` of a list, counted round. -/
def pickEngine (l : List Nat) (i : Nat) : Nat := nth l (i % l.length) 0

/-- The engines that compute the slices of a job of `n` lamps, chosen by `pick` (R153); a slice under audit goes to another engine than
the one audited, where there is one (R218). -/
def sliceEngines (s : State) (n : Nat) (pick : List Nat) (audit : List (Nat × Nat)) : List Nat :=
  (List.range (ceilDiv n 768)).map fun k =>
    let l := s.inService.filter fun e => !audit.contains (k, e)
    pickEngine (if l.isEmpty then s.inService else l) (nth pick k 0)

/-- The second engine of a check of engine `e`: of the other half-array when that has one, else another of the same half (R155). -/
def secondOf (s : State) (e : Nat) : List Nat :=
  let other := s.inService.filter fun x => decide (x < 32) != decide (e < 32)
  if other.isEmpty then s.inService.filter (· != e) else other

/-- The spot checks of a job of `n` lamps and serial `j` (R155, R156): how many results differ, and the engines whose result a third
engine's contradicts. A check that the job does not make, or that no second engine can make, is none. -/
def spotCheck (s : State) (n j : Nat) (engines : List Nat) (l : List Spot) : Nat × List Nat :=
  let bad := l.filterMap fun x =>
    let a := nth engines (x.lamp / 768) 0
    if decide (x.lamp < n) && (x.lamp + j) % 64 == 0 && !(s.secondOf a).isEmpty && x.e1 != x.e2 then
      let b := pickEngine (s.secondOf a) x.second
      let third := !(s.inService.filter fun e => e != a && e != b).isEmpty
      some ((if third && x.e1 != x.e3 then [a] else []) ++ if third && x.e2 != x.e3 then [b] else [])
    else none
  (bad.length, bad.flatten.eraseDups)

/-- Retire an engine (R156). -/
def retire (s : State) (e : Nat) : State :=
  if s.retired.contains e then s
  else
    let s := if e < 32 then s.fs PIX_RET_A (Nat.lor (s.fg PIX_RET_A) (2 ^ e)) else s.fs PIX_RET_B (Nat.lor (s.fg PIX_RET_B) (2 ^ (e - 32)))
    let s := s.fault pgPIX 0 0x7510 e e
    let n := s.retired.length
    if 6 < n then s.fault pgPIX 1 0x7511 n e else s

/-- Lamps of `n` that a job of serial `j` checks twice (R155). -/
def spotLamps (n j : Nat) : Nat := ((List.range (n / 64 + 1)).filter fun k => decide (64 * k + (64 - j % 64) % 64 < n)).length

/-- A double-bit error of the coefficient store met by a job (R165): recorded; the blend is released by the caller. -/
def coefDbe (s : State) (l : Nat) : State := (s.fs CORR_DBE_LAMP l).fault pgCORR 0 0x7512 l 0

/-- The plan of a feed's frame `d` has missed its DCN: the read of window `w`'s occurrence in `d` has passed (R132). -/
def missedNow (s : State) (w : Nat) (j : JobIn) : Bool := match j.newFeed with
  | some (_, d) => match nth s.pix.readFor w none with
    | some x => x == d || dcnFuture x d
    | none => false
  | none => false

/-- Count a missed plan; true when it is discarded (STRICT). -/
def missed (s : State) (j : JobIn) : State × Bool := match j.newFeed with
  | some (n, _) => (s.inc FEED_CNT2_MISSED n 1, s.fgi FEED_LATE_STRICT n == 1)
  | none => (s, false)

/-- PIX_JOBLAT at the end of a job that started at `t` (R154). -/
def jobLat (s : State) (t : Nat) : State :=
  let us := satN 16 ((s.now - t) / Config.us)
  (s.fs PIX_JOBLAT_LAST us).fs PIX_JOBLAT_MAX (max us (s.fg PIX_JOBLAT_MAX))

/-- Job `j` of the list completes with the results of its spot checks (R153, R155, R156, R132, Table 1.6). -/
def jobDone (s : State) (k : Nat) (r : JobResult) : State :=
  match if s.arrayServes then s.pix.jobs[k]? else none with
  | none => s
  | some j =>
    let s := s.modPix fun p => { p with jobs := p.jobs.eraseIdx k }
    let s := (s.jobLat j.startAt).inc PIX_SPOTCNT_CHECKS 0 (spotLamps j.inp.wire.lamps j.serial)
    let s := r.dbe.foldl State.coefDbe s
    let audit := (j.audit.map (·.slices)).getD []
    let engines := s.sliceEngines j.inp.wire.lamps r.engines audit
    let spots := s.spotCheck j.inp.wire.lamps j.serial engines r.spots
    let s := audit.foldl (fun s x =>
      if r.auditDiff.contains x.1 then (s.retire x.2).fault pgRDBK 2 0x7813 x.2 x.2
      else (s.fs RB_CFG_AUDIT_EN 0).fault pgRDBK 2 0x7813 0x00FF 0xFF) s
    if spots.1 ≠ 0 then
      let s := (s.inc PIX_SPOTCNT_MISMATCH 0 spots.1).inc PIX_JOBCNT_DISCARDED 0 1
      let s := spots.2.foldl State.retire s
      if j.drop then s else s.releaseFor j.win j.inp.srcNew j.inp.ovlNew
    else if j.drop then (s.inc PIX_JOBCNT_DISCARDED 0 1).feedTidyAll
    else
      let late := s.missedNow j.win j.inp
      let (s, gone) := if late then s.missed j.inp else (s, false)
      if gone then (s.inc PIX_JOBCNT_DISCARDED 0 1).feedTidyAll
      else
        let pl : Plan := ⟨s.pix.plans, j.units, j.inp, j.inp.entries (r.dbe ++ r.poison), engines, r.dbe ++ r.poison⟩
        let s := s.modPix fun p => { p with plans := p.plans + 1, dir := modAt p.dir j.win fun d => { d with pend := some pl } }
        ((s.inc PIX_JOBCNT_DONE 0 1).deferHeld j.win).feedTidyAll

/-! ### The directory read (R19, R131, R132) -/

/-- A plan may be taken for an occurrence in DCN `d`: none of its frames is promised for a later one (R131). -/
def planDue (pl : Plan) (d : Nat) : Bool := pl.inp.frames.all fun x => !dcnFuture x d

/-- The first span of window `w`'s occurrence in the DCN in progress: the plan that the read two spans earlier found pending
becomes current, a plan still pending for this DCN has missed it, and deferred releases are looked at. -/
def openWindow (s : State) (w : Nat) : State :=
  let d := s.dcn
  let s := match nth s.scan.seenPrev w none with
    | some pl =>
      if planDue pl d then
        s.modPix fun p => { p with dir := modAt p.dir w fun x => ⟨some pl, if x.pend.any (fun (y : Plan) => y.id == pl.id) then none else x.pend⟩ }
      else s
    | none => s
  let s := s.modPix fun p => { p with readFor := modAt p.readFor w fun _ => some d }
  let s := match (s.dirOf w).pend with
    | some pl => match pl.inp.newFeed with
      | some (_, x) =>
        if x = d then
          let (s, gone) := s.missed pl.inp
          if gone then s.modPix fun p => { p with dir := modAt p.dir w fun y => { y with pend := none } } else s
        else s
      | none => s
    | none => s
  (s.undefer w).feedTidyAll

end State

/-- JOB_START (R18, R153): the released job whose window's directory read comes first claims a buffer and starts; with no buffer
free, or nothing released, it waits, and the blend's slices may start. -/
def execJobStart (s : State) : Ans State := .next s.begin_.jobStart.blendBegin

end Sys2Proof.Machine
end

