-- ==== Sys2Proof/Machine/Correction.lean ====
section
/-! DEFINITION. Coefficient copies and the blend (R161 to R165, Table 7.2), T-sets (R157), and the temperature field (R158 to
R160). -/

namespace Sys2Proof.Machine

/-- The weight of a sensor at distance (dx, dy) (R160). -/
def zoneWeight (dx dy : Int) : Nat := (2 : Nat) ^ 24 / Int.toNat (256 + dx * dx + dy * dy)

namespace State

/-! ### Selection and the blend -/

/-- Change the blend's state. -/
def modBlend (s : State) (f : BlendSt → BlendSt) : State := { s with blend := f s.blend }

/-- Both half-arrays serve. -/
def bothServe (s : State) : Bool := s.halfServes false && s.halfServes true

/-- Every set below NSET is LOADED. -/
def setsLoaded (s : State) : Bool :=
  (List.range (s.fg CORR_NSET_NSET)).all fun k => s.fgk CORR_TS_A_LOADED 0 k == 1

/-- Reference temperature of set `k`. -/
def tref (s : State) (k : Nat) : Int := sgn 16 (s.fgk CORR_TS_REF_TREF 0 k)

/-- Temperature of zone `z`. -/
def zoneT (s : State) (z : Nat) : Int := sgn 16 (s.fgk TF_Z_TEMP 0 z)

/-- The selection of every zone from the field in force (R161); with NSET 0 there is none, and the copy holds bypass entries. -/
def selection (s : State) : List (Nat × Nat) :=
  let n := s.fg CORR_NSET_NSET
  let fix := if s.fg CORR_FIX_EN = 1 then some (s.fg CORR_FIX_SET) else none
  (List.range 64).map fun z => if n = 0 then (0, 0) else zoneSel fix n ((List.range n).map s.tref) (s.zoneT z)

/-- The selection of the copy in force (CORR_ZB). -/
def selInForce (s : State) : List (Nat × Nat) :=
  (List.range 64).map fun z => (s.fgk CORR_ZB_SET 0 z, s.fgk CORR_ZB_F 0 z)

/-- Start the blend job: its selection is latched and the back copy written (Table 7.2). -/
def blendStart (s : State) (fast : Bool) : State :=
  (((s.modBlend fun b => { b with
    sel := s.selection, nset := s.fg CORR_NSET_NSET, fast := fast, back := none, fresh := false, begun := false, rewriting := true,
    startAt := s.now, serial := s.pix.serial % 64 }).modPix fun p => { p with serial := p.serial + 1 }).fs CORR_STAT_BLEND 1).blendBegin

/-- A blend is released in IDLE (Table 7.2). -/
def blendIdle (s : State) (fast : Bool) : State :=
  if s.bothServe && s.setsLoaded then s.blendStart fast
  else
    ((s.inc CORR_CNT_DEFERRED 0 1).ev pgCORR 0x0511 0 kInfo 0).modBlend (fun b => { b with fast := fast }) |>.fs CORR_STAT_BLEND 3

/-- A release of R163 by a firkin, a set or, with `fast`, a wiring-map change or entry to SHOW: a blend in progress is abandoned
(Table 7.2). -/
def blendRelease (s : State) (fast : Bool) : State :=
  match s.blendState with
  | 0 => s.blendIdle fast
  | 3 => s.modBlend fun b => { b with fast := b.fast || fast }
  | _ => ((s.inc CORR_CNT_DEFERRED 0 1).modBlend fun b => { b with back := none }).blendIdle (fast || s.blend.fast)

/-- A release by a coefficient-store double-bit error (R165): a blend in progress serves it. -/
def blendDbe (s : State) : State := if s.blendState = 0 then s.blendIdle false else s

/-- A half-array reset or reload begins (Table 7.2). -/
def blendHalf (s : State) : State :=
  if s.blendState = 1 then (s.modBlend fun b => { b with back := none }).fs CORR_STAT_BLEND 3 else s

/-- A set below NSET starts to be written: its LOADED bit reads 0 (R157, Table 7.2). -/
def setWriting (s : State) (k : Nat) : State :=
  let s := s.fsk CORR_TS_A_LOADED 0 k 0
  if k < s.fg CORR_NSET_NSET ∧ (s.blendState = 1 ∨ s.blendState = 2) then s.blendRelease false else s

/-- The DRAM word of the entry of lamp `l` in set `k`, by its visible offset ÷ 8 (R157). -/
def setWord (k l : Nat) : Nat := k * 0x3_0000 + l

/-- A set has been loaded: `lamps` entries as 64-bit words, bundle identifier `id` (R149, R157, R163); an entry with a reserved bit set is
loaded as 0 (Table 7.1). -/
def setLoaded (s : State) (k lamps id : Nat) (ents : List Nat) : State :=
  let s := ents.zipIdx.foldl (fun (s : State) x => s.putWord (setWord k x.2) (Coef.ofWord x.1).toWord) s
  let s := ((s.fsk CORR_TS_A_LOADED 0 k 1).fsk CORR_TS_A_LAMPS 0 k lamps).fsk CORR_TS_ID_ID 0 k id
  if k < s.fg CORR_NSET_NSET ∧ s.blendState = 0 then s.blendIdle false else s

/-- The entry of lamp `l` in set `k`. -/
def setEntry (s : State) (k l : Nat) : Coef := Coef.ofWord (s.wordAt (setWord k l))

/-- The word of that entry has an error that is not corrected. -/
def setPoisoned (s : State) (k l : Nat) : Bool := decide (1 < (s.flipsOf (setWord k l)).length)

/-- The blended copy of a selection (R162); an entry read from a poisoned DRAM word blends as one with OFF 1 (Table 13.7): one whose word
stands wrong, or `poison`, one that only the read found wrong. -/
def blendCopy (s : State) (poison : List Nat) : Option (Cells Coef) :=
  if s.blend.nset = 0 then none
  else
    let m := s.wmap
    some (m.pixels.zipIdx.flatMap fun x =>
      let z := x.1.2 * 8 / m.h * 8 + x.1.1 * 8 / m.w
      let (k, f) := nth s.blend.sel z (0, 0)
      (List.range 3).filterMap fun c =>
        let l := 3 * x.2 + c
        let lo := s.setEntry k l
        let e := blendCoef lo (if f = 0 then lo else s.setEntry (k + 1) l) f
        let e := if poison.contains l || s.setPoisoned k l || (f != 0 && s.setPoisoned (k + 1) l) then { e with off := true } else e
        if e = ⟨0, 0, 0, 0, false⟩ then none else some (l, e))

/-- The copies swap (R25, Table 7.2). A refresh that came while the blend ran is compared now. -/
def blendSwap (s : State) : State := match s.blend.back with
  | none => s
  | some copy =>
    let sel := s.blend.sel
    let fresh := s.blend.fresh
    let s := s.modBlend fun b => { b with front := copy, swaps := b.swaps + 1, rewriting := false, fast := false, back := none, fresh := false }
    let s := (List.range 64).foldl (fun s z => (s.fsk CORR_ZB_SET 0 z (nth sel z (0, 0)).1).fsk CORR_ZB_F 0 z (nth sel z (0, 0)).2) s
    let c := 1 - s.fg CORR_STAT_COPY
    let s := ((s.fs CORR_STAT_COPY c).fs CORR_STAT_BLEND 0).fs CORR_SWDCN_DCN s.dcn
    let s := ((s.inc CORR_CNT_BLENDS 0 1).ev pgCORR 0x0510 c kInfo 0).releaseAll
    if fresh ∧ s.selection ≠ s.selInForce then s.blendIdle false else s

/-- A display-cycle boundary: a finished back copy swaps (R25). -/
def blendBoundary (s : State) : State := if s.blendState = 2 then s.blendSwap else s

/-- The blend job ends with its spot check (R155, R156, Table 7.2). It cannot end while a job that started before the last swap
still reads the other copy (R25). -/
def blendDone (s : State) (pick : List Nat) (spots : List Spot) (poison : List Nat) : State :=
  if s.blendState ≠ 1 ∨ !s.arrayServes ∨ (s.pix.jobs.any fun j => decide (j.inp.copy < s.blend.swaps)) then s
  else
    let s := (s.jobLat s.blend.startAt).inc PIX_SPOTCNT_CHECKS 0 (spotLamps s.wmap.lamps s.blend.serial)
    let r := s.spotCheck s.wmap.lamps s.blend.serial (s.sliceEngines s.wmap.lamps pick []) spots
    if r.1 ≠ 0 then
      let s := r.2.foldl State.retire (s.inc PIX_SPOTCNT_MISMATCH 0 r.1)
      (s.modBlend fun b => { b with startAt := s.now, serial := s.pix.serial % 64 }).modPix fun p => { p with serial := p.serial + 1 }
    else
      let s := s.modBlend fun b => { b with back := some (s.blendCopy poison) }
      if s.scan.inCycle ∧ !s.blend.fast then s.fs CORR_STAT_BLEND 2 else s.blendSwap

/-- A deferred blend is released once both half-arrays serve and the sets are loaded (Table 7.2). -/
def blendResume (s : State) : State :=
  if s.blendState = 3 ∧ s.bothServe ∧ s.setsLoaded then s.blendStart s.blend.fast else s

/-! ### Sensors and the field -/

/-- Sensor `k` is enabled. -/
def sensorOn (s : State) (k : Nat) : Bool := s.fgk TF_SA_EN 0 k == 1

/-- Sensor `k` is FAILED. -/
def sensorFailed (s : State) (k : Nat) : Bool :=
  if k < 32 then bit (s.fg TF_SFAIL0) k else bit (s.fg TF_SFAIL1) (k - 32)

/-- The temperature of a sensor from its reading, or a failure (R158): `rd` in 1/16 °C before OFS. -/
def sensorT (s : State) (k : Nat) (rd : Option Int) : Option Int :=
  (rd.map (· + sgn 12 (s.fgk TF_SA_OFS 0 k))).bind fun t => if -640 ≤ t ∧ t ≤ 2400 then some t else none

/-- The reading in the 16 bits of board sensor `k` (R158, FMT), rounded toward minus infinity. -/
def boardT (s : State) (k v : Nat) : Int := if s.fgk TF_SA_FMT 0 k = 2 then sgn 16 v / 8 else sgn 16 v / 16

/-- The judgement of a sample (R159): `reads` gives each sensor's temperature in this sample, none for a failed read; `skip`: sensors
whose reading is discarded, so that they have no sample. -/
def judge (s : State) (reads : List (Option Int)) (skip : List Nat) : State :=
  let d : Int := s.fg TF_XCHK_DELTA
  let rd (k : Nat) : Option Int := if s.sensorOn k && !s.sensorFailed k && !skip.contains k then nth reads k none else none
  let far (a b : Int) : Bool := decide (d < ((a - b).natAbs : Nat))
  let suspect (k : Nat) : Bool := match nth reads k none, rd (s.fgk TF_SB_P1 0 k), rd (s.fgk TF_SB_P2 0 k) with
    | none, _, _ => true
    | some t, some a, some b => !far a b && far t a && far t b
    | some _, _, _ => false
  (List.range 48).foldl (fun s1 k =>
    if !(s.sensorOn k) || s.sensorFailed k || skip.contains k then s1
    else
      let s1 := match nth reads k none with
        | some t => (s1.fsk TF_SRD_TEMP 0 k (twos 16 t)).fsk TF_SRD_VALID 0 k 1
        | none => s1
      if !suspect k then s1.fsk TF_SRD_SUSP 0 k 0
      else
        let n := s1.fgk TF_SRD_SUSP 0 k + 1
        if n < 3 then s1.fsk TF_SRD_SUSP 0 k n
        else
          let s1 := if k < 32 then s1.fs TF_SFAIL0 (Nat.lor (s1.fg TF_SFAIL0) (2 ^ k))
            else s1.fs TF_SFAIL1 (Nat.lor (s1.fg TF_SFAIL1) (2 ^ (k - 32)))
          (((s1.fsk TF_SRD_SUSP 0 k 0).fsk TF_SRD_VALID 0 k 0).fault pgTFIELD 0 0x7513 k k)) s

/-- A sensor enters the field: enabled, not FAILED, with a good sample. -/
def sensorValid (s : State) (k : Nat) : Bool := s.sensorOn k && !s.sensorFailed k && s.fgk TF_SRD_VALID 0 k == 1

/-- The temperature of zone `z` (R160). -/
def zoneCalc (s : State) (z : Nat) : Int :=
  let (num, den) := (List.range 48).foldl (fun (acc : Nat × Nat) k =>
    if s.sensorValid k = true then
      let dx : Int := (s.fgk TF_SB_X 0 k : Int) - (16 * (z % 8) + 8)
      let dy : Int := (s.fgk TF_SB_Y 0 k : Int) - (16 * (z / 8) + 8)
      let w := zoneWeight dx dy
      (acc.1 + w * (sgn 16 (s.fgk TF_SRD_TEMP 0 k) + 1024).toNat, acc.2 + w)
    else acc) (0, 0)
  (((num + den / 2) / den : Nat) : Int) - 1024

/-- The hottest zone, the first of equals. -/
def hottest (s : State) : Nat := (List.range 64).foldl (fun b z => if s.zoneT b < s.zoneT z then z else b) 0

/-- A refresh of the field: zones, the hottest, and the blend it may release (R160, R161). -/
def refresh (s : State) : State :=
  let valid := (List.range 48).any s.sensorValid
  let enabled := (List.range 48).any s.sensorOn
  let put (s : State) (f : Nat → Int) : State := (List.range 64).foldl (fun s1 z => s1.fsk TF_Z_TEMP 0 z (twos 16 (f z))) s
  let s1 := if valid then put s s.zoneCalc else if enabled then s else put s fun _ => 400
  let none_ := !valid && enabled
  let s1 := if none_ && !s.field.noField then s1.fault pgTFIELD 1 0x7514 0 0 else s1
  let s1 := { s1 with field := { s1.field with noField := !valid && (enabled || s1.field.noField), refreshAt := s.field.refreshAt + s.fg TF_PERIOD_MS * Config.ms } }
  let s1 := (s1.fs TF_STAT_REFRESH (s1.fg TF_STAT_REFRESH + 1)).fs TF_RDCN_DCN s1.dcn
  let hot := s1.hottest
  let s1 := (s1.fs TF_ZMAX_ZONE hot).fs TF_ZMAX_TEMP (twos 16 (s1.zoneT hot))
  match s1.blendState with
  | 0 => if s1.selection = s1.selInForce then s1.inc CORR_CNT_SKIPPED 0 1 else s1.blendIdle false
  | 3 => s1
  | _ => s1.modBlend fun b => { b with fresh := true }

end State

/-- JOB_COMPLETE (R153, R155, R156): job `k` of those in flight ends; a coefficient double-bit error it met releases a blend. -/
def execJobComplete (k : Nat) (r : JobResult) (s0 : State) : Ans State :=
  let s := s0.begin_.jobDone k r
  .next (if r.dbe.isEmpty ∨ s0.pix.jobs.length ≤ k ∨ !s0.arrayServes = true then s else s.blendDbe).blendBegin

/-- A refresh may be made: TRIM has ended, the Damyon does not sleep, and no sample due by the refresh instant is still to be judged
(R160, Table 7.3). -/
def State.refreshDue (s : State) : Bool :=
  s.pow.trimDone && s.mode != .sleep && decide (s.field.refreshAt < s.field.sampleAt) &&
    !(s.field.queued.isSome && s.field.sampleAt == s.field.refreshAt + 250 * Config.ms)

/-- FIELD_REFRESH (R160, R161): before its time it has no effect. -/
def execFieldRefresh (s0 : State) : Ans State :=
  let s := s0.begin_
  .next (if s.refreshDue then (s.advance s.field.refreshAt).refresh else s)

/-- BLEND_COMPLETE (R164): the blend job has written the back copy: the engines of its slices, its spot checks with wrong bits, and
lamps whose T-set entries read poisoned (Table 13.7). -/
def execBlendComplete (engines : List Nat) (spots : List Spot) (poison : List Nat) (s : State) : Ans State :=
  .next (s.begin_.blendDone engines spots poison)

/-- BLEND_RESUME (R164). -/
def execBlendResume (s : State) : Ans State := .next s.begin_.blendResume

end Sys2Proof.Machine
end

