-- ==== Sys2Proof/Machine/Admission.lean ====
section
/-! DEFINITION. Admission (R114 to R118, R94, R141): checks 1 to 7 on a register file, the fields of Table 5.7, and what a run
leaves in the ADMIT page. Every function of this file reads requested fields of a register file, so that it serves the present
state and every state of R49 alike. -/

namespace Sys2Proof.Machine

/-! ### Inputs (R141) -/

/-- A window is enabled (R134). -/
def winEnabled (r : Regs) (w : Nat) : Bool := enabledR r pgWIN && decide (0 < winSweeps r w)

/-- Enabled windows. -/
def enabledWins (r : Regs) : List Nat := (List.range 16).filter (winEnabled r)

/-- Declared rate of a source, in mHz (R141). -/
def rateOf (r : Regs) (kind idx : Nat) : Nat :=
  if kind = 1 then rfget r FEED_RATE_MHZ idx 0
  else if kind = 2 then (if rfget r PATT_CFG_DIV idx 0 = 0 then 0 else rfget r PATT_RATE_MHZ idx 0)
  else 0

/-- B of feed `n` for `pmap` pixels (R123). -/
def feedBytes (r : Regs) (pmap n : Nat) : Nat := picBytes pmap (rfget r FEED_FMT_FORMAT n 0)

/-- Frame bytes of a source (R141). -/
def bytesOf (r : Regs) (pmap kind idx : Nat) : Nat :=
  if kind = 1 then feedBytes r pmap idx else if kind = 2 then 8 * pmap else 0

/-- Source rate of window `w`. -/
def srcRate (r : Regs) (w : Nat) : Nat := rateOf r (rfget r WIN_SRC_REQ_KIND 0 w) (rfget r WIN_SRC_REQ_INDEX 0 w)

/-- Overlay rate of window `w`: 0 when OKIND is none or ALPHA is 0. -/
def ovlRate (r : Regs) (w : Nat) : Nat :=
  if rfget r WIN_OVL_REQ_OKIND 0 w = 2 ∧ rfget r WIN_OVL_REQ_ALPHA 0 w ≠ 0 then rateOf r 2 (rfget r WIN_OVL_REQ_OINDEX 0 w) else 0

/-- Source and overlay frame bytes of window `w`. -/
def winBytes (r : Regs) (pmap w : Nat) : Nat :=
  bytesOf r pmap (rfget r WIN_SRC_REQ_KIND 0 w) (rfget r WIN_SRC_REQ_INDEX 0 w) +
  (if rfget r WIN_OVL_REQ_OKIND 0 w = 2 then 8 * pmap else 0)

/-- Enabled feeds. -/
def enabledFeeds (r : Regs) : List Nat := (List.range 16).filter fun n => enabledR r (pgFEED + n)

/-- local_bps of R94. -/
def localBps (r : Regs) : Nat :=
  let pm := (wireMapR r).pmap
  ceilDiv (sumNat ((enabledFeeds r).map fun n => 8 * feedBytes r pm n * rfget r FEED_RATE_MHZ n 0)) 1000

/-- Declared forwarded payload of L0 or L1, bit/s. -/
def declBps (r : Regs) (p : Nat) : Nat := (if p = 0 then rfget r CH_FWD0_KBPS 0 0 else rfget r CH_FWD1_KBPS 0 0) * 1000

/-! ### The checks -/

/-- The figures of a run (Table 5.11). -/
structure AdmFig where
  ak : Nat
  half : Nat
  full : Nat
  l0 : Nat
  l1 : Nat
  permil : Nat
  mbps : Nat
  units : Nat
  railA : Nat
  railB : Nat
  tj : Nat
  mw : Nat
  deriving DecidableEq, Repr

/-- No figure. -/
def AdmFig.zero : AdmFig := ⟨0, 0, 0, 0, 0, 0, 0, 0, 0, 0, 0, 0⟩

/-- A check: its failing code, and the figures with its own added. -/
abbrev AdmCheck := Regs → AdmFig → Option Rc × AdmFig

/-- Check 1 (R115). -/
def adm1 : AdmCheck := fun r f =>
  let pm := (wireMapR r).pmap
  let tb := rfget r TF_PERIOD_MS 0 0
  let ws := enabledWins r
  let sum := sumNat (ws.map fun w => srcRate r w + ovlRate r w)
  let num := 65 * pm * (sum * tb + ws.length * 1000000) + 256 * pm * 1000000
  let load := ceilDiv num (64000 * tb)
  let full := satN 16 (ceilDiv (load * 1000) 384000000)
  let f := { f with ak := satN 32 load, full := full, half := satN 16 (ceilDiv (load * 1000) 192000000) }
  (if 384000000 * 9 < load * 10 then some ⟨0x3310, full⟩ else none, f)

/-- Check 2 (R116). -/
def adm2 : AdmCheck := fun r f =>
  let units := rfget r SCAN_SPAN_UNITS 0 0
  let span := 2 * units
  let blank := 2 * rfget r SCAN_BLANK_BLANK 0 0
  let sweeps := sumNat ((enabledWins r).map (winSweeps r))
  let need := 16 * sweeps * rfget r SCAN_RATIO_ROWS 0 0 * span + 16000
  let per := rfget r TIME_PER_G_GRAINS 0 0
  (if span < 128 + blank then some ⟨0x3311, units⟩
    else if 512 < sweeps then some ⟨0x3312, sweeps⟩
    else if per < need then some ⟨0x3313, satN 16 ((need - per + 15999) / 16000)⟩
    else none, f)

/-- The wire load of L0 or L1 and its limit (R94, R75). -/
def wireLoad (r : Regs) (p : Nat) : Nat × Nat :=
  let pay := localBps r + declBps r p
  let seg := rfget r CH_SEGMIN_BYTES 0 0
  (ceilDiv (pay * (seg + 100)) seg, if rfget r LNK_CFG_SPEED_REQ p 0 = 1 then 24000000000 else 9600000000)

/-- Check 3 (R94). -/
def adm3 : AdmCheck := fun r f =>
  let a := wireLoad r 0
  let b := wireLoad r 1
  let f := { f with l0 := satN 16 (ceilDiv a.1 1000000), l1 := satN 16 (ceilDiv b.1 1000000) }
  (if a.2 < a.1 then some ⟨0x3314, satN 15 (ceilDiv (a.1 * 1000) a.2)⟩
    else if b.2 < b.1 then some ⟨0x3314, 2 ^ 15 + satN 15 (ceilDiv (b.1 * 1000) b.2)⟩
    else none, f)

/-- Check 4 (Table 5.8): D over the common denominator 8 × 1,000 × Tb. -/
def adm4 : AdmCheck := fun r f =>
  let pm := (wireMapR r).pmap
  let tb := rfget r TF_PERIOD_MS 0 0
  let feeds := sumNat ((enabledFeeds r).map fun n => feedBytes r pm n * rfget r FEED_RATE_MHZ n 0 * tb)
  let wins := sumNat ((enabledWins r).map fun w => winBytes r pm w * ((srcRate r w + ovlRate r w) * tb + 1000000))
  let patt := sumNat (((List.range 16).filter fun e => enabledR r (pgPATT + e)).map fun e => rfget r PATT_DRAM_KBPS e 0 * 1000)
  let num := 9 * (feeds + wins + 48 * pm * 1000000 + (patt + 256000000) * 1000 * tb)
  let d := ceilDiv num (8000 * tb)
  let peak := 4 * rfget r MEMC_RATE_MTS 0 0 * 1000000
  let pml := satN 16 (ceilDiv (num * 1000) (8000 * tb * peak))
  let f := { f with permil := pml, mbps := satN 16 (ceilDiv d 1000000) }
  (if 7 * peak * (8000 * tb) < num * 10 then some ⟨0x3315, pml⟩ else none, f)

/-- Check 5 (Table 5.8). -/
def adm5 : AdmCheck := fun r f =>
  let u := ceilDiv (4 * (wireMapR r).lamps) 65536 * ((enabledWins r).length + 2)
  (if 252 < u then some ⟨0x3316, satN 16 u⟩ else none, { f with units := satN 9 u })

/-- A rail's figure: the sum of the stones' ST_ISUM, 0.1 mA (R199). -/
def railSum (r : Regs) (rail : Nat) : Nat :=
  let m := wireMapR r
  sumNat ((List.range 16).map fun k => stoneIsum r m k rail)

/-- A rail's limit in mA: its phases' (R242), or SUP_EXTLIM without the stage (R226). -/
def railLimit (r : Regs) (rail : Nat) : Nat :=
  if rfget r SUP_CFG_PRESENT 0 0 = 1 then
    sumNat (((List.range 8).filter fun n => enabledR r (pgPHASE + n) && rfget r PH_RUN_RUN_REQ n 0 == 1 &&
      rfget r PH_CFG_RAIL n 0 == rail).map fun n => rfget r PH_ILIM_MA n 0)
  else if rail = 0 then rfget r SUP_EXTLIM_A 0 0 else rfget r SUP_EXTLIM_B 0 0

/-- Check 6 (Table 5.8). -/
def adm6 : AdmCheck := fun r f =>
  let a := railSum r 0
  let b := railSum r 1
  let la := 10 * railLimit r 0
  let lb := 10 * railLimit r 1
  let f := { f with railA := satN 16 (ceilDiv a 10), railB := satN 16 (ceilDiv b 10) }
  (if la < a then some ⟨0x3317, satN 15 (ceilDiv (a - la) 100)⟩
    else if lb < b then some ⟨0x3317, 2 ^ 15 + satN 15 (ceilDiv (b - lb) 100)⟩
    else none, f)

/-- Headroom target of a rail, in steps of 25 mV. -/
def railHt (r : Regs) (rail : Nat) : Nat := if rail = 0 then rfget r SUP_RAILA_T_HT 0 0 else rfget r SUP_RAILB_T_HT 0 0

/-- Psink as a fraction: numerator and denominator in mW (Table 5.8, check 7a). A sink's current is in 0.1 µA and its voltage in
1/600 mV. -/
def psink (r : Regs) : Nat × Nat :=
  let m := wireMapR r
  let vs := 10 * rfget r ADM_DECL_VSPREAD 0 0
  let units := rfget r SCAN_SPAN_UNITS 0 0
  let one (k c : Nat) : Nat :=
    let i := stoneCurrent r k c
    m.stoneSlots k * i * (600 * (25 * railHt r (railOf r c) + 200 + vs) + (i - 60000))
  let sum := sumNat (((List.range 16).filter fun k => enabledR r (pgSTONE + k)).map fun k => one k 0 + one k 1 + one k 2)
  (sum * (units - rfget r SCAN_BLANK_BLANK 0 0), 6000000000 * units)

/-- Check 7 (Table 5.8): 7a, then 7b. -/
def adm7 : AdmCheck := fun r f =>
  let p := psink r
  let mw := ceilDiv p.1 p.2
  let tj := ceilDiv (rfget r ADM_DECL_TAMB 0 0 * 100000 * p.2 + rfget r ADM_DECL_THETA 0 0 * (14000 * p.2 + p.1)) (10000 * p.2)
  let f := { f with mw := satN 16 mw, tj := satN 16 tj }
  (if 6000 < mw then some ⟨0x3318, satN 16 mw⟩ else if 1050 < tj then some ⟨0x3319, satN 16 tj⟩ else none, f)

/-- Checks in order, to the first that fails. -/
def admRunFrom (r : Regs) : List AdmCheck → AdmFig → Option Rc × AdmFig
  | [], f => (none, f)
  | c :: cs, f => match c r f with
    | (some e, f) => (some e, f)
    | (none, f) => admRunFrom r cs f

/-- Admission of a state (R114). -/
def admRun (r : Regs) : Option Rc × AdmFig := admRunFrom r [adm1, adm2, adm3, adm4, adm5, adm6, adm7] AdmFig.zero

/-! ### What enters it (Table 5.7) -/

/-- Fields that enter admission: field, pages, registers of an array. -/
def admFields : List (FRef × Nat × Nat) := [
  (WIN_SWP_SWEEPS, 1, 16), (WIN_SRC_REQ, 1, 16), (WIN_OVL_REQ, 1, 16), (FEED_FMT_FORMAT, 16, 1), (FEED_RATE_MHZ, 16, 1),
  (PATT_CFG_DIV, 16, 1), (PATT_RATE_MHZ, 16, 1), (PATT_DRAM_KBPS, 16, 1), (TF_PERIOD_MS, 1, 1), (SCAN_SPAN_UNITS, 1, 1),
  (SCAN_RATIO_ROWS, 1, 1), (SCAN_BLANK_BLANK, 1, 1), (SCAN_GCUR0, 1, 1), (SCAN_GCUR1, 1, 1), (TIME_PER_G_GRAINS, 1, 1),
  (TIME_PER_F_FRAC, 1, 1), (CH_SEGMIN_BYTES, 1, 1), (CH_FWD0_KBPS, 1, 1), (CH_FWD1_KBPS, 1, 1), (LNK_CFG_SPEED_REQ, 2, 1),
  (WIRE_GRID, 1, 1), (WIRE_RAIL, 1, 1), (WIRE_RJ, 1, 16), (WIRE_RR, 1, 16), (WIRE_RXY, 1, 16), (WIRE_RO, 1, 16),
  (ST_CUR_SCALE, 16, 1), (SUP_CFG_PRESENT, 1, 1), (SUP_EXTLIM, 1, 1), (SUP_RAILA_T_HT, 1, 1), (SUP_RAILB_T_HT, 1, 1),
  (PH_CFG_RAIL, 8, 1), (PH_RUN_RUN_REQ, 8, 1), (PH_ILIM_MA, 8, 1), (MEMC_RATE_MTS, 1, 1), (ADM_DECL, 1, 1)]

/-- A write touches a field reference. -/
def touchesField (f : FRef) (pages regs page off mask : Nat) : Bool :=
  decide (f.page ≤ page) && decide (page < f.page + pages) && decide (f.off ≤ off) &&
  (if f.stride = 0 then off == f.off else (off - f.off) % f.stride == 0 && decide ((off - f.off) / f.stride < regs)) &&
  decide (0 < Nat.land mask ((2 ^ (f.hi + 1 - f.lo) - 1) * 2 ^ f.lo))

/-- Pages whose enabling changes load (R41) or whose enable check names admission. -/
def admEnable (page : Nat) : Bool :=
  page / 16 == 3 || page == pgWIN || (decide (pgPATT ≤ page) && decide (page < pgPATT + 16)) || page == pgTIME || page == pgSCAN ||
  page == pgWIRE || page / 16 == 7 || page == pgSUPPLY || (decide (pgPHASE ≤ page) && decide (page < pgPHASE + 8))

/-- A write enters admission (R114); the checks of SCAN and of WIRE, of which admission is a part, run at every commit that touches the page
(R197, R205). -/
def entersAdm (page off mask : Nat) : Bool :=
  (off == 0x008 && mask % 2 == 1 && admEnable page) || (decide (0x040 ≤ off) && (page == pgSCAN || page == pgWIRE)) || admFields.any fun x => touchesField x.1 x.2.1 x.2.2 page off mask

namespace State

/-- One run's result in the ADMIT page and one count (R118). `kind`: 0 ENABLE, 1 COMMIT, 2 DRY. -/
def admReport (s : State) (res : Option Rc × AdmFig) (kind page handle : Nat) : State :=
  let c := (res.1).getD ⟨0x0300, 0⟩
  let f := res.2
  let s := (s.fs ADM_RESULT_CODE c.code).fs ADM_RESULT_DETAIL c.detail
  let s := ((s.fs ADM_SRC_KIND kind).fs ADM_SRC_PAGE (if kind = 0 then page else 0)).fs ADM_SRC_HANDLE (if kind = 1 then handle else 0)
  let s := ((s.fs ADM_AK_PXS f.ak).fs ADM_AKPCT_HALF f.half).fs ADM_AKPCT_FULL f.full
  let s := ((s.fs ADM_LINK_L0 f.l0).fs ADM_LINK_L1 f.l1).fs ADM_DRAM_PERMIL f.permil
  let s := ((s.fs ADM_DRAM_MBPS f.mbps).fs ADM_PLAN_UNITS f.units).fs ADM_RAIL_A f.railA
  let s := ((s.fs ADM_RAIL_B f.railB).fs ADM_SINK_TJ f.tj).fs ADM_SINK_MW f.mw
  if res.1.isSome then s.inc ADM_COUNT_REFUSED 0 1 else s.inc ADM_COUNT_ACCEPTED 0 1

end State

end Sys2Proof.Machine
end

