-- ==== Sys2Proof/Machine/Checks.lean ====
section
/-! DEFINITION. Consistency checks (R41, R48, check 8 of Table 2.14): the field-format step and each page's own tests, in the
order its rule lists them, on a register file that stands for the present or a future state (R49). -/

namespace Sys2Proof.Machine

/-! ### Field formats (R41) -/

/-- A register that holds a field with refused values. -/
def Reg.tested (g : Reg) : Bool := !g.banked && g.flds.any fun f => f.acc == .rw && !f.bad.isEmpty

/-- The failures of one register row: offset and code, the most significant field of each register first. -/
def fmtRow (r : Regs) (p : Nat) (g : Reg) : List (Nat × Rc) :=
  (List.range g.cnt).filterMap fun k =>
    let o := g.off + k * g.stride
    let v := rget r 0 p o
    (g.flds.findSome? fun f => if f.acc = .rw then f.refuses (bitsOf v f.hi f.lo) (regAddr p o) else none).map fun c => (o, c)

/-- The field-format step of page `p`: registers in rising offset. -/
def fmtStep (r : Regs) (p : Nat) : Option Rc := match pageRow? p with
  | some row =>
    let bad := (row.regs.filter Reg.tested).flatMap (fmtRow r p)
    (bad.foldl (fun (b : Option (Nat × Rc)) x => match b with
      | some y => if x.1 < y.1 then some x else some y
      | none => some x) none).map (·.2)
  | none => none

/-- The first failure of a list of tests. -/
def firstOf (l : List (Option Rc)) : Option Rc := l.findSome? id

/-- A test: its code when it fails. -/
def failIf (c : Bool) (code detail : Nat) : Option Rc := if c then some ⟨code, detail⟩ else none

/-! ### Tests that pages share -/

/-- R199 for one stone: a colour with a mapped lamp there whose current is out of range. -/
def currentFail (r : Regs) (m : WireMap) (k : Nat) : Option Rc :=
  if m.usesStone k then
    ((List.range 3).find? fun c => !currentOk (gcurOf r c) (rfget r ST_CUR_SCALE k 0)).map fun c => ⟨0x2716, k * 16 + c⟩
  else none

/-- R199 for the enabled stones. -/
def currentsFail (r : Regs) : Option Rc :=
  (List.range 16).findSome? fun k => if enabledR r (pgSTONE + k) then currentFail r (wireMapR r) k else none

/-- The DIM check (R187). -/
def dimCheck (r : Regs) : Option Rc :=
  let pmin := rfget r DIM_CUR_PMIN 0 0
  let lg := litGrains (rfget r SCAN_SPAN_UNITS 0 0) (2 * rfget r SCAN_BLANK_BLANK 0 0)
  firstOf [failIf (decide (rfget r DIM_CUR_FULLMIN 0 0 < pmin)) 0x2610 0, failIf (decide (lg < 2 * pmin)) 0x2611 (satN 16 (lg / 16))]

/-- Sets whose LOADED and LAMPS count (R168). -/
def setsBelow (r : Regs) : List Nat := List.range (rfget r CORR_NSET_NSET 0 0)

/-- A set below NSET that does not hold as many entries as the map has lamps (R168, test 9 of Table 9.3). -/
def lampsFail (r : Regs) : Option Rc :=
  ((setsBelow r).find? fun k => rfget r CORR_TS_A_LAMPS 0 k != (wireMapR r).lamps).map fun k => ⟨0x2512, k⟩

/-- The WIRE check (R197, Table 9.3). `r` has WIRE enabled. -/
def wireCheck (s : State) (r : Regs) : Option Rc :=
  let m := wireMapR r
  let size (v lo : Nat) : Option Rc := firstOf [failIf (v == 0) 0x1701 lo, failIf (decide (4096 < v)) 0x1702 lo]
  firstOf [size m.w 16, size m.h 0, (m.tests (rfget r SCAN_RATIO_ROWS 0 0)).map (fun x => ⟨x.1, x.2⟩),
    ((List.range 16).find? fun k => m.usesStone k && !s.powered (State.stoneDomain k)).map (fun k => ⟨0x2713, k⟩),
    (List.range 16).findSome? (currentFail r m), lampsFail r]

/-- Windows that take a feed as their source. -/
def boundTo (r : Regs) (n : Nat) : List Nat :=
  (List.range 16).filter fun w => rfget r WIN_SRC_REQ_KIND 0 w == 1 && rfget r WIN_SRC_REQ_INDEX 0 w == n

/-- A window's PIC is at or above the bound feed's FPC. -/
def picOver (r : Regs) (w : Nat) : Bool :=
  rfget r WIN_SRC_REQ_KIND 0 w == 1 &&
  decide (rfget r FEED_FMT_FPC (rfget r WIN_SRC_REQ_INDEX 0 w) 0 ≤ rfget r WIN_SRC_REQ_PIC 0 w)

/-! ### Each page's own tests -/

/-- FEEDn (R143). -/
def feedCheck (r : Regs) (n : Nat) : Option Rc :=
  let role := roleR r n
  firstOf [failIf (role != roleOwner && role != roleFeed) 0x5401 n, fmtStep r (pgFEED + n),
    failIf (decide (rfget r FEED_FMT_FPC n 0 * 16000000000000 < rfget r FEED_RATE_MHZ n 0 * rfget r TIME_PER_G_GRAINS 0 0)) 0x2410 0,
    ((boundTo r n).find? (picOver r)).map (fun w => ⟨0x2411, w⟩)]

/-- One window (R144). -/
def winCheck (r : Regs) (w : Nat) : Option Rc :=
  let ok := rfget r WIN_OVL_REQ_OKIND 0 w
  let fk := rfget r WIN_FBK_FKIND 0 w
  firstOf [failIf (rfget r WIN_SRC_REQ_KIND 0 w == 3 || ok == 3 || fk == 3) 0x1403 w,
    failIf (ok == 1 || fk == 1) 0x2412 w, failIf (picOver r w) 0x2411 w]

/-- PATTn (R146): the program check on the bank in force, then R140. -/
def pattCheck (s : State) (r : Regs) (e : Nat) : Option Rc :=
  let div := rfget r PATT_CFG_DIV e 0
  firstOf [progCheck r s.clips e (rfget r PATT_CFG_BANK e 0),
    failIf (decide (1 ≤ div) &&
      decide (rfget r PATT_RATE_MHZ e 0 * div * rfget r TIME_PER_G_GRAINS 0 0 < 16000000000000)) 0x2413 0]

/-- CORR (R168). -/
def corrCheck (r : Regs) : Option Rc :=
  let loaded (k : Nat) : Bool := rfget r CORR_TS_A_LOADED 0 k == 1
  let tref (k : Nat) : Int := sgn 16 (rfget r CORR_TS_REF_TREF 0 k)
  let sets := setsBelow r
  let fix := if rfget r CORR_FIX_EN 0 0 = 1 then [rfget r CORR_FIX_SET 0 0] else []
  firstOf [((sets ++ fix).find? fun k => !loaded k).map (fun k => ⟨0x2510, k⟩),
    (sets.find? fun k => k != 0 && decide (tref k < tref (k - 1) + 16)).map (fun k => ⟨0x2511, k⟩),
    if enabledR r pgWIRE then lampsFail r else none]

/-- TFIELD (R169). -/
def tfieldCheck (r : Regs) : Option Rc :=
  let en (k : Nat) : Bool := decide (k < 48) && rfget r TF_SA_EN 0 k == 1
  let fmt (k : Nat) : Bool :=
    let f := rfget r TF_SA_FMT 0 k
    if k < 16 then f == 0 else f == 1 || f == 2
  let pair (k : Nat) : Bool :=
    let a := rfget r TF_SB_P1 0 k
    let b := rfget r TF_SB_P2 0 k
    a != b && a != k && b != k && en a && en b
  let ks := (List.range 48).filter en
  firstOf [if ks.all fmt then none else some ⟨0x1503, 28⟩, (ks.find? fun k => !pair k).map fun k => ⟨0x2513, k⟩]

/-- SCAN (R205). -/
def scanCheck (r : Regs) : Option Rc :=
  let dis := rfget r SCAN_BLANK_DIS 0 0
  firstOf [fmtStep r pgSCAN, failIf (decide (rfget r SCAN_BLANK_BLANK 0 0 < dis + 10)) 0x2715 0,
    failIf (decide (dis < rfget r SCAN_PRE_LEN 0 0)) 0x2715 1, currentsFail r, dimCheck r]

/-- STONEk (R202); the domain test belongs to an enable. -/
def stoneCheck (s : State) (r : Regs) (k : Nat) (becomes : Bool) : Option Rc :=
  firstOf [failIf (becomes && !s.powered (State.stoneDomain k)) 0x2713 k, currentFail r (wireMapR r) k]

/-- SENSE (R224). -/
def senseCheck (r : Regs) : Option Rc :=
  ((List.range (rfget r SENSE_CFG_LEN 0 0)).find? fun e =>
    decide (0x18 < rfget r SENSE_SEQ_CH 0 e) || rfget r SENSE_SEQ_GAIN 0 e == 3).map fun e => ⟨0x1803, e⟩

/-- R229: with LOCK 1 the span is a whole multiple of the switching period. -/
def lockFail (r : Regs) : Bool :=
  rfget r SUP_CFG_LOCK 0 0 == 1 && 32 * rfget r SCAN_SPAN_UNITS 0 0 % rfget r SUP_PER_GRAINS 0 0 != 0

/-- SUPPLY (R245). -/
def supplyCheck (s : State) (r : Regs) : Option Rc :=
  firstOf [failIf (rfget r SUP_CFG_PRESENT 0 0 != 1) 0x2911 0, fmtStep r pgSUPPLY,
    failIf (decide (rfget r SUP_RAILA_V_VMAX 0 0 < rfget r SUP_RAILA_V_VMIN 0 0 + 10)) 0x2914 0,
    failIf (decide (rfget r SUP_RAILB_V_VMAX 0 0 < rfget r SUP_RAILB_V_VMIN 0 0 + 10)) 0x2914 1,
    failIf (lockFail r) 0x2910 0, failIf (rfget r SUP_CFG_MODE 0 0 == 1 && s.mode != .service) 0x5910 0]

/-- PHASEn (R246): D above GRAINS / 2 is among the field checks. -/
def phaseCheck (r : Regs) (n : Nat) : Option Rc :=
  firstOf [fmtStep r (pgPHASE + n), dutyFail r (pgPHASE + n) PH_DUTY.off (rfget r PH_DUTY_D n 0) 0xFFFF,
    failIf (decide (rfget r SUP_PER_GRAINS 0 0 ≤ rfget r PH_OFS_OFS n 0)) 0x2915 n,
    failIf (decide (rfget r PH_DT_DTMAX n 0 < rfget r PH_DT_DTMIN n 0)) 0x2913 n]

/-- LNKn (R96). -/
def lnkCheck (r : Regs) (p : Nat) : Option Rc :=
  firstOf [fmtStep r (pgLNK + p), failIf (rfget r LNK_CFG_LPBK p 0 == 3) 0x1203 4, failIf (rfget r LNK_CFG_SPEED_REQ p 0 == 3) 0x1203 0,
    failIf (!portUsed (rfget r CH_ROLE_ROLE 0 0) p) 0x2210 p]

/-- CHAIN (R97). -/
def chainCheck (r : Regs) : Option Rc :=
  let e := rfget r CH_ETYPE_ETYPE 0 0
  firstOf [fmtStep r pgCHAIN, failIf (e == 0) 0x1201 0,
    failIf (decide (e < 0x0600) || [0x0800, 0x0806, 0x86DD, 0x8100, 0x88A8, 0x8808, 0x88CC, 0x88F7, 0x9100].contains e) 0x1210 e]

/-- TIME (R121): the period range, then SOURCE. -/
def timeCheck (r : Regs) : Option Rc :=
  let x := rfget r TIME_PER_G_GRAINS 0 0 * 65536 + rfget r TIME_PER_F_FRAC 0 0
  firstOf [fmtStep r pgTIME,
    failIf (decide (x < 16666666 * 65536 + 0xAAAA) || decide (667334000 * 65536 + 0xAAD7 < x)) 0x2310 0,
    failIf (decide (2 ≤ rfget r TIME_LOCK_SOURCE 0 0)) 0x1303 0]

/-- The consistency check of page `p` in state `r`. `becomes`: the page is enabled by what is checked. -/
def pageCheck (s : State) (r : Regs) (p : Nat) (becomes : Bool) : Option Rc :=
  if p / 16 = 3 then feedCheck r (p - pgFEED)
  else if pgLNK ≤ p ∧ p < pgCHAIN then lnkCheck r (p - pgLNK)
  else if p = pgCHAIN then chainCheck r
  else if p = pgTIME then timeCheck r
  else if p = pgWIN then firstOf [fmtStep r p, (List.range 16).findSome? (winCheck r)]
  else if pgPATT ≤ p ∧ p < pgPATT + 16 then firstOf [fmtStep r p, pattCheck s r (p - pgPATT)]
  else if p = pgCORR then firstOf [fmtStep r p, corrCheck r]
  else if p = pgTFIELD then firstOf [fmtStep r p, tfieldCheck r]
  else if p = pgDIM then firstOf [fmtStep r p, dimCheck r]
  else if p = pgSCAN then scanCheck r
  else if p = pgWIRE then firstOf [fmtStep r p, wireCheck s r]
  else if p / 16 = 7 then firstOf [fmtStep r p, stoneCheck s r (p - pgSTONE) becomes]
  else if p = pgSENSE then firstOf [fmtStep r p, senseCheck r]
  else if p = pgSUPPLY then supplyCheck s r
  else if pgPHASE ≤ p ∧ p < pgPHASE + 8 then phaseCheck r (p - pgPHASE)
  else fmtStep r p

/-! ### Pages that a set of writes brings into the check -/

/-- A write touches a field, by register offset and mask. -/
def hits (ws : List (Nat × Nat × Nat)) (f : FRef) : Bool :=
  ws.any fun w => w.1 == f.page && w.2.1 == f.off && decide (0 < Nat.land w.2.2 ((2 ^ (f.hi + 1 - f.lo) - 1) * 2 ^ f.lo))

/-- Pages checked for writes `ws` (page, offset, mask) in state `r`, in page index order: the touched pages that are enabled or have no
unit to enable (R414), and those whose rule names the write: DIM and SCAN's span or blanking (R187), WIRE and SCAN's ratio, currents or ENABLE (R197,
R205), SUPPLY and the span (R229). -/
def checkedPages (r : Regs) (ws : List (Nat × Nat × Nat)) : List Nat :=
  let span := hits ws SCAN_SPAN_UNITS
  let scanOn := enabledR r pgSCAN
  usedPages.filter fun p => (enabledR r p || !pageHasUnit p) && (
    (ws.any fun w => w.1 == p) ||
    (p == pgDIM && !scanOn && (span || hits ws SCAN_BLANK_BLANK)) ||
    (p == pgWIRE && (hits ws SCAN_RATIO_ROWS || hits ws SCAN_GCUR0 || hits ws SCAN_GCUR1 || (scanOn && hits ws (hENABLE pgSCAN)))) ||
    (p == pgSUPPLY && span))

/-- The bank a bank entry belongs to: de-gamma tables of FEED (R143), programs of PATT (R146). -/
def bankOfEntry (p off : Nat) : Option Nat :=
  if p / 16 = 3 then
    (if 0x200 ≤ off ∧ off < 0x200 + 4 * 339 then some 0 else if 0x800 ≤ off ∧ off < 0x800 + 4 * 339 then some 1 else none)
  else if pgPATT ≤ p ∧ p < pgPATT + 16 then
    (if 0x400 ≤ off ∧ off < 0xA00 then some 0 else if 0xA00 ≤ off then some 1 else none)
  else none

/-- A job in flight reads de-gamma bank `b` of feed `n` (R143). -/
def State.jobReads (s : State) (n b : Nat) : Bool :=
  s.pix.jobs.any fun j => j.inp.degam.isSome && j.inp.dgBank == b && match j.inp.src with
    | .feed m _ _ _ _ _ => m == n
    | _ => false

/-- The refusal 0x2414 of a write to a bank entry, with the state `r` it meets (R143, R146). -/
def bankFail (s : State) (r : Regs) (p off : Nat) : Option Rc := match bankOfEntry p off with
  | some b =>
    let d := regAddr p off % 2 ^ 16
    if p / 16 = 3 then
      failIf ((enabledR r p && rfget r FEED_DG_MODE (p - pgFEED) 0 == 1 && rfget r FEED_DG_BANK (p - pgFEED) 0 == b) ||
        s.jobReads (p - pgFEED) b) 0x2414 d
    else failIf (enabledR r p && rfget r PATT_CFG_BANK (p - pgPATT) 0 == b) 0x2414 d
  | none => none

end Sys2Proof.Machine
end

