-- ==== Sys2Proof/Machine/Health.lean ====
section
/-! DEFINITION. Lamp health (R209 to R214), conduction read-back (R215 to R217) and SADC1 (R219, R220, R224). -/

namespace Sys2Proof.Machine

/-! ### The health map -/

/-- A lamp in GOOD. -/
def LampH.good : LampH := ⟨0, 0, false, false⟩

namespace State

/-- Health of a lamp. -/
def lampH (s : State) (l : Nat) : LampH := cget s.health.lamps l LampH.good

/-- Set the health of a lamp. -/
def setLampH (s : State) (l : Nat) (h : LampH) : State :=
  { s with health := { s.health with lamps := cput s.health.lamps l h LampH.good } }

/-- The lamp's own sink is concealed (Table 10.2). -/
def ownDark (s : State) (l : Nat) : Bool :=
  let h := s.lampH l
  h.oconf || (h.sconf && s.fg HEALTH_CFG_SHORTACT == 1)

/-- Dark because another lamp of its pixel is confirmed (Table 10.2). -/
def pixDark (s : State) (l : Nat) : Bool :=
  s.fg HEALTH_CFG_PIXACT == 1 && (List.range 3).any fun c =>
    let m := l / 3 * 3 + c
    m != l && ((s.lampH m).oconf || (s.lampH m).sconf)

/-- A lamp is concealed (R213). -/
def concealed (s : State) (l : Nat) : Bool := s.ownDark l || s.pixDark l

/-- Append a fault list entry, or note that the list is full (R212); the index given. -/
def listAdd (s : State) (short : Bool) (l : Nat) : State × Nat :=
  let n := s.health.list.length
  if n < 1024 then ({ s with health := { s.health with list := s.health.list ++ [(short, l, s.dcn)] } }, n)
  else
    let s1 := if s.health.told then s.faultBit pgHEALTH 3 else s.fault pgHEALTH 3 0x4810 0 0
    ({ s1 with health := { s1.health with ovf := true, told := true } }, 1024)

/-- A lamp is confirmed open or short (Table 10.1). -/
def confirm (s : State) (short : Bool) (l : Nat) : State :=
  let h := s.lampH l
  let s := s.setLampH l (if short then { h with sc := 0, sconf := true } else { h with oc := 0, oconf := true })
  let (s, i) := s.listAdd short l
  if short then s.fault pgHEALTH 1 0x7815 i 0 else s.fault pgHEALTH 0 0x7814 i 0

/-- A sample of a lamp that passed or failed (Table 10.1). -/
def sample (s : State) (short : Bool) (l : Nat) (failed : Bool) : State :=
  let h := s.lampH l
  let conf := s.fg HEALTH_CFG_CONF
  if short then
    if h.sconf then s
    else if !failed then s.setLampH l { h with sc := 0 }
    else if conf ≤ h.sc + 1 then s.confirm true l
    else s.setLampH l { h with sc := h.sc + 1 }
  else
    if h.oconf then s
    else if !failed then s.setLampH l { h with oc := 0 }
    else if conf ≤ h.oc + 1 then s.confirm false l
    else s.setLampH l { h with oc := h.oc + 1 }

/-- Every lamp returns to GOOD and the list empties: CLEARALL, or a wiring-map change (R212). Clears that still wait stay. -/
def healthClearAll (s : State) : State := { s with health := ⟨[], [], false, false, s.health.clr⟩ }

/-- One lamp returns to GOOD and its entries leave the list (R212). -/
def healthClear (s : State) (l : Nat) : State :=
  { s.setLampH l LampH.good with health := { (s.setLampH l LampH.good).health with list := s.health.list.filter fun x => x.2.1 != l } }

/-- Clears that wait for a span boundary take effect (R222). -/
def healthBoundary (s : State) : State :=
  let todo := s.health.clr
  let s := { s with health := { s.health with clr := [] } }
  todo.foldl (fun s x => match x with
    | some l => (s.healthClear l).ev pgHEALTH 0x0811 1 kInfo 0
    | none => s.healthClearAll.ev pgHEALTH 0x0811 0 kInfo 0) s

/-! ### Read-outs -/

/-- HEALTH_SUM. -/
def healthSum (s : State) : Nat :=
  satN 16 (s.health.lamps.filter (·.2.sconf)).length * 2 ^ 16 + satN 16 (s.health.lamps.filter (·.2.oconf)).length

/-- HEALTH_QRES of a lamp. -/
def healthQres (s : State) (l : Nat) : Nat :=
  if s.wmap.lamps ≤ l then 0
  else
    let h := s.lampH l
    2 ^ 31 + h.sc * 256 + h.oc * 16 + b2n (s.ownDark l) * 8 + b2n (s.pixDark l) * 4 + b2n h.sconf * 2 + b2n h.oconf

/-- HEALTH_LCNT. -/
def healthLcnt (s : State) : Nat := b2n s.health.ovf * 2 ^ 31 + s.health.list.length

/-- HEALTH_LENT and HEALTH_LDCN of an entry. -/
def healthLent (s : State) (i : Nat) : Nat × Nat := match s.health.list[i]? with
  | some x => (2 ^ 31 + b2n x.1 * 2 ^ 30 + x.2.1, x.2.2)
  | none => (0, 0)

/-! ### Samples of a span (R209 to R211) -/

/-- The threshold of a colour in a register of three (blue, green, red from the top). -/
def thr (s : State) (off col : Nat) : Nat := bitsOf (s.reg pgHEALTH off) (8 * col + 7) (8 * col)

/-- The open sample of a placed sink: none when none is taken, else whether it failed. -/
def openSample (s : State) (e : SpanEnv) (p : PSink) : Option Bool :=
  let odly := s.fg HEALTH_CFG_ODLY
  if s.fg HEALTH_CFG_OPEN_EN = 1 ∧ p.sampled ∧ p.lamp.isSome ∧ p.word.valid ∧ p.word.on + odly + 32 ≤ p.word.off then
    some ((e.openMv.find? fun x => x.1 == p.sink).any fun x => decide (x.2 < 10 * s.thr 0x044 p.col))
  else none

/-- The short sample of a sink. -/
def shortSample (s : State) (e : SpanEnv) (p : PSink) : Option Bool :=
  if s.fg HEALTH_CFG_SHORT_EN = 1 ∧ p.sampled ∧ p.lamp.isSome then
    some ((e.shortMv.find? fun x => x.1 == p.sink).any fun x => decide (1000 + 20 * s.thr 0x048 p.col < x.2))
  else none

/-- Stone and rail of a sink. -/
def sinkGroup (s : State) (p : PSink) : Nat := 2 * (p.sink / 96) + railOf s.regs p.col

/-- Groups in which more than `lim` samples of a kind failed (R210). -/
def suspects (s : State) (lim : Nat) (smp : PSink → Option Bool) : List Nat :=
  let bad := (s.scan.placed.filter fun p => smp p == some true).map s.sinkGroup
  (List.range 32).filter fun g => decide (lim < (bad.filter (· == g)).length)

/-- The health samples of the span that ends; `late`: it had an underrun. The sinks whose open sample failed or was discarded. -/
def healthSpan (s0 : State) (e : SpanEnv) (underrun : Bool) : State × List Nat :=
  if underrun || !s0.scan.driven then (s0, [])
  else
    let op := s0.openSample e
    let sh := s0.shortSample e
    let so := s0.suspects (s0.fg HEALTH_GUARD_MAXOPEN) op
    let ss := s0.suspects (s0.fg HEALTH_GUARD_MAXSHORT) sh
    let s := so.foldl (fun s g => (s.inc HEALTH_CNT_RAILSUS 0 1).fault pgHEALTH 2 0x7816 (g / 2) (g / 2)) s0
    let s := ss.foldl (fun s g => (s.inc HEALTH_CNT_SHORTSUS 0 1).fault pgHEALTH 2 0x7816 (g / 2) (g / 2)) s
    let s := s0.scan.placed.foldl (fun s p => match p.lamp with
      | none => s
      | some l =>
        let g := s0.sinkGroup p
        let s := match op p with
          | some f => if so.contains g then s else s.sample false l f
          | none => s
        match sh p with
          | some f => if ss.contains g then s else s.sample true l f
          | none => s) s
    (s, (s0.scan.placed.filter fun p => op p == some true || ((op p).isSome && so.contains (s0.sinkGroup p))).map (·.sink))

end State

/-! ### Conduction read-back -/

/-- A sink without conduction. -/
def RdSink.zero : RdSink := ⟨0, 0, 0, 0, 0⟩

/-- The comparison of R216. -/
def rdMismatch (pulse rel : Nat) (x : RdSink) : Bool :=
  let tol := x.np * pulse * 32 + ((x.ps + x.pf) * rel + 999) / 1000
  let ds := if x.ps < 32 * x.ms then 32 * x.ms - x.ps else x.ps - 32 * x.ms
  let df := if x.pf < 32 * x.mf then 32 * x.mf - x.pf else x.pf - 32 * x.mf
  decide (tol < ds + df)

namespace State

/-- Change the read-back state. -/
def modRd (s : State) (f : RdbkSt → RdbkSt) : State := { s with rdbk := f s.rdbk }

/-- Add the conduction of the span that ends (R215): planned lengths as placed, counted periods from the sinks; sinks in `out`
and concealed lamps are left out, also those confirmed in this span (Table 10.5). -/
def rdbkSpan (s : State) (e : SpanEnv) (out : List Nat) : State :=
  let skip (p : PSink) : Bool := out.contains p.sink || !p.counted || p.lamp.any s.concealed
  let bare := s.scan.placed.filter fun p => p.word.valid
  let add (acc : Cells RdSink) (k : Nat) (f : RdSink → RdSink) : Cells RdSink :=
    cput acc k (f (cget acc k RdSink.zero)) RdSink.zero
  let acc := bare.foldl (fun acc p =>
    if skip p then acc
    else
      let len := p.word.off - p.word.on
      let own := e.cond.find? fun x => x.1 == p.sink
      let ms := match own with
        | some x => x.2.1
        | none => if p.word.fine then 0 else ceilDiv len 32
      let mf := match own with
        | some x => x.2.2
        | none => if p.word.fine then ceilDiv len 32 else 0
      add acc p.sink fun r => { r with
        ps := if p.word.fine then r.ps else r.ps + len, pf := if p.word.fine then r.pf + len else r.pf,
        ms := r.ms + ms, mf := r.mf + mf, np := r.np + 1 }) s.rdbk.acc
  let acc := e.cond.foldl (fun acc x =>
    if (bare.any fun p => p.sink == x.1) || s.scan.placed.any (fun p => p.sink == x.1 && skip p) then acc
    else add acc x.1 fun r => { r with ms := r.ms + x.2.1, mf := r.mf + x.2.2 }) acc
  s.modRd fun r => { r with acc := acc }

/-- A sink found faulty (R217). -/
def sinkFaulty (s : State) (k : Nat) : State :=
  let st := k / 96
  let s := (s.fsk RB_ST_FAULT 0 st 1).fsk RB_ST_SINK 0 st k
  let s := s.modRd fun r => { r with
    faulty := r.faulty ++ [k],
    toForce := if s.fg RB_CFG_ACT = 1 ∧ !r.toForce.contains st ∧ !(r.forced.any (·.1 == st)) then r.toForce ++ [st] else r.toForce }
  s.fault pgRDBK 0 0x7810 k st

/-- At the end of a complete display cycle, the forced stones whose first complete cycle this was: any counted conduction is a sink
stuck on (R217). -/
def stuckTest (s : State) : State :=
  let hot (k : Nat) : Bool := s.rdbk.acc.any fun y => y.1 / 96 == k && decide (0 < y.2.ms + y.2.mf)
  let due := (s.rdbk.forced.filter (·.2 == 1)).map (·.1)
  let s := s.modRd fun r => { r with forced := r.forced.map fun x => if x.2 = 1 then (x.1, 2) else x }
  (due.filter hot).foldl (fun s k => (s.fault pgRDBK 1 0x7812 k k).enterDarkFor pgRDBK 1 7) s

/-- The comparison at the end of a complete display cycle (R216, R217). -/
def rdbkCompare (s : State) : State :=
  if s.fg RB_CFG_EN = 0 then s
  else
    let acc := s.rdbk.acc
    let bad := (acc.filter fun x => rdMismatch (s.fg RB_CFG_PULSE) (s.fg RB_CFG_REL) x.2).map (·.1)
    let run : Cells Nat := bad.map fun k => (k, cget s.rdbk.run k 0 + 1)
    let new := bad.filter fun k => cget run k 0 == 2
    let s := s.modRd fun r => { r with last := acc, mis := bad, run := run, faulty := r.faulty.filter bad.contains }
    let s := (List.range 16).foldl (fun s st =>
      let s := s.fsk RB_ST_MIS 0 st (min 96 (bad.filter fun k => k / 96 == st).length)
      if s.rdbk.faulty.any fun k => k / 96 == st then s else s.fsk RB_ST_FAULT 0 st 0) s
    new.foldl State.sinkFaulty (s.fs RB_LDCN_DCN s.dcn)

/-- RB_FORCED and ST_STAT.FORCED follow the forced stones. -/
def showForced (s : State) : State :=
  (List.range 16).foldl (fun s k => s.fsi ST_STAT_FORCED k (b2n (s.rdbk.forced.any (·.1 == k))))
    (s.fs RB_FORCED_STONES ((List.range 16).foldl (fun v k => v + b2n (s.rdbk.forced.any (·.1 == k)) * 2 ^ k) 0))

/-- Forcing and release at a span boundary (R217). -/
def rdbkBoundary (s : State) : State :=
  let free := s.rdbk.toFree
  let force := s.rdbk.toForce
  let gone := free.filter fun k => s.rdbk.forced.any (·.1 == k)
  let s := s.modRd fun r => { r with
    toFree := [], toForce := [], forced := (r.forced.filter fun x => !free.contains x.1) ++ force.map fun k => (k, 0),
    run := r.run.filter fun x => !free.contains (x.1 / 96), faulty := r.faulty.filter fun x => !free.contains (x / 96) }
  let s := gone.foldl (fun s k => (s.fsk RB_ST_FAULT 0 k 0).ev pgRDBK 0x0810 k kInfo k) s
  (force.foldl (fun s k => s.ev pgRDBK 0x7811 k kFault k) s).showForced

/-- A display cycle starts: counts restart, and forced stones begin their first complete cycle. -/
def rdbkCycle (s : State) : State := s.modRd fun r => { r with acc := [], forced := r.forced.map fun x => (x.1, max 1 x.2) }

/-- RB_SPLAN_S, RB_SPLAN_F, RB_SMEAS_S, RB_SMEAS_F and RB_SPULSE of a sink. -/
def rdbkRead (s : State) (k : Nat) : List Nat :=
  let x := cget s.rdbk.last k RdSink.zero
  [satN 32 x.ps, satN 32 x.pf, satN 32 x.ms, satN 32 x.mf,
    b2n (s.rdbk.faulty.contains k) * 2 ^ 17 + b2n (s.rdbk.mis.contains k) * 2 ^ 16 + satN 16 x.np]

/-! ### SADC1 (R219, R220) -/

/-- Channel, gain and averaging code of a sequence entry. -/
def senseFields (s : State) (e : Nat) : Nat × Nat × Nat := (s.fgk SENSE_SEQ_CH 0 e, s.fgk SENSE_SEQ_GAIN 0 e, s.fgk SENSE_SEQ_AVG 0 e)

/-- Start entry `e`: tagged conversions after a change, and those still due from an earlier one (R220). -/
def senseStart (s : State) (e : Nat) : State :=
  let f := s.senseFields e
  let tag := match s.sense.last with
    | none => 3
    | some l => if l.2.1 ≠ f.2.1 then 3 else if l ≠ f then 2 else 0
  ({ s with sense := ⟨true, e, max tag s.sense.tagLeft, [], some f⟩ }.fs SENSE_STAT_ENTRY e).fs SENSE_STAT_BUSY 1

/-- SADC1 stops. -/
def senseStop (s : State) : State := { s with sense := { s.sense with busy := false } }.fs SENSE_STAT_BUSY 0

/-- One conversion: raw code and value in the channel's unit. -/
def senseMake (s : State) (code : Nat) (value : Int) : State :=
  let e := s.sense.entry
  let tagged := decide (0 < s.sense.tagLeft)
  let s := ((s.fs SENSE_RAW_SETTLING (b2n tagged)).fs SENSE_RAW_ENTRY e).fs SENSE_RAW_CODE code
  if tagged then { s with sense := { s.sense with tagLeft := s.sense.tagLeft - 1 } }.inc SENSE_CNT_TAGGED 0 1
  else
    let sum := (s.sense.codes.foldl (fun (a : Int) (c : Nat) => a + sgn 32 c) 0) + value
    let n := s.sense.codes.length + 1
    let avg := match s.sense.last with
      | some f => 4 ^ f.2.2
      | none => 1
    let s := s.fsk SENSE_RES_SETTLING 0 e 0
    if n < avg then { s with sense := { s.sense with codes := s.sense.codes ++ [twos 32 value] } }
    else
      let s := (s.fsk SENSE_RES_VALUE 0 e (twos 16 ((2 * sum + n) / (2 * n)))).fsk SENSE_RES_VALID 0 e 1
      let s := s.fsk SENSE_RES_COUNT 0 e (s.fgk SENSE_RES_COUNT 0 e + 1)
      if e + 1 < s.fg SENSE_CFG_LEN then s.senseStart (e + 1)
      else if s.fg SENSE_CFG_CONT = 1 then s.senseStart 0
      else s.senseStop

/-- A conversion of SADC1 ends. It is the last one when ENABLE has been written 0 (R224). -/
def senseConv (s : State) (code : Nat) (value : Int) : State :=
  if !s.sense.busy then s
  else
    let s := s.senseMake code value
    if s.fab.stopping.contains pgSENSE then
      { s.senseStop.fs (hACTIVE pgSENSE) 0 with fab := { s.fab with stopping := s.fab.stopping.filter (· != pgSENSE) } }
    else s

/-- A write to sequence entry `e`: no result exists since (R220). -/
def senseWritten (s : State) (e : Nat) : State := (s.fsk SENSE_RES_SETTLING 0 e 1).fsk SENSE_RES_VALID 0 e 0

end State

/-- CONVERSION (R219): SADC1 makes one conversion of its sequence entry; `value` in the channel's unit. -/
def execConversion (code : Nat) (value : Int) (s : State) : Ans State := .next (s.begin_.senseConv code value)

/-- The handler of HEALTH_CMD (R222, Table 10.7): the clear takes effect at the next span boundary. -/
def hHealthCmd : Handler := fun s w _ _ _ data =>
  let add (x : Option Nat) : State := { s with health := { s.health with clr := s.health.clr ++ [x] } }
  match data % 16 with
  | 1 => .ok (add (some (s.fgb w.bank HEALTH_QSEL_LAMP)))
  | 2 => .ok (add none)
  | _ => .error ⟨0x1803, HEALTH_CMD_OP.lo⟩

/-- CLEAR (R211, R212): HEALTH_CMD OP 0x1. -/
def execClear (a : Sys2Proof.Access) (s : State) : Ans State :=
  .next (direct s.begin_ a (regAddr pgHEALTH HEALTH_CMD.off) 1 hHealthCmd)

/-- CLEARALL (R212): HEALTH_CMD OP 0x2. -/
def execClearall (a : Sys2Proof.Access) (s : State) : Ans State :=
  .next (direct s.begin_ a (regAddr pgHEALTH HEALTH_CMD.off) 2 hHealthCmd)

/-- The handler of a plain register: its fields change by their access types. -/
def hStore : Handler := fun s w p o g data => .ok (storeReg s w p o g data)

/-- HEALTH_QUERY (R222): a write of HEALTH_QSEL. -/
def execHealthQuery (a : Sys2Proof.Access) (lamp : Nat) (s : State) : Ans State :=
  .next (direct s.begin_ a (regAddr pgHEALTH HEALTH_QSEL.off) (lamp % 2 ^ 18) hStore)

/-- LIST_QUERY (R222): a write of HEALTH_LSEL. -/
def execListQuery (a : Sys2Proof.Access) (idx : Nat) (s : State) : Ans State :=
  .next (direct s.begin_ a (regAddr pgHEALTH HEALTH_LSEL.off) (idx % 2 ^ 10) hStore)

/-- WIRE_QUERY (R206): a write of WIRE_QSEL. -/
def execWireQuery (a : Sys2Proof.Access) (lamp : Nat) (s : State) : Ans State :=
  .next (direct s.begin_ a (regAddr pgWIRE WIRE_QSEL.off) (lamp % 2 ^ 18) hStore)

/-- WIRE_QRES0 and WIRE_QRES1 of a lamp (Table 9.9). -/
def State.wireQres (s : State) (l : Nat) : Nat × Nat :=
  let m := s.wmap
  match m.slotOf (l / 3) with
  | some (j, r) =>
    let p := m.pixel j r
    (p.2 * 2 ^ 16 + p.1, 2 ^ 31 + l % 3 * 2 ^ 24 + r * 2 ^ 16 + (3 * j + cordPos (cordOf s.regs (j / 32)) (l % 3)))
  | none => (0, 0)

/-- The handler of RB_CLR (R217): release at the next span boundary. -/
def hRbClr : Handler := fun s _ _ _ _ data =>
  .ok (s.modRd fun r => { r with toFree := r.toFree ++ (List.range 16).filter fun k => bit data k })

/-- RB_CLR (R217). -/
def execRbClr (a : Sys2Proof.Access) (stones : Nat) (s : State) : Ans State :=
  .next (direct s.begin_ a (regAddr pgRDBK RB_CLR.off) (stones % 2 ^ 16) hRbClr)

end Sys2Proof.Machine
end

