-- ==== Sys2Proof/Machine/Scan.lean ====
section
/-! DEFINITION. The span engine (chapters 8 and 9): occurrences (R175), the words placed in a span (R178 to R185, R213, R239,
R357), what a span's measurements do at its end (R193, R201, R209 to R215), and the places of spans in a cycle (R190). -/

namespace Sys2Proof.Machine

/-! ### Occurrences (R175) -/

/-- The bytes of an occurrence whose N, lg or DIM_CUR differ from the plan's (R175). -/
def deriveEnts (m : WireMap) (ents : List Nat) (n lg : Nat) (cur : DimCur) : List Nat :=
  let px := m.pixels
  ents.zipIdx.map fun x =>
    let v := x.1 % 2 ^ 24
    let p := nth px (x.2 / 3) (0, 0)
    ctlByte v n lg cur p.1 p.2 (x.2 % 3) * 2 ^ 24 + v

/-- The occurrence that plays plan `pl` in window `w`. -/
def occOf (s : State) (w : Nat) (pl : Plan) : Occ :=
  let n := winSweeps s.regs w
  let cur := DimCur.ofWord (s.fg DIM_CUR)
  let d := decide (pl.inp.n ≠ n ∨ pl.inp.lg ≠ s.litG ∨ pl.inp.curGen ≠ s.scan.curGen)
  ⟨w, pl, s.dcn, n, s.litG, cur, d, if d then deriveEnts pl.inp.wire pl.ents n s.litG cur else pl.ents, pl.inp.wire⟩

/-- What words prepared from an occurrence depend on. -/
def Occ.key (o : Occ) (gen : Nat) : List Nat := [o.win, o.plan.id, o.dcn, o.n, o.lg, gen, b2n o.derive_]

/-- Lamps of an occurrence in each mode: spread at set and at fine current, gathered, sparse (Table 8.8). -/
def Occ.modes (o : Occ) : List Nat :=
  let cnt (f : Nat → Bool) : Nat := (o.ents.filter fun e => f (e / 2 ^ 24)).length
  [cnt fun c => c / 32 % 4 == 1 && c / 128 == 0, cnt fun c => c / 32 % 4 == 1 && c / 128 == 1, cnt fun c => c / 32 % 4 == 2,
    cnt fun c => c / 32 % 4 == 3]

/-- DIM_PCTL, DIM_PTOT and DIM_PDCN of a lamp. -/
def Occ.probe (o : Occ) (l : Nat) : List Nat :=
  let e := nth o.ents l 0
  [e, satN 32 (occUnits (e % 2 ^ 24) o.n o.lg (e / 2 ^ 24) (o.dcn % 2 ^ 24)), o.dcn]

namespace State

/-- Change the span engine's state. -/
def modScan (s : State) (f : ScanSt → ScanSt) : State := { s with scan := f s.scan }

/-- Rows of the scan ratio in force. -/
def rows (s : State) : Nat := s.fg SCAN_RATIO_ROWS

/-- Sweeps of all windows (WIN_TOTAL); none while WIN is disabled. -/
def allSweeps (s : State) : Nat := if s.active pgWIN then winFirst s.regs 16 else 0

/-- The window of the span at hand: none in the tail or outside a cycle. -/
def spanWin (s : State) : Option Nat :=
  if s.scan.inCycle && s.active pgWIN && decide (s.scan.sweep < s.allSweeps) then winOfSweep s.regs s.scan.sweep else none

/-- A stone places words in the span that starts (R181, R186, R202, R217, Table 17.7). -/
def stoneLit (s : State) (late : List Nat) (k : Nat) : Bool :=
  s.active (pgSTONE + k) && s.powered (stoneDomain k) && s.fgi ST_STAT_FORCED k == 0 && s.fgi ST_STAT_THERMAL k == 0 &&
  !s.pow.shut && !late.contains k

/-- Entries of a plan that a double-bit error in a word of its buffer darkens (R23, R182). -/
def dbeLamps (pl : Plan) (u w : Nat) : List Nat :=
  match findIdx? pl.units (· == u) with
  | some i => (List.range 2).filterMap fun b =>
    let l := i * 16384 + 2 * w + b
    if l < pl.ents.length then some l else none
  | none => []

/-- The override word (R185). -/
def ovrWord (s : State) : EdgeWord :=
  ⟨true, s.fg EDGE_OVR_CTRL_FINE == 1, s.fg EDGE_OVR_OFF_OFF, s.fg EDGE_OVR_ON_ON⟩

/-- The override acts in row `r`. -/
def ovrRow (s : State) (r : Nat) : Bool :=
  s.fg EDGE_OVR_CTRL_EN == 1 && s.mode == .service && (s.fg EDGE_OVR_CTRL_ALLROWS == 1 || s.fg EDGE_OVR_CTRL_ROW == r)

/-- The word of a lamp in sweep `sweep` of the cycle, from the occurrence (R176 to R179); dark when concealed, or in a feed's window in
SERVICE. -/
def distWord (s : State) (o : Occ) (sweep l stone : Nat) : EdgeWord :=
  let e := nth o.ents l 0
  let feedDark := s.mode == .service && s.fgk WIN_SRC_ACT_KIND 0 o.win == 1
  let w := edgeWordOf (e % 2 ^ 24) o.n o.lg o.cur.pmin (e / 2 ^ 24) (o.dcn % 2 ^ 24) (sweep - winFirst s.regs o.win) s.bgG stone
    (s.fg DIM_PLACE_ALIGN) (s.fg DIM_PLACE_STAG)
  if s.concealed l || feedDark then { w with valid := false } else w

/-- The words of row `r` in sweep `sweep` (R179, R185): every sink of the row's mapped slots, and override sinks whose slot some
region covers. -/
def rowWords (s : State) (oc : Option Occ) (sweep r : Nat) : List PSink :=
  let m := s.wmap
  let base := m.index 0 r
  let ovr := s.ovrRow r
  let inOvr (k : Nat) : Bool := ovr && decide (s.fg EDGE_OVR_SEL_FIRST ≤ k) && decide (k ≤ s.fg EDGE_OVR_SEL_LAST)
  let mapped := (m.rowSlots r).zipIdx.flatMap fun x =>
    let stone := x.1 / 32
    (List.range 3).map fun p =>
      let col := cordCol (cordOf s.regs stone) p
      let l := 3 * (base + x.2) + col
      let k := 3 * x.1 + p
      let w := if inOvr k then s.ovrWord else match oc with
        | some o => s.distWord o sweep l stone
        | none => EdgeWord.none
      ⟨k, some l, col, w, inOvr k, true, !s.concealed l⟩
  let extra := if ovr then
      (List.range 1536).filterMap fun k =>
        let j := k / 3
        if inOvr k && (m.rgnAt j r).isNone && (m.rgns.any fun q => decide (q.jf ≤ j) && decide (j ≤ q.jl)) then
          some ⟨k, none, cordCol (cordOf s.regs (j / 32)) (k % 3), s.ovrWord, true, false, true⟩
        else none
    else []
  mapped ++ extra

/-- A word as the placer takes it: its stone lit and its rail RUNNING (R239), and a distribution word not in a dead entry (R182). Samples
are taken of enabled stones that are not forced (R209, R221), also where the thermal functions keep a stone dark. -/
def gateWord (s : State) (late dead : List Nat) (p : PSink) : PSink :=
  let k := p.sink / 96
  let hit := !p.ovr && p.lamp.any dead.contains
  let smp := s.active (pgSTONE + k) && s.powered (stoneDomain k) && s.fgi ST_STAT_FORCED k == 0
  { p with
    word := { p.word with valid := p.word.valid && s.stoneLit late k && s.railLit p.col && !hit },
    sampled := p.sampled && smp && s.railLit p.col && !hit }

/-- Check the words as the placer takes them (R184): a failing word is suppressed and counted. -/
def checkWords (s : State) (l : List PSink) : State × List PSink :=
  l.foldl (fun (acc : State × List PSink) p =>
    match edgeCheck s.bgG s.sgG p.word with
    | .placed => (acc.1, acc.2 ++ [p])
    | .nothing => (acc.1, acc.2 ++ [p.dark])
    | .order => (acc.1.inc ORDER_ERR_COUNT 0 1, acc.2 ++ [p.dark])
    | .short => (acc.1.inc EDGE_PERR_SHORT 0 1, acc.2 ++ [p.dark])
    | .range => (acc.1.inc EDGE_PERR_RANGE 0 1, acc.2 ++ [p.dark])) (s, [])

/-- What a directory read at the start of this span finds (R19). -/
def noteSeen (s : State) : State := s.modScan fun c => { c with seenPrev := c.seenCur, seenCur := s.pix.dir.map (·.pend) }

/-- Every enabled window has a plan that this cycle can show: the hold of R22 ends. The window that opens the cycle needs one whose
directory read is made. -/
def holdOver (s : State) : State :=
  let ready (w : Nat) : Bool :=
    !s.winOn w || !s.active pgWIRE || (s.dirOf w).cur.isSome ||
      (if winFirst s.regs w = 0 then (nth s.scan.seenPrev w none).isSome else (s.dirOf w).pend.isSome)
  if s.scan.hold && (List.range 16).all ready then s.modScan fun c => { c with hold := false } else s

/-- The first span of a window: its occurrence starts (R19, R175). -/
def beginOcc (s : State) (w : Nat) : State :=
  let s := s.openWindow w
  match if s.scan.hold then none else (s.dirOf w).cur with
  | some pl => s.modScan fun c => { c with
      occ := if s.active pgWIRE then some (occOf s w pl) else none,
      shown := if s.active pgWIRE then c.shown ++ [(w, pl, pl.ents)] else c.shown }
  | none => s.modScan fun c => { c with occ := none }

/-- The occurrence in progress has ended after `n` spans of the cycle; one that was cut is not the last complete one (R187). -/
def endOcc (s : State) (n : Nat) : State := match s.scan.occ with
  | some o =>
    let full := decide ((winFirst s.regs o.win + o.n) * s.rows ≤ n)
    (s.modScan fun c => { c with
      occ := none, lastOcc := if full then modAt c.lastOcc o.win fun _ => some o else c.lastOcc }).undefer o.win
  | none => s

/-- Spans of the cycle that lie before the place of `s.scan`. -/
def placeNo (s : State) : Nat := s.scan.sweep * s.rows + s.scan.span

/-- Windows whose plan, shown or taken by a directory read, lies in unit `u`. -/
def unitWins (s : State) (u : Nat) : List Nat :=
  let has (p : Option Plan) : Bool := p.any fun x => x.units.contains u
  (List.range 16).filter fun w => has (s.dirOf w).cur || has (s.readPlan w) || has ((s.scan.occ.filter fun o => o.win == w).map (·.plan))

/-- The prefetches of this span find words of the plan store wrong: recorded and told, and the windows regenerate (R23, R182). The rows
read are those two spans ahead. -/
def readDbe (s : State) (l : List (Nat × Nat)) : State :=
  let hit := l.filter fun x => !(s.unitWins x.1).isEmpty
  let s := hit.foldl (fun s x =>
    let s := ((s.fs DIM_DBE_UNIT x.1).fs DIM_DBE_WORD x.2).fault pgDIM 1 0x7611 x.1 0
    (s.unitWins x.1).foldl State.releaseWin s) s
  s.modScan fun c => { c with dbe := (hit :: c.dbe).take 3 }

/-- Lamps of an occurrence that the prefetch two spans ago found wrong. -/
def deadLamps (s : State) (o : Occ) : List Nat := (nth s.scan.dbe 2 []).flatMap fun x => dbeLamps o.plan x.1 x.2

/-- The occurrence of the next span, when it lies in a window: the one in progress, or that of the window it opens. -/
def nextOcc (s : State) (sweep span : Nat) : Option (Option Occ) :=
  if s.allSweeps ≤ sweep then none
  else match winOfSweep s.regs sweep with
    | none => none
    | some w =>
      if s.scan.win = some w then some s.scan.occ
      else if s.scan.hold || !s.active pgWIRE || span != 0 then some none
      else
        let pl := match nth s.scan.seenPrev w none with
          | some p => if planDue p s.dcn then some p else (s.dirOf w).cur
          | none => (s.dirOf w).cur
        some (pl.map (occOf s w))

/-- The words of the next span of the cycle are prepared (R181). -/
def prepare (s : State) : State :=
  let (sweep, span) := if s.scan.span + 1 < s.rows then (s.scan.sweep, s.scan.span + 1) else (s.scan.sweep + 1, 0)
  s.modScan fun c => { c with next := (s.nextOcc sweep span).map fun o =>
    ⟨sweep, span, (o.map (·.key s.scan.curGen)).getD [], s.rowWords o sweep span⟩ }

/-- The words of the span that starts: those prepared for it, or, when what they depend on has changed, anew. -/
def spanWords (s : State) : List PSink :=
  let fresh := s.rowWords s.scan.occ s.scan.sweep s.scan.span
  match s.scan.next with
  | some n =>
    if n.sweep = s.scan.sweep ∧ n.span = s.scan.span ∧ n.occ = (s.scan.occ.map (·.key s.scan.curGen)).getD [] then n.sinks else fresh
  | none => fresh

/-- The row and the pre-charge of the span that starts (R191, R192). -/
def rowDrive (s : State) : RowDrive :=
  ⟨s.scan.span, s.now + 32 * s.fg SCAN_BLANK_DIS, s.now + 32 * s.fg SCAN_PRE_LEN,
    (List.range 16).filter fun k => s.active (pgSTONE + k) && s.powered (stoneDomain k),
    [s.fg SCAN_PREV_R, s.fg SCAN_PREV_G, s.fg SCAN_PREV_B]⟩

/-- Row output `p` is selected, driven to GND, at grain `g` of the timebase (Table 9.1). -/
def rowSelected (s : State) (p g : Nat) : Bool := s.scan.drive.any fun d => d.row == p && decide (p < s.rows) && decide (d.selAt ≤ g)

/-- The level to which a sink of stone `k` pulls a column of colour `col` up at grain `g`, in 50 mV (R192). -/
def preCharge (s : State) (k col g : Nat) : Option Nat := match s.scan.drive with
  | some d => if d.stones.contains k && decide (g < d.preEnd) then d.level[col]? else none
  | none => none

/-- The span at the place of `s.scan` starts, with the conditions of `e`: the pending plans are noted (R19), a window's first span
opens its occurrence, and the words of the row are placed. -/
def startSpan (s : State) (e : SpanEnv) : State :=
  let w := s.spanWin
  let s := if w = s.scan.win ∧ s.scan.inCycle then s else s.endOcc s.placeNo
  let s := s.modScan fun c => { c with win := w, startAt := s.now }
  let s := match w with
    | some n => if s.scan.sweep = winFirst s.regs n ∧ s.scan.span = 0 then s.beginOcc n else s
    | none => s
  let s := s.noteSeen.readDbe e.dbe
  let driven := s.lit && s.active pgSCAN && w.isSome && s.fg TIME_STAT_PLL_LOCK == 1 && !s.scan.hold
  let s := (s.modScan fun c => { c with driven := driven, drive := none, placed := [] }).showScan
  if !driven then s.prepare
  else
    let late := e.late.filter fun k => s.stoneLit [] k
    let s := late.foldl (fun s k => s.fault pgDIM 0 0x7610 k k) s
    let s := if late.isEmpty then s else s.inc DIM_CNT_UNDERRUN 0 1
    let dead := (s.scan.occ.map s.deadLamps).getD []
    let words := s.spanWords
    let off := words.filter fun p => !p.ovr && s.stoneLit late (p.sink / 96) && p.lamp.any dead.contains
    let s := if off.isEmpty then s else s.inc DIM_CNT_DBELAMPS 0 off.length
    let (s, placed) := s.checkWords (words.map (s.gateWord late dead))
    let s := if placed.any fun p => p.ovr && p.word.valid then s.inc EDGE_OVR_CNT_SPANS 0 1 else s
    (s.modScan fun c => { c with placed := placed, clean := late.isEmpty, drive := some s.rowDrive }).prepare

/-! ### The end of a span -/

end State

/-- One sample of a row pin (R193). `low` is what was found, `wantLow` what was expected: the monitor, and a new onset. -/
def RowMon.sample (m : RowMon) (wantLow low : Bool) : RowMon × Bool :=
  if wantLow then
    if low then
      let m := { m with loBad := 0, loOk := m.loOk + 1 }
      (if m.faulty = some false ∧ 2 ≤ m.loOk then { m with faulty := none } else m, false)
    else
      let m := { m with loBad := m.loBad + 1, loOk := 0 }
      if 2 ≤ m.loBad ∧ m.faulty = none then ({ m with faulty := some false }, true) else (m, false)
  else
    if low then
      let m := { m with hiBad := m.hiBad + 1, hiOk := 0 }
      if 2 ≤ m.hiBad ∧ m.faulty = none then ({ m with faulty := some true }, true) else (m, false)
    else
      let m := { m with hiBad := 0, hiOk := m.hiOk + 1 }
      (if m.faulty = some true ∧ 2 ≤ m.hiOk then { m with faulty := none } else m, false)

/-- A monitor without history. -/
def RowMon.fresh : RowMon := ⟨0, 0, 0, 0, none⟩

namespace State

/-- The row monitor at grain sg − 64 of a whole span (R193). -/
def rowMonitor (s : State) (low : List Nat) : State :=
  if !s.active pgSCAN then s
  else
    let lvl (m : Nat) : Nat := (List.range 32).foldl (fun v b => v + b2n (!low.contains (32 * m + b)) * 2 ^ b) 0
    let at_ := s.scan.drive
    let s := (List.range 4).foldl (fun s m => s.fsk SCAN_RLVL_LVL 0 m (lvl m)) s
    (List.range 128).foldl (fun s p =>
      let want := at_.any fun d => d.row == p
      let (m, new) := (nth s.scan.rows p RowMon.fresh).sample want (low.contains p)
      let s := s.modScan fun c => { c with rows := modAt c.rows p fun _ => m }
      if !new then s
      else
        let s := ((s.fs SCAN_ROWST_VALID 1).fs SCAN_ROWST_LOW (b2n !want)).fs SCAN_ROWST_ROW p
        let s := (s.inc SCAN_ROWCNT_COUNT 0 1).fault pgSCAN 0 0x7710 p 0
        if !want && s.fg SCAN_ROWF_ACT == 1 then (s.fault pgSCAN 1 0x7711 p 0).enterDarkFor pgSCAN 1 6 else s) s

/-- The current that a sink conducts at set current, in 0.1 µA ÷ 3,200: I × (3,200 + 3 T), T its trim code of the values in force (R198). -/
def conducted (s : State) (k col : Nat) : Int :=
  let t : Int := match s.trim.run with
    | some b => nth b.sinks k 0
    | none => 0
  (stoneCurrent s.regs (k / 96) col : Int) * (3200 + 3 * t)

/-- The headroom code of a placed sink, when it is sampled (R201); an unlisted column reads code 63. -/
def hrCode (s : State) (e : SpanEnv) (p : PSink) : Option Nat :=
  if p.word.valid && decide (p.word.on + s.fg SCAN_HR_DELAY + 64 ≤ p.word.off) then
    some (match e.hrMv.find? fun x => x.1 == p.sink with
      | some x =>
        headroomCode x.2 (s.conducted p.sink p.col) (if p.word.fine then 51200 else 3200)
      | none => 63)
  else none

/-- The lower of two codes. -/
def minCode (a b : Option Nat) : Option Nat := match a, b with
  | some x, some y => some (min x y)
  | some x, none => some x
  | none, y => y

/-- The headroom report of the span that ends (R201): minima per stone and rail, and of each rail to the supply stage. -/
def headroomSpan (s : State) (e : SpanEnv) : State :=
  let codes := s.scan.placed.filterMap fun p => (s.hrCode e p).map fun c => (s.sinkGroup p, c)
  let low (f : Nat → Bool) : Option Nat := codes.foldl (fun b x => if f x.1 then minCode b (some x.2) else b) none
  let s := (List.range 32).foldl (fun s g => match low (· == g) with
    | none => s
    | some c =>
      let k := g / 2
      let s := s.modScan fun x => { x with hr := modAt x.hr g (minCode · (some c)) }
      if g % 2 = 0 then
        let old := if s.fgi ST_HRMIN_VA k = 1 then s.fgi ST_HRMIN_HRA k else 63
        (s.fsi ST_HRMIN_VA k 1).fsi ST_HRMIN_HRA k (min old c)
      else
        let old := if s.fgi ST_HRMIN_VB k = 1 then s.fgi ST_HRMIN_HRB k else 63
        (s.fsi ST_HRMIN_VB k 1).fsi ST_HRMIN_HRB k (min old c)) s
  s.railSpanEnd [low (· % 2 == 0), low (· % 2 == 1)]

/-- A sweep of a window has ended: ST_HR (R201). -/
def sweepEnd (s : State) : State :=
  let s := (List.range 16).foldl (fun s k =>
    let a := nth s.scan.hr (2 * k) none
    let b := nth s.scan.hr (2 * k + 1) none
    let s := (s.fsi ST_HR_VA k (b2n a.isSome)).fsi ST_HR_HRA k (a.getD 0)
    (s.fsi ST_HR_VB k (b2n b.isSome)).fsi ST_HR_HRB k (b.getD 0)) s
  s.modScan fun c => { c with hr := c.hr.map fun _ => none }

/-- A sweep has been cut: its minima count for nothing (R201, R241). -/
def sweepCut (s : State) : State :=
  (List.range 2).foldl (fun s k => s.modRail k fun r => { r with low := none }) (s.modScan fun c => { c with hr := c.hr.map fun _ => none })

/-- The span in progress is the last of a sweep of a window. -/
def sweepLast (s : State) : Bool := s.scan.win.isSome && s.scan.span + 1 == s.rows

/-- The span in progress ends now with the measurements of `e`. `whole`: it had its full length. -/
def endSpan (s : State) (e : SpanEnv) (whole : Bool) : State :=
  let underrun := !s.scan.clean && s.scan.driven
  let s := if whole then s.rowMonitor e.lowRows else s
  let (s, out) := s.healthSpan e underrun
  let s := if s.scan.inCycle then s.rdbkSpan e out else s
  let s := s.headroomSpan e
  if s.sweepLast && whole then s.sweepEnd else s

/-- The place of the next span of the cycle (R190). -/
def nextPlace (s : State) : State :=
  s.modScan fun c =>
    if s.scan.span + 1 < s.rows then { c with span := c.span + 1 } else { c with span := 0, sweep := c.sweep + 1 }

end State

end Sys2Proof.Machine
end

