-- ==== Sys2Proof/Machine/Serial.lean ====
section
/-! DEFINITION. The serial ports (chapter 14): the boot flash on SPIB (R290 to R293), grants on SPIC and TWI (R294) and their
transfers (R295 to R298). SPIA's operations, which are register accesses, are in the file of management operations. What the flash
and the targets answer is an operand of the command. -/

namespace Sys2Proof.Machine

/-- Byte `b` of a little-endian buffer of words at `off` of page `p`. -/
def bufByte (r : Regs) (p off b : Nat) : Nat := bitsOf (rget r 0 p (off + b / 4 * 4)) (8 * (b % 4) + 7) (8 * (b % 4))

/-- Put byte `b` of such a buffer. -/
def putBufByte (r : Regs) (p off b v : Nat) : Regs :=
  rput r 0 p (off + b / 4 * 4) (putBits (rget r 0 p (off + b / 4 * 4)) (8 * (b % 4) + 7) (8 * (b % 4)) v)

/-- Put a run of bytes from byte 0. -/
def putBuf (r : Regs) (p off : Nat) (l : List Nat) : Regs :=
  l.zipIdx.foldl (fun r x => putBufByte r p off x.2 x.1) r

/-- The bytes of a flash address. -/
def flashAddr (addr4 : Bool) (a : Nat) : List Nat :=
  (if addr4 then [a / 2 ^ 24 % 256] else []) ++ [a / 2 ^ 16 % 256, a / 2 ^ 8 % 256, a % 256]

/-- Opcode of an operation (Table 14.3): 1 READ, 2 PROGRAM, 3 ERASE4K, 4 ERASE64K. -/
def flashOp (addr4 : Bool) (op : Nat) : Nat := match op, addr4 with
  | 1, false => 0x0B
  | 1, true => 0x0C
  | 2, false => 0x02
  | 2, true => 0x12
  | 3, false => 0x20
  | 3, true => 0x21
  | _, false => 0xD8
  | _, true => 0xDC

/-- Grains of `n` bits at DIV: each phase of a period lasts DIV ns (R283). -/
def bitTime (div n : Nat) : Nat := 32 * div * n

/-- Grains that a frame of `n` bits keeps a select asserted. -/
def Wire.time (w : Wire) (n : Nat) : Nat := 160 * w.lead + bitTime w.div n + 160 * w.trail

/-- Buffer position of transfer bit `i` (R295): byte and bit. -/
def spicPos (lsb : Bool) (i : Nat) : Nat × Nat := (i / 8, if lsb then i % 8 else 7 - i % 8)

namespace State

/-- Change the ports' state. -/
def modSer (s : State) (f : SerSt → SerSt) : State := { s with ser := f s.ser }

/-! ### The wires (R283, R284, R290, R295, R296) -/

/-- SPIA is the master: strapped so, and an image runs; the ROM loader serves it as slave (Table 18.8). -/
def spiaMaster (s : State) : Bool := s.fg SPIA_CFG_ROLE == 1 && !s.loader

/-- SPIA: as slave its clock is the master's. -/
def spiaWire (s : State) : Wire := ⟨0, 0, if s.spiaMaster then s.fg SPIA_MCFG_DIV else 0, s.fg SPIA_CFG_MODE, false, 0, 0, 0⟩

/-- SPIB: mode 0 and fixed select timing. -/
def spibWire (s : State) : Wire := ⟨1, 0, s.fg SPIB_CFG_DIV, 0, false, 2, 2, 4⟩

/-- SPIC on a select. -/
def spicWire (s : State) (sel : Nat) : Wire :=
  ⟨2, sel, s.fgk SPIC_SCFG_DIV 0 sel, s.fgk SPIC_SCFG_MODE 0 sel, s.fgk SPIC_SCFG_LSB 0 sel == 1, s.fgk SPIC_SCFG_LEAD 0 sel,
    s.fgk SPIC_SCFG_TRAIL 0 sel, s.fg SPIC_CTRL_GAP⟩

/-- TWI. -/
def twiWire (s : State) : Wire := ⟨3, 0, nth [100, 400, 1000] (s.fg TWI_CFG_RATE) 0, 0, false, 0, 0, 0⟩

/-! ### SPIB -/

/-- Four-byte addresses (SPIB_CFG.ADDR4). -/
def addr4 (s : State) : Bool := s.fg SPIB_CFG_ADDR4 == 1

/-- A program or erase keeps the flash busy. -/
def flashBusy (s : State) : Bool := s.ser.op != 0

/-- Refusals of a flash command (R292, R293, Table 14.9), in this order: length, busy, brown-out warning, window, temperature,
page crossing, alignment, address. -/
def flashRefuse (s : State) (op len : Nat) : Option Rc :=
  let a := s.fg SPIB_ADDR_ADDR
  let sized := op == 1 || op == 2
  let writes := op == 2 || op == 3 || op == 4
  if sized && len == 0 then some ⟨0x1C01, 0⟩
  else if sized && decide (256 < len) then some ⟨0x1C02, len⟩
  else if s.flashBusy then some ⟨0x4C11, 1⟩
  else if s.pow.vddLow then some ⟨0x4C14, 0⟩
  else if writes && s.fg SPIB_CFG_XIP_EN == 1 && s.fg SPIB_CFG_XIP_SUSPEND == 0 then some ⟨0x4C10, 0⟩
  else if writes && (decide (1840 < s.dieNow) || s.pow.shut) then some ⟨0x4C13, 0⟩
  else if op == 2 && decide (256 < a % 256 + len) then some ⟨0x2C10, a % 2 ^ 16⟩
  else if (op == 3 && a % 4096 != 0) || (op == 4 && a % 65536 != 0) then some ⟨0x1C04, a % 2 ^ 16⟩
  else if writes && !s.addr4 && decide (2 ^ 24 ≤ a) then some ⟨0x1C02, a % 2 ^ 16⟩
  else none

/-- Result of a flash command. -/
def spibRes (s : State) (c : Rc) : State := (s.fs SPIB_RES_CODE c.code).fs SPIB_RES_DETAIL c.detail

/-- An accepted flash command (R290): `flash` the bytes or the status byte that the flash answers. The flash is busy from the end of the select
of a program or erase, which a write enable precedes (Table 14.4). -/
def flashRun (s : State) (op len : Nat) (flash : List Byte) : State :=
  let a := s.fg SPIB_ADDR_ADDR
  let head := flashOp s.addr4 op :: flashAddr s.addr4 a
  if op = 1 then
    let s := s.emit (.serial s.spibWire (head ++ [0]))
    { s with regs := putBuf s.regs pgSPIB SPIB_BUF.off ((List.range len).map fun i => (nth flash i 0).toNat) }.spibRes ⟨0x0C00, 0⟩
  else if op = 5 then
    ((s.emit (.serial s.spibWire [0x05])).fs SPIB_STAT_SR (nth flash 0 0).toNat).spibRes ⟨0x0C00, 0⟩
  else
    let body := if op = 2 then (List.range len).map fun i => bufByte s.regs pgSPIB SPIB_BUF.off i else []
    let w := s.spibWire
    let at_ := s.now + w.time 8 + 160 * w.gap + w.time (8 * (head ++ body).length)
    let s := (s.emit (.serial w [0x06])).emit (.serial w (head ++ body))
    (s.fs SPIB_STAT_STATE 2).modSer fun x => { x with op := op, opAt := at_, srAt := at_, held := 0 }

/-- A status poll of a busy flash, 10 µs after the last (R290). -/
def flashPoll (s : State) (sr : Byte) : State :=
  if s.flashBusy then
    let s := s.advance (s.ser.srAt + 10 * Config.us)
    let s := ((s.emit (.serial s.spibWire [0x05])).fs SPIB_STAT_SR sr.toNat).modSer fun x => { x with srAt := s.now }
    if bit sr.toNat 0 then s
    else ((s.fs SPIB_STAT_STATE 0).modSer fun x => { x with op := 0 }).spibRes ⟨0x0C00, 0⟩
  else s

/-- The flash stays busy beyond its limit, not counting suspensions (R293). -/
def flashTimeout (s : State) : State :=
  if s.flashBusy then
    let op := s.ser.op
    let s := s.advance (s.ser.opAt + s.ser.held + (if op = 2 then 4 else 400) * Config.ms)
    let s := ((s.fs SPIB_STAT_STATE 0).modSer fun x => { x with op := 0 }).fault pgSPIB 0 0x7C12 op op
    s.spibRes ⟨0x7C12, op⟩
  else s

/-- A fetch through the window (R291, R292): `lat` its latency, `held` how long it suspended a busy flash; polls go on 10 µs after the resume. -/
def xipFetch (s : State) (off : Nat) (flash : List Byte) (lat held : Nat) : State :=
  if s.fg SPIB_CFG_XIP_EN = 0 ∨ 2 ^ 24 ≤ off then s.emit .coreError
  else
    let a := (s.fg SPIB_XBASE_BASE * 65536 + off) % (if s.addr4 then 2 ^ 32 else 2 ^ 24)
    let n := 32 - off / 4 * 4 % 32
    let sus := s.flashBusy && s.fg SPIB_CFG_XIP_SUSPEND == 1
    let s1 := if sus then s.emit (.serial s.spibWire [s.fg SPIB_SUS_SUSCMD]) else s
    let s1 := s1.emit (.serial s.spibWire (flashOp s.addr4 1 :: flashAddr s.addr4 (a / 4 * 4) ++ [0]))
    let s1 := if sus then
      (((s1.emit (.serial s.spibWire [s.fg SPIB_SUS_RESCMD])).inc SPIB_CNT_SUSPENDS 0 1).modSer fun x => { x with
        held := x.held + held, srAt := s.now + held })
      else s1
    let s1 := s1.fs SPIB_CNT_FWMAX (max (s1.fg SPIB_CNT_FWMAX) (satN 16 (lat / 1600)))
    let b (i : Nat) : Nat := (nth flash i 0).toNat
    s1.emit (.res ⟨0, 0⟩ ((List.range (n / 4)).map fun k =>
      BitVec.ofNat 32 (b (4 * k) + b (4 * k + 1) * 2 ^ 8 + b (4 * k + 2) * 2 ^ 16 + b (4 * k + 3) * 2 ^ 24)))

/-! ### Grants (R294, R66) -/

/-- The grant of SPIC, or of TWI: held, by which slot. -/
def grantOf (s : State) (twi : Bool) : Option Nat :=
  if twi then (if s.fg TWI_GRANT_HELD = 1 then some (s.fg TWI_GRANT_HOLDER) else none)
  else if s.fg SPIC_GRANT_HELD = 1 then some (s.fg SPIC_GRANT_HOLDER) else none

/-- Set or clear a grant. -/
def setGrant (s : State) (twi : Bool) (h : Option Nat) : State :=
  let v := b2n h.isSome
  let n := h.getD 0
  if twi then (s.fs TWI_GRANT_HELD v).fs TWI_GRANT_HOLDER n else (s.fs SPIC_GRANT_HELD v).fs SPIC_GRANT_HOLDER n

/-- REQUEST by slot `n`. -/
def grantRequest (s : State) (twi : Bool) (n : Nat) : Except Rc State :=
  let ms := if twi then s.fg TWI_GRANT_MS else s.fg SPIC_GRANT_MS
  let endAt := s.now + ms * Config.ms
  let give (s : State) : State := s.modSer fun x => if twi then { x with twiEnd := endAt } else { x with spicEnd := endAt }
  match s.grantOf twi with
  | none => .ok ((give (s.setGrant twi (some n))).evTo n (if twi then pgTWI else pgSPIC) 0x0C11 (b2n twi * 256 + n) kInfo 0)
  | some h => if h = n then .ok (give s) else .error ⟨0x4C12, h⟩

/-- Replace transfer bits by received bits, from bit 0 (R295). -/
def spicTake (s : State) (x : SpicX) (rx : List Bool) : State :=
  let lsb := s.fgk SPIC_SCFG_LSB 0 x.sel == 1
  { s with regs := (rx.take x.bits).zipIdx.foldl (fun r b =>
      let p := spicPos lsb b.2
      putBufByte r pgSPIC SPIC_BUF.off p.1 (putBits (bufByte r pgSPIC SPIC_BUF.off p.1) p.2 p.2 (b2n b.1))) s.regs }

/-- Result of the last TWI transfer. -/
def twiRes (s : State) (c : Rc) : State := s.setReg pgTWI TWI_RES.off (c.code * 2 ^ 16 + c.detail % 2 ^ 16)

/-- A transaction ends; bytes of the read buffer that were not received read 0. -/
def twiEnd (s : State) (x : TwiX) (bytes : List Byte) (c : Rc) : State :=
  let s := { s with regs := putBuf s.regs pgTWI TWI_RBUF.off ((List.range x.rlen).map fun i => (nth bytes i 0).toNat) }
  ((s.modSer fun y => { y with twiX := none }).fs TWI_STAT_BUSY 0).twiRes c

/-! ### System transactions to companions (R297, R346) -/

/-- The image of companion `c` in the manifest of the update's slot. -/
def compImage (s : State) (c : Nat) : Option Image :=
  (nth s.upd.slots s.upd.target none).bind fun m => m.images.find? fun i => i.typ == 0x10 + c

/-- Data bytes of one command on the companion's port. -/
def compChunk (i : Image) : Nat := if i.port < 128 then 1024 else 240

/-- The bytes of a companion's command: CMD, three zero bytes, OFFSET, then BEGIN's length and hash or DATA's image bytes (R346, Table 16.10). -/
def compBytes (i : Image) (cmd off : Nat) : List Nat :=
  [cmd, 0, 0, 0] ++ be 4 off ++ match cmd with
    | 1 => be 4 i.len ++ (List.range 48).map (nth i.hash · 0)
    | 2 => (List.range (min (compChunk i) (i.len - off))).map fun k => Config.imageByte i.hash (off + k) % 256
    | _ => []

/-- The port of companion `c` takes a system transaction: no transfer runs and no select is held by KEEP (R297). -/
def compFree (s : State) (c : Nat) : Bool := match s.compImage c with
  | some i => if i.port < 128 then s.ser.spicX.isNone && s.ser.kept.isNone else s.ser.twiX.all (·.wait.isSome)
  | none => true

/-- Send a companion a command, as a system transaction on its port. -/
def compEmit (s : State) (c cmd off : Nat) : State := match s.compImage c with
  | some i => s.emit (.serial (if i.port < 128 then s.spicWire (i.port % 8) else s.twiWire) (compBytes i cmd off))
  | none => s

/-- A companion's command that waits goes out as soon as its port is free. -/
def compGo (s : State) : State := match s.upd.comp with
  | some x => match x.todo with
    | c :: _ =>
      if x.held && s.compFree c then
        { s.compEmit c x.cmd x.off with upd := { s.upd with comp := some { x with held := false, sentAt := s.now, pollAt := s.now } } }
      else s
    | [] => s
  | none => s

/-- The port's grant ends and its transfer stops (R66): SPIC after its current word, TWI after its current byte, with STOP; `rx`: what
they have received by then. -/
def stopPort (s : State) (twi : Bool) (rx : StopRx) : State :=
  let h := (s.grantOf twi).getD 0
  let c : Nat := b2n twi * 256 + h
  let s := s.setGrant twi none
  if twi then match s.ser.twiX with
    | some x =>
      let s1 := s.twiEnd x rx.twi ⟨0x6C11, c⟩
      if x.wait.isSome then s1 else (s1.emit .twiStop).compGo
    | none => s
  else
    let s := match s.ser.spicX with
      | some x => (((s.spicTake x rx.spic).modSer fun y => { y with spicX := none }).fs SPIC_CTRL_BUSY 0).setReg pgSPIC SPIC_RES.off (0x6C11 * 2 ^ 16 + c)
      | none => s
    ((s.modSer fun x => { x with kept := none }).fs SPIC_CTRL_KEPT 0).compGo

/-- A grant is revoked: by its expiry or by a tenant reset. -/
def grantRevoke (s : State) (twi : Bool) (rx : StopRx) : State := match s.grantOf twi with
  | none => s
  | some h =>
    let d := b2n twi * 256 + h
    let p := if twi then pgTWI else pgSPIC
    let s := (s.stopPort twi rx).evTo h p 0x6C11 d kInfo h
    if h = 0 then s else s.evTo 0 p 0x6C11 d kInfo h

/-- Grants of slot `n` are revoked with its other leases (R66). -/
def busRevoke (s : State) (n : Nat) (rx : StopRx) : State :=
  let s := if s.grantOf false = some n then s.grantRevoke false rx else s
  if s.grantOf true = some n then s.grantRevoke true rx else s

/-- RELEASE frees the port; a transfer under way ends as usual. -/
def grantRelease (s : State) (twi : Bool) : State :=
  let s := s.setGrant twi none
  if twi ∨ s.ser.spicX.isSome then s else ((s.modSer fun x => { x with kept := none }).fs SPIC_CTRL_KEPT 0).compGo

/-! ### SPIC (R295) -/

/-- When a transfer of `bits` bits on select `sel` that is written now ends: after GAP when the select was not kept (R295). -/
def spicEndAt (s : State) (sel bits : Nat) (keep : Bool) : Nat :=
  let w := s.spicWire sel
  let tail := bitTime w.div bits + (if keep then 0 else 160 * w.trail)
  if s.ser.kept.isSome then s.now + tail else max s.now s.ser.spicFree + 160 * w.lead + tail

/-- A write of SPIC_XFER by the holder. -/
def spicStart (s : State) (slot data : Nat) : Except Rc State :=
  let bits := bitsOf data 30 16
  let sel := data % 8
  if bits = 0 then .error ⟨0x1C01, 16⟩
  else if 16384 < bits then .error ⟨0x1C02, bits⟩
  else if s.ser.spicX.isSome then .error ⟨0x4C11, 2⟩
  else if s.ser.kept.any (· != sel) then .error ⟨0x2C11, sel⟩
  else
    let s := (s.modSer fun x => { x with
      spicX := some ⟨slot, sel, bits, bit data 31, s.spicEndAt sel bits (bit data 31)⟩, kept := none }).fs SPIC_CTRL_BUSY 1
    .ok ((s.fs SPIC_CTRL_KEPT 0).emit (.serial (s.spicWire sel) ((List.range ((bits + 7) / 8)).map fun b => bufByte s.regs pgSPIC SPIC_BUF.off b)))

/-- A port page's DONE event is enabled (PG_EVENT[3]). -/
def doneOn (s : State) (p : Nat) : Bool := bit (s.fg (hEVENT p)) 3

/-- The transfer ends, at the instant its length gives. -/
def spicDone (s : State) (rx : List Bool) : State := match s.ser.spicX with
  | none => s
  | some x =>
    let s := s.advance x.endAt
    let s := (s.spicTake x rx).modSer fun y => { y with
      spicX := none, kept := if x.keep then some x.sel else none, spicFree := s.now + 160 * s.fg SPIC_CTRL_GAP }
    let s := ((s.fs SPIC_CTRL_BUSY 0).fs SPIC_CTRL_KEPT (b2n x.keep)).setReg pgSPIC SPIC_RES.off (0x0C00 * 2 ^ 16)
    (if s.doneOn pgSPIC then s.evTo x.slot pgSPIC 0x0C12 0 kInfo 0 else s).compGo

/-! ### TWI (R296, R298) -/

/-- A bus clear runs and ends with STOP: SDA is freed, or stays low. -/
def busClear (s : State) (freed : Bool) : State :=
  let s := s.emit .twiStop
  if freed then
    (((s.fs TWI_STAT_STUCK 0).fs TWI_STAT_SDA 1).fs TWI_STAT_SCL 1).ev pgTWI 0x0C10 0 kInfo 0
  else ((s.fs TWI_STAT_STUCK 1).fs TWI_STAT_SDA 0).fault pgTWI 0 0x7C10 0 0

/-- The transaction that waited for queued board reads starts (R297). -/
def twiGo (s : State) : State := match s.ser.twiX with
  | some x => match x.wait with
    | some l => (s.modSer fun y => { y with twiX := some { x with wait := none } }).emit (.serial s.twiWire l)
    | none => s
  | none => s

/-- A write of TWI_XFER by the holder; `sdaLow`: SDA is found low before START, and whether the bus clear frees it. It waits behind board
reads that are queued (R297). -/
def twiStart (s : State) (slot data : Nat) (sdaLow : Option Bool) : Except Rc State :=
  let r := bitsOf data 25 17
  let w := bitsOf data 16 8
  let a := data % 128
  if r = 0 ∧ w = 0 then .error ⟨0x1C01, 8⟩
  else if 256 < r + w then .error ⟨0x1C02, r + w⟩
  else if a < 8 ∨ 0x78 ≤ a then .error ⟨0x1C03, 0⟩
  else if s.fg TWI_STAT_STUCK = 1 then .error ⟨0x7C10, 0⟩
  else if s.ser.twiX.isSome then .error ⟨0x4C11, 3⟩
  else
    let s := match sdaLow with
      | some freed => s.busClear freed
      | none => s
    if s.fg TWI_STAT_STUCK = 1 then .ok (s.twiRes ⟨0x7C10, 0⟩)
    else
      let wr := (2 * a) :: (List.range w).map fun b => bufByte s.regs pgTWI TWI_WBUF.off b
      let out := (if w = 0 then [] else wr) ++ if r = 0 then [] else [2 * a + 1]
      let wait := s.field.queued.isSome
      let s := (s.modSer fun x => { x with twiX := some ⟨slot, a, w, r, if wait then some out else none⟩ }).fs TWI_STAT_BUSY 1
      .ok (if wait then s else s.emit (.serial s.twiWire out))

/-- A transaction that waited is refused: SDA stays low (R298). -/
def twiRefuseHeld (s : State) : State := match s.ser.twiX with
  | some x => if x.wait.isSome then s.twiEnd x [] ⟨0x7C10, 0⟩ else s
  | none => s

/-- TWI_TRANSFER_DONE's effect. -/
def twiDone (s : State) (r : TwiEnd) : State := match s.ser.twiX.filter (·.wait.isNone) with
  | none => s
  | some x => (match r with
    | .done bytes =>
      let s := (s.twiEnd x bytes ⟨0x0C00, 0⟩).emit .twiStop
      if s.doneOn pgTWI then s.evTo x.slot pgTWI 0x0C12 0x100 kInfo 0 else s
    | .addrNack => (s.twiEnd x [] ⟨0x7C13, x.addr⟩).emit .twiStop
    | .byteNack i => (s.twiEnd x [] ⟨0x7C14, i⟩).emit .twiStop
    | .busErr i freed => ((s.twiEnd x [] ⟨0x7C15, i⟩).fault pgTWI 2 0x7C15 i 0).busClear freed).compGo

/-- SCL stays low beyond STRETCH (R298). -/
def twiStretch (s : State) (i : Nat) (freed : Bool) : State := match s.ser.twiX.filter (·.wait.isNone) with
  | none => s
  | some x => (((s.twiEnd x [] ⟨0x7C11, i⟩).fault pgTWI 1 0x7C11 i 0).busClear freed).compGo

end State

/-! ### Handlers and commands -/

/-- Effect of a write of SPIB_CMD with what the flash answers. -/
def hSpibCmd (flash : List Byte) : Handler := fun s _ _ _ _ data =>
  let op := bitsOf data 31 28
  match s.flashRefuse op (data % 512) with
  | some c => .error c
  | none => .ok (s.flashRun op (data % 512) flash)

/-- Effect of a write of SPIB_CFG: XIP_SUSPEND stays while the flash is busy (Table 14.5). -/
def hSpibCfg : Handler := fun s w p o g data =>
  if s.flashBusy ∧ s.fg SPIB_CFG_XIP_SUSPEND = 1 ∧ !bit data 17 then .error ⟨0x4C11, 1⟩ else .ok (storeReg s w p o g data)

/-- Effect of a write of SPIC_GCMD or TWI_GCMD; `freed`: outcome of a bus clear. -/
def hGcmd (freed : Bool) : Handler := fun s w p _ _ data =>
  let twi := p == pgTWI
  match data % 16 with
  | 1 => s.grantRequest twi w.slot
  | 2 => .ok (s.grantRelease twi)
  | _ => if s.ser.twiX.isSome then .error ⟨0x4C11, 3⟩ else .ok (s.busClear freed)

/-- Effect of a write of SPIC_XFER. -/
def hSpicXfer : Handler := fun s w _ _ _ data => s.spicStart w.slot data

/-- Effect of a write of TWI_XFER. -/
def hTwiXfer (sdaLow : Option Bool) : Handler := fun s w _ _ _ data => s.twiStart w.slot data sdaLow

/-- A write of SPIB_CMD with OP `op`, LEN from `data`. -/
def spibCmd (s : State) (a : Sys2Proof.Access) (op : Nat) (data : Word) (flash : List Byte) : State :=
  direct s.begin_ a (regAddr pgSPIB SPIB_CMD.off) (op * 2 ^ 28 + data.toNat % 2 ^ 28) (hSpibCmd flash)

/-- SPIB_READ (R290). -/
def execSpibRead (a : Sys2Proof.Access) (data : Word) (flash : List Byte) (s : State) : Ans State := .next (spibCmd s a 1 data flash)

/-- PROGRAM (R290, R293). -/
def execProgram (a : Sys2Proof.Access) (data : Word) (s : State) : Ans State := .next (spibCmd s a 2 data [])

/-- ERASE4K (R290, R293). -/
def execErase4k (a : Sys2Proof.Access) (data : Word) (s : State) : Ans State := .next (spibCmd s a 3 data [])

/-- ERASE64K (R290, R293). -/
def execErase64k (a : Sys2Proof.Access) (data : Word) (s : State) : Ans State := .next (spibCmd s a 4 data [])

/-- READSR (R290). -/
def execReadsr (a : Sys2Proof.Access) (data : Word) (sr : Byte) (s : State) : Ans State := .next (spibCmd s a 5 data [sr])

/-- STATUS_POLL (R290). -/
def execStatusPoll (sr : Byte) (s : State) : Ans State := .next (s.begin_.flashPoll sr)

/-- FLASH_TIMEOUT (R293). -/
def execFlashTimeout (s : State) : Ans State := .next s.begin_.flashTimeout

/-- FETCH (R291, R292). -/
def execFetch (off : Nat) (flash : List Byte) (lat held : Nat) (s : State) : Ans State := .next (s.begin_.xipFetch off flash lat held)

/-- The GCMD register of a port. -/
def gcmdAddr (twi : Bool) : Nat := if twi then regAddr pgTWI TWI_GCMD.off else regAddr pgSPIC SPIC_GCMD.off

/-- REQUEST (R294). -/
def execRequest (a : Sys2Proof.Access) (twi : Bool) (s : State) : Ans State :=
  .next (direct s.begin_ a (gcmdAddr twi) 1 (hGcmd true))

/-- RELEASE (R294). -/
def execRelease (a : Sys2Proof.Access) (twi : Bool) (s : State) : Ans State :=
  .next (direct s.begin_ a (gcmdAddr twi) 2 (hGcmd true))

/-- BUSCLEAR (R298). -/
def execBusclear (a : Sys2Proof.Access) (freed : Bool) (s : State) : Ans State :=
  .next (direct s.begin_ a (gcmdAddr true) 3 (hGcmd freed))

/-- GRANT_EXPIRE (R294, R66); `rx`: what the running transfer has received by the word or byte it stops after. -/
def execGrantExpire (twi : Bool) (rx : StopRx) (s0 : State) : Ans State :=
  let s := s0.begin_
  .next (if (s.grantOf twi).isSome then (s.advance (if twi then s.ser.twiEnd else s.ser.spicEnd)).grantRevoke twi rx else s)

/-- SPIC_TRANSFER (R295). -/
def execSpicTransfer (a : Sys2Proof.Access) (data : Word) (s : State) : Ans State :=
  .next (direct s.begin_ a (regAddr pgSPIC SPIC_XFER.off) data.toNat hSpicXfer)

/-- SPIC_TRANSFER_DONE (R295). -/
def execSpicTransferDone (rx : List Bool) (s : State) : Ans State := .next (s.begin_.spicDone rx)

/-- TWI_TRANSFER (R296). -/
def execTwiTransfer (a : Sys2Proof.Access) (data : Word) (sdaLow : Option Bool) (s : State) : Ans State :=
  .next (direct s.begin_ a (regAddr pgTWI TWI_XFER.off) data.toNat (hTwiXfer sdaLow))

/-- TWI_TRANSFER_DONE (R296, R298). -/
def execTwiTransferDone (r : TwiEnd) (s : State) : Ans State := .next (s.begin_.twiDone r)

/-- STRETCH_TIMEOUT (R298). -/
def execStretchTimeout (index : Nat) (freed : Bool) (s : State) : Ans State := .next (s.begin_.twiStretch index freed)

end Sys2Proof.Machine
end

