-- ==== Sys2Proof/Machine/Tenants.lean ====
section
/-! DEFINITION. Tenants (chapter 3): the commands of the TEN pages (R61, R64, R72), session lease expiry (R62), quarantine triggers
(R63), the reset instant and what it revokes (R65, R66), pauses (R69), the views of Tables 3.8 and 3.9. -/

namespace Sys2Proof.Machine

namespace State

/-! ### Orders -/

/-- TEN_CMD by `w` on slot `n` (Tables 3.1, 3.2, 3.8, R64); an OP on an EMPTY slot is refused whatever it is. The model's choices (log entry
65): T0's RESET of its own slot records cause 0x2, and QUARANTINE of a QUARANTINED slot orders a reset and records its trigger. -/
def tenCmd (s : State) (w : Who) (n op : Nat) : Except Rc State :=
  if s.tst n = tEMPTY then .error ⟨0x2110, n⟩
  else match op with
    | 1 => .ok (s.orderReset n (if w.slot = n ∧ !w.isSys then 2 else 1) 0)
    | 2 => if n = 0 then .error ⟨0x5112, 0⟩ else .ok (s.orderReset n 4 4)
    | 3 =>
      if s.tst n = tQUAR then .ok (((s.setTst n tENROLLED).runAct n).ev (pgTEN + n) 0x0114 n kInfo n) else .error ⟨0x2111, n⟩
    | _ => .error ⟨0x1103, 0⟩

/-- TEN_RUN has been written: RUN_ACT follows, and RUN_REQ 0 resets a session (Table 3.7). -/
def tenRunWritten (s : State) (n : Nat) : State :=
  let s := s.runAct n
  if s.fgi TEN_RUN_RUN_REQ n = 0 ∧ s.tst n = tACTIVE then s.orderReset n 6 0 else s

/-- The session lease of slot `n` ends (Table 3.2). -/
def leaseExpired (s0 : State) (n : Nat) : State :=
  if s0.tst n = tACTIVE ∧ s0.fab.access = true then
    let s := s0.advance (nth (s0.tens.map (·.leaseEnd)) n 0)
    (s.ev (pgTEN + n) 0x0113 n kInfo n).orderReset n 5 0
  else s0

/-- A quarantine trigger is reached (R63, R64). -/
def trigger (s : State) (n q : Nat) : State :=
  if n = 0 then s.evTo 0 pgTEN 0x0111 (q * 256) kInfo 0
  else if s.tst n = tACTIVE ∨ s.tst n = tENROLLED ∨ s.tst n = tRESETTING then s.orderReset n 3 q
  else s

/-- Change the fabric. -/
def modFab (s : State) (f : FabSt → FabSt) : State := { s with fab := f s.fab }

/-- The end of a quarantine interval: refusals with family 5 against PERMF (Table 3.4). -/
def permInterval (s : State) : State :=
  let s := (List.range 16).foldl (fun s n =>
    let lim := s.fgi TEN_QCFG_PERMF n
    if lim ≠ 0 ∧ lim < nth (s.tens.map (·.permf)) n 0 then s.trigger n 1 else s) s
  let s : State := { s with tens := s.tens.map fun t => { t with permf := 0 } }
  s.modFab fun (b : FabSt) => { b with quarAt := s.now }

/-- Bytes the FEED page of slot `n` admits for one display cycle: FPC pictures of B bytes (R123). -/
def admits (s : State) (n : Nat) : Nat := if s.active (pgFEED + n) then s.fgi FEED_FMT_FPC n * s.feedB n else 0

/-- Trigger 0x2 at a display-cycle boundary (Table 3.4). -/
def floodCycle (s : State) : State :=
  (List.range 16).foldl (fun s n =>
    let lim := s.fgi TEN_QCFG_FLOOD n
    let flood := decide (2 * s.admits n < nth (s.tens.map (·.feedBytes)) n 0)
    let run := if lim ≠ 0 ∧ flood = true then nth (s.tens.map (·.floodRun)) n 0 + 1 else 0
    let hit := decide (lim ≠ 0 ∧ lim ≤ run)
    let s := s.modTen n fun t => { t with feedBytes := 0, floodRun := if hit then 0 else run }
    if hit then s.trigger n 2 else s) s

/-! ### The reset instant (R65 to R67) -/

/-- The loss of a handle is told to its tenant, or kept until register access is back (Table 2.13). -/
def fkTell (s : State) (h n : Nat) : State :=
  if s.fab.access then s.evTo n pgFIRKIN 0x6006 h kFirkin h else s.modFab fun f => { f with fkLost := f.fkLost ++ [(h, n)] }

/-- OPEN and FAILED handles that satisfy `p` are freed, their staged writes discarded (Table 2.13). -/
def fkDrop (s : State) (p : Firkin → Bool) : State :=
  let gone := s.fab.fks.filter fun f => (f.st == .open_ || f.st == .failed) && p f
  let s := s.modFab fun b => { b with fks := b.fks.filter fun f => !((f.st == .open_ || f.st == .failed) && p f) }
  gone.foldl (fun s f => s.fkTell f.h f.who.slot) s

/-- Erase every key of slot `n`: session, wrap counter, feed and chain keys (R318), and what KEYST shows of them. -/
def eraseKeys (s : State) (n : Nat) : State :=
  let s := { s with keys := modAt s.keys n fun _ => SlotKeys.empty, sec := { s.sec with wrap := modAt s.sec.wrap n fun _ => 0 } }
  let s := s.setReg pgKEYST (0x100 + 16 * n) (s.reg pgKEYST (0x100 + 16 * n) % 2)
  let s := s.setReg pgKEYST (0x108 + 16 * n) 0
  let s := if s.fg KS_BEAT_SLOT = n then s.setReg pgKEYST KS_BEAT.off 0 else s
  if n = 0 then s.setReg pgKEYST KS_ENUM.off 0 else s

/-- Pages owned by slot `n` become system-owned (Table 3.3). -/
def disown (s : State) (n : Nat) : State :=
  usedPages.foldl (fun s p => if s.fg (hSYSTEM p) = 0 ∧ s.fg (hTENANT p) = n then (s.fs (hSYSTEM p) 1).fs (hTENANT p) 0xF else s) s

/-- Every revocation of Table 3.3 for slot `n`; `rx`: what its stopped transfers had received. -/
def revokeAll (s : State) (n : Nat) (rx : StopRx) : State :=
  let s := (s.fkDrop fun f => match f.who with
    | .ten m => m.val == n
    | .sys _ => false).eraseKeys n
  let s := s.modTen n fun t => { t with port := none, stored := [], missing := [], floodRun := 0, feedBytes := 0 }
  let s := ((s.fsi TEN_STATE_VIA_LINK n 0).fsi TEN_STATE_VIA_SPIA n 0).fsi TEN_SEQ_HIGH n 0
  let s := ((s.fsi TEN_SEQ_MISSING n 0).disown n).unbindFeed n
  (s.feedRevoke n).busRevoke n rx

/-- The reset instant of a slot that is RESETTING. -/
def resetNow (s : State) (rx : StopRx) (n : Nat) : State :=
  if s.tst n ≠ tRESETTING then s
  else
    let cause := nth (s.tens.map (·.cause)) n 0
    let quar := nth (s.tens.map (·.toQuar)) n false
    let s := s.revokeAll n rx
    let s := (s.inc TEN_RST_COUNT n 1).fsi TEN_RST_CAUSE n cause
    let s := ((s.setTst n (if quar then tQUAR else tENROLLED)).runAct n).modTen n fun t => { t with toQuar := false, cause := 0 }
    let both (s : State) (c d : Nat) : State :=
      let s := s.evTo 0 (pgTEN + n) c d kInfo n
      if n = 0 then s else s.evTo n (pgTEN + n) c d kInfo n
    let s := both s 0x0110 (cause * 256 + n)
    if cause = 3 ∨ cause = 4 then both s 0x0111 (s.fgi TEN_STATE_QTRIG n * 256 + n) else s

/-- Every ordered tenant reset takes effect (R65). -/
def resetAll (s : State) (rx : StopRx) : State := (List.range 16).foldl (fun s n => s.resetNow rx n) s

/-! ### Pauses (R69) -/

/-- Register access stops being available: the timers of R69 stop. -/
def pauseAccess (s : State) : State :=
  if s.fab.access then s.modFab fun f => { f with access := false, pausedAt := s.now } else s

/-- Register access is available again: the timers run on from where they stopped, handles lost meanwhile are told. -/
def restoreAccess (s : State) : State :=
  if s.fab.access then s
  else
    let d := s.now - s.fab.pausedAt
    let lost := s.fab.fkLost
    let s := s.modFab fun f => { f with access := true, quarAt := f.quarAt + d, fkLost := [] }
    let s := { s with tens := s.tens.map fun t => { t with leaseEnd := t.leaseEnd + d } }
    lost.foldl (fun s x => s.fkTell x.1 x.2) s

/-! ### Views (Tables 3.8, 3.9) -/

/-- TEN_LEFT of slot `n`. -/
def tenLeft (s : State) (n : Nat) : Nat :=
  if s.tst n = tACTIVE then (nth (s.tens.map (·.leaseEnd)) n 0 - (if s.fab.access then s.now else s.fab.pausedAt)) / Config.ms else 0

/-- TEN_HELD of slot `n`. -/
def tenHeld (s : State) (n : Nat) : Nat :=
  let pages := (usedPages.filter fun p => s.fg (hSYSTEM p) == 0 && s.fg (hTENANT p) == n).length
  let wins := ((List.range 16).filter fun w => s.fgk WIN_SRC_ACT_KIND 0 w == 1 && s.fgk WIN_SRC_ACT_INDEX 0 w == n).length
  min 8 (s.fkCount n) * 2 ^ 28 + b2n (s.grantOf true == some n) * 2 ^ 27 + b2n (s.grantOf false == some n) * 2 ^ 26 +
  wins * 2 ^ 20 + b2n (s.fgi FEED_RUN_RUN_ACT n == 1) * 2 ^ 16 + min 255 pages

/-- PG_CTRL.RESET of a TEN page (R72). -/
def tenPageReset (s : State) (n : Nat) : State :=
  let back (s : State) (o : Nat) : State := s.setReg (pgTEN + n) o (regReset (pgTEN + n) o)
  ((back (back (back s TEN_RUN.off) TEN_KEEP.off) TEN_QCFG.off)).tenRunWritten n

end State

/-! ### Handlers and commands -/

/-- TEN_CMD of a TEN page. -/
def hTenCmd : Handler := fun s w p _ _ data => s.tenCmd w (p - pgTEN) (bitsOf data 3 0)

/-- TEN_RUN of a TEN page: RUN_REQ 0 is refused on TEN0 (R64). -/
def hTenRun : Handler := fun s w p o g data =>
  if p = pgTEN ∧ data % 2 = 0 then .error ⟨0x5112, 0⟩ else .ok ((storeReg s w p o g data).tenRunWritten (p - pgTEN))

/-- TEN_CMD_RESET (R61, R65): TEN_CMD with OP RESET. -/
def execTenCmdReset (a : Sys2Proof.Access) (t : Fin 16) (s : State) : Ans State :=
  .next (direct s.begin_ a (regAddr (pgTEN + t.val) TEN_CMD.off) 1 hTenCmd)

/-- TEN_CMD_QUARANTINE (R61, R63, R64). -/
def execTenCmdQuarantine (a : Sys2Proof.Access) (t : Fin 16) (s : State) : Ans State :=
  .next (direct s.begin_ a (regAddr (pgTEN + t.val) TEN_CMD.off) 2 hTenCmd)

/-- TEN_CMD_RELEASE (R61). -/
def execTenCmdRelease (a : Sys2Proof.Access) (t : Fin 16) (s : State) : Ans State :=
  .next (direct s.begin_ a (regAddr (pgTEN + t.val) TEN_CMD.off) 3 hTenCmd)

/-- TEN_RUN_WRITE (R61, R64, R71, Table 3.7). -/
def execTenRunWrite (a : Sys2Proof.Access) (t : Fin 16) (run : Bool) (s : State) : Ans State :=
  .next (direct s.begin_ a (regAddr (pgTEN + t.val) TEN_RUN.off) (b2n run) hTenRun)

/-- SESSION_LEASE_EXPIRE (R62, R61): at the end of the lease of an ACTIVE slot. -/
def execSessionLeaseExpire (t : Fin 16) (s : State) : Ans State := .next (s.begin_.leaseExpired t.val)

/-- QUARANTINE_INTERVAL (R63): one second after the last one; paused while register access is unavailable (R69). -/
def execQuarantineInterval (s0 : State) : Ans State :=
  let s := s0.begin_
  .next (if s.fab.access then (s.advance (s.fab.quarAt + Config.sec)).permInterval else s)

/-- TENANT_RESET_INSTANT (R65 to R67): every ordered reset; `rx`: what stopped transfers had received (Table 3.3). -/
def execTenantResetInstant (rx : StopRx) (s : State) : Ans State := .next (s.begin_.resetAll rx)

end Sys2Proof.Machine
end

