-- ==== Sys2Proof/Machine/Trim.lean ====
section
/-! DEFINITION. Self-trim (chapter 12): results and their accepted ranges (R249, R250), bins and interpolation (R253, R254), the
journal of two blocks (R255 to R257), and the commands of these rules. -/

namespace Sys2Proof.Machine

/-- Insertion into a rising list. -/
def insInt (x : Int) : List Int → List Int
  | [] => [x]
  | y :: ys => if x ≤ y then x :: y :: ys else y :: insInt x ys

/-- A list of integers in rising order. -/
def sortInt (l : List Int) : List Int := l.foldr insInt []

/-- The mean of elements `i` and `i + 1` in order, toward minus infinity. -/
def floorMeanAt (l : List Int) (i : Nat) : Int := (nth (sortInt l) i 0 + nth (sortInt l) (i + 1) 0) / 2

/-- The die temperature: the median of the 16 stone sensors (R253). -/
def dieTemp (temps : List Int) : Int := floorMeanAt temps 7

/-- The bin of a temperature in 1/16 °C (R253). -/
def binOf (t : Int) : Nat := if t < 160 then 0 else if t < 640 then 1 else if t < 1120 then 2 else if t < 1600 then 3 else 4

/-- The code of sink `i` of stone `k` (R250), before the range test. -/
def sinkCode (dev : List (List Int)) (stones : List Int) (k i : Nat) : Int :=
  let d := nth dev k []
  let x := (nth d i 0 - floorMeanAt d 47) + (nth stones k 0 - floorMeanAt stones 7)
  0 - (x + 4) / 8

/-- The 1,536 sink codes; the medians are taken once per stone. -/
def sinkCodes (dev : List (List Int)) (stones : List Int) : List Int :=
  let m := floorMeanAt stones 7
  (List.range 16).flatMap fun k =>
    let d := nth dev k []
    let mk := floorMeanAt d 47
    (List.range 96).map fun i => -(((nth d i 0 - mk) + (nth stones k 0 - m) + 4) / 8)

/-- Every value within `lo` to `hi`. -/
def allIn (l : List Int) (lo hi : Int) : Bool := l.all fun x => decide (lo ≤ x) && decide (x ≤ hi)

/-- The results of a self-trim, or none when any lies outside Table 12.1 (R252). -/
def trimValues (m : TrimMeas) : Option BinVal :=
  let codes := sinkCodes m.dev m.stones
  if allIn codes (-64) 63 && allIn m.taps 16384 49152 && allIn m.convOfs (-64) 64 && allIn m.convGain (-491) 491 &&
    allIn m.offs (-8) 8 && allIn m.rows (-8) 8 then
    some ⟨dieTemp m.temps, codes, m.taps, m.convOfs ++ m.convGain, m.offs, m.rows⟩
  else none

/-- Bins that hold values, as (number, values). -/
def binsHeld (bins : List (Option BinVal)) : List (Nat × BinVal) :=
  bins.zipIdx.filterMap fun x => x.1.map fun v => (x.2, v)

/-- One value interpolated: lo + (((hi − lo) × f + 128) >> 8) (R254). -/
def interp1 (f : Nat) (lo hi : Int) : Int := lo + ((hi - lo) * f + 128) / 256

/-- Interpolation of two bins' values; tap 31 covers what the others leave of one period. -/
def interpBin (f : Nat) (a b : BinVal) : BinVal :=
  let z := List.zipWith (interp1 f)
  let taps := z a.taps b.taps
  let body := taps.take 31
  ⟨a.tm, z a.sinks b.sinks, if taps.length = 32 then body ++ [1048576 - body.foldl (· + ·) 0] else taps, z a.conv b.conv,
    z a.offs b.offs, z a.rows b.rows⟩

/-- Running values at temperature `t`: values, lower bin, upper bin, weight (R254). -/
def runAt (bins : List (Option BinVal)) (t : Int) : Option (BinVal × Nat × Nat × Nat) :=
  let held := binsHeld bins
  let below := held.filter fun x => decide (x.2.tm ≤ t)
  let above := held.filter fun x => decide (t < x.2.tm)
  let lo := below.foldl (fun b x => match b with
    | none => some x
    | some y => if y.2.tm < x.2.tm then some x else some y) none
  let hi := above.foldl (fun b x => match b with
    | none => some x
    | some y => if x.2.tm < y.2.tm then some x else some y) none
  match lo, hi with
  | none, none => none
  | some a, none => some (interpBin 0 a.2 a.2, a.1, a.1, 0)
  | none, some b => some (interpBin 0 b.2 b.2, b.1, b.1, 0)
  | some a, some b =>
    let f := min 255 (((t - a.2.tm) * 256) / (b.2.tm - a.2.tm)).toNat
    some (interpBin f a.2 b.2, a.1, b.1, f)

/-- The tap whose start lies nearest grain fraction `g`; a tie goes to the lower tap (R254). -/
def tapFor (taps : List Int) (g : Nat) : Nat :=
  ((List.range 32).foldl (fun (best : Nat × Int) t =>
    let start : Int := (taps.take t).foldl (· + ·) 0
    let d : Int := ((start - (g * 32768 : Nat)).natAbs : Nat)
    if t = 0 ∨ d < best.2 then (t, d) else best) (0, 0)).1

/-- A record is worth writing: the bin was empty, a sink code moved by 2 or more, or another value by more than 1 (R257). -/
def moved (old : Option BinVal) (v : BinVal) : Bool :=
  match old with
  | none => true
  | some o =>
    let far (n : Int) (a b : List Int) : Bool := (List.zipWith (fun x y => decide (n ≤ ((x - y).natAbs : Nat))) a b).any id
    far 2 o.sinks v.sinks || far 2 o.taps v.taps || far 2 o.conv v.conv || far 2 o.offs v.offs || far 2 o.rows v.rows

namespace State

/-- Change the trim state. -/
def modTrim (s : State) (f : TrimSt → TrimSt) : State := { s with trim := f s.trim }

/-- Put running values in force, as TRIM_INTERP and EDGE_STAT report them (R254, R180). -/
def loadTrim (s : State) (x : BinVal × Nat × Nat × Nat) : State :=
  let s := s.modTrim fun t => { t with run := some x.1, next := none }
  let s := ((s.fs TRIM_INTERP_BIN_LO x.2.1).fs TRIM_INTERP_BIN_HI x.2.2.1).fs TRIM_INTERP_FRAC x.2.2.2
  (((s.fs EDGE_STAT_BIN_LO x.2.1).fs EDGE_STAT_BIN_HI x.2.2.1).fs EDGE_STAT_FRAC x.2.2.2).fs EDGE_STAT_TAPCAL 1

/-- At a span boundary, values recomputed before it take effect; those of a sample at the boundary wait for the next (Table 12.5). -/
def trimBoundary (s : State) : State := match s.trim.next with
  | some x => if s.trim.nextAt < s.now then s.loadTrim x else s
  | none => s

/-- TRIM_DIE from a die temperature. -/
def showDie (s : State) (t : Int) : State := (s.fs TRIM_DIE_TEMP (twos 16 t)).fs TRIM_DIE_BIN (binOf t)

/-- A die-temperature sample after TRIM: recompute the running values for the next span boundary (R254). -/
def trimSample (s : State) (t : Int) : State :=
  (s.showDie t).modTrim fun x => { x with next := runAt x.bins t, nextAt := s.now }

/-- Self-trim passed (TRIM.PG_STAT.PASS). -/
def trimPass (s : State) : Bool := bit (s.reg pgTRIM 0x00C) 16

/-- A new non-volatile write may start: die at most 115 °C, no brown-out warning, no shutdown (R257, R293, R319, R365, R369). -/
def nvOk (s : State) : Bool := decide (s.dieNow ≤ 1840) && !s.pow.vddLow && !s.pow.shut

end State

/-- SELF_TRIM (R251, R256): in TRIM, the journal is read and the measurements start. Of two valid blocks the one ahead modulo
2^32 is used, J0 when equal. -/
def execSelfTrim (s0 : State) : Ans State :=
  let s := s0.begin_
  if s.mode ≠ .trim ∨ s.trim.active then .next s
  else
    let b0 := nth s.trim.blocks 0 none
    let b1 := nth s.trim.blocks 1 none
    let used : Option (Nat × JRec) := match b0, b1 with
      | some x, some y => if dcnFuture y.seq x.seq then some (1, y) else some (0, x)
      | some x, none => some (0, x)
      | none, some y => some (1, y)
      | none, none => none
    let s := if b0.isNone then s.ev pgTRIM 0x8A10 0 kInfo 0 else s
    let s := if b1.isNone then s.ev pgTRIM 0x8A10 1 kInfo 0 else s
    let s := s.fs TRIM_JSTAT_IGN (b2n b0.isNone + 2 * b2n b1.isNone)
    let s := (s.fs TRIM_JSTAT_BLOCK ((used.map (·.1)).getD 0)).fs TRIM_JSEQ_SEQ ((used.map (·.2.seq)).getD 0)
    let s := s.fs TRIM_BINS_NOFLASH (b2n used.isNone)
    .next (s.modTrim fun t => { t with
      active := true, bins := (used.map (·.2.bins)).getD (List.replicate 5 none), used := used.map (·.1), wanted := none,
      writing := none, forget := false })

/-- Self-trim failed (R252). -/
def State.trimFailed (s : State) : State :=
  let s := (s.modTrim fun t => { t with active := false }).fs (hSTATPAGE pgTRIM) 2
  let s := s.fault pgTRIM 0 0x7A01 0 0
  { s with pow := { s.pow with trimFail := true } }.enterDark 1

/-- TRIM_RESULT (R252 to R254, R257): PASS loads the running values and decides whether a record is written; FAIL, or none for a
measurement that did not complete, enters DARK. -/
def execTrimResult (m : Option TrimMeas) (s0 : State) : Ans State :=
  let s := s0.begin_
  if !s.trim.active then .next s
  else match m.bind trimValues with
    | none => .next s.trimFailed
    | some v =>
      let b := binOf v.tm
      let old := nth s.trim.bins b none
      let bins := modAt s.trim.bins b fun _ => some v
      let s := (s.fs (hSTATPAGE pgTRIM) 3).showDie v.tm
      let s := (s.fs TRIM_BINS_NOW b).fs TRIM_BINS_MEAS (sumNat (bins.zipIdx.map fun x => b2n x.1.isSome * 2 ^ x.2))
      let s := s.modTrim fun t => { t with
        active := false, bins := bins, wanted := if moved old v then some ⟨0, bins⟩ else none }
      let s := match runAt bins v.tm with
        | some x => s.loadTrim x
        | none => s
      .next (s.ev pgTRIM 0x0A10 b kInfo 0)

/-- JOURNAL_WRITE (R257): after TRIM, a wanted record goes into the block not in use, which loses its old record at the erase.
Above 115 °C it is skipped and HOT is set; after a brown-out warning nothing is issued. -/
def execJournalWrite (s0 : State) : Ans State :=
  let s := s0.begin_
  match s.trim.wanted with
  | none => .next s
  | some r =>
    if s.mode = .trim ∨ s.trim.writing.isSome ∨ s.pow.vddLow ∨ s.pow.shut then .next s
    else if 1840 < s.dieNow then .next ((s.modTrim fun t => { t with wanted := none }).fs TRIM_BINS_HOT 1)
    else
      let b := match s.trim.used with
        | some j => 1 - j
        | none => 0
      let (sq, s) := match s.trim.used.bind fun j => nth s.trim.blocks j none with
        | some old => (add32 old.seq 1, s)
        | none => s.free (2 ^ 32)
      .next (s.modTrim fun t => { t with
        wanted := none, writing := some (b, { r with seq := sq }), blocks := modAt t.blocks b fun _ => none })

/-- JOURNAL_COMMIT (R255, R257): the mark is programmed; the record is the one used at the next load. A FORGET accepted
meanwhile follows into the other block (Table 12.5). -/
def execJournalCommit (s0 : State) : Ans State :=
  let s := s0.begin_
  match s.trim.writing with
  | none => .next s
  | some (b, r) =>
    let s := s.modTrim fun t => { t with
      writing := none, blocks := modAt t.blocks b fun _ => some r, used := some b, forget := false,
      wanted := if t.forget then some ⟨0, List.replicate 5 none⟩ else t.wanted }
    let s := ((s.fs TRIM_BINS_STORED 1).fs TRIM_JSEQ_SEQ r.seq).fs TRIM_JSTAT_BLOCK b
    .next (s.ev pgTRIM 0x0A11 (r.seq % 2 ^ 16) kInfo 0)

/-- The handler of TRIM_CMD (R259). -/
def hTrimCmd : Handler := fun s w _ _ _ _ =>
  if !w.isT0 then .error ⟨0x5A01, w.slot⟩
  else if s.mode ≠ .service then .error ⟨0x2A10, 0⟩
  else if 1840 < s.dieNow then .error ⟨0x4A10, 0⟩
  else .ok (s.modTrim fun t =>
    if t.writing.isSome then { t with forget := true } else { t with wanted := some ⟨0, List.replicate 5 none⟩ })

/-- FORGET (R259). -/
def execForget (a : Sys2Proof.Access) (s : State) : Ans State :=
  .next (direct s.begin_ a (regAddr pgTRIM TRIM_CMD.off) 1 hTrimCmd)

end Sys2Proof.Machine
end

