-- ==== Sys2Proof/Machine/SecStore.lean ====
section
/-! DEFINITION. What the Oruiris core keeps (chapter 15): anti-rollback counters (R319), the enrolment store (R312), configuration
OTP (R322), the slots it fills (R59, R311), chain keys (R317), and what OSEC and KEYST show of them. -/

namespace Sys2Proof.Machine

/-- An empty store: PROVISIONED, no owner. -/
def Store.blank : Store := ⟨false, 0, 0, 0, 0, List.replicate 64 0, List.replicate 16 none⟩

namespace State

/-- Change the core's state. -/
def modSec (s : State) (f : SecSt → SecSt) : State := { s with sec := f s.sec }

/-- LC is OWNED (R307). -/
def owned (s : State) : Bool := s.fg OSEC_LC_LC == 2

/-- The device identifier. -/
def uid (s : State) : Nat := s.fg SYS_UID1 * 2 ^ 32 + s.fg SYS_UID0

/-- The core does not serve: halted, or restarting at the first step of a handover (Tables 17.8, 16.9). -/
def secBusy (s : State) : Bool := bit (s.fg DBG_STAT_HALTED) 4 || s.upd.stage == 1

/-! ### Anti-rollback counters (R319) -/

/-- Value of counter `k`: the larger valid copy; 255 when both are invalid. -/
def arbVal (s : State) (k : Nat) : Nat := match nth s.sec.arb k (some 0, some 0) with
  | (some a, some b) => max a b
  | (some a, none) => a
  | (none, some b) => b
  | (none, none) => 255

/-- OSEC_ARBk shows counter `k`. -/
def showArb (s : State) (k : Nat) : State :=
  let c := nth s.sec.arb k (some 0, some 0)
  let s := (s.fsk OSEC_ARB_VALUE 0 k (s.arbVal k)).fsk OSEC_ARB_AVALID 0 k (b2n c.1.isSome)
  let s := (s.fsk OSEC_ARB_BVALID 0 k (b2n c.2.isSome)).fsk OSEC_ARB_MINSVN 0 k (nth s.sec.store.minsvn k 0)
  if k = 63 then s.fs OSEC_EPOCH_MIN (s.arbVal 63) else s

/-- Raise counter `k` to `v`: copy A, then copy B. -/
def arbRaise (s : State) (k v : Nat) : State :=
  (s.modSec fun x => { x with arb := modAt x.arb k fun c => (c.1.map (max v), c.2.map (max v)) }).showArb k

/-- Read every counter at power-up: a pair of invalid copies is a fault. -/
def arbLoad (s : State) : State :=
  (List.range 64).foldl (fun s k =>
    let s := s.showArb k
    if (nth s.sec.arb k (some 0, some 0)) = (none, none) then s.fault pgOSEC 0 0x7D10 k k else s) s

/-! ### The enrolment store (R312) -/

/-- The block that holds the newest record of this boot. -/
def storeBlock (s : State) : Nat := s.fg OSEC_EPOCH_BLOCK

/-- What OSEC shows of the store in force. -/
def showStore (s : State) : State :=
  let x := s.sec.store
  let s := ((s.fs OSEC_LC_LC (if x.owned then 2 else 1)).setReg pgOSEC OSEC_POL.off (x.flags % 4)).fs OSEC_OCTR_CTR x.octr
  (List.range 64).foldl State.showArb s

/-- Write the store in force as the next record; with `raise` its epoch is one above the last, and counter 63 follows. -/
def storeWrite (s : State) (raise : Bool) : State :=
  let b := 1 - s.storeBlock
  let old := nth s.sec.blocks s.storeBlock none
  let e := s.fg OSEC_EPOCH_STORE + b2n raise
  let r : StoreRec := ⟨((old.map (·.seq)).getD 0) + 1, e, s.sec.store⟩
  let s := s.modSec fun x => { x with blocks := modAt x.blocks b fun _ => some r }
  let s := ((s.fs OSEC_EPOCH_BLOCK b).fs OSEC_EPOCH_STORE e).fs OSEC_LC_STORE 1
  (if raise then s.arbRaise 63 e else s).showStore

/-- Change the store in force. -/
def modStore (s : State) (f : Store → Store) : State := s.modSec fun x => { x with store := f x.store }

/-! ### Slots -/

/-- The public key of slot `n` (0: none). -/
def slotPub (s : State) (n : Nat) : Nat :=
  if n = 0 then (if s.sec.store.owned then s.sec.store.owner else 0)
  else match nth s.sec.store.recs n none with
    | some e => e.pub
    | none => 0

/-- Permission words of a tenant other than T0: the bits of R59 read 0. -/
def maskPerm (w : List Nat) : List Nat :=
  (List.range 8).map fun k => sumNat ((List.range 32).map fun j => if bit (nth w k 0) j && !pageForbidden (32 * k + j) then 2 ^ j else 0)

/-- Fill slot `n`: role, permissions and key (R59, R61, Table 3.10). -/
def slotFill (s : State) (n role winperm : Nat) (pw pr : List Nat) (pub : Nat) : State :=
  let s := (s.fsi TEN_STATE_ROLE n role).fsi TEN_WINPERM_WIN n winperm
  let s := (List.range 8).foldl (fun s k => (s.fsk TEN_PW_PW n k (nth pw k 0)).fsk TEN_PR_PR n k (nth pr k 0)) s
  let s := (s.fsk KS_SLOT_ENROLLED 0 n 1).fsk KS_KEYID_ID 0 n (Config.keyId pub)
  (s.setTst n tENROLLED).runAct n

/-- T0: the owner, with every permission (R310). -/
def ownerFill (s : State) (pub : Nat) : State :=
  s.slotFill 0 roleOwner 0xFFFF (List.replicate 8 (2 ^ 32 - 1)) (List.replicate 8 (2 ^ 32 - 1)) pub

/-- A slot of T1 to T15 from its record. -/
def recFill (s : State) (n : Nat) (e : Enrol) : State := s.slotFill n e.role e.winperm (maskPerm e.pw) (maskPerm e.pr) e.pub

/-- Empty slot `n`: keys erased, queue and permissions cleared (Table 3.2, R311). -/
def slotEmpty (s : State) (n : Nat) : State :=
  let s := s.eraseKeys n
  let s := s.modTen n fun t => { t with evq := ⟨[], 0, false, 0, 0⟩, port := none, stored := [], missing := [], toQuar := false }
  let s := (s.fsi TEN_STATE_ROLE n 0).fsi TEN_WINPERM_WIN n 0
  let s := (List.range 8).foldl (fun s k => (s.fsk TEN_PW_PW n k 0).fsk TEN_PR_PR n k 0) s
  let s := (s.fsi TEN_STATE_VIA_LINK n 0).fsi TEN_STATE_VIA_SPIA n 0
  ((s.fsk KS_SLOT_ENROLLED 0 n 0).fsk KS_KEYID_ID 0 n 0).setTst n tEMPTY

/-- An enrolled slot is unenrolled, its ordered reset first (Table 3.2). -/
def slotUnenrol (s : State) (n : Nat) : State :=
  if s.tst n = tEMPTY then s else ((s.resetNow ⟨[], [], []⟩ n).slotEmpty n).ev pgOSEC 0x0D12 n kInfo n

/-- Load the store before TRIM ends (R312, R307): the newest record whose epoch counter 63 admits. -/
def storeLoad (s : State) : State :=
  let min63 := s.arbVal 63
  let ok (b : Nat) : Option StoreRec := (nth s.sec.blocks b none).filter fun r => decide (min63 ≤ r.epoch)
  let pick : Option (Nat × StoreRec) := match ok 0, ok 1 with
    | some a, some b => some (if a.seq < b.seq then (1, b) else (0, a))
    | some a, none => some (0, a)
    | none, some b => some (1, b)
    | none, none => none
  match pick with
  | none =>
    let s := (s.modStore fun _ => Store.blank).showStore
    if min63 ≠ 0 then s.fault pgOSEC 1 0x7D11 0 0 else s
  | some (b, r) =>
    let s := ((s.modStore fun _ => r.body).fs OSEC_EPOCH_BLOCK b).fs OSEC_EPOCH_STORE r.epoch
    let s := ((if min63 < r.epoch then s.arbRaise 63 r.epoch else s).fs OSEC_LC_STORE 1).showStore
    let s := if r.body.owned then s.ownerFill r.body.owner else s
    (r.body.recs.zipIdx).foldl (fun s x => match x.1 with
      | some e => s.recFill x.2 e
      | none => s) s

/-! ### Chain keys (R317) -/

/-- What KEYST shows of the keys of slot `n`. -/
def showKeys (s : State) (n : Nat) : State :=
  let k0 := s.chainKey n 0
  let gen (k : KeySlot) : Nat := (k.cur.map (·.1)).getD 0 % 2 ^ 16
  let s := (s.fsk KS_SLOT_FGEN 0 n (gen k0)).fsk KS_SLOT_NEXT 0 n (b2n k0.pend.isSome)
  let s := (s.fsk KS_SLOT_FEEDKEY 0 n (b2n k0.cur.isSome)).fsk KS_NACT_DCN 0 n ((k0.pend.map (·.2.2)).getD 0)
  let s := s.fsk KS_SLOT_SESSION 0 n (b2n ((s.slotKeys n).mkey != 0))
  let put (s : State) (off : Nat) (k : KeySlot) : State :=
    if k = KeySlot.empty then s
    else s.setReg pgKEYST off (gen k * 2 ^ 16 + b2n k.pend.isSome * 32 + b2n k.cur.isSome * 16 + n)
  put (put s KS_BEAT.off (s.chainKey n 1)) KS_ENUM.off (s.chainKey n 2)

/-- Change the key of kind `k` of slot `n`. -/
def modKey (s : State) (n k : Nat) (f : KeySlot → KeySlot) : State :=
  ({ s with keys := modAt s.keys n fun x => { x with kinds := modAt x.kinds k f } }).showKeys n

/-- A KEYWRAP takes effect (R317): current at once when the slot has no key of the kind, else pending. -/
def keySet (s : State) (n kind gen act key : Nat) : State :=
  if s.tst n = tEMPTY then s
  else s.modKey n kind fun x => if x.cur.isNone then ⟨some (gen, key), none⟩ else { x with pend := some (gen, key, act) }

/-- DCN `s.dcn` starts: pending keys whose ACTDCN has come become current (R317, Table 15.10). -/
def keysCycle (s : State) : State :=
  (List.range 48).foldl (fun s i =>
    let n := i / 3
    let k := i % 3
    match (s.chainKey n k).pend with
    | some (gen, key, act) =>
      if sub32 s.dcn act < 2 ^ 31 then
        (s.modKey n k fun _ => ⟨some (gen, key), none⟩).ev pgKEYST 0x0D13 (k * 256 + n) kInfo n
      else s
    | none => s) s

/-! ### Configuration OTP (R322, Table 15.19) -/

/-- MEMC_RATE of a RATE code. -/
def rateOfCode (c : Nat) : Nat := match c with
  | 1 => 1600
  | 2 => 2133
  | 3 => 2400
  | 5 => 3733
  | 6 => 4266
  | _ => 3200

/-- Load the highest-numbered record whose CRC checks, else the blank values, before TRIM ends. -/
def otpLoad (s : State) : State :=
  let used := s.sec.cfgs.length
  let good := ((List.range used).filter fun i => (nth s.sec.cfgs i none).isSome).getLast?
  let b : List Nat := match good with
    | some i => (nth s.sec.cfgs i none).getD []
    | none => [0, 0, 0x80]
  let at_ (i : Nat) : Nat := nth b i 0
  let drv := (at_ 6 * 256 + at_ 7) % 2 ^ 15
  let s := (s.fs CH_ETYPE_ETYPE (at_ 0 * 256 + at_ 1)).fs SYS_SPIA_EN (at_ 2 / 128 % 2)
  let s := (s.fs SYS_SPIA_TEN (at_ 2 % 16)).fs MEMC_RATE_MTS (rateOfCode (at_ 3 % 8))
  let s := (s.fs SPIB_CFG_DIV (if at_ 4 = 0 then 25 else at_ 4)).fs SPIB_CFG_ADDR4 (1 - at_ 5 % 2)
  let s := (s.fs PD_BOOT_SVCBOOT (at_ 5 / 2 % 2)).setReg pgMEMPHY MP_DRV.off (if drv = 0 then 0x4933 else drv)
  (s.fs OSEC_CFGREC_USED used).fs OSEC_CFGREC_CUR (good.getD 0xF)

/-! ### Views -/

/-- The manifest that runs: slot A, slot B, or the DRAM copy (SLOT_BOOT.RUN). -/
def runManifest (s : State) : Option Manifest := nth s.upd.slots (s.fg SLOT_BOOT_RUN) none

/-- OSEC_LC.CERTCFG (R325, Table 15.8). -/
def certCfg (s : State) : Bool :=
  s.owned && s.fg OSEC_LC_STORE == 1 && s.fg OSEC_LC_DEBUGGED == 0 && s.sec.certified && s.fg SYS_SPIA_EN == 0 &&
  s.fg SYS_STRAP_CFG % 4 != 2 && Config.flashFitted && s.fg (hFAULT pgOSEC) == 0

/-- OSEC_STAT.CHALLEFT: whole seconds that remain. -/
def chalLeft (s : State) : Nat := if s.fg OSEC_STAT_CHAL = 1 then (s.sec.chalEnd - s.now) / Config.sec else 0

end State

end Sys2Proof.Machine
end

