-- ==== Sys2Proof/Machine/Security.lean ====
section
/-! DEFINITION. The Oruiris core's commands (chapter 15): objects and their checks (R308 to R311, R316, R317, R322, R324), SESSION
frames (R313 to R315), attestation (R323), challenges (R324) and RAISE (R321). Keys are numbers that name them: a signature is
valid when it was made under the key the rule names. -/

namespace Sys2Proof.Machine

/-! ### Objects -/

/-- TYPE of an object (Table 15.2). -/
def objType (o : Obj) : Nat := match o.body with
  | .reserved => 0
  | .voucher .. => 1
  | .transfer .. => 2
  | .enrol .. => 3
  | .unenrol => 4
  | .keywrap .. => 5
  | .debug .. => 6
  | .policy .. => 7
  | .otpcfg .. => 8

/-- The object writes the enrolment store or OTP (R312, R322). -/
def objWrites (o : Obj) : Bool := match o.body with
  | .keywrap .. => false
  | .debug .. => false
  | .reserved => false
  | _ => true

/-- Bytes of the IDK certificate: at most 1,024 (R306). -/
def certLen : Nat := min Config.certLen 1024

/-- The certificate, then the KAK statement of 193 bytes (R306, R313). -/
def certBytes : List Nat := (List.range (certLen + 193)).map (Config.certByte · % 256)

namespace State

/-- A VOUCHER has been accepted and waits for its boundary. -/
def voucherWaits (s : State) : Bool := s.sec.acc.any fun o => objType o == 1

/-- The object would raise counter 63 (R312). -/
def objRaises (s : State) (o : Obj) : Bool := match o.body with
  | .voucher .. => s.owned
  | .transfer .. => true
  | .unenrol => true
  | .enrol .. => (nth s.sec.store.recs o.slot.val none).isSome || s.sec.acc.any fun p => objType p == 3 && p.slot == o.slot
  | _ => false

/-- The keys under which the signatures must be valid (Table 15.2). -/
def objKeys (s : State) (o : Obj) : List Nat := match o.body with
  | .voucher .. => [Config.zVoucherKey]
  | .keywrap .. => [s.slotPub o.slot.val]
  | .debug .. => [Config.zDebugKey, s.slotPub 0]
  | .otpcfg .. => [if s.owned then s.slotPub 0 else Config.zVoucherKey]
  | _ => [s.slotPub 0]

/-- The last counter accepted for an object's counter; none where the type has none (Table 15.2, R309). -/
def objCtr (s : State) (o : Obj) : Option Nat := match o.body with
  | .voucher .. => some s.sec.store.vctr
  | .keywrap .. => some (nth s.sec.wrap o.slot.val 0)
  | .debug .. => none
  | .otpcfg .. => some (if s.owned then s.sec.store.octr else s.sec.store.vctr)
  | _ => some s.sec.store.octr

/-- Check 3: the lifecycle column of Table 15.2; a VOUCHER that waits for its boundary leaves no room for another. -/
def objLife (s : State) (o : Obj) : Bool := match o.body with
  | .voucher .. => !s.voucherWaits && (!s.owned || s.sec.transfer.isSome)
  | .otpcfg .. => true
  | _ => s.owned

/-- Check 5: the signer may send the object (R316). -/
def objSigner (s : State) (o : Obj) : Bool := match o.body with
  | .keywrap kind _ _ _ =>
    let n := o.slot.val
    let ro := roleR s.regs n
    if kind = 0 then ro == roleFeed || ro == roleOwner
    else if kind = 1 then ro == roleTiming
    else if kind = 2 then ro == roleOwner
    else true
  | _ => true

/-- GENs of a slot's key of a kind: current, pending, and accepted ones that wait for their boundary. -/
def keyGens (s : State) (n kind : Nat) : List Nat :=
  let k := s.chainKey n kind
  (k.cur.map (·.1)).toList ++ (k.pend.map (·.1)).toList ++ s.sec.acc.filterMap fun o => match o.body with
    | .keywrap k2 gen _ _ => if o.slot.val = n ∧ k2 = kind then some gen else none
    | _ => none

/-- Another slot holds the timing-master role, or an accepted ENROL gives it one. -/
def timingTaken (s : State) (n : Nat) : Bool :=
  ((List.range 16).any fun m => m != n && roleR s.regs m == roleTiming) || s.sec.acc.any fun o => match o.body with
    | .enrol r _ _ _ _ => r == roleTiming && o.slot.val != n
    | _ => false

/-- Check 7: the type's own checks. -/
def objOwn (s : State) (o : Obj) : Option Rc :=
  let n := o.slot.val
  match o.body with
  | .voucher pub => if s.owned ∧ s.sec.transfer ≠ some pub then some ⟨0x5D13, 0⟩ else none
  | .enrol role _ _ _ _ =>
    if n = 0 ∨ role < 2 ∨ 5 < role ∨ (role = roleTiming ∧ s.timingTaken n = true) then some ⟨0x2D11, n⟩ else none
  | .unenrol => if n = 0 then some ⟨0x2D11, n⟩ else none
  | .keywrap kind gen act key =>
    let q := sub32 act s.dcn
    if 3 ≤ kind then some ⟨0x1D03, 192⟩
    else if key = 0 then some ⟨0x5D02, 0⟩
    else if (s.keyGens n kind).any fun g => decide (gen ≤ g) then some ⟨0x6D10, o.ctr % 2 ^ 16⟩
    else if (s.chainKey n kind).cur.isSome ∧ (q < 2 ∨ 2 ^ 31 ≤ q) then some ⟨0x6D01, 0⟩
    else none
  | .debug chal _ =>
    let here := (List.range 12).map fun w => s.fgk OSEC_CHAL_BYTES 0 w
    if s.sec.store.flags / 2 % 2 = 0 then some ⟨0x5D12, 0⟩
    else if s.fg OSEC_STAT_CHAL = 0 ∨ chal.map (·.toNat) ≠ here then some ⟨0x6D11, 0⟩
    else none
  | .otpcfg b =>
    let div := nth b 4 0
    if nth b 3 0 % 8 = 7 then some ⟨0x1D03, 216⟩
    else if (1 ≤ div ∧ div ≤ 4) ∨ 250 < div then some ⟨0x1D03, 224⟩
    else if 8 ≤ s.sec.cfgs.length + (s.sec.acc.filter fun p => objType p == 8).length then some ⟨0x4D14, 0⟩
    else none
  | _ => none

/-- The offset of the first format fault; a bit of SCOPE that must be 0 is one (R324). -/
def objMalformed (o : Obj) : Option Nat := match o.malformed, o.body with
  | some i, _ => some i
  | none, .debug _ scope => if 32 ≤ scope.toNat then some 72 else none
  | none, _ => none

/-- The checks of an object, in the order of R308; what the device cannot write now comes last. -/
def objCheck (s : State) (o : Obj) : Option Rc :=
  match objMalformed o with
  | some off => some ⟨0x1D10, off⟩
  | none =>
    if objType o = 0 then some ⟨0x1D03, 16⟩
    else if o.uid ≠ s.uid then some ⟨0x2D10, 0⟩
    else if !s.objLife o then some ⟨0x5D11, 0⟩
    else if o.signers ≠ s.objKeys o ∨ o.signers.contains 0 = true then some ⟨0x5D02, 0⟩
    else if !s.objSigner o then some ⟨0x5D10, o.slot.val⟩
    else if (s.objCtr o).any fun c => decide (o.ctr ≤ c) then some ⟨0x6D10, o.ctr % 2 ^ 16⟩
    else match s.objOwn o with
      | some c => some c
      | none =>
        if objWrites o && s.sec.storeLock then some ⟨0x5D12, 0⟩
        else if s.objRaises o ∧ 255 ≤ s.arbVal 63 + (s.sec.acc.filter s.objRaises).length then some ⟨0x4D11, 0⟩
        else if objWrites o && !s.nvOk then some ⟨0x4D10, 0⟩
        else none

/-- An accepted counter is kept at once (R309). -/
def ctrTake (s : State) (o : Obj) : State := match o.body with
  | .voucher .. => s.modStore fun x => { x with vctr := o.ctr }
  | .keywrap .. => s.modSec fun x => { x with wrap := modAt x.wrap o.slot.val fun _ => o.ctr }
  | .debug .. => s.fs OSEC_STAT_CHAL 0
  | .otpcfg .. => s.modStore fun x => if x.owned then { x with octr := o.ctr } else { x with vctr := o.ctr }
  | _ => s.modStore fun x => { x with octr := o.ctr }

/-- An object arrives: it is refused and changes nothing, or is accepted and waits for the next span boundary; the reset of an
ACTIVE slot that it removes is ordered at once (Table 3.2). The result. -/
def objArrive (s : State) (o : Obj) : State × Rc :=
  if s.secBusy then (s, ⟨0x4D13, 0⟩)
  else match s.objCheck o with
    | some c => (s.inc OSEC_CNT_OBJFAIL 0 1, c)
    | none =>
      let s := (s.ctrTake o).modSec fun x => { x with acc := x.acc ++ [o] }
      let n := o.slot.val
      let s := match o.body with
        | .unenrol => if s.tst n = tACTIVE then s.orderReset n 7 0 else s
        | .enrol .. => if s.tst n = tACTIVE then s.orderReset n 7 0 else s
        | _ => s
      (s, ⟨0x0D00, 0⟩)

/-! ### Effects at the span boundary (R308, R310, R311) -/

/-- A transfer completes (R310): T1 to T15 unenrolled, T0's session and every key erased, the policy cleared. It applies last (Table 15.10): what the
former owner's objects would still do to slots, keys and policy is gone with them. -/
def transferDone (s : State) : State :=
  let s := (List.range 15).foldl (fun s k =>
    let n := k + 1
    let s := if s.tst n = tACTIVE then s.orderReset n 7 0 else s
    s.slotUnenrol n) s
  let s := (List.range 16).foldl State.eraseKeys s
  let s := s.modTen 0 fun t => { t with port := none, stored := [], missing := [] }
  let s := if s.tst 0 = tACTIVE then ((s.setTst 0 tENROLLED).fsi TEN_STATE_VIA_LINK 0 0).fsi TEN_STATE_VIA_SPIA 0 0 else s
  (s.modStore fun x => { x with flags := 0, minsvn := List.replicate 64 0, recs := List.replicate 16 none }).modSec fun x =>
    { x with transfer := none, acc := x.acc.filter fun o => [1, 2, 6, 8].contains (objType o) }

/-- VOUCHER (R310). -/
def voucherApply (s : State) (pub : Nat) : State :=
  let again := s.owned
  let s := if again then s.transferDone else s
  let s := (s.modStore fun x => { x with owned := true, owner := pub, octr := 0 }).storeWrite again
  (s.ownerFill pub).ev pgOSEC 0x0D10 0 kInfo 0

/-- TRANSFER (R310): waits for its voucher, or releases ownership. -/
def transferApply (s : State) (next : Nat) : State :=
  if next ≠ 0 then (s.modSec fun x => { x with transfer := some next }).storeWrite false
  else
    let s := s.transferDone
    let s := (s.modStore fun x => { x with owned := false, owner := 0 }).storeWrite true
    s.slotEmpty 0

/-- A slot's KEYWRAPs that wait for their boundary are erased with its keys: UNENROL prevails (Table 15.10). -/
def wrapsGone (s : State) (n : Nat) : State :=
  s.modSec fun x => { x with acc := x.acc.filter fun o => !(objType o == 5 && o.slot.val == n) }

/-- UNENROL (R311). -/
def unenrolApply (s : State) (n : Nat) : State :=
  ((s.slotUnenrol n).wrapsGone n |>.modStore fun x => { x with recs := modAt x.recs n fun _ => none }).storeWrite true

/-- ENROL (R311); of an enrolled slot, an UNENROL first. -/
def enrolApply (s : State) (n : Nat) (e : Enrol) : State :=
  let again := (nth s.sec.store.recs n none).isSome
  let s := ((s.slotUnenrol n).wrapsGone n).modStore fun x => { x with recs := modAt x.recs n fun _ => some e }
  ((s.storeWrite again).recFill n e).ev pgOSEC 0x0D11 n kInfo n

/-- DEBUG (R324). -/
def debugApply (s : State) (scope : Nat) : State :=
  let s := if bit scope 3 then ((List.range 16).foldl State.eraseKeys s).modSec fun x => { x with storeLock := true } else s
  ((s.fs DBG_SCOPE_SCOPE (Nat.lor (s.fg DBG_SCOPE_SCOPE) scope)).fs OSEC_LC_DEBUGGED 1).ev pgOSEC 0x0D14 scope kInfo 0

/-- POLICY (Table 15.2). -/
def policyApply (s : State) (flags : Nat) (minsvn : List Nat) : State :=
  ((s.modStore fun x => { x with flags := flags, minsvn := (List.range 64).map fun k => nth minsvn k 0 % 256 }).storeWrite false).ev
    pgOSEC 0x0D16 0 kInfo 0

/-- OTPCFG (R322): the next blank record. -/
def otpApply (s : State) (b : List Nat) : State :=
  let i := s.sec.cfgs.length
  let s := (s.modSec fun x => { x with cfgs := x.cfgs ++ [some b] }).fs OSEC_CFGREC_USED (i + 1)
  (s.storeWrite false).ev pgOSEC 0x0D17 i kInfo 0

/-- An accepted object takes effect. -/
def objApply (s : State) (o : Obj) : State :=
  let n := o.slot.val
  match o.body with
  | .voucher pub => s.voucherApply pub
  | .transfer next => s.transferApply next
  | .enrol role wp pw pr pub => s.enrolApply n ⟨role, wp, pw.map (·.toNat), pr.map (·.toNat), pub⟩
  | .unenrol => s.unenrolApply n
  | .keywrap kind gen act key => s.keySet n kind gen act key
  | .debug _ scope => s.debugApply scope.toNat
  | .policy flags m => s.policyApply flags.toNat m
  | .otpcfg b => s.otpApply b
  | .reserved => s

/-- The first waiting object of a type takes effect. -/
def objTake (s : State) (typ : Nat) : State := match s.sec.acc.find? fun o => objType o == typ with
  | none => s
  | some o => (s.modSec fun x => { x with acc := x.acc.erase o }).objApply o

/-- A span boundary: every accepted object takes effect, keys first, a transfer and its voucher last (Table 15.10). -/
def objBoundary (s : State) : State :=
  let all := s.sec.acc
  let rank (o : Obj) : Nat := match o.body with
    | .keywrap .. => 0
    | .transfer .. => 2
    | .voucher .. => 3
    | _ => 1
  let s := s.modSec fun x => { x with acc := [] }
  ([0, 1, 2, 3].flatMap fun r => all.filter fun o => rank o == r).foldl State.objApply s

/-! ### SESSION frames (R313 to R315) -/

/-- `n` free bytes. -/
def freeBytes (s : State) (n : Nat) : List Nat × State :=
  ((List.range n).map fun i => Config.freeValue (s.freeCtr + i) % 256, { s with freeCtr := s.freeCtr + n })

/-- A SESSION's bytes, HOP and its path aside. -/
def frameKey (f : Frame) : Frame := { f with port := 0, at_ := 0, hop := 0, hcrcOk := true, fcsOk := true, ing := ⟨0, 0, false⟩, fecCor := 0, fecUnc := 0 }

/-- Send a SESSREP on port `p`. -/
def sessSend (s : State) (p : Nat) (f : Frame) (code detail : Nat) (b : List Nat) : State :=
  s.sendUp p (s.upHdr 10 f.tenant.val false 0 b.length) fun h => .sessrep h p f.tenant.val code detail b

/-- Answer a SESSION and keep the answer (R315). -/
def sessAnswer (s : State) (f : Frame) (q : SessBody) (code detail : Nat) (b : List Nat) : State :=
  let s := s.modSec fun x => { x with
    replies := (x.replies.filter fun r => decide (s.now ≤ r.at_ + Config.sec)) ++ [⟨s.now, frameKey f, q, code, detail, b⟩] }
  s.sessSend f.port.val f code detail b

/-- ESTABLISH is refused (R313). -/
def establishFail (s : State) (f : Frame) (sctr signer : Nat) : Option Rc :=
  let n := f.tenant.val
  if s.secBusy then some ⟨0x4D13, 0⟩
  else if !s.owned then some ⟨0x5D11, 0⟩
  else if s.tst n = tQUAR then some ⟨0x5110, n⟩
  else if s.fgi TEN_RUN_RUN_REQ n = 0 then some ⟨0x5111, n⟩
  else if signer = 0 ∨ signer ≠ s.slotPub n then some ⟨0x5D02, 0⟩
  else if sctr ≤ s.fgk KS_SCTR_SCTR 0 n then some ⟨0x6D10, sctr % 2 ^ 16⟩
  else if s.tst n = tRESETTING then some ⟨0x6112, n⟩
  else none

/-- ESTABLISH (R313, R314): the session starts with its management key. -/
def establish (s : State) (f : Frame) (sctr signer mkey : Nat) : State :=
  let n := f.tenant.val
  let q : SessBody := .establish sctr signer mkey
  match s.establishFail f sctr signer with
  | some c => (if c.code = 0x5D02 then s.authFail f.port.val n else s).sessAnswer f q c.code c.detail [1, 0, c.code / 256, c.code % 256]
  | none =>
    let s := { s with keys := modAt s.keys n fun k => { k with mkey := mkey } }
    let s := ((s.fsk KS_SCTR_SCTR 0 n sctr).showKeys n).startSession n (some f.port.val) f.seq
    let (r, s) := s.freeBytes 240
    s.sessAnswer f q 0x0D00 0 ([1, 0, 0x0D, 0] ++ be 4 sctr ++ r.take 48 ++ [4] ++ (r.drop 49).take 96 ++ [0, 0, 0] ++ (r.drop 145).take 96)

/-- CERT (R313). -/
def certAnswer (s : State) (f : Frame) : State :=
  let c := if s.secBusy then 0x4D13 else 0x0D00
  let b := if s.secBusy then [] else be 2 certLen ++ certBytes
  s.sessAnswer f .cert c 0 ([4, 0, c / 256, c % 256] ++ b)

/-- ATTEST (R323): the report is asked for. -/
def attestAsk (s : State) (f : Frame) (nonce : List Word) : State :=
  if s.secBusy then s.sessAnswer f (.attest nonce) 0x4D13 0 [3, 0, 0x4D, 0x13]
  else
    let n := f.tenant.val
    s.modSec fun x => { x with att := x.att ++ [⟨if s.tst n = tACTIVE then n else 16, some f, 0, nonce.map (·.toNat)⟩] }

/-- OBJECT (R308, R313). -/
def objectAsk (s : State) (f : Frame) (o : Obj) : State :=
  let (s, c) := s.objArrive o
  s.sessAnswer f (.object o) c.code c.detail ([2, 0, c.code / 256, c.code % 256] ++ be 2 c.detail)

/-- The ROM loader serves SESSION frames on L0 alone, for T0 while LC is OWNED and for any sender while it is PROVISIONED (R349). -/
def loaderServes (s : State) (f : Frame) : Bool := !s.loader || (f.port.val == 0 && (!s.owned || f.tenant.val == 0))

/-- A SESSION frame: reception, rate limit, repeats, then its operation (R313, R315). -/
def session (s0 : State) (f : Frame) (q : SessBody) : State :=
  let (s, ok) := s0.rxDown f 9
  let p := f.port.val
  if !ok ∨ s.ownId ≠ some f.first ∨ !s.loaderServes f = true then s
  else if !mgmtRoom f then s.inc LNK_DROP_FULL p 1
  else
    let old := (nth s.sec.served p []).filter fun t => decide (s.now < t + Config.sec)
    if s.fg OSEC_RATE_PER_S ≤ old.length then
      let s := s.inc OSEC_CNT_SESSDROP 0 1
      if s.sec.dropEv.any fun t => decide (s.now < t + Config.sec) then s
      else (s.modSec fun x => { x with dropEv := some s.now }).ev pgOSEC 0x4D12 p kRefusal 0
    else
      let s := s.modSec fun x => { x with served := modAt x.served p fun _ => old ++ [s.now] }
      match s.sec.replies.find? fun r => r.frame == frameKey f && r.body == q && decide (s.now ≤ r.at_ + Config.sec) with
      | some r => s.sessSend p f r.code r.detail r.bytes
      | none => match q with
        | .establish c k m => s.establish f c k m
        | .object o => s.objectAsk f o
        | .attest nonce => s.attestAsk f nonce
        | .cert => s.certAnswer f

/-! ### Attestation (R323) -/

/-- An enrolment record as its ENROL body, or 172 zero bytes. -/
def enrolBytes : Option Enrol → List Nat
  | none => List.replicate 172 0
  | some e => [e.role, 0, 0, 0] ++ be 2 e.winperm ++ [0, 0] ++ e.pw.flatMap (be 4) ++ e.pr.flatMap (be 4) ++
      (List.range 97).map (Config.pubByte e.pub · % 256) ++ [0, 0, 0]

/-- 48 bytes of SHA-384. -/
def hash48 (b : List Nat) : List Nat := (List.range 48).map fun i => Config.sha384 b i % 256

/-- Bytes 0 to 339 of a report (Table 15.7). -/
def reportBody (s : State) (r : AttReq) : List Nat :=
  let x := s.sec.store
  let fl := s.fg OSEC_LC_DEBUGGED + 2 * b2n s.certCfg + 4 * s.fg UPD_CFG_HOENROL + 8 * s.fg SYS_SPIA_EN + 16 * s.fg PTP_STAT_WT_VALID
  let w := if s.fg PTP_STAT_WT_VALID = 1 then s.wall / Config.grainsPerNs else 0
  be 4 0x4F415452 ++ be 2 1 ++ be 2 436 ++ be 8 s.uid ++ [s.fg OSEC_LC_LC, fl, r.slot, 0] ++ be 4 s.dcn ++
  be 6 (w / 10 ^ 9) ++ be 4 (w % 10 ^ 9) ++ [0, 0] ++ r.nonce.flatMap (be 4) ++ (List.range 48).map (nth s.sec.meas · 0) ++
  (List.range 48).map (nth s.sec.cfgHash · 0) ++ hash48 (((x.recs.drop 1).take 15).flatMap enrolBytes) ++
  hash48 (be 4 x.flags ++ x.minsvn) ++ (List.range 64).map s.arbVal

/-- Bytes in ATT_BUF of a bank: at most 1,024. -/
def putAtt (s : State) (bank : Nat) (b : List Nat) : State :=
  let word (k : Nat) : Nat := nth b (4 * k) 0 + nth b (4 * k + 1) 0 * 2 ^ 8 + nth b (4 * k + 2) 0 * 2 ^ 16 + nth b (4 * k + 3) 0 * 2 ^ 24
  { s with regs := (List.range 256).foldl (fun r k => rput r bank pgATTEST (ATT_BUF.off + 4 * k) (word k)) s.regs }

/-- ATT_STAT and ATT_RES of a bank. -/
def attState (s : State) (bank len ready busy code : Nat) : State :=
  let s := ((s.fsb bank ATT_STAT_LEN len).fsb bank ATT_STAT_READY ready).fsb bank ATT_STAT_BUSY busy
  (s.fsb bank ATT_RES_CODE code).fsb bank ATT_RES_DETAIL 0

/-- The report asked for first is ready. -/
def attReady (s : State) : State := match s.sec.att with
  | [] => s
  | r :: rest =>
    let body := s.reportBody r
    let (sig, s) := s.freeBytes 96
    let s := s.modSec fun x => { x with att := rest }
    match r.sess with
    | some f => s.sessAnswer f (.attest (r.nonce.map (BitVec.ofNat 32))) 0x0D00 0 ([3, 0, 0x0D, 0] ++ body ++ sig)
    | none => (s.putAtt r.bank (body ++ sig)).attState r.bank 436 1 0 0x0D00

end State

/-! ### Handlers -/

/-- ATT_CMD (R329). -/
def hAttCmd : Handler := fun s w _ _ _ data =>
  let b := w.bank
  if s.fgb b ATT_STAT_BUSY = 1 ∨ s.secBusy = true then .error ⟨0x4D13, 0⟩
  else if bitsOf data 3 0 = 1 then
    let nonce := (List.range 12).map fun k => rget s.regs b pgATTEST (ATT_NONCE.off + 4 * k)
    .ok ((s.attState b 0 0 1 0).modSec fun x => { x with att := x.att ++ [⟨w.slot, none, b, nonce⟩] })
  else .ok ((s.putAtt b certBytes).attState b (certLen + 193) 1 0 0x0D00)

/-- The result of an OSEC command. -/
def State.osecRes (s : State) (c : Rc) : State := (s.fs OSEC_RES_CODE c.code).fs OSEC_RES_DETAIL c.detail

/-- The RAISE of R321: every counter the running manifest names rises to that image's SVN. -/
def State.raiseAll (s : State) : State :=
  let imgs := (s.runManifest.map (·.images)).getD []
  let up := (List.range 63).filter fun k => imgs.any fun i => i.ctr == k && decide (s.arbVal k < i.svn)
  let s := imgs.foldl (fun s i => if i.ctr < 63 ∧ s.arbVal i.ctr < i.svn then s.arbRaise i.ctr i.svn else s) s
  (s.osecRes ⟨0x0D00, 0⟩).ev pgOSEC 0x0D15 up.length kInfo 0

/-- A fresh challenge (R324). -/
def State.challenge (s : State) : State :=
  let s := (List.range 12).foldl (fun s k =>
    let (v, s) := s.free (2 ^ 32)
    s.fsk OSEC_CHAL_BYTES 0 k v) s
  ((s.fs OSEC_STAT_CHAL 1).modSec fun x => { x with chalEnd := s.now + 300 * Config.sec }).osecRes ⟨0x0D00, 0⟩

/-- OSEC_CMD (R327); `o`: the object that the bytes of the window spell. -/
def hOsecCmd (o : Obj) : Handler := fun s w _ _ _ data =>
  let len := bitsOf data 27 16
  match bitsOf data 3 0 with
  | 1 =>
    if len = 0 then .error ⟨0x1D01, 16⟩
    else if 2048 < len then .error ⟨0x1D02, len⟩
    else if s.secBusy then .error ⟨0x4D13, 0⟩
    else
      let (s, c) := s.objArrive (if len < 24 then { o with malformed := some 4 } else o)
      .ok (s.osecRes c)
  | 2 => if !w.isT0 then .error ⟨0x5D01, w.slot⟩ else if s.secBusy then .error ⟨0x4D13, 0⟩ else .ok s.challenge
  | _ =>
    if !w.isT0 then .error ⟨0x5D01, w.slot⟩
    else if s.secBusy then .error ⟨0x4D13, 0⟩
    else if !s.nvOk then .error ⟨0x4D10, 0⟩
    else .ok s.raiseAll

/-- An object no command names. -/
def Obj.none_ : Obj := ⟨none, 0, 0, 0, [], .reserved⟩

/-- A write of OSEC_CMD. -/
def osecCmd (s : State) (a : Sys2Proof.Access) (data : Nat) (o : Obj) : State := direct s.begin_ a (regAddr pgOSEC OSEC_CMD.off) data (hOsecCmd o)

/-! ### Commands -/

/-- ESTABLISH (R313, R314): a SESSION frame with OPC ESTABLISH, signed under key `signer`; `mkey` is the key derived. -/
def execEstablish (f : Frame) (sctr signer mkey : Nat) (s : State) : Ans State := .next (s.begin_.session f (.establish sctr signer mkey))

/-- OBJECT (R308, R313). -/
def execObject (f : Frame) (o : Obj) (s : State) : Ans State := .next (s.begin_.session f (.object o))

/-- SUBMIT (R327, R308): a write of OSEC_CMD with OP SUBMIT; `o` is what the window's bytes spell. -/
def execSubmit (a : Sys2Proof.Access) (data : Word) (o : Obj) (s : State) : Ans State :=
  .next (osecCmd s a (bitsOf data.toNat 27 16 * 2 ^ 16 + 1) o)

/-- VOUCHER (R310): the accepted VOUCHER that waits takes effect at the span boundary. -/
def execVoucher (s : State) : Ans State := .next (s.begin_.objTake 1)

/-- TRANSFER (R310). -/
def execTransfer (s : State) : Ans State := .next (s.begin_.objTake 2)

/-- ENROL (R311). -/
def execEnrol (s : State) : Ans State := .next (s.begin_.objTake 3)

/-- UNENROL (R311). -/
def execUnenrol (s : State) : Ans State := .next (s.begin_.objTake 4)

/-- KEYWRAP (R316, R317). -/
def execKeywrap (s : State) : Ans State := .next (s.begin_.objTake 5)

/-- DEBUG (R324). -/
def execDebug (s : State) : Ans State := .next (s.begin_.objTake 6)

/-- POLICY (Table 15.2, R320). -/
def execPolicy (s : State) : Ans State := .next (s.begin_.objTake 7)

/-- OTPCFG (R322). -/
def execOtpcfg (s : State) : Ans State := .next (s.begin_.objTake 8)

/-- ATTEST (R323, R313). -/
def execAttest (f : Frame) (nonce : List Word) (s : State) : Ans State := .next (s.begin_.session f (.attest nonce))

/-- CERT (R313, R306). -/
def execCert (f : Frame) (s : State) : Ans State := .next (s.begin_.session f .cert)

/-- REPORT (R323, R329): ATT_CMD with OP REPORT. -/
def execReport (a : Sys2Proof.Access) (s : State) : Ans State := .next (direct s.begin_ a (regAddr pgATTEST ATT_CMD.off) 1 hAttCmd)

/-- ATT_CERT (R329): ATT_CMD with OP CERT. -/
def execAttCert (a : Sys2Proof.Access) (s : State) : Ans State := .next (direct s.begin_ a (regAddr pgATTEST ATT_CMD.off) 2 hAttCmd)

/-- ATTESTATION_READY (R323). -/
def execAttestationReady (s : State) : Ans State := .next s.begin_.attReady

/-- DBGCHAL (R324). -/
def execDbgchal (a : Sys2Proof.Access) (s : State) : Ans State := .next (osecCmd s a 2 Obj.none_)

/-- RAISE (R321, R319). -/
def execRaise (a : Sys2Proof.Access) (s : State) : Ans State := .next (osecCmd s a 3 Obj.none_)

/-- CHALLENGE_EXPIRE (R324): 300 s after the challenge. -/
def execChallengeExpire (s0 : State) : Ans State :=
  let s := s0.begin_
  .next (if s.fg OSEC_STAT_CHAL = 1 then (s.advance s.sec.chalEnd).fs OSEC_STAT_CHAL 0 else s)

end Sys2Proof.Machine
end

