-- ==== Sys2Proof/Machine/Modes.lean ====
section
/-! DEFINITION. Major modes (R355 to R360): mode requests and their refusals, mode changes at their boundary, SLEEP entry with the
retention image (R361), and the regeneration of plans on entry to SHOW and SERVICE (R22). -/

namespace Sys2Proof.Machine

namespace State

/-- Change modes and power. -/
def modPow (s : State) (f : PowSt → PowSt) : State := { s with pow := f s.pow }

/-! ### Requests (R355, R359, R360) -/

/-- PD_WAKE lies at least 2 s in the future, in seconds modulo 2^32. -/
def wakeAhead (s : State) : Bool :=
  let t := s.fg PD_WAKE_SEC * Config.sec
  let m := 2 ^ 32 * Config.sec
  let d := (t + m - s.wall % m) % m
  decide (2 * Config.sec ≤ d) && decide (d < m / 2)

/-- A piece of an update is being programmed (R338). -/
def pieceBusy (s : State) : Bool := decide (s.upd.kind ≤ 1) && !s.upd.queue.isEmpty && (s.upd.prog || s.nvOk)

/-- A flash program or erase, a trim journal record or a piece is under way. -/
def nvWriting (s : State) : Bool := s.flashBusy || s.trim.writing.isSome || s.pieceBusy

/-- The refusals of a request for SLEEP (R360). -/
def sleepRefuse (s : State) : Option Rc :=
  if s.fab.fks.any (fun f => f.st == .pending) then some ⟨0x2012, 1⟩
  else if !s.upd.pend.isEmpty then some ⟨0x2012, 2⟩
  else if s.nvWriting then some ⟨0x2012, 3⟩
  else if s.fg PD_CFG_TIME = 1 ∧ s.wakeAhead = false then some ⟨0x6001, 0⟩
  else none

/-- The refusals of a mode request by the state of the device (Table 17.2, R359). A request for the mode in force asks for no
transition. -/
def modeRefuse (s : State) (req : Nat) : Option Rc :=
  if req = s.mode.code then none
  else match s.mode with
    | .show => if req = 0 then s.sleepRefuse else none
    | .service => if req = 0 then s.sleepRefuse else none
    | .dark =>
      if req = 0 then s.sleepRefuse
      else
        let c := s.activeCauses
        if c = 0 then none else some ⟨0x2010, c⟩
    | _ => some ⟨0x2011, s.mode.code⟩

/-- MODE_REQ has been written through `bank`: the request waits for its boundary (R356). -/
def modeReqWritten (s : State) (bank : Nat) : State :=
  let req := s.fg SYS_MODE_MODE_REQ
  (s.modPow fun p => { p with req := if req = s.mode.code then none else some (req, bank) }).settle pgSYS

/-! ### Entry to SHOW and SERVICE (R22, R163) -/

/-- Every entry to SHOW releases a blend that swaps as soon as it is complete (R163). -/
def enterLit (s : State) (m : Mode) : State :=
  let s := s.setMode m
  if m = .show then s.blendRelease true else s

/-- Leave DARK or TRIM for SHOW or SERVICE: every plan is regenerated before the first cycle that shows anything (R22), shutdown ends. -/
def relight (s : State) (m : Mode) : State :=
  let s := (s.modPow fun p => { p with shut := false, shutWait := none }).fs TH_STAT_SHUT 0
  ((s.dropPlans.enterLit m).releaseAll).modScan fun c => { c with hold := true }

/-! ### SLEEP (R360, R361) -/

/-- Bits of the register at a key that the retention image holds: RW block fields of every page but RST and FIRKIN, with no strap,
trim or OTP reset entry, and the RW header fields (R361). -/
def heldMask (k : Nat) : Nat :=
  let p := k / 2 ^ 12 % 2 ^ 8
  let o := k % 2 ^ 12
  if p = pgRST ∨ p = pgFIRKIN then 0
  else if o = 0x008 then 5
  else match anyRegAt p o with
    | none => 0
    | some g =>
      let m := g.flds.foldl (fun m f => if f.acc = .rw then Nat.lor m f.mask else m) 0
      if p = pgSYS ∧ (o = 0x050 ∨ o = 0x058) then 0
      else if p = pgCHAIN ∧ (o = CH_ETYPE.off ∨ o = CH_ROLE.off) then 0
      else if p = pgSPIB ∧ o = SPIB_CFG.off then m - Nat.land m 0x100FF
      else if p = pgUPD ∧ o = UPD_CFG.off then m - Nat.land m 0x100
      else m

/-- The retention image of this instant: listed registers with the bits it holds, and the event queues. -/
def takeImage (s : State) : RetImage :=
  ⟨s.regs.filterMap fun x => if heldMask x.1 = 0 then none else some (x.1, x.2.toNat, heldMask x.1), s.tens.map (·.evq)⟩

/-- The controller completes what it has accepted before self-refresh (R270). -/
def memDrain (s : State) : Nat → State
  | 0 => s
  | n + 1 => if s.mem.inflight.isEmpty then s else (s.dramComplete 0 []).memDrain n

/-- Both rails are OFF. -/
def railsOff (s : State) : Bool := s.sup.rails.all fun r => r.st == 0

/-- The domains but AON and SEC are powered down (R360, R363): DRAM enters self-refresh or loses its contents, ports and
timebase stop, every unit is off. -/
def sleepFinish (s : State) : State :=
  let s := if s.fg MEMC_SR_KEEP = 1 ∧ s.memReady then
      (s.memDrain (s.mem.inflight.length + s.mem.waiting.length)).fs MEMC_STAT_STATE 3
    else s.memOff
  let s := (List.range 4).foldl State.portStop s
  let s := usedPages.foldl (fun s p => if pageHasUnit p then s.fs (hACTIVE p) 0 else s) (s.genStop.dropPlans)
  let s := ((s.fs TIME_STAT_PLL_LOCK 0).fs PD_ACT_DOM 3).settle pgPWRDOM
  (s.modPow fun p => { p with sleeping := false }).setMode .sleep

/-- An accepted request for SLEEP acts (R360), steps 1 to 3. Without a READY DRAM there is nowhere to write an image. -/
def sleepEnter (s : State) : State :=
  let s := s.darkActions
  let s := if s.mode = .service then s.leaveService else s
  let s := ((s.fs SYS_MODE_MODE_REQ s.mode.code).settle pgSYS).pauseAccess
  let s := s.fkDrop fun _ => true
  s.modPow fun p => { p with
    req := none, sleeping := true, wakeSrc := none, image := if s.fg MEMC_SR_KEEP = 1 ∧ s.memReady = true then some s.takeImage else none }

/-- Step 4 of SLEEP entry: once both rails are OFF. -/
def sleepStep (s : State) : State := if s.pow.sleeping && s.railsOff then s.sleepFinish else s

/-! ### Changes (R356, Tables 17.2 and 17.9) -/

/-- The mode request that waits acts at its boundary. A DARK cause that has become active prevails over a request to leave DARK. -/
def changeMode (s : State) : State := match s.pow.req with
  | none => s
  | some (req, bank) =>
    let s := s.modPow fun p => { p with req := none }
    let m := Mode.ofCode req
    if m = s.mode then s
    else match s.mode, m with
      | .dark, .sleep => s.sleepEnter.sleepStep
      | .show, .sleep => s.sleepEnter.sleepStep
      | .service, .sleep => s.sleepEnter.sleepStep
      | .dark, _ =>
        let c := s.activeCauses
        if c = 0 then s.relight m else (s.fsb bank SYS_WRERR_CODE 0x2010).fsb bank SYS_WRERR_DETAIL c
      | .show, .dark => s.enterDark 0
      | .service, .dark => s.enterDark 0
      | .show, _ => s.enterLit m
      | .service, _ => s.enterLit m
      | _, _ => s

/-- Display-cycle boundaries are generated (R45, R356). -/
def cycles (s : State) : Bool := s.tim.running

end State

/-! ### Commands -/

/-- The effect of a write of SYS_MODE: MODE_REQ against the state of the device, then the request waits (R355, R356). -/
def hSysMode : Handler := fun s w p o g data =>
  match s.modeRefuse (data % 8) with
  | some c => .error c
  | none => .ok ((storeReg s w p o g data).modeReqWritten w.bank)

/-- MODE_REQUEST (R355): a write of SYS_MODE. -/
def execModeRequest (a : Sys2Proof.Access) (req : Nat) (s : State) : Ans State :=
  .next (direct s.begin_ a (regAddr pgSYS SYS_MODE.off) (req % 8) hSysMode)

end Sys2Proof.Machine
end

