-- ==== Sys2Proof/Machine/Boot.lean ====
section
/-! DEFINITION. What straps and OTP put into registers (R388, R389, R322), at PORN and at each restart through TRIM, and the register
file so loaded, to which a page reset returns (R42). -/

namespace Sys2Proof.Machine

namespace State

/-- Strap bits `hi` to `lo`. -/
def strap (s : State) (hi lo : Nat) : Nat := bitsOf (s.fg SYS_STRAP_CFG) hi lo

/-- The entries that straps set (Table 18.7, R355), from SYS_STRAP. -/
def strapLoad (s : State) : State :=
  let src := s.strap 1 0
  let s := ((s.fs SLOT_BOOT_SOURCE src).fs SPIB_CFG_XIP_EN (b2n (src == 0))).fs SYS_MODE_MODE_REQ (if src = 3 then 2 else 4)
  let s := ((s.fs SPIA_CFG_ROLE (s.strap 2 2)).fs CH_ROLE_ROLE (s.strap 4 3)).fs SUP_CFG_PRESENT (s.strap 5 5)
  (s.fs UPD_CFG_HOENROL (s.strap 9 9)).fs MEMC_CFG_HINT (s.strap 11 10)

/-- The registers after straps and OTP are loaded, nothing else written. -/
def bootRegs (s : State) : Regs :=
  (({ State.reset with sec := s.sec }.fs SYS_STRAP_CFG (s.fg SYS_STRAP_CFG)).strapLoad.otpLoad).regs

end State

end Sys2Proof.Machine
end

