-- ==== Sys2Proof/Machine/Effects.lean ====
section
/-! DEFINITION. What a unit's start, stop and page reset do (R41, R42), the effect that each written register has beyond its own
value, for direct writes and firkins alike. -/

namespace Sys2Proof.Machine

namespace State

/-! ### Units (R41) -/

/-- A wiring map comes into force or changes (R206, Table 1.6): plans, health and read-back restart, a blend runs first, and every
enabled window regenerates. It acts as CLEARALL (R212), with its event. -/
def mapChanged (s : State) : State :=
  let s := (s.dropPlans.healthClearAll.ev pgHEALTH 0x0811 0 kInfo 0).modRd fun r => { r with acc := [], run := [] }
  if s.active pgWIRE then (s.blendRelease true).releaseAll else s.modPix fun p => { p with released := [] }

/-- PG_STAT.HELD of a page that implements HOLD (Tables 2.7, 2.9). -/
def showHeld (s : State) (p : Nat) : State :=
  if pgCapOf p % 2 = 1 then s.fs (hHELD p) (b2n (s.active p && s.fg (hHOLD p) == 1)) else s

/-- What starts when the unit of page `p` runs. -/
def unitStarts (s : State) (p : Nat) : State :=
  if p / 16 = 3 then s.feedRunAct (p - pgFEED)
  else if pgLNK ≤ p ∧ p < pgCHAIN then s.portStart (p - pgLNK)
  else if p = pgPTP then s.ptpStart
  else if p = pgTIME then s.genCheck
  else if p = pgWIN then (List.range 16).foldl (fun s w => s.bindWindow w true true) s
  else if pgPATT ≤ p ∧ p < pgPATT + 16 then s.pattStart (p - pgPATT)
  else if p = pgWIRE then s.mapChanged
  else if p = pgSENSE then s.senseStart 0
  else if p = pgSUPPLY then { s with sup := { s.sup with since := s.now } }.syncPhases
  else if pgPHASE ≤ p ∧ p < pgPHASE + 8 then (s.takeShadows (p - pgPHASE)).syncPhases
  else s

/-- What stops when the unit of page `p` stops. -/
def unitStops (s : State) (p : Nat) : State :=
  if p / 16 = 3 then (s.feedRunAct (p - pgFEED)).feedTidy (p - pgFEED)
  else if pgLNK ≤ p ∧ p < pgCHAIN then s.portStop (p - pgLNK)
  else if p = pgPTP then s.ptpStop
  else if p = pgTIME then s.genStop
  else if p = pgWIN then s.modPix fun x => { x with released := [], deferred := [] }
  else if pgPATT ≤ p ∧ p < pgPATT + 16 then s.pattStop (p - pgPATT)
  else if p = pgWIRE then s.modPix fun x => { x with released := [] }
  else if p = pgSENSE then s.senseStop
  else if p = pgSUPPLY then s.stopRails.syncPhases
  else if pgPHASE ≤ p ∧ p < pgPHASE + 8 then s.syncPhases
  else s

/-- The unit of page `p` starts: ACTIVE reads 1. A unit that runs already goes on. -/
def unitOn (s : State) (p : Nat) : State :=
  if s.active p then s else ((s.fs (hACTIVE p) 1).unitStarts p).showHeld p

/-- The unit of page `p` stops: ACTIVE reads 0. -/
def unitOff (s : State) (p : Nat) : State :=
  if s.active p then ((s.fs (hACTIVE p) 0).unitStops p).showHeld p else s

end State

/-! ### Page resets (R42, R72) -/

/-- Registers of pages without a unit whose RO fields show live state that no page reset ends: what a domain, a half-array, the field,
a device, a grant, a key, an update or the boot is now. Every other RO field is a record and takes its reset value (R42, log entry 64). -/
def liveRegs : List (Nat × List Nat) :=
  [(pgSYS, [SYS_UID0.off, SYS_UID1.off, SYS_MODE.off, SYS_DCN.off]), (pgPWRDOM, [PD_ACT.off]), (pgTHERM, [TH_STAT.off, TH_DARK.off]),
    (pgPIX, [PIX_HALF.off]), (pgCORR, [CORR_STAT.off, CORR_TS_A.off, CORR_TS_ID.off, CORR_ZB.off]),
    (pgTFIELD, [TF_ZMAX.off, TF_RDCN.off, TF_SRD.off, TF_Z.off]), (pgEDGE, [EDGE_STAT.off]),
    (pgRDBK, [RB_LDCN.off, RB_FORCED.off, RB_ST.off]), (pgMECC, [ME_SCRUBST.off]), (pgSPIA, [SPIA_CFG.off]),
    (pgSPIB, [SPIB_CFG.off, SPIB_STAT.off]), (pgSPIC, [SPIC_GRANT.off, SPIC_CTRL.off]), (pgTWI, [TWI_GRANT.off, TWI_STAT.off]),
    (pgATTEST, [ATT_STAT.off]), (pgUPD, [UPD_STAT.off, UPD_RCVD.off]),
    (pgSLOT, [SLOT_BOOT.off, SLOT_SEQ.off, SLOT_INFO.off, SLOT_BUILD.off, SLOT_MEAS.off, SLOT_BND.off, SLOT_BID.off, SLOT_COMP.off])]

/-- Pages whose RO fields all show live state. -/
def livePages : List Nat := [pgTRIM, pgMEMC, pgMEMPHY, pgOSEC, pgKEYST, pgDBG]

/-- The bits of register `g` of page `p` that show live state. -/
def liveMask (p : Nat) (g : Reg) : Nat :=
  if livePages.contains p || (liveRegs.any fun x => x.1 == p && x.2.contains g.off) then
    g.flds.foldl (fun m f => if f.acc = .ro then Nat.lor m f.mask else m) 0
  else 0

/-- The register at a key after its page is reset, from its value `v` and its loaded reset value `b` (R42; R72 for a TEN page): owner,
fault mask and event enables stay; on a page without a unit ENABLE, ACTIVE (R414) and live status stay too. -/
def resetVal (p o v b : Nat) : Nat :=
  if o = 0x018 ∨ o = 0x01C ∨ o = 0x020 then v
  else if pageHasUnit p then b
  else if o = 0x008 ∨ o = 0x00C then v % 2
  else if o < 0x040 then 0
  else if p / 16 = 1 ∧ ¬(o = TEN_RUN.off ∨ o = TEN_KEEP.off ∨ o = TEN_QCFG.off) then v
  else match anyRegAt p o with
    | some g => Nat.lor (Nat.land v (liveMask p g)) (b - Nat.land b (liveMask p g))
    | none => v

/-- One register of a reset. -/
def resetKey (boot r : Regs) (k : Nat) : Regs :=
  let d := regDflt k
  cput r k (BitVec.ofNat 32 (resetVal (k / 2 ^ 12 % 2 ^ 8) (k % 2 ^ 12) (cget r k d).toNat (cget boot k d).toNat)) d

/-- The register file after page `p` is reset. -/
def resetPageRegs (boot r : Regs) (p : Nat) : Regs :=
  ((r ++ boot).filter fun x => x.1 / 2 ^ 12 % 2 ^ 8 == p).foldl (fun r x => resetKey boot r x.1) r

namespace State

/-- What a reset page's unit holds beside its registers returns to reset, and live status reads what it was in `old`. -/
def resync (s old : State) (p : Nat) : State :=
  if p / 16 = 1 then s.tenPageReset (p - pgTEN)
  else if p / 16 = 3 then (s.modFeed (p - pgFEED) fun f => { Feed.empty with claims := f.claims }).feedRunAct (p - pgFEED)
  else if p = pgTIME then
    (s.fs TIME_STAT_PLL_LOCK (old.fg TIME_STAT_PLL_LOCK)).fs TIME_STAT_WT_VALID (old.fg TIME_STAT_WT_VALID)
  else if p = pgWIN then s.dropPlans
  else if p = pgDIM then { s with scan := { s.scan with curGen := s.scan.curGen + 1 } }.releaseAll
  else if p = pgPAL ∨ p = pgPIX then s.releaseAll
  else if pgPATT ≤ p ∧ p < pgPATT + 16 then s.modPatt (p - pgPATT) fun _ => Patt.idle
  else if p = pgCORR then s.blendRelease false
  else if p = pgEVTQ then { s with tens := s.tens.map fun t => { t with evq := { t.evq with lost := 0 } } }
  else if p / 16 = 7 then s.setReg p ST_STAT.off (old.reg p ST_STAT.off)
  else if pgPHASE ≤ p ∧ p < pgPHASE + 8 then s.showPhase (p - pgPHASE)
  else s

/-- A reset of page `p` takes effect (R42): the unit stops, then registers return to their reset values. -/
def pageResetNow (s0 : State) (p : Nat) : State :=
  let s := s0.unitOff p
  let s := s.modFab fun f => { f with
    checking := f.checking.filter (· != p), asked := f.asked.filter (·.1 != p), starting := f.starting.filter (· != p),
    stopping := f.stopping.filter (· != p), resetting := f.resetting.filter (· != p) }
  { s with regs := resetPageRegs s.bootRegs s.regs p }.resync s p |>.settle p

/-! ### Effects of written registers -/

/-- Ports follow a changed ROLE (R76): a port that is no longer used is powered down, an enabled one that is used again starts. -/
def rolePorts (s : State) (old : Nat) : State :=
  (List.range 4).foldl (fun s p =>
    let was := portUsed old p
    let is := portUsed s.role p
    if was == is then s
    else if is then (if enabledR s.regs (pgLNK + p) && !s.active (pgLNK + p) then (s.fs (hACTIVE (pgLNK + p)) 1).portStart p else s)
    else if s.active (pgLNK + p) then (s.fs (hACTIVE (pgLNK + p)) 0).portStop p
    else s) s

/-- SPEED_REQ of an active port changed (R75): a port at a speed it no longer allows goes down and seeks again. -/
def speedWritten (s : State) (p : Nat) : State :=
  let req := s.fgi LNK_CFG_SPEED_REQ p
  let act := s.fgi LNK_STAT_SPEED_ACT p
  if !s.active (pgLNK + p) || (req == act) || (req == 0 && act != 0) then s.settle (pgLNK + p) else (s.portDark p).portStart p

/-- Release the windows whose source is feed `n`. -/
def releaseFeed (s : State) (n : Nat) : State :=
  (List.range 16).foldl (fun s w => if (s.srcAct w).1 = 1 ∧ (s.srcAct w).2.1 = n then s.releaseWin w else s) s

/-- SWEEPS of window `w` was written (Table 1.6, R15). -/
def sweepsWritten (s : State) (w : Nat) : State :=
  if winSweeps s.regs w = 0 then
    let s := s.dropPending w
    (s.modPix fun p => { p with
      dir := modAt p.dir w fun d => { d with cur := none }, released := p.released.filter (·.win != w) }).feedTidyAll
  else s.releaseWin w

/-- SRC_REQ or OVL_REQ of window `w` was written (R135, Table 1.6); a window unbound to dark shows nothing from its next occurrence. -/
def bindWritten (s : State) (w : Nat) (src : Bool) : State :=
  let s := s.bindWindow w src true
  if src ∧ s.fgk WIN_SRC_REQ_KIND 0 w = 0 then
    (s.modPix fun p => { p with dir := modAt p.dir w fun d => { d with cur := none } }).feedTidyAll
  else s

/-- A feed entry's window number and the offset within the entry, on page WIN. -/
def winEffect (s : State) (o : Nat) : State := match winOfOff o with
  | none => s
  | some w =>
    if o % 32 = 0 then s.sweepsWritten w
    else if o % 32 = 4 then s.bindWritten w true
    else if o % 32 = 12 then s.bindWritten w false
    else s

/-- Registers of page CHAIN. -/
def chainEffect (old s : State) (o mask : Nat) (fk : Bool) : State :=
  if o = CH_ROLE.off then s.rolePorts old.role
  else if o = CH_PATH.off then
    let s := if fk && mask % 2 == 1 then s.pathReqApplied else s
    (if bit mask 16 then s.pathCheck else s).settle pgCHAIN
  else s

/-- Registers of FEED page `n`. -/
def feedEffect (old s : State) (n o : Nat) : State :=
  if o = FEED_FMT.off then (if s.reg (pgFEED + n) o = old.reg (pgFEED + n) o then s else s.feedFmtChanged n)
  else if o = FEED_RUN.off then (s.feedRunAct n).feedTidy n
  else if o = FEED_DG.off then s.releaseFeed n
  else s

/-- Registers of page SCAN: the span and blanking enter plans (R175) and the supply's period (Table 11.5). -/
def scanEffect (s : State) (o : Nat) : State :=
  if o = SCAN_SPAN.off then s.takeAllLocked.releaseAll else if o = SCAN_BLANK.off then s.releaseAll else s

/-- Registers of page CORR that release a blend (R163). -/
def corrReleases (s : State) (o : Nat) : Bool :=
  o == CORR_NSET.off || o == CORR_FIX.off || (decide (CORR_TS_REF.off ≤ o) && (o - CORR_TS_REF.off) % 16 == 0 &&
    decide ((o - CORR_TS_REF.off) / 16 < s.fg CORR_NSET_NSET))

/-- A register of page CORR was written directly; the registers of one firkin release one blend (`applyWrites`). -/
def corrEffect (s : State) (o : Nat) : State := if s.corrReleases o then s.blendRelease false else s

/-- TF_SFAIL bits written 1 return sensors to service: their suspect counts restart (R159). -/
def sfailEffect (s : State) (o data mask : Nat) : State :=
  let base := if o = TF_SFAIL1.off then 32 else 0
  (List.range 32).foldl (fun s i =>
    if bit (Nat.land data mask) i && decide (base + i < 48) then s.fsk TF_SRD_SUSP 0 (base + i) 0 else s) s

/-- PG_OWNER: a page made system-owned reads TENANT 0xF (Table 2.12). -/
def ownerEffect (s : State) (p : Nat) : State := if s.fg (hSYSTEM p) = 1 then s.fs (hTENANT p) 15 else s

/-- What a written register does beyond its own value. `old`: the state before; `bank`: the writer's; `feed`: the feed whose palette
was written; `fk`: through a firkin. -/
def effect (old s : State) (bank feed p o data mask : Nat) (fk : Bool) : State :=
  if o = 0x020 then s.ownerEffect p
  else if o < 0x040 then s
  else if p = pgSYS ∧ o = SYS_MODE.off ∧ 0 < mask % 8 then s.modeReqWritten bank
  else if p / 16 = 1 ∧ o = TEN_RUN.off then s.tenRunWritten (p - pgTEN)
  else if pgLNK ≤ p ∧ p < pgCHAIN ∧ o = LNK_CFG.off then (s.loopWritten (p - pgLNK)).speedWritten (p - pgLNK)
  else if p = pgCHAIN then chainEffect old s o mask fk
  else if p = pgPWRDOM then s.settle p
  else if p = pgTIME ∧ o = TIME_CYO.off then s.pinRest 0
  else if p = pgTIME ∧ o = TIME_PPS.off then s.pinRest 1
  else if p = pgTIME ∧ o = TIME_LOCK.off then (if fk then s.sourceApplied else s).genCheck
  else if p / 16 = 3 then feedEffect old s (p - pgFEED) o
  else if p = pgWIN then s.winEffect o
  else if p = pgPAL then (if o = PAL_SEL.off then s else s.releaseFeed feed)
  else if p = pgPIX ∧ o = PIX_DITH.off then s.releaseAll
  else if p = pgCORR then (if fk then s else s.corrEffect o)
  else if p = pgTFIELD ∧ (o = TF_SFAIL0.off ∨ o = TF_SFAIL1.off) then s.sfailEffect o data mask
  else if p = pgDIM ∧ o = DIM_CUR.off then { s with scan := { s.scan with curGen := s.scan.curGen + 1 } }.releaseAll
  else if p = pgSCAN then s.scanEffect o
  else if p = pgSENSE ∧ 0x050 ≤ o ∧ o < SENSE_RES.off then s.senseWritten ((o - 0x050) / 4)
  else if p = pgSUPPLY then (if o = LOAD_ALL.off ∧ Nat.land data mask % 2 = 1 then s.loadAllStaged else s)
  else if pgPHASE ≤ p ∧ p < pgPHASE + 8 then
    (if o = PH_RUN.off then s.phaseRunWritten (p - pgPHASE) else if o = PH_CFG.off then s.syncPhases
      else if o = PH_DUTY.off ∧ s.fg SUP_CFG_MODE ≠ 1 then s.modPhase (p - pgPHASE) fun x => { x with man := s.fgi PH_DUTY_D (p - pgPHASE) }
      else s)
  else s

/-- A register of the wiring map (R194 to R196): its change is a wiring-map change. -/
def mapReg (p o : Nat) : Bool :=
  p == pgWIRE && (o == WIRE_GRID.off || o == WIRE_CORD0.off || o == WIRE_CORD1.off || (decide (0x100 ≤ o) && decide (o < 0x200)))

end State

end Sys2Proof.Machine
end

