-- ==== Sys2Proof/Machine/Firkin.lean ====
section
/-! DEFINITION. Firkins (R47 to R52, R415): the handle table, staging, commit checks over the states that R49 names, application between
two spans, cancelling, and the direct ENABLE check that shares them (R41). -/

namespace Sys2Proof.Machine

/-! ### Writes on a register file -/

/-- PG_CTRL after a write: ENABLE of a page without a unit and HOLD where it is not implemented do not change, RESET reads 0 (Table 2.8,
R414). -/
def ctrlFix (p old v : Nat) : Nat :=
  let v := if pageHasUnit p then v else putBits v 0 0 (old % 2)
  putBits (if pgCapOf p % 2 = 1 then v else putBits v 2 2 0) 1 1 0

/-- The bank a staged write uses (R37, R145). -/
def SWrite.bank (w : SWrite) (who : Who) : Nat :=
  if w.page = pgPAL ∧ (w.off = 0x044 ∨ 0x400 ≤ w.off) then 32 + w.feed
  else match anyRegAt w.page w.off with
    | some g => if g.banked then who.bank else 0
    | none => 0

/-- The register that completes a wide value whose first register is at this place (R33). -/
def wideLast (p o : Nat) : Option Nat :=
  if p = pgCHAIN ∧ o = CH_UPDA_H.off then some CH_UPDA_L.off
  else if p = pgPTP ∧ o = PTP_GMID_H.off then some PTP_GMID_L.off
  else if p = pgFIRKIN ∧ o = FK_TSEC_H.off then some FK_TSEC_L.off
  else none

/-- The access path of an identity (R33, R37): links are one path, and the firkins of a requester are one. -/
def pathKey (w : Who) (p : Option Path) : Nat := w.bank * 8 + match p with
  | some (.link _) => 0
  | some .spia => 1
  | some .mgmt => 2
  | some .osec => 3
  | some .jtag => 4
  | none => 5

/-- Keep the first half `v` of a wide value of page `p` for the path `key`, until its second half is written. -/
def State.keepHalf (s : State) (key p v : Nat) : State :=
  s.modFab fun f => { f with wide := f.wide.filter (fun x => !(x.1 == key && x.2.1 == p)) ++ [(key, p, v)] }

/-- The half of a wide value that the path `key` has written on page `p`. -/
def State.halfOf (s : State) (key p : Nat) : Option Nat := (s.fab.wide.find? fun x => x.1 == key && x.2.1 == p).map (·.2.2)

/-- A half is used up. -/
def State.dropHalf (s : State) (key p : Nat) : State :=
  s.modFab fun f => { f with wide := f.wide.filter fun x => !(x.1 == key && x.2.1 == p) }

/-- A staged write is the first half of a wide value whose second half the firkin does not hold (R33). -/
def SWrite.half (ws : List SWrite) (w : SWrite) : Bool := match wideLast w.page w.off with
  | some o => !ws.any fun x => x.page == w.page && x.off == o
  | none => false

/-- A staged write resets its page. -/
def SWrite.resets (w : SWrite) : Bool := w.off == 0x008 && bit (Nat.land w.data w.mask) 1

/-- One staged write on a register file (R48, R50, R42). -/
def putWrite (boot : Regs) (who : Who) (r : Regs) (w : SWrite) : Regs :=
  if w.resets then resetPageRegs boot r w.page
  else match anyRegAt w.page w.off with
    | none => r
    | some g =>
      let b := w.bank who
      let old := rget r b w.page w.off
      let v := mergeFlds g.flds old w.data w.mask
      let v := if w.off = 0x008 then ctrlFix w.page old v else if w.off = 0x020 ∧ bit v 4 = true then Nat.lor v 15 else v
      rput r b w.page w.off v

/-- All the writes of a firkin on a register file, in the order staged. -/
def putWrites (boot : Regs) (who : Who) (r : Regs) (ws : List SWrite) : Regs :=
  (ws.filter fun w => !SWrite.half ws w).foldl (putWrite boot who) r

/-- The writes that stand after the page resets among them: those of a page before its reset are undone by it (R48, R42). -/
def liveWrites : List SWrite → List SWrite
  | [] => []
  | w :: rest => if w.resets || rest.any (fun x => x.resets && x.page == w.page) then liveWrites rest else w :: liveWrites rest

/-- Page, offset and mask of staged writes. -/
def wtuples (ws : List SWrite) : List (Nat × Nat × Nat) := ws.map fun w => (w.page, w.off, w.mask)

/-! ### Instants (R51, Table 2.15) -/

namespace State

/-- The last span boundary passed: the start of the span in progress, or the last multiple of 32 grains. -/
def lastBoundary (s : State) : Nat := if s.tim.running then s.scan.startAt else s.now / 32 * 32

/-- The first span boundary at or after grain `t`, as time runs now: spans start at a cycle start and repeat until the next one; outside
a cycle boundaries lie every 32 grains. -/
def nextBoundary (s : State) (t : Nat) : Nat :=
  if !s.tim.running then ceilDiv t 32 * 32
  else
    let from_ (b nx : Nat) : Nat := min nx (b + ceilDiv (t - b) s.spanLen * s.spanLen)
    match s.nextCycle with
    | none => from_ s.scan.startAt (2 ^ 62)
    | some c =>
      if t ≤ c.g then from_ s.scan.startAt c.g
      else
        let a := unwrap64 (c.g * 65536) c.acc
        let m := (t * 65536 - a) / max 1 s.period
        from_ (nearGrain (a + m * s.period)) (nearGrain (a + (m + 1) * s.period))

/-- The start of DCN `n`, as time runs now; far off while no cycle start is in view. -/
def dcnStart (s : State) (n : Nat) : Nat := match s.nextCycle with
  | some c => nearGrain (unwrap64 (c.g * 65536) c.acc + sub32 n c.dcn * s.period)
  | none => 2 ^ 62 + sub32 n s.dcn

/-- The application instant of a trigger; that of a wall time at or before the last boundary is past. -/
def instOf (s : State) (t : Trig) : Nat := match t with
  | .imm => s.nextBoundary (s.now + 1)
  | .wall w => if s.grainOf w ≤ s.lastBoundary then (s.grainOf w).toNat else s.nextBoundary (max (s.now + 1) (s.grainOf w).toNat)
  | .dcn n => s.dcnStart n
  | .bad => 2 ^ 62

/-! ### The states of R49 -/

/-- Pending firkins. -/
def pendFks (s : State) : List Firkin := s.fab.fks.filter fun f => f.st == .pending

end State

/-- One application: its instant, order, writes, requester and handle; `own`: the one being checked. -/
structure FStep where
  at_ : Nat
  order : Nat
  ws : List SWrite
  who : Who
  h : Nat
  own : Bool
  trig : Trig
  deriving DecidableEq, Repr

/-- Application order (R50): by instant, then by order of acceptance. -/
def FStep.before (a b : FStep) : Bool := decide (a.at_ < b.at_) || (a.at_ == b.at_ && decide (a.order < b.order))

/-- Insert in application order. -/
def insStep (x : FStep) : List FStep → List FStep
  | [] => [x]
  | y :: rest => if x.before y then x :: y :: rest else y :: insStep x rest

/-- One state of R49: registers before and after an application. -/
structure Fut where
  step : FStep
  pre : Regs
  post : Regs
  deriving DecidableEq, Repr

/-- The states that a list of applications passes through. -/
def futures (boot : Regs) : Regs → List FStep → List Fut
  | _, [] => []
  | r, x :: rest => let r' := putWrites boot x.who r x.ws; ⟨x, r, r'⟩ :: futures boot r' rest

namespace State

/-- The applications still to come, without handle `skip`, in order. -/
def pendSteps (s : State) (skip : Option Nat) : List FStep :=
  (s.pendFks.filter fun f => some f.h != skip).foldl (fun l f => insStep ⟨s.instOf f.trig, f.order, f.writes, f.who, f.h, false, f.trig⟩ l) []

/-- The states in order, from the checked application on; with none checked (CANCEL of `skip`), those after its own place. -/
def futStates (s : State) (own : Option FStep) (skip : Option Nat) : List Fut :=
  let l := s.pendSteps skip
  match own with
  | some x => (futures s.bootRegs s.regs (insStep x l)).dropWhile fun f => !f.step.own
  | none => match skip.bind s.fk? with
    | some f =>
      let me : FStep := ⟨s.instOf f.trig, f.order, [], f.who, f.h, true, f.trig⟩
      (futures s.bootRegs s.regs l).dropWhile fun x => x.step.before me
    | none => futures s.bootRegs s.regs l

/-- The registers after every pending firkin (R119). -/
def afterPending (s : State) : Regs :=
  (s.pendSteps none).foldl (fun r x => putWrites s.bootRegs x.who r x.ws) s.regs

/-! ### Checks of a state (checks 8 and 9 of Table 2.14) -/

/-- Refusals of a touched page that depend on the state of the device (R48): a mode request (R359), loopback outside SERVICE (R96), a
bank in use (R143, R146). -/
def deviceFail (s : State) (f : Fut) (ws : List SWrite) (p : Nat) : Option Rc :=
  let mine := ws.filter fun w => w.page == p
  let mode := if p = pgSYS ∧ (mine.any fun w => w.off == SYS_MODE.off && decide (0 < w.mask % 8)) = true then
    s.modeRefuse (rfget f.post SYS_MODE_MODE_REQ 0 0) else none
  let loop := if pgLNK ≤ p ∧ p < pgCHAIN ∧ rfget f.post LNK_CFG_LPBK (p - pgLNK) 0 ≠ 0 ∧ s.mode ≠ .service then
    some ⟨0x5201, f.step.who.slot⟩ else none
  let bank := mine.findSome? fun w => bankFail s f.pre p w.off
  firstOf [mode, loop, bank]

/-- R60 on a state: a tenant's writes leave a window bound to another tenant's feed that was not bound so before. -/
def bindFail (f : Fut) (ws : List SWrite) : Option Rc := match f.step.who with
  | .sys _ => none
  | .ten n =>
    let src (r : Regs) (w : Nat) : Nat × Nat := (rfget r WIN_SRC_REQ_KIND 0 w, rfget r WIN_SRC_REQ_INDEX 0 w)
    let bad (w : Nat) : Bool := (ws.any fun x => x.page == pgWIN && x.off == 0x104 + 32 * w) && src f.post w != src f.pre w &&
      (src f.post w).1 == 1 && (src f.post w).2 != n.val
    failIf (n.val != 0 && (List.range 16).any bad) 0x5401 n.val

/-- Check 8 of one state: pages in index order, the first failing page and its code. `mine`: the writes being checked. 0x5910 names the
requester's slot (Table 11.12). -/
def stateFail (s : State) (mine : List SWrite) (f : Fut) : Option (Nat × Rc) :=
  let ws := if f.step.own then mine else mine ++ f.step.ws
  (checkedPages f.post (wtuples ws)).findSome? fun p =>
    (firstOf [if p = pgWIN then bindFail f (if f.step.own then mine else f.step.ws) else none, (pageCheck s f.post p (!enabledR f.pre p)).map fun c => if c.code = 0x5910 then ⟨c.code, f.step.who.slot⟩ else c,
      deviceFail s f ws p]).map fun c => (p, c)

/-- The instant of a pending activation (R342). -/
def actInst (s : State) (a : Act) : Nat := match a.dcn, s.nextCycle with
  | some n, _ => s.dcnStart n
  | none, some c => c.g
  | none, none => 2 ^ 62

/-- A handover that is pending at or after instant `t` (R344). -/
def handoverAfter (s : State) (t : Nat) : Bool := s.upd.pend.any fun a => a.handover && decide (t ≤ s.actInst a)

/-- Check 9 of one state, and a pending handover's limit. -/
def stateAdmit (s : State) (f : Fut) : Option Rc × AdmFig := match admRun f.post with
  | (some e, g) => (some e, g)
  | (none, g) => (if s.handoverAfter f.step.at_ && decide (900 < g.half) then some ⟨0x3E10, g.half⟩ else none, g)

end State

/-- What a run of the checks found: the failure with the page and the handle of the state it lies in, and the admission result. -/
structure Verdict where
  err : Option Rc
  page : Option Nat
  h : Nat
  adm : Option (Option Rc × AdmFig)
  deriving DecidableEq, Repr

namespace State

/-- Checks 8 and 9 over states, for the writes `m`. -/
def verify (s : State) (l : List Fut) (m : List SWrite) : Verdict :=
  match l.findSome? fun f => (s.stateFail m f).map fun x => (x.1, x.2, f.step.h) with
  | some (p, c, h) => ⟨some c, some p, h, none⟩
  | none =>
    let runs := if m.any (fun w => entersAdm w.page w.off w.mask) then l.map fun f => (f, s.stateAdmit f) else []
    match runs.find? fun x => x.2.1.isSome with
    | some (f, r) => ⟨r.1, none, f.step.h, some r⟩
    | none => ⟨none, none, 0, runs.head?.map (·.2)⟩

/-- The check of a direct ENABLE of page `p` by `who` (R41, R49), as of a firkin that is applied at the next span boundary. -/
def enableVerdict (s : State) (who : Who) (p : Nat) : Verdict :=
  let ws : List SWrite := [⟨p, 0x008, 1, 1, 0⟩]
  s.verify (s.futStates (some ⟨s.instOf .imm, s.fab.fkOrder, ws, who, 128, true, .imm⟩) none) ws

/-! ### The handle table -/

/-- The result of a firkin operation on a requester's bank; a refusal with family 5 counts (R63). -/
def fkRes (s : State) (w : Who) (c : Rc) : State :=
  let s := (s.fsb w.bank FK_RESULT_CODE c.code).fsb w.bank FK_RESULT_DETAIL c.detail
  match w with
  | .ten n => if c.code / 2 ^ 12 = 5 then s.countPermf n.val else s
  | .sys _ => s

/-- Change a handle's entry. -/
def fkSet (s : State) (h : Nat) (f : Firkin → Firkin) : State :=
  s.modFab fun b => { b with fks := b.fks.map fun x => if x.h = h then f x else x }

/-- Free a handle. -/
def fkFree (s : State) (h : Nat) : State := s.modFab fun b => { b with fks := b.fks.filter fun x => x.h != h }

/-- End of a lease started now. -/
def fkLeaseEnd (s : State) (w : Who) : Nat := s.now + s.fgb w.bank FK_LEASE_MS * Config.ms

/-- OPEN (R47, Table 2.13, Table 3.1). FK_LEASE.MS 0 is found before a full allotment (DESIGN CHOICE, log entry 63). -/
def fkOpen (s : State) (w : Who) : State :=
  let n := s.fkCount w.slot
  if (match w with | .ten k => roleR s.regs k.val == 3 | .sys _ => false) then s.fkRes w ⟨0x5001, w.slot⟩
  else if s.fgb w.bank FK_LEASE_MS = 0 then s.fkRes w ⟨0x1001, 0⟩
  else match if Config.tenHandles ≤ n then none else (List.range Config.nHandles).find? fun h => (s.fk? h).isNone with
    | none => s.fkRes w ⟨0x6003, n⟩
    | some h =>
      let f : Firkin := ⟨h, w, false, .open_, [], s.fkLeaseEnd w, .imm, ⟨0, 0⟩, 0, 0, 0⟩
      ((s.modFab fun b => { b with fks := b.fks ++ [f] }).fsb w.bank FK_SEL_HANDLE h).fkRes w ⟨0, h⟩

/-! ### Staging (R48) -/

/-- Registers that no firkin stages (R48, R72, R188, R206, R222, R223, R246, R281). -/
def unstageable (p o : Nat) : Bool := match pageRow? p with
  | none => true
  | some row => !row.stageable || (p / 16 == 1 && o == TEN_CMD.off) ||
    (p == pgEDGE && decide (EDGE_OVR_CTRL.off ≤ o) && decide (o ≤ EDGE_OVR_OFF.off)) || (p == pgWIRE && o == WIRE_QSEL.off) ||
    (p == pgHEALTH && (o == HEALTH_CMD.off || o == HEALTH_QSEL.off || o == HEALTH_LSEL.off)) ||
    (p == pgRDBK && (o == RB_CLR.off || o == RB_SSEL.off)) ||
    (decide (pgPHASE ≤ p) && decide (p < pgPHASE + 8) && o == PH_TEST.off) || (p == pgMECC && (o == ME_INJ.off || o == ME_INJA.off))

/-- The checks of one staged write, in order. `r`: the registers with the writes staged before it, against which the writer is judged. -/
def stageFail (s : State) (r : Regs) (w : Who) (x : SWrite) : Option Rc :=
  let addr := regAddr x.page x.off
  let bad : Rc := ⟨pageCode 1 x.page 5, addr % 2 ^ 16⟩
  match anyRegAt x.page x.off with
  | none => some bad
  | some g =>
    if unstageable x.page x.off || Nat.land g.wmask x.mask == 0 then some bad
    else match writeTarget r w addr x.data x.mask with
      | .error c => some c
      | .ok _ =>
        if x.page = pgTEN ∧ x.off = TEN_RUN.off ∧ x.mask % 2 = 1 ∧ x.data % 2 = 0 then some ⟨0x5112, 0⟩
        else firstOf [if x.page / 16 = 3 then bankFail s s.regs x.page x.off else none, fmtCheck g.flds (rget s.regs (x.bank w) x.page x.off) x.data x.mask addr,
          let old := rget r (x.bank w) x.page x.off
          dutyFail r x.page x.off (Nat.lor (old - Nat.land old x.mask) (Nat.land x.data x.mask)) x.mask]

/-- A write of FK_SDATA (R47, R48, Table 2.29). With a handle that is FREE or another's, FK_RESULT takes 0x6007 and WORD goes on under INC
(DESIGN CHOICE, log entry 63). -/
def fkStage (s : State) (w : Who) (data : Nat) : State :=
  let b := w.bank
  let h := s.fgb b FK_SEL_HANDLE
  let x : SWrite :=
    ⟨s.fgb b FK_SADDR_PAGE, s.fgb b FK_SADDR_WORD * 4, s.fgb b FK_SMASK_MASK, data, rfgetB s.regs b PAL_SEL_FEED 0 0⟩
  let s := if s.fgb b FK_SADDR_INC = 1 then s.fsb b FK_SADDR_WORD ((s.fgb b FK_SADDR_WORD + 1) % 1024) else s
  match s.fk? h with
  | none => s.fkRes w ⟨0x6007, h⟩
  | some f =>
    if !fkMine w f then s.fkRes w ⟨0x6007, h⟩
    else if f.st ≠ .open_ then s
    else
      let n := f.writes.length
      match firstOf [s.stageFail (putWrites s.bootRegs w s.regs f.writes) w x, failIf (decide (Config.maxStaged ≤ n)) 0x1002 512] with
      | none => s.fkSet h fun f => { f with writes := f.writes ++ [x] }
      | some c =>
        let s := s.fkSet h fun f => { f with st := .failed, fail := c, failIdx := n }
        match w with
        | .ten k => if c.code / 2 ^ 12 = 5 then s.countPermf k.val else s
        | .sys _ => s

/-! ### Commit (R49, Table 2.14) -/

/-- The trigger that a requester's fields name; `bad` fails check 3. -/
def fkTrig (s : State) (w : Who) : Trig :=
  let b := w.bank
  let ty := s.fgb b FK_TRIG_TYPE
  let ns := s.fgb b FK_TNS_NS
  if ty = 3 ∨ 999999999 < ns then .bad
  else if ty = 0 then .imm
  else if ty = 1 then .dcn (s.fgb b FK_TDCN_DCN)
  else .wall ((s.fgb b FK_TSEC_H_SEC_H * 2 ^ 32 + s.fgb b FK_TSEC_L_SEC_L) * Config.sec + ns * Config.grainsPerNs)

/-- Checks 3 to 5. -/
def trigFail (s : State) (t : Trig) : Option Rc :=
  let late := decide (s.instOf t < s.now + s.spanLen)
  match t with
  | .bad => some ⟨0x1003, 0⟩
  | .imm => none
  | .dcn n => if !s.wtValid then some ⟨0x6009, 0⟩ else if late || !dcnFuture n s.dcn then some ⟨0x6001, 0⟩ else none
  | .wall _ => if !s.wtValid then some ⟨0x6009, 0⟩ else if late then some ⟨0x6001, 0⟩ else none

/-- Index of the first write that satisfies `p`. -/
def firstWrite (ws : List SWrite) (p : SWrite → Bool) : Option Nat := findIdx? ws p

/-- Check 6: a cycle-bound field of a page that is enabled just before, without a DCN trigger. -/
def cycleFail (pre : Regs) (t : Trig) (ws : List SWrite) : Option Rc := match t with
  | .dcn _ => none
  | _ => (firstWrite ws fun w => enabledR pre w.page && decide (0x40 ≤ w.off) && (match anyRegAt w.page w.off with
      | some g => touchesCls g.flds w.mask .cycle
      | none => false)).map fun i => ⟨0x6008, i⟩

/-- Check 7: a pending firkin of the same instant writes a register of this one; the copies that two requesters have of a banked register
count as one register (DESIGN CHOICE, log entry 63). -/
def clashFail (s : State) (at_ : Nat) (ws : List SWrite) : Option Rc :=
  let theirs := (s.pendFks.filter fun f => s.instOf f.trig == at_).flatMap (·.writes)
  (firstWrite ws fun w => theirs.any fun x => x.page == w.page && x.off == w.off).map fun i => ⟨0x6002, i⟩

/-- Checks 3 to 9 of a commit. -/
def commitVerdict (s : State) (f : Firkin) : Verdict :=
  let x : FStep := ⟨s.instOf f.trig, s.fab.fkOrder, f.writes, f.who, f.h, true, f.trig⟩
  let l := s.futStates (some x) none
  let pre := (l.head?.map (·.pre)).getD s.regs
  match firstOf [s.trigFail f.trig, cycleFail pre f.trig f.writes, s.clashFail x.at_ f.writes] with
  | some c => ⟨some c, none, f.h, none⟩
  | none => s.verify l f.writes

/-- A page whose check failed keeps the code (Table 2.10). -/
def noteReason (s : State) (p : Option Nat) (c : Rc) : State := match p with
  | some p => s.fs (hREASON p) (c.code * 2 ^ 16 + c.detail % 2 ^ 16)
  | none => s

/-- What an admission run leaves (R118). -/
def noteAdm (s : State) (v : Verdict) (kind page handle : Nat) : State := match v.adm with
  | some r => s.admReport r kind page handle
  | none => s

/-- COMMIT of handle `h` (Table 2.13). -/
def fkCommit (s : State) (w : Who) (h : Nat) : State := match s.fk? h with
  | none => s.fkRes w ⟨0x6007, h⟩
  | some f =>
    if !fkMine w f then s.fkRes w ⟨0x6007, h⟩
    else if f.st = .failed then (s.fkFree h).fkRes w f.fail
    else if f.st = .open_ then
      let t := s.fkTrig w
      s.fkSet h fun f => { f with st := .checking, trig := t }
    else s.fkRes w ⟨0x6007, h⟩

/-- The checks of handle `h` complete. -/
def fkChecked (s : State) (h : Nat) : State := match s.fk? h with
  | none => s
  | some f =>
    if f.st ≠ .checking then s
    else
      let v := s.commitVerdict f
      let s := s.noteAdm v 1 0 h
      match v.err with
      | some c => ((s.noteReason v.page c).fkFree h).fkRes f.who c
      | none =>
        let s := s.fkSet h fun f => { f with st := .pending, order := s.fab.fkOrder, since := s.now }
        let s := s.modFab fun b => { b with fkOrder := b.fkOrder + 1 }
        s.fkRes f.who (if f.trig = .imm then ⟨0, 0⟩ else ⟨0x0001, h⟩)

/-- ABORT, RENEW (Table 2.13). -/
def fkAbort (s : State) (w : Who) (h : Nat) : State := match s.fk? h with
  | some f => if fkMine w f && (f.st == .open_ || f.st == .failed) then (s.fkFree h).fkRes w ⟨0, 0⟩ else s.fkRes w ⟨0x6007, h⟩
  | none => s.fkRes w ⟨0x6007, h⟩

/-- RENEW. -/
def fkRenew (s : State) (w : Who) (h : Nat) : State := match s.fk? h with
  | some f =>
    if fkMine w f && (f.st == .open_ || f.st == .failed) then
      if s.fgb w.bank FK_LEASE_MS = 0 then s.fkRes w ⟨0x1001, 0⟩
      else (s.fkSet h fun f => { f with leaseEnd := s.fkLeaseEnd w }).fkRes w ⟨0, 0⟩
    else s.fkRes w ⟨0x6007, h⟩
  | none => s.fkRes w ⟨0x6007, h⟩

/-- The first later pending firkin that would fail checks 6, 8 or 9 without firkin `h` (R52). -/
def cancelFail (s : State) (h : Nat) : Option Nat :=
  (s.futStates none (some h)).findSome? fun f =>
    let adm := if f.step.ws.any (fun w => entersAdm w.page w.off w.mask) then (s.stateAdmit f).1 else none
    (firstOf [cycleFail f.pre f.step.trig f.step.ws, (s.stateFail [] f).map (·.2), adm]).map fun _ => f.step.h

/-- CANCEL (R52): every later pending firkin must pass without this one. The owner may cancel any. -/
def fkCancel (s : State) (w : Who) (h : Nat) : State := match s.fk? h with
  | some f =>
    if (fkMine w f || (w.isT0 && !f.auto)) && f.st == .pending then
      match s.cancelFail h with
      | some x => s.fkRes w ⟨0x6002, x⟩
      | none => (s.fkFree h).fkRes w ⟨0, 0⟩
    else s.fkRes w ⟨0x6007, h⟩
  | none => s.fkRes w ⟨0x6007, h⟩

/-! ### Application (R50) -/

/-- Pages that writes touch, each once. -/
def touched (ws : List SWrite) : List Nat := (ws.map (·.page)).eraseDups

/-- ENABLE of page `p` has been applied: the unit starts or stops at this boundary; WIRE waits for a cycle boundary (R206). -/
def enableApplied (s : State) (p : Nat) (atCycle : Bool) : State :=
  if !pageHasUnit p then s
  else
    let drop (l : List Nat) : List Nat := l.filter (· != p)
    let s := s.modFab fun f => { f with checking := drop f.checking, starting := drop f.starting, stopping := drop f.stopping }
    if enabledR s.regs p then
      let s := s.fs (hREFUSED p) 0
      if p = pgWIRE ∧ !atCycle ∧ s.cycles = true ∧ !s.active p then s.modFab fun f => { f with starting := f.starting ++ [p] }
      else s.unitOn p
    else s.unitOff p

/-- Writes take effect together (R50): windows bind last, to sources as the firkin leaves them (R135). `atCycle`: the boundary is a display-cycle start. -/
def applyWrites (s0 : State) (who : Who) (h : Nat) (ws : List SWrite) (atCycle : Bool) : State :=
  let boot := s0.bootRegs
  let resets := (ws.filter SWrite.resets).map (·.page)
  let s := resets.foldl State.pageResetNow s0
  let s := { s with regs := putWrites boot who s.regs (liveWrites ws) }
  let s := (ws.filter (SWrite.half ws)).foldl (fun s w => s.keepHalf (pathKey who none) w.page w.data) s
  let ctl := (((liveWrites ws).filter fun w => w.off == 0x008).map (·.page)).eraseDups
  let act (s : State) (win : Bool) : State :=
    let s := (ctl.filter fun p => (p == pgWIN) == win).foldl (fun s p => (s.enableApplied p atCycle).showHeld p) s
    ((liveWrites ws).filter fun w => (w.page == pgWIN) == win &&
      !(ctl.contains w.page && pageHasUnit w.page && s0.active w.page != s.active w.page)).foldl
      (fun s w => effect s0 s who.bank w.feed w.page w.off w.data w.mask true) s
  let s := act (act s false) true
  let s := if (ws.any fun w => mapReg w.page w.off) && s0.active pgWIRE && s.active pgWIRE then s.mapChanged
    else if (liveWrites ws).any fun w => w.page == pgCORR && s.corrReleases w.off then s.blendRelease false
    else s
  let s := (touched ws).foldl (fun s p =>
    let s := s.fs (hGEN p) (add32 (s.fg (hGEN p)) 1)
    if bit (s.fg (hEVENT p)) 2 then s.ev p 0x0002 h kFirkin 0 else s) s
  s.pairsApplied ws

/-- A pending firkin is applied and its handle freed. -/
def fkApply (s : State) (f : Firkin) (atCycle : Bool) : State :=
  (s.applyWrites f.who f.h f.writes atCycle).fkFree f.h

/-- The application instant of a pending firkin has come at this boundary: for an immediate one, the first after its checks. -/
def fkDue (s : State) (f : Firkin) (dcns : List Nat) : Bool := f.st == .pending && (match f.trig with
  | .imm => decide (f.since < s.now)
  | .wall t => decide (s.grainOf t ≤ s.now)
  | .dcn n => dcns.contains n
  | .bad => false)

/-- Earliest accepted of the firkins that are due. -/
def fkFirst (s : State) (dcns : List Nat) : Option Firkin :=
  (s.fab.fks.filter fun f => s.fkDue f dcns).foldl (fun b f => match b with
    | some y => if f.order < y.order then some f else some y
    | none => some f) none

/-- Every firkin that is due is applied, in the order in which the commits were accepted. -/
def fkApplyDue (s : State) (dcns : List Nat) (atCycle : Bool) : Nat → State
  | 0 => s
  | n + 1 => match s.fkFirst dcns with
    | some f => (s.fkApply f atCycle).fkApplyDue dcns atCycle n
    | none => s

/-- Firkins that are due are applied in the order of acceptance, up to and with handle `h`. -/
def fkApplyTo (s : State) (dcns : List Nat) (atCycle : Bool) (h : Nat) : Nat → State
  | 0 => s
  | n + 1 => match s.fkFirst dcns with
    | some f => if f.h = h then s.fkApply f atCycle else (s.fkApply f atCycle).fkApplyTo dcns atCycle h n
    | none => s

/-- The present grain is a span boundary: the start of the span in progress, or without cycles a multiple of 32 grains. -/
def atSpan (s : State) : Bool := s.lastBoundary == s.now

/-- The present grain is the start of the display cycle in progress. -/
def atCycle (s : State) : Bool := s.tim.running && s.atSpan && s.scan.inCycle && s.scan.sweep == 0 && s.scan.span == 0

/-- A pending firkin's instant has passed without a boundary: discarded, told to its tenant (Table 2.13, R109). -/
def fkLapse (s : State) (f : Firkin) : State := (s.fkFree f.h).evTo f.who.slot pgFIRKIN 0x6001 0 kFirkin f.h

/-! ### Firkins of the device's own (R415) -/

/-- Stage, check and apply at once a firkin on the system's own account. `lifted`: the count limit is lifted (R361). Its writes are staged
as the owner's or the system's, whichever may make them. The failure, with the page of a failed check. -/
def autoFirkin (s : State) (ws : List SWrite) (lifted : Bool) : State × Option Rc :=
  let who : Who := .sys 0
  match firstOf [ws.findSome? fun x => if (s.stageFail s.regs (.ten 0) x).isNone then none else s.stageFail s.regs who x, failIf (!lifted && decide (Config.maxStaged < ws.length)) 0x1002 512] with
  | some c => (s, some c)
  | none =>
    let v := s.verify [⟨⟨s.now, 0, ws, who, 0, true, .imm⟩, s.regs, putWrites s.bootRegs who s.regs ws⟩] ws
    let s := s.noteAdm v 1 0 0
    match v.err with
    | some c => (s.noteReason v.page c, some c)
    | none => (s.applyWrites who 0 ws true, none)

end State

/-! ### Commands -/

/-- A write of FK_CMD (Table 2.27). -/
def hFkCmd : Handler := fun s w _ _ _ data =>
  let h := bitsOf data 14 8
  .ok (match bitsOf data 3 0 with
    | 1 => s.fkOpen w
    | 2 => s.fkCommit w h
    | 3 => s.fkAbort w h
    | 4 => s.fkRenew w h
    | _ => s.fkCancel w h)

/-- A write of FK_SDATA. -/
def hFkData : Handler := fun s w _ _ _ data => .ok (s.fkStage w data)

/-- A write of FK_CMD with an operation and a handle. -/
def fkCmd (s : State) (a : Sys2Proof.Access) (op h : Nat) : State :=
  direct s.begin_ a (regAddr pgFIRKIN FK_CMD.off) (h % 128 * 256 + op) hFkCmd

/-- OPEN (R47). -/
def execOpen (a : Sys2Proof.Access) (s : State) : Ans State := .next (fkCmd s a 1 0)
/-- STAGE_WRITE (R48): a write of FK_SDATA. -/
def execStageWrite (a : Sys2Proof.Access) (data : Word) (s : State) : Ans State :=
  .next (direct s.begin_ a (regAddr pgFIRKIN FK_SDATA.off) data.toNat hFkData)
/-- COMMIT (R49): the trigger is read and the checks start. -/
def execCommit (a : Sys2Proof.Access) (h : Nat) (s : State) : Ans State := .next (fkCmd s a 2 h)
/-- ABORT (Table 2.13). -/
def execAbort (a : Sys2Proof.Access) (h : Nat) (s : State) : Ans State := .next (fkCmd s a 3 h)
/-- RENEW (R52). -/
def execRenew (a : Sys2Proof.Access) (h : Nat) (s : State) : Ans State := .next (fkCmd s a 4 h)
/-- CANCEL (R52). -/
def execCancel (a : Sys2Proof.Access) (h : Nat) (s : State) : Ans State := .next (fkCmd s a 5 h)
/-- COMMIT_CHECKS_DONE (R49, Table 2.14). -/
def execCommitChecksDone (h : Nat) (s : State) : Ans State := .next (s.begin_.fkChecked h)

/-- FIRKIN_LEASE_EXPIRE (R52, Table 2.13): the lease of an OPEN or FAILED handle ends. -/
def execFirkinLeaseExpire (h : Nat) (s0 : State) : Ans State :=
  let s := s0.begin_
  .next (match s.fk? h with
    | some f => if f.st = .open_ ∨ f.st = .failed then (s.advance f.leaseEnd).fkDrop fun x => x.h == h else s
    | none => s)

/-- FIRKIN_APPLY (R50): handle `h` at its application instant, and before it the firkins due there that were accepted earlier. Without
cycles time goes on to that instant; while cycles run it is a boundary that is being passed, the grain at which the span in progress
started (DESIGN CHOICE, log entry 64). -/
def execFirkinApply (h : Nat) (s0 : State) : Ans State :=
  let s := s0.begin_
  .next (match s.fk? h with
    | some f =>
      let s := if s.tim.running || f.st != .pending then s else match f.trig with
        | .imm => s.advance (s.nextBoundary (max s.now (f.since + 1)))
        | .wall t => s.advance (s.nextBoundary (max s.now (s.grainOf t).toNat))
        | _ => s
      let dcns := if s.atCycle then [s.dcn] else []
      if s.atSpan && s.fkDue f dcns then s.fkApplyTo dcns s.atCycle h s.fab.fks.length else s
    | none => s)

/-- FIRKIN_INSTANT_PASSED (Table 2.13, R109): a DCN or wall-time instant passes while no span boundary is generated. -/
def execFirkinInstantPassed (h : Nat) (s0 : State) : Ans State :=
  let s := s0.begin_
  .next (match s.fk? h with
    | some f =>
      if f.st = .pending ∧ f.trig ≠ .imm ∧ !s.cycles = true then
        (match f.trig with
          | .wall t => s.advance (s.grainOf t).toNat
          | _ => s).fkLapse f
      else s
    | none => s)

end Sys2Proof.Machine
end

