-- ==== Sys2Proof/Machine/Restart.lean ====
section
/-! DEFINITION. Restarts through TRIM (Table 2.25, R361, R363): what a cold reset, PORN and a wake from SLEEP keep, and what is loaded
again from straps, OTP and flash (R312, R319, R322, R332, R339). -/

namespace Sys2Proof.Machine

namespace State

/-- Change the update state. -/
def modUpd (s : State) (f : UpdSt → UpdSt) : State := { s with upd := f s.upd }

/-- SLOT_BOOT and SLOT_SEQ show the boot record in use (R332). -/
def showBoot (s : State) : State := match s.upd.brec with
  | none => s
  | some b =>
    let s := ((s.fs SLOT_BOOT_ACT b.active).fs SLOT_BOOT_FBVALID (b2n b.fbvalid)).fs SLOT_BOOT_PENDCOMP (b2n b.pendcomp)
    (s.fs SLOT_BOOT_BUNDLE b.bundle).fs SLOT_SEQ_SEQ b.seq

/-- Pieces of an update of `len` bytes. -/
def piecesOf (len : Nat) : Nat := ceilDiv len 4096

/-- UPD_RCVD follows the bitmap. -/
def showRcvd (s : State) : State := (s.fs UPD_RCVD_TOTAL (piecesOf s.upd.len)).fs UPD_RCVD_DONE s.upd.got.length

/-- SLOT_INFO or SLOT_BND of the update's target (Tables 16.15, 16.16): a volatile bundle and a DRAM image have none. -/
def targetState (s : State) (v : Nat) : State :=
  if s.upd.kind = 0 then s.fsk SLOT_INFO_STATE 0 s.upd.target v
  else if s.upd.kind = 1 then s.fsk SLOT_BND_STATE 0 s.upd.target v
  else s

/-- The bundle area that is not active: 0 BA, 1 BB. -/
def targetArea (s : State) : Nat := if s.fg SLOT_BOOT_BUNDLE = 1 then 1 else 0

/-- The boot record and the piece journal are read at a power-up (R332, R339): the update resumes, and the active bundle's area shows it. A record
names no slot: that of a slot image is known once a slot runs. -/
def updLoad (s : State) : State :=
  let s := s.showBoot
  let s := match s.upd.brec with
    | some b => if b.bundle = 0 then s else (s.fsk SLOT_BND_STATE 0 (b.bundle - 1) 3).fsk SLOT_BID_BID 0 (b.bundle - 1) b.bid
    | none => s
  match s.upd.jrec with
  | none => s
  | some j =>
    let all := decide (piecesOf j.len ≤ j.got.length)
    let target := if j.kind = 1 then s.targetArea else 2
    let s := s.modUpd fun u => { u with kind := j.kind, target := target, upid := j.upid, len := j.len, got := j.got }
    let s := ((s.fs UPD_STAT_KIND j.kind).fs UPD_STAT_STATE (if all then 2 else 1)).showRcvd
    if j.kind = 1 then s.targetState (if all then 2 else 1) else s

/-- Copy register `off` of `page` from another state. -/
def keepReg (s old : State) (page off : Nat) : State := s.setReg page off (old.reg page off)

/-- Registers that AON holds, and in SEC the last SCTR of each slot and what a debug opening left (R361, R313, R324). -/
def keepAon (s old : State) : State :=
  let s := ((s.keepReg old pgSYS SYS_STRAP.off).keepReg old pgRST RST_COUNT.off).keepReg old pgPWRDOM PD_BOD.off
  let s := ((s.keepReg old pgPWRDOM PD_WAKESRC.off).keepReg old pgTHERM TH_PEAK.off).keepReg old pgDBG DBG_SCOPE.off
  let s := (s.fs TH_CNT_SHUTDOWNS (old.fg TH_CNT_SHUTDOWNS)).fs OSEC_LC_DEBUGGED (old.fg OSEC_LC_DEBUGGED)
  (List.range 16).foldl (fun s n => s.fsk KS_SCTR_SCTR 0 n (old.fgk KS_SCTR_SCTR 0 n)) s

/-- The state at reset with what flash, OTP and the pins hold. -/
def bare (old : State) : State :=
  { State.reset with
    now := old.now, outs := old.outs, freeCtr := old.freeCtr, pending := old.pending,
    fab := { State.reset.fab with pausedAt := old.now }, lnk := { State.reset.lnk with fctr := old.lnk.fctr },
    sec := { State.reset.sec with blocks := old.sec.blocks, arb := old.sec.arb, cfgs := old.sec.cfgs },
    trim := { State.reset.trim with blocks := old.trim.blocks },
    upd := { State.reset.upd with brec := old.upd.brec, jrec := old.upd.jrec },
    sup := { State.reset.sup with sfltn := old.sup.sfltn },
    pow := { State.reset.pow with vddLow := old.pow.vddLow, tripped := old.pow.tripped } }

/-- What is loaded before TRIM ends: straps, OTP, counters, the enrolment store, boot record and journal. -/
def loads (s : State) : State := s.strapLoad.otpLoad.arbLoad.storeLoad.updLoad

/-- The half-arrays serve once their domains have power. -/
def halvesUp (s : State) : State := (s.fs PIX_HALF_A (b2n (s.powered 5))).fs PIX_HALF_B (b2n (s.powered 6))

/-- A cold reset with a cause (Table 2.25): every domain restarts; straps are not sampled again. -/
def coldReset (old : State) (cause : Nat) : State :=
  let s := old.bare.keepAon old
  let s := s.modSec fun x => { x with storeLock := old.sec.storeLock, transfer := old.sec.transfer }
  let s := (s.modPow fun p => { p with bootFails := old.pow.bootFails }).loads
  ((s.fs RST_CAUSE_CAUSE cause).inc RST_COUNT_COLD 0 1).halvesUp

/-- PORN rises (R363, R388): straps are sampled, and the domains power up from SEC on. -/
def pornReset (old : State) (straps : Nat) : State :=
  let s := (old.bare.fs SYS_STRAP_CFG straps).loads
  (s.fs PD_ACT_DOM 1).modPow fun p => { p with powering := [1] }

/-- Sessions that SEC kept: each is ACTIVE again with its command window (R361). -/
def keepSession (old s : State) (n : Nat) : State :=
  if old.tst n = tACTIVE ∧ s.tst n ≠ tEMPTY then
    let s := (s.setTst n tACTIVE).fsi TEN_STATE_VIA_LINK n (old.fgi TEN_STATE_VIA_LINK n)
    let s := (s.fsi TEN_STATE_VIA_SPIA n (old.fgi TEN_STATE_VIA_SPIA n)).keepReg old (pgTEN + n) TEN_SEQ.off
    s.modTen n fun _ => { nth old.tens n Ten.empty with evq := EvQ.empty, toQuar := false, cause := 0 }
  else s

/-- Registers of a page, in every bank. -/
def keepPage (s old : State) (p : Nat) : State :=
  { s with regs := (old.regs.filter fun x => x.1 / 2 ^ 12 % 2 ^ 8 == p).foldl (fun r x => cput r x.1 x.2 (regDflt x.1)) s.regs }

/-- DRAM in self-refresh stays, with its density and the training saved for it (R270). -/
def keepDram (s old : State) : State :=
  if old.memState = 3 then
    let s := (({ s with mem := old.mem }.keepPage old pgMEMPHY).fs MEMC_STAT_STATE 3).fs MEMC_SIZE_MB (old.fg MEMC_SIZE_MB)
    s.fs MEMC_CFG_DENSITY (old.fg MEMC_CFG_DENSITY)
  else s

/-- A wake from SLEEP (R360, R361): the domains but AON and SEC restart; no straps are sampled, RST_CAUSE stays. The handles discarded at
entry are told once register access is back (Table 2.13). -/
def wakeReset (old : State) (src : Nat) : State :=
  let s := (old.bare.keepAon old).keepReg old pgRST RST_CAUSE.off
  let s := { s with sec := old.sec, keys := old.keys, fab := { s.fab with pausedAt := old.fab.pausedAt, fkLost := old.fab.fkLost } }
  let s := ((s.keepPage old pgOSEC).keepPage old pgKEYST).keepDram old
  let s := (s.modPow fun p => { p with bootFails := old.pow.bootFails, image := old.pow.image, powering := [2] }).loads
  let s := (List.range 16).foldl (keepSession old) s
  let s := (s.fs PD_ACT_DOM 3).inc PD_WAKESRC_WAKES 0 1
  let s := (s.fs PD_WAKESRC_SRC src).ev pgSYS 0x0010 1 kInfo 0
  s.ev pgPWRDOM 0x0011 src kInfo 0

end State

end Sys2Proof.Machine
end

