-- ==== Sys2Proof/Machine/Reset.lean ====
section
/-! DEFINITION. Resets below a cold reset (R55, Table 2.25): the management pair's stop and return, half-array resets, the watchdog,
lockstep (R371), and debug: halts of cores (R372, Table 17.8) and the TAP (R373). -/

namespace Sys2Proof.Machine

/-- PIX_HALF of a half-array. -/
def halfRef (b : Bool) : FRef := if b then PIX_HALF_B else PIX_HALF_A

namespace State

/-! ### Half-arrays -/

/-- A half-array stops serving: 2 reset, 3 reloading. The other half carries every slice of the jobs in flight (Table 2.25). -/
def halfOut (s : State) (b : Bool) (code : Nat) : State := (s.fs (halfRef b) code).blendHalf

/-- A half-array serves again. -/
def halfIn (s : State) (b : Bool) : State := s.fs (halfRef b) 1

/-- A half-array whose reset has ended serves again, unless a halt holds it. -/
def halfBack (s : State) (b : Bool) : State :=
  if s.fg (halfRef b) = 2 ∧ !bit (s.fg DBG_STAT_HALTED) (if b then 3 else 2) = true then s.halfIn b else s

/-- The whole array stops to reload (Table 16.8): jobs in flight are lost and released again. -/
def arrayStop (s : State) : State :=
  let jobs := s.pix.jobs
  let s := s.modPix fun p => { p with jobs := [] }
  let s := jobs.foldl (fun s j => if j.drop then s else s.releaseFor j.win j.inp.srcNew j.inp.ovlNew) s
  (s.halfOut false 3).halfOut true 3

/-! ### The management pair -/

/-- The pair and the fabric stop: register access is unavailable, OPEN and FAILED handles are freed, snapshots and half-written wide
values are gone (Table 2.25). -/
def mgmtStop (s : State) : State :=
  (s.pauseAccess.fkDrop fun _ => true).modFab fun f => { f with latches := [], wide := [] }

/-- A pause activation is under way, or the rest of a broken handover (R343, R345). -/
def actPaused (s : State) : Bool := s.fg UPD_STAT_STATE == 5 && s.upd.stage == 0

/-- A management pair reset ends a handover: the activation goes on as a pause activation (R345). -/
def handoverBreak (s : State) : State :=
  if s.upd.stage = 0 then s else (s.modUpd fun u => { u with stage := 0, actAt := s.now }).arrayStop

/-- The management pair reset of Table 2.25 with a cause. -/
def mgmtReset (s : State) (cause : Nat) : State :=
  (s.mgmtStop.handoverBreak.fs RST_CAUSE_CAUSE cause).inc RST_COUNT_MGMT 0 1

/-- Register access is unavailable because of a management pair reset, and not for another reason. -/
def mgmtDown (s : State) : Bool :=
  !s.fab.access && s.pow.trimDone && s.mode != .sleep && !s.pow.sleeping && !bit (s.fg DBG_STAT_HALTED) 0 && !s.actPaused &&
    s.upd.stage != 5

/-- The end of a management pair reset: access returns, the watchdog count restarts, the lockstep event is raised (R55, R371). -/
def mgmtUp (s : State) : State :=
  let s := s.restoreAccess.modFab fun f => { f with wdogAt := s.now }
  if s.fab.lockEv then (s.modFab fun f => { f with lockEv := false }).ev pgFAULT 0x7014 0 kFault 0 else s

/-- The watchdog expires (R55); its count is paused while register access is unavailable. -/
def watchdog (s : State) : State :=
  let t := s.fg RST_WDOG_TIMEOUT
  if t = 0 ∨ !s.fab.access then s else (s.advance (s.fab.wdogAt + t * Config.ms)).mgmtReset 6

/-- The compare unit finds a mismatch (R371). -/
def lockstep (s : State) : State :=
  if s.powered 2 ∧ !bit (s.fg DBG_STAT_HALTED) 0 = true then
    let s := (s.mgmtReset 5).inc FLT_LOCK_COUNT 0 1
    s.modFab fun f => { f with lockEv := true }
  else s

/-! ### Debug halts (R372, Table 17.8) -/

/-- Set or clear a bit of DBG_STAT.HALTED. -/
def setHalted (s : State) (b : Nat) (on : Bool) : State := s.fs DBG_STAT_HALTED (putBits (s.fg DBG_STAT_HALTED) b b (b2n on))

/-- Core `b` halts. -/
def haltCore (s : State) (b : Nat) : State :=
  let s := (s.setHalted b true).ev pgDBG 0x0F10 b kInfo b
  match b with
  | 0 => s.pauseAccess
  | 1 => s.haltSupply
  | 2 => s.halfOut false 2
  | 3 => s.halfOut true 2
  | _ => s

/-- Core `b` resumes. The watchdog count goes on from where it stopped. -/
def resumeCore (s : State) (b : Nat) : State :=
  let s := (s.setHalted b false).ev pgDBG 0x0F11 b kInfo b
  match b with
  | 0 =>
    if s.actPaused then s
    else
      let d := s.now - s.fab.pausedAt
      (s.modFab fun f => { f with wdogAt := f.wdogAt + d }).restoreAccess
  | 1 => s.resumeSupply
  | 2 => if s.fg PIX_HALF_A = 2 then s.halfIn false else s
  | 3 => if s.fg PIX_HALF_B = 2 then s.halfIn true else s
  | _ => s

/-- Cores follow DBG_HALT. -/
def haltWritten (s : State) : State :=
  (List.range 5).foldl (fun s b =>
    let want := bit (s.fg DBG_HALT_HALT) b
    let is := bit (s.fg DBG_STAT_HALTED) b
    if want && !is then s.haltCore b else if is && !want then s.resumeCore b else s) s

/-! ### The TAP (R373) -/

/-- Another instruction than EXTEST ends EXTEST. -/
def tapOther (s : State) : State := s.fs DBG_STAT_EXTEST 0

/-- The bypass bit: TDI comes out one shift later. -/
def tapBypass (s : State) (tdi : Bool) : State :=
  (s.tapOther.emit (.tap (b2n s.pow.tapHold) 1)).modPow fun p => { p with tapHold := tdi }

/-- EXTEST: with scope [4] open, in SERVICE with SUPPLY disabled, else as BYPASS. Sinks and rows stay dark. -/
def tapExtest (s : State) (tdi : Bool) : State :=
  if !bit (s.fg DBG_SCOPE_SCOPE) 4 then s.tapBypass tdi
  else if s.mode ≠ .service ∨ enabledR s.regs pgSUPPLY = true then (s.tapBypass tdi).ev pgDBG 0x2F10 0 kRefusal 0
  else
    let s := (s.fs DBG_STAT_EXTEST 1).emit (.pins s.pow.tapPins)
    s.modScan fun x => { x with placed := x.placed.map PSink.dark, driven := false, drive := none }

end State

/-! ### Commands -/

/-- A write of RST_CMD (R55): KEY is tested before ACTION. A cold reset returns PG_GEN to 0. -/
def hRstCmd : Handler := fun s _ p _ _ data =>
  if bitsOf data 31 16 ≠ 0x7A5E then .error ⟨0x5002, 0⟩
  else match bitsOf data 3 0 with
    | 1 => .ok ((s.coldReset 3).fs (hGEN p) (2 ^ 32 - 1))
    | 2 => .ok (s.mgmtReset 4)
    | 3 => .ok (s.halfOut false 2)
    | 4 => .ok (s.halfOut true 2)
    | _ => .error ⟨0x1003, 0⟩

/-- A write of RST_KICK. -/
def hKick : Handler := fun s _ _ _ _ data =>
  .ok (if data % 2 = 1 then s.modFab fun f => { f with wdogAt := s.now } else s)

/-- A write of DBG_HALT: a bit that would halt a core outside the scope is refused. -/
def hDbgHalt : Handler := fun s w p o g data =>
  match (List.range 5).find? fun b => bit data b && !bit (s.fg DBG_STAT_HALTED) b && !bit (s.fg DBG_SCOPE_SCOPE) b with
  | some b => .error ⟨0x5F10, b⟩
  | none => .ok (storeReg s w p o g data).haltWritten

/-- A write of RST_CMD with an action. -/
def rstCmd (s : State) (a : Sys2Proof.Access) (act : Nat) : State :=
  direct s.begin_ a (regAddr pgRST RST_CMD.off) (0x7A5E0000 + act) hRstCmd

/-- COLD_RESET (R55, Table 2.25). -/
def execColdReset (a : Sys2Proof.Access) (s : State) : Ans State := .next (rstCmd s a 1)
/-- MANAGEMENT_PAIR_RESET (R55, Table 2.25, R345). -/
def execManagementPairReset (a : Sys2Proof.Access) (s : State) : Ans State := .next (rstCmd s a 2)
/-- PIXA_RESET (R55, Table 2.25). -/
def execPixaReset (a : Sys2Proof.Access) (s : State) : Ans State := .next (rstCmd s a 3)
/-- PIXB_RESET (R55, Table 2.25). -/
def execPixbReset (a : Sys2Proof.Access) (s : State) : Ans State := .next (rstCmd s a 4)
/-- KICK (R55). -/
def execKick (a : Sys2Proof.Access) (s : State) : Ans State := .next (direct s.begin_ a (regAddr pgRST RST_KICK.off) 1 hKick)
/-- WATCHDOG_EXPIRE (R55). -/
def execWatchdogExpire (s : State) : Ans State := .next s.begin_.watchdog
/-- REGISTER_ACCESS_RESTORED (R55, R69, Table 2.25). -/
def execRegisterAccessRestored (s0 : State) : Ans State :=
  let s := s0.begin_
  .next (if s.mgmtDown then s.mgmtUp else s)
/-- LOCKSTEP_MISMATCH (R371). -/
def execLockstepMismatch (s : State) : Ans State := .next s.begin_.lockstep

/-- A write of DBG_HALT that sets or clears one bit. -/
def dbgHalt (s : State) (a : Sys2Proof.Access) (core : Nat) (on : Bool) : State :=
  direct s.begin_ a (regAddr pgDBG DBG_HALT.off) (putBits (s.fg DBG_HALT_HALT) core core (b2n on)) hDbgHalt

/-- HALT (R372, Table 17.8). -/
def execHalt (a : Sys2Proof.Access) (core : Fin 5) (s : State) : Ans State := .next (dbgHalt s a core.val true)
/-- RESUME (R372, Table 17.8). -/
def execResume (a : Sys2Proof.Access) (core : Fin 5) (s : State) : Ans State := .next (dbgHalt s a core.val false)
/-- BYPASS (R373). -/
def execBypass (tdi : Bool) (s : State) : Ans State := .next (s.begin_.tapBypass tdi)
/-- IDCODE (R373): DBG_IDCODE is shifted out. -/
def execIdcode (s0 : State) : Ans State :=
  let s := s0.begin_.tapOther
  .next (s.emit (.tap (s.reg pgDBG DBG_IDCODE.off) 32))
/-- SAMPLE_PRELOAD (R373): the pins are shifted out and the boundary register takes what is shifted in. -/
def execSamplePreload (pins preload : Nat) (s0 : State) : Ans State :=
  let s := s0.begin_.tapOther
  .next ((s.emit (.tap pins 0)).modPow fun p => { p with tapPins := preload })
/-- EXTEST (R373). -/
def execExtest (tdi : Bool) (s : State) : Ans State := .next (s.begin_.tapExtest tdi)

end Sys2Proof.Machine
end

