-- ==== Sys2Proof/Machine/Update.lean ====
section
/-! DEFINITION. Firmware and configuration update (R331 to R354): boot records, pieces and their journal, arming, activation by pause and
by handover, companions, configuration bundles, and the boot of a slot with fallback and RECOVERY (R348, R349). -/

namespace Sys2Proof.Machine

namespace State

/-! ### Results, states and slots -/

/-- UPD_RES. -/
def updRes (s : State) (c : Rc) : State := (s.fs UPD_RES_CODE c.code).fs UPD_RES_DETAIL c.detail

/-- The result of a command of requester `w`; a refusal with family 5 counts (R63). -/
def updCmdRes (s : State) (w : Who) (c : Rc) : State :=
  let s := s.updRes c
  match w with
  | .ten n => if c.code / 2 ^ 12 = 5 then s.countPermf n.val else s
  | .sys _ => s

/-- UPD_STAT.STATE: 0 IDLE, 1 RECEIVING, 2 COMPLETE, 3 ARMING, 4 ARMED, 5 ACTIVATING, 6 APPLYING. -/
def updState (s : State) : Nat := s.fg UPD_STAT_STATE

/-- Set UPD_STAT.STATE. -/
def setUpd (s : State) (v : Nat) : State := s.fs UPD_STAT_STATE v

/-- UPD_STAT.PEND follows the pending commands. -/
def showPend (s : State) : State := s.fs UPD_STAT_PEND (b2n !s.upd.pend.isEmpty)

/-- An event of the update block. -/
def updEv (s : State) (code detail : Nat) : State := s.ev pgUPD code detail kInfo 0

/-- The slot that runs, or from which a DRAM image would fall back: the one the boot record names. -/
def runSlot (s : State) : Nat := if s.fg SLOT_BOOT_RUN ≤ 1 then s.fg SLOT_BOOT_RUN else s.fg SLOT_BOOT_ACT

/-- The slot an update of KIND 0 writes (R336, UPD_BEGIN.SLOT, R349). -/
def targetSlot (s : State) : Nat := if s.mode = .recovery then s.fg UPD_BEGIN_SLOT else 1 - s.runSlot

/-- Set SLOT_INFO.STATE of a slot. -/
def slotState (s : State) (k v : Nat) : State := s.fsk SLOT_INFO_STATE 0 k v

/-- What SLOT shows of a slot's verified manifest. -/
def showSlot (s : State) (k : Nat) (m : Manifest) : State :=
  let s := (s.fsk SLOT_INFO_NIMG 0 k m.images.length).fsk SLOT_BUILD_BUILD 0 k m.build
  s.fsk SLOT_MEAS_BYTES 0 k ((List.range 4).foldl (fun v i => v * 256 + nth m.meas i 0 % 256) 0)

/-- Program the next boot record (R332). -/
def bootRecord (s : State) (f : BootRec → BootRec) : State :=
  let old := s.upd.brec.getD ⟨0, 0, false, false, 0, 0⟩
  (s.modUpd fun u => { u with brec := some { f old with seq := add32 old.seq 1 } }).showBoot

/-- Write a piece journal record (R339); an ended update leaves a record that names none. -/
def journal (s : State) : State :=
  if !s.nvOk then s
  else if s.updState = 0 then s.modUpd fun u => { u with jrec := none, unj := 0, unjAt := none }
  else if s.upd.kind ≤ 1 then
    s.modUpd fun u => { u with jrec := some ⟨u.upid, u.kind, u.len, u.got⟩, unj := 0, unjAt := none }
  else s

/-! ### Pieces (R337, R338) -/

/-- Longest update of a KIND. -/
def kindMax (kind : Nat) : Nat := if kind = 1 then 16777216 else if kind = 2 then 134217728 else 12582912

/-- The refusals of BEGIN (Tables 16.12, 16.14); companions that are being served keep the update busy. -/
def beginFail (s : State) : Option Rc :=
  let kind := s.fg UPD_BEGIN_KIND
  let len := s.fg UPD_LEN_BYTES
  let st := s.updState
  if st = 1 ∨ (3 ≤ st ∧ st ≤ 6) ∨ (s.upd.pend.any fun a => !a.cfg) = true ∨ s.upd.comp.isSome = true then some ⟨0x4E10, 0⟩
  else if kind = 3 ∧ !s.loader = true then some ⟨0x1E03, 0⟩
  else if len = 0 then some ⟨0x1E01, 0⟩
  else if kindMax kind < len then some ⟨0x1E02, 0⟩
  else if kind = 0 ∧ len < 8192 then some ⟨0x1E03, 0⟩
  else if s.fg UPD_ID_UPID = 0 then some ⟨0x1E01, 0⟩
  else none

/-- BEGIN: an update is RECEIVING. -/
def updBegin (s : State) : State :=
  let kind := s.fg UPD_BEGIN_KIND
  let s := s.modUpd fun u => { u with
    kind := kind, target := if kind = 0 then s.targetSlot else if kind = 1 then s.targetArea else 2, upid := s.fg UPD_ID_UPID,
    len := s.fg UPD_LEN_BYTES, got := [], queue := [], unj := 0, unjAt := none }
  (((s.setUpd 1).fs UPD_STAT_KIND kind).fs UPD_STAT_COMP 0).showRcvd.targetState 1 |>.journal

/-- Piece `i` of the update has its bit. -/
def pieceGot (s : State) (i : Nat) : Bool := cget s.upd.got i false

/-- Its length is as the rule for its place says. -/
def pieceFits (s : State) (p : Piece) : Bool :=
  let n := piecesOf s.upd.len
  decide (p.index < n) && p.len == (if p.index + 1 = n then s.upd.len - 4096 * p.index else 4096)

/-- The refusals of a piece, in order (R337). `may`: the sender may; `count`: COUNT of its operation, none where it has none. -/
def pieceFail (s : State) (w : Who) (may : Bool) (count : Option Nat) (p : Piece) : Option Rc :=
  let dup := s.pieceGot p.index || s.upd.queue.any fun q => q.index == p.index
  if !may then some ⟨0x5E01, w.slot⟩
  else match p.malformed with
    | some o => some ⟨0x1E10, o⟩
    | none =>
      if (match count with | some c => c != 32 + p.len | none => false) then some ⟨0x1E10, 12⟩
      else if p.len = 0 then some ⟨0x1E01, 0⟩
      else if 4096 < p.len then some ⟨0x1E02, 0⟩
      else if !p.crcOk then some ⟨0x1E11, p.index % 2 ^ 16⟩
      else if s.updState ≠ 1 ∨ p.kind ≠ s.upd.kind ∨ p.upid ≠ s.upd.upid then some ⟨0x2E10, 0⟩
      else if !s.pieceFits p then some ⟨0x1E02, 0⟩
      else if dup then none
      else if 64 ≤ s.upd.queue.length then some ⟨0x4E10, 0⟩
      else if p.kind ≤ 1 ∧ (1840 < s.dieNow ∨ s.pow.shut = true) then some ⟨0x4C13, 0⟩
      else if p.kind ≤ 1 ∧ s.pow.vddLow = true then some ⟨0x4C14, 0⟩
      else none

/-- A piece arrives: its result and what it leaves. -/
def pieceTake (s : State) (w : Who) (may : Bool) (count : Option Nat) (p : Piece) : State × Rc :=
  match s.pieceFail w may count p with
  | some c => (if c.code = 0x1E11 then s.inc UPD_CNT_CRCFAIL 0 1 else s, c)
  | none =>
    let s := s.inc UPD_CNT_ACCEPTED 0 1
    if s.pieceGot p.index || s.upd.queue.any fun q => q.index == p.index then (s.inc UPD_CNT_DUP 0 1, ⟨0, 0⟩)
    else (s.modUpd fun u => { u with queue := u.queue ++ [p], prog := true }, ⟨0, 0⟩)

/-- The piece at the front of the queue is programmed or stored (R338). None is begun while flash writing is not permitted; one under way ends
(R293, R369). -/
def pieceDone (s : State) : State := match s.upd.queue with
  | [] => s
  | p :: rest =>
    if 2 > s.upd.kind ∧ !(s.upd.prog || s.nvOk) = true then s else
    let s := s.modUpd fun u => { u with
      queue := rest, prog := !rest.isEmpty && s.nvOk, got := cput u.got p.index true false, unj := u.unj + 1, unjAt := u.unjAt.orElse fun _ => some s.now }
    let s := s.showRcvd
    if piecesOf s.upd.len ≤ s.upd.got.length then
      ((s.setUpd 2).targetState 2).journal.updEv 0x0E10 (s.upd.upid % 2 ^ 16)
    else if s.upd.kind ≤ 1 ∧ s.fg UPD_CFG_JPIECES ≤ s.upd.unj then s.journal
    else s

/-- 10 s after the first piece not yet journaled. -/
def pieceTimer (s : State) : State := match s.upd.unjAt with
  | some t => if s.upd.kind ≤ 1 then (s.advance (t + 10 * Config.sec)).journal else s
  | none => s

/-! ### Verification (Table 15.5) -/

/-- The first check of Table 15.5 that a slot fails, steps 1 to 5. -/
def verifyFail (s : State) (r : ImgRead) : Option Rc :=
  let low (i : Image) : Bool := decide (i.svn < s.arbVal i.ctr) || decide (i.svn < nth s.sec.store.minsvn i.ctr 0)
  if !r.chainOk || !r.sigOk || (bit s.sec.store.flags 0 && !r.ownerOk) then some ⟨0x8D10, 0⟩
  else match r.man.images.find? low with
    | some i => some ⟨0x8D11, i.ctr⟩
    | none => match r.revoked with
      | some i => some ⟨0x8D12, i⟩
      | none => r.badHash.map fun i => ⟨0x8D13, i⟩

/-! ### Companions (R346, R347) -/

/-- Companion numbers of a manifest, rising. -/
def companions (m : Manifest) : List Nat := (List.range 4).filter fun c => m.images.any fun i => i.typ == 0x10 + c

/-- Start a command: it goes out at the first instant at which its port is free (R297). -/
def compSend (s : State) (cmd off : Nat) : State :=
  (s.modUpd fun u => { u with comp := u.comp.map fun x => { x with cmd := cmd, off := off, held := true } }).compGo

/-- The first command of a purpose: BEGIN, COMMIT or ROLLBACK. -/
def compFirst (purpose : Nat) : Nat := if purpose = 0 then 1 else if purpose = 1 then 4 else 5

/-- Serve companions in order for a purpose. -/
def compStart (s : State) (purpose : Nat) (todo : List Nat) (failed : Nat) : State :=
  match todo with
  | [] => s.modUpd fun u => { u with comp := none }
  | _ :: _ => (s.modUpd fun u => { u with comp := some ⟨purpose, todo, 0, 0, s.now, s.now, failed, true⟩ }).compSend (compFirst purpose) 0

/-- Companions that show STAGED. -/
def stagedComps (s : State) : List Nat := (List.range 4).filter fun c => bit (s.fg UPD_STAT_COMP) c

/-- ROLLBACK to every staged companion, and their marks clear (R341). -/
def rollStaged (s : State) : State := (s.compStart 3 s.stagedComps 0).fs UPD_STAT_COMP 0

/-- The slot is ARMED. -/
def armed (s : State) : State := ((s.setUpd 4).targetState 3).updEv 0x0E11 s.upd.target

/-! ### Activation (R342 to R345) -/

/-- Activation of slot `t` by pause begins: the pair and the array stop (Table 16.8). -/
def pauseBegin (s : State) : State :=
  (s.mgmtStop.modUpd fun u => { u with stage := 0, actAt := s.now }).arrayStop |>.setUpd 5

/-- The boot record of an activation of the update's slot (R342). -/
def actRecord (s : State) : State :=
  let comps := match nth s.upd.slots s.upd.target none with
    | some m => !(companions m).isEmpty
    | none => false
  s.bootRecord fun b => { b with active := s.upd.target, fbvalid := true, pendcomp := comps }

/-- The activation instant has come: not performed while flash writing is not permitted (Table 16.12). -/
def activate (s : State) (handover : Bool) : State :=
  if !s.nvOk then s.updEv 0x4E12 0
  else
    let s := (s.modUpd fun u => { u with prev := s.runSlot }).actRecord
    if handover then ((s.modUpd fun u => { u with stage := 1, actAt := s.now }).halfOut false 3).setUpd 5 else s.pauseBegin

/-- The pending activation, if any. -/
def pendAct (s : State) : Option Act := s.upd.pend.find? fun a => !a.cfg

/-- A pending command's trigger has come when DCN `d` starts (R342). -/
def actDue (a : Act) (d : Nat) : Bool := match a.dcn with
  | none => true
  | some n => !dcnFuture n d

/-- The pending activation acts when DCN `d` starts. -/
def activateDue (s : State) (d : Nat) : State := match s.pendAct with
  | some a =>
    if actDue a d && s.updState == 4 then
      ((s.modUpd fun u => { u with pend := u.pend.filter (·.cfg) }).showPend).activate a.handover
    else s
  | none => s

/-- Whole milliseconds since an instant; the spec states no rounding. -/
def showStop (s : State) (since : Nat) : State :=
  let (ms, s) := s.roundFree ((s.now : Int) - since) Config.ms
  s.fs UPD_STOP_MS (satN 16 ms.toNat)

/-- The manifest that runs: its measurement, and whether Zararis marks it as certified (R320, R325). -/
def measured (s : State) (m : Manifest) : State := s.modSec fun x => { x with certified := m.certified, meas := m.meas }

/-- The new slot runs: the slots' states, the window, 0x0E12, and the companions' commits (R331, R347). -/
def actDone (s : State) (commit : Bool) : State :=
  let t := s.upd.target
  let s := (s.fs SLOT_BOOT_RUN t).fs SPIB_XBASE_BASE (if t = 0 then 0x0010 else 0x00D0)
  let s := ((s.slotState t 4).slotState s.upd.prev 5).setUpd 0
  let s := match nth s.upd.slots t none with
    | some m => s.measured m
    | none => s
  let s := s.updEv 0x0E12 t
  let comps := match nth s.upd.slots t none with
    | some m => companions m
    | none => []
  if commit then s.compStart 1 comps 0 else s

/-- A reloaded half-array serves, unless a halt holds it. -/
def halfLoaded (s : State) (b : Bool) : State := (s.fs (halfRef b) 2).halfBack b

/-- Everything that a pause stopped runs again; the watchdog count restarts. Before the end of TRIM access stays unavailable (R347). -/
def pauseEnd (s : State) : State :=
  let s := (s.halfLoaded false).halfLoaded true
  let s := if s.pow.trimDone then s.restoreAccess else s
  (s.modFab fun f => { f with wdogAt := s.now }).showStop s.upd.actAt

/-- ACTIVATION_COMPLETE (R343): the stopped elements run on the new images, or, when the hash check of one fails at load, on the
previous slot's verified copy. A return to the previous slot after a failed commit ends here too (R347). -/
def activateEnd (s : State) (badHash : Option Nat) : State :=
  if !s.actPaused then s
  else
    let s := s.pauseEnd
    match s.upd.comp.bind fun c => if c.purpose = 2 then some c else none with
    | some c =>
      let s := (s.modUpd fun u => { u with comp := none }).actDone false
      s.updEv 0x8E12 c.failed
    | none => match badHash with
      | none => s.actDone true
      | some _ =>
        let s := s.bootRecord fun b => { b with active := s.upd.prev, fbvalid := false, pendcomp := false }
        ((s.slotState s.upd.target 6).setUpd 0).updEv 0x8E10 (s.upd.target * 256 + 0x13)

/-- Set the handover stage. -/
def setStage (s : State) (n : Nat) : State := s.modUpd fun u => { u with stage := n }

/-- A stage of Table 16.9 completes: 1 PIXA reloads, 2 waits for a cycle start, 3 PIXB reloads, 4 waits for a cycle start, 5 the
management pair changes over, 6 waits for a sweep boundary. -/
def stageStep (s : State) : State := match s.upd.stage with
  | 1 => (s.halfLoaded false).setStage 2
  | 2 => (s.halfOut true 3).setStage 3
  | 3 => (s.halfLoaded true).setStage 4
  | 4 => (s.pauseAccess.modUpd fun u => { u with actAt := s.now }).setStage 5
  | 5 =>
    let s := (s.restoreAccess.setStage 6).showStop s.upd.actAt
    s.modFab fun f => { f with wdogAt := s.now }
  | 6 => (s.setStage 0).actDone true
  | _ => s

/-- What a cycle start moves of a handover. -/
def stageCycle (s : State) : State := if s.upd.stage = 2 ∨ s.upd.stage = 4 then s.stageStep else s

/-- What a sweep boundary moves of a handover. -/
def stageSweep (s : State) : State := if s.upd.stage = 6 then s.stageStep else s

/-! ### Companion commands, continued -/

/-- STATE in which a command is complete (Table 16.10). -/
def compGoal (cmd : Nat) : Nat := match cmd with
  | 3 => 2
  | 4 => 4
  | 5 => 0
  | _ => 1

/-- The companion at hand is served; the next follows, or the purpose is fulfilled. -/
def compNext (s : State) (x : CompSt) (c : Nat) : State :=
  let rest := x.todo.drop 1
  let s := if x.purpose = 0 then s.fs UPD_STAT_COMP (putBits (s.fg UPD_STAT_COMP) c c 1) else s
  match rest with
  | _ :: _ => (s.modUpd fun u => { u with comp := some { x with todo := rest } }).compSend (compFirst x.purpose) 0
  | [] => match x.purpose with
    | 0 => (s.modUpd fun u => { u with comp := none }).armed
    | 1 => (s.modUpd fun u => { u with comp := none }).bootRecord fun b => { b with pendcomp := false }
    | 2 =>
      let s := s.bootRecord fun b => { b with active := s.upd.prev, pendcomp := false }
      (s.modUpd fun u => { u with comp := some { x with todo := [] }, target := u.prev, prev := u.target }).pauseBegin
    | _ => s.modUpd fun u => { u with comp := none }

/-- A command failed: arming ends, or committed companions are rolled back; a rollback goes on. -/
def compFail (s : State) (x : CompSt) (c : Nat) : State := match x.purpose with
  | 0 => (((s.modUpd fun u => { u with comp := none }).setUpd 2).targetState 2).updRes ⟨0x7E10, c⟩
  | 1 =>
    let all := match nth s.upd.slots s.upd.target none with
      | some m => companions m
      | none => []
    s.compStart 2 ((all.filter fun d => decide (d < c)).reverse ++ [c]) c
  | _ => s.compNext x c

/-- A command is complete: the next one of its companion. -/
def compStep (s : State) (x : CompSt) (c : Nat) : State :=
  let len := ((s.compImage c).map (·.len)).getD 0
  let data (off : Nat) : State := if off < len then s.compSend 2 off else s.compSend 3 0
  match x.cmd with
  | 1 => data 0
  | 2 => data (x.off + ((s.compImage c).map compChunk).getD 1024)
  | _ => s.compNext x c

/-- COMPANION_STATUS_POLL: 10 ms after the last, STATUS is sent and answered with STATE and CODE, or not answered. It waits for its port as its
command does. -/
def compPoll (s : State) (reply : Option (Nat × Nat)) : State := match s.upd.comp with
  | none => s
  | some x => match x.todo with
    | [] => s
    | c :: _ =>
      if x.held ∨ !s.compFree c = true then s else
      let s := (s.advance (x.pollAt + 10 * Config.ms)).compEmit c 6 0
      let s := s.modUpd fun u => { u with comp := some { x with pollAt := s.now } }
      let x := { x with pollAt := s.now }
      let limit := if x.cmd = 3 ∨ x.cmd = 4 then 10 * Config.sec else Config.sec
      let late := decide (limit < s.now - x.sentAt)
      match reply with
      | none => if late then s.compFail x c else s
      | some (st, code) =>
        let s := (s.fsk SLOT_COMP_STATE 0 c st).fsk SLOT_COMP_CODE 0 c code
        if st = 0xFF then s.compFail x c
        else if st = compGoal x.cmd then s.compStep x c
        else if late then s.compFail x c
        else s

/-! ### Arming (R341) -/

/-- Arming finishes its checks: BAD with its code, ARMED, or the companions are staged first. -/
def armEnd (s : State) (r : ImgRead) : State :=
  if s.updState ≠ 3 ∨ s.upd.comp.isSome = true then s
  else match s.verifyFail r with
    | some c => ((s.setUpd 0).targetState 6).updRes c
    | none =>
      let k := if s.upd.kind = 3 then 2 else s.upd.target
      let s := s.modUpd fun u => { u with slots := modAt u.slots k fun _ => some r.man }
      let s := if k < 2 then s.showSlot k r.man else s
      let cs := companions r.man
      if cs.isEmpty then s.armed else s.compStart 0 cs 0

/-! ### Configuration bundles (R334, R336, R350) -/

/-- Number of the first section that satisfies `p`. -/
def section_ (b : BundleRead) (p : BSection → Bool) : Option Nat := findIdx? b.sections p

/-- The refusals of R334 and Table 16.5. -/
def bundleFail (s : State) (b : BundleRead) : Option Rc :=
  if !b.sigOk || (b.uid != 0 && b.uid != s.uid) then some ⟨0x8E13, 0xFFFF⟩
  else match b.badHash with
    | some i => some ⟨0x8E13, i⟩
    | none => match if b.uid = 0 then section_ b (fun x => match x with | .tset _ _ _ => true | _ => false) else none with
      | some i => some ⟨0x2E13, i⟩
      | none => (section_ b fun x => match x with | .other => true | _ => false).map fun _ => ⟨0x1E03, 0⟩

/-- Bytes of a clip in the store. -/
def clipBytes (c : Clip) : Nat := 8 * c.width * c.height * c.frames.length

/-- The clips of a bundle. -/
def bundleClips (b : BundleRead) : List Clip := b.sections.filterMap fun (x : BSection) => match x with
  | .clip c w h fr => some ⟨c, w, h, fr.map fun f => f.map fun p => (⟨p.1, p.2.1, p.2.2.1, p.2.2.2⟩ : Px)⟩
  | _ => none

/-- The clip at which a bundle's clips, beside those that stay and those in use, exceed the 128 MB of the store. -/
def clipsOver (s : State) (b : BundleRead) : Option Nat :=
  let new := bundleClips b
  let stay := s.clips.filter fun (c : Clip) => !new.any fun (d : Clip) => d.id == c.id
  let used := ((s.patts.flatMap (·.clips)).filter fun (c : Clip) => new.any fun (d : Clip) => d.id == c.id).eraseDups
  let base := ((stay ++ used).map clipBytes).foldl (· + ·) 0
  (new.foldl (fun (x : Nat × Option Nat) c =>
    let n := x.1 + clipBytes c
    (n, match x.2 with
      | some i => some i
      | none => if 134217728 < n then some c.id else none)) (base, none)).2

/-- Sections begin to load: sets below NSET read LOADED 0 (R157, R350). -/
def loadBegin (s : State) (b : BundleRead) (announce : Bool) : State :=
  let s := b.sections.foldl (fun s x => match x with
    | .tset k _ _ => s.setWriting k
    | _ => s) s
  (s.modUpd fun u => { u with loading := some b, announce := announce }).modSec fun x => { x with cfgHash := b.hash }

/-- One section is loaded. -/
def loadSection (bid : Nat) (s : State) (x : BSection) : State := match x with
  | .tset k lamps ents => s.setLoaded k lamps bid ents
  | .clip c w h fr =>
    let px : List (List Px) := fr.map fun f => f.map fun p => (⟨p.1, p.2.1, p.2.2.1, p.2.2.2⟩ : Px)
    let clip : Clip := ⟨c, w, h, px⟩
    let s := { s with clips := s.clips.filter (fun (d : Clip) => d.id != c) ++ [clip] }
    ((s.fsk CLIP_DIM_WIDTH 0 c w).fsk CLIP_DIM_HEIGHT 0 c h).fsk CLIP_FR_FRAMES 0 c fr.length
  | _ => s

/-- BUNDLE_LOADED (R350): every section is loaded. -/
def loadEnd (s : State) : State := match s.upd.loading with
  | none => s
  | some b =>
    let s := (b.sections.foldl (loadSection b.bid) s).modUpd fun u => { u with loading := none }
    let s := if s.updState = 6 then s.setUpd 0 else s
    if s.upd.announce then s.updEv 0x0E13 (b.bid % 2 ^ 16) else s

/-- The trigger of APPLYCFG has come: a persistent bundle's area is named by a boot record and becomes active (R336, R350). -/
def applyBundle (s : State) (a : Act) : State := match s.upd.bundle with
  | none => s
  | some b =>
    if a.kind = 1 ∧ !s.nvOk = true then s.updEv 0x4E12 0
    else
      let s := if a.kind = 1 then
          let was := s.fg SLOT_BOOT_BUNDLE
          let s := s.bootRecord fun r => { r with bundle := a.target + 1, bid := b.bid }
          let s := if was ≠ 0 ∧ was ≠ a.target + 1 then s.fsk SLOT_BND_STATE 0 (was - 1) 2 else s
          let s := (s.fsk SLOT_BND_STATE 0 a.target 3).fsk SLOT_BID_BID 0 a.target b.bid
          s.modUpd fun u => { u with areas := modAt u.areas a.target fun _ => some b }
        else s.modUpd fun u => { u with areas := modAt u.areas 2 fun _ => some b }
      (if s.updState = 2 ∧ s.upd.kind = a.kind ∧ s.upd.target = a.target then s.setUpd 6 else s).loadBegin b true

/-- The pending APPLYCFG acts when DCN `d` starts. -/
def applyDue (s : State) (d : Nat) : State := match s.upd.pend.find? (·.cfg) with
  | some a =>
    if actDue a d then ((s.modUpd fun u => { u with pend := u.pend.filter fun a => !a.cfg }).showPend).applyBundle a else s
  | none => s

/-- BUNDLE_RELOAD (R336): the active bundle is checked and loaded after TRIM, once at each power-up. -/
def bundleReload (s : State) (b : BundleRead) : State :=
  let k := s.fg SLOT_BOOT_BUNDLE
  if k = 0 ∨ s.pow.trimDone = false ∨ s.upd.loading.isSome = true ∨ (nth s.upd.areas (k - 1) none).isSome = true then s
  else match s.bundleFail b with
    | some c => (s.fsk SLOT_BND_STATE 0 (k - 1) 4).updEv 0x8E13 c.detail
    | none => (s.modUpd fun u => { u with areas := modAt u.areas (k - 1) fun _ => some b }).loadBegin b false

/-! ### Boot (R348, R349) -/

/-- The update that the journal restored is one of the slot that does not run; in RECOVERY, of the slot that UPD_BEGIN.SLOT names (R339). -/
def retarget (s : State) : State :=
  if s.upd.kind = 0 ∧ (s.updState = 1 ∨ s.updState = 2) then
    (s.modUpd fun u => { u with target := s.targetSlot }).targetState s.updState
  else s

/-- A verified image boots from a slot (0, 1) or DRAM (2). -/
def bootOk (s : State) (k : Nat) (m : Manifest) : State :=
  let s := s.modUpd fun u => { u with slots := modAt u.slots k fun _ => some m }
  let s := ((s.fs SLOT_BOOT_RUN k).fs SLOT_FAIL_DBL 0).measured m
  let s := if k < 2 then ((s.showSlot k m).slotState k 4).fs SPIB_XBASE_BASE (if k = 0 then 0x0010 else 0x00D0) else s
  (s.modPow fun p => { p with booted := true, bootFails := 0 }).retarget

/-- A slot failed Table 15.5: the core's code, 0x8E10 and SLOT_FAIL. -/
def bootBad (s : State) (k : Nat) (c : Rc) : State :=
  let s := (s.ev pgOSEC c.code c.detail kInfo 0).updEv 0x8E10 (k * 256 + c.code % 256)
  ((s.fs SLOT_FAIL_CODE c.code).fs SLOT_FAIL_SLOT k).slotState k 6

/-- RECOVERY: the ROM loader alone runs (R349). -/
def enterRecovery (s : State) : State :=
  let s := ((s.fs SLOT_BOOT_RUN 3).fs PD_ACT_DOM 0x1F).setMode .recovery
  ((s.unitOn (pgLNK + 0)).unitOn pgCHAIN).retarget

/-- Both slots failed (R348): the count of AON rises, a cold reset follows, and the second failure in a row enters RECOVERY. -/
def bootFailed (s : State) : State :=
  let n := s.pow.bootFails + 1
  let s := (s.modPow fun p => { p with bootFails := n }).fs SLOT_FAIL_DBL (min 2 n)
  if n < 2 then (s.coldReset 3).fs SLOT_FAIL_DBL n else s.enterRecovery.updEv 0x8E11 0

/-- The ROM boots from flash, or starts its loader, as CFG[1:0] says. -/
def romBoot (s : State) (a b : ImgRead) : State :=
  if s.pow.trimDone = true ∨ (s.mode ≠ .trim ∧ s.mode ≠ .dark) ∨ s.pow.booted = true ∨ s.loader = true then s
  else if s.strap 1 0 = 3 then s.enterRecovery
  else if s.strap 1 0 ≠ 0 then
    ((s.fs SLOT_BOOT_RUN 3).unitOn (pgLNK + 0)).unitOn pgCHAIN
  else
    let first := (s.upd.brec.map (·.active)).getD 0
    let other := 1 - first
    let rd (k : Nat) : ImgRead := if k = 0 then a else b
    let mayOther := (s.upd.brec.map (·.fbvalid)).getD true
    match s.verifyFail (rd first) with
    | none =>
      let s := s.bootOk first (rd first).man
      let s := if (s.upd.brec.map (·.fbvalid)).getD false ∧ s.fgk SLOT_INFO_STATE 0 other = 0 then s.slotState other 5 else s
      if (s.upd.brec.map (·.pendcomp)).getD false then
        ((s.modUpd fun u => { u with target := first, prev := other }).compStart 1 (companions (rd first).man) 0)
      else s
    | some c =>
      let s := s.bootBad first c
      if mayOther then match s.verifyFail (rd other) with
        | none => s.bootOk other (rd other).man
        | some c => (s.bootBad other c).bootFailed
      else s.bootFailed

/-- An immediate ACTIVATE of the ROM loader (R349): RECOVERY programs the boot record and cold-resets; a DRAM image boots. -/
def loaderActivate (s : State) : State :=
  if s.upd.kind = 3 then match nth s.upd.slots 2 none with
    | some m => (s.setUpd 0).bootOk 2 m
    | none => s
  else (s.actRecord.setUpd 0).coldReset 3

/-! ### Commands of UPD_CMD (R341 to R350) -/

/-- A DCN trigger has passed (Table 2.15). -/
def trigPassed (s : State) (n : Nat) : Bool := decide (s.dcnStart n < s.now + s.spanLen) || !dcnFuture n s.dcn

/-- The trigger a command names. -/
def updTrig (s : State) (data : Nat) : Option Nat := if bitsOf data 9 8 = 1 then some (s.fg UPD_TDCN_DCN) else none

/-- The refusal of a trigger. -/
def trigRefused (s : State) (t : Option Nat) : Option Rc := match t with
  | some n => if s.trigPassed n then some ⟨0x6E01, 0⟩ else none
  | none => none

/-- HALF is above 900 in a state up to an instant (R344). -/
def halfOver (s : State) (t : Nat) : Bool :=
  let l := (s.pendSteps none).filter fun x => decide (x.at_ ≤ t)
  (s.regs :: (futures s.bootRegs s.regs l).map (·.post)).any fun r => decide (900 < (admRun r).2.half)

/-- The refusals of a handover (R344). -/
def handoverFail (s : State) (t : Option Nat) : Option Rc :=
  let new := nth s.upd.slots s.upd.target none
  let ok := match new, s.runManifest with
    | some n, some r => n.handover && n.hover == r.hover
    | _, _ => false
  if s.fg UPD_CFG_HOENROL = 0 then some ⟨0x2E12, 1⟩
  else if !ok then some ⟨0x2E12, 2⟩
  else if s.halfOver (s.actInst ⟨false, true, t, 0, 0⟩) then some ⟨0x2E12, 3⟩
  else none

/-- ACTIVATE. -/
def updActivate (s : State) (data : Nat) : State × Rc :=
  let t := s.updTrig data
  let ho := bitsOf data 5 4 == 1
  if s.updState ≠ 4 then (s, ⟨0x2E11, s.updState⟩)
  else if s.loader then
    if ho || t.isSome then (s, ⟨0x2E11, s.updState⟩) else (s.loaderActivate, ⟨0, 0⟩)
  else if s.pendAct.isSome then (s, ⟨0x4E10, 0⟩)
  else match (if ho then s.handoverFail t else none).orElse fun _ => s.trigRefused t with
    | some c => (s, c)
    | none => ((s.modUpd fun u => { u with pend := u.pend ++ [⟨false, ho, t, u.kind, u.target⟩] }).showPend, ⟨0, 0⟩)

/-- APPLYCFG; `b` is what the area or DRAM holds. -/
def updApply (s : State) (data : Nat) (b : BundleRead) : State × Rc :=
  let t := s.updTrig data
  if s.updState ≠ 2 ∨ (s.upd.kind ≠ 1 ∧ s.upd.kind ≠ 2) then (s, ⟨0x2E11, s.updState⟩)
  else if s.upd.pend.any (·.cfg) then (s, ⟨0x4E10, 0⟩)
  else match s.bundleFail b with
    | some c => (if s.upd.kind = 1 then s.fsk SLOT_BND_STATE 0 s.upd.target 4 else s, c)
    | none => match (s.clipsOver b).map (fun c => (⟨0x4E11, c⟩ : Rc)) |>.orElse fun _ => s.trigRefused t with
      | some c => (s, c)
      | none =>
        ((s.modUpd fun u => { u with bundle := some b, pend := u.pend ++ [⟨true, false, t, u.kind, u.target⟩] }).showPend, ⟨0, 0⟩)

/-- ABORT and DISARM: arming stops, staged companions are rolled back, a pending activation is withdrawn (R341, R351). -/
def updStop (s : State) (abort : Bool) : State × Rc :=
  let st := s.updState
  if (if abort then st == 0 || decide (5 ≤ st) else st != 3 && st != 4) then (s, ⟨0x2E11, st⟩)
  else
    let s := (s.modUpd fun u => { u with pend := u.pend.filter (·.cfg) }).showPend.rollStaged
    if abort then
      let s := (s.setUpd 0).targetState (if st = 1 then 1 else 2)
      ((s.modUpd fun u => { u with queue := [] }).journal, ⟨0, 0⟩)
    else ((s.setUpd 2).targetState 2, ⟨0, 0⟩)

/-- The effect and result of a write of UPD_CMD. The ROM loader takes BEGIN, ARM and an immediate ACTIVATE alone (R349). -/
def updCmd (s : State) (data : Nat) (b : BundleRead) : State × Rc :=
  let op := bitsOf data 3 0
  if s.loader ∧ !(op = 1 ∨ op = 3 ∨ op = 5) then (s, ⟨0x2E11, s.updState⟩)
  else match op with
    | 1 => match s.beginFail with
      | some c => (s, c)
      | none => (s.updBegin, ⟨0, 0⟩)
    | 2 => s.updStop true
    | 3 =>
      if s.updState = 2 ∧ (s.upd.kind = 0 ∨ s.upd.kind = 3) then (s.setUpd 3, ⟨0, 0⟩) else (s, ⟨0x2E11, s.updState⟩)
    | 4 => s.updStop false
    | 5 => s.updActivate data
    | 6 => s.updApply data b
    | _ =>
      if s.upd.pend.isEmpty then (s, ⟨0x2E11, s.updState⟩) else ((s.modUpd fun u => { u with pend := [] }).showPend, ⟨0, 0⟩)

end State

/-- A bundle that no command names. -/
def BundleRead.none_ : BundleRead := ⟨false, none, 0, 0, [], []⟩

/-- A write of UPD_CMD: its result in UPD_RES. -/
def hUpdCmd (b : BundleRead) : Handler := fun s w _ _ _ data =>
  let r := s.updCmd data b
  .ok (r.1.updCmdRes w r.2)

/-- A write of UPD_CMD. -/
def updWrite (s : State) (a : Sys2Proof.Access) (data : Nat) (b : BundleRead) : State :=
  direct s.begin_ a (regAddr pgUPD UPD_CMD.off) data (hUpdCmd b)

/-- BEGIN (R337, R352). -/
def execBegin (a : Sys2Proof.Access) (s : State) : Ans State := .next (updWrite s a 1 BundleRead.none_)
/-- UPD_ABORT (R341, R339). -/
def execUpdAbort (a : Sys2Proof.Access) (s : State) : Ans State := .next (updWrite s a 2 BundleRead.none_)
/-- ARM (R341). -/
def execArm (a : Sys2Proof.Access) (s : State) : Ans State := .next (updWrite s a 3 BundleRead.none_)
/-- ARM_COMPLETE (R341, Table 15.5): `r` is what the copy in DRAM spells. -/
def execArmComplete (r : ImgRead) (s : State) : Ans State := .next (s.begin_.armEnd r)
/-- DISARM (R341). -/
def execDisarm (a : Sys2Proof.Access) (s : State) : Ans State := .next (updWrite s a 4 BundleRead.none_)
/-- ACTIVATE_PAUSE (R342, R343, R349). -/
def execActivatePause (a : Sys2Proof.Access) (trig : Fin 4) (s : State) : Ans State :=
  .next (updWrite s a (trig.val * 256 + 5) BundleRead.none_)
/-- ACTIVATE_HANDOVER (R342, R344). -/
def execActivateHandover (a : Sys2Proof.Access) (trig : Fin 4) (s : State) : Ans State :=
  .next (updWrite s a (trig.val * 256 + 0x15) BundleRead.none_)
/-- APPLYCFG (R350, R334). -/
def execApplycfg (a : Sys2Proof.Access) (trig : Fin 4) (b : BundleRead) (s : State) : Ans State :=
  .next (updWrite s a (trig.val * 256 + 6) b)
/-- UPD_CANCEL (R342). -/
def execUpdCancel (a : Sys2Proof.Access) (s : State) : Ans State := .next (updWrite s a 7 BundleRead.none_)
/-- ACTIVATION (R342): the trigger cycle start of the pending activation. -/
def execActivation (s0 : State) : Ans State :=
  let s := s0.begin_
  .next (s.activateDue (add32 s.dcn 1))
/-- ACTIVATION_COMPLETE (R343, R347): `badHash` names an image whose hash fails as it loads. -/
def execActivationComplete (badHash : Option Nat) (s : State) : Ans State := .next (s.begin_.activateEnd badHash)
/-- HANDOVER_STAGE (R344, Table 16.9). -/
def execHandoverStage (s : State) : Ans State := .next s.begin_.stageStep
/-- COMPANION_STATUS_POLL (R346, R347). -/
def execCompanionStatusPoll (reply : Option (Nat × Nat)) (s : State) : Ans State := .next (s.begin_.compPoll reply)
/-- PIECE_PROGRAMMED (R338, R339). -/
def execPieceProgrammed (s : State) : Ans State := .next s.begin_.pieceDone
/-- PIECE_JOURNAL_TIMER (R339). -/
def execPieceJournalTimer (s : State) : Ans State := .next s.begin_.pieceTimer
/-- BUNDLE_APPLY (R350): the trigger cycle start of the pending APPLYCFG. -/
def execBundleApply (s0 : State) : Ans State :=
  let s := s0.begin_
  .next (s.applyDue (add32 s.dcn 1))
/-- BUNDLE_LOADED (R350, R157). -/
def execBundleLoaded (s : State) : Ans State := .next s.begin_.loadEnd
/-- BUNDLE_RELOAD (R336): `b` is what the active area holds. -/
def execBundleReload (b : BundleRead) (s : State) : Ans State := .next (s.begin_.bundleReload b)
/-- BOOT (R348, R349, R320): what the two slots hold. -/
def execBoot (slotA slotB : ImgRead) (s : State) : Ans State := .next (s.begin_.romBoot slotA slotB)

end Sys2Proof.Machine
end

