-- ==== Sys2Proof/Machine/Units.lean ====
section
/-! DEFINITION. PG_CTRL (R41, R42, R44): enable checks asked for and ended, armed starts, stops and page resets, HOLD. -/

namespace Sys2Proof.Machine

namespace State

/-- ENABLE is written from 0 to 1 by `w`: the check starts; nothing happens to an enabled page or while its check runs. -/
def enableAsk (s : State) (w : Who) (p : Nat) : State :=
  if !pageHasUnit p || enabledR s.regs p || s.fab.checking.contains p then s
  else s.modFab fun f => { f with
    checking := f.checking ++ [p],
    asked := f.asked.filter (·.1 != p) ++ (w.tenant.map fun n => (p, n)).toList }

/-- ENABLE is written 0: a check or an armed start ends, a running unit stops at the next span boundary. -/
def disableAsk (s : State) (p : Nat) : State :=
  if !pageHasUnit p then s
  else
    let s := (s.fs (hENABLE p) 0).modFab fun f => { f with
      checking := f.checking.filter (· != p), asked := f.asked.filter (·.1 != p), starting := f.starting.filter (· != p) }
    if s.active p && !s.fab.stopping.contains p then s.modFab fun f => { f with stopping := f.stopping ++ [p] } else s

/-- The tenant that asked for the check of page `p`, if one did. -/
def asker (s : State) (p : Nat) : Option Nat := (s.fab.asked.find? (·.1 == p)).map (·.2)

/-- The requester whose ENABLE of page `p` is checked. -/
def askerWho (s : State) (p : Nat) : Who := match s.asker p with
  | some n => .ten (Fin.ofNat 16 n)
  | none => .sys 0

/-- The enable check of page `p` ends (R41, R118). -/
def enableChecked (s : State) (p : Nat) : State :=
  if !s.fab.checking.contains p then s
  else
    let who := s.asker p
    let v := s.enableVerdict (s.askerWho p) p
    let s := (s.noteAdm v 0 p 0).modFab fun f => { f with
      checking := f.checking.filter (· != p), asked := f.asked.filter (·.1 != p) }
    match v.err with
    | none =>
      ((s.fs (hENABLE p) 1).fs (hREFUSED p) 0).modFab fun f => { f with starting := f.starting.filter (· != p) ++ [p] }
    | some c =>
      let s := ((s.fs (hENABLE p) 0).fs (hREFUSED p) 1).fs (hREASON p) (c.code * 2 ^ 16 + c.detail % 2 ^ 16)
      if bit (s.fg (hEVENT p)) 1 then s.evCmd who p c.code c.detail kRefusal 0 else s

/-- The start of page `p` waits: WIRE's for a display-cycle boundary while cycles run (R206), SADC1's for its last conversion (R224). -/
def startWaits (s : State) (p : Nat) (atCycle : Bool) : Bool :=
  (p == pgWIRE && s.cycles && !atCycle) || (p == pgSENSE && s.sense.busy)

/-- An armed start acts, unless it waits. -/
def startNow (atCycle : Bool) (s : State) (p : Nat) : State :=
  if s.fab.starting.contains p && !s.startWaits p atCycle then
    (s.modFab fun f => { f with starting := f.starting.filter (· != p) }).unitOn p
  else s

/-- An armed stop acts. SADC1 first ends its conversion in progress (R224). -/
def stopNow (s : State) (p : Nat) : State :=
  if s.fab.stopping.contains p && !(p == pgSENSE && s.sense.busy) then
    (s.modFab fun f => { f with stopping := f.stopping.filter (· != p) }).unitOff p
  else s

/-- A page reset is armed. -/
def resetAsk (s : State) (p : Nat) : State :=
  if s.fab.resetting.contains p then s else s.modFab fun f => { f with resetting := f.resetting ++ [p] }

/-- An armed page reset acts. -/
def resetAct (s : State) (p : Nat) : State := if s.fab.resetting.contains p then s.pageResetNow p else s

/-- Armed stops, starts and page resets at a boundary. -/
def unitsBoundary (s : State) (atCycle : Bool) : State :=
  let s := s.fab.stopping.foldl State.stopNow s
  let s := s.fab.resetting.foldl State.resetAct s
  s.fab.starting.foldl (startNow atCycle) s

/-- PG_CTRL of page `p` is written by `w` (Table 2.8, R42): a write that sets RESET ignores ENABLE. -/
def pgCtrlWrite (s : State) (w : Who) (p data : Nat) : State :=
  let old := s.reg p 0x008
  let v := ctrlFix p old (putBits (putBits (old % 2) 2 2 (bitsOf data 2 2)) 31 16 (bitsOf data 31 16))
  let s := (s.setReg p 0x008 v).showHeld p
  if bit data 1 then s.resetAsk p else if bit data 0 then s.enableAsk w p else s.disableAsk p

end State

end Sys2Proof.Machine
end

