-- ==== Sys2Proof/Machine/Thermal.lean ====
section
/-! DEFINITION. Thermal functions (R158, R366 to R369) and brown-out (R365): the 250 ms samples, warning, derate, dark stones, shutdown. -/

namespace Sys2Proof.Machine

namespace State

/-- A number of °C in 1/16 °C. -/
def deg (c : Int) : Int := 16 * c

/-- The highest of a set of stone samples and its stone. -/
def dieMax (die : List (Option Int)) : Option (Int × Nat) :=
  die.zipIdx.foldl (fun b x => match x.1, b with
    | some t, some (m, k) => if m < t then some (t, x.2) else some (m, k)
    | some t, none => some (t, x.2)
    | none, b => b) none

/-! ### Shutdown (R369) -/

/-- Sinks and rows go dark at once and the supply stage stops hard; DARK waits for writes under way. `d`: the stone, or 0xFF. -/
def shutDown (s : State) (d : Nat) : State :=
  if s.pow.shut then s
  else
    let s := ((s.hardStop false).fs TH_STAT_SHUT 1).inc TH_CNT_SHUTDOWNS 0 1
    let s := s.modScan fun x => { x with placed := x.placed.map PSink.dark, driven := false, drive := none }
    s.modPow fun p => { p with shut := true, shutWait := some d }

/-- Once the writes under way have ended, DARK is entered (R369); not before TRIM ends (R366). -/
def shutDark (s : State) : State := match s.pow.shutWait with
  | some d =>
    if s.nvWriting ∨ s.mode = .trim then s
    else ((s.modPow fun p => { p with shutWait := none }).ev pgTHERM 0x7011 d kFault 0).enterDark 8
  | none => s

/-- A stone comparator trips; it acts from the power good of its domain. -/
def tripStone (s : State) (k : Nat) : State :=
  if !s.powered (stoneDomain k) then s
  else (s.modPow fun p => { p with tripped := if p.tripped.contains k then p.tripped else p.tripped ++ [k] }).shutDown k

/-! ### Warning and derate (R367) -/

/-- Warning at a sample. -/
def thermWarn (s : State) (t : Int) : State :=
  let w : Int := s.fg TH_CFG_WARN
  let h : Int := s.fg TH_CFG_HYST
  if deg w ≤ t then
    if s.fg TH_STAT_WARN = 1 then s else (s.fs TH_STAT_WARN 1).ev pgTHERM 0x0013 (t / 16).toNat kInfo 0
  else if t < deg (w - h) then s.fs TH_STAT_WARN 0
  else s

/-- Derate steps at a sample: one down while hot, one up after REC seconds of cool. -/
def derate (s : State) (t : Int) : State :=
  let d : Int := s.fg TH_CFG_DERATE
  let h : Int := s.fg TH_CFG_HYST
  let b : Int := s.fg TH_BCFG_BDERATE
  let z := sgn 16 (s.fg TF_ZMAX_TEMP)
  let hot := decide (deg d ≤ t) || (b != 0 && decide (deg b ≤ z))
  let cool := decide (t < deg (d - h)) && (b == 0 || decide (z < deg (b - h)))
  let ds := s.pow.dsNext.getD (s.fg TH_STAT_DS)
  let since := if cool then some (s.pow.coolAt.getD s.now) else none
  let may := match s.pow.dsFell with
    | some f => decide (f + s.fg TH_DS_STEP * Config.sec ≤ s.now)
    | none => true
  if hot && may && decide (s.fg TH_DS_DMIN < ds) then
    s.modPow fun p => { p with dsNext := some (ds - 1), dsFell := some s.now, coolAt := none }
  else match since with
    | some f =>
      if f + s.fg TH_DS_REC * Config.sec ≤ s.now then
        s.modPow fun p => { p with dsNext := if ds < 16 then some (ds + 1) else p.dsNext, coolAt := some s.now }
      else s.modPow fun p => { p with coolAt := since }
    | none => s.modPow fun p => { p with coolAt := none }

/-- A waiting DS takes effect at its boundary. -/
def derateBoundary (s : State) : State := match s.pow.dsNext with
  | none => s
  | some v =>
    let s := s.modPow fun p => { p with dsNext := none }
    if v = s.fg TH_STAT_DS then s
    else ((s.fs TH_STAT_DS v).inc TH_CNT_STEPS 0 1).ev pgTHERM 0x0012 v kInfo 0

/-! ### Stones (R368) -/

/-- Set or clear the thermal darkness of stone `k`. -/
def stoneThermal (s : State) (k v : Nat) : State :=
  (s.fsi ST_STAT_THERMAL k v).fs TH_DARK_STONES (putBits (s.fg TH_DARK_STONES) k k v)

/-- A sample of stone `k`. -/
def stoneSample (s : State) (k : Nat) (t : Int) : State :=
  let lim : Int := s.fg TH_STONE_DARK
  let h : Int := s.fg TH_CFG_HYST
  let dark := s.fgi ST_STAT_THERMAL k == 1
  let cool (s : State) (v : Option Nat) : State := s.modPow fun p => { p with stoneCool := modAt p.stoneCool k fun _ => v }
  if deg lim ≤ t then
    let s := cool s none
    if dark then s else (s.stoneThermal k 1).ev pgTHERM 0x7013 k kFault k
  else if !dark then s
  else if t < deg (lim - h) then
    let f := (nth s.pow.stoneCool k none).getD s.now
    if f + s.fg TH_DS_REC * Config.sec ≤ s.now then ((cool s none).stoneThermal k 0).ev pgTHERM 0x0014 k kInfo k
    else cool s (some f)
  else cool s none

/-! ### Samples (R158, R366) -/

/-- What the thermal functions do with the stone samples, none for a reading tagged SETTLING. -/
def thermSample (s : State) (die : List (Option Int)) : State := match dieMax die with
  | none => s
  | some (t, k) =>
    let s := (s.fs TH_STAT_DIEMAX (twos 16 t)).fs TH_STAT_HOT k
    let s := if sgn 16 (s.fg TH_PEAK_TEMP) < t then s.fs TH_PEAK_TEMP (twos 16 t) else s
    let s := (s.thermWarn t).derate t
    let s := die.zipIdx.foldl (fun s x => match x.1 with
      | some t => s.stoneSample x.2 t
      | none => s) s
    let s := if die.all Option.isSome && die.length == 16 then s.trimSample (dieTemp (die.filterMap id)) else s
    if deg 120 ≤ t then s.shutDown 0xFF else s

/-- Judge the sensors of a sample: on-die readings and the words of the board sensors (R159). -/
def judgeAll (s : State) (die : List (Option Int)) (raw : List (Option Nat)) : State :=
  s.judge ((List.range 48).map fun k =>
    s.sensorT k (if k < 16 then nth die k none else (nth raw (k - 16) none).map (s.boardT k)))
    ((List.range 16).filter fun k => (nth die k none).isNone)

/-- A board sensor is enabled. -/
def boardOn (s : State) : Bool := (List.range 32).any fun k => s.sensorOn (16 + k)

/-- The sample of an instant: a set of board reads still queued has not completed within 50 ms and counts as failed. -/
def sensorSample (s : State) (die : List (Option Int)) : State :=
  if !s.pow.trimDone || s.mode == .sleep || s.mode == .recovery then s
  else
    let s := s.advance s.field.sampleAt
    let s := match s.field.queued with
      | some d => s.judgeAll d []
      | none => s
    let s := { s with field := { s.field with queued := none, sampleAt := s.field.sampleAt + 250 * Config.ms } }
    let s := s.thermSample die
    if s.boardOn then { s with field := { s.field with queued := some die } } else s.twiGo.judgeAll die []

/-- The bytes that the read of board sensor `k` puts on TWI: the pointer REG to ADDR, then a repeated START for two bytes (R158). -/
def boardFrame (s : State) (k : Nat) : List Nat :=
  [2 * s.fgk TF_SA_ADDR 0 k, s.fgk TF_SA_REG 0 k, 2 * s.fgk TF_SA_ADDR 0 k + 1]

/-- The queued board reads run once the transfer in progress has ended, ahead of one not yet started (R297), after a bus clear when SDA is found
low (R298); none of them completes while a line of TWI is stuck, and
50 ms after the sample instant each has failed (R158). -/
def boardRead (s : State) (raw : List (Option Nat)) (sdaLow : Option Bool) : State := match s.field.queued, s.ser.twiX.filter (·.wait.isNone) with
  | some die, none =>
    let s := match sdaLow with
      | some freed => if s.fg TWI_STAT_STUCK = 1 then s else s.busClear freed
      | none => s
    let stuck := s.fg TWI_STAT_STUCK == 1
    let late := decide (s.field.sampleAt + 50 * Config.ms < s.now + 250 * Config.ms)
    let s := { s with field := { s.field with queued := none } }
    let on := (List.range 32).filter fun k => s.sensorOn (16 + k)
    let s := if stuck then s else on.foldl (fun (s : State) k => (s.emit (.serial s.twiWire (s.boardFrame (16 + k)))).emit .twiStop) s
    let s := if stuck then s.twiRefuseHeld else s.twiGo
    s.judgeAll die (if stuck || late then [] else raw)
  | _, _ => s

/-! ### Brown-out (R365) -/

/-- VDD33 falls below the warning threshold. -/
def brownWarn (s : State) : State :=
  let s := ((s.modPow fun p => { p with vddLow := true }).inc PD_BOD_WARN 0 1).ev pgPWRDOM 0x7012 0 kFault 0
  s.enterDark 9

/-- VDD33 falls below the reset threshold. -/
def brownReset (s : State) : State := (s.coldReset 2).inc PD_BOD_RESETS 0 1

end State

/-- SENSOR_SAMPLE (R158, R159, R254, R366 to R368): `die` gives the stone sensors in 1/16 °C. -/
def execSensorSample (die : List (Option Int)) (s : State) : Ans State := .next (s.begin_.sensorSample die)
/-- BOARD_SENSOR_READ (R297, R158): the two bytes of each board sensor, none for a failed read. -/
def execBoardSensorRead (r : BoardRead) (s : State) : Ans State := .next (s.begin_.boardRead r.raw r.sdaLow)
/-- BROWNOUT_WARNING (R365). -/
def execBrownoutWarning (s : State) : Ans State := .next s.begin_.brownWarn
/-- BROWNOUT_RESET (R365). -/
def execBrownoutReset (s : State) : Ans State := .next s.begin_.brownReset
/-- VDD33_RETURN (R358): VDD33 has been above 3.10 V for 10 ms. -/
def execVdd33Return (s : State) : Ans State := .next (s.begin_.modPow fun p => { p with vddLow := false })
/-- OVER_TEMPERATURE_TRIP (R369): a stone's comparator, or DIEMAX at 120 °C. -/
def execOverTemperatureTrip (stone : Option (Fin 16)) (s0 : State) : Ans State :=
  let s := s0.begin_
  .next (match stone with
    | some k => s.tripStone k.val
    | none => if State.deg 120 ≤ sgn 16 (s.fg TH_STAT_DIEMAX) then s.shutDown 0xFF else s)
/-- OVER_TEMPERATURE_CLEAR (R358): a tripped comparator clears. -/
def execOverTemperatureClear (stone : Fin 16) (s : State) : Ans State :=
  .next (s.begin_.modPow fun p => { p with tripped := p.tripped.filter (· != stone.val) })
/-- SHUTDOWN_DARK (R369). -/
def execShutdownDark (s : State) : Ans State := .next s.begin_.shutDark

end Sys2Proof.Machine
end

