-- ==== Sys2Proof/Machine/Power.lean ====
section
/-! DEFINITION. Power domains (R362 to R364), PORN, the end of TRIM (R356), what TRIM applies on the device's own account (R203, R390,
R361), SLEEP entry and wake (R360). -/

namespace Sys2Proof.Machine

/-- The domains that start after domain `d` reports power good (Table 17.5). -/
def powerNext (d : Nat) : List Nat := match d with
  | 1 => [2]
  | 2 => [3, 4]
  | 3 => [7]
  | 4 => [7]
  | 7 => [5, 6]
  | 5 => [10]
  | 6 => [10]
  | 10 => [8, 9]
  | _ => []

/-- Stones of domain 8 or 9. -/
def stonesOf (d : Nat) : List Nat := if d = 8 then List.range 8 else if d = 9 then (List.range 8).map (· + 8) else []

namespace State

/-! ### Domains -/

/-- Set PD_ACT of a domain. -/
def setPower (s : State) (d : Nat) (on : Bool) : State :=
  (s.fs PD_ACT_DOM (putBits (s.fg PD_ACT_DOM) d d (b2n on))).settle pgPWRDOM

/-- Domain `d` reports power good; the next in order starts (R363). A domain that PD_REQ switched on ends there. -/
def powerGood (s : State) (d : Nat) : State :=
  if !s.pow.powering.contains d then s
  else
    let s := (s.setPower d true).modPow fun p => { p with powering := p.powering.filter (· != d) }
    let s := if d = 5 then s.halfIn false else if d = 6 then s.halfIn true else s
    let s := (stonesOf d).foldl (fun s k => s.fsi ST_STAT_DOMAIN k 0) s
    let s := if d = 10 ∧ s.pow.trimDone then s.auxStart else s
    if s.pow.powering.isEmpty ∧ !s.pow.trimDone = true then s.modPow fun p => { p with powering := powerNext d } else s

/-- Domain `d` does not report power good within 1 ms: it is switched off; in TRIM self-trim fails (R363, R252). -/
def powerFail (s : State) (d : Nat) : State :=
  if !s.pow.powering.contains d then s
  else
    let s := (s.setPower d false).modPow fun p => { p with powering := if p.trimDone then p.powering.filter (· != d) else [] }
    let s := s.fault pgPWRDOM 0 0x7015 d d
    if s.mode = .trim then s.trimFailed else s

/-- A switchable domain goes off: its enabled stones are dark; the supply stage stops hard (R202, Table 11.3). -/
def domainOff (s : State) (d : Nat) : State :=
  let s := (s.setPower d false).modPow fun p => { p with powering := p.powering.filter (· != d) }
  if d = 10 then s.hardStop false
  else (stonesOf d).foldl (fun s k =>
    if enabledR s.regs (pgSTONE + k) then (s.fsi ST_STAT_DOMAIN k 1).fault (pgSTONE + k) 0 0x7712 k k else s) s

/-- At a span boundary in SHOW, SERVICE and DARK the switchable domains follow PD_REQ (R364, Table 17.1). -/
def domainSwitch (s : State) : State :=
  if s.mode = .show ∨ s.mode = .service ∨ s.mode = .dark then
    let req := s.reg pgPWRDOM PD_REQ.off
    let s1 := [8, 9, 10].foldl (fun s1 d =>
      if bit req d == bit s.pow.pdReq d then s1
      else if bit req d then s1.modPow fun p => { p with powering := p.powering ++ [d] }
      else s1.domainOff d) s
    s1.modPow fun p => { p with pdReq := req }
  else s

/-! ### Firkins of TRIM (R415) -/

/-- A preset is due before other firkins of TRIM. -/
def presetDue (s : State) : Bool := s.strap 7 6 != 0 && !s.pow.presetDone

/-- The sensor probe is due. -/
def probeDue (s : State) : Bool := s.strap 8 8 == 1 && !s.pow.probed

/-- TRIM has not ended: firkins of the device's own apply. -/
def inTrim (s : State) : Bool := s.mode == .trim && !s.pow.trimDone

/-- A page that presets may write (R203, R335). -/
def presetPage (p : Nat) : Bool := p == pgSCAN || p == pgWIRE || p / 16 == 7

/-- A write of a preset record: address word in the FK_SADDR layout, mask, data (Table 16.6). -/
def presetWrite (x : Nat × Nat × Word) : SWrite :=
  ⟨bitsOf x.1 FK_SADDR_PAGE.hi FK_SADDR_PAGE.lo, bitsOf x.1 FK_SADDR_WORD.hi FK_SADDR_WORD.lo * 4, x.2.1, x.2.2.toNat, 0⟩

/-- PRESET: `rec_` is the record as read, none when it is absent or its CRC fails. -/
def preset (s : State) (rec_ : Option (List (Nat × Nat × Word))) : State :=
  if !(s.inTrim && s.presetDue) then s
  else
    let s := s.modPow fun p => { p with presetDone := true }
    let ws := (rec_.getD []).map presetWrite
    if s.fg SLOT_BOOT_BUNDLE = 0 ∨ ws = [] ∨ 256 < ws.length ∨ ws.any (fun w => !presetPage w.page) = true then
      s.ev pgSCAN 0x8710 (s.strap 7 6) kInfo 0
    else match s.autoFirkin ws false with
      | (s, none) => s.ev pgSCAN 0x0710 (s.strap 7 6) kInfo 0
      | (s, some c) => s.fs (hREASON pgSCAN) (c.code * 2 ^ 16 + c.detail % 2 ^ 16)

/-- The two writes that configure TFIELD entry 16 + e for the sensor at 0x48 + m (R390). -/
def probeWrites (q e m : Nat) : List SWrite :=
  let k := 16 + e
  let sa := 2 ^ 31 + 2 * 2 ^ TF_SA_FMT.lo + (0x48 + m) * 2 ^ TF_SA_ADDR.lo
  let sb := (16 + (e + 2) % q) * 2 ^ TF_SB_P2.lo + (16 + (e + 1) % q) * 2 ^ TF_SB_P1.lo + (16 + 32 * (m % 4)) * 2 ^ TF_SB_X.lo +
    (32 + 64 * (m / 4))
  [⟨pgTFIELD, TF_SA.off + 8 * k, 2 ^ 32 - 1, sa, 0⟩, ⟨pgTFIELD, TF_SB.off + 8 * k, 2 ^ 32 - 1, sb, 0⟩]

/-- What the probe puts on TWI at 100 kHz: two bytes of register 0 are read from each address, up to the address byte where none acknowledges. -/
def probeReads (s : State) (ack : Nat) : State :=
  if s.fg TWI_STAT_STUCK = 1 then s
  else (List.range 8).foldl (fun (s : State) m =>
    let a := 2 * (0x48 + m)
    (s.emit (.serial { s.twiWire with div := 100 } (if bit ack m then [a, 0, a + 1] else [a]))).emit .twiStop) s

/-- SENSOR_PROBE: bit m of `ack` is 1 when address 0x48 + m acknowledges. -/
def sensorProbe (s : State) (ack : Nat) : State :=
  if !(s.inTrim && s.probeDue && !s.presetDue) then s
  else
    let s := (s.modPow fun p => { p with probed := true }).probeReads ack
    let ms := (List.range 8).filter fun m => bit ack m
    if s.fg TWI_STAT_STUCK = 1 then s.ev pgTFIELD 0x4018 0 kInfo 0
    else if ms.length < 3 then s.ev pgTFIELD 0x4018 (ack % 256) kInfo 0
    else match s.autoFirkin (ms.zipIdx.flatMap fun x => probeWrites ms.length x.2 x.1) false with
      | (s, none) => s.ev pgTFIELD 0x0018 (ack % 256) kInfo 0
      | (s, some _) => s.ev pgTFIELD 0x4018 (ack % 256) kInfo 0

/-! ### The retention image (R361) -/

/-- A register of the image as a staged write. -/
def imageWrite (x : Nat × Nat × Nat) : SWrite :=
  let bank := x.1 / 2 ^ 20
  ⟨x.1 / 2 ^ 12 % 2 ^ 8, x.1 % 2 ^ 12, x.2.2, x.2.1, if 32 ≤ bank then bank - 32 else 0⟩

/-- A register of the image that a firkin can hold: unbanked or a palette, and none that no firkin stages (R48). -/
def imageStaged (x : Nat × Nat × Nat) : Bool :=
  let bank := x.1 / 2 ^ 20
  let w := imageWrite x
  (bank == 0 || decide (32 ≤ bank)) && !unstageable w.page w.off

/-- A register that no firkin can hold, restored as it was saved. -/
def imagePut (s : State) (x : Nat × Nat × Nat) : State :=
  let v := (cget s.regs x.1 (regDflt x.1)).toNat
  { s with regs := cput s.regs x.1 (BitVec.ofNat 32 (Nat.lor (v - Nat.land v x.2.2) (Nat.land x.2.1 x.2.2))) (regDflt x.1) }

/-- A saved event queue, and the events raised since. -/
def imageQueue (saved now : EvQ) : EvQ := now.q.foldl EvQ.push { saved with q := saved.q.take Config.evqLen }

/-- RETENTION_IMAGE: after a wake, once DRAM has left self-refresh and the preset and the probe are done. -/
def retention (s : State) (crcOk : Bool) : State := match s.pow.image with
  | none => s
  | some im =>
    if !s.inTrim || !s.memReady || s.presetDue || s.probeDue then s
    else
      let s := s.modPow fun p => { p with image := none }
      if !crcOk then s.ev pgSYS 0x4015 0xFFFF kInfo 0
      else
        let st := im.regs.filter imageStaged
        let rest := im.regs.filter fun x => !imageStaged x
        match s.autoFirkin (st.map imageWrite) true with
        | (s, some c) => s.ev pgSYS 0x4015 c.code kInfo 0
        | (s, none) =>
          let s := rest.foldl State.imagePut s
          let s := { s with tens := s.tens.zipIdx.map fun (x : Ten × Nat) =>
            { x.1 with evq := imageQueue (nth im.evqs x.2 EvQ.empty) x.1.evq } }
          s.ev pgSYS 0x0015 0 kInfo 0

/-! ### The end of TRIM (R356, R414) -/

/-- Everything that must have come about before TRIM ends. After a failed trim or training only boot and power are waited for.
Companions whose commit a boot record leaves pending come first (R347). -/
def trimOver (s : State) : Bool :=
  !s.pow.trimDone && s.pow.booted && s.pow.powering.isEmpty && s.powered 2 && s.upd.comp.isNone &&
    ((s.mode == .trim && s.trimPass && s.memReady && !s.presetDue && !s.probeDue && s.pow.image.isNone) ||
      (s.mode == .dark && (s.pow.trimFail || s.pow.memFail)))

/-- Pages without a unit read ENABLE 1 and ACTIVE 1 (R414). -/
def fixedPages (s : State) : State :=
  (usedPages.filter fun p => !pageHasUnit p).foldl (fun s p => (s.fs (hENABLE p) 1).fs (hACTIVE p) 1) s

/-- The checks of CHAIN and of the page of each used port start (R76). -/
def portsAsked (s : State) : State :=
  ((List.range 4).filter (portUsed s.role)).foldl (fun s p => s.enableAsk (.sys 0) (pgLNK + p)) (s.enableAsk (.sys 0) pgCHAIN)

/-- The mode in which TRIM ends: a cause that is active prevails (Tables 17.2, 17.3, R366). -/
def trimMode (s : State) : State :=
  let c := s.activeCauses
  if s.mode ≠ .trim then s
  else match s.pow.shutWait with
    | some d => ((s.modPow fun p => { p with shutWait := none }).ev pgTHERM 0x7011 d kFault 0).darkNow 8
    | none => match (List.range 10).find? fun i => bit c i with
      | some i => s.darkNow i
      | none => match s.fg SYS_MODE_MODE_REQ with
        | 5 => s.darkNow 0
        | 3 => s.relight .service
        | _ => s.relight .show

/-- TRIM ends; `freed`: outcome of the bus clear of TWI (R298). -/
def trimEnd (s : State) (freed : Bool) : State :=
  if !s.trimOver then s
  else
    let s := if s.fg PD_BOOT_SVCBOOT = 1 ∧ s.strap 1 0 ≠ 3 then (s.fs SYS_MODE_MODE_REQ 3).settle pgSYS else s
    let s := (s.busClear freed).fixedPages.portsAsked
    let s := (s.modPow fun p => { p with trimDone := true }).restoreAccess
    let s := s.modFab fun f => { f with wdogAt := s.now }
    let s := { s with
      field := { s.field with sampleAt := s.now, refreshAt := s.now + 250 * Config.ms } }
    s.auxStart.trimMode

/-! ### SLEEP and wake (R360) -/

/-- The wake of a source noted during SLEEP entry follows at once (Table 17.9). -/
def wakeNoted (s : State) : State := match s.pow.wakeSrc with
  | some src => if s.mode = .sleep then s.wakeReset src else s
  | none => s

/-- SLEEP entry goes on once both rails are OFF. -/
def sleepGo (s : State) : State := if s.pow.sleeping then s.sleepStep.wakeNoted else s

/-- A waiting mode request acts at its boundary. -/
def modeGo (s : State) : State := s.changeMode.wakeNoted

/-- The wall-time second PD_WAKE, when it is still ahead, has come (R360). -/
def wakeAt (s : State) : State :=
  let m := 2 ^ 32 * Config.sec
  let d := (s.fg PD_WAKE_SEC * Config.sec + m - s.wall % m) % m
  if d < m / 2 then s.advance (s.now + d) else s

/-- A wake source, 0 WAKEN to 3 time, when PD_CFG enables it. -/
def wake (s : State) (src : Nat) : State :=
  let on := bit (s.reg pgPWRDOM PD_CFG.off) (4 + src)
  if !on then s
  else
  let s := if src = 3 ∧ s.mode = .sleep then s.wakeAt else s
  if s.mode = .sleep then s.wakeReset (src + 1)
  else if s.pow.sleeping ∧ s.pow.wakeSrc.isNone = true then s.modPow fun p => { p with wakeSrc := some (src + 1) }
  else s

end State

/-- PORN (R363, R388): its rising edge, with the pins CFG0 to CFG11. -/
def execPorn (straps : Fin 4096) (s : State) : Ans State := .next (s.begin_.pornReset straps.val)
/-- DOMAIN_POWER_GOOD (R363, Table 17.5). -/
def execDomainPowerGood (d : Fin 11) (s : State) : Ans State := .next (s.begin_.powerGood d.val)
/-- PGOOD_TIMEOUT (R363). -/
def execPgoodTimeout (d : Fin 11) (s : State) : Ans State := .next (s.begin_.powerFail d.val)
/-- DOMAIN_SWITCH (R364): the switchable domains at a span boundary. -/
def execDomainSwitch (s : State) : Ans State := .next s.begin_.domainSwitch
/-- PRESET (R203, R335, R415). -/
def execPreset (rec_ : Option (List (Nat × Nat × Word))) (s : State) : Ans State := .next (s.begin_.preset rec_)
/-- SENSOR_PROBE (R390, R415). -/
def execSensorProbe (ack : BitVec 8) (s : State) : Ans State := .next (s.begin_.sensorProbe ack.toNat)
/-- RETENTION_IMAGE (R361, R415): whether the image passes its CRC. -/
def execRetentionImage (crcOk : Bool) (s : State) : Ans State := .next (s.begin_.retention crcOk)
/-- TRIM_END (R356, Table 17.2, R298): `freed`: TWI's bus clear leaves SDA high. -/
def execTrimEnd (freed : Bool) (s : State) : Ans State := .next (s.begin_.trimEnd freed)
/-- MODE_CHANGE (R356): the boundary at which a waiting mode request acts. -/
def execModeChange (s : State) : Ans State := .next s.begin_.modeGo
/-- SLEEP_ENTRY (R360): a waiting request for SLEEP acts, or an entry under way finds both rails OFF. -/
def execSleepEntry (s0 : State) : Ans State :=
  let s := s0.begin_
  .next (if s.pow.sleeping then s.sleepGo else if (s.pow.req.map (·.1)) = some 0 then s.modeGo else s)
/-- WAKE (R360, R361). -/
def execWake (src : Fin 4) (s : State) : Ans State := .next (s.begin_.wake src.val)

end Sys2Proof.Machine
end

