-- ==== Sys2Proof/Machine/Views.lean ====
section
/-! DEFINITION. What registers read (Table 2.3): the fields that show state held elsewhere, page by page, write-only fields as 0, and the
snapshots of wide values (R33). -/

namespace Sys2Proof.Machine

namespace State

/-! ### Registers that show other state -/

/-- SEC and NS words of a time in grains: seconds [47:32], seconds [31:0], nanoseconds. -/
def timeWords (t k : Nat) : Nat :=
  let ns := t / Config.grainsPerNs
  nth [ns / 10 ^ 9 / 2 ^ 32 % 2 ^ 16, ns / 10 ^ 9 % 2 ^ 32, ns % 10 ^ 9] k 0

/-- FIRKIN (Table 2.30). -/
def viewFirkin (s : State) (w : Who) (o v : Nat) : Nat :=
  if o = FK_STAT.off then s.fkStat w
  else if o = FK_LEFT.off then s.fkLeft w
  else if o = FK_FAIL.off then s.fkFail w
  else if o = FK_USE.off then s.fkUse w
  else v

/-- EVTQ (Table 2.32). -/
def viewEvtq (s : State) (w : Who) (o v : Nat) : Nat :=
  if o = EQ_COUNT.off then (s.evq (s.eqView w)).q.length
  else if EQ_E0.off ≤ o ∧ o ≤ EQ_E3.off then s.eqWord w ((o - EQ_E0.off) / 4)
  else if o = EQ_LOST.off then (s.evq (s.eqView w)).lost
  else v

/-- TEN page of slot `n`. -/
def viewTen (s : State) (n o v : Nat) : Nat :=
  if o = TEN_LEFT.off then s.tenLeft n else if o = TEN_HELD.off then s.tenHeld n else v

/-- TIME (Table 5.15): HOLD_LEFT in whole 0.1 s. -/
def viewTime (s : State) (o v : Nat) : Nat :=
  if o = TIME_STAT.off then
    putBits v 23 16 (match s.tim.holdEnd with
      | some e => min 255 ((e - s.now) / (Config.sec / 10))
      | none => 0)
  else if TIME_NOW_SH.off ≤ o ∧ o ≤ TIME_NOW_NS.off then timeWords s.wall ((o - TIME_NOW_SH.off) / 4)
  else v

/-- FEED page of slot `n` (Table 6.9). -/
def viewFeed (s : State) (n o v : Nat) : Nat :=
  if o = FEED_STAT.off then
    let sets := ((s.feedTidy n).feed n).sets
    let fill := (sets.filter FSet.open_).length
    putBits (putBits v 3 2 (min 3 fill)) 1 0 (3 - min 3 sets.length)
  else if o = FEED_NEWDCN.off then s.feedNewDcn n
  else if o = FEED_BYTES.off then (if s.active (pgFEED + n) then s.feedB n else 0)
  else v

/-- WIN: WIN_TOTAL and WIN_START (R134). -/
def viewWin (s : State) (o v : Nat) : Nat :=
  if o = WIN_TOTAL.off then ((List.range 16).filter s.winOn).length * 2 ^ 16 + s.allSweeps
  else match winOfOff o with
    | some w => if o % 32 = 0x18 then (if s.active pgWIN then winFirst s.regs w else 0) else v
    | none => v

/-- PAL: the clip store (Table 6.11). -/
def viewPal (s : State) (o v : Nat) : Nat :=
  if 0xC00 ≤ o then
    match clipOf s.clips ((o - 0xC00) / 8) with
    | some c => if o % 8 = 0 then c.height * 2 ^ 16 + c.width else c.frames.length
    | none => 0
  else v

/-- A speed monitor: a free value while the half-array serves (R13). -/
def speedMon (s : State) (b : Bool) (k : Nat) : Nat := if s.halfServes b then Config.freeValue (s.freeCtr + k) % 2 ^ 16 else 0

/-- PIX (Table 7.8): speed monitors, jobs in progress and released, a blend job among them. -/
def viewPix (s : State) (o v : Nat) : Nat :=
  if o = PIX_SPEED.off then s.speedMon true 1 * 2 ^ 16 + s.speedMon false 0
  else if o = PIX_QUEUE.off then
    let blend := s.blendState == 1
    (s.pix.jobs.length + b2n (blend && s.blend.begun)) % 32 * 2 ^ 16 +
      (s.pix.released.length + b2n (blend && !s.blend.begun)) % 32
  else v

/-- TFIELD: sensors in use, and each sensor's reading. -/
def viewTfield (s : State) (o v : Nat) : Nat :=
  if o = TF_STAT.off then putBits v 21 16 ((List.range 48).filter fun k => s.sensorOn k && !s.sensorFailed k).length
  else if TF_SRD.off ≤ o ∧ o < TF_SRD.off + 4 * 48 then
    let k := (o - TF_SRD.off) / 4
    putBits (putBits v 31 31 (b2n (s.sensorValid k))) 30 30 (b2n (s.sensorFailed k))
  else v

/-- DIM: the lit grains, the mode counts and the probe (R187). -/
def viewDim (s : State) (w : Who) (o v : Nat) : Nat :=
  if o = DIM_STAT.off then
    let c := s.fg DIM_CUR
    let der := match s.scan.occ with
      | some x => x.derive_
      | none => false
    let off := !bit c 31 || decide (s.litG < 16 * bitsOf c 27 16)
    b2n der * 2 ^ 31 + b2n off * 2 ^ 30 + (if s.tim.running then s.litG else 0)
  else if DIM_MC0.off ≤ o ∧ o ≤ DIM_MC3.off then
    match nth s.scan.lastOcc (s.fgb w.bank DIM_MSEL_WIN) none with
    | some x => nth x.modes ((o - DIM_MC0.off) / 4) 0
    | none => 0
  else if DIM_PCTL.off ≤ o ∧ o ≤ DIM_PDCN.off then
    match nth s.scan.lastOcc (s.fgb w.bank DIM_PSEL_WIN) none with
    | some x => nth (x.probe (s.fgb w.bank DIM_PSEL_LAMP)) ((o - DIM_PCTL.off) / 4) 0
    | none => 0
  else v

/-- WIRE: the map in force and the lamp queried (Table 9.9). -/
def viewWire (s : State) (w : Who) (o v : Nat) : Nat :=
  if o = WIRE_PIX.off then s.wmap.pmap
  else if o = WIRE_LAMPS.off then s.wmap.lamps
  else if o = WIRE_USE.off then
    s.wmap.rowsUsed * 2 ^ 16 + (List.range 16).foldl (fun v k => v + b2n (s.wmap.usesStone k) * 2 ^ k) 0
  else if o = WIRE_QRES0.off then (s.wireQres (s.fgb w.bank WIRE_QSEL_LAMP)).1
  else if o = WIRE_QRES1.off then (s.wireQres (s.fgb w.bank WIRE_QSEL_LAMP)).2
  else v

/-- STONE page `k`: headroom and currents read 0 while it is disabled (R207); trim codes of the values in force. -/
def viewStone (s : State) (k o v : Nat) : Nat :=
  let cur (c : Nat) : Nat := Machine.stoneCurrent s.regs k c / 10
  if ST_TRIM.off ≤ o ∧ o < ST_TRIM.off + 4 * 24 then
    let m := (o - ST_TRIM.off) / 4
    match s.trim.run with
    | some b => (List.range 4).foldl (fun v i => v + twos 7 (nth b.sinks (96 * k + 4 * m + i) 0) * 2 ^ (8 * i)) 0
    | none => 0
  else if ST_HR.off ≤ o ∧ o ≤ ST_ISUM.off ∧ enabledR s.regs (pgSTONE + k) = false then 0
  else if o = ST_IRG.off then cur 0 * 2 ^ 16 + cur 1
  else if o = ST_IB.off then cur 2
  else if o = ST_ISUM.off then stoneIsum s.regs s.wmap k 0 * 2 ^ 16 + stoneIsum s.regs s.wmap k 1
  else v

/-- HEALTH: counts, the lamp queried and the list entry selected (Table 10.7). -/
def viewHealth (s : State) (w : Who) (o v : Nat) : Nat :=
  if o = HEALTH_SUM.off then s.healthSum
  else if o = HEALTH_QRES.off then s.healthQres (s.fgb w.bank HEALTH_QSEL_LAMP)
  else if o = HEALTH_LCNT.off then s.healthLcnt
  else if o = HEALTH_LENT.off then (s.healthLent (s.fgb w.bank HEALTH_LSEL_INDEX)).1
  else if o = HEALTH_LDCN.off then (s.healthLent (s.fgb w.bank HEALTH_LSEL_INDEX)).2
  else v

/-- RDBK: the sink read out. -/
def viewRdbk (s : State) (w : Who) (o v : Nat) : Nat :=
  if RB_SPLAN_S.off ≤ o ∧ o ≤ RB_SPULSE.off then nth (s.rdbkRead (s.fgb w.bank RB_SSEL_SINK)) ((o - RB_SPLAN_S.off) / 4) 0 else v

/-- SUPPLY: rail states, the pin, shadows still to load, setpoints in mV (Table 11.9). -/
def viewSupply (s : State) (o v : Nat) : Nat :=
  if o = SUP_STAT.off then
    b2n s.sup.sfltn * 2 ^ 10 + b2n s.sup.halt * 2 ^ 9 + b2n (s.sup.phases.any (·.due)) * 2 ^ 8 + (s.rail 1).st * 2 ^ 4 + (s.rail 0).st
  else if o = SUP_VSET.off then satN 16 (s.rail 1).vset * 2 ^ 16 + satN 16 (s.rail 0).vset
  else v

/-- TRIM: bins and taps, which read 0 until self-trim has passed. -/
def viewTrim (s : State) (o v : Nat) : Nat :=
  if o = TRIM_BINS.off then putBits v 19 19 (b2n s.trim.writing.isSome)
  else if TRIM_BT.off ≤ o ∧ o < TRIM_BT.off + 4 * 5 then
    match nth s.trim.bins ((o - TRIM_BT.off) / 4) none with
    | some b => if s.trimPass then 2 ^ 31 + twos 16 b.tm else 0
    | none => 0
  else if TRIM_TAP.off ≤ o ∧ o < TRIM_TAP.off + 4 * 16 then
    let q := (o - TRIM_TAP.off) / 4
    match s.trim.run with
    | some b => if s.trimPass then twos 16 (nth b.taps (2 * q + 1) 0) * 2 ^ 16 + twos 16 (nth b.taps (2 * q) 0) else 0
    | none => 0
  else v

/-- OSEC: the challenge and CERTCFG. -/
def viewOsec (s : State) (o v : Nat) : Nat :=
  if o = OSEC_STAT.off then putBits v 31 16 s.chalLeft else if o = OSEC_LC.off then putBits v 9 9 (b2n s.certCfg) else v

/-- UPD: the piece bitmap of the requester's group. -/
def viewUpd (s : State) (w : Who) (o v : Nat) : Nat :=
  if UPD_MAP.off ≤ o then
    let i := 4096 * s.fgb w.bank UPD_MBASE_GROUP + 32 * ((o - UPD_MAP.off) / 4)
    (List.range 32).foldl (fun v j => v + b2n (s.pieceGot (i + j)) * 2 ^ j) 0
  else v

/-- The conditions of R370 as FLT_COND reports them. That the board keeps the operating conditions is a free value. -/
def fltCond (s : State) : Nat :=
  let checks := s.fg RB_CFG_EN == 1 && s.fg RB_CFG_ACT == 1 && s.fg RB_CFG_AUDIT_EN == 1 && s.fg HEALTH_CFG_OPEN_EN == 1 &&
    s.fg HEALTH_CFG_SHORT_EN == 1 && decide (s.fg HEALTH_CFG_CONF ≤ 4)
  let unmasked := usedPages.all fun p => s.fg (hFMASK p) == 0
  let sensors := (List.range 48).all fun k =>
    !s.sensorOn k || (s.sensorValid k && s.fgk TF_SB_P1 0 k != s.fgk TF_SB_P2 0 k &&
      [s.fgk TF_SB_P1 0 k, s.fgk TF_SB_P2 0 k].all fun q => q != k && s.sensorValid q)
  let ring := s.hbOk 1 && s.fg CH_PATH_AUTOSW == 1
  let op := Config.freeBit s.freeCtr
  let l := [op, ring, Config.flashFitted, sensors, unmasked, checks]
  (l.zipIdx.foldl (fun v x => v + b2n x.1 * 2 ^ x.2) 0) + b2n (l.all id) * 2 ^ 31

/-- FAULT (Table 17.15). -/
def viewFault (s : State) (o v : Nat) : Nat :=
  if o = FLT_CAUSE.off then s.activeCauses
  else if o = FLT_COND.off then s.fltCond
  else if FLT_PAGE.off ≤ o ∧ o < FLT_PAGE.off + 4 * 8 then
    let m := (o - FLT_PAGE.off) / 4
    (List.range 32).foldl (fun v j => v + b2n ((pageRow? (32 * m + j)).isSome && s.faultOn (32 * m + j)) * 2 ^ j) 0
  else v

/-- A block register as page `p` shows it; `v` is what the register file holds. -/
def viewBlock (s : State) (w : Who) (p o v : Nat) : Nat :=
  if p = pgFIRKIN then s.viewFirkin w o v
  else if p = pgEVTQ then s.viewEvtq w o v
  else if p / 16 = 1 then s.viewTen (p - pgTEN) o v
  else if p = pgTIME then s.viewTime o v
  else if p / 16 = 3 then s.viewFeed (p - pgFEED) o v
  else if p = pgWIN then s.viewWin o v
  else if p = pgPAL then s.viewPal o v
  else if p = pgPIX then s.viewPix o v
  else if p = pgTFIELD then s.viewTfield o v
  else if p = pgDIM then s.viewDim w o v
  else if p = pgWIRE then s.viewWire w o v
  else if p / 16 = 7 then s.viewStone (p - pgSTONE) o v
  else if p = pgHEALTH then s.viewHealth w o v
  else if p = pgRDBK then s.viewRdbk w o v
  else if p = pgSUPPLY then s.viewSupply o v
  else if p = pgAUXPWM then (if o = AUX_STAT.off then s.auxLevel 1 * 2 + s.auxLevel 0 else v)
  else if p = pgTRIM then s.viewTrim o v
  else if p = pgSPIB ∧ o = SPIB_STAT.off ∧ s.flashBusy = true ∧ s.now < s.ser.opAt then putBits v 2 0 1
  else if p = pgOSEC then s.viewOsec o v
  else if p = pgUPD then s.viewUpd w o v
  else if p = pgFAULT then s.viewFault o v
  else v

/-- What register `o` of page `p` reads for a requester now, write-only fields as 0. -/
def readNow (s : State) (w : Who) (p o : Nat) (g : Reg) : Nat :=
  let v := rget s.regs (bankOfReg s.regs w p o) p o
  let wo := g.flds.foldl (fun m f => if f.acc = .wo then Nat.lor m f.mask else m) 0
  let v := v - Nat.land v wo
  (if o = 0x000 then pgIdOf p
  else if o = 0x004 then pgCapOf p
  else if o = 0x00C then s.pgStat p
  else if o = 0x020 ∧ bit v 4 = true then Nat.lor v 15
  else if o < 0x040 then v
  else s.viewBlock w p o v) % 2 ^ 32

/-! ### Wide values (R33) -/

end State

/-- The registers of a wide value, lowest first (R33, R56, R97, R120, R121, Table 2.20). -/
def wideGroups : List (Nat × List Nat) :=
  [(pgSYS, [SYS_UID0.off, SYS_UID1.off]), (pgEVTQ, [EQ_E0.off, EQ_E1.off, EQ_E2.off, EQ_E3.off]),
    (pgFIRKIN, [FK_TSEC_H.off, FK_TSEC_L.off]), (pgCHAIN, [CH_UPDA_H.off, CH_UPDA_L.off]), (pgPTP, [PTP_GMID_H.off, PTP_GMID_L.off]),
    (pgTIME, [TIME_NOW_SH.off, TIME_NOW_SL.off, TIME_NOW_NS.off]), (pgTIME, [TIME_CS_SH.off, TIME_CS_SL.off, TIME_CS_NS.off])]

/-- The wide value that a register belongs to, and its place there. -/
def wideOf (p o : Nat) : Option (List Nat × Nat) :=
  (wideGroups.find? fun x => x.1 == p && x.2.contains o).map fun x => (x.2, (findIdx? x.2 (· == o)).getD 0)

namespace State

/-- Keep a snapshot for an access path. -/
def latch (s : State) (key addr : Nat) (ws : List Word) : State :=
  s.modFab fun f => { f with latches := f.latches.filter (fun (x : Nat × Nat × List Word) => !(x.1 == key && x.2.1 == addr)) ++ [(key, addr, ws)] }

/-- The snapshot an access path holds of the value whose lowest register has an address. -/
def snapshot (s : State) (key addr : Nat) : Option (List Word) :=
  (s.fab.latches.find? fun (x : Nat × Nat × List Word) => x.1 == key && x.2.1 == addr).map (·.2.2)

/-- Fields of type RC clear with a read (Table 2.3). -/
def readClears (s : State) (w : Who) (p o : Nat) (g : Reg) : State :=
  let m := g.flds.foldl (fun m f => if f.acc = .rc then Nat.lor m f.mask else m) 0
  if m = 0 then s
  else if p = pgEVTQ then s.modTen (s.eqView w) fun t => { t with evq := { t.evq with lost := 0 } }
  else
    let b := bankOfReg s.regs w p o
    let v := rget s.regs b p o
    { s with regs := rput s.regs b p o (v - Nat.land v m) }

/-- A permitted read of a register: the word, and what reading changes. The lowest register of a wide value takes a snapshot, higher
ones return it (R33). -/
def readReg (s : State) (path : Path) (w : Who) (p o : Nat) (g : Reg) : State × Nat :=
  let v := s.readNow w p o g
  let s' := (s.readClears w p o g)
  let s' := if (p = pgPIX ∧ o = PIX_SPEED.off) ∨ (p = pgFAULT ∧ o = FLT_COND.off) then { s' with freeCtr := s'.freeCtr + 2 } else s'
  match wideOf p o with
  | none => (s', v)
  | some (os, 0) =>
    let ws := os.map fun x => BitVec.ofNat 32 (match anyRegAt p x with
      | some r => s.readNow w p x r
      | none => 0)
    (s'.latch (pathKey w (some path)) (regAddr p o) ws, v)
  | some (os, k) => (s', match s.snapshot (pathKey w (some path)) (regAddr p (nth os 0 0)) with
    | some ws => (nth ws k 0).toNat
    | none => v)

/-- One read by an admitted requester (R32, R59): the state, the result and the word, 0 when a code is reported. -/
def accessRead (s : State) (path : Path) (w : Who) (addr : Nat) : State × Rc × Nat :=
  let bad (c : Rc) : State × Rc × Nat := (s.refuse w c, c, 0)
  let d := addr % 2 ^ 16
  match addrReg addr with
  | none => bad ⟨if addr % 4 ≠ 0 then 0x1004 else 0x1005, d⟩
  | some (p, o) =>
    if addr % 4 ≠ 0 then bad ⟨pageCode 1 p 4, d⟩
    else match anyRegAt p o with
      | none => bad ⟨pageCode 1 p 5, d⟩
      | some g =>
        if !mayReadR s.regs w p then bad ⟨pageCode 5 p 1, w.slot⟩
        else
          let r := s.readReg path w p o g
          (r.1, ⟨0, 0⟩, r.2)

end State

end Sys2Proof.Machine
end

