-- ==== Sys2Proof/Machine/Fabric.lean ====
section
/-! DEFINITION. Direct register writes and reads (R32 to R43): what an accepted write of each register does, the general SRAM and DRAM
that the cores reach (Table 2.1), and the commands that write PG_CTRL (R41, R42, R44), pop the event queue (R56), run admission dry
(R119), return engines and sensors to service (R156, R159) and set the override (R185). -/

namespace Sys2Proof.Machine

/-! ### Writes that may be refused for the state of the device -/

namespace State

/-- LPBK outside SERVICE (R96). -/
def lpbkFail (s : State) (w : Who) (p o data : Nat) : Option Rc :=
  if pgLNK ≤ p ∧ p < pgCHAIN ∧ o = LNK_CFG.off ∧ bitsOf data LNK_CFG_LPBK.hi LNK_CFG_LPBK.lo ≠ 0 ∧ s.mode ≠ .service then
    some ⟨0x5201, w.slot⟩
  else none

/-- The override (R185): EN outside SERVICE, and, while EN is 1, FIRST above LAST or ROW beyond the scan ratio. -/
def overrideFail (s : State) (w : Who) (p o data : Nat) : Option Rc :=
  if p = pgEDGE ∧ EDGE_OVR_CTRL.off ≤ o ∧ o ≤ EDGE_OVR_OFF.off then
    let c := if o = EDGE_OVR_CTRL.off then data else s.fg EDGE_OVR_CTRL
    let x := if o = EDGE_OVR_SEL.off then data else s.fg EDGE_OVR_SEL
    if bit c 0 = false then none
    else if o = EDGE_OVR_CTRL.off ∧ s.mode ≠ .service then some ⟨0x5610, w.slot⟩
    else if bitsOf x 26 16 < bitsOf x 10 0 then some ⟨0x2613, bitsOf x 10 0⟩
    else if s.rows ≤ bitsOf c 14 8 then some ⟨0x2612, bitsOf c 14 8⟩
    else none
  else none

/-- A plain register's write by path `path`: the first half of a wide value waits for the second (R33). -/
def plainWrite (s : State) (path : Path) (w : Who) (p o : Nat) (g : Reg) (data : Nat) : State :=
  let key := pathKey w (some path)
  match wideLast p o with
  | some _ => s.keepHalf key p data
  | none =>
    let s := match if wideLast p (o - 4) = some o then s.halfOf key p else none, anyRegAt p (o - 4) with
      | some v, some h => (storeReg s w p (o - 4) h v).dropHalf key p
      | _, _ => s
    storeReg s w p o g data

/-- EQ_POP: the head of the viewed queue leaves (Table 2.32). -/
def eqPop (s : State) (w : Who) : State :=
  s.modTen (s.eqView w) fun t => { t with evq := { t.evq with q := t.evq.q.drop 1, unsent := min t.evq.unsent (t.evq.q.length - 1) } }

/-- DRY: admission of the state after every pending firkin (R119). -/
def dry (s : State) : State := s.admReport (admRun s.afterPending) 2 0 0

end State

/-- A write of EQ_POP. -/
def hEqPop : Handler := fun s w _ _ _ data => .ok (if data % 2 = 1 then s.eqPop w else s)

/-- A write of ADM_CMD. -/
def hAdmCmd : Handler := fun s _ _ _ _ data => if data % 16 = 1 then .ok s.dry else .error ⟨0x1303, 0⟩

/-- A write of PG_CTRL (R41, R42, R44). -/
def hPgCtrl : Handler := fun s w p _ _ data => .ok (s.pgCtrlWrite w p data)

/-- A register whose write only changes fields and what follows from them. -/
def hPlain (path : Path) : Handler := fun s w p o g data =>
  match firstOf [s.lpbkFail w p o data, s.overrideFail w p o data, if o < 0x040 then none else bankFail s s.regs p o] with
  | some c => .error c
  | none => .ok (s.effect (s.plainWrite path w p o g data) w.bank (rfgetB s.regs w.bank PAL_SEL_FEED 0 0) p o data (2 ^ 32 - 1) false)

/-- The handler of a register of the system, tenant and update pages. -/
def sysHandler (env : Env) (p o : Nat) : Option Handler :=
  if o = 0x008 then some hPgCtrl
  else if p = pgSYS then (if o = SYS_MODE.off then some hSysMode else none)
  else if p = pgRST then (if o = RST_CMD.off then some hRstCmd else if o = RST_KICK.off then some hKick else none)
  else if p = pgADMIT then (if o = ADM_CMD.off then some hAdmCmd else none)
  else if p = pgFIRKIN then (if o = FK_CMD.off then some hFkCmd else if o = FK_SDATA.off then some hFkData else none)
  else if p = pgEVTQ then (if o = EQ_POP.off then some hEqPop else none)
  else if p / 16 = 1 then (if o = TEN_CMD.off then some hTenCmd else if o = TEN_RUN.off then some hTenRun else none)
  else if p = pgOSEC then (if o = OSEC_CMD.off then some (hOsecCmd env.obj) else none)
  else if p = pgATTEST then (if o = ATT_CMD.off then some hAttCmd else none)
  else if p = pgUPD then (if o = UPD_CMD.off then some (hUpdCmd env.bundle) else none)
  else if p = pgDBG then (if o = DBG_HALT.off then some hDbgHalt else none)
  else none

/-- The handler of a register of the display, supply, memory and serial pages. -/
def devHandler (env : Env) (p o : Nat) : Option Handler :=
  if p = pgHEALTH then (if o = HEALTH_CMD.off then some hHealthCmd else none)
  else if p = pgRDBK then (if o = RB_CLR.off then some hRbClr else none)
  else if p = pgSUPPLY then (if o = LOAD_ALL.off then some hLoadAll else none)
  else if pgPHASE ≤ p ∧ p < pgPHASE + 8 then (if o = PH_TEST.off then some hPhTest else none)
  else if p = pgTRIM then (if o = TRIM_CMD.off then some hTrimCmd else none)
  else if p = pgMECC then (if o = ME_INJ.off then some hInject else if o = ME_INJA.off then some hInjectAddr else none)
  else if p = pgSPIB then (if o = SPIB_CMD.off then some (hSpibCmd env.flash) else if o = SPIB_CFG.off then some hSpibCfg else none)
  else if p = pgSPIC then (if o = SPIC_GCMD.off then some (hGcmd env.freed) else if o = SPIC_XFER.off then some hSpicXfer else none)
  else if p = pgTWI then
    (if o = TWI_GCMD.off then some (hGcmd env.freed) else if o = TWI_XFER.off then some (hTwiXfer env.sdaLow) else none)
  else none

/-- What an accepted write of any register does, by path `path`. -/
def hWrite (env : Env) (path : Path) : Handler := fun s w p o g data =>
  match (sysHandler env p o).orElse fun _ => devHandler env p o with
  | some h => h s w p o g data
  | none => hPlain path s w p o g data

/-! ### Memory of the cores (Table 2.1) -/

namespace State

/-- The words of a 64-byte block that a 32-bit write at `addr` holds. -/
def wordBytes (addr : Nat) (data : Word) : List (Option Byte) :=
  (List.range 64).map fun i =>
    if addr % 64 ≤ i ∧ i < addr % 64 + 4 then some (BitVec.ofNat 8 (data.toNat / 2 ^ (8 * (i - addr % 64)))) else none

/-- The requester of DRAM that a path is. -/
def pathUser (p : Path) : DUser := if p = .osec then .osec else .mgmt

/-- A 32-bit access by address outside the register pages; `wr` the word written, none a read. -/
def memAccess (s : State) (a : Sys2Proof.Access) (addr : Nat) (wr : Option Word) : State :=
  let region := regionOf s.viewBytes addr
  let bad (c : Rc) : State := (s.refuse a.who c).emit (.res c [])
  if addr % 4 ≠ 0 then bad ⟨0x1004, addr % 2 ^ 16⟩
  else if !reaches a.path region then bad ⟨0x5001, a.who.slot⟩
  else match region, wr with
    | .unmapped, _ => bad ⟨0x1005, addr % 2 ^ 16⟩
    | .sram, some v => { s with sram := cput s.sram (addr / 4) v 0 }.emit (.res ⟨0, 0⟩ [])
    | .sram, none => s.emit (.res ⟨0, 0⟩ [cget s.sram (addr / 4) 0])
    | .dram, some v => s.dramRequest (pathUser a.path) addr (some (wordBytes addr v))
    | .dram, none => s.dramRequest (pathUser a.path) addr none
    | .xip, _ => s.emit .coreError

/-- The address lies in the register pages, or in no region. -/
def regSide (s : State) (addr : Nat) : Bool := regionOf s.viewBytes addr == .unmapped

/-- A direct read, its result on the requester's path. -/
def directRead (s : State) (a : Sys2Proof.Access) (addr : Nat) : State :=
  if !s.regSide addr then s.memAccess a addr none
  else match grantAccess s a addr with
    | .error c => (s.notAdmitted a c).emit (.res c [0])
    | .ok (s, w) =>
      let r := s.accessRead a.path w addr
      r.1.emit (.res r.2.1 [BitVec.ofNat 32 r.2.2])

/-- A write of PG_CTRL of page `p` that changes some of its bits. -/
def ctrlBits (s : State) (p data : Nat) : Nat := Nat.lor (s.reg p 0x008 - Nat.land (s.reg p 0x008) 7) data

end State

/-! ### Commands -/

/-- REGISTER_WRITE (R32, R36, R38, R43). -/
def execRegisterWrite (a : Sys2Proof.Access) (addr : Nat) (data : Word) (env : Env) (s0 : State) : Ans State :=
  let s := s0.begin_
  .next (if s.regSide addr then direct s a addr data.toNat (hWrite env a.path) else s.memAccess a addr (some data))

/-- SNAPSHOT_READ (R33): a read; that of the lowest register of a wide value latches the whole of it. -/
def execSnapshotRead (a : Sys2Proof.Access) (addr : Nat) (s : State) : Ans State := .next (s.begin_.directRead a addr)

/-- READ_CLEAR (R35): a read; RC fields clear. -/
def execReadClear (a : Sys2Proof.Access) (addr : Nat) (s : State) : Ans State := .next (s.begin_.directRead a addr)

/-- A direct write of PG_CTRL: HOLD and the page's own bits as given by `bits` over the present value. -/
def ctrlWrite (s : State) (a : Sys2Proof.Access) (p data : Nat) : State := direct s.begin_ a (regAddr p 0x008) data hPgCtrl

/-- ENABLE (R41): PG_CTRL.ENABLE is written 1. -/
def execEnable (a : Sys2Proof.Access) (page : Nat) (s : State) : Ans State :=
  .next (ctrlWrite s a page (s.ctrlBits page (s.fg (hHOLD page) * 4 + 1)))

/-- DISABLE (R41): PG_CTRL.ENABLE is written 0. -/
def execDisable (a : Sys2Proof.Access) (page : Nat) (s : State) : Ans State :=
  .next (ctrlWrite s a page (s.ctrlBits page (s.fg (hHOLD page) * 4)))

/-- PAGE_RESET (R42): PG_CTRL.RESET is written 1. -/
def execPageReset (a : Sys2Proof.Access) (page : Nat) (s : State) : Ans State :=
  .next (ctrlWrite s a page (s.ctrlBits page (s.fg (hHOLD page) * 4 + 2 + s.fg (hENABLE page))))

/-- HOLD (R44, Table 2.8): PG_CTRL.HOLD is written. -/
def execHold (a : Sys2Proof.Access) (page : Nat) (on : Bool) (s : State) : Ans State :=
  .next (ctrlWrite s a page (s.ctrlBits page (b2n on * 4 + s.fg (hENABLE page))))

/-- ENABLE_CHECK_DONE (R41, R49). -/
def execEnableCheckDone (page : Nat) (s : State) : Ans State := .next (s.begin_.enableChecked page)

/-- UNIT_START (R41): the start armed for the span boundary. -/
def execUnitStart (page : Nat) (s : State) : Ans State := .next (State.startNow false s.begin_ page)

/-- UNIT_STOP (R41): the stop armed for the span boundary. -/
def execUnitStop (page : Nat) (s : State) : Ans State := .next (s.begin_.stopNow page)

/-- PAGE_RESET_APPLY (R42): the page reset armed for the span boundary. -/
def execPageResetApply (page : Nat) (s : State) : Ans State := .next (s.begin_.resetAct page)

/-- EQ_POP (R56). -/
def execEqPop (a : Sys2Proof.Access) (s : State) : Ans State := .next (direct s.begin_ a (regAddr pgEVTQ EQ_POP.off) 1 hEqPop)

/-- DRY (R119). -/
def execDry (a : Sys2Proof.Access) (s : State) : Ans State := .next (direct s.begin_ a (regAddr pgADMIT ADM_CMD.off) 1 hAdmCmd)

/-- RETURN_TO_SERVICE (R156): a write of PIX_RET_A or PIX_RET_B. -/
def execReturnToService (a : Sys2Proof.Access) (half : Fin 2) (data : Word) (s : State) : Ans State :=
  .next (direct s.begin_ a (regAddr pgPIX (if half = 0 then PIX_RET_A.off else PIX_RET_B.off)) data.toNat (hPlain a.path))

/-- SENSOR_RETURN (R159): a write of TF_SFAIL0 or TF_SFAIL1. -/
def execSensorReturn (a : Sys2Proof.Access) (half : Fin 2) (data : Word) (s : State) : Ans State :=
  .next (direct s.begin_ a (regAddr pgTFIELD (if half = 0 then TF_SFAIL0.off else TF_SFAIL1.off)) data.toNat (hPlain a.path))

/-- OVERRIDE (R185): a write of EDGE_OVR_CTRL, _SEL, _ON or _OFF (`k` 0 to 3). -/
def execOverride (a : Sys2Proof.Access) (k : Fin 4) (data : Word) (s : State) : Ans State :=
  .next (direct s.begin_ a (regAddr pgEDGE (EDGE_OVR_CTRL.off + 4 * k.val)) data.toNat (hPlain a.path))

end Sys2Proof.Machine
end

