-- ==== Sys2Proof/Machine/Cycle.lean ====
section
/-! DEFINITION. The boundaries of time: span boundaries (R190), display-cycle starts (R107 to R110), and everything that waits for one of
them and acts between two spans (R41, R42, R50, R65, R217, R222, R254, R364) or at a cycle start (R15, R25, R45, R63, R94, R137, R218,
R317, R342, R356, R367). -/

namespace Sys2Proof.Machine

namespace State

/-! ### What waits for a boundary -/

/-- Everything armed for a span boundary acts between two spans: starts, stops and page resets, then the firkins due in the order of
acceptance (R50), then ordered tenant resets (R71), accepted objects, stones, health clears, trim values, domains, rails and half-arrays.
`dcns`: the DCN that starts here, if any; `rx`: what transfers stopped here have received. -/
def boundaryActs (s : State) (dcns : List Nat) (atCycle : Bool) (rx : StopRx) : State :=
  let stops (p : Nat) : Bool := s.fab.stopping.contains (pgLNK + p) || s.fab.resetting.contains (pgLNK + p)
  let s := ((rx.cut.filter fun p => decide (p < 4) && s.active (pgLNK + p) && stops p).foldl State.cutFrame s).hbTick.unitsBoundary atCycle
  let s := (s.fkApplyDue dcns atCycle s.fab.fks.length).resetAll rx
  let s := s.objBoundary.rdbkBoundary.healthBoundary.trimBoundary.domainSwitch.railBoundary
  ((s.halfBack false).halfBack true).sleepGo

/-- What waits for a display-cycle boundary acts here while no cycles are generated: derate steps and mode changes (R356, R367). -/
def idleActs (s : State) : State := s.derateBoundary.modeGo

/-! ### Link load (R94) -/

/-- Payload measured on a port over the cycle that ends; L0 and L1 are compared with the declaration. -/
def loadPort (s : State) (p : Nat) : State :=
  let g := s.now - s.lnk.measureAt
  let bits := 8 * (s.port p).down
  let s := (s.fsi LNK_LOAD_MBPS p (if g = 0 then 0 else satN 16 (bits * Config.us / g))).modPort p fun x => { x with down := 0 }
  if p < 2 ∧ (localBps s.regs + declBps s.regs p) * 101 * g < bits * Config.sec * 100 then s.faultBit pgCHAIN 3 else s

/-- LNK_LOAD of every port at a cycle's end. -/
def loadCycle (s : State) : State :=
  let s := (List.range 4).foldl State.loadPort s
  { s with lnk := { s.lnk with measureAt := s.now } }

/-! ### The plan audit (R218) -/

/-- The coefficient copy a plan was computed from has been rewritten (R25). -/
def copyGone (s : State) (pl : Plan) : Bool :=
  decide (pl.inp.copy + 1 < s.blend.swaps) || (decide (pl.inp.copy + 1 = s.blend.swaps) && s.blend.rewriting)

/-- An audit mismatch of a slice of a plan shown: the window's job is released again, with the slice and its engine to be judged. -/
def auditMiss (s : State) (w : Nat) (pl : Plan) (slice : Nat) : State :=
  let s := s.inc RB_AUDIT_MISMATCH 0 1
  let had := s.pix.released.any fun x => x.win == w && !(x.audit.any (·.solo))
  let s := s.releaseWin w
  s.modPix fun p => { p with released := p.released.map fun x =>
    if x.win = w then { x with audit := some ⟨pl.id, ((x.audit.map (·.slices)).getD []) ++ [(slice, nth pl.engines slice 0)], !had⟩ } else x }

/-- The lamp of a slice that the audit of DCN `dcn` recomputes in window `w`. -/
def auditLamp (dcn w slice : Nat) : Nat := 768 * slice + (7 * (dcn % 2 ^ 16) + 97 * w) % 768

/-- The slices of a plan whose audited lamp differs: the entry read from the store, with the error that `err` gives its bits, against the
recomputed one. Lamps beyond the map are skipped. -/
def auditBad (s : State) (err : List (Nat × Nat × Nat)) (w : Nat) (pl : Plan) (ents : List Nat) : List Nat :=
  (List.range pl.engines.length).filter fun k =>
    let l := auditLamp s.dcn w k
    let flip := ((err.find? fun x => x.1 == w && x.2.1 == k).map (·.2.2)).getD 0
    decide (l < pl.inp.wire.lamps) && (nth ents l 0 ^^^ flip) != pl.inp.entryAt pl.zero l

/-- The audit of the plans that the cycle has shown; `err`: bits that reading or recomputing gets wrong, by window and slice. -/
def auditCycle (s : State) (err : List (Nat × Nat × Nat)) : State :=
  if s.fg RB_CFG_AUDIT_EN = 0 then s
  else s.scan.shown.foldl (fun s x =>
    if s.copyGone x.2.1 then s.inc RB_AUDIT_SKIP 0 1
    else (s.auditBad err x.1 x.2.1 x.2.2).foldl (fun s k => s.auditMiss x.1 x.2.1 k) s) s

/-! ### Spans (R190) -/

/-- The pulse on CYCLEOUT when the span that starts opens a window (R113). -/
def windowPulse (s : State) : State := match s.scan.win with
  | some w => if s.scan.sweep = winFirst s.regs w ∧ s.scan.span = 0 then s.cycleOut (some w) else s
  | none => s

/-- A span without a pulse: from the last span boundary before an earlier start under RESYNC semantics (R108). -/
def darkSpan (s : State) : State :=
  let s := (s.endOcc s.placeNo).sweepCut
  ((s.noteSeen.readDbe []).modScan fun c => { c with
    win := none, driven := false, drive := none, placed := [], next := none, startAt := s.now }).showScan

/-- The cycle in progress is cut by a RESYNC start earlier than its own end, before the span that would start now is over (R108). -/
def cutHere (s : State) : Bool := match s.nextCycle with
  | some c => c.resync && decide (c.g < s.ownStart.g) && decide (c.g < s.now + s.spanLen)
  | none => false

/-- A span boundary within a display cycle, at grain `t`. -/
def spanNext (s : State) (e : SpanEnv) (t : Nat) : State :=
  let s := (s.advance t).endSpan e true
  let sweep := s.scan.span + 1 == s.rows
  let loop := s.sweepLast
  let s := s.nextPlace.boundaryActs [] false e.rx
  let s := if loop && s.tim.running then s.headroomLoop else s
  let s := if sweep then s.stageSweep else s
  if !s.tim.running then s else if s.cutHere then s.darkSpan else (s.startSpan e).windowPulse

/-- A span boundary: the next one within the cycle, unless the next cycle start comes first; without cycles, the next multiple of 32
grains. None comes in SLEEP. -/
def spanBoundary (s : State) (e : SpanEnv) : State :=
  if s.mode = .sleep then s
  else if s.tim.running then
    let t := s.scan.startAt + s.spanLen
    match s.nextCycle with
    | some c => if c.g ≤ t then s else s.spanNext e t
    | none => s.spanNext e t
  else ((s.advance ((s.now / 32 + 1) * 32)).boundaryActs [] false e.rx).idleActs

/-! ### Cycle starts (R107 to R110) -/

/-- DCN-triggered firkins whose DCN a forward move skips are discarded (R109). -/
def lapseSkipped (s : State) (old new : Nat) : State :=
  s.pendFks.foldl (fun s f => match f.trig with
    | .dcn n => if dcnFuture n old && dcnFuture new n then s.fkLapse f else s
    | _ => s) s

/-- The cycle in progress ends at the start `c` of the next. `own`: grain of its own end. -/
def endCycle (s : State) (c : CycNext) (own : Nat) (e : SpanEnv) (err : List (Nat × Nat × Nat)) : State :=
  let whole := decide (s.scan.startAt + s.spanLen ≤ c.g)
  let s := (s.advance c.g).endSpan e whole
  let s := if c.resync && decide (c.g < own) then s else s.rdbkCompare.stuckTest
  (s.auditCycle err).loadCycle.memCycle.feedsStale

/-- What acts at the start of DCN `d`, after what every span boundary does. -/
def cycleActs (s : State) (d : Nat) (rx : StopRx) : State :=
  let s := s.keysCycle.boundaryActs [d] true rx
  let s := s.floodCycle.blendBoundary.feedsCycle
  let s := (List.range 16).foldl State.pattCycle s
  let s := (s.derateBoundary.modeGo.stageCycle.activateDue d).applyDue d
  s.pairsCycle

/-- The next cycle start, when no span boundary comes before it. TIME disabled ends the cycles instead (Table 5.4). -/
def cycleStart (s : State) (e : SpanEnv) (err : List (Nat × Nat × Nat)) : State := match s.nextCycle with
  | none => s
  | some c =>
    if s.tim.running ∧ s.scan.startAt + s.spanLen < c.g then s
    else
      let old := s.dcn
      let s := if s.tim.running then s.endCycle c s.ownStart.g e err else (s.advance c.g).noteSeen.noteSeen
      if s.fab.stopping.contains pgTIME || s.fab.resetting.contains pgTIME then (s.boundaryActs [] false e.rx).idleActs
      else
        let loop := decide (s.scan.startAt + s.spanLen ≤ c.g) && s.sweepLast
        let n := s.placeNo + b2n (decide (s.scan.startAt + s.spanLen ≤ c.g))
        let s := (if loop then s.endOcc n else (s.endOcc n).sweepCut).startTime c
        let s := if c.resync then s.lapseSkipped old c.dcn else s
        let s := (s.modScan fun x => { x with inCycle := true, sweep := 0, span := 0, shown := [], win := none }).rdbkCycle
        let s := s.cycleActs c.dcn e.rx
        let s := if loop then s.headroomLoop else s
        if s.tim.running then ((s.cycleOut none).holdOver.startSpan e).windowPulse else s

end State

/-! ### Commands -/

/-- SPAN_BOUNDARY (R190). -/
def execSpanBoundary (e : SpanEnv) (s : State) : Ans State := .next (s.begin_.spanBoundary e)

/-- CYCLE_START (R107 to R110). `auditErr`: window, slice and the bits that the audit of the cycle that ends reads wrong (R218). -/
def execCycleStart (e : SpanEnv) (auditErr : List (Nat × Nat × Nat)) (s : State) : Ans State := .next (s.begin_.cycleStart e auditErr)

end Sys2Proof.Machine
end

