-- ==== Sys2Proof/Machine/Mgmt.lean ====
section
/-! DEFINITION. Operations on the register space by management frames on a link and by SPIA (R70, R91, R285 to R289, Tables 4.10 to 4.12,
14.2): their limits, their direct accesses in order, the command window, acknowledgements and SPIA responses. -/

namespace Sys2Proof.Machine

/-! ### One operation (Table 4.11) -/

/-- What an operation did: state, result, words read, index of the first refused word. -/
structure OpDone where
  st : State
  rc : Rc
  words : List Nat
  bad : Option Nat
  deriving DecidableEq, Repr

/-- The address of a register operation: bits [31:20] of ADDR other than 0 lead out of the register pages (Table 4.10). -/
def opAddr (addr : Nat) : Nat := 0x40000000 + addr

/-- A code of COUNT, ADDR and OP on a block (R91, R285, R287). -/
def MOp.limit (blk : Nat) : MOp → Option Rc
  | .read _ n _ => if n = 0 then some ⟨0x1001 + blk * 256, 16⟩ else if 240 < n then some ⟨0x1002 + blk * 256, n⟩ else none
  | .write _ n _ _ => if n = 0 then some ⟨0x1001 + blk * 256, 16⟩ else if 256 < n then some ⟨0x1002 + blk * 256, n⟩ else none
  | .writem n _ _ _ => if n = 0 then some ⟨0x1001 + blk * 256, 16⟩ else if 1 < n then some ⟨0x1002 + blk * 256, n⟩ else none
  | .piece n a _ =>
    if blk = 12 ∧ n = 0 then some ⟨0x1C01, 16⟩ else if 4160 < n then some ⟨0x1002 + blk * 256, n⟩
    else if a ≠ 0 then some ⟨0x1003 + blk * 256, 32⟩ else none
  | .nop n a => if n ≠ 0 then some ⟨0x1002 + blk * 256, n⟩ else if a ≠ 0 then some ⟨0x1003 + blk * 256, 32⟩ else none
  | .status => if blk = 12 then none else some ⟨0x1003 + blk * 256, 0⟩
  | .other _ => some ⟨0x1003 + blk * 256, 0⟩

/-- One access of an operation: its path admits it, then it is a direct access (R91, R285). -/
def opAccess (s : State) (a : Sys2Proof.Access) (addr : Nat) (f : State → Who → State × Rc × Nat) : State × Rc × Nat :=
  match grantAccess s a addr with
  | .error c => (s.refuse a.who c, c, 0)
  | .ok (s, w) => f s w

/-- READ: every word is fetched once, in order (R286); the first code stands. -/
def opRead (a : Sys2Proof.Access) (inc : Bool) (addr : Nat) (d : OpDone) (i : Nat) : OpDone :=
  let at_ := opAddr (addr + if inc then 4 * i else 0)
  let r := opAccess d.st a at_ fun s w => s.accessRead a.path w at_
  let first := d.bad.isNone && r.2.1.code != 0
  ⟨r.1, if first then r.2.1 else d.rc, d.words ++ [r.2.2], if first then some i else d.bad⟩

/-- WRITE: words in order up to the first refused one (R91, R287). -/
def opWrite (a : Sys2Proof.Access) (env : Env) (inc : Bool) (addr : Nat) (s : State) : Nat → List Word → OpDone
  | _, [] => ⟨s, ⟨0, 0⟩, [], none⟩
  | i, v :: rest =>
    let at_ := opAddr (addr + if inc then 4 * i else 0)
    let r := opAccess s a at_ fun s w =>
      let x := accessWrite s w at_ v.toNat (2 ^ 32 - 1) (hWrite env a.path)
      (x.1, x.2, 0)
    if r.2.1.code ≠ 0 then ⟨r.1, r.2.1, [], some i⟩ else opWrite a env inc addr r.1 (i + 1) rest

/-- An operation within its limits, by a requester on a path (Table 4.11). A piece may be sent by a tenant that may write UPD, and through
SPIA (R337). -/
def opRun (s : State) (a : Sys2Proof.Access) (env : Env) : MOp → OpDone
  | .read inc n addr => (List.range n).foldl (opRead a inc addr) ⟨s, ⟨0, 0⟩, [], none⟩
  | .write inc n addr data => opWrite a env inc addr s 0 (data.take n)
  | .writem _ addr mask data =>
    let r := opAccess s a (opAddr addr) fun s w =>
      let x := accessWrite s w (opAddr addr) data.toNat mask.toNat (hWrite env a.path)
      (x.1, x.2, 0)
    ⟨r.1, r.2.1, [], if r.2.1.code ≠ 0 then some 0 else none⟩
  | .piece n _ p =>
    let r := opAccess s a (opAddr (pgUPD * 2 ^ 12)) fun s w =>
      let may := a.path == .spia || mayWriteR s.regs w pgUPD
      let x := s.pieceTake w may (some n) p
      (if x.2.code / 2 ^ 12 = 5 then x.1.refuse w x.2 else x.1, x.2, 0)
    ⟨r.1, r.2.1, [], none⟩
  | .nop _ _ =>
    let r := opAccess s a (opAddr 0) fun s _ => (s, ⟨0, 0⟩, 0)
    ⟨r.1, r.2.1, [], none⟩
  | _ => ⟨s, ⟨0, 0⟩, [], none⟩

/-- An operation: its limits, then its accesses. -/
def opDo (s : State) (a : Sys2Proof.Access) (env : Env) (blk : Nat) (op : MOp) : OpDone := match MOp.limit blk op with
  | some c => ⟨s, c, [], none⟩
  | none => opRun s a env op

/-! ### Management frames (R70, R91) -/

/-- The operations of a frame in order; after the first refusal every later one reports 0x6210 with its index. -/
def opsRun (a : Sys2Proof.Access) (env : Env) : Nat → Bool → State → List MOp → State × List OpRes
  | _, _, s, [] => (s, [])
  | i, stopped, s, op :: rest =>
    if stopped then
      let r := opsRun a env (i + 1) true s rest
      (r.1, ⟨⟨0x6210, i⟩, []⟩ :: r.2)
    else
      let d := opDo s a env 2 op
      let ok := decide (d.rc.code / 2 ^ 12 = 0)
      let r := opsRun a env (i + 1) (!ok) d.st rest
      (r.1, ⟨d.rc, if ok then d.words.map (BitVec.ofNat 32) else []⟩ :: r.2)

/-- Words that a frame's READ operations ask for. -/
def readWords (ops : List MOp) : Nat := sumNat (ops.map fun (x : MOp) => match x with
  | .read _ n _ => n
  | _ => 0)

/-- STATUS and results of a frame that is executed (R91). -/
def frameRun (s : State) (a : Sys2Proof.Access) (env : Env) (ops : List MOp) (overrun : Bool) : State × Nat × List OpRes :=
  if 16 < ops.length ∨ 240 < readWords ops then (s, 0x1202, [])
  else if overrun then (s, 0x1211, [])
  else
    let r := opsRun a env 0 false s ops
    (r.1, 0x0200, r.2)

namespace State

/-- Sequence numbers behind H: how far `x` lies back from `h`, modulo 2^16. -/
def seqBack (h x : Nat) : Nat := (h + 2 ^ 16 - x % 2 ^ 16) % 2 ^ 16

/-- A slot's missing numbers, with TEN_SEQ.MISSING. -/
def setMissing (s : State) (n : Nat) (l : List Nat) : State :=
  (s.modTen n fun t => { t with missing := l }).fsi TEN_SEQ_MISSING n l.length

/-- The window moves to `q` (R70): numbers skipped are missing, and what lies more than 63 back is forgotten. -/
def windowTo (s : State) (n q : Nat) : State :=
  let h := s.fgi TEN_SEQ_HIGH n
  let d := (q + 2 ^ 16 - h) % 2 ^ 16
  let old := (nth s.tens n Ten.empty).missing
  let l := (old ++ (List.range (d - 1)).map fun i => (h + 1 + i) % 2 ^ 16).filter fun x => decide (seqBack q x ≤ 63)
  ((s.setMissing n l).fsi TEN_SEQ_HIGH n q).modTen n fun t => { t with stored := t.stored.filter fun x => decide (seqBack q x.1 ≤ 63) }

/-- Bytes of an ACK body: the plaintext of Table 4.12 and its tag. -/
def ackLen (r : List OpRes) : Nat := 4 + sumNat (r.map fun x => 4 + 4 * x.data.length) + 16

/-- Send an ACK (Table 4.12). -/
def sendAck (s : State) (f : Frame) (resent : Bool) (status : Nat) (r : List OpRes) : State :=
  s.sendUp f.port.val (s.upHdr 3 f.tenant.val resent f.seq (ackLen r)) fun h =>
    .ack h f.port.val f.tenant.val f.seq resent status r

/-- Execute a frame and acknowledge it; when register access has gone meanwhile, no acknowledgement is sent. -/
def mgmtExec (s : State) (f : Frame) (env : Env) (ops : List MOp) (overrun : Bool) : State :=
  let n := f.tenant.val
  let r := frameRun s ⟨.ten f.tenant, .link f.port⟩ env ops overrun
  if !r.1.fab.access then r.1
  else
    (r.1.modTen n fun t => { t with stored := (t.stored.filter fun x => x.1 != f.seq) ++ [(f.seq, r.2.1, r.2.2)] }).sendAck f false r.2.1 r.2.2

/-- An authenticated frame of an ACTIVE slot against the command window (R70). -/
def mgmtWindow (s : State) (f : Frame) (env : Env) (ops : List MOp) (overrun : Bool) : State :=
  let n := f.tenant.val
  let d := (f.seq + 2 ^ 16 - s.fgi TEN_SEQ_HIGH n) % 2 ^ 16
  let t := nth s.tens n Ten.empty
  if 1 ≤ d ∧ d ≤ 64 then (s.windowTo n f.seq).mgmtExec f env ops overrun
  else if d = 0 ∨ 65473 ≤ d then
    match t.stored.find? fun x => x.1 == f.seq with
    | some x => s.sendAck f true x.2.1 x.2.2
    | none =>
      if t.missing.contains f.seq then (s.setMissing n (t.missing.filter (· != f.seq))).mgmtExec f env ops overrun
      else s.sendAck f false 0x6111 []
  else s.sendAck f false (if d ≤ 32767 then 0x6110 else 0x6111) []

/-- A MGMT frame for this tile, received whole on L0 or L1 (R81, R65, R91). -/
def mgmtFrame (s0 : State) (f : Frame) (key : Nat) (env : Env) (ops : List MOp) (overrun : Bool) : State :=
  let (s, ok) := s0.rxDown f 2
  let p := f.port.val
  let n := f.tenant.val
  if !ok ∨ s.ownId ≠ some f.first then s
  else if !mgmtRoom f then s.inc LNK_DROP_FULL p 1
  else if !s.fab.access ∨ bit (s.fg DBG_STAT_HALTED) 0 = true then s
  else if key = 0 ∨ (s.slotKeys n).mkey ≠ key then s.authFail p n
  else if s.tst n = tACTIVE then (s.renewSession n).mgmtWindow f env ops overrun
  else if s.tst n = tRESETTING then s.sendAck f false 0x0200 (ops.map fun _ => ⟨⟨0x6112, n⟩, []⟩)
  else s.authFail p n

end State

/-- MGMT_FRAME (R91, R70): `key` names the key its tag was made under, `overrun`: its operations overrun the plaintext. -/
def execMgmtFrame (f : Frame) (key : Nat) (ops : List MOp) (overrun : Bool) (env : Env) (s : State) : Ans State :=
  .next (s.begin_.mgmtFrame f key env ops overrun)

/-! ### SPIA (R285 to R289) -/

/-- Bytes of a word on SPIA, most significant first. -/
def wordOut (v : Nat) : List Nat := [v / 2 ^ 24 % 256, v / 2 ^ 16 % 256, v / 2 ^ 8 % 256, v % 256]

namespace State

/-- An SPIA access: the tenant that SYS_SPIA names. -/
def spiaBy (s : State) : Sys2Proof.Access := ⟨.ten (Fin.ofNat 16 (s.fg SYS_SPIA_TEN)), .spia⟩

/-- SPIA is closed by SYS_SPIA.EN, which the ROM loader disregards (R349). -/
def spiaOff (s : State) : Bool := s.fg SYS_SPIA_EN == 0 && !s.loader

/-- STATUS words 0 and 1 (R286). -/
def statusWords (s : State) : List Nat := [s.fg SPIA_LAST, s.ser.frames % 2 ^ 16 * 2 ^ 16 + s.ser.badWord % 2 ^ 16]

/-- A frame has been executed or refused: the counts. -/
def spiaCount (s : State) : State := (s.inc SPIA_CNT_FRAMES 0 1).modSer fun x => { x with frames := x.frames + 1 }

/-- A frame other than STATUS has been executed or refused: SPIA_LAST, the counts and the first refused word. -/
def spiaDone (s : State) (c : Rc) (bad : Option Nat) : State :=
  let s := ((s.fs SPIA_LAST_CODE c.code).fs SPIA_LAST_DETAIL c.detail).spiaCount.modSer fun x => { x with badWord := bad.getD 0xFFFF }
  if c.code = 0x6C10 then s.inc SPIA_CNT_UNDERRUN 0 1 else if c.code = 0x1C10 then s.inc SPIA_CNT_SHORT 0 1 else s

/-- What the device drives for a frame: the bytes of its response, or in a chain the frame that it forwards with them in place (R288). -/
def spiaDrive (s : State) (dev : Option (Nat × MOp)) (own : List Nat) : State := match dev with
  | some (d, op) => s.emit (.chain s.spiaWire d op (some own))
  | none => s.emit (.serial s.spiaWire own)

/-- The response of a READ on SPIASDO: the token with WAIT 0, else WAIT bytes before the data; from a lost word on 0xFF (R286). -/
def spiaSend (s : State) (dev : Option (Nat × MOp)) (ws : List Nat) (lost : Option Nat) : State :=
  let cut := match lost with
    | some i => ws.zipIdx.flatMap fun x => if i ≤ x.2 then [255, 255, 255, 255] else wordOut x.1
    | none => ws.flatMap wordOut
  let wait := s.fg SPIA_CFG_WAIT
  s.spiaDrive dev ((if wait = 0 then [0xA5] else List.replicate wait 0xFF) ++ cut)

/-- The operation of a frame addressed to this device (R285 to R287). `short`: bytes received when SPIACSN rose early; `lost`: the first
word of a READ not fetched in time under WAIT. -/
def spiaOp (s : State) (dev : Option Nat) (op : MOp) (short lost : Option Nat) (env : Env) : State :=
  let refused (c : Rc) : State := (if op = .status then s.spiaCount else s.spiaDone c none).emit (.res c [])
  let dev := dev.map fun d => (d, op)
  if s.spiaOff then refused ⟨0x5C01, s.fg SYS_SPIA_TEN⟩
  else match short, op with
    | some n, _ => refused ⟨0x1C10, n⟩
    | none, .status =>
      match MOp.limit 12 .status with
      | some c => refused c
      | none => (s.spiaCount.spiaDrive dev (s.statusWords.flatMap wordOut)).emit (.res ⟨0, 0⟩ (s.statusWords.map (BitVec.ofNat 32)))
    | none, _ =>
      let wait := s.fg SPIA_CFG_WAIT
      let isRead : Bool := match op with
        | .read _ _ _ => true
        | _ => false
      let d := opDo s s.spiaBy env 12 op
      let lost := if isRead = true ∧ wait ≠ 0 then lost.filter fun i => decide (i < d.words.length) else none
      let c := match lost with
        | some i => ⟨0x6C10, i⟩
        | none => d.rc
      let s := d.st.spiaDone c d.bad
      let s := if isRead = true ∧ d.words ≠ [] then s.spiaSend dev d.words lost else s
      s.emit (.res c (d.words.map (BitVec.ofNat 32)))

/-- A chain frame is forwarded; one that a response went into is out already. -/
def spiaForward (s : State) (d : Nat) (op : MOp) : State :=
  let done := s.outs.any fun o => match o with
    | .chain _ _ _ _ => true
    | _ => false
  if done then s else s.emit (.chain s.spiaWire d op none)

/-- An SPIA slave frame (R285, R288): with CHAIN 1 its device byte `dev` selects this device or, for WRITE, WRITEM and NOP, every one. As
master the port takes none (R289). -/
def spiaFrame (s : State) (dev : Option Nat) (op : MOp) (short lost : Option Nat) (env : Env) : State :=
  if s.spiaMaster = true ∨ s.mode = .sleep then s
  else if s.fg SPIA_CFG_CHAIN = 0 then s.spiaOp none op short lost env
  else match dev with
    | none => s
    | some d =>
      let all := match op with
        | .write _ _ _ _ => true
        | .writem _ _ _ _ => true
        | .nop _ _ => true
        | _ => false
      if d = 0xFF then
        if all || s.spiaOff then (s.spiaOp none op short lost env).spiaForward d op
        else ((if op = .status then s.spiaCount else s.spiaDone ⟨0x1C03, 0⟩ none).emit (.res ⟨0x1C03, 0⟩ [])).spiaForward d op
      else if d = s.fg SPIA_CFG_POS then (s.spiaOp dev op short lost env).spiaForward d op
      else s.spiaForward d op

/-- A frame of one operation for this device alone. -/
def spiaOne (s : State) (op : MOp) (lost : Option Nat) (env : Env) : State :=
  s.spiaFrame (some (s.fg SPIA_CFG_POS)) op none lost env

/-- A poll as master (R289): STATUS and the words of the previous READ are sent, then the board controller's command is executed; the words
of a READ wait for the next poll. OP 0x00, 0x05 and 0xFF end the poll. -/
def spiaPoll (s : State) (op : MOp) (env : Env) : State :=
  if s.spiaMaster = false ∨ s.mode = .sleep then s
  else
    let s := s.advance (s.ser.pollAt + s.fg SPIA_MCFG_POLL * Config.us)
    let s := s.emit (.serial s.spiaWire ((s.statusWords ++ s.ser.toSend.map BitVec.toNat).flatMap wordOut))
    let s := s.modSer fun x => { x with toSend := [], pollAt := s.now }
    let idle := match op with
      | .nop _ _ => true
      | .other k => k == 0 || k == 0xFF
      | _ => false
    if idle then s
    else if s.spiaOff then (s.spiaDone ⟨0x5C01, s.fg SYS_SPIA_TEN⟩ none).emit (.res ⟨0x5C01, s.fg SYS_SPIA_TEN⟩ [])
    else
      let d := if op = .status then ⟨s, ⟨0x1C03, 0⟩, [], none⟩ else opDo s s.spiaBy env 12 op
      ((d.st.spiaDone d.rc d.bad).modSer fun x => { x with toSend := d.words.map (BitVec.ofNat 32) }).emit (.res d.rc [])

end State

/-- Nothing that a command without device answers needs. -/
def Env.none_ : Env := ⟨[], none, true, ⟨none, 0, 0, 0, [], .reserved⟩, BundleRead.none_⟩

/-- SPIA_FRAME (R285 to R288): `dev` is the device byte of a chain frame. -/
def execSpiaFrame (dev : Option Nat) (op : MOp) (short lost : Option Nat) (env : Env) (s : State) : Ans State :=
  .next (s.begin_.spiaFrame dev op short lost env)

/-- READ (R286): a frame with a READ operation. -/
def execRead (inc : Bool) (count addr : Nat) (lost : Option Nat) (s : State) : Ans State :=
  .next (s.begin_.spiaOne (.read inc count addr) lost Env.none_)

/-- WRITE (R287): a frame with a WRITE operation. -/
def execWrite (inc : Bool) (addr : Nat) (data : List Word) (env : Env) (s : State) : Ans State :=
  .next (s.begin_.spiaOne (.write inc data.length addr data) none env)

/-- WRITEM (R287): a frame with a WRITEM operation; bits with mask 0 keep their value. -/
def execWritem (addr : Nat) (mask data : Word) (env : Env) (s : State) : Ans State :=
  .next (s.begin_.spiaOne (.writem 1 addr mask data) none env)

/-- PIECE (R337): a frame with a PIECE operation. -/
def execPiece (p : Piece) (s : State) : Ans State := .next (s.begin_.spiaOne (.piece (32 + p.len) 0 p) none Env.none_)

/-- NOP (R91): it does nothing but end its frame. -/
def execNop (s : State) : Ans State := .next (s.begin_.spiaOne (.nop 0 0) none Env.none_)

/-- STATUS (R286): the last frame's result and the frame count. -/
def execStatus (s : State) : Ans State := .next (s.begin_.spiaOne .status none Env.none_)

/-- SPIA_POLL (R289). -/
def execSpiaPoll (op : MOp) (env : Env) (s : State) : Ans State := .next (s.begin_.spiaPoll op env)

end Sys2Proof.Machine
end

