-- ==== Sys2Proof/Machine/Dispatch.lean ====
section
/-! DEFINITION. The commands of the table and their meanings: one arm per constructor, each one call of the meaning that the
command's rule gives it. -/

namespace Sys2Proof.Machine

/-- The effect of a command on everything but the queue. -/
def exec (i : Instr) (s : State) : Host.Outcome State Fault Refusal :=
  match i with
  | .registerWrite a addr data env => Sys2Proof.Machine.execRegisterWrite a addr data env s
  | .snapshotRead a addr => Sys2Proof.Machine.execSnapshotRead a addr s
  | .readClear a addr => Sys2Proof.Machine.execReadClear a addr s
  | .enable a page => Sys2Proof.Machine.execEnable a page s
  | .enableCheckDone page => Sys2Proof.Machine.execEnableCheckDone page s
  | .unitStart page => Sys2Proof.Machine.execUnitStart page s
  | .disable a page => Sys2Proof.Machine.execDisable a page s
  | .unitStop page => Sys2Proof.Machine.execUnitStop page s
  | .pageReset a page => Sys2Proof.Machine.execPageReset a page s
  | .pageResetApply page => Sys2Proof.Machine.execPageResetApply page s
  | .hold a page on => Sys2Proof.Machine.execHold a page on s
  | .open_ a => Sys2Proof.Machine.execOpen a s
  | .stageWrite a data => Sys2Proof.Machine.execStageWrite a data s
  | .commit a h => Sys2Proof.Machine.execCommit a h s
  | .commitChecksDone h => Sys2Proof.Machine.execCommitChecksDone h s
  | .abort a h => Sys2Proof.Machine.execAbort a h s
  | .renew a h => Sys2Proof.Machine.execRenew a h s
  | .cancel a h => Sys2Proof.Machine.execCancel a h s
  | .firkinLeaseExpire h => Sys2Proof.Machine.execFirkinLeaseExpire h s
  | .firkinApply h => Sys2Proof.Machine.execFirkinApply h s
  | .firkinInstantPassed h => Sys2Proof.Machine.execFirkinInstantPassed h s
  | .eqPop a => Sys2Proof.Machine.execEqPop a s
  | .eventFrameSend t => Sys2Proof.Machine.execEventFrameSend t s
  | .coldReset a => Sys2Proof.Machine.execColdReset a s
  | .managementPairReset a => Sys2Proof.Machine.execManagementPairReset a s
  | .pixaReset a => Sys2Proof.Machine.execPixaReset a s
  | .pixbReset a => Sys2Proof.Machine.execPixbReset a s
  | .kick a => Sys2Proof.Machine.execKick a s
  | .watchdogExpire => Sys2Proof.Machine.execWatchdogExpire s
  | .registerAccessRestored => Sys2Proof.Machine.execRegisterAccessRestored s
  | .modeRequest a req => Sys2Proof.Machine.execModeRequest a req s
  | .modeChange => Sys2Proof.Machine.execModeChange s
  | .sleepEntry => Sys2Proof.Machine.execSleepEntry s
  | .wake src => Sys2Proof.Machine.execWake src s
  | .retentionImage crcOk => Sys2Proof.Machine.execRetentionImage crcOk s
  | .sessionLeaseExpire t => Sys2Proof.Machine.execSessionLeaseExpire t s
  | .tenCmdReset a t => Sys2Proof.Machine.execTenCmdReset a t s
  | .tenCmdQuarantine a t => Sys2Proof.Machine.execTenCmdQuarantine a t s
  | .tenCmdRelease a t => Sys2Proof.Machine.execTenCmdRelease a t s
  | .tenRunWrite a t run => Sys2Proof.Machine.execTenRunWrite a t run s
  | .quarantineInterval => Sys2Proof.Machine.execQuarantineInterval s
  | .tenantResetInstant rx => Sys2Proof.Machine.execTenantResetInstant rx s
  | .feedFrame f recs => Sys2Proof.Machine.execFeedFrame f recs s
  | .mgmtFrame f key ops overrun env => Sys2Proof.Machine.execMgmtFrame f key ops overrun env s
  | .upForward f => Sys2Proof.Machine.execUpForward f s
  | .enum f key => Sys2Proof.Machine.execEnum f key s
  | .heartbeat f req => Sys2Proof.Machine.execHeartbeat f req s
  | .heartbeatTimeout p => Sys2Proof.Machine.execHeartbeatTimeout p s
  | .revert => Sys2Proof.Machine.execRevert s
  | .linkLock p gig25 => Sys2Proof.Machine.execLinkLock p gig25 s
  | .lossOfLock p midFrame => Sys2Proof.Machine.execLossOfLock p midFrame s
  | .speedSeekTimeout p => Sys2Proof.Machine.execSpeedSeekTimeout p s
  | .nospeed p => Sys2Proof.Machine.execNospeed p s
  | .foreignFrame f => Sys2Proof.Machine.execForeignFrame f s
  | .sync m => Sys2Proof.Machine.execSync m s
  | .followUp m => Sys2Proof.Machine.execFollowUp m s
  | .pdelayInterval => Sys2Proof.Machine.execPdelayInterval s
  | .pdelayReq m => Sys2Proof.Machine.execPdelayReq m s
  | .pdelayResp m t2 t3 => Sys2Proof.Machine.execPdelayResp m t2 t3 s
  | .announce m => Sys2Proof.Machine.execAnnounce m s
  | .syncTimeout => Sys2Proof.Machine.execSyncTimeout s
  | .ptpHoldoverExpire => Sys2Proof.Machine.execPtpHoldoverExpire s
  | .beat f b => Sys2Proof.Machine.execBeat f b s
  | .cycleStart e auditErr => Sys2Proof.Machine.execCycleStart e auditErr s
  | .holdoverExpire => Sys2Proof.Machine.execHoldoverExpire s
  | .pllLoss => Sys2Proof.Machine.execPllLoss s
  | .pllLock => Sys2Proof.Machine.execPllLock s
  | .pps => Sys2Proof.Machine.execPps s
  | .dry a => Sys2Proof.Machine.execDry a s
  | .patternFrameDone e poison => Sys2Proof.Machine.execPatternFrameDone e poison s
  | .jobStart => Sys2Proof.Machine.execJobStart s
  | .jobComplete k r => Sys2Proof.Machine.execJobComplete k r s
  | .returnToService a half data => Sys2Proof.Machine.execReturnToService a half data s
  | .sensorSample die => Sys2Proof.Machine.execSensorSample die s
  | .boardSensorRead r => Sys2Proof.Machine.execBoardSensorRead r s
  | .sensorReturn a half data => Sys2Proof.Machine.execSensorReturn a half data s
  | .fieldRefresh => Sys2Proof.Machine.execFieldRefresh s
  | .blendComplete engines spots poison => Sys2Proof.Machine.execBlendComplete engines spots poison s
  | .blendResume => Sys2Proof.Machine.execBlendResume s
  | .spanBoundary e => Sys2Proof.Machine.execSpanBoundary e s
  | .override a k data => Sys2Proof.Machine.execOverride a k data s
  | .domainSwitch => Sys2Proof.Machine.execDomainSwitch s
  | .preset rec_ => Sys2Proof.Machine.execPreset rec_ s
  | .wireQuery a lamp => Sys2Proof.Machine.execWireQuery a lamp s
  | .clear a => Sys2Proof.Machine.execClear a s
  | .clearall a => Sys2Proof.Machine.execClearall a s
  | .healthQuery a lamp => Sys2Proof.Machine.execHealthQuery a lamp s
  | .listQuery a idx => Sys2Proof.Machine.execListQuery a idx s
  | .rbClr a stones => Sys2Proof.Machine.execRbClr a stones s
  | .conversion code value => Sys2Proof.Machine.execConversion code value s
  | .phaseZero n e => Sys2Proof.Machine.execPhaseZero n e s
  | .loadAll a => Sys2Proof.Machine.execLoadAll a s
  | .trip n cs => Sys2Proof.Machine.execTrip n cs s
  | .feedbackSample rail mv => Sys2Proof.Machine.execFeedbackSample rail mv s
  | .railStart rail mv => Sys2Proof.Machine.execRailStart rail mv s
  | .railRunning rail mv => Sys2Proof.Machine.execRailRunning rail mv s
  | .startTimeout rail => Sys2Proof.Machine.execStartTimeout rail s
  | .railOff rail mv => Sys2Proof.Machine.execRailOff rail mv s
  | .sfltn => Sys2Proof.Machine.execSfltn s
  | .overVoltage rail fb => Sys2Proof.Machine.execOverVoltage rail fb s
  | .underVoltage rail fb => Sys2Proof.Machine.execUnderVoltage rail fb s
  | .auxPeriod => Sys2Proof.Machine.execAuxPeriod s
  | .phTest a n data => Sys2Proof.Machine.execPhTest a n data s
  | .selfTrim => Sys2Proof.Machine.execSelfTrim s
  | .trimResult m => Sys2Proof.Machine.execTrimResult m s
  | .journalWrite => Sys2Proof.Machine.execJournalWrite s
  | .journalCommit => Sys2Proof.Machine.execJournalCommit s
  | .forget a => Sys2Proof.Machine.execForget a s
  | .dramTraining first second => Sys2Proof.Machine.execDramTraining first second s
  | .trainingComplete r => Sys2Proof.Machine.execTrainingComplete r s
  | .zqCalibration => Sys2Proof.Machine.execZqCalibration s
  | .dqsOscillator count wdq => Sys2Proof.Machine.execDqsOscillator count wdq s
  | .refresh sc n => Sys2Proof.Machine.execRefresh sc n s
  | .mr4Poll a b => Sys2Proof.Machine.execMr4Poll a b s
  | .dramRequest u addr wr => Sys2Proof.Machine.execDramRequest u addr wr s
  | .dramCompletion k errs => Sys2Proof.Machine.execDramCompletion k errs s
  | .scrubRead errs => Sys2Proof.Machine.execScrubRead errs s
  | .pageIdleExpire sc bank => Sys2Proof.Machine.execPageIdleExpire sc bank s
  | .errorInjection a data => Sys2Proof.Machine.execErrorInjection a data s
  | .spiaFrame dev op short lost env => Sys2Proof.Machine.execSpiaFrame dev op short lost env s
  | .read inc count addr lost => Sys2Proof.Machine.execRead inc count addr lost s
  | .write inc addr data env => Sys2Proof.Machine.execWrite inc addr data env s
  | .writem addr mask data env => Sys2Proof.Machine.execWritem addr mask data env s
  | .piece p => Sys2Proof.Machine.execPiece p s
  | .nop => Sys2Proof.Machine.execNop s
  | .status => Sys2Proof.Machine.execStatus s
  | .spiaPoll op env => Sys2Proof.Machine.execSpiaPoll op env s
  | .spibRead a data flash => Sys2Proof.Machine.execSpibRead a data flash s
  | .program a data => Sys2Proof.Machine.execProgram a data s
  | .erase4k a data => Sys2Proof.Machine.execErase4k a data s
  | .erase64k a data => Sys2Proof.Machine.execErase64k a data s
  | .readsr a data sr => Sys2Proof.Machine.execReadsr a data sr s
  | .statusPoll sr => Sys2Proof.Machine.execStatusPoll sr s
  | .flashTimeout => Sys2Proof.Machine.execFlashTimeout s
  | .fetch off flash lat held => Sys2Proof.Machine.execFetch off flash lat held s
  | .request a twi => Sys2Proof.Machine.execRequest a twi s
  | .release a twi => Sys2Proof.Machine.execRelease a twi s
  | .busclear a freed => Sys2Proof.Machine.execBusclear a freed s
  | .grantExpire twi rx => Sys2Proof.Machine.execGrantExpire twi rx s
  | .spicTransfer a data => Sys2Proof.Machine.execSpicTransfer a data s
  | .spicTransferDone rx => Sys2Proof.Machine.execSpicTransferDone rx s
  | .twiTransfer a data sdaLow => Sys2Proof.Machine.execTwiTransfer a data sdaLow s
  | .twiTransferDone r => Sys2Proof.Machine.execTwiTransferDone r s
  | .stretchTimeout index freed => Sys2Proof.Machine.execStretchTimeout index freed s
  | .establish f sctr signer mkey => Sys2Proof.Machine.execEstablish f sctr signer mkey s
  | .object f o => Sys2Proof.Machine.execObject f o s
  | .submit a data o => Sys2Proof.Machine.execSubmit a data o s
  | .voucher => Sys2Proof.Machine.execVoucher s
  | .transfer => Sys2Proof.Machine.execTransfer s
  | .enrol => Sys2Proof.Machine.execEnrol s
  | .unenrol => Sys2Proof.Machine.execUnenrol s
  | .keywrap => Sys2Proof.Machine.execKeywrap s
  | .debug => Sys2Proof.Machine.execDebug s
  | .policy => Sys2Proof.Machine.execPolicy s
  | .otpcfg => Sys2Proof.Machine.execOtpcfg s
  | .attest f nonce => Sys2Proof.Machine.execAttest f nonce s
  | .cert f => Sys2Proof.Machine.execCert f s
  | .report a => Sys2Proof.Machine.execReport a s
  | .attCert a => Sys2Proof.Machine.execAttCert a s
  | .attestationReady => Sys2Proof.Machine.execAttestationReady s
  | .dbgchal a => Sys2Proof.Machine.execDbgchal a s
  | .raise a => Sys2Proof.Machine.execRaise a s
  | .challengeExpire => Sys2Proof.Machine.execChallengeExpire s
  | .boot slotA slotB => Sys2Proof.Machine.execBoot slotA slotB s
  | .begin a => Sys2Proof.Machine.execBegin a s
  | .updAbort a => Sys2Proof.Machine.execUpdAbort a s
  | .arm a => Sys2Proof.Machine.execArm a s
  | .armComplete r => Sys2Proof.Machine.execArmComplete r s
  | .disarm a => Sys2Proof.Machine.execDisarm a s
  | .activatePause a trig => Sys2Proof.Machine.execActivatePause a trig s
  | .activateHandover a trig => Sys2Proof.Machine.execActivateHandover a trig s
  | .applycfg a trig b => Sys2Proof.Machine.execApplycfg a trig b s
  | .updCancel a => Sys2Proof.Machine.execUpdCancel a s
  | .activation => Sys2Proof.Machine.execActivation s
  | .activationComplete badHash => Sys2Proof.Machine.execActivationComplete badHash s
  | .handoverStage => Sys2Proof.Machine.execHandoverStage s
  | .companionStatusPoll reply => Sys2Proof.Machine.execCompanionStatusPoll reply s
  | .pieceProgrammed => Sys2Proof.Machine.execPieceProgrammed s
  | .pieceJournalTimer => Sys2Proof.Machine.execPieceJournalTimer s
  | .bundleApply => Sys2Proof.Machine.execBundleApply s
  | .bundleLoaded => Sys2Proof.Machine.execBundleLoaded s
  | .bundleReload b => Sys2Proof.Machine.execBundleReload b s
  | .porn straps => Sys2Proof.Machine.execPorn straps s
  | .domainPowerGood d => Sys2Proof.Machine.execDomainPowerGood d s
  | .pgoodTimeout d => Sys2Proof.Machine.execPgoodTimeout d s
  | .trimEnd freed => Sys2Proof.Machine.execTrimEnd freed s
  | .brownoutWarning => Sys2Proof.Machine.execBrownoutWarning s
  | .brownoutReset => Sys2Proof.Machine.execBrownoutReset s
  | .overTemperatureTrip stone => Sys2Proof.Machine.execOverTemperatureTrip stone s
  | .shutdownDark => Sys2Proof.Machine.execShutdownDark s
  | .lockstepMismatch => Sys2Proof.Machine.execLockstepMismatch s
  | .halt a core => Sys2Proof.Machine.execHalt a core s
  | .resume a core => Sys2Proof.Machine.execResume a core s
  | .bypass tdi => Sys2Proof.Machine.execBypass tdi s
  | .idcode => Sys2Proof.Machine.execIdcode s
  | .samplePreload pins preload => Sys2Proof.Machine.execSamplePreload pins preload s
  | .extest tdi => Sys2Proof.Machine.execExtest tdi s
  | .sensorProbe ack => Sys2Proof.Machine.execSensorProbe ack s
  | .vdd33Return => Sys2Proof.Machine.execVdd33Return s
  | .overTemperatureClear stone => Sys2Proof.Machine.execOverTemperatureClear stone s
  | .sfltnRelease => Sys2Proof.Machine.execSfltnRelease s
  | .highBitErrorRate p => Sys2Proof.Machine.execHighBitErrorRate p s
  | .delayReq m => Sys2Proof.Machine.execDelayReq m s

end Sys2Proof.Machine
end

