-- ==== Sys2Proof/Safety.lean ====
section
/-! DEFINITION. What counts as a safe run, and the invariant of the machine's sparse stores, in the terms statements use. -/

namespace Sys2Proof.Machine

/-- The event queue of a slot holds no more than its 256 entries (R56). -/
def Ten.qOk (t : Ten) : Bool := decide (t.evq.q.length ≤ Config.evqLen)

/-- The invariant of every step: the register file, the general SRAM and the DRAM stand in their canonical form (keys strictly
rising, and no entry equal to what an unlisted key reads as, so that equal contents are equal data), there are 16 tenant slots
(R57), and no event queue holds more than 256 entries (R56). -/
def State.wf (s : State) : Bool :=
  cwf regDflt s.regs && cwf (fun _ => (0 : Word)) s.sram && cwf (fun _ => (0 : Byte)) s.mem.dram &&
  decide (s.tens.length = Config.nTen) && s.tens.all Ten.qOk

/-- A step that stops the machine. -/
def stops : Host.Outcome State Fault Refusal → Bool
  | .next _ => false
  | .fault _ => true
  | .refused _ => true

/-- A state is safe when its next step does not stop the machine. -/
def State.safe (s : State) : Bool := !stops (step s)

/-! ### Parts of the state

What a command leaves alone is said part by part. A slot of the tenant table is two parts, its session and its event queue; the
memory controller is two, the DRAM's contents and the rest. -/

/-- The parts of the state that a command may leave alone: every field of State but the clock, the outputs, the counter of free
values and the queue of commands. -/
inductive Part
  | regs | sram | mode | fab | tens | evq | lnk | keys | tim | feeds | patts | clips | pix | blend | field | scan | health
  | rdbk | sense | sup | trim | dram | memc | ser | sec | upd | pow
  deriving DecidableEq, Repr

/-- The slots without their event queues. -/
def State.sessions (s : State) : List Ten := s.tens.map fun t => { t with evq := EvQ.empty }

/-- The event queues of the slots. -/
def State.queues (s : State) : List EvQ := s.tens.map Ten.evq

/-- The part reads the same in both states. -/
def Part.same (p : Part) (s t : State) : Prop :=
  match p with
  | .regs => t.regs = s.regs
  | .sram => t.sram = s.sram
  | .mode => t.mode = s.mode
  | .fab => t.fab = s.fab
  | .tens => t.sessions = s.sessions
  | .evq => t.queues = s.queues
  | .lnk => t.lnk = s.lnk
  | .keys => t.keys = s.keys
  | .tim => t.tim = s.tim
  | .feeds => t.feeds = s.feeds
  | .patts => t.patts = s.patts
  | .clips => t.clips = s.clips
  | .pix => t.pix = s.pix
  | .blend => t.blend = s.blend
  | .field => t.field = s.field
  | .scan => t.scan = s.scan
  | .health => t.health = s.health
  | .rdbk => t.rdbk = s.rdbk
  | .sense => t.sense = s.sense
  | .sup => t.sup = s.sup
  | .trim => t.trim = s.trim
  | .dram => t.mem.dram = s.mem.dram
  | .memc => { t.mem with dram := [] } = { s.mem with dram := [] }
  | .ser => t.ser = s.ser
  | .sec => t.sec = s.sec
  | .upd => t.upd = s.upd
  | .pow => t.pow = s.pow

/-- Every part. -/
def Part.all : List Part :=
  [.regs, .sram, .mode, .fab, .tens, .evq, .lnk, .keys, .tim, .feeds, .patts, .clips, .pix, .blend, .field, .scan, .health,
    .rdbk, .sense, .sup, .trim, .dram, .memc, .ser, .sec, .upd, .pow]

/-- The parts of the state that a command may touch. A command whose effect includes raising an event may touch the event queues;
one that comes as a register write may renew or start a session. -/
def commandParts : Instr → List Part
  | .pdelayReq _ | .ptpHoldoverExpire | .challengeExpire | .idcode | .highBitErrorRate _ | .delayReq _ => [.regs]
  | .pieceJournalTimer => [.upd]
  | .pps => [.tim]
  | .railStart _ _ | .auxPeriod | .sfltnRelease => [.sup]
  | .speedSeekTimeout _ => [.lnk]
  | .vdd33Return | .overTemperatureClear _ => [.pow]
  | .zqCalibration | .pageIdleExpire _ _ => [.memc]
  | .bypass _ | .samplePreload _ _ => [.regs, .pow]
  | .dqsOscillator _ _ | .dramRequest _ _ _ => [.regs, .memc]
  | .feedbackSample _ _ => [.regs, .sup]
  | .jobStart => [.pix, .blend]
  | .journalWrite => [.regs, .trim]
  | .statusPoll _ | .fetch _ _ _ _ => [.regs, .ser]
  | .sync _ | .followUp _ | .pdelayInterval | .pdelayResp _ _ _ | .announce _ | .pllLock => [.regs, .tim]
  | .upForward _ | .nospeed _ | .foreignFrame _ | .underVoltage _ _ => [.regs, .evq]
  | .armComplete _ | .pieceProgrammed => [.regs, .evq, .upd]
  | .attestationReady => [.regs, .lnk, .sec]
  | .blendResume => [.regs, .pix, .blend]
  | .commitChecksDone _ => [.regs, .fab, .tens]
  | .conversion _ _ => [.regs, .fab, .sense]
  | .enableCheckDone _ | .firkinLeaseExpire _ | .firkinInstantPassed _ => [.regs, .fab, .evq]
  | .eqPop _ | .sessionLeaseExpire _ | .dry _ | .wireQuery _ _ | .healthQuery _ _ | .listQuery _ _ | .errorInjection _ _ =>
    [.regs, .tens, .evq]
  | .eventFrameSend _ => [.regs, .evq, .lnk]
  | .flashTimeout => [.regs, .evq, .ser]
  | .patternFrameDone _ _ => [.regs, .patts, .pix]
  | .selfTrim | .journalCommit => [.regs, .evq, .trim]
  | .startTimeout _ => [.regs, .evq, .sup]
  | .syncTimeout => [.regs, .evq, .tim]
  | .trainingComplete _ | .refresh _ _ | .mr4Poll _ _ | .scrubRead _ => [.regs, .evq, .memc]
  | .beat _ _ => [.regs, .tens, .evq, .tim]
  | .blendComplete _ _ _ => [.regs, .evq, .pix, .blend]
  | .boardSensorRead _ => [.regs, .evq, .field, .ser]
  | .clear _ | .clearall _ => [.regs, .tens, .evq, .health]
  | .dramCompletion _ _ => [.regs, .evq, .dram, .memc]
  | .enable _ _ | .disable _ _ | .pageReset _ _ | .hold _ _ _ | .open_ _ | .stageWrite _ _ | .commit _ _ | .abort _ _
    | .renew _ _ | .cancel _ _ | .kick _ | .registerAccessRestored | .tenCmdReset _ _ | .tenCmdQuarantine _ _
    | .tenCmdRelease _ _ | .tenRunWrite _ _ _ | .quarantineInterval => [.regs, .fab, .tens, .evq]
  | .enum _ _ => [.regs, .tens, .evq, .lnk]
  | .extest _ => [.regs, .evq, .scan, .pow]
  | .forget _ => [.regs, .tens, .evq, .trim]
  | .grantExpire _ _ | .spicTransferDone _ | .twiTransferDone _ | .stretchTimeout _ _ => [.regs, .evq, .ser, .upd]
  | .heartbeat _ _ | .heartbeatTimeout _ | .revert | .linkLock _ _ | .lossOfLock _ _ => [.regs, .fab, .evq, .lnk]
  | .loadAll _ | .phTest _ _ _ => [.regs, .tens, .evq, .sup]
  | .phaseZero _ _ | .trip _ _ | .railRunning _ _ | .railOff _ _ => [.regs, .fab, .evq, .sup]
  | .rbClr _ _ => [.regs, .tens, .evq, .rdbk]
  | .spibRead _ _ _ | .program _ _ | .erase4k _ _ | .erase64k _ _ | .readsr _ _ _ | .spicTransfer _ _ | .twiTransfer _ _ _ =>
    [.regs, .tens, .evq, .ser]
  | .submit _ _ _ | .report _ | .attCert _ | .dbgchal _ | .raise _ => [.regs, .tens, .evq, .sec]
  | .domainSwitch | .domainPowerGood _ => [.regs, .fab, .evq, .sup, .pow]
  | .fieldRefresh => [.regs, .evq, .pix, .blend, .field]
  | .jobComplete _ _ => [.regs, .evq, .feeds, .pix, .blend]
  | .modeRequest _ _ => [.regs, .fab, .tens, .evq, .pow]
  | .request _ _ | .release _ _ | .busclear _ _ => [.regs, .tens, .evq, .ser, .upd]
  | .activationComplete _ => [.regs, .fab, .tens, .evq, .sec, .upd]
  | .bundleApply | .bundleReload _ => [.regs, .evq, .pix, .blend, .sec, .upd]
  | .establish _ _ _ _ | .object _ _ | .attest _ _ | .cert _ => [.regs, .tens, .evq, .lnk, .keys, .sec]
  | .feedFrame _ _ => [.regs, .tens, .evq, .lnk, .feeds, .pix]
  | .halt _ _ | .resume _ _ => [.regs, .fab, .tens, .evq, .blend, .sup]
  | .overTemperatureTrip _ => [.regs, .fab, .evq, .scan, .sup, .pow]
  | .snapshotRead _ _ | .readClear _ _ => [.regs, .sram, .fab, .tens, .evq, .memc]
  | .watchdogExpire | .activation | .companionStatusPoll _ | .lockstepMismatch => [.regs, .fab, .evq, .pix, .blend, .upd]
  | .handoverStage => [.regs, .fab, .tens, .evq, .blend, .sec, .upd]
  | .sfltn | .overVoltage _ _ | .brownoutWarning | .shutdownDark => [.regs, .mode, .fab, .evq, .scan, .sup, .pow]
  | .bundleLoaded => [.regs, .evq, .clips, .pix, .blend, .dram, .memc, .upd]
  | .holdoverExpire | .pllLoss => [.regs, .mode, .fab, .evq, .tim, .scan, .sup, .pow]
  | .trimResult _ | .pgoodTimeout _ => [.regs, .mode, .fab, .evq, .scan, .sup, .trim, .pow]
  | .dramTraining _ _ => [.regs, .mode, .fab, .evq, .scan, .sup, .dram, .memc, .pow]
  | .sensorSample _ => [.regs, .fab, .evq, .field, .scan, .sup, .trim, .ser, .pow]
  | .tenantResetInstant _ | .voucher | .transfer | .enrol | .unenrol | .keywrap | .debug | .policy | .otpcfg =>
    [.regs, .fab, .tens, .evq, .keys, .feeds, .pix, .scan, .ser, .sec, .upd]
  | .trimEnd _ => [.regs, .mode, .fab, .tens, .evq, .pix, .blend, .field, .scan, .sup, .pow]
  | .unitStop _ => [.regs, .fab, .evq, .lnk, .tim, .feeds, .patts, .pix, .scan, .sense, .sup]
  | .returnToService _ _ _ | .sensorReturn _ _ _ | .override _ _ _ =>
    [.regs, .fab, .tens, .evq, .lnk, .tim, .feeds, .pix, .blend, .scan, .sup, .pow]
  | .pageResetApply _ => [.regs, .fab, .tens, .evq, .lnk, .tim, .feeds, .patts, .pix, .blend, .scan, .sense, .sup]
  | .unitStart _ => [.regs, .fab, .evq, .lnk, .tim, .feeds, .patts, .pix, .blend, .scan, .health, .rdbk, .sense, .sup]
  | .firkinApply _ | .retentionImage _ | .preset _ | .sensorProbe _ =>
    [.regs, .fab, .tens, .evq, .lnk, .tim, .feeds, .patts, .pix, .blend, .scan, .health, .rdbk, .sense, .sup, .pow]
  | .registerWrite _ _ _ _ | .coldReset _ | .managementPairReset _ | .pixaReset _ | .pixbReset _ | .modeChange | .sleepEntry
    | .wake _ | .mgmtFrame _ _ _ _ _ | .cycleStart _ _ | .spanBoundary _ | .spiaFrame _ _ _ _ _ | .read _ _ _ _
    | .write _ _ _ _ | .writem _ _ _ _ | .piece _ | .nop | .status | .spiaPoll _ _ | .boot _ _ | .begin _ | .updAbort _
    | .arm _ | .disarm _ | .activatePause _ _ | .activateHandover _ _ | .applycfg _ _ _ | .updCancel _ | .porn _
    | .brownoutReset => Part.all

/-! ### What a statement says of a command -/

/-- The command `i` takes a next state from `s`, and `P` holds of it. -/
def Runs (i : Instr) (s : State) (P : State → Prop) : Prop := ∃ t, exec i s = .next t ∧ P t

/-- The state, the identity, the page, the offset and the register of a direct write once every check before the register's own
has passed: the path is admitted (R31, R62, R285), the register exists and may be written by that identity (R32, R38), no rule of
its page refuses the write (R36), and no field of it refuses the value. -/
def accepted (s : State) (a : Access) (addr data : Nat) : Option (State × Who × Nat × Nat × Reg) :=
  match grantAccess s a addr with
  | .error _ => none
  | .ok (s1, w) => match writeTarget s1.regs w addr data (2 ^ 32 - 1) with
    | .error _ => none
    | .ok (p, o, g) =>
      if (directRule s1 p o g (2 ^ 32 - 1)).isNone && !noWritable g &&
        (s1.fieldFail w p o g data (2 ^ 32 - 1) addr).isNone then some (s1, w, p, o, g)
      else none

/-- The outputs of an accepted direct write: the result code 0 and no data. -/
def doneOuts : List Out := [.res ⟨0, 0⟩ []]

/-- Every register outside the listed pages and offsets reads the same in both states. -/
def State.regsBut (l : List (Nat × Nat)) (s t : State) : Prop :=
  ∀ b p o : Nat, p < 256 → o < 4096 → (p, o) ∉ l → rget t.regs b p o = rget s.regs b p o

/-- Every register of every page outside the listed ones reads the same in both states. -/
def State.pagesBut (l : List Nat) (s t : State) : Prop :=
  ∀ b p o : Nat, p < 256 → o < 4096 → p ∉ l → rget t.regs b p o = rget s.regs b p o

end Sys2Proof.Machine
end

