-- ==== Sys2Proof/Certificates/Slice0/Obligations.lean ====
section
/-! DEFINITION. The statements about this machine. Each says in its docstring which rules of spec/ it formalises; one that rests on a
choice of the model names the log entry. -/

open Sys2Proof Sys2Proof.Machine

/-- Step takes the command at the front of the queue and answers what exec answers on it with the queue's rest in place: first in, first
out (log entry 1, a choice of the model: the spec names no queue). -/
def Obligations.StepRunsTheFrontCommand : Prop :=
  ∀ (c : Instr) (s : State), step (s.withFront c) = exec c s

/-- With no command waiting, step answers the state itself (log entry 1, a choice of the model). -/
def Obligations.EmptyQueueIdles : Prop :=
  ∀ s : State, s.pending = [] → step s = .next s

/-- Every command on every state takes a next state: a command that the spec refuses is answered with its code and the machine goes on,
and none stops it. So every state is safe. -/
def Obligations.EveryCommandTakesANextState : Prop :=
  (∀ (c : Instr) (s : State), Runs c s fun _ => True) ∧ ∀ s : State, s.safe = true

/-- A command neither adds to nor takes from the commands that wait, timebase time never runs back, and nor does the model's own counter
of free values (log entry 2). -/
def Obligations.QueueStandsAndTimeGoesOn : Prop :=
  ∀ (c : Instr) (s t : State), exec c s = .next t → t.pending = s.pending ∧ s.now ≤ t.now ∧ s.freeCtr ≤ t.freeCtr

/-- From every state that meets State.wf, every step gives one that meets it: the register file, the general SRAM and the DRAM stay in
canonical form, there stay 16 tenant slots, and no event queue comes to hold more than 256 entries. -/
def Obligations.EveryStepKeepsTheInvariant : Prop :=
  ∀ s t : State, s.wf = true → step s = .next t → t.wf = true

/-- State.reset meets State.wf. -/
def Obligations.ResetMeetsTheInvariant : Prop :=
  State.reset.wf = true

/-- After reset the mode is TRIM, register access is unavailable, no command waits, no event stands in any queue, no memory byte is
listed, no firkin is open, and every slot of the tenant table but T0's is EMPTY in its register. (What a memory that lists nothing reads
as is the model's choice, log entry 3; so are the register values of log entry 9.) -/
def Obligations.WhatResetLeaves : Prop :=
  State.reset.mode = .trim ∧ State.reset.fab.access = false ∧ State.reset.pending = [] ∧ State.reset.regs = [] ∧
    State.reset.mem.dram = [] ∧ State.reset.sram = [] ∧ State.reset.fab.fks = [] ∧ (∀ q ∈ State.reset.queues, q = EvQ.empty) ∧
    ∀ n : Fin 16, n ≠ 0 → State.reset.tst n.val = tEMPTY

/-- Every part of the state outside commandParts c reads the same after command c: sessions, event queues, links, keys, timing, feeds,
pattern engines, clips, pixel engines, coefficient sets, blend, temperature field, scan-out, lamp health, read-back, sensing, supply,
trim, DRAM contents, memory controller, serial ports, security, update and power each change only in the commands that name them. -/
def Obligations.UntouchedPartsStand : Prop :=
  ∀ (c : Instr) (s t : State), exec c s = .next t → ∀ p : Part, p ∉ commandParts c → p.same s t

/-- Every byte of DRAM reads the same after every command whose parts do not name the DRAM's contents: a request changes no byte before
its completion, and a refresh, a calibration or a scrub changes none. -/
def Obligations.DramStandsElsewhere : Prop :=
  ∀ (c : Instr) (s t : State), exec c s = .next t → Part.dram ∉ commandParts c → ∀ a : Nat,
    t.dramByte a = s.dramByte a

/-- An accepted write of PG_CTRL of page p answers code 0. ENABLE on a page with a unit that is neither enabled nor being checked starts
the consistency check and nothing else in the fabric, which keeps which tenant asked; DISABLE clears ENABLE, withdraws a check or an armed
start, and arms the stop of a unit that runs; PAGE_RESET arms the reset for the span boundary; HOLD sets HOLD as written on a page that
has it. No register but PG_CTRL, PG_STAT and PG_GEN of that page changes. (What ENABLE reads while a check or a start is pending is the
model's reading, log entry 10.) -/
def Obligations.PageControlWrites : Prop :=
  (∀ (s s1 : State) (a : Access) (page p o : Nat) (w : Who) (g : Reg), page < 256 →
    accepted s.begin_ a (regAddr page 0x008) (s.ctrlBits page (s.fg (hHOLD page) * 4 + 1)) = some (s1, w, p, o, g) →
    pageHasUnit page = true → enabledR s1.regs page = false → page ∉ s1.fab.checking →
    Runs (.enable a page) s fun t => t.fab = { s1.fab with
        checking := s1.fab.checking ++ [page], asked := s1.fab.asked.filter (·.1 != page) ++ (w.tenant.map fun n => (page, n)).toList } ∧
      State.regsBut [(page, 0x008), (page, 0x00C), (page, 0x024)] s1 t ∧ t.outs = doneOuts) ∧
  (∀ (s s1 : State) (a : Access) (page p o : Nat) (w : Who) (g : Reg), page < 256 →
    accepted s.begin_ a (regAddr page 0x008) (s.ctrlBits page (s.fg (hHOLD page) * 4)) = some (s1, w, p, o, g) →
    pageHasUnit page = true →
    Runs (.disable a page) s fun t => t.fg (hENABLE page) = 0 ∧ page ∉ t.fab.checking ∧ page ∉ t.fab.starting ∧
      (s1.active page = true → page ∈ t.fab.stopping) ∧
      State.regsBut [(page, 0x008), (page, 0x00C), (page, 0x024)] s1 t ∧ t.outs = doneOuts) ∧
  (∀ (s s1 : State) (a : Access) (page p o : Nat) (w : Who) (g : Reg), page < 256 →
    accepted s.begin_ a (regAddr page 0x008) (s.ctrlBits page (s.fg (hHOLD page) * 4 + 2 + s.fg (hENABLE page))) = some (s1, w, p, o, g) →
    page ∉ s1.fab.resetting →
    Runs (.pageReset a page) s fun t => t.fab = { s1.fab with resetting := s1.fab.resetting ++ [page] } ∧
      State.regsBut [(page, 0x008), (page, 0x00C), (page, 0x024)] s1 t ∧ t.outs = doneOuts) ∧
  (∀ (s s1 : State) (a : Access) (page p o : Nat) (w : Who) (g : Reg) (on : Bool), page < 256 →
    accepted s.begin_ a (regAddr page 0x008) (s.ctrlBits page (b2n on * 4 + s.fg (hENABLE page))) = some (s1, w, p, o, g) →
    pgCapOf page % 2 = 1 →
    Runs (.hold a page on) s fun t => t.fg (hHOLD page) = b2n on ∧
      State.regsBut [(page, 0x008), (page, 0x00C), (page, 0x024)] s1 t ∧ t.outs = doneOuts)

/-- ENABLE_CHECK_DONE on a page being checked: with no failure ENABLE reads 1, REFUSED 0, and the start is armed; with a failure ENABLE
reads 0, REFUSED 1, and PG_REASON holds the code and its detail; the page is no longer being checked, and only that page's registers,
those of ADMIT and FLT_LAST's page change. UNIT_START and UNIT_STOP carry out the start or stop armed for a page and clear nothing else in
the fabric, unless it waits (WIRE's start for a display-cycle boundary, R206; SADC1's start and stop for its conversion, R224); a unit
with no start (stop) action of its own then reads ACTIVE 1 (0), with no page but its own changed. PAGE_RESET_APPLY carries out the reset
armed for a page, withdraws its checks, starts and stops, and on a page with a unit that does not run and leaves its registers to the page
reset alone, every register but PG_FMASK, PG_EVENT and PG_OWNER reads as the boot leaves it. (ENABLE from the acceptance, ACTIVE from the
start: the model's reading, log entry 10.) -/
def Obligations.PageLifecycle : Prop :=
  (∀ (s : State) (page : Nat), page < 256 → page ∈ s.fab.checking →
    (s.begin_.enableVerdict (s.askerWho page) page).err = none →
    Runs (.enableCheckDone page) s fun t => t.fg (hENABLE page) = 1 ∧ t.fg (hREFUSED page) = 0 ∧ page ∉ t.fab.checking ∧
      page ∈ t.fab.starting ∧ State.pagesBut [page, pgADMIT] s t) ∧
  (∀ (s : State) (page : Nat) (c : Rc), page < 256 → page ∈ s.fab.checking →
    (s.begin_.enableVerdict (s.askerWho page) page).err = some c →
    Runs (.enableCheckDone page) s fun t => t.fg (hENABLE page) = 0 ∧ t.fg (hREFUSED page) = 1 ∧
      t.fg (hREASON page) = (c.code * 2 ^ 16 + c.detail % 2 ^ 16) % 2 ^ 32 ∧ page ∉ t.fab.checking ∧
      t.fab.starting = s.fab.starting ∧ State.pagesBut [page, pgADMIT, pgFAULT] s t) ∧
  (∀ (s : State) (page : Nat), page ∈ s.fab.starting → s.startWaits page false = false →
    Runs (.unitStart page) s fun t => t.fab = { s.fab with starting := s.fab.starting.filter (· != page) } ∧
      (page < 256 → s.active page = false → (∀ u : State, u.unitStarts page = u) →
        t.active page = true ∧ State.pagesBut [page] s t)) ∧
  (∀ (s : State) (page : Nat), page ∈ s.fab.stopping → ¬(page = pgSENSE ∧ s.sense.busy = true) →
    Runs (.unitStop page) s fun t => t.fab = { s.fab with stopping := s.fab.stopping.filter (· != page) } ∧
      (page < 256 → s.active page = true → (∀ u : State, u.unitStops page = u) →
        t.active page = false ∧ State.pagesBut [page] s t)) ∧
  (∀ (s : State) (page : Nat), page ∈ s.fab.resetting →
    Runs (.pageResetApply page) s fun t => page ∉ t.fab.checking ∧ page ∉ t.fab.starting ∧ page ∉ t.fab.stopping ∧
      t.fab.resetting = s.fab.resetting.filter (· != page) ∧ t.fab.fks = s.fab.fks ∧
      (page < 256 → pageHasUnit page = true → s.active page = false → (∀ u v : State, u.resync v page = u) →
        ∀ b o : Nat, o < 4096 → o ≠ 0x018 → o ≠ 0x01C → o ≠ 0x020 → rget t.regs b page o = rget s.bootRegs b page o))

/-- Accepted writes of FK_CMD and FK_SDATA, with the identity's own copies of the registers. OPEN of an identity that may hold a further
handle, with a lease that is not 0, makes the lowest free handle OPEN with no writes and a lease that starts now, shows it in FK_SEL and
answers 0 with the handle. A staged write that passes its checks is appended to the selected OPEN handle of the same identity. COMMIT of
an OPEN handle reads the trigger and starts the checks. ABORT of an OPEN or FAILED handle frees it; RENEW restarts its lease; CANCEL of a
pending handle that leaves the later ones valid frees it. No page but FIRKIN's changes. (The lowest free handle is the model's choice, log
entry 14.) -/
def Obligations.FirkinCommands : Prop :=
  (∀ (s s1 : State) (a : Access) (p o h : Nat) (w : Who) (g : Reg),
    accepted s.begin_ a (regAddr pgFIRKIN FK_CMD.off) 1 = some (s1, w, p, o, g) →
    (∀ k : Fin 16, w = .ten k → roleR s1.regs k.val ≠ 3) → s1.fgb w.bank FK_LEASE_MS ≠ 0 →
    s1.fkCount w.slot < Config.tenHandles → h < Config.nHandles → s1.fk? h = none → (∀ j : Nat, j < h → s1.fk? j ≠ none) →
    Runs (.open_ a) s fun t =>
      t.fab.fks = s1.fab.fks ++ [⟨h, w, false, .open_, [], s.now + s1.fgb w.bank FK_LEASE_MS * Config.ms, .imm, ⟨0, 0⟩, 0, 0, 0⟩] ∧
      t.fgb w.bank FK_SEL_HANDLE = h ∧ t.fgb w.bank FK_RESULT_CODE = 0 ∧ t.fgb w.bank FK_RESULT_DETAIL = h ∧
      State.pagesBut [pgFIRKIN] s1 t ∧ t.outs = doneOuts) ∧
  (∀ (s s1 s2 : State) (a : Access) (data : Word) (p o : Nat) (w : Who) (g : Reg) (f : Firkin) (x : SWrite),
    accepted s.begin_ a (regAddr pgFIRKIN FK_SDATA.off) data.toNat = some (s1, w, p, o, g) →
    s2 = (if s1.fgb w.bank FK_SADDR_INC = 1 then s1.fsb w.bank FK_SADDR_WORD ((s1.fgb w.bank FK_SADDR_WORD + 1) % 1024) else s1) →
    s1.fk? (s1.fgb w.bank FK_SEL_HANDLE) = some f → fkMine w f = true → f.st = .open_ → f.writes.length < Config.maxStaged →
    x = ⟨s1.fgb w.bank FK_SADDR_PAGE, s1.fgb w.bank FK_SADDR_WORD * 4, s1.fgb w.bank FK_SMASK_MASK, data.toNat,
      rfgetB s1.regs w.bank PAL_SEL_FEED 0 0⟩ →
    s2.stageFail (putWrites s2.bootRegs w s2.regs f.writes) w x = none →
    Runs (.stageWrite a data) s fun t =>
      t.fab.fks = s1.fab.fks.map (fun y => if y.h = f.h then { y with writes := y.writes ++ [x] } else y) ∧
      State.pagesBut [pgFIRKIN] s1 t ∧ t.outs = doneOuts) ∧
  (∀ (s s1 : State) (a : Access) (p o h : Nat) (w : Who) (g : Reg) (f : Firkin), h < 128 →
    accepted s.begin_ a (regAddr pgFIRKIN FK_CMD.off) (h * 256 + 2) = some (s1, w, p, o, g) →
    s1.fk? h = some f → fkMine w f = true → f.st = .open_ →
    Runs (.commit a h) s fun t =>
      t.fab.fks = s1.fab.fks.map (fun y => if y.h = h then { y with st := .checking, trig := s1.fkTrig w } else y) ∧
      State.pagesBut [pgFIRKIN] s1 t ∧ t.outs = doneOuts) ∧
  (∀ (s s1 : State) (a : Access) (p o h : Nat) (w : Who) (g : Reg) (f : Firkin), h < 128 →
    accepted s.begin_ a (regAddr pgFIRKIN FK_CMD.off) (h * 256 + 3) = some (s1, w, p, o, g) →
    s1.fk? h = some f → fkMine w f = true → (f.st = .open_ ∨ f.st = .failed) →
    Runs (.abort a h) s fun t => t.fab.fks = s1.fab.fks.filter (fun y => y.h != h) ∧ t.fgb w.bank FK_RESULT_CODE = 0 ∧
      State.pagesBut [pgFIRKIN] s1 t ∧ t.outs = doneOuts) ∧
  (∀ (s s1 : State) (a : Access) (p o h : Nat) (w : Who) (g : Reg) (f : Firkin), h < 128 →
    accepted s.begin_ a (regAddr pgFIRKIN FK_CMD.off) (h * 256 + 4) = some (s1, w, p, o, g) →
    s1.fk? h = some f → fkMine w f = true → (f.st = .open_ ∨ f.st = .failed) → s1.fgb w.bank FK_LEASE_MS ≠ 0 →
    Runs (.renew a h) s fun t =>
      t.fab.fks = s1.fab.fks.map (fun y =>
        if y.h = h then { y with leaseEnd := s.now + s1.fgb w.bank FK_LEASE_MS * Config.ms } else y) ∧
      t.fgb w.bank FK_RESULT_CODE = 0 ∧ State.pagesBut [pgFIRKIN] s1 t ∧ t.outs = doneOuts) ∧
  (∀ (s s1 : State) (a : Access) (p o h : Nat) (w : Who) (g : Reg) (f : Firkin), h < 128 →
    accepted s.begin_ a (regAddr pgFIRKIN FK_CMD.off) (h * 256 + 5) = some (s1, w, p, o, g) →
    s1.fk? h = some f → fkMine w f = true → f.st = .pending → s1.cancelFail h = none →
    Runs (.cancel a h) s fun t => t.fab.fks = s1.fab.fks.filter (fun y => y.h != h) ∧ t.fgb w.bank FK_RESULT_CODE = 0 ∧
      State.pagesBut [pgFIRKIN] s1 t ∧ t.outs = doneOuts)

/-- COMMIT_CHECKS_DONE of a handle being checked: with no failure it becomes pending, in the order of acceptance, and its result is 0 for
an immediate trigger or 0x0001 with the handle; with a failure it is freed and the code is its result. FIRKIN_LEASE_EXPIRE frees an OPEN
or FAILED handle at the end of its lease. FIRKIN_APPLY of the one pending firkin, an immediate one, at a span boundary after its checks
(one lies ahead while no cycle runs; log entry 64) frees its handle, and one write of a register that starts no further effect is then in
the register, with the page's generation counted up. FIRKIN_INSTANT_PASSED with no cycle running frees a firkin that waited for a DCN and
raises 0x6001 for its owner. -/
def Obligations.FirkinInstants : Prop :=
  (∀ (s : State) (h : Nat) (f : Firkin), s.fk? h = some f → f.st = .checking → (s.begin_.commitVerdict f).err = none →
    Runs (.commitChecksDone h) s fun t =>
      t.fab.fks = s.fab.fks.map (fun y => if y.h = h then { y with st := .pending, order := s.fab.fkOrder, since := s.now } else y) ∧
      t.fab.fkOrder = s.fab.fkOrder + 1 ∧ t.fgb f.who.bank FK_RESULT_CODE = (if f.trig = .imm then 0 else 1)) ∧
  (∀ (s : State) (h : Nat) (f : Firkin) (c : Rc), s.fk? h = some f → f.st = .checking →
    (s.begin_.commitVerdict f).err = some c →
    Runs (.commitChecksDone h) s fun t => t.fab.fks = s.fab.fks.filter (fun y => y.h != h) ∧
      t.fgb f.who.bank FK_RESULT_CODE = c.code % 2 ^ 16 ∧ t.fgb f.who.bank FK_RESULT_DETAIL = c.detail % 2 ^ 16) ∧
  (∀ (s : State) (h : Nat) (f : Firkin), s.fk? h = some f → (f.st = .open_ ∨ f.st = .failed) →
    Runs (.firkinLeaseExpire h) s fun t =>
      t.fab.fks = s.fab.fks.filter (fun y => !((y.st == .open_ || y.st == .failed) && y.h == h)) ∧ t.now = max s.now f.leaseEnd) ∧
  (∀ (s : State) (h : Nat) (f : Firkin) (x : SWrite) (g : Reg), s.fk? h = some f → f.st = .pending → f.trig = .imm →
    (∀ y ∈ s.fab.fks, y.st = .pending → y = f) → (s.tim.running = false ∨ s.atSpan = true ∧ f.since < s.now) →
    f.writes = [x] → x.page ≠ pgCORR → x.page < 256 → x.off < 4096 → x.off ≠ 0x008 → x.off ≠ 0x020 → x.off ≠ 0x024 →
    anyRegAt x.page x.off = some g → wideLast x.page x.off = none → State.mapReg x.page x.off = false →
    (∀ u v : State, State.effect u v f.who.bank x.feed x.page x.off x.data x.mask true = v) →
    Runs (.firkinApply h) s fun t => t.fk? h = none ∧
      rget t.regs (x.bank f.who) x.page x.off =
        mergeFlds g.flds (rget s.regs (x.bank f.who) x.page x.off) x.data x.mask % 2 ^ 32 ∧
      t.fg (hGEN x.page) = add32 (s.fg (hGEN x.page)) 1) ∧
  (∀ (s : State) (h n : Nat) (f : Firkin), s.fk? h = some f → f.h = h → f.st = .pending → f.trig = .dcn n → s.begin_.cycles = false →
    Runs (.firkinInstantPassed h) s fun t => t.fab.fks = s.fab.fks.filter (fun y => y.h != h) ∧ t.regs = s.regs ∧
      t.tens = modAt s.tens f.who.slot fun y =>
        { y with evq := y.evq.push ⟨0x6001, 0, false, kFirkin, h % 256, pgFIRKIN, s.dcn, s.wallNs⟩ })

/-- A word that the management pair writes to general SRAM is stored there, with every other word and every register as before. An
accepted write of PG_FMASK or PG_EVENT stores the fields that the register has, and changes no other register but PG_GEN. A read of the
lowest register of a wide value returns it and latches the whole value for the access path; a read of a higher register that follows
returns the latched word. A read of a register with clear-on-read fields that is no queue's loss counter returns it and clears those
fields, in the reader's copy, and no other register changes. (How long a latch stays is the model's reading, log entry 13.) -/
def Obligations.RegisterReadsAndWrites : Prop :=
  (∀ (s : State) (a : Access) (addr : Nat) (data : Word) (env : Env), a.path = .mgmt → 0x10000000 ≤ addr → addr < 0x10400000 →
    addr % 4 = 0 →
    Runs (.registerWrite a addr data env) s fun t => cget t.sram (addr / 4) 0 = data ∧
      (∀ k : Nat, k ≠ addr / 4 → cget t.sram k 0 = cget s.sram k 0) ∧ t.regs = s.regs ∧ t.outs = doneOuts) ∧
  (∀ (s s1 : State) (a : Access) (page off p o : Nat) (data : Word) (env : Env) (w : Who) (g : Reg), page < 256 →
    (off = 0x018 ∨ off = 0x01C) → accepted s.begin_ a (regAddr page off) data.toNat = some (s1, w, p, o, g) →
    Runs (.registerWrite a (regAddr page off) data env) s fun t =>
      rget t.regs (bankOfReg s1.regs w page off) page off =
        mergeFlds g.flds (rget s1.regs (bankOfReg s1.regs w page off) page off) data.toNat (2 ^ 32 - 1) % 2 ^ 32 ∧
      State.regsBut [(page, off), (page, 0x024)] s1 t ∧ t.outs = doneOuts) ∧
  (∀ (s s1 : State) (a : Access) (page off : Nat) (w : Who) (g : Reg) (os : List Nat), page < 256 → off < 4096 → off % 4 = 0 →
    grantAccess s.begin_ a (regAddr page off) = .ok (s1, w) → anyRegAt page off = some g → mayReadR s1.regs w page = true →
    wideOf page off = some (os, 0) →
    Runs (.snapshotRead a (regAddr page off)) s fun t =>
      t.outs = [.res ⟨0, 0⟩ [BitVec.ofNat 32 (s1.readNow w page off g)]] ∧
      t.snapshot (pathKey w (some a.path)) (regAddr page off) = some (os.map fun x => BitVec.ofNat 32 (match anyRegAt page x with
        | some r => s1.readNow w page x r
        | none => 0))) ∧
  (∀ (s s1 : State) (a : Access) (page off k : Nat) (w : Who) (g : Reg) (os : List Nat) (ws : List Word), page < 256 → off < 4096 →
    off % 4 = 0 → grantAccess s.begin_ a (regAddr page off) = .ok (s1, w) → anyRegAt page off = some g → mayReadR s1.regs w page = true →
    wideOf page off = some (os, k + 1) → s1.snapshot (pathKey w (some a.path)) (regAddr page (nth os 0 0)) = some ws →
    Runs (.snapshotRead a (regAddr page off)) s fun t => t.outs = [.res ⟨0, 0⟩ [nth ws (k + 1) 0]]) ∧
  (∀ (s s1 : State) (a : Access) (page off m : Nat) (w : Who) (g : Reg), page < 256 → off < 4096 → off % 4 = 0 →
    grantAccess s.begin_ a (regAddr page off) = .ok (s1, w) → anyRegAt page off = some g → mayReadR s1.regs w page = true →
    wideOf page off = none → page ≠ pgEVTQ →
    m = g.flds.foldl (fun m f => if f.acc = .rc then Nat.lor m f.mask else m) 0 → m ≠ 0 →
    Runs (.readClear a (regAddr page off)) s fun t =>
      t.outs = [.res ⟨0, 0⟩ [BitVec.ofNat 32 (s1.readNow w page off g)]] ∧
      rget t.regs (bankOfReg s1.regs w page off) page off =
        rget s1.regs (bankOfReg s1.regs w page off) page off -
          Nat.land (rget s1.regs (bankOfReg s1.regs w page off) page off) m ∧
      State.regsBut [(page, off)] s1 t)

/-- An accepted EQ_POP drops the oldest entry of the queue in view and no other; no page but EVTQ's changes. EVENT_FRAME_SEND of an ACTIVE
slot whose session came by link, with delivery on and entries not yet sent, sends up to 16 of them, oldest first, on the active path, and
numbers the frame by the queue's count and by the tile's FCTR (their first values, log entry 66). -/
def Obligations.EventQueueCommands : Prop :=
  (∀ (s s1 : State) (a : Access) (p o : Nat) (w : Who) (g : Reg),
    accepted s.begin_ a (regAddr pgEVTQ EQ_POP.off) 1 = some (s1, w, p, o, g) →
    Runs (.eqPop a) s fun t =>
      t.tens = modAt s1.tens (s1.eqView w) (fun y =>
        { y with evq := { y.evq with q := y.evq.q.drop 1, unsent := min y.evq.unsent (y.evq.q.length - 1) } }) ∧
      State.pagesBut [pgEVTQ] s1 t ∧ t.outs = doneOuts) ∧
  (∀ (s : State) (n : Fin 16) (y : Ten), s.tst n.val = tACTIVE → s.tens[n.val]? = some y → y.port.isSome = true →
    s.fgb (1 + n.val) EQ_CTRL_DELIVER ≠ 0 → y.evq.unsent ≠ 0 → s.passes s.pathAct = true →
    Runs (.eventFrameSend n) s fun t =>
      t.lnk = { s.lnk with fctr := s.lnk.fctr + 1 } ∧
      t.outs = [.event (s.upHdr 4 n.val false y.evq.seq (4 + 16 * min 16 y.evq.unsent + 16)) s.pathAct n.val y.evq.seq
        (((y.evq.q.drop (y.evq.q.length - y.evq.unsent)).take (min 16 y.evq.unsent)).map Event.words)] ∧
      t.tens = modAt s.tens n.val (fun x => { x with evq := { x.evq with
        unsent := x.evq.unsent - min 16 y.evq.unsent, seq := (x.evq.seq + 1) % 65536 } }))

/-- Accepted writes of RST_CMD and RST_KICK. COLD_RESET leaves the machine in TRIM with no register access, no firkin, empty memories and
cause 3. MANAGEMENT_PAIR_RESET takes register access away, frees every OPEN and FAILED handle, and records cause 4. PIXA_RESET and
PIXB_RESET take their half out of service by code 2. KICK restarts the watchdog and changes nothing else but PG_GEN. WATCHDOG_EXPIRE, with
a timeout set and register access available, resets the management pair at the end of the timeout with cause 6. REGISTER_ACCESS_RESTORED,
after a reset of the management pair, restores register access and restarts the watchdog. (What memories read after a cold reset is the
model's choice, log entry 3; what the resets keep beyond Table 2.25, log entry 54.) -/
def Obligations.ResetCommands : Prop :=
  (∀ (s s1 : State) (a : Access) (p o : Nat) (w : Who) (g : Reg),
    accepted s.begin_ a (regAddr pgRST RST_CMD.off) 0x7A5E0001 = some (s1, w, p, o, g) →
    Runs (.coldReset a) s fun t => t.mode = .trim ∧ t.fab.access = false ∧ t.fab.fks = [] ∧ t.mem = State.reset.mem ∧ t.sram = [] ∧
      t.scan = State.reset.scan ∧ t.tim = State.reset.tim ∧ t.fg RST_CAUSE_CAUSE = 3 ∧ t.outs = doneOuts) ∧
  (∀ (s s1 : State) (a : Access) (p o : Nat) (w : Who) (g : Reg),
    accepted s.begin_ a (regAddr pgRST RST_CMD.off) 0x7A5E0002 = some (s1, w, p, o, g) →
    Runs (.managementPairReset a) s fun t => t.fab.access = false ∧
      t.fab.fks = s1.fab.fks.filter (fun y => !(y.st == .open_ || y.st == .failed)) ∧ t.fab.latches = [] ∧
      t.fg RST_CAUSE_CAUSE = 4) ∧
  (∀ (s s1 : State) (a : Access) (p o : Nat) (w : Who) (g : Reg),
    accepted s.begin_ a (regAddr pgRST RST_CMD.off) 0x7A5E0003 = some (s1, w, p, o, g) →
    Runs (.pixaReset a) s fun t => t.fg PIX_HALF_A = 2 ∧ State.pagesBut [pgRST, pgPIX, pgCORR] s1 t) ∧
  (∀ (s s1 : State) (a : Access) (p o : Nat) (w : Who) (g : Reg),
    accepted s.begin_ a (regAddr pgRST RST_CMD.off) 0x7A5E0004 = some (s1, w, p, o, g) →
    Runs (.pixbReset a) s fun t => t.fg PIX_HALF_B = 2 ∧ State.pagesBut [pgRST, pgPIX, pgCORR] s1 t) ∧
  (∀ (s s1 : State) (a : Access) (p o : Nat) (w : Who) (g : Reg),
    accepted s.begin_ a (regAddr pgRST RST_KICK.off) 1 = some (s1, w, p, o, g) →
    Runs (.kick a) s fun t => t.fab = { s1.fab with wdogAt := s.now } ∧ State.regsBut [(pgRST, 0x024)] s1 t ∧ t.outs = doneOuts) ∧
  (∀ s : State, s.fg RST_WDOG_TIMEOUT ≠ 0 → s.fab.access = true →
    Runs .watchdogExpire s fun t => t.fab.access = false ∧ t.fg RST_CAUSE_CAUSE = 6 ∧
      t.now = max s.now (s.fab.wdogAt + s.fg RST_WDOG_TIMEOUT * Config.ms)) ∧
  (∀ s : State, s.begin_.mgmtDown = true →
    Runs .registerAccessRestored s fun t => t.fab.access = true ∧ t.fab.wdogAt = s.now ∧ t.now = s.now)

/-- An accepted MODE_REQUEST that the state of the device does not refuse waits for its boundary, or asks for nothing where it names the
mode in force; one that the state refuses is answered with its code and changes no mode. MODE_CHANGE in SHOW or SERVICE enters the other
one or DARK as requested; in DARK it leaves DARK when no cause is active, and otherwise stays in DARK and records 0x2010 in the write
error of the requester (log entry 8, the model's reading of which requester is told). -/
def Obligations.ModeCommands : Prop :=
  (∀ (s s1 : State) (a : Access) (req p o : Nat) (w : Who) (g : Reg),
    accepted s.begin_ a (regAddr pgSYS SYS_MODE.off) (req % 8) = some (s1, w, p, o, g) → s1.modeRefuse (req % 8) = none →
    Runs (.modeRequest a req) s fun t =>
      t.pow = { s1.pow with req := if req % 8 = s1.mode.code then none else some (req % 8, w.bank) } ∧ t.mode = s1.mode ∧
      State.regsBut [(pgSYS, SYS_MODE.off), (pgSYS, 0x024)] s1 t ∧ t.outs = doneOuts) ∧
  (∀ (s s1 : State) (a : Access) (req p o : Nat) (w : Who) (g : Reg) (c : Rc),
    accepted s.begin_ a (regAddr pgSYS SYS_MODE.off) (req % 8) = some (s1, w, p, o, g) → s1.modeRefuse (req % 8) = some c →
    Runs (.modeRequest a req) s fun t => t.outs = [.res c []] ∧ t.mode = s1.mode ∧ t.pow = s1.pow) ∧
  (∀ (s : State) (b : Nat), s.mode = .show → s.pow.req = some (3, b) →
    Runs .modeChange s fun t => t.mode = .service ∧ t.pow = { s.pow with req := none } ∧ t.fg SYS_MODE_MODE_ACT = 3) ∧
  (∀ (s : State) (b : Nat), s.mode = .service → s.pow.req = some (4, b) →
    Runs .modeChange s fun t => t.mode = .show ∧ t.pow = { s.pow with req := none }) ∧
  (∀ (s : State) (b : Nat), (s.mode = .show ∨ s.mode = .service) → s.pow.req = some (5, b) →
    Runs .modeChange s fun t => t.mode = .dark ∧ t.pow.req = none ∧ t.scan.driven = false) ∧
  (∀ (s : State) (r b : Nat), s.mode = .dark → s.pow.req = some (r, b) → (r = 3 ∨ r = 4) → s.activeCauses = 0 →
    Runs .modeChange s fun t => t.mode = Mode.ofCode r ∧ t.pow.req = none ∧ t.pow.shut = false) ∧
  (∀ (s : State) (r b : Nat), s.mode = .dark → s.pow.req = some (r, b) → (r = 3 ∨ r = 4) → s.activeCauses ≠ 0 →
    Runs .modeChange s fun t => t.mode = .dark ∧ t.pow = { s.pow with req := none } ∧ t.fgb b SYS_WRERR_CODE = 0x2010)

/-- A waiting request for SLEEP acts: register access ends, every OPEN and FAILED firkin is dropped, and entry is under way; with both
rails OFF the mode is SLEEP at once, and only AON and SEC keep power. An entry under way ends in SLEEP once both rails are OFF. An enabled
wake source in SLEEP starts TRIM from reset, with domain 2 powering, the source recorded, and the keys kept. -/
def Obligations.SleepAndWake : Prop :=
  (∀ (s : State) (b : Nat), (s.mode = .show ∨ s.mode = .service ∨ s.mode = .dark) → s.pow.req = some (0, b) → s.pow.sleeping = false →
    Runs .sleepEntry s fun t => t.fab.access = false ∧ t.pow.req = none ∧
      t.fab.fks = s.fab.fks.filter (fun y => !(y.st == .open_ || y.st == .failed)) ∧ (t.pow.sleeping = true ∨ t.mode = .sleep)) ∧
  (∀ s : State, s.mode ≠ .sleep → s.pow.sleeping = true → s.railsOff = true → s.pow.wakeSrc = none →
    Runs .sleepEntry s fun t => t.mode = .sleep ∧ t.pow.sleeping = false ∧ t.fg SYS_MODE_MODE_ACT = 0 ∧ t.fg PD_ACT_DOM = 3 ∧
      t.tim.running = false) ∧
  (∀ (s : State) (src : Fin 4), s.mode = .sleep → bit (s.reg pgPWRDOM PD_CFG.off) (4 + src.val) = true →
    Runs (.wake src) s fun t => t.mode = .trim ∧ t.fg PD_WAKESRC_SRC = src.val + 1 ∧ t.fg PD_ACT_DOM = 3 ∧ t.pow.powering = [2] ∧
      t.keys = s.keys ∧ t.fab.access = false)

/-- PRESET in TRIM, due and without a record, is done and changes no other page than FAULT. SENSOR_PROBE in TRIM, due, with fewer than
three acknowledgements or a stuck bus, likewise. A retention image that fails its CRC is dropped and changes no other page than FAULT.
TRIM_END, when all it waits for has come about, restores register access, restarts the watchdog and the sample timers, and leaves TRIM. -/
def Obligations.TrimEndActions : Prop :=
  (∀ s : State, s.mode = .trim → s.pow.trimDone = false → s.presetDue = true →
    Runs (.preset none) s fun t => t.pow = { s.pow with presetDone := true } ∧ State.pagesBut [pgFAULT] s t ∧ t.now = s.now) ∧
  (∀ (s : State) (ack : BitVec 8), s.mode = .trim → s.pow.trimDone = false → s.presetDue = false → s.probeDue = true →
    (s.fg TWI_STAT_STUCK = 1 ∨ ((List.range 8).filter (bit ack.toNat)).length < 3) →
    Runs (.sensorProbe ack) s fun t => t.pow = { s.pow with probed := true } ∧ State.pagesBut [pgFAULT] s t ∧ t.now = s.now) ∧
  (∀ (s : State) (im : RetImage), s.mode = .trim → s.pow.trimDone = false → s.presetDue = false → s.probeDue = false →
    s.memReady = true → s.pow.image = some im →
    Runs (.retentionImage false) s fun t => t.pow = { s.pow with image := none } ∧ State.pagesBut [pgFAULT] s t ∧ t.now = s.now) ∧
  (∀ (s : State) (freed : Bool), s.trimOver = true →
    Runs (.trimEnd freed) s fun t => t.mode ≠ .trim ∧ t.pow.trimDone = true ∧ t.fab.access = true ∧ t.fab.wdogAt = s.now ∧
      t.field.sampleAt = s.now)

/-- PORN leaves TRIM with the straps in SYS_STRAP and only domain 0 on, domain 1 powering. DOMAIN_POWER_GOOD of a powering domain sets its
bit of PD_ACT; PGOOD_TIMEOUT clears it, and in TRIM before its end enters DARK. DOMAIN_SWITCH in SHOW, SERVICE or DARK takes over PD_REQ:
each of domains 8 to 10 whose request falls is off, and no page but the domains', the stones', the supply's and FAULT's changes.
BROWNOUT_WARNING enters DARK; BROWNOUT_RESET starts from TRIM with cause 2. VDD33_RETURN ends the low condition and changes nothing else.
(That an unchanged PD_REQ acts once is the model's reading, log entry 53.) -/
def Obligations.PowerDomains : Prop :=
  (∀ (s : State) (x : Fin 4096),
    Runs (.porn x) s fun t => t.mode = .trim ∧ t.fg SYS_STRAP_CFG = x.val ∧ t.fg PD_ACT_DOM = 1 ∧ t.pow.powering = [1] ∧
      t.fab.access = false ∧ t.mem = State.reset.mem ∧ t.sram = []) ∧
  (∀ (s : State) (d : Fin 11), s.pow.powering.contains d.val = true →
    Runs (.domainPowerGood d) s fun t => t.powered d.val = true) ∧
  (∀ (s : State) (d : Fin 11), s.pow.powering.contains d.val = true →
    Runs (.pgoodTimeout d) s fun t => t.powered d.val = false ∧
      (s.mode = .trim → t.mode = .dark ∧ t.pow.trimFail = true)) ∧
  (∀ s : State, (s.mode = .show ∨ s.mode = .service ∨ s.mode = .dark) →
    Runs .domainSwitch s fun t => t.pow.pdReq = s.reg pgPWRDOM PD_REQ.off ∧ t.mode = s.mode ∧
      ∀ d ∈ [8, 9, 10], bit (s.reg pgPWRDOM PD_REQ.off) d = false → bit s.pow.pdReq d = true → t.powered d = false) ∧
  (∀ s : State, (s.mode = .show ∨ s.mode = .service) →
    Runs .brownoutWarning s fun t => t.mode = .dark ∧ t.pow.vddLow = true ∧ t.fg FLT_ENTRY_CAUSE = 9 ∧ t.scan.driven = false) ∧
  (∀ s : State,
    Runs .brownoutReset s fun t => t.mode = .trim ∧ t.fab.access = false ∧ t.fg RST_CAUSE_CAUSE = 2 ∧ t.fab.fks = []) ∧
  (∀ s : State,
    Runs .vdd33Return s fun t => t.pow = { s.pow with vddLow := false } ∧ t.regs = s.regs ∧ t.now = s.now ∧ t.outs = [])

/-- A trip of a powered stone's comparator is noted and, when no shutdown is in force, stops the supply and every driven lamp and puts the
device in shutdown. A clear of a comparator ends its trip and changes nothing else. SHUTDOWN_DARK in SHOW or SERVICE, with the shutdown
waiting and no write to flash or journal under way, enters DARK. -/
def Obligations.OverTemperature : Prop :=
  (∀ (s : State) (k : Fin 16), s.powered (State.stoneDomain k.val) = true → s.pow.shut = false →
    Runs (.overTemperatureTrip (some k)) s fun t => k.val ∈ t.pow.tripped ∧ t.pow.shut = true ∧ t.pow.shutWait = some k.val ∧
      t.scan.driven = false ∧ t.fg TH_STAT_SHUT = 1 ∧ t.mode = s.mode) ∧
  (∀ s : State, State.deg 120 ≤ sgn 16 (s.fg TH_STAT_DIEMAX) → s.pow.shut = false →
    Runs (.overTemperatureTrip none) s fun t => t.pow = { s.pow with shut := true, shutWait := some 0xFF } ∧ t.scan.driven = false) ∧
  (∀ (s : State) (k : Fin 16),
    Runs (.overTemperatureClear k) s fun t => t.pow = { s.pow with tripped := s.pow.tripped.filter (· != k.val) } ∧
      t.regs = s.regs ∧ t.now = s.now ∧ t.outs = []) ∧
  (∀ (s : State) (d : Nat), (s.mode = .show ∨ s.mode = .service) → s.pow.shutWait = some d → s.nvWriting = false →
    Runs .shutdownDark s fun t => t.mode = .dark ∧ t.pow.shutWait = none ∧ t.scan.driven = false ∧ t.fg FLT_ENTRY_CAUSE = 8)

/-- An accepted HALT of one core whose scope is open, no other core's request differing from its state, sets its bit of DBG_STAT; halting
core 0 ends register access, halting core 2 or 3 takes its half of the array out by code 2. RESUME clears the bit. BYPASS shifts one bit
through, IDCODE shifts out DBG_IDCODE, SAMPLE_PRELOAD shifts out the pins and takes the preload, EXTEST with open scope in SERVICE with
the supply disabled drives the pins. A lockstep mismatch with the management pair powered and core 0 running resets the pair. (The shape
of BYPASS, SAMPLE_PRELOAD and EXTEST is presumed from the standard, log entry 56.) -/
def Obligations.DebugCommands : Prop :=
  (∀ (s s1 : State) (a : Access) (k : Fin 5) (p o : Nat) (w : Who) (g : Reg),
    accepted s.begin_ a (regAddr pgDBG DBG_HALT.off) (putBits (s.fg DBG_HALT_HALT) k.val k.val 1) = some (s1, w, p, o, g) →
    s.fg DBG_HALT_HALT = s.fg DBG_STAT_HALTED → bit (s.fg DBG_STAT_HALTED) k.val = false → bit (s.fg DBG_SCOPE_SCOPE) k.val = true →
    Runs (.halt a k) s fun t => bit (t.fg DBG_STAT_HALTED) k.val = true ∧ (k.val = 0 → t.fab.access = false) ∧
      (k.val = 1 → t.sup.halt = true) ∧ (k.val = 2 → t.fg PIX_HALF_A = 2) ∧ (k.val = 3 → t.fg PIX_HALF_B = 2) ∧ t.outs = doneOuts) ∧
  (∀ (s s1 : State) (a : Access) (k : Fin 5) (p o : Nat) (w : Who) (g : Reg),
    accepted s.begin_ a (regAddr pgDBG DBG_HALT.off) (putBits (s.fg DBG_HALT_HALT) k.val k.val 0) = some (s1, w, p, o, g) →
    s.fg DBG_HALT_HALT = s.fg DBG_STAT_HALTED → bit (s.fg DBG_STAT_HALTED) k.val = true →
    Runs (.resume a k) s fun t => bit (t.fg DBG_STAT_HALTED) k.val = false ∧ (k.val = 1 → t.sup.halt = false) ∧ t.outs = doneOuts) ∧
  (∀ (s : State) (tdi : Bool),
    Runs (.bypass tdi) s fun t => t.outs = [.tap (b2n s.pow.tapHold) 1] ∧ t.pow = { s.pow with tapHold := tdi } ∧
      t.fg DBG_STAT_EXTEST = 0 ∧ State.regsBut [(pgDBG, DBG_STAT.off)] s t) ∧
  (∀ s : State,
    Runs .idcode s fun t => t.outs = [.tap (s.reg pgDBG DBG_IDCODE.off) 32] ∧ t.pow = s.pow ∧ State.regsBut [(pgDBG, DBG_STAT.off)] s t) ∧
  (∀ (s : State) (pins preload : Nat),
    Runs (.samplePreload pins preload) s fun t => t.outs = [.tap pins 0] ∧ t.pow = { s.pow with tapPins := preload } ∧
      State.regsBut [(pgDBG, DBG_STAT.off)] s t) ∧
  (∀ (s : State) (tdi : Bool), bit (s.fg DBG_SCOPE_SCOPE) 4 = true → s.mode = .service → enabledR s.regs pgSUPPLY = false →
    Runs (.extest tdi) s fun t => t.outs = [.pins s.pow.tapPins] ∧ t.fg DBG_STAT_EXTEST = 1 ∧ t.scan.driven = false ∧ t.pow = s.pow ∧
      State.regsBut [(pgDBG, DBG_STAT.off)] s t) ∧
  (∀ s : State, s.powered 2 = true → bit (s.fg DBG_STAT_HALTED) 0 = false →
    Runs .lockstepMismatch s fun t => t.fab.access = false ∧ t.fab.lockEv = true ∧ t.fg RST_CAUSE_CAUSE = 5)

/-- Accepted writes of TEN_CMD and TEN_RUN, and the instants of the tenant table. RESET and QUARANTINE order a reset of a slot that is
neither EMPTY nor RESETTING; QUARANTINE of T0 is refused; RELEASE returns a quarantined slot to ENROLLED and is refused for any other one
that is not EMPTY; RUN_REQ 1 shows in RUN_ACT unless the slot is in quarantine, RUN_REQ 0 resets a session. The end of a session's lease
orders a reset with cause 5. The end of a quarantine interval orders the reset of an active slot whose refusals exceed PERMF, and clears
every count. At the reset instant every slot that is RESETTING becomes ENROLLED, or quarantined where that was ordered, has no key and no
OPEN or FAILED firkin, and owns no page; the other slots keep their state and keys. (QUARANTINE of a quarantined slot, the cause that is
recorded, log entry 65: the model's choice.) -/
def Obligations.TenantCommands : Prop :=
  (∀ (s s1 : State) (a : Access) (n : Fin 16) (p o : Nat) (w : Who) (g : Reg),
    accepted s.begin_ a (regAddr (pgTEN + n.val) TEN_CMD.off) 1 = some (s1, w, p, o, g) → s1.tst n.val ≠ tEMPTY → s1.tst n.val ≠ tRESETTING →
    Runs (.tenCmdReset a n) s fun t => t.tst n.val = tRESETTING ∧ State.pagesBut [pgTEN + n.val] s1 t ∧ t.outs = doneOuts ∧
      t.tens = modAt s1.tens n.val (fun x => { x with
        cause := if w.slot = n.val ∧ w.isSys = false then 2 else 1, toQuar := s1.tst n.val == tQUAR })) ∧
  (∀ (s s1 : State) (a : Access) (n : Fin 16) (p o : Nat) (w : Who) (g : Reg),
    accepted s.begin_ a (regAddr (pgTEN + n.val) TEN_CMD.off) 2 = some (s1, w, p, o, g) → n.val ≠ 0 → s1.tst n.val ≠ tEMPTY →
    s1.tst n.val ≠ tRESETTING →
    Runs (.tenCmdQuarantine a n) s fun t => t.tst n.val = tRESETTING ∧ t.fgi TEN_STATE_QTRIG n.val = 4 ∧
      State.pagesBut [pgTEN + n.val] s1 t ∧ t.tens = modAt s1.tens n.val (fun x => { x with cause := 4, toQuar := true }) ∧
      t.outs = doneOuts) ∧
  (∀ (s s1 : State) (a : Access) (p o : Nat) (w : Who) (g : Reg),
    accepted s.begin_ a (regAddr (pgTEN + (0 : Fin 16).val) TEN_CMD.off) 2 = some (s1, w, p, o, g) → s1.tst 0 ≠ tEMPTY →
    Runs (.tenCmdQuarantine a 0) s fun t => t.outs = [.res ⟨0x5112, 0⟩ []] ∧ t.tst 0 = s1.tst 0) ∧
  (∀ (s s1 : State) (a : Access) (n : Fin 16) (p o : Nat) (w : Who) (g : Reg),
    accepted s.begin_ a (regAddr (pgTEN + n.val) TEN_CMD.off) 3 = some (s1, w, p, o, g) → s1.tst n.val = tQUAR →
    Runs (.tenCmdRelease a n) s fun t => t.tst n.val = tENROLLED ∧ State.pagesBut [pgTEN + n.val] s1 t ∧ t.outs = doneOuts) ∧
  (∀ (s s1 : State) (a : Access) (n : Fin 16) (p o : Nat) (w : Who) (g : Reg),
    accepted s.begin_ a (regAddr (pgTEN + n.val) TEN_CMD.off) 3 = some (s1, w, p, o, g) → s1.tst n.val ≠ tEMPTY → s1.tst n.val ≠ tQUAR →
    Runs (.tenCmdRelease a n) s fun t => t.outs = [.res ⟨0x2111, n.val⟩ []] ∧ t.tst n.val = s1.tst n.val) ∧
  (∀ (s s1 : State) (a : Access) (n : Fin 16) (p o : Nat) (w : Who) (g : Reg),
    accepted s.begin_ a (regAddr (pgTEN + n.val) TEN_RUN.off) 1 = some (s1, w, p, o, g) →
    Runs (.tenRunWrite a n true) s fun t => t.fgi TEN_RUN_RUN_ACT n.val = b2n (s1.tst n.val != tQUAR) ∧ t.tst n.val = s1.tst n.val ∧
      State.pagesBut [pgTEN + n.val] s1 t ∧ t.sessions = s1.sessions ∧ t.outs = doneOuts) ∧
  (∀ (s s1 : State) (a : Access) (n : Fin 16) (p o : Nat) (w : Who) (g : Reg),
    accepted s.begin_ a (regAddr (pgTEN + n.val) TEN_RUN.off) 0 = some (s1, w, p, o, g) → n.val ≠ 0 → s1.tst n.val = tACTIVE →
    Runs (.tenRunWrite a n false) s fun t => t.tst n.val = tRESETTING ∧ t.fgi TEN_RUN_RUN_ACT n.val = 0 ∧
      State.pagesBut [pgTEN + n.val] s1 t ∧ t.sessions = modAt s1.sessions n.val (fun x => { x with cause := 6, toQuar := false }) ∧
      t.outs = doneOuts) ∧
  (∀ (s : State) (n : Fin 16), s.tst n.val = tACTIVE → s.fab.access = true →
    Runs (.sessionLeaseExpire n) s fun t => t.tst n.val = tRESETTING ∧ State.pagesBut [pgTEN + n.val] s t ∧
      t.sessions = modAt s.sessions n.val (fun x => { x with cause := 5, toQuar := false }) ∧
      t.now = max s.now (nth (s.tens.map (·.leaseEnd)) n.val 0)) ∧
  (∀ s : State, s.fab.access = true →
    Runs .quarantineInterval s fun t => t.fab.quarAt = max s.now (s.fab.quarAt + Config.sec) ∧ t.now = t.fab.quarAt ∧
      (∀ x ∈ t.tens, x.permf = 0) ∧
      ∀ n : Fin 16, n.val ≠ 0 → s.tst n.val = tACTIVE → s.fgi TEN_QCFG_PERMF n.val ≠ 0 →
        s.fgi TEN_QCFG_PERMF n.val < nth (s.tens.map (·.permf)) n.val 0 → t.tst n.val = tRESETTING ∧ t.fgi TEN_STATE_QTRIG n.val = 1) ∧
  (∀ (s : State) (rx : StopRx),
    Runs (.tenantResetInstant rx) s fun t => ∀ n : Fin 16,
      (s.tst n.val = tRESETTING → t.tst n.val = (if nth (s.tens.map (·.toQuar)) n.val false = true then tQUAR else tENROLLED) ∧
        t.slotKeys n.val = SlotKeys.empty) ∧
      (s.tst n.val ≠ tRESETTING → t.tst n.val = s.tst n.val ∧ t.slotKeys n.val = s.slotKeys n.val))

/-- A good frame that goes UP leaves on the partner port with its hop count one higher; a frame of no Basius type that PTP general
messages have leaves unchanged. A HEARTBEAT taken in marks its port and, when asked, is answered by a REPORT on that port. An ENUM under a
chain key sets the position and, unlocked and without an identity or forced, the identity. A FEED record for this tile is taken from the
active path only: with the feed not served or no room for it (R93) it is dropped. A MGMT frame for this tile with space is not
acknowledged without register access; one of a RESETTING slot is answered, every operation by 0x6112; an ACTIVE slot's frame without
operations that is next in the window is acknowledged. (The order of the tests on a MGMT frame is the model's reading, log entry 20.) -/
def Obligations.FramesReceived : Prop :=
  (∀ (s : State) (f : Frame), 2 ≤ f.port.val → s.passes f.port.val = true → s.passes (partner f.port.val) = true → f.fcsOk = true →
    f.etype = s.fg CH_ETYPE_ETYPE → f.etype ≠ 0 → f.len ≤ s.fg CH_MAXFR_BYTES → f.hcrcOk = true → headerBad f = false → f.hop < 64 →
    rangeOk f = true →
    Runs (.upForward f) s fun t => t.outs = [.fwd f.port.val (partner f.port.val) f.typ (f.hop + 1) false] ∧
      t.now = max s.now f.at_ ∧ State.pagesBut [pgLNK + f.port.val, pgLNK + partner f.port.val, pgFAULT] s t) ∧
  (∀ (s : State) (f : Frame), f.etype = 0x88F7 → s.passes f.port.val = true → s.passes (partner f.port.val) = true → f.fcsOk = true →
    portUsed s.role (partner f.port.val) = true →
    Runs (.foreignFrame f) s fun t => t.outs = [.fwd f.port.val (partner f.port.val) f.typ f.hop false] ∧
      State.pagesBut [pgLNK + f.port.val, pgLNK + partner f.port.val] s t) ∧
  (∀ (s s1 : State) (f : Frame), s.begin_.rxDown f 7 = (s1, true) → f.port.val < s.lnk.ports.length →
    Runs (.heartbeat f false) s fun t => t.hbOk f.port.val = true ∧ (t.port f.port.val).hbAt = s1.now ∧ t.now = s1.now) ∧
  (∀ (s s1 : State) (f : Frame) (key : Nat), s.begin_.rxDown f 6 = (s1, true) → f.port.val = 0 → key ≠ 0 →
    ((s1.chainKey 0 2).cur.any (fun x => x.2 == key) = true) →
    Runs (.enum f key) s fun t => t.fg CH_POS_VALID = 1 ∧ t.fg CH_POS_POS = f.hop % 2 ^ 6 ∧
      (s1.fg CH_TILE_LOCK = 0 → (s1.fg CH_TILE_VALID = 0 ∨ f.force = true) → f.first + f.hop ≤ 0xFFF →
        t.fg CH_TILE_ID = f.first + f.hop ∧ t.fg CH_TILE_VALID = 1)) ∧
  (∀ (s s1 : State) (f : Frame) (key : Nat), s.begin_.rxDown f 6 = (s1, true) → f.port.val = 0 → key = 0 →
    Runs (.enum f key) s fun t => t.fg CH_TILE_ID = s1.fg CH_TILE_ID ∧ t.fg CH_TILE_VALID = s1.fg CH_TILE_VALID ∧
      t.fg CH_POS_VALID = s1.fg CH_POS_VALID) ∧
  (∀ (s s1 : State) (f : Frame) (recs : List FeedRec) (own : Nat) (r : FeedRec), s.begin_.rxHead f = (s1, true) → f.typ = 1 →
    f.fcsOk = true → s1.ownId = some own → State.recsOver f recs = false → State.ownRec own (recs.take f.nrec) = some r → f.port.val = s1.pathAct →
    1 ≤ r.slen → r.slen ≤ 8960 → (s1.feedServed f.tenant.val = false ∨ State.ingressTakes f.ing (State.recBytes r) = false) →
    Runs (.feedFrame f recs) s fun t => t.lnk.lastRec = s1.now ∧ t.feeds = s1.feeds ∧ t.tens = s1.tens ∧
      State.pagesBut [pgLNK + f.port.val] s1 t) ∧
  (∀ (s s1 : State) (f : Frame) (key : Nat) (ops : List MOp) (overrun : Bool) (env : Env), s.begin_.rxDown f 2 = (s1, true) →
    s1.ownId = some f.first → mgmtRoom f = true → s1.fab.access = false →
    Runs (.mgmtFrame f key ops overrun env) s fun t => t = s1) ∧
  (∀ (s s1 : State) (f : Frame) (key : Nat) (ops : List MOp) (overrun : Bool) (env : Env), s.begin_.rxDown f 2 = (s1, true) →
    s1.ownId = some f.first → mgmtRoom f = true → s1.fab.access = true → bit (s1.fg DBG_STAT_HALTED) 0 = false → key ≠ 0 →
    (s1.slotKeys f.tenant.val).mkey = key → s1.tst f.tenant.val = tRESETTING → s1.passes f.port.val = true →
    Runs (.mgmtFrame f key ops overrun env) s fun t => t.outs = s1.outs ++
      [.ack (s1.upHdr 3 f.tenant.val false f.seq (4 + 4 * ops.length + 16)) f.port.val f.tenant.val f.seq false 0x0200
        (ops.map fun _ => ⟨⟨0x6112, f.tenant.val⟩, []⟩)] ∧
      t.tens = s1.tens ∧ State.pagesBut [pgLNK + f.port.val] s1 t) ∧
  (∀ (s s1 : State) (f : Frame) (key : Nat) (env : Env), s.begin_.rxDown f 2 = (s1, true) →
    s1.ownId = some f.first → mgmtRoom f = true → s1.fab.access = true → bit (s1.fg DBG_STAT_HALTED) 0 = false → key ≠ 0 →
    (s1.slotKeys f.tenant.val).mkey = key → s1.tst f.tenant.val = tACTIVE → s1.passes f.port.val = true →
    f.seq < 2 ^ 16 → f.seq = (s1.fgi TEN_SEQ_HIGH f.tenant.val + 1) % 2 ^ 16 →
    Runs (.mgmtFrame f key [] false env) s fun t =>
      t.outs = s1.outs ++ [.ack (s1.upHdr 3 f.tenant.val false f.seq 20) f.port.val f.tenant.val f.seq false 0x0200 []] ∧
      t.fgi TEN_SEQ_HIGH f.tenant.val = f.seq ∧
      State.pagesBut [pgLNK + f.port.val, pgTEN + f.tenant.val] s1 t)

/-- On an ACTIVE port. A lock at the speed the port takes brings it up at that speed. A loss of lock takes it down. Without lock an auto
port seeks the other speed after 200 ms, and a 25G-only port raises fault 4 after 1 s. A high bit error rate is shown and raises fault 1.
A heartbeat timeout on a port marks its heartbeat lost. After REVERT seconds the path reverts to the requested port. -/
def Obligations.PortCommands : Prop :=
  (∀ (s : State) (p : Fin 4) (g25 : Bool), s.active (pgLNK + p.val) = true → s.locked p.val = false →
    s.fgi LNK_CFG_SPEED_REQ p.val = (if g25 = true then 1 else 2) → s.fgi LNK_CFG_LPBK p.val = 0 →
    Runs (.linkLock p g25) s fun t => t.fgi LNK_STAT_UP p.val = 1 ∧ t.locked p.val = true ∧
      t.fgi LNK_STAT_SPEED_ACT p.val = (if g25 = true then 1 else 2) ∧ t.fgi LNK_STAT_ALIGN p.val = b2n g25 ∧
      State.pagesBut [pgLNK + p.val, pgCHAIN, pgLNK, pgLNK + 1, pgFAULT] s t ∧ t.now = s.now ∧ t.outs = []) ∧
  (∀ (s : State) (p : Fin 4), s.active (pgLNK + p.val) = true → s.locked p.val = true →
    Runs (.lossOfLock p false) s fun t => t.fgi LNK_STAT_UP p.val = 0 ∧ t.locked p.val = false ∧ t.fgi LNK_STAT_SPEED_ACT p.val = 0 ∧
      t.hasFault (pgLNK + p.val) 0 = true ∧ t.hbOk p.val = s.hbOk p.val) ∧
  (∀ (s : State) (p : Fin 4), s.active (pgLNK + p.val) = true → s.locked p.val = false → s.fgi LNK_CFG_SPEED_REQ p.val = 0 →
    Runs (.speedSeekTimeout p) s fun t => t.now = max s.now ((s.port p.val).noLockAt + 200 * Config.ms) ∧ t.regs = s.regs ∧
      t.lnk = { s.lnk with ports := modAt s.lnk.ports p.val (fun x => { x with seek25 := !x.seek25, noLockAt := t.now }) }) ∧
  (∀ (s : State) (p : Fin 4), s.active (pgLNK + p.val) = true → s.locked p.val = false → s.fgi LNK_CFG_SPEED_REQ p.val = 1 →
    Runs (.nospeed p) s fun t => t.now = max s.now ((s.port p.val).noLockAt + Config.sec) ∧ t.hasFault (pgLNK + p.val) 4 = true ∧
      State.pagesBut [pgLNK + p.val, pgFAULT] s t) ∧
  (∀ (s : State) (p : Fin 4), s.active (pgLNK + p.val) = true →
    Runs (.highBitErrorRate p) s fun t => t.fgi LNK_STAT_HIBER p.val = 1 ∧ t.hasFault (pgLNK + p.val) 1 = true ∧
      State.pagesBut [pgLNK + p.val] s t ∧ t.now = s.now) ∧
  (∀ (s : State) (p : Fin 4), s.hbOk p.val = true →
    Runs (.heartbeatTimeout p) s fun t => t.hbOk p.val = false ∧ t.fgi LNK_STAT_HB_OK p.val = 0 ∧ t.hasFault (pgLNK + p.val) 3 = true) ∧
  (∀ s : State, s.fg CH_PATH_AUTOSW = 1 → s.fg CH_PATH_REVERT ≠ 0 → s.pathAct ≠ s.fg CH_PATH_PATH_REQ →
    s.hbOk (s.fg CH_PATH_PATH_REQ) = true →
    Runs .revert s fun t => t.pathAct = s.fg CH_PATH_PATH_REQ ∧
      t.now = max s.now (max ((s.port (s.fg CH_PATH_PATH_REQ)).hbSince + s.fg CH_PATH_REVERT * Config.sec)
        (s.lnk.lastRec + 50 * Config.us)))

/-- As slave outside SLEEP, with the enabled tenant admitted. A READ of one word of SYS_SCRATCH answers the word the reader's copy holds.
A WRITE of one word of it stores the word, a WRITEM the masked bits only. NOP ends with code 0 and changes no page but SPIA's and the
tenant's; STATUS answers the last result and the counts and changes nothing but the count of frames. A PIECE that nothing refuses is
answered with code 0. With SPIA disabled a frame is refused with 0x5C01. A frame for another device of the chain is forwarded and changes
nothing. As master, an idle poll sends STATUS and takes no command. (Frames while disabled, polls and STATUS: the model's reading, log
entry 22.) -/
def Obligations.SpiaFrames : Prop :=
  (∀ (s s1 : State) (w : Who) (inc : Bool), s.fg SPIA_CFG_ROLE = 0 → s.fg SPIA_CFG_CHAIN = 0 → s.mode ≠ .sleep → s.fg SYS_SPIA_EN = 1 → s.fg SPIA_CFG_WAIT = 0 →
    grantAccess s.begin_ s.spiaBy (regAddr pgSYS SYS_SCRATCH.off) = .ok (s1, w) → mayReadR s1.regs w pgSYS = true →
    Runs (.read inc 1 SYS_SCRATCH.off none) s fun t => t.fg SPIA_LAST_CODE = 0 ∧
      t.outs = [.serial s.spiaWire (0xA5 :: wordOut (rget s1.regs w.bank pgSYS SYS_SCRATCH.off)),
        .res ⟨0, 0⟩ [BitVec.ofNat 32 (rget s1.regs w.bank pgSYS SYS_SCRATCH.off)]] ∧
      State.pagesBut [pgSPIA] s1 t) ∧
  (∀ (s s1 : State) (w : Who) (inc : Bool) (v : Word) (env : Env) (p o : Nat) (g : Reg), s.fg SPIA_CFG_ROLE = 0 → s.fg SPIA_CFG_CHAIN = 0 →
    s.mode ≠ .sleep → s.fg SYS_SPIA_EN = 1 → accepted s.begin_ s.spiaBy (regAddr pgSYS SYS_SCRATCH.off) v.toNat = some (s1, w, p, o, g) →
    Runs (.write inc SYS_SCRATCH.off [v] env) s fun t => rget t.regs w.bank pgSYS SYS_SCRATCH.off = v.toNat ∧
      t.fg SPIA_LAST_CODE = 0 ∧ t.outs = doneOuts ∧ State.pagesBut [pgSYS, pgSPIA] s1 t) ∧
  (∀ (s s1 : State) (w : Who) (m v : Word) (env : Env) (p o : Nat) (g : Reg), s.fg SPIA_CFG_ROLE = 0 → s.fg SPIA_CFG_CHAIN = 0 →
    s.mode ≠ .sleep → s.fg SYS_SPIA_EN = 1 → accepted s.begin_ s.spiaBy (regAddr pgSYS SYS_SCRATCH.off) v.toNat = some (s1, w, p, o, g) →
    Runs (.writem SYS_SCRATCH.off m v env) s fun t =>
      BitVec.ofNat 32 (rget t.regs w.bank pgSYS SYS_SCRATCH.off) =
        (BitVec.ofNat 32 (rget s1.regs w.bank pgSYS SYS_SCRATCH.off) &&& ~~~m) ||| (v &&& m) ∧
      t.fg SPIA_LAST_CODE = 0 ∧ t.outs = doneOuts ∧ State.pagesBut [pgSYS, pgSPIA] s1 t) ∧
  (∀ (s s1 : State) (w : Who), s.fg SPIA_CFG_ROLE = 0 → s.fg SPIA_CFG_CHAIN = 0 → s.mode ≠ .sleep → s.fg SYS_SPIA_EN = 1 →
    grantAccess s.begin_ s.spiaBy (regAddr pgSYS 0) = .ok (s1, w) →
    Runs .nop s fun t => t.fg SPIA_LAST_CODE = 0 ∧ t.outs = doneOuts ∧ State.pagesBut [pgSPIA] s1 t ∧ t.tens = s1.tens) ∧
  (∀ s : State, s.fg SPIA_CFG_ROLE = 0 → s.fg SPIA_CFG_CHAIN = 0 → s.mode ≠ .sleep → s.fg SYS_SPIA_EN = 1 →
    Runs .status s fun t => State.regsBut [(pgSPIA, SPIA_CNT_FRAMES.off)] s t ∧ t.ser = { s.ser with frames := s.ser.frames + 1 } ∧
      t.tens = s.tens ∧
      t.outs = [.serial s.spiaWire (s.statusWords.flatMap wordOut), .res ⟨0, 0⟩ (s.statusWords.map (BitVec.ofNat 32))]) ∧
  (∀ (s s1 : State) (w : Who) (x : Piece), s.fg SPIA_CFG_ROLE = 0 → s.fg SPIA_CFG_CHAIN = 0 → s.mode ≠ .sleep → s.fg SYS_SPIA_EN = 1 → x.len ≤ 4096 →
    grantAccess s.begin_ s.spiaBy (regAddr pgUPD 0) = .ok (s1, w) → s1.pieceFail w true (some (32 + x.len)) x = none →
    s1.pieceGot x.index = false → (s1.upd.queue.any fun q => q.index == x.index) = false →
    Runs (.piece x) s fun t => t.upd = { s1.upd with queue := s1.upd.queue ++ [x], prog := true } ∧ t.fg SPIA_LAST_CODE = 0 ∧ t.outs = doneOuts ∧
      State.pagesBut [pgUPD, pgSPIA] s1 t) ∧
  (∀ (s : State) (op : MOp) (short lost : Option Nat) (env : Env) (dev : Option Nat), s.fg SPIA_CFG_ROLE = 0 → s.mode ≠ .sleep →
    s.fg SPIA_CFG_CHAIN = 0 → s.spiaOff = true →
    Runs (.spiaFrame dev op short lost env) s fun t => t.outs = [.res ⟨0x5C01, s.fg SYS_SPIA_TEN⟩ []] ∧
      (op ≠ .status → t.fg SPIA_LAST_CODE = 0x5C01) ∧ State.pagesBut [pgSPIA] s t ∧ t.tens = s.tens) ∧
  (∀ (s : State) (n : Nat) (op : MOp) (lost : Option Nat) (env : Env) (dev : Option Nat), s.fg SPIA_CFG_ROLE = 0 → s.mode ≠ .sleep →
    s.fg SPIA_CFG_CHAIN = 0 → s.fg SYS_SPIA_EN = 1 →
    Runs (.spiaFrame dev op (some n) lost env) s fun t => t.outs = [.res ⟨0x1C10, n⟩ []] ∧ State.pagesBut [pgSPIA] s t) ∧
  (∀ (s s1 : State) (w : Who) (v : Word) (lost : Option Nat) (env : Env) (dev : Option Nat) (p o : Nat) (g : Reg),
    s.fg SPIA_CFG_ROLE = 0 → s.mode ≠ .sleep → s.fg SPIA_CFG_CHAIN = 0 → s.fg SYS_SPIA_EN = 1 →
    accepted s.begin_ s.spiaBy (regAddr pgSYS SYS_SCRATCH.off) v.toNat = some (s1, w, p, o, g) →
    Runs (.spiaFrame dev (.write true 1 SYS_SCRATCH.off [v]) none lost env) s fun t =>
      rget t.regs w.bank pgSYS SYS_SCRATCH.off = v.toNat ∧ t.outs = doneOuts ∧ State.pagesBut [pgSYS, pgSPIA] s1 t) ∧
  (∀ (s : State) (d : Nat) (op : MOp) (short lost : Option Nat) (env : Env), s.fg SPIA_CFG_CHAIN = 1 → s.spiaMaster = false →
    s.mode ≠ .sleep → d ≠ 0xFF → d ≠ s.fg SPIA_CFG_POS →
    Runs (.spiaFrame (some d) op short lost env) s fun t => t = s.begin_.emit (.chain s.spiaWire d op none)) ∧
  (∀ (s : State) (env : Env), s.fg SPIA_CFG_ROLE = 1 → s.loader = false → s.mode ≠ .sleep →
    Runs (.spiaPoll (.nop 0 0) env) s fun t => t.now = max s.now (s.ser.pollAt + s.fg SPIA_MCFG_POLL * Config.us) ∧
      t.regs = s.regs ∧ t.ser = { s.ser with toSend := [], pollAt := t.now } ∧
      t.outs = [.serial s.spiaWire ((s.statusWords ++ s.ser.toSend.map BitVec.toNat).flatMap wordOut)])

/-- A one-step Sync of the master on the active path drives the servo: OFFSET is ingress less origin, corrections, link delay and
asymmetry, and the servo leaves states 1 and 5 for 2; a two-step one waits for its Follow_Up, which then does so. With the servo on, the
peer-delay interval sends a request on L0 and on L1; a Pdelay_Req of the domain in use, on a port that passes frames, is answered there,
with a turnaround the spec leaves open (log entry 2), and one of another domain is not used (log entry 67); a Pdelay_Resp of the number
sent completes the mean delay. The first Announce of the path names the master. Delay messages are dropped and counted. A second without
Sync takes the servo from 2 to 1 and from 3 to 4; the end of the PTP holdover takes it from 4 to 5 and ends wall time. -/
def Obligations.PtpMessages : Prop :=
  (∀ (s : State) (m : PtpMsg), s.passes m.port.val = true → m.twoStep = false → -7 ≤ m.logInt → m.logInt ≤ 0 → s.ptpMine m = true →
    Runs (.sync m) s fun t => t.now = max s.now m.at_ ∧ t.fg PTP_STAT_TWOSTEP = 0 ∧ t.fg PTP_STAT_PORT = m.port.val % 2 ∧
      t.fg PTP_OFFSET_GRAINS = twos 32 (s.ptpOffset m.port.val ((m.at_ : Int) + s.tim.wallOff) m.origin m.correction) ∧
      t.tim.lastSync = t.now ∧ ((s.servo = 1 ∨ s.servo = 5) → t.servo = 2)) ∧
  (∀ (s : State) (m : PtpMsg), s.passes m.port.val = true → m.twoStep = true → -7 ≤ m.logInt → m.logInt ≤ 0 → s.ptpMine m = true →
    Runs (.sync m) s fun t => t.now = max s.now m.at_ ∧ t.fg PTP_STAT_TWOSTEP = 1 ∧ t.tim = { s.tim with twoStep := some m }) ∧
  (∀ (s : State) (m : PtpMsg), s.passes m.port.val = true → m.domain = s.fg PTP_CFG_DOMAIN → 0 < m.logInt →
    Runs (.sync m) s fun t => t.tim = s.tim ∧ t.servo = s.servo ∧ State.pagesBut [pgPTP, pgLNK + m.port.val] s t ∧ t.outs = []) ∧
  (∀ (s : State) (m y : PtpMsg), s.passes m.port.val = true → s.tim.twoStep = some y → s.ptpMine m = true → y.port = m.port → y.seq = m.seq →
    Runs (.followUp m) s fun t => t.tim.twoStep = none ∧ t.tim.lastSync = t.now ∧ t.fg PTP_OFFSET_GRAINS =
      twos 32 (s.ptpOffset m.port.val ((y.at_ : Int) + s.tim.wallOff) m.origin (y.correction + m.correction))) ∧
  (∀ s : State, s.servo ≠ 0 → s.passes 0 = true → s.passes 1 = true →
    Runs .pdelayInterval s fun t => t.outs = [.ptp 2 0 0, .ptp 2 1 0] ∧ t.tim.pdAt = t.now ∧ t.tim.pdSeq = s.tim.pdSeq + 1 ∧
      State.pagesBut [pgPTP, pgLNK, pgLNK + 1] s t ∧
      t.now = max s.now (s.tim.pdAt + Config.sec / 8 * 2 ^ (sgn 4 (s.fg PTP_CFG_PD_LOG) + 3).toNat)) ∧
  (∀ (s : State) (m : PtpMsg), s.passes m.port.val = true → m.domain ≠ s.fg PTP_CFG_DOMAIN →
    Runs (.pdelayReq m) s fun t => t.tim = s.tim ∧ t.outs = [] ∧ State.pagesBut [pgLNK + m.port.val] s t) ∧
  (∀ (s : State) (m : PtpMsg), s.passes m.port.val = true → m.domain = s.fg PTP_CFG_DOMAIN →
    Runs (.pdelayReq m) s fun t => (∃ x : Nat, x < 2 ^ 32 ∧ t.outs = [.ptp 3 m.port.val (m.correction + x)]) ∧
      State.pagesBut [pgLNK + m.port.val] s t) ∧
  (∀ (s : State) (m : PtpMsg) (t1 t2 t3 : Nat), s.passes m.port.val = true → m.port.val < 2 → s.servo ≠ 0 →
    nth s.tim.pdSent m.port.val none = some t1 → m.seq % 65536 = s.tim.pdSeq % 65536 → m.domain = s.fg PTP_CFG_DOMAIN →
    (((m.at_ : Int) - t1) - ((t3 : Int) - t2) - m.correction) % 2 = 0 →
    Runs (.pdelayResp m t2 t3) s fun t =>
      (if m.port.val = 0 then t.fg PTP_PD0_GRAINS else t.fg PTP_PD1_GRAINS) =
        twos 32 ((((m.at_ : Int) - t1) - ((t3 : Int) - t2) - m.correction) / 2) ∧
      nth t.tim.pdSent m.port.val none = none ∧ State.pagesBut [pgPTP, pgLNK + m.port.val] s t) ∧
  (∀ (s : State) (m : PtpMsg), s.passes m.port.val = true → s.servo ≠ 0 → m.port.val = s.pathAct → m.domain = s.fg PTP_CFG_DOMAIN →
    s.tim.gm = none → Runs (.announce m) s fun t => t.tim = { s.tim with gm := some m.gmid }) ∧
  (∀ (s : State) (m : PtpMsg), s.passes m.port.val = true →
    Runs (.delayReq m) s fun t => t.fg PTP_RXCNT_DROP = min (s.fg PTP_RXCNT_DROP + 1) (2 ^ 16 - 1) ∧ t.outs = [] ∧
      State.pagesBut [pgPTP, pgLNK + m.port.val] s t) ∧
  (∀ s : State, s.servo = 2 →
    Runs .syncTimeout s fun t => t.servo = 1 ∧ t.now = max s.now (s.tim.lastSync + Config.sec) ∧ t.tim = s.tim ∧
      State.pagesBut [pgPTP] s t) ∧
  (∀ s : State, s.servo = 3 →
    Runs .syncTimeout s fun t => t.servo = 4 ∧ t.now = max s.now (s.tim.lastSync + Config.sec) ∧
      t.tim.ptpHoldEnd = t.now + s.holdLen ∧ t.hasFault pgTIME 5 = true) ∧
  (∀ s : State, s.servo = 4 →
    Runs .ptpHoldoverExpire s fun t => t.servo = 5 ∧ t.wtValid = false ∧ t.fg TIME_STAT_WT_VALID = 0 ∧
      t.now = max s.now s.tim.ptpHoldEnd ∧ State.pagesBut [pgPTP, pgTIME] s t)

/-- A BEAT for this tile under a key that fails is counted and holds nothing; one under the key of a timing slot, new, with valid wall
time, transmitted near now, for a time 100 µs to 1 s ahead, in generator state 1 with a free place, is held. The end of the holdover goes
to free run, or to DARK where FALLBACK says so. The loss of the PLL stops the generator and enters DARK; its lock starts a generator that
is off on an ACTIVE page. PPS pulses at the next whole second of valid wall time. -/
def Obligations.TimebaseCommands : Prop :=
  (∀ (s s1 : State) (f : Frame) (b : Beat) (own : Nat), s.begin_.rxDown f 5 = (s1, true) → s1.ownId = some own → f.first ≤ own →
    own ≤ f.last → s1.keyOk f.tenant.val 1 f.dcn b.key = false →
    Runs (.beat f b) s fun t => t.tim = s1.tim ∧ State.pagesBut [pgLNK + f.port.val, pgTEN + f.tenant.val] s1 t) ∧
  (∀ (s s1 : State) (f : Frame) (b : Beat) (own : Nat), s.begin_.rxDown f 5 = (s1, true) → s1.ownId = some own → f.first ≤ own →
    own ≤ f.last → s1.keyOk f.tenant.val 1 f.dcn b.key = true → roleR s1.regs f.tenant.val = roleTiming →
    nth s1.tim.lastF f.tenant.val 0 ≤ f.fctr → s1.wtValid = true →
    (((s1.wall : Nat) : Int) - (State.beatTime b.tsSec b.tsNs : Nat)).natAbs ≤ s1.fg TIME_LOCK_SUSP * Config.us →
    (100 * Config.us : Nat) ≤ ((State.beatTime b.tSec b.tNs : Nat) : Int) - s1.wall →
    ((State.beatTime b.tSec b.tNs : Nat) : Int) - s1.wall ≤ (Config.sec : Nat) → s1.gen = 1 → s1.tim.held = [] →
    Runs (.beat f b) s fun t => t.tim.held = [⟨f.dcn, State.beatTime b.tSec b.tNs, b.resync, true⟩] ∧
      t.fg TIME_BDCN_DCN = f.dcn % 2 ^ 32 ∧ State.pagesBut [pgTIME] s1 t) ∧
  (∀ (s : State) (e : Nat), s.tim.holdEnd = some e → s.gen = 3 → s.fg TIME_LOCK_FALLBACK = 0 →
    Runs .holdoverExpire s fun t => t.gen = 4 ∧ t.tim = { s.tim with holdEnd := none } ∧ t.now = max s.now e ∧
      t.hasFault pgTIME 2 = true ∧ t.mode = s.mode) ∧
  (∀ (s : State) (e : Nat), s.tim.holdEnd = some e → s.gen = 3 → s.fg TIME_LOCK_FALLBACK ≠ 0 → s.masked pgTIME 2 = false →
    (s.mode = .show ∨ s.mode = .service) →
    Runs .holdoverExpire s fun t => t.mode = .dark ∧ t.tim.running = false ∧ t.scan.driven = false) ∧
  (∀ s : State, s.fg TIME_STAT_PLL_LOCK = 1 → (s.mode = .show ∨ s.mode = .service) →
    Runs .pllLoss s fun t => t.mode = .dark ∧ t.gen = 0 ∧ t.tim.running = false ∧ t.fg TIME_STAT_PLL_LOCK = 0 ∧
      t.fg EDGE_STAT_CLK_RUN = 0 ∧ t.hasFault pgTIME 0 = true ∧ t.scan.driven = false) ∧
  (∀ s : State, s.gen = 0 → s.active pgTIME = true →
    Runs .pllLock s fun t => t.fg TIME_STAT_PLL_LOCK = 1 ∧ t.fg EDGE_STAT_CLK_RUN = 1 ∧ t.gen = (if s.freeRun = true then 4 else 1) ∧
      State.pagesBut [pgTIME, pgEDGE] s t ∧ t.now = s.now) ∧
  (∀ s : State, s.wtValid = true → s.fg TIME_PPS_EN = 1 → s.gen ≠ 0 → s.gen ≠ 3 →
    Runs .pps s fun t => t.now = max s.now (s.grainOf ((s.wall / Config.sec + 1) * Config.sec)).toNat ∧ t.regs = s.regs ∧
      t.outs = [.pulse 1 t.now (s.fg TIME_PPS_WIDTH * Config.us)])

/-- With nothing armed. Without cycles, outside SLEEP, SPAN_BOUNDARY comes at the next multiple of 32 grains; within a cycle whose next
start comes later, at the end of the span; in SLEEP it does nothing. CYCLE_START with a next start that no span boundary precedes comes at
that start and makes its DCN the current one; without a next start it does nothing. (The order of the two boundaries is the model's
reading, log entry 4.) -/
def Obligations.SpansAndCycles : Prop :=
  (∀ (s : State) (e : SpanEnv), s.mode ≠ .sleep → s.tim.running = false → s.fab.starting = [] → s.fab.stopping = [] →
    s.fab.resetting = [] → s.fab.fks = [] → s.pow.req = none → s.pow.sleeping = false →
    Runs (.spanBoundary e) s fun t => t.now = (s.now / 32 + 1) * 32 ∧ t.mode = s.mode) ∧
  (∀ (s : State) (e : SpanEnv) (c : CycNext), s.mode ≠ .sleep → s.tim.running = true → s.nextCycle = some c →
    s.scan.startAt + s.spanLen < c.g → s.fab.starting = [] → s.fab.stopping = [] → s.fab.resetting = [] → s.fab.fks = [] →
    Runs (.spanBoundary e) s fun t => t.now = max s.now (s.scan.startAt + s.spanLen) ∧ t.dcn = s.dcn) ∧
  (∀ (s : State) (e : SpanEnv), s.mode = .sleep → Runs (.spanBoundary e) s fun t => t = s.begin_) ∧
  (∀ (s : State) (e : SpanEnv) (err : List (Nat × Nat × Nat)) (c : CycNext), s.nextCycle = some c → s.tim.running = false →
    s.fab.starting = [] → s.fab.stopping = [] → s.fab.resetting = [] → s.fab.fks = [] → s.pow.req = none → s.pow.sleeping = false →
    Runs (.cycleStart e err) s fun t => t.now = max s.now c.g ∧ t.dcn = c.dcn % 2 ^ 32) ∧
  (∀ (s : State) (e : SpanEnv) (err : List (Nat × Nat × Nat)), s.nextCycle = none → Runs (.cycleStart e err) s fun t => t = s.begin_)

/-- A rendering engine whose half serves ends its frame: one frame more, the program counter and the promised DCN shown, the picture
newest. The released job that comes first claims its units and starts when the array serves and enough are free. A job that ends is taken
out of flight; one marked as dropped leaves no plan, one in time for a lit window leaves one more. A finished blend waits for the cycle
boundary within a cycle; a deferred one starts again when both halves serve and the sets are loaded. A refresh of the field comes at its
instant; with no sensor enabled every zone reads 25 °C. (Which units a job claims is the model's choice, log entry 63; a frame drawn in
one step its reading, log entry 60.) -/
def Obligations.PicturePipeline : Prop :=
  (∀ (s : State) (e : Fin 16), (s.patt e.val).rendering = true → s.halfServes (decide (8 ≤ e.val)) = true → (s.patt e.val).overrun = false →
    Runs (.patternFrameDone e []) s fun t => (t.patt e.val).rendering = false ∧ (t.patt e.val).k = (s.patt e.val).k + 1 ∧
      (∃ img, (t.patt e.val).newest = some ((s.patt e.val).promised, img)) ∧
      t.fgi PATT_NEWDCN_DCN e.val = (s.patt e.val).promised % 2 ^ 32 ∧ State.pagesBut [pgPATT + e.val] s t) ∧
  (∀ (s : State) (r : Rel), s.nextRel = some r → s.winOn r.win = true → s.active pgWIRE = true → s.arrayServes = true →
    s.blendFirst = false → s.planUnits ≤ s.unitsFree.length →
    Runs .jobStart s fun t => t.regs = s.regs ∧ t.now = s.now ∧ t.outs = [] ∧ t.pix = { s.pix with
      released := s.pix.released.filter (· != r), serial := s.pix.serial + 1,
      jobs := s.pix.jobs ++ [⟨r.win, s.jobInput r, s.unitsFree.take s.planUnits, s.pix.serial % 64, s.now, s.auditOld r, r.audit⟩] }) ∧
  (∀ (s : State) (k : Nat) (r : JobResult) (j : Job), s.arrayServes = true → s.pix.jobs[k]? = some j → j.audit = none → r.dbe = [] →
    (s.spotCheck j.inp.wire.lamps j.serial (s.sliceEngines j.inp.wire.lamps r.engines []) r.spots).1 = 0 → j.drop = true →
    Runs (.jobComplete k r) s fun t => t.pix.jobs = s.pix.jobs.eraseIdx k ∧ t.pix.plans = s.pix.plans ∧ t.pix.dir = s.pix.dir ∧
      State.pagesBut [pgPIX] s t) ∧
  (∀ (s : State) (k : Nat) (r : JobResult) (j : Job), s.arrayServes = true → s.pix.jobs[k]? = some j → j.audit = none → r.dbe = [] →
    (s.spotCheck j.inp.wire.lamps j.serial (s.sliceEngines j.inp.wire.lamps r.engines []) r.spots).1 = 0 → j.drop = false → s.missedNow j.win j.inp = false →
    Runs (.jobComplete k r) s fun t => t.pix.jobs = s.pix.jobs.eraseIdx k ∧ t.pix.plans = s.pix.plans + 1 ∧
      State.pagesBut [pgPIX] s t) ∧
  (∀ (s : State) (engines poison : List Nat) (spots : List Spot), s.blendState = 1 → s.arrayServes = true →
    (s.spotCheck s.wmap.lamps s.blend.serial (s.sliceEngines s.wmap.lamps engines []) spots).1 = 0 →
    (∀ j ∈ s.pix.jobs, s.blend.swaps ≤ j.inp.copy) → s.scan.inCycle = true → s.blend.fast = false →
    Runs (.blendComplete engines spots poison) s fun t => t.blendState = 2 ∧ t.blend.back.isSome = true ∧ t.blend.front = s.blend.front ∧
      State.pagesBut [pgPIX, pgCORR] s t) ∧
  (∀ s : State, s.blendState = 3 → s.bothServe = true → s.setsLoaded = true →
    Runs .blendResume s fun t => t.blendState = 1 ∧ t.blend.startAt = s.now ∧ t.blend.rewriting = true ∧ t.now = s.now ∧
      State.regsBut [(pgCORR, CORR_STAT.off)] s t) ∧
  (∀ s : State, s.refreshDue = true → (∀ k < 48, s.sensorOn k = false) → (∀ k < 48, s.sensorValid k = false) →
    Runs .fieldRefresh s fun t => t.now = max s.now s.field.refreshAt ∧ t.field.noField = s.field.noField ∧
      t.field.refreshAt = s.field.refreshAt + s.fg TF_PERIOD_MS * Config.ms ∧ (∀ z < 64, t.fgk TF_Z_TEMP 0 z = 400) ∧
      t.fg TF_ZMAX_TEMP = 400)

/-- An accepted write of PIX_RET clears the engines named, one of TF_SFAIL the sensors named, one of the override registers that passes
its checks is stored; DRY reports the admission check of the state as it will be after what is pending. A sample of the stones, none of
them at its warning, derate or darkness level, comes at its instant and shows the hottest; with no board sensor enabled nothing is queued.
A read of the board sensors with TWI free takes the queued sample, and asks each enabled sensor in turn when no line is stuck. (When
samples are judged is the model's reading, log entry 35.) -/
def Obligations.EnginesAndSensors : Prop :=
  (∀ (s s1 : State) (a : Access) (h : Fin 2) (v : Word) (p o : Nat) (w : Who) (g : Reg),
    accepted s.begin_ a (regAddr pgPIX (if h = 0 then PIX_RET_A.off else PIX_RET_B.off)) v.toNat = some (s1, w, p, o, g) →
    Runs (.returnToService a h v) s fun t => t.reg pgPIX o = s1.reg pgPIX o - Nat.land (s1.reg pgPIX o) v.toNat ∧
      State.regsBut [(pgPIX, o), (pgPIX, 0x024)] s1 t ∧ t.outs = doneOuts) ∧
  (∀ (s s1 : State) (a : Access) (h : Fin 2) (v : Word) (p o : Nat) (w : Who) (g : Reg),
    accepted s.begin_ a (regAddr pgTFIELD (if h = 0 then TF_SFAIL0.off else TF_SFAIL1.off)) v.toNat = some (s1, w, p, o, g) →
    Runs (.sensorReturn a h v) s fun t => t.reg pgTFIELD o = mergeFlds g.flds (s1.reg pgTFIELD o) v.toNat (2 ^ 32 - 1) % 2 ^ 32 ∧
      (∀ i < 32, bit v.toNat i = true → 32 * h.val + i < 48 → t.fgk TF_SRD_SUSP 0 (32 * h.val + i) = 0) ∧
      State.pagesBut [pgTFIELD] s1 t ∧ t.outs = doneOuts) ∧
  (∀ (s s1 : State) (a : Access) (k : Fin 4) (v : Word) (p o : Nat) (w : Who) (g : Reg),
    accepted s.begin_ a (regAddr pgEDGE (EDGE_OVR_CTRL.off + 4 * k.val)) v.toNat = some (s1, w, p, o, g) →
    s1.overrideFail w pgEDGE o v.toNat = none →
    Runs (.override a k v) s fun t => t.reg pgEDGE o = mergeFlds g.flds (s1.reg pgEDGE o) v.toNat (2 ^ 32 - 1) % 2 ^ 32 ∧
      State.regsBut [(pgEDGE, o), (pgEDGE, 0x024)] s1 t ∧ t.outs = doneOuts) ∧
  (∀ (s s1 : State) (a : Access) (p o : Nat) (w : Who) (g : Reg),
    accepted s.begin_ a (regAddr pgADMIT ADM_CMD.off) 1 = some (s1, w, p, o, g) →
    Runs (.dry a) s fun t => t.fg ADM_SRC_KIND = 2 ∧ State.pagesBut [pgADMIT] s1 t ∧ t.fab = s1.fab ∧ t.outs = doneOuts) ∧
  (∀ (s : State) (v : Int), s.pow.trimDone = true → s.mode = .show → s.boardOn = false → s.field.queued = none →
    -640 ≤ v → v < 1200 → v < State.deg (s.fg TH_CFG_WARN) → v < State.deg (s.fg TH_CFG_DERATE) →
    v < State.deg (s.fg TH_STONE_DARK) → s.fg TH_BCFG_BDERATE = 0 →
    Runs (.sensorSample (List.replicate 16 (some v))) s fun t => t.now = max s.now s.field.sampleAt ∧ t.mode = .show ∧
      t.field.sampleAt = s.field.sampleAt + 250 * Config.ms ∧ t.field.queued = none ∧ t.fg TH_STAT_DIEMAX = twos 16 v ∧
      t.fg TH_STAT_HOT = 0 ∧ t.pow.shut = s.pow.shut) ∧
  (∀ (s : State) (die : List (Option Int)) (raw : List (Option Nat)) (low : Option Bool), s.field.queued = some die →
    s.ser.twiX = none →
    Runs (.boardSensorRead ⟨raw, low⟩) s fun t => t.field = { s.field with queued := none } ∧ t.now = s.now ∧
      State.pagesBut [pgTFIELD, pgFAULT, pgTWI] s t ∧
      (low = none → s.fg TWI_STAT_STUCK = 0 →
        t.outs = ((List.range 32).filter fun k => s.sensorOn (16 + k)).flatMap fun k =>
          [.serial s.twiWire (s.boardFrame (16 + k)), .twiStop]))

/-- Accepted writes. WIRE_QUERY, HEALTH_QUERY and LIST_QUERY store their selection in the writer's copy and change no other register but
PG_GEN. CLEAR notes the lamp selected, CLEARALL every lamp, RB_CLR the stones named, each to act at the next span boundary. A CONVERSION
in progress whose settling is not over is tagged; a settled one of a single conversion is the entry's result. (That clears wait for the
boundary is the model's reading, log entry 38.) -/
def Obligations.HealthCommands : Prop :=
  (∀ (s s1 : State) (a : Access) (v p o : Nat) (w : Who) (g : Reg),
    accepted s.begin_ a (regAddr pgWIRE WIRE_QSEL.off) (v % 2 ^ 18) = some (s1, w, p, o, g) →
    Runs (.wireQuery a v) s fun t => rget t.regs (bankOfReg s1.regs w p o) p o =
        mergeFlds g.flds (rget s1.regs (bankOfReg s1.regs w p o) p o) (v % 2 ^ 18) (2 ^ 32 - 1) % 2 ^ 32 ∧
      State.regsBut [(pgWIRE, WIRE_QSEL.off), (pgWIRE, 0x024)] s1 t ∧ t.outs = doneOuts) ∧
  (∀ (s s1 : State) (a : Access) (v p o : Nat) (w : Who) (g : Reg),
    accepted s.begin_ a (regAddr pgHEALTH HEALTH_QSEL.off) (v % 2 ^ 18) = some (s1, w, p, o, g) →
    Runs (.healthQuery a v) s fun t => rget t.regs (bankOfReg s1.regs w p o) p o =
        mergeFlds g.flds (rget s1.regs (bankOfReg s1.regs w p o) p o) (v % 2 ^ 18) (2 ^ 32 - 1) % 2 ^ 32 ∧
      State.regsBut [(pgHEALTH, HEALTH_QSEL.off), (pgHEALTH, 0x024)] s1 t ∧ t.outs = doneOuts) ∧
  (∀ (s s1 : State) (a : Access) (v p o : Nat) (w : Who) (g : Reg),
    accepted s.begin_ a (regAddr pgHEALTH HEALTH_LSEL.off) (v % 2 ^ 10) = some (s1, w, p, o, g) →
    Runs (.listQuery a v) s fun t => rget t.regs (bankOfReg s1.regs w p o) p o =
        mergeFlds g.flds (rget s1.regs (bankOfReg s1.regs w p o) p o) (v % 2 ^ 10) (2 ^ 32 - 1) % 2 ^ 32 ∧
      State.regsBut [(pgHEALTH, HEALTH_LSEL.off), (pgHEALTH, 0x024)] s1 t ∧ t.outs = doneOuts) ∧
  (∀ (s s1 : State) (a : Access) (p o : Nat) (w : Who) (g : Reg),
    accepted s.begin_ a (regAddr pgHEALTH HEALTH_CMD.off) 1 = some (s1, w, p, o, g) →
    Runs (.clear a) s fun t => t.health = { s1.health with clr := s1.health.clr ++ [some (s1.fgb w.bank HEALTH_QSEL_LAMP)] } ∧
      State.regsBut [(pgHEALTH, 0x024)] s1 t ∧ t.outs = doneOuts) ∧
  (∀ (s s1 : State) (a : Access) (p o : Nat) (w : Who) (g : Reg),
    accepted s.begin_ a (regAddr pgHEALTH HEALTH_CMD.off) 2 = some (s1, w, p, o, g) →
    Runs (.clearall a) s fun t => t.health = { s1.health with clr := s1.health.clr ++ [none] } ∧
      State.regsBut [(pgHEALTH, 0x024)] s1 t ∧ t.outs = doneOuts) ∧
  (∀ (s s1 : State) (a : Access) (v p o : Nat) (w : Who) (g : Reg),
    accepted s.begin_ a (regAddr pgRDBK RB_CLR.off) (v % 2 ^ 16) = some (s1, w, p, o, g) →
    Runs (.rbClr a v) s fun t =>
      t.rdbk = { s1.rdbk with toFree := s1.rdbk.toFree ++ (List.range 16).filter (fun k => bit (v % 2 ^ 16) k) } ∧
      State.regsBut [(pgRDBK, 0x024)] s1 t ∧ t.outs = doneOuts) ∧
  (∀ (s : State) (code : Nat) (v : Int), s.sense.busy = true → s.sense.tagLeft ≠ 0 → pgSENSE ∉ s.fab.stopping →
    Runs (.conversion code v) s fun t => t.sense = { s.sense with tagLeft := s.sense.tagLeft - 1 } ∧ t.fg SENSE_RAW_SETTLING = 1 ∧
      State.pagesBut [pgSENSE] s t ∧ t.now = s.now) ∧
  (∀ (s : State) (code : Nat) (v : Int), s.sense.busy = true → s.sense.tagLeft = 0 → s.sense.codes = [] → s.sense.last = none →
    s.sense.entry < 32 →
    Runs (.conversion code v) s fun t => t.fgk SENSE_RES_VALUE 0 s.sense.entry = twos 16 v ∧ t.fgk SENSE_RES_VALID 0 s.sense.entry = 1 ∧
      State.pagesBut [pgSENSE] s t ∧ t.now = s.now)

/-- PHASE_ZERO on an ACTIVE phase with power comes at the phase's next zero: one that is not running takes its shadows when due; one that
runs without a failure and keeps its reference starts the next period. An accepted LOAD_ALL with none pending makes every ACTIVE phase
take its shadows at its next zero; one more before then changes nothing further. A reading above the threshold while HG is high, after its
blanking, ends the pulse and counts the period as tripped; at the N-th tripped period of a window the phase latches off. FEEDBACK_SAMPLE
at the event of the lowest running phase of a RUNNING rail shows the reading and moves the inner loop; without a running phase there is no
sample. An accepted PH_TEST in SERVICE with the supply disabled drives the gates named, and holds them low without the stage or its power.
(Readings of Tables 11.3 to 11.5: log entry 70.) -/
def Obligations.SupplyPhases : Prop :=
  (∀ (s : State) (n : Fin 8) (e : PhaseEnv), s.active (pgPHASE + n.val) = true → s.powered 10 = true → s.sup.halt = false →
    (s.phase n.val).st ≠ 1 → (s.phase n.val).due = true → (s.phase n.val).evAt = none → n.val < s.sup.phases.length →
    Runs (.phaseZero n e) s fun t => (t.phase n.val).due = false ∧ (t.phase n.val).per = s.fg SUP_PER_GRAINS ∧
      (t.phase n.val).ofs = s.fgi PH_OFS_OFS n.val ∧ (t.phase n.val).man = s.fgi PH_DUTY_D n.val ∧ t.regs = s.regs ∧
      t.now = max s.now (s.nextZero n.val)) ∧
  (∀ (s : State) (n : Fin 8) (e : PhaseEnv), s.active (pgPHASE + n.val) = true → s.powered 10 = true → s.sup.halt = false →
    (s.phase n.val).st = 1 → (s.phase n.val).due = false → (s.phase n.val).failRun < 15 → s.fg SUP_CFG_LOCK = 0 →
    (s.phase n.val).gridFrom (((s.phase n.val).hold).getD s.stageRef) (s.nextZero n.val) = s.nextZero n.val →
    Runs (.phaseZero n e) s fun t => (t.phase n.val).st = 1 ∧ (t.phase n.val).due = false ∧
      (t.phase n.val).period = (s.phase n.val).period + 1 ∧ (t.phase n.val).trippedNow = false ∧
      (t.phase n.val).zeroAt = s.nextZero n.val ∧ t.now = max s.now (s.nextZero n.val) ∧
      State.pagesBut [pgSUPPLY, pgPHASE + n.val, pgFAULT] s t) ∧
  (∀ (s s1 : State) (a : Access) (p o : Nat) (w : Who) (g : Reg),
    accepted s.begin_ a (regAddr pgSUPPLY LOAD_ALL.off) 1 = some (s1, w, p, o, g) → s1.sup.phases.length = 8 →
    Runs (.loadAll a) s fun t => (if s1.sup.phases.any (·.due) = true then t.sup = s1.sup else
        ∀ n : Fin 8, (t.phase n.val).due = s1.active (pgPHASE + n.val)) ∧
      t.sup.rails = s1.sup.rails ∧ State.pagesBut [pgSUPPLY] s1 t ∧ t.outs = doneOuts) ∧
  (∀ (s : State) (n : Fin 8) (mv g : Nat) (v : GateLv), v = (s.phase n.val).gates (max s.now ((s.phase n.val).zeroAt + g)) → v.hg = true →
    v.hgAt + 32 * s.fgi PH_TRIP_LEB n.val ≤ max s.now ((s.phase n.val).zeroAt + g) → s.fgi PH_TRIP_THR n.val < mv →
    (s.phase n.val).st = 1 → (s.phase n.val).trippedNow = false → (s.phase n.val).tripCount + 1 < s.fgi PH_TRIP_N n.val →
    Runs (.trip n ⟨mv, g⟩) s fun t => (t.phase n.val).st = 1 ∧ (t.phase n.val).trippedNow = true ∧
      t.now = max s.now ((s.phase n.val).zeroAt + g) ∧ ((t.phase n.val).gates t.now).hg = false ∧
      t.hasFault (pgPHASE + n.val) 1 = true ∧ t.sup.rails = s.sup.rails) ∧
  (∀ (s : State) (n : Fin 8) (mv g : Nat) (v : GateLv), v = (s.phase n.val).gates (max s.now ((s.phase n.val).zeroAt + g)) → v.hg = true →
    v.hgAt + 32 * s.fgi PH_TRIP_LEB n.val ≤ max s.now ((s.phase n.val).zeroAt + g) → s.fgi PH_TRIP_THR n.val < mv →
    (s.phase n.val).st = 1 → (s.phase n.val).trippedNow = false → s.fgi PH_TRIP_N n.val ≤ (s.phase n.val).tripCount + 1 →
    Runs (.trip n ⟨mv, g⟩) s fun t => (t.phase n.val).st = 2 ∧ ((t.phase n.val).gates t.now).hg = false ∧
      ((t.phase n.val).gates t.now).lg = false ∧ t.hasFault (pgPHASE + n.val) 2 = true) ∧
  (∀ (s : State) (k : Fin 2) (mv : Nat), (s.railPhases k.val fun n => (s.phase n).st == 1) = [] →
    Runs (.feedbackSample k mv) s fun t => t = s.begin_) ∧
  (∀ (s : State) (k : Fin 2) (mv n at_ : Nat) (done : Bool) (l : List Nat),
    (s.railPhases k.val fun n => (s.phase n).st == 1) = n :: l → (s.phase n).evAt = some (at_, done) → (s.rail k.val).st = 2 →
    Runs (.feedbackSample k mv) s fun t => t.now = max s.now at_ ∧
      (if k.val = 0 then t.fg SUP_VFB_A else t.fg SUP_VFB_B) = mv % 2 ^ 16 ∧
      (t.rail k.val).integ = (innerLoop (s.fg SUP_LOOP_KI) (s.fg SUP_LOOP_KP) (s.rail k.val).integ (s.rail k.val).vset mv
        ((s.phase n).per / 2)).1 ∧ (t.rail k.val).st = 2 ∧ State.pagesBut [pgSUPPLY, pgPHASE + n] s t) ∧
  (∀ (s s1 : State) (a : Access) (n : Fin 8) (v : Word) (p o : Nat) (w : Who) (g : Reg),
    accepted s.begin_ a (regAddr (pgPHASE + n.val) PH_TEST.off) v.toNat = some (s1, w, p, o, g) → s1.mode = .service →
    enabledR s1.regs pgSUPPLY = false → (bit v.toNat 0 && bit v.toNat 1 && bit v.toNat 2) = false → n.val < s1.sup.phases.length →
    Runs (.phTest a n v) s fun t =>
      ((t.phase n.val).gates t.now).hg = (s1.supPresent && s1.powered 10 && bit v.toNat 0 && bit v.toNat 1) ∧
      ((t.phase n.val).gates t.now).lg = (s1.supPresent && s1.powered 10 && bit v.toNat 0 && bit v.toNat 2) ∧
      State.pagesBut [pgPHASE + n.val] s1 t ∧ t.outs = doneOuts)

/-- The transitions of a rail: one that may start is to enter STARTING, and does so at the next span boundary (R226, R236), its setpoint
the reading and its integrator clear; STARTING to RUNNING within 50 mV of VMIN, STARTING to STOPPING after 100 ms with a fault, STOPPING
to OFF. SFLTN low stops every rail hard and, unless masked, leads from SHOW or SERVICE to DARK; its release is shown and changes nothing
else. An over-voltage stops every rail hard, with a fault of its own; an under-voltage of a RUNNING rail raises its fault. An AUX period
starts with the CMP values that stand. (The mask of SFLTN and the over-voltage, the boundary of a start: the model's readings, log entries
39 and 70.) -/
def Obligations.SupplyRails : Prop :=
  (∀ (s : State) (k : Fin 2) (mv : Nat), s.startsFrom k.val = true → k.val < s.sup.rails.length →
    Runs (.railStart k mv) s fun t => (t.rail k.val).ask = some mv ∧ (t.rail k.val).st = (s.rail k.val).st ∧
      t.sup.phases = s.sup.phases ∧ t.regs = s.regs ∧ t.now = s.now ∧ t.outs = []) ∧
  (∀ (s : State) (k : Fin 2) (mv : Nat) (e : SpanEnv), (s.rail k.val).ask = some mv → (s.rail k.val).st = 0 → s.railMayStart k.val = true →
    s.pow.pdReq = s.reg pgPWRDOM PD_REQ.off → s.mode ≠ .sleep → s.tim.running = false → s.fab.starting = [] → s.fab.stopping = [] → s.fab.resetting = [] → s.fab.fks = [] →
    s.pow.req = none → s.pow.sleeping = false →
    Runs (.spanBoundary e) s fun t => (t.rail k.val).st = 1 ∧ (t.rail k.val).vset = mv ∧ (t.rail k.val).integ = 0 ∧
      (t.rail k.val).since = t.now) ∧
  (∀ (s : State) (k : Fin 2) (mv : Nat), (s.rail k.val).st = 1 → mv ≤ (railCfg s.regs k.val).vmin * 10 + 50 →
    (railCfg s.regs k.val).vmin * 10 ≤ mv + 50 →
    Runs (.railRunning k mv) s fun t => (t.rail k.val).st = 2 ∧ (t.rail k.val).vset = (railCfg s.regs k.val).vmin * 10 ∧
      State.pagesBut [pgFAULT] s t ∧ t.now = s.now) ∧
  (∀ (s : State) (k : Fin 2), (s.rail k.val).st = 1 →
    Runs (.startTimeout k) s fun t => (t.rail k.val).st = 3 ∧ t.hasFault pgSUPPLY (7 + k.val) = true ∧
      t.now = max s.now ((s.rail k.val).since + 100 * Config.ms) ∧ State.pagesBut [pgSUPPLY, pgFAULT] s t) ∧
  (∀ (s : State) (k : Fin 2) (mv : Nat), (s.rail k.val).st = 3 →
    Runs (.railOff k mv) s fun t => (t.rail k.val).st = 0 ∧ (t.rail k.val).vset = 0 ∧
      t.now = (if mv < 300 then s.now else max s.now ((s.rail k.val).since + 50 * Config.ms))) ∧
  (∀ s : State, Runs .sfltn s fun t => t.sup.sfltn = false ∧ (∀ r ∈ t.sup.rails, r.st = 0) ∧ t.hasFault pgSUPPLY 0 = true ∧
    ((s.mode = .show ∨ s.mode = .service) → s.masked pgSUPPLY 0 = false → t.mode = .dark)) ∧
  (∀ s : State, Runs .sfltnRelease s fun t => t.sup = { s.sup with sfltn := true } ∧ t.regs = s.regs ∧ t.mode = s.mode ∧ t.now = s.now ∧
    t.outs = []) ∧
  (∀ (s : State) (k : Fin 2) (fb : Nat), 10 * ((railCfg s.regs k.val).vmax + s.fg SUP_PROT_OVM) < 8 * fb →
    Runs (.overVoltage k fb) s fun t => (∀ r ∈ t.sup.rails, r.st = 0) ∧ t.hasFault pgSUPPLY (1 + k.val) = true ∧
      ((s.mode = .show ∨ s.mode = .service) → s.masked pgSUPPLY (1 + k.val) = false → t.mode = .dark)) ∧
  (∀ (s : State) (k : Fin 2) (fb : Nat), (s.rail k.val).st = 2 →
    8 * fb + 10 * s.fg SUP_PROT_UVM < 10 * (railCfg s.regs k.val).vmin →
    Runs (.underVoltage k fb) s fun t => t.hasFault pgSUPPLY (3 + k.val) = true ∧ t.sup = s.sup ∧
      State.pagesBut [pgSUPPLY, pgFAULT] s t ∧ t.now = s.now) ∧
  (∀ s : State, s.powered 10 = true → s.mode ≠ .trim → s.mode ≠ .sleep →
    Runs .auxPeriod s fun t => t.now = max s.now (s.sup.auxAt + 640000) ∧ t.regs = s.regs ∧
      t.sup = { s.sup with auxAt := t.now, aux := [auxLen (s.fg AUX_CMP0_CMP), auxLen (s.fg AUX_CMP1_CMP)] })

/-- SELF_TRIM in TRIM starts the measurements with the journal block ahead modulo 2^32. A result out of range, or none, fails: DARK with
its fault; one in range ends the measurement with PASS and puts its values into the bin of the die temperature. A wanted record goes into
the block not in use with the next sequence number, and the block loses its old record first; above 115 °C it is dropped. The commit makes
it the record in use. An accepted FORGET of T0 in SERVICE at no more than 115 °C wants an empty record. -/
def Obligations.TrimCommands : Prop :=
  (∀ (s : State) (x y : JRec), s.mode = .trim → s.trim.active = false → nth s.trim.blocks 0 none = some x →
    nth s.trim.blocks 1 none = some y →
    Runs .selfTrim s fun t => t.trim.active = true ∧ t.trim.wanted = none ∧
      t.trim.used = some (if dcnFuture y.seq x.seq = true then 1 else 0) ∧
      t.trim.bins = (if dcnFuture y.seq x.seq = true then y.bins else x.bins) ∧ State.pagesBut [pgTRIM] s t ∧ t.now = s.now) ∧
  (∀ s : State, s.mode = .trim → s.trim.active = false → nth s.trim.blocks 0 none = none → nth s.trim.blocks 1 none = none →
    Runs .selfTrim s fun t => t.trim.active = true ∧ t.trim.used = none ∧ t.fg TRIM_BINS_NOFLASH = 1 ∧ t.now = s.now) ∧
  (∀ (s : State) (m : Option TrimMeas), s.mode = .trim → s.trim.active = true → (m.bind trimValues) = none →
    Runs (.trimResult m) s fun t => t.mode = .dark ∧ t.trim.active = false ∧ t.pow.trimFail = true ∧ t.hasFault pgTRIM 0 = true ∧
      t.fg FLT_ENTRY_CAUSE = 1) ∧
  (∀ (s : State) (m : TrimMeas) (v : BinVal), s.trim.active = true → trimValues m = some v →
    Runs (.trimResult (some m)) s fun t => t.trim.active = false ∧
      t.trim.bins = modAt s.trim.bins (binOf v.tm) (fun _ => some v) ∧ t.fg (hSTATPAGE pgTRIM) = 3 ∧ t.mode = s.mode ∧
      t.now = s.now) ∧
  (∀ (s : State) (r old : JRec) (j : Nat), s.trim.wanted = some r → s.mode ≠ .trim → s.trim.writing = none → s.pow.vddLow = false →
    s.pow.shut = false → s.dieNow ≤ 1840 → s.trim.used = some j → nth s.trim.blocks j none = some old →
    Runs .journalWrite s fun t => t.trim = { s.trim with
        wanted := none, writing := some (1 - j, { r with seq := add32 old.seq 1 }), blocks := modAt s.trim.blocks (1 - j) (fun _ => none) } ∧
      t.regs = s.regs ∧ t.now = s.now) ∧
  (∀ (s : State) (r : JRec), s.trim.wanted = some r → s.mode ≠ .trim → s.trim.writing = none → s.pow.vddLow = false →
    s.pow.shut = false → 1840 < s.dieNow →
    Runs .journalWrite s fun t => t.trim = { s.trim with wanted := none } ∧ t.fg TRIM_BINS_HOT = 1) ∧
  (∀ (s : State) (r : JRec) (b : Nat), s.trim.writing = some (b, r) → s.trim.forget = false →
    Runs .journalCommit s fun t => t.trim = { s.trim with
        writing := none, used := some b, blocks := modAt s.trim.blocks b (fun _ => some r) } ∧
      t.fg TRIM_BINS_STORED = 1 ∧ State.pagesBut [pgTRIM] s t ∧ t.now = s.now) ∧
  (∀ (s s1 : State) (a : Access) (p o : Nat) (w : Who) (g : Reg),
    accepted s.begin_ a (regAddr pgTRIM TRIM_CMD.off) 1 = some (s1, w, p, o, g) → w.isT0 = true → s1.mode = .service → s1.dieNow ≤ 1840 →
    s1.trim.writing = none →
    Runs (.forget a) s fun t => t.trim = { s1.trim with wanted := some ⟨0, List.replicate 5 none⟩ } ∧
      State.regsBut [(pgTRIM, 0x024)] s1 t ∧ t.outs = doneOuts) ∧
  (∀ (s s1 : State) (a : Access) (p o : Nat) (w : Who) (g : Reg),
    accepted s.begin_ a (regAddr pgTRIM TRIM_CMD.off) 1 = some (s1, w, p, o, g) → w.isT0 = false →
    Runs (.forget a) s fun t => t.outs = [.res ⟨0x5A01, w.slot⟩ []] ∧ t.trim = s1.trim)

/-- Training of a powered controller that is off starts with the density of the attempt that passes; one from self-refresh keeps contents
and density (R270); two that fail lead to DARK. Its completion makes the memory READY. With READY memory: a ZQ calibration and an
oscillator run come at their interval and touch no data; a refresh owes the bank in turn one more and pays what it was given; an MR4 poll
shows the hotter die. An idle bank is precharged. A scrub read with no other request waiting goes on to the next word. An accepted error
injection in SERVICE is stored, and outside SERVICE refused. -/
def Obligations.MemoryUpkeep : Prop :=
  (∀ (s : State) (d : Fin 3) (b : TrainTry), s.powered 4 = true → s.memState = 0 →
    Runs (.dramTraining ⟨some d, none⟩ b) s fun t => t.memState = 1 ∧ t.fg MEMC_CFG_DENSITY = d.val ∧ t.fg MP_TRAIN_ATTEMPTS = 1 ∧
      t.mem = { s.mem with trainAt := s.now, restored := false } ∧ State.pagesBut [pgMEMC, pgMEMPHY] s t ∧ t.now = s.now) ∧
  (∀ (s : State) (d : Option (Fin 3)) (b : TrainTry), s.powered 4 = true → s.memState = 3 →
    Runs (.dramTraining ⟨d, none⟩ b) s fun t => t.memState = 1 ∧ t.mem = { s.mem with trainAt := s.now, restored := true } ∧
      State.pagesBut [pgMEMC, pgMEMPHY] s t ∧ t.now = s.now) ∧
  (∀ (s : State) (a b : TrainTry) (f : Nat), s.powered 4 = true →
    (s.memState = 0 ∧ (State.trainFails a).isSome = true ∨ s.memState = 3 ∧ (a.fail = some 4 ∨ a.fail = some 5)) →
    State.trainFails b = some f →
    Runs (.dramTraining a b) s fun t => t.memState = 4 ∧ t.hasFault pgMEMC 0 = true ∧ t.pow.memFail = true ∧
      ((s.mode = .trim ∨ s.mode = .show ∨ s.mode = .service) → t.mode = .dark)) ∧
  (∀ (s : State) (r : TrainRes), s.memState = 1 →
    Runs (.trainingComplete r) s fun t => t.memReady = true ∧ t.now = max s.now (s.mem.trainAt + r.us * Config.us) ∧
      t.mem.dram = s.mem.dram ∧ t.mem.zqAt = t.now ∧ t.mem.refAt = [t.now, t.now]) ∧
  (∀ s : State, s.memReady = true →
    Runs .zqCalibration s fun t => t.now = max s.now (s.mem.zqAt + 64 * Config.ms) ∧ t.mem = { s.mem with zqAt := t.now } ∧
      t.regs = s.regs) ∧
  (∀ (s : State) (count : Nat), s.memReady = true →
    Runs (.dqsOscillator count none) s fun t => t.now = max s.now (s.mem.oscAt + 100 * Config.ms) ∧
      t.mem = { s.mem with oscAt := t.now } ∧ t.fg MP_TRACK_OSC = count % 2 ^ 16 ∧
      State.regsBut [(pgMEMPHY, MP_TRACK_OSC.off)] s t) ∧
  (∀ (s : State) (sc : Fin 2) (n : Nat), s.memReady = true → n ≤ nth s.mem.owed (8 * sc.val + nth s.mem.turn sc.val 0 % 8) 0 + 1 →
    nth s.mem.owed (8 * sc.val + nth s.mem.turn sc.val 0 % 8) 0 + 1 ≤ s.fg MEMC_REF_POSTMAX + n →
    Runs (.refresh sc n) s fun t => t.now = max s.now (nth s.mem.refAt sc.val 0 + s.refInterval) ∧ t.regs = s.regs ∧
      t.mem.dram = s.mem.dram ∧ t.mem.turn = modAt s.mem.turn sc.val (fun x => (x + 1) % 8) ∧
      t.mem.owed = modAt s.mem.owed (8 * sc.val + nth s.mem.turn sc.val 0 % 8) (fun _ =>
        nth s.mem.owed (8 * sc.val + nth s.mem.turn sc.val 0 % 8) 0 + 1 - n)) ∧
  (∀ (s : State) (a b : Fin 8), s.memReady = true →
    Runs (.mr4Poll a b) s fun t => t.fg MEMC_REFST_MR4 = max a.val b.val ∧ t.fg MEMC_REFST_OVERTEMP = b2n (max a.val b.val == 7) ∧
      t.mem = { s.mem with mr4At := t.now } ∧ State.pagesBut [pgMEMC, pgFAULT] s t ∧
      t.now = max s.now (s.mem.mr4At + s.fg MEMC_REF_MR4MS * Config.ms)) ∧
  (∀ (s : State) (sc : Fin 2) (b : Fin 8) (row at_ : Nat), nth s.mem.rows (8 * sc.val + b.val) none = some (row, at_) →
    Runs (.pageIdleExpire sc b) s fun t => t.mem = { s.mem with rows := modAt s.mem.rows (8 * sc.val + b.val) (fun _ => none) } ∧
      t.regs = s.regs ∧ t.now = max s.now (at_ + ceilDiv (s.fg MEMC_PAGE_IDLE * 32000) (s.fg MEMC_RATE_MTS))) ∧
  (∀ (s : State) (errs : List Nat), s.memReady = true → s.fg ME_CFG_SCRUB ≠ 0 → s.viewBytes ≠ 0 → s.mem.inflight = [] →
    s.mem.waiting = [] →
    Runs (.scrubRead errs) s fun t => t.mem.scrub = (s.mem.scrub % (s.viewBytes / 8) + 1) % (s.viewBytes / 8) ∧
      t.mem.dram = s.mem.dram ∧ State.pagesBut [pgMECC, pgFAULT] s t ∧ t.mem.scrubAt ≤ t.now ∧
      t.mem.scrubAt = s.mem.scrubAt + s.fg ME_CFG_SCRUBH * 3600 * Config.sec / (s.viewBytes / 8)) ∧
  (∀ (s s1 : State) (a : Access) (v : Word) (p o : Nat) (w : Who) (g : Reg),
    accepted s.begin_ a (regAddr pgMECC ME_INJ.off) v.toNat = some (s1, w, p, o, g) → s1.mode = .service →
    Runs (.errorInjection a v) s fun t => t.reg pgMECC ME_INJ.off = mergeFlds g.flds (s1.reg pgMECC ME_INJ.off) v.toNat (2 ^ 32 - 1) % 2 ^ 32 ∧
      State.regsBut [(pgMECC, ME_INJ.off), (pgMECC, 0x024)] s1 t ∧ t.mem = s1.mem ∧ t.outs = doneOuts) ∧
  (∀ (s s1 : State) (a : Access) (v : Word) (p o : Nat) (w : Who) (g : Reg),
    accepted s.begin_ a (regAddr pgMECC ME_INJ.off) v.toNat = some (s1, w, p, o, g) → s1.mode ≠ .service → v.toNat % 4 ≠ 0 →
    Runs (.errorInjection a v) s fun t => t.outs = [.res ⟨0x5B10, w.slot⟩ []] ∧ t.mem = s1.mem)

/-- A request of a user outside its area, or beyond the visible memory, is answered with 0x4B10 and its class and leaves the memory as it
was; an allowed one with READY memory and a credit is accepted and changes no byte. The completion of a write of a whole line that no
earlier request of the same line precedes stores its 64 bytes; every completion leaves every byte outside its line, and a read leaves
every byte, as it was. -/
def Obligations.DramRequests : Prop :=
  (∀ (s : State) (u : DUser) (addr : Nat) (wr : Option (List (Option Byte))),
    (addr < 0x1000000000 ∨ s.viewBytes ≤ (addr - 0x1000000000) / 64 * 64 ∨
      userMay u (areaOf ((addr - 0x1000000000) / 64 * 64)) = false) →
    Runs (.dramRequest u addr wr) s fun t => t.outs = [.res ⟨0x4B10, userCls u⟩ []] ∧ t.mem = s.mem ∧ t.regs = s.regs) ∧
  (∀ (s : State) (u : DUser) (addr : Nat) (wr : Option (List (Option Byte))), 0x1000000000 ≤ addr →
    (addr - 0x1000000000) / 64 * 64 < s.viewBytes → userMay u (areaOf ((addr - 0x1000000000) / 64 * 64)) = true →
    s.memReady = true → s.credit (userCls u) = true →
    Runs (.dramRequest u addr wr) s fun t => t.mem = { s.mem with inflight := s.mem.inflight ++
        [⟨u, userCls u, (addr - 0x1000000000) / 64 * 64, wr.map (fun l => (List.range 64).map fun i => nth l i none), s.now⟩] } ∧
      State.pagesBut [pgMEMC] s t ∧ t.outs = []) ∧
  (∀ (s : State) (k : Nat) (r : DReq) (l : List (Option Byte)) (v : Nat → Byte), s.mem.inflight[k]? = some r → r.wr = some l →
    r.off % 64 = 0 → ((s.mem.inflight.take k).any fun x => x.off == r.off) = false → (∀ i < 64, nth l i none = some (v i)) →
    Runs (.dramCompletion k []) s fun t => ∀ i < 64, t.dramByte (r.off + i) = v i) ∧
  (∀ (s : State) (k : Nat) (errs : List (Nat × List Nat)) (r : DReq), s.mem.inflight[k]? = some r → r.off % 64 = 0 →
    Runs (.dramCompletion k errs) s fun t => (∀ a : Nat, (a < r.off ∨ r.off + 64 ≤ a) → t.dramByte a = s.dramByte a) ∧
      (r.wr = none → ∀ a : Nat, t.dramByte a = s.dramByte a))

/-- A flash command that the write admits and no rule of the flash refuses. READ sends its opcode, address and a dummy byte and puts the
bytes into the buffer; READSR shows the status byte; PROGRAM and the two erases send write enable and the command and leave the flash
busy. A refused one sends nothing. A poll 10 µs after the last ends the operation when the busy bit is 0; the limit ends it with fault 0.
A fetch through an enabled window sends the read and answers the bytes up to the end of its line; any other is an error to the core. -/
def Obligations.FlashCommands : Prop :=
  (∀ (s s1 : State) (a : Access) (v : Word) (fl : List Byte) (p o : Nat) (w : Who) (g : Reg),
    accepted s.begin_ a (regAddr pgSPIB SPIB_CMD.off) (1 * 2 ^ 28 + v.toNat % 2 ^ 28) = some (s1, w, p, o, g) →
    s1.flashRefuse 1 (v.toNat % 512) = none →
    Runs (.spibRead a v fl) s fun t => t.fg SPIB_RES_CODE = 0x0C00 ∧ (∀ i < v.toNat % 512, bufByte t.regs pgSPIB SPIB_BUF.off i =
        (nth fl i 0).toNat) ∧ State.pagesBut [pgSPIB] s1 t ∧ t.ser = s1.ser ∧
      t.outs = [.serial s1.spibWire (flashOp s1.addr4 1 :: flashAddr s1.addr4 (s1.fg SPIB_ADDR_ADDR) ++ [0]), .res ⟨0, 0⟩ []]) ∧
  (∀ (s s1 : State) (a : Access) (v : Word) (p o e : Nat) (b : List Nat) (w : Who) (g : Reg),
    accepted s.begin_ a (regAddr pgSPIB SPIB_CMD.off) (2 * 2 ^ 28 + v.toNat % 2 ^ 28) = some (s1, w, p, o, g) →
    s1.flashRefuse 2 (v.toNat % 512) = none → b = flashOp s1.addr4 2 :: flashAddr s1.addr4 (s1.fg SPIB_ADDR_ADDR) ++
          (List.range (v.toNat % 512)).map (fun i => bufByte s1.regs pgSPIB SPIB_BUF.off i) →
    e = s.now + s1.spibWire.time 8 + 160 * s1.spibWire.gap + s1.spibWire.time (8 * b.length) →
    Runs (.program a v) s fun t => t.fg SPIB_STAT_STATE = 2 ∧ t.flashBusy = true ∧
      t.ser = { s1.ser with op := 2, opAt := e, srAt := e, held := 0 } ∧
      State.pagesBut [pgSPIB] s1 t ∧ t.outs = [.serial s1.spibWire [0x06], .serial s1.spibWire b, .res ⟨0, 0⟩ []]) ∧
  (∀ (s s1 : State) (a : Access) (v : Word) (p o e : Nat) (b : List Nat) (w : Who) (g : Reg),
    accepted s.begin_ a (regAddr pgSPIB SPIB_CMD.off) (3 * 2 ^ 28 + v.toNat % 2 ^ 28) = some (s1, w, p, o, g) →
    s1.flashRefuse 3 (v.toNat % 512) = none → b = flashOp s1.addr4 3 :: flashAddr s1.addr4 (s1.fg SPIB_ADDR_ADDR) →
    e = s.now + s1.spibWire.time 8 + 160 * s1.spibWire.gap + s1.spibWire.time (8 * b.length) →
    Runs (.erase4k a v) s fun t => t.fg SPIB_STAT_STATE = 2 ∧ t.flashBusy = true ∧
      t.ser = { s1.ser with op := 3, opAt := e, srAt := e, held := 0 } ∧
      State.pagesBut [pgSPIB] s1 t ∧ t.outs = [.serial s1.spibWire [0x06], .serial s1.spibWire b, .res ⟨0, 0⟩ []]) ∧
  (∀ (s s1 : State) (a : Access) (v : Word) (p o e : Nat) (b : List Nat) (w : Who) (g : Reg),
    accepted s.begin_ a (regAddr pgSPIB SPIB_CMD.off) (4 * 2 ^ 28 + v.toNat % 2 ^ 28) = some (s1, w, p, o, g) →
    s1.flashRefuse 4 (v.toNat % 512) = none → b = flashOp s1.addr4 4 :: flashAddr s1.addr4 (s1.fg SPIB_ADDR_ADDR) →
    e = s.now + s1.spibWire.time 8 + 160 * s1.spibWire.gap + s1.spibWire.time (8 * b.length) →
    Runs (.erase64k a v) s fun t => t.fg SPIB_STAT_STATE = 2 ∧ t.flashBusy = true ∧
      t.ser = { s1.ser with op := 4, opAt := e, srAt := e, held := 0 } ∧
      State.pagesBut [pgSPIB] s1 t ∧ t.outs = [.serial s1.spibWire [0x06], .serial s1.spibWire b, .res ⟨0, 0⟩ []]) ∧
  (∀ (s s1 : State) (a : Access) (v : Word) (sr : Byte) (p o : Nat) (w : Who) (g : Reg),
    accepted s.begin_ a (regAddr pgSPIB SPIB_CMD.off) (5 * 2 ^ 28 + v.toNat % 2 ^ 28) = some (s1, w, p, o, g) →
    s1.flashRefuse 5 (v.toNat % 512) = none →
    Runs (.readsr a v sr) s fun t => t.fg SPIB_STAT_SR = sr.toNat ∧ t.fg SPIB_RES_CODE = 0x0C00 ∧ t.ser = s1.ser ∧
      State.pagesBut [pgSPIB] s1 t ∧ t.outs = [.serial s1.spibWire [0x05], .res ⟨0, 0⟩ []]) ∧
  (∀ (s s1 : State) (a : Access) (v : Word) (p o : Nat) (w : Who) (g : Reg) (c : Rc),
    accepted s.begin_ a (regAddr pgSPIB SPIB_CMD.off) (2 * 2 ^ 28 + v.toNat % 2 ^ 28) = some (s1, w, p, o, g) →
    s1.flashRefuse 2 (v.toNat % 512) = some c →
    Runs (.program a v) s fun t => t.outs = [.res c []] ∧ t.ser = s1.ser) ∧
  (∀ (s : State) (sr : Byte), s.flashBusy = true →
    Runs (.statusPoll sr) s fun t => t.now = max s.now (s.ser.srAt + 10 * Config.us) ∧ t.fg SPIB_STAT_SR = sr.toNat ∧
      t.flashBusy = bit sr.toNat 0 ∧ t.outs = [.serial s.spibWire [0x05]] ∧ State.pagesBut [pgSPIB] s t) ∧
  (∀ s : State, s.flashBusy = true →
    Runs .flashTimeout s fun t => t.flashBusy = false ∧ t.hasFault pgSPIB 0 = true ∧ t.fg SPIB_RES_CODE = 0x7C12 ∧
      t.now = max s.now (s.ser.opAt + s.ser.held + (if s.ser.op = 2 then 4 else 400) * Config.ms) ∧
      State.pagesBut [pgSPIB, pgFAULT] s t) ∧
  (∀ (s : State) (off : Nat) (fl : List Byte) (lat held : Nat), s.fg SPIB_CFG_XIP_EN = 1 → off < 2 ^ 24 → s.flashBusy = false →
    Runs (.fetch off fl lat held) s fun t => t.ser = s.ser ∧ State.pagesBut [pgSPIB] s t ∧ t.now = s.now ∧ t.outs =
      [.serial s.spibWire (flashOp s.addr4 1 ::
        flashAddr s.addr4 ((s.fg SPIB_XBASE_BASE * 65536 + off) % (if s.addr4 = true then 2 ^ 32 else 2 ^ 24) / 4 * 4) ++ [0]),
       .res ⟨0, 0⟩ ((List.range ((32 - off / 4 * 4 % 32) / 4)).map fun k =>
         BitVec.ofNat 32 ((nth fl (4 * k) 0).toNat + (nth fl (4 * k + 1) 0).toNat * 2 ^ 8 + (nth fl (4 * k + 2) 0).toNat * 2 ^ 16 +
           (nth fl (4 * k + 3) 0).toNat * 2 ^ 24))]) ∧
  (∀ (s : State) (off : Nat) (fl : List Byte) (lat held : Nat), (s.fg SPIB_CFG_XIP_EN = 0 ∨ 2 ^ 24 ≤ off) →
    Runs (.fetch off fl lat held) s fun t => t.outs = [.coreError] ∧ t.regs = s.regs ∧ t.ser = s.ser)

/-- Accepted writes, and the ends of what they start. REQUEST of a free port grants it to the requester for its time, of a port another
slot holds is refused with 0x4C12 and the holder; RELEASE frees it; the end of the time takes the grant away. An SPIC transfer within its
limits sends the buffer and is busy until it is done. A TWI transfer within its limits with SDA high sends address and bytes, behind board
reads that are queued (R297); done, it leaves the bytes read; an SCL held low beyond STRETCH ends it with 0x7C11. BUSCLEAR that frees SDA
clears STUCK, one that does not sets it. -/
def Obligations.BusPorts : Prop :=
  (∀ (s s1 : State) (a : Access) (twi : Bool) (p o : Nat) (w : Who) (g : Reg),
    accepted s.begin_ a (gcmdAddr twi) 1 = some (s1, w, p, o, g) → s1.grantOf twi = none →
    Runs (.request a twi) s fun t => t.grantOf twi = some (w.slot % 16) ∧ t.grantOf (!twi) = s1.grantOf (!twi) ∧ t.outs = doneOuts ∧
      (if twi = true then t.ser.twiEnd else t.ser.spicEnd) =
        s.now + (if twi = true then s1.fg TWI_GRANT_MS else s1.fg SPIC_GRANT_MS) * Config.ms ∧
      State.pagesBut [pgSPIC, pgTWI] s1 t) ∧
  (∀ (s s1 : State) (a : Access) (twi : Bool) (p o n : Nat) (w : Who) (g : Reg),
    accepted s.begin_ a (gcmdAddr twi) 1 = some (s1, w, p, o, g) → s1.grantOf twi = some n → n ≠ w.slot →
    Runs (.request a twi) s fun t => t.outs = [.res ⟨0x4C12, n⟩ []] ∧ t.grantOf twi = some n ∧ t.ser = s1.ser) ∧
  (∀ (s s1 : State) (a : Access) (twi : Bool) (p o : Nat) (w : Who) (g : Reg),
    accepted s.begin_ a (gcmdAddr twi) 2 = some (s1, w, p, o, g) →
    Runs (.release a twi) s fun t => t.grantOf twi = none ∧ t.grantOf (!twi) = s1.grantOf (!twi) ∧ t.ser.spicX = s1.ser.spicX ∧
      t.ser.twiX = s1.ser.twiX ∧ State.pagesBut [pgSPIC, pgTWI] s1 t ∧ t.outs = doneOuts) ∧
  (∀ (s s1 : State) (a : Access) (freed : Bool) (p o : Nat) (w : Who) (g : Reg),
    accepted s.begin_ a (gcmdAddr true) 3 = some (s1, w, p, o, g) → s1.ser.twiX = none →
    Runs (.busclear a freed) s fun t => t.fg TWI_STAT_STUCK = b2n (!freed) ∧ t.fg TWI_STAT_SDA = b2n freed ∧ t.ser = s1.ser ∧
      State.pagesBut [pgTWI, pgFAULT] s1 t ∧ t.outs = .twiStop :: doneOuts) ∧
  (∀ (s : State) (twi : Bool) (rx : StopRx) (n : Nat), s.grantOf twi = some n → (∀ x, s.ser.spicX = some x → x.bits ≤ 16384) →
    (∀ x, s.ser.twiX = some x → x.rlen ≤ 256) →
    Runs (.grantExpire twi rx) s fun t => t.grantOf twi = none ∧ t.grantOf (!twi) = s.grantOf (!twi) ∧
      t.now = max s.now (if twi = true then s.ser.twiEnd else s.ser.spicEnd) ∧ (twi = true → t.ser.twiX = none) ∧
      (twi = false → t.ser.spicX = none ∧ t.ser.kept = none) ∧ State.pagesBut [pgSPIC, pgTWI] s t) ∧
  (∀ (s s1 : State) (a : Access) (v : Word) (p o : Nat) (w : Who) (g : Reg),
    accepted s.begin_ a (regAddr pgSPIC SPIC_XFER.off) v.toNat = some (s1, w, p, o, g) → 1 ≤ bitsOf v.toNat 30 16 →
    bitsOf v.toNat 30 16 ≤ 16384 → s1.ser.spicX = none → (∀ x, s1.ser.kept = some x → x = v.toNat % 8) →
    Runs (.spicTransfer a v) s fun t => t.ser = { s1.ser with
        spicX := some ⟨w.slot, v.toNat % 8, bitsOf v.toNat 30 16, bit v.toNat 31,
          s1.spicEndAt (v.toNat % 8) (bitsOf v.toNat 30 16) (bit v.toNat 31)⟩,
        kept := none } ∧ t.fg SPIC_CTRL_BUSY = 1 ∧
      State.pagesBut [pgSPIC] s1 t ∧ t.outs =
        [.serial (s1.spicWire (v.toNat % 8)) ((List.range ((bitsOf v.toNat 30 16 + 7) / 8)).map fun b => bufByte s1.regs pgSPIC SPIC_BUF.off b), .res ⟨0, 0⟩ []]) ∧
  (∀ (s : State) (rx : List Bool) (x : SpicX), s.ser.spicX = some x → x.bits ≤ 16384 →
    Runs (.spicTransferDone rx) s fun t => t.ser = { s.ser with
        spicX := none, kept := if x.keep = true then some x.sel else none, spicFree := t.now + 160 * s.fg SPIC_CTRL_GAP } ∧
      t.fg SPIC_CTRL_BUSY = 0 ∧ t.fg SPIC_CTRL_KEPT = b2n x.keep ∧ State.pagesBut [pgSPIC] s t ∧ t.now = max s.now x.endAt) ∧
  (∀ (s s1 : State) (a : Access) (v : Word) (p o : Nat) (w : Who) (g : Reg) (l : List Nat),
    accepted s.begin_ a (regAddr pgTWI TWI_XFER.off) v.toNat = some (s1, w, p, o, g) →
    1 ≤ bitsOf v.toNat 25 17 + bitsOf v.toNat 16 8 → bitsOf v.toNat 25 17 + bitsOf v.toNat 16 8 ≤ 256 → 8 ≤ v.toNat % 128 →
    v.toNat % 128 < 0x78 → s1.fg TWI_STAT_STUCK = 0 → s1.ser.twiX = none →
    l = (if bitsOf v.toNat 16 8 = 0 then [] else
        (2 * (v.toNat % 128)) :: (List.range (bitsOf v.toNat 16 8)).map fun b => bufByte s1.regs pgTWI TWI_WBUF.off b) ++
      (if bitsOf v.toNat 25 17 = 0 then [] else [2 * (v.toNat % 128) + 1]) →
    Runs (.twiTransfer a v none) s fun t => t.ser = { s1.ser with
        twiX := some ⟨w.slot, v.toNat % 128, bitsOf v.toNat 16 8, bitsOf v.toNat 25 17,
          if s1.field.queued.isSome = true then some l else none⟩ } ∧ t.fg TWI_STAT_BUSY = 1 ∧ State.pagesBut [pgTWI] s1 t ∧
      t.outs = (if s1.field.queued.isSome = true then [] else [.serial s1.twiWire l]) ++ doneOuts) ∧
  (∀ (s : State) (bytes : List Byte) (x : TwiX), s.ser.twiX = some x → x.wait = none → x.rlen ≤ 256 →
    Runs (.twiTransferDone (.done bytes)) s fun t => t.ser = { s.ser with twiX := none } ∧ t.fg TWI_STAT_BUSY = 0 ∧
      (∀ i < x.rlen, bufByte t.regs pgTWI TWI_RBUF.off i = (nth bytes i 0).toNat) ∧ t.reg pgTWI TWI_RES.off = 0x0C00 * 2 ^ 16 ∧
      State.pagesBut [pgTWI] s t ∧ t.now = s.now) ∧
  (∀ (s : State) (i : Nat) (freed : Bool) (x : TwiX), s.ser.twiX = some x → x.wait = none → x.rlen ≤ 256 →
    Runs (.stretchTimeout i freed) s fun t => t.ser = { s.ser with twiX := none } ∧ t.hasFault pgTWI 1 = true ∧
      t.reg pgTWI TWI_RES.off = 0x7C11 * 2 ^ 16 + i % 2 ^ 16 ∧ t.fg TWI_STAT_STUCK = b2n (!freed) ∧
      State.pagesBut [pgTWI, pgFAULT] s t)

/-- A SESSION frame for this tile, with space, within the rate and not a repeat, on a port that passes frames. An ESTABLISH that nothing
refuses makes the slot ACTIVE with the derived key and keeps the session counter; a refused one is answered with its code. CERT is
answered with the certificate. An ATTEST is asked for and answered when the report is ready. An accepted REPORT marks the requester's copy
busy until the report is ready there; an accepted ATT_CERT fills it at once. (That a session is judged within its command is the model's
reading, log entry 46.) -/
def Obligations.SecuritySessions : Prop :=
  (∀ (s s1 : State) (f : Frame) (c k m : Nat), s.begin_.rxDown f 9 = (s1, true) → s1.ownId = some f.first → mgmtRoom f = true →
    s1.loaderServes f = true →
    1 ≤ s1.fg OSEC_RATE_PER_S → nth s1.sec.served f.port.val [] = [] → s1.sec.replies = [] → s1.establishFail f c k = none →
    c < 2 ^ 32 → f.tenant.val < s1.keys.length →
    Runs (.establish f c k m) s fun t => t.tst f.tenant.val = tACTIVE ∧ (t.slotKeys f.tenant.val).mkey = m ∧
      t.fgk KS_SCTR_SCTR 0 f.tenant.val = c) ∧
  (∀ (s s1 : State) (f : Frame) (c k m : Nat) (e : Rc), s.begin_.rxDown f 9 = (s1, true) → s1.ownId = some f.first → mgmtRoom f = true →
    s1.loaderServes f = true →
    1 ≤ s1.fg OSEC_RATE_PER_S → nth s1.sec.served f.port.val [] = [] → s1.sec.replies = [] → s1.establishFail f c k = some e →
    s1.passes f.port.val = true →
    Runs (.establish f c k m) s fun t => t.tst f.tenant.val = s1.tst f.tenant.val ∧ t.keys = s1.keys ∧
      t.outs = s1.outs ++ [.sessrep (s1.upHdr 10 f.tenant.val false 0 4) f.port.val f.tenant.val e.code e.detail
        [1, 0, e.code / 256, e.code % 256]]) ∧
  (∀ (s s1 : State) (f : Frame), s.begin_.rxDown f 9 = (s1, true) → s1.ownId = some f.first → mgmtRoom f = true →
    s1.loaderServes f = true →
    1 ≤ s1.fg OSEC_RATE_PER_S → nth s1.sec.served f.port.val [] = [] → s1.sec.replies = [] → s1.secBusy = false →
    s1.passes f.port.val = true →
    Runs (.cert f) s fun t => t.outs = s1.outs ++ [.sessrep (s1.upHdr 10 f.tenant.val false 0 (certLen + 199)) f.port.val f.tenant.val 0x0D00 0
        ([4, 0, 0x0D, 0] ++ (be 2 certLen ++ certBytes))] ∧
      State.pagesBut [pgLNK + f.port.val] s1 t ∧ t.keys = s1.keys) ∧
  (∀ (s s1 : State) (f : Frame) (nonce : List Word), s.begin_.rxDown f 9 = (s1, true) → s1.ownId = some f.first → mgmtRoom f = true →
    s1.loaderServes f = true →
    1 ≤ s1.fg OSEC_RATE_PER_S → nth s1.sec.served f.port.val [] = [] → s1.sec.replies = [] → s1.secBusy = false →
    Runs (.attest f nonce) s fun t => t.outs = s1.outs ∧ t.regs = s1.regs ∧ t.sec.att = s1.sec.att ++
      [⟨if s1.tst f.tenant.val = tACTIVE then f.tenant.val else 16, some f, 0, nonce.map (·.toNat)⟩]) ∧
  (∀ (s s1 : State) (a : Access) (p o : Nat) (w : Who) (g : Reg),
    accepted s.begin_ a (regAddr pgATTEST ATT_CMD.off) 1 = some (s1, w, p, o, g) → s1.fgb w.bank ATT_STAT_BUSY = 0 → s1.secBusy = false →
    Runs (.report a) s fun t => t.fgb w.bank ATT_STAT_BUSY = 1 ∧ t.outs = doneOuts ∧ State.pagesBut [pgATTEST] s1 t ∧
      t.sec = { s1.sec with att := s1.sec.att ++
        [⟨w.slot, none, w.bank, (List.range 12).map fun k => rget s1.regs w.bank pgATTEST (ATT_NONCE.off + 4 * k)⟩] }) ∧
  (∀ (s s1 : State) (a : Access) (p o : Nat) (w : Who) (g : Reg),
    accepted s.begin_ a (regAddr pgATTEST ATT_CMD.off) 2 = some (s1, w, p, o, g) → s1.fgb w.bank ATT_STAT_BUSY = 0 → s1.secBusy = false →
    Runs (.attCert a) s fun t => t.fgb w.bank ATT_STAT_READY = 1 ∧ t.fgb w.bank ATT_STAT_BUSY = 0 ∧
      t.fgb w.bank ATT_STAT_LEN = certLen + 193 ∧ t.fgb w.bank ATT_RES_CODE = 0x0D00 ∧ t.sec = s1.sec ∧
      State.pagesBut [pgATTEST] s1 t ∧ t.outs = doneOuts) ∧
  (∀ (s : State) (r : AttReq) (rest : List AttReq), s.sec.att = r :: rest → r.sess = none →
    Runs .attestationReady s fun t => t.sec = { s.sec with att := rest } ∧ t.fgb r.bank ATT_STAT_READY = 1 ∧
      t.fgb r.bank ATT_STAT_BUSY = 0 ∧ t.fgb r.bank ATT_STAT_LEN = 436 ∧ t.fgb r.bank ATT_RES_CODE = 0x0D00 ∧
      State.pagesBut [pgATTEST] s t ∧ t.now = s.now) ∧
  (∀ (s : State) (r : AttReq) (rest : List AttReq) (f : Frame), s.sec.att = r :: rest → r.sess = some f → s.passes f.port.val = true →
    Runs .attestationReady s fun t => t.sec.att = rest ∧ State.pagesBut [pgLNK + f.port.val] s t ∧
      ∃ b, t.outs = [.sessrep (s.upHdr 10 f.tenant.val false 0 440) f.port.val f.tenant.val 0x0D00 0 b])

/-- An object that no check refuses, by frame or by an accepted SUBMIT, waits for its span boundary and is answered 0x0D00; a refused one
changes nothing that waits and is answered with its code. At the boundary: a VOUCHER makes its key the owner's, a TRANSFER notes the next
owner or releases ownership, ENROL and UNENROL set and clear the slot's record, KEYWRAP gives a slot without a key of that kind its key,
DEBUG opens the scope, POLICY sets the flags, OTPCFG adds a record. DBGCHAL and RAISE of T0 end with 0x0D00, the former with a challenge
for 300 s, after which it is gone. (Judging within the command and the instants of a TRANSFER: the model's readings, log entries 46 and
72.) -/
def Obligations.SecurityObjects : Prop :=
  (∀ (s s1 : State) (f : Frame) (o : Obj), s.begin_.rxDown f 9 = (s1, true) → s1.ownId = some f.first → mgmtRoom f = true →
    s1.loaderServes f = true →
    1 ≤ s1.fg OSEC_RATE_PER_S → nth s1.sec.served f.port.val [] = [] → s1.sec.replies = [] → s1.secBusy = false → s1.objCheck o = none →
    s1.passes f.port.val = true →
    Runs (.object f o) s fun t => t.sec.acc = s1.sec.acc ++ [o] ∧
      t.outs = s1.outs ++ [.sessrep (s1.upHdr 10 f.tenant.val false 0 6) f.port.val f.tenant.val 0x0D00 0 [2, 0, 0x0D, 0, 0, 0]]) ∧
  (∀ (s s1 : State) (f : Frame) (o : Obj) (c : Rc), s.begin_.rxDown f 9 = (s1, true) → s1.ownId = some f.first → mgmtRoom f = true →
    s1.loaderServes f = true →
    1 ≤ s1.fg OSEC_RATE_PER_S → nth s1.sec.served f.port.val [] = [] → s1.sec.replies = [] → s1.secBusy = false → s1.objCheck o = some c →
    s1.passes f.port.val = true →
    Runs (.object f o) s fun t => t.sec.acc = s1.sec.acc ∧ t.sec.store = s1.sec.store ∧ t.outs = s1.outs ++
      [.sessrep (s1.upHdr 10 f.tenant.val false 0 6) f.port.val f.tenant.val c.code c.detail
        ([2, 0, c.code / 256, c.code % 256] ++ be 2 c.detail)]) ∧
  (∀ (s s1 : State) (a : Access) (v : Word) (ob : Obj) (p o : Nat) (w : Who) (g : Reg),
    accepted s.begin_ a (regAddr pgOSEC OSEC_CMD.off) (bitsOf v.toNat 27 16 * 2 ^ 16 + 1) = some (s1, w, p, o, g) →
    24 ≤ bitsOf v.toNat 27 16 → bitsOf v.toNat 27 16 ≤ 2048 → s1.secBusy = false → s1.objCheck ob = none →
    Runs (.submit a v ob) s fun t => t.sec.acc = s1.sec.acc ++ [ob] ∧ t.fg OSEC_RES_CODE = 0x0D00 ∧ t.outs = doneOuts) ∧
  (∀ (s : State) (o : Obj) (pub : Nat), s.sec.acc = [o] → o.body = .voucher pub → s.owned = false →
    Runs .voucher s fun t => t.sec.acc = [] ∧ t.sec.store = { s.sec.store with owned := true, owner := pub, octr := 0 } ∧
      t.fg OSEC_LC_LC = 2) ∧
  (∀ (s : State) (o : Obj) (next : Nat), s.sec.acc = [o] → o.body = .transfer next → next ≠ 0 →
    Runs .transfer s fun t => t.sec.acc = [] ∧ t.sec.transfer = some next ∧ t.sec.store = s.sec.store ∧ t.keys = s.keys ∧
      State.pagesBut [pgOSEC] s t) ∧
  (∀ (s : State) (o : Obj), s.sec.acc = [o] → o.body = .transfer 0 →
    Runs .transfer s fun t => t.sec.acc = [] ∧ t.sec.store.owned = false ∧ t.sec.store.owner = 0 ∧ t.sec.transfer = none ∧
      t.tst 0 = tEMPTY ∧ t.fg OSEC_LC_LC = 1) ∧
  (∀ (s : State) (o : Obj) (role wp pub : Nat) (pw pr : List Word), s.sec.acc = [o] → o.body = .enrol role wp pw pr pub →
    Runs .enrol s fun t => t.sec.acc = [] ∧ t.sec.store = { s.sec.store with
      recs := modAt s.sec.store.recs o.slot.val (fun _ => some ⟨role, wp, pw.map (·.toNat), pr.map (·.toNat), pub⟩) } ∧
      t.tst o.slot.val = tENROLLED ∧ roleR t.regs o.slot.val = role % 8) ∧
  (∀ (s : State) (o : Obj), s.sec.acc = [o] → o.body = .unenrol →
    Runs .unenrol s fun t => t.sec.acc = [] ∧ t.tst o.slot.val = tEMPTY ∧
      t.sec.store = { s.sec.store with recs := modAt s.sec.store.recs o.slot.val (fun _ => none) }) ∧
  (∀ (s : State) (o : Obj) (kind gen act key : Nat), s.sec.acc = [o] → o.body = .keywrap kind gen act key →
    s.tst o.slot.val ≠ tEMPTY → (s.chainKey o.slot.val kind).cur = none → o.slot.val < s.keys.length →
    kind < (s.slotKeys o.slot.val).kinds.length →
    Runs .keywrap s fun t => t.sec = { s.sec with acc := [] } ∧ t.chainKey o.slot.val kind = ⟨some (gen, key), none⟩) ∧
  (∀ (s : State) (o : Obj) (chal : List Word) (scope : Word), s.sec.acc = [o] → o.body = .debug chal scope → scope.toNat < 32 →
    Runs .debug s fun t => t.sec.acc = [] ∧ t.fg OSEC_LC_DEBUGGED = 1 ∧
      t.fg DBG_SCOPE_SCOPE = Nat.lor (s.fg DBG_SCOPE_SCOPE) scope.toNat ∧ (bit scope.toNat 3 = true → t.sec.storeLock = true)) ∧
  (∀ (s : State) (o : Obj) (flags : Word) (m : List Nat), s.sec.acc = [o] → o.body = .policy flags m →
    Runs .policy s fun t => t.sec.acc = [] ∧ t.sec.store = { s.sec.store with
      flags := flags.toNat % 4, minsvn := (List.range 64).map fun k => nth m k 0 % 256 }) ∧
  (∀ (s : State) (o : Obj) (b : List Nat), s.sec.acc = [o] → o.body = .otpcfg b →
    Runs .otpcfg s fun t => t.sec.acc = [] ∧ t.sec.cfgs = s.sec.cfgs ++ [some b] ∧ t.sec.store = s.sec.store) ∧
  (∀ (s s1 : State) (a : Access) (p o : Nat) (w : Who) (g : Reg),
    accepted s.begin_ a (regAddr pgOSEC OSEC_CMD.off) 2 = some (s1, w, p, o, g) → w.isT0 = true → s1.secBusy = false →
    Runs (.dbgchal a) s fun t => t.fg OSEC_STAT_CHAL = 1 ∧ t.sec = { s1.sec with chalEnd := s.now + 300 * Config.sec } ∧
      t.fg OSEC_RES_CODE = 0x0D00 ∧ State.pagesBut [pgOSEC] s1 t ∧ t.outs = doneOuts) ∧
  (∀ (s s1 : State) (a : Access) (p o : Nat) (w : Who) (g : Reg),
    accepted s.begin_ a (regAddr pgOSEC OSEC_CMD.off) 3 = some (s1, w, p, o, g) → w.isT0 = true → s1.secBusy = false → s1.nvOk = true →
    Runs (.raise a) s fun t => t.fg OSEC_RES_CODE = 0x0D00 ∧ t.sec.store = s1.sec.store ∧ State.pagesBut [pgOSEC] s1 t ∧
      t.outs = doneOuts) ∧
  (∀ s : State, s.fg OSEC_STAT_CHAL = 1 →
    Runs .challengeExpire s fun t => t.fg OSEC_STAT_CHAL = 0 ∧ t.now = max s.now s.sec.chalEnd ∧ t.sec = s.sec ∧
      State.regsBut [(pgOSEC, OSEC_STAT_CHAL.off)] s t)

/-- An accepted write of UPD_CMD whose operation nothing refuses leaves result 0 and has its effect: BEGIN receives a new update, ABORT
ends one and withdraws its activation, ARM starts arming, DISARM returns to COMPLETE, ACTIVATE by either method and APPLYCFG wait for
their trigger, CANCEL withdraws what waits. A refused one shows its code in UPD_RES and leaves the update as it is; a bundle that fails
R334 is marked BAD. (Refusals with the write accepted are the model's reading, log entry 48.) -/
def Obligations.UpdateCommands : Prop :=
  (∀ (s s1 : State) (a : Access) (p o : Nat) (w : Who) (g : Reg),
    accepted s.begin_ a (regAddr pgUPD UPD_CMD.off) 1 = some (s1, w, p, o, g) → s1.beginFail = none →
    Runs (.begin a) s fun t => t.updState = 1 ∧ t.upd.kind = s1.fg UPD_BEGIN_KIND ∧ t.upd.upid = s1.fg UPD_ID_UPID ∧
      t.upd.len = s1.fg UPD_LEN_BYTES ∧ t.upd.got = [] ∧ t.upd.queue = [] ∧ t.fg UPD_RCVD_DONE = 0 ∧ t.fg UPD_RES_CODE = 0 ∧
      State.pagesBut [pgUPD, pgSLOT] s1 t ∧ t.outs = doneOuts) ∧
  (∀ (s s1 : State) (a : Access) (p o : Nat) (w : Who) (g : Reg) (c : Rc),
    accepted s.begin_ a (regAddr pgUPD UPD_CMD.off) 1 = some (s1, w, p, o, g) → s1.beginFail = some c →
    Runs (.begin a) s fun t => t.fg UPD_RES_CODE = c.code ∧ t.upd = s1.upd ∧ t.updState = s1.updState ∧
      State.pagesBut [pgUPD] s1 t ∧ t.outs = doneOuts) ∧
  (∀ (s s1 : State) (a : Access) (p o : Nat) (w : Who) (g : Reg),
    accepted s.begin_ a (regAddr pgUPD UPD_CMD.off) 2 = some (s1, w, p, o, g) → s1.loader = false → 1 ≤ s1.updState →
    s1.updState ≤ 4 →
    Runs (.updAbort a) s fun t => t.updState = 0 ∧ t.upd.queue = [] ∧ t.upd.pend = s1.upd.pend.filter (fun x => x.cfg) ∧
      t.fg UPD_STAT_COMP = 0 ∧ t.fg UPD_RES_CODE = 0 ∧ (s1.nvOk = true → t.upd.jrec = none) ∧ State.pagesBut [pgUPD, pgSLOT] s1 t) ∧
  (∀ (s s1 : State) (a : Access) (p o : Nat) (w : Who) (g : Reg),
    accepted s.begin_ a (regAddr pgUPD UPD_CMD.off) 3 = some (s1, w, p, o, g) → s1.updState = 2 → (s1.upd.kind = 0 ∨ s1.upd.kind = 3) →
    Runs (.arm a) s fun t => t.updState = 3 ∧ t.upd = s1.upd ∧ t.fg UPD_RES_CODE = 0 ∧ State.pagesBut [pgUPD] s1 t ∧
      t.outs = doneOuts) ∧
  (∀ (s s1 : State) (a : Access) (p o : Nat) (w : Who) (g : Reg),
    accepted s.begin_ a (regAddr pgUPD UPD_CMD.off) 3 = some (s1, w, p, o, g) → s1.updState ≠ 2 →
    Runs (.arm a) s fun t => t.updState = s1.updState ∧ t.upd = s1.upd ∧ t.fg UPD_RES_CODE = 0x2E11 ∧
      State.pagesBut [pgUPD] s1 t ∧ t.outs = doneOuts) ∧
  (∀ (s s1 : State) (a : Access) (p o : Nat) (w : Who) (g : Reg),
    accepted s.begin_ a (regAddr pgUPD UPD_CMD.off) 4 = some (s1, w, p, o, g) → s1.loader = false → 3 ≤ s1.updState →
    s1.updState ≤ 4 →
    Runs (.disarm a) s fun t => t.updState = 2 ∧ t.upd.pend = s1.upd.pend.filter (fun x => x.cfg) ∧ t.fg UPD_STAT_COMP = 0 ∧
      t.fg UPD_RES_CODE = 0 ∧ t.upd.queue = s1.upd.queue ∧ State.pagesBut [pgUPD, pgSLOT] s1 t) ∧
  (∀ (s s1 : State) (a : Access) (trig : Fin 4) (p o : Nat) (w : Who) (g : Reg),
    accepted s.begin_ a (regAddr pgUPD UPD_CMD.off) (trig.val * 256 + 5) = some (s1, w, p, o, g) → s1.loader = false →
    s1.updState = 4 → s1.pendAct = none → s1.trigRefused (if trig = 1 then some (s1.fg UPD_TDCN_DCN) else none) = none →
    Runs (.activatePause a trig) s fun t => t.upd = { s1.upd with pend := s1.upd.pend ++
        [⟨false, false, if trig = 1 then some (s1.fg UPD_TDCN_DCN) else none, s1.upd.kind, s1.upd.target⟩] } ∧
      t.fg UPD_STAT_PEND = 1 ∧ t.updState = 4 ∧ t.fg UPD_RES_CODE = 0 ∧ State.pagesBut [pgUPD] s1 t ∧ t.outs = doneOuts) ∧
  (∀ (s s1 : State) (a : Access) (p o : Nat) (w : Who) (g : Reg),
    accepted s.begin_ a (regAddr pgUPD UPD_CMD.off) (1 * 256 + 5) = some (s1, w, p, o, g) → s1.loader = false → s1.updState = 4 →
    s1.pendAct = none → s1.trigPassed (s1.fg UPD_TDCN_DCN) = true →
    Runs (.activatePause a 1) s fun t => t.upd = s1.upd ∧ t.fg UPD_RES_CODE = 0x6E01 ∧ State.pagesBut [pgUPD] s1 t) ∧
  (∀ (s s1 : State) (a : Access) (trig : Fin 4) (p o : Nat) (w : Who) (g : Reg),
    accepted s.begin_ a (regAddr pgUPD UPD_CMD.off) (trig.val * 256 + 0x15) = some (s1, w, p, o, g) → s1.loader = false →
    s1.updState = 4 → s1.pendAct = none → s1.handoverFail (if trig = 1 then some (s1.fg UPD_TDCN_DCN) else none) = none →
    s1.trigRefused (if trig = 1 then some (s1.fg UPD_TDCN_DCN) else none) = none →
    Runs (.activateHandover a trig) s fun t => t.upd = { s1.upd with pend := s1.upd.pend ++
        [⟨false, true, if trig = 1 then some (s1.fg UPD_TDCN_DCN) else none, s1.upd.kind, s1.upd.target⟩] } ∧
      t.fg UPD_STAT_PEND = 1 ∧ t.updState = 4 ∧ t.fg UPD_RES_CODE = 0 ∧ State.pagesBut [pgUPD] s1 t ∧ t.outs = doneOuts) ∧
  (∀ (s s1 : State) (a : Access) (p o : Nat) (w : Who) (g : Reg),
    accepted s.begin_ a (regAddr pgUPD UPD_CMD.off) 0x15 = some (s1, w, p, o, g) → s1.loader = false → s1.updState = 4 →
    s1.pendAct = none → s1.fg UPD_CFG_HOENROL = 0 →
    Runs (.activateHandover a 0) s fun t => t.upd = s1.upd ∧ t.fg UPD_RES_CODE = 0x2E12 ∧ t.fg UPD_RES_DETAIL = 1 ∧
      State.pagesBut [pgUPD] s1 t) ∧
  (∀ (s s1 : State) (a : Access) (trig : Fin 4) (b : BundleRead) (p o : Nat) (w : Who) (g : Reg),
    accepted s.begin_ a (regAddr pgUPD UPD_CMD.off) (trig.val * 256 + 6) = some (s1, w, p, o, g) → s1.loader = false →
    s1.updState = 2 → (s1.upd.kind = 1 ∨ s1.upd.kind = 2) → (s1.upd.pend.any fun x => x.cfg) = false → s1.bundleFail b = none →
    s1.clipsOver b = none → s1.trigRefused (if trig = 1 then some (s1.fg UPD_TDCN_DCN) else none) = none →
    Runs (.applycfg a trig b) s fun t => t.upd = { s1.upd with
        bundle := some b, pend := s1.upd.pend ++
          [⟨true, false, if trig = 1 then some (s1.fg UPD_TDCN_DCN) else none, s1.upd.kind, s1.upd.target⟩] } ∧
      t.fg UPD_STAT_PEND = 1 ∧ t.updState = 2 ∧ t.fg UPD_RES_CODE = 0 ∧ State.pagesBut [pgUPD] s1 t ∧ t.outs = doneOuts) ∧
  (∀ (s s1 : State) (a : Access) (b : BundleRead) (p o : Nat) (w : Who) (g : Reg) (c : Rc),
    accepted s.begin_ a (regAddr pgUPD UPD_CMD.off) 6 = some (s1, w, p, o, g) → s1.loader = false → s1.updState = 2 →
    s1.upd.kind = 1 → s1.upd.target < 2 → (s1.upd.pend.any fun x => x.cfg) = false → s1.bundleFail b = some c →
    Runs (.applycfg a 0 b) s fun t => t.upd = s1.upd ∧ t.fg UPD_RES_CODE = c.code ∧ t.fgk SLOT_BND_STATE 0 s1.upd.target = 4 ∧
      State.pagesBut [pgUPD, pgSLOT] s1 t) ∧
  (∀ (s s1 : State) (a : Access) (p o : Nat) (w : Who) (g : Reg),
    accepted s.begin_ a (regAddr pgUPD UPD_CMD.off) 7 = some (s1, w, p, o, g) → s1.loader = false → s1.upd.pend ≠ [] →
    Runs (.updCancel a) s fun t => t.upd = { s1.upd with pend := [] } ∧ t.fg UPD_STAT_PEND = 0 ∧ t.updState = s1.updState ∧
      t.fg UPD_RES_CODE = 0 ∧ State.pagesBut [pgUPD] s1 t ∧ t.outs = doneOuts)

/-- A programmed piece has its bit, and the last makes the update COMPLETE; the journal's timer writes a record. Arming ends ARMED, with
the slot BAD, or goes on with the companions. At the trigger a pause activation stops the management pair under a boot record that names
the new slot, a handover begins with PIXA, and neither is performed where flash writing is not permitted; a completed one runs the new
slot, a bad hash returns to the previous one; the stages of a handover follow each other. A companion whose port is free is polled; one
that answers moves on, one in error ends arming; the last commit clears PENDCOMP. A bundle's trigger starts its loading, its end puts its
T-set into DRAM (R157). Boot takes the slot of the record, then the other, and enters RECOVERY after two double failures. (What failures
leave, and sections loaded together: log entries 49 and 50.) -/
def Obligations.UpdateProgress : Prop :=
  (∀ (s : State) (p : Piece) (rest : List Piece), s.upd.queue = p :: rest →
    (2 ≤ s.upd.kind ∨ s.upd.prog = true ∨ s.nvOk = true) →
    Runs .pieceProgrammed s fun t => t.upd.queue = rest ∧ t.upd.got = cput s.upd.got p.index true false ∧ t.upd.upid = s.upd.upid ∧
      cget t.upd.got p.index false = true ∧ State.pagesBut [pgUPD, pgSLOT] s t ∧ t.updState =
        (if State.piecesOf s.upd.len ≤ (cput s.upd.got p.index true false).length then 2 else s.updState)) ∧
  (∀ (s : State) (t0 : Nat), s.upd.unjAt = some t0 → s.upd.kind ≤ 1 → s.nvOk = true → s.updState ≠ 0 →
    Runs .pieceJournalTimer s fun t => t.now = max s.now (t0 + 10 * Config.sec) ∧ t.regs = s.regs ∧ t.upd = { s.upd with
      jrec := some ⟨s.upd.upid, s.upd.kind, s.upd.len, s.upd.got⟩, unj := 0, unjAt := none }) ∧
  (∀ (s : State) (r : ImgRead), s.updState = 3 → s.upd.comp = none → s.begin_.verifyFail r = none → State.companions r.man = [] →
    s.upd.kind = 0 → s.upd.target < 2 →
    Runs (.armComplete r) s fun t => t.updState = 4 ∧ t.fgk SLOT_INFO_STATE 0 s.upd.target = 3 ∧
      t.upd = { s.upd with slots := modAt s.upd.slots s.upd.target fun _ => some r.man } ∧ State.pagesBut [pgUPD, pgSLOT] s t) ∧
  (∀ (s : State) (r : ImgRead) (c : Rc), s.updState = 3 → s.upd.comp = none → s.begin_.verifyFail r = some c → s.upd.kind = 0 →
    s.upd.target < 2 →
    Runs (.armComplete r) s fun t => t.updState = 0 ∧ t.fgk SLOT_INFO_STATE 0 s.upd.target = 6 ∧ t.fg UPD_RES_CODE = c.code ∧
      t.upd = s.upd ∧ State.pagesBut [pgUPD, pgSLOT] s t) ∧
  (∀ (s : State) (r : ImgRead) (c : Nat) (cs : List Nat), s.updState = 3 → s.upd.comp = none → s.begin_.verifyFail r = none →
    State.companions r.man = c :: cs →
    Runs (.armComplete r) s fun t => t.updState = 3 ∧ (∃ h, t.upd.comp = some ⟨0, c :: cs, 1, 0, s.now, s.now, 0, h⟩) ∧
      State.pagesBut [pgSLOT] s t) ∧
  (∀ (s : State) (a : Act), s.begin_.pendAct = some a → State.actDue a (add32 s.begin_.dcn 1) = true → s.updState = 4 →
    s.nvOk = true → a.handover = false →
    Runs .activation s fun t => t.updState = 5 ∧ t.upd.stage = 0 ∧ t.upd.actAt = s.now ∧ t.upd.prev = s.runSlot ∧ t.fab.access = false ∧
      t.upd.pend = s.upd.pend.filter (fun x => x.cfg) ∧ t.fg PIX_HALF_A = 3 ∧ t.fg PIX_HALF_B = 3 ∧ t.pix.jobs = [] ∧
      (t.upd.brec.map fun b => (b.active, b.fbvalid)) = some (s.upd.target, true)) ∧
  (∀ (s : State) (a : Act), s.begin_.pendAct = some a → State.actDue a (add32 s.begin_.dcn 1) = true → s.updState = 4 →
    s.nvOk = true → a.handover = true →
    Runs .activation s fun t => t.updState = 5 ∧ t.upd.stage = 1 ∧ t.upd.actAt = s.now ∧ t.fab = s.fab ∧ t.fg PIX_HALF_A = 3 ∧
      t.upd.pend = s.upd.pend.filter (fun x => x.cfg) ∧
      (t.upd.brec.map fun b => (b.active, b.fbvalid)) = some (s.upd.target, true)) ∧
  (∀ (s : State) (a : Act), s.begin_.pendAct = some a → State.actDue a (add32 s.begin_.dcn 1) = true → s.updState = 4 →
    s.nvOk = false →
    Runs .activation s fun t => t.updState = 4 ∧ t.upd = { s.upd with pend := s.upd.pend.filter fun x => x.cfg } ∧
      t.fab.access = s.fab.access ∧ State.pagesBut [pgUPD] s t) ∧
  (∀ s : State, s.actPaused = true → s.upd.comp = none → s.upd.target < 2 → s.upd.prev < 2 → s.pow.trimDone = true →
    Runs (.activationComplete none) s fun t => t.updState = 0 ∧ t.fg SLOT_BOOT_RUN = s.upd.target ∧ t.fab.access = true ∧
      t.fg SPIB_XBASE_BASE = (if s.upd.target = 0 then 0x0010 else 0x00D0) ∧ t.upd.brec = s.upd.brec) ∧
  (∀ (s : State) (i : Nat), s.actPaused = true → s.upd.comp = none → s.upd.target < 2 → s.pow.trimDone = true →
    Runs (.activationComplete (some i)) s fun t => t.updState = 0 ∧ t.fg SLOT_BOOT_RUN = s.fg SLOT_BOOT_RUN ∧ t.fab.access = true ∧
      t.fgk SLOT_INFO_STATE 0 s.upd.target = 6 ∧ (t.upd.brec.map fun b => b.active) = some s.upd.prev) ∧
  (∀ s : State, 1 ≤ s.upd.stage → s.upd.stage ≤ 5 →
    Runs .handoverStage s fun t => t.upd.stage = s.upd.stage + 1 ∧ t.updState = s.updState ∧ t.upd.brec = s.upd.brec ∧
      (s.upd.stage = 2 → t.fg PIX_HALF_B = 3) ∧ (s.upd.stage = 4 → t.fab.access = false) ∧ (s.upd.stage = 5 → t.fab.access = true)) ∧
  (∀ s : State, s.upd.stage = 6 → s.upd.target < 2 → s.upd.prev < 2 →
    Runs .handoverStage s fun t => t.upd.stage = 0 ∧ t.updState = 0 ∧ t.fg SLOT_BOOT_RUN = s.upd.target) ∧
  (∀ (s : State) (x : CompSt) (c : Nat) (cs : List Nat), s.upd.comp = some x → x.todo = c :: cs → x.cmd ≤ 2 →
    x.held = false → s.compFree c = true → max s.now (x.pollAt + 10 * Config.ms) - x.sentAt ≤ Config.sec →
    Runs (.companionStatusPoll none) s fun t => t.now = max s.now (x.pollAt + 10 * Config.ms) ∧ t.regs = s.regs ∧
      t.upd = { s.upd with comp := some { x with pollAt := max s.now (x.pollAt + 10 * Config.ms) } }) ∧
  (∀ (s : State) (x : CompSt) (c : Nat) (cs : List Nat), s.upd.comp = some x → x.todo = c :: cs → x.purpose = 0 → c < 4 →
    x.held = false → s.compFree c = true →
    Runs (.companionStatusPoll (some (0xFF, 0))) s fun t => t.upd.comp = none ∧ t.updState = 2 ∧ t.fg UPD_RES_CODE = 0x7E10 ∧
      t.fg UPD_RES_DETAIL = c) ∧
  (∀ (s : State) (x : CompSt) (c : Nat), s.upd.comp = some x → x.todo = [c] → x.purpose = 1 → x.cmd = 4 →
    x.held = false → s.compFree c = true →
    Runs (.companionStatusPoll (some (4, 0))) s fun t => t.upd.comp = none ∧ (t.upd.brec.map fun b => b.pendcomp) = some false ∧
      t.updState = s.updState) ∧
  (∀ (s : State) (a : Act) (b : BundleRead), s.upd.pend = [a] → a.cfg = true → a.kind = 2 →
    State.actDue a (add32 s.begin_.dcn 1) = true → s.upd.bundle = some b →
    Runs .bundleApply s fun t => t.upd.pend = [] ∧ t.upd.loading = some b ∧ t.upd.areas = modAt s.upd.areas 2 (fun _ => some b) ∧
      t.upd.brec = s.upd.brec ∧ t.sec.cfgHash = b.hash) ∧
  (∀ (s : State) (a : Act) (b : BundleRead), s.upd.pend = [a] → a.cfg = true → a.kind = 1 → a.target < 2 → s.nvOk = true →
    State.actDue a (add32 s.begin_.dcn 1) = true → s.upd.bundle = some b →
    Runs .bundleApply s fun t => t.upd.pend = [] ∧ t.upd.loading = some b ∧ t.fgk SLOT_BND_STATE 0 a.target = 3 ∧
      (t.upd.brec.map fun r => (r.bundle, r.bid)) = some (a.target + 1, b.bid)) ∧
  (∀ (s : State) (b : BundleRead) (k lamps : Nat) (ents : List Nat), s.upd.loading = some b → b.sections = [.tset k lamps ents] → k < 4 →
    ents.length ≤ 0x3_0000 →
    Runs .bundleLoaded s fun t => t.upd = { s.upd with loading := none } ∧
      (∀ i < ents.length, t.wordAt (State.setWord k i) = (Coef.ofWord (nth ents i 0)).toWord) ∧
      t.fgk CORR_TS_A_LOADED 0 k = 1 ∧ t.fgk CORR_TS_A_LAMPS 0 k = lamps % 2 ^ 18 ∧ t.fgk CORR_TS_ID_ID 0 k = b.bid % 2 ^ 32 ∧
      t.updState = (if s.updState = 6 then 0 else s.updState)) ∧
  (∀ (s : State) (b : BundleRead), s.fg SLOT_BOOT_BUNDLE ≠ 0 → s.pow.trimDone = true → s.upd.loading = none →
    nth s.upd.areas (s.fg SLOT_BOOT_BUNDLE - 1) none = none → s.begin_.bundleFail b = none →
    Runs (.bundleReload b) s fun t => t.upd = { s.upd with
      areas := modAt s.upd.areas (s.fg SLOT_BOOT_BUNDLE - 1) fun _ => some b, loading := some b, announce := false } ∧ t.sec.cfgHash = b.hash) ∧
  (∀ (s : State) (b : BundleRead) (c : Rc), 1 ≤ s.fg SLOT_BOOT_BUNDLE → s.fg SLOT_BOOT_BUNDLE ≤ 2 → s.pow.trimDone = true →
    s.upd.loading = none → nth s.upd.areas (s.fg SLOT_BOOT_BUNDLE - 1) none = none → s.begin_.bundleFail b = some c →
    Runs (.bundleReload b) s fun t => t.upd = s.upd ∧ t.fgk SLOT_BND_STATE 0 (s.fg SLOT_BOOT_BUNDLE - 1) = 4 ∧
      State.pagesBut [pgUPD, pgSLOT] s t) ∧
  (∀ (s : State) (x y : ImgRead) (b : BootRec), s.pow.trimDone = false → s.mode = .trim → s.pow.booted = false → s.loader = false →
    s.strap 1 0 = 0 → s.upd.brec = some b → b.active = 0 → b.pendcomp = false → s.begin_.verifyFail x = none →
    Runs (.boot x y) s fun t => t.pow.booted = true ∧ t.fg SLOT_BOOT_RUN = 0 ∧
      t.upd.slots = modAt s.upd.slots 0 (fun _ => some x.man) ∧ t.upd.brec = s.upd.brec ∧ t.mode = .trim ∧ t.fg SPIB_XBASE_BASE = 0x0010) ∧
  (∀ (s : State) (x y : ImgRead) (b : BootRec) (c : Rc), s.pow.trimDone = false → s.mode = .trim → s.pow.booted = false →
    s.loader = false → s.strap 1 0 = 0 → s.upd.brec = some b → b.active = 0 → b.fbvalid = true → s.begin_.verifyFail x = some c →
    s.begin_.verifyFail y = none →
    Runs (.boot x y) s fun t => t.pow.booted = true ∧ t.fg SLOT_BOOT_RUN = 1 ∧ t.upd.brec = some b ∧ t.fg SLOT_FAIL_SLOT = 0 ∧
      t.fg SLOT_FAIL_CODE = c.code) ∧
  (∀ (s : State) (x y : ImgRead) (b : BootRec) (c : Rc), s.pow.trimDone = false → s.mode = .trim → s.pow.booted = false →
    s.loader = false → s.strap 1 0 = 0 → s.upd.brec = some b → b.fbvalid = false → b.active = 0 → s.begin_.verifyFail x = some c →
    1 ≤ s.pow.bootFails →
    Runs (.boot x y) s fun t => t.mode = .recovery ∧ t.fg SLOT_BOOT_RUN = 3 ∧ t.fg SLOT_FAIL_DBL = 2) ∧
  (∀ (s : State) (x y : ImgRead), s.pow.trimDone = false → s.mode = .trim → s.pow.booted = false → s.loader = false → s.strap 1 0 = 3 →
    Runs (.boot x y) s fun t => t.mode = .recovery ∧ t.fg SLOT_BOOT_RUN = 3)

/-- A direct write, on any path that is admitted and with every right to the register, to a staged field of an enabled page that no
pending firkin touches is refused with 0x6x05; one to a block register or to PG_CTRL of a page that a pending firkin touches is refused
with 0x6x02, x being the page's block digit. The refused write stores nothing: beside the requester's SYS_WRERR and, for a refused RESET,
PG_REASON, every register is as before. -/
def Obligations.StagedFieldsAndPendingPages : Prop :=
  (∀ (s s1 : State) (a : Access) (page off p o : Nat) (data : Word) (env : Env) (w : Who) (g : Reg), page < 256 → off < 4096 →
    grantAccess s.begin_ a (regAddr page off) = .ok (s1, w) →
    writeTarget s1.regs w (regAddr page off) data.toNat (2 ^ 32 - 1) = .ok (p, o, g) → enabledR s1.regs page = true → 0x40 ≤ off →
    (g.flds.any fun f => (f.cls == .staged || f.cls == .cycle) && f.writable && decide (0 < f.mask)) = true →
    (s1.fab.fks.any fun f => f.st == .pending && f.writes.any fun x => x.page == page) = false →
    Runs (.registerWrite a (regAddr page off) data env) s fun t => (∃ d, t.outs = [.res ⟨pageCode 6 page 5, d⟩ []]) ∧
      State.regsBut [(pgSYS, SYS_WRERR.off)] s1 t ∧ t.fab = s1.fab) ∧
  (∀ (s s1 : State) (a : Access) (page off p o : Nat) (data : Word) (env : Env) (w : Who) (g : Reg), page < 256 → off < 4096 →
    grantAccess s.begin_ a (regAddr page off) = .ok (s1, w) →
    writeTarget s1.regs w (regAddr page off) data.toNat (2 ^ 32 - 1) = .ok (p, o, g) → (0x40 ≤ off ∨ off = 0x008) →
    (s1.fab.fks.any fun f => f.st == .pending && f.writes.any fun x => x.page == page) = true →
    Runs (.registerWrite a (regAddr page off) data env) s fun t => (∃ d, t.outs = [.res ⟨pageCode 6 page 2, d⟩ []]) ∧
      State.regsBut [(pgSYS, SYS_WRERR.off), (page, 0x010)] s1 t ∧ t.fab = s1.fab)

/-- During a handover (at any of its stages), each of the three events that reset the management pair, an accepted RST_CMD, the expiry of
the watchdog and a lockstep mismatch, ends it: no stage is left, a pause activation is under way from that instant with the whole array
stopped, and the boot record stands. A pause activation so begun completes with the new slot running and register access restored. -/
def Obligations.HandoverBroken : Prop :=
  (∀ (s s1 : State) (a : Access) (p o : Nat) (w : Who) (g : Reg),
    accepted s.begin_ a (regAddr pgRST RST_CMD.off) 0x7A5E0002 = some (s1, w, p, o, g) → s1.updState = 5 → 1 ≤ s1.upd.stage →
    Runs (.managementPairReset a) s fun t => t.actPaused = true ∧ t.upd = { s1.upd with stage := 0, actAt := s1.now } ∧
      t.pix.jobs = [] ∧ t.fg PIX_HALF_A = 3 ∧ t.fg PIX_HALF_B = 3 ∧ t.fab.access = false) ∧
  (∀ s : State, s.updState = 5 → 1 ≤ s.upd.stage → s.fg RST_WDOG_TIMEOUT ≠ 0 → s.fab.access = true →
    Runs .watchdogExpire s fun t => t.actPaused = true ∧ t.upd = { s.upd with stage := 0, actAt := t.now } ∧ t.pix.jobs = [] ∧
      t.fg PIX_HALF_A = 3 ∧ t.fg PIX_HALF_B = 3 ∧ t.fab.access = false) ∧
  (∀ s : State, s.updState = 5 → 1 ≤ s.upd.stage → s.powered 2 = true → bit (s.fg DBG_STAT_HALTED) 0 = false →
    Runs .lockstepMismatch s fun t => t.actPaused = true ∧ t.upd = { s.upd with stage := 0, actAt := s.now } ∧ t.pix.jobs = [] ∧
      t.fg PIX_HALF_A = 3 ∧ t.fg PIX_HALF_B = 3 ∧ t.fab.access = false) ∧
  (∀ s : State, s.actPaused = true → s.upd.comp = none → s.upd.target < 2 → s.upd.prev < 2 → s.pow.trimDone = true →
    Runs (.activationComplete none) s fun t => t.actPaused = false ∧ t.fg SLOT_BOOT_RUN = s.upd.target ∧ t.fab.access = true)

/-- In DARK, while FLT_CAUSE reads 0, an accepted write of MODE_REQ SHOW or SERVICE waits for the mode boundary, and MODE_CHANGE then
enters that mode. An accepted write of 1 to fault bits of a page clears them, and a register write of any kind to PG_FAULT of any page
leaves the mode as it is. -/
def Obligations.LeavingDark : Prop :=
  (∀ (s s1 : State) (a : Access) (req p o : Nat) (w : Who) (g gc : Reg), (req = 3 ∨ req = 4) →
    accepted s.begin_ a (regAddr pgSYS SYS_MODE.off) req = some (s1, w, p, o, g) → s1.mode = .dark →
    s1.readNow w pgFAULT FLT_CAUSE.off gc = 0 →
    Runs (.modeRequest a req) s fun t => t.pow.req = some (req, w.bank) ∧ t.mode = .dark ∧ t.outs = doneOuts) ∧
  (∀ (s : State) (w : Who) (gc : Reg) (r b : Nat), s.mode = .dark → s.pow.req = some (r, b) → (r = 3 ∨ r = 4) →
    s.readNow w pgFAULT FLT_CAUSE.off gc = 0 →
    Runs .modeChange s fun t => t.mode = (if r = 4 then .show else .service) ∧ t.fg SYS_MODE_MODE_ACT = r) ∧
  (∀ (s s1 : State) (a : Access) (page p o : Nat) (data : Word) (env : Env) (w : Who) (g : Reg), page < 256 → pageHasUnit page = true →
    accepted s.begin_ a (regAddr page 0x014) data.toNat = some (s1, w, p, o, g) →
    Runs (.registerWrite a (regAddr page 0x014) data env) s fun t =>
      rget t.regs 0 page 0x014 = rget s1.regs 0 page 0x014 - Nat.land (rget s1.regs 0 page 0x014) data.toNat ∧ t.mode = s1.mode) ∧
  (∀ (s : State) (a : Access) (page : Nat) (data : Word) (env : Env), page < 256 →
    Runs (.registerWrite a (regAddr page 0x014) data env) s fun t => t.mode = s.mode)

/-- The bypass entry passes the linear input of its own colour through the correction unchanged, whatever the threshold; a job without
coefficients uses it for every lamp. A black input gives 0 under every entry, an entry with OFF gives 0, and no lamp value exceeds
0xFFFFFF. The threshold is 128 while dithering is off, below 256 always, and over 16 pixels of a row and 16 rows takes every value from 0
to 255. -/
def Obligations.CorrectionOfOneLamp : Prop :=
  (∀ (y : Nat × Nat × Nat) (th : Nat), y.1 ≤ 0xFFFFFF → y.2.1 ≤ 0xFFFFFF → y.2.2 ≤ 0xFFFFFF → th < 256 →
    correct (Coef.bypass 0) y th = y.1 ∧ correct (Coef.bypass 1) y th = y.2.1 ∧ correct (Coef.bypass 2) y th = y.2.2) ∧
  (∀ (j : JobIn) (l col : Nat), j.coef = none → j.coefOf l col = Coef.bypass col) ∧
  (∀ (c : Coef) (th : Nat), correct c (0, 0, 0) th = 0) ∧
  (∀ (c : Coef) (y : Nat × Nat × Nat) (th : Nat), c.off = true → correct c y th = 0) ∧
  (∀ (c : Coef) (y : Nat × Nat × Nat) (th : Nat), correct c y th ≤ 0xFFFFFF) ∧
  (∀ px py col d : Nat, ditherTh false px py col d = 128 ∧ ditherTh true px py col d < 256) ∧
  (∀ v col d : Nat, v < 256 → ∃ px py, px < 16 ∧ py < 16 ∧ ditherTh true px py col d = v)

/-- An event goes to the queue of the slot that owns its page, T0 where none does, and to no other. A full queue drops it and counts one
more lost, up to 0xFFFF; the next entry that finds space is marked OVF, the one after it is not. -/
def Obligations.EventsAndFullQueues : Prop :=
  (∀ (s : State) (page code detail kind unit : Nat) (x : Ten), s.tens[evOwner s.regs page]? = some x → x.evq.q.length < Config.evqLen →
    let t := s.ev page code detail kind unit
    t.tens = modAt s.tens (evOwner s.regs page) (fun y => { y with evq := { y.evq with
      q := y.evq.q ++ [⟨code, detail % 2 ^ 16, y.evq.ovf, kind, unit % 256, page, s.dcn, s.wallNs⟩], ovf := false,
      unsent := y.evq.unsent + 1 } })) ∧
  (∀ (s : State) (page code detail kind unit : Nat) (x : Ten), s.tens[evOwner s.regs page]? = some x → Config.evqLen ≤ x.evq.q.length →
    let t := s.ev page code detail kind unit
    t.tens = modAt s.tens (evOwner s.regs page) (fun y => { y with evq := { y.evq with
      lost := min (y.evq.lost + 1) 0xFFFF, ovf := true } })) ∧
  (∀ (s : State) (page code detail kind unit n : Nat), n ≠ evOwner s.regs page →
    (s.ev page code detail kind unit).tens[n]? = s.tens[n]?)

/-- A direct write by a tenant without the role or the page permission is refused with 0x5x01, the page's block digit x. A write to an
entry of the WIN page by a slot that is not the owner's and whose TEN_WINPERM lacks the window is refused with 0x5401; so is a binding of
a window to another slot's feed, whatever its TEN_WINPERM. The refused write stores nothing, and counts in the slot's window of refusals. -/
def Obligations.TenantPermissions : Prop :=
  (∀ (s s1 : State) (a : Access) (page off : Nat) (data : Word) (env : Env) (n : Fin 16) (g : Reg), page < 256 → off < 4096 →
    off % 4 = 0 → grantAccess s.begin_ a (regAddr page off) = .ok (s1, .ten n) → anyRegAt page off = some g → page / 16 ≠ 1 →
    mayWriteR s1.regs (.ten n) page = false →
    Runs (.registerWrite a (regAddr page off) data env) s fun t => t.outs = [.res ⟨pageCode 5 page 1, n.val⟩ []] ∧
      State.pagesBut [pgSYS, pgTEN + n.val] s1 t ∧ t.fab = s1.fab) ∧
  (∀ (s s1 : State) (a : Access) (k e : Nat) (data : Word) (env : Env) (n : Fin 16) (g : Reg), k < 16 → e < 8 →
    grantAccess s.begin_ a (regAddr pgWIN (0x100 + 32 * k + 4 * e)) = .ok (s1, .ten n) → anyRegAt pgWIN (0x100 + 32 * k + 4 * e) = some g →
    mayWriteR s1.regs (.ten n) pgWIN = true → roleR s1.regs n.val ≠ roleOwner → bit (s1.fgi TEN_WINPERM_WIN n.val) k = false →
    Runs (.registerWrite a (regAddr pgWIN (0x100 + 32 * k + 4 * e)) data env) s fun t => t.outs = [.res ⟨0x5401, n.val⟩ []] ∧
      State.pagesBut [pgSYS, pgTEN + n.val] s1 t ∧ t.fab = s1.fab) ∧
  (∀ (s s1 : State) (a : Access) (k : Nat) (data : Word) (env : Env) (n : Fin 16) (g : Reg), k < 16 → n ≠ 0 →
    grantAccess s.begin_ a (regAddr pgWIN (0x100 + 32 * k + 4)) = .ok (s1, .ten n) → anyRegAt pgWIN (0x100 + 32 * k + 4) = some g →
    mayWriteR s1.regs (.ten n) pgWIN = true → bitsOf data.toNat 1 0 = 1 → bitsOf data.toNat 7 4 ≠ n.val →
    Runs (.registerWrite a (regAddr pgWIN (0x100 + 32 * k + 4)) data env) s fun t => t.outs = [.res ⟨0x5401, n.val⟩ []] ∧
      State.pagesBut [pgSYS, pgTEN + n.val] s1 t ∧ t.fab = s1.fab)

/-- PORN and an accepted COLD_RESET leave no key in any slot; an UNENROL of a slot that is not EMPTY and a TRANSFER that releases
ownership leave none in the slots they concern; entry to SLEEP and a wake leave every key. -/
def Obligations.KeysErased : Prop :=
  (∀ (s : State) (x : Fin 4096), Runs (.porn x) s fun t => t.keys = State.reset.keys ∧ t.sec.wrap = State.reset.sec.wrap) ∧
  (∀ (s s1 : State) (a : Access) (p o : Nat) (w : Who) (g : Reg),
    accepted s.begin_ a (regAddr pgRST RST_CMD.off) 0x7A5E0001 = some (s1, w, p, o, g) →
    Runs (.coldReset a) s fun t => t.keys = State.reset.keys ∧ t.sec.wrap = State.reset.sec.wrap) ∧
  (∀ (s : State) (o : Obj), s.sec.acc = [o] → o.body = .unenrol → s.tst o.slot.val ≠ tEMPTY → o.slot.val < s.keys.length →
    Runs .unenrol s fun t => t.slotKeys o.slot.val = SlotKeys.empty ∧
      ∀ n : Nat, n ≠ o.slot.val → t.slotKeys n = s.slotKeys n) ∧
  (∀ (s : State) (o : Obj), s.sec.acc = [o] → o.body = .transfer 0 → s.tst 0 ≠ tEMPTY → s.keys.length = 16 →
    Runs .transfer s fun t => t.slotKeys 0 = SlotKeys.empty) ∧
  (∀ s : State, Runs .sleepEntry s fun t => t.keys = s.keys) ∧
  (∀ (s : State) (src : Fin 4), Runs (.wake src) s fun t => t.keys = s.keys)

/-- The checks of a commit end with the handle pending where they pass and FREE where they fail. The end of a lease frees what is OPEN or
FAILED. At its instant a pending firkin, with none beside it, is applied and its handle is FREE, whatever it writes; so is one whose
instant passes without a boundary. A waiting request for SLEEP ends register access, and an enabled source wakes. In TRIM, in this order,
the preset, the probe and the retention image are done, each with the registers as its automatic firkin leaves them where that is
accepted; TRIM ends. (Where FIRKIN_APPLY may stand is the model's choice, log entry 64.) -/
def Obligations.FirkinsSleepAndTrimComplete : Prop :=
  (∀ (s : State) (h : Nat) (f : Firkin), s.fk? h = some f → f.st = .checking →
    Runs (.commitChecksDone h) s fun t => (t.fk? h = none ↔ (s.begin_.commitVerdict f).err ≠ none) ∧
      ∀ y, t.fk? h = some y → y.st = .pending) ∧
  (∀ (s : State) (h : Nat) (f : Firkin), s.fk? h = some f → (f.st = .open_ ∨ f.st = .failed) →
    Runs (.firkinLeaseExpire h) s fun t => t.now = max s.now f.leaseEnd ∧
      ∀ y ∈ t.fab.fks, y.h = h → y.st ≠ .open_ ∧ y.st ≠ .failed) ∧
  (∀ (s : State) (h : Nat) (f : Firkin), s.fk? h = some f → f.st = .pending → (∀ y ∈ s.fab.fks, y.st = .pending → y = f) →
    (s.tim.running = false ∧ f.trig = .imm ∨
      s.tim.running = true ∧ s.atSpan = true ∧ s.fkDue f (if s.atCycle = true then [s.dcn] else []) = true) →
    Runs (.firkinApply h) s fun t => t.fk? h = none) ∧
  (∀ (s : State) (h : Nat) (f : Firkin), s.fk? h = some f → f.st = .pending → f.trig ≠ .imm → s.begin_.cycles = false →
    Runs (.firkinInstantPassed h) s fun t => ∀ y ∈ t.fab.fks, y.h ≠ h) ∧
  (∀ (s : State) (b : Nat), (s.mode = .show ∨ s.mode = .service ∨ s.mode = .dark) → s.pow.req = some (0, b) → s.pow.sleeping = false →
    Runs .sleepEntry s fun t => t.fab.access = false ∧ t.pow.req = none) ∧
  (∀ (s : State) (src : Fin 4), s.mode = .sleep → bit (s.reg pgPWRDOM PD_CFG.off) (4 + src.val) = true →
    Runs (.wake src) s fun t => t.mode = .trim ∧ t.fg PD_WAKESRC_SRC = src.val + 1) ∧
  (∀ (s : State) (r : Option (List (Nat × Nat × Word))), s.mode = .trim → s.pow.trimDone = false → s.presetDue = true →
    Runs (.preset r) s fun t => t.pow.presetDone = true ∧ t.presetDue = false) ∧
  (∀ (s s1 : State) (l : List (Nat × Nat × Word)), s.mode = .trim → s.pow.trimDone = false → s.presetDue = true →
    s.fg SLOT_BOOT_BUNDLE ≠ 0 → l ≠ [] → l.length ≤ 256 → (∀ x ∈ l, State.presetPage (State.presetWrite x).page = true) →
    (s.begin_.modPow fun p => { p with presetDone := true }).autoFirkin (l.map State.presetWrite) false = (s1, none) →
    Runs (.preset (some l)) s fun t => t.regs = s1.regs) ∧
  (∀ (s : State) (ack : BitVec 8), s.mode = .trim → s.pow.trimDone = false → s.presetDue = false → s.probeDue = true →
    Runs (.sensorProbe ack) s fun t => t.pow.probed = true ∧ t.probeDue = false) ∧
  (∀ (s s1 : State) (ack : BitVec 8) (ms : List Nat), s.mode = .trim → s.pow.trimDone = false → s.presetDue = false → s.probeDue = true →
    s.fg TWI_STAT_STUCK = 0 → ms = (List.range 8).filter (bit ack.toNat) → 3 ≤ ms.length →
    ((s.begin_.modPow fun p => { p with probed := true }).probeReads ack.toNat).autoFirkin
      (ms.zipIdx.flatMap fun x => State.probeWrites ms.length x.2 x.1) false = (s1, none) →
    Runs (.sensorProbe ack) s fun t => t.regs = s1.regs) ∧
  (∀ (s : State) (crcOk : Bool) (im : RetImage), s.mode = .trim → s.pow.trimDone = false → s.presetDue = false → s.probeDue = false →
    s.memReady = true → s.pow.image = some im →
    Runs (.retentionImage crcOk) s fun t => t.pow.image = none ∧ t.mode = .trim) ∧
  (∀ (s : State) (im : RetImage), s.mode = .trim → s.pow.trimDone = false → s.presetDue = false → s.probeDue = false →
    s.memReady = true → s.pow.image = some im → im.regs = [] →
    Runs (.retentionImage true) s fun t => t.pow.image = none ∧ ∀ n k : Nat, n < s.tens.length → k < 256 →
      k < (nth im.evqs n EvQ.empty).q.length →
      (nth (t.tens.map (·.evq.q)) n [])[k]? = (nth im.evqs n EvQ.empty).q[k]?) ∧
  (∀ (s : State) (freed : Bool), s.trimOver = true →
    Runs (.trimEnd freed) s fun t => t.mode ≠ .trim ∧ t.pow.trimDone = true ∧ t.fab.access = true)

/-- PORN starts TRIM with the straps taken. A powering domain is on at power good and off at its timeout; the switchable domains follow
PD_REQ. The warning level of VDD33 leads to DARK, the reset level to TRIM, and its return ends the low condition. A trip of a powered
stone's comparator is noted and the device is in shutdown; its clear ends the trip; the DARK entry that a shutdown leaves waiting is made.
A core halts and resumes; BYPASS, IDCODE, SAMPLE_PRELOAD and EXTEST put out what Table 17.11 names; a lockstep mismatch resets the
management pair. (PD_REQ once for each change, log entry 53; the TAP's registers, log entry 56.) -/
def Obligations.PowerAndDebugComplete : Prop :=
  (∀ (s : State) (x : Fin 4096), Runs (.porn x) s fun t => t.mode = .trim ∧ t.fg SYS_STRAP_CFG = x.val) ∧
  (∀ (s : State) (d : Fin 11), s.pow.powering.contains d.val = true →
    Runs (.domainPowerGood d) s fun t => t.powered d.val = true) ∧
  (∀ (s : State) (d : Fin 11), s.pow.powering.contains d.val = true →
    Runs (.pgoodTimeout d) s fun t => t.powered d.val = false) ∧
  (∀ s : State, (s.mode = .show ∨ s.mode = .service ∨ s.mode = .dark) →
    Runs .domainSwitch s fun t => t.pow.pdReq = s.reg pgPWRDOM PD_REQ.off) ∧
  (∀ s : State, (s.mode = .show ∨ s.mode = .service) →
    Runs .brownoutWarning s fun t => t.mode = .dark ∧ t.pow.vddLow = true) ∧
  (∀ s : State, Runs .brownoutReset s fun t => t.mode = .trim ∧ t.fg RST_CAUSE_CAUSE = 2) ∧
  (∀ s : State, Runs .vdd33Return s fun t => t.pow.vddLow = false) ∧
  (∀ (s : State) (k : Fin 16), s.powered (State.stoneDomain k.val) = true →
    Runs (.overTemperatureTrip (some k)) s fun t => k.val ∈ t.pow.tripped ∧ t.pow.shut = true) ∧
  (∀ (s : State) (k : Fin 16), Runs (.overTemperatureClear k) s fun t => k.val ∉ t.pow.tripped) ∧
  (∀ (s : State) (d : Nat), (s.mode = .show ∨ s.mode = .service) → s.pow.shutWait = some d → s.nvWriting = false →
    Runs .shutdownDark s fun t => t.mode = .dark) ∧
  (∀ (s s1 : State) (a : Access) (k : Fin 5) (p o : Nat) (w : Who) (g : Reg),
    accepted s.begin_ a (regAddr pgDBG DBG_HALT.off) (putBits (s.fg DBG_HALT_HALT) k.val k.val 1) = some (s1, w, p, o, g) →
    bit (s.fg DBG_STAT_HALTED) k.val = false → bit (s.fg DBG_SCOPE_SCOPE) k.val = true →
    Runs (.halt a k) s fun t => bit (t.fg DBG_STAT_HALTED) k.val = true) ∧
  (∀ (s s1 : State) (a : Access) (k : Fin 5) (p o : Nat) (w : Who) (g : Reg),
    accepted s.begin_ a (regAddr pgDBG DBG_HALT.off) (putBits (s.fg DBG_HALT_HALT) k.val k.val 0) = some (s1, w, p, o, g) →
    bit (s.fg DBG_STAT_HALTED) k.val = true →
    Runs (.resume a k) s fun t => bit (t.fg DBG_STAT_HALTED) k.val = false) ∧
  (∀ (s : State) (tdi : Bool), Runs (.bypass tdi) s fun t => t.outs = [.tap (b2n s.pow.tapHold) 1] ∧ t.pow.tapHold = tdi) ∧
  (∀ s : State, Runs .idcode s fun t => t.outs = [.tap (s.reg pgDBG DBG_IDCODE.off) 32]) ∧
  (∀ (s : State) (pins preload : Nat),
    Runs (.samplePreload pins preload) s fun t => t.outs = [.tap pins 0] ∧ t.pow.tapPins = preload) ∧
  (∀ (s : State) (tdi : Bool), bit (s.fg DBG_SCOPE_SCOPE) 4 = true → s.mode = .service → enabledR s.regs pgSUPPLY = false →
    Runs (.extest tdi) s fun t => t.outs = [.pins s.pow.tapPins] ∧ t.fg DBG_STAT_EXTEST = 1) ∧
  (∀ s : State, s.powered 2 = true → bit (s.fg DBG_STAT_HALTED) 0 = false →
    Runs .lockstepMismatch s fun t => t.fab.access = false ∧ t.fg RST_CAUSE_CAUSE = 5)

/-- A slot is reset or quarantined as TEN_CMD, TEN_RUN, the end of its session's lease or its refusals order, is released, and is reset at
its instant. A good record for this tile on the active path, for a running feed and under its key, counts toward its tenant's payload; a
frame goes UP with one hop more; an ACTIVE slot's frame is acknowledged; an ENUM under the chain key sets the position; a HEARTBEAT marks
its port; a foreign frame is passed on. A port comes up at a lock that it seeks and down at its loss, seeks the other speed, reports no
speed, no heartbeat and a high bit error rate, and the path reverts. (Log entries 20 and 65: the order of the tests, and the causes
recorded.) -/
def Obligations.TenantsAndLinksComplete : Prop :=
  (∀ (s s1 : State) (a : Access) (n : Fin 16) (p o : Nat) (w : Who) (g : Reg),
    accepted s.begin_ a (regAddr (pgTEN + n.val) TEN_CMD.off) 1 = some (s1, w, p, o, g) → s1.tst n.val ≠ tEMPTY →
    Runs (.tenCmdReset a n) s fun t => t.tst n.val = tRESETTING ∧ t.outs = doneOuts) ∧
  (∀ (s s1 : State) (a : Access) (n : Fin 16) (p o : Nat) (w : Who) (g : Reg),
    accepted s.begin_ a (regAddr (pgTEN + n.val) TEN_CMD.off) 2 = some (s1, w, p, o, g) → n.val ≠ 0 → s1.tst n.val ≠ tEMPTY →
    Runs (.tenCmdQuarantine a n) s fun t => t.tst n.val = tRESETTING ∧ t.outs = doneOuts) ∧
  (∀ (s s1 : State) (a : Access) (n : Fin 16) (p o : Nat) (w : Who) (g : Reg),
    accepted s.begin_ a (regAddr (pgTEN + n.val) TEN_CMD.off) 3 = some (s1, w, p, o, g) → s1.tst n.val = tQUAR →
    Runs (.tenCmdRelease a n) s fun t => t.tst n.val = tENROLLED ∧ t.outs = doneOuts) ∧
  (∀ (s s1 : State) (a : Access) (n : Fin 16) (run : Bool) (p o : Nat) (w : Who) (g : Reg),
    accepted s.begin_ a (regAddr (pgTEN + n.val) TEN_RUN.off) (b2n run) = some (s1, w, p, o, g) →
    Runs (.tenRunWrite a n run) s fun t => t.fgi TEN_RUN_RUN_REQ n.val = b2n run ∧ t.outs = doneOuts) ∧
  (∀ (s : State) (n : Fin 16), s.tst n.val = tACTIVE → s.fab.access = true →
    Runs (.sessionLeaseExpire n) s fun t => t.tst n.val = tRESETTING) ∧
  (∀ s : State, s.fab.access = true →
    Runs .quarantineInterval s fun t => t.now = max s.now (s.fab.quarAt + Config.sec) ∧ ∀ x ∈ t.tens, x.permf = 0) ∧
  (∀ (s : State) (rx : StopRx) (n : Fin 16), s.tst n.val = tRESETTING →
    Runs (.tenantResetInstant rx) s fun t => t.tst n.val = tENROLLED ∨ t.tst n.val = tQUAR) ∧
  (∀ (s s1 : State) (f : Frame) (recs : List FeedRec) (own : Nat) (r : FeedRec), s.begin_.rxHead f = (s1, true) → f.typ = 1 →
    f.fcsOk = true → s1.ownId = some own → State.recsOver f recs = false → State.ownRec own (recs.take f.nrec) = some r → f.port.val = s1.pathAct →
    1 ≤ r.slen → r.slen ≤ 8960 → s1.feedServed f.tenant.val = true → State.ingressTakes f.ing (State.recBytes r) = true →
    s1.keyOk f.tenant.val 0 f.dcn r.key = true → f.tenant.val < s1.tens.length →
    Runs (.feedFrame f recs) s fun t => t.lnk.lastRec = s1.now ∧ nth (t.tens.map (·.feedBytes)) f.tenant.val 0 =
      nth (s1.tens.map (·.feedBytes)) f.tenant.val 0 + r.slen) ∧
  (∀ (s s1 : State) (f : Frame) (key : Nat) (env : Env), s.begin_.rxDown f 2 = (s1, true) →
    s1.ownId = some f.first → mgmtRoom f = true → s1.fab.access = true → bit (s1.fg DBG_STAT_HALTED) 0 = false → key ≠ 0 →
    (s1.slotKeys f.tenant.val).mkey = key → s1.tst f.tenant.val = tACTIVE → f.seq < 2 ^ 16 →
    f.seq = (s1.fgi TEN_SEQ_HIGH f.tenant.val + 1) % 2 ^ 16 →
    Runs (.mgmtFrame f key [] false env) s fun t => t.fgi TEN_SEQ_HIGH f.tenant.val = f.seq) ∧
  (∀ (s : State) (f : Frame), 2 ≤ f.port.val → s.passes f.port.val = true → s.passes (partner f.port.val) = true → f.fcsOk = true →
    f.etype = s.fg CH_ETYPE_ETYPE → f.etype ≠ 0 → f.len ≤ s.fg CH_MAXFR_BYTES → f.hcrcOk = true → headerBad f = false → f.hop < 64 →
    rangeOk f = true →
    Runs (.upForward f) s fun t => t.outs = [.fwd f.port.val (partner f.port.val) f.typ (f.hop + 1) false]) ∧
  (∀ (s s1 : State) (f : Frame) (key : Nat), s.begin_.rxDown f 6 = (s1, true) → f.port.val = 0 → key ≠ 0 →
    ((s1.chainKey 0 2).cur.any (fun x => x.2 == key) = true) →
    Runs (.enum f key) s fun t => t.fg CH_POS_VALID = 1 ∧ t.fg CH_POS_POS = f.hop % 2 ^ 6) ∧
  (∀ (s s1 : State) (f : Frame) (req : Bool), s.begin_.rxDown f 7 = (s1, true) → f.port.val < s.lnk.ports.length →
    Runs (.heartbeat f req) s fun t => t.hbOk f.port.val = true ∧ (t.port f.port.val).hbAt = s1.now) ∧
  (∀ (s : State) (f : Frame), f.etype = 0x88F7 → s.passes f.port.val = true → s.passes (partner f.port.val) = true → f.fcsOk = true →
    portUsed s.role (partner f.port.val) = true →
    Runs (.foreignFrame f) s fun t => t.outs = [.fwd f.port.val (partner f.port.val) f.typ f.hop false]) ∧
  (∀ (s : State) (p : Fin 4), s.hbOk p.val = true → Runs (.heartbeatTimeout p) s fun t => t.hbOk p.val = false) ∧
  (∀ s : State, s.fg CH_PATH_AUTOSW = 1 → s.fg CH_PATH_REVERT ≠ 0 → s.pathAct ≠ s.fg CH_PATH_PATH_REQ →
    s.hbOk (s.fg CH_PATH_PATH_REQ) = true → Runs .revert s fun t => t.pathAct = s.fg CH_PATH_PATH_REQ) ∧
  (∀ (s : State) (p : Fin 4) (g25 : Bool), s.active (pgLNK + p.val) = true → s.locked p.val = false →
    (s.fgi LNK_CFG_SPEED_REQ p.val = (if g25 = true then 1 else 2) ∨ s.fgi LNK_CFG_SPEED_REQ p.val = 0 ∧ (s.port p.val).seek25 = g25) →
    Runs (.linkLock p g25) s fun t => t.locked p.val = true ∧ t.fgi LNK_STAT_SPEED_ACT p.val = (if g25 = true then 1 else 2)) ∧
  (∀ (s : State) (p : Fin 4) (mid : Bool), s.active (pgLNK + p.val) = true → s.locked p.val = true →
    Runs (.lossOfLock p mid) s fun t => t.fgi LNK_STAT_UP p.val = 0 ∧ t.locked p.val = false) ∧
  (∀ (s : State) (p : Fin 4), s.active (pgLNK + p.val) = true → s.locked p.val = false → s.fgi LNK_CFG_SPEED_REQ p.val = 0 →
    p.val < s.lnk.ports.length →
    Runs (.speedSeekTimeout p) s fun t => (t.port p.val).seek25 = !(s.port p.val).seek25) ∧
  (∀ (s : State) (p : Fin 4), s.active (pgLNK + p.val) = true → s.locked p.val = false → s.fgi LNK_CFG_SPEED_REQ p.val = 1 →
    Runs (.nospeed p) s fun t => t.hasFault (pgLNK + p.val) 4 = true) ∧
  (∀ (s : State) (p : Fin 4), s.active (pgLNK + p.val) = true →
    Runs (.highBitErrorRate p) s fun t => t.fgi LNK_STAT_HIBER p.val = 1 ∧ t.hasFault (pgLNK + p.val) 1 = true)

/-- A frame on SPIA by the enabled tenant, not chained, is answered with its result: the operations with code 0 where their registers
admit them. A poll as master sends STATUS. A Sync or Follow_Up of the master in use moves the servo; peer-delay messages go out and are
answered or measured; an Announce names the master; Delay_Req is dropped; the timeouts take the servo on. A beat of a timing slot under
its key counts its number as used. Holdover ends, the PLL is lost and found, PPS pulses, spans and display cycles start. (The model's
readings of SPIA and of other domains: log entries 22 and 67.) -/
def Obligations.SpiaAndTimeComplete : Prop :=
  (∀ (s s1 : State) (w : Who) (inc : Bool), s.fg SPIA_CFG_ROLE = 0 → s.fg SPIA_CFG_CHAIN = 0 → s.mode ≠ .sleep → s.fg SYS_SPIA_EN = 1 →
    s.fg SPIA_CFG_WAIT = 0 → grantAccess s.begin_ s.spiaBy (regAddr pgSYS SYS_SCRATCH.off) = .ok (s1, w) → mayReadR s1.regs w pgSYS = true →
    Runs (.read inc 1 SYS_SCRATCH.off none) s fun t => t.fg SPIA_LAST_CODE = 0 ∧
      .res ⟨0, 0⟩ [BitVec.ofNat 32 (rget s1.regs w.bank pgSYS SYS_SCRATCH.off)] ∈ t.outs) ∧
  (∀ (s s1 : State) (w : Who) (inc : Bool) (v : Word) (env : Env) (p o : Nat) (g : Reg), s.fg SPIA_CFG_ROLE = 0 → s.fg SPIA_CFG_CHAIN = 0 →
    s.mode ≠ .sleep → s.fg SYS_SPIA_EN = 1 → accepted s.begin_ s.spiaBy (regAddr pgSYS SYS_SCRATCH.off) v.toNat = some (s1, w, p, o, g) →
    Runs (.write inc SYS_SCRATCH.off [v] env) s fun t => rget t.regs w.bank pgSYS SYS_SCRATCH.off = v.toNat) ∧
  (∀ (s s1 : State) (w : Who) (v : Word) (env : Env) (p o : Nat) (g : Reg), s.fg SPIA_CFG_ROLE = 0 → s.fg SPIA_CFG_CHAIN = 0 →
    s.mode ≠ .sleep → s.fg SYS_SPIA_EN = 1 → accepted s.begin_ s.spiaBy (regAddr pgSYS SYS_SCRATCH.off) v.toNat = some (s1, w, p, o, g) →
    Runs (.writem SYS_SCRATCH.off 0xFFFFFFFF v env) s fun t => rget t.regs w.bank pgSYS SYS_SCRATCH.off = v.toNat) ∧
  (∀ (s s1 : State) (w : Who), s.fg SPIA_CFG_ROLE = 0 → s.fg SPIA_CFG_CHAIN = 0 → s.mode ≠ .sleep → s.fg SYS_SPIA_EN = 1 →
    grantAccess s.begin_ s.spiaBy (regAddr pgSYS 0) = .ok (s1, w) → Runs .nop s fun t => t.outs = doneOuts) ∧
  (∀ s : State, s.fg SPIA_CFG_ROLE = 0 → s.fg SPIA_CFG_CHAIN = 0 → s.mode ≠ .sleep → s.fg SYS_SPIA_EN = 1 →
    Runs .status s fun t => .res ⟨0, 0⟩ (s.statusWords.map (BitVec.ofNat 32)) ∈ t.outs) ∧
  (∀ (s s1 : State) (w : Who) (x : Piece), s.fg SPIA_CFG_ROLE = 0 → s.fg SPIA_CFG_CHAIN = 0 → s.mode ≠ .sleep → s.fg SYS_SPIA_EN = 1 → x.len ≤ 4096 →
    grantAccess s.begin_ s.spiaBy (regAddr pgUPD 0) = .ok (s1, w) → s1.pieceFail w true (some (32 + x.len)) x = none →
    s1.pieceGot x.index = false → (s1.upd.queue.any fun q => q.index == x.index) = false →
    Runs (.piece x) s fun t => x ∈ t.upd.queue ∧ t.outs = doneOuts) ∧
  (∀ (s s1 : State) (w : Who) (env : Env) (dev : Option Nat), s.fg SPIA_CFG_ROLE = 0 → s.mode ≠ .sleep → s.fg SPIA_CFG_CHAIN = 0 →
    s.fg SYS_SPIA_EN = 1 → grantAccess s.begin_ s.spiaBy (regAddr pgSYS 0) = .ok (s1, w) →
    Runs (.spiaFrame dev (.nop 0 0) none none env) s fun t => t.outs = doneOuts) ∧
  (∀ (s : State) (op : MOp) (env : Env), s.fg SPIA_CFG_ROLE = 1 → s.loader = false → s.mode ≠ .sleep → s.fg SYS_SPIA_EN = 0 →
    Runs (.spiaPoll op env) s fun t => t.ser.pollAt = max s.now (s.ser.pollAt + s.fg SPIA_MCFG_POLL * Config.us) ∧
      .serial s.spiaWire ((s.statusWords ++ s.ser.toSend.map BitVec.toNat).flatMap wordOut) ∈ t.outs) ∧
  (∀ (s : State) (m : PtpMsg), s.passes m.port.val = true → -7 ≤ m.logInt → m.logInt ≤ 0 → s.ptpMine m = true →
    Runs (.sync m) s fun t => t.now = max s.now m.at_ ∧ t.fg PTP_STAT_TWOSTEP = b2n m.twoStep) ∧
  (∀ (s : State) (m y : PtpMsg), s.passes m.port.val = true → s.tim.twoStep = some y → s.ptpMine m = true → y.port = m.port → y.seq = m.seq →
    Runs (.followUp m) s fun t => t.tim.twoStep = none ∧ t.tim.lastSync = t.now) ∧
  (∀ s : State, s.servo ≠ 0 → Runs .pdelayInterval s fun t => t.tim.pdAt = t.now ∧ t.tim.pdSeq = s.tim.pdSeq + 1) ∧
  (∀ (s : State) (m : PtpMsg), s.passes m.port.val = true → m.domain = s.fg PTP_CFG_DOMAIN →
    Runs (.pdelayReq m) s fun t => ∃ x : Nat, t.outs = [.ptp 3 m.port.val (m.correction + x)]) ∧
  (∀ (s : State) (m : PtpMsg) (t1 t2 t3 : Nat), s.passes m.port.val = true → m.port.val < 2 → s.servo ≠ 0 →
    nth s.tim.pdSent m.port.val none = some t1 → m.seq % 65536 = s.tim.pdSeq % 65536 → m.domain = s.fg PTP_CFG_DOMAIN →
    Runs (.pdelayResp m t2 t3) s fun t => nth t.tim.pdSent m.port.val none = none ∧
      t.fg PTP_PDCNT_OK = min (s.fg PTP_PDCNT_OK + 1) (2 ^ 16 - 1)) ∧
  (∀ (s : State) (m : PtpMsg), s.passes m.port.val = true → s.servo ≠ 0 → m.port.val = s.pathAct → m.domain = s.fg PTP_CFG_DOMAIN →
    s.tim.gm = none → Runs (.announce m) s fun t => t.tim.gm = some m.gmid) ∧
  (∀ (s : State) (m : PtpMsg), s.passes m.port.val = true →
    Runs (.delayReq m) s fun t => t.fg PTP_RXCNT_DROP = min (s.fg PTP_RXCNT_DROP + 1) (2 ^ 16 - 1)) ∧
  (∀ s : State, (s.servo = 2 ∨ s.servo = 3) → Runs .syncTimeout s fun t => t.servo = (if s.servo = 2 then 1 else 4)) ∧
  (∀ s : State, s.servo = 4 → Runs .ptpHoldoverExpire s fun t => t.servo = 5 ∧ t.wtValid = false) ∧
  (∀ (s s1 : State) (f : Frame) (b : Beat) (own : Nat), s.begin_.rxDown f 5 = (s1, true) → s1.ownId = some own → f.first ≤ own →
    own ≤ f.last → s1.keyOk f.tenant.val 1 f.dcn b.key = true → roleR s1.regs f.tenant.val = roleTiming →
    nth s1.tim.lastF f.tenant.val 0 ≤ f.fctr → s1.wtValid = true → f.tenant.val < s1.tim.lastF.length →
    (((s1.wall : Nat) : Int) - (State.beatTime b.tsSec b.tsNs : Nat)).natAbs ≤ s1.fg TIME_LOCK_SUSP * Config.us →
    (100 * Config.us : Nat) ≤ ((State.beatTime b.tSec b.tNs : Nat) : Int) - s1.wall →
    ((State.beatTime b.tSec b.tNs : Nat) : Int) - s1.wall ≤ (Config.sec : Nat) →
    Runs (.beat f b) s fun t => nth t.tim.lastF f.tenant.val 0 = f.fctr + 1) ∧
  (∀ (s : State) (e : Nat), s.tim.holdEnd = some e → s.gen = 3 →
    Runs .holdoverExpire s fun t => t.tim.holdEnd = none ∧ t.hasFault pgTIME 2 = true) ∧
  (∀ s : State, s.fg TIME_STAT_PLL_LOCK = 1 → Runs .pllLoss s fun t => t.fg TIME_STAT_PLL_LOCK = 0 ∧ t.tim.running = false) ∧
  (∀ s : State, s.gen = 0 → s.active pgTIME = true → Runs .pllLock s fun t => t.fg TIME_STAT_PLL_LOCK = 1 ∧ t.gen ≠ 0) ∧
  (∀ s : State, s.wtValid = true → s.fg TIME_PPS_EN = 1 → s.gen ≠ 0 → s.gen ≠ 3 →
    Runs .pps s fun t => t.outs = [.pulse 1 t.now (s.fg TIME_PPS_WIDTH * Config.us)]) ∧
  (∀ (s : State) (e : SpanEnv), s.mode ≠ .sleep → s.tim.running = false →
    Runs (.spanBoundary e) s fun t => (s.now / 32 + 1) * 32 ≤ t.now) ∧
  (∀ (s : State) (e : SpanEnv) (err : List (Nat × Nat × Nat)) (c : CycNext), s.nextCycle = some c →
    (s.tim.running = false ∨ c.g ≤ s.scan.startAt + s.spanLen) →
    Runs (.cycleStart e err) s fun t => c.g ≤ t.now)

/-- A frame in progress of a pattern engine ends; the released job that comes first starts; a job and a blend that end leave their latency
in PIX_JOBLAT; a deferred blend resumes; the field is refreshed at its instant. DRY, the returns to service, an override that passes its
checks, the queries and the clears are taken. A sample comes at its instant, the queued board reads are made, and each conversion is shown
in SENSE_RAW; one that ends while SADC1 is to stop leaves it stopped. (Which units a job claims, log entry 63; when samples are judged,
log entry 35.) -/
def Obligations.PixelsAndHealthComplete : Prop :=
  (∀ (s : State) (e : Fin 16) (poison : List (Nat × Nat × Nat)), (s.patt e.val).rendering = true → s.halfServes (decide (8 ≤ e.val)) = true →
    Runs (.patternFrameDone e poison) s fun t => (t.patt e.val).rendering = false ∧ (t.patt e.val).k = (s.patt e.val).k + 1) ∧
  (∀ (s : State) (r : Rel), s.nextRel = some r → s.winOn r.win = true → s.active pgWIRE = true → s.arrayServes = true →
    s.blendFirst = false → s.planUnits ≤ s.unitsFree.length →
    Runs .jobStart s fun t => t.pix.jobs.length = s.pix.jobs.length + 1 ∧ t.pix.released = s.pix.released.filter (· != r)) ∧
  (∀ (s : State) (k : Nat) (r : JobResult) (j : Job), s.arrayServes = true → s.pix.jobs[k]? = some j →
    Runs (.jobComplete k r) s fun t => t.fg PIX_JOBLAT_LAST = satN 16 ((s.now - j.startAt) / Config.us)) ∧
  (∀ (s : State) (engines poison : List Nat) (spots : List Spot), s.blendState = 1 → s.arrayServes = true →
    (∀ j ∈ s.pix.jobs, s.blend.swaps ≤ j.inp.copy) →
    Runs (.blendComplete engines spots poison) s fun t => t.fg PIX_JOBLAT_LAST = satN 16 ((s.now - s.blend.startAt) / Config.us)) ∧
  (∀ s : State, s.blendState = 3 → s.bothServe = true → s.setsLoaded = true →
    Runs .blendResume s fun t => t.blendState = 1 ∧ t.blend.rewriting = true) ∧
  (∀ s : State, s.refreshDue = true →
    Runs .fieldRefresh s fun t => t.now = max s.now s.field.refreshAt ∧
      t.field.refreshAt = s.field.refreshAt + s.fg TF_PERIOD_MS * Config.ms) ∧
  (∀ (s s1 : State) (a : Access) (p o : Nat) (w : Who) (g : Reg),
    accepted s.begin_ a (regAddr pgADMIT ADM_CMD.off) 1 = some (s1, w, p, o, g) →
    Runs (.dry a) s fun t => t.fg ADM_SRC_KIND = 2 ∧ t.outs = doneOuts) ∧
  (∀ (s s1 : State) (a : Access) (h : Fin 2) (v : Word) (p o : Nat) (w : Who) (g : Reg),
    accepted s.begin_ a (regAddr pgPIX (if h = 0 then PIX_RET_A.off else PIX_RET_B.off)) v.toNat = some (s1, w, p, o, g) →
    Runs (.returnToService a h v) s fun t => t.reg pgPIX o = s1.reg pgPIX o - Nat.land (s1.reg pgPIX o) v.toNat ∧ t.outs = doneOuts) ∧
  (∀ (s s1 : State) (a : Access) (h : Fin 2) (v : Word) (p o : Nat) (w : Who) (g : Reg),
    accepted s.begin_ a (regAddr pgTFIELD (if h = 0 then TF_SFAIL0.off else TF_SFAIL1.off)) v.toNat = some (s1, w, p, o, g) →
    Runs (.sensorReturn a h v) s fun t => t.outs = doneOuts ∧
      ∀ i < 32, bit v.toNat i = true → 32 * h.val + i < 48 → t.fgk TF_SRD_SUSP 0 (32 * h.val + i) = 0) ∧
  (∀ (s s1 : State) (a : Access) (k : Fin 4) (v : Word) (p o : Nat) (w : Who) (g : Reg),
    accepted s.begin_ a (regAddr pgEDGE (EDGE_OVR_CTRL.off + 4 * k.val)) v.toNat = some (s1, w, p, o, g) →
    s1.overrideFail w pgEDGE o v.toNat = none →
    Runs (.override a k v) s fun t => t.reg pgEDGE o = mergeFlds g.flds (s1.reg pgEDGE o) v.toNat (2 ^ 32 - 1) % 2 ^ 32 ∧ t.outs = doneOuts) ∧
  (∀ (s : State) (die : List (Option Int)), s.pow.trimDone = true → s.mode ≠ .sleep → s.mode ≠ .recovery →
    Runs (.sensorSample die) s fun t => t.now = max s.now s.field.sampleAt ∧ t.field.sampleAt = s.field.sampleAt + 250 * Config.ms) ∧
  (∀ (s : State) (die : List (Option Int)) (raw : List (Option Nat)) (low : Option Bool), s.field.queued = some die → s.ser.twiX = none →
    Runs (.boardSensorRead ⟨raw, low⟩) s fun t => t.field = { s.field with queued := none } ∧ t.now = s.now) ∧
  (∀ (s s1 : State) (a : Access) (v p o : Nat) (w : Who) (g : Reg),
    accepted s.begin_ a (regAddr pgWIRE WIRE_QSEL.off) (v % 2 ^ 18) = some (s1, w, p, o, g) →
    Runs (.wireQuery a v) s fun t => t.fgb w.bank WIRE_QSEL_LAMP = v % 2 ^ 18 ∧ t.outs = doneOuts) ∧
  (∀ (s s1 : State) (a : Access) (v p o : Nat) (w : Who) (g : Reg),
    accepted s.begin_ a (regAddr pgHEALTH HEALTH_QSEL.off) (v % 2 ^ 18) = some (s1, w, p, o, g) →
    Runs (.healthQuery a v) s fun t => t.fgb w.bank HEALTH_QSEL_LAMP = v % 2 ^ 18 ∧ t.outs = doneOuts) ∧
  (∀ (s s1 : State) (a : Access) (v p o : Nat) (w : Who) (g : Reg),
    accepted s.begin_ a (regAddr pgHEALTH HEALTH_LSEL.off) (v % 2 ^ 10) = some (s1, w, p, o, g) →
    Runs (.listQuery a v) s fun t => t.fgb w.bank HEALTH_LSEL_INDEX = v % 2 ^ 10 ∧ t.outs = doneOuts) ∧
  (∀ (s s1 : State) (a : Access) (p o : Nat) (w : Who) (g : Reg),
    accepted s.begin_ a (regAddr pgHEALTH HEALTH_CMD.off) 1 = some (s1, w, p, o, g) →
    Runs (.clear a) s fun t => some (s1.fgb w.bank HEALTH_QSEL_LAMP) ∈ t.health.clr ∧ t.outs = doneOuts) ∧
  (∀ (s s1 : State) (a : Access) (p o : Nat) (w : Who) (g : Reg),
    accepted s.begin_ a (regAddr pgHEALTH HEALTH_CMD.off) 2 = some (s1, w, p, o, g) →
    Runs (.clearall a) s fun t => none ∈ t.health.clr ∧ t.outs = doneOuts) ∧
  (∀ (s s1 : State) (a : Access) (v p o : Nat) (w : Who) (g : Reg),
    accepted s.begin_ a (regAddr pgRDBK RB_CLR.off) (v % 2 ^ 16) = some (s1, w, p, o, g) →
    Runs (.rbClr a v) s fun t => (∀ k < 16, bit (v % 2 ^ 16) k = true → k ∈ t.rdbk.toFree) ∧ t.outs = doneOuts) ∧
  (∀ (s : State) (code : Nat) (v : Int), s.sense.busy = true →
    Runs (.conversion code v) s fun t => t.fg SENSE_RAW_CODE = code % 2 ^ 12 ∧ t.fg SENSE_RAW_ENTRY = s.sense.entry % 2 ^ 4 ∧
      (pgSENSE ∈ s.fab.stopping → t.sense.busy = false ∧ t.active pgSENSE = false))

/-- A zero of an ACTIVE phase with power comes at its instant, and a running one begins anew from it; LOAD_ALL is taken; a trip ends the
pulse; a feedback sample is shown at its event; PH_TEST drives the gates named. A rail asks for its start, enters RUNNING, times out, and
is OFF; SFLTN and an over-voltage stop every rail; an under-voltage is reported; an AUX period starts. Self-trim starts, its result is
judged, a wanted record is written and committed, and FORGET is taken. (The model's readings of chapter 11: log entries 39 and 70.) -/
def Obligations.SupplyAndTrimComplete : Prop :=
  (∀ (s : State) (n : Fin 8) (e : PhaseEnv), s.active (pgPHASE + n.val) = true → s.powered 10 = true → s.sup.halt = false →
    Runs (.phaseZero n e) s fun t => t.now = max s.now (s.nextZero n.val) ∧
      ((s.phase n.val).st = 1 → (s.phase n.val).failRun < 15 → (t.phase n.val).zeroAt = s.nextZero n.val)) ∧
  (∀ (s s1 : State) (a : Access) (p o : Nat) (w : Who) (g : Reg),
    accepted s.begin_ a (regAddr pgSUPPLY LOAD_ALL.off) 1 = some (s1, w, p, o, g) → s1.sup.phases.any (·.due) = false →
    Runs (.loadAll a) s fun t => (∀ n < s1.sup.phases.length, n < 8 → (t.phase n).due = s1.active (pgPHASE + n)) ∧ t.outs = doneOuts) ∧
  (∀ (s : State) (n : Fin 8) (mv g : Nat) (v : GateLv), v = (s.phase n.val).gates (max s.now ((s.phase n.val).zeroAt + g)) → v.hg = true →
    v.hgAt + 32 * s.fgi PH_TRIP_LEB n.val ≤ max s.now ((s.phase n.val).zeroAt + g) → s.fgi PH_TRIP_THR n.val < mv →
    (s.phase n.val).st = 1 → (s.phase n.val).trippedNow = false →
    Runs (.trip n ⟨mv, g⟩) s fun t => t.now = max s.now ((s.phase n.val).zeroAt + g) ∧ ((t.phase n.val).gates t.now).hg = false ∧
      t.hasFault (pgPHASE + n.val) 1 = true) ∧
  (∀ (s : State) (k : Fin 2) (mv n at_ : Nat) (done : Bool) (l : List Nat),
    (s.railPhases k.val fun n => (s.phase n).st == 1) = n :: l → (s.phase n).evAt = some (at_, done) →
    Runs (.feedbackSample k mv) s fun t => t.now = max s.now at_ ∧
      (if k.val = 0 then t.fg SUP_VFB_A else t.fg SUP_VFB_B) = mv % 2 ^ 16) ∧
  (∀ (s s1 : State) (a : Access) (n : Fin 8) (v : Word) (p o : Nat) (w : Who) (g : Reg),
    accepted s.begin_ a (regAddr (pgPHASE + n.val) PH_TEST.off) v.toNat = some (s1, w, p, o, g) → s1.mode = .service →
    enabledR s1.regs pgSUPPLY = false → (bit v.toNat 0 && bit v.toNat 1 && bit v.toNat 2) = false → n.val < s1.sup.phases.length →
    Runs (.phTest a n v) s fun t =>
      ((t.phase n.val).gates t.now).hg = (s1.supPresent && s1.powered 10 && bit v.toNat 0 && bit v.toNat 1) ∧
      ((t.phase n.val).gates t.now).lg = (s1.supPresent && s1.powered 10 && bit v.toNat 0 && bit v.toNat 2)) ∧
  (∀ (s : State) (k : Fin 2) (mv : Nat), s.startsFrom k.val = true → k.val < s.sup.rails.length →
    Runs (.railStart k mv) s fun t => (t.rail k.val).ask = some mv) ∧
  (∀ (s : State) (k : Fin 2) (mv : Nat), (s.rail k.val).st = 1 → mv ≤ (railCfg s.regs k.val).vmin * 10 + 50 →
    (railCfg s.regs k.val).vmin * 10 ≤ mv + 50 → Runs (.railRunning k mv) s fun t => (t.rail k.val).st = 2) ∧
  (∀ (s : State) (k : Fin 2), (s.rail k.val).st = 1 →
    Runs (.startTimeout k) s fun t => (t.rail k.val).st = 3 ∧ t.hasFault pgSUPPLY (7 + k.val) = true) ∧
  (∀ (s : State) (k : Fin 2) (mv : Nat), (s.rail k.val).st = 3 → Runs (.railOff k mv) s fun t => (t.rail k.val).st = 0) ∧
  (∀ s : State, Runs .sfltn s fun t => t.sup.sfltn = false ∧ ∀ r ∈ t.sup.rails, r.st = 0) ∧
  (∀ s : State, Runs .sfltnRelease s fun t => t.sup.sfltn = true) ∧
  (∀ (s : State) (k : Fin 2) (fb : Nat), 10 * ((railCfg s.regs k.val).vmax + s.fg SUP_PROT_OVM) < 8 * fb →
    Runs (.overVoltage k fb) s fun t => (∀ r ∈ t.sup.rails, r.st = 0) ∧ t.hasFault pgSUPPLY (1 + k.val) = true) ∧
  (∀ (s : State) (k : Fin 2) (fb : Nat), (s.rail k.val).st = 2 →
    8 * fb + 10 * s.fg SUP_PROT_UVM < 10 * (railCfg s.regs k.val).vmin →
    Runs (.underVoltage k fb) s fun t => t.hasFault pgSUPPLY (3 + k.val) = true) ∧
  (∀ s : State, s.powered 10 = true → s.mode ≠ .trim → s.mode ≠ .sleep →
    Runs .auxPeriod s fun t => t.now = max s.now (s.sup.auxAt + 640000) ∧ t.sup.aux = [auxLen (s.fg AUX_CMP0_CMP), auxLen (s.fg AUX_CMP1_CMP)]) ∧
  (∀ s : State, s.mode = .trim → s.trim.active = false → Runs .selfTrim s fun t => t.trim.active = true) ∧
  (∀ (s : State) (m : TrimMeas) (v : BinVal), s.trim.active = true → trimValues m = some v →
    Runs (.trimResult (some m)) s fun t => t.trim.active = false ∧ t.fg (hSTATPAGE pgTRIM) = 3 ∧
      t.trim.bins = modAt s.trim.bins (binOf v.tm) (fun _ => some v)) ∧
  (∀ (s : State) (r : JRec), s.trim.wanted = some r → s.mode ≠ .trim → s.trim.writing = none → s.pow.vddLow = false →
    s.pow.shut = false → s.dieNow ≤ 1840 → Runs .journalWrite s fun t => t.trim.wanted = none ∧ t.trim.writing.isSome = true) ∧
  (∀ (s : State) (r : JRec) (b : Nat), s.trim.writing = some (b, r) → s.trim.forget = false →
    Runs .journalCommit s fun t => t.trim.used = some b ∧ t.trim.writing = none) ∧
  (∀ (s s1 : State) (a : Access) (p o : Nat) (w : Who) (g : Reg),
    accepted s.begin_ a (regAddr pgTRIM TRIM_CMD.off) 1 = some (s1, w, p, o, g) → w.isT0 = true → s1.mode = .service → s1.dieNow ≤ 1840 →
    Runs (.forget a) s fun t => t.outs = doneOuts ∧
      (if s1.trim.writing.isSome = true then t.trim.forget else t.trim.wanted.isSome) = true)

/-- Training of a powered controller that is off or in self-refresh ends READY-to-be or in failure, and its completion makes the memory
READY. With READY memory a calibration, an oscillator run, a refresh, an MR4 poll and a scrub read take their turn; an idle bank is
precharged. An allowed DRAM request with a credit free is accepted, and a completion takes it out of flight. An error injection in SERVICE
is stored. The operations of SPIB that nothing refuses run; the status poll and the limit end one; a fetch is answered with its words. -/
def Obligations.MemoryAndFlashComplete : Prop :=
  (∀ (s : State) (a b : TrainTry), s.powered 4 = true → (s.memState = 0 ∨ s.memState = 3) →
    Runs (.dramTraining a b) s fun t => t.memState = 1 ∨ t.memState = 4) ∧
  (∀ (s : State) (r : TrainRes), s.memState = 1 → Runs (.trainingComplete r) s fun t => t.memReady = true) ∧
  (∀ s : State, s.memReady = true → Runs .zqCalibration s fun t => t.mem.zqAt = max s.now (s.mem.zqAt + 64 * Config.ms)) ∧
  (∀ (s : State) (count : Nat) (wdq : Option (List Nat)), s.memReady = true →
    Runs (.dqsOscillator count wdq) s fun t => t.mem.oscAt = max s.now (s.mem.oscAt + 100 * Config.ms) ∧ t.fg MP_TRACK_OSC = count % 2 ^ 16) ∧
  (∀ (s : State) (sc : Fin 2) (n : Nat), s.memReady = true →
    Runs (.refresh sc n) s fun t => t.now = max s.now (nth s.mem.refAt sc.val 0 + s.refInterval) ∧
      t.mem.turn = modAt s.mem.turn sc.val (fun x => (x + 1) % 8)) ∧
  (∀ (s : State) (a b : Fin 8), s.memReady = true →
    Runs (.mr4Poll a b) s fun t => t.fg MEMC_REFST_MR4 = max a.val b.val ∧ t.mem.mr4At = t.now) ∧
  (∀ (s : State) (sc : Fin 2) (b : Fin 8) (row at_ : Nat), nth s.mem.rows (8 * sc.val + b.val) none = some (row, at_) →
    Runs (.pageIdleExpire sc b) s fun t => nth t.mem.rows (8 * sc.val + b.val) none = none) ∧
  (∀ (s : State) (errs : List Nat), s.memReady = true → s.fg ME_CFG_SCRUB ≠ 0 → 8 ≤ s.viewBytes →
    ((s.mem.inflight ++ s.mem.waiting).any fun r => decide (r.cls < 3)) = false →
    Runs (.scrubRead errs) s fun t => t.mem.scrub = (s.mem.scrub % (s.viewBytes / 8) + 1) % (s.viewBytes / 8)) ∧
  (∀ (s s1 : State) (a : Access) (v : Word) (p o : Nat) (w : Who) (g : Reg),
    accepted s.begin_ a (regAddr pgMECC ME_INJ.off) v.toNat = some (s1, w, p, o, g) → s1.mode = .service →
    Runs (.errorInjection a v) s fun t => t.outs = doneOuts ∧
      t.reg pgMECC ME_INJ.off = mergeFlds g.flds (s1.reg pgMECC ME_INJ.off) v.toNat (2 ^ 32 - 1) % 2 ^ 32) ∧
  (∀ (s : State) (u : DUser) (addr : Nat) (wr : Option (List (Option Byte))), 0x1000000000 ≤ addr →
    (addr - 0x1000000000) / 64 * 64 < s.viewBytes → userMay u (areaOf ((addr - 0x1000000000) / 64 * 64)) = true → s.memReady = true →
    s.credit (userCls u) = true → Runs (.dramRequest u addr wr) s fun t => t.mem.inflight.length = s.mem.inflight.length + 1) ∧
  (∀ (s : State) (k : Nat) (errs : List (Nat × List Nat)) (r : DReq), s.mem.inflight[k]? = some r → s.mem.waiting = [] →
    s.dramHeld k = false →
    Runs (.dramCompletion k errs) s fun t => t.mem.inflight = s.mem.inflight.eraseIdx k) ∧
  (∀ (s s1 : State) (a : Access) (v : Word) (fl : List Byte) (p o : Nat) (w : Who) (g : Reg),
    accepted s.begin_ a (regAddr pgSPIB SPIB_CMD.off) (1 * 2 ^ 28 + v.toNat % 2 ^ 28) = some (s1, w, p, o, g) →
    s1.flashRefuse 1 (v.toNat % 512) = none →
    Runs (.spibRead a v fl) s fun t => t.fg SPIB_RES_CODE = 0x0C00 ∧
      ∀ i < v.toNat % 512, bufByte t.regs pgSPIB SPIB_BUF.off i = (nth fl i 0).toNat) ∧
  (∀ (s s1 : State) (a : Access) (v : Word) (p o : Nat) (w : Who) (g : Reg),
    accepted s.begin_ a (regAddr pgSPIB SPIB_CMD.off) (2 * 2 ^ 28 + v.toNat % 2 ^ 28) = some (s1, w, p, o, g) →
    s1.flashRefuse 2 (v.toNat % 512) = none → Runs (.program a v) s fun t => t.flashBusy = true ∧ t.ser.op = 2) ∧
  (∀ (s s1 : State) (a : Access) (v : Word) (p o : Nat) (w : Who) (g : Reg),
    accepted s.begin_ a (regAddr pgSPIB SPIB_CMD.off) (3 * 2 ^ 28 + v.toNat % 2 ^ 28) = some (s1, w, p, o, g) →
    s1.flashRefuse 3 (v.toNat % 512) = none → Runs (.erase4k a v) s fun t => t.flashBusy = true ∧ t.ser.op = 3) ∧
  (∀ (s s1 : State) (a : Access) (v : Word) (p o : Nat) (w : Who) (g : Reg),
    accepted s.begin_ a (regAddr pgSPIB SPIB_CMD.off) (4 * 2 ^ 28 + v.toNat % 2 ^ 28) = some (s1, w, p, o, g) →
    s1.flashRefuse 4 (v.toNat % 512) = none → Runs (.erase64k a v) s fun t => t.flashBusy = true ∧ t.ser.op = 4) ∧
  (∀ (s s1 : State) (a : Access) (v : Word) (sr : Byte) (p o : Nat) (w : Who) (g : Reg),
    accepted s.begin_ a (regAddr pgSPIB SPIB_CMD.off) (5 * 2 ^ 28 + v.toNat % 2 ^ 28) = some (s1, w, p, o, g) →
    s1.flashRefuse 5 (v.toNat % 512) = none → Runs (.readsr a v sr) s fun t => t.fg SPIB_STAT_SR = sr.toNat) ∧
  (∀ (s : State) (sr : Byte), s.flashBusy = true →
    Runs (.statusPoll sr) s fun t => t.fg SPIB_STAT_SR = sr.toNat ∧ t.flashBusy = bit sr.toNat 0) ∧
  (∀ s : State, s.flashBusy = true → Runs .flashTimeout s fun t => t.flashBusy = false ∧ t.fg SPIB_RES_CODE = 0x7C12) ∧
  (∀ (s : State) (off : Nat) (fl : List Byte) (lat held : Nat), s.fg SPIB_CFG_XIP_EN = 1 → off < 2 ^ 24 → s.flashBusy = false →
    Runs (.fetch off fl lat held) s fun t => .res ⟨0, 0⟩ ((List.range ((32 - off / 4 * 4 % 32) / 4)).map fun k =>
      BitVec.ofNat 32 ((nth fl (4 * k) 0).toNat + (nth fl (4 * k + 1) 0).toNat * 2 ^ 8 + (nth fl (4 * k + 2) 0).toNat * 2 ^ 16 +
        (nth fl (4 * k + 3) 0).toNat * 2 ^ 24)) ∈ t.outs)

/-- A free port is granted, released and taken back at the end of its time; BUSCLEAR ends; a transfer within its limits runs on SPIC and
on TWI and ends; a long stretch ends one. A SESSION frame for this tile, with space, within the rate and no repeat, establishes the
session where nothing refuses it, is answered with the certificate, and asks for a report; REPORT and ATT_CERT are taken, and a report
that is ready is delivered. (What the lines show is an operand, log entry 45; sessions judged within their command, log entry 46.) -/
def Obligations.BusAndSessionsComplete : Prop :=
  (∀ (s s1 : State) (a : Access) (twi : Bool) (p o : Nat) (w : Who) (g : Reg),
    accepted s.begin_ a (gcmdAddr twi) 1 = some (s1, w, p, o, g) → s1.grantOf twi = none →
    Runs (.request a twi) s fun t => t.grantOf twi = some (w.slot % 16) ∧ t.outs = doneOuts) ∧
  (∀ (s s1 : State) (a : Access) (twi : Bool) (p o : Nat) (w : Who) (g : Reg),
    accepted s.begin_ a (gcmdAddr twi) 2 = some (s1, w, p, o, g) →
    Runs (.release a twi) s fun t => t.grantOf twi = none ∧ t.outs = doneOuts) ∧
  (∀ (s s1 : State) (a : Access) (freed : Bool) (p o : Nat) (w : Who) (g : Reg),
    accepted s.begin_ a (gcmdAddr true) 3 = some (s1, w, p, o, g) → s1.ser.twiX = none →
    Runs (.busclear a freed) s fun t => t.fg TWI_STAT_STUCK = b2n (!freed)) ∧
  (∀ (s : State) (twi : Bool) (rx : StopRx) (n : Nat), s.grantOf twi = some n →
    Runs (.grantExpire twi rx) s fun t => t.grantOf twi = none) ∧
  (∀ (s s1 : State) (a : Access) (v : Word) (p o : Nat) (w : Who) (g : Reg),
    accepted s.begin_ a (regAddr pgSPIC SPIC_XFER.off) v.toNat = some (s1, w, p, o, g) → 1 ≤ bitsOf v.toNat 30 16 →
    bitsOf v.toNat 30 16 ≤ 16384 → s1.ser.spicX = none → (∀ x, s1.ser.kept = some x → x = v.toNat % 8) →
    Runs (.spicTransfer a v) s fun t => t.ser.spicX.isSome = true ∧ t.fg SPIC_CTRL_BUSY = 1) ∧
  (∀ (s : State) (rx : List Bool) (x : SpicX), s.ser.spicX = some x →
    Runs (.spicTransferDone rx) s fun t => t.ser.spicX = none ∧ t.fg SPIC_CTRL_BUSY = 0) ∧
  (∀ (s s1 : State) (a : Access) (v : Word) (p o : Nat) (w : Who) (g : Reg),
    accepted s.begin_ a (regAddr pgTWI TWI_XFER.off) v.toNat = some (s1, w, p, o, g) →
    1 ≤ bitsOf v.toNat 25 17 + bitsOf v.toNat 16 8 → bitsOf v.toNat 25 17 + bitsOf v.toNat 16 8 ≤ 256 → 8 ≤ v.toNat % 128 →
    v.toNat % 128 < 0x78 → s1.fg TWI_STAT_STUCK = 0 → s1.ser.twiX = none →
    Runs (.twiTransfer a v none) s fun t => t.ser.twiX.isSome = true ∧ t.fg TWI_STAT_BUSY = 1) ∧
  (∀ (s : State) (r : TwiEnd) (x : TwiX), s.ser.twiX = some x → x.wait = none →
    Runs (.twiTransferDone r) s fun t => t.ser.twiX = none ∧ t.fg TWI_STAT_BUSY = 0) ∧
  (∀ (s : State) (i : Nat) (freed : Bool) (x : TwiX), s.ser.twiX = some x → x.wait = none →
    Runs (.stretchTimeout i freed) s fun t => t.ser.twiX = none ∧ t.hasFault pgTWI 1 = true) ∧
  (∀ (s s1 : State) (f : Frame) (c k m : Nat), s.begin_.rxDown f 9 = (s1, true) → s1.ownId = some f.first → mgmtRoom f = true →
    s1.loaderServes f = true → 1 ≤ s1.fg OSEC_RATE_PER_S → nth s1.sec.served f.port.val [] = [] → s1.sec.replies = [] →
    s1.establishFail f c k = none → f.tenant.val < s1.keys.length →
    Runs (.establish f c k m) s fun t => t.tst f.tenant.val = tACTIVE ∧ (t.slotKeys f.tenant.val).mkey = m) ∧
  (∀ (s s1 : State) (f : Frame), s.begin_.rxDown f 9 = (s1, true) → s1.ownId = some f.first → mgmtRoom f = true →
    s1.loaderServes f = true → 1 ≤ s1.fg OSEC_RATE_PER_S → nth s1.sec.served f.port.val [] = [] → s1.sec.replies = [] → s1.secBusy = false →
    s1.passes f.port.val = true →
    Runs (.cert f) s fun t => t.outs = s1.outs ++ [.sessrep (s1.upHdr 10 f.tenant.val false 0 (certLen + 199)) f.port.val f.tenant.val 0x0D00 0
        ([4, 0, 0x0D, 0] ++ (be 2 certLen ++ certBytes))]) ∧
  (∀ (s s1 : State) (f : Frame) (nonce : List Word), s.begin_.rxDown f 9 = (s1, true) → s1.ownId = some f.first → mgmtRoom f = true →
    s1.loaderServes f = true → 1 ≤ s1.fg OSEC_RATE_PER_S → nth s1.sec.served f.port.val [] = [] → s1.sec.replies = [] → s1.secBusy = false →
    Runs (.attest f nonce) s fun t => t.sec.att.length = s1.sec.att.length + 1) ∧
  (∀ (s s1 : State) (a : Access) (p o : Nat) (w : Who) (g : Reg),
    accepted s.begin_ a (regAddr pgATTEST ATT_CMD.off) 1 = some (s1, w, p, o, g) → s1.fgb w.bank ATT_STAT_BUSY = 0 → s1.secBusy = false →
    Runs (.report a) s fun t => t.fgb w.bank ATT_STAT_BUSY = 1 ∧ t.outs = doneOuts) ∧
  (∀ (s s1 : State) (a : Access) (p o : Nat) (w : Who) (g : Reg),
    accepted s.begin_ a (regAddr pgATTEST ATT_CMD.off) 2 = some (s1, w, p, o, g) → s1.fgb w.bank ATT_STAT_BUSY = 0 → s1.secBusy = false →
    Runs (.attCert a) s fun t => t.fgb w.bank ATT_STAT_READY = 1 ∧ t.outs = doneOuts) ∧
  (∀ (s : State) (r : AttReq) (rest : List AttReq), s.sec.att = r :: rest →
    Runs .attestationReady s fun t => t.sec.att = rest ∧ (r.sess = none → t.fgb r.bank ATT_STAT_READY = 1))

/-- An object that no check refuses, by frame or by SUBMIT, waits for its span boundary. There each kind of it acts: VOUCHER, TRANSFER,
ENROL, UNENROL, KEYWRAP, DEBUG, POLICY, OTPCFG. DBGCHAL makes a challenge that ends after its time, and RAISE is taken. (Judging within
the command: log entry 46.) -/
def Obligations.SignedObjectsComplete : Prop :=
  (∀ (s s1 : State) (f : Frame) (o : Obj), s.begin_.rxDown f 9 = (s1, true) → s1.ownId = some f.first → mgmtRoom f = true →
    s1.loaderServes f = true → 1 ≤ s1.fg OSEC_RATE_PER_S → nth s1.sec.served f.port.val [] = [] → s1.sec.replies = [] → s1.secBusy = false →
    s1.objCheck o = none → Runs (.object f o) s fun t => t.sec.acc = s1.sec.acc ++ [o]) ∧
  (∀ (s s1 : State) (a : Access) (v : Word) (ob : Obj) (p o : Nat) (w : Who) (g : Reg),
    accepted s.begin_ a (regAddr pgOSEC OSEC_CMD.off) (bitsOf v.toNat 27 16 * 2 ^ 16 + 1) = some (s1, w, p, o, g) →
    24 ≤ bitsOf v.toNat 27 16 → bitsOf v.toNat 27 16 ≤ 2048 → s1.secBusy = false → s1.objCheck ob = none →
    Runs (.submit a v ob) s fun t => t.sec.acc = s1.sec.acc ++ [ob] ∧ t.outs = doneOuts) ∧
  (∀ (s : State) (o : Obj) (pub : Nat), s.sec.acc = [o] → o.body = .voucher pub → s.owned = false →
    Runs .voucher s fun t => t.sec.store.owned = true ∧ t.sec.store.owner = pub ∧ t.fg OSEC_LC_LC = 2) ∧
  (∀ (s : State) (o : Obj) (next : Nat), s.sec.acc = [o] → o.body = .transfer next →
    Runs .transfer s fun t => t.sec.transfer = (if next = 0 then none else some next) ∧ (next = 0 → t.sec.store.owned = false)) ∧
  (∀ (s : State) (o : Obj) (role wp pub : Nat) (pw pr : List Word), s.sec.acc = [o] → o.body = .enrol role wp pw pr pub →
    Runs .enrol s fun t => t.tst o.slot.val = tENROLLED ∧ roleR t.regs o.slot.val = role % 8) ∧
  (∀ (s : State) (o : Obj), s.sec.acc = [o] → o.body = .unenrol → Runs .unenrol s fun t => t.tst o.slot.val = tEMPTY) ∧
  (∀ (s : State) (o : Obj) (kind gen act key : Nat), s.sec.acc = [o] → o.body = .keywrap kind gen act key →
    s.tst o.slot.val ≠ tEMPTY → o.slot.val < s.keys.length → kind < (s.slotKeys o.slot.val).kinds.length →
    Runs .keywrap s fun t => (t.chainKey o.slot.val kind).cur = (if (s.chainKey o.slot.val kind).cur = none then some (gen, key) else
        (s.chainKey o.slot.val kind).cur) ∧
      ((s.chainKey o.slot.val kind).cur ≠ none → (t.chainKey o.slot.val kind).pend = some (gen, key, act))) ∧
  (∀ (s : State) (o : Obj) (chal : List Word) (scope : Word), s.sec.acc = [o] → o.body = .debug chal scope → scope.toNat < 32 →
    Runs .debug s fun t => t.fg OSEC_LC_DEBUGGED = 1 ∧ t.fg DBG_SCOPE_SCOPE = Nat.lor (s.fg DBG_SCOPE_SCOPE) scope.toNat) ∧
  (∀ (s : State) (o : Obj) (flags : Word) (m : List Nat), s.sec.acc = [o] → o.body = .policy flags m →
    Runs .policy s fun t => t.sec.store.flags = flags.toNat % 4) ∧
  (∀ (s : State) (o : Obj) (b : List Nat), s.sec.acc = [o] → o.body = .otpcfg b →
    Runs .otpcfg s fun t => t.sec.cfgs = s.sec.cfgs ++ [some b]) ∧
  (∀ (s s1 : State) (a : Access) (p o : Nat) (w : Who) (g : Reg),
    accepted s.begin_ a (regAddr pgOSEC OSEC_CMD.off) 2 = some (s1, w, p, o, g) → w.isT0 = true → s1.secBusy = false →
    Runs (.dbgchal a) s fun t => t.fg OSEC_STAT_CHAL = 1 ∧ t.sec.chalEnd = s.now + 300 * Config.sec ∧ t.outs = doneOuts) ∧
  (∀ (s s1 : State) (a : Access) (p o : Nat) (w : Who) (g : Reg),
    accepted s.begin_ a (regAddr pgOSEC OSEC_CMD.off) 3 = some (s1, w, p, o, g) → w.isT0 = true → s1.secBusy = false → s1.nvOk = true →
    Runs (.raise a) s fun t => t.fg OSEC_RES_CODE = 0x0D00 ∧ t.outs = doneOuts) ∧
  (∀ s : State, s.fg OSEC_STAT_CHAL = 1 →
    Runs .challengeExpire s fun t => t.fg OSEC_STAT_CHAL = 0 ∧ t.now = max s.now s.sec.chalEnd)

/-- BEGIN, ABORT, ARM, DISARM, both ACTIVATEs, APPLYCFG and CANCEL, accepted and refused by nothing, take the update to its next state. A
piece programmed has its bit; its journal's timer writes a record; arming ends or goes on with the companions; a due activation begins and
ends; each stage of a handover is followed by the next; a companion is polled; a due bundle is loaded, and one in force at power-up is
loaded again; a boot succeeds or fails. (The model's readings of chapter 16: log entries 48 to 50.) -/
def Obligations.UpdatesComplete : Prop :=
  (∀ (s s1 : State) (a : Access) (p o : Nat) (w : Who) (g : Reg),
    accepted s.begin_ a (regAddr pgUPD UPD_CMD.off) 1 = some (s1, w, p, o, g) → s1.beginFail = none →
    Runs (.begin a) s fun t => t.updState = 1 ∧ t.upd.upid = s1.fg UPD_ID_UPID ∧ t.outs = doneOuts) ∧
  (∀ (s s1 : State) (a : Access) (p o : Nat) (w : Who) (g : Reg),
    accepted s.begin_ a (regAddr pgUPD UPD_CMD.off) 2 = some (s1, w, p, o, g) → s1.loader = false → 1 ≤ s1.updState →
    s1.updState ≤ 4 → Runs (.updAbort a) s fun t => t.updState = 0 ∧ t.upd.queue = []) ∧
  (∀ (s s1 : State) (a : Access) (p o : Nat) (w : Who) (g : Reg),
    accepted s.begin_ a (regAddr pgUPD UPD_CMD.off) 3 = some (s1, w, p, o, g) → s1.updState = 2 → (s1.upd.kind = 0 ∨ s1.upd.kind = 3) →
    Runs (.arm a) s fun t => t.updState = 3 ∧ t.outs = doneOuts) ∧
  (∀ (s s1 : State) (a : Access) (p o : Nat) (w : Who) (g : Reg),
    accepted s.begin_ a (regAddr pgUPD UPD_CMD.off) 4 = some (s1, w, p, o, g) → s1.loader = false → 3 ≤ s1.updState →
    s1.updState ≤ 4 → Runs (.disarm a) s fun t => t.updState = 2) ∧
  (∀ (s s1 : State) (a : Access) (trig : Fin 4) (p o : Nat) (w : Who) (g : Reg),
    accepted s.begin_ a (regAddr pgUPD UPD_CMD.off) (trig.val * 256 + 5) = some (s1, w, p, o, g) → s1.loader = false →
    s1.updState = 4 → s1.pendAct = none → s1.trigRefused (if trig = 1 then some (s1.fg UPD_TDCN_DCN) else none) = none →
    Runs (.activatePause a trig) s fun t => t.fg UPD_STAT_PEND = 1 ∧ t.upd.pend.length = s1.upd.pend.length + 1) ∧
  (∀ (s s1 : State) (a : Access) (trig : Fin 4) (p o : Nat) (w : Who) (g : Reg),
    accepted s.begin_ a (regAddr pgUPD UPD_CMD.off) (trig.val * 256 + 0x15) = some (s1, w, p, o, g) → s1.loader = false →
    s1.updState = 4 → s1.pendAct = none → s1.handoverFail (if trig = 1 then some (s1.fg UPD_TDCN_DCN) else none) = none →
    s1.trigRefused (if trig = 1 then some (s1.fg UPD_TDCN_DCN) else none) = none →
    Runs (.activateHandover a trig) s fun t => t.fg UPD_STAT_PEND = 1 ∧ t.upd.pend.length = s1.upd.pend.length + 1) ∧
  (∀ (s s1 : State) (a : Access) (trig : Fin 4) (b : BundleRead) (p o : Nat) (w : Who) (g : Reg),
    accepted s.begin_ a (regAddr pgUPD UPD_CMD.off) (trig.val * 256 + 6) = some (s1, w, p, o, g) → s1.loader = false →
    s1.updState = 2 → (s1.upd.kind = 1 ∨ s1.upd.kind = 2) → (s1.upd.pend.any fun x => x.cfg) = false → s1.bundleFail b = none →
    s1.clipsOver b = none → s1.trigRefused (if trig = 1 then some (s1.fg UPD_TDCN_DCN) else none) = none →
    Runs (.applycfg a trig b) s fun t => t.upd.bundle = some b ∧ t.upd.pend.length = s1.upd.pend.length + 1) ∧
  (∀ (s s1 : State) (a : Access) (p o : Nat) (w : Who) (g : Reg),
    accepted s.begin_ a (regAddr pgUPD UPD_CMD.off) 7 = some (s1, w, p, o, g) → s1.loader = false → s1.upd.pend ≠ [] →
    Runs (.updCancel a) s fun t => t.upd.pend = []) ∧
  (∀ (s : State) (p : Piece) (rest : List Piece), s.upd.queue = p :: rest →
    (2 ≤ s.upd.kind ∨ s.upd.prog = true ∨ s.nvOk = true) →
    Runs .pieceProgrammed s fun t => t.upd.queue = rest ∧ cget t.upd.got p.index false = true) ∧
  (∀ (s : State) (t0 : Nat), s.upd.unjAt = some t0 → s.upd.kind ≤ 1 → s.nvOk = true → s.updState ≠ 0 →
    Runs .pieceJournalTimer s fun t => t.now = max s.now (t0 + 10 * Config.sec) ∧ t.upd.jrec.isSome = true) ∧
  (∀ (s : State) (r : ImgRead), s.updState = 3 → s.upd.comp = none →
    Runs (.armComplete r) s fun t => t.updState ≠ 3 ∨ t.upd.comp.isSome = true) ∧
  (∀ (s : State) (a : Act), s.begin_.pendAct = some a → State.actDue a (add32 s.begin_.dcn 1) = true → s.updState = 4 → s.nvOk = true →
    Runs .activation s fun t => t.updState = 5 ∧ t.pendAct = none) ∧
  (∀ (s : State) (bad : Option Nat), s.actPaused = true →
    Runs (.activationComplete bad) s fun t => t.actPaused = false) ∧
  (∀ s : State, 1 ≤ s.upd.stage → s.upd.stage ≤ 5 → Runs .handoverStage s fun t => t.upd.stage = s.upd.stage + 1) ∧
  (∀ (s : State) (reply : Option (Nat × Nat)) (x : CompSt) (c : Nat) (cs : List Nat), s.upd.comp = some x → x.todo = c :: cs →
    x.held = false → s.compFree c = true →
    Runs (.companionStatusPoll reply) s fun t => max s.now (x.pollAt + 10 * Config.ms) ≤ t.now) ∧
  (∀ (s : State) (a : Act) (b : BundleRead), s.upd.pend = [a] → a.cfg = true → (a.kind = 2 ∨ s.nvOk = true) →
    State.actDue a (add32 s.begin_.dcn 1) = true → s.upd.bundle = some b →
    Runs .bundleApply s fun t => t.upd.pend = [] ∧ t.upd.loading = some b) ∧
  (∀ (s : State) (b : BundleRead), s.upd.loading = some b → Runs .bundleLoaded s fun t => t.upd.loading = none) ∧
  (∀ (s : State) (b : BundleRead), s.fg SLOT_BOOT_BUNDLE ≠ 0 → s.pow.trimDone = true → s.upd.loading = none →
    nth s.upd.areas (s.fg SLOT_BOOT_BUNDLE - 1) none = none → s.begin_.bundleFail b = none →
    Runs (.bundleReload b) s fun t => t.upd.loading = some b) ∧
  (∀ (s : State) (x y : ImgRead), s.pow.trimDone = false → s.mode = .trim → s.pow.booted = false → s.loader = false → s.strap 1 0 = 0 →
    Runs (.boot x y) s fun t => t.pow.booted = true ∨ t.pow.bootFails = s.pow.bootFails + 1 ∨ t.mode = .recovery)
end

