-- ==== Sys2Proof/Laws/Bits.lean ====
section
/-! SUPPORT. Laws of bit fields: a field reads back what was put into it, and every other field is left alone. -/

namespace Sys2Proof

theorem bitsOf_def (v hi lo : Nat) : bitsOf v hi lo = v / 2 ^ lo % 2 ^ (hi + 1 - lo) := by
  rw [bitsOf, Nat.shiftRight_eq_div_pow]

theorem bitsOf_lt (v hi lo : Nat) : bitsOf v hi lo < 2 ^ (hi + 1 - lo) := Nat.mod_lt _ (Nat.two_pow_pos _)

/-- A word as its part above a field, the field, and the part below. -/
theorem bitsOf_split (v hi lo : Nat) :
    v = 2 ^ lo * (2 ^ (hi + 1 - lo) * (v / 2 ^ lo / 2 ^ (hi + 1 - lo)) + bitsOf v hi lo) + v % 2 ^ lo := by
  rw [bitsOf_def, Nat.div_add_mod, Nat.div_add_mod]

/-- Putting a field changes only the field. -/
theorem putBits_split (v hi lo x : Nat) :
    putBits v hi lo x =
      2 ^ lo * (2 ^ (hi + 1 - lo) * (v / 2 ^ lo / 2 ^ (hi + 1 - lo)) + x % 2 ^ (hi + 1 - lo)) + v % 2 ^ lo := by
  have h := bitsOf_split v hi lo
  unfold putBits
  generalize bitsOf v hi lo = f at h ⊢
  generalize v / 2 ^ lo / 2 ^ (hi + 1 - lo) = q at h ⊢
  generalize v % 2 ^ lo = r at h ⊢
  generalize x % 2 ^ (hi + 1 - lo) = y
  generalize 2 ^ lo = a at h ⊢
  generalize 2 ^ (hi + 1 - lo) = c at h ⊢
  subst h
  have e : a * (c * q + f) + r - f * a = a * (c * q) + r := by
    rw [Nat.mul_add, Nat.mul_comm f a]
    omega
  rw [e, Nat.mul_add, Nat.mul_comm y a]
  omega

@[simp] theorem bitsOf_putBits (v hi lo x : Nat) : bitsOf (putBits v hi lo x) hi lo = x % 2 ^ (hi + 1 - lo) := by
  rw [bitsOf_def, putBits_split, Nat.mul_add_div (Nat.two_pow_pos _), Nat.div_eq_of_lt (Nat.mod_lt _ (Nat.two_pow_pos _)),
    Nat.add_zero, Nat.mul_add_mod, Nat.mod_mod]

/-- A field above is left alone. -/
theorem bitsOf_putBits_above {v hi lo x hi' lo' : Nat} (h : hi < lo') (hl : lo ≤ hi) :
    bitsOf (putBits v hi lo x) hi' lo' = bitsOf v hi' lo' := by
  have e : ∀ n : Nat, n / 2 ^ lo' = n / 2 ^ lo / 2 ^ (hi + 1 - lo) / 2 ^ (lo' - (hi + 1)) := by
    intro n
    rw [Nat.div_div_eq_div_mul, Nat.div_div_eq_div_mul, ← pow_add, ← pow_add]
    congr 2
    omega
  rw [bitsOf_def, bitsOf_def, e, e v]
  congr 2
  rw [putBits_split, Nat.mul_add_div (Nat.two_pow_pos _), Nat.div_eq_of_lt (Nat.mod_lt _ (Nat.two_pow_pos _)), Nat.add_zero,
    Nat.mul_add_div (Nat.two_pow_pos _), Nat.div_eq_of_lt (Nat.mod_lt x (Nat.two_pow_pos _)), Nat.add_zero]

/-- A field below is left alone. -/
theorem bitsOf_putBits_below {v hi lo x hi' lo' : Nat} (h : hi' < lo) (hl : lo' ≤ hi') :
    bitsOf (putBits v hi lo x) hi' lo' = bitsOf v hi' lo' := by
  have e : ∀ n : Nat, bitsOf n hi' lo' = bitsOf (n % 2 ^ lo) hi' lo' := by
    intro n
    rw [bitsOf_def, bitsOf_def]
    have h1 : (2 : Nat) ^ lo = 2 ^ lo' * 2 ^ (lo - lo') := by rw [← pow_add]; congr 1; omega
    have h2 : (2 : Nat) ^ (hi' + 1 - lo') ∣ 2 ^ (lo - lo') := pow_dvd_pow 2 (by omega)
    rw [h1, Nat.mod_mul_right_div_self, Nat.mod_mod_of_dvd _ h2]
  rw [e, e v, putBits_split, Nat.mul_add_mod, Nat.mod_mod]

/-- A 32-bit word stays one. -/
theorem putBits_lt {v hi lo x : Nat} (hv : v < 2 ^ 32) (hl : lo ≤ hi) (hh : hi < 32) : putBits v hi lo x < 2 ^ 32 := by
  rw [putBits_split]
  have h32 : (2 : Nat) ^ 32 = 2 ^ lo * (2 ^ (hi + 1 - lo) * 2 ^ (32 - (hi + 1))) := by
    rw [← pow_add, ← pow_add]; congr 1; omega
  have hq : v / 2 ^ lo / 2 ^ (hi + 1 - lo) < 2 ^ (32 - (hi + 1)) := by
    rw [Nat.div_lt_iff_lt_mul (Nat.two_pow_pos _), Nat.div_lt_iff_lt_mul (Nat.two_pow_pos _)]
    calc v < 2 ^ 32 := hv
      _ = _ := by rw [h32]; ring
  have hr : v % 2 ^ lo < 2 ^ lo := Nat.mod_lt _ (Nat.two_pow_pos _)
  have hx : x % 2 ^ (hi + 1 - lo) < 2 ^ (hi + 1 - lo) := Nat.mod_lt _ (Nat.two_pow_pos _)
  rw [h32]
  generalize v / 2 ^ lo / 2 ^ (hi + 1 - lo) = q at *
  generalize v % 2 ^ lo = r at *
  generalize x % 2 ^ (hi + 1 - lo) = y at *
  generalize 2 ^ lo = a at *
  generalize 2 ^ (hi + 1 - lo) = c at *
  generalize 2 ^ (32 - (hi + 1)) = d at *
  have h1 : c * q + y < c * d := by
    calc c * q + y < c * q + c := by omega
      _ = c * (q + 1) := by ring
      _ ≤ c * d := Nat.mul_le_mul_left c hq
  calc a * (c * q + y) + r < a * (c * q + y) + a := by omega
    _ = a * (c * q + y + 1) := by ring
    _ ≤ a * (c * d) := Nat.mul_le_mul_left a h1

end Sys2Proof
end

