-- ==== Sys2Proof/Laws/Cells.lean ====
section
/-! SUPPORT. Laws of the sparse memories: reading after writing, and every operation keeps the canonical form. -/

namespace Sys2Proof.Machine

variable {α : Type}

theorem cget_cdel_ne (m : Cells α) {k j : Nat} (d : α) (h : j ≠ k) : cget (cdel m k) j d = cget m j d := by
  induction m with
  | nil => rfl
  | cons x m ih =>
    obtain ⟨a, v⟩ := x
    by_cases hk : a = k
    · have : ¬ a = j := by omega
      simp only [cdel, hk, if_true, cget, ih]
      simp [Ne.symm h]
    · simp only [cdel, hk, if_false, cget, ih]

theorem cget_cins_ne (m : Cells α) {k j : Nat} (v d : α) (h : j ≠ k) : cget (cins m k v) j d = cget m j d := by
  induction m with
  | nil => simp [cins, cget, Ne.symm h]
  | cons x m ih =>
    obtain ⟨a, w⟩ := x
    simp only [cins]
    split
    · simp [cget, Ne.symm h]
    · split
      · rename_i h1
        subst h1
        simp [cget, Ne.symm h]
      · simp only [cget, ih]

theorem cget_cins (m : Cells α) (k : Nat) (v d : α) : cget (cins m k v) k d = v := by
  induction m with
  | nil => simp [cins, cget]
  | cons x m ih =>
    obtain ⟨a, w⟩ := x
    simp only [cins]
    split
    · simp [cget]
    · split
      · simp [cget]
      · rename_i h1
        simp [cget, Ne.symm h1, ih]

variable [DecidableEq α]

theorem cwfFrom_mono (d : Nat → α) {m : Cells α} {lo lo' : Nat} (hl : lo' ≤ lo) (h : cwfFrom d lo m = true) :
    cwfFrom d lo' m = true := by
  cases m with
  | nil => rfl
  | cons x m =>
    obtain ⟨a, v⟩ := x
    simp only [cwfFrom, Bool.and_eq_true, decide_eq_true_eq] at h ⊢
    exact ⟨⟨by omega, h.1.2⟩, h.2⟩

theorem cget_low (d : Nat → α) {m : Cells α} {lo k : Nat} (e : α) (hk : k < lo) (h : cwfFrom d lo m = true) : cget m k e = e := by
  induction m generalizing lo with
  | nil => rfl
  | cons x m ih =>
    obtain ⟨a, v⟩ := x
    simp only [cwfFrom, Bool.and_eq_true, decide_eq_true_eq] at h
    have : ¬ a = k := by omega
    simp only [cget, this, if_false]
    exact ih (lo := a + 1) (by omega) h.2

theorem cwfFrom_cdel (d : Nat → α) {m : Cells α} {lo : Nat} (k : Nat) (h : cwfFrom d lo m = true) :
    cwfFrom d lo (cdel m k) = true := by
  induction m generalizing lo with
  | nil => rfl
  | cons x m ih =>
    obtain ⟨a, v⟩ := x
    simp only [cwfFrom, Bool.and_eq_true, decide_eq_true_eq] at h
    simp only [cdel]
    split
    · exact cwfFrom_mono d (by omega) (ih h.2)
    · simp only [cwfFrom, Bool.and_eq_true, decide_eq_true_eq]
      exact ⟨h.1, ih h.2⟩

theorem cwfFrom_cins (d : Nat → α) {m : Cells α} {lo : Nat} {k : Nat} {v : α} (hk : lo ≤ k) (hv : v ≠ d k)
    (h : cwfFrom d lo m = true) : cwfFrom d lo (cins m k v) = true := by
  induction m generalizing lo with
  | nil => simp [cins, cwfFrom, hk, hv]
  | cons x m ih =>
    obtain ⟨a, w⟩ := x
    simp only [cwfFrom, Bool.and_eq_true, decide_eq_true_eq] at h
    simp only [cins]
    split
    · simp only [cwfFrom, Bool.and_eq_true, decide_eq_true_eq]
      exact ⟨⟨hk, hv⟩, ⟨by omega, h.1.2⟩, h.2⟩
    · split
      · rename_i h1
        subst h1
        simp only [cwfFrom, Bool.and_eq_true, decide_eq_true_eq]
        exact ⟨⟨hk, hv⟩, h.2⟩
      · simp only [cwfFrom, Bool.and_eq_true, decide_eq_true_eq]
        exact ⟨h.1, ih (by omega) h.2⟩

/-- A write keeps the canonical form. -/
theorem cwf_cput (d : Nat → α) {m : Cells α} (k : Nat) (v : α) (h : cwf d m = true) : cwf d (cput m k v (d k)) = true := by
  unfold cput
  split
  · exact cwfFrom_cdel d k h
  · rename_i hv
    exact cwfFrom_cins d (Nat.zero_le k) hv h

omit [DecidableEq α] in
theorem cget_cdel (m : Cells α) (k : Nat) (e : α) : cget (cdel m k) k e = e := by
  induction m with
  | nil => rfl
  | cons x m ih =>
    obtain ⟨a, v⟩ := x
    simp only [cdel]
    split
    · exact ih
    · rename_i h1
      simp only [cget, h1, if_false, ih]

/-- A read after a write of the same cell gives the value written. -/
theorem cget_cput (m : Cells α) (k : Nat) (v d : α) : cget (cput m k v d) k d = v := by
  unfold cput
  split
  · rename_i hv
    rw [cget_cdel m k d, hv]
  · exact cget_cins m k v d

/-- A write leaves every other cell alone. -/
theorem cget_cput_ne (m : Cells α) {k j : Nat} (v e d : α) (h : j ≠ k) : cget (cput m k v e) j d = cget m j d := by
  unfold cput
  split
  · exact cget_cdel_ne m d h
  · exact cget_cins_ne m v d h

theorem cwf_nil (d : Nat → α) : cwf d [] = true := rfl

theorem cwfFrom_dflt (d : Nat → α) {m : Cells α} {lo : Nat} (h : cwfFrom d lo m = true) (x : Nat × α) (hx : x ∈ m) :
    lo ≤ x.1 ∧ x.2 ≠ d x.1 := by
  induction m generalizing lo with
  | nil => cases hx
  | cons y m ih =>
    obtain ⟨a, v⟩ := y
    simp only [cwfFrom, Bool.and_eq_true, decide_eq_true_eq] at h
    rcases List.mem_cons.mp hx with rfl | hx
    · exact ⟨h.1.1, h.1.2⟩
    · obtain ⟨h1, h2⟩ := ih h.2 hx
      exact ⟨by omega, h2⟩

/-- Two memories in canonical form that read alike at every key are the same list. -/
theorem cwf_ext (d : Nat → α) {m n : Cells α} (hm : cwf d m = true) (hn : cwf d n = true)
    (h : ∀ k, cget m k (d k) = cget n k (d k)) : m = n := by
  have aux : ∀ (lo : Nat) (m n : Cells α), cwfFrom d lo m = true → cwfFrom d lo n = true →
      (∀ k, cget m k (d k) = cget n k (d k)) → m = n := by
    intro lo m
    induction m generalizing lo with
    | nil =>
      intro n _ hn h
      cases n with
      | nil => rfl
      | cons y n =>
        obtain ⟨b, w⟩ := y
        have := h b
        simp only [cwfFrom, Bool.and_eq_true, decide_eq_true_eq] at hn
        simp only [cget, if_true] at this
        exact absurd this.symm hn.1.2
    | cons x m ih =>
      obtain ⟨a, v⟩ := x
      intro n hm hn h
      simp only [cwfFrom, Bool.and_eq_true, decide_eq_true_eq] at hm
      cases n with
      | nil =>
        have := h a
        simp only [cget, if_true] at this
        exact absurd this hm.1.2
      | cons y n =>
        obtain ⟨b, w⟩ := y
        simp only [cwfFrom, Bool.and_eq_true, decide_eq_true_eq] at hn
        have hab : a = b := by
          rcases Nat.lt_trichotomy a b with hl | he | hl
          · have := h a
            have hb : ¬ b = a := by omega
            simp only [cget, if_true, hb, if_false] at this
            rw [cget_low d (d a) (lo := b + 1) (by omega) hn.2] at this
            exact absurd this hm.1.2
          · exact he
          · have := h b
            have hb : ¬ a = b := by omega
            simp only [cget, if_true, hb, if_false] at this
            rw [cget_low d (d b) (lo := a + 1) (by omega) hm.2] at this
            exact absurd this.symm hn.1.2
        subst hab
        have hv : v = w := by simpa [cget] using h a
        subst hv
        congr 1
        refine ih (a + 1) n hm.2 hn.2 fun k => ?_
        by_cases hk : a = k
        · subst hk
          rw [cget_low d (d a) (lo := a + 1) (by omega) hm.2, cget_low d (d a) (lo := a + 1) (by omega) hn.2]
        · simpa [cget, hk] using h k
  exact aux 0 m n hm hn h

end Sys2Proof.Machine
end

