-- ==== Sys2Proof/Laws/Regs.lean ====
section
/-! SUPPORT. Laws of the register file (R7, R35): a field reads back what was set, and setting a field leaves every other field and
every other register alone. -/

namespace Sys2Proof.Machine

theorem rget_lt (r : Regs) (b p o : Nat) : rget r b p o < 2 ^ 32 := BitVec.isLt _

theorem rget_rput (r : Regs) (b p o v : Nat) : rget (rput r b p o v) b p o = v % 2 ^ 32 := by
  rw [rget, rput, cget_cput, BitVec.toNat_ofNat]

theorem rget_rput_ne (r : Regs) {b p o b' p' o' : Nat} (v : Nat) (h : regKey b' p' o' ≠ regKey b p o) :
    rget (rput r b p o v) b' p' o' = rget r b' p' o' := by
  rw [rget, rget, rput, cget_cput_ne _ _ _ _ h]

/-- Fields of a 32-bit register. -/
def FRef.fits (f : FRef) : Prop := f.lo ≤ f.hi ∧ f.hi < 32

/-- A field reads back what was set, narrowed to its width. -/
theorem rfgetB_rfputB (r : Regs) (b : Nat) {f : FRef} (hf : f.fits) (i k v : Nat) :
    rfgetB (rfputB r b f i k v) b f i k = v % 2 ^ (f.hi + 1 - f.lo) := by
  rw [rfgetB, rfputB, rget_rput, Nat.mod_eq_of_lt (putBits_lt (rget_lt _ _ _ _) hf.1 hf.2), bitsOf_putBits]

/-- Setting a field leaves another register alone. -/
theorem rfgetB_rfputB_ne (r : Regs) {b b' : Nat} {f f' : FRef} {i k i' k' : Nat} (v : Nat)
    (h : regKey b' (f'.page + i') (f'.off + k' * f'.stride) ≠ regKey b (f.page + i) (f.off + k * f.stride)) :
    rfgetB (rfputB r b f i k v) b' f' i' k' = rfgetB r b' f' i' k' := by
  rw [rfgetB, rfgetB, rfputB, rget_rput_ne _ _ h]

/-- Setting a field leaves the fields beside it alone. -/
theorem rfgetB_rfputB_field (r : Regs) {b : Nat} {f f' : FRef} {i k i' k' : Nat} (v : Nat) (hf : f.fits) (hf' : f'.fits)
    (hp : f'.page + i' = f.page + i) (ho : f'.off + k' * f'.stride = f.off + k * f.stride) (h : f.hi < f'.lo ∨ f'.hi < f.lo) :
    rfgetB (rfputB r b f i k v) b f' i' k' = rfgetB r b f' i' k' := by
  rw [rfgetB, rfgetB, rfputB, hp, ho, rget_rput, Nat.mod_eq_of_lt (putBits_lt (rget_lt _ _ _ _) hf.1 hf.2)]
  rcases h with h | h
  · exact bitsOf_putBits_above h hf.1
  · exact bitsOf_putBits_below h hf'.1

namespace State

theorem fgk_fsk (s : State) {f : FRef} (hf : f.fits) (i k v : Nat) :
    (s.fsk f i k v).fgk f i k = v % 2 ^ (f.hi + 1 - f.lo) := rfgetB_rfputB _ _ hf _ _ _

theorem fgi_fsi (s : State) {f : FRef} (hf : f.fits) (i v : Nat) : (s.fsi f i v).fgi f i = v % 2 ^ (f.hi + 1 - f.lo) :=
  rfgetB_rfputB _ _ hf _ _ _

theorem fg_fs (s : State) {f : FRef} (hf : f.fits) (v : Nat) : (s.fs f v).fg f = v % 2 ^ (f.hi + 1 - f.lo) :=
  rfgetB_rfputB _ _ hf _ _ _

theorem fgb_fsb (s : State) (b : Nat) {f : FRef} (hf : f.fits) (v : Nat) : (s.fsb b f v).fgb b f = v % 2 ^ (f.hi + 1 - f.lo) :=
  rfgetB_rfputB _ _ hf _ _ _

/-- Two fields of instance 0 are apart: other registers, or other bits. -/
def apart (f g : FRef) : Bool :=
  decide (regKey 0 g.page g.off ≠ regKey 0 f.page f.off) ||
    (decide (g.page = f.page) && decide (g.off = f.off) && decide (f.lo ≤ f.hi) && decide (f.hi < 32) && decide (g.lo ≤ g.hi) &&
      decide (g.hi < 32) && (decide (f.hi < g.lo) || decide (g.hi < f.lo)))

theorem fg_fs_apart (s : State) {f g : FRef} (v : Nat) (h : apart f g = true) : (s.fs f v).fg g = s.fg g := by
  simp only [apart, Bool.or_eq_true, Bool.and_eq_true, decide_eq_true_eq] at h
  rcases h with h | ⟨⟨⟨⟨⟨⟨h1, h2⟩, h3⟩, h4⟩, h5⟩, h6⟩, h7⟩
  · exact rfgetB_rfputB_ne _ _ (by simpa using h)
  · exact rfgetB_rfputB_field _ _ ⟨h3, h4⟩ ⟨h5, h6⟩ (by simpa using h1) (by simpa using h2) h7

theorem regKey_bank (b p o : Nat) : regKey b p o = b * 2 ^ 20 + regKey 0 p o := by
  unfold regKey
  omega

theorem fgb_fsb_apart (s : State) (b : Nat) {f g : FRef} (v : Nat) (h : apart f g = true) : (s.fsb b f v).fgb b g = s.fgb b g := by
  simp only [apart, Bool.or_eq_true, Bool.and_eq_true, decide_eq_true_eq] at h
  rcases h with h | ⟨⟨⟨⟨⟨⟨h1, h2⟩, h3⟩, h4⟩, h5⟩, h6⟩, h7⟩
  · refine rfgetB_rfputB_ne _ _ ?_
    rw [regKey_bank b, regKey_bank b]
    simpa using h
  · exact rfgetB_rfputB_field _ _ ⟨h3, h4⟩ ⟨h5, h6⟩ (by simpa using h1) (by simpa using h2) h7

/-- Setting a field of another register of another instance or index. -/
theorem fgk_fsk_ne (s : State) {f g : FRef} {i k i' k' : Nat} (v : Nat)
    (h : regKey 0 (g.page + i') (g.off + k' * g.stride) ≠ regKey 0 (f.page + i) (f.off + k * f.stride)) :
    (s.fsk f i k v).fgk g i' k' = s.fgk g i' k' := rfgetB_rfputB_ne _ _ h

end State

end Sys2Proof.Machine
end

