-- ==== Sys2Proof/Laws/State.lean ====
section
/-! SUPPORT. What each update of the state changes and what it leaves alone: one lemma per field and update, so that no proof unfolds
an update. -/

namespace Sys2Proof.Machine.State

variable (s : State)

@[simp] theorem setReg_now (p o v : Nat) : (s.setReg p o v).now = s.now := rfl
@[simp] theorem setReg_outs (p o v : Nat) : (s.setReg p o v).outs = s.outs := rfl
@[simp] theorem setReg_freeCtr (p o v : Nat) : (s.setReg p o v).freeCtr = s.freeCtr := rfl
@[simp] theorem setReg_pending (p o v : Nat) : (s.setReg p o v).pending = s.pending := rfl
@[simp] theorem setReg_sram (p o v : Nat) : (s.setReg p o v).sram = s.sram := rfl
@[simp] theorem setReg_mode (p o v : Nat) : (s.setReg p o v).mode = s.mode := rfl
@[simp] theorem setReg_fab (p o v : Nat) : (s.setReg p o v).fab = s.fab := rfl
@[simp] theorem setReg_tens (p o v : Nat) : (s.setReg p o v).tens = s.tens := rfl
@[simp] theorem setReg_lnk (p o v : Nat) : (s.setReg p o v).lnk = s.lnk := rfl
@[simp] theorem setReg_keys (p o v : Nat) : (s.setReg p o v).keys = s.keys := rfl
@[simp] theorem setReg_tim (p o v : Nat) : (s.setReg p o v).tim = s.tim := rfl
@[simp] theorem setReg_feeds (p o v : Nat) : (s.setReg p o v).feeds = s.feeds := rfl
@[simp] theorem setReg_patts (p o v : Nat) : (s.setReg p o v).patts = s.patts := rfl
@[simp] theorem setReg_clips (p o v : Nat) : (s.setReg p o v).clips = s.clips := rfl
@[simp] theorem setReg_pix (p o v : Nat) : (s.setReg p o v).pix = s.pix := rfl
@[simp] theorem setReg_blend (p o v : Nat) : (s.setReg p o v).blend = s.blend := rfl
@[simp] theorem setReg_field (p o v : Nat) : (s.setReg p o v).field = s.field := rfl
@[simp] theorem setReg_scan (p o v : Nat) : (s.setReg p o v).scan = s.scan := rfl
@[simp] theorem setReg_health (p o v : Nat) : (s.setReg p o v).health = s.health := rfl
@[simp] theorem setReg_rdbk (p o v : Nat) : (s.setReg p o v).rdbk = s.rdbk := rfl
@[simp] theorem setReg_sense (p o v : Nat) : (s.setReg p o v).sense = s.sense := rfl
@[simp] theorem setReg_sup (p o v : Nat) : (s.setReg p o v).sup = s.sup := rfl
@[simp] theorem setReg_trim (p o v : Nat) : (s.setReg p o v).trim = s.trim := rfl
@[simp] theorem setReg_mem (p o v : Nat) : (s.setReg p o v).mem = s.mem := rfl
@[simp] theorem setReg_ser (p o v : Nat) : (s.setReg p o v).ser = s.ser := rfl
@[simp] theorem setReg_sec (p o v : Nat) : (s.setReg p o v).sec = s.sec := rfl
@[simp] theorem setReg_upd (p o v : Nat) : (s.setReg p o v).upd = s.upd := rfl
@[simp] theorem setReg_pow (p o v : Nat) : (s.setReg p o v).pow = s.pow := rfl

@[simp] theorem fs_now (f : FRef) (v : Nat) : (s.fs f v).now = s.now := rfl
@[simp] theorem fs_outs (f : FRef) (v : Nat) : (s.fs f v).outs = s.outs := rfl
@[simp] theorem fs_freeCtr (f : FRef) (v : Nat) : (s.fs f v).freeCtr = s.freeCtr := rfl
@[simp] theorem fs_pending (f : FRef) (v : Nat) : (s.fs f v).pending = s.pending := rfl
@[simp] theorem fs_sram (f : FRef) (v : Nat) : (s.fs f v).sram = s.sram := rfl
@[simp] theorem fs_mode (f : FRef) (v : Nat) : (s.fs f v).mode = s.mode := rfl
@[simp] theorem fs_fab (f : FRef) (v : Nat) : (s.fs f v).fab = s.fab := rfl
@[simp] theorem fs_tens (f : FRef) (v : Nat) : (s.fs f v).tens = s.tens := rfl
@[simp] theorem fs_lnk (f : FRef) (v : Nat) : (s.fs f v).lnk = s.lnk := rfl
@[simp] theorem fs_keys (f : FRef) (v : Nat) : (s.fs f v).keys = s.keys := rfl
@[simp] theorem fs_tim (f : FRef) (v : Nat) : (s.fs f v).tim = s.tim := rfl
@[simp] theorem fs_feeds (f : FRef) (v : Nat) : (s.fs f v).feeds = s.feeds := rfl
@[simp] theorem fs_patts (f : FRef) (v : Nat) : (s.fs f v).patts = s.patts := rfl
@[simp] theorem fs_clips (f : FRef) (v : Nat) : (s.fs f v).clips = s.clips := rfl
@[simp] theorem fs_pix (f : FRef) (v : Nat) : (s.fs f v).pix = s.pix := rfl
@[simp] theorem fs_blend (f : FRef) (v : Nat) : (s.fs f v).blend = s.blend := rfl
@[simp] theorem fs_field (f : FRef) (v : Nat) : (s.fs f v).field = s.field := rfl
@[simp] theorem fs_scan (f : FRef) (v : Nat) : (s.fs f v).scan = s.scan := rfl
@[simp] theorem fs_health (f : FRef) (v : Nat) : (s.fs f v).health = s.health := rfl
@[simp] theorem fs_rdbk (f : FRef) (v : Nat) : (s.fs f v).rdbk = s.rdbk := rfl
@[simp] theorem fs_sense (f : FRef) (v : Nat) : (s.fs f v).sense = s.sense := rfl
@[simp] theorem fs_sup (f : FRef) (v : Nat) : (s.fs f v).sup = s.sup := rfl
@[simp] theorem fs_trim (f : FRef) (v : Nat) : (s.fs f v).trim = s.trim := rfl
@[simp] theorem fs_mem (f : FRef) (v : Nat) : (s.fs f v).mem = s.mem := rfl
@[simp] theorem fs_ser (f : FRef) (v : Nat) : (s.fs f v).ser = s.ser := rfl
@[simp] theorem fs_sec (f : FRef) (v : Nat) : (s.fs f v).sec = s.sec := rfl
@[simp] theorem fs_upd (f : FRef) (v : Nat) : (s.fs f v).upd = s.upd := rfl
@[simp] theorem fs_pow (f : FRef) (v : Nat) : (s.fs f v).pow = s.pow := rfl

@[simp] theorem fsi_now (f : FRef) (i v : Nat) : (s.fsi f i v).now = s.now := rfl
@[simp] theorem fsi_outs (f : FRef) (i v : Nat) : (s.fsi f i v).outs = s.outs := rfl
@[simp] theorem fsi_freeCtr (f : FRef) (i v : Nat) : (s.fsi f i v).freeCtr = s.freeCtr := rfl
@[simp] theorem fsi_pending (f : FRef) (i v : Nat) : (s.fsi f i v).pending = s.pending := rfl
@[simp] theorem fsi_sram (f : FRef) (i v : Nat) : (s.fsi f i v).sram = s.sram := rfl
@[simp] theorem fsi_mode (f : FRef) (i v : Nat) : (s.fsi f i v).mode = s.mode := rfl
@[simp] theorem fsi_fab (f : FRef) (i v : Nat) : (s.fsi f i v).fab = s.fab := rfl
@[simp] theorem fsi_tens (f : FRef) (i v : Nat) : (s.fsi f i v).tens = s.tens := rfl
@[simp] theorem fsi_lnk (f : FRef) (i v : Nat) : (s.fsi f i v).lnk = s.lnk := rfl
@[simp] theorem fsi_keys (f : FRef) (i v : Nat) : (s.fsi f i v).keys = s.keys := rfl
@[simp] theorem fsi_tim (f : FRef) (i v : Nat) : (s.fsi f i v).tim = s.tim := rfl
@[simp] theorem fsi_feeds (f : FRef) (i v : Nat) : (s.fsi f i v).feeds = s.feeds := rfl
@[simp] theorem fsi_patts (f : FRef) (i v : Nat) : (s.fsi f i v).patts = s.patts := rfl
@[simp] theorem fsi_clips (f : FRef) (i v : Nat) : (s.fsi f i v).clips = s.clips := rfl
@[simp] theorem fsi_pix (f : FRef) (i v : Nat) : (s.fsi f i v).pix = s.pix := rfl
@[simp] theorem fsi_blend (f : FRef) (i v : Nat) : (s.fsi f i v).blend = s.blend := rfl
@[simp] theorem fsi_field (f : FRef) (i v : Nat) : (s.fsi f i v).field = s.field := rfl
@[simp] theorem fsi_scan (f : FRef) (i v : Nat) : (s.fsi f i v).scan = s.scan := rfl
@[simp] theorem fsi_health (f : FRef) (i v : Nat) : (s.fsi f i v).health = s.health := rfl
@[simp] theorem fsi_rdbk (f : FRef) (i v : Nat) : (s.fsi f i v).rdbk = s.rdbk := rfl
@[simp] theorem fsi_sense (f : FRef) (i v : Nat) : (s.fsi f i v).sense = s.sense := rfl
@[simp] theorem fsi_sup (f : FRef) (i v : Nat) : (s.fsi f i v).sup = s.sup := rfl
@[simp] theorem fsi_trim (f : FRef) (i v : Nat) : (s.fsi f i v).trim = s.trim := rfl
@[simp] theorem fsi_mem (f : FRef) (i v : Nat) : (s.fsi f i v).mem = s.mem := rfl
@[simp] theorem fsi_ser (f : FRef) (i v : Nat) : (s.fsi f i v).ser = s.ser := rfl
@[simp] theorem fsi_sec (f : FRef) (i v : Nat) : (s.fsi f i v).sec = s.sec := rfl
@[simp] theorem fsi_upd (f : FRef) (i v : Nat) : (s.fsi f i v).upd = s.upd := rfl
@[simp] theorem fsi_pow (f : FRef) (i v : Nat) : (s.fsi f i v).pow = s.pow := rfl

@[simp] theorem fsk_now (f : FRef) (i k v : Nat) : (s.fsk f i k v).now = s.now := rfl
@[simp] theorem fsk_outs (f : FRef) (i k v : Nat) : (s.fsk f i k v).outs = s.outs := rfl
@[simp] theorem fsk_freeCtr (f : FRef) (i k v : Nat) : (s.fsk f i k v).freeCtr = s.freeCtr := rfl
@[simp] theorem fsk_pending (f : FRef) (i k v : Nat) : (s.fsk f i k v).pending = s.pending := rfl
@[simp] theorem fsk_sram (f : FRef) (i k v : Nat) : (s.fsk f i k v).sram = s.sram := rfl
@[simp] theorem fsk_mode (f : FRef) (i k v : Nat) : (s.fsk f i k v).mode = s.mode := rfl
@[simp] theorem fsk_fab (f : FRef) (i k v : Nat) : (s.fsk f i k v).fab = s.fab := rfl
@[simp] theorem fsk_tens (f : FRef) (i k v : Nat) : (s.fsk f i k v).tens = s.tens := rfl
@[simp] theorem fsk_lnk (f : FRef) (i k v : Nat) : (s.fsk f i k v).lnk = s.lnk := rfl
@[simp] theorem fsk_keys (f : FRef) (i k v : Nat) : (s.fsk f i k v).keys = s.keys := rfl
@[simp] theorem fsk_tim (f : FRef) (i k v : Nat) : (s.fsk f i k v).tim = s.tim := rfl
@[simp] theorem fsk_feeds (f : FRef) (i k v : Nat) : (s.fsk f i k v).feeds = s.feeds := rfl
@[simp] theorem fsk_patts (f : FRef) (i k v : Nat) : (s.fsk f i k v).patts = s.patts := rfl
@[simp] theorem fsk_clips (f : FRef) (i k v : Nat) : (s.fsk f i k v).clips = s.clips := rfl
@[simp] theorem fsk_pix (f : FRef) (i k v : Nat) : (s.fsk f i k v).pix = s.pix := rfl
@[simp] theorem fsk_blend (f : FRef) (i k v : Nat) : (s.fsk f i k v).blend = s.blend := rfl
@[simp] theorem fsk_field (f : FRef) (i k v : Nat) : (s.fsk f i k v).field = s.field := rfl
@[simp] theorem fsk_scan (f : FRef) (i k v : Nat) : (s.fsk f i k v).scan = s.scan := rfl
@[simp] theorem fsk_health (f : FRef) (i k v : Nat) : (s.fsk f i k v).health = s.health := rfl
@[simp] theorem fsk_rdbk (f : FRef) (i k v : Nat) : (s.fsk f i k v).rdbk = s.rdbk := rfl
@[simp] theorem fsk_sense (f : FRef) (i k v : Nat) : (s.fsk f i k v).sense = s.sense := rfl
@[simp] theorem fsk_sup (f : FRef) (i k v : Nat) : (s.fsk f i k v).sup = s.sup := rfl
@[simp] theorem fsk_trim (f : FRef) (i k v : Nat) : (s.fsk f i k v).trim = s.trim := rfl
@[simp] theorem fsk_mem (f : FRef) (i k v : Nat) : (s.fsk f i k v).mem = s.mem := rfl
@[simp] theorem fsk_ser (f : FRef) (i k v : Nat) : (s.fsk f i k v).ser = s.ser := rfl
@[simp] theorem fsk_sec (f : FRef) (i k v : Nat) : (s.fsk f i k v).sec = s.sec := rfl
@[simp] theorem fsk_upd (f : FRef) (i k v : Nat) : (s.fsk f i k v).upd = s.upd := rfl
@[simp] theorem fsk_pow (f : FRef) (i k v : Nat) : (s.fsk f i k v).pow = s.pow := rfl

@[simp] theorem fsb_now (b : Nat) (f : FRef) (v : Nat) : (s.fsb b f v).now = s.now := rfl
@[simp] theorem fsb_outs (b : Nat) (f : FRef) (v : Nat) : (s.fsb b f v).outs = s.outs := rfl
@[simp] theorem fsb_freeCtr (b : Nat) (f : FRef) (v : Nat) : (s.fsb b f v).freeCtr = s.freeCtr := rfl
@[simp] theorem fsb_pending (b : Nat) (f : FRef) (v : Nat) : (s.fsb b f v).pending = s.pending := rfl
@[simp] theorem fsb_sram (b : Nat) (f : FRef) (v : Nat) : (s.fsb b f v).sram = s.sram := rfl
@[simp] theorem fsb_mode (b : Nat) (f : FRef) (v : Nat) : (s.fsb b f v).mode = s.mode := rfl
@[simp] theorem fsb_fab (b : Nat) (f : FRef) (v : Nat) : (s.fsb b f v).fab = s.fab := rfl
@[simp] theorem fsb_tens (b : Nat) (f : FRef) (v : Nat) : (s.fsb b f v).tens = s.tens := rfl
@[simp] theorem fsb_lnk (b : Nat) (f : FRef) (v : Nat) : (s.fsb b f v).lnk = s.lnk := rfl
@[simp] theorem fsb_keys (b : Nat) (f : FRef) (v : Nat) : (s.fsb b f v).keys = s.keys := rfl
@[simp] theorem fsb_tim (b : Nat) (f : FRef) (v : Nat) : (s.fsb b f v).tim = s.tim := rfl
@[simp] theorem fsb_feeds (b : Nat) (f : FRef) (v : Nat) : (s.fsb b f v).feeds = s.feeds := rfl
@[simp] theorem fsb_patts (b : Nat) (f : FRef) (v : Nat) : (s.fsb b f v).patts = s.patts := rfl
@[simp] theorem fsb_clips (b : Nat) (f : FRef) (v : Nat) : (s.fsb b f v).clips = s.clips := rfl
@[simp] theorem fsb_pix (b : Nat) (f : FRef) (v : Nat) : (s.fsb b f v).pix = s.pix := rfl
@[simp] theorem fsb_blend (b : Nat) (f : FRef) (v : Nat) : (s.fsb b f v).blend = s.blend := rfl
@[simp] theorem fsb_field (b : Nat) (f : FRef) (v : Nat) : (s.fsb b f v).field = s.field := rfl
@[simp] theorem fsb_scan (b : Nat) (f : FRef) (v : Nat) : (s.fsb b f v).scan = s.scan := rfl
@[simp] theorem fsb_health (b : Nat) (f : FRef) (v : Nat) : (s.fsb b f v).health = s.health := rfl
@[simp] theorem fsb_rdbk (b : Nat) (f : FRef) (v : Nat) : (s.fsb b f v).rdbk = s.rdbk := rfl
@[simp] theorem fsb_sense (b : Nat) (f : FRef) (v : Nat) : (s.fsb b f v).sense = s.sense := rfl
@[simp] theorem fsb_sup (b : Nat) (f : FRef) (v : Nat) : (s.fsb b f v).sup = s.sup := rfl
@[simp] theorem fsb_trim (b : Nat) (f : FRef) (v : Nat) : (s.fsb b f v).trim = s.trim := rfl
@[simp] theorem fsb_mem (b : Nat) (f : FRef) (v : Nat) : (s.fsb b f v).mem = s.mem := rfl
@[simp] theorem fsb_ser (b : Nat) (f : FRef) (v : Nat) : (s.fsb b f v).ser = s.ser := rfl
@[simp] theorem fsb_sec (b : Nat) (f : FRef) (v : Nat) : (s.fsb b f v).sec = s.sec := rfl
@[simp] theorem fsb_upd (b : Nat) (f : FRef) (v : Nat) : (s.fsb b f v).upd = s.upd := rfl
@[simp] theorem fsb_pow (b : Nat) (f : FRef) (v : Nat) : (s.fsb b f v).pow = s.pow := rfl

@[simp] theorem inc_now (f : FRef) (i n : Nat) : (s.inc f i n).now = s.now := rfl
@[simp] theorem inc_outs (f : FRef) (i n : Nat) : (s.inc f i n).outs = s.outs := rfl
@[simp] theorem inc_freeCtr (f : FRef) (i n : Nat) : (s.inc f i n).freeCtr = s.freeCtr := rfl
@[simp] theorem inc_pending (f : FRef) (i n : Nat) : (s.inc f i n).pending = s.pending := rfl
@[simp] theorem inc_sram (f : FRef) (i n : Nat) : (s.inc f i n).sram = s.sram := rfl
@[simp] theorem inc_mode (f : FRef) (i n : Nat) : (s.inc f i n).mode = s.mode := rfl
@[simp] theorem inc_fab (f : FRef) (i n : Nat) : (s.inc f i n).fab = s.fab := rfl
@[simp] theorem inc_tens (f : FRef) (i n : Nat) : (s.inc f i n).tens = s.tens := rfl
@[simp] theorem inc_lnk (f : FRef) (i n : Nat) : (s.inc f i n).lnk = s.lnk := rfl
@[simp] theorem inc_keys (f : FRef) (i n : Nat) : (s.inc f i n).keys = s.keys := rfl
@[simp] theorem inc_tim (f : FRef) (i n : Nat) : (s.inc f i n).tim = s.tim := rfl
@[simp] theorem inc_feeds (f : FRef) (i n : Nat) : (s.inc f i n).feeds = s.feeds := rfl
@[simp] theorem inc_patts (f : FRef) (i n : Nat) : (s.inc f i n).patts = s.patts := rfl
@[simp] theorem inc_clips (f : FRef) (i n : Nat) : (s.inc f i n).clips = s.clips := rfl
@[simp] theorem inc_pix (f : FRef) (i n : Nat) : (s.inc f i n).pix = s.pix := rfl
@[simp] theorem inc_blend (f : FRef) (i n : Nat) : (s.inc f i n).blend = s.blend := rfl
@[simp] theorem inc_field (f : FRef) (i n : Nat) : (s.inc f i n).field = s.field := rfl
@[simp] theorem inc_scan (f : FRef) (i n : Nat) : (s.inc f i n).scan = s.scan := rfl
@[simp] theorem inc_health (f : FRef) (i n : Nat) : (s.inc f i n).health = s.health := rfl
@[simp] theorem inc_rdbk (f : FRef) (i n : Nat) : (s.inc f i n).rdbk = s.rdbk := rfl
@[simp] theorem inc_sense (f : FRef) (i n : Nat) : (s.inc f i n).sense = s.sense := rfl
@[simp] theorem inc_sup (f : FRef) (i n : Nat) : (s.inc f i n).sup = s.sup := rfl
@[simp] theorem inc_trim (f : FRef) (i n : Nat) : (s.inc f i n).trim = s.trim := rfl
@[simp] theorem inc_mem (f : FRef) (i n : Nat) : (s.inc f i n).mem = s.mem := rfl
@[simp] theorem inc_ser (f : FRef) (i n : Nat) : (s.inc f i n).ser = s.ser := rfl
@[simp] theorem inc_sec (f : FRef) (i n : Nat) : (s.inc f i n).sec = s.sec := rfl
@[simp] theorem inc_upd (f : FRef) (i n : Nat) : (s.inc f i n).upd = s.upd := rfl
@[simp] theorem inc_pow (f : FRef) (i n : Nat) : (s.inc f i n).pow = s.pow := rfl

@[simp] theorem inck_now (f : FRef) (i k n : Nat) : (s.inck f i k n).now = s.now := rfl
@[simp] theorem inck_outs (f : FRef) (i k n : Nat) : (s.inck f i k n).outs = s.outs := rfl
@[simp] theorem inck_freeCtr (f : FRef) (i k n : Nat) : (s.inck f i k n).freeCtr = s.freeCtr := rfl
@[simp] theorem inck_pending (f : FRef) (i k n : Nat) : (s.inck f i k n).pending = s.pending := rfl
@[simp] theorem inck_sram (f : FRef) (i k n : Nat) : (s.inck f i k n).sram = s.sram := rfl
@[simp] theorem inck_mode (f : FRef) (i k n : Nat) : (s.inck f i k n).mode = s.mode := rfl
@[simp] theorem inck_fab (f : FRef) (i k n : Nat) : (s.inck f i k n).fab = s.fab := rfl
@[simp] theorem inck_tens (f : FRef) (i k n : Nat) : (s.inck f i k n).tens = s.tens := rfl
@[simp] theorem inck_lnk (f : FRef) (i k n : Nat) : (s.inck f i k n).lnk = s.lnk := rfl
@[simp] theorem inck_keys (f : FRef) (i k n : Nat) : (s.inck f i k n).keys = s.keys := rfl
@[simp] theorem inck_tim (f : FRef) (i k n : Nat) : (s.inck f i k n).tim = s.tim := rfl
@[simp] theorem inck_feeds (f : FRef) (i k n : Nat) : (s.inck f i k n).feeds = s.feeds := rfl
@[simp] theorem inck_patts (f : FRef) (i k n : Nat) : (s.inck f i k n).patts = s.patts := rfl
@[simp] theorem inck_clips (f : FRef) (i k n : Nat) : (s.inck f i k n).clips = s.clips := rfl
@[simp] theorem inck_pix (f : FRef) (i k n : Nat) : (s.inck f i k n).pix = s.pix := rfl
@[simp] theorem inck_blend (f : FRef) (i k n : Nat) : (s.inck f i k n).blend = s.blend := rfl
@[simp] theorem inck_field (f : FRef) (i k n : Nat) : (s.inck f i k n).field = s.field := rfl
@[simp] theorem inck_scan (f : FRef) (i k n : Nat) : (s.inck f i k n).scan = s.scan := rfl
@[simp] theorem inck_health (f : FRef) (i k n : Nat) : (s.inck f i k n).health = s.health := rfl
@[simp] theorem inck_rdbk (f : FRef) (i k n : Nat) : (s.inck f i k n).rdbk = s.rdbk := rfl
@[simp] theorem inck_sense (f : FRef) (i k n : Nat) : (s.inck f i k n).sense = s.sense := rfl
@[simp] theorem inck_sup (f : FRef) (i k n : Nat) : (s.inck f i k n).sup = s.sup := rfl
@[simp] theorem inck_trim (f : FRef) (i k n : Nat) : (s.inck f i k n).trim = s.trim := rfl
@[simp] theorem inck_mem (f : FRef) (i k n : Nat) : (s.inck f i k n).mem = s.mem := rfl
@[simp] theorem inck_ser (f : FRef) (i k n : Nat) : (s.inck f i k n).ser = s.ser := rfl
@[simp] theorem inck_sec (f : FRef) (i k n : Nat) : (s.inck f i k n).sec = s.sec := rfl
@[simp] theorem inck_upd (f : FRef) (i k n : Nat) : (s.inck f i k n).upd = s.upd := rfl
@[simp] theorem inck_pow (f : FRef) (i k n : Nat) : (s.inck f i k n).pow = s.pow := rfl

@[simp] theorem faultBit_now (p b : Nat) : (s.faultBit p b).now = s.now := rfl
@[simp] theorem faultBit_outs (p b : Nat) : (s.faultBit p b).outs = s.outs := rfl
@[simp] theorem faultBit_freeCtr (p b : Nat) : (s.faultBit p b).freeCtr = s.freeCtr := rfl
@[simp] theorem faultBit_pending (p b : Nat) : (s.faultBit p b).pending = s.pending := rfl
@[simp] theorem faultBit_sram (p b : Nat) : (s.faultBit p b).sram = s.sram := rfl
@[simp] theorem faultBit_mode (p b : Nat) : (s.faultBit p b).mode = s.mode := rfl
@[simp] theorem faultBit_fab (p b : Nat) : (s.faultBit p b).fab = s.fab := rfl
@[simp] theorem faultBit_tens (p b : Nat) : (s.faultBit p b).tens = s.tens := rfl
@[simp] theorem faultBit_lnk (p b : Nat) : (s.faultBit p b).lnk = s.lnk := rfl
@[simp] theorem faultBit_keys (p b : Nat) : (s.faultBit p b).keys = s.keys := rfl
@[simp] theorem faultBit_tim (p b : Nat) : (s.faultBit p b).tim = s.tim := rfl
@[simp] theorem faultBit_feeds (p b : Nat) : (s.faultBit p b).feeds = s.feeds := rfl
@[simp] theorem faultBit_patts (p b : Nat) : (s.faultBit p b).patts = s.patts := rfl
@[simp] theorem faultBit_clips (p b : Nat) : (s.faultBit p b).clips = s.clips := rfl
@[simp] theorem faultBit_pix (p b : Nat) : (s.faultBit p b).pix = s.pix := rfl
@[simp] theorem faultBit_blend (p b : Nat) : (s.faultBit p b).blend = s.blend := rfl
@[simp] theorem faultBit_field (p b : Nat) : (s.faultBit p b).field = s.field := rfl
@[simp] theorem faultBit_scan (p b : Nat) : (s.faultBit p b).scan = s.scan := rfl
@[simp] theorem faultBit_health (p b : Nat) : (s.faultBit p b).health = s.health := rfl
@[simp] theorem faultBit_rdbk (p b : Nat) : (s.faultBit p b).rdbk = s.rdbk := rfl
@[simp] theorem faultBit_sense (p b : Nat) : (s.faultBit p b).sense = s.sense := rfl
@[simp] theorem faultBit_sup (p b : Nat) : (s.faultBit p b).sup = s.sup := rfl
@[simp] theorem faultBit_trim (p b : Nat) : (s.faultBit p b).trim = s.trim := rfl
@[simp] theorem faultBit_mem (p b : Nat) : (s.faultBit p b).mem = s.mem := rfl
@[simp] theorem faultBit_ser (p b : Nat) : (s.faultBit p b).ser = s.ser := rfl
@[simp] theorem faultBit_sec (p b : Nat) : (s.faultBit p b).sec = s.sec := rfl
@[simp] theorem faultBit_upd (p b : Nat) : (s.faultBit p b).upd = s.upd := rfl
@[simp] theorem faultBit_pow (p b : Nat) : (s.faultBit p b).pow = s.pow := rfl

@[simp] theorem bumpGen_now (p : Nat) : (s.bumpGen p).now = s.now := rfl
@[simp] theorem bumpGen_outs (p : Nat) : (s.bumpGen p).outs = s.outs := rfl
@[simp] theorem bumpGen_freeCtr (p : Nat) : (s.bumpGen p).freeCtr = s.freeCtr := rfl
@[simp] theorem bumpGen_pending (p : Nat) : (s.bumpGen p).pending = s.pending := rfl
@[simp] theorem bumpGen_sram (p : Nat) : (s.bumpGen p).sram = s.sram := rfl
@[simp] theorem bumpGen_mode (p : Nat) : (s.bumpGen p).mode = s.mode := rfl
@[simp] theorem bumpGen_fab (p : Nat) : (s.bumpGen p).fab = s.fab := rfl
@[simp] theorem bumpGen_tens (p : Nat) : (s.bumpGen p).tens = s.tens := rfl
@[simp] theorem bumpGen_lnk (p : Nat) : (s.bumpGen p).lnk = s.lnk := rfl
@[simp] theorem bumpGen_keys (p : Nat) : (s.bumpGen p).keys = s.keys := rfl
@[simp] theorem bumpGen_tim (p : Nat) : (s.bumpGen p).tim = s.tim := rfl
@[simp] theorem bumpGen_feeds (p : Nat) : (s.bumpGen p).feeds = s.feeds := rfl
@[simp] theorem bumpGen_patts (p : Nat) : (s.bumpGen p).patts = s.patts := rfl
@[simp] theorem bumpGen_clips (p : Nat) : (s.bumpGen p).clips = s.clips := rfl
@[simp] theorem bumpGen_pix (p : Nat) : (s.bumpGen p).pix = s.pix := rfl
@[simp] theorem bumpGen_blend (p : Nat) : (s.bumpGen p).blend = s.blend := rfl
@[simp] theorem bumpGen_field (p : Nat) : (s.bumpGen p).field = s.field := rfl
@[simp] theorem bumpGen_scan (p : Nat) : (s.bumpGen p).scan = s.scan := rfl
@[simp] theorem bumpGen_health (p : Nat) : (s.bumpGen p).health = s.health := rfl
@[simp] theorem bumpGen_rdbk (p : Nat) : (s.bumpGen p).rdbk = s.rdbk := rfl
@[simp] theorem bumpGen_sense (p : Nat) : (s.bumpGen p).sense = s.sense := rfl
@[simp] theorem bumpGen_sup (p : Nat) : (s.bumpGen p).sup = s.sup := rfl
@[simp] theorem bumpGen_trim (p : Nat) : (s.bumpGen p).trim = s.trim := rfl
@[simp] theorem bumpGen_mem (p : Nat) : (s.bumpGen p).mem = s.mem := rfl
@[simp] theorem bumpGen_ser (p : Nat) : (s.bumpGen p).ser = s.ser := rfl
@[simp] theorem bumpGen_sec (p : Nat) : (s.bumpGen p).sec = s.sec := rfl
@[simp] theorem bumpGen_upd (p : Nat) : (s.bumpGen p).upd = s.upd := rfl
@[simp] theorem bumpGen_pow (p : Nat) : (s.bumpGen p).pow = s.pow := rfl

@[simp] theorem setTst_now (n v : Nat) : (s.setTst n v).now = s.now := rfl
@[simp] theorem setTst_outs (n v : Nat) : (s.setTst n v).outs = s.outs := rfl
@[simp] theorem setTst_freeCtr (n v : Nat) : (s.setTst n v).freeCtr = s.freeCtr := rfl
@[simp] theorem setTst_pending (n v : Nat) : (s.setTst n v).pending = s.pending := rfl
@[simp] theorem setTst_sram (n v : Nat) : (s.setTst n v).sram = s.sram := rfl
@[simp] theorem setTst_mode (n v : Nat) : (s.setTst n v).mode = s.mode := rfl
@[simp] theorem setTst_fab (n v : Nat) : (s.setTst n v).fab = s.fab := rfl
@[simp] theorem setTst_tens (n v : Nat) : (s.setTst n v).tens = s.tens := rfl
@[simp] theorem setTst_lnk (n v : Nat) : (s.setTst n v).lnk = s.lnk := rfl
@[simp] theorem setTst_keys (n v : Nat) : (s.setTst n v).keys = s.keys := rfl
@[simp] theorem setTst_tim (n v : Nat) : (s.setTst n v).tim = s.tim := rfl
@[simp] theorem setTst_feeds (n v : Nat) : (s.setTst n v).feeds = s.feeds := rfl
@[simp] theorem setTst_patts (n v : Nat) : (s.setTst n v).patts = s.patts := rfl
@[simp] theorem setTst_clips (n v : Nat) : (s.setTst n v).clips = s.clips := rfl
@[simp] theorem setTst_pix (n v : Nat) : (s.setTst n v).pix = s.pix := rfl
@[simp] theorem setTst_blend (n v : Nat) : (s.setTst n v).blend = s.blend := rfl
@[simp] theorem setTst_field (n v : Nat) : (s.setTst n v).field = s.field := rfl
@[simp] theorem setTst_scan (n v : Nat) : (s.setTst n v).scan = s.scan := rfl
@[simp] theorem setTst_health (n v : Nat) : (s.setTst n v).health = s.health := rfl
@[simp] theorem setTst_rdbk (n v : Nat) : (s.setTst n v).rdbk = s.rdbk := rfl
@[simp] theorem setTst_sense (n v : Nat) : (s.setTst n v).sense = s.sense := rfl
@[simp] theorem setTst_sup (n v : Nat) : (s.setTst n v).sup = s.sup := rfl
@[simp] theorem setTst_trim (n v : Nat) : (s.setTst n v).trim = s.trim := rfl
@[simp] theorem setTst_mem (n v : Nat) : (s.setTst n v).mem = s.mem := rfl
@[simp] theorem setTst_ser (n v : Nat) : (s.setTst n v).ser = s.ser := rfl
@[simp] theorem setTst_sec (n v : Nat) : (s.setTst n v).sec = s.sec := rfl
@[simp] theorem setTst_upd (n v : Nat) : (s.setTst n v).upd = s.upd := rfl
@[simp] theorem setTst_pow (n v : Nat) : (s.setTst n v).pow = s.pow := rfl

@[simp] theorem advance_now (t : Nat) : (s.advance t).now = max s.now t := rfl
@[simp] theorem advance_outs (t : Nat) : (s.advance t).outs = s.outs := rfl
@[simp] theorem advance_freeCtr (t : Nat) : (s.advance t).freeCtr = s.freeCtr := rfl
@[simp] theorem advance_pending (t : Nat) : (s.advance t).pending = s.pending := rfl
@[simp] theorem advance_regs (t : Nat) : (s.advance t).regs = s.regs := rfl
@[simp] theorem advance_sram (t : Nat) : (s.advance t).sram = s.sram := rfl
@[simp] theorem advance_mode (t : Nat) : (s.advance t).mode = s.mode := rfl
@[simp] theorem advance_fab (t : Nat) : (s.advance t).fab = s.fab := rfl
@[simp] theorem advance_tens (t : Nat) : (s.advance t).tens = s.tens := rfl
@[simp] theorem advance_lnk (t : Nat) : (s.advance t).lnk = s.lnk := rfl
@[simp] theorem advance_keys (t : Nat) : (s.advance t).keys = s.keys := rfl
@[simp] theorem advance_tim (t : Nat) : (s.advance t).tim = s.tim := rfl
@[simp] theorem advance_feeds (t : Nat) : (s.advance t).feeds = s.feeds := rfl
@[simp] theorem advance_patts (t : Nat) : (s.advance t).patts = s.patts := rfl
@[simp] theorem advance_clips (t : Nat) : (s.advance t).clips = s.clips := rfl
@[simp] theorem advance_pix (t : Nat) : (s.advance t).pix = s.pix := rfl
@[simp] theorem advance_blend (t : Nat) : (s.advance t).blend = s.blend := rfl
@[simp] theorem advance_field (t : Nat) : (s.advance t).field = s.field := rfl
@[simp] theorem advance_scan (t : Nat) : (s.advance t).scan = s.scan := rfl
@[simp] theorem advance_health (t : Nat) : (s.advance t).health = s.health := rfl
@[simp] theorem advance_rdbk (t : Nat) : (s.advance t).rdbk = s.rdbk := rfl
@[simp] theorem advance_sense (t : Nat) : (s.advance t).sense = s.sense := rfl
@[simp] theorem advance_sup (t : Nat) : (s.advance t).sup = s.sup := rfl
@[simp] theorem advance_trim (t : Nat) : (s.advance t).trim = s.trim := rfl
@[simp] theorem advance_mem (t : Nat) : (s.advance t).mem = s.mem := rfl
@[simp] theorem advance_ser (t : Nat) : (s.advance t).ser = s.ser := rfl
@[simp] theorem advance_sec (t : Nat) : (s.advance t).sec = s.sec := rfl
@[simp] theorem advance_upd (t : Nat) : (s.advance t).upd = s.upd := rfl
@[simp] theorem advance_pow (t : Nat) : (s.advance t).pow = s.pow := rfl
@[simp] theorem advance_fg (t : Nat) (x : FRef) : (s.advance t).fg x = s.fg x := rfl
@[simp] theorem advance_fgi (t : Nat) (x : FRef) (j : Nat) : (s.advance t).fgi x j = s.fgi x j := rfl
@[simp] theorem advance_fgk (t : Nat) (x : FRef) (j y : Nat) : (s.advance t).fgk x j y = s.fgk x j y := rfl
@[simp] theorem advance_fgb (t : Nat) (bk : Nat) (x : FRef) : (s.advance t).fgb bk x = s.fgb bk x := rfl
@[simp] theorem advance_reg (t : Nat) (pg off : Nat) : (s.advance t).reg pg off = s.reg pg off := rfl
@[simp] theorem advance_active (t : Nat) (pg : Nat) : (s.advance t).active pg = s.active pg := rfl
@[simp] theorem advance_tst (t : Nat) (j : Nat) : (s.advance t).tst j = s.tst j := rfl

@[simp] theorem emit_now (o : Out) : (s.emit o).now = s.now := rfl
@[simp] theorem emit_outs (o : Out) : (s.emit o).outs = s.outs ++ [o] := rfl
@[simp] theorem emit_freeCtr (o : Out) : (s.emit o).freeCtr = s.freeCtr := rfl
@[simp] theorem emit_pending (o : Out) : (s.emit o).pending = s.pending := rfl
@[simp] theorem emit_regs (o : Out) : (s.emit o).regs = s.regs := rfl
@[simp] theorem emit_sram (o : Out) : (s.emit o).sram = s.sram := rfl
@[simp] theorem emit_mode (o : Out) : (s.emit o).mode = s.mode := rfl
@[simp] theorem emit_fab (o : Out) : (s.emit o).fab = s.fab := rfl
@[simp] theorem emit_tens (o : Out) : (s.emit o).tens = s.tens := rfl
@[simp] theorem emit_lnk (o : Out) : (s.emit o).lnk = s.lnk := rfl
@[simp] theorem emit_keys (o : Out) : (s.emit o).keys = s.keys := rfl
@[simp] theorem emit_tim (o : Out) : (s.emit o).tim = s.tim := rfl
@[simp] theorem emit_feeds (o : Out) : (s.emit o).feeds = s.feeds := rfl
@[simp] theorem emit_patts (o : Out) : (s.emit o).patts = s.patts := rfl
@[simp] theorem emit_clips (o : Out) : (s.emit o).clips = s.clips := rfl
@[simp] theorem emit_pix (o : Out) : (s.emit o).pix = s.pix := rfl
@[simp] theorem emit_blend (o : Out) : (s.emit o).blend = s.blend := rfl
@[simp] theorem emit_field (o : Out) : (s.emit o).field = s.field := rfl
@[simp] theorem emit_scan (o : Out) : (s.emit o).scan = s.scan := rfl
@[simp] theorem emit_health (o : Out) : (s.emit o).health = s.health := rfl
@[simp] theorem emit_rdbk (o : Out) : (s.emit o).rdbk = s.rdbk := rfl
@[simp] theorem emit_sense (o : Out) : (s.emit o).sense = s.sense := rfl
@[simp] theorem emit_sup (o : Out) : (s.emit o).sup = s.sup := rfl
@[simp] theorem emit_trim (o : Out) : (s.emit o).trim = s.trim := rfl
@[simp] theorem emit_mem (o : Out) : (s.emit o).mem = s.mem := rfl
@[simp] theorem emit_ser (o : Out) : (s.emit o).ser = s.ser := rfl
@[simp] theorem emit_sec (o : Out) : (s.emit o).sec = s.sec := rfl
@[simp] theorem emit_upd (o : Out) : (s.emit o).upd = s.upd := rfl
@[simp] theorem emit_pow (o : Out) : (s.emit o).pow = s.pow := rfl
@[simp] theorem emit_fg (o : Out) (x : FRef) : (s.emit o).fg x = s.fg x := rfl
@[simp] theorem emit_fgi (o : Out) (x : FRef) (j : Nat) : (s.emit o).fgi x j = s.fgi x j := rfl
@[simp] theorem emit_fgk (o : Out) (x : FRef) (j y : Nat) : (s.emit o).fgk x j y = s.fgk x j y := rfl
@[simp] theorem emit_fgb (o : Out) (bk : Nat) (x : FRef) : (s.emit o).fgb bk x = s.fgb bk x := rfl
@[simp] theorem emit_reg (o : Out) (pg off : Nat) : (s.emit o).reg pg off = s.reg pg off := rfl
@[simp] theorem emit_active (o : Out) (pg : Nat) : (s.emit o).active pg = s.active pg := rfl
@[simp] theorem emit_tst (o : Out) (j : Nat) : (s.emit o).tst j = s.tst j := rfl

@[simp] theorem begin_now : (s.begin_).now = s.now := rfl
@[simp] theorem begin_outs : (s.begin_).outs = [] := rfl
@[simp] theorem begin_freeCtr : (s.begin_).freeCtr = s.freeCtr := rfl
@[simp] theorem begin_pending : (s.begin_).pending = s.pending := rfl
@[simp] theorem begin_regs : (s.begin_).regs = s.regs := rfl
@[simp] theorem begin_sram : (s.begin_).sram = s.sram := rfl
@[simp] theorem begin_mode : (s.begin_).mode = s.mode := rfl
@[simp] theorem begin_fab : (s.begin_).fab = s.fab := rfl
@[simp] theorem begin_tens : (s.begin_).tens = s.tens := rfl
@[simp] theorem begin_lnk : (s.begin_).lnk = s.lnk := rfl
@[simp] theorem begin_keys : (s.begin_).keys = s.keys := rfl
@[simp] theorem begin_tim : (s.begin_).tim = s.tim := rfl
@[simp] theorem begin_feeds : (s.begin_).feeds = s.feeds := rfl
@[simp] theorem begin_patts : (s.begin_).patts = s.patts := rfl
@[simp] theorem begin_clips : (s.begin_).clips = s.clips := rfl
@[simp] theorem begin_pix : (s.begin_).pix = s.pix := rfl
@[simp] theorem begin_blend : (s.begin_).blend = s.blend := rfl
@[simp] theorem begin_field : (s.begin_).field = s.field := rfl
@[simp] theorem begin_scan : (s.begin_).scan = s.scan := rfl
@[simp] theorem begin_health : (s.begin_).health = s.health := rfl
@[simp] theorem begin_rdbk : (s.begin_).rdbk = s.rdbk := rfl
@[simp] theorem begin_sense : (s.begin_).sense = s.sense := rfl
@[simp] theorem begin_sup : (s.begin_).sup = s.sup := rfl
@[simp] theorem begin_trim : (s.begin_).trim = s.trim := rfl
@[simp] theorem begin_mem : (s.begin_).mem = s.mem := rfl
@[simp] theorem begin_ser : (s.begin_).ser = s.ser := rfl
@[simp] theorem begin_sec : (s.begin_).sec = s.sec := rfl
@[simp] theorem begin_upd : (s.begin_).upd = s.upd := rfl
@[simp] theorem begin_pow : (s.begin_).pow = s.pow := rfl
@[simp] theorem begin_fg (x : FRef) : (s.begin_).fg x = s.fg x := rfl
@[simp] theorem begin_fgi (x : FRef) (j : Nat) : (s.begin_).fgi x j = s.fgi x j := rfl
@[simp] theorem begin_fgk (x : FRef) (j y : Nat) : (s.begin_).fgk x j y = s.fgk x j y := rfl
@[simp] theorem begin_fgb (bk : Nat) (x : FRef) : (s.begin_).fgb bk x = s.fgb bk x := rfl
@[simp] theorem begin_reg (pg off : Nat) : (s.begin_).reg pg off = s.reg pg off := rfl
@[simp] theorem begin_active (pg : Nat) : (s.begin_).active pg = s.active pg := rfl
@[simp] theorem begin_tst (j : Nat) : (s.begin_).tst j = s.tst j := rfl

@[simp] theorem modTen_now (n : Nat) (f : Ten → Ten) : (s.modTen n f).now = s.now := rfl
@[simp] theorem modTen_outs (n : Nat) (f : Ten → Ten) : (s.modTen n f).outs = s.outs := rfl
@[simp] theorem modTen_freeCtr (n : Nat) (f : Ten → Ten) : (s.modTen n f).freeCtr = s.freeCtr := rfl
@[simp] theorem modTen_pending (n : Nat) (f : Ten → Ten) : (s.modTen n f).pending = s.pending := rfl
@[simp] theorem modTen_regs (n : Nat) (f : Ten → Ten) : (s.modTen n f).regs = s.regs := rfl
@[simp] theorem modTen_sram (n : Nat) (f : Ten → Ten) : (s.modTen n f).sram = s.sram := rfl
@[simp] theorem modTen_mode (n : Nat) (f : Ten → Ten) : (s.modTen n f).mode = s.mode := rfl
@[simp] theorem modTen_fab (n : Nat) (f : Ten → Ten) : (s.modTen n f).fab = s.fab := rfl
@[simp] theorem modTen_tens (n : Nat) (f : Ten → Ten) : (s.modTen n f).tens = modAt s.tens n f := rfl
@[simp] theorem modTen_lnk (n : Nat) (f : Ten → Ten) : (s.modTen n f).lnk = s.lnk := rfl
@[simp] theorem modTen_keys (n : Nat) (f : Ten → Ten) : (s.modTen n f).keys = s.keys := rfl
@[simp] theorem modTen_tim (n : Nat) (f : Ten → Ten) : (s.modTen n f).tim = s.tim := rfl
@[simp] theorem modTen_feeds (n : Nat) (f : Ten → Ten) : (s.modTen n f).feeds = s.feeds := rfl
@[simp] theorem modTen_patts (n : Nat) (f : Ten → Ten) : (s.modTen n f).patts = s.patts := rfl
@[simp] theorem modTen_clips (n : Nat) (f : Ten → Ten) : (s.modTen n f).clips = s.clips := rfl
@[simp] theorem modTen_pix (n : Nat) (f : Ten → Ten) : (s.modTen n f).pix = s.pix := rfl
@[simp] theorem modTen_blend (n : Nat) (f : Ten → Ten) : (s.modTen n f).blend = s.blend := rfl
@[simp] theorem modTen_field (n : Nat) (f : Ten → Ten) : (s.modTen n f).field = s.field := rfl
@[simp] theorem modTen_scan (n : Nat) (f : Ten → Ten) : (s.modTen n f).scan = s.scan := rfl
@[simp] theorem modTen_health (n : Nat) (f : Ten → Ten) : (s.modTen n f).health = s.health := rfl
@[simp] theorem modTen_rdbk (n : Nat) (f : Ten → Ten) : (s.modTen n f).rdbk = s.rdbk := rfl
@[simp] theorem modTen_sense (n : Nat) (f : Ten → Ten) : (s.modTen n f).sense = s.sense := rfl
@[simp] theorem modTen_sup (n : Nat) (f : Ten → Ten) : (s.modTen n f).sup = s.sup := rfl
@[simp] theorem modTen_trim (n : Nat) (f : Ten → Ten) : (s.modTen n f).trim = s.trim := rfl
@[simp] theorem modTen_mem (n : Nat) (f : Ten → Ten) : (s.modTen n f).mem = s.mem := rfl
@[simp] theorem modTen_ser (n : Nat) (f : Ten → Ten) : (s.modTen n f).ser = s.ser := rfl
@[simp] theorem modTen_sec (n : Nat) (f : Ten → Ten) : (s.modTen n f).sec = s.sec := rfl
@[simp] theorem modTen_upd (n : Nat) (f : Ten → Ten) : (s.modTen n f).upd = s.upd := rfl
@[simp] theorem modTen_pow (n : Nat) (f : Ten → Ten) : (s.modTen n f).pow = s.pow := rfl
@[simp] theorem modTen_fg (n : Nat) (f : Ten → Ten) (x : FRef) : (s.modTen n f).fg x = s.fg x := rfl
@[simp] theorem modTen_fgi (n : Nat) (f : Ten → Ten) (x : FRef) (j : Nat) : (s.modTen n f).fgi x j = s.fgi x j := rfl
@[simp] theorem modTen_fgk (n : Nat) (f : Ten → Ten) (x : FRef) (j y : Nat) : (s.modTen n f).fgk x j y = s.fgk x j y := rfl
@[simp] theorem modTen_fgb (n : Nat) (f : Ten → Ten) (bk : Nat) (x : FRef) : (s.modTen n f).fgb bk x = s.fgb bk x := rfl
@[simp] theorem modTen_reg (n : Nat) (f : Ten → Ten) (pg off : Nat) : (s.modTen n f).reg pg off = s.reg pg off := rfl
@[simp] theorem modTen_active (n : Nat) (f : Ten → Ten) (pg : Nat) : (s.modTen n f).active pg = s.active pg := rfl
@[simp] theorem modTen_tst (n : Nat) (f : Ten → Ten) (j : Nat) : (s.modTen n f).tst j = s.tst j := rfl

@[simp] theorem modFab_now (f : FabSt → FabSt) : (s.modFab f).now = s.now := rfl
@[simp] theorem modFab_outs (f : FabSt → FabSt) : (s.modFab f).outs = s.outs := rfl
@[simp] theorem modFab_freeCtr (f : FabSt → FabSt) : (s.modFab f).freeCtr = s.freeCtr := rfl
@[simp] theorem modFab_pending (f : FabSt → FabSt) : (s.modFab f).pending = s.pending := rfl
@[simp] theorem modFab_regs (f : FabSt → FabSt) : (s.modFab f).regs = s.regs := rfl
@[simp] theorem modFab_sram (f : FabSt → FabSt) : (s.modFab f).sram = s.sram := rfl
@[simp] theorem modFab_mode (f : FabSt → FabSt) : (s.modFab f).mode = s.mode := rfl
@[simp] theorem modFab_fab (f : FabSt → FabSt) : (s.modFab f).fab = f s.fab := rfl
@[simp] theorem modFab_tens (f : FabSt → FabSt) : (s.modFab f).tens = s.tens := rfl
@[simp] theorem modFab_lnk (f : FabSt → FabSt) : (s.modFab f).lnk = s.lnk := rfl
@[simp] theorem modFab_keys (f : FabSt → FabSt) : (s.modFab f).keys = s.keys := rfl
@[simp] theorem modFab_tim (f : FabSt → FabSt) : (s.modFab f).tim = s.tim := rfl
@[simp] theorem modFab_feeds (f : FabSt → FabSt) : (s.modFab f).feeds = s.feeds := rfl
@[simp] theorem modFab_patts (f : FabSt → FabSt) : (s.modFab f).patts = s.patts := rfl
@[simp] theorem modFab_clips (f : FabSt → FabSt) : (s.modFab f).clips = s.clips := rfl
@[simp] theorem modFab_pix (f : FabSt → FabSt) : (s.modFab f).pix = s.pix := rfl
@[simp] theorem modFab_blend (f : FabSt → FabSt) : (s.modFab f).blend = s.blend := rfl
@[simp] theorem modFab_field (f : FabSt → FabSt) : (s.modFab f).field = s.field := rfl
@[simp] theorem modFab_scan (f : FabSt → FabSt) : (s.modFab f).scan = s.scan := rfl
@[simp] theorem modFab_health (f : FabSt → FabSt) : (s.modFab f).health = s.health := rfl
@[simp] theorem modFab_rdbk (f : FabSt → FabSt) : (s.modFab f).rdbk = s.rdbk := rfl
@[simp] theorem modFab_sense (f : FabSt → FabSt) : (s.modFab f).sense = s.sense := rfl
@[simp] theorem modFab_sup (f : FabSt → FabSt) : (s.modFab f).sup = s.sup := rfl
@[simp] theorem modFab_trim (f : FabSt → FabSt) : (s.modFab f).trim = s.trim := rfl
@[simp] theorem modFab_mem (f : FabSt → FabSt) : (s.modFab f).mem = s.mem := rfl
@[simp] theorem modFab_ser (f : FabSt → FabSt) : (s.modFab f).ser = s.ser := rfl
@[simp] theorem modFab_sec (f : FabSt → FabSt) : (s.modFab f).sec = s.sec := rfl
@[simp] theorem modFab_upd (f : FabSt → FabSt) : (s.modFab f).upd = s.upd := rfl
@[simp] theorem modFab_pow (f : FabSt → FabSt) : (s.modFab f).pow = s.pow := rfl
@[simp] theorem modFab_fg (f : FabSt → FabSt) (x : FRef) : (s.modFab f).fg x = s.fg x := rfl
@[simp] theorem modFab_fgi (f : FabSt → FabSt) (x : FRef) (j : Nat) : (s.modFab f).fgi x j = s.fgi x j := rfl
@[simp] theorem modFab_fgk (f : FabSt → FabSt) (x : FRef) (j y : Nat) : (s.modFab f).fgk x j y = s.fgk x j y := rfl
@[simp] theorem modFab_fgb (f : FabSt → FabSt) (bk : Nat) (x : FRef) : (s.modFab f).fgb bk x = s.fgb bk x := rfl
@[simp] theorem modFab_reg (f : FabSt → FabSt) (pg off : Nat) : (s.modFab f).reg pg off = s.reg pg off := rfl
@[simp] theorem modFab_active (f : FabSt → FabSt) (pg : Nat) : (s.modFab f).active pg = s.active pg := rfl
@[simp] theorem modFab_tst (f : FabSt → FabSt) (j : Nat) : (s.modFab f).tst j = s.tst j := rfl

@[simp] theorem modTim_now (f : TimeSt → TimeSt) : (s.modTim f).now = s.now := rfl
@[simp] theorem modTim_outs (f : TimeSt → TimeSt) : (s.modTim f).outs = s.outs := rfl
@[simp] theorem modTim_freeCtr (f : TimeSt → TimeSt) : (s.modTim f).freeCtr = s.freeCtr := rfl
@[simp] theorem modTim_pending (f : TimeSt → TimeSt) : (s.modTim f).pending = s.pending := rfl
@[simp] theorem modTim_regs (f : TimeSt → TimeSt) : (s.modTim f).regs = s.regs := rfl
@[simp] theorem modTim_sram (f : TimeSt → TimeSt) : (s.modTim f).sram = s.sram := rfl
@[simp] theorem modTim_mode (f : TimeSt → TimeSt) : (s.modTim f).mode = s.mode := rfl
@[simp] theorem modTim_fab (f : TimeSt → TimeSt) : (s.modTim f).fab = s.fab := rfl
@[simp] theorem modTim_tens (f : TimeSt → TimeSt) : (s.modTim f).tens = s.tens := rfl
@[simp] theorem modTim_lnk (f : TimeSt → TimeSt) : (s.modTim f).lnk = s.lnk := rfl
@[simp] theorem modTim_keys (f : TimeSt → TimeSt) : (s.modTim f).keys = s.keys := rfl
@[simp] theorem modTim_tim (f : TimeSt → TimeSt) : (s.modTim f).tim = f s.tim := rfl
@[simp] theorem modTim_feeds (f : TimeSt → TimeSt) : (s.modTim f).feeds = s.feeds := rfl
@[simp] theorem modTim_patts (f : TimeSt → TimeSt) : (s.modTim f).patts = s.patts := rfl
@[simp] theorem modTim_clips (f : TimeSt → TimeSt) : (s.modTim f).clips = s.clips := rfl
@[simp] theorem modTim_pix (f : TimeSt → TimeSt) : (s.modTim f).pix = s.pix := rfl
@[simp] theorem modTim_blend (f : TimeSt → TimeSt) : (s.modTim f).blend = s.blend := rfl
@[simp] theorem modTim_field (f : TimeSt → TimeSt) : (s.modTim f).field = s.field := rfl
@[simp] theorem modTim_scan (f : TimeSt → TimeSt) : (s.modTim f).scan = s.scan := rfl
@[simp] theorem modTim_health (f : TimeSt → TimeSt) : (s.modTim f).health = s.health := rfl
@[simp] theorem modTim_rdbk (f : TimeSt → TimeSt) : (s.modTim f).rdbk = s.rdbk := rfl
@[simp] theorem modTim_sense (f : TimeSt → TimeSt) : (s.modTim f).sense = s.sense := rfl
@[simp] theorem modTim_sup (f : TimeSt → TimeSt) : (s.modTim f).sup = s.sup := rfl
@[simp] theorem modTim_trim (f : TimeSt → TimeSt) : (s.modTim f).trim = s.trim := rfl
@[simp] theorem modTim_mem (f : TimeSt → TimeSt) : (s.modTim f).mem = s.mem := rfl
@[simp] theorem modTim_ser (f : TimeSt → TimeSt) : (s.modTim f).ser = s.ser := rfl
@[simp] theorem modTim_sec (f : TimeSt → TimeSt) : (s.modTim f).sec = s.sec := rfl
@[simp] theorem modTim_upd (f : TimeSt → TimeSt) : (s.modTim f).upd = s.upd := rfl
@[simp] theorem modTim_pow (f : TimeSt → TimeSt) : (s.modTim f).pow = s.pow := rfl
@[simp] theorem modTim_fg (f : TimeSt → TimeSt) (x : FRef) : (s.modTim f).fg x = s.fg x := rfl
@[simp] theorem modTim_fgi (f : TimeSt → TimeSt) (x : FRef) (j : Nat) : (s.modTim f).fgi x j = s.fgi x j := rfl
@[simp] theorem modTim_fgk (f : TimeSt → TimeSt) (x : FRef) (j y : Nat) : (s.modTim f).fgk x j y = s.fgk x j y := rfl
@[simp] theorem modTim_fgb (f : TimeSt → TimeSt) (bk : Nat) (x : FRef) : (s.modTim f).fgb bk x = s.fgb bk x := rfl
@[simp] theorem modTim_reg (f : TimeSt → TimeSt) (pg off : Nat) : (s.modTim f).reg pg off = s.reg pg off := rfl
@[simp] theorem modTim_active (f : TimeSt → TimeSt) (pg : Nat) : (s.modTim f).active pg = s.active pg := rfl
@[simp] theorem modTim_tst (f : TimeSt → TimeSt) (j : Nat) : (s.modTim f).tst j = s.tst j := rfl

@[simp] theorem modPix_now (f : PixSt → PixSt) : (s.modPix f).now = s.now := rfl
@[simp] theorem modPix_outs (f : PixSt → PixSt) : (s.modPix f).outs = s.outs := rfl
@[simp] theorem modPix_freeCtr (f : PixSt → PixSt) : (s.modPix f).freeCtr = s.freeCtr := rfl
@[simp] theorem modPix_pending (f : PixSt → PixSt) : (s.modPix f).pending = s.pending := rfl
@[simp] theorem modPix_regs (f : PixSt → PixSt) : (s.modPix f).regs = s.regs := rfl
@[simp] theorem modPix_sram (f : PixSt → PixSt) : (s.modPix f).sram = s.sram := rfl
@[simp] theorem modPix_mode (f : PixSt → PixSt) : (s.modPix f).mode = s.mode := rfl
@[simp] theorem modPix_fab (f : PixSt → PixSt) : (s.modPix f).fab = s.fab := rfl
@[simp] theorem modPix_tens (f : PixSt → PixSt) : (s.modPix f).tens = s.tens := rfl
@[simp] theorem modPix_lnk (f : PixSt → PixSt) : (s.modPix f).lnk = s.lnk := rfl
@[simp] theorem modPix_keys (f : PixSt → PixSt) : (s.modPix f).keys = s.keys := rfl
@[simp] theorem modPix_tim (f : PixSt → PixSt) : (s.modPix f).tim = s.tim := rfl
@[simp] theorem modPix_feeds (f : PixSt → PixSt) : (s.modPix f).feeds = s.feeds := rfl
@[simp] theorem modPix_patts (f : PixSt → PixSt) : (s.modPix f).patts = s.patts := rfl
@[simp] theorem modPix_clips (f : PixSt → PixSt) : (s.modPix f).clips = s.clips := rfl
@[simp] theorem modPix_pix (f : PixSt → PixSt) : (s.modPix f).pix = f s.pix := rfl
@[simp] theorem modPix_blend (f : PixSt → PixSt) : (s.modPix f).blend = s.blend := rfl
@[simp] theorem modPix_field (f : PixSt → PixSt) : (s.modPix f).field = s.field := rfl
@[simp] theorem modPix_scan (f : PixSt → PixSt) : (s.modPix f).scan = s.scan := rfl
@[simp] theorem modPix_health (f : PixSt → PixSt) : (s.modPix f).health = s.health := rfl
@[simp] theorem modPix_rdbk (f : PixSt → PixSt) : (s.modPix f).rdbk = s.rdbk := rfl
@[simp] theorem modPix_sense (f : PixSt → PixSt) : (s.modPix f).sense = s.sense := rfl
@[simp] theorem modPix_sup (f : PixSt → PixSt) : (s.modPix f).sup = s.sup := rfl
@[simp] theorem modPix_trim (f : PixSt → PixSt) : (s.modPix f).trim = s.trim := rfl
@[simp] theorem modPix_mem (f : PixSt → PixSt) : (s.modPix f).mem = s.mem := rfl
@[simp] theorem modPix_ser (f : PixSt → PixSt) : (s.modPix f).ser = s.ser := rfl
@[simp] theorem modPix_sec (f : PixSt → PixSt) : (s.modPix f).sec = s.sec := rfl
@[simp] theorem modPix_upd (f : PixSt → PixSt) : (s.modPix f).upd = s.upd := rfl
@[simp] theorem modPix_pow (f : PixSt → PixSt) : (s.modPix f).pow = s.pow := rfl
@[simp] theorem modPix_fg (f : PixSt → PixSt) (x : FRef) : (s.modPix f).fg x = s.fg x := rfl
@[simp] theorem modPix_fgi (f : PixSt → PixSt) (x : FRef) (j : Nat) : (s.modPix f).fgi x j = s.fgi x j := rfl
@[simp] theorem modPix_fgk (f : PixSt → PixSt) (x : FRef) (j y : Nat) : (s.modPix f).fgk x j y = s.fgk x j y := rfl
@[simp] theorem modPix_fgb (f : PixSt → PixSt) (bk : Nat) (x : FRef) : (s.modPix f).fgb bk x = s.fgb bk x := rfl
@[simp] theorem modPix_reg (f : PixSt → PixSt) (pg off : Nat) : (s.modPix f).reg pg off = s.reg pg off := rfl
@[simp] theorem modPix_active (f : PixSt → PixSt) (pg : Nat) : (s.modPix f).active pg = s.active pg := rfl
@[simp] theorem modPix_tst (f : PixSt → PixSt) (j : Nat) : (s.modPix f).tst j = s.tst j := rfl

@[simp] theorem modBlend_now (f : BlendSt → BlendSt) : (s.modBlend f).now = s.now := rfl
@[simp] theorem modBlend_outs (f : BlendSt → BlendSt) : (s.modBlend f).outs = s.outs := rfl
@[simp] theorem modBlend_freeCtr (f : BlendSt → BlendSt) : (s.modBlend f).freeCtr = s.freeCtr := rfl
@[simp] theorem modBlend_pending (f : BlendSt → BlendSt) : (s.modBlend f).pending = s.pending := rfl
@[simp] theorem modBlend_regs (f : BlendSt → BlendSt) : (s.modBlend f).regs = s.regs := rfl
@[simp] theorem modBlend_sram (f : BlendSt → BlendSt) : (s.modBlend f).sram = s.sram := rfl
@[simp] theorem modBlend_mode (f : BlendSt → BlendSt) : (s.modBlend f).mode = s.mode := rfl
@[simp] theorem modBlend_fab (f : BlendSt → BlendSt) : (s.modBlend f).fab = s.fab := rfl
@[simp] theorem modBlend_tens (f : BlendSt → BlendSt) : (s.modBlend f).tens = s.tens := rfl
@[simp] theorem modBlend_lnk (f : BlendSt → BlendSt) : (s.modBlend f).lnk = s.lnk := rfl
@[simp] theorem modBlend_keys (f : BlendSt → BlendSt) : (s.modBlend f).keys = s.keys := rfl
@[simp] theorem modBlend_tim (f : BlendSt → BlendSt) : (s.modBlend f).tim = s.tim := rfl
@[simp] theorem modBlend_feeds (f : BlendSt → BlendSt) : (s.modBlend f).feeds = s.feeds := rfl
@[simp] theorem modBlend_patts (f : BlendSt → BlendSt) : (s.modBlend f).patts = s.patts := rfl
@[simp] theorem modBlend_clips (f : BlendSt → BlendSt) : (s.modBlend f).clips = s.clips := rfl
@[simp] theorem modBlend_pix (f : BlendSt → BlendSt) : (s.modBlend f).pix = s.pix := rfl
@[simp] theorem modBlend_blend (f : BlendSt → BlendSt) : (s.modBlend f).blend = f s.blend := rfl
@[simp] theorem modBlend_field (f : BlendSt → BlendSt) : (s.modBlend f).field = s.field := rfl
@[simp] theorem modBlend_scan (f : BlendSt → BlendSt) : (s.modBlend f).scan = s.scan := rfl
@[simp] theorem modBlend_health (f : BlendSt → BlendSt) : (s.modBlend f).health = s.health := rfl
@[simp] theorem modBlend_rdbk (f : BlendSt → BlendSt) : (s.modBlend f).rdbk = s.rdbk := rfl
@[simp] theorem modBlend_sense (f : BlendSt → BlendSt) : (s.modBlend f).sense = s.sense := rfl
@[simp] theorem modBlend_sup (f : BlendSt → BlendSt) : (s.modBlend f).sup = s.sup := rfl
@[simp] theorem modBlend_trim (f : BlendSt → BlendSt) : (s.modBlend f).trim = s.trim := rfl
@[simp] theorem modBlend_mem (f : BlendSt → BlendSt) : (s.modBlend f).mem = s.mem := rfl
@[simp] theorem modBlend_ser (f : BlendSt → BlendSt) : (s.modBlend f).ser = s.ser := rfl
@[simp] theorem modBlend_sec (f : BlendSt → BlendSt) : (s.modBlend f).sec = s.sec := rfl
@[simp] theorem modBlend_upd (f : BlendSt → BlendSt) : (s.modBlend f).upd = s.upd := rfl
@[simp] theorem modBlend_pow (f : BlendSt → BlendSt) : (s.modBlend f).pow = s.pow := rfl
@[simp] theorem modBlend_fg (f : BlendSt → BlendSt) (x : FRef) : (s.modBlend f).fg x = s.fg x := rfl
@[simp] theorem modBlend_fgi (f : BlendSt → BlendSt) (x : FRef) (j : Nat) : (s.modBlend f).fgi x j = s.fgi x j := rfl
@[simp] theorem modBlend_fgk (f : BlendSt → BlendSt) (x : FRef) (j y : Nat) : (s.modBlend f).fgk x j y = s.fgk x j y := rfl
@[simp] theorem modBlend_fgb (f : BlendSt → BlendSt) (bk : Nat) (x : FRef) : (s.modBlend f).fgb bk x = s.fgb bk x := rfl
@[simp] theorem modBlend_reg (f : BlendSt → BlendSt) (pg off : Nat) : (s.modBlend f).reg pg off = s.reg pg off := rfl
@[simp] theorem modBlend_active (f : BlendSt → BlendSt) (pg : Nat) : (s.modBlend f).active pg = s.active pg := rfl
@[simp] theorem modBlend_tst (f : BlendSt → BlendSt) (j : Nat) : (s.modBlend f).tst j = s.tst j := rfl

@[simp] theorem modFeed_now (n : Nat) (f : Feed → Feed) : (s.modFeed n f).now = s.now := rfl
@[simp] theorem modFeed_outs (n : Nat) (f : Feed → Feed) : (s.modFeed n f).outs = s.outs := rfl
@[simp] theorem modFeed_freeCtr (n : Nat) (f : Feed → Feed) : (s.modFeed n f).freeCtr = s.freeCtr := rfl
@[simp] theorem modFeed_pending (n : Nat) (f : Feed → Feed) : (s.modFeed n f).pending = s.pending := rfl
@[simp] theorem modFeed_regs (n : Nat) (f : Feed → Feed) : (s.modFeed n f).regs = s.regs := rfl
@[simp] theorem modFeed_sram (n : Nat) (f : Feed → Feed) : (s.modFeed n f).sram = s.sram := rfl
@[simp] theorem modFeed_mode (n : Nat) (f : Feed → Feed) : (s.modFeed n f).mode = s.mode := rfl
@[simp] theorem modFeed_fab (n : Nat) (f : Feed → Feed) : (s.modFeed n f).fab = s.fab := rfl
@[simp] theorem modFeed_tens (n : Nat) (f : Feed → Feed) : (s.modFeed n f).tens = s.tens := rfl
@[simp] theorem modFeed_lnk (n : Nat) (f : Feed → Feed) : (s.modFeed n f).lnk = s.lnk := rfl
@[simp] theorem modFeed_keys (n : Nat) (f : Feed → Feed) : (s.modFeed n f).keys = s.keys := rfl
@[simp] theorem modFeed_tim (n : Nat) (f : Feed → Feed) : (s.modFeed n f).tim = s.tim := rfl
@[simp] theorem modFeed_feeds (n : Nat) (f : Feed → Feed) : (s.modFeed n f).feeds = modAt s.feeds n f := rfl
@[simp] theorem modFeed_patts (n : Nat) (f : Feed → Feed) : (s.modFeed n f).patts = s.patts := rfl
@[simp] theorem modFeed_clips (n : Nat) (f : Feed → Feed) : (s.modFeed n f).clips = s.clips := rfl
@[simp] theorem modFeed_pix (n : Nat) (f : Feed → Feed) : (s.modFeed n f).pix = s.pix := rfl
@[simp] theorem modFeed_blend (n : Nat) (f : Feed → Feed) : (s.modFeed n f).blend = s.blend := rfl
@[simp] theorem modFeed_field (n : Nat) (f : Feed → Feed) : (s.modFeed n f).field = s.field := rfl
@[simp] theorem modFeed_scan (n : Nat) (f : Feed → Feed) : (s.modFeed n f).scan = s.scan := rfl
@[simp] theorem modFeed_health (n : Nat) (f : Feed → Feed) : (s.modFeed n f).health = s.health := rfl
@[simp] theorem modFeed_rdbk (n : Nat) (f : Feed → Feed) : (s.modFeed n f).rdbk = s.rdbk := rfl
@[simp] theorem modFeed_sense (n : Nat) (f : Feed → Feed) : (s.modFeed n f).sense = s.sense := rfl
@[simp] theorem modFeed_sup (n : Nat) (f : Feed → Feed) : (s.modFeed n f).sup = s.sup := rfl
@[simp] theorem modFeed_trim (n : Nat) (f : Feed → Feed) : (s.modFeed n f).trim = s.trim := rfl
@[simp] theorem modFeed_mem (n : Nat) (f : Feed → Feed) : (s.modFeed n f).mem = s.mem := rfl
@[simp] theorem modFeed_ser (n : Nat) (f : Feed → Feed) : (s.modFeed n f).ser = s.ser := rfl
@[simp] theorem modFeed_sec (n : Nat) (f : Feed → Feed) : (s.modFeed n f).sec = s.sec := rfl
@[simp] theorem modFeed_upd (n : Nat) (f : Feed → Feed) : (s.modFeed n f).upd = s.upd := rfl
@[simp] theorem modFeed_pow (n : Nat) (f : Feed → Feed) : (s.modFeed n f).pow = s.pow := rfl
@[simp] theorem modFeed_fg (n : Nat) (f : Feed → Feed) (x : FRef) : (s.modFeed n f).fg x = s.fg x := rfl
@[simp] theorem modFeed_fgi (n : Nat) (f : Feed → Feed) (x : FRef) (j : Nat) : (s.modFeed n f).fgi x j = s.fgi x j := rfl
@[simp] theorem modFeed_fgk (n : Nat) (f : Feed → Feed) (x : FRef) (j y : Nat) : (s.modFeed n f).fgk x j y = s.fgk x j y := rfl
@[simp] theorem modFeed_fgb (n : Nat) (f : Feed → Feed) (bk : Nat) (x : FRef) : (s.modFeed n f).fgb bk x = s.fgb bk x := rfl
@[simp] theorem modFeed_reg (n : Nat) (f : Feed → Feed) (pg off : Nat) : (s.modFeed n f).reg pg off = s.reg pg off := rfl
@[simp] theorem modFeed_active (n : Nat) (f : Feed → Feed) (pg : Nat) : (s.modFeed n f).active pg = s.active pg := rfl
@[simp] theorem modFeed_tst (n : Nat) (f : Feed → Feed) (j : Nat) : (s.modFeed n f).tst j = s.tst j := rfl

@[simp] theorem modRd_now (f : RdbkSt → RdbkSt) : (s.modRd f).now = s.now := rfl
@[simp] theorem modRd_outs (f : RdbkSt → RdbkSt) : (s.modRd f).outs = s.outs := rfl
@[simp] theorem modRd_freeCtr (f : RdbkSt → RdbkSt) : (s.modRd f).freeCtr = s.freeCtr := rfl
@[simp] theorem modRd_pending (f : RdbkSt → RdbkSt) : (s.modRd f).pending = s.pending := rfl
@[simp] theorem modRd_regs (f : RdbkSt → RdbkSt) : (s.modRd f).regs = s.regs := rfl
@[simp] theorem modRd_sram (f : RdbkSt → RdbkSt) : (s.modRd f).sram = s.sram := rfl
@[simp] theorem modRd_mode (f : RdbkSt → RdbkSt) : (s.modRd f).mode = s.mode := rfl
@[simp] theorem modRd_fab (f : RdbkSt → RdbkSt) : (s.modRd f).fab = s.fab := rfl
@[simp] theorem modRd_tens (f : RdbkSt → RdbkSt) : (s.modRd f).tens = s.tens := rfl
@[simp] theorem modRd_lnk (f : RdbkSt → RdbkSt) : (s.modRd f).lnk = s.lnk := rfl
@[simp] theorem modRd_keys (f : RdbkSt → RdbkSt) : (s.modRd f).keys = s.keys := rfl
@[simp] theorem modRd_tim (f : RdbkSt → RdbkSt) : (s.modRd f).tim = s.tim := rfl
@[simp] theorem modRd_feeds (f : RdbkSt → RdbkSt) : (s.modRd f).feeds = s.feeds := rfl
@[simp] theorem modRd_patts (f : RdbkSt → RdbkSt) : (s.modRd f).patts = s.patts := rfl
@[simp] theorem modRd_clips (f : RdbkSt → RdbkSt) : (s.modRd f).clips = s.clips := rfl
@[simp] theorem modRd_pix (f : RdbkSt → RdbkSt) : (s.modRd f).pix = s.pix := rfl
@[simp] theorem modRd_blend (f : RdbkSt → RdbkSt) : (s.modRd f).blend = s.blend := rfl
@[simp] theorem modRd_field (f : RdbkSt → RdbkSt) : (s.modRd f).field = s.field := rfl
@[simp] theorem modRd_scan (f : RdbkSt → RdbkSt) : (s.modRd f).scan = s.scan := rfl
@[simp] theorem modRd_health (f : RdbkSt → RdbkSt) : (s.modRd f).health = s.health := rfl
@[simp] theorem modRd_rdbk (f : RdbkSt → RdbkSt) : (s.modRd f).rdbk = f s.rdbk := rfl
@[simp] theorem modRd_sense (f : RdbkSt → RdbkSt) : (s.modRd f).sense = s.sense := rfl
@[simp] theorem modRd_sup (f : RdbkSt → RdbkSt) : (s.modRd f).sup = s.sup := rfl
@[simp] theorem modRd_trim (f : RdbkSt → RdbkSt) : (s.modRd f).trim = s.trim := rfl
@[simp] theorem modRd_mem (f : RdbkSt → RdbkSt) : (s.modRd f).mem = s.mem := rfl
@[simp] theorem modRd_ser (f : RdbkSt → RdbkSt) : (s.modRd f).ser = s.ser := rfl
@[simp] theorem modRd_sec (f : RdbkSt → RdbkSt) : (s.modRd f).sec = s.sec := rfl
@[simp] theorem modRd_upd (f : RdbkSt → RdbkSt) : (s.modRd f).upd = s.upd := rfl
@[simp] theorem modRd_pow (f : RdbkSt → RdbkSt) : (s.modRd f).pow = s.pow := rfl
@[simp] theorem modRd_fg (f : RdbkSt → RdbkSt) (x : FRef) : (s.modRd f).fg x = s.fg x := rfl
@[simp] theorem modRd_fgi (f : RdbkSt → RdbkSt) (x : FRef) (j : Nat) : (s.modRd f).fgi x j = s.fgi x j := rfl
@[simp] theorem modRd_fgk (f : RdbkSt → RdbkSt) (x : FRef) (j y : Nat) : (s.modRd f).fgk x j y = s.fgk x j y := rfl
@[simp] theorem modRd_fgb (f : RdbkSt → RdbkSt) (bk : Nat) (x : FRef) : (s.modRd f).fgb bk x = s.fgb bk x := rfl
@[simp] theorem modRd_reg (f : RdbkSt → RdbkSt) (pg off : Nat) : (s.modRd f).reg pg off = s.reg pg off := rfl
@[simp] theorem modRd_active (f : RdbkSt → RdbkSt) (pg : Nat) : (s.modRd f).active pg = s.active pg := rfl
@[simp] theorem modRd_tst (f : RdbkSt → RdbkSt) (j : Nat) : (s.modRd f).tst j = s.tst j := rfl

@[simp] theorem modPort_now (p : Nat) (f : Port → Port) : (s.modPort p f).now = s.now := rfl
@[simp] theorem modPort_outs (p : Nat) (f : Port → Port) : (s.modPort p f).outs = s.outs := rfl
@[simp] theorem modPort_freeCtr (p : Nat) (f : Port → Port) : (s.modPort p f).freeCtr = s.freeCtr := rfl
@[simp] theorem modPort_pending (p : Nat) (f : Port → Port) : (s.modPort p f).pending = s.pending := rfl
@[simp] theorem modPort_regs (p : Nat) (f : Port → Port) : (s.modPort p f).regs = s.regs := rfl
@[simp] theorem modPort_sram (p : Nat) (f : Port → Port) : (s.modPort p f).sram = s.sram := rfl
@[simp] theorem modPort_mode (p : Nat) (f : Port → Port) : (s.modPort p f).mode = s.mode := rfl
@[simp] theorem modPort_fab (p : Nat) (f : Port → Port) : (s.modPort p f).fab = s.fab := rfl
@[simp] theorem modPort_tens (p : Nat) (f : Port → Port) : (s.modPort p f).tens = s.tens := rfl
@[simp] theorem modPort_keys (p : Nat) (f : Port → Port) : (s.modPort p f).keys = s.keys := rfl
@[simp] theorem modPort_tim (p : Nat) (f : Port → Port) : (s.modPort p f).tim = s.tim := rfl
@[simp] theorem modPort_feeds (p : Nat) (f : Port → Port) : (s.modPort p f).feeds = s.feeds := rfl
@[simp] theorem modPort_patts (p : Nat) (f : Port → Port) : (s.modPort p f).patts = s.patts := rfl
@[simp] theorem modPort_clips (p : Nat) (f : Port → Port) : (s.modPort p f).clips = s.clips := rfl
@[simp] theorem modPort_pix (p : Nat) (f : Port → Port) : (s.modPort p f).pix = s.pix := rfl
@[simp] theorem modPort_blend (p : Nat) (f : Port → Port) : (s.modPort p f).blend = s.blend := rfl
@[simp] theorem modPort_field (p : Nat) (f : Port → Port) : (s.modPort p f).field = s.field := rfl
@[simp] theorem modPort_scan (p : Nat) (f : Port → Port) : (s.modPort p f).scan = s.scan := rfl
@[simp] theorem modPort_health (p : Nat) (f : Port → Port) : (s.modPort p f).health = s.health := rfl
@[simp] theorem modPort_rdbk (p : Nat) (f : Port → Port) : (s.modPort p f).rdbk = s.rdbk := rfl
@[simp] theorem modPort_sense (p : Nat) (f : Port → Port) : (s.modPort p f).sense = s.sense := rfl
@[simp] theorem modPort_sup (p : Nat) (f : Port → Port) : (s.modPort p f).sup = s.sup := rfl
@[simp] theorem modPort_trim (p : Nat) (f : Port → Port) : (s.modPort p f).trim = s.trim := rfl
@[simp] theorem modPort_mem (p : Nat) (f : Port → Port) : (s.modPort p f).mem = s.mem := rfl
@[simp] theorem modPort_ser (p : Nat) (f : Port → Port) : (s.modPort p f).ser = s.ser := rfl
@[simp] theorem modPort_sec (p : Nat) (f : Port → Port) : (s.modPort p f).sec = s.sec := rfl
@[simp] theorem modPort_upd (p : Nat) (f : Port → Port) : (s.modPort p f).upd = s.upd := rfl
@[simp] theorem modPort_pow (p : Nat) (f : Port → Port) : (s.modPort p f).pow = s.pow := rfl
@[simp] theorem modPort_fg (p : Nat) (f : Port → Port) (x : FRef) : (s.modPort p f).fg x = s.fg x := rfl
@[simp] theorem modPort_fgi (p : Nat) (f : Port → Port) (x : FRef) (j : Nat) : (s.modPort p f).fgi x j = s.fgi x j := rfl
@[simp] theorem modPort_fgk (p : Nat) (f : Port → Port) (x : FRef) (j y : Nat) : (s.modPort p f).fgk x j y = s.fgk x j y := rfl
@[simp] theorem modPort_fgb (p : Nat) (f : Port → Port) (bk : Nat) (x : FRef) : (s.modPort p f).fgb bk x = s.fgb bk x := rfl
@[simp] theorem modPort_reg (p : Nat) (f : Port → Port) (pg off : Nat) : (s.modPort p f).reg pg off = s.reg pg off := rfl
@[simp] theorem modPort_active (p : Nat) (f : Port → Port) (pg : Nat) : (s.modPort p f).active pg = s.active pg := rfl
@[simp] theorem modPort_tst (p : Nat) (f : Port → Port) (j : Nat) : (s.modPort p f).tst j = s.tst j := rfl

@[simp] theorem modMem_now (f : MemSt → MemSt) : (s.modMem f).now = s.now := rfl
@[simp] theorem modMem_outs (f : MemSt → MemSt) : (s.modMem f).outs = s.outs := rfl
@[simp] theorem modMem_freeCtr (f : MemSt → MemSt) : (s.modMem f).freeCtr = s.freeCtr := rfl
@[simp] theorem modMem_pending (f : MemSt → MemSt) : (s.modMem f).pending = s.pending := rfl
@[simp] theorem modMem_regs (f : MemSt → MemSt) : (s.modMem f).regs = s.regs := rfl
@[simp] theorem modMem_sram (f : MemSt → MemSt) : (s.modMem f).sram = s.sram := rfl
@[simp] theorem modMem_mode (f : MemSt → MemSt) : (s.modMem f).mode = s.mode := rfl
@[simp] theorem modMem_fab (f : MemSt → MemSt) : (s.modMem f).fab = s.fab := rfl
@[simp] theorem modMem_tens (f : MemSt → MemSt) : (s.modMem f).tens = s.tens := rfl
@[simp] theorem modMem_lnk (f : MemSt → MemSt) : (s.modMem f).lnk = s.lnk := rfl
@[simp] theorem modMem_keys (f : MemSt → MemSt) : (s.modMem f).keys = s.keys := rfl
@[simp] theorem modMem_tim (f : MemSt → MemSt) : (s.modMem f).tim = s.tim := rfl
@[simp] theorem modMem_feeds (f : MemSt → MemSt) : (s.modMem f).feeds = s.feeds := rfl
@[simp] theorem modMem_patts (f : MemSt → MemSt) : (s.modMem f).patts = s.patts := rfl
@[simp] theorem modMem_clips (f : MemSt → MemSt) : (s.modMem f).clips = s.clips := rfl
@[simp] theorem modMem_pix (f : MemSt → MemSt) : (s.modMem f).pix = s.pix := rfl
@[simp] theorem modMem_blend (f : MemSt → MemSt) : (s.modMem f).blend = s.blend := rfl
@[simp] theorem modMem_field (f : MemSt → MemSt) : (s.modMem f).field = s.field := rfl
@[simp] theorem modMem_scan (f : MemSt → MemSt) : (s.modMem f).scan = s.scan := rfl
@[simp] theorem modMem_health (f : MemSt → MemSt) : (s.modMem f).health = s.health := rfl
@[simp] theorem modMem_rdbk (f : MemSt → MemSt) : (s.modMem f).rdbk = s.rdbk := rfl
@[simp] theorem modMem_sense (f : MemSt → MemSt) : (s.modMem f).sense = s.sense := rfl
@[simp] theorem modMem_sup (f : MemSt → MemSt) : (s.modMem f).sup = s.sup := rfl
@[simp] theorem modMem_trim (f : MemSt → MemSt) : (s.modMem f).trim = s.trim := rfl
@[simp] theorem modMem_mem (f : MemSt → MemSt) : (s.modMem f).mem = f s.mem := rfl
@[simp] theorem modMem_ser (f : MemSt → MemSt) : (s.modMem f).ser = s.ser := rfl
@[simp] theorem modMem_sec (f : MemSt → MemSt) : (s.modMem f).sec = s.sec := rfl
@[simp] theorem modMem_upd (f : MemSt → MemSt) : (s.modMem f).upd = s.upd := rfl
@[simp] theorem modMem_pow (f : MemSt → MemSt) : (s.modMem f).pow = s.pow := rfl
@[simp] theorem modMem_fg (f : MemSt → MemSt) (x : FRef) : (s.modMem f).fg x = s.fg x := rfl
@[simp] theorem modMem_fgi (f : MemSt → MemSt) (x : FRef) (j : Nat) : (s.modMem f).fgi x j = s.fgi x j := rfl
@[simp] theorem modMem_fgk (f : MemSt → MemSt) (x : FRef) (j y : Nat) : (s.modMem f).fgk x j y = s.fgk x j y := rfl
@[simp] theorem modMem_fgb (f : MemSt → MemSt) (bk : Nat) (x : FRef) : (s.modMem f).fgb bk x = s.fgb bk x := rfl
@[simp] theorem modMem_reg (f : MemSt → MemSt) (pg off : Nat) : (s.modMem f).reg pg off = s.reg pg off := rfl
@[simp] theorem modMem_active (f : MemSt → MemSt) (pg : Nat) : (s.modMem f).active pg = s.active pg := rfl
@[simp] theorem modMem_tst (f : MemSt → MemSt) (j : Nat) : (s.modMem f).tst j = s.tst j := rfl

@[simp] theorem modPow_now (f : PowSt → PowSt) : (s.modPow f).now = s.now := rfl
@[simp] theorem modPow_outs (f : PowSt → PowSt) : (s.modPow f).outs = s.outs := rfl
@[simp] theorem modPow_freeCtr (f : PowSt → PowSt) : (s.modPow f).freeCtr = s.freeCtr := rfl
@[simp] theorem modPow_pending (f : PowSt → PowSt) : (s.modPow f).pending = s.pending := rfl
@[simp] theorem modPow_regs (f : PowSt → PowSt) : (s.modPow f).regs = s.regs := rfl
@[simp] theorem modPow_sram (f : PowSt → PowSt) : (s.modPow f).sram = s.sram := rfl
@[simp] theorem modPow_mode (f : PowSt → PowSt) : (s.modPow f).mode = s.mode := rfl
@[simp] theorem modPow_fab (f : PowSt → PowSt) : (s.modPow f).fab = s.fab := rfl
@[simp] theorem modPow_tens (f : PowSt → PowSt) : (s.modPow f).tens = s.tens := rfl
@[simp] theorem modPow_lnk (f : PowSt → PowSt) : (s.modPow f).lnk = s.lnk := rfl
@[simp] theorem modPow_keys (f : PowSt → PowSt) : (s.modPow f).keys = s.keys := rfl
@[simp] theorem modPow_tim (f : PowSt → PowSt) : (s.modPow f).tim = s.tim := rfl
@[simp] theorem modPow_feeds (f : PowSt → PowSt) : (s.modPow f).feeds = s.feeds := rfl
@[simp] theorem modPow_patts (f : PowSt → PowSt) : (s.modPow f).patts = s.patts := rfl
@[simp] theorem modPow_clips (f : PowSt → PowSt) : (s.modPow f).clips = s.clips := rfl
@[simp] theorem modPow_pix (f : PowSt → PowSt) : (s.modPow f).pix = s.pix := rfl
@[simp] theorem modPow_blend (f : PowSt → PowSt) : (s.modPow f).blend = s.blend := rfl
@[simp] theorem modPow_field (f : PowSt → PowSt) : (s.modPow f).field = s.field := rfl
@[simp] theorem modPow_scan (f : PowSt → PowSt) : (s.modPow f).scan = s.scan := rfl
@[simp] theorem modPow_health (f : PowSt → PowSt) : (s.modPow f).health = s.health := rfl
@[simp] theorem modPow_rdbk (f : PowSt → PowSt) : (s.modPow f).rdbk = s.rdbk := rfl
@[simp] theorem modPow_sense (f : PowSt → PowSt) : (s.modPow f).sense = s.sense := rfl
@[simp] theorem modPow_sup (f : PowSt → PowSt) : (s.modPow f).sup = s.sup := rfl
@[simp] theorem modPow_trim (f : PowSt → PowSt) : (s.modPow f).trim = s.trim := rfl
@[simp] theorem modPow_mem (f : PowSt → PowSt) : (s.modPow f).mem = s.mem := rfl
@[simp] theorem modPow_ser (f : PowSt → PowSt) : (s.modPow f).ser = s.ser := rfl
@[simp] theorem modPow_sec (f : PowSt → PowSt) : (s.modPow f).sec = s.sec := rfl
@[simp] theorem modPow_upd (f : PowSt → PowSt) : (s.modPow f).upd = s.upd := rfl
@[simp] theorem modPow_pow (f : PowSt → PowSt) : (s.modPow f).pow = f s.pow := rfl
@[simp] theorem modPow_fg (f : PowSt → PowSt) (x : FRef) : (s.modPow f).fg x = s.fg x := rfl
@[simp] theorem modPow_fgi (f : PowSt → PowSt) (x : FRef) (j : Nat) : (s.modPow f).fgi x j = s.fgi x j := rfl
@[simp] theorem modPow_fgk (f : PowSt → PowSt) (x : FRef) (j y : Nat) : (s.modPow f).fgk x j y = s.fgk x j y := rfl
@[simp] theorem modPow_fgb (f : PowSt → PowSt) (bk : Nat) (x : FRef) : (s.modPow f).fgb bk x = s.fgb bk x := rfl
@[simp] theorem modPow_reg (f : PowSt → PowSt) (pg off : Nat) : (s.modPow f).reg pg off = s.reg pg off := rfl
@[simp] theorem modPow_active (f : PowSt → PowSt) (pg : Nat) : (s.modPow f).active pg = s.active pg := rfl
@[simp] theorem modPow_tst (f : PowSt → PowSt) (j : Nat) : (s.modPow f).tst j = s.tst j := rfl

@[simp] theorem modPatt_now (n : Nat) (f : Patt → Patt) : (s.modPatt n f).now = s.now := rfl
@[simp] theorem modPatt_outs (n : Nat) (f : Patt → Patt) : (s.modPatt n f).outs = s.outs := rfl
@[simp] theorem modPatt_freeCtr (n : Nat) (f : Patt → Patt) : (s.modPatt n f).freeCtr = s.freeCtr := rfl
@[simp] theorem modPatt_pending (n : Nat) (f : Patt → Patt) : (s.modPatt n f).pending = s.pending := rfl
@[simp] theorem modPatt_regs (n : Nat) (f : Patt → Patt) : (s.modPatt n f).regs = s.regs := rfl
@[simp] theorem modPatt_sram (n : Nat) (f : Patt → Patt) : (s.modPatt n f).sram = s.sram := rfl
@[simp] theorem modPatt_mode (n : Nat) (f : Patt → Patt) : (s.modPatt n f).mode = s.mode := rfl
@[simp] theorem modPatt_fab (n : Nat) (f : Patt → Patt) : (s.modPatt n f).fab = s.fab := rfl
@[simp] theorem modPatt_tens (n : Nat) (f : Patt → Patt) : (s.modPatt n f).tens = s.tens := rfl
@[simp] theorem modPatt_lnk (n : Nat) (f : Patt → Patt) : (s.modPatt n f).lnk = s.lnk := rfl
@[simp] theorem modPatt_keys (n : Nat) (f : Patt → Patt) : (s.modPatt n f).keys = s.keys := rfl
@[simp] theorem modPatt_tim (n : Nat) (f : Patt → Patt) : (s.modPatt n f).tim = s.tim := rfl
@[simp] theorem modPatt_feeds (n : Nat) (f : Patt → Patt) : (s.modPatt n f).feeds = s.feeds := rfl
@[simp] theorem modPatt_patts (n : Nat) (f : Patt → Patt) : (s.modPatt n f).patts = modAt s.patts n f := rfl
@[simp] theorem modPatt_clips (n : Nat) (f : Patt → Patt) : (s.modPatt n f).clips = s.clips := rfl
@[simp] theorem modPatt_pix (n : Nat) (f : Patt → Patt) : (s.modPatt n f).pix = s.pix := rfl
@[simp] theorem modPatt_blend (n : Nat) (f : Patt → Patt) : (s.modPatt n f).blend = s.blend := rfl
@[simp] theorem modPatt_field (n : Nat) (f : Patt → Patt) : (s.modPatt n f).field = s.field := rfl
@[simp] theorem modPatt_scan (n : Nat) (f : Patt → Patt) : (s.modPatt n f).scan = s.scan := rfl
@[simp] theorem modPatt_health (n : Nat) (f : Patt → Patt) : (s.modPatt n f).health = s.health := rfl
@[simp] theorem modPatt_rdbk (n : Nat) (f : Patt → Patt) : (s.modPatt n f).rdbk = s.rdbk := rfl
@[simp] theorem modPatt_sense (n : Nat) (f : Patt → Patt) : (s.modPatt n f).sense = s.sense := rfl
@[simp] theorem modPatt_sup (n : Nat) (f : Patt → Patt) : (s.modPatt n f).sup = s.sup := rfl
@[simp] theorem modPatt_trim (n : Nat) (f : Patt → Patt) : (s.modPatt n f).trim = s.trim := rfl
@[simp] theorem modPatt_mem (n : Nat) (f : Patt → Patt) : (s.modPatt n f).mem = s.mem := rfl
@[simp] theorem modPatt_ser (n : Nat) (f : Patt → Patt) : (s.modPatt n f).ser = s.ser := rfl
@[simp] theorem modPatt_sec (n : Nat) (f : Patt → Patt) : (s.modPatt n f).sec = s.sec := rfl
@[simp] theorem modPatt_upd (n : Nat) (f : Patt → Patt) : (s.modPatt n f).upd = s.upd := rfl
@[simp] theorem modPatt_pow (n : Nat) (f : Patt → Patt) : (s.modPatt n f).pow = s.pow := rfl
@[simp] theorem modPatt_fg (n : Nat) (f : Patt → Patt) (x : FRef) : (s.modPatt n f).fg x = s.fg x := rfl
@[simp] theorem modPatt_fgi (n : Nat) (f : Patt → Patt) (x : FRef) (j : Nat) : (s.modPatt n f).fgi x j = s.fgi x j := rfl
@[simp] theorem modPatt_fgk (n : Nat) (f : Patt → Patt) (x : FRef) (j y : Nat) : (s.modPatt n f).fgk x j y = s.fgk x j y := rfl
@[simp] theorem modPatt_fgb (n : Nat) (f : Patt → Patt) (bk : Nat) (x : FRef) : (s.modPatt n f).fgb bk x = s.fgb bk x := rfl
@[simp] theorem modPatt_reg (n : Nat) (f : Patt → Patt) (pg off : Nat) : (s.modPatt n f).reg pg off = s.reg pg off := rfl
@[simp] theorem modPatt_active (n : Nat) (f : Patt → Patt) (pg : Nat) : (s.modPatt n f).active pg = s.active pg := rfl
@[simp] theorem modPatt_tst (n : Nat) (f : Patt → Patt) (j : Nat) : (s.modPatt n f).tst j = s.tst j := rfl

@[simp] theorem modUpd_now (f : UpdSt → UpdSt) : (s.modUpd f).now = s.now := rfl
@[simp] theorem modUpd_outs (f : UpdSt → UpdSt) : (s.modUpd f).outs = s.outs := rfl
@[simp] theorem modUpd_freeCtr (f : UpdSt → UpdSt) : (s.modUpd f).freeCtr = s.freeCtr := rfl
@[simp] theorem modUpd_pending (f : UpdSt → UpdSt) : (s.modUpd f).pending = s.pending := rfl
@[simp] theorem modUpd_regs (f : UpdSt → UpdSt) : (s.modUpd f).regs = s.regs := rfl
@[simp] theorem modUpd_sram (f : UpdSt → UpdSt) : (s.modUpd f).sram = s.sram := rfl
@[simp] theorem modUpd_mode (f : UpdSt → UpdSt) : (s.modUpd f).mode = s.mode := rfl
@[simp] theorem modUpd_fab (f : UpdSt → UpdSt) : (s.modUpd f).fab = s.fab := rfl
@[simp] theorem modUpd_tens (f : UpdSt → UpdSt) : (s.modUpd f).tens = s.tens := rfl
@[simp] theorem modUpd_lnk (f : UpdSt → UpdSt) : (s.modUpd f).lnk = s.lnk := rfl
@[simp] theorem modUpd_keys (f : UpdSt → UpdSt) : (s.modUpd f).keys = s.keys := rfl
@[simp] theorem modUpd_tim (f : UpdSt → UpdSt) : (s.modUpd f).tim = s.tim := rfl
@[simp] theorem modUpd_feeds (f : UpdSt → UpdSt) : (s.modUpd f).feeds = s.feeds := rfl
@[simp] theorem modUpd_patts (f : UpdSt → UpdSt) : (s.modUpd f).patts = s.patts := rfl
@[simp] theorem modUpd_clips (f : UpdSt → UpdSt) : (s.modUpd f).clips = s.clips := rfl
@[simp] theorem modUpd_pix (f : UpdSt → UpdSt) : (s.modUpd f).pix = s.pix := rfl
@[simp] theorem modUpd_blend (f : UpdSt → UpdSt) : (s.modUpd f).blend = s.blend := rfl
@[simp] theorem modUpd_field (f : UpdSt → UpdSt) : (s.modUpd f).field = s.field := rfl
@[simp] theorem modUpd_scan (f : UpdSt → UpdSt) : (s.modUpd f).scan = s.scan := rfl
@[simp] theorem modUpd_health (f : UpdSt → UpdSt) : (s.modUpd f).health = s.health := rfl
@[simp] theorem modUpd_rdbk (f : UpdSt → UpdSt) : (s.modUpd f).rdbk = s.rdbk := rfl
@[simp] theorem modUpd_sense (f : UpdSt → UpdSt) : (s.modUpd f).sense = s.sense := rfl
@[simp] theorem modUpd_sup (f : UpdSt → UpdSt) : (s.modUpd f).sup = s.sup := rfl
@[simp] theorem modUpd_trim (f : UpdSt → UpdSt) : (s.modUpd f).trim = s.trim := rfl
@[simp] theorem modUpd_mem (f : UpdSt → UpdSt) : (s.modUpd f).mem = s.mem := rfl
@[simp] theorem modUpd_ser (f : UpdSt → UpdSt) : (s.modUpd f).ser = s.ser := rfl
@[simp] theorem modUpd_sec (f : UpdSt → UpdSt) : (s.modUpd f).sec = s.sec := rfl
@[simp] theorem modUpd_upd (f : UpdSt → UpdSt) : (s.modUpd f).upd = f s.upd := rfl
@[simp] theorem modUpd_pow (f : UpdSt → UpdSt) : (s.modUpd f).pow = s.pow := rfl
@[simp] theorem modUpd_fg (f : UpdSt → UpdSt) (x : FRef) : (s.modUpd f).fg x = s.fg x := rfl
@[simp] theorem modUpd_fgi (f : UpdSt → UpdSt) (x : FRef) (j : Nat) : (s.modUpd f).fgi x j = s.fgi x j := rfl
@[simp] theorem modUpd_fgk (f : UpdSt → UpdSt) (x : FRef) (j y : Nat) : (s.modUpd f).fgk x j y = s.fgk x j y := rfl
@[simp] theorem modUpd_fgb (f : UpdSt → UpdSt) (bk : Nat) (x : FRef) : (s.modUpd f).fgb bk x = s.fgb bk x := rfl
@[simp] theorem modUpd_reg (f : UpdSt → UpdSt) (pg off : Nat) : (s.modUpd f).reg pg off = s.reg pg off := rfl
@[simp] theorem modUpd_active (f : UpdSt → UpdSt) (pg : Nat) : (s.modUpd f).active pg = s.active pg := rfl
@[simp] theorem modUpd_tst (f : UpdSt → UpdSt) (j : Nat) : (s.modUpd f).tst j = s.tst j := rfl

@[simp] theorem modScan_now (f : ScanSt → ScanSt) : (s.modScan f).now = s.now := rfl
@[simp] theorem modScan_outs (f : ScanSt → ScanSt) : (s.modScan f).outs = s.outs := rfl
@[simp] theorem modScan_freeCtr (f : ScanSt → ScanSt) : (s.modScan f).freeCtr = s.freeCtr := rfl
@[simp] theorem modScan_pending (f : ScanSt → ScanSt) : (s.modScan f).pending = s.pending := rfl
@[simp] theorem modScan_regs (f : ScanSt → ScanSt) : (s.modScan f).regs = s.regs := rfl
@[simp] theorem modScan_sram (f : ScanSt → ScanSt) : (s.modScan f).sram = s.sram := rfl
@[simp] theorem modScan_mode (f : ScanSt → ScanSt) : (s.modScan f).mode = s.mode := rfl
@[simp] theorem modScan_fab (f : ScanSt → ScanSt) : (s.modScan f).fab = s.fab := rfl
@[simp] theorem modScan_tens (f : ScanSt → ScanSt) : (s.modScan f).tens = s.tens := rfl
@[simp] theorem modScan_lnk (f : ScanSt → ScanSt) : (s.modScan f).lnk = s.lnk := rfl
@[simp] theorem modScan_keys (f : ScanSt → ScanSt) : (s.modScan f).keys = s.keys := rfl
@[simp] theorem modScan_tim (f : ScanSt → ScanSt) : (s.modScan f).tim = s.tim := rfl
@[simp] theorem modScan_feeds (f : ScanSt → ScanSt) : (s.modScan f).feeds = s.feeds := rfl
@[simp] theorem modScan_patts (f : ScanSt → ScanSt) : (s.modScan f).patts = s.patts := rfl
@[simp] theorem modScan_clips (f : ScanSt → ScanSt) : (s.modScan f).clips = s.clips := rfl
@[simp] theorem modScan_pix (f : ScanSt → ScanSt) : (s.modScan f).pix = s.pix := rfl
@[simp] theorem modScan_blend (f : ScanSt → ScanSt) : (s.modScan f).blend = s.blend := rfl
@[simp] theorem modScan_field (f : ScanSt → ScanSt) : (s.modScan f).field = s.field := rfl
@[simp] theorem modScan_scan (f : ScanSt → ScanSt) : (s.modScan f).scan = f s.scan := rfl
@[simp] theorem modScan_health (f : ScanSt → ScanSt) : (s.modScan f).health = s.health := rfl
@[simp] theorem modScan_rdbk (f : ScanSt → ScanSt) : (s.modScan f).rdbk = s.rdbk := rfl
@[simp] theorem modScan_sense (f : ScanSt → ScanSt) : (s.modScan f).sense = s.sense := rfl
@[simp] theorem modScan_sup (f : ScanSt → ScanSt) : (s.modScan f).sup = s.sup := rfl
@[simp] theorem modScan_trim (f : ScanSt → ScanSt) : (s.modScan f).trim = s.trim := rfl
@[simp] theorem modScan_mem (f : ScanSt → ScanSt) : (s.modScan f).mem = s.mem := rfl
@[simp] theorem modScan_ser (f : ScanSt → ScanSt) : (s.modScan f).ser = s.ser := rfl
@[simp] theorem modScan_sec (f : ScanSt → ScanSt) : (s.modScan f).sec = s.sec := rfl
@[simp] theorem modScan_upd (f : ScanSt → ScanSt) : (s.modScan f).upd = s.upd := rfl
@[simp] theorem modScan_pow (f : ScanSt → ScanSt) : (s.modScan f).pow = s.pow := rfl
@[simp] theorem modScan_fg (f : ScanSt → ScanSt) (x : FRef) : (s.modScan f).fg x = s.fg x := rfl
@[simp] theorem modScan_fgi (f : ScanSt → ScanSt) (x : FRef) (j : Nat) : (s.modScan f).fgi x j = s.fgi x j := rfl
@[simp] theorem modScan_fgk (f : ScanSt → ScanSt) (x : FRef) (j y : Nat) : (s.modScan f).fgk x j y = s.fgk x j y := rfl
@[simp] theorem modScan_fgb (f : ScanSt → ScanSt) (bk : Nat) (x : FRef) : (s.modScan f).fgb bk x = s.fgb bk x := rfl
@[simp] theorem modScan_reg (f : ScanSt → ScanSt) (pg off : Nat) : (s.modScan f).reg pg off = s.reg pg off := rfl
@[simp] theorem modScan_active (f : ScanSt → ScanSt) (pg : Nat) : (s.modScan f).active pg = s.active pg := rfl
@[simp] theorem modScan_tst (f : ScanSt → ScanSt) (j : Nat) : (s.modScan f).tst j = s.tst j := rfl

@[simp] theorem modSec_now (f : SecSt → SecSt) : (s.modSec f).now = s.now := rfl
@[simp] theorem modSec_outs (f : SecSt → SecSt) : (s.modSec f).outs = s.outs := rfl
@[simp] theorem modSec_freeCtr (f : SecSt → SecSt) : (s.modSec f).freeCtr = s.freeCtr := rfl
@[simp] theorem modSec_pending (f : SecSt → SecSt) : (s.modSec f).pending = s.pending := rfl
@[simp] theorem modSec_regs (f : SecSt → SecSt) : (s.modSec f).regs = s.regs := rfl
@[simp] theorem modSec_sram (f : SecSt → SecSt) : (s.modSec f).sram = s.sram := rfl
@[simp] theorem modSec_mode (f : SecSt → SecSt) : (s.modSec f).mode = s.mode := rfl
@[simp] theorem modSec_fab (f : SecSt → SecSt) : (s.modSec f).fab = s.fab := rfl
@[simp] theorem modSec_tens (f : SecSt → SecSt) : (s.modSec f).tens = s.tens := rfl
@[simp] theorem modSec_lnk (f : SecSt → SecSt) : (s.modSec f).lnk = s.lnk := rfl
@[simp] theorem modSec_keys (f : SecSt → SecSt) : (s.modSec f).keys = s.keys := rfl
@[simp] theorem modSec_tim (f : SecSt → SecSt) : (s.modSec f).tim = s.tim := rfl
@[simp] theorem modSec_feeds (f : SecSt → SecSt) : (s.modSec f).feeds = s.feeds := rfl
@[simp] theorem modSec_patts (f : SecSt → SecSt) : (s.modSec f).patts = s.patts := rfl
@[simp] theorem modSec_clips (f : SecSt → SecSt) : (s.modSec f).clips = s.clips := rfl
@[simp] theorem modSec_pix (f : SecSt → SecSt) : (s.modSec f).pix = s.pix := rfl
@[simp] theorem modSec_blend (f : SecSt → SecSt) : (s.modSec f).blend = s.blend := rfl
@[simp] theorem modSec_field (f : SecSt → SecSt) : (s.modSec f).field = s.field := rfl
@[simp] theorem modSec_scan (f : SecSt → SecSt) : (s.modSec f).scan = s.scan := rfl
@[simp] theorem modSec_health (f : SecSt → SecSt) : (s.modSec f).health = s.health := rfl
@[simp] theorem modSec_rdbk (f : SecSt → SecSt) : (s.modSec f).rdbk = s.rdbk := rfl
@[simp] theorem modSec_sense (f : SecSt → SecSt) : (s.modSec f).sense = s.sense := rfl
@[simp] theorem modSec_sup (f : SecSt → SecSt) : (s.modSec f).sup = s.sup := rfl
@[simp] theorem modSec_trim (f : SecSt → SecSt) : (s.modSec f).trim = s.trim := rfl
@[simp] theorem modSec_mem (f : SecSt → SecSt) : (s.modSec f).mem = s.mem := rfl
@[simp] theorem modSec_ser (f : SecSt → SecSt) : (s.modSec f).ser = s.ser := rfl
@[simp] theorem modSec_sec (f : SecSt → SecSt) : (s.modSec f).sec = f s.sec := rfl
@[simp] theorem modSec_upd (f : SecSt → SecSt) : (s.modSec f).upd = s.upd := rfl
@[simp] theorem modSec_pow (f : SecSt → SecSt) : (s.modSec f).pow = s.pow := rfl
@[simp] theorem modSec_fg (f : SecSt → SecSt) (x : FRef) : (s.modSec f).fg x = s.fg x := rfl
@[simp] theorem modSec_fgi (f : SecSt → SecSt) (x : FRef) (j : Nat) : (s.modSec f).fgi x j = s.fgi x j := rfl
@[simp] theorem modSec_fgk (f : SecSt → SecSt) (x : FRef) (j y : Nat) : (s.modSec f).fgk x j y = s.fgk x j y := rfl
@[simp] theorem modSec_fgb (f : SecSt → SecSt) (bk : Nat) (x : FRef) : (s.modSec f).fgb bk x = s.fgb bk x := rfl
@[simp] theorem modSec_reg (f : SecSt → SecSt) (pg off : Nat) : (s.modSec f).reg pg off = s.reg pg off := rfl
@[simp] theorem modSec_active (f : SecSt → SecSt) (pg : Nat) : (s.modSec f).active pg = s.active pg := rfl
@[simp] theorem modSec_tst (f : SecSt → SecSt) (j : Nat) : (s.modSec f).tst j = s.tst j := rfl

@[simp] theorem modSer_now (f : SerSt → SerSt) : (s.modSer f).now = s.now := rfl
@[simp] theorem modSer_outs (f : SerSt → SerSt) : (s.modSer f).outs = s.outs := rfl
@[simp] theorem modSer_freeCtr (f : SerSt → SerSt) : (s.modSer f).freeCtr = s.freeCtr := rfl
@[simp] theorem modSer_pending (f : SerSt → SerSt) : (s.modSer f).pending = s.pending := rfl
@[simp] theorem modSer_regs (f : SerSt → SerSt) : (s.modSer f).regs = s.regs := rfl
@[simp] theorem modSer_sram (f : SerSt → SerSt) : (s.modSer f).sram = s.sram := rfl
@[simp] theorem modSer_mode (f : SerSt → SerSt) : (s.modSer f).mode = s.mode := rfl
@[simp] theorem modSer_fab (f : SerSt → SerSt) : (s.modSer f).fab = s.fab := rfl
@[simp] theorem modSer_tens (f : SerSt → SerSt) : (s.modSer f).tens = s.tens := rfl
@[simp] theorem modSer_lnk (f : SerSt → SerSt) : (s.modSer f).lnk = s.lnk := rfl
@[simp] theorem modSer_keys (f : SerSt → SerSt) : (s.modSer f).keys = s.keys := rfl
@[simp] theorem modSer_tim (f : SerSt → SerSt) : (s.modSer f).tim = s.tim := rfl
@[simp] theorem modSer_feeds (f : SerSt → SerSt) : (s.modSer f).feeds = s.feeds := rfl
@[simp] theorem modSer_patts (f : SerSt → SerSt) : (s.modSer f).patts = s.patts := rfl
@[simp] theorem modSer_clips (f : SerSt → SerSt) : (s.modSer f).clips = s.clips := rfl
@[simp] theorem modSer_pix (f : SerSt → SerSt) : (s.modSer f).pix = s.pix := rfl
@[simp] theorem modSer_blend (f : SerSt → SerSt) : (s.modSer f).blend = s.blend := rfl
@[simp] theorem modSer_field (f : SerSt → SerSt) : (s.modSer f).field = s.field := rfl
@[simp] theorem modSer_scan (f : SerSt → SerSt) : (s.modSer f).scan = s.scan := rfl
@[simp] theorem modSer_health (f : SerSt → SerSt) : (s.modSer f).health = s.health := rfl
@[simp] theorem modSer_rdbk (f : SerSt → SerSt) : (s.modSer f).rdbk = s.rdbk := rfl
@[simp] theorem modSer_sense (f : SerSt → SerSt) : (s.modSer f).sense = s.sense := rfl
@[simp] theorem modSer_sup (f : SerSt → SerSt) : (s.modSer f).sup = s.sup := rfl
@[simp] theorem modSer_trim (f : SerSt → SerSt) : (s.modSer f).trim = s.trim := rfl
@[simp] theorem modSer_mem (f : SerSt → SerSt) : (s.modSer f).mem = s.mem := rfl
@[simp] theorem modSer_ser (f : SerSt → SerSt) : (s.modSer f).ser = f s.ser := rfl
@[simp] theorem modSer_sec (f : SerSt → SerSt) : (s.modSer f).sec = s.sec := rfl
@[simp] theorem modSer_upd (f : SerSt → SerSt) : (s.modSer f).upd = s.upd := rfl
@[simp] theorem modSer_pow (f : SerSt → SerSt) : (s.modSer f).pow = s.pow := rfl
@[simp] theorem modSer_fg (f : SerSt → SerSt) (x : FRef) : (s.modSer f).fg x = s.fg x := rfl
@[simp] theorem modSer_fgi (f : SerSt → SerSt) (x : FRef) (j : Nat) : (s.modSer f).fgi x j = s.fgi x j := rfl
@[simp] theorem modSer_fgk (f : SerSt → SerSt) (x : FRef) (j y : Nat) : (s.modSer f).fgk x j y = s.fgk x j y := rfl
@[simp] theorem modSer_fgb (f : SerSt → SerSt) (bk : Nat) (x : FRef) : (s.modSer f).fgb bk x = s.fgb bk x := rfl
@[simp] theorem modSer_reg (f : SerSt → SerSt) (pg off : Nat) : (s.modSer f).reg pg off = s.reg pg off := rfl
@[simp] theorem modSer_active (f : SerSt → SerSt) (pg : Nat) : (s.modSer f).active pg = s.active pg := rfl
@[simp] theorem modSer_tst (f : SerSt → SerSt) (j : Nat) : (s.modSer f).tst j = s.tst j := rfl

@[simp] theorem modRail_now (k : Nat) (f : Rail → Rail) : (s.modRail k f).now = s.now := rfl
@[simp] theorem modRail_outs (k : Nat) (f : Rail → Rail) : (s.modRail k f).outs = s.outs := rfl
@[simp] theorem modRail_freeCtr (k : Nat) (f : Rail → Rail) : (s.modRail k f).freeCtr = s.freeCtr := rfl
@[simp] theorem modRail_pending (k : Nat) (f : Rail → Rail) : (s.modRail k f).pending = s.pending := rfl
@[simp] theorem modRail_regs (k : Nat) (f : Rail → Rail) : (s.modRail k f).regs = s.regs := rfl
@[simp] theorem modRail_sram (k : Nat) (f : Rail → Rail) : (s.modRail k f).sram = s.sram := rfl
@[simp] theorem modRail_mode (k : Nat) (f : Rail → Rail) : (s.modRail k f).mode = s.mode := rfl
@[simp] theorem modRail_fab (k : Nat) (f : Rail → Rail) : (s.modRail k f).fab = s.fab := rfl
@[simp] theorem modRail_tens (k : Nat) (f : Rail → Rail) : (s.modRail k f).tens = s.tens := rfl
@[simp] theorem modRail_lnk (k : Nat) (f : Rail → Rail) : (s.modRail k f).lnk = s.lnk := rfl
@[simp] theorem modRail_keys (k : Nat) (f : Rail → Rail) : (s.modRail k f).keys = s.keys := rfl
@[simp] theorem modRail_tim (k : Nat) (f : Rail → Rail) : (s.modRail k f).tim = s.tim := rfl
@[simp] theorem modRail_feeds (k : Nat) (f : Rail → Rail) : (s.modRail k f).feeds = s.feeds := rfl
@[simp] theorem modRail_patts (k : Nat) (f : Rail → Rail) : (s.modRail k f).patts = s.patts := rfl
@[simp] theorem modRail_clips (k : Nat) (f : Rail → Rail) : (s.modRail k f).clips = s.clips := rfl
@[simp] theorem modRail_pix (k : Nat) (f : Rail → Rail) : (s.modRail k f).pix = s.pix := rfl
@[simp] theorem modRail_blend (k : Nat) (f : Rail → Rail) : (s.modRail k f).blend = s.blend := rfl
@[simp] theorem modRail_field (k : Nat) (f : Rail → Rail) : (s.modRail k f).field = s.field := rfl
@[simp] theorem modRail_scan (k : Nat) (f : Rail → Rail) : (s.modRail k f).scan = s.scan := rfl
@[simp] theorem modRail_health (k : Nat) (f : Rail → Rail) : (s.modRail k f).health = s.health := rfl
@[simp] theorem modRail_rdbk (k : Nat) (f : Rail → Rail) : (s.modRail k f).rdbk = s.rdbk := rfl
@[simp] theorem modRail_sense (k : Nat) (f : Rail → Rail) : (s.modRail k f).sense = s.sense := rfl
@[simp] theorem modRail_trim (k : Nat) (f : Rail → Rail) : (s.modRail k f).trim = s.trim := rfl
@[simp] theorem modRail_mem (k : Nat) (f : Rail → Rail) : (s.modRail k f).mem = s.mem := rfl
@[simp] theorem modRail_ser (k : Nat) (f : Rail → Rail) : (s.modRail k f).ser = s.ser := rfl
@[simp] theorem modRail_sec (k : Nat) (f : Rail → Rail) : (s.modRail k f).sec = s.sec := rfl
@[simp] theorem modRail_upd (k : Nat) (f : Rail → Rail) : (s.modRail k f).upd = s.upd := rfl
@[simp] theorem modRail_pow (k : Nat) (f : Rail → Rail) : (s.modRail k f).pow = s.pow := rfl
@[simp] theorem modRail_fg (k : Nat) (f : Rail → Rail) (x : FRef) : (s.modRail k f).fg x = s.fg x := rfl
@[simp] theorem modRail_fgi (k : Nat) (f : Rail → Rail) (x : FRef) (j : Nat) : (s.modRail k f).fgi x j = s.fgi x j := rfl
@[simp] theorem modRail_fgk (k : Nat) (f : Rail → Rail) (x : FRef) (j y : Nat) : (s.modRail k f).fgk x j y = s.fgk x j y := rfl
@[simp] theorem modRail_fgb (k : Nat) (f : Rail → Rail) (bk : Nat) (x : FRef) : (s.modRail k f).fgb bk x = s.fgb bk x := rfl
@[simp] theorem modRail_reg (k : Nat) (f : Rail → Rail) (pg off : Nat) : (s.modRail k f).reg pg off = s.reg pg off := rfl
@[simp] theorem modRail_active (k : Nat) (f : Rail → Rail) (pg : Nat) : (s.modRail k f).active pg = s.active pg := rfl
@[simp] theorem modRail_tst (k : Nat) (f : Rail → Rail) (j : Nat) : (s.modRail k f).tst j = s.tst j := rfl

@[simp] theorem modPhase_now (n : Nat) (f : Phase → Phase) : (s.modPhase n f).now = s.now := rfl
@[simp] theorem modPhase_outs (n : Nat) (f : Phase → Phase) : (s.modPhase n f).outs = s.outs := rfl
@[simp] theorem modPhase_freeCtr (n : Nat) (f : Phase → Phase) : (s.modPhase n f).freeCtr = s.freeCtr := rfl
@[simp] theorem modPhase_pending (n : Nat) (f : Phase → Phase) : (s.modPhase n f).pending = s.pending := rfl
@[simp] theorem modPhase_regs (n : Nat) (f : Phase → Phase) : (s.modPhase n f).regs = s.regs := rfl
@[simp] theorem modPhase_sram (n : Nat) (f : Phase → Phase) : (s.modPhase n f).sram = s.sram := rfl
@[simp] theorem modPhase_mode (n : Nat) (f : Phase → Phase) : (s.modPhase n f).mode = s.mode := rfl
@[simp] theorem modPhase_fab (n : Nat) (f : Phase → Phase) : (s.modPhase n f).fab = s.fab := rfl
@[simp] theorem modPhase_tens (n : Nat) (f : Phase → Phase) : (s.modPhase n f).tens = s.tens := rfl
@[simp] theorem modPhase_lnk (n : Nat) (f : Phase → Phase) : (s.modPhase n f).lnk = s.lnk := rfl
@[simp] theorem modPhase_keys (n : Nat) (f : Phase → Phase) : (s.modPhase n f).keys = s.keys := rfl
@[simp] theorem modPhase_tim (n : Nat) (f : Phase → Phase) : (s.modPhase n f).tim = s.tim := rfl
@[simp] theorem modPhase_feeds (n : Nat) (f : Phase → Phase) : (s.modPhase n f).feeds = s.feeds := rfl
@[simp] theorem modPhase_patts (n : Nat) (f : Phase → Phase) : (s.modPhase n f).patts = s.patts := rfl
@[simp] theorem modPhase_clips (n : Nat) (f : Phase → Phase) : (s.modPhase n f).clips = s.clips := rfl
@[simp] theorem modPhase_pix (n : Nat) (f : Phase → Phase) : (s.modPhase n f).pix = s.pix := rfl
@[simp] theorem modPhase_blend (n : Nat) (f : Phase → Phase) : (s.modPhase n f).blend = s.blend := rfl
@[simp] theorem modPhase_field (n : Nat) (f : Phase → Phase) : (s.modPhase n f).field = s.field := rfl
@[simp] theorem modPhase_scan (n : Nat) (f : Phase → Phase) : (s.modPhase n f).scan = s.scan := rfl
@[simp] theorem modPhase_health (n : Nat) (f : Phase → Phase) : (s.modPhase n f).health = s.health := rfl
@[simp] theorem modPhase_rdbk (n : Nat) (f : Phase → Phase) : (s.modPhase n f).rdbk = s.rdbk := rfl
@[simp] theorem modPhase_sense (n : Nat) (f : Phase → Phase) : (s.modPhase n f).sense = s.sense := rfl
@[simp] theorem modPhase_trim (n : Nat) (f : Phase → Phase) : (s.modPhase n f).trim = s.trim := rfl
@[simp] theorem modPhase_mem (n : Nat) (f : Phase → Phase) : (s.modPhase n f).mem = s.mem := rfl
@[simp] theorem modPhase_ser (n : Nat) (f : Phase → Phase) : (s.modPhase n f).ser = s.ser := rfl
@[simp] theorem modPhase_sec (n : Nat) (f : Phase → Phase) : (s.modPhase n f).sec = s.sec := rfl
@[simp] theorem modPhase_upd (n : Nat) (f : Phase → Phase) : (s.modPhase n f).upd = s.upd := rfl
@[simp] theorem modPhase_pow (n : Nat) (f : Phase → Phase) : (s.modPhase n f).pow = s.pow := rfl
@[simp] theorem modPhase_fg (n : Nat) (f : Phase → Phase) (x : FRef) : (s.modPhase n f).fg x = s.fg x := rfl
@[simp] theorem modPhase_fgi (n : Nat) (f : Phase → Phase) (x : FRef) (j : Nat) : (s.modPhase n f).fgi x j = s.fgi x j := rfl
@[simp] theorem modPhase_fgk (n : Nat) (f : Phase → Phase) (x : FRef) (j y : Nat) : (s.modPhase n f).fgk x j y = s.fgk x j y := rfl
@[simp] theorem modPhase_fgb (n : Nat) (f : Phase → Phase) (bk : Nat) (x : FRef) : (s.modPhase n f).fgb bk x = s.fgb bk x := rfl
@[simp] theorem modPhase_reg (n : Nat) (f : Phase → Phase) (pg off : Nat) : (s.modPhase n f).reg pg off = s.reg pg off := rfl
@[simp] theorem modPhase_active (n : Nat) (f : Phase → Phase) (pg : Nat) : (s.modPhase n f).active pg = s.active pg := rfl
@[simp] theorem modPhase_tst (n : Nat) (f : Phase → Phase) (j : Nat) : (s.modPhase n f).tst j = s.tst j := rfl

@[simp] theorem modTrim_now (f : TrimSt → TrimSt) : (s.modTrim f).now = s.now := rfl
@[simp] theorem modTrim_outs (f : TrimSt → TrimSt) : (s.modTrim f).outs = s.outs := rfl
@[simp] theorem modTrim_freeCtr (f : TrimSt → TrimSt) : (s.modTrim f).freeCtr = s.freeCtr := rfl
@[simp] theorem modTrim_pending (f : TrimSt → TrimSt) : (s.modTrim f).pending = s.pending := rfl
@[simp] theorem modTrim_regs (f : TrimSt → TrimSt) : (s.modTrim f).regs = s.regs := rfl
@[simp] theorem modTrim_sram (f : TrimSt → TrimSt) : (s.modTrim f).sram = s.sram := rfl
@[simp] theorem modTrim_mode (f : TrimSt → TrimSt) : (s.modTrim f).mode = s.mode := rfl
@[simp] theorem modTrim_fab (f : TrimSt → TrimSt) : (s.modTrim f).fab = s.fab := rfl
@[simp] theorem modTrim_tens (f : TrimSt → TrimSt) : (s.modTrim f).tens = s.tens := rfl
@[simp] theorem modTrim_lnk (f : TrimSt → TrimSt) : (s.modTrim f).lnk = s.lnk := rfl
@[simp] theorem modTrim_keys (f : TrimSt → TrimSt) : (s.modTrim f).keys = s.keys := rfl
@[simp] theorem modTrim_tim (f : TrimSt → TrimSt) : (s.modTrim f).tim = s.tim := rfl
@[simp] theorem modTrim_feeds (f : TrimSt → TrimSt) : (s.modTrim f).feeds = s.feeds := rfl
@[simp] theorem modTrim_patts (f : TrimSt → TrimSt) : (s.modTrim f).patts = s.patts := rfl
@[simp] theorem modTrim_clips (f : TrimSt → TrimSt) : (s.modTrim f).clips = s.clips := rfl
@[simp] theorem modTrim_pix (f : TrimSt → TrimSt) : (s.modTrim f).pix = s.pix := rfl
@[simp] theorem modTrim_blend (f : TrimSt → TrimSt) : (s.modTrim f).blend = s.blend := rfl
@[simp] theorem modTrim_field (f : TrimSt → TrimSt) : (s.modTrim f).field = s.field := rfl
@[simp] theorem modTrim_scan (f : TrimSt → TrimSt) : (s.modTrim f).scan = s.scan := rfl
@[simp] theorem modTrim_health (f : TrimSt → TrimSt) : (s.modTrim f).health = s.health := rfl
@[simp] theorem modTrim_rdbk (f : TrimSt → TrimSt) : (s.modTrim f).rdbk = s.rdbk := rfl
@[simp] theorem modTrim_sense (f : TrimSt → TrimSt) : (s.modTrim f).sense = s.sense := rfl
@[simp] theorem modTrim_sup (f : TrimSt → TrimSt) : (s.modTrim f).sup = s.sup := rfl
@[simp] theorem modTrim_trim (f : TrimSt → TrimSt) : (s.modTrim f).trim = f s.trim := rfl
@[simp] theorem modTrim_mem (f : TrimSt → TrimSt) : (s.modTrim f).mem = s.mem := rfl
@[simp] theorem modTrim_ser (f : TrimSt → TrimSt) : (s.modTrim f).ser = s.ser := rfl
@[simp] theorem modTrim_sec (f : TrimSt → TrimSt) : (s.modTrim f).sec = s.sec := rfl
@[simp] theorem modTrim_upd (f : TrimSt → TrimSt) : (s.modTrim f).upd = s.upd := rfl
@[simp] theorem modTrim_pow (f : TrimSt → TrimSt) : (s.modTrim f).pow = s.pow := rfl
@[simp] theorem modTrim_fg (f : TrimSt → TrimSt) (x : FRef) : (s.modTrim f).fg x = s.fg x := rfl
@[simp] theorem modTrim_fgi (f : TrimSt → TrimSt) (x : FRef) (j : Nat) : (s.modTrim f).fgi x j = s.fgi x j := rfl
@[simp] theorem modTrim_fgk (f : TrimSt → TrimSt) (x : FRef) (j y : Nat) : (s.modTrim f).fgk x j y = s.fgk x j y := rfl
@[simp] theorem modTrim_fgb (f : TrimSt → TrimSt) (bk : Nat) (x : FRef) : (s.modTrim f).fgb bk x = s.fgb bk x := rfl
@[simp] theorem modTrim_reg (f : TrimSt → TrimSt) (pg off : Nat) : (s.modTrim f).reg pg off = s.reg pg off := rfl
@[simp] theorem modTrim_active (f : TrimSt → TrimSt) (pg : Nat) : (s.modTrim f).active pg = s.active pg := rfl
@[simp] theorem modTrim_tst (f : TrimSt → TrimSt) (j : Nat) : (s.modTrim f).tst j = s.tst j := rfl

@[simp] theorem evTo_now (n p c d k u : Nat) : (s.evTo n p c d k u).now = s.now := by
  unfold evTo
  dsimp only
  split <;> rfl
@[simp] theorem evTo_outs (n p c d k u : Nat) : (s.evTo n p c d k u).outs = s.outs := by
  unfold evTo
  dsimp only
  split <;> rfl
@[simp] theorem evTo_freeCtr (n p c d k u : Nat) : (s.evTo n p c d k u).freeCtr = s.freeCtr := by
  unfold evTo
  dsimp only
  split <;> rfl
@[simp] theorem evTo_pending (n p c d k u : Nat) : (s.evTo n p c d k u).pending = s.pending := by
  unfold evTo
  dsimp only
  split <;> rfl
@[simp] theorem evTo_sram (n p c d k u : Nat) : (s.evTo n p c d k u).sram = s.sram := by
  unfold evTo
  dsimp only
  split <;> rfl
@[simp] theorem evTo_mode (n p c d k u : Nat) : (s.evTo n p c d k u).mode = s.mode := by
  unfold evTo
  dsimp only
  split <;> rfl
@[simp] theorem evTo_fab (n p c d k u : Nat) : (s.evTo n p c d k u).fab = s.fab := by
  unfold evTo
  dsimp only
  split <;> rfl
@[simp] theorem evTo_lnk (n p c d k u : Nat) : (s.evTo n p c d k u).lnk = s.lnk := by
  unfold evTo
  dsimp only
  split <;> rfl
@[simp] theorem evTo_keys (n p c d k u : Nat) : (s.evTo n p c d k u).keys = s.keys := by
  unfold evTo
  dsimp only
  split <;> rfl
@[simp] theorem evTo_tim (n p c d k u : Nat) : (s.evTo n p c d k u).tim = s.tim := by
  unfold evTo
  dsimp only
  split <;> rfl
@[simp] theorem evTo_feeds (n p c d k u : Nat) : (s.evTo n p c d k u).feeds = s.feeds := by
  unfold evTo
  dsimp only
  split <;> rfl
@[simp] theorem evTo_patts (n p c d k u : Nat) : (s.evTo n p c d k u).patts = s.patts := by
  unfold evTo
  dsimp only
  split <;> rfl
@[simp] theorem evTo_clips (n p c d k u : Nat) : (s.evTo n p c d k u).clips = s.clips := by
  unfold evTo
  dsimp only
  split <;> rfl
@[simp] theorem evTo_pix (n p c d k u : Nat) : (s.evTo n p c d k u).pix = s.pix := by
  unfold evTo
  dsimp only
  split <;> rfl
@[simp] theorem evTo_blend (n p c d k u : Nat) : (s.evTo n p c d k u).blend = s.blend := by
  unfold evTo
  dsimp only
  split <;> rfl
@[simp] theorem evTo_field (n p c d k u : Nat) : (s.evTo n p c d k u).field = s.field := by
  unfold evTo
  dsimp only
  split <;> rfl
@[simp] theorem evTo_scan (n p c d k u : Nat) : (s.evTo n p c d k u).scan = s.scan := by
  unfold evTo
  dsimp only
  split <;> rfl
@[simp] theorem evTo_health (n p c d k u : Nat) : (s.evTo n p c d k u).health = s.health := by
  unfold evTo
  dsimp only
  split <;> rfl
@[simp] theorem evTo_rdbk (n p c d k u : Nat) : (s.evTo n p c d k u).rdbk = s.rdbk := by
  unfold evTo
  dsimp only
  split <;> rfl
@[simp] theorem evTo_sense (n p c d k u : Nat) : (s.evTo n p c d k u).sense = s.sense := by
  unfold evTo
  dsimp only
  split <;> rfl
@[simp] theorem evTo_sup (n p c d k u : Nat) : (s.evTo n p c d k u).sup = s.sup := by
  unfold evTo
  dsimp only
  split <;> rfl
@[simp] theorem evTo_trim (n p c d k u : Nat) : (s.evTo n p c d k u).trim = s.trim := by
  unfold evTo
  dsimp only
  split <;> rfl
@[simp] theorem evTo_mem (n p c d k u : Nat) : (s.evTo n p c d k u).mem = s.mem := by
  unfold evTo
  dsimp only
  split <;> rfl
@[simp] theorem evTo_ser (n p c d k u : Nat) : (s.evTo n p c d k u).ser = s.ser := by
  unfold evTo
  dsimp only
  split <;> rfl
@[simp] theorem evTo_sec (n p c d k u : Nat) : (s.evTo n p c d k u).sec = s.sec := by
  unfold evTo
  dsimp only
  split <;> rfl
@[simp] theorem evTo_upd (n p c d k u : Nat) : (s.evTo n p c d k u).upd = s.upd := by
  unfold evTo
  dsimp only
  split <;> rfl
@[simp] theorem evTo_pow (n p c d k u : Nat) : (s.evTo n p c d k u).pow = s.pow := by
  unfold evTo
  dsimp only
  split <;> rfl

@[simp] theorem ev_now (p c d k u : Nat) : (s.ev p c d k u).now = s.now := evTo_now s _ _ _ _ _ _
@[simp] theorem ev_outs (p c d k u : Nat) : (s.ev p c d k u).outs = s.outs := evTo_outs s _ _ _ _ _ _
@[simp] theorem ev_freeCtr (p c d k u : Nat) : (s.ev p c d k u).freeCtr = s.freeCtr := evTo_freeCtr s _ _ _ _ _ _
@[simp] theorem ev_pending (p c d k u : Nat) : (s.ev p c d k u).pending = s.pending := evTo_pending s _ _ _ _ _ _
@[simp] theorem ev_sram (p c d k u : Nat) : (s.ev p c d k u).sram = s.sram := evTo_sram s _ _ _ _ _ _
@[simp] theorem ev_mode (p c d k u : Nat) : (s.ev p c d k u).mode = s.mode := evTo_mode s _ _ _ _ _ _
@[simp] theorem ev_fab (p c d k u : Nat) : (s.ev p c d k u).fab = s.fab := evTo_fab s _ _ _ _ _ _
@[simp] theorem ev_lnk (p c d k u : Nat) : (s.ev p c d k u).lnk = s.lnk := evTo_lnk s _ _ _ _ _ _
@[simp] theorem ev_keys (p c d k u : Nat) : (s.ev p c d k u).keys = s.keys := evTo_keys s _ _ _ _ _ _
@[simp] theorem ev_tim (p c d k u : Nat) : (s.ev p c d k u).tim = s.tim := evTo_tim s _ _ _ _ _ _
@[simp] theorem ev_feeds (p c d k u : Nat) : (s.ev p c d k u).feeds = s.feeds := evTo_feeds s _ _ _ _ _ _
@[simp] theorem ev_patts (p c d k u : Nat) : (s.ev p c d k u).patts = s.patts := evTo_patts s _ _ _ _ _ _
@[simp] theorem ev_clips (p c d k u : Nat) : (s.ev p c d k u).clips = s.clips := evTo_clips s _ _ _ _ _ _
@[simp] theorem ev_pix (p c d k u : Nat) : (s.ev p c d k u).pix = s.pix := evTo_pix s _ _ _ _ _ _
@[simp] theorem ev_blend (p c d k u : Nat) : (s.ev p c d k u).blend = s.blend := evTo_blend s _ _ _ _ _ _
@[simp] theorem ev_field (p c d k u : Nat) : (s.ev p c d k u).field = s.field := evTo_field s _ _ _ _ _ _
@[simp] theorem ev_scan (p c d k u : Nat) : (s.ev p c d k u).scan = s.scan := evTo_scan s _ _ _ _ _ _
@[simp] theorem ev_health (p c d k u : Nat) : (s.ev p c d k u).health = s.health := evTo_health s _ _ _ _ _ _
@[simp] theorem ev_rdbk (p c d k u : Nat) : (s.ev p c d k u).rdbk = s.rdbk := evTo_rdbk s _ _ _ _ _ _
@[simp] theorem ev_sense (p c d k u : Nat) : (s.ev p c d k u).sense = s.sense := evTo_sense s _ _ _ _ _ _
@[simp] theorem ev_sup (p c d k u : Nat) : (s.ev p c d k u).sup = s.sup := evTo_sup s _ _ _ _ _ _
@[simp] theorem ev_trim (p c d k u : Nat) : (s.ev p c d k u).trim = s.trim := evTo_trim s _ _ _ _ _ _
@[simp] theorem ev_mem (p c d k u : Nat) : (s.ev p c d k u).mem = s.mem := evTo_mem s _ _ _ _ _ _
@[simp] theorem ev_ser (p c d k u : Nat) : (s.ev p c d k u).ser = s.ser := evTo_ser s _ _ _ _ _ _
@[simp] theorem ev_sec (p c d k u : Nat) : (s.ev p c d k u).sec = s.sec := evTo_sec s _ _ _ _ _ _
@[simp] theorem ev_upd (p c d k u : Nat) : (s.ev p c d k u).upd = s.upd := evTo_upd s _ _ _ _ _ _
@[simp] theorem ev_pow (p c d k u : Nat) : (s.ev p c d k u).pow = s.pow := evTo_pow s _ _ _ _ _ _

@[simp] theorem fault_now (p i c d u : Nat) : (s.fault p i c d u).now = s.now := by
  unfold fault
  dsimp only
  split
  · rfl
  · exact ev_now _ _ _ _ _ _
@[simp] theorem fault_outs (p i c d u : Nat) : (s.fault p i c d u).outs = s.outs := by
  unfold fault
  dsimp only
  split
  · rfl
  · exact ev_outs _ _ _ _ _ _
@[simp] theorem fault_freeCtr (p i c d u : Nat) : (s.fault p i c d u).freeCtr = s.freeCtr := by
  unfold fault
  dsimp only
  split
  · rfl
  · exact ev_freeCtr _ _ _ _ _ _
@[simp] theorem fault_pending (p i c d u : Nat) : (s.fault p i c d u).pending = s.pending := by
  unfold fault
  dsimp only
  split
  · rfl
  · exact ev_pending _ _ _ _ _ _
@[simp] theorem fault_sram (p i c d u : Nat) : (s.fault p i c d u).sram = s.sram := by
  unfold fault
  dsimp only
  split
  · rfl
  · exact ev_sram _ _ _ _ _ _
@[simp] theorem fault_mode (p i c d u : Nat) : (s.fault p i c d u).mode = s.mode := by
  unfold fault
  dsimp only
  split
  · rfl
  · exact ev_mode _ _ _ _ _ _
@[simp] theorem fault_fab (p i c d u : Nat) : (s.fault p i c d u).fab = s.fab := by
  unfold fault
  dsimp only
  split
  · rfl
  · exact ev_fab _ _ _ _ _ _
@[simp] theorem fault_lnk (p i c d u : Nat) : (s.fault p i c d u).lnk = s.lnk := by
  unfold fault
  dsimp only
  split
  · rfl
  · exact ev_lnk _ _ _ _ _ _
@[simp] theorem fault_keys (p i c d u : Nat) : (s.fault p i c d u).keys = s.keys := by
  unfold fault
  dsimp only
  split
  · rfl
  · exact ev_keys _ _ _ _ _ _
@[simp] theorem fault_tim (p i c d u : Nat) : (s.fault p i c d u).tim = s.tim := by
  unfold fault
  dsimp only
  split
  · rfl
  · exact ev_tim _ _ _ _ _ _
@[simp] theorem fault_feeds (p i c d u : Nat) : (s.fault p i c d u).feeds = s.feeds := by
  unfold fault
  dsimp only
  split
  · rfl
  · exact ev_feeds _ _ _ _ _ _
@[simp] theorem fault_patts (p i c d u : Nat) : (s.fault p i c d u).patts = s.patts := by
  unfold fault
  dsimp only
  split
  · rfl
  · exact ev_patts _ _ _ _ _ _
@[simp] theorem fault_clips (p i c d u : Nat) : (s.fault p i c d u).clips = s.clips := by
  unfold fault
  dsimp only
  split
  · rfl
  · exact ev_clips _ _ _ _ _ _
@[simp] theorem fault_pix (p i c d u : Nat) : (s.fault p i c d u).pix = s.pix := by
  unfold fault
  dsimp only
  split
  · rfl
  · exact ev_pix _ _ _ _ _ _
@[simp] theorem fault_blend (p i c d u : Nat) : (s.fault p i c d u).blend = s.blend := by
  unfold fault
  dsimp only
  split
  · rfl
  · exact ev_blend _ _ _ _ _ _
@[simp] theorem fault_field (p i c d u : Nat) : (s.fault p i c d u).field = s.field := by
  unfold fault
  dsimp only
  split
  · rfl
  · exact ev_field _ _ _ _ _ _
@[simp] theorem fault_scan (p i c d u : Nat) : (s.fault p i c d u).scan = s.scan := by
  unfold fault
  dsimp only
  split
  · rfl
  · exact ev_scan _ _ _ _ _ _
@[simp] theorem fault_health (p i c d u : Nat) : (s.fault p i c d u).health = s.health := by
  unfold fault
  dsimp only
  split
  · rfl
  · exact ev_health _ _ _ _ _ _
@[simp] theorem fault_rdbk (p i c d u : Nat) : (s.fault p i c d u).rdbk = s.rdbk := by
  unfold fault
  dsimp only
  split
  · rfl
  · exact ev_rdbk _ _ _ _ _ _
@[simp] theorem fault_sense (p i c d u : Nat) : (s.fault p i c d u).sense = s.sense := by
  unfold fault
  dsimp only
  split
  · rfl
  · exact ev_sense _ _ _ _ _ _
@[simp] theorem fault_sup (p i c d u : Nat) : (s.fault p i c d u).sup = s.sup := by
  unfold fault
  dsimp only
  split
  · rfl
  · exact ev_sup _ _ _ _ _ _
@[simp] theorem fault_trim (p i c d u : Nat) : (s.fault p i c d u).trim = s.trim := by
  unfold fault
  dsimp only
  split
  · rfl
  · exact ev_trim _ _ _ _ _ _
@[simp] theorem fault_mem (p i c d u : Nat) : (s.fault p i c d u).mem = s.mem := by
  unfold fault
  dsimp only
  split
  · rfl
  · exact ev_mem _ _ _ _ _ _
@[simp] theorem fault_ser (p i c d u : Nat) : (s.fault p i c d u).ser = s.ser := by
  unfold fault
  dsimp only
  split
  · rfl
  · exact ev_ser _ _ _ _ _ _
@[simp] theorem fault_sec (p i c d u : Nat) : (s.fault p i c d u).sec = s.sec := by
  unfold fault
  dsimp only
  split
  · rfl
  · exact ev_sec _ _ _ _ _ _
@[simp] theorem fault_upd (p i c d u : Nat) : (s.fault p i c d u).upd = s.upd := by
  unfold fault
  dsimp only
  split
  · rfl
  · exact ev_upd _ _ _ _ _ _
@[simp] theorem fault_pow (p i c d u : Nat) : (s.fault p i c d u).pow = s.pow := by
  unfold fault
  dsimp only
  split
  · rfl
  · exact ev_pow _ _ _ _ _ _

end Sys2Proof.Machine.State
end

