-- ==== Sys2Proof/Laws/RegFrame.lean ====
section
/-! SUPPORT. Frames of the register file: which registers an operation may change, as a list of pages and offsets (State.regsBut). -/

namespace Sys2Proof.Machine

theorem regKey_inj {b p o b' p' o' : Nat} (hp : p < 256) (ho : o < 4096) (hp' : p' < 256) (ho' : o' < 4096)
    (h : regKey b p o = regKey b' p' o') : b = b' ∧ p = p' ∧ o = o' := by
  unfold regKey at h
  omega

namespace State

variable {l m : List (Nat × Nat)} {s t u : State}

theorem regsBut.refl (l : List (Nat × Nat)) (s : State) : regsBut l s s := fun _ _ _ _ _ _ => rfl

theorem regsBut.trans (h : regsBut l s t) (k : regsBut l t u) : regsBut l s u :=
  fun b p o hp ho hl => (k b p o hp ho hl).trans (h b p o hp ho hl)

theorem regsBut.mono (h : regsBut l s t) (hm : ∀ x ∈ l, x ∈ m) : regsBut m s t :=
  fun b p o hp ho hl => h b p o hp ho fun hx => hl (hm _ hx)

/-- Equal register files. -/
theorem regsBut.of_eq (h : regsBut l s t) (e : u.regs = t.regs) : regsBut l s u := fun b p o hp ho hl => by
  rw [e]; exact h b p o hp ho hl

theorem regsBut.put (h : regsBut l s t) {b' p' o' : Nat} (v : Nat) (hp' : p' < 256) (ho' : o' < 4096) (hm : (p', o') ∈ l) :
    regsBut l s { t with regs := rput t.regs b' p' o' v } := fun b p o hp ho hl => by
  have hne : regKey b p o ≠ regKey b' p' o' := fun e => by
    obtain ⟨-, rfl, rfl⟩ := regKey_inj hp ho hp' ho' e
    exact hl hm
  exact (rget_rput_ne _ v hne).trans (h b p o hp ho hl)

theorem regsBut.setReg (h : regsBut l s t) (p o v : Nat) (hp : p < 256) (ho : o < 4096) (hm : (p, o) ∈ l) :
    regsBut l s (t.setReg p o v) := h.put v hp ho hm

theorem regsBut.fsk (h : regsBut l s t) (f : FRef) (i k v : Nat) (hp : f.page + i < 256) (ho : f.off + k * f.stride < 4096)
    (hm : (f.page + i, f.off + k * f.stride) ∈ l) : regsBut l s (t.fsk f i k v) := h.put _ hp ho hm

theorem regsBut.fsi (h : regsBut l s t) (f : FRef) (i v : Nat) (hp : f.page + i < 256) (ho : f.off < 4096)
    (hm : (f.page + i, f.off) ∈ l) : regsBut l s (t.fsi f i v) :=
  h.put _ hp (by simpa using ho) (by simpa using hm)

theorem regsBut.fs (h : regsBut l s t) (f : FRef) (v : Nat) (hp : f.page < 256) (ho : f.off < 4096) (hm : (f.page, f.off) ∈ l) :
    regsBut l s (t.fs f v) := h.put _ (by simpa using hp) (by simpa using ho) (by simpa using hm)

theorem regsBut.fsb (h : regsBut l s t) (b : Nat) (f : FRef) (v : Nat) (hp : f.page < 256) (ho : f.off < 4096)
    (hm : (f.page, f.off) ∈ l) : regsBut l s (t.fsb b f v) := h.put _ (by simpa using hp) (by simpa using ho) (by simpa using hm)

theorem regsBut.inc (h : regsBut l s t) (f : FRef) (i n : Nat) (hp : f.page + i < 256) (ho : f.off < 4096)
    (hm : (f.page + i, f.off) ∈ l) : regsBut l s (t.inc f i n) := h.fsi f i _ hp ho hm

/-- An event changes FLT_LAST alone, and only one of block 0 with code 0x7xxx. -/
theorem regsBut.evTo (h : regsBut l s t) (n p c d k u : Nat) (hm : (pgFAULT, FLT_LAST_CODE.off) ∈ l) :
    regsBut l s (t.evTo n p c d k u) := by
  unfold State.evTo
  dsimp only
  split
  · exact ((h.fs FLT_LAST_CODE c (by decide) (by decide) hm).fs FLT_LAST_DETAIL d (by decide) (by decide) hm).of_eq rfl
  · exact h.of_eq rfl

theorem regsBut.ev (h : regsBut l s t) (p c d k u : Nat) (hm : (pgFAULT, FLT_LAST_CODE.off) ∈ l) :
    regsBut l s (t.ev p c d k u) := h.evTo _ _ _ _ _ _ hm

theorem regsBut.fault (h : regsBut l s t) (p i c d u : Nat) (hp : p < 256) (hf : (p, (hFAULT p).off) ∈ l)
    (hm : (pgFAULT, FLT_LAST_CODE.off) ∈ l) : regsBut l s (t.fault p i c d u) := by
  have h1 := h.fs (hFAULT p) (Nat.lor (t.fg (hFAULT p)) (2 ^ i)) hp (show 0x014 < 4096 by decide) hf
  unfold State.fault
  dsimp only
  split
  · exact h1
  · exact h1.ev _ _ _ _ _ hm

theorem regsBut.faultBit (h : regsBut l s t) (p i : Nat) (hp : p < 256) (hf : (p, (hFAULT p).off) ∈ l) :
    regsBut l s (t.faultBit p i) := h.fs (hFAULT p) _ hp (show 0x014 < 4096 by decide) hf

theorem regsBut.bumpGen (h : regsBut l s t) (p : Nat) (hp : p < 256) (hf : (p, (hGEN p).off) ∈ l) : regsBut l s (t.bumpGen p) :=
  h.fs (hGEN p) _ hp (show 0x024 < 4096 by decide) hf

/-! ### Whole pages -/

section

variable {l m : List Nat}

theorem pagesBut.refl (l : List Nat) (s : State) : pagesBut l s s := fun _ _ _ _ _ _ => rfl

theorem pagesBut.trans (h : pagesBut l s t) (k : pagesBut l t u) : pagesBut l s u :=
  fun b p o hp ho hl => (k b p o hp ho hl).trans (h b p o hp ho hl)

theorem pagesBut.mono (h : pagesBut l s t) (hm : ∀ x ∈ l, x ∈ m) : pagesBut m s t :=
  fun b p o hp ho hl => h b p o hp ho fun hx => hl (hm _ hx)

theorem pagesBut.of_eq (h : pagesBut l s t) (e : u.regs = t.regs) : pagesBut l s u := fun b p o hp ho hl => by
  rw [e]; exact h b p o hp ho hl

theorem pagesBut.put (h : pagesBut l s t) {b' p' o' : Nat} (v : Nat) (hp' : p' < 256) (ho' : o' < 4096) (hm : p' ∈ l) :
    pagesBut l s { t with regs := rput t.regs b' p' o' v } := fun b p o hp ho hl => by
  have hne : regKey b p o ≠ regKey b' p' o' := fun e => by
    obtain ⟨-, rfl, rfl⟩ := regKey_inj hp ho hp' ho' e
    exact hl hm
  exact (rget_rput_ne _ v hne).trans (h b p o hp ho hl)

theorem pagesBut.setReg (h : pagesBut l s t) (p o v : Nat) (hp : p < 256) (ho : o < 4096) (hm : p ∈ l) :
    pagesBut l s (t.setReg p o v) := h.put v hp ho hm

theorem pagesBut.fsk (h : pagesBut l s t) (f : FRef) (i k v : Nat) (hp : f.page + i < 256) (ho : f.off + k * f.stride < 4096)
    (hm : f.page + i ∈ l) : pagesBut l s (t.fsk f i k v) := h.put _ hp ho hm

theorem pagesBut.fsi (h : pagesBut l s t) (f : FRef) (i v : Nat) (hp : f.page + i < 256) (ho : f.off < 4096)
    (hm : f.page + i ∈ l) : pagesBut l s (t.fsi f i v) := h.put _ hp (by simpa using ho) hm

theorem pagesBut.fs (h : pagesBut l s t) (f : FRef) (v : Nat) (hp : f.page < 256) (ho : f.off < 4096) (hm : f.page ∈ l) :
    pagesBut l s (t.fs f v) := h.put _ (by simpa using hp) (by simpa using ho) (by simpa using hm)

theorem pagesBut.fsb (h : pagesBut l s t) (b : Nat) (f : FRef) (v : Nat) (hp : f.page < 256) (ho : f.off < 4096) (hm : f.page ∈ l) :
    pagesBut l s (t.fsb b f v) := h.put _ (by simpa using hp) (by simpa using ho) (by simpa using hm)

theorem pagesBut.inc (h : pagesBut l s t) (f : FRef) (i n : Nat) (hp : f.page + i < 256) (ho : f.off < 4096) (hm : f.page + i ∈ l) :
    pagesBut l s (t.inc f i n) := h.fsi f i _ hp ho hm

theorem pagesBut.evTo (h : pagesBut l s t) (n p c d k u : Nat) (hm : pgFAULT ∈ l) : pagesBut l s (t.evTo n p c d k u) := by
  unfold State.evTo
  dsimp only
  split
  · exact ((h.fs FLT_LAST_CODE c (by decide) (by decide) hm).fs FLT_LAST_DETAIL d (by decide) (by decide) hm).of_eq rfl
  · exact h.of_eq rfl

theorem pagesBut.ev (h : pagesBut l s t) (p c d k u : Nat) (hm : pgFAULT ∈ l) : pagesBut l s (t.ev p c d k u) :=
  h.evTo _ _ _ _ _ _ hm

theorem pagesBut.fault (h : pagesBut l s t) (p i c d u : Nat) (hp : p < 256) (hf : p ∈ l) (hm : pgFAULT ∈ l) :
    pagesBut l s (t.fault p i c d u) := by
  have h1 := h.fs (hFAULT p) (Nat.lor (t.fg (hFAULT p)) (2 ^ i)) hp (show 0x014 < 4096 by decide) hf
  unfold State.fault
  dsimp only
  split
  · exact h1
  · exact h1.ev _ _ _ _ _ hm

theorem pagesBut.faultBit (h : pagesBut l s t) (p i : Nat) (hp : p < 256) (hf : p ∈ l) : pagesBut l s (t.faultBit p i) :=
  h.fs (hFAULT p) _ hp (show 0x014 < 4096 by decide) hf

theorem pagesBut.bumpGen (h : pagesBut l s t) (p : Nat) (hp : p < 256) (hf : p ∈ l) : pagesBut l s (t.bumpGen p) :=
  h.fs (hGEN p) _ hp (show 0x024 < 4096 by decide) hf

/-- Use of an intermediate state. -/
theorem pagesBut.cut {P : Prop} (u : State) (h : pagesBut l s u) (k : pagesBut l s u → P) : P := k h

theorem pagesBut.ite {c : Prop} [Decidable c] (h : pagesBut l s t) (k : pagesBut l s u) : pagesBut l s (if c then t else u) := by
  split <;> assumption

theorem pagesBut.ite_neg {c : Prop} [Decidable c] (hc : ¬c) (h : pagesBut l s t) : pagesBut l s (if c then u else t) := by
  rwa [if_neg hc]

theorem pagesBut.foldl {α : Type} (xs : List α) {f : State → α → State} (hf : ∀ u x, x ∈ xs → pagesBut l s u → pagesBut l s (f u x))
    (h : pagesBut l s t) : pagesBut l s (xs.foldl f t) := by
  induction xs generalizing t with
  | nil => exact h
  | cons x xs ih =>
    exact ih (fun u y hy => hf u y (List.mem_cons_of_mem _ hy)) (hf _ _ List.mem_cons_self h)

theorem pagesBut.active (h : pagesBut l s t) (p : Nat) (hp : p < 256) (hm : p ∉ l) : t.active p = s.active p := by
  have e : t.fg (hACTIVE p) = s.fg (hACTIVE p) := by
    show bitsOf (rget t.regs 0 (p + 0) 0x00C) 0 0 = bitsOf (rget s.regs 0 (p + 0) 0x00C) 0 0
    rw [h 0 _ _ (by simpa using hp) (by decide) (by simpa using hm)]
  unfold State.active
  rw [e]

theorem pagesBut.fgk (h : pagesBut l s t) (f : FRef) (i k : Nat) (hp : f.page + i < 256) (ho : f.off + k * f.stride < 4096)
    (hm : f.page + i ∉ l) : t.fgk f i k = s.fgk f i k := by
  unfold State.fgk rfget rfgetB
  rw [h 0 _ _ hp ho hm]

theorem pagesBut.fg (h : pagesBut l s t) (f : FRef) (hp : f.page < 256) (ho : f.off < 4096) (hm : f.page ∉ l) : t.fg f = s.fg f := by
  unfold State.fg rfget rfgetB
  rw [h 0 _ _ (by simpa using hp) (by simpa using ho) (by simpa using hm)]

end

/-- A field outside the frame keeps its value. -/
theorem regsBut.fgk (h : regsBut l s t) (f : FRef) (i k : Nat) (hp : f.page + i < 256) (ho : f.off + k * f.stride < 4096)
    (hm : (f.page + i, f.off + k * f.stride) ∉ l) : t.fgk f i k = s.fgk f i k := by
  unfold State.fgk rfget rfgetB
  rw [h 0 _ _ hp ho hm]

theorem regsBut.fgi (h : regsBut l s t) (f : FRef) (i : Nat) (hp : f.page + i < 256) (ho : f.off < 4096)
    (hm : (f.page + i, f.off) ∉ l) : t.fgi f i = s.fgi f i := by
  unfold State.fgi rfget rfgetB
  rw [h 0 _ _ hp (by simpa using ho) (by simpa using hm)]

theorem regsBut.fg (h : regsBut l s t) (f : FRef) (hp : f.page < 256) (ho : f.off < 4096) (hm : (f.page, f.off) ∉ l) :
    t.fg f = s.fg f := by
  unfold State.fg rfget rfgetB
  rw [h 0 _ _ (by simpa using hp) (by simpa using ho) (by simpa using hm)]

end State

end Sys2Proof.Machine
end

