-- ==== Sys2Proof/Laws/FrameOps.lean ====
section
/-! SUPPORT. Frames of the register file (State.regsBut, State.pagesBut) pass through every update that does not write a register. -/

namespace Sys2Proof.Machine.State

variable {l : List (Nat × Nat)} {q : List Nat} {s u : State}

theorem regsBut.advance (h : regsBut l s u) (t : Nat) : regsBut l s (u.advance t) := h.of_eq rfl
theorem pagesBut.advance (h : pagesBut q s u) (t : Nat) : pagesBut q s (u.advance t) := h.of_eq rfl
theorem regsBut.emit (h : regsBut l s u) (o : Out) : regsBut l s (u.emit o) := h.of_eq rfl
theorem pagesBut.emit (h : pagesBut q s u) (o : Out) : pagesBut q s (u.emit o) := h.of_eq rfl
theorem regsBut.begin (h : regsBut l s u) : regsBut l s (u.begin_) := h.of_eq rfl
theorem pagesBut.begin (h : pagesBut q s u) : pagesBut q s (u.begin_) := h.of_eq rfl
theorem regsBut.modTen (h : regsBut l s u) (n : Nat) (f : Ten → Ten) : regsBut l s (u.modTen n f) := h.of_eq rfl
theorem pagesBut.modTen (h : pagesBut q s u) (n : Nat) (f : Ten → Ten) : pagesBut q s (u.modTen n f) := h.of_eq rfl
theorem regsBut.modFab (h : regsBut l s u) (f : FabSt → FabSt) : regsBut l s (u.modFab f) := h.of_eq rfl
theorem pagesBut.modFab (h : pagesBut q s u) (f : FabSt → FabSt) : pagesBut q s (u.modFab f) := h.of_eq rfl
theorem regsBut.modTim (h : regsBut l s u) (f : TimeSt → TimeSt) : regsBut l s (u.modTim f) := h.of_eq rfl
theorem pagesBut.modTim (h : pagesBut q s u) (f : TimeSt → TimeSt) : pagesBut q s (u.modTim f) := h.of_eq rfl
theorem regsBut.modPix (h : regsBut l s u) (f : PixSt → PixSt) : regsBut l s (u.modPix f) := h.of_eq rfl
theorem pagesBut.modPix (h : pagesBut q s u) (f : PixSt → PixSt) : pagesBut q s (u.modPix f) := h.of_eq rfl
theorem regsBut.modBlend (h : regsBut l s u) (f : BlendSt → BlendSt) : regsBut l s (u.modBlend f) := h.of_eq rfl
theorem pagesBut.modBlend (h : pagesBut q s u) (f : BlendSt → BlendSt) : pagesBut q s (u.modBlend f) := h.of_eq rfl
theorem regsBut.modFeed (h : regsBut l s u) (n : Nat) (f : Feed → Feed) : regsBut l s (u.modFeed n f) := h.of_eq rfl
theorem pagesBut.modFeed (h : pagesBut q s u) (n : Nat) (f : Feed → Feed) : pagesBut q s (u.modFeed n f) := h.of_eq rfl
theorem regsBut.modRd (h : regsBut l s u) (f : RdbkSt → RdbkSt) : regsBut l s (u.modRd f) := h.of_eq rfl
theorem pagesBut.modRd (h : pagesBut q s u) (f : RdbkSt → RdbkSt) : pagesBut q s (u.modRd f) := h.of_eq rfl
theorem regsBut.modPort (h : regsBut l s u) (p : Nat) (f : Port → Port) : regsBut l s (u.modPort p f) := h.of_eq rfl
theorem pagesBut.modPort (h : pagesBut q s u) (p : Nat) (f : Port → Port) : pagesBut q s (u.modPort p f) := h.of_eq rfl
theorem regsBut.modMem (h : regsBut l s u) (f : MemSt → MemSt) : regsBut l s (u.modMem f) := h.of_eq rfl
theorem pagesBut.modMem (h : pagesBut q s u) (f : MemSt → MemSt) : pagesBut q s (u.modMem f) := h.of_eq rfl
theorem regsBut.modPow (h : regsBut l s u) (f : PowSt → PowSt) : regsBut l s (u.modPow f) := h.of_eq rfl
theorem pagesBut.modPow (h : pagesBut q s u) (f : PowSt → PowSt) : pagesBut q s (u.modPow f) := h.of_eq rfl
theorem regsBut.modPatt (h : regsBut l s u) (n : Nat) (f : Patt → Patt) : regsBut l s (u.modPatt n f) := h.of_eq rfl
theorem pagesBut.modPatt (h : pagesBut q s u) (n : Nat) (f : Patt → Patt) : pagesBut q s (u.modPatt n f) := h.of_eq rfl
theorem regsBut.modUpd (h : regsBut l s u) (f : UpdSt → UpdSt) : regsBut l s (u.modUpd f) := h.of_eq rfl
theorem pagesBut.modUpd (h : pagesBut q s u) (f : UpdSt → UpdSt) : pagesBut q s (u.modUpd f) := h.of_eq rfl
theorem regsBut.modScan (h : regsBut l s u) (f : ScanSt → ScanSt) : regsBut l s (u.modScan f) := h.of_eq rfl
theorem pagesBut.modScan (h : pagesBut q s u) (f : ScanSt → ScanSt) : pagesBut q s (u.modScan f) := h.of_eq rfl
theorem regsBut.modSec (h : regsBut l s u) (f : SecSt → SecSt) : regsBut l s (u.modSec f) := h.of_eq rfl
theorem pagesBut.modSec (h : pagesBut q s u) (f : SecSt → SecSt) : pagesBut q s (u.modSec f) := h.of_eq rfl
theorem regsBut.modSer (h : regsBut l s u) (f : SerSt → SerSt) : regsBut l s (u.modSer f) := h.of_eq rfl
theorem pagesBut.modSer (h : pagesBut q s u) (f : SerSt → SerSt) : pagesBut q s (u.modSer f) := h.of_eq rfl
theorem regsBut.modRail (h : regsBut l s u) (k : Nat) (f : Rail → Rail) : regsBut l s (u.modRail k f) := h.of_eq rfl
theorem pagesBut.modRail (h : pagesBut q s u) (k : Nat) (f : Rail → Rail) : pagesBut q s (u.modRail k f) := h.of_eq rfl
theorem regsBut.modPhase (h : regsBut l s u) (n : Nat) (f : Phase → Phase) : regsBut l s (u.modPhase n f) := h.of_eq rfl
theorem pagesBut.modPhase (h : pagesBut q s u) (n : Nat) (f : Phase → Phase) : pagesBut q s (u.modPhase n f) := h.of_eq rfl
theorem regsBut.modTrim (h : regsBut l s u) (f : TrimSt → TrimSt) : regsBut l s (u.modTrim f) := h.of_eq rfl
theorem pagesBut.modTrim (h : pagesBut q s u) (f : TrimSt → TrimSt) : pagesBut q s (u.modTrim f) := h.of_eq rfl

end Sys2Proof.Machine.State
end

