-- ==== Sys2Proof/Laws/Direct.lean ====
section
/-! SUPPORT. Laws of a direct register write (R32, R36, R38) that passes every check before the register's own, and of what an
admission and an event leave alone. -/

namespace Sys2Proof.Machine

/-- An accepted write that its register's handler performs: the handler's effect, the page's generation, and code 0. -/
theorem direct_accepted {s s1 u : State} {a : Access} {addr data p o : Nat} {w : Who} {g : Reg} {h : Handler}
    (ha : accepted s a addr data = some (s1, w, p, o, g)) (hh : h s1 w p o g data = .ok u) :
    direct s a addr data h = (u.bumpGen p).emit (.res ⟨0, 0⟩ []) := by
  unfold accepted at ha
  unfold direct accessWrite writeMasked
  cases e : grantAccess s a addr with
  | error c => simp [e] at ha
  | ok x =>
    obtain ⟨s', w'⟩ := x
    simp only [e] at ha ⊢
    split at ha
    · simp at ha
    · rename_i p' o' g' e2
      split at ha
      · rename_i hc
        simp only [Option.some.injEq, Prod.mk.injEq] at ha
        obtain ⟨rfl, rfl, rfl, rfl, rfl⟩ := ha
        simp only [Bool.and_eq_true, Option.isNone_iff_eq_none, Bool.not_eq_true'] at hc
        obtain ⟨⟨c1, c2⟩, c3⟩ := hc
        simp only [e2, c1, c2, c3, ↓reduceIte, Bool.false_eq_true, hh, Except.map]
      · simp at ha

/-- An accepted write that its register's handler refuses. -/
theorem direct_turned {s s1 : State} {a : Access} {addr data p o : Nat} {w : Who} {g : Reg} {h : Handler} {c : Rc}
    (ha : accepted s a addr data = some (s1, w, p, o, g)) (hh : h s1 w p o g data = .error c) :
    direct s a addr data h = ((s1.refuse w c).resetRefused w addr data c).emit (.res c []) := by
  unfold accepted at ha
  unfold direct accessWrite writeMasked
  cases e : grantAccess s a addr with
  | error c => simp [e] at ha
  | ok x =>
    obtain ⟨s', w'⟩ := x
    simp only [e] at ha ⊢
    split at ha
    · simp at ha
    · rename_i p' o' g' e2
      split at ha
      · rename_i hc
        simp only [Option.some.injEq, Prod.mk.injEq] at ha
        obtain ⟨rfl, rfl, rfl, rfl, rfl⟩ := ha
        simp only [Bool.and_eq_true, Option.isNone_iff_eq_none, Bool.not_eq_true'] at hc
        obtain ⟨⟨c1, c2⟩, c3⟩ := hc
        simp only [e2, c1, c2, c3, ↓reduceIte, Bool.false_eq_true, hh, Except.map]
      · simp at ha

/-- The page and the offset of an accepted write are those of its address. -/
theorem accepted_addr {s s1 : State} {a : Access} {addr data p o : Nat} {w : Who} {g : Reg}
    (ha : accepted s a addr data = some (s1, w, p, o, g)) : addrReg addr = some (p, o) ∧ anyRegAt p o = some g := by
  unfold accepted at ha
  split at ha
  · simp at ha
  · split at ha
    · simp at ha
    · rename_i e2
      split at ha
      · simp only [Option.some.injEq, Prod.mk.injEq] at ha
        obtain ⟨rfl, rfl, rfl, rfl, rfl⟩ := ha
        unfold writeTarget at e2
        repeat' first
          | (cases e2; done)
          | split at e2
          | (cases e2; exact ⟨by assumption, by assumption⟩)
      · simp at ha

theorem addrReg_regAddr {p o : Nat} (hp : p < 256) (ho : o < 4096) : addrReg (regAddr p o) = some (p, o) := by
  unfold addrReg regAddr
  rw [if_pos ⟨by omega, by omega⟩]
  congr 2 <;> omega

/-- The page and the offset of an accepted write to a named register. -/
theorem accepted_reg {s s1 : State} {a : Access} {data p o p' o' : Nat} {w : Who} {g : Reg} (hp : p' < 256) (ho : o' < 4096)
    (ha : accepted s a (regAddr p' o') data = some (s1, w, p, o, g)) : p = p' ∧ o = o' := by
  have h := (accepted_addr ha).1
  rw [addrReg_regAddr hp ho] at h
  simp only [Option.some.injEq, Prod.mk.injEq] at h
  exact ⟨h.1.symm, h.2.symm⟩

/-! ### What an admission leaves alone -/

/-- What differs between a state and the one an admission leaves: registers and slots only. -/
structure Admitted (s t : State) : Prop where
  all : t = { s with regs := t.regs, tens := t.tens }

theorem Admitted.refl (s : State) : Admitted s s := ⟨rfl⟩

theorem Admitted.trans {s t u : State} (h : Admitted s t) (k : Admitted t u) : Admitted s u := ⟨by
  rw [k.all]
  conv_lhs => rw [h.all]⟩

theorem admitted_fsi {s t : State} (h : Admitted s t) (f : FRef) (i v : Nat) : Admitted s (t.fsi f i v) := h.trans ⟨rfl⟩

theorem admitted_modTen {s t : State} (h : Admitted s t) (n : Nat) (f : Ten → Ten) : Admitted s (t.modTen n f) := h.trans ⟨rfl⟩

theorem admitted_evTo {s t : State} (h : Admitted s t) (n p c d k u : Nat) : Admitted s (t.evTo n p c d k u) := by
  refine h.trans ⟨?_⟩
  unfold State.evTo
  dsimp only
  split <;> rfl

theorem admitted_renewSession {s t : State} (h : Admitted s t) (n : Nat) : Admitted s (t.renewSession n) := by
  unfold State.renewSession
  split
  · exact admitted_modTen h _ _
  · exact h

theorem admitted_startSession {s t : State} (h : Admitted s t) (n : Nat) (port : Option Nat) (seq : Nat) :
    Admitted s (t.startSession n port seq) := by
  unfold State.startSession State.ev State.setTst
  repeat' first
    | with_reducible assumption
    | with_reducible apply admitted_evTo
    | with_reducible apply admitted_modTen
    | with_reducible apply admitted_fsi
    | (intro x; have hx : Admitted s x := (by dsimp only [x]; with_reducible apply admitted_fsi; with_reducible apply admitted_fsi; assumption); clear_value x)
    | lift_lets

/-- An admission renews or starts a session, and touches nothing else. -/
theorem admit_admitted {s t : State} {a : Access} {addr : Nat} {w : Who} (h : grantAccess s a addr = .ok (t, w)) : Admitted s t := by
  unfold grantAccess at h
  dsimp only at h
  repeat' first
    | (injection h with h; injection h with h1 h2; subst h1)
    | (cases h; done)
    | split at h
  all_goals first
    | with_reducible exact Admitted.refl _
    | with_reducible exact admitted_renewSession (Admitted.refl _) _
    | exact admitted_startSession (Admitted.refl _) _ _ _

theorem accepted_admitted {s s1 : State} {a : Access} {addr data p o : Nat} {w : Who} {g : Reg}
    (ha : accepted s a addr data = some (s1, w, p, o, g)) : Admitted s s1 := by
  unfold accepted at ha
  split at ha
  · simp at ha
  · rename_i e
    split at ha
    · simp at ha
    · split at ha
      · simp only [Option.some.injEq, Prod.mk.injEq] at ha
        obtain ⟨rfl, -⟩ := ha
        exact admit_admitted e
      · simp at ha

/-- A command that comes as an accepted direct write runs, with its handler's effect. -/
theorem Runs.direct {i : Instr} {s s0 s1 u : State} {a : Access} {addr data p o : Nat} {w : Who} {g : Reg} {h : Handler} {P : State → Prop}
    (e : exec i s = .next (direct s0 a addr data h)) (ha : accepted s0 a addr data = some (s1, w, p, o, g))
    (hh : h s1 w p o g data = .ok u) (hP : P ((u.bumpGen p).emit (.res ⟨0, 0⟩ []))) : Runs i s P :=
  ⟨_, e, by rw [direct_accepted ha hh]; exact hP⟩

/-- An admission of a command leaves its outputs empty. -/
theorem accepted_outs {s s1 : State} {a : Access} {addr data p o : Nat} {w : Who} {g : Reg}
    (ha : accepted s.begin_ a addr data = some (s1, w, p, o, g)) : s1.outs = [] := by
  rw [(accepted_admitted ha).all]; rfl

/-- It leaves the clock as it was. -/
theorem accepted_now {s s1 : State} {a : Access} {addr data p o : Nat} {w : Who} {g : Reg}
    (ha : accepted s.begin_ a addr data = some (s1, w, p, o, g)) : s1.now = s.now := by
  rw [(accepted_admitted ha).all]; rfl

/-- The outputs after the accepted write, when the handler adds none. -/
theorem done_outs {s s1 u : State} {a : Access} {addr data p o q : Nat} {w : Who} {g : Reg}
    (ha : accepted s.begin_ a addr data = some (s1, w, p, o, g)) (hu : u.outs = s1.outs) :
    ((u.bumpGen q).emit (.res ⟨0, 0⟩ [])).outs = doneOuts := by
  rw [State.emit_outs, State.bumpGen_outs, hu, accepted_outs ha]; rfl

namespace State

theorem regsBut.done {l : List (Nat × Nat)} {s u : State} (h : regsBut l s u) {p : Nat} (hp : p < 256) (hm : (p, 0x024) ∈ l) :
    regsBut l s ((u.bumpGen p).emit (.res ⟨0, 0⟩ [])) := (h.bumpGen p hp hm).of_eq rfl

/-- The page's generation is the only register that the answer changes. -/
theorem done_fgk (u : State) (p : Nat) (f : FRef) (i k : Nat) (hp : f.page + i < 256) (ho : f.off + k * f.stride < 4096) (hpp : p < 256)
    (hm : (f.page + i, f.off + k * f.stride) ≠ (p, 0x024)) : ((u.bumpGen p).emit (.res ⟨0, 0⟩ [])).fgk f i k = u.fgk f i k :=
  ((regsBut.refl [(p, 0x024)] u).done hpp (by simp)).fgk f i k hp ho (by simpa using hm)

end State

end Sys2Proof.Machine
end

