-- ==== Sys2Proof/Laws/Kept.lean ====
section
/-! SUPPORT. What every operation of the machine keeps: the queue of commands, the direction of time, the count of free values,
the invariant State.wf, and the parts of the state it does not touch. Each operation gets one lemma; the lemmas about operations of a file stand in the file of that name. -/

namespace Sys2Proof.Machine

/-- From `s` to `t` the queue of commands is untouched, time and the free-value counter do not run back, the invariant is kept, and
every part outside `K` reads the same. -/
structure Kept (K : Part → Prop) (s t : State) : Prop where
  pending : t.pending = s.pending
  now : s.now ≤ t.now
  free : s.freeCtr ≤ t.freeCtr
  wf : s.wf = true → t.wf = true
  same : ∀ p : Part, p.same s t ∨ K p

theorem Part.same_refl (p : Part) (s : State) : p.same s s := by cases p <;> exact rfl

theorem Part.same_trans {p : Part} {s t u : State} (h : p.same s t) (k : p.same t u) : p.same s u := by
  cases p <;> exact Eq.trans k h

variable {K : Part → Prop}

theorem Kept.refl (s : State) : Kept K s s := ⟨rfl, Nat.le_refl _, Nat.le_refl _, id, fun p => .inl (p.same_refl s)⟩

theorem Kept.trans {s t u : State} (h : Kept K s t) (k : Kept K t u) : Kept K s u :=
  ⟨k.pending.trans h.pending, h.now.trans k.now, h.free.trans k.free, fun w => k.wf (h.wf w), fun p => by
    rcases h.same p with a | a
    · rcases k.same p with c | c
      · exact .inl (Part.same_trans a c)
      · exact .inr c
    · exact .inr a⟩

theorem State.wf_iff (s : State) : s.wf = true ↔ cwf regDflt s.regs = true ∧ cwf (fun _ => (0 : Word)) s.sram = true ∧
    cwf (fun _ => (0 : Byte)) s.mem.dram = true ∧ s.tens.length = Config.nTen ∧ ∀ t ∈ s.tens, t.qOk = true := by
  simp [State.wf, and_assoc]

variable {b s t : State}

/-- Use of an intermediate state. -/
theorem Kept.cut {P : Prop} (u : State) (h : Kept K b u) (k : Kept K b u → P) : P := k h

/-- Every part may change. -/
theorem Kept.anything (h : Kept K b s) (ka : ∀ p, K p) (e1 : t.pending = s.pending) (e2 : s.now ≤ t.now) (e3 : s.freeCtr ≤ t.freeCtr)
    (w : s.wf = true → t.wf = true) : Kept K b t := h.trans ⟨e1, e2, e3, w, fun p => .inr (ka p)⟩

/-- The clock and the counter of free values go on. -/
theorem Kept.clock (h : Kept K b s) {now outs freeCtr} (e2 : s.now ≤ now) (e3 : s.freeCtr ≤ freeCtr) :
    Kept K b ⟨now, outs, freeCtr, s.pending, s.regs, s.sram, s.mode, s.fab, s.tens, s.lnk, s.keys, s.tim, s.feeds, s.patts, s.clips,
      s.pix, s.blend, s.field, s.scan, s.health, s.rdbk, s.sense, s.sup, s.trim, s.mem, s.ser, s.sec, s.upd, s.pow⟩ :=
  h.trans ⟨rfl, e2, e3, fun w => w, fun p => .inl (by cases p <;> exact rfl)⟩

/-- Fields outside the invariant may change. -/
theorem Kept.mk_other (h : Kept K b s) {outs mode fab lnk keys tim feeds patts clips pix blend field scan health rdbk sense sup trim ser sec upd pow}
    (o_mode : mode = s.mode ∨ K .mode) (o_fab : fab = s.fab ∨ K .fab) (o_lnk : lnk = s.lnk ∨ K .lnk) (o_keys : keys = s.keys
    ∨ K .keys) (o_tim : tim = s.tim ∨ K .tim) (o_feeds : feeds = s.feeds ∨ K .feeds) (o_patts : patts = s.patts ∨ K
    .patts) (o_clips : clips = s.clips ∨ K .clips) (o_pix : pix = s.pix ∨ K .pix) (o_blend : blend = s.blend ∨ K .blend)
    (o_field : field = s.field ∨ K .field) (o_scan : scan = s.scan ∨ K .scan) (o_health : health = s.health ∨ K .health)
    (o_rdbk : rdbk = s.rdbk ∨ K .rdbk) (o_sense : sense = s.sense ∨ K .sense) (o_sup : sup = s.sup ∨ K .sup) (o_trim :
    trim = s.trim ∨ K .trim) (o_ser : ser = s.ser ∨ K .ser) (o_sec : sec = s.sec ∨ K .sec) (o_upd : upd = s.upd ∨ K
    .upd) (o_pow : pow = s.pow ∨ K .pow) :
    Kept K b ⟨s.now, outs, s.freeCtr, s.pending, s.regs, s.sram, mode, fab, s.tens, lnk, keys, tim, feeds, patts, clips, pix, blend,
      field, scan, health, rdbk, sense, sup, trim, s.mem, ser, sec, upd, pow⟩ :=
  h.trans ⟨rfl, Nat.le_refl _, Nat.le_refl _, fun w => w, fun p => by
    cases p with
    | regs => exact .inl rfl
    | sram => exact .inl rfl
    | tens => exact .inl rfl
    | evq => exact .inl rfl
    | dram => exact .inl rfl
    | memc => exact .inl rfl
    | mode => exact o_mode
    | fab => exact o_fab
    | lnk => exact o_lnk
    | keys => exact o_keys
    | tim => exact o_tim
    | feeds => exact o_feeds
    | patts => exact o_patts
    | clips => exact o_clips
    | pix => exact o_pix
    | blend => exact o_blend
    | field => exact o_field
    | scan => exact o_scan
    | health => exact o_health
    | rdbk => exact o_rdbk
    | sense => exact o_sense
    | sup => exact o_sup
    | trim => exact o_trim
    | ser => exact o_ser
    | sec => exact o_sec
    | upd => exact o_upd
    | pow => exact o_pow⟩

/-- The register file may change to one in canonical form. -/
theorem Kept.mk_regs (h : Kept K b s) {regs : Regs} (kr : K .regs) (hr : cwf regDflt s.regs = true → cwf regDflt regs = true) :
    Kept K b ⟨s.now, s.outs, s.freeCtr, s.pending, regs, s.sram, s.mode, s.fab, s.tens, s.lnk, s.keys, s.tim, s.feeds, s.patts,
      s.clips, s.pix, s.blend, s.field, s.scan, s.health, s.rdbk, s.sense, s.sup, s.trim, s.mem, s.ser, s.sec, s.upd,
      s.pow⟩ :=
  h.trans ⟨rfl, Nat.le_refl _, Nat.le_refl _, fun w => by
    rw [State.wf_iff] at w ⊢
    exact ⟨hr w.1, w.2⟩, fun p => by cases p with
      | regs => exact .inr kr
      | _ => exact .inl rfl⟩

/-- The slots may change to as many, with their queues in bounds. -/
theorem Kept.mk_tens (h : Kept K b s) {tens : List Ten} (hl : tens.length = s.tens.length)
    (hq : (∀ t ∈ s.tens, t.qOk = true) → ∀ t ∈ tens, t.qOk = true)
    (kt : tens.map (fun t => { t with evq := EvQ.empty }) = s.sessions ∨ K .tens) (ke : tens.map Ten.evq = s.queues ∨ K .evq) :
    Kept K b ⟨s.now, s.outs, s.freeCtr, s.pending, s.regs, s.sram, s.mode, s.fab, tens, s.lnk, s.keys, s.tim, s.feeds, s.patts,
      s.clips, s.pix, s.blend, s.field, s.scan, s.health, s.rdbk, s.sense, s.sup, s.trim, s.mem, s.ser, s.sec, s.upd,
      s.pow⟩ :=
  h.trans ⟨rfl, Nat.le_refl _, Nat.le_refl _, fun w => by
    rw [State.wf_iff] at w ⊢
    exact ⟨w.1, w.2.1, w.2.2.1, hl.trans w.2.2.2.1, hq w.2.2.2.2⟩, fun p => by cases p with
      | tens => exact kt
      | evq => exact ke
      | _ => exact .inl rfl⟩

/-- Every slot may change, with its queue as it was. -/
theorem Kept.mk_tensMap (h : Kept K b s) {f : Ten → Ten} (kt : K .tens) (hf : ∀ t : Ten, (f t).evq = t.evq) :
    Kept K b ⟨s.now, s.outs, s.freeCtr, s.pending, s.regs, s.sram, s.mode, s.fab, s.tens.map f, s.lnk, s.keys, s.tim, s.feeds,
      s.patts, s.clips, s.pix, s.blend, s.field, s.scan, s.health, s.rdbk, s.sense, s.sup, s.trim, s.mem, s.ser, s.sec,
      s.upd, s.pow⟩ :=
  h.mk_tens (List.length_map _) (fun hq t ht => by
    obtain ⟨x, hx, rfl⟩ := List.mem_map.mp ht
    have := hq x hx
    simpa only [Ten.qOk, hf] using this) (.inr kt) (.inl (by simp [State.queues, hf]))

/-- Every queue may change, in bounds, with the rest of its slot as it was. -/
theorem Kept.mk_queues (h : Kept K b s) {f : Ten → Ten} (hf : ∀ t : Ten, t.qOk = true → (f t).qOk = true)
    (kt : ∀ x, ({ f x with evq := EvQ.empty } : Ten) = { x with evq := EvQ.empty }) (ke : K .evq) :
    Kept K b ⟨s.now, s.outs, s.freeCtr, s.pending, s.regs, s.sram, s.mode, s.fab, s.tens.map f, s.lnk, s.keys, s.tim, s.feeds,
      s.patts, s.clips, s.pix, s.blend, s.field, s.scan, s.health, s.rdbk, s.sense, s.sup, s.trim, s.mem, s.ser, s.sec,
      s.upd, s.pow⟩ :=
  h.mk_tens (List.length_map _) (fun hq t ht => by
    obtain ⟨x, hx, rfl⟩ := List.mem_map.mp ht
    exact hf x (hq x hx)) (.inl (by simp [State.sessions, kt])) (.inr ke)

/-- The memory may change to one in canonical form. -/
theorem Kept.mk_mem (h : Kept K b s) {mem : MemSt}
    (hm : cwf (fun _ => (0 : Byte)) s.mem.dram = true → cwf (fun _ => (0 : Byte)) mem.dram = true)
    (kd : mem.dram = s.mem.dram ∨ K .dram) (kc : K .memc) :
    Kept K b ⟨s.now, s.outs, s.freeCtr, s.pending, s.regs, s.sram, s.mode, s.fab, s.tens, s.lnk, s.keys, s.tim, s.feeds, s.patts,
      s.clips, s.pix, s.blend, s.field, s.scan, s.health, s.rdbk, s.sense, s.sup, s.trim, mem, s.ser, s.sec, s.upd,
      s.pow⟩ :=
  h.trans ⟨rfl, Nat.le_refl _, Nat.le_refl _, fun w => by
    rw [State.wf_iff] at w ⊢
    exact ⟨w.1, w.2.1, hm w.2.2.1, w.2.2.2⟩, fun p => by cases p with
      | dram => exact kd
      | memc => exact .inr kc
      | _ => exact .inl rfl⟩

/-- The DRAM's contents alone may change, to a list in canonical form. -/
theorem Kept.mk_dram (h : Kept K b s) {d : Cells Byte}
    (hm : cwf (fun _ => (0 : Byte)) s.mem.dram = true → cwf (fun _ => (0 : Byte)) d = true) (kd : K .dram) :
    Kept K b ⟨s.now, s.outs, s.freeCtr, s.pending, s.regs, s.sram, s.mode, s.fab, s.tens, s.lnk, s.keys, s.tim, s.feeds, s.patts,
      s.clips, s.pix, s.blend, s.field, s.scan, s.health, s.rdbk, s.sense, s.sup, s.trim, { s.mem with dram := d },
      s.ser, s.sec, s.upd, s.pow⟩ :=
  h.trans ⟨rfl, Nat.le_refl _, Nat.le_refl _, fun w => by
    rw [State.wf_iff] at w ⊢
    exact ⟨w.1, w.2.1, hm w.2.2.1, w.2.2.2⟩, fun p => by cases p with
      | dram => exact .inr kd
      | _ => exact .inl rfl⟩

/-- The general SRAM may change to one in canonical form. -/
theorem Kept.mk_sram (h : Kept K b s) {sram : Cells Word}
    (hm : cwf (fun _ => (0 : Word)) s.sram = true → cwf (fun _ => (0 : Word)) sram = true) (ks : K .sram) :
    Kept K b ⟨s.now, s.outs, s.freeCtr, s.pending, s.regs, sram, s.mode, s.fab, s.tens, s.lnk, s.keys, s.tim, s.feeds, s.patts,
      s.clips, s.pix, s.blend, s.field, s.scan, s.health, s.rdbk, s.sense, s.sup, s.trim, s.mem, s.ser, s.sec, s.upd,
      s.pow⟩ :=
  h.trans ⟨rfl, Nat.le_refl _, Nat.le_refl _, fun w => by
    rw [State.wf_iff] at w ⊢
    exact ⟨w.1, hm w.2.1, w.2.2⟩, fun p => by cases p with
      | sram => exact .inr ks
      | _ => exact .inl rfl⟩

/-! ### Results that carry a state -/

/-- An accepted result satisfies `P`. -/
def Rec {α : Type} (P : α → Prop) (r : Except Rc α) : Prop := ∀ x, r = .ok x → P x

theorem Rec.ok {α : Type} {P : α → Prop} {x : α} (h : P x) : Rec P (.ok x) := fun _ e => by cases e; exact h

theorem Rec.error {α : Type} {P : α → Prop} {c : Rc} : Rec P (.error c) := fun _ e => nomatch e

theorem Rec.map {α β : Type} {P : β → Prop} {r : Except Rc α} {f : α → β} (h : Rec (fun x => P (f x)) r) : Rec P (r.map f) := by
  cases r with
  | error c => exact Rec.error
  | ok x => exact Rec.ok (h x rfl)

theorem Rec.of_eq {α : Type} {P : α → Prop} {r : Except Rc α} {x : α} (h : Rec P r) (e : r = .ok x) : P x := h x e

theorem fst_of_eq {α β : Type} {P : α → Prop} {p : α × β} {x : α} {y : β} (h : P p.1) (e : p = (x, y)) : P x := by
  subst e; exact h

theorem snd_of_eq {α β : Type} {P : α → Prop} {p : β × α} {x : α} {y : β} (h : P p.2) (e : p = (y, x)) : P x := by
  subst e; exact h

/-- A next state satisfies `P`. -/
def Nxt (P : State → Prop) (r : Ans State) : Prop := ∀ t, r = .next t → P t

theorem Nxt.next {P : State → Prop} {t : State} (h : P t) : Nxt P (.next t) := fun _ e => by cases e; exact h

/-! ### Case distinctions -/

theorem Kept.ite {c : Prop} [Decidable c] {u v : State} (h : Kept K b u) (k : Kept K b v) : Kept K b (if c then u else v) := by
  split <;> assumption

theorem Kept.iteFst {α : Type} {c : Prop} [Decidable c] {u v : State × α} (h : Kept K b u.1) (k : Kept K b v.1) :
    Kept K b (if c then u else v).1 := by
  split <;> assumption

theorem Rec.ite {α : Type} {P : α → Prop} {c : Prop} [Decidable c] {u v : Except Rc α} (h : Rec P u) (k : Rec P v) :
    Rec P (if c then u else v) := by
  split <;> assumption

theorem Nxt.ite {P : State → Prop} {c : Prop} [Decidable c] {u v : Ans State} (h : Nxt P u) (k : Nxt P v) :
    Nxt P (if c then u else v) := by
  split <;> assumption

/-! ### Folds -/

theorem Kept.foldl {α : Type} (l : List α) {f : State → α → State} (hf : ∀ u x, Kept K b u → Kept K b (f u x)) (h : Kept K b s) :
    Kept K b (l.foldl f s) := by
  induction l generalizing s with
  | nil => exact h
  | cons x l ih => exact ih (hf _ _ h)

theorem Kept.foldlFst {α β : Type} (l : List α) {f : State × β → α → State × β} {x : State × β}
    (hf : ∀ u x, Kept K b u.1 → Kept K b (f u x).1) (h : Kept K b x.1) : Kept K b (l.foldl f x).1 := by
  induction l generalizing x with
  | nil => exact h
  | cons y l ih => exact ih (hf _ _ h)

/-! ### Lists -/

@[simp] theorem modAt_length {α : Type} (l : List α) (i : Nat) (f : α → α) : (modAt l i f).length = l.length := by
  induction l generalizing i with
  | nil => cases i <;> rfl
  | cons a l ih => cases i <;> simp [modAt, ih]

theorem forall_modAt {α : Type} {P : α → Prop} {l : List α} {i : Nat} {f : α → α} (hf : ∀ x, P x → P (f x)) (h : ∀ x ∈ l, P x) :
    ∀ x ∈ modAt l i f, P x := by
  induction l generalizing i with
  | nil => cases i <;> exact h
  | cons a l ih =>
    cases i with
    | zero =>
      intro x hx
      rcases List.mem_cons.mp hx with rfl | hx
      · exact hf _ (h _ List.mem_cons_self)
      · exact h _ (List.mem_cons_of_mem _ hx)
    | succ i =>
      intro x hx
      rcases List.mem_cons.mp hx with rfl | hx
      · exact h _ List.mem_cons_self
      · exact ih (fun y hy => h y (List.mem_cons_of_mem _ hy)) x hx

/-! ### The register file -/

theorem cwf_rput {r : Regs} (bk p o v : Nat) (h : cwf regDflt r = true) : cwf regDflt (rput r bk p o v) = true := cwf_cput regDflt _ _ h

theorem cwf_rfputB {r : Regs} (bk : Nat) (f : FRef) (i k v : Nat) (h : cwf regDflt r = true) :
    cwf regDflt (rfputB r bk f i k v) = true := cwf_rput _ _ _ _ h

theorem cwf_rfput {r : Regs} (f : FRef) (i k v : Nat) (h : cwf regDflt r = true) : cwf regDflt (rfput r f i k v) = true :=
  cwf_rfputB _ _ _ _ _ h

theorem cwf_foldl {α β : Type} [DecidableEq α] {d : Nat → α} {l : List β} {f : Cells α → β → Cells α} {m : Cells α}
    (hf : ∀ m x, cwf d m = true → cwf d (f m x) = true) (h : cwf d m = true) : cwf d (l.foldl f m) = true := by
  induction l generalizing m with
  | nil => exact h
  | cons x l ih => exact ih (hf _ _ h)

theorem Kept.setReg (h : Kept K b s) (p o v : Nat) (kr : K .regs) : Kept K b (s.setReg p o v) := h.mk_regs kr (cwf_rput _ _ _ _)
theorem Kept.fs (h : Kept K b s) (f : FRef) (v : Nat) (kr : K .regs) : Kept K b (s.fs f v) := h.mk_regs kr (cwf_rfput _ _ _ _)
theorem Kept.fsi (h : Kept K b s) (f : FRef) (i v : Nat) (kr : K .regs) : Kept K b (s.fsi f i v) := h.mk_regs kr (cwf_rfput _ _ _ _)
theorem Kept.fsk (h : Kept K b s) (f : FRef) (i k v : Nat) (kr : K .regs) : Kept K b (s.fsk f i k v) := h.mk_regs kr (cwf_rfput _ _ _ _)
theorem Kept.fsb (h : Kept K b s) (bk : Nat) (f : FRef) (v : Nat) (kr : K .regs) : Kept K b (s.fsb bk f v) :=
  h.mk_regs kr (cwf_rfputB _ _ _ _ _)
theorem Kept.inc (h : Kept K b s) (f : FRef) (i n : Nat) (kr : K .regs) : Kept K b (s.inc f i n) := h.fsi _ _ _ kr
theorem Kept.inck (h : Kept K b s) (f : FRef) (i k n : Nat) (kr : K .regs) : Kept K b (s.inck f i k n) := h.fsk _ _ _ _ kr

/-! ### Time, free values, outputs, events -/

theorem Kept.advance (h : Kept K b s) (t : Nat) : Kept K b (s.advance t) := h.clock (Nat.le_max_left _ _) (Nat.le_refl _)

/-- The counter of free values advances. -/
theorem Kept.freeAdd (h : Kept K b s) (n : Nat) : Kept K b { s with freeCtr := s.freeCtr + n } :=
  h.clock (Nat.le_refl _) (Nat.le_add_right _ _)

theorem Kept.free2 (h : Kept K b s) (m : Nat) : Kept K b (s.free m).2 := h.clock (Nat.le_refl _) (Nat.le_succ _)

theorem kept_free_eq {m y : Nat} (e : s.free m = (y, t)) (h : Kept K b s) : Kept K b t := snd_of_eq (h.free2 m) e

theorem Kept.emit (h : Kept K b s) (o : Out) : Kept K b (s.emit o) := h.clock (Nat.le_refl _) (Nat.le_refl _)

theorem EvQ.push_len {q : EvQ} (e : Event) (h : q.q.length ≤ Config.evqLen) : (q.push e).q.length ≤ Config.evqLen := by
  unfold EvQ.push
  split
  · exact h
  · simp only [List.length_append, List.length_cons, List.length_nil]
    omega

/-- An equation that holds of everything. -/
theorem or_all {α β : Type} {P : Prop} {f g : α → β} (h : ∀ x, f x = g x) : (∀ x, f x = g x) ∨ P := .inl h

theorem map_modAt {α β : Type} (g : α → β) {f : α → α} (hf : ∀ x, g (f x) = g x) (l : List α) (i : Nat) :
    (modAt l i f).map g = l.map g := by
  induction l generalizing i with
  | nil => cases i <;> rfl
  | cons a l ih => cases i <;> simp [modAt, ih, hf]

/-- A change of one slot that keeps its queue in bounds. -/
theorem Kept.tens_modAt (h : Kept K b s) (i : Nat) {f : Ten → Ten} (hf : ∀ t : Ten, t.qOk = true → (f t).qOk = true)
    (kt : (∀ x, ({ f x with evq := EvQ.empty } : Ten) = { x with evq := EvQ.empty }) ∨ K .tens)
    (ke : (∀ x, (f x).evq = x.evq) ∨ K .evq) :
    Kept K b { s with tens := modAt s.tens i f } :=
  h.mk_tens (modAt_length _ _ _) (forall_modAt hf) (kt.imp_left fun e => map_modAt _ e _ _) (ke.imp_left fun e => map_modAt _ e _ _)

theorem Ten.qOk_push {t : Ten} (e : Event) (h : t.qOk = true) : ({ t with evq := t.evq.push e } : Ten).qOk = true := by
  simp only [Ten.qOk, decide_eq_true_eq] at h ⊢
  exact EvQ.push_len e h

/-- The other fields of a slot do not matter. -/
theorem Ten.qOk_mk {t : Ten} {leaseEnd port cause toQuar stored missing permf floodRun feedBytes} (h : t.qOk = true) :
    (Ten.mk leaseEnd port cause toQuar stored missing permf floodRun feedBytes t.evq).qOk = true := h

/-- Nor do the other fields of its queue. -/
theorem Ten.qOk_mkq {t : Ten} {leaseEnd port cause toQuar stored missing permf floodRun feedBytes lost ovf unsent seq} (h : t.qOk = true) :
    (Ten.mk leaseEnd port cause toQuar stored missing permf floodRun feedBytes ⟨t.evq.q, lost, ovf, unsent, seq⟩).qOk = true := h

/-- An empty queue is in bounds. -/
theorem Ten.qOk_nil {leaseEnd port cause toQuar stored missing permf floodRun feedBytes lost ovf unsent seq} :
    (Ten.mk leaseEnd port cause toQuar stored missing permf floodRun feedBytes ⟨[], lost, ovf, unsent, seq⟩).qOk = true := rfl

theorem Kept.evTo (h : Kept K b s) (t p c d k u : Nat) (kr : K .regs) (ke : K .evq) : Kept K b (s.evTo t p c d k u) := by
  unfold State.evTo
  refine Kept.tens_modAt ?_ t (fun t ht => Ten.qOk_push _ ht) (.inl fun _ => rfl) (.inr ke)
  split
  · exact (h.fs _ _ kr).fs _ _ kr
  · exact h

theorem Kept.ev (h : Kept K b s) (p c d k u : Nat) (kr : K .regs) (ke : K .evq) : Kept K b (s.ev p c d k u) := h.evTo _ _ _ _ _ _ kr ke

theorem Kept.evCmd (h : Kept K b s) (w : Option Nat) (p c d k u : Nat) (kr : K .regs) (ke : K .evq) : Kept K b (s.evCmd w p c d k u) := by
  unfold State.evCmd
  split
  · exact h.evTo _ _ _ _ _ _ kr ke
  · exact h.ev _ _ _ _ _ kr ke

theorem Kept.fault (h : Kept K b s) (p i c d u : Nat) (kr : K .regs) (ke : K .evq) : Kept K b (s.fault p i c d u) := by
  unfold State.fault
  split
  · exact h.fs _ _ kr
  · exact (h.fs _ _ kr).ev _ _ _ _ _ kr ke

theorem Kept.faultBit (h : Kept K b s) (p i : Nat) (kr : K .regs) : Kept K b (s.faultBit p i) := h.fs _ _ kr

end Sys2Proof.Machine
end

