-- ==== Sys2Proof/Laws/KeptPairs.lean ====
section
/-! SUPPORT. The operations of Machine/Pairs.lean keep the queue, the direction of time and the
invariant, and leave every part of the state alone but those they name. -/

namespace Sys2Proof.Machine

variable {K : Part → Prop} {b s t : State}

theorem kept_setAgree {x : Pair} {n : Nat} (h : Kept K b s) (k_fab : K .fab) : Kept K b (State.setAgree s x n) := by
  unfold State.setAgree
  repeat' first
    | with_reducible assumption
    | (intro x; subst x)
    | lift_lets
    | fail_if_no_progress (with_reducible apply Kept.mk_other <;> first | (with_reducible refine Or.inr ?_; assumption) | with_reducible exact Or.inl rfl | skip)

theorem kept_settle {p : Nat} (h : Kept K b s) (k_regs : K .regs) (k_fab : K .fab) (k_evq : K .evq) : Kept K b (State.settle s p) := by
  unfold State.settle
  repeat' first
    | with_reducible assumption
    | with_reducible apply Kept.ev
    | with_reducible apply Kept.fs
    | with_reducible apply kept_setAgree
    | with_reducible apply Kept.ite
    | with_reducible apply Kept.foldl
    | (intro u x hu; replace hu : Kept K b _ := hu)

theorem kept_pairCount {x : Pair} (h : Kept K b s) (k_regs : K .regs) (k_fab : K .fab) (k_evq : K .evq) : Kept K b (State.pairCount s x) := by
  unfold State.pairCount
  repeat' first
    | with_reducible assumption
    | with_reducible apply Kept.ev
    | with_reducible apply Kept.fs
    | with_reducible apply kept_setAgree
    | with_reducible apply Kept.ite

theorem kept_pairsCycle (h : Kept K b s) (k_regs : K .regs) (k_fab : K .fab) (k_evq : K .evq) : Kept K b (State.pairsCycle s) := by
  unfold State.pairsCycle
  repeat' first
    | with_reducible assumption
    | with_reducible apply kept_pairCount
    | with_reducible apply kept_settle
    | with_reducible apply Kept.foldl
    | (intro u x hu; replace hu : Kept K b _ := hu)

theorem kept_pairsApplied {ws : List SWrite} (h : Kept K b s) (k_regs : K .regs) (k_fab : K .fab) (k_evq : K .evq) : Kept K b (State.pairsApplied s ws) := by
  unfold State.pairsApplied
  repeat' first
    | with_reducible assumption
    | with_reducible apply kept_setAgree
    | with_reducible apply kept_settle
    | with_reducible apply Kept.ite
    | with_reducible apply Kept.foldl
    | (intro u x hu; replace hu : Kept K b _ := hu)

end Sys2Proof.Machine
end

