-- ==== Sys2Proof/Laws/KeptSessions.lean ====
section
/-! SUPPORT. The operations of Machine/Sessions.lean keep the queue, the direction of time and the
invariant, and leave every part of the state alone but those they name. -/

namespace Sys2Proof.Machine

variable {K : Part → Prop} {b s t : State}

theorem kept_modTen {n : Nat} {f : Ten → Ten} (h : Kept K b s) (hf : ∀ x : Ten, x.qOk = true → (f x).qOk = true)
    (kt : (∀ x, ({ f x with evq := EvQ.empty } : Ten) = { x with evq := EvQ.empty }) ∨ K .tens)
    (ke : (∀ x, (f x).evq = x.evq) ∨ K .evq) : Kept K b (s.modTen n f) := Kept.tens_modAt h n hf kt ke

theorem kept_setTst {n : Nat} {v : Nat} (h : Kept K b s) (k_regs : K .regs) : Kept K b (Machine.State.setTst s n v) := by
  unfold Machine.State.setTst
  repeat' first
    | with_reducible assumption
    | with_reducible apply Kept.fsi

theorem kept_runAct {n : Nat} (h : Kept K b s) (k_regs : K .regs) (k_fab : K .fab) (k_evq : K .evq) : Kept K b (Machine.State.runAct s n) := by
  unfold Machine.State.runAct
  repeat' first
    | with_reducible assumption
    | with_reducible apply Kept.fsi
    | with_reducible apply kept_settle

theorem kept_renewSession {n : Nat} (h : Kept K b s) (k_tens : K .tens) : Kept K b (Machine.State.renewSession s n) := by
  unfold Machine.State.renewSession
  repeat' first
    | with_reducible assumption
    | with_reducible apply kept_modTen
    | (with_reducible refine Or.inr ?_; assumption)
    | with_reducible exact or_all fun _ => rfl
    | with_reducible apply Kept.ite
    | lift_lets
    | (intro y hy; with_reducible exact Ten.qOk_mk hy)

theorem kept_startSession {n : Nat} {port : Option Nat} {seq : Nat} (h : Kept K b s) (k_regs : K .regs) (k_tens : K .tens) (k_evq : K .evq) : Kept K b (Machine.State.startSession s n port seq) := by
  unfold Machine.State.startSession
  repeat' first
    | with_reducible assumption
    | with_reducible apply Kept.ev
    | with_reducible apply Kept.fsi
    | with_reducible apply kept_modTen
    | with_reducible apply kept_setTst
    | (with_reducible refine Or.inr ?_; assumption)
    | lift_lets
    | (intro y hy; with_reducible exact Ten.qOk_mk hy)

theorem kept_orderReset {n : Nat} {cause : Nat} {trig : Nat} (h : Kept K b s) (k_regs : K .regs) (k_tens : K .tens) : Kept K b (Machine.State.orderReset s n cause trig) := by
  unfold Machine.State.orderReset
  repeat' first
    | with_reducible assumption
    | with_reducible apply Kept.fsi
    | with_reducible apply kept_modTen
    | with_reducible apply kept_setTst
    | (with_reducible refine Or.inr ?_; assumption)
    | with_reducible exact or_all fun _ => rfl
    | with_reducible apply Kept.ite
    | lift_lets
    | (intro y hy; with_reducible exact Ten.qOk_mk hy)

theorem kept_countPermf {n : Nat} (h : Kept K b s) (k_regs : K .regs) (k_tens : K .tens) : Kept K b (Machine.State.countPermf s n) := by
  unfold Machine.State.countPermf
  repeat' first
    | with_reducible assumption
    | with_reducible apply Kept.inc
    | with_reducible apply kept_modTen
    | (with_reducible refine Or.inr ?_; assumption)
    | with_reducible exact or_all fun _ => rfl
    | lift_lets
    | (intro y hy; with_reducible exact Ten.qOk_mk hy)

theorem kept_countAuthf {n : Nat} (h : Kept K b s) (k_regs : K .regs) : Kept K b (Machine.State.countAuthf s n) := by
  unfold Machine.State.countAuthf
  repeat' first
    | with_reducible assumption
    | with_reducible apply Kept.inc

theorem kept_authFail {p : Nat} {n : Nat} (h : Kept K b s) (k_regs : K .regs) : Kept K b (Machine.State.authFail s p n) := by
  unfold Machine.State.authFail
  repeat' first
    | with_reducible assumption
    | with_reducible apply kept_countAuthf
    | with_reducible apply Kept.inc

end Sys2Proof.Machine
end

