-- ==== Sys2Proof/Laws/KeptOperands.lean ====
section
/-! SUPPORT. The operations of Machine/Operands.lean keep the queue, the direction of time and the
invariant, and leave every part of the state alone but those they name. -/

namespace Sys2Proof.Machine

variable {K : Part → Prop} {b s t : State}

theorem kept_refuse {w : Who} {c : Rc} (h : Kept K b s) (k_regs : K .regs) (k_tens : K .tens) : Kept K b (State.refuse s w c) := by
  unfold State.refuse
  repeat' first
    | with_reducible assumption
    | with_reducible apply kept_countPermf
    | with_reducible apply Kept.fsb
    | with_reducible apply Kept.ite
    | (intro x; subst x)
    | lift_lets
    | split

end Sys2Proof.Machine
end

