-- ==== Sys2Proof/Laws/KeptCommon.lean ====
section
/-! SUPPORT. The operations of Machine/Common.lean keep the queue, the direction of time and the
invariant, and leave every part of the state alone but those they name. -/

namespace Sys2Proof.Machine

variable {K : Part → Prop} {b s t : State}

theorem kept_leaveService (h : Kept K b s) (k_regs : K .regs) (k_sup : K .sup) : Kept K b (State.leaveService s) := by
  unfold State.leaveService
  repeat' first
    | with_reducible assumption
    | with_reducible apply Kept.fs
    | with_reducible apply Kept.fsi
    | with_reducible apply Kept.foldl
    | (intro u x hu; replace hu : Kept K b _ := hu)
    | (intro x; subst x)
    | lift_lets
    | fail_if_no_progress (with_reducible apply Kept.mk_other <;> first | (with_reducible refine Or.inr ?_; assumption) | with_reducible exact Or.inl rfl | skip)

theorem kept_setMode {m : Mode} (h : Kept K b s) (k_regs : K .regs) (k_mode : K .mode) (k_fab : K .fab) (k_sup : K .sup) (k_evq : K .evq) : Kept K b (State.setMode s m) := by
  unfold State.setMode
  repeat' first
    | with_reducible assumption
    | with_reducible apply Kept.ev
    | with_reducible apply Kept.fs
    | with_reducible apply kept_leaveService
    | with_reducible apply kept_settle
    | with_reducible apply Kept.ite
    | lift_lets
    | fail_if_no_progress (with_reducible apply Kept.mk_other <;> first | (with_reducible refine Or.inr ?_; assumption) | with_reducible exact Or.inl rfl | skip)

theorem kept_stopRails (h : Kept K b s) (k_sup : K .sup) : Kept K b (State.stopRails s) := by
  unfold State.stopRails
  repeat' first
    | with_reducible assumption
    | (intro x; subst x)
    | lift_lets
    | fail_if_no_progress (with_reducible apply Kept.mk_other <;> first | (with_reducible refine Or.inr ?_; assumption) | with_reducible exact Or.inl rfl | skip)

theorem kept_darkActions (h : Kept K b s) (k_scan : K .scan) (k_sup : K .sup) : Kept K b (State.darkActions s) := by
  unfold State.darkActions
  repeat' first
    | with_reducible assumption
    | with_reducible apply kept_stopRails
    | (intro x; subst x)
    | lift_lets
    | fail_if_no_progress (with_reducible apply Kept.mk_other <;> first | (with_reducible refine Or.inr ?_; assumption) | with_reducible exact Or.inl rfl | skip)

theorem kept_latchCause {cause : Nat} (h : Kept K b s) (k_regs : K .regs) : Kept K b (State.latchCause s cause) := by
  unfold State.latchCause
  repeat' first
    | with_reducible assumption
    | with_reducible apply Kept.fs

theorem kept_darkNow {cause : Nat} (h : Kept K b s) (k_regs : K .regs) (k_mode : K .mode) (k_fab : K .fab) (k_scan : K .scan) (k_sup : K .sup) (k_pow : K .pow) (k_evq : K .evq) : Kept K b (State.darkNow s cause) := by
  unfold State.darkNow
  repeat' first
    | with_reducible assumption
    | with_reducible apply kept_darkActions
    | with_reducible apply Kept.fault
    | with_reducible apply Kept.fs
    | with_reducible apply kept_latchCause
    | with_reducible apply kept_setMode
    | with_reducible apply Kept.ite
    | (intro x; subst x)
    | lift_lets
    | fail_if_no_progress (with_reducible apply Kept.mk_other <;> first | (with_reducible refine Or.inr ?_; assumption) | with_reducible exact Or.inl rfl | skip)

theorem kept_enterDark {cause : Nat} (h : Kept K b s) (k_regs : K .regs) (k_mode : K .mode) (k_fab : K .fab) (k_scan : K .scan) (k_sup : K .sup) (k_pow : K .pow) (k_evq : K .evq) : Kept K b (State.enterDark s cause) := by
  unfold State.enterDark
  repeat' first
    | with_reducible assumption
    | with_reducible apply kept_darkNow
    | with_reducible apply kept_latchCause
    | with_reducible apply Kept.ite
    | split

theorem kept_showScan (h : Kept K b s) (k_regs : K .regs) : Kept K b (State.showScan s) := by
  unfold State.showScan
  repeat' first
    | with_reducible assumption
    | with_reducible apply Kept.fs

theorem kept_enterDarkFor {page : Nat} {bb : Nat} {cause : Nat} (h : Kept K b s) (k_regs : K .regs) (k_mode : K .mode) (k_fab : K .fab) (k_scan : K .scan) (k_sup : K .sup) (k_pow : K .pow) (k_evq : K .evq) : Kept K b (State.enterDarkFor s page bb cause) := by
  unfold State.enterDarkFor
  repeat' first
    | with_reducible assumption
    | with_reducible apply kept_enterDark
    | with_reducible apply Kept.ite

theorem kept_modPix {f : PixSt → PixSt} (h : Kept K b s) (k_pix : K .pix) : Kept K b (State.modPix s f) := by
  unfold State.modPix
  repeat' first
    | with_reducible assumption
    | fail_if_no_progress (with_reducible apply Kept.mk_other <;> first | (with_reducible refine Or.inr ?_; assumption) | with_reducible exact Or.inl rfl | skip)

theorem kept_releaseFor {w : Nat} {src : Bool} {ovl : Bool} (h : Kept K b s) (k_pix : K .pix) : Kept K b (State.releaseFor s w src ovl) := by
  unfold State.releaseFor
  repeat' first
    | with_reducible assumption
    | with_reducible apply kept_modPix
    | with_reducible apply Kept.ite

theorem kept_releaseWin {w : Nat} (h : Kept K b s) (k_pix : K .pix) : Kept K b (State.releaseWin s w) := by
  unfold State.releaseWin
  repeat' first
    | with_reducible assumption
    | with_reducible apply kept_releaseFor

theorem kept_releaseAll (h : Kept K b s) (k_pix : K .pix) : Kept K b (State.releaseAll s) := by
  unfold State.releaseAll
  repeat' first
    | with_reducible assumption
    | with_reducible apply kept_releaseWin
    | with_reducible apply Kept.foldl
    | (intro u x hu; replace hu : Kept K b _ := hu)

theorem kept_dropPending {w : Nat} (h : Kept K b s) (k_pix : K .pix) (k_scan : K .scan) : Kept K b (State.dropPending s w) := by
  unfold State.dropPending
  repeat' first
    | with_reducible assumption
    | (intro x; subst x)
    | lift_lets
    | fail_if_no_progress (with_reducible apply Kept.mk_other <;> first | (with_reducible refine Or.inr ?_; assumption) | with_reducible exact Or.inl rfl | skip)

theorem kept_rebind {w : Nat} (h : Kept K b s) (k_pix : K .pix) (k_scan : K .scan) : Kept K b (State.rebind s w) := by
  unfold State.rebind
  repeat' first
    | with_reducible assumption
    | with_reducible apply kept_dropPending
    | with_reducible apply kept_releaseWin

theorem kept_dropPlans (h : Kept K b s) (k_pix : K .pix) (k_scan : K .scan) : Kept K b (State.dropPlans s) := by
  unfold State.dropPlans
  repeat' first
    | with_reducible assumption
    | (intro x; subst x)
    | lift_lets
    | fail_if_no_progress (with_reducible apply Kept.mk_other <;> first | (with_reducible refine Or.inr ?_; assumption) | with_reducible exact Or.inl rfl | skip)

end Sys2Proof.Machine
end

