-- ==== Sys2Proof/Laws/KeptAccess.lean ====
section
/-! SUPPORT. The operations of Machine/Access.lean keep the queue, the direction of time and the
invariant, and leave every part of the state alone but those they name. -/

namespace Sys2Proof.Machine

variable {K : Part → Prop} {b s t : State}

/-- An accepted write by the handler keeps what every operation keeps, and touches the parts `K` only. -/
def HKept (K : Part → Prop) (h : Handler) : Prop :=
  ∀ (s : State) (w : Who) (p o : Nat) (g : Reg) (d : Nat) (b : State), Kept K b s → Rec (Kept K b) (h s w p o g d)

theorem kept_grantAccess {a : Sys2Proof.Access} {addr : Nat} (h : Kept K b s) (k_regs : K .regs) (k_tens : K .tens) (k_evq : K .evq) : Rec (fun x => Kept K b x.1) (grantAccess s a addr) := by
  unfold grantAccess
  repeat' first
    | with_reducible assumption
    | with_reducible apply kept_renewSession
    | with_reducible apply kept_startSession
    | with_reducible apply Rec.ite
    | with_reducible apply Rec.ok
    | with_reducible apply Rec.error
    | (intro x; subst x)
    | lift_lets
    | split

theorem kept_grantAccess_eq {a : Sys2Proof.Access} {addr : Nat} {y : Who} (e : grantAccess s a addr = .ok (t, y)) (h : Kept K b s) (k_regs : K .regs) (k_tens : K .tens) (k_evq : K .evq) : Kept K b t := (kept_grantAccess h k_regs k_tens k_evq) (t, y) e

theorem kept_bumpGen {p : Nat} (h : Kept K b s) (k_regs : K .regs) : Kept K b (State.bumpGen s p) := by
  unfold State.bumpGen
  repeat' first
    | with_reducible assumption
    | with_reducible apply Kept.fs

theorem kept_writeMasked {w : Who} {addr : Nat} {data : Nat} {mask : Nat} {hh : Handler} (h : Kept K b s) (hk : HKept K hh) (k_regs : K .regs) : Rec (Kept K b) (writeMasked s w addr data mask hh) := by
  unfold writeMasked
  repeat' first
    | with_reducible assumption
    | exact fun x hx => kept_bumpGen (hk _ _ _ _ _ _ _ h x hx) k_regs
    | with_reducible apply Rec.ite
    | with_reducible apply Rec.ok
    | with_reducible apply Rec.error
    | with_reducible apply Rec.map
    | lift_lets
    | split
    | dsimp only

theorem kept_writeMasked_eq {w : Who} {addr : Nat} {data : Nat} {mask : Nat} {hh : Handler} (e : writeMasked s w addr data mask hh = .ok t) (h : Kept K b s) (hk : HKept K hh) (k_regs : K .regs) : Kept K b t := Rec.of_eq (kept_writeMasked h hk k_regs) e

theorem kept_writeAs {w : Who} {addr : Nat} {data : Nat} {hh : Handler} (h : Kept K b s) (hk : HKept K hh) (k_regs : K .regs) : Rec (Kept K b) (writeAs s w addr data hh) := by
  unfold writeAs
  repeat' first
    | with_reducible assumption
    | with_reducible apply kept_writeMasked

theorem kept_writeAs_eq {w : Who} {addr : Nat} {data : Nat} {hh : Handler} (e : writeAs s w addr data hh = .ok t) (h : Kept K b s) (hk : HKept K hh) (k_regs : K .regs) : Kept K b t := Rec.of_eq (kept_writeAs h hk k_regs) e

theorem kept_resetRefused {w : Who} {addr : Nat} {data : Nat} {c : Rc} (h : Kept K b s) (k_regs : K .regs) (k_evq : K .evq) : Kept K b (State.resetRefused s w addr data c) := by
  unfold State.resetRefused
  repeat' first
    | with_reducible assumption
    | with_reducible apply Kept.evCmd
    | with_reducible apply Kept.fs
    | with_reducible apply Kept.ite
    | lift_lets
    | split
    | dsimp only

theorem kept_notAdmitted {a : Sys2Proof.Access} {c : Rc} (h : Kept K b s) (k_regs : K .regs) (k_tens : K .tens) : Kept K b (State.notAdmitted s a c) := by
  unfold State.notAdmitted
  repeat' first
    | with_reducible assumption
    | with_reducible apply kept_authFail
    | with_reducible apply kept_refuse
    | with_reducible apply Kept.ite
    | split

theorem kept_accessWrite {w : Who} {addr : Nat} {data : Nat} {mask : Nat} {hh : Handler} (h : Kept K b s) (hk : HKept K hh) (k_regs : K .regs) (k_tens : K .tens) (k_evq : K .evq) : Kept K b (accessWrite s w addr data mask hh).1 := by
  unfold accessWrite
  repeat' first
    | with_reducible assumption
    | with_reducible apply kept_refuse
    | with_reducible apply kept_resetRefused
    | with_reducible apply kept_writeMasked_eq (by assumption)
    | split

theorem kept_accessWrite_eq {w : Who} {addr : Nat} {data : Nat} {mask : Nat} {hh : Handler} {y : Rc} (e : accessWrite s w addr data mask hh = (t, y)) (h : Kept K b s) (hk : HKept K hh) (k_regs : K .regs) (k_tens : K .tens) (k_evq : K .evq) : Kept K b t := fst_of_eq (kept_accessWrite h hk k_regs k_tens k_evq) e

theorem kept_storeReg {w : Who} {p : Nat} {o : Nat} {g : Reg} {data : Nat} (h : Kept K b s) (k_regs : K .regs) : Kept K b (storeReg s w p o g data) := by
  unfold storeReg
  repeat' first
    | exact h.mk_regs k_regs (cwf_rput _ _ _ _)

theorem kept_direct {a : Sys2Proof.Access} {addr : Nat} {data : Nat} {hh : Handler} (h : Kept K b s) (hk : HKept K hh) (k_regs : K .regs) (k_tens : K .tens) (k_evq : K .evq) : Kept K b (direct s a addr data hh) := by
  unfold direct
  repeat' first
    | with_reducible assumption
    | with_reducible apply kept_accessWrite
    | with_reducible apply Kept.emit
    | with_reducible apply kept_notAdmitted
    | with_reducible apply kept_grantAccess_eq (by assumption)
    | split

theorem kept_begin_ (h : Kept K b s) : Kept K b (State.begin_ s) := by
  unfold State.begin_
  repeat' first
    | with_reducible assumption
    | fail_if_no_progress (with_reducible apply Kept.mk_other <;> first | (with_reducible refine Or.inr ?_; assumption) | with_reducible exact Or.inl rfl | skip)

end Sys2Proof.Machine
end

