-- ==== Sys2Proof/Laws/KeptAdmission.lean ====
section
/-! SUPPORT. The operations of Machine/Admission.lean keep the queue, the direction of time and the
invariant, and leave every part of the state alone but those they name. -/

namespace Sys2Proof.Machine

variable {K : Part → Prop} {b s t : State}

theorem kept_admReport {res : Option Rc × AdmFig} {kind : Nat} {page : Nat} {handle : Nat} (h : Kept K b s) (k_regs : K .regs) : Kept K b (State.admReport s res kind page handle) := by
  unfold State.admReport
  repeat' first
    | with_reducible assumption
    | with_reducible apply Kept.fs
    | with_reducible apply Kept.inc
    | with_reducible apply Kept.ite

end Sys2Proof.Machine
end

