-- ==== Sys2Proof/Laws/KeptReckon.lean ====
section
/-! SUPPORT. The operations of Machine/Reckon.lean keep the queue, the direction of time and the
invariant, and leave every part of the state alone but those they name. -/

namespace Sys2Proof.Machine

variable {K : Part → Prop} {b s t : State}

theorem kept_modTim {f : TimeSt → TimeSt} (h : Kept K b s) (k_tim : K .tim) : Kept K b (State.modTim s f) := by
  unfold State.modTim
  repeat' first
    | with_reducible assumption
    | fail_if_no_progress (with_reducible apply Kept.mk_other <;> first | (with_reducible refine Or.inr ?_; assumption) | with_reducible exact Or.inl rfl | skip)

end Sys2Proof.Machine
end

