-- ==== Sys2Proof/Laws/KeptFeeds.lean ====
section
/-! SUPPORT. The operations of Machine/Feeds.lean keep the queue, the direction of time and the
invariant, and leave every part of the state alone but those they name. -/

namespace Sys2Proof.Machine

variable {K : Part → Prop} {b s t : State}

theorem kept_modFeed {n : Nat} {f : Feed → Feed} (h : Kept K b s) (k_feeds : K .feeds) : Kept K b (State.modFeed s n f) := by
  unfold State.modFeed
  repeat' first
    | with_reducible assumption
    | fail_if_no_progress (with_reducible apply Kept.mk_other <;> first | (with_reducible refine Or.inr ?_; assumption) | with_reducible exact Or.inl rfl | skip)

theorem kept_feedTidy {n : Nat} (h : Kept K b s) (k_feeds : K .feeds) : Kept K b (State.feedTidy s n) := by
  unfold State.feedTidy
  repeat' first
    | with_reducible assumption
    | with_reducible apply kept_modFeed

theorem kept_feedTidyAll (h : Kept K b s) (k_feeds : K .feeds) : Kept K b (State.feedTidyAll s) := by
  unfold State.feedTidyAll
  repeat' first
    | with_reducible assumption
    | with_reducible apply kept_feedTidy
    | with_reducible apply Kept.foldl
    | (intro u x hu; replace hu : Kept K b _ := hu)

theorem kept_deferRel {w : Nat} {src : Bool} {ovl : Bool} (h : Kept K b s) (k_pix : K .pix) : Kept K b (State.deferRel s w src ovl) := by
  unfold State.deferRel
  repeat' first
    | with_reducible assumption
    | with_reducible apply kept_modPix

theorem kept_newFrame {w : Nat} {d : Nat} {src : Bool} {ovl : Bool} (h : Kept K b s) (k_pix : K .pix) : Kept K b (State.newFrame s w d src ovl) := by
  unfold State.newFrame
  repeat' first
    | with_reducible assumption
    | with_reducible apply kept_deferRel
    | with_reducible apply kept_releaseFor
    | with_reducible apply Kept.ite

theorem kept_undefer {w : Nat} (h : Kept K b s) (k_pix : K .pix) : Kept K b (State.undefer s w) := by
  unfold State.undefer
  repeat' first
    | with_reducible assumption
    | with_reducible apply kept_modPix
    | with_reducible apply kept_releaseFor
    | with_reducible apply Kept.ite
    | split

theorem kept_deferHeld {w : Nat} (h : Kept K b s) (k_pix : K .pix) : Kept K b (State.deferHeld s w) := by
  unfold State.deferHeld
  repeat' first
    | with_reducible assumption
    | with_reducible apply kept_deferRel
    | with_reducible apply kept_modPix
    | with_reducible apply Kept.foldl
    | (intro u x hu; replace hu : Kept K b _ := hu)

theorem kept_putSrc {w : Nat} {kind : Nat} {idx : Nat} {pic : Nat} {fbk : Nat} (h : Kept K b s) (k_regs : K .regs) : Kept K b (State.putSrc s w kind idx pic fbk) := by
  unfold State.putSrc
  repeat' first
    | with_reducible assumption
    | with_reducible apply Kept.fsk

theorem kept_toFallback {w : Nat} (h : Kept K b s) (k_regs : K .regs) (k_fab : K .fab) (k_evq : K .evq) : Kept K b (State.toFallback s w) := by
  unfold State.toFallback
  repeat' first
    | with_reducible assumption
    | with_reducible apply Kept.fault
    | with_reducible apply Kept.inc
    | with_reducible apply kept_putSrc
    | with_reducible apply kept_settle
    | with_reducible apply Kept.ite

theorem kept_bindOvl {w : Nat} (h : Kept K b s) (k_regs : K .regs) : Kept K b (State.bindOvl s w) := by
  unfold State.bindOvl
  repeat' first
    | with_reducible assumption
    | with_reducible apply Kept.fsk
    | with_reducible apply Kept.ite

theorem kept_bindSrc {w : Nat} (h : Kept K b s) (k_regs : K .regs) (k_fab : K .fab) (k_evq : K .evq) : Kept K b (State.bindSrc s w) := by
  unfold State.bindSrc
  repeat' first
    | with_reducible assumption
    | with_reducible apply kept_putSrc
    | with_reducible apply kept_toFallback
    | with_reducible apply Kept.ite

theorem kept_bindWindow {w : Nat} {src : Bool} {ovl : Bool} (h : Kept K b s) (k_regs : K .regs) (k_fab : K .fab) (k_feeds : K .feeds) (k_pix : K .pix) (k_scan : K .scan) (k_evq : K .evq) : Kept K b (State.bindWindow s w src ovl) := by
  unfold State.bindWindow
  repeat' first
    | with_reducible assumption
    | with_reducible apply kept_bindOvl
    | with_reducible apply kept_bindSrc
    | with_reducible apply kept_feedTidyAll
    | with_reducible apply kept_rebind
    | with_reducible apply kept_releaseWin
    | with_reducible apply kept_settle
    | with_reducible apply Kept.ite

theorem kept_unbindFeed {n : Nat} (h : Kept K b s) (k_regs : K .regs) (k_fab : K .fab) (k_feeds : K .feeds) (k_pix : K .pix) (k_scan : K .scan) (k_evq : K .evq) : Kept K b (State.unbindFeed s n) := by
  unfold State.unbindFeed
  repeat' first
    | with_reducible assumption
    | with_reducible apply kept_feedTidyAll
    | with_reducible apply kept_rebind
    | with_reducible apply kept_toFallback
    | with_reducible apply Kept.ite
    | with_reducible apply Kept.foldl
    | (intro u x hu; replace hu : Kept K b _ := hu)

theorem kept_picsDone {n : Nat} {d : Nat} {ps : List Nat} (h : Kept K b s) (k_regs : K .regs) (k_feeds : K .feeds) (k_pix : K .pix) : Kept K b (State.picsDone s n d ps) := by
  unfold State.picsDone
  repeat' first
    | with_reducible assumption
    | with_reducible apply Kept.fsi
    | with_reducible apply Kept.inc
    | with_reducible apply kept_modFeed
    | with_reducible apply kept_newFrame
    | with_reducible apply Kept.ite
    | with_reducible apply Kept.foldl
    | (intro u x hu; replace hu : Kept K b _ := hu)

theorem kept_feedRecord {n : Nat} {d : Nat} {o : Nat} {data : List Byte} (h : Kept K b s) (k_regs : K .regs) (k_feeds : K .feeds) (k_pix : K .pix) (k_evq : K .evq) : Kept K b (State.feedRecord s n d o data) := by
  unfold State.feedRecord
  repeat' first
    | with_reducible assumption
    | with_reducible apply Kept.fault
    | with_reducible apply kept_feedTidy
    | with_reducible apply Kept.inc
    | with_reducible apply kept_modFeed
    | with_reducible apply kept_picsDone
    | with_reducible apply Kept.ite
    | (intro x; subst x)
    | lift_lets
    | split

theorem kept_feedLate {n : Nat} {pass : FSet → Bool} (h : Kept K b s) (k_regs : K .regs) (k_feeds : K .feeds) (k_evq : K .evq) : Kept K b (State.feedLate s n pass) := by
  unfold State.feedLate
  repeat' first
    | with_reducible assumption
    | with_reducible apply Kept.fault
    | with_reducible apply Kept.inc
    | with_reducible apply kept_modFeed
    | with_reducible apply Kept.ite
    | with_reducible apply Kept.foldl
    | (intro u x hu; replace hu : Kept K b _ := hu)

theorem kept_feedStale {n : Nat} (h : Kept K b s) (k_regs : K .regs) (k_feeds : K .feeds) (k_evq : K .evq) : Kept K b (State.feedStale s n) := by
  unfold State.feedStale
  repeat' first
    | with_reducible assumption
    | with_reducible apply Kept.fault
    | with_reducible apply Kept.fsi
    | with_reducible apply kept_modFeed
    | with_reducible apply Kept.ite

theorem kept_feedsStale (h : Kept K b s) (k_regs : K .regs) (k_feeds : K .feeds) (k_evq : K .evq) : Kept K b (State.feedsStale s) := by
  unfold State.feedsStale
  repeat' first
    | with_reducible assumption
    | with_reducible apply kept_feedStale
    | with_reducible apply Kept.foldl
    | (intro u x hu; replace hu : Kept K b _ := hu)

theorem kept_feedsCycle (h : Kept K b s) (k_regs : K .regs) (k_feeds : K .feeds) (k_evq : K .evq) : Kept K b (State.feedsCycle s) := by
  unfold State.feedsCycle
  repeat' first
    | with_reducible assumption
    | with_reducible apply kept_feedLate
    | with_reducible apply kept_feedTidy
    | with_reducible apply kept_modFeed
    | with_reducible apply Kept.foldl
    | (intro u x hu; replace hu : Kept K b _ := hu)

theorem kept_dropDiscarded {n : Nat} (h : Kept K b s) (k_pix : K .pix) : Kept K b (State.dropDiscarded s n) := by
  unfold State.dropDiscarded
  repeat' first
    | with_reducible assumption
    | with_reducible apply kept_modPix

theorem kept_feedRunAct {n : Nat} (h : Kept K b s) (k_regs : K .regs) (k_fab : K .fab) (k_evq : K .evq) : Kept K b (State.feedRunAct s n) := by
  unfold State.feedRunAct
  repeat' first
    | with_reducible assumption
    | with_reducible apply Kept.fsi
    | with_reducible apply kept_settle

theorem kept_feedRevoke {n : Nat} (h : Kept K b s) (k_regs : K .regs) (k_fab : K .fab) (k_feeds : K .feeds) (k_evq : K .evq) : Kept K b (State.feedRevoke s n) := by
  unfold State.feedRevoke
  repeat' first
    | with_reducible assumption
    | with_reducible apply Kept.fsi
    | with_reducible apply kept_modFeed
    | with_reducible apply kept_settle

theorem kept_feedFmtChanged {n : Nat} (h : Kept K b s) (k_regs : K .regs) (k_feeds : K .feeds) (k_pix : K .pix) (k_evq : K .evq) : Kept K b (State.feedFmtChanged s n) := by
  unfold State.feedFmtChanged
  repeat' first
    | with_reducible assumption
    | with_reducible apply kept_dropDiscarded
    | with_reducible apply kept_feedLate
    | with_reducible apply kept_feedTidy
    | with_reducible apply kept_modFeed
    | with_reducible apply Kept.ite

end Sys2Proof.Machine
end

