-- ==== Sys2Proof/Laws/KeptLink.lean ====
section
/-! SUPPORT. The operations of Machine/Link.lean keep the queue, the direction of time and the
invariant, and leave every part of the state alone but those they name. -/

namespace Sys2Proof.Machine

variable {K : Part → Prop} {b s t : State}

theorem kept_modPort {p : Nat} {f : Port → Port} (h : Kept K b s) (k_lnk : K .lnk) : Kept K b (State.modPort s p f) := by
  unfold State.modPort
  repeat' first
    | with_reducible assumption
    | (intro x; subst x)
    | lift_lets
    | fail_if_no_progress (with_reducible apply Kept.mk_other <;> first | (with_reducible refine Or.inr ?_; assumption) | with_reducible exact Or.inl rfl | skip)

theorem kept_transmit {q : Nat} {o : Out} (h : Kept K b s) (k_regs : K .regs) : Kept K b (State.transmit s q o) := by
  unfold State.transmit
  repeat' first
    | with_reducible assumption
    | with_reducible apply Kept.emit
    | with_reducible apply Kept.inc
    | with_reducible apply Kept.ite

theorem kept_sendUp {p : Nat} {hh : UpHdr} {o : UpHdr → Out} (h : Kept K b s) (k_regs : K .regs) (k_lnk : K .lnk) : Kept K b (State.sendUp s p hh o) := by
  unfold State.sendUp
  repeat' first
    | with_reducible assumption
    | with_reducible apply kept_transmit
    | (intro x; subst x)
    | lift_lets
    | fail_if_no_progress (with_reducible apply Kept.mk_other <;> first | (with_reducible refine Or.inr ?_; assumption) | with_reducible exact Or.inl rfl | skip)

theorem kept_relay {f : Frame} {hop : Nat} (h : Kept K b s) (k_regs : K .regs) : Kept K b (State.relay s f hop) := by
  unfold State.relay
  repeat' first
    | with_reducible assumption
    | with_reducible apply Kept.inc
    | with_reducible apply kept_transmit
    | with_reducible apply Kept.ite

theorem kept_foreign {f : Frame} (h : Kept K b s) (k_regs : K .regs) : Kept K b (State.foreign s f) := by
  unfold State.foreign
  repeat' first
    | with_reducible assumption
    | with_reducible apply Kept.inc
    | with_reducible apply kept_relay
    | with_reducible apply Kept.ite

theorem kept_fecSeen {p : Nat} {f : Frame} (h : Kept K b s) (k_regs : K .regs) : Kept K b (State.fecSeen s p f) := by
  unfold State.fecSeen
  repeat' first
    | with_reducible assumption
    | with_reducible apply Kept.faultBit
    | with_reducible apply Kept.inc
    | with_reducible apply Kept.ite

theorem kept_rxHead {f : Frame} (h : Kept K b s) (k_regs : K .regs) (k_evq : K .evq) : Kept K b (State.rxHead s f).1 := by
  unfold State.rxHead
  repeat' first
    | with_reducible assumption
    | with_reducible apply Kept.advance
    | with_reducible apply Kept.fault
    | with_reducible apply kept_fecSeen
    | with_reducible apply kept_foreign
    | with_reducible apply Kept.inc
    | with_reducible apply kept_relay
    | with_reducible apply Kept.ite
    | with_reducible apply Kept.iteFst

theorem kept_rxHead_eq {f : Frame} {y : Bool} (e : State.rxHead s f = (t, y)) (h : Kept K b s) (k_regs : K .regs) (k_evq : K .evq) : Kept K b t := fst_of_eq (kept_rxHead h k_regs k_evq) e

theorem kept_rxDown {f : Frame} {tt : Nat} (h : Kept K b s) (k_regs : K .regs) (k_evq : K .evq) : Kept K b (State.rxDown s f tt).1 := by
  unfold State.rxDown
  repeat' first
    | with_reducible assumption
    | with_reducible apply kept_rxHead

theorem kept_rxDown_eq {f : Frame} {tt : Nat} {y : Bool} (e : State.rxDown s f tt = (t, y)) (h : Kept K b s) (k_regs : K .regs) (k_evq : K .evq) : Kept K b t := fst_of_eq (kept_rxDown h k_regs k_evq) e

theorem kept_report {p : Nat} {reason : Nat} (h : Kept K b s) (k_regs : K .regs) (k_lnk : K .lnk) : Kept K b (State.report s p reason) := by
  unfold State.report
  repeat' first
    | with_reducible assumption
    | with_reducible apply kept_sendUp

theorem kept_pathCheck (h : Kept K b s) (k_regs : K .regs) (k_fab : K .fab) (k_lnk : K .lnk) (k_evq : K .evq) : Kept K b (State.pathCheck s) := by
  unfold State.pathCheck
  repeat' first
    | with_reducible assumption
    | with_reducible apply Kept.ev
    | with_reducible apply Kept.faultBit
    | with_reducible apply Kept.fs
    | with_reducible apply Kept.inc
    | with_reducible apply kept_report
    | with_reducible apply kept_settle
    | with_reducible apply Kept.ite

theorem kept_hbLost {p : Nat} (h : Kept K b s) (k_regs : K .regs) (k_fab : K .fab) (k_lnk : K .lnk) (k_evq : K .evq) : Kept K b (State.hbLost s p) := by
  unfold State.hbLost
  repeat' first
    | with_reducible assumption
    | with_reducible apply Kept.fault
    | with_reducible apply Kept.faultBit
    | with_reducible apply Kept.fsi
    | with_reducible apply kept_modPort
    | with_reducible apply kept_pathCheck
    | with_reducible apply Kept.ite

theorem kept_hbSeen {p : Nat} (h : Kept K b s) (k_regs : K .regs) (k_fab : K .fab) (k_lnk : K .lnk) (k_evq : K .evq) : Kept K b (State.hbSeen s p) := by
  unfold State.hbSeen
  repeat' first
    | with_reducible assumption
    | with_reducible apply Kept.fsi
    | with_reducible apply kept_modPort
    | with_reducible apply kept_pathCheck

theorem kept_pathReqApplied (h : Kept K b s) (k_regs : K .regs) (k_fab : K .fab) (k_evq : K .evq) : Kept K b (State.pathReqApplied s) := by
  unfold State.pathReqApplied
  repeat' first
    | with_reducible assumption
    | with_reducible apply Kept.fs
    | with_reducible apply kept_settle
    | with_reducible apply Kept.ite

theorem kept_portStart {p : Nat} (h : Kept K b s) (k_lnk : K .lnk) : Kept K b (State.portStart s p) := by
  unfold State.portStart
  repeat' first
    | with_reducible assumption
    | with_reducible apply kept_modPort

theorem kept_hbTick (h : Kept K b s) (k_regs : K .regs) (k_fab : K .fab) (k_lnk : K .lnk) (k_evq : K .evq) : Kept K b (State.hbTick s) := by
  unfold State.hbTick
  repeat' first
    | with_reducible assumption
    | with_reducible apply kept_hbLost
    | with_reducible apply Kept.ite
    | with_reducible apply Kept.foldl
    | (intro u x hu; replace hu : Kept K b _ := hu)

theorem kept_lockGained {p : Nat} {g25 : Bool} (h : Kept K b s) (k_regs : K .regs) (k_fab : K .fab) (k_lnk : K .lnk) (k_evq : K .evq) : Kept K b (State.lockGained s p g25) := by
  unfold State.lockGained
  repeat' first
    | with_reducible assumption
    | with_reducible apply Kept.fsi
    | with_reducible apply kept_hbTick
    | with_reducible apply kept_settle
    | with_reducible apply Kept.ite

theorem kept_portDark {p : Nat} (h : Kept K b s) (k_regs : K .regs) (k_fab : K .fab) (k_lnk : K .lnk) (k_evq : K .evq) : Kept K b (State.portDark s p) := by
  unfold State.portDark
  repeat' first
    | with_reducible assumption
    | with_reducible apply Kept.fsi
    | with_reducible apply kept_modPort
    | with_reducible apply kept_settle

theorem kept_cutFrame {p : Nat} (h : Kept K b s) (k_regs : K .regs) : Kept K b (State.cutFrame s p) := by
  unfold State.cutFrame
  repeat' first
    | with_reducible assumption
    | with_reducible apply Kept.inc
    | with_reducible apply kept_transmit
    | with_reducible apply Kept.ite

theorem kept_lockLost {p : Nat} {mid : Bool} (h : Kept K b s) (k_regs : K .regs) (k_fab : K .fab) (k_lnk : K .lnk) (k_evq : K .evq) : Kept K b (State.lockLost s p mid) := by
  unfold State.lockLost
  repeat' first
    | with_reducible assumption
    | with_reducible apply kept_cutFrame
    | with_reducible apply Kept.fault
    | with_reducible apply Kept.free2
    | with_reducible apply Kept.fsi
    | with_reducible apply Kept.inc
    | with_reducible apply kept_portDark
    | with_reducible apply Kept.ite

theorem kept_portStop {p : Nat} (h : Kept K b s) (k_regs : K .regs) (k_fab : K .fab) (k_lnk : K .lnk) (k_evq : K .evq) : Kept K b (State.portStop s p) := by
  unfold State.portStop
  repeat' first
    | with_reducible assumption
    | with_reducible apply Kept.fsi
    | with_reducible apply kept_portDark

theorem kept_loopWritten {p : Nat} (h : Kept K b s) (k_regs : K .regs) (k_fab : K .fab) (k_lnk : K .lnk) (k_evq : K .evq) : Kept K b (State.loopWritten s p) := by
  unfold State.loopWritten
  repeat' first
    | with_reducible assumption
    | with_reducible apply kept_portDark
    | with_reducible apply Kept.ite

theorem kept_feedOwn {f : Frame} {r : FeedRec} (h : Kept K b s) (k_regs : K .regs) (k_tens : K .tens) (k_feeds : K .feeds) (k_pix : K .pix) (k_evq : K .evq) : Kept K b (State.feedOwn s f r) := by
  unfold State.feedOwn
  repeat' first
    | with_reducible assumption
    | with_reducible apply kept_authFail
    | with_reducible apply kept_feedRecord
    | with_reducible apply Kept.inc
    | with_reducible apply kept_modTen
    | with_reducible apply kept_renewSession
    | (with_reducible refine Or.inr ?_; assumption)
    | with_reducible apply Kept.ite
    | lift_lets
    | (intro y hy; with_reducible exact Ten.qOk_mk hy)

theorem kept_feedFrame {f : Frame} {recs : List FeedRec} (h : Kept K b s) (k_regs : K .regs) (k_tens : K .tens) (k_lnk : K .lnk) (k_feeds : K .feeds) (k_pix : K .pix) (k_evq : K .evq) : Kept K b (State.feedFrame s f recs) := by
  unfold State.feedFrame
  repeat' first
    | with_reducible assumption
    | with_reducible apply kept_feedOwn
    | with_reducible apply Kept.inc
    | with_reducible apply kept_modPort
    | with_reducible apply kept_rxHead_eq (by assumption)
    | with_reducible apply Kept.ite
    | (intro x; subst x)
    | lift_lets
    | fail_if_no_progress (with_reducible apply Kept.mk_other <;> first | (with_reducible refine Or.inr ?_; assumption) | with_reducible exact Or.inl rfl | skip)
    | split

theorem kept_enumerate {f : Frame} (h : Kept K b s) (k_regs : K .regs) (k_lnk : K .lnk) (k_evq : K .evq) : Kept K b (State.enumerate s f) := by
  unfold State.enumerate
  repeat' first
    | with_reducible assumption
    | with_reducible apply Kept.ev
    | with_reducible apply Kept.fs
    | with_reducible apply kept_report
    | with_reducible apply Kept.ite

theorem kept_sendEvents {tt : Nat} (h : Kept K b s) (k_regs : K .regs) (k_lnk : K .lnk) (k_evq : K .evq) : Kept K b (State.sendEvents s tt) := by
  unfold State.sendEvents
  repeat' first
    | with_reducible assumption
    | with_reducible apply kept_modTen
    | with_reducible apply kept_sendUp
    | (with_reducible refine Or.inr ?_; assumption)
    | with_reducible exact or_all fun _ => rfl
    | with_reducible apply Kept.ite
    | lift_lets
    | (intro y hy; with_reducible exact Ten.qOk_mkq hy)
    | dsimp only

theorem kept_execFeedFrame {f : Frame} {recs : List FeedRec} (k_regs : K .regs) (k_tens : K .tens) (k_lnk : K .lnk) (k_feeds : K .feeds) (k_pix : K .pix) (k_evq : K .evq) : Nxt (Kept K s) (execFeedFrame f recs s) := by
  have h : Kept K s s := Kept.refl s
  unfold execFeedFrame
  repeat' first
    | with_reducible assumption
    | with_reducible apply kept_begin_
    | with_reducible apply kept_feedFrame
    | with_reducible apply Nxt.next

theorem kept_execUpForward {f : Frame} (k_regs : K .regs) (k_evq : K .evq) : Nxt (Kept K s) (execUpForward f s) := by
  have h : Kept K s s := Kept.refl s
  unfold execUpForward
  repeat' first
    | with_reducible assumption
    | with_reducible apply kept_begin_
    | with_reducible apply kept_rxHead
    | with_reducible apply Nxt.next

theorem kept_execEnum {f : Frame} {key : Nat} (k_regs : K .regs) (k_tens : K .tens) (k_lnk : K .lnk) (k_evq : K .evq) : Nxt (Kept K s) (execEnum f key s) := by
  have h : Kept K s s := Kept.refl s
  unfold execEnum
  repeat' first
    | with_reducible assumption
    | with_reducible apply kept_authFail
    | with_reducible apply kept_begin_
    | with_reducible apply kept_enumerate
    | with_reducible apply kept_renewSession
    | with_reducible apply kept_rxDown
    | with_reducible apply Nxt.ite
    | with_reducible apply Nxt.next

theorem kept_execHeartbeat {f : Frame} {req : Bool} (k_regs : K .regs) (k_fab : K .fab) (k_lnk : K .lnk) (k_evq : K .evq) : Nxt (Kept K s) (execHeartbeat f req s) := by
  have h : Kept K s s := Kept.refl s
  unfold execHeartbeat
  repeat' first
    | with_reducible assumption
    | with_reducible apply kept_begin_
    | with_reducible apply kept_hbSeen
    | with_reducible apply kept_report
    | with_reducible apply kept_rxDown
    | with_reducible apply Kept.ite
    | with_reducible apply Nxt.ite
    | with_reducible apply Nxt.next

theorem kept_execHeartbeatTimeout {p : Fin 4} (k_regs : K .regs) (k_fab : K .fab) (k_lnk : K .lnk) (k_evq : K .evq) : Nxt (Kept K s) (execHeartbeatTimeout p s) := by
  have h : Kept K s s := Kept.refl s
  unfold execHeartbeatTimeout
  repeat' first
    | with_reducible assumption
    | with_reducible apply Kept.advance
    | with_reducible apply kept_begin_
    | with_reducible apply kept_hbLost
    | with_reducible apply Nxt.ite
    | with_reducible apply Nxt.next

theorem kept_execRevert (k_regs : K .regs) (k_fab : K .fab) (k_lnk : K .lnk) (k_evq : K .evq) : Nxt (Kept K s) (execRevert s) := by
  have h : Kept K s s := Kept.refl s
  unfold execRevert
  repeat' first
    | with_reducible assumption
    | with_reducible apply Kept.advance
    | with_reducible apply kept_begin_
    | with_reducible apply Kept.ev
    | with_reducible apply Kept.fs
    | with_reducible apply kept_report
    | with_reducible apply kept_settle
    | with_reducible apply Nxt.ite
    | with_reducible apply Nxt.next

theorem kept_execLinkLock {p : Fin 4} {g25 : Bool} (k_regs : K .regs) (k_fab : K .fab) (k_lnk : K .lnk) (k_evq : K .evq) : Nxt (Kept K s) (execLinkLock p g25 s) := by
  have h : Kept K s s := Kept.refl s
  unfold execLinkLock
  repeat' first
    | with_reducible assumption
    | with_reducible apply kept_begin_
    | with_reducible apply kept_lockGained
    | with_reducible apply Nxt.next

theorem kept_execLossOfLock {p : Fin 4} {mid : Bool} (k_regs : K .regs) (k_fab : K .fab) (k_lnk : K .lnk) (k_evq : K .evq) : Nxt (Kept K s) (execLossOfLock p mid s) := by
  have h : Kept K s s := Kept.refl s
  unfold execLossOfLock
  repeat' first
    | with_reducible assumption
    | with_reducible apply kept_begin_
    | with_reducible apply kept_lockLost
    | with_reducible apply Nxt.next

theorem kept_execSpeedSeekTimeout {p : Fin 4} (k_lnk : K .lnk) : Nxt (Kept K s) (execSpeedSeekTimeout p s) := by
  have h : Kept K s s := Kept.refl s
  unfold execSpeedSeekTimeout
  repeat' first
    | with_reducible assumption
    | with_reducible apply Kept.advance
    | with_reducible apply kept_begin_
    | with_reducible apply kept_modPort
    | with_reducible apply Nxt.ite
    | with_reducible apply Nxt.next

theorem kept_execNospeed {p : Fin 4} (k_regs : K .regs) (k_evq : K .evq) : Nxt (Kept K s) (execNospeed p s) := by
  have h : Kept K s s := Kept.refl s
  unfold execNospeed
  repeat' first
    | with_reducible assumption
    | with_reducible apply Kept.advance
    | with_reducible apply kept_begin_
    | with_reducible apply Kept.fault
    | with_reducible apply Nxt.ite
    | with_reducible apply Nxt.next

theorem kept_execHighBitErrorRate {p : Fin 4} (k_regs : K .regs) : Nxt (Kept K s) (execHighBitErrorRate p s) := by
  have h : Kept K s s := Kept.refl s
  unfold execHighBitErrorRate
  repeat' first
    | with_reducible assumption
    | with_reducible apply kept_begin_
    | with_reducible apply Kept.faultBit
    | with_reducible apply Kept.fsi
    | with_reducible apply Nxt.ite
    | with_reducible apply Nxt.next

theorem kept_execForeignFrame {f : Frame} (k_regs : K .regs) (k_evq : K .evq) : Nxt (Kept K s) (execForeignFrame f s) := by
  have h : Kept K s s := Kept.refl s
  unfold execForeignFrame
  repeat' first
    | with_reducible assumption
    | with_reducible apply Kept.advance
    | with_reducible apply kept_begin_
    | with_reducible apply Kept.inc
    | with_reducible apply kept_relay
    | with_reducible apply kept_rxHead
    | with_reducible apply Nxt.ite
    | with_reducible apply Nxt.next

theorem kept_execEventFrameSend {tt : Fin 16} (k_regs : K .regs) (k_lnk : K .lnk) (k_evq : K .evq) : Nxt (Kept K s) (execEventFrameSend tt s) := by
  have h : Kept K s s := Kept.refl s
  unfold execEventFrameSend
  repeat' first
    | with_reducible assumption
    | with_reducible apply kept_begin_
    | with_reducible apply kept_sendEvents
    | with_reducible apply Nxt.next

end Sys2Proof.Machine
end

