-- ==== Sys2Proof/Laws/KeptSerial.lean ====
section
/-! SUPPORT. The operations of Machine/Serial.lean keep the queue, the direction of time and the
invariant, and leave every part of the state alone but those they name. -/

namespace Sys2Proof.Machine

variable {K : Part → Prop} {b s t : State}

theorem cwf_putBufByte {r : Regs} (p off i v : Nat) (h : cwf regDflt r = true) : cwf regDflt (putBufByte r p off i v) = true :=
  cwf_rput _ _ _ _ h

theorem cwf_putBuf {r : Regs} (p off : Nat) (l : List Nat) (h : cwf regDflt r = true) : cwf regDflt (putBuf r p off l) = true :=
  cwf_foldl (fun _ _ hm => cwf_putBufByte _ _ _ _ hm) h

theorem kept_modSer {f : SerSt → SerSt} (h : Kept K b s) (k_ser : K .ser) : Kept K b (State.modSer s f) := by
  unfold State.modSer
  repeat' first
    | with_reducible assumption
    | fail_if_no_progress (with_reducible apply Kept.mk_other <;> first | (with_reducible refine Or.inr ?_; assumption) | with_reducible exact Or.inl rfl | skip)

theorem kept_spibRes {c : Rc} (h : Kept K b s) (k_regs : K .regs) : Kept K b (State.spibRes s c) := by
  unfold State.spibRes
  repeat' first
    | with_reducible assumption
    | with_reducible apply Kept.fs

theorem kept_flashRun {op : Nat} {len : Nat} {flash : List Byte} (h : Kept K b s) (k_regs : K .regs) (k_ser : K .ser) : Kept K b (State.flashRun s op len flash) := by
  unfold State.flashRun
  repeat' first
    | with_reducible assumption
    | with_reducible apply Kept.emit
    | with_reducible apply Kept.fs
    | with_reducible apply kept_modSer
    | with_reducible apply kept_spibRes
    | with_reducible apply Kept.ite
    | lift_lets
    | with_reducible refine Kept.mk_regs ?_ ?_ (cwf_putBuf _ _ _)

theorem kept_flashPoll {sr : Byte} (h : Kept K b s) (k_regs : K .regs) (k_ser : K .ser) : Kept K b (State.flashPoll s sr) := by
  unfold State.flashPoll
  repeat' first
    | with_reducible assumption
    | with_reducible apply Kept.advance
    | with_reducible apply Kept.emit
    | with_reducible apply Kept.fs
    | with_reducible apply kept_modSer
    | with_reducible apply kept_spibRes
    | with_reducible apply Kept.ite

theorem kept_flashTimeout (h : Kept K b s) (k_regs : K .regs) (k_ser : K .ser) (k_evq : K .evq) : Kept K b (State.flashTimeout s) := by
  unfold State.flashTimeout
  repeat' first
    | with_reducible assumption
    | with_reducible apply Kept.advance
    | with_reducible apply Kept.fault
    | with_reducible apply Kept.fs
    | with_reducible apply kept_modSer
    | with_reducible apply kept_spibRes
    | with_reducible apply Kept.ite

theorem kept_xipFetch {off : Nat} {flash : List Byte} {lat : Nat} {held : Nat} (h : Kept K b s) (k_regs : K .regs) (k_ser : K .ser) : Kept K b (State.xipFetch s off flash lat held) := by
  unfold State.xipFetch
  repeat' first
    | with_reducible assumption
    | with_reducible apply Kept.emit
    | with_reducible apply Kept.fs
    | with_reducible apply Kept.inc
    | with_reducible apply kept_modSer
    | with_reducible apply Kept.ite

theorem kept_setGrant {twi : Bool} {hh : Option Nat} (h : Kept K b s) (k_regs : K .regs) : Kept K b (State.setGrant s twi hh) := by
  unfold State.setGrant
  repeat' first
    | with_reducible assumption
    | with_reducible apply Kept.fs
    | with_reducible apply Kept.ite

theorem kept_grantRequest {twi : Bool} {n : Nat} (h : Kept K b s) (k_regs : K .regs) (k_ser : K .ser) (k_evq : K .evq) : Rec (Kept K b) (State.grantRequest s twi n) := by
  unfold State.grantRequest
  repeat' first
    | with_reducible assumption
    | with_reducible apply Kept.evTo
    | with_reducible apply kept_modSer
    | with_reducible apply kept_setGrant
    | with_reducible apply Rec.ite
    | with_reducible apply Rec.ok
    | with_reducible apply Rec.error
    | (intro x; subst x)
    | lift_lets
    | split

theorem kept_grantRequest_eq {twi : Bool} {n : Nat} (e : State.grantRequest s twi n = .ok t) (h : Kept K b s) (k_regs : K .regs) (k_ser : K .ser) (k_evq : K .evq) : Kept K b t := Rec.of_eq (kept_grantRequest h k_regs k_ser k_evq) e

theorem kept_spicTake {x : SpicX} {rx : List Bool} (h : Kept K b s) (k_regs : K .regs) : Kept K b (State.spicTake s x rx) := by
  unfold State.spicTake
  repeat' first
    | with_reducible assumption
    | (intro x; subst x)
    | lift_lets
    | with_reducible refine Kept.mk_regs ?_ ?_ (cwf_foldl fun _ _ hm => cwf_putBufByte _ _ _ _ hm)

theorem kept_twiRes {c : Rc} (h : Kept K b s) (k_regs : K .regs) : Kept K b (State.twiRes s c) := by
  unfold State.twiRes
  repeat' first
    | with_reducible assumption
    | with_reducible apply Kept.setReg

theorem kept_twiEnd {x : TwiX} {bytes : List Byte} {c : Rc} (h : Kept K b s) (k_regs : K .regs) (k_ser : K .ser) : Kept K b (State.twiEnd s x bytes c) := by
  unfold State.twiEnd
  repeat' first
    | with_reducible assumption
    | with_reducible apply Kept.fs
    | with_reducible apply kept_modSer
    | with_reducible apply kept_twiRes
    | lift_lets
    | with_reducible refine Kept.mk_regs ?_ ?_ (cwf_putBuf _ _ _)

theorem kept_compEmit {c : Nat} {cmd : Nat} {off : Nat} (h : Kept K b s) : Kept K b (State.compEmit s c cmd off) := by
  unfold State.compEmit
  repeat' first
    | with_reducible assumption
    | with_reducible apply Kept.emit
    | split

theorem kept_compGo (h : Kept K b s) (k_upd : K .upd) : Kept K b (State.compGo s) := by
  unfold State.compGo
  repeat' first
    | with_reducible assumption
    | with_reducible apply kept_compEmit
    | with_reducible apply Kept.ite
    | (intro x; subst x)
    | lift_lets
    | fail_if_no_progress (with_reducible apply Kept.mk_other <;> first | (with_reducible refine Or.inr ?_; assumption) | with_reducible exact Or.inl rfl | skip)
    | split
    | dsimp only

theorem kept_stopPort {twi : Bool} {rx : StopRx} (h : Kept K b s) (k_regs : K .regs) (k_ser : K .ser) (k_upd : K .upd) : Kept K b (State.stopPort s twi rx) := by
  unfold State.stopPort
  repeat' first
    | with_reducible assumption
    | with_reducible apply kept_compGo
    | with_reducible apply Kept.emit
    | with_reducible apply Kept.fs
    | with_reducible apply kept_modSer
    | with_reducible apply kept_setGrant
    | with_reducible apply Kept.setReg
    | with_reducible apply kept_spicTake
    | with_reducible apply kept_twiEnd
    | with_reducible apply Kept.ite
    | lift_lets
    | split

theorem kept_grantRevoke {twi : Bool} {rx : StopRx} (h : Kept K b s) (k_regs : K .regs) (k_ser : K .ser) (k_upd : K .upd) (k_evq : K .evq) : Kept K b (State.grantRevoke s twi rx) := by
  unfold State.grantRevoke
  repeat' first
    | with_reducible assumption
    | with_reducible apply Kept.evTo
    | with_reducible apply kept_stopPort
    | with_reducible apply Kept.ite
    | (intro x; subst x)
    | lift_lets
    | split

theorem kept_busRevoke {n : Nat} {rx : StopRx} (h : Kept K b s) (k_regs : K .regs) (k_ser : K .ser) (k_upd : K .upd) (k_evq : K .evq) : Kept K b (State.busRevoke s n rx) := by
  unfold State.busRevoke
  repeat' first
    | with_reducible assumption
    | with_reducible apply kept_grantRevoke
    | with_reducible apply Kept.ite

theorem kept_grantRelease {twi : Bool} (h : Kept K b s) (k_regs : K .regs) (k_ser : K .ser) (k_upd : K .upd) : Kept K b (State.grantRelease s twi) := by
  unfold State.grantRelease
  repeat' first
    | with_reducible assumption
    | with_reducible apply kept_compGo
    | with_reducible apply Kept.fs
    | with_reducible apply kept_modSer
    | with_reducible apply kept_setGrant
    | with_reducible apply Kept.ite

theorem kept_spicStart {slot : Nat} {data : Nat} (h : Kept K b s) (k_regs : K .regs) (k_ser : K .ser) : Rec (Kept K b) (State.spicStart s slot data) := by
  unfold State.spicStart
  repeat' first
    | with_reducible assumption
    | with_reducible apply Kept.emit
    | with_reducible apply Kept.fs
    | with_reducible apply kept_modSer
    | with_reducible apply Rec.ite
    | with_reducible apply Rec.ok
    | with_reducible apply Rec.error

theorem kept_spicStart_eq {slot : Nat} {data : Nat} (e : State.spicStart s slot data = .ok t) (h : Kept K b s) (k_regs : K .regs) (k_ser : K .ser) : Kept K b t := Rec.of_eq (kept_spicStart h k_regs k_ser) e

theorem kept_spicDone {rx : List Bool} (h : Kept K b s) (k_regs : K .regs) (k_ser : K .ser) (k_upd : K .upd) (k_evq : K .evq) : Kept K b (State.spicDone s rx) := by
  unfold State.spicDone
  repeat' first
    | with_reducible assumption
    | with_reducible apply Kept.advance
    | with_reducible apply kept_compGo
    | with_reducible apply Kept.evTo
    | with_reducible apply Kept.fs
    | with_reducible apply kept_modSer
    | with_reducible apply Kept.setReg
    | with_reducible apply kept_spicTake
    | with_reducible apply Kept.ite
    | split

theorem kept_busClear {freed : Bool} (h : Kept K b s) (k_regs : K .regs) (k_evq : K .evq) : Kept K b (State.busClear s freed) := by
  unfold State.busClear
  repeat' first
    | with_reducible assumption
    | with_reducible apply Kept.emit
    | with_reducible apply Kept.ev
    | with_reducible apply Kept.fault
    | with_reducible apply Kept.fs
    | with_reducible apply Kept.ite

theorem kept_twiGo (h : Kept K b s) (k_ser : K .ser) : Kept K b (State.twiGo s) := by
  unfold State.twiGo
  repeat' first
    | with_reducible assumption
    | with_reducible apply Kept.emit
    | with_reducible apply kept_modSer
    | split

theorem kept_twiStart {slot : Nat} {data : Nat} {sdaLow : Option Bool} (h : Kept K b s) (k_regs : K .regs) (k_ser : K .ser) (k_evq : K .evq) : Rec (Kept K b) (State.twiStart s slot data sdaLow) := by
  unfold State.twiStart
  repeat' first
    | with_reducible assumption
    | with_reducible apply kept_busClear
    | with_reducible apply Kept.emit
    | with_reducible apply Kept.fs
    | with_reducible apply kept_modSer
    | with_reducible apply kept_twiRes
    | with_reducible apply Kept.ite
    | with_reducible apply Rec.ite
    | with_reducible apply Rec.ok
    | with_reducible apply Rec.error
    | lift_lets
    | split

theorem kept_twiStart_eq {slot : Nat} {data : Nat} {sdaLow : Option Bool} (e : State.twiStart s slot data sdaLow = .ok t) (h : Kept K b s) (k_regs : K .regs) (k_ser : K .ser) (k_evq : K .evq) : Kept K b t := Rec.of_eq (kept_twiStart h k_regs k_ser k_evq) e

theorem kept_twiRefuseHeld (h : Kept K b s) (k_regs : K .regs) (k_ser : K .ser) : Kept K b (State.twiRefuseHeld s) := by
  unfold State.twiRefuseHeld
  repeat' first
    | with_reducible assumption
    | with_reducible apply kept_twiEnd
    | with_reducible apply Kept.ite
    | split

theorem kept_twiDone {r : TwiEnd} (h : Kept K b s) (k_regs : K .regs) (k_ser : K .ser) (k_upd : K .upd) (k_evq : K .evq) : Kept K b (State.twiDone s r) := by
  unfold State.twiDone
  repeat' first
    | with_reducible assumption
    | with_reducible apply kept_busClear
    | with_reducible apply kept_compGo
    | with_reducible apply Kept.emit
    | with_reducible apply Kept.evTo
    | with_reducible apply Kept.fault
    | with_reducible apply kept_twiEnd
    | with_reducible apply Kept.ite
    | lift_lets
    | split

theorem kept_twiStretch {i : Nat} {freed : Bool} (h : Kept K b s) (k_regs : K .regs) (k_ser : K .ser) (k_upd : K .upd) (k_evq : K .evq) : Kept K b (State.twiStretch s i freed) := by
  unfold State.twiStretch
  repeat' first
    | with_reducible assumption
    | with_reducible apply kept_busClear
    | with_reducible apply kept_compGo
    | with_reducible apply Kept.fault
    | with_reducible apply kept_twiEnd
    | split

theorem kept_hSpibCmd {flash : List Byte} (k_regs : K .regs) (k_ser : K .ser) : HKept K (hSpibCmd flash) := by
  intro s w p o g d b h
  unfold hSpibCmd
  repeat' first
    | with_reducible assumption
    | with_reducible apply kept_flashRun
    | with_reducible apply Rec.ok
    | with_reducible apply Rec.error
    | (intro x; subst x)
    | lift_lets
    | split

theorem kept_hSpibCfg (k_regs : K .regs) : HKept K hSpibCfg := by
  intro s w p o g d b h
  unfold hSpibCfg
  repeat' first
    | with_reducible assumption
    | with_reducible apply kept_storeReg
    | with_reducible apply Rec.ite
    | with_reducible apply Rec.ok
    | with_reducible apply Rec.error

theorem kept_hGcmd {freed : Bool} (k_regs : K .regs) (k_ser : K .ser) (k_upd : K .upd) (k_evq : K .evq) : HKept K (hGcmd freed) := by
  intro s w p o g d b h
  unfold hGcmd
  repeat' first
    | with_reducible assumption
    | with_reducible apply kept_busClear
    | with_reducible apply kept_grantRelease
    | with_reducible apply kept_grantRequest
    | with_reducible apply Rec.ite
    | with_reducible apply Rec.ok
    | with_reducible apply Rec.error
    | (intro x; subst x)
    | lift_lets
    | split

theorem kept_hSpicXfer (k_regs : K .regs) (k_ser : K .ser) : HKept K hSpicXfer := by
  intro s w p o g d b h
  unfold hSpicXfer
  repeat' first
    | with_reducible assumption
    | with_reducible apply kept_spicStart

theorem kept_hTwiXfer {sdaLow : Option Bool} (k_regs : K .regs) (k_ser : K .ser) (k_evq : K .evq) : HKept K (hTwiXfer sdaLow) := by
  intro s w p o g d b h
  unfold hTwiXfer
  repeat' first
    | with_reducible assumption
    | with_reducible apply kept_twiStart

theorem kept_spibCmd {a : Sys2Proof.Access} {op : Nat} {data : Word} {flash : List Byte} (h : Kept K b s) (k_regs : K .regs) (k_tens : K .tens) (k_ser : K .ser) (k_evq : K .evq) : Kept K b (spibCmd s a op data flash) := by
  unfold spibCmd
  repeat' first
    | with_reducible assumption
    | with_reducible apply kept_begin_
    | with_reducible apply kept_direct
    | with_reducible apply kept_hSpibCmd

theorem kept_execSpibRead {a : Sys2Proof.Access} {data : Word} {flash : List Byte} (k_regs : K .regs) (k_tens : K .tens) (k_ser : K .ser) (k_evq : K .evq) : Nxt (Kept K s) (execSpibRead a data flash s) := by
  have h : Kept K s s := Kept.refl s
  unfold execSpibRead
  repeat' first
    | with_reducible assumption
    | with_reducible apply kept_spibCmd
    | with_reducible apply Nxt.next

theorem kept_execProgram {a : Sys2Proof.Access} {data : Word} (k_regs : K .regs) (k_tens : K .tens) (k_ser : K .ser) (k_evq : K .evq) : Nxt (Kept K s) (execProgram a data s) := by
  have h : Kept K s s := Kept.refl s
  unfold execProgram
  repeat' first
    | with_reducible assumption
    | with_reducible apply kept_spibCmd
    | with_reducible apply Nxt.next

theorem kept_execErase4k {a : Sys2Proof.Access} {data : Word} (k_regs : K .regs) (k_tens : K .tens) (k_ser : K .ser) (k_evq : K .evq) : Nxt (Kept K s) (execErase4k a data s) := by
  have h : Kept K s s := Kept.refl s
  unfold execErase4k
  repeat' first
    | with_reducible assumption
    | with_reducible apply kept_spibCmd
    | with_reducible apply Nxt.next

theorem kept_execErase64k {a : Sys2Proof.Access} {data : Word} (k_regs : K .regs) (k_tens : K .tens) (k_ser : K .ser) (k_evq : K .evq) : Nxt (Kept K s) (execErase64k a data s) := by
  have h : Kept K s s := Kept.refl s
  unfold execErase64k
  repeat' first
    | with_reducible assumption
    | with_reducible apply kept_spibCmd
    | with_reducible apply Nxt.next

theorem kept_execReadsr {a : Sys2Proof.Access} {data : Word} {sr : Byte} (k_regs : K .regs) (k_tens : K .tens) (k_ser : K .ser) (k_evq : K .evq) : Nxt (Kept K s) (execReadsr a data sr s) := by
  have h : Kept K s s := Kept.refl s
  unfold execReadsr
  repeat' first
    | with_reducible assumption
    | with_reducible apply kept_spibCmd
    | with_reducible apply Nxt.next

theorem kept_execStatusPoll {sr : Byte} (k_regs : K .regs) (k_ser : K .ser) : Nxt (Kept K s) (execStatusPoll sr s) := by
  have h : Kept K s s := Kept.refl s
  unfold execStatusPoll
  repeat' first
    | with_reducible assumption
    | with_reducible apply kept_begin_
    | with_reducible apply kept_flashPoll
    | with_reducible apply Nxt.next

theorem kept_execFlashTimeout (k_regs : K .regs) (k_ser : K .ser) (k_evq : K .evq) : Nxt (Kept K s) (execFlashTimeout s) := by
  have h : Kept K s s := Kept.refl s
  unfold execFlashTimeout
  repeat' first
    | with_reducible assumption
    | with_reducible apply kept_begin_
    | with_reducible apply kept_flashTimeout
    | with_reducible apply Nxt.next

theorem kept_execFetch {off : Nat} {flash : List Byte} {lat : Nat} {held : Nat} (k_regs : K .regs) (k_ser : K .ser) : Nxt (Kept K s) (execFetch off flash lat held s) := by
  have h : Kept K s s := Kept.refl s
  unfold execFetch
  repeat' first
    | with_reducible assumption
    | with_reducible apply kept_begin_
    | with_reducible apply kept_xipFetch
    | with_reducible apply Nxt.next

theorem kept_execRequest {a : Sys2Proof.Access} {twi : Bool} (k_regs : K .regs) (k_tens : K .tens) (k_ser : K .ser) (k_upd : K .upd) (k_evq : K .evq) : Nxt (Kept K s) (execRequest a twi s) := by
  have h : Kept K s s := Kept.refl s
  unfold execRequest
  repeat' first
    | with_reducible assumption
    | with_reducible apply kept_begin_
    | with_reducible apply kept_direct
    | with_reducible apply kept_hGcmd
    | with_reducible apply Nxt.next

theorem kept_execRelease {a : Sys2Proof.Access} {twi : Bool} (k_regs : K .regs) (k_tens : K .tens) (k_ser : K .ser) (k_upd : K .upd) (k_evq : K .evq) : Nxt (Kept K s) (execRelease a twi s) := by
  have h : Kept K s s := Kept.refl s
  unfold execRelease
  repeat' first
    | with_reducible assumption
    | with_reducible apply kept_begin_
    | with_reducible apply kept_direct
    | with_reducible apply kept_hGcmd
    | with_reducible apply Nxt.next

theorem kept_execBusclear {a : Sys2Proof.Access} {freed : Bool} (k_regs : K .regs) (k_tens : K .tens) (k_ser : K .ser) (k_upd : K .upd) (k_evq : K .evq) : Nxt (Kept K s) (execBusclear a freed s) := by
  have h : Kept K s s := Kept.refl s
  unfold execBusclear
  repeat' first
    | with_reducible assumption
    | with_reducible apply kept_begin_
    | with_reducible apply kept_direct
    | with_reducible apply kept_hGcmd
    | with_reducible apply Nxt.next

theorem kept_execGrantExpire {twi : Bool} {rx : StopRx} (k_regs : K .regs) (k_ser : K .ser) (k_upd : K .upd) (k_evq : K .evq) : Nxt (Kept K s) (execGrantExpire twi rx s) := by
  have h : Kept K s s := Kept.refl s
  unfold execGrantExpire
  repeat' first
    | with_reducible assumption
    | with_reducible apply Kept.advance
    | with_reducible apply kept_begin_
    | with_reducible apply kept_grantRevoke
    | with_reducible apply Kept.ite
    | with_reducible apply Nxt.next

theorem kept_execSpicTransfer {a : Sys2Proof.Access} {data : Word} (k_regs : K .regs) (k_tens : K .tens) (k_ser : K .ser) (k_evq : K .evq) : Nxt (Kept K s) (execSpicTransfer a data s) := by
  have h : Kept K s s := Kept.refl s
  unfold execSpicTransfer
  repeat' first
    | with_reducible assumption
    | with_reducible apply kept_begin_
    | with_reducible apply kept_direct
    | with_reducible apply kept_hSpicXfer
    | with_reducible apply Nxt.next

theorem kept_execSpicTransferDone {rx : List Bool} (k_regs : K .regs) (k_ser : K .ser) (k_upd : K .upd) (k_evq : K .evq) : Nxt (Kept K s) (execSpicTransferDone rx s) := by
  have h : Kept K s s := Kept.refl s
  unfold execSpicTransferDone
  repeat' first
    | with_reducible assumption
    | with_reducible apply kept_begin_
    | with_reducible apply kept_spicDone
    | with_reducible apply Nxt.next

theorem kept_execTwiTransfer {a : Sys2Proof.Access} {data : Word} {sdaLow : Option Bool} (k_regs : K .regs) (k_tens : K .tens) (k_ser : K .ser) (k_evq : K .evq) : Nxt (Kept K s) (execTwiTransfer a data sdaLow s) := by
  have h : Kept K s s := Kept.refl s
  unfold execTwiTransfer
  repeat' first
    | with_reducible assumption
    | with_reducible apply kept_begin_
    | with_reducible apply kept_direct
    | with_reducible apply kept_hTwiXfer
    | with_reducible apply Nxt.next

theorem kept_execTwiTransferDone {r : TwiEnd} (k_regs : K .regs) (k_ser : K .ser) (k_upd : K .upd) (k_evq : K .evq) : Nxt (Kept K s) (execTwiTransferDone r s) := by
  have h : Kept K s s := Kept.refl s
  unfold execTwiTransferDone
  repeat' first
    | with_reducible assumption
    | with_reducible apply kept_begin_
    | with_reducible apply kept_twiDone
    | with_reducible apply Nxt.next

theorem kept_execStretchTimeout {index : Nat} {freed : Bool} (k_regs : K .regs) (k_ser : K .ser) (k_upd : K .upd) (k_evq : K .evq) : Nxt (Kept K s) (execStretchTimeout index freed s) := by
  have h : Kept K s s := Kept.refl s
  unfold execStretchTimeout
  repeat' first
    | with_reducible assumption
    | with_reducible apply kept_begin_
    | with_reducible apply kept_twiStretch
    | with_reducible apply Nxt.next

end Sys2Proof.Machine
end

