-- ==== Sys2Proof/Laws/KeptTenants.lean ====
section
/-! SUPPORT. The operations of Machine/Tenants.lean keep the queue, the direction of time and the
invariant, and leave every part of the state alone but those they name. -/

namespace Sys2Proof.Machine

variable {K : Part → Prop} {b s t : State}

theorem kept_tenCmd {w : Who} {n : Nat} {op : Nat} (h : Kept K b s) (k_regs : K .regs) (k_fab : K .fab) (k_tens : K .tens) (k_evq : K .evq) : Rec (Kept K b) (State.tenCmd s w n op) := by
  unfold State.tenCmd
  repeat' first
    | with_reducible assumption
    | with_reducible apply Kept.ev
    | with_reducible apply kept_orderReset
    | with_reducible apply kept_runAct
    | with_reducible apply kept_setTst
    | with_reducible apply Rec.ite
    | with_reducible apply Rec.ok
    | with_reducible apply Rec.error
    | lift_lets
    | split

theorem kept_tenCmd_eq {w : Who} {n : Nat} {op : Nat} (e : State.tenCmd s w n op = .ok t) (h : Kept K b s) (k_regs : K .regs) (k_fab : K .fab) (k_tens : K .tens) (k_evq : K .evq) : Kept K b t := Rec.of_eq (kept_tenCmd h k_regs k_fab k_tens k_evq) e

theorem kept_tenRunWritten {n : Nat} (h : Kept K b s) (k_regs : K .regs) (k_fab : K .fab) (k_tens : K .tens) (k_evq : K .evq) : Kept K b (State.tenRunWritten s n) := by
  unfold State.tenRunWritten
  repeat' first
    | with_reducible assumption
    | with_reducible apply kept_orderReset
    | with_reducible apply kept_runAct
    | with_reducible apply Kept.ite

theorem kept_leaseExpired {n : Nat} (h : Kept K b s) (k_regs : K .regs) (k_tens : K .tens) (k_evq : K .evq) : Kept K b (State.leaseExpired s n) := by
  unfold State.leaseExpired
  repeat' first
    | with_reducible assumption
    | with_reducible apply Kept.advance
    | with_reducible apply Kept.ev
    | with_reducible apply kept_orderReset
    | with_reducible apply Kept.ite

theorem kept_trigger {n : Nat} {q : Nat} (h : Kept K b s) (k_regs : K .regs) (k_tens : K .tens) (k_evq : K .evq) : Kept K b (State.trigger s n q) := by
  unfold State.trigger
  repeat' first
    | with_reducible assumption
    | with_reducible apply Kept.evTo
    | with_reducible apply kept_orderReset
    | with_reducible apply Kept.ite

theorem kept_modFab {f : FabSt → FabSt} (h : Kept K b s) (k_fab : K .fab) : Kept K b (State.modFab s f) := by
  unfold State.modFab
  repeat' first
    | with_reducible assumption
    | fail_if_no_progress (with_reducible apply Kept.mk_other <;> first | (with_reducible refine Or.inr ?_; assumption) | with_reducible exact Or.inl rfl | skip)

theorem kept_permInterval (h : Kept K b s) (k_regs : K .regs) (k_fab : K .fab) (k_tens : K .tens) (k_evq : K .evq) : Kept K b (State.permInterval s) := by
  unfold State.permInterval
  repeat' first
    | with_reducible assumption
    | with_reducible refine Kept.mk_tensMap ?_ ?_ (fun _ => rfl)
    | with_reducible apply kept_modFab
    | with_reducible apply kept_trigger
    | with_reducible apply Kept.ite
    | with_reducible apply Kept.foldl
    | (intro u x hu; replace hu : Kept K b _ := hu)

theorem kept_floodCycle (h : Kept K b s) (k_regs : K .regs) (k_tens : K .tens) (k_evq : K .evq) : Kept K b (State.floodCycle s) := by
  unfold State.floodCycle
  repeat' first
    | with_reducible assumption
    | with_reducible apply kept_modTen
    | with_reducible apply kept_trigger
    | (with_reducible refine Or.inr ?_; assumption)
    | with_reducible apply Kept.ite
    | with_reducible apply Kept.foldl
    | (intro u x hu; replace hu : Kept K b _ := hu)
    | lift_lets
    | (intro y hy; with_reducible exact Ten.qOk_mk hy)

theorem kept_fkTell {hh : Nat} {n : Nat} (h : Kept K b s) (k_regs : K .regs) (k_fab : K .fab) (k_evq : K .evq) : Kept K b (State.fkTell s hh n) := by
  unfold State.fkTell
  repeat' first
    | with_reducible assumption
    | with_reducible apply Kept.evTo
    | with_reducible apply kept_modFab
    | with_reducible apply Kept.ite

theorem kept_fkDrop {p : Firkin → Bool} (h : Kept K b s) (k_regs : K .regs) (k_fab : K .fab) (k_evq : K .evq) : Kept K b (State.fkDrop s p) := by
  unfold State.fkDrop
  repeat' first
    | with_reducible assumption
    | with_reducible apply kept_fkTell
    | with_reducible apply kept_modFab
    | with_reducible apply Kept.foldl
    | (intro u x hu; replace hu : Kept K b _ := hu)

theorem kept_eraseKeys {n : Nat} (h : Kept K b s) (k_regs : K .regs) (k_keys : K .keys) (k_sec : K .sec) : Kept K b (State.eraseKeys s n) := by
  unfold State.eraseKeys
  repeat' first
    | with_reducible assumption
    | with_reducible apply Kept.setReg
    | with_reducible apply Kept.ite
    | (intro x; subst x)
    | lift_lets
    | fail_if_no_progress (with_reducible apply Kept.mk_other <;> first | (with_reducible refine Or.inr ?_; assumption) | with_reducible exact Or.inl rfl | skip)

theorem kept_disown {n : Nat} (h : Kept K b s) (k_regs : K .regs) : Kept K b (State.disown s n) := by
  unfold State.disown
  repeat' first
    | with_reducible assumption
    | with_reducible apply Kept.fs
    | with_reducible apply Kept.ite
    | with_reducible apply Kept.foldl
    | (intro u x hu; replace hu : Kept K b _ := hu)

theorem kept_revokeAll {n : Nat} {rx : StopRx} (h : Kept K b s) (k_regs : K .regs) (k_fab : K .fab) (k_tens : K .tens) (k_keys : K .keys) (k_feeds : K .feeds) (k_pix : K .pix) (k_scan : K .scan) (k_ser : K .ser) (k_sec : K .sec) (k_upd : K .upd) (k_evq : K .evq) : Kept K b (State.revokeAll s n rx) := by
  unfold State.revokeAll
  repeat' first
    | with_reducible assumption
    | with_reducible apply kept_busRevoke
    | with_reducible apply kept_disown
    | with_reducible apply kept_eraseKeys
    | with_reducible apply kept_feedRevoke
    | with_reducible apply kept_fkDrop
    | with_reducible apply Kept.fsi
    | with_reducible apply kept_modTen
    | with_reducible apply kept_unbindFeed
    | (with_reducible refine Or.inr ?_; assumption)
    | lift_lets
    | (intro y hy; with_reducible exact Ten.qOk_mk hy)

theorem kept_resetNow {rx : StopRx} {n : Nat} (h : Kept K b s) (k_regs : K .regs) (k_fab : K .fab) (k_tens : K .tens) (k_keys : K .keys) (k_feeds : K .feeds) (k_pix : K .pix) (k_scan : K .scan) (k_ser : K .ser) (k_sec : K .sec) (k_upd : K .upd) (k_evq : K .evq) : Kept K b (State.resetNow s rx n) := by
  unfold State.resetNow
  repeat' first
    | with_reducible assumption
    | with_reducible apply Kept.evTo
    | with_reducible apply Kept.fsi
    | with_reducible apply Kept.inc
    | with_reducible apply kept_modTen
    | with_reducible apply kept_revokeAll
    | with_reducible apply kept_runAct
    | with_reducible apply kept_setTst
    | (with_reducible refine Or.inr ?_; assumption)
    | with_reducible apply Kept.ite
    | lift_lets
    | (intro y hy; with_reducible exact Ten.qOk_mk hy)

theorem kept_resetAll {rx : StopRx} (h : Kept K b s) (k_regs : K .regs) (k_fab : K .fab) (k_tens : K .tens) (k_keys : K .keys) (k_feeds : K .feeds) (k_pix : K .pix) (k_scan : K .scan) (k_ser : K .ser) (k_sec : K .sec) (k_upd : K .upd) (k_evq : K .evq) : Kept K b (State.resetAll s rx) := by
  unfold State.resetAll
  repeat' first
    | with_reducible assumption
    | with_reducible apply kept_resetNow
    | with_reducible apply Kept.foldl
    | (intro u x hu; replace hu : Kept K b _ := hu)

theorem kept_pauseAccess (h : Kept K b s) (k_fab : K .fab) : Kept K b (State.pauseAccess s) := by
  unfold State.pauseAccess
  repeat' first
    | with_reducible assumption
    | with_reducible apply kept_modFab
    | with_reducible apply Kept.ite

theorem kept_restoreAccess (h : Kept K b s) (k_regs : K .regs) (k_fab : K .fab) (k_tens : K .tens) (k_evq : K .evq) : Kept K b (State.restoreAccess s) := by
  unfold State.restoreAccess
  repeat' first
    | with_reducible assumption
    | with_reducible refine Kept.mk_tensMap ?_ ?_ (fun _ => rfl)
    | with_reducible apply kept_fkTell
    | with_reducible apply kept_modFab
    | with_reducible apply Kept.ite
    | with_reducible apply Kept.foldl
    | (intro u x hu; replace hu : Kept K b _ := hu)

theorem kept_tenPageReset {n : Nat} (h : Kept K b s) (k_regs : K .regs) (k_fab : K .fab) (k_tens : K .tens) (k_evq : K .evq) : Kept K b (State.tenPageReset s n) := by
  unfold State.tenPageReset
  repeat' first
    | with_reducible assumption
    | with_reducible apply Kept.setReg
    | with_reducible apply kept_tenRunWritten

theorem kept_hTenCmd (k_regs : K .regs) (k_fab : K .fab) (k_tens : K .tens) (k_evq : K .evq) : HKept K hTenCmd := by
  intro s w p o g d b h
  unfold hTenCmd
  repeat' first
    | with_reducible assumption
    | with_reducible apply kept_tenCmd

theorem kept_hTenRun (k_regs : K .regs) (k_fab : K .fab) (k_tens : K .tens) (k_evq : K .evq) : HKept K hTenRun := by
  intro s w p o g d b h
  unfold hTenRun
  repeat' first
    | with_reducible assumption
    | with_reducible apply kept_storeReg
    | with_reducible apply kept_tenRunWritten
    | with_reducible apply Rec.ite
    | with_reducible apply Rec.ok
    | with_reducible apply Rec.error

theorem kept_execTenCmdReset {a : Sys2Proof.Access} {tt : Fin 16} (k_regs : K .regs) (k_fab : K .fab) (k_tens : K .tens) (k_evq : K .evq) : Nxt (Kept K s) (execTenCmdReset a tt s) := by
  have h : Kept K s s := Kept.refl s
  unfold execTenCmdReset
  repeat' first
    | with_reducible assumption
    | with_reducible apply kept_begin_
    | with_reducible apply kept_direct
    | with_reducible apply kept_hTenCmd
    | with_reducible apply Nxt.next

theorem kept_execTenCmdQuarantine {a : Sys2Proof.Access} {tt : Fin 16} (k_regs : K .regs) (k_fab : K .fab) (k_tens : K .tens) (k_evq : K .evq) : Nxt (Kept K s) (execTenCmdQuarantine a tt s) := by
  have h : Kept K s s := Kept.refl s
  unfold execTenCmdQuarantine
  repeat' first
    | with_reducible assumption
    | with_reducible apply kept_begin_
    | with_reducible apply kept_direct
    | with_reducible apply kept_hTenCmd
    | with_reducible apply Nxt.next

theorem kept_execTenCmdRelease {a : Sys2Proof.Access} {tt : Fin 16} (k_regs : K .regs) (k_fab : K .fab) (k_tens : K .tens) (k_evq : K .evq) : Nxt (Kept K s) (execTenCmdRelease a tt s) := by
  have h : Kept K s s := Kept.refl s
  unfold execTenCmdRelease
  repeat' first
    | with_reducible assumption
    | with_reducible apply kept_begin_
    | with_reducible apply kept_direct
    | with_reducible apply kept_hTenCmd
    | with_reducible apply Nxt.next

theorem kept_execTenRunWrite {a : Sys2Proof.Access} {tt : Fin 16} {run : Bool} (k_regs : K .regs) (k_fab : K .fab) (k_tens : K .tens) (k_evq : K .evq) : Nxt (Kept K s) (execTenRunWrite a tt run s) := by
  have h : Kept K s s := Kept.refl s
  unfold execTenRunWrite
  repeat' first
    | with_reducible assumption
    | with_reducible apply kept_begin_
    | with_reducible apply kept_direct
    | with_reducible apply kept_hTenRun
    | with_reducible apply Nxt.next

theorem kept_execSessionLeaseExpire {tt : Fin 16} (k_regs : K .regs) (k_tens : K .tens) (k_evq : K .evq) : Nxt (Kept K s) (execSessionLeaseExpire tt s) := by
  have h : Kept K s s := Kept.refl s
  unfold execSessionLeaseExpire
  repeat' first
    | with_reducible assumption
    | with_reducible apply kept_begin_
    | with_reducible apply kept_leaseExpired
    | with_reducible apply Nxt.next

theorem kept_execQuarantineInterval (k_regs : K .regs) (k_fab : K .fab) (k_tens : K .tens) (k_evq : K .evq) : Nxt (Kept K s) (execQuarantineInterval s) := by
  have h : Kept K s s := Kept.refl s
  unfold execQuarantineInterval
  repeat' first
    | with_reducible assumption
    | with_reducible apply Kept.advance
    | with_reducible apply kept_begin_
    | with_reducible apply kept_permInterval
    | with_reducible apply Kept.ite
    | with_reducible apply Nxt.next

theorem kept_execTenantResetInstant {rx : StopRx} (k_regs : K .regs) (k_fab : K .fab) (k_tens : K .tens) (k_keys : K .keys) (k_feeds : K .feeds) (k_pix : K .pix) (k_scan : K .scan) (k_ser : K .ser) (k_sec : K .sec) (k_upd : K .upd) (k_evq : K .evq) : Nxt (Kept K s) (execTenantResetInstant rx s) := by
  have h : Kept K s s := Kept.refl s
  unfold execTenantResetInstant
  repeat' first
    | with_reducible assumption
    | with_reducible apply kept_begin_
    | with_reducible apply kept_resetAll
    | with_reducible apply Nxt.next

end Sys2Proof.Machine
end

