-- ==== Sys2Proof/Laws/KeptTrim.lean ====
section
/-! SUPPORT. The operations of Machine/Trim.lean keep the queue, the direction of time and the
invariant, and leave every part of the state alone but those they name. -/

namespace Sys2Proof.Machine

variable {K : Part → Prop} {b s t : State}

theorem kept_modTrim {f : TrimSt → TrimSt} (h : Kept K b s) (k_trim : K .trim) : Kept K b (State.modTrim s f) := by
  unfold State.modTrim
  repeat' first
    | with_reducible assumption
    | fail_if_no_progress (with_reducible apply Kept.mk_other <;> first | (with_reducible refine Or.inr ?_; assumption) | with_reducible exact Or.inl rfl | skip)

theorem kept_loadTrim {x : BinVal × Nat × Nat × Nat} (h : Kept K b s) (k_regs : K .regs) (k_trim : K .trim) : Kept K b (State.loadTrim s x) := by
  unfold State.loadTrim
  repeat' first
    | with_reducible assumption
    | with_reducible apply Kept.fs
    | with_reducible apply kept_modTrim

theorem kept_trimBoundary (h : Kept K b s) (k_regs : K .regs) (k_trim : K .trim) : Kept K b (State.trimBoundary s) := by
  unfold State.trimBoundary
  repeat' first
    | with_reducible assumption
    | with_reducible apply kept_loadTrim
    | with_reducible apply Kept.ite
    | split

theorem kept_showDie {tt : Int} (h : Kept K b s) (k_regs : K .regs) : Kept K b (State.showDie s tt) := by
  unfold State.showDie
  repeat' first
    | with_reducible assumption
    | with_reducible apply Kept.fs

theorem kept_trimSample {tt : Int} (h : Kept K b s) (k_regs : K .regs) (k_trim : K .trim) : Kept K b (State.trimSample s tt) := by
  unfold State.trimSample
  repeat' first
    | with_reducible assumption
    | with_reducible apply kept_modTrim
    | with_reducible apply kept_showDie

theorem kept_execSelfTrim (k_regs : K .regs) (k_trim : K .trim) (k_evq : K .evq) : Nxt (Kept K s) (execSelfTrim s) := by
  have h : Kept K s s := Kept.refl s
  unfold execSelfTrim
  repeat' first
    | with_reducible assumption
    | with_reducible apply kept_begin_
    | with_reducible apply Kept.ev
    | with_reducible apply Kept.fs
    | with_reducible apply kept_modTrim
    | with_reducible apply Kept.ite
    | with_reducible apply Nxt.ite
    | with_reducible apply Nxt.next

theorem kept_trimFailed (h : Kept K b s) (k_regs : K .regs) (k_mode : K .mode) (k_fab : K .fab) (k_scan : K .scan) (k_sup : K .sup) (k_trim : K .trim) (k_pow : K .pow) (k_evq : K .evq) : Kept K b (State.trimFailed s) := by
  unfold State.trimFailed
  repeat' first
    | with_reducible assumption
    | with_reducible apply kept_enterDark
    | with_reducible apply Kept.fault
    | with_reducible apply Kept.fs
    | with_reducible apply kept_modTrim
    | (intro x; subst x)
    | lift_lets
    | fail_if_no_progress (with_reducible apply Kept.mk_other <;> first | (with_reducible refine Or.inr ?_; assumption) | with_reducible exact Or.inl rfl | skip)

theorem kept_execTrimResult {m : Option TrimMeas} (k_regs : K .regs) (k_mode : K .mode) (k_fab : K .fab) (k_scan : K .scan) (k_sup : K .sup) (k_trim : K .trim) (k_pow : K .pow) (k_evq : K .evq) : Nxt (Kept K s) (execTrimResult m s) := by
  have h : Kept K s s := Kept.refl s
  unfold execTrimResult
  repeat' first
    | with_reducible assumption
    | with_reducible apply kept_begin_
    | with_reducible apply Kept.ev
    | with_reducible apply Kept.fs
    | with_reducible apply kept_loadTrim
    | with_reducible apply kept_modTrim
    | with_reducible apply kept_showDie
    | with_reducible apply kept_trimFailed
    | with_reducible apply Nxt.ite
    | with_reducible apply Nxt.next
    | lift_lets
    | split

theorem kept_execJournalWrite (k_regs : K .regs) (k_trim : K .trim) : Nxt (Kept K s) (execJournalWrite s) := by
  have h : Kept K s s := Kept.refl s
  unfold execJournalWrite
  repeat' first
    | with_reducible assumption
    | with_reducible apply kept_begin_
    | with_reducible apply Kept.free2
    | with_reducible apply Kept.fs
    | with_reducible apply kept_modTrim
    | with_reducible apply Nxt.ite
    | with_reducible apply Nxt.next
    | (intro x; subst x)
    | lift_lets
    | split

theorem kept_execJournalCommit (k_regs : K .regs) (k_trim : K .trim) (k_evq : K .evq) : Nxt (Kept K s) (execJournalCommit s) := by
  have h : Kept K s s := Kept.refl s
  unfold execJournalCommit
  repeat' first
    | with_reducible assumption
    | with_reducible apply kept_begin_
    | with_reducible apply Kept.ev
    | with_reducible apply Kept.fs
    | with_reducible apply kept_modTrim
    | with_reducible apply Nxt.next
    | (intro x; subst x)
    | lift_lets
    | split

theorem kept_hTrimCmd (k_trim : K .trim) : HKept K hTrimCmd := by
  intro s w p o g d b h
  unfold hTrimCmd
  repeat' first
    | with_reducible assumption
    | with_reducible apply kept_modTrim
    | with_reducible apply Rec.ite
    | with_reducible apply Rec.ok
    | with_reducible apply Rec.error

theorem kept_execForget {a : Sys2Proof.Access} (k_regs : K .regs) (k_tens : K .tens) (k_trim : K .trim) (k_evq : K .evq) : Nxt (Kept K s) (execForget a s) := by
  have h : Kept K s s := Kept.refl s
  unfold execForget
  repeat' first
    | with_reducible assumption
    | with_reducible apply kept_begin_
    | with_reducible apply kept_direct
    | with_reducible apply kept_hTrimCmd
    | with_reducible apply Nxt.next

end Sys2Proof.Machine
end

