-- ==== Sys2Proof/Laws/KeptSecStore.lean ====
section
/-! SUPPORT. The operations of Machine/SecStore.lean keep the queue, the direction of time and the
invariant, and leave every part of the state alone but those they name. -/

namespace Sys2Proof.Machine

variable {K : Part → Prop} {b s t : State}

theorem kept_modSec {f : SecSt → SecSt} (h : Kept K b s) (k_sec : K .sec) : Kept K b (State.modSec s f) := by
  unfold State.modSec
  repeat' first
    | with_reducible assumption
    | fail_if_no_progress (with_reducible apply Kept.mk_other <;> first | (with_reducible refine Or.inr ?_; assumption) | with_reducible exact Or.inl rfl | skip)

theorem kept_showArb {k : Nat} (h : Kept K b s) (k_regs : K .regs) : Kept K b (State.showArb s k) := by
  unfold State.showArb
  repeat' first
    | with_reducible assumption
    | with_reducible apply Kept.fs
    | with_reducible apply Kept.fsk
    | with_reducible apply Kept.ite

theorem kept_arbRaise {k : Nat} {v : Nat} (h : Kept K b s) (k_regs : K .regs) (k_sec : K .sec) : Kept K b (State.arbRaise s k v) := by
  unfold State.arbRaise
  repeat' first
    | with_reducible assumption
    | with_reducible apply kept_modSec
    | with_reducible apply kept_showArb

theorem kept_arbLoad (h : Kept K b s) (k_regs : K .regs) (k_evq : K .evq) : Kept K b (State.arbLoad s) := by
  unfold State.arbLoad
  repeat' first
    | with_reducible assumption
    | with_reducible apply Kept.fault
    | with_reducible apply kept_showArb
    | with_reducible apply Kept.ite
    | with_reducible apply Kept.foldl
    | (intro u x hu; replace hu : Kept K b _ := hu)

theorem kept_showStore (h : Kept K b s) (k_regs : K .regs) : Kept K b (State.showStore s) := by
  unfold State.showStore
  repeat' first
    | with_reducible assumption
    | with_reducible apply Kept.fs
    | with_reducible apply Kept.setReg
    | with_reducible apply kept_showArb
    | with_reducible apply Kept.foldl
    | (intro u x hu; replace hu : Kept K b _ := hu)

theorem kept_storeWrite {raise : Bool} (h : Kept K b s) (k_regs : K .regs) (k_sec : K .sec) : Kept K b (State.storeWrite s raise) := by
  unfold State.storeWrite
  repeat' first
    | with_reducible assumption
    | with_reducible apply kept_arbRaise
    | with_reducible apply Kept.fs
    | with_reducible apply kept_modSec
    | with_reducible apply kept_showStore
    | with_reducible apply Kept.ite

theorem kept_modStore {f : Store → Store} (h : Kept K b s) (k_sec : K .sec) : Kept K b (State.modStore s f) := by
  unfold State.modStore
  repeat' first
    | with_reducible assumption
    | with_reducible apply kept_modSec

theorem kept_slotFill {n : Nat} {role : Nat} {winperm : Nat} {pw : List Nat} {pr : List Nat} {pub : Nat} (h : Kept K b s) (k_regs : K .regs) (k_fab : K .fab) (k_evq : K .evq) : Kept K b (State.slotFill s n role winperm pw pr pub) := by
  unfold State.slotFill
  repeat' first
    | with_reducible assumption
    | with_reducible apply Kept.fsi
    | with_reducible apply Kept.fsk
    | with_reducible apply kept_runAct
    | with_reducible apply kept_setTst
    | with_reducible apply Kept.foldl
    | (intro u x hu; replace hu : Kept K b _ := hu)

theorem kept_ownerFill {pub : Nat} (h : Kept K b s) (k_regs : K .regs) (k_fab : K .fab) (k_evq : K .evq) : Kept K b (State.ownerFill s pub) := by
  unfold State.ownerFill
  repeat' first
    | with_reducible assumption
    | with_reducible apply kept_slotFill

theorem kept_recFill {n : Nat} {e : Enrol} (h : Kept K b s) (k_regs : K .regs) (k_fab : K .fab) (k_evq : K .evq) : Kept K b (State.recFill s n e) := by
  unfold State.recFill
  repeat' first
    | with_reducible assumption
    | with_reducible apply kept_slotFill

theorem kept_slotEmpty {n : Nat} (h : Kept K b s) (k_regs : K .regs) (k_tens : K .tens) (k_keys : K .keys) (k_sec : K .sec) (k_evq : K .evq) : Kept K b (State.slotEmpty s n) := by
  unfold State.slotEmpty
  repeat' first
    | with_reducible assumption
    | with_reducible apply kept_eraseKeys
    | with_reducible apply Kept.fsi
    | with_reducible apply Kept.fsk
    | with_reducible apply kept_modTen
    | with_reducible apply kept_setTst
    | (with_reducible refine Or.inr ?_; assumption)
    | with_reducible apply Kept.foldl
    | (intro u x hu; replace hu : Kept K b _ := hu)
    | lift_lets
    | (intro y hy; with_reducible exact Ten.qOk_nil)

theorem kept_slotUnenrol {n : Nat} (h : Kept K b s) (k_regs : K .regs) (k_fab : K .fab) (k_tens : K .tens) (k_keys : K .keys) (k_feeds : K .feeds) (k_pix : K .pix) (k_scan : K .scan) (k_ser : K .ser) (k_sec : K .sec) (k_upd : K .upd) (k_evq : K .evq) : Kept K b (State.slotUnenrol s n) := by
  unfold State.slotUnenrol
  repeat' first
    | with_reducible assumption
    | with_reducible apply Kept.ev
    | with_reducible apply kept_resetNow
    | with_reducible apply kept_slotEmpty
    | with_reducible apply Kept.ite

theorem kept_storeLoad (h : Kept K b s) (k_regs : K .regs) (k_fab : K .fab) (k_sec : K .sec) (k_evq : K .evq) : Kept K b (State.storeLoad s) := by
  unfold State.storeLoad
  repeat' first
    | with_reducible assumption
    | with_reducible apply kept_arbRaise
    | with_reducible apply Kept.fault
    | with_reducible apply Kept.fs
    | with_reducible apply kept_modStore
    | with_reducible apply kept_ownerFill
    | with_reducible apply kept_recFill
    | with_reducible apply kept_showStore
    | with_reducible apply Kept.ite
    | with_reducible apply Kept.foldl
    | (intro u x hu; replace hu : Kept K b _ := hu)
    | (intro x; subst x)
    | lift_lets
    | split

theorem kept_showKeys {n : Nat} (h : Kept K b s) (k_regs : K .regs) : Kept K b (State.showKeys s n) := by
  unfold State.showKeys
  repeat' first
    | with_reducible assumption
    | with_reducible apply Kept.fsk
    | with_reducible apply Kept.setReg
    | with_reducible apply Kept.ite

theorem kept_modKey {n : Nat} {k : Nat} {f : KeySlot → KeySlot} (h : Kept K b s) (k_regs : K .regs) (k_keys : K .keys) : Kept K b (State.modKey s n k f) := by
  unfold State.modKey
  repeat' first
    | with_reducible assumption
    | with_reducible apply kept_showKeys
    | lift_lets
    | fail_if_no_progress (with_reducible apply Kept.mk_other <;> first | (with_reducible refine Or.inr ?_; assumption) | with_reducible exact Or.inl rfl | skip)

theorem kept_keySet {n : Nat} {kind : Nat} {gen : Nat} {act : Nat} {key : Nat} (h : Kept K b s) (k_regs : K .regs) (k_keys : K .keys) : Kept K b (State.keySet s n kind gen act key) := by
  unfold State.keySet
  repeat' first
    | with_reducible assumption
    | with_reducible apply kept_modKey
    | with_reducible apply Kept.ite

theorem kept_keysCycle (h : Kept K b s) (k_regs : K .regs) (k_keys : K .keys) (k_evq : K .evq) : Kept K b (State.keysCycle s) := by
  unfold State.keysCycle
  repeat' first
    | with_reducible assumption
    | with_reducible apply Kept.ev
    | with_reducible apply kept_modKey
    | with_reducible apply Kept.ite
    | with_reducible apply Kept.foldl
    | (intro u x hu; replace hu : Kept K b _ := hu)
    | (intro x; subst x)
    | lift_lets
    | split

theorem kept_otpLoad (h : Kept K b s) (k_regs : K .regs) : Kept K b (State.otpLoad s) := by
  unfold State.otpLoad
  repeat' first
    | with_reducible assumption
    | with_reducible apply Kept.fs
    | with_reducible apply Kept.setReg

end Sys2Proof.Machine
end

