-- ==== Sys2Proof/Laws/KeptSecurity.lean ====
section
/-! SUPPORT. The operations of Machine/Security.lean keep the queue, the direction of time and the
invariant, and leave every part of the state alone but those they name. -/

namespace Sys2Proof.Machine

variable {K : Part → Prop} {b s t : State}

theorem kept_ctrTake {o : Obj} (h : Kept K b s) (k_regs : K .regs) (k_sec : K .sec) : Kept K b (State.ctrTake s o) := by
  unfold State.ctrTake
  repeat' first
    | with_reducible assumption
    | with_reducible apply Kept.fs
    | with_reducible apply kept_modSec
    | with_reducible apply kept_modStore
    | split

theorem kept_objArrive {o : Obj} (h : Kept K b s) (k_regs : K .regs) (k_tens : K .tens) (k_sec : K .sec) : Kept K b (State.objArrive s o).1 := by
  unfold State.objArrive
  repeat' first
    | with_reducible assumption
    | with_reducible apply kept_ctrTake
    | with_reducible apply Kept.inc
    | with_reducible apply kept_modSec
    | with_reducible apply kept_orderReset
    | with_reducible apply Kept.ite
    | with_reducible apply Kept.iteFst
    | (intro x; subst x)
    | lift_lets
    | split

theorem kept_objArrive_eq {o : Obj} {y : Rc} (e : State.objArrive s o = (t, y)) (h : Kept K b s) (k_regs : K .regs) (k_tens : K .tens) (k_sec : K .sec) : Kept K b t := fst_of_eq (kept_objArrive h k_regs k_tens k_sec) e

theorem kept_transferDone (h : Kept K b s) (k_regs : K .regs) (k_fab : K .fab) (k_tens : K .tens) (k_keys : K .keys) (k_feeds : K .feeds) (k_pix : K .pix) (k_scan : K .scan) (k_ser : K .ser) (k_sec : K .sec) (k_upd : K .upd) (k_evq : K .evq) : Kept K b (State.transferDone s) := by
  unfold State.transferDone
  repeat' first
    | with_reducible assumption
    | with_reducible apply kept_eraseKeys
    | with_reducible apply Kept.fsi
    | with_reducible apply kept_modSec
    | with_reducible apply kept_modStore
    | with_reducible apply kept_modTen
    | with_reducible apply kept_orderReset
    | with_reducible apply kept_setTst
    | with_reducible apply kept_slotUnenrol
    | (with_reducible refine Or.inr ?_; assumption)
    | with_reducible apply Kept.ite
    | with_reducible apply Kept.foldl
    | (intro u x hu; replace hu : Kept K b _ := hu)
    | lift_lets
    | (intro y hy; with_reducible exact Ten.qOk_mk hy)

theorem kept_voucherApply {pub : Nat} (h : Kept K b s) (k_regs : K .regs) (k_fab : K .fab) (k_tens : K .tens) (k_keys : K .keys) (k_feeds : K .feeds) (k_pix : K .pix) (k_scan : K .scan) (k_ser : K .ser) (k_sec : K .sec) (k_upd : K .upd) (k_evq : K .evq) : Kept K b (State.voucherApply s pub) := by
  unfold State.voucherApply
  repeat' first
    | with_reducible assumption
    | with_reducible apply Kept.ev
    | with_reducible apply kept_modStore
    | with_reducible apply kept_ownerFill
    | with_reducible apply kept_storeWrite
    | with_reducible apply kept_transferDone
    | with_reducible apply Kept.ite

theorem kept_transferApply {next : Nat} (h : Kept K b s) (k_regs : K .regs) (k_fab : K .fab) (k_tens : K .tens) (k_keys : K .keys) (k_feeds : K .feeds) (k_pix : K .pix) (k_scan : K .scan) (k_ser : K .ser) (k_sec : K .sec) (k_upd : K .upd) (k_evq : K .evq) : Kept K b (State.transferApply s next) := by
  unfold State.transferApply
  repeat' first
    | with_reducible assumption
    | with_reducible apply kept_modSec
    | with_reducible apply kept_modStore
    | with_reducible apply kept_slotEmpty
    | with_reducible apply kept_storeWrite
    | with_reducible apply kept_transferDone
    | with_reducible apply Kept.ite

theorem kept_wrapsGone {n : Nat} (h : Kept K b s) (k_sec : K .sec) : Kept K b (State.wrapsGone s n) := by
  unfold State.wrapsGone
  repeat' first
    | with_reducible assumption
    | with_reducible apply kept_modSec

theorem kept_unenrolApply {n : Nat} (h : Kept K b s) (k_regs : K .regs) (k_fab : K .fab) (k_tens : K .tens) (k_keys : K .keys) (k_feeds : K .feeds) (k_pix : K .pix) (k_scan : K .scan) (k_ser : K .ser) (k_sec : K .sec) (k_upd : K .upd) (k_evq : K .evq) : Kept K b (State.unenrolApply s n) := by
  unfold State.unenrolApply
  repeat' first
    | with_reducible assumption
    | with_reducible apply kept_modStore
    | with_reducible apply kept_slotUnenrol
    | with_reducible apply kept_storeWrite
    | with_reducible apply kept_wrapsGone

theorem kept_enrolApply {n : Nat} {e : Enrol} (h : Kept K b s) (k_regs : K .regs) (k_fab : K .fab) (k_tens : K .tens) (k_keys : K .keys) (k_feeds : K .feeds) (k_pix : K .pix) (k_scan : K .scan) (k_ser : K .ser) (k_sec : K .sec) (k_upd : K .upd) (k_evq : K .evq) : Kept K b (State.enrolApply s n e) := by
  unfold State.enrolApply
  repeat' first
    | with_reducible assumption
    | with_reducible apply Kept.ev
    | with_reducible apply kept_modStore
    | with_reducible apply kept_recFill
    | with_reducible apply kept_slotUnenrol
    | with_reducible apply kept_storeWrite
    | with_reducible apply kept_wrapsGone

theorem kept_debugApply {scope : Nat} (h : Kept K b s) (k_regs : K .regs) (k_keys : K .keys) (k_sec : K .sec) (k_evq : K .evq) : Kept K b (State.debugApply s scope) := by
  unfold State.debugApply
  repeat' first
    | with_reducible assumption
    | with_reducible apply kept_eraseKeys
    | with_reducible apply Kept.ev
    | with_reducible apply Kept.fs
    | with_reducible apply kept_modSec
    | with_reducible apply Kept.ite
    | with_reducible apply Kept.foldl
    | (intro u x hu; replace hu : Kept K b _ := hu)

theorem kept_policyApply {flags : Nat} {minsvn : List Nat} (h : Kept K b s) (k_regs : K .regs) (k_sec : K .sec) (k_evq : K .evq) : Kept K b (State.policyApply s flags minsvn) := by
  unfold State.policyApply
  repeat' first
    | with_reducible assumption
    | with_reducible apply Kept.ev
    | with_reducible apply kept_modStore
    | with_reducible apply kept_storeWrite

theorem kept_otpApply {bb : List Nat} (h : Kept K b s) (k_regs : K .regs) (k_sec : K .sec) (k_evq : K .evq) : Kept K b (State.otpApply s bb) := by
  unfold State.otpApply
  repeat' first
    | with_reducible assumption
    | with_reducible apply Kept.ev
    | with_reducible apply Kept.fs
    | with_reducible apply kept_modSec
    | with_reducible apply kept_storeWrite

theorem kept_objApply {o : Obj} (h : Kept K b s) (k_regs : K .regs) (k_fab : K .fab) (k_tens : K .tens) (k_keys : K .keys) (k_feeds : K .feeds) (k_pix : K .pix) (k_scan : K .scan) (k_ser : K .ser) (k_sec : K .sec) (k_upd : K .upd) (k_evq : K .evq) : Kept K b (State.objApply s o) := by
  unfold State.objApply
  repeat' first
    | with_reducible assumption
    | with_reducible apply kept_debugApply
    | with_reducible apply kept_enrolApply
    | with_reducible apply kept_keySet
    | with_reducible apply kept_otpApply
    | with_reducible apply kept_policyApply
    | with_reducible apply kept_transferApply
    | with_reducible apply kept_unenrolApply
    | with_reducible apply kept_voucherApply
    | (intro x; subst x)
    | lift_lets
    | split

theorem kept_objTake {typ : Nat} (h : Kept K b s) (k_regs : K .regs) (k_fab : K .fab) (k_tens : K .tens) (k_keys : K .keys) (k_feeds : K .feeds) (k_pix : K .pix) (k_scan : K .scan) (k_ser : K .ser) (k_sec : K .sec) (k_upd : K .upd) (k_evq : K .evq) : Kept K b (State.objTake s typ) := by
  unfold State.objTake
  repeat' first
    | with_reducible assumption
    | with_reducible apply kept_modSec
    | with_reducible apply kept_objApply
    | split

theorem kept_objBoundary (h : Kept K b s) (k_regs : K .regs) (k_fab : K .fab) (k_tens : K .tens) (k_keys : K .keys) (k_feeds : K .feeds) (k_pix : K .pix) (k_scan : K .scan) (k_ser : K .ser) (k_sec : K .sec) (k_upd : K .upd) (k_evq : K .evq) : Kept K b (State.objBoundary s) := by
  unfold State.objBoundary
  repeat' first
    | with_reducible assumption
    | with_reducible apply kept_modSec
    | with_reducible apply kept_objApply
    | with_reducible apply Kept.foldl
    | (intro u x hu; replace hu : Kept K b _ := hu)

theorem kept_freeBytes {n : Nat} (h : Kept K b s) : Kept K b (State.freeBytes s n).2 := by
  unfold State.freeBytes
  repeat' first
    | with_reducible assumption
    | with_reducible apply Kept.freeAdd

theorem kept_freeBytes_eq {n : Nat} {y : List Nat} (e : State.freeBytes s n = (y, t)) (h : Kept K b s) : Kept K b t := snd_of_eq (kept_freeBytes h) e

theorem kept_sessSend {p : Nat} {f : Frame} {code : Nat} {detail : Nat} {bb : List Nat} (h : Kept K b s) (k_regs : K .regs) (k_lnk : K .lnk) : Kept K b (State.sessSend s p f code detail bb) := by
  unfold State.sessSend
  repeat' first
    | with_reducible assumption
    | with_reducible apply kept_sendUp

theorem kept_sessAnswer {f : Frame} {q : SessBody} {code : Nat} {detail : Nat} {bb : List Nat} (h : Kept K b s) (k_regs : K .regs) (k_lnk : K .lnk) (k_sec : K .sec) : Kept K b (State.sessAnswer s f q code detail bb) := by
  unfold State.sessAnswer
  repeat' first
    | with_reducible assumption
    | with_reducible apply kept_modSec
    | with_reducible apply kept_sessSend

theorem kept_establish {f : Frame} {sctr : Nat} {signer : Nat} {mkey : Nat} (h : Kept K b s) (k_regs : K .regs) (k_tens : K .tens) (k_lnk : K .lnk) (k_keys : K .keys) (k_sec : K .sec) (k_evq : K .evq) : Kept K b (State.establish s f sctr signer mkey) := by
  unfold State.establish
  repeat' first
    | with_reducible assumption
    | with_reducible apply kept_authFail
    | with_reducible apply kept_freeBytes
    | with_reducible apply Kept.fsk
    | with_reducible apply kept_sessAnswer
    | with_reducible apply kept_showKeys
    | with_reducible apply kept_startSession
    | with_reducible apply Kept.ite
    | (intro x; subst x)
    | lift_lets
    | fail_if_no_progress (with_reducible apply Kept.mk_other <;> first | (with_reducible refine Or.inr ?_; assumption) | with_reducible exact Or.inl rfl | skip)
    | split

theorem kept_certAnswer {f : Frame} (h : Kept K b s) (k_regs : K .regs) (k_lnk : K .lnk) (k_sec : K .sec) : Kept K b (State.certAnswer s f) := by
  unfold State.certAnswer
  repeat' first
    | with_reducible assumption
    | with_reducible apply kept_sessAnswer

theorem kept_attestAsk {f : Frame} {nonce : List Word} (h : Kept K b s) (k_regs : K .regs) (k_lnk : K .lnk) (k_sec : K .sec) : Kept K b (State.attestAsk s f nonce) := by
  unfold State.attestAsk
  repeat' first
    | with_reducible assumption
    | with_reducible apply kept_modSec
    | with_reducible apply kept_sessAnswer
    | with_reducible apply Kept.ite

theorem kept_objectAsk {f : Frame} {o : Obj} (h : Kept K b s) (k_regs : K .regs) (k_tens : K .tens) (k_lnk : K .lnk) (k_sec : K .sec) : Kept K b (State.objectAsk s f o) := by
  unfold State.objectAsk
  repeat' first
    | with_reducible assumption
    | with_reducible apply kept_objArrive
    | with_reducible apply kept_sessAnswer

theorem kept_session {f : Frame} {q : SessBody} (h : Kept K b s) (k_regs : K .regs) (k_tens : K .tens) (k_lnk : K .lnk) (k_keys : K .keys) (k_sec : K .sec) (k_evq : K .evq) : Kept K b (State.session s f q) := by
  unfold State.session
  repeat' first
    | with_reducible assumption
    | with_reducible apply kept_attestAsk
    | with_reducible apply kept_certAnswer
    | with_reducible apply kept_establish
    | with_reducible apply Kept.ev
    | with_reducible apply Kept.inc
    | with_reducible apply kept_modSec
    | with_reducible apply kept_objectAsk
    | with_reducible apply kept_rxDown
    | with_reducible apply kept_sessSend
    | with_reducible apply Kept.ite
    | (intro x; subst x)
    | lift_lets
    | split

theorem kept_putAtt {bank : Nat} {bb : List Nat} (h : Kept K b s) (k_regs : K .regs) : Kept K b (State.putAtt s bank bb) := by
  unfold State.putAtt
  repeat' first
    | with_reducible assumption
    | (intro x; subst x)
    | lift_lets
    | with_reducible refine Kept.mk_regs ?_ ?_ (cwf_foldl fun _ _ hm => cwf_rput _ _ _ _ hm)

theorem kept_attState {bank : Nat} {len : Nat} {ready : Nat} {busy : Nat} {code : Nat} (h : Kept K b s) (k_regs : K .regs) : Kept K b (State.attState s bank len ready busy code) := by
  unfold State.attState
  repeat' first
    | with_reducible assumption
    | with_reducible apply Kept.fsb

theorem kept_attReady (h : Kept K b s) (k_regs : K .regs) (k_lnk : K .lnk) (k_sec : K .sec) : Kept K b (State.attReady s) := by
  unfold State.attReady
  repeat' first
    | with_reducible assumption
    | with_reducible apply kept_attState
    | with_reducible apply kept_modSec
    | with_reducible apply kept_putAtt
    | with_reducible apply kept_sessAnswer
    | with_reducible apply kept_freeBytes_eq (by assumption)
    | lift_lets
    | split
    | dsimp only

theorem kept_hAttCmd (k_regs : K .regs) (k_sec : K .sec) : HKept K hAttCmd := by
  intro s w p o g d b h
  unfold hAttCmd
  repeat' first
    | with_reducible assumption
    | with_reducible apply kept_attState
    | with_reducible apply kept_modSec
    | with_reducible apply kept_putAtt
    | with_reducible apply Rec.ite
    | with_reducible apply Rec.ok
    | with_reducible apply Rec.error

theorem kept_osecRes {c : Rc} (h : Kept K b s) (k_regs : K .regs) : Kept K b (State.osecRes s c) := by
  unfold State.osecRes
  repeat' first
    | with_reducible assumption
    | with_reducible apply Kept.fs

theorem kept_raiseAll (h : Kept K b s) (k_regs : K .regs) (k_sec : K .sec) (k_evq : K .evq) : Kept K b (State.raiseAll s) := by
  unfold State.raiseAll
  repeat' first
    | with_reducible assumption
    | with_reducible apply kept_arbRaise
    | with_reducible apply Kept.ev
    | with_reducible apply kept_osecRes
    | with_reducible apply Kept.ite
    | with_reducible apply Kept.foldl
    | (intro u x hu; replace hu : Kept K b _ := hu)

theorem kept_challenge (h : Kept K b s) (k_regs : K .regs) (k_sec : K .sec) : Kept K b (State.challenge s) := by
  unfold State.challenge
  repeat' first
    | with_reducible assumption
    | with_reducible apply Kept.free2
    | with_reducible apply Kept.fs
    | with_reducible apply Kept.fsk
    | with_reducible apply kept_modSec
    | with_reducible apply kept_osecRes
    | with_reducible apply Kept.foldl
    | (intro u x hu; replace hu : Kept K b _ := hu)

theorem kept_hOsecCmd {o : Obj} (k_regs : K .regs) (k_tens : K .tens) (k_sec : K .sec) (k_evq : K .evq) : HKept K (hOsecCmd o) := by
  intro s w p o g d b h
  unfold hOsecCmd
  repeat' first
    | with_reducible assumption
    | with_reducible apply kept_challenge
    | with_reducible apply kept_objArrive
    | with_reducible apply kept_osecRes
    | with_reducible apply kept_raiseAll
    | with_reducible apply Rec.ite
    | with_reducible apply Rec.ok
    | with_reducible apply Rec.error
    | (intro x; subst x)
    | lift_lets
    | split

theorem kept_osecCmd {a : Sys2Proof.Access} {data : Nat} {o : Obj} (h : Kept K b s) (k_regs : K .regs) (k_tens : K .tens) (k_sec : K .sec) (k_evq : K .evq) : Kept K b (osecCmd s a data o) := by
  unfold osecCmd
  repeat' first
    | with_reducible assumption
    | with_reducible apply kept_begin_
    | with_reducible apply kept_direct
    | with_reducible apply kept_hOsecCmd

theorem kept_execEstablish {f : Frame} {sctr : Nat} {signer : Nat} {mkey : Nat} (k_regs : K .regs) (k_tens : K .tens) (k_lnk : K .lnk) (k_keys : K .keys) (k_sec : K .sec) (k_evq : K .evq) : Nxt (Kept K s) (execEstablish f sctr signer mkey s) := by
  have h : Kept K s s := Kept.refl s
  unfold execEstablish
  repeat' first
    | with_reducible assumption
    | with_reducible apply kept_begin_
    | with_reducible apply kept_session
    | with_reducible apply Nxt.next

theorem kept_execObject {f : Frame} {o : Obj} (k_regs : K .regs) (k_tens : K .tens) (k_lnk : K .lnk) (k_keys : K .keys) (k_sec : K .sec) (k_evq : K .evq) : Nxt (Kept K s) (execObject f o s) := by
  have h : Kept K s s := Kept.refl s
  unfold execObject
  repeat' first
    | with_reducible assumption
    | with_reducible apply kept_begin_
    | with_reducible apply kept_session
    | with_reducible apply Nxt.next

theorem kept_execSubmit {a : Sys2Proof.Access} {data : Word} {o : Obj} (k_regs : K .regs) (k_tens : K .tens) (k_sec : K .sec) (k_evq : K .evq) : Nxt (Kept K s) (execSubmit a data o s) := by
  have h : Kept K s s := Kept.refl s
  unfold execSubmit
  repeat' first
    | with_reducible assumption
    | with_reducible apply kept_osecCmd
    | with_reducible apply Nxt.next

theorem kept_execVoucher (k_regs : K .regs) (k_fab : K .fab) (k_tens : K .tens) (k_keys : K .keys) (k_feeds : K .feeds) (k_pix : K .pix) (k_scan : K .scan) (k_ser : K .ser) (k_sec : K .sec) (k_upd : K .upd) (k_evq : K .evq) : Nxt (Kept K s) (execVoucher s) := by
  have h : Kept K s s := Kept.refl s
  unfold execVoucher
  repeat' first
    | with_reducible assumption
    | with_reducible apply kept_begin_
    | with_reducible apply kept_objTake
    | with_reducible apply Nxt.next

theorem kept_execTransfer (k_regs : K .regs) (k_fab : K .fab) (k_tens : K .tens) (k_keys : K .keys) (k_feeds : K .feeds) (k_pix : K .pix) (k_scan : K .scan) (k_ser : K .ser) (k_sec : K .sec) (k_upd : K .upd) (k_evq : K .evq) : Nxt (Kept K s) (execTransfer s) := by
  have h : Kept K s s := Kept.refl s
  unfold execTransfer
  repeat' first
    | with_reducible assumption
    | with_reducible apply kept_begin_
    | with_reducible apply kept_objTake
    | with_reducible apply Nxt.next

theorem kept_execEnrol (k_regs : K .regs) (k_fab : K .fab) (k_tens : K .tens) (k_keys : K .keys) (k_feeds : K .feeds) (k_pix : K .pix) (k_scan : K .scan) (k_ser : K .ser) (k_sec : K .sec) (k_upd : K .upd) (k_evq : K .evq) : Nxt (Kept K s) (execEnrol s) := by
  have h : Kept K s s := Kept.refl s
  unfold execEnrol
  repeat' first
    | with_reducible assumption
    | with_reducible apply kept_begin_
    | with_reducible apply kept_objTake
    | with_reducible apply Nxt.next

theorem kept_execUnenrol (k_regs : K .regs) (k_fab : K .fab) (k_tens : K .tens) (k_keys : K .keys) (k_feeds : K .feeds) (k_pix : K .pix) (k_scan : K .scan) (k_ser : K .ser) (k_sec : K .sec) (k_upd : K .upd) (k_evq : K .evq) : Nxt (Kept K s) (execUnenrol s) := by
  have h : Kept K s s := Kept.refl s
  unfold execUnenrol
  repeat' first
    | with_reducible assumption
    | with_reducible apply kept_begin_
    | with_reducible apply kept_objTake
    | with_reducible apply Nxt.next

theorem kept_execKeywrap (k_regs : K .regs) (k_fab : K .fab) (k_tens : K .tens) (k_keys : K .keys) (k_feeds : K .feeds) (k_pix : K .pix) (k_scan : K .scan) (k_ser : K .ser) (k_sec : K .sec) (k_upd : K .upd) (k_evq : K .evq) : Nxt (Kept K s) (execKeywrap s) := by
  have h : Kept K s s := Kept.refl s
  unfold execKeywrap
  repeat' first
    | with_reducible assumption
    | with_reducible apply kept_begin_
    | with_reducible apply kept_objTake
    | with_reducible apply Nxt.next

theorem kept_execDebug (k_regs : K .regs) (k_fab : K .fab) (k_tens : K .tens) (k_keys : K .keys) (k_feeds : K .feeds) (k_pix : K .pix) (k_scan : K .scan) (k_ser : K .ser) (k_sec : K .sec) (k_upd : K .upd) (k_evq : K .evq) : Nxt (Kept K s) (execDebug s) := by
  have h : Kept K s s := Kept.refl s
  unfold execDebug
  repeat' first
    | with_reducible assumption
    | with_reducible apply kept_begin_
    | with_reducible apply kept_objTake
    | with_reducible apply Nxt.next

theorem kept_execPolicy (k_regs : K .regs) (k_fab : K .fab) (k_tens : K .tens) (k_keys : K .keys) (k_feeds : K .feeds) (k_pix : K .pix) (k_scan : K .scan) (k_ser : K .ser) (k_sec : K .sec) (k_upd : K .upd) (k_evq : K .evq) : Nxt (Kept K s) (execPolicy s) := by
  have h : Kept K s s := Kept.refl s
  unfold execPolicy
  repeat' first
    | with_reducible assumption
    | with_reducible apply kept_begin_
    | with_reducible apply kept_objTake
    | with_reducible apply Nxt.next

theorem kept_execOtpcfg (k_regs : K .regs) (k_fab : K .fab) (k_tens : K .tens) (k_keys : K .keys) (k_feeds : K .feeds) (k_pix : K .pix) (k_scan : K .scan) (k_ser : K .ser) (k_sec : K .sec) (k_upd : K .upd) (k_evq : K .evq) : Nxt (Kept K s) (execOtpcfg s) := by
  have h : Kept K s s := Kept.refl s
  unfold execOtpcfg
  repeat' first
    | with_reducible assumption
    | with_reducible apply kept_begin_
    | with_reducible apply kept_objTake
    | with_reducible apply Nxt.next

theorem kept_execAttest {f : Frame} {nonce : List Word} (k_regs : K .regs) (k_tens : K .tens) (k_lnk : K .lnk) (k_keys : K .keys) (k_sec : K .sec) (k_evq : K .evq) : Nxt (Kept K s) (execAttest f nonce s) := by
  have h : Kept K s s := Kept.refl s
  unfold execAttest
  repeat' first
    | with_reducible assumption
    | with_reducible apply kept_begin_
    | with_reducible apply kept_session
    | with_reducible apply Nxt.next

theorem kept_execCert {f : Frame} (k_regs : K .regs) (k_tens : K .tens) (k_lnk : K .lnk) (k_keys : K .keys) (k_sec : K .sec) (k_evq : K .evq) : Nxt (Kept K s) (execCert f s) := by
  have h : Kept K s s := Kept.refl s
  unfold execCert
  repeat' first
    | with_reducible assumption
    | with_reducible apply kept_begin_
    | with_reducible apply kept_session
    | with_reducible apply Nxt.next

theorem kept_execReport {a : Sys2Proof.Access} (k_regs : K .regs) (k_tens : K .tens) (k_sec : K .sec) (k_evq : K .evq) : Nxt (Kept K s) (execReport a s) := by
  have h : Kept K s s := Kept.refl s
  unfold execReport
  repeat' first
    | with_reducible assumption
    | with_reducible apply kept_begin_
    | with_reducible apply kept_direct
    | with_reducible apply kept_hAttCmd
    | with_reducible apply Nxt.next

theorem kept_execAttCert {a : Sys2Proof.Access} (k_regs : K .regs) (k_tens : K .tens) (k_sec : K .sec) (k_evq : K .evq) : Nxt (Kept K s) (execAttCert a s) := by
  have h : Kept K s s := Kept.refl s
  unfold execAttCert
  repeat' first
    | with_reducible assumption
    | with_reducible apply kept_begin_
    | with_reducible apply kept_direct
    | with_reducible apply kept_hAttCmd
    | with_reducible apply Nxt.next

theorem kept_execAttestationReady (k_regs : K .regs) (k_lnk : K .lnk) (k_sec : K .sec) : Nxt (Kept K s) (execAttestationReady s) := by
  have h : Kept K s s := Kept.refl s
  unfold execAttestationReady
  repeat' first
    | with_reducible assumption
    | with_reducible apply kept_attReady
    | with_reducible apply kept_begin_
    | with_reducible apply Nxt.next

theorem kept_execDbgchal {a : Sys2Proof.Access} (k_regs : K .regs) (k_tens : K .tens) (k_sec : K .sec) (k_evq : K .evq) : Nxt (Kept K s) (execDbgchal a s) := by
  have h : Kept K s s := Kept.refl s
  unfold execDbgchal
  repeat' first
    | with_reducible assumption
    | with_reducible apply kept_osecCmd
    | with_reducible apply Nxt.next

theorem kept_execRaise {a : Sys2Proof.Access} (k_regs : K .regs) (k_tens : K .tens) (k_sec : K .sec) (k_evq : K .evq) : Nxt (Kept K s) (execRaise a s) := by
  have h : Kept K s s := Kept.refl s
  unfold execRaise
  repeat' first
    | with_reducible assumption
    | with_reducible apply kept_osecCmd
    | with_reducible apply Nxt.next

theorem kept_execChallengeExpire (k_regs : K .regs) : Nxt (Kept K s) (execChallengeExpire s) := by
  have h : Kept K s s := Kept.refl s
  unfold execChallengeExpire
  repeat' first
    | with_reducible assumption
    | with_reducible apply Kept.advance
    | with_reducible apply kept_begin_
    | with_reducible apply Kept.fs
    | with_reducible apply Kept.ite
    | with_reducible apply Nxt.next

end Sys2Proof.Machine
end

