-- ==== Sys2Proof/Laws/KeptPatt.lean ====
section
/-! SUPPORT. The operations of Machine/Patt.lean keep the queue, the direction of time and the
invariant, and leave every part of the state alone but those they name. -/

namespace Sys2Proof.Machine

variable {K : Part → Prop} {b s t : State}

theorem kept_modPatt {e : Nat} {f : Patt → Patt} (h : Kept K b s) (k_patts : K .patts) : Kept K b (State.modPatt s e f) := by
  unfold State.modPatt
  repeat' first
    | with_reducible assumption
    | fail_if_no_progress (with_reducible apply Kept.mk_other <;> first | (with_reducible refine Or.inr ?_; assumption) | with_reducible exact Or.inl rfl | skip)

theorem kept_takeClips {e : Nat} {bb : Nat} (h : Kept K b s) (k_patts : K .patts) : Kept K b (State.takeClips s e bb) := by
  unfold State.takeClips
  repeat' first
    | with_reducible assumption
    | with_reducible apply kept_modPatt

theorem kept_pattRender {e : Nat} {d : Nat} (h : Kept K b s) (k_regs : K .regs) (k_patts : K .patts) : Kept K b (State.pattRender s e d) := by
  unfold State.pattRender
  repeat' first
    | with_reducible assumption
    | with_reducible apply Kept.fsi
    | with_reducible apply kept_modPatt
    | with_reducible apply kept_takeClips
    | with_reducible apply Kept.ite

theorem kept_pattStart {e : Nat} (h : Kept K b s) (k_regs : K .regs) (k_patts : K .patts) : Kept K b (State.pattStart s e) := by
  unfold State.pattStart
  repeat' first
    | with_reducible assumption
    | with_reducible apply Kept.fsi
    | with_reducible apply kept_modPatt
    | with_reducible apply kept_pattRender
    | with_reducible apply kept_takeClips
    | with_reducible apply Kept.ite

theorem kept_pattStop {e : Nat} (h : Kept K b s) (k_regs : K .regs) (k_patts : K .patts) : Kept K b (State.pattStop s e) := by
  unfold State.pattStop
  repeat' first
    | with_reducible assumption
    | with_reducible apply Kept.fsi
    | with_reducible apply kept_modPatt

theorem kept_pattCycle {e : Nat} (h : Kept K b s) (k_regs : K .regs) (k_patts : K .patts) (k_evq : K .evq) : Kept K b (State.pattCycle s e) := by
  unfold State.pattCycle
  repeat' first
    | with_reducible assumption
    | with_reducible apply Kept.fault
    | with_reducible apply Kept.fsi
    | with_reducible apply Kept.inc
    | with_reducible apply kept_modPatt
    | with_reducible apply kept_pattRender
    | with_reducible apply Kept.ite

theorem kept_pattDone {e : Nat} {poison : List (Nat × Nat × Nat)} (h : Kept K b s) (k_regs : K .regs) (k_patts : K .patts) (k_pix : K .pix) : Kept K b (State.pattDone s e poison) := by
  unfold State.pattDone
  repeat' first
    | with_reducible assumption
    | with_reducible apply Kept.fsi
    | with_reducible apply Kept.inc
    | with_reducible apply kept_modPatt
    | with_reducible apply kept_newFrame
    | with_reducible apply Kept.ite
    | with_reducible apply Kept.foldl
    | (intro u x hu; replace hu : Kept K b _ := hu)

theorem kept_execPatternFrameDone {e : Fin 16} {poison : List (Nat × Nat × Nat)} (k_regs : K .regs) (k_patts : K .patts) (k_pix : K .pix) : Nxt (Kept K s) (execPatternFrameDone e poison s) := by
  have h : Kept K s s := Kept.refl s
  unfold execPatternFrameDone
  repeat' first
    | with_reducible assumption
    | with_reducible apply kept_begin_
    | with_reducible apply kept_pattDone
    | with_reducible apply Nxt.next

end Sys2Proof.Machine
end

