-- ==== Sys2Proof/Laws/KeptSupply.lean ====
section
/-! SUPPORT. The operations of Machine/Supply.lean keep the queue, the direction of time and the
invariant, and leave every part of the state alone but those they name. -/

namespace Sys2Proof.Machine

variable {K : Part → Prop} {b s t : State}

theorem kept_modRail {k : Nat} {f : Rail → Rail} (h : Kept K b s) (k_sup : K .sup) : Kept K b (State.modRail s k f) := by
  unfold State.modRail
  repeat' first
    | with_reducible assumption
    | (intro x; subst x)
    | lift_lets
    | fail_if_no_progress (with_reducible apply Kept.mk_other <;> first | (with_reducible refine Or.inr ?_; assumption) | with_reducible exact Or.inl rfl | skip)

theorem kept_modPhase {n : Nat} {f : Phase → Phase} (h : Kept K b s) (k_sup : K .sup) : Kept K b (State.modPhase s n f) := by
  unfold State.modPhase
  repeat' first
    | with_reducible assumption
    | (intro x; subst x)
    | lift_lets
    | fail_if_no_progress (with_reducible apply Kept.mk_other <;> first | (with_reducible refine Or.inr ?_; assumption) | with_reducible exact Or.inl rfl | skip)

theorem kept_showPhase {n : Nat} (h : Kept K b s) (k_regs : K .regs) (k_fab : K .fab) (k_evq : K .evq) : Kept K b (State.showPhase s n) := by
  unfold State.showPhase
  repeat' first
    | with_reducible assumption
    | with_reducible apply Kept.fsi
    | with_reducible apply kept_settle

theorem kept_haltPhase {n : Nat} {st : Nat} (h : Kept K b s) (k_regs : K .regs) (k_fab : K .fab) (k_sup : K .sup) (k_evq : K .evq) : Kept K b (State.haltPhase s n st) := by
  unfold State.haltPhase
  repeat' first
    | with_reducible assumption
    | with_reducible apply kept_modPhase
    | with_reducible apply kept_showPhase

theorem kept_budget {k : Nat} (h : Kept K b s) (k_regs : K .regs) (k_sup : K .sup) (k_evq : K .evq) : Kept K b (State.budget s k) := by
  unfold State.budget
  repeat' first
    | with_reducible assumption
    | with_reducible apply Kept.fault
    | with_reducible apply kept_modRail
    | with_reducible apply Kept.ite

theorem kept_syncPhases (h : Kept K b s) (k_regs : K .regs) (k_fab : K .fab) (k_sup : K .sup) (k_evq : K .evq) : Kept K b (State.syncPhases s) := by
  unfold State.syncPhases
  repeat' first
    | with_reducible assumption
    | with_reducible apply kept_budget
    | with_reducible apply kept_haltPhase
    | with_reducible apply kept_modPhase
    | with_reducible apply kept_showPhase
    | with_reducible apply Kept.ite
    | with_reducible apply Kept.foldl
    | (intro u x hu; replace hu : Kept K b _ := hu)

theorem kept_failPhase {n : Nat} {st : Nat} {bit_ : Nat} {code : Nat} (h : Kept K b s) (k_regs : K .regs) (k_fab : K .fab) (k_sup : K .sup) (k_evq : K .evq) : Kept K b (State.failPhase s n st bit_ code) := by
  unfold State.failPhase
  repeat' first
    | with_reducible assumption
    | with_reducible apply kept_budget
    | with_reducible apply Kept.fault
    | with_reducible apply kept_haltPhase

theorem kept_tripPeriod {n : Nat} (h : Kept K b s) (k_regs : K .regs) (k_fab : K .fab) (k_sup : K .sup) (k_evq : K .evq) : Kept K b (State.tripPeriod s n) := by
  unfold State.tripPeriod
  repeat' first
    | with_reducible assumption
    | with_reducible apply kept_failPhase
    | with_reducible apply Kept.fault
    | with_reducible apply Kept.faultBit
    | with_reducible apply Kept.inc
    | with_reducible apply kept_modPhase
    | with_reducible apply kept_showPhase
    | with_reducible apply Kept.ite

theorem kept_shoot {n : Nat} (h : Kept K b s) (k_regs : K .regs) (k_evq : K .evq) : Kept K b (State.shoot s n) := by
  unfold State.shoot
  repeat' first
    | with_reducible assumption
    | with_reducible apply Kept.fault
    | with_reducible apply Kept.inc

theorem kept_takeShadows {n : Nat} (h : Kept K b s) (k_sup : K .sup) : Kept K b (State.takeShadows s n) := by
  unfold State.takeShadows
  repeat' first
    | with_reducible assumption
    | with_reducible apply kept_modPhase

theorem kept_takeAllLocked (h : Kept K b s) (k_sup : K .sup) : Kept K b (State.takeAllLocked s) := by
  unfold State.takeAllLocked
  repeat' first
    | with_reducible assumption
    | with_reducible apply kept_modPhase
    | with_reducible apply kept_takeShadows
    | with_reducible apply Kept.ite
    | with_reducible apply Kept.foldl
    | (intro u x hu; replace hu : Kept K b _ := hu)

theorem kept_loadAll (h : Kept K b s) (k_regs : K .regs) (k_sup : K .sup) : Kept K b (State.loadAll s) := by
  unfold State.loadAll
  repeat' first
    | with_reducible assumption
    | with_reducible apply Kept.inc
    | with_reducible apply kept_modPhase
    | with_reducible apply Kept.ite
    | with_reducible apply Kept.foldl
    | (intro u x hu; replace hu : Kept K b _ := hu)

theorem kept_loadAllStaged (h : Kept K b s) (k_regs : K .regs) (k_sup : K .sup) : Kept K b (State.loadAllStaged s) := by
  unfold State.loadAllStaged
  repeat' first
    | with_reducible assumption
    | with_reducible apply kept_loadAll
    | with_reducible apply kept_takeAllLocked
    | with_reducible apply Kept.ite

theorem kept_hardStop {safe : Bool} (h : Kept K b s) (k_regs : K .regs) (k_fab : K .fab) (k_sup : K .sup) (k_evq : K .evq) : Kept K b (State.hardStop s safe) := by
  unfold State.hardStop
  repeat' first
    | with_reducible assumption
    | with_reducible apply kept_showPhase
    | with_reducible apply Kept.foldl
    | (intro u x hu; replace hu : Kept K b _ := hu)
    | (intro x; subst x)
    | lift_lets
    | fail_if_no_progress (with_reducible apply Kept.mk_other <;> first | (with_reducible refine Or.inr ?_; assumption) | with_reducible exact Or.inl rfl | skip)

theorem kept_railOff {k : Nat} (h : Kept K b s) (k_regs : K .regs) (k_fab : K .fab) (k_sup : K .sup) (k_evq : K .evq) : Kept K b (State.railOff s k) := by
  unfold State.railOff
  repeat' first
    | with_reducible assumption
    | with_reducible apply kept_haltPhase
    | with_reducible apply kept_modRail
    | with_reducible apply Kept.foldl
    | (intro u x hu; replace hu : Kept K b _ := hu)

theorem kept_ramp {k : Nat} (h : Kept K b s) (k_sup : K .sup) : Kept K b (State.ramp s k) := by
  unfold State.ramp
  repeat' first
    | with_reducible assumption
    | with_reducible apply kept_modRail
    | with_reducible apply Kept.ite

theorem kept_headroomLoop (h : Kept K b s) (k_regs : K .regs) (k_sup : K .sup) : Kept K b (State.headroomLoop s) := by
  unfold State.headroomLoop
  repeat' first
    | with_reducible assumption
    | with_reducible apply Kept.fs
    | with_reducible apply kept_modRail
    | with_reducible apply Kept.ite
    | with_reducible apply Kept.foldl
    | (intro u x hu; replace hu : Kept K b _ := hu)

theorem kept_railSpanEnd {mins : List (Option Nat)} (h : Kept K b s) (k_regs : K .regs) (k_fab : K .fab) (k_sup : K .sup) (k_evq : K .evq) : Kept K b (State.railSpanEnd s mins) := by
  unfold State.railSpanEnd
  repeat' first
    | with_reducible assumption
    | with_reducible apply kept_modRail
    | with_reducible apply Kept.foldl
    | (intro u x hu; replace hu : Kept K b _ := hu)

theorem kept_countEvent {n : Nat} (h : Kept K b s) (k_regs : K .regs) : Kept K b (State.countEvent s n) := by
  unfold State.countEvent
  repeat' first
    | with_reducible assumption
    | with_reducible apply Kept.inc
    | split

theorem kept_deadTimes {n : Nat} {e : PhaseEnv} (h : Kept K b s) (k_sup : K .sup) : Kept K b (State.deadTimes s n e) := by
  unfold State.deadTimes
  repeat' first
    | with_reducible assumption
    | with_reducible apply kept_modPhase
    | with_reducible apply Kept.ite

theorem kept_placeEdges {n : Nat} {z : Nat} {nz : Nat} {held : Bool} {now : Bool} (h : Kept K b s) (k_regs : K .regs) (k_fab : K .fab) (k_sup : K .sup) (k_evq : K .evq) : Kept K b (State.placeEdges s n z nz held now) := by
  unfold State.placeEdges
  repeat' first
    | with_reducible assumption
    | with_reducible apply Kept.inc
    | with_reducible apply kept_modPhase
    | with_reducible apply kept_shoot
    | with_reducible apply kept_tripPeriod
    | with_reducible apply Kept.ite
    | with_reducible apply Kept.foldl
    | (intro u x hu; replace hu : Kept K b _ := hu)

theorem kept_placeEvent {n : Nat} {z : Nat} (h : Kept K b s) (k_regs : K .regs) (k_sup : K .sup) : Kept K b (State.placeEvent s n z) := by
  unfold State.placeEvent
  repeat' first
    | with_reducible assumption
    | with_reducible apply Kept.inc
    | with_reducible apply kept_modPhase
    | with_reducible apply Kept.ite
    | (intro x; subst x)
    | lift_lets
    | split

theorem kept_startPeriod {n : Nat} {z : Nat} {e : PhaseEnv} (h : Kept K b s) (k_regs : K .regs) (k_fab : K .fab) (k_sup : K .sup) (k_evq : K .evq) : Kept K b (State.startPeriod s n z e) := by
  unfold State.startPeriod
  repeat' first
    | with_reducible assumption
    | with_reducible apply kept_deadTimes
    | with_reducible apply kept_modPhase
    | with_reducible apply kept_placeEdges
    | with_reducible apply kept_placeEvent
    | with_reducible apply kept_showPhase
    | with_reducible apply kept_takeShadows
    | with_reducible apply Kept.ite

theorem kept_execPhaseZero {n : Fin 8} {e : PhaseEnv} (k_regs : K .regs) (k_fab : K .fab) (k_sup : K .sup) (k_evq : K .evq) : Nxt (Kept K s) (execPhaseZero n e s) := by
  have h : Kept K s s := Kept.refl s
  unfold execPhaseZero
  repeat' first
    | with_reducible assumption
    | with_reducible apply Kept.advance
    | with_reducible apply kept_begin_
    | with_reducible apply kept_countEvent
    | with_reducible apply kept_failPhase
    | with_reducible apply kept_modPhase
    | with_reducible apply kept_startPeriod
    | with_reducible apply kept_takeShadows
    | with_reducible apply Kept.ite
    | with_reducible apply Nxt.ite
    | with_reducible apply Nxt.next

theorem kept_hLoadAll (k_regs : K .regs) (k_sup : K .sup) : HKept K hLoadAll := by
  intro s w p o g d b h
  unfold hLoadAll
  repeat' first
    | with_reducible assumption
    | with_reducible apply kept_loadAll
    | with_reducible apply Kept.ite
    | with_reducible apply Rec.ok

theorem kept_execLoadAll {a : Sys2Proof.Access} (k_regs : K .regs) (k_tens : K .tens) (k_sup : K .sup) (k_evq : K .evq) : Nxt (Kept K s) (execLoadAll a s) := by
  have h : Kept K s s := Kept.refl s
  unfold execLoadAll
  repeat' first
    | with_reducible assumption
    | with_reducible apply kept_begin_
    | with_reducible apply kept_direct
    | with_reducible apply kept_hLoadAll
    | with_reducible apply Nxt.next

theorem kept_execTrip {n : Fin 8} {cs : CsRead} (k_regs : K .regs) (k_fab : K .fab) (k_sup : K .sup) (k_evq : K .evq) : Nxt (Kept K s) (execTrip n cs s) := by
  have h : Kept K s s := Kept.refl s
  unfold execTrip
  repeat' first
    | with_reducible assumption
    | with_reducible apply Kept.advance
    | with_reducible apply kept_begin_
    | with_reducible apply kept_modPhase
    | with_reducible apply kept_tripPeriod
    | with_reducible apply Nxt.ite
    | with_reducible apply Nxt.next

theorem kept_execFeedbackSample {k : Fin 2} {mv : Nat} (k_regs : K .regs) (k_sup : K .sup) : Nxt (Kept K s) (execFeedbackSample k mv s) := by
  have h : Kept K s s := Kept.refl s
  unfold execFeedbackSample
  repeat' first
    | with_reducible assumption
    | with_reducible apply Kept.advance
    | with_reducible apply kept_begin_
    | with_reducible apply kept_countEvent
    | with_reducible apply Kept.fs
    | with_reducible apply kept_modPhase
    | with_reducible apply kept_modRail
    | with_reducible apply kept_ramp
    | with_reducible apply Kept.ite
    | with_reducible apply Kept.foldl
    | with_reducible apply Nxt.next
    | (intro u x hu; replace hu : Kept K s _ := hu)
    | (intro x; subst x)
    | lift_lets
    | split

theorem kept_railBoundary (h : Kept K b s) (k_regs : K .regs) (k_fab : K .fab) (k_sup : K .sup) (k_evq : K .evq) : Kept K b (State.railBoundary s) := by
  unfold State.railBoundary
  repeat' first
    | with_reducible assumption
    | with_reducible apply kept_modRail
    | with_reducible apply kept_syncPhases
    | with_reducible apply Kept.ite
    | with_reducible apply Kept.foldl
    | (intro u x hu; replace hu : Kept K b _ := hu)
    | split

theorem kept_execRailStart {k : Fin 2} {mv : Nat} (k_sup : K .sup) : Nxt (Kept K s) (execRailStart k mv s) := by
  have h : Kept K s s := Kept.refl s
  unfold execRailStart
  repeat' first
    | with_reducible assumption
    | with_reducible apply kept_begin_
    | with_reducible apply kept_modRail
    | with_reducible apply Kept.ite
    | with_reducible apply Nxt.next

theorem kept_execRailRunning {k : Fin 2} {mv : Nat} (k_regs : K .regs) (k_fab : K .fab) (k_sup : K .sup) (k_evq : K .evq) : Nxt (Kept K s) (execRailRunning k mv s) := by
  have h : Kept K s s := Kept.refl s
  unfold execRailRunning
  repeat' first
    | with_reducible assumption
    | with_reducible apply kept_begin_
    | with_reducible apply Kept.ev
    | with_reducible apply kept_modRail
    | with_reducible apply Nxt.ite
    | with_reducible apply Nxt.next

theorem kept_execStartTimeout {k : Fin 2} (k_regs : K .regs) (k_sup : K .sup) (k_evq : K .evq) : Nxt (Kept K s) (execStartTimeout k s) := by
  have h : Kept K s s := Kept.refl s
  unfold execStartTimeout
  repeat' first
    | with_reducible assumption
    | with_reducible apply Kept.advance
    | with_reducible apply kept_begin_
    | with_reducible apply Kept.fault
    | with_reducible apply kept_modRail
    | with_reducible apply Nxt.ite
    | with_reducible apply Nxt.next

theorem kept_execRailOff {k : Fin 2} {mv : Nat} (k_regs : K .regs) (k_fab : K .fab) (k_sup : K .sup) (k_evq : K .evq) : Nxt (Kept K s) (execRailOff k mv s) := by
  have h : Kept K s s := Kept.refl s
  unfold execRailOff
  repeat' first
    | with_reducible assumption
    | with_reducible apply Kept.advance
    | with_reducible apply kept_begin_
    | with_reducible apply Kept.ev
    | with_reducible apply kept_railOff
    | with_reducible apply Kept.ite
    | with_reducible apply Nxt.ite
    | with_reducible apply Nxt.next

theorem kept_execSfltn (k_regs : K .regs) (k_mode : K .mode) (k_fab : K .fab) (k_scan : K .scan) (k_sup : K .sup) (k_pow : K .pow) (k_evq : K .evq) : Nxt (Kept K s) (execSfltn s) := by
  have h : Kept K s s := Kept.refl s
  unfold execSfltn
  repeat' first
    | with_reducible assumption
    | with_reducible apply kept_begin_
    | with_reducible apply kept_enterDarkFor
    | with_reducible apply Kept.fault
    | with_reducible apply kept_hardStop
    | with_reducible apply Nxt.next
    | (intro x; subst x)
    | lift_lets
    | fail_if_no_progress (with_reducible apply Kept.mk_other <;> first | (with_reducible refine Or.inr ?_; assumption) | with_reducible exact Or.inl rfl | skip)

theorem kept_execSfltnRelease (k_sup : K .sup) : Nxt (Kept K s) (execSfltnRelease s) := by
  have h : Kept K s s := Kept.refl s
  unfold execSfltnRelease
  repeat' first
    | with_reducible assumption
    | with_reducible apply kept_begin_
    | with_reducible apply Nxt.next
    | (intro x; subst x)
    | lift_lets
    | fail_if_no_progress (with_reducible apply Kept.mk_other <;> first | (with_reducible refine Or.inr ?_; assumption) | with_reducible exact Or.inl rfl | skip)

theorem kept_execOverVoltage {k : Fin 2} {fb : Nat} (k_regs : K .regs) (k_mode : K .mode) (k_fab : K .fab) (k_scan : K .scan) (k_sup : K .sup) (k_pow : K .pow) (k_evq : K .evq) : Nxt (Kept K s) (execOverVoltage k fb s) := by
  have h : Kept K s s := Kept.refl s
  unfold execOverVoltage
  repeat' first
    | with_reducible assumption
    | with_reducible apply kept_begin_
    | with_reducible apply kept_enterDarkFor
    | with_reducible apply Kept.fault
    | with_reducible apply kept_hardStop
    | with_reducible apply Nxt.ite
    | with_reducible apply Nxt.next

theorem kept_execUnderVoltage {k : Fin 2} {fb : Nat} (k_regs : K .regs) (k_evq : K .evq) : Nxt (Kept K s) (execUnderVoltage k fb s) := by
  have h : Kept K s s := Kept.refl s
  unfold execUnderVoltage
  repeat' first
    | with_reducible assumption
    | with_reducible apply kept_begin_
    | with_reducible apply Kept.fault
    | with_reducible apply Nxt.ite
    | with_reducible apply Nxt.next

theorem kept_auxStart (h : Kept K b s) (k_sup : K .sup) : Kept K b (State.auxStart s) := by
  unfold State.auxStart
  repeat' first
    | with_reducible assumption
    | (intro x; subst x)
    | lift_lets
    | fail_if_no_progress (with_reducible apply Kept.mk_other <;> first | (with_reducible refine Or.inr ?_; assumption) | with_reducible exact Or.inl rfl | skip)

theorem kept_execAuxPeriod (k_sup : K .sup) : Nxt (Kept K s) (execAuxPeriod s) := by
  have h : Kept K s s := Kept.refl s
  unfold execAuxPeriod
  repeat' first
    | with_reducible assumption
    | with_reducible apply Kept.advance
    | with_reducible apply kept_auxStart
    | with_reducible apply kept_begin_
    | with_reducible apply Kept.ite
    | with_reducible apply Nxt.next

theorem kept_forceGates {n : Nat} {hg : Bool} {lg : Bool} (h : Kept K b s) (k_regs : K .regs) (k_sup : K .sup) (k_evq : K .evq) : Kept K b (State.forceGates s n hg lg) := by
  unfold State.forceGates
  repeat' first
    | with_reducible assumption
    | with_reducible apply kept_modPhase
    | with_reducible apply kept_shoot
    | with_reducible apply Kept.ite

theorem kept_hPhTest (k_regs : K .regs) (k_sup : K .sup) (k_evq : K .evq) : HKept K hPhTest := by
  intro s w p o g d b h
  unfold hPhTest
  repeat' first
    | with_reducible assumption
    | with_reducible apply kept_forceGates
    | with_reducible apply kept_storeReg
    | with_reducible apply Rec.ite
    | with_reducible apply Rec.ok
    | with_reducible apply Rec.error

theorem kept_execPhTest {a : Sys2Proof.Access} {n : Fin 8} {data : Word} (k_regs : K .regs) (k_tens : K .tens) (k_sup : K .sup) (k_evq : K .evq) : Nxt (Kept K s) (execPhTest a n data s) := by
  have h : Kept K s s := Kept.refl s
  unfold execPhTest
  repeat' first
    | with_reducible assumption
    | with_reducible apply kept_begin_
    | with_reducible apply kept_direct
    | with_reducible apply kept_hPhTest
    | with_reducible apply Nxt.next

theorem kept_phaseRunWritten {n : Nat} (h : Kept K b s) (k_regs : K .regs) (k_fab : K .fab) (k_sup : K .sup) (k_evq : K .evq) : Kept K b (State.phaseRunWritten s n) := by
  unfold State.phaseRunWritten
  repeat' first
    | with_reducible assumption
    | with_reducible apply kept_haltPhase
    | with_reducible apply kept_modPhase
    | with_reducible apply kept_syncPhases
    | with_reducible apply Kept.ite

theorem kept_haltSupply (h : Kept K b s) (k_regs : K .regs) (k_fab : K .fab) (k_sup : K .sup) (k_evq : K .evq) : Kept K b (State.haltSupply s) := by
  unfold State.haltSupply
  repeat' first
    | with_reducible assumption
    | with_reducible apply Kept.ev
    | with_reducible apply kept_hardStop
    | (intro x; subst x)
    | lift_lets
    | fail_if_no_progress (with_reducible apply Kept.mk_other <;> first | (with_reducible refine Or.inr ?_; assumption) | with_reducible exact Or.inl rfl | skip)

theorem kept_resumeSupply (h : Kept K b s) (k_regs : K .regs) (k_fab : K .fab) (k_sup : K .sup) (k_evq : K .evq) : Kept K b (State.resumeSupply s) := by
  unfold State.resumeSupply
  repeat' first
    | with_reducible assumption
    | with_reducible apply kept_haltPhase
    | with_reducible apply Kept.ite
    | with_reducible apply Kept.foldl
    | (intro u x hu; replace hu : Kept K b _ := hu)
    | (intro x; subst x)
    | lift_lets
    | fail_if_no_progress (with_reducible apply Kept.mk_other <;> first | (with_reducible refine Or.inr ?_; assumption) | with_reducible exact Or.inl rfl | skip)

end Sys2Proof.Machine
end

