-- ==== Sys2Proof/Laws/KeptTime.lean ====
section
/-! SUPPORT. The operations of Machine/Time.lean keep the queue, the direction of time and the
invariant, and leave every part of the state alone but those they name. -/

namespace Sys2Proof.Machine

variable {K : Part → Prop} {b s t : State}

theorem kept_roundFree {num : Int} {den : Nat} (h : Kept K b s) : Kept K b (State.roundFree s num den).2 := by
  unfold State.roundFree
  repeat' first
    | with_reducible assumption
    | with_reducible apply Kept.free2
    | split

theorem kept_roundFree_eq {num : Int} {den : Nat} {y : Int} (e : State.roundFree s num den = (y, t)) (h : Kept K b s) : Kept K b t := snd_of_eq (kept_roundFree h) e

theorem kept_setGen {v : Nat} (h : Kept K b s) (k_regs : K .regs) (k_tim : K .tim) : Kept K b (State.setGen s v) := by
  unfold State.setGen
  repeat' first
    | with_reducible assumption
    | with_reducible apply Kept.fs
    | with_reducible apply kept_modTim

theorem kept_setWt {v : Nat} (h : Kept K b s) (k_regs : K .regs) : Kept K b (State.setWt s v) := by
  unfold State.setWt
  repeat' first
    | with_reducible assumption
    | with_reducible apply Kept.fs

theorem kept_genCheck (h : Kept K b s) (k_regs : K .regs) (k_tim : K .tim) : Kept K b (State.genCheck s) := by
  unfold State.genCheck
  repeat' first
    | with_reducible assumption
    | with_reducible apply kept_setGen
    | with_reducible apply Kept.ite

theorem kept_setPinEnd {pin : Nat} {e : Nat} (h : Kept K b s) (k_tim : K .tim) : Kept K b (State.setPinEnd s pin e) := by
  unfold State.setPinEnd
  repeat' first
    | with_reducible assumption
    | with_reducible apply kept_modTim

theorem kept_pulse {pin : Nat} {len : Nat} (h : Kept K b s) (k_tim : K .tim) : Kept K b (State.pulse s pin len) := by
  unfold State.pulse
  repeat' first
    | with_reducible assumption
    | with_reducible apply Kept.emit
    | with_reducible apply kept_setPinEnd

theorem kept_pinRest {pin : Nat} (h : Kept K b s) (k_tim : K .tim) : Kept K b (State.pinRest s pin) := by
  unfold State.pinRest
  repeat' first
    | with_reducible assumption
    | with_reducible apply Kept.emit
    | with_reducible apply kept_setPinEnd
    | with_reducible apply Kept.ite

theorem kept_genStop (h : Kept K b s) (k_regs : K .regs) (k_tim : K .tim) (k_scan : K .scan) : Kept K b (State.genStop s) := by
  unfold State.genStop
  repeat' first
    | with_reducible assumption
    | with_reducible apply kept_modTim
    | with_reducible apply kept_pinRest
    | with_reducible apply kept_setGen
    | with_reducible apply kept_showScan
    | (intro x; subst x)
    | lift_lets
    | fail_if_no_progress (with_reducible apply Kept.mk_other <;> first | (with_reducible refine Or.inr ?_; assumption) | with_reducible exact Or.inl rfl | skip)

theorem kept_sourceApplied (h : Kept K b s) (k_regs : K .regs) (k_tim : K .tim) : Kept K b (State.sourceApplied s) := by
  unfold State.sourceApplied
  repeat' first
    | with_reducible assumption
    | with_reducible apply kept_modTim
    | with_reducible apply kept_setGen
    | with_reducible apply Kept.ite

theorem kept_startHold (h : Kept K b s) (k_regs : K .regs) (k_tim : K .tim) : Kept K b (State.startHold s) := by
  unfold State.startHold
  repeat' first
    | with_reducible assumption
    | with_reducible apply kept_modTim
    | with_reducible apply kept_setGen
    | with_reducible apply Kept.ite

theorem kept_ptpHeld {port : Nat} (h : Kept K b s) (k_regs : K .regs) (k_tim : K .tim) (k_evq : K .evq) : Kept K b (State.ptpHeld s port) := by
  unfold State.ptpHeld
  repeat' first
    | with_reducible assumption
    | with_reducible apply Kept.ev
    | with_reducible apply Kept.fault
    | with_reducible apply kept_startHold
    | with_reducible apply Kept.ite

theorem kept_rxPtp {m : PtpMsg} (h : Kept K b s) (k_regs : K .regs) : Kept K b (State.rxPtp s m).1 := by
  unfold State.rxPtp
  repeat' first
    | with_reducible assumption
    | with_reducible apply Kept.advance
    | with_reducible apply Kept.inc
    | with_reducible apply Kept.iteFst

theorem kept_rxPtp_eq {m : PtpMsg} {y : Bool} (e : State.rxPtp s m = (t, y)) (h : Kept K b s) (k_regs : K .regs) : Kept K b t := fst_of_eq (kept_rxPtp h k_regs) e

theorem kept_relayPtp {kind : Nat} {m : PtpMsg} {corr : Bool} (h : Kept K b s) (k_regs : K .regs) : Kept K b (State.relayPtp s kind m corr) := by
  unfold State.relayPtp
  repeat' first
    | with_reducible assumption
    | with_reducible apply Kept.free2
    | with_reducible apply kept_transmit
    | with_reducible apply Kept.ite
    | lift_lets
    | split

theorem kept_foreignPtp {kind : Nat} {m : PtpMsg} (h : Kept K b s) (k_regs : K .regs) : Kept K b (State.foreignPtp s kind m) := by
  unfold State.foreignPtp
  repeat' first
    | with_reducible assumption
    | with_reducible apply Kept.inc
    | with_reducible apply kept_relayPtp
    | with_reducible apply Kept.ite

theorem kept_steer (h : Kept K b s) (k_regs : K .regs) : Kept K b (State.steer s) := by
  unfold State.steer
  repeat' first
    | with_reducible assumption
    | with_reducible apply Kept.free2
    | with_reducible apply Kept.fs

theorem kept_step_ {off : Int} (h : Kept K b s) (k_tim : K .tim) : Kept K b (State.step_ s off) := by
  unfold State.step_
  repeat' first
    | with_reducible assumption
    | with_reducible apply kept_modTim

theorem kept_servoSync {off : Int} (h : Kept K b s) (k_regs : K .regs) (k_tim : K .tim) : Kept K b (State.servoSync s off) := by
  unfold State.servoSync
  repeat' first
    | with_reducible assumption
    | with_reducible apply Kept.fs
    | with_reducible apply Kept.inc
    | with_reducible apply kept_modTim
    | with_reducible apply kept_setWt
    | with_reducible apply kept_steer
    | with_reducible apply kept_step_
    | with_reducible apply Kept.ite
    | (intro x; subst x)
    | lift_lets
    | split

theorem kept_ptpStart (h : Kept K b s) (k_regs : K .regs) (k_tim : K .tim) : Kept K b (State.ptpStart s) := by
  unfold State.ptpStart
  repeat' first
    | with_reducible assumption
    | with_reducible apply Kept.fs
    | with_reducible apply kept_modTim

theorem kept_ptpStop (h : Kept K b s) (k_regs : K .regs) : Kept K b (State.ptpStop s) := by
  unfold State.ptpStop
  repeat' first
    | with_reducible assumption
    | with_reducible apply Kept.fs
    | with_reducible apply kept_setWt

theorem kept_beatHold {n : Nat} {tt : Nat} {resync : Bool} (h : Kept K b s) (k_regs : K .regs) (k_tim : K .tim) (k_evq : K .evq) : Kept K b (State.beatHold s n tt resync) := by
  unfold State.beatHold
  repeat' first
    | with_reducible assumption
    | with_reducible apply Kept.ev
    | with_reducible apply Kept.fs
    | with_reducible apply Kept.inc
    | with_reducible apply kept_modTim
    | with_reducible apply kept_roundFree
    | with_reducible apply Kept.ite

theorem kept_beatTests {f : Frame} {bb : Beat} (h : Kept K b s) (k_regs : K .regs) (k_tim : K .tim) (k_evq : K .evq) : Kept K b (State.beatTests s f bb) := by
  unfold State.beatTests
  repeat' first
    | with_reducible assumption
    | with_reducible apply kept_beatHold
    | with_reducible apply Kept.ev
    | with_reducible apply Kept.fault
    | with_reducible apply Kept.inc
    | with_reducible apply kept_modTim
    | with_reducible apply Kept.ite

theorem kept_startTime {c : CycNext} (h : Kept K b s) (k_regs : K .regs) (k_tim : K .tim) (k_evq : K .evq) : Kept K b (State.startTime s c) := by
  unfold State.startTime
  repeat' first
    | with_reducible assumption
    | with_reducible apply Kept.advance
    | with_reducible apply Kept.ev
    | with_reducible apply Kept.fault
    | with_reducible apply Kept.fs
    | with_reducible apply kept_modTim
    | with_reducible apply kept_setGen
    | with_reducible apply kept_startHold
    | with_reducible apply Kept.ite

theorem kept_cycleOut {w : Option Nat} (h : Kept K b s) (k_tim : K .tim) : Kept K b (State.cycleOut s w) := by
  unfold State.cycleOut
  repeat' first
    | with_reducible assumption
    | with_reducible apply kept_pulse
    | with_reducible apply Kept.ite

theorem kept_execSync {m : PtpMsg} (k_regs : K .regs) (k_tim : K .tim) : Nxt (Kept K s) (execSync m s) := by
  have h : Kept K s s := Kept.refl s
  unfold execSync
  repeat' first
    | with_reducible assumption
    | with_reducible apply kept_begin_
    | with_reducible apply kept_foreignPtp
    | with_reducible apply Kept.fs
    | with_reducible apply Kept.inc
    | with_reducible apply kept_modTim
    | with_reducible apply kept_relayPtp
    | with_reducible apply kept_rxPtp
    | with_reducible apply kept_servoSync
    | with_reducible apply Nxt.ite
    | with_reducible apply Nxt.next

theorem kept_execFollowUp {m : PtpMsg} (k_regs : K .regs) (k_tim : K .tim) : Nxt (Kept K s) (execFollowUp m s) := by
  have h : Kept K s s := Kept.refl s
  unfold execFollowUp
  repeat' first
    | with_reducible assumption
    | with_reducible apply kept_begin_
    | with_reducible apply kept_foreignPtp
    | with_reducible apply kept_modTim
    | with_reducible apply kept_relayPtp
    | with_reducible apply kept_rxPtp
    | with_reducible apply kept_servoSync
    | with_reducible apply Nxt.ite
    | with_reducible apply Nxt.next
    | (intro x; subst x)
    | lift_lets
    | split

theorem kept_execPdelayInterval (k_regs : K .regs) (k_tim : K .tim) : Nxt (Kept K s) (execPdelayInterval s) := by
  have h : Kept K s s := Kept.refl s
  unfold execPdelayInterval
  repeat' first
    | with_reducible assumption
    | with_reducible apply Kept.advance
    | with_reducible apply kept_begin_
    | with_reducible apply Kept.inc
    | with_reducible apply kept_modTim
    | with_reducible apply kept_transmit
    | with_reducible apply Kept.ite
    | with_reducible apply Nxt.ite
    | with_reducible apply Kept.foldl
    | with_reducible apply Nxt.next
    | (intro u x hu; replace hu : Kept K s _ := hu)

theorem kept_execPdelayReq {m : PtpMsg} (k_regs : K .regs) : Nxt (Kept K s) (execPdelayReq m s) := by
  have h : Kept K s s := Kept.refl s
  unfold execPdelayReq
  repeat' first
    | with_reducible assumption
    | with_reducible apply kept_begin_
    | with_reducible apply Kept.free2
    | with_reducible apply kept_rxPtp
    | with_reducible apply kept_transmit
    | with_reducible apply Nxt.ite
    | with_reducible apply Nxt.next

theorem kept_execPdelayResp {m : PtpMsg} {t2 : Nat} {t3 : Nat} (k_regs : K .regs) (k_tim : K .tim) : Nxt (Kept K s) (execPdelayResp m t2 t3 s) := by
  have h : Kept K s s := Kept.refl s
  unfold execPdelayResp
  repeat' first
    | with_reducible assumption
    | with_reducible apply kept_begin_
    | with_reducible apply Kept.fs
    | with_reducible apply Kept.inc
    | with_reducible apply kept_modTim
    | with_reducible apply kept_roundFree
    | with_reducible apply kept_rxPtp
    | with_reducible apply Kept.ite
    | with_reducible apply Nxt.ite
    | with_reducible apply Nxt.next
    | lift_lets
    | split

theorem kept_execAnnounce {m : PtpMsg} (k_regs : K .regs) (k_tim : K .tim) : Nxt (Kept K s) (execAnnounce m s) := by
  have h : Kept K s s := Kept.refl s
  unfold execAnnounce
  repeat' first
    | with_reducible assumption
    | with_reducible apply kept_begin_
    | with_reducible apply kept_foreignPtp
    | with_reducible apply kept_modTim
    | with_reducible apply kept_relayPtp
    | with_reducible apply kept_rxPtp
    | with_reducible apply Kept.ite
    | with_reducible apply Nxt.ite
    | with_reducible apply Nxt.next

theorem kept_execDelayReq {m : PtpMsg} (k_regs : K .regs) : Nxt (Kept K s) (execDelayReq m s) := by
  have h : Kept K s s := Kept.refl s
  unfold execDelayReq
  repeat' first
    | with_reducible assumption
    | with_reducible apply kept_begin_
    | with_reducible apply Kept.inc
    | with_reducible apply kept_rxPtp
    | with_reducible apply Kept.ite
    | with_reducible apply Nxt.next

theorem kept_execSyncTimeout (k_regs : K .regs) (k_tim : K .tim) (k_evq : K .evq) : Nxt (Kept K s) (execSyncTimeout s) := by
  have h : Kept K s s := Kept.refl s
  unfold execSyncTimeout
  repeat' first
    | with_reducible assumption
    | with_reducible apply Kept.advance
    | with_reducible apply kept_begin_
    | with_reducible apply Kept.fs
    | with_reducible apply kept_modTim
    | with_reducible apply kept_ptpHeld
    | with_reducible apply Nxt.ite
    | with_reducible apply Nxt.next

theorem kept_execPtpHoldoverExpire (k_regs : K .regs) : Nxt (Kept K s) (execPtpHoldoverExpire s) := by
  have h : Kept K s s := Kept.refl s
  unfold execPtpHoldoverExpire
  repeat' first
    | with_reducible assumption
    | with_reducible apply Kept.advance
    | with_reducible apply kept_begin_
    | with_reducible apply Kept.fs
    | with_reducible apply kept_setWt
    | with_reducible apply Nxt.ite
    | with_reducible apply Nxt.next

theorem kept_execBeat {f : Frame} {bb : Beat} (k_regs : K .regs) (k_tens : K .tens) (k_tim : K .tim) (k_evq : K .evq) : Nxt (Kept K s) (execBeat f bb s) := by
  have h : Kept K s s := Kept.refl s
  unfold execBeat
  repeat' first
    | with_reducible assumption
    | with_reducible apply kept_authFail
    | with_reducible apply kept_beatTests
    | with_reducible apply kept_begin_
    | with_reducible apply kept_renewSession
    | with_reducible apply kept_rxDown
    | with_reducible apply Nxt.ite
    | with_reducible apply Nxt.next
    | lift_lets
    | split

theorem kept_execHoldoverExpire (k_regs : K .regs) (k_mode : K .mode) (k_fab : K .fab) (k_tim : K .tim) (k_scan : K .scan) (k_sup : K .sup) (k_pow : K .pow) (k_evq : K .evq) : Nxt (Kept K s) (execHoldoverExpire s) := by
  have h : Kept K s s := Kept.refl s
  unfold execHoldoverExpire
  repeat' first
    | with_reducible assumption
    | with_reducible apply Kept.advance
    | with_reducible apply kept_begin_
    | with_reducible apply kept_enterDarkFor
    | with_reducible apply Kept.fault
    | with_reducible apply kept_genCheck
    | with_reducible apply kept_genStop
    | with_reducible apply kept_modTim
    | with_reducible apply kept_setGen
    | with_reducible apply Kept.ite
    | with_reducible apply Nxt.ite
    | with_reducible apply Nxt.next
    | (intro x; subst x)
    | lift_lets
    | split

theorem kept_execPllLoss (k_regs : K .regs) (k_mode : K .mode) (k_fab : K .fab) (k_tim : K .tim) (k_scan : K .scan) (k_sup : K .sup) (k_pow : K .pow) (k_evq : K .evq) : Nxt (Kept K s) (execPllLoss s) := by
  have h : Kept K s s := Kept.refl s
  unfold execPllLoss
  repeat' first
    | with_reducible assumption
    | with_reducible apply kept_begin_
    | with_reducible apply kept_enterDark
    | with_reducible apply Kept.fault
    | with_reducible apply Kept.fs
    | with_reducible apply kept_genStop
    | with_reducible apply kept_hardStop
    | with_reducible apply Nxt.ite
    | with_reducible apply Nxt.next

theorem kept_execPllLock (k_regs : K .regs) (k_tim : K .tim) : Nxt (Kept K s) (execPllLock s) := by
  have h : Kept K s s := Kept.refl s
  unfold execPllLock
  repeat' first
    | with_reducible assumption
    | with_reducible apply kept_begin_
    | with_reducible apply Kept.fs
    | with_reducible apply kept_genCheck
    | with_reducible apply Nxt.next

theorem kept_execPps (k_tim : K .tim) : Nxt (Kept K s) (execPps s) := by
  have h : Kept K s s := Kept.refl s
  unfold execPps
  repeat' first
    | with_reducible assumption
    | with_reducible apply Kept.advance
    | with_reducible apply kept_begin_
    | with_reducible apply kept_pulse
    | with_reducible apply Nxt.ite
    | with_reducible apply Nxt.next

end Sys2Proof.Machine
end

