-- ==== Sys2Proof/Laws/KeptPlan.lean ====
section
/-! SUPPORT. The operations of Machine/Plan.lean keep the queue, the direction of time and the
invariant, and leave every part of the state alone but those they name. -/

namespace Sys2Proof.Machine

variable {K : Part → Prop} {b s t : State}

theorem kept_blendBegin (h : Kept K b s) (k_blend : K .blend) : Kept K b (State.blendBegin s) := by
  unfold State.blendBegin
  repeat' first
    | with_reducible assumption
    | with_reducible apply Kept.ite
    | (intro x; subst x)
    | lift_lets
    | fail_if_no_progress (with_reducible apply Kept.mk_other <;> first | (with_reducible refine Or.inr ?_; assumption) | with_reducible exact Or.inl rfl | skip)

theorem kept_jobStart (h : Kept K b s) (k_pix : K .pix) : Kept K b (State.jobStart s) := by
  unfold State.jobStart
  repeat' first
    | with_reducible assumption
    | with_reducible apply kept_modPix
    | with_reducible apply Kept.ite
    | lift_lets
    | split

theorem kept_retire {e : Nat} (h : Kept K b s) (k_regs : K .regs) (k_evq : K .evq) : Kept K b (State.retire s e) := by
  unfold State.retire
  repeat' first
    | with_reducible assumption
    | with_reducible apply Kept.fault
    | with_reducible apply Kept.fs
    | with_reducible apply Kept.ite

theorem kept_coefDbe {l : Nat} (h : Kept K b s) (k_regs : K .regs) (k_evq : K .evq) : Kept K b (State.coefDbe s l) := by
  unfold State.coefDbe
  repeat' first
    | with_reducible assumption
    | with_reducible apply Kept.fault
    | with_reducible apply Kept.fs

theorem kept_missed {j : JobIn} (h : Kept K b s) (k_regs : K .regs) : Kept K b (State.missed s j).1 := by
  unfold State.missed
  repeat' first
    | with_reducible assumption
    | with_reducible apply Kept.inc
    | split

theorem kept_missed_eq {j : JobIn} {y : Bool} (e : State.missed s j = (t, y)) (h : Kept K b s) (k_regs : K .regs) : Kept K b t := fst_of_eq (kept_missed h k_regs) e

theorem kept_jobLat {tt : Nat} (h : Kept K b s) (k_regs : K .regs) : Kept K b (State.jobLat s tt) := by
  unfold State.jobLat
  repeat' first
    | with_reducible assumption
    | with_reducible apply Kept.fs

theorem kept_jobDone {k : Nat} {r : JobResult} (h : Kept K b s) (k_regs : K .regs) (k_feeds : K .feeds) (k_pix : K .pix) (k_evq : K .evq) : Kept K b (State.jobDone s k r) := by
  unfold State.jobDone
  repeat' first
    | with_reducible assumption
    | with_reducible apply kept_coefDbe
    | with_reducible apply kept_deferHeld
    | with_reducible apply Kept.fault
    | with_reducible apply kept_feedTidyAll
    | with_reducible apply Kept.fs
    | with_reducible apply Kept.inc
    | with_reducible apply kept_jobLat
    | with_reducible apply kept_missed
    | with_reducible apply kept_modPix
    | with_reducible apply kept_releaseFor
    | with_reducible apply kept_retire
    | with_reducible apply Kept.ite
    | with_reducible apply Kept.iteFst
    | with_reducible apply Kept.foldl
    | (intro u x hu; replace hu : Kept K b _ := hu)
    | (intro x; subst x)
    | lift_lets
    | split

theorem kept_openWindow {w : Nat} (h : Kept K b s) (k_regs : K .regs) (k_feeds : K .feeds) (k_pix : K .pix) : Kept K b (State.openWindow s w) := by
  unfold State.openWindow
  repeat' first
    | with_reducible assumption
    | with_reducible apply kept_feedTidyAll
    | with_reducible apply kept_missed
    | with_reducible apply kept_modPix
    | with_reducible apply kept_undefer
    | with_reducible apply Kept.ite
    | lift_lets
    | split

theorem kept_execJobStart (k_pix : K .pix) (k_blend : K .blend) : Nxt (Kept K s) (execJobStart s) := by
  have h : Kept K s s := Kept.refl s
  unfold execJobStart
  repeat' first
    | with_reducible assumption
    | with_reducible apply kept_begin_
    | with_reducible apply kept_blendBegin
    | with_reducible apply kept_jobStart
    | with_reducible apply Nxt.next

end Sys2Proof.Machine
end

