-- ==== Sys2Proof/Laws/KeptMemory.lean ====
section
/-! SUPPORT. The operations of Machine/Memory.lean keep the queue, the direction of time and the
invariant, and leave every part of the state alone but those they name. -/

namespace Sys2Proof.Machine

variable {K : Part → Prop} {b s t : State}

theorem kept_modMem {f : MemSt → MemSt} (h : Kept K b s)
    (hm : ∀ m : MemSt, cwf (fun _ => (0 : Byte)) m.dram = true → cwf (fun _ => (0 : Byte)) (f m).dram = true)
    (kd : (∀ m, (f m).dram = m.dram) ∨ K .dram) (kc : K .memc) : Kept K b (s.modMem f) :=
  h.mk_mem (hm s.mem) (kd.imp_left fun e => e _) kc

theorem kept_showCredits (h : Kept K b s) (k_regs : K .regs) : Kept K b (State.showCredits s) := by
  unfold State.showCredits
  repeat' first
    | with_reducible assumption
    | with_reducible apply Kept.fs

theorem kept_accept {r : DReq} (h : Kept K b s) (k_regs : K .regs) (k_memc : K .memc) : Kept K b (State.accept s r) := by
  unfold State.accept
  repeat' first
    | with_reducible assumption
    | with_reducible apply Kept.inc
    | with_reducible apply kept_modMem
    | with_reducible apply kept_showCredits
    | with_reducible exact or_all fun _ => rfl
    | with_reducible apply Kept.ite
    | lift_lets
    | (intro m hm; with_reducible exact hm)
    | split

theorem kept_acceptWaiting (h : Kept K b s) (k_regs : K .regs) (k_memc : K .memc) : Kept K b (State.acceptWaiting s) := by
  unfold State.acceptWaiting
  repeat' first
    | with_reducible assumption
    | with_reducible apply kept_accept
    | with_reducible apply kept_modMem
    | with_reducible exact or_all fun _ => rfl
    | with_reducible apply Kept.ite
    | with_reducible apply Kept.foldl
    | (intro u x hu; replace hu : Kept K b _ := hu)
    | lift_lets
    | (intro m hm; with_reducible exact hm)

theorem kept_dramRequest {u : DUser} {addr : Nat} {wr : Option (List (Option Byte))} (h : Kept K b s) (k_regs : K .regs) (k_memc : K .memc) : Kept K b (State.dramRequest s u addr wr) := by
  unfold State.dramRequest
  repeat' first
    | with_reducible assumption
    | with_reducible apply kept_accept
    | with_reducible apply Kept.emit
    | with_reducible apply kept_modMem
    | with_reducible exact or_all fun _ => rfl
    | with_reducible apply Kept.ite
    | lift_lets
    | (intro m hm; with_reducible exact hm)

theorem kept_sbeTick (h : Kept K b s) (k_regs : K .regs) (k_evq : K .evq) (k_memc : K .memc) : Kept K b (State.sbeTick s) := by
  unfold State.sbeTick
  repeat' first
    | with_reducible assumption
    | with_reducible apply Kept.ev
    | with_reducible apply kept_modMem
    | with_reducible exact or_all fun _ => rfl
    | with_reducible apply Kept.ite
    | lift_lets
    | (intro m hm; with_reducible exact hm)

theorem kept_setFlips {w : Nat} {l : List Nat} (h : Kept K b s) (k_memc : K .memc) : Kept K b (State.setFlips s w l) := by
  unfold State.setFlips
  repeat' first
    | with_reducible assumption
    | with_reducible apply kept_modMem
    | with_reducible exact or_all fun _ => rfl
    | lift_lets
    | (intro m hm; with_reducible exact hm)

theorem kept_checkWord {w : Nat} {cls : Nat} {wback : Bool} (h : Kept K b s) (k_regs : K .regs) (k_evq : K .evq) (k_memc : K .memc) : Kept K b (State.checkWord s w cls wback).1 := by
  unfold State.checkWord
  repeat' first
    | with_reducible assumption
    | with_reducible apply Kept.fault
    | with_reducible apply Kept.faultBit
    | with_reducible apply Kept.fs
    | with_reducible apply Kept.inc
    | with_reducible apply kept_modMem
    | with_reducible apply kept_setFlips
    | with_reducible exact or_all fun _ => rfl
    | with_reducible apply Kept.ite
    | (intro x; subst x)
    | lift_lets
    | (intro m hm; with_reducible exact hm)
    | split

theorem kept_checkWord_eq {w : Nat} {cls : Nat} {wback : Bool} {y : Bool} (e : State.checkWord s w cls wback = (t, y)) (h : Kept K b s) (k_regs : K .regs) (k_evq : K .evq) (k_memc : K .memc) : Kept K b t := fst_of_eq (kept_checkWord h k_regs k_evq k_memc) e

theorem kept_addFlips {w : Nat} {bits : List Nat} (h : Kept K b s) (k_memc : K .memc) : Kept K b (State.addFlips s w bits) := by
  unfold State.addFlips
  repeat' first
    | with_reducible assumption
    | with_reducible apply kept_setFlips
    | with_reducible apply Kept.ite

theorem kept_putByte {off : Nat} {v : Byte} (h : Kept K b s) (k_dram : K .dram) (k_memc : K .memc) : Kept K b (State.putByte s off v) := by
  unfold State.putByte
  repeat' first
    | with_reducible assumption
    | exact fun m hm => cwf_cput (fun _ => (0 : Byte)) off v hm
    | with_reducible apply kept_modMem
    | (with_reducible refine Or.inr ?_; assumption)

theorem kept_inject {w : Nat} (h : Kept K b s) (k_regs : K .regs) (k_memc : K .memc) : Kept K b (State.inject s w) := by
  unfold State.inject
  repeat' first
    | with_reducible assumption
    | with_reducible apply Kept.free2
    | with_reducible apply Kept.fs
    | with_reducible apply kept_setFlips
    | with_reducible apply Kept.ite

theorem kept_storeWord {r : DReq} {i : Nat} (h : Kept K b s) (k_regs : K .regs) (k_evq : K .evq) (k_dram : K .dram) (k_memc : K .memc) : Kept K b (State.storeWord s r i).1 := by
  unfold State.storeWord
  repeat' first
    | with_reducible assumption
    | with_reducible apply kept_checkWord
    | with_reducible apply kept_inject
    | with_reducible apply kept_putByte
    | with_reducible apply kept_setFlips
    | with_reducible apply Kept.ite
    | with_reducible apply Kept.iteFst
    | with_reducible apply Kept.foldl
    | (intro u x hu; replace hu : Kept K b _ := hu)
    | split

theorem kept_storeWord_eq {r : DReq} {i : Nat} {y : Bool} (e : State.storeWord s r i = (t, y)) (h : Kept K b s) (k_regs : K .regs) (k_evq : K .evq) (k_dram : K .dram) (k_memc : K .memc) : Kept K b t := fst_of_eq (kept_storeWord h k_regs k_evq k_dram k_memc) e

theorem kept_putWord {w : Nat} {v : Nat} (h : Kept K b s) (k_regs : K .regs) (k_dram : K .dram) (k_memc : K .memc) : Kept K b (State.putWord s w v) := by
  unfold State.putWord
  repeat' first
    | with_reducible assumption
    | with_reducible apply kept_inject
    | with_reducible apply kept_putByte
    | with_reducible apply kept_setFlips
    | with_reducible apply Kept.foldl
    | (intro u x hu; replace hu : Kept K b _ := hu)

theorem kept_openRow {off : Nat} (h : Kept K b s) (k_memc : K .memc) : Kept K b (State.openRow s off) := by
  unfold State.openRow
  repeat' first
    | with_reducible assumption
    | with_reducible apply kept_modMem
    | with_reducible exact or_all fun _ => rfl
    | lift_lets
    | (intro m hm; with_reducible exact hm)

theorem kept_mgLat {r : DReq} (h : Kept K b s) (k_regs : K .regs) : Kept K b (State.mgLat s r) := by
  unfold State.mgLat
  repeat' first
    | with_reducible assumption
    | with_reducible apply Kept.fs
    | with_reducible apply kept_roundFree
    | with_reducible apply Kept.ite

theorem kept_forcedRefresh {sc : Nat} (h : Kept K b s) (k_memc : K .memc) : Kept K b (State.forcedRefresh s sc) := by
  unfold State.forcedRefresh
  repeat' first
    | with_reducible assumption
    | with_reducible apply kept_modMem
    | with_reducible exact or_all fun _ => rfl
    | lift_lets
    | (intro m hm; with_reducible exact hm)

theorem kept_dramComplete {k : Nat} {errs : List (Nat × List Nat)} (h : Kept K b s) (k_regs : K .regs) (k_evq : K .evq) (k_dram : K .dram) (k_memc : K .memc) : Kept K b (State.dramComplete s k errs) := by
  unfold State.dramComplete
  repeat' first
    | with_reducible assumption
    | with_reducible apply kept_acceptWaiting
    | with_reducible apply kept_addFlips
    | with_reducible apply kept_checkWord
    | with_reducible apply Kept.emit
    | with_reducible apply kept_forcedRefresh
    | with_reducible apply kept_mgLat
    | with_reducible apply kept_modMem
    | with_reducible apply kept_openRow
    | with_reducible apply kept_sbeTick
    | with_reducible apply kept_showCredits
    | with_reducible apply kept_storeWord
    | (with_reducible refine Or.inr ?_; assumption)
    | with_reducible apply Kept.ite
    | with_reducible apply Kept.iteFst
    | with_reducible apply Kept.foldl
    | with_reducible apply Kept.foldlFst
    | (intro u x hu; replace hu : Kept K b _ := hu)
    | (intro x; subst x)
    | lift_lets
    | (intro m hm; with_reducible exact hm)
    | split

theorem kept_memCycle (h : Kept K b s) (k_regs : K .regs) (k_memc : K .memc) : Kept K b (State.memCycle s) := by
  unfold State.memCycle
  repeat' first
    | with_reducible assumption
    | with_reducible apply Kept.fs
    | with_reducible apply kept_modMem
    | with_reducible exact or_all fun _ => rfl
    | lift_lets
    | (intro m hm; with_reducible exact hm)

theorem kept_trainStart {a : TrainTry} {bb : TrainTry} (h : Kept K b s) (k_regs : K .regs) (k_mode : K .mode) (k_fab : K .fab) (k_scan : K .scan) (k_sup : K .sup) (k_pow : K .pow) (k_evq : K .evq) (k_dram : K .dram) (k_memc : K .memc) : Kept K b (State.trainStart s a bb) := by
  unfold State.trainStart
  repeat' first
    | with_reducible assumption
    | exact fun _ _ => rfl
    | with_reducible apply kept_enterDark
    | with_reducible apply Kept.fault
    | with_reducible apply Kept.fs
    | with_reducible apply kept_modMem
    | (with_reducible refine Or.inr ?_; assumption)
    | with_reducible apply Kept.ite
    | (intro x; subst x)
    | lift_lets
    | (intro m hm; with_reducible exact hm)
    | fail_if_no_progress (with_reducible apply Kept.mk_other <;> first | (with_reducible refine Or.inr ?_; assumption) | with_reducible exact Or.inl rfl | skip)
    | split

theorem kept_trainEnd {r : TrainRes} (h : Kept K b s) (k_regs : K .regs) (k_evq : K .evq) (k_memc : K .memc) : Kept K b (State.trainEnd s r) := by
  unfold State.trainEnd
  repeat' first
    | with_reducible assumption
    | with_reducible apply kept_acceptWaiting
    | with_reducible apply Kept.advance
    | with_reducible apply Kept.ev
    | with_reducible apply Kept.fs
    | with_reducible apply Kept.fsk
    | with_reducible apply kept_modMem
    | with_reducible apply Kept.setReg
    | with_reducible exact or_all fun _ => rfl
    | with_reducible apply Kept.ite
    | with_reducible apply Kept.foldl
    | (intro u x hu; replace hu : Kept K b _ := hu)
    | lift_lets
    | (intro m hm; with_reducible exact hm)

theorem kept_memOff (h : Kept K b s) (k_regs : K .regs) (k_dram : K .dram) (k_memc : K .memc) : Kept K b (State.memOff s) := by
  unfold State.memOff
  repeat' first
    | with_reducible assumption
    | exact fun _ _ => rfl
    | with_reducible apply Kept.fs
    | with_reducible apply kept_modMem
    | with_reducible apply kept_showCredits
    | (with_reducible refine Or.inr ?_; assumption)

theorem kept_refreshTick {sc : Nat} {n : Nat} (h : Kept K b s) (k_regs : K .regs) (k_evq : K .evq) (k_memc : K .memc) : Kept K b (State.refreshTick s sc n) := by
  unfold State.refreshTick
  repeat' first
    | with_reducible assumption
    | with_reducible apply Kept.advance
    | with_reducible apply kept_modMem
    | with_reducible apply kept_sbeTick
    | with_reducible exact or_all fun _ => rfl
    | with_reducible apply Kept.ite
    | lift_lets
    | (intro m hm; with_reducible exact hm)

theorem kept_mr4Poll {a : Nat} {bb : Nat} (h : Kept K b s) (k_regs : K .regs) (k_evq : K .evq) (k_memc : K .memc) : Kept K b (State.mr4Poll s a bb) := by
  unfold State.mr4Poll
  repeat' first
    | with_reducible assumption
    | with_reducible apply Kept.advance
    | with_reducible apply Kept.fault
    | with_reducible apply Kept.fs
    | with_reducible apply kept_modMem
    | with_reducible exact or_all fun _ => rfl
    | with_reducible apply Kept.ite
    | lift_lets
    | (intro m hm; with_reducible exact hm)

theorem kept_scrub {errs : List Nat} (h : Kept K b s) (k_regs : K .regs) (k_evq : K .evq) (k_memc : K .memc) : Kept K b (State.scrub s errs) := by
  unfold State.scrub
  repeat' first
    | with_reducible assumption
    | with_reducible apply kept_addFlips
    | with_reducible apply Kept.advance
    | with_reducible apply kept_checkWord
    | with_reducible apply Kept.fs
    | with_reducible apply kept_modMem
    | with_reducible apply kept_sbeTick
    | with_reducible exact or_all fun _ => rfl
    | with_reducible apply Kept.ite
    | lift_lets
    | (intro m hm; with_reducible exact hm)

theorem kept_execDramTraining {a : TrainTry} {bb : TrainTry} (k_regs : K .regs) (k_mode : K .mode) (k_fab : K .fab) (k_scan : K .scan) (k_sup : K .sup) (k_pow : K .pow) (k_evq : K .evq) (k_dram : K .dram) (k_memc : K .memc) : Nxt (Kept K s) (execDramTraining a bb s) := by
  have h : Kept K s s := Kept.refl s
  unfold execDramTraining
  repeat' first
    | with_reducible assumption
    | with_reducible apply kept_begin_
    | with_reducible apply kept_trainStart
    | with_reducible apply Kept.ite
    | with_reducible apply Nxt.next

theorem kept_execTrainingComplete {r : TrainRes} (k_regs : K .regs) (k_evq : K .evq) (k_memc : K .memc) : Nxt (Kept K s) (execTrainingComplete r s) := by
  have h : Kept K s s := Kept.refl s
  unfold execTrainingComplete
  repeat' first
    | with_reducible assumption
    | with_reducible apply kept_begin_
    | with_reducible apply kept_trainEnd
    | with_reducible apply Kept.ite
    | with_reducible apply Nxt.next

theorem kept_execZqCalibration (k_memc : K .memc) : Nxt (Kept K s) (execZqCalibration s) := by
  have h : Kept K s s := Kept.refl s
  unfold execZqCalibration
  repeat' first
    | with_reducible assumption
    | with_reducible apply Kept.advance
    | with_reducible apply kept_begin_
    | with_reducible apply kept_modMem
    | with_reducible exact or_all fun _ => rfl
    | with_reducible apply Kept.ite
    | with_reducible apply Nxt.next
    | lift_lets
    | (intro m hm; with_reducible exact hm)

theorem kept_execDqsOscillator {count : Nat} {wdq : Option (List Nat)} (k_regs : K .regs) (k_memc : K .memc) : Nxt (Kept K s) (execDqsOscillator count wdq s) := by
  have h : Kept K s s := Kept.refl s
  unfold execDqsOscillator
  repeat' first
    | with_reducible assumption
    | with_reducible apply Kept.advance
    | with_reducible apply kept_begin_
    | with_reducible apply Kept.fs
    | with_reducible apply Kept.fsk
    | with_reducible apply kept_modMem
    | with_reducible exact or_all fun _ => rfl
    | with_reducible apply Kept.ite
    | with_reducible apply Kept.foldl
    | with_reducible apply Nxt.next
    | (intro u x hu; replace hu : Kept K s _ := hu)
    | (intro x; subst x)
    | lift_lets
    | (intro m hm; with_reducible exact hm)
    | split

theorem kept_execRefresh {sc : Fin 2} {n : Nat} (k_regs : K .regs) (k_evq : K .evq) (k_memc : K .memc) : Nxt (Kept K s) (execRefresh sc n s) := by
  have h : Kept K s s := Kept.refl s
  unfold execRefresh
  repeat' first
    | with_reducible assumption
    | with_reducible apply kept_begin_
    | with_reducible apply kept_refreshTick
    | with_reducible apply Nxt.next

theorem kept_execMr4Poll {a : Fin 8} {bb : Fin 8} (k_regs : K .regs) (k_evq : K .evq) (k_memc : K .memc) : Nxt (Kept K s) (execMr4Poll a bb s) := by
  have h : Kept K s s := Kept.refl s
  unfold execMr4Poll
  repeat' first
    | with_reducible assumption
    | with_reducible apply kept_begin_
    | with_reducible apply kept_mr4Poll
    | with_reducible apply Nxt.next

theorem kept_execDramRequest {u : DUser} {addr : Nat} {wr : Option (List (Option Byte))} (k_regs : K .regs) (k_memc : K .memc) : Nxt (Kept K s) (execDramRequest u addr wr s) := by
  have h : Kept K s s := Kept.refl s
  unfold execDramRequest
  repeat' first
    | with_reducible assumption
    | with_reducible apply kept_begin_
    | with_reducible apply kept_dramRequest
    | with_reducible apply Nxt.next

theorem kept_execDramCompletion {k : Nat} {errs : List (Nat × List Nat)} (k_regs : K .regs) (k_evq : K .evq) (k_dram : K .dram) (k_memc : K .memc) : Nxt (Kept K s) (execDramCompletion k errs s) := by
  have h : Kept K s s := Kept.refl s
  unfold execDramCompletion
  repeat' first
    | with_reducible assumption
    | with_reducible apply kept_begin_
    | with_reducible apply kept_dramComplete
    | with_reducible apply Nxt.next

theorem kept_execScrubRead {errs : List Nat} (k_regs : K .regs) (k_evq : K .evq) (k_memc : K .memc) : Nxt (Kept K s) (execScrubRead errs s) := by
  have h : Kept K s s := Kept.refl s
  unfold execScrubRead
  repeat' first
    | with_reducible assumption
    | with_reducible apply kept_begin_
    | with_reducible apply kept_scrub
    | with_reducible apply Nxt.next

theorem kept_execPageIdleExpire {sc : Fin 2} {bank : Fin 8} (k_memc : K .memc) : Nxt (Kept K s) (execPageIdleExpire sc bank s) := by
  have h : Kept K s s := Kept.refl s
  unfold execPageIdleExpire
  repeat' first
    | with_reducible assumption
    | with_reducible apply Kept.advance
    | with_reducible apply kept_begin_
    | with_reducible apply kept_modMem
    | with_reducible exact or_all fun _ => rfl
    | with_reducible apply Nxt.next
    | lift_lets
    | (intro m hm; with_reducible exact hm)
    | split

theorem kept_hInject (k_regs : K .regs) : HKept K hInject := by
  intro s w p o g d b h
  unfold hInject
  repeat' first
    | with_reducible assumption
    | with_reducible apply kept_storeReg
    | with_reducible apply Rec.ite
    | with_reducible apply Rec.ok
    | with_reducible apply Rec.error

theorem kept_hInjectAddr (k_regs : K .regs) : HKept K hInjectAddr := by
  intro s w p o g d b h
  unfold hInjectAddr
  repeat' first
    | with_reducible assumption
    | with_reducible apply kept_storeReg
    | with_reducible apply Rec.ite
    | with_reducible apply Rec.ok
    | with_reducible apply Rec.error

theorem kept_execErrorInjection {a : Sys2Proof.Access} {data : Word} (k_regs : K .regs) (k_tens : K .tens) (k_evq : K .evq) : Nxt (Kept K s) (execErrorInjection a data s) := by
  have h : Kept K s s := Kept.refl s
  unfold execErrorInjection
  repeat' first
    | with_reducible assumption
    | with_reducible apply kept_begin_
    | with_reducible apply kept_direct
    | with_reducible apply kept_hInject
    | with_reducible apply Nxt.next

end Sys2Proof.Machine
end

