-- ==== Sys2Proof/Laws/KeptCorrection.lean ====
section
/-! SUPPORT. The operations of Machine/Correction.lean keep the queue, the direction of time and the
invariant, and leave every part of the state alone but those they name. -/

namespace Sys2Proof.Machine

variable {K : Part → Prop} {b s t : State}

theorem kept_modBlend {f : BlendSt → BlendSt} (h : Kept K b s) (k_blend : K .blend) : Kept K b (State.modBlend s f) := by
  unfold State.modBlend
  repeat' first
    | with_reducible assumption
    | fail_if_no_progress (with_reducible apply Kept.mk_other <;> first | (with_reducible refine Or.inr ?_; assumption) | with_reducible exact Or.inl rfl | skip)

theorem kept_blendStart {fast : Bool} (h : Kept K b s) (k_regs : K .regs) (k_pix : K .pix) (k_blend : K .blend) : Kept K b (State.blendStart s fast) := by
  unfold State.blendStart
  repeat' first
    | with_reducible assumption
    | with_reducible apply kept_blendBegin
    | with_reducible apply Kept.fs
    | with_reducible apply kept_modBlend
    | with_reducible apply kept_modPix

theorem kept_blendIdle {fast : Bool} (h : Kept K b s) (k_regs : K .regs) (k_pix : K .pix) (k_blend : K .blend) (k_evq : K .evq) : Kept K b (State.blendIdle s fast) := by
  unfold State.blendIdle
  repeat' first
    | with_reducible assumption
    | with_reducible apply kept_blendStart
    | with_reducible apply Kept.ev
    | with_reducible apply Kept.fs
    | with_reducible apply Kept.inc
    | with_reducible apply kept_modBlend
    | with_reducible apply Kept.ite

theorem kept_blendRelease {fast : Bool} (h : Kept K b s) (k_regs : K .regs) (k_pix : K .pix) (k_blend : K .blend) (k_evq : K .evq) : Kept K b (State.blendRelease s fast) := by
  unfold State.blendRelease
  repeat' first
    | with_reducible assumption
    | with_reducible apply kept_blendIdle
    | with_reducible apply Kept.inc
    | with_reducible apply kept_modBlend
    | split

theorem kept_blendDbe (h : Kept K b s) (k_regs : K .regs) (k_pix : K .pix) (k_blend : K .blend) (k_evq : K .evq) : Kept K b (State.blendDbe s) := by
  unfold State.blendDbe
  repeat' first
    | with_reducible assumption
    | with_reducible apply kept_blendIdle
    | with_reducible apply Kept.ite

theorem kept_blendHalf (h : Kept K b s) (k_regs : K .regs) (k_blend : K .blend) : Kept K b (State.blendHalf s) := by
  unfold State.blendHalf
  repeat' first
    | with_reducible assumption
    | with_reducible apply Kept.fs
    | with_reducible apply kept_modBlend
    | with_reducible apply Kept.ite

theorem kept_setWriting {k : Nat} (h : Kept K b s) (k_regs : K .regs) (k_pix : K .pix) (k_blend : K .blend) (k_evq : K .evq) : Kept K b (State.setWriting s k) := by
  unfold State.setWriting
  repeat' first
    | with_reducible assumption
    | with_reducible apply kept_blendRelease
    | with_reducible apply Kept.fsk
    | with_reducible apply Kept.ite

theorem kept_setLoaded {k : Nat} {lamps : Nat} {id : Nat} {ents : List Nat} (h : Kept K b s) (k_regs : K .regs) (k_pix : K .pix) (k_blend : K .blend) (k_evq : K .evq) (k_dram : K .dram) (k_memc : K .memc) : Kept K b (State.setLoaded s k lamps id ents) := by
  unfold State.setLoaded
  repeat' first
    | with_reducible assumption
    | with_reducible apply kept_blendIdle
    | with_reducible apply Kept.fsk
    | with_reducible apply kept_putWord
    | with_reducible apply Kept.ite
    | with_reducible apply Kept.foldl
    | (intro u x hu; replace hu : Kept K b _ := hu)

theorem kept_blendSwap (h : Kept K b s) (k_regs : K .regs) (k_pix : K .pix) (k_blend : K .blend) (k_evq : K .evq) : Kept K b (State.blendSwap s) := by
  unfold State.blendSwap
  repeat' first
    | with_reducible assumption
    | with_reducible apply kept_blendIdle
    | with_reducible apply Kept.ev
    | with_reducible apply Kept.fs
    | with_reducible apply Kept.fsk
    | with_reducible apply Kept.inc
    | with_reducible apply kept_modBlend
    | with_reducible apply kept_releaseAll
    | with_reducible apply Kept.ite
    | with_reducible apply Kept.foldl
    | (intro u x hu; replace hu : Kept K b _ := hu)
    | (intro x; subst x)
    | lift_lets
    | split

theorem kept_blendBoundary (h : Kept K b s) (k_regs : K .regs) (k_pix : K .pix) (k_blend : K .blend) (k_evq : K .evq) : Kept K b (State.blendBoundary s) := by
  unfold State.blendBoundary
  repeat' first
    | with_reducible assumption
    | with_reducible apply kept_blendSwap
    | with_reducible apply Kept.ite

theorem kept_blendDone {pick : List Nat} {spots : List Spot} {poison : List Nat} (h : Kept K b s) (k_regs : K .regs) (k_pix : K .pix) (k_blend : K .blend) (k_evq : K .evq) : Kept K b (State.blendDone s pick spots poison) := by
  unfold State.blendDone
  repeat' first
    | with_reducible assumption
    | with_reducible apply kept_blendSwap
    | with_reducible apply Kept.fs
    | with_reducible apply Kept.inc
    | with_reducible apply kept_jobLat
    | with_reducible apply kept_modBlend
    | with_reducible apply kept_modPix
    | with_reducible apply kept_retire
    | with_reducible apply Kept.ite
    | with_reducible apply Kept.foldl
    | (intro u x hu; replace hu : Kept K b _ := hu)

theorem kept_blendResume (h : Kept K b s) (k_regs : K .regs) (k_pix : K .pix) (k_blend : K .blend) : Kept K b (State.blendResume s) := by
  unfold State.blendResume
  repeat' first
    | with_reducible assumption
    | with_reducible apply kept_blendStart
    | with_reducible apply Kept.ite

theorem kept_judge {reads : List (Option Int)} {skip : List Nat} (h : Kept K b s) (k_regs : K .regs) (k_evq : K .evq) : Kept K b (State.judge s reads skip) := by
  unfold State.judge
  repeat' first
    | with_reducible assumption
    | with_reducible apply Kept.fault
    | with_reducible apply Kept.fs
    | with_reducible apply Kept.fsk
    | with_reducible apply Kept.ite
    | with_reducible apply Kept.foldl
    | (intro u x hu; replace hu : Kept K b _ := hu)
    | lift_lets
    | split

theorem kept_refresh (h : Kept K b s) (k_regs : K .regs) (k_pix : K .pix) (k_blend : K .blend) (k_field : K .field) (k_evq : K .evq) : Kept K b (State.refresh s) := by
  unfold State.refresh
  repeat' first
    | with_reducible assumption
    | with_reducible apply kept_blendIdle
    | with_reducible apply Kept.fault
    | with_reducible apply Kept.fs
    | with_reducible apply Kept.fsk
    | with_reducible apply Kept.inc
    | with_reducible apply kept_modBlend
    | with_reducible apply Kept.ite
    | with_reducible apply Kept.foldl
    | (intro u x hu; replace hu : Kept K b _ := hu)
    | (intro x; subst x)
    | lift_lets
    | fail_if_no_progress (with_reducible apply Kept.mk_other <;> first | (with_reducible refine Or.inr ?_; assumption) | with_reducible exact Or.inl rfl | skip)
    | split

theorem kept_execJobComplete {k : Nat} {r : JobResult} (k_regs : K .regs) (k_feeds : K .feeds) (k_pix : K .pix) (k_blend : K .blend) (k_evq : K .evq) : Nxt (Kept K s) (execJobComplete k r s) := by
  have h : Kept K s s := Kept.refl s
  unfold execJobComplete
  repeat' first
    | with_reducible assumption
    | with_reducible apply kept_begin_
    | with_reducible apply kept_blendBegin
    | with_reducible apply kept_blendDbe
    | with_reducible apply kept_jobDone
    | with_reducible apply Kept.ite
    | with_reducible apply Nxt.next

theorem kept_execFieldRefresh (k_regs : K .regs) (k_pix : K .pix) (k_blend : K .blend) (k_field : K .field) (k_evq : K .evq) : Nxt (Kept K s) (execFieldRefresh s) := by
  have h : Kept K s s := Kept.refl s
  unfold execFieldRefresh
  repeat' first
    | with_reducible assumption
    | with_reducible apply Kept.advance
    | with_reducible apply kept_begin_
    | with_reducible apply kept_refresh
    | with_reducible apply Kept.ite
    | with_reducible apply Nxt.next

theorem kept_execBlendComplete {engines : List Nat} {spots : List Spot} {poison : List Nat} (k_regs : K .regs) (k_pix : K .pix) (k_blend : K .blend) (k_evq : K .evq) : Nxt (Kept K s) (execBlendComplete engines spots poison s) := by
  have h : Kept K s s := Kept.refl s
  unfold execBlendComplete
  repeat' first
    | with_reducible assumption
    | with_reducible apply kept_begin_
    | with_reducible apply kept_blendDone
    | with_reducible apply Nxt.next

theorem kept_execBlendResume (k_regs : K .regs) (k_pix : K .pix) (k_blend : K .blend) : Nxt (Kept K s) (execBlendResume s) := by
  have h : Kept K s s := Kept.refl s
  unfold execBlendResume
  repeat' first
    | with_reducible assumption
    | with_reducible apply kept_begin_
    | with_reducible apply kept_blendResume
    | with_reducible apply Nxt.next

end Sys2Proof.Machine
end

