-- ==== Sys2Proof/Laws/KeptHealth.lean ====
section
/-! SUPPORT. The operations of Machine/Health.lean keep the queue, the direction of time and the
invariant, and leave every part of the state alone but those they name. -/

namespace Sys2Proof.Machine

variable {K : Part → Prop} {b s t : State}

theorem kept_setLampH {l : Nat} {hh : LampH} (h : Kept K b s) (k_health : K .health) : Kept K b (State.setLampH s l hh) := by
  unfold State.setLampH
  repeat' first
    | with_reducible assumption
    | (intro x; subst x)
    | lift_lets
    | fail_if_no_progress (with_reducible apply Kept.mk_other <;> first | (with_reducible refine Or.inr ?_; assumption) | with_reducible exact Or.inl rfl | skip)

theorem kept_listAdd {short : Bool} {l : Nat} (h : Kept K b s) (k_regs : K .regs) (k_health : K .health) (k_evq : K .evq) : Kept K b (State.listAdd s short l).1 := by
  unfold State.listAdd
  repeat' first
    | with_reducible assumption
    | with_reducible apply Kept.fault
    | with_reducible apply Kept.faultBit
    | with_reducible apply Kept.ite
    | with_reducible apply Kept.iteFst
    | (intro x; subst x)
    | lift_lets
    | fail_if_no_progress (with_reducible apply Kept.mk_other <;> first | (with_reducible refine Or.inr ?_; assumption) | with_reducible exact Or.inl rfl | skip)

theorem kept_listAdd_eq {short : Bool} {l : Nat} {y : Nat} (e : State.listAdd s short l = (t, y)) (h : Kept K b s) (k_regs : K .regs) (k_health : K .health) (k_evq : K .evq) : Kept K b t := fst_of_eq (kept_listAdd h k_regs k_health k_evq) e

theorem kept_confirm {short : Bool} {l : Nat} (h : Kept K b s) (k_regs : K .regs) (k_health : K .health) (k_evq : K .evq) : Kept K b (State.confirm s short l) := by
  unfold State.confirm
  repeat' first
    | with_reducible assumption
    | with_reducible apply Kept.fault
    | with_reducible apply kept_listAdd
    | with_reducible apply kept_setLampH
    | with_reducible apply Kept.ite

theorem kept_sample {short : Bool} {l : Nat} {failed : Bool} (h : Kept K b s) (k_regs : K .regs) (k_health : K .health) (k_evq : K .evq) : Kept K b (State.sample s short l failed) := by
  unfold State.sample
  repeat' first
    | with_reducible assumption
    | with_reducible apply kept_confirm
    | with_reducible apply kept_setLampH
    | with_reducible apply Kept.ite

theorem kept_healthClearAll (h : Kept K b s) (k_health : K .health) : Kept K b (State.healthClearAll s) := by
  unfold State.healthClearAll
  repeat' first
    | with_reducible assumption
    | fail_if_no_progress (with_reducible apply Kept.mk_other <;> first | (with_reducible refine Or.inr ?_; assumption) | with_reducible exact Or.inl rfl | skip)

theorem kept_healthClear {l : Nat} (h : Kept K b s) (k_health : K .health) : Kept K b (State.healthClear s l) := by
  unfold State.healthClear
  repeat' first
    | with_reducible assumption
    | with_reducible apply kept_setLampH
    | (intro x; subst x)
    | lift_lets
    | fail_if_no_progress (with_reducible apply Kept.mk_other <;> first | (with_reducible refine Or.inr ?_; assumption) | with_reducible exact Or.inl rfl | skip)

theorem kept_healthBoundary (h : Kept K b s) (k_regs : K .regs) (k_health : K .health) (k_evq : K .evq) : Kept K b (State.healthBoundary s) := by
  unfold State.healthBoundary
  repeat' first
    | with_reducible assumption
    | with_reducible apply Kept.ev
    | with_reducible apply kept_healthClear
    | with_reducible apply kept_healthClearAll
    | with_reducible apply Kept.foldl
    | (intro u x hu; replace hu : Kept K b _ := hu)
    | (intro x; subst x)
    | lift_lets
    | fail_if_no_progress (with_reducible apply Kept.mk_other <;> first | (with_reducible refine Or.inr ?_; assumption) | with_reducible exact Or.inl rfl | skip)
    | split

theorem kept_healthSpan {e : SpanEnv} {underrun : Bool} (h : Kept K b s) (k_regs : K .regs) (k_health : K .health) (k_evq : K .evq) : Kept K b (State.healthSpan s e underrun).1 := by
  unfold State.healthSpan
  repeat' first
    | with_reducible assumption
    | with_reducible apply Kept.fault
    | with_reducible apply Kept.inc
    | with_reducible apply kept_sample
    | with_reducible apply Kept.ite
    | with_reducible apply Kept.iteFst
    | with_reducible apply Kept.foldl
    | (intro u x hu; replace hu : Kept K b _ := hu)
    | (intro x; subst x)
    | lift_lets
    | split

theorem kept_healthSpan_eq {e : SpanEnv} {underrun : Bool} {y : List Nat} (e : State.healthSpan s e underrun = (t, y)) (h : Kept K b s) (k_regs : K .regs) (k_health : K .health) (k_evq : K .evq) : Kept K b t := fst_of_eq (kept_healthSpan h k_regs k_health k_evq) e

theorem kept_modRd {f : RdbkSt → RdbkSt} (h : Kept K b s) (k_rdbk : K .rdbk) : Kept K b (State.modRd s f) := by
  unfold State.modRd
  repeat' first
    | with_reducible assumption
    | fail_if_no_progress (with_reducible apply Kept.mk_other <;> first | (with_reducible refine Or.inr ?_; assumption) | with_reducible exact Or.inl rfl | skip)

theorem kept_rdbkSpan {e : SpanEnv} {out : List Nat} (h : Kept K b s) (k_rdbk : K .rdbk) : Kept K b (State.rdbkSpan s e out) := by
  unfold State.rdbkSpan
  repeat' first
    | with_reducible assumption
    | with_reducible apply kept_modRd

theorem kept_sinkFaulty {k : Nat} (h : Kept K b s) (k_regs : K .regs) (k_rdbk : K .rdbk) (k_evq : K .evq) : Kept K b (State.sinkFaulty s k) := by
  unfold State.sinkFaulty
  repeat' first
    | with_reducible assumption
    | with_reducible apply Kept.fault
    | with_reducible apply Kept.fsk
    | with_reducible apply kept_modRd

theorem kept_stuckTest (h : Kept K b s) (k_regs : K .regs) (k_mode : K .mode) (k_fab : K .fab) (k_scan : K .scan) (k_rdbk : K .rdbk) (k_sup : K .sup) (k_pow : K .pow) (k_evq : K .evq) : Kept K b (State.stuckTest s) := by
  unfold State.stuckTest
  repeat' first
    | with_reducible assumption
    | with_reducible apply kept_enterDarkFor
    | with_reducible apply Kept.fault
    | with_reducible apply kept_modRd
    | with_reducible apply Kept.foldl
    | (intro u x hu; replace hu : Kept K b _ := hu)

theorem kept_rdbkCompare (h : Kept K b s) (k_regs : K .regs) (k_rdbk : K .rdbk) (k_evq : K .evq) : Kept K b (State.rdbkCompare s) := by
  unfold State.rdbkCompare
  repeat' first
    | with_reducible assumption
    | with_reducible apply Kept.fs
    | with_reducible apply Kept.fsk
    | with_reducible apply kept_modRd
    | with_reducible apply kept_sinkFaulty
    | with_reducible apply Kept.ite
    | with_reducible apply Kept.foldl
    | (intro u x hu; replace hu : Kept K b _ := hu)

theorem kept_showForced (h : Kept K b s) (k_regs : K .regs) : Kept K b (State.showForced s) := by
  unfold State.showForced
  repeat' first
    | with_reducible assumption
    | with_reducible apply Kept.fs
    | with_reducible apply Kept.fsi
    | with_reducible apply Kept.foldl
    | (intro u x hu; replace hu : Kept K b _ := hu)

theorem kept_rdbkBoundary (h : Kept K b s) (k_regs : K .regs) (k_rdbk : K .rdbk) (k_evq : K .evq) : Kept K b (State.rdbkBoundary s) := by
  unfold State.rdbkBoundary
  repeat' first
    | with_reducible assumption
    | with_reducible apply Kept.ev
    | with_reducible apply Kept.fsk
    | with_reducible apply kept_modRd
    | with_reducible apply kept_showForced
    | with_reducible apply Kept.foldl
    | (intro u x hu; replace hu : Kept K b _ := hu)

theorem kept_rdbkCycle (h : Kept K b s) (k_rdbk : K .rdbk) : Kept K b (State.rdbkCycle s) := by
  unfold State.rdbkCycle
  repeat' first
    | with_reducible assumption
    | with_reducible apply kept_modRd

theorem kept_senseStart {e : Nat} (h : Kept K b s) (k_regs : K .regs) (k_sense : K .sense) : Kept K b (State.senseStart s e) := by
  unfold State.senseStart
  repeat' first
    | with_reducible assumption
    | with_reducible apply Kept.fs
    | lift_lets
    | fail_if_no_progress (with_reducible apply Kept.mk_other <;> first | (with_reducible refine Or.inr ?_; assumption) | with_reducible exact Or.inl rfl | skip)

theorem kept_senseStop (h : Kept K b s) (k_regs : K .regs) (k_sense : K .sense) : Kept K b (State.senseStop s) := by
  unfold State.senseStop
  repeat' first
    | with_reducible assumption
    | with_reducible apply Kept.fs
    | (intro x; subst x)
    | lift_lets
    | fail_if_no_progress (with_reducible apply Kept.mk_other <;> first | (with_reducible refine Or.inr ?_; assumption) | with_reducible exact Or.inl rfl | skip)

theorem kept_senseMake {code : Nat} {value : Int} (h : Kept K b s) (k_regs : K .regs) (k_sense : K .sense) : Kept K b (State.senseMake s code value) := by
  unfold State.senseMake
  repeat' first
    | with_reducible assumption
    | with_reducible apply Kept.fs
    | with_reducible apply Kept.fsk
    | with_reducible apply Kept.inc
    | with_reducible apply kept_senseStart
    | with_reducible apply kept_senseStop
    | with_reducible apply Kept.ite
    | (intro x; subst x)
    | lift_lets
    | fail_if_no_progress (with_reducible apply Kept.mk_other <;> first | (with_reducible refine Or.inr ?_; assumption) | with_reducible exact Or.inl rfl | skip)

theorem kept_senseConv {code : Nat} {value : Int} (h : Kept K b s) (k_regs : K .regs) (k_fab : K .fab) (k_sense : K .sense) : Kept K b (State.senseConv s code value) := by
  unfold State.senseConv
  repeat' first
    | with_reducible assumption
    | with_reducible apply Kept.fs
    | with_reducible apply kept_senseMake
    | with_reducible apply kept_senseStop
    | with_reducible apply Kept.ite
    | (intro x; subst x)
    | lift_lets
    | fail_if_no_progress (with_reducible apply Kept.mk_other <;> first | (with_reducible refine Or.inr ?_; assumption) | with_reducible exact Or.inl rfl | skip)

theorem kept_senseWritten {e : Nat} (h : Kept K b s) (k_regs : K .regs) : Kept K b (State.senseWritten s e) := by
  unfold State.senseWritten
  repeat' first
    | with_reducible assumption
    | with_reducible apply Kept.fsk

theorem kept_execConversion {code : Nat} {value : Int} (k_regs : K .regs) (k_fab : K .fab) (k_sense : K .sense) : Nxt (Kept K s) (execConversion code value s) := by
  have h : Kept K s s := Kept.refl s
  unfold execConversion
  repeat' first
    | with_reducible assumption
    | with_reducible apply kept_begin_
    | with_reducible apply kept_senseConv
    | with_reducible apply Nxt.next

theorem kept_hHealthCmd (k_health : K .health) : HKept K hHealthCmd := by
  intro s w p o g d b h
  unfold hHealthCmd
  repeat' first
    | with_reducible assumption
    | with_reducible apply Rec.ok
    | with_reducible apply Rec.error
    | (intro x; subst x)
    | lift_lets
    | fail_if_no_progress (with_reducible apply Kept.mk_other <;> first | (with_reducible refine Or.inr ?_; assumption) | with_reducible exact Or.inl rfl | skip)
    | split

theorem kept_execClear {a : Sys2Proof.Access} (k_regs : K .regs) (k_tens : K .tens) (k_health : K .health) (k_evq : K .evq) : Nxt (Kept K s) (execClear a s) := by
  have h : Kept K s s := Kept.refl s
  unfold execClear
  repeat' first
    | with_reducible assumption
    | with_reducible apply kept_begin_
    | with_reducible apply kept_direct
    | with_reducible apply kept_hHealthCmd
    | with_reducible apply Nxt.next

theorem kept_execClearall {a : Sys2Proof.Access} (k_regs : K .regs) (k_tens : K .tens) (k_health : K .health) (k_evq : K .evq) : Nxt (Kept K s) (execClearall a s) := by
  have h : Kept K s s := Kept.refl s
  unfold execClearall
  repeat' first
    | with_reducible assumption
    | with_reducible apply kept_begin_
    | with_reducible apply kept_direct
    | with_reducible apply kept_hHealthCmd
    | with_reducible apply Nxt.next

theorem kept_hStore (k_regs : K .regs) : HKept K hStore := by
  intro s w p o g d b h
  unfold hStore
  repeat' first
    | with_reducible assumption
    | with_reducible apply kept_storeReg
    | with_reducible apply Rec.ok

theorem kept_execHealthQuery {a : Sys2Proof.Access} {lamp : Nat} (k_regs : K .regs) (k_tens : K .tens) (k_evq : K .evq) : Nxt (Kept K s) (execHealthQuery a lamp s) := by
  have h : Kept K s s := Kept.refl s
  unfold execHealthQuery
  repeat' first
    | with_reducible assumption
    | with_reducible apply kept_begin_
    | with_reducible apply kept_direct
    | with_reducible apply kept_hStore
    | with_reducible apply Nxt.next

theorem kept_execListQuery {a : Sys2Proof.Access} {idx : Nat} (k_regs : K .regs) (k_tens : K .tens) (k_evq : K .evq) : Nxt (Kept K s) (execListQuery a idx s) := by
  have h : Kept K s s := Kept.refl s
  unfold execListQuery
  repeat' first
    | with_reducible assumption
    | with_reducible apply kept_begin_
    | with_reducible apply kept_direct
    | with_reducible apply kept_hStore
    | with_reducible apply Nxt.next

theorem kept_execWireQuery {a : Sys2Proof.Access} {lamp : Nat} (k_regs : K .regs) (k_tens : K .tens) (k_evq : K .evq) : Nxt (Kept K s) (execWireQuery a lamp s) := by
  have h : Kept K s s := Kept.refl s
  unfold execWireQuery
  repeat' first
    | with_reducible assumption
    | with_reducible apply kept_begin_
    | with_reducible apply kept_direct
    | with_reducible apply kept_hStore
    | with_reducible apply Nxt.next

theorem kept_hRbClr (k_rdbk : K .rdbk) : HKept K hRbClr := by
  intro s w p o g d b h
  unfold hRbClr
  repeat' first
    | with_reducible assumption
    | with_reducible apply kept_modRd
    | with_reducible apply Rec.ok

theorem kept_execRbClr {a : Sys2Proof.Access} {stones : Nat} (k_regs : K .regs) (k_tens : K .tens) (k_rdbk : K .rdbk) (k_evq : K .evq) : Nxt (Kept K s) (execRbClr a stones s) := by
  have h : Kept K s s := Kept.refl s
  unfold execRbClr
  repeat' first
    | with_reducible assumption
    | with_reducible apply kept_begin_
    | with_reducible apply kept_direct
    | with_reducible apply kept_hRbClr
    | with_reducible apply Nxt.next

end Sys2Proof.Machine
end

