-- ==== Sys2Proof/Laws/KeptScan.lean ====
section
/-! SUPPORT. The operations of Machine/Scan.lean keep the queue, the direction of time and the
invariant, and leave every part of the state alone but those they name. -/

namespace Sys2Proof.Machine

variable {K : Part → Prop} {b s t : State}

theorem kept_modScan {f : ScanSt → ScanSt} (h : Kept K b s) (k_scan : K .scan) : Kept K b (State.modScan s f) := by
  unfold State.modScan
  repeat' first
    | with_reducible assumption
    | fail_if_no_progress (with_reducible apply Kept.mk_other <;> first | (with_reducible refine Or.inr ?_; assumption) | with_reducible exact Or.inl rfl | skip)

theorem kept_checkWords {l : List PSink} (h : Kept K b s) (k_regs : K .regs) : Kept K b (State.checkWords s l).1 := by
  unfold State.checkWords
  repeat' first
    | with_reducible assumption
    | with_reducible apply Kept.inc
    | with_reducible apply Kept.foldlFst
    | (intro u x hu; replace hu : Kept K b _ := hu)
    | split

theorem kept_checkWords_eq {l : List PSink} {y : List PSink} (e : State.checkWords s l = (t, y)) (h : Kept K b s) (k_regs : K .regs) : Kept K b t := fst_of_eq (kept_checkWords h k_regs) e

theorem kept_noteSeen (h : Kept K b s) (k_scan : K .scan) : Kept K b (State.noteSeen s) := by
  unfold State.noteSeen
  repeat' first
    | with_reducible assumption
    | with_reducible apply kept_modScan

theorem kept_holdOver (h : Kept K b s) (k_scan : K .scan) : Kept K b (State.holdOver s) := by
  unfold State.holdOver
  repeat' first
    | with_reducible assumption
    | with_reducible apply kept_modScan
    | with_reducible apply Kept.ite

theorem kept_beginOcc {w : Nat} (h : Kept K b s) (k_regs : K .regs) (k_feeds : K .feeds) (k_pix : K .pix) (k_scan : K .scan) : Kept K b (State.beginOcc s w) := by
  unfold State.beginOcc
  repeat' first
    | with_reducible assumption
    | with_reducible apply kept_modScan
    | with_reducible apply kept_openWindow
    | (intro x; subst x)
    | lift_lets
    | split

theorem kept_endOcc {n : Nat} (h : Kept K b s) (k_pix : K .pix) (k_scan : K .scan) : Kept K b (State.endOcc s n) := by
  unfold State.endOcc
  repeat' first
    | with_reducible assumption
    | with_reducible apply kept_modScan
    | with_reducible apply kept_undefer
    | split

theorem kept_readDbe {l : List (Nat × Nat)} (h : Kept K b s) (k_regs : K .regs) (k_pix : K .pix) (k_scan : K .scan) (k_evq : K .evq) : Kept K b (State.readDbe s l) := by
  unfold State.readDbe
  repeat' first
    | with_reducible assumption
    | with_reducible apply Kept.fault
    | with_reducible apply Kept.fs
    | with_reducible apply kept_modScan
    | with_reducible apply kept_releaseWin
    | with_reducible apply Kept.foldl
    | (intro u x hu; replace hu : Kept K b _ := hu)

theorem kept_prepare (h : Kept K b s) (k_scan : K .scan) : Kept K b (State.prepare s) := by
  unfold State.prepare
  repeat' first
    | with_reducible assumption
    | with_reducible apply kept_modScan

theorem kept_startSpan {e : SpanEnv} (h : Kept K b s) (k_regs : K .regs) (k_feeds : K .feeds) (k_pix : K .pix) (k_scan : K .scan) (k_evq : K .evq) : Kept K b (State.startSpan s e) := by
  unfold State.startSpan
  repeat' first
    | with_reducible assumption
    | with_reducible apply kept_beginOcc
    | with_reducible apply kept_checkWords
    | with_reducible apply kept_endOcc
    | with_reducible apply Kept.fault
    | with_reducible apply Kept.inc
    | with_reducible apply kept_modScan
    | with_reducible apply kept_noteSeen
    | with_reducible apply kept_prepare
    | with_reducible apply kept_readDbe
    | with_reducible apply kept_showScan
    | with_reducible apply Kept.ite
    | with_reducible apply Kept.foldl
    | (intro u x hu; replace hu : Kept K b _ := hu)
    | lift_lets
    | split

theorem kept_rowMonitor {low : List Nat} (h : Kept K b s) (k_regs : K .regs) (k_mode : K .mode) (k_fab : K .fab) (k_scan : K .scan) (k_health : K .health) (k_sup : K .sup) (k_pow : K .pow) (k_evq : K .evq) : Kept K b (State.rowMonitor s low) := by
  unfold State.rowMonitor
  repeat' first
    | with_reducible assumption
    | with_reducible apply kept_enterDarkFor
    | with_reducible apply Kept.fault
    | with_reducible apply Kept.fs
    | with_reducible apply Kept.fsk
    | with_reducible apply Kept.inc
    | with_reducible apply kept_modScan
    | with_reducible apply Kept.ite
    | with_reducible apply Kept.foldl
    | (intro u x hu; replace hu : Kept K b _ := hu)

theorem kept_headroomSpan {e : SpanEnv} (h : Kept K b s) (k_regs : K .regs) (k_fab : K .fab) (k_scan : K .scan) (k_sup : K .sup) (k_evq : K .evq) : Kept K b (State.headroomSpan s e) := by
  unfold State.headroomSpan
  repeat' first
    | with_reducible assumption
    | with_reducible apply Kept.fsi
    | with_reducible apply kept_modScan
    | with_reducible apply kept_railSpanEnd
    | with_reducible apply Kept.ite
    | with_reducible apply Kept.foldl
    | (intro u x hu; replace hu : Kept K b _ := hu)
    | (intro x; subst x)
    | lift_lets
    | split

theorem kept_sweepEnd (h : Kept K b s) (k_regs : K .regs) (k_scan : K .scan) : Kept K b (State.sweepEnd s) := by
  unfold State.sweepEnd
  repeat' first
    | with_reducible assumption
    | with_reducible apply Kept.fsi
    | with_reducible apply kept_modScan
    | with_reducible apply Kept.foldl
    | (intro u x hu; replace hu : Kept K b _ := hu)

theorem kept_sweepCut (h : Kept K b s) (k_scan : K .scan) (k_sup : K .sup) : Kept K b (State.sweepCut s) := by
  unfold State.sweepCut
  repeat' first
    | with_reducible assumption
    | with_reducible apply kept_modRail
    | with_reducible apply kept_modScan
    | with_reducible apply Kept.foldl
    | (intro u x hu; replace hu : Kept K b _ := hu)

theorem kept_endSpan {e : SpanEnv} {whole : Bool} (h : Kept K b s) (k_regs : K .regs) (k_mode : K .mode) (k_fab : K .fab) (k_scan : K .scan) (k_health : K .health) (k_rdbk : K .rdbk) (k_sup : K .sup) (k_pow : K .pow) (k_evq : K .evq) : Kept K b (State.endSpan s e whole) := by
  unfold State.endSpan
  repeat' first
    | with_reducible assumption
    | with_reducible apply kept_headroomSpan
    | with_reducible apply kept_healthSpan
    | with_reducible apply kept_rdbkSpan
    | with_reducible apply kept_rowMonitor
    | with_reducible apply kept_sweepEnd
    | with_reducible apply Kept.ite

theorem kept_nextPlace (h : Kept K b s) (k_scan : K .scan) : Kept K b (State.nextPlace s) := by
  unfold State.nextPlace
  repeat' first
    | with_reducible assumption
    | with_reducible apply kept_modScan

end Sys2Proof.Machine
end

