-- ==== Sys2Proof/Laws/KeptModes.lean ====
section
/-! SUPPORT. The operations of Machine/Modes.lean keep the queue, the direction of time and the
invariant, and leave every part of the state alone but those they name. -/

namespace Sys2Proof.Machine

variable {K : Part → Prop} {b s t : State}

theorem kept_modPow {f : PowSt → PowSt} (h : Kept K b s) (k_pow : K .pow) : Kept K b (State.modPow s f) := by
  unfold State.modPow
  repeat' first
    | with_reducible assumption
    | fail_if_no_progress (with_reducible apply Kept.mk_other <;> first | (with_reducible refine Or.inr ?_; assumption) | with_reducible exact Or.inl rfl | skip)

theorem kept_modeReqWritten {bank : Nat} (h : Kept K b s) (k_regs : K .regs) (k_fab : K .fab) (k_pow : K .pow) (k_evq : K .evq) : Kept K b (State.modeReqWritten s bank) := by
  unfold State.modeReqWritten
  repeat' first
    | with_reducible assumption
    | with_reducible apply kept_modPow
    | with_reducible apply kept_settle

theorem kept_enterLit {m : Mode} (h : Kept K b s) (k_regs : K .regs) (k_mode : K .mode) (k_fab : K .fab) (k_pix : K .pix) (k_blend : K .blend) (k_sup : K .sup) (k_evq : K .evq) : Kept K b (State.enterLit s m) := by
  unfold State.enterLit
  repeat' first
    | with_reducible assumption
    | with_reducible apply kept_blendRelease
    | with_reducible apply kept_setMode
    | with_reducible apply Kept.ite

theorem kept_relight {m : Mode} (h : Kept K b s) (k_regs : K .regs) (k_mode : K .mode) (k_fab : K .fab) (k_pix : K .pix) (k_blend : K .blend) (k_scan : K .scan) (k_sup : K .sup) (k_pow : K .pow) (k_evq : K .evq) : Kept K b (State.relight s m) := by
  unfold State.relight
  repeat' first
    | with_reducible assumption
    | with_reducible apply kept_dropPlans
    | with_reducible apply kept_enterLit
    | with_reducible apply Kept.fs
    | with_reducible apply kept_modPow
    | with_reducible apply kept_modScan
    | with_reducible apply kept_releaseAll

theorem kept_memDrain {n : Nat} (h : Kept K b s) (k_regs : K .regs) (k_evq : K .evq) (k_dram : K .dram) (k_memc : K .memc) : Kept K b (s.memDrain n) := by
  induction n generalizing s with
  | zero => exact h
  | succ n ih =>
    unfold State.memDrain
    split
    · exact h
    · exact ih (by apply kept_dramComplete h <;> assumption)

theorem kept_sleepFinish (h : Kept K b s) (k_regs : K .regs) (k_mode : K .mode) (k_fab : K .fab) (k_lnk : K .lnk) (k_tim : K .tim) (k_pix : K .pix) (k_scan : K .scan) (k_sup : K .sup) (k_pow : K .pow) (k_evq : K .evq) (k_dram : K .dram) (k_memc : K .memc) : Kept K b (State.sleepFinish s) := by
  unfold State.sleepFinish
  repeat' first
    | with_reducible assumption
    | with_reducible apply kept_dropPlans
    | with_reducible apply Kept.fs
    | with_reducible apply kept_genStop
    | with_reducible apply kept_memDrain
    | with_reducible apply kept_memOff
    | with_reducible apply kept_modPow
    | with_reducible apply kept_portStop
    | with_reducible apply kept_setMode
    | with_reducible apply kept_settle
    | with_reducible apply Kept.ite
    | with_reducible apply Kept.foldl
    | (intro u x hu; replace hu : Kept K b _ := hu)

theorem kept_sleepEnter (h : Kept K b s) (k_regs : K .regs) (k_fab : K .fab) (k_scan : K .scan) (k_sup : K .sup) (k_pow : K .pow) (k_evq : K .evq) : Kept K b (State.sleepEnter s) := by
  unfold State.sleepEnter
  repeat' first
    | with_reducible assumption
    | with_reducible apply kept_darkActions
    | with_reducible apply kept_fkDrop
    | with_reducible apply Kept.fs
    | with_reducible apply kept_leaveService
    | with_reducible apply kept_modPow
    | with_reducible apply kept_pauseAccess
    | with_reducible apply kept_settle
    | with_reducible apply Kept.ite

theorem kept_sleepStep (h : Kept K b s) (k_regs : K .regs) (k_mode : K .mode) (k_fab : K .fab) (k_lnk : K .lnk) (k_tim : K .tim) (k_pix : K .pix) (k_scan : K .scan) (k_sup : K .sup) (k_pow : K .pow) (k_evq : K .evq) (k_dram : K .dram) (k_memc : K .memc) : Kept K b (State.sleepStep s) := by
  unfold State.sleepStep
  repeat' first
    | with_reducible assumption
    | with_reducible apply kept_sleepFinish
    | with_reducible apply Kept.ite

theorem kept_changeMode (h : Kept K b s) (k_regs : K .regs) (k_mode : K .mode) (k_fab : K .fab) (k_lnk : K .lnk) (k_tim : K .tim) (k_pix : K .pix) (k_blend : K .blend) (k_scan : K .scan) (k_sup : K .sup) (k_pow : K .pow) (k_evq : K .evq) (k_dram : K .dram) (k_memc : K .memc) : Kept K b (State.changeMode s) := by
  unfold State.changeMode
  repeat' first
    | with_reducible assumption
    | with_reducible apply kept_enterDark
    | with_reducible apply kept_enterLit
    | with_reducible apply Kept.fsb
    | with_reducible apply kept_modPow
    | with_reducible apply kept_relight
    | with_reducible apply kept_sleepEnter
    | with_reducible apply kept_sleepStep
    | with_reducible apply Kept.ite
    | (intro x; subst x)
    | lift_lets
    | split
    | dsimp only

theorem kept_hSysMode (k_regs : K .regs) (k_fab : K .fab) (k_pow : K .pow) (k_evq : K .evq) : HKept K hSysMode := by
  intro s w p o g d b h
  unfold hSysMode
  repeat' first
    | with_reducible assumption
    | with_reducible apply kept_modeReqWritten
    | with_reducible apply kept_storeReg
    | with_reducible apply Rec.ok
    | with_reducible apply Rec.error
    | split

theorem kept_execModeRequest {a : Sys2Proof.Access} {req : Nat} (k_regs : K .regs) (k_fab : K .fab) (k_tens : K .tens) (k_pow : K .pow) (k_evq : K .evq) : Nxt (Kept K s) (execModeRequest a req s) := by
  have h : Kept K s s := Kept.refl s
  unfold execModeRequest
  repeat' first
    | with_reducible assumption
    | with_reducible apply kept_begin_
    | with_reducible apply kept_direct
    | with_reducible apply kept_hSysMode
    | with_reducible apply Nxt.next

end Sys2Proof.Machine
end

