-- ==== Sys2Proof/Laws/KeptBoot.lean ====
section
/-! SUPPORT. The operations of Machine/Boot.lean keep the queue, the direction of time and the
invariant, and leave every part of the state alone but those they name. -/

namespace Sys2Proof.Machine

variable {K : Part → Prop} {b s t : State}

theorem kept_strapLoad (h : Kept K b s) (k_regs : K .regs) : Kept K b (State.strapLoad s) := by
  unfold State.strapLoad
  repeat' first
    | with_reducible assumption
    | with_reducible apply Kept.fs

end Sys2Proof.Machine
end

