-- ==== Sys2Proof/Laws/KeptEffects.lean ====
section
/-! SUPPORT. The operations of Machine/Effects.lean keep the queue, the direction of time and the
invariant, and leave every part of the state alone but those they name. -/

namespace Sys2Proof.Machine

variable {K : Part → Prop} {b s t : State}

/-- The LOST counts of every queue may be cleared. -/
theorem kept_evqLost (h : Kept K b s) (ke : K .evq) :
    Kept K b { s with tens := s.tens.map fun t => { t with evq := { t.evq with lost := 0 } } } :=
  h.mk_queues (fun _ hy => hy) (fun _ => rfl) ke

theorem cwf_resetKey {boot r : Regs} (k : Nat) (h : cwf regDflt r = true) : cwf regDflt (resetKey boot r k) = true := cwf_cput _ _ _ h

theorem cwf_resetPageRegs {boot r : Regs} (p : Nat) (h : cwf regDflt r = true) : cwf regDflt (resetPageRegs boot r p) = true :=
  cwf_foldl (fun _ _ hm => cwf_resetKey _ hm) h

theorem kept_mapChanged (h : Kept K b s) (k_regs : K .regs) (k_pix : K .pix) (k_blend : K .blend) (k_scan : K .scan) (k_health : K .health) (k_rdbk : K .rdbk) (k_evq : K .evq) : Kept K b (State.mapChanged s) := by
  unfold State.mapChanged
  repeat' first
    | with_reducible assumption
    | with_reducible apply kept_blendRelease
    | with_reducible apply kept_dropPlans
    | with_reducible apply Kept.ev
    | with_reducible apply kept_healthClearAll
    | with_reducible apply kept_modPix
    | with_reducible apply kept_modRd
    | with_reducible apply kept_releaseAll
    | with_reducible apply Kept.ite

theorem kept_showHeld {p : Nat} (h : Kept K b s) (k_regs : K .regs) : Kept K b (State.showHeld s p) := by
  unfold State.showHeld
  repeat' first
    | with_reducible assumption
    | with_reducible apply Kept.fs
    | with_reducible apply Kept.ite

theorem kept_unitStarts {p : Nat} (h : Kept K b s) (k_regs : K .regs) (k_fab : K .fab) (k_lnk : K .lnk) (k_tim : K .tim) (k_feeds : K .feeds) (k_patts : K .patts) (k_pix : K .pix) (k_blend : K .blend) (k_scan : K .scan) (k_health : K .health) (k_rdbk : K .rdbk) (k_sense : K .sense) (k_sup : K .sup) (k_evq : K .evq) : Kept K b (State.unitStarts s p) := by
  unfold State.unitStarts
  repeat' first
    | with_reducible assumption
    | with_reducible apply kept_bindWindow
    | with_reducible apply kept_feedRunAct
    | with_reducible apply kept_genCheck
    | with_reducible apply kept_mapChanged
    | with_reducible apply kept_pattStart
    | with_reducible apply kept_portStart
    | with_reducible apply kept_ptpStart
    | with_reducible apply kept_senseStart
    | with_reducible apply kept_syncPhases
    | with_reducible apply kept_takeShadows
    | with_reducible apply Kept.ite
    | with_reducible apply Kept.foldl
    | (intro u x hu; replace hu : Kept K b _ := hu)
    | (intro x; subst x)
    | lift_lets
    | fail_if_no_progress (with_reducible apply Kept.mk_other <;> first | (with_reducible refine Or.inr ?_; assumption) | with_reducible exact Or.inl rfl | skip)

theorem kept_unitStops {p : Nat} (h : Kept K b s) (k_regs : K .regs) (k_fab : K .fab) (k_lnk : K .lnk) (k_tim : K .tim) (k_feeds : K .feeds) (k_patts : K .patts) (k_pix : K .pix) (k_scan : K .scan) (k_sense : K .sense) (k_sup : K .sup) (k_evq : K .evq) : Kept K b (State.unitStops s p) := by
  unfold State.unitStops
  repeat' first
    | with_reducible assumption
    | with_reducible apply kept_feedRunAct
    | with_reducible apply kept_feedTidy
    | with_reducible apply kept_genStop
    | with_reducible apply kept_modPix
    | with_reducible apply kept_pattStop
    | with_reducible apply kept_portStop
    | with_reducible apply kept_ptpStop
    | with_reducible apply kept_senseStop
    | with_reducible apply kept_stopRails
    | with_reducible apply kept_syncPhases
    | with_reducible apply Kept.ite

theorem kept_unitOn {p : Nat} (h : Kept K b s) (k_regs : K .regs) (k_fab : K .fab) (k_lnk : K .lnk) (k_tim : K .tim) (k_feeds : K .feeds) (k_patts : K .patts) (k_pix : K .pix) (k_blend : K .blend) (k_scan : K .scan) (k_health : K .health) (k_rdbk : K .rdbk) (k_sense : K .sense) (k_sup : K .sup) (k_evq : K .evq) : Kept K b (State.unitOn s p) := by
  unfold State.unitOn
  repeat' first
    | with_reducible assumption
    | with_reducible apply Kept.fs
    | with_reducible apply kept_showHeld
    | with_reducible apply kept_unitStarts
    | with_reducible apply Kept.ite

theorem kept_unitOff {p : Nat} (h : Kept K b s) (k_regs : K .regs) (k_fab : K .fab) (k_lnk : K .lnk) (k_tim : K .tim) (k_feeds : K .feeds) (k_patts : K .patts) (k_pix : K .pix) (k_scan : K .scan) (k_sense : K .sense) (k_sup : K .sup) (k_evq : K .evq) : Kept K b (State.unitOff s p) := by
  unfold State.unitOff
  repeat' first
    | with_reducible assumption
    | with_reducible apply Kept.fs
    | with_reducible apply kept_showHeld
    | with_reducible apply kept_unitStops
    | with_reducible apply Kept.ite

theorem kept_resync {old : State} {p : Nat} (h : Kept K b s) (k_regs : K .regs) (k_fab : K .fab) (k_tens : K .tens) (k_feeds : K .feeds) (k_patts : K .patts) (k_pix : K .pix) (k_blend : K .blend) (k_scan : K .scan) (k_evq : K .evq) : Kept K b (State.resync s old p) := by
  unfold State.resync
  repeat' first
    | with_reducible assumption
    | with_reducible apply kept_evqLost
    | with_reducible apply kept_blendRelease
    | with_reducible apply kept_dropPlans
    | with_reducible apply kept_feedRunAct
    | with_reducible apply Kept.fs
    | with_reducible apply kept_modFeed
    | with_reducible apply kept_modPatt
    | with_reducible apply kept_releaseAll
    | with_reducible apply Kept.setReg
    | with_reducible apply kept_showPhase
    | with_reducible apply kept_tenPageReset
    | with_reducible apply Kept.ite
    | (intro x; subst x)
    | lift_lets
    | fail_if_no_progress (with_reducible apply Kept.mk_other <;> first | (with_reducible refine Or.inr ?_; assumption) | with_reducible exact Or.inl rfl | skip)

theorem kept_pageResetNow {p : Nat} (h : Kept K b s) (k_regs : K .regs) (k_fab : K .fab) (k_tens : K .tens) (k_lnk : K .lnk) (k_tim : K .tim) (k_feeds : K .feeds) (k_patts : K .patts) (k_pix : K .pix) (k_blend : K .blend) (k_scan : K .scan) (k_sense : K .sense) (k_sup : K .sup) (k_evq : K .evq) : Kept K b (State.pageResetNow s p) := by
  unfold State.pageResetNow
  repeat' first
    | with_reducible assumption
    | with_reducible apply kept_modFab
    | with_reducible apply kept_resync
    | with_reducible apply kept_settle
    | with_reducible apply kept_unitOff
    | lift_lets
    | with_reducible refine Kept.mk_regs ?_ ?_ (cwf_resetPageRegs _)

theorem kept_rolePorts {old : Nat} (h : Kept K b s) (k_regs : K .regs) (k_fab : K .fab) (k_lnk : K .lnk) (k_evq : K .evq) : Kept K b (State.rolePorts s old) := by
  unfold State.rolePorts
  repeat' first
    | with_reducible assumption
    | with_reducible apply Kept.fs
    | with_reducible apply kept_portStart
    | with_reducible apply kept_portStop
    | with_reducible apply Kept.ite
    | with_reducible apply Kept.foldl
    | (intro u x hu; replace hu : Kept K b _ := hu)

theorem kept_speedWritten {p : Nat} (h : Kept K b s) (k_regs : K .regs) (k_fab : K .fab) (k_lnk : K .lnk) (k_evq : K .evq) : Kept K b (State.speedWritten s p) := by
  unfold State.speedWritten
  repeat' first
    | with_reducible assumption
    | with_reducible apply kept_portDark
    | with_reducible apply kept_portStart
    | with_reducible apply kept_settle
    | with_reducible apply Kept.ite

theorem kept_releaseFeed {n : Nat} (h : Kept K b s) (k_pix : K .pix) : Kept K b (State.releaseFeed s n) := by
  unfold State.releaseFeed
  repeat' first
    | with_reducible assumption
    | with_reducible apply kept_releaseWin
    | with_reducible apply Kept.ite
    | with_reducible apply Kept.foldl
    | (intro u x hu; replace hu : Kept K b _ := hu)

theorem kept_sweepsWritten {w : Nat} (h : Kept K b s) (k_feeds : K .feeds) (k_pix : K .pix) (k_scan : K .scan) : Kept K b (State.sweepsWritten s w) := by
  unfold State.sweepsWritten
  repeat' first
    | with_reducible assumption
    | with_reducible apply kept_dropPending
    | with_reducible apply kept_feedTidyAll
    | with_reducible apply kept_modPix
    | with_reducible apply kept_releaseWin
    | with_reducible apply Kept.ite

theorem kept_bindWritten {w : Nat} {src : Bool} (h : Kept K b s) (k_regs : K .regs) (k_fab : K .fab) (k_feeds : K .feeds) (k_pix : K .pix) (k_scan : K .scan) (k_evq : K .evq) : Kept K b (State.bindWritten s w src) := by
  unfold State.bindWritten
  repeat' first
    | with_reducible assumption
    | with_reducible apply kept_bindWindow
    | with_reducible apply kept_feedTidyAll
    | with_reducible apply kept_modPix
    | with_reducible apply Kept.ite

theorem kept_winEffect {o : Nat} (h : Kept K b s) (k_regs : K .regs) (k_fab : K .fab) (k_feeds : K .feeds) (k_pix : K .pix) (k_scan : K .scan) (k_evq : K .evq) : Kept K b (State.winEffect s o) := by
  unfold State.winEffect
  repeat' first
    | with_reducible assumption
    | with_reducible apply kept_bindWritten
    | with_reducible apply kept_sweepsWritten
    | with_reducible apply Kept.ite
    | split

theorem kept_chainEffect {old : State} {o : Nat} {mask : Nat} {fk : Bool} (h : Kept K b s) (k_regs : K .regs) (k_fab : K .fab) (k_lnk : K .lnk) (k_evq : K .evq) : Kept K b (State.chainEffect old s o mask fk) := by
  unfold State.chainEffect
  repeat' first
    | with_reducible assumption
    | with_reducible apply kept_pathCheck
    | with_reducible apply kept_pathReqApplied
    | with_reducible apply kept_rolePorts
    | with_reducible apply kept_settle
    | with_reducible apply Kept.ite

theorem kept_feedEffect {old : State} {n : Nat} {o : Nat} (h : Kept K b s) (k_regs : K .regs) (k_fab : K .fab) (k_feeds : K .feeds) (k_pix : K .pix) (k_evq : K .evq) : Kept K b (State.feedEffect old s n o) := by
  unfold State.feedEffect
  repeat' first
    | with_reducible assumption
    | with_reducible apply kept_feedFmtChanged
    | with_reducible apply kept_feedRunAct
    | with_reducible apply kept_feedTidy
    | with_reducible apply kept_releaseFeed
    | with_reducible apply Kept.ite

theorem kept_scanEffect {o : Nat} (h : Kept K b s) (k_pix : K .pix) (k_sup : K .sup) : Kept K b (State.scanEffect s o) := by
  unfold State.scanEffect
  repeat' first
    | with_reducible assumption
    | with_reducible apply kept_releaseAll
    | with_reducible apply kept_takeAllLocked
    | with_reducible apply Kept.ite

theorem kept_corrEffect {o : Nat} (h : Kept K b s) (k_regs : K .regs) (k_pix : K .pix) (k_blend : K .blend) (k_evq : K .evq) : Kept K b (State.corrEffect s o) := by
  unfold State.corrEffect
  repeat' first
    | with_reducible assumption
    | with_reducible apply kept_blendRelease
    | with_reducible apply Kept.ite

theorem kept_sfailEffect {o : Nat} {data : Nat} {mask : Nat} (h : Kept K b s) (k_regs : K .regs) : Kept K b (State.sfailEffect s o data mask) := by
  unfold State.sfailEffect
  repeat' first
    | with_reducible assumption
    | with_reducible apply Kept.fsk
    | with_reducible apply Kept.ite
    | with_reducible apply Kept.foldl
    | (intro u x hu; replace hu : Kept K b _ := hu)

theorem kept_ownerEffect {p : Nat} (h : Kept K b s) (k_regs : K .regs) : Kept K b (State.ownerEffect s p) := by
  unfold State.ownerEffect
  repeat' first
    | with_reducible assumption
    | with_reducible apply Kept.fs
    | with_reducible apply Kept.ite

theorem kept_effect {old : State} {bank : Nat} {feed : Nat} {p : Nat} {o : Nat} {data : Nat} {mask : Nat} {fk : Bool} (h : Kept K b s) (k_regs : K .regs) (k_fab : K .fab) (k_tens : K .tens) (k_lnk : K .lnk) (k_tim : K .tim) (k_feeds : K .feeds) (k_pix : K .pix) (k_blend : K .blend) (k_scan : K .scan) (k_sup : K .sup) (k_pow : K .pow) (k_evq : K .evq) : Kept K b (State.effect old s bank feed p o data mask fk) := by
  unfold State.effect
  repeat' first
    | with_reducible assumption
    | with_reducible apply kept_chainEffect
    | with_reducible apply kept_corrEffect
    | with_reducible apply kept_feedEffect
    | with_reducible apply kept_genCheck
    | with_reducible apply kept_loadAllStaged
    | with_reducible apply kept_loopWritten
    | with_reducible apply kept_modPhase
    | with_reducible apply kept_modeReqWritten
    | with_reducible apply kept_ownerEffect
    | with_reducible apply kept_phaseRunWritten
    | with_reducible apply kept_pinRest
    | with_reducible apply kept_releaseAll
    | with_reducible apply kept_releaseFeed
    | with_reducible apply kept_scanEffect
    | with_reducible apply kept_senseWritten
    | with_reducible apply kept_settle
    | with_reducible apply kept_sfailEffect
    | with_reducible apply kept_sourceApplied
    | with_reducible apply kept_speedWritten
    | with_reducible apply kept_syncPhases
    | with_reducible apply kept_tenRunWritten
    | with_reducible apply kept_winEffect
    | with_reducible apply Kept.ite
    | (intro x; subst x)
    | lift_lets
    | fail_if_no_progress (with_reducible apply Kept.mk_other <;> first | (with_reducible refine Or.inr ?_; assumption) | with_reducible exact Or.inl rfl | skip)

end Sys2Proof.Machine
end

