-- ==== Sys2Proof/Laws/KeptFirkin.lean ====
section
/-! SUPPORT. The operations of Machine/Firkin.lean keep the queue, the direction of time and the
invariant, and leave every part of the state alone but those they name. -/

namespace Sys2Proof.Machine

variable {K : Part → Prop} {b s t : State}

theorem cwf_putWrite {boot r : Regs} {who : Who} {w : SWrite} (h : cwf regDflt r = true) : cwf regDflt (putWrite boot who r w) = true := by
  unfold putWrite
  split
  · exact cwf_resetPageRegs _ h
  · split
    · exact h
    · exact cwf_rput _ _ _ _ h

theorem cwf_putWrites {boot r : Regs} {who : Who} {ws : List SWrite} (h : cwf regDflt r = true) :
    cwf regDflt (putWrites boot who r ws) = true := cwf_foldl (fun _ _ hm => cwf_putWrite hm) h

theorem kept_keepHalf {key : Nat} {p : Nat} {v : Nat} (h : Kept K b s) (k_fab : K .fab) : Kept K b (State.keepHalf s key p v) := by
  unfold State.keepHalf
  repeat' first
    | with_reducible assumption
    | with_reducible apply kept_modFab

theorem kept_dropHalf {key : Nat} {p : Nat} (h : Kept K b s) (k_fab : K .fab) : Kept K b (State.dropHalf s key p) := by
  unfold State.dropHalf
  repeat' first
    | with_reducible assumption
    | with_reducible apply kept_modFab

theorem kept_fkRes {w : Who} {c : Rc} (h : Kept K b s) (k_regs : K .regs) (k_tens : K .tens) : Kept K b (State.fkRes s w c) := by
  unfold State.fkRes
  repeat' first
    | with_reducible assumption
    | with_reducible apply kept_countPermf
    | with_reducible apply Kept.fsb
    | with_reducible apply Kept.ite
    | (intro x; subst x)
    | lift_lets
    | split

theorem kept_fkSet {hh : Nat} {f : Firkin → Firkin} (h : Kept K b s) (k_fab : K .fab) : Kept K b (State.fkSet s hh f) := by
  unfold State.fkSet
  repeat' first
    | with_reducible assumption
    | with_reducible apply kept_modFab

theorem kept_fkFree {hh : Nat} (h : Kept K b s) (k_fab : K .fab) : Kept K b (State.fkFree s hh) := by
  unfold State.fkFree
  repeat' first
    | with_reducible assumption
    | with_reducible apply kept_modFab

theorem kept_fkOpen {w : Who} (h : Kept K b s) (k_regs : K .regs) (k_fab : K .fab) (k_tens : K .tens) : Kept K b (State.fkOpen s w) := by
  unfold State.fkOpen
  repeat' first
    | with_reducible assumption
    | with_reducible apply kept_fkRes
    | with_reducible apply Kept.fsb
    | with_reducible apply kept_modFab
    | with_reducible apply Kept.ite
    | lift_lets
    | split

theorem kept_fkStage {w : Who} {data : Nat} (h : Kept K b s) (k_regs : K .regs) (k_fab : K .fab) (k_tens : K .tens) : Kept K b (State.fkStage s w data) := by
  unfold State.fkStage
  repeat' first
    | with_reducible assumption
    | with_reducible apply kept_countPermf
    | with_reducible apply kept_fkRes
    | with_reducible apply kept_fkSet
    | with_reducible apply Kept.fsb
    | with_reducible apply Kept.ite
    | (intro x; subst x)
    | lift_lets
    | split

theorem kept_noteReason {p : Option Nat} {c : Rc} (h : Kept K b s) (k_regs : K .regs) : Kept K b (State.noteReason s p c) := by
  unfold State.noteReason
  repeat' first
    | with_reducible assumption
    | with_reducible apply Kept.fs
    | split

theorem kept_noteAdm {v : Verdict} {kind : Nat} {page : Nat} {handle : Nat} (h : Kept K b s) (k_regs : K .regs) : Kept K b (State.noteAdm s v kind page handle) := by
  unfold State.noteAdm
  repeat' first
    | with_reducible assumption
    | with_reducible apply kept_admReport
    | split

theorem kept_fkCommit {w : Who} {hh : Nat} (h : Kept K b s) (k_regs : K .regs) (k_fab : K .fab) (k_tens : K .tens) : Kept K b (State.fkCommit s w hh) := by
  unfold State.fkCommit
  repeat' first
    | with_reducible assumption
    | with_reducible apply kept_fkFree
    | with_reducible apply kept_fkRes
    | with_reducible apply kept_fkSet
    | with_reducible apply Kept.ite
    | (intro x; subst x)
    | lift_lets
    | split

theorem kept_fkChecked {hh : Nat} (h : Kept K b s) (k_regs : K .regs) (k_fab : K .fab) (k_tens : K .tens) : Kept K b (State.fkChecked s hh) := by
  unfold State.fkChecked
  repeat' first
    | with_reducible assumption
    | with_reducible apply kept_fkFree
    | with_reducible apply kept_fkRes
    | with_reducible apply kept_fkSet
    | with_reducible apply kept_modFab
    | with_reducible apply kept_noteAdm
    | with_reducible apply kept_noteReason
    | with_reducible apply Kept.ite
    | lift_lets
    | split

theorem kept_fkAbort {w : Who} {hh : Nat} (h : Kept K b s) (k_regs : K .regs) (k_fab : K .fab) (k_tens : K .tens) : Kept K b (State.fkAbort s w hh) := by
  unfold State.fkAbort
  repeat' first
    | with_reducible assumption
    | with_reducible apply kept_fkFree
    | with_reducible apply kept_fkRes
    | with_reducible apply Kept.ite
    | split

theorem kept_fkRenew {w : Who} {hh : Nat} (h : Kept K b s) (k_regs : K .regs) (k_fab : K .fab) (k_tens : K .tens) : Kept K b (State.fkRenew s w hh) := by
  unfold State.fkRenew
  repeat' first
    | with_reducible assumption
    | with_reducible apply kept_fkRes
    | with_reducible apply kept_fkSet
    | with_reducible apply Kept.ite
    | split

theorem kept_fkCancel {w : Who} {hh : Nat} (h : Kept K b s) (k_regs : K .regs) (k_fab : K .fab) (k_tens : K .tens) : Kept K b (State.fkCancel s w hh) := by
  unfold State.fkCancel
  repeat' first
    | with_reducible assumption
    | with_reducible apply kept_fkFree
    | with_reducible apply kept_fkRes
    | with_reducible apply Kept.ite
    | lift_lets
    | split

theorem kept_enableApplied {p : Nat} {atCycle : Bool} (h : Kept K b s) (k_regs : K .regs) (k_fab : K .fab) (k_lnk : K .lnk) (k_tim : K .tim) (k_feeds : K .feeds) (k_patts : K .patts) (k_pix : K .pix) (k_blend : K .blend) (k_scan : K .scan) (k_health : K .health) (k_rdbk : K .rdbk) (k_sense : K .sense) (k_sup : K .sup) (k_evq : K .evq) : Kept K b (State.enableApplied s p atCycle) := by
  unfold State.enableApplied
  repeat' first
    | with_reducible assumption
    | with_reducible apply Kept.fs
    | with_reducible apply kept_modFab
    | with_reducible apply kept_unitOff
    | with_reducible apply kept_unitOn
    | with_reducible apply Kept.ite

theorem kept_applyWrites {who : Who} {hh : Nat} {ws : List SWrite} {atCycle : Bool} (h : Kept K b s) (k_regs : K .regs) (k_fab : K .fab) (k_tens : K .tens) (k_lnk : K .lnk) (k_tim : K .tim) (k_feeds : K .feeds) (k_patts : K .patts) (k_pix : K .pix) (k_blend : K .blend) (k_scan : K .scan) (k_health : K .health) (k_rdbk : K .rdbk) (k_sense : K .sense) (k_sup : K .sup) (k_pow : K .pow) (k_evq : K .evq) : Kept K b (State.applyWrites s who hh ws atCycle) := by
  unfold State.applyWrites
  repeat' first
    | with_reducible assumption
    | with_reducible apply kept_blendRelease
    | with_reducible apply kept_effect
    | with_reducible apply kept_enableApplied
    | with_reducible apply Kept.ev
    | with_reducible apply Kept.fs
    | with_reducible apply kept_keepHalf
    | with_reducible apply kept_mapChanged
    | with_reducible apply kept_pageResetNow
    | with_reducible apply kept_pairsApplied
    | with_reducible apply kept_showHeld
    | with_reducible apply Kept.ite
    | with_reducible apply Kept.foldl
    | (intro u x hu; replace hu : Kept K b _ := hu)
    | lift_lets
    | with_reducible refine Kept.mk_regs ?_ ?_ (cwf_putWrites)

theorem kept_fkApply {f : Firkin} {atCycle : Bool} (h : Kept K b s) (k_regs : K .regs) (k_fab : K .fab) (k_tens : K .tens) (k_lnk : K .lnk) (k_tim : K .tim) (k_feeds : K .feeds) (k_patts : K .patts) (k_pix : K .pix) (k_blend : K .blend) (k_scan : K .scan) (k_health : K .health) (k_rdbk : K .rdbk) (k_sense : K .sense) (k_sup : K .sup) (k_pow : K .pow) (k_evq : K .evq) : Kept K b (State.fkApply s f atCycle) := by
  unfold State.fkApply
  repeat' first
    | with_reducible assumption
    | with_reducible apply kept_applyWrites
    | with_reducible apply kept_fkFree

theorem kept_fkApplyDue {dcns : List Nat} {atCycle : Bool} {n : Nat} (h : Kept K b s) (k_regs : K .regs) (k_fab : K .fab) (k_tens : K .tens) (k_lnk : K .lnk) (k_tim : K .tim) (k_feeds : K .feeds) (k_patts : K .patts) (k_pix : K .pix) (k_blend : K .blend) (k_scan : K .scan) (k_health : K .health) (k_rdbk : K .rdbk) (k_sense : K .sense) (k_sup : K .sup) (k_pow : K .pow) (k_evq : K .evq) :
    Kept K b (s.fkApplyDue dcns atCycle n) := by
  induction n generalizing s with
  | zero => exact h
  | succ n ih =>
    unfold State.fkApplyDue
    split
    · exact ih (by apply kept_fkApply h <;> assumption)
    · exact h

theorem kept_fkApplyTo {dcns : List Nat} {atCycle : Bool} {hh n : Nat} (h : Kept K b s) (k_regs : K .regs) (k_fab : K .fab) (k_tens : K .tens) (k_lnk : K .lnk) (k_tim : K .tim) (k_feeds : K .feeds) (k_patts : K .patts) (k_pix : K .pix) (k_blend : K .blend) (k_scan : K .scan) (k_health : K .health) (k_rdbk : K .rdbk) (k_sense : K .sense) (k_sup : K .sup) (k_pow : K .pow) (k_evq : K .evq) :
    Kept K b (s.fkApplyTo dcns atCycle hh n) := by
  induction n generalizing s with
  | zero => exact h
  | succ n ih =>
    unfold State.fkApplyTo
    split
    · refine Kept.ite ?_ (ih ?_) <;> (apply kept_fkApply h <;> assumption)
    · exact h

theorem kept_fkLapse {f : Firkin} (h : Kept K b s) (k_regs : K .regs) (k_fab : K .fab) (k_evq : K .evq) : Kept K b (State.fkLapse s f) := by
  unfold State.fkLapse
  repeat' first
    | with_reducible assumption
    | with_reducible apply Kept.evTo
    | with_reducible apply kept_fkFree

theorem kept_autoFirkin {ws : List SWrite} {lifted : Bool} (h : Kept K b s) (k_regs : K .regs) (k_fab : K .fab) (k_tens : K .tens) (k_lnk : K .lnk) (k_tim : K .tim) (k_feeds : K .feeds) (k_patts : K .patts) (k_pix : K .pix) (k_blend : K .blend) (k_scan : K .scan) (k_health : K .health) (k_rdbk : K .rdbk) (k_sense : K .sense) (k_sup : K .sup) (k_pow : K .pow) (k_evq : K .evq) : Kept K b (State.autoFirkin s ws lifted).1 := by
  unfold State.autoFirkin
  repeat' first
    | with_reducible assumption
    | with_reducible apply kept_applyWrites
    | with_reducible apply kept_noteAdm
    | with_reducible apply kept_noteReason
    | (intro x; subst x)
    | lift_lets
    | split

theorem kept_autoFirkin_eq {ws : List SWrite} {lifted : Bool} {y : Option Rc} (e : State.autoFirkin s ws lifted = (t, y)) (h : Kept K b s) (k_regs : K .regs) (k_fab : K .fab) (k_tens : K .tens) (k_lnk : K .lnk) (k_tim : K .tim) (k_feeds : K .feeds) (k_patts : K .patts) (k_pix : K .pix) (k_blend : K .blend) (k_scan : K .scan) (k_health : K .health) (k_rdbk : K .rdbk) (k_sense : K .sense) (k_sup : K .sup) (k_pow : K .pow) (k_evq : K .evq) : Kept K b t := fst_of_eq (kept_autoFirkin h k_regs k_fab k_tens k_lnk k_tim k_feeds k_patts k_pix k_blend k_scan k_health k_rdbk k_sense k_sup k_pow k_evq) e

theorem kept_hFkCmd (k_regs : K .regs) (k_fab : K .fab) (k_tens : K .tens) : HKept K hFkCmd := by
  intro s w p o g d b h
  unfold hFkCmd
  repeat' first
    | with_reducible assumption
    | with_reducible apply kept_fkAbort
    | with_reducible apply kept_fkCancel
    | with_reducible apply kept_fkCommit
    | with_reducible apply kept_fkOpen
    | with_reducible apply kept_fkRenew
    | with_reducible apply Rec.ok
    | lift_lets
    | split

theorem kept_hFkData (k_regs : K .regs) (k_fab : K .fab) (k_tens : K .tens) : HKept K hFkData := by
  intro s w p o g d b h
  unfold hFkData
  repeat' first
    | with_reducible assumption
    | with_reducible apply kept_fkStage
    | with_reducible apply Rec.ok

theorem kept_fkCmd {a : Sys2Proof.Access} {op : Nat} {hh : Nat} (h : Kept K b s) (k_regs : K .regs) (k_fab : K .fab) (k_tens : K .tens) (k_evq : K .evq) : Kept K b (fkCmd s a op hh) := by
  unfold fkCmd
  repeat' first
    | with_reducible assumption
    | with_reducible apply kept_begin_
    | with_reducible apply kept_direct
    | with_reducible apply kept_hFkCmd

theorem kept_execOpen {a : Sys2Proof.Access} (k_regs : K .regs) (k_fab : K .fab) (k_tens : K .tens) (k_evq : K .evq) : Nxt (Kept K s) (execOpen a s) := by
  have h : Kept K s s := Kept.refl s
  unfold execOpen
  repeat' first
    | with_reducible assumption
    | with_reducible apply kept_fkCmd
    | with_reducible apply Nxt.next

theorem kept_execStageWrite {a : Sys2Proof.Access} {data : Word} (k_regs : K .regs) (k_fab : K .fab) (k_tens : K .tens) (k_evq : K .evq) : Nxt (Kept K s) (execStageWrite a data s) := by
  have h : Kept K s s := Kept.refl s
  unfold execStageWrite
  repeat' first
    | with_reducible assumption
    | with_reducible apply kept_begin_
    | with_reducible apply kept_direct
    | with_reducible apply kept_hFkData
    | with_reducible apply Nxt.next

theorem kept_execCommit {a : Sys2Proof.Access} {hh : Nat} (k_regs : K .regs) (k_fab : K .fab) (k_tens : K .tens) (k_evq : K .evq) : Nxt (Kept K s) (execCommit a hh s) := by
  have h : Kept K s s := Kept.refl s
  unfold execCommit
  repeat' first
    | with_reducible assumption
    | with_reducible apply kept_fkCmd
    | with_reducible apply Nxt.next

theorem kept_execAbort {a : Sys2Proof.Access} {hh : Nat} (k_regs : K .regs) (k_fab : K .fab) (k_tens : K .tens) (k_evq : K .evq) : Nxt (Kept K s) (execAbort a hh s) := by
  have h : Kept K s s := Kept.refl s
  unfold execAbort
  repeat' first
    | with_reducible assumption
    | with_reducible apply kept_fkCmd
    | with_reducible apply Nxt.next

theorem kept_execRenew {a : Sys2Proof.Access} {hh : Nat} (k_regs : K .regs) (k_fab : K .fab) (k_tens : K .tens) (k_evq : K .evq) : Nxt (Kept K s) (execRenew a hh s) := by
  have h : Kept K s s := Kept.refl s
  unfold execRenew
  repeat' first
    | with_reducible assumption
    | with_reducible apply kept_fkCmd
    | with_reducible apply Nxt.next

theorem kept_execCancel {a : Sys2Proof.Access} {hh : Nat} (k_regs : K .regs) (k_fab : K .fab) (k_tens : K .tens) (k_evq : K .evq) : Nxt (Kept K s) (execCancel a hh s) := by
  have h : Kept K s s := Kept.refl s
  unfold execCancel
  repeat' first
    | with_reducible assumption
    | with_reducible apply kept_fkCmd
    | with_reducible apply Nxt.next

theorem kept_execCommitChecksDone {hh : Nat} (k_regs : K .regs) (k_fab : K .fab) (k_tens : K .tens) : Nxt (Kept K s) (execCommitChecksDone hh s) := by
  have h : Kept K s s := Kept.refl s
  unfold execCommitChecksDone
  repeat' first
    | with_reducible assumption
    | with_reducible apply kept_begin_
    | with_reducible apply kept_fkChecked
    | with_reducible apply Nxt.next

theorem kept_execFirkinLeaseExpire {hh : Nat} (k_regs : K .regs) (k_fab : K .fab) (k_evq : K .evq) : Nxt (Kept K s) (execFirkinLeaseExpire hh s) := by
  have h : Kept K s s := Kept.refl s
  unfold execFirkinLeaseExpire
  repeat' first
    | with_reducible assumption
    | with_reducible apply Kept.advance
    | with_reducible apply kept_begin_
    | with_reducible apply kept_fkDrop
    | with_reducible apply Kept.ite
    | with_reducible apply Nxt.next
    | lift_lets
    | split

theorem kept_execFirkinApply {hh : Nat} (k_regs : K .regs) (k_fab : K .fab) (k_tens : K .tens) (k_lnk : K .lnk) (k_tim : K .tim) (k_feeds : K .feeds) (k_patts : K .patts) (k_pix : K .pix) (k_blend : K .blend) (k_scan : K .scan) (k_health : K .health) (k_rdbk : K .rdbk) (k_sense : K .sense) (k_sup : K .sup) (k_pow : K .pow) (k_evq : K .evq) : Nxt (Kept K s) (execFirkinApply hh s) := by
  have h : Kept K s s := Kept.refl s
  unfold execFirkinApply
  repeat' first
    | with_reducible assumption
    | with_reducible apply Kept.advance
    | with_reducible apply kept_begin_
    | with_reducible apply kept_fkApplyTo
    | with_reducible apply Kept.ite
    | with_reducible apply Nxt.next
    | lift_lets
    | split

theorem kept_execFirkinInstantPassed {hh : Nat} (k_regs : K .regs) (k_fab : K .fab) (k_evq : K .evq) : Nxt (Kept K s) (execFirkinInstantPassed hh s) := by
  have h : Kept K s s := Kept.refl s
  unfold execFirkinInstantPassed
  repeat' first
    | with_reducible assumption
    | with_reducible apply Kept.advance
    | with_reducible apply kept_begin_
    | with_reducible apply kept_fkLapse
    | with_reducible apply Kept.ite
    | with_reducible apply Nxt.next
    | lift_lets
    | split

end Sys2Proof.Machine
end

