-- ==== Sys2Proof/Laws/KeptRestart.lean ====
section
/-! SUPPORT. The operations of Machine/Restart.lean keep the queue, the direction of time and the
invariant, and leave every part of the state alone but those they name. -/

namespace Sys2Proof.Machine

variable {K : Part → Prop} {b s t : State}

theorem kept_modUpd {f : UpdSt → UpdSt} (h : Kept K b s) (k_upd : K .upd) : Kept K b (State.modUpd s f) := by
  unfold State.modUpd
  repeat' first
    | with_reducible assumption
    | fail_if_no_progress (with_reducible apply Kept.mk_other <;> first | (with_reducible refine Or.inr ?_; assumption) | with_reducible exact Or.inl rfl | skip)

theorem kept_showBoot (h : Kept K b s) (k_regs : K .regs) : Kept K b (State.showBoot s) := by
  unfold State.showBoot
  repeat' first
    | with_reducible assumption
    | with_reducible apply Kept.fs
    | split

theorem kept_showRcvd (h : Kept K b s) (k_regs : K .regs) : Kept K b (State.showRcvd s) := by
  unfold State.showRcvd
  repeat' first
    | with_reducible assumption
    | with_reducible apply Kept.fs

theorem kept_targetState {v : Nat} (h : Kept K b s) (k_regs : K .regs) : Kept K b (State.targetState s v) := by
  unfold State.targetState
  repeat' first
    | with_reducible assumption
    | with_reducible apply Kept.fsk
    | with_reducible apply Kept.ite

theorem kept_updLoad (h : Kept K b s) (k_regs : K .regs) (k_upd : K .upd) : Kept K b (State.updLoad s) := by
  unfold State.updLoad
  repeat' first
    | with_reducible assumption
    | with_reducible apply Kept.fs
    | with_reducible apply Kept.fsk
    | with_reducible apply kept_modUpd
    | with_reducible apply kept_showBoot
    | with_reducible apply kept_showRcvd
    | with_reducible apply kept_targetState
    | with_reducible apply Kept.ite
    | (intro x; subst x)
    | lift_lets
    | split

theorem kept_keepReg {old : State} {page : Nat} {off : Nat} (h : Kept K b s) (k_regs : K .regs) : Kept K b (State.keepReg s old page off) := by
  unfold State.keepReg
  repeat' first
    | with_reducible assumption
    | with_reducible apply Kept.setReg

theorem kept_keepAon {old : State} (h : Kept K b s) (k_regs : K .regs) : Kept K b (State.keepAon s old) := by
  unfold State.keepAon
  repeat' first
    | with_reducible assumption
    | with_reducible apply Kept.fs
    | with_reducible apply Kept.fsk
    | with_reducible apply kept_keepReg
    | with_reducible apply Kept.foldl
    | (intro u x hu; replace hu : Kept K b _ := hu)

theorem kept_bare (h : Kept K b s) (kall : ∀ p, K p) : Kept K b s.bare :=
  h.anything kall rfl (Nat.le_refl _) (Nat.le_refl _) fun _ => rfl

theorem kept_loads (h : Kept K b s) (k_regs : K .regs) (k_fab : K .fab) (k_sec : K .sec) (k_upd : K .upd) (k_evq : K .evq) : Kept K b (State.loads s) := by
  unfold State.loads
  repeat' first
    | with_reducible assumption
    | with_reducible apply kept_arbLoad
    | with_reducible apply kept_otpLoad
    | with_reducible apply kept_storeLoad
    | with_reducible apply kept_strapLoad
    | with_reducible apply kept_updLoad

theorem kept_halvesUp (h : Kept K b s) (k_regs : K .regs) : Kept K b (State.halvesUp s) := by
  unfold State.halvesUp
  repeat' first
    | with_reducible assumption
    | with_reducible apply Kept.fs

theorem kept_coldReset {cause : Nat} (h : Kept K b s) (kall : ∀ p, K p) : Kept K b (State.coldReset s cause) := by
  unfold State.coldReset
  repeat' first
    | with_reducible assumption
    | with_reducible exact kall _
    | with_reducible apply kept_bare
    | with_reducible apply Kept.fs
    | with_reducible apply kept_halvesUp
    | with_reducible apply Kept.inc
    | with_reducible apply kept_keepAon
    | with_reducible apply kept_loads
    | with_reducible apply kept_modPow
    | with_reducible apply kept_modSec

theorem kept_pornReset {straps : Nat} (h : Kept K b s) (kall : ∀ p, K p) : Kept K b (State.pornReset s straps) := by
  unfold State.pornReset
  repeat' first
    | with_reducible assumption
    | with_reducible exact kall _
    | with_reducible apply kept_bare
    | with_reducible apply Kept.fs
    | with_reducible apply kept_loads
    | with_reducible apply kept_modPow

theorem kept_keepSession {old : State} {n : Nat} (h : Kept K b s) (k_regs : K .regs) (k_tens : K .tens) (k_evq : K .evq) : Kept K b (State.keepSession old s n) := by
  unfold State.keepSession
  repeat' first
    | with_reducible assumption
    | exact fun _ _ => rfl
    | with_reducible apply Kept.fsi
    | with_reducible apply kept_keepReg
    | with_reducible apply kept_modTen
    | with_reducible apply kept_setTst
    | (with_reducible refine Or.inr ?_; assumption)
    | with_reducible apply Kept.ite

theorem kept_keepPage {old : State} {p : Nat} (h : Kept K b s) (k_regs : K .regs) : Kept K b (State.keepPage s old p) := by
  unfold State.keepPage
  repeat' first
    | with_reducible assumption
    | with_reducible refine Kept.mk_regs ?_ ?_ (cwf_foldl fun _ _ hm => cwf_cput _ _ _ hm)

theorem kept_keepDram {old : State} (ho : b.wf = true → cwf (fun _ => (0 : Byte)) old.mem.dram = true) (h : Kept K b s) (k_regs : K .regs) (k_dram : K .dram) (k_memc : K .memc) :
    Kept K b (s.keepDram old) := by
  have hm : Kept K b { s with mem := old.mem } := ⟨h.pending, h.now, h.free, fun w => by
    have hw := (State.wf_iff _).mp (h.wf w)
    exact (State.wf_iff _).mpr ⟨hw.1, hw.2.1, ho w, hw.2.2.2⟩, fun p => by
    rcases h.same p with e | e
    · cases p with
      | dram => exact .inr k_dram
      | memc => exact .inr k_memc
      | _ => exact .inl e
    · exact .inr e⟩
  unfold State.keepDram
  refine Kept.ite ?_ h
  exact (((kept_keepPage hm k_regs).fs _ _ k_regs).fs _ _ k_regs).fs _ _ k_regs

theorem kept_wakeReset {src : Nat} (h : Kept K b s) (kall : ∀ p, K p) : Kept K b (State.wakeReset s src) := by
  unfold State.wakeReset
  repeat' first
    | with_reducible assumption
    | with_reducible exact kall _
    | with_reducible apply kept_keepDram (fun w => ((State.wf_iff _).mp (h.wf w)).2.2.1)
    | with_reducible apply kept_bare
    | with_reducible apply Kept.ev
    | with_reducible apply Kept.fs
    | with_reducible apply Kept.inc
    | with_reducible apply kept_keepAon
    | with_reducible apply kept_keepPage
    | with_reducible apply kept_keepReg
    | with_reducible apply kept_keepSession
    | with_reducible apply kept_loads
    | with_reducible apply kept_modPow
    | with_reducible apply Kept.foldl
    | (intro u x hu; replace hu : Kept K b _ := hu)
    | (intro x; subst x)
    | lift_lets
    | fail_if_no_progress (with_reducible apply Kept.mk_other <;> first | (with_reducible refine Or.inr ?_; exact kall _) | with_reducible exact Or.inl rfl | skip)

end Sys2Proof.Machine
end

