-- ==== Sys2Proof/Laws/KeptReset.lean ====
section
/-! SUPPORT. The operations of Machine/Reset.lean keep the queue, the direction of time and the
invariant, and leave every part of the state alone but those they name. -/

namespace Sys2Proof.Machine

variable {K : Part → Prop} {b s t : State}

theorem kept_halfOut {bb : Bool} {code : Nat} (h : Kept K b s) (k_regs : K .regs) (k_blend : K .blend) : Kept K b (State.halfOut s bb code) := by
  unfold State.halfOut
  repeat' first
    | with_reducible assumption
    | with_reducible apply kept_blendHalf
    | with_reducible apply Kept.fs

theorem kept_halfIn {bb : Bool} (h : Kept K b s) (k_regs : K .regs) : Kept K b (State.halfIn s bb) := by
  unfold State.halfIn
  repeat' first
    | with_reducible assumption
    | with_reducible apply Kept.fs

theorem kept_halfBack {bb : Bool} (h : Kept K b s) (k_regs : K .regs) : Kept K b (State.halfBack s bb) := by
  unfold State.halfBack
  repeat' first
    | with_reducible assumption
    | with_reducible apply kept_halfIn
    | with_reducible apply Kept.ite

theorem kept_arrayStop (h : Kept K b s) (k_regs : K .regs) (k_pix : K .pix) (k_blend : K .blend) : Kept K b (State.arrayStop s) := by
  unfold State.arrayStop
  repeat' first
    | with_reducible assumption
    | with_reducible apply kept_halfOut
    | with_reducible apply kept_modPix
    | with_reducible apply kept_releaseFor
    | with_reducible apply Kept.ite
    | with_reducible apply Kept.foldl
    | (intro u x hu; replace hu : Kept K b _ := hu)

theorem kept_mgmtStop (h : Kept K b s) (k_regs : K .regs) (k_fab : K .fab) (k_evq : K .evq) : Kept K b (State.mgmtStop s) := by
  unfold State.mgmtStop
  repeat' first
    | with_reducible assumption
    | with_reducible apply kept_fkDrop
    | with_reducible apply kept_modFab
    | with_reducible apply kept_pauseAccess

theorem kept_handoverBreak (h : Kept K b s) (k_regs : K .regs) (k_pix : K .pix) (k_blend : K .blend) (k_upd : K .upd) : Kept K b (State.handoverBreak s) := by
  unfold State.handoverBreak
  repeat' first
    | with_reducible assumption
    | with_reducible apply kept_arrayStop
    | with_reducible apply kept_modUpd
    | with_reducible apply Kept.ite

theorem kept_mgmtReset {cause : Nat} (h : Kept K b s) (k_regs : K .regs) (k_fab : K .fab) (k_pix : K .pix) (k_blend : K .blend) (k_upd : K .upd) (k_evq : K .evq) : Kept K b (State.mgmtReset s cause) := by
  unfold State.mgmtReset
  repeat' first
    | with_reducible assumption
    | with_reducible apply Kept.fs
    | with_reducible apply kept_handoverBreak
    | with_reducible apply Kept.inc
    | with_reducible apply kept_mgmtStop

theorem kept_mgmtUp (h : Kept K b s) (k_regs : K .regs) (k_fab : K .fab) (k_tens : K .tens) (k_evq : K .evq) : Kept K b (State.mgmtUp s) := by
  unfold State.mgmtUp
  repeat' first
    | with_reducible assumption
    | with_reducible apply Kept.ev
    | with_reducible apply kept_modFab
    | with_reducible apply kept_restoreAccess
    | with_reducible apply Kept.ite

theorem kept_watchdog (h : Kept K b s) (k_regs : K .regs) (k_fab : K .fab) (k_pix : K .pix) (k_blend : K .blend) (k_upd : K .upd) (k_evq : K .evq) : Kept K b (State.watchdog s) := by
  unfold State.watchdog
  repeat' first
    | with_reducible assumption
    | with_reducible apply Kept.advance
    | with_reducible apply kept_mgmtReset
    | with_reducible apply Kept.ite

theorem kept_lockstep (h : Kept K b s) (k_regs : K .regs) (k_fab : K .fab) (k_pix : K .pix) (k_blend : K .blend) (k_upd : K .upd) (k_evq : K .evq) : Kept K b (State.lockstep s) := by
  unfold State.lockstep
  repeat' first
    | with_reducible assumption
    | with_reducible apply Kept.inc
    | with_reducible apply kept_mgmtReset
    | with_reducible apply kept_modFab
    | with_reducible apply Kept.ite

theorem kept_setHalted {bb : Nat} {on : Bool} (h : Kept K b s) (k_regs : K .regs) : Kept K b (State.setHalted s bb on) := by
  unfold State.setHalted
  repeat' first
    | with_reducible assumption
    | with_reducible apply Kept.fs

theorem kept_haltCore {bb : Nat} (h : Kept K b s) (k_regs : K .regs) (k_fab : K .fab) (k_blend : K .blend) (k_sup : K .sup) (k_evq : K .evq) : Kept K b (State.haltCore s bb) := by
  unfold State.haltCore
  repeat' first
    | with_reducible assumption
    | with_reducible apply Kept.ev
    | with_reducible apply kept_halfOut
    | with_reducible apply kept_haltSupply
    | with_reducible apply kept_pauseAccess
    | with_reducible apply kept_setHalted
    | (intro x; subst x)
    | lift_lets
    | split

theorem kept_resumeCore {bb : Nat} (h : Kept K b s) (k_regs : K .regs) (k_fab : K .fab) (k_tens : K .tens) (k_sup : K .sup) (k_evq : K .evq) : Kept K b (State.resumeCore s bb) := by
  unfold State.resumeCore
  repeat' first
    | with_reducible assumption
    | with_reducible apply Kept.ev
    | with_reducible apply kept_halfIn
    | with_reducible apply kept_modFab
    | with_reducible apply kept_restoreAccess
    | with_reducible apply kept_resumeSupply
    | with_reducible apply kept_setHalted
    | with_reducible apply Kept.ite
    | (intro x; subst x)
    | lift_lets
    | split

theorem kept_haltWritten (h : Kept K b s) (k_regs : K .regs) (k_fab : K .fab) (k_tens : K .tens) (k_blend : K .blend) (k_sup : K .sup) (k_evq : K .evq) : Kept K b (State.haltWritten s) := by
  unfold State.haltWritten
  repeat' first
    | with_reducible assumption
    | with_reducible apply kept_haltCore
    | with_reducible apply kept_resumeCore
    | with_reducible apply Kept.ite
    | with_reducible apply Kept.foldl
    | (intro u x hu; replace hu : Kept K b _ := hu)

theorem kept_tapOther (h : Kept K b s) (k_regs : K .regs) : Kept K b (State.tapOther s) := by
  unfold State.tapOther
  repeat' first
    | with_reducible assumption
    | with_reducible apply Kept.fs

theorem kept_tapBypass {tdi : Bool} (h : Kept K b s) (k_regs : K .regs) (k_pow : K .pow) : Kept K b (State.tapBypass s tdi) := by
  unfold State.tapBypass
  repeat' first
    | with_reducible assumption
    | with_reducible apply Kept.emit
    | with_reducible apply kept_modPow
    | with_reducible apply kept_tapOther

theorem kept_tapExtest {tdi : Bool} (h : Kept K b s) (k_regs : K .regs) (k_scan : K .scan) (k_pow : K .pow) (k_evq : K .evq) : Kept K b (State.tapExtest s tdi) := by
  unfold State.tapExtest
  repeat' first
    | with_reducible assumption
    | with_reducible apply Kept.emit
    | with_reducible apply Kept.ev
    | with_reducible apply Kept.fs
    | with_reducible apply kept_modScan
    | with_reducible apply kept_tapBypass
    | with_reducible apply Kept.ite

theorem kept_hRstCmd (kall : ∀ p, K p) : HKept K hRstCmd := by
  intro s w p o g d b h
  unfold hRstCmd
  repeat' first
    | with_reducible assumption
    | with_reducible exact kall _
    | with_reducible apply kept_coldReset
    | with_reducible apply Kept.fs
    | with_reducible apply kept_halfOut
    | with_reducible apply kept_mgmtReset
    | with_reducible apply Rec.ite
    | with_reducible apply Rec.ok
    | with_reducible apply Rec.error
    | lift_lets
    | split

theorem kept_hKick (k_fab : K .fab) : HKept K hKick := by
  intro s w p o g d b h
  unfold hKick
  repeat' first
    | with_reducible assumption
    | with_reducible apply kept_modFab
    | with_reducible apply Kept.ite
    | with_reducible apply Rec.ok

theorem kept_hDbgHalt (k_regs : K .regs) (k_fab : K .fab) (k_tens : K .tens) (k_blend : K .blend) (k_sup : K .sup) (k_evq : K .evq) : HKept K hDbgHalt := by
  intro s w p o g d b h
  unfold hDbgHalt
  repeat' first
    | with_reducible assumption
    | with_reducible apply kept_haltWritten
    | with_reducible apply kept_storeReg
    | with_reducible apply Rec.ok
    | with_reducible apply Rec.error
    | split

theorem kept_rstCmd {a : Sys2Proof.Access} {act : Nat} (h : Kept K b s) (kall : ∀ p, K p) : Kept K b (rstCmd s a act) := by
  unfold rstCmd
  repeat' first
    | with_reducible assumption
    | with_reducible exact kall _
    | with_reducible apply kept_begin_
    | with_reducible apply kept_direct
    | with_reducible apply kept_hRstCmd

theorem kept_execColdReset {a : Sys2Proof.Access} (kall : ∀ p, K p) : Nxt (Kept K s) (execColdReset a s) := by
  have h : Kept K s s := Kept.refl s
  unfold execColdReset
  repeat' first
    | with_reducible assumption
    | with_reducible apply kept_rstCmd
    | with_reducible apply Nxt.next

theorem kept_execManagementPairReset {a : Sys2Proof.Access} (kall : ∀ p, K p) : Nxt (Kept K s) (execManagementPairReset a s) := by
  have h : Kept K s s := Kept.refl s
  unfold execManagementPairReset
  repeat' first
    | with_reducible assumption
    | with_reducible apply kept_rstCmd
    | with_reducible apply Nxt.next

theorem kept_execPixaReset {a : Sys2Proof.Access} (kall : ∀ p, K p) : Nxt (Kept K s) (execPixaReset a s) := by
  have h : Kept K s s := Kept.refl s
  unfold execPixaReset
  repeat' first
    | with_reducible assumption
    | with_reducible apply kept_rstCmd
    | with_reducible apply Nxt.next

theorem kept_execPixbReset {a : Sys2Proof.Access} (kall : ∀ p, K p) : Nxt (Kept K s) (execPixbReset a s) := by
  have h : Kept K s s := Kept.refl s
  unfold execPixbReset
  repeat' first
    | with_reducible assumption
    | with_reducible apply kept_rstCmd
    | with_reducible apply Nxt.next

theorem kept_execKick {a : Sys2Proof.Access} (k_regs : K .regs) (k_fab : K .fab) (k_tens : K .tens) (k_evq : K .evq) : Nxt (Kept K s) (execKick a s) := by
  have h : Kept K s s := Kept.refl s
  unfold execKick
  repeat' first
    | with_reducible assumption
    | with_reducible apply kept_begin_
    | with_reducible apply kept_direct
    | with_reducible apply kept_hKick
    | with_reducible apply Nxt.next

theorem kept_execWatchdogExpire (k_regs : K .regs) (k_fab : K .fab) (k_pix : K .pix) (k_blend : K .blend) (k_upd : K .upd) (k_evq : K .evq) : Nxt (Kept K s) (execWatchdogExpire s) := by
  have h : Kept K s s := Kept.refl s
  unfold execWatchdogExpire
  repeat' first
    | with_reducible assumption
    | with_reducible apply kept_begin_
    | with_reducible apply kept_watchdog
    | with_reducible apply Nxt.next

theorem kept_execRegisterAccessRestored (k_regs : K .regs) (k_fab : K .fab) (k_tens : K .tens) (k_evq : K .evq) : Nxt (Kept K s) (execRegisterAccessRestored s) := by
  have h : Kept K s s := Kept.refl s
  unfold execRegisterAccessRestored
  repeat' first
    | with_reducible assumption
    | with_reducible apply kept_begin_
    | with_reducible apply kept_mgmtUp
    | with_reducible apply Kept.ite
    | with_reducible apply Nxt.next

theorem kept_execLockstepMismatch (k_regs : K .regs) (k_fab : K .fab) (k_pix : K .pix) (k_blend : K .blend) (k_upd : K .upd) (k_evq : K .evq) : Nxt (Kept K s) (execLockstepMismatch s) := by
  have h : Kept K s s := Kept.refl s
  unfold execLockstepMismatch
  repeat' first
    | with_reducible assumption
    | with_reducible apply kept_begin_
    | with_reducible apply kept_lockstep
    | with_reducible apply Nxt.next

theorem kept_dbgHalt {a : Sys2Proof.Access} {core : Nat} {on : Bool} (h : Kept K b s) (k_regs : K .regs) (k_fab : K .fab) (k_tens : K .tens) (k_blend : K .blend) (k_sup : K .sup) (k_evq : K .evq) : Kept K b (dbgHalt s a core on) := by
  unfold dbgHalt
  repeat' first
    | with_reducible assumption
    | with_reducible apply kept_begin_
    | with_reducible apply kept_direct
    | with_reducible apply kept_hDbgHalt

theorem kept_execHalt {a : Sys2Proof.Access} {core : Fin 5} (k_regs : K .regs) (k_fab : K .fab) (k_tens : K .tens) (k_blend : K .blend) (k_sup : K .sup) (k_evq : K .evq) : Nxt (Kept K s) (execHalt a core s) := by
  have h : Kept K s s := Kept.refl s
  unfold execHalt
  repeat' first
    | with_reducible assumption
    | with_reducible apply kept_dbgHalt
    | with_reducible apply Nxt.next

theorem kept_execResume {a : Sys2Proof.Access} {core : Fin 5} (k_regs : K .regs) (k_fab : K .fab) (k_tens : K .tens) (k_blend : K .blend) (k_sup : K .sup) (k_evq : K .evq) : Nxt (Kept K s) (execResume a core s) := by
  have h : Kept K s s := Kept.refl s
  unfold execResume
  repeat' first
    | with_reducible assumption
    | with_reducible apply kept_dbgHalt
    | with_reducible apply Nxt.next

theorem kept_execBypass {tdi : Bool} (k_regs : K .regs) (k_pow : K .pow) : Nxt (Kept K s) (execBypass tdi s) := by
  have h : Kept K s s := Kept.refl s
  unfold execBypass
  repeat' first
    | with_reducible assumption
    | with_reducible apply kept_begin_
    | with_reducible apply kept_tapBypass
    | with_reducible apply Nxt.next

theorem kept_execIdcode (k_regs : K .regs) : Nxt (Kept K s) (execIdcode s) := by
  have h : Kept K s s := Kept.refl s
  unfold execIdcode
  repeat' first
    | with_reducible assumption
    | with_reducible apply kept_begin_
    | with_reducible apply Kept.emit
    | with_reducible apply kept_tapOther
    | with_reducible apply Nxt.next

theorem kept_execSamplePreload {pins : Nat} {preload : Nat} (k_regs : K .regs) (k_pow : K .pow) : Nxt (Kept K s) (execSamplePreload pins preload s) := by
  have h : Kept K s s := Kept.refl s
  unfold execSamplePreload
  repeat' first
    | with_reducible assumption
    | with_reducible apply kept_begin_
    | with_reducible apply Kept.emit
    | with_reducible apply kept_modPow
    | with_reducible apply kept_tapOther
    | with_reducible apply Nxt.next

theorem kept_execExtest {tdi : Bool} (k_regs : K .regs) (k_scan : K .scan) (k_pow : K .pow) (k_evq : K .evq) : Nxt (Kept K s) (execExtest tdi s) := by
  have h : Kept K s s := Kept.refl s
  unfold execExtest
  repeat' first
    | with_reducible assumption
    | with_reducible apply kept_begin_
    | with_reducible apply kept_tapExtest
    | with_reducible apply Nxt.next

end Sys2Proof.Machine
end

