-- ==== Sys2Proof/Laws/KeptUpdate.lean ====
section
/-! SUPPORT. The operations of Machine/Update.lean keep the queue, the direction of time and the
invariant, and leave every part of the state alone but those they name. -/

namespace Sys2Proof.Machine

variable {K : Part → Prop} {b s t : State}

theorem kept_updRes {c : Rc} (h : Kept K b s) (k_regs : K .regs) : Kept K b (State.updRes s c) := by
  unfold State.updRes
  repeat' first
    | with_reducible assumption
    | with_reducible apply Kept.fs

theorem kept_updCmdRes {w : Who} {c : Rc} (h : Kept K b s) (k_regs : K .regs) (k_tens : K .tens) : Kept K b (State.updCmdRes s w c) := by
  unfold State.updCmdRes
  repeat' first
    | with_reducible assumption
    | with_reducible apply kept_countPermf
    | with_reducible apply kept_updRes
    | with_reducible apply Kept.ite
    | (intro x; subst x)
    | lift_lets
    | split

theorem kept_setUpd {v : Nat} (h : Kept K b s) (k_regs : K .regs) : Kept K b (State.setUpd s v) := by
  unfold State.setUpd
  repeat' first
    | with_reducible assumption
    | with_reducible apply Kept.fs

theorem kept_showPend (h : Kept K b s) (k_regs : K .regs) : Kept K b (State.showPend s) := by
  unfold State.showPend
  repeat' first
    | with_reducible assumption
    | with_reducible apply Kept.fs

theorem kept_updEv {code : Nat} {detail : Nat} (h : Kept K b s) (k_regs : K .regs) (k_evq : K .evq) : Kept K b (State.updEv s code detail) := by
  unfold State.updEv
  repeat' first
    | with_reducible assumption
    | with_reducible apply Kept.ev

theorem kept_slotState {k : Nat} {v : Nat} (h : Kept K b s) (k_regs : K .regs) : Kept K b (State.slotState s k v) := by
  unfold State.slotState
  repeat' first
    | with_reducible assumption
    | with_reducible apply Kept.fsk

theorem kept_showSlot {k : Nat} {m : Manifest} (h : Kept K b s) (k_regs : K .regs) : Kept K b (State.showSlot s k m) := by
  unfold State.showSlot
  repeat' first
    | with_reducible assumption
    | with_reducible apply Kept.fsk

theorem kept_bootRecord {f : BootRec → BootRec} (h : Kept K b s) (k_regs : K .regs) (k_upd : K .upd) : Kept K b (State.bootRecord s f) := by
  unfold State.bootRecord
  repeat' first
    | with_reducible assumption
    | with_reducible apply kept_modUpd
    | with_reducible apply kept_showBoot

theorem kept_journal (h : Kept K b s) (k_upd : K .upd) : Kept K b (State.journal s) := by
  unfold State.journal
  repeat' first
    | with_reducible assumption
    | with_reducible apply kept_modUpd
    | with_reducible apply Kept.ite

theorem kept_updBegin (h : Kept K b s) (k_regs : K .regs) (k_upd : K .upd) : Kept K b (State.updBegin s) := by
  unfold State.updBegin
  repeat' first
    | with_reducible assumption
    | with_reducible apply Kept.fs
    | with_reducible apply kept_journal
    | with_reducible apply kept_modUpd
    | with_reducible apply kept_setUpd
    | with_reducible apply kept_showRcvd
    | with_reducible apply kept_targetState

theorem kept_pieceTake {w : Who} {may : Bool} {count : Option Nat} {p : Piece} (h : Kept K b s) (k_regs : K .regs) (k_upd : K .upd) : Kept K b (State.pieceTake s w may count p).1 := by
  unfold State.pieceTake
  repeat' first
    | with_reducible assumption
    | with_reducible apply Kept.inc
    | with_reducible apply kept_modUpd
    | with_reducible apply Kept.ite
    | with_reducible apply Kept.iteFst
    | (intro x; subst x)
    | lift_lets
    | split

theorem kept_pieceTake_eq {w : Who} {may : Bool} {count : Option Nat} {p : Piece} {y : Rc} (e : State.pieceTake s w may count p = (t, y)) (h : Kept K b s) (k_regs : K .regs) (k_upd : K .upd) : Kept K b t := fst_of_eq (kept_pieceTake h k_regs k_upd) e

theorem kept_pieceDone (h : Kept K b s) (k_regs : K .regs) (k_upd : K .upd) (k_evq : K .evq) : Kept K b (State.pieceDone s) := by
  unfold State.pieceDone
  repeat' first
    | with_reducible assumption
    | with_reducible apply kept_journal
    | with_reducible apply kept_modUpd
    | with_reducible apply kept_setUpd
    | with_reducible apply kept_showRcvd
    | with_reducible apply kept_targetState
    | with_reducible apply kept_updEv
    | with_reducible apply Kept.ite
    | lift_lets
    | split

theorem kept_pieceTimer (h : Kept K b s) (k_upd : K .upd) : Kept K b (State.pieceTimer s) := by
  unfold State.pieceTimer
  repeat' first
    | with_reducible assumption
    | with_reducible apply Kept.advance
    | with_reducible apply kept_journal
    | with_reducible apply Kept.ite
    | split

theorem kept_compSend {cmd : Nat} {off : Nat} (h : Kept K b s) (k_upd : K .upd) : Kept K b (State.compSend s cmd off) := by
  unfold State.compSend
  repeat' first
    | with_reducible assumption
    | with_reducible apply kept_compGo
    | with_reducible apply kept_modUpd

theorem kept_compStart {purpose : Nat} {todo : List Nat} {failed : Nat} (h : Kept K b s) (k_upd : K .upd) : Kept K b (State.compStart s purpose todo failed) := by
  unfold State.compStart
  repeat' first
    | with_reducible assumption
    | with_reducible apply kept_compSend
    | with_reducible apply kept_modUpd
    | split

theorem kept_rollStaged (h : Kept K b s) (k_regs : K .regs) (k_upd : K .upd) : Kept K b (State.rollStaged s) := by
  unfold State.rollStaged
  repeat' first
    | with_reducible assumption
    | with_reducible apply kept_compStart
    | with_reducible apply Kept.fs

theorem kept_armed (h : Kept K b s) (k_regs : K .regs) (k_evq : K .evq) : Kept K b (State.armed s) := by
  unfold State.armed
  repeat' first
    | with_reducible assumption
    | with_reducible apply kept_setUpd
    | with_reducible apply kept_targetState
    | with_reducible apply kept_updEv

theorem kept_pauseBegin (h : Kept K b s) (k_regs : K .regs) (k_fab : K .fab) (k_pix : K .pix) (k_blend : K .blend) (k_upd : K .upd) (k_evq : K .evq) : Kept K b (State.pauseBegin s) := by
  unfold State.pauseBegin
  repeat' first
    | with_reducible assumption
    | with_reducible apply kept_arrayStop
    | with_reducible apply kept_mgmtStop
    | with_reducible apply kept_modUpd
    | with_reducible apply kept_setUpd

theorem kept_actRecord (h : Kept K b s) (k_regs : K .regs) (k_upd : K .upd) : Kept K b (State.actRecord s) := by
  unfold State.actRecord
  repeat' first
    | with_reducible assumption
    | with_reducible apply kept_bootRecord

theorem kept_activate {handover : Bool} (h : Kept K b s) (k_regs : K .regs) (k_fab : K .fab) (k_pix : K .pix) (k_blend : K .blend) (k_upd : K .upd) (k_evq : K .evq) : Kept K b (State.activate s handover) := by
  unfold State.activate
  repeat' first
    | with_reducible assumption
    | with_reducible apply kept_actRecord
    | with_reducible apply kept_halfOut
    | with_reducible apply kept_modUpd
    | with_reducible apply kept_pauseBegin
    | with_reducible apply kept_setUpd
    | with_reducible apply kept_updEv
    | with_reducible apply Kept.ite

theorem kept_activateDue {d : Nat} (h : Kept K b s) (k_regs : K .regs) (k_fab : K .fab) (k_pix : K .pix) (k_blend : K .blend) (k_upd : K .upd) (k_evq : K .evq) : Kept K b (State.activateDue s d) := by
  unfold State.activateDue
  repeat' first
    | with_reducible assumption
    | with_reducible apply kept_activate
    | with_reducible apply kept_modUpd
    | with_reducible apply kept_showPend
    | with_reducible apply Kept.ite
    | split

theorem kept_showStop {since : Nat} (h : Kept K b s) (k_regs : K .regs) : Kept K b (State.showStop s since) := by
  unfold State.showStop
  repeat' first
    | with_reducible assumption
    | with_reducible apply Kept.fs
    | with_reducible apply kept_roundFree

theorem kept_measured {m : Manifest} (h : Kept K b s) (k_sec : K .sec) : Kept K b (State.measured s m) := by
  unfold State.measured
  repeat' first
    | with_reducible assumption
    | with_reducible apply kept_modSec

theorem kept_actDone {commit : Bool} (h : Kept K b s) (k_regs : K .regs) (k_sec : K .sec) (k_upd : K .upd) (k_evq : K .evq) : Kept K b (State.actDone s commit) := by
  unfold State.actDone
  repeat' first
    | with_reducible assumption
    | with_reducible apply kept_compStart
    | with_reducible apply Kept.fs
    | with_reducible apply kept_measured
    | with_reducible apply kept_setUpd
    | with_reducible apply kept_slotState
    | with_reducible apply kept_updEv
    | with_reducible apply Kept.ite
    | lift_lets
    | split

theorem kept_halfLoaded {bb : Bool} (h : Kept K b s) (k_regs : K .regs) : Kept K b (State.halfLoaded s bb) := by
  unfold State.halfLoaded
  repeat' first
    | with_reducible assumption
    | with_reducible apply Kept.fs
    | with_reducible apply kept_halfBack

theorem kept_pauseEnd (h : Kept K b s) (k_regs : K .regs) (k_fab : K .fab) (k_tens : K .tens) (k_evq : K .evq) : Kept K b (State.pauseEnd s) := by
  unfold State.pauseEnd
  repeat' first
    | with_reducible assumption
    | with_reducible apply kept_halfLoaded
    | with_reducible apply kept_modFab
    | with_reducible apply kept_restoreAccess
    | with_reducible apply kept_showStop
    | with_reducible apply Kept.ite

theorem kept_activateEnd {badHash : Option Nat} (h : Kept K b s) (k_regs : K .regs) (k_fab : K .fab) (k_tens : K .tens) (k_sec : K .sec) (k_upd : K .upd) (k_evq : K .evq) : Kept K b (State.activateEnd s badHash) := by
  unfold State.activateEnd
  repeat' first
    | with_reducible assumption
    | with_reducible apply kept_actDone
    | with_reducible apply kept_bootRecord
    | with_reducible apply kept_modUpd
    | with_reducible apply kept_pauseEnd
    | with_reducible apply kept_setUpd
    | with_reducible apply kept_slotState
    | with_reducible apply kept_updEv
    | with_reducible apply Kept.ite
    | (intro x; subst x)
    | lift_lets
    | split

theorem kept_setStage {n : Nat} (h : Kept K b s) (k_upd : K .upd) : Kept K b (State.setStage s n) := by
  unfold State.setStage
  repeat' first
    | with_reducible assumption
    | with_reducible apply kept_modUpd

theorem kept_stageStep (h : Kept K b s) (k_regs : K .regs) (k_fab : K .fab) (k_tens : K .tens) (k_blend : K .blend) (k_sec : K .sec) (k_upd : K .upd) (k_evq : K .evq) : Kept K b (State.stageStep s) := by
  unfold State.stageStep
  repeat' first
    | with_reducible assumption
    | with_reducible apply kept_actDone
    | with_reducible apply kept_halfLoaded
    | with_reducible apply kept_halfOut
    | with_reducible apply kept_modFab
    | with_reducible apply kept_modUpd
    | with_reducible apply kept_pauseAccess
    | with_reducible apply kept_restoreAccess
    | with_reducible apply kept_setStage
    | with_reducible apply kept_showStop
    | (intro x; subst x)
    | lift_lets
    | split

theorem kept_stageCycle (h : Kept K b s) (k_regs : K .regs) (k_fab : K .fab) (k_tens : K .tens) (k_blend : K .blend) (k_sec : K .sec) (k_upd : K .upd) (k_evq : K .evq) : Kept K b (State.stageCycle s) := by
  unfold State.stageCycle
  repeat' first
    | with_reducible assumption
    | with_reducible apply kept_stageStep
    | with_reducible apply Kept.ite

theorem kept_stageSweep (h : Kept K b s) (k_regs : K .regs) (k_fab : K .fab) (k_tens : K .tens) (k_blend : K .blend) (k_sec : K .sec) (k_upd : K .upd) (k_evq : K .evq) : Kept K b (State.stageSweep s) := by
  unfold State.stageSweep
  repeat' first
    | with_reducible assumption
    | with_reducible apply kept_stageStep
    | with_reducible apply Kept.ite

theorem kept_compNext {x : CompSt} {c : Nat} (h : Kept K b s) (k_regs : K .regs) (k_fab : K .fab) (k_pix : K .pix) (k_blend : K .blend) (k_upd : K .upd) (k_evq : K .evq) : Kept K b (State.compNext s x c) := by
  unfold State.compNext
  repeat' first
    | with_reducible assumption
    | with_reducible apply kept_armed
    | with_reducible apply kept_bootRecord
    | with_reducible apply kept_compSend
    | with_reducible apply Kept.fs
    | with_reducible apply kept_modUpd
    | with_reducible apply kept_pauseBegin
    | with_reducible apply Kept.ite
    | (intro x; subst x)
    | lift_lets
    | split

theorem kept_compFail {x : CompSt} {c : Nat} (h : Kept K b s) (k_regs : K .regs) (k_fab : K .fab) (k_pix : K .pix) (k_blend : K .blend) (k_upd : K .upd) (k_evq : K .evq) : Kept K b (State.compFail s x c) := by
  unfold State.compFail
  repeat' first
    | with_reducible assumption
    | with_reducible apply kept_compNext
    | with_reducible apply kept_compStart
    | with_reducible apply kept_modUpd
    | with_reducible apply kept_setUpd
    | with_reducible apply kept_targetState
    | with_reducible apply kept_updRes
    | (intro x; subst x)
    | lift_lets
    | split

theorem kept_compStep {x : CompSt} {c : Nat} (h : Kept K b s) (k_regs : K .regs) (k_fab : K .fab) (k_pix : K .pix) (k_blend : K .blend) (k_upd : K .upd) (k_evq : K .evq) : Kept K b (State.compStep s x c) := by
  unfold State.compStep
  repeat' first
    | with_reducible assumption
    | with_reducible apply kept_compNext
    | with_reducible apply kept_compSend
    | with_reducible apply Kept.ite
    | (intro x; subst x)
    | lift_lets
    | split

theorem kept_compPoll {reply : Option (Nat × Nat)} (h : Kept K b s) (k_regs : K .regs) (k_fab : K .fab) (k_pix : K .pix) (k_blend : K .blend) (k_upd : K .upd) (k_evq : K .evq) : Kept K b (State.compPoll s reply) := by
  unfold State.compPoll
  repeat' first
    | with_reducible assumption
    | with_reducible apply Kept.advance
    | with_reducible apply kept_compEmit
    | with_reducible apply kept_compFail
    | with_reducible apply kept_compStep
    | with_reducible apply Kept.fsk
    | with_reducible apply kept_modUpd
    | with_reducible apply Kept.ite
    | lift_lets
    | split
    | dsimp only

theorem kept_armEnd {r : ImgRead} (h : Kept K b s) (k_regs : K .regs) (k_upd : K .upd) (k_evq : K .evq) : Kept K b (State.armEnd s r) := by
  unfold State.armEnd
  repeat' first
    | with_reducible assumption
    | with_reducible apply kept_armed
    | with_reducible apply kept_compStart
    | with_reducible apply kept_modUpd
    | with_reducible apply kept_setUpd
    | with_reducible apply kept_showSlot
    | with_reducible apply kept_targetState
    | with_reducible apply kept_updRes
    | with_reducible apply Kept.ite
    | (intro x; subst x)
    | lift_lets
    | split

theorem kept_loadBegin {bb : BundleRead} {announce : Bool} (h : Kept K b s) (k_regs : K .regs) (k_pix : K .pix) (k_blend : K .blend) (k_sec : K .sec) (k_upd : K .upd) (k_evq : K .evq) : Kept K b (State.loadBegin s bb announce) := by
  unfold State.loadBegin
  repeat' first
    | with_reducible assumption
    | with_reducible apply kept_modSec
    | with_reducible apply kept_modUpd
    | with_reducible apply kept_setWriting
    | with_reducible apply Kept.foldl
    | (intro u x hu; replace hu : Kept K b _ := hu)
    | split

theorem kept_loadSection {bid : Nat} {x : BSection} (h : Kept K b s) (k_regs : K .regs) (k_clips : K .clips) (k_pix : K .pix) (k_blend : K .blend) (k_evq : K .evq) (k_dram : K .dram) (k_memc : K .memc) : Kept K b (State.loadSection bid s x) := by
  unfold State.loadSection
  repeat' first
    | with_reducible assumption
    | with_reducible apply Kept.fsk
    | with_reducible apply kept_setLoaded
    | lift_lets
    | fail_if_no_progress (with_reducible apply Kept.mk_other <;> first | (with_reducible refine Or.inr ?_; assumption) | with_reducible exact Or.inl rfl | skip)
    | split

theorem kept_loadEnd (h : Kept K b s) (k_regs : K .regs) (k_clips : K .clips) (k_pix : K .pix) (k_blend : K .blend) (k_upd : K .upd) (k_evq : K .evq) (k_dram : K .dram) (k_memc : K .memc) : Kept K b (State.loadEnd s) := by
  unfold State.loadEnd
  repeat' first
    | with_reducible assumption
    | with_reducible apply kept_loadSection
    | with_reducible apply kept_modUpd
    | with_reducible apply kept_setUpd
    | with_reducible apply kept_updEv
    | with_reducible apply Kept.ite
    | with_reducible apply Kept.foldl
    | (intro u x hu; replace hu : Kept K b _ := hu)
    | split

theorem kept_applyBundle {a : Act} (h : Kept K b s) (k_regs : K .regs) (k_pix : K .pix) (k_blend : K .blend) (k_sec : K .sec) (k_upd : K .upd) (k_evq : K .evq) : Kept K b (State.applyBundle s a) := by
  unfold State.applyBundle
  repeat' first
    | with_reducible assumption
    | with_reducible apply kept_bootRecord
    | with_reducible apply Kept.fsk
    | with_reducible apply kept_loadBegin
    | with_reducible apply kept_modUpd
    | with_reducible apply kept_setUpd
    | with_reducible apply kept_updEv
    | with_reducible apply Kept.ite
    | (intro x; subst x)
    | lift_lets
    | split

theorem kept_applyDue {d : Nat} (h : Kept K b s) (k_regs : K .regs) (k_pix : K .pix) (k_blend : K .blend) (k_sec : K .sec) (k_upd : K .upd) (k_evq : K .evq) : Kept K b (State.applyDue s d) := by
  unfold State.applyDue
  repeat' first
    | with_reducible assumption
    | with_reducible apply kept_applyBundle
    | with_reducible apply kept_modUpd
    | with_reducible apply kept_showPend
    | with_reducible apply Kept.ite
    | split

theorem kept_bundleReload {bb : BundleRead} (h : Kept K b s) (k_regs : K .regs) (k_pix : K .pix) (k_blend : K .blend) (k_sec : K .sec) (k_upd : K .upd) (k_evq : K .evq) : Kept K b (State.bundleReload s bb) := by
  unfold State.bundleReload
  repeat' first
    | with_reducible assumption
    | with_reducible apply Kept.fsk
    | with_reducible apply kept_loadBegin
    | with_reducible apply kept_modUpd
    | with_reducible apply kept_updEv
    | with_reducible apply Kept.ite
    | lift_lets
    | split

theorem kept_retarget (h : Kept K b s) (k_regs : K .regs) (k_upd : K .upd) : Kept K b (State.retarget s) := by
  unfold State.retarget
  repeat' first
    | with_reducible assumption
    | with_reducible apply kept_modUpd
    | with_reducible apply kept_targetState
    | with_reducible apply Kept.ite

theorem kept_bootOk {k : Nat} {m : Manifest} (h : Kept K b s) (k_regs : K .regs) (k_sec : K .sec) (k_upd : K .upd) (k_pow : K .pow) : Kept K b (State.bootOk s k m) := by
  unfold State.bootOk
  repeat' first
    | with_reducible assumption
    | with_reducible apply Kept.fs
    | with_reducible apply kept_measured
    | with_reducible apply kept_modPow
    | with_reducible apply kept_modUpd
    | with_reducible apply kept_retarget
    | with_reducible apply kept_showSlot
    | with_reducible apply kept_slotState
    | with_reducible apply Kept.ite

theorem kept_bootBad {k : Nat} {c : Rc} (h : Kept K b s) (k_regs : K .regs) (k_evq : K .evq) : Kept K b (State.bootBad s k c) := by
  unfold State.bootBad
  repeat' first
    | with_reducible assumption
    | with_reducible apply Kept.ev
    | with_reducible apply Kept.fs
    | with_reducible apply kept_slotState
    | with_reducible apply kept_updEv

theorem kept_enterRecovery (h : Kept K b s) (k_regs : K .regs) (k_mode : K .mode) (k_fab : K .fab) (k_lnk : K .lnk) (k_tim : K .tim) (k_feeds : K .feeds) (k_patts : K .patts) (k_pix : K .pix) (k_blend : K .blend) (k_scan : K .scan) (k_health : K .health) (k_rdbk : K .rdbk) (k_sense : K .sense) (k_sup : K .sup) (k_upd : K .upd) (k_evq : K .evq) : Kept K b (State.enterRecovery s) := by
  unfold State.enterRecovery
  repeat' first
    | with_reducible assumption
    | with_reducible apply Kept.fs
    | with_reducible apply kept_retarget
    | with_reducible apply kept_setMode
    | with_reducible apply kept_unitOn

theorem kept_bootFailed (h : Kept K b s) (kall : ∀ p, K p) : Kept K b (State.bootFailed s) := by
  unfold State.bootFailed
  repeat' first
    | with_reducible assumption
    | with_reducible exact kall _
    | with_reducible apply kept_coldReset
    | with_reducible apply kept_enterRecovery
    | with_reducible apply Kept.fs
    | with_reducible apply kept_modPow
    | with_reducible apply kept_updEv
    | with_reducible apply Kept.ite

theorem kept_romBoot {a : ImgRead} {bb : ImgRead} (h : Kept K b s) (kall : ∀ p, K p) : Kept K b (State.romBoot s a bb) := by
  unfold State.romBoot
  repeat' first
    | with_reducible assumption
    | with_reducible exact kall _
    | with_reducible apply kept_bootBad
    | with_reducible apply kept_bootFailed
    | with_reducible apply kept_bootOk
    | with_reducible apply kept_compStart
    | with_reducible apply kept_enterRecovery
    | with_reducible apply Kept.fs
    | with_reducible apply kept_modUpd
    | with_reducible apply kept_slotState
    | with_reducible apply kept_unitOn
    | with_reducible apply Kept.ite
    | (intro x; subst x)
    | lift_lets
    | split

theorem kept_loaderActivate (h : Kept K b s) (kall : ∀ p, K p) : Kept K b (State.loaderActivate s) := by
  unfold State.loaderActivate
  repeat' first
    | with_reducible assumption
    | with_reducible exact kall _
    | with_reducible apply kept_actRecord
    | with_reducible apply kept_bootOk
    | with_reducible apply kept_coldReset
    | with_reducible apply kept_setUpd
    | with_reducible apply Kept.ite
    | lift_lets
    | split

theorem kept_updActivate {data : Nat} (h : Kept K b s) (kall : ∀ p, K p) : Kept K b (State.updActivate s data).1 := by
  unfold State.updActivate
  repeat' first
    | with_reducible assumption
    | with_reducible exact kall _
    | with_reducible apply kept_loaderActivate
    | with_reducible apply kept_modUpd
    | with_reducible apply kept_showPend
    | with_reducible apply Kept.iteFst
    | lift_lets
    | split

theorem kept_updActivate_eq {data : Nat} {y : Rc} (e : State.updActivate s data = (t, y)) (h : Kept K b s) (kall : ∀ p, K p) : Kept K b t := fst_of_eq (kept_updActivate h kall) e

theorem kept_updApply {data : Nat} {bb : BundleRead} (h : Kept K b s) (k_regs : K .regs) (k_upd : K .upd) : Kept K b (State.updApply s data bb).1 := by
  unfold State.updApply
  repeat' first
    | with_reducible assumption
    | with_reducible apply Kept.fsk
    | with_reducible apply kept_modUpd
    | with_reducible apply kept_showPend
    | with_reducible apply Kept.ite
    | with_reducible apply Kept.iteFst
    | lift_lets
    | split

theorem kept_updApply_eq {data : Nat} {bb : BundleRead} {y : Rc} (e : State.updApply s data bb = (t, y)) (h : Kept K b s) (k_regs : K .regs) (k_upd : K .upd) : Kept K b t := fst_of_eq (kept_updApply h k_regs k_upd) e

theorem kept_updStop {abort : Bool} (h : Kept K b s) (k_regs : K .regs) (k_upd : K .upd) : Kept K b (State.updStop s abort).1 := by
  unfold State.updStop
  repeat' first
    | with_reducible assumption
    | with_reducible apply kept_journal
    | with_reducible apply kept_modUpd
    | with_reducible apply kept_rollStaged
    | with_reducible apply kept_setUpd
    | with_reducible apply kept_showPend
    | with_reducible apply kept_targetState
    | with_reducible apply Kept.iteFst

theorem kept_updStop_eq {abort : Bool} {y : Rc} (e : State.updStop s abort = (t, y)) (h : Kept K b s) (k_regs : K .regs) (k_upd : K .upd) : Kept K b t := fst_of_eq (kept_updStop h k_regs k_upd) e

theorem kept_updCmd {data : Nat} {bb : BundleRead} (h : Kept K b s) (kall : ∀ p, K p) : Kept K b (State.updCmd s data bb).1 := by
  unfold State.updCmd
  repeat' first
    | with_reducible assumption
    | with_reducible exact kall _
    | with_reducible apply kept_modUpd
    | with_reducible apply kept_setUpd
    | with_reducible apply kept_showPend
    | with_reducible apply kept_updActivate
    | with_reducible apply kept_updApply
    | with_reducible apply kept_updBegin
    | with_reducible apply kept_updStop
    | with_reducible apply Kept.iteFst
    | lift_lets
    | split

theorem kept_updCmd_eq {data : Nat} {bb : BundleRead} {y : Rc} (e : State.updCmd s data bb = (t, y)) (h : Kept K b s) (kall : ∀ p, K p) : Kept K b t := fst_of_eq (kept_updCmd h kall) e

theorem kept_hUpdCmd {bb : BundleRead} (kall : ∀ p, K p) : HKept K (hUpdCmd bb) := by
  intro s w p o g d b h
  unfold hUpdCmd
  repeat' first
    | with_reducible assumption
    | with_reducible exact kall _
    | with_reducible apply kept_updCmd
    | with_reducible apply kept_updCmdRes
    | with_reducible apply Rec.ok

theorem kept_updWrite {a : Sys2Proof.Access} {data : Nat} {bb : BundleRead} (h : Kept K b s) (kall : ∀ p, K p) : Kept K b (updWrite s a data bb) := by
  unfold updWrite
  repeat' first
    | with_reducible assumption
    | with_reducible exact kall _
    | with_reducible apply kept_begin_
    | with_reducible apply kept_direct
    | with_reducible apply kept_hUpdCmd

theorem kept_execBegin {a : Sys2Proof.Access} (kall : ∀ p, K p) : Nxt (Kept K s) (execBegin a s) := by
  have h : Kept K s s := Kept.refl s
  unfold execBegin
  repeat' first
    | with_reducible assumption
    | with_reducible apply kept_updWrite
    | with_reducible apply Nxt.next

theorem kept_execUpdAbort {a : Sys2Proof.Access} (kall : ∀ p, K p) : Nxt (Kept K s) (execUpdAbort a s) := by
  have h : Kept K s s := Kept.refl s
  unfold execUpdAbort
  repeat' first
    | with_reducible assumption
    | with_reducible apply kept_updWrite
    | with_reducible apply Nxt.next

theorem kept_execArm {a : Sys2Proof.Access} (kall : ∀ p, K p) : Nxt (Kept K s) (execArm a s) := by
  have h : Kept K s s := Kept.refl s
  unfold execArm
  repeat' first
    | with_reducible assumption
    | with_reducible apply kept_updWrite
    | with_reducible apply Nxt.next

theorem kept_execArmComplete {r : ImgRead} (k_regs : K .regs) (k_upd : K .upd) (k_evq : K .evq) : Nxt (Kept K s) (execArmComplete r s) := by
  have h : Kept K s s := Kept.refl s
  unfold execArmComplete
  repeat' first
    | with_reducible assumption
    | with_reducible apply kept_armEnd
    | with_reducible apply kept_begin_
    | with_reducible apply Nxt.next

theorem kept_execDisarm {a : Sys2Proof.Access} (kall : ∀ p, K p) : Nxt (Kept K s) (execDisarm a s) := by
  have h : Kept K s s := Kept.refl s
  unfold execDisarm
  repeat' first
    | with_reducible assumption
    | with_reducible apply kept_updWrite
    | with_reducible apply Nxt.next

theorem kept_execActivatePause {a : Sys2Proof.Access} {trig : Fin 4} (kall : ∀ p, K p) : Nxt (Kept K s) (execActivatePause a trig s) := by
  have h : Kept K s s := Kept.refl s
  unfold execActivatePause
  repeat' first
    | with_reducible assumption
    | with_reducible apply kept_updWrite
    | with_reducible apply Nxt.next

theorem kept_execActivateHandover {a : Sys2Proof.Access} {trig : Fin 4} (kall : ∀ p, K p) : Nxt (Kept K s) (execActivateHandover a trig s) := by
  have h : Kept K s s := Kept.refl s
  unfold execActivateHandover
  repeat' first
    | with_reducible assumption
    | with_reducible apply kept_updWrite
    | with_reducible apply Nxt.next

theorem kept_execApplycfg {a : Sys2Proof.Access} {trig : Fin 4} {bb : BundleRead} (kall : ∀ p, K p) : Nxt (Kept K s) (execApplycfg a trig bb s) := by
  have h : Kept K s s := Kept.refl s
  unfold execApplycfg
  repeat' first
    | with_reducible assumption
    | with_reducible apply kept_updWrite
    | with_reducible apply Nxt.next

theorem kept_execUpdCancel {a : Sys2Proof.Access} (kall : ∀ p, K p) : Nxt (Kept K s) (execUpdCancel a s) := by
  have h : Kept K s s := Kept.refl s
  unfold execUpdCancel
  repeat' first
    | with_reducible assumption
    | with_reducible apply kept_updWrite
    | with_reducible apply Nxt.next

theorem kept_execActivation (k_regs : K .regs) (k_fab : K .fab) (k_pix : K .pix) (k_blend : K .blend) (k_upd : K .upd) (k_evq : K .evq) : Nxt (Kept K s) (execActivation s) := by
  have h : Kept K s s := Kept.refl s
  unfold execActivation
  repeat' first
    | with_reducible assumption
    | with_reducible apply kept_activateDue
    | with_reducible apply kept_begin_
    | with_reducible apply Nxt.next

theorem kept_execActivationComplete {badHash : Option Nat} (k_regs : K .regs) (k_fab : K .fab) (k_tens : K .tens) (k_sec : K .sec) (k_upd : K .upd) (k_evq : K .evq) : Nxt (Kept K s) (execActivationComplete badHash s) := by
  have h : Kept K s s := Kept.refl s
  unfold execActivationComplete
  repeat' first
    | with_reducible assumption
    | with_reducible apply kept_activateEnd
    | with_reducible apply kept_begin_
    | with_reducible apply Nxt.next

theorem kept_execHandoverStage (k_regs : K .regs) (k_fab : K .fab) (k_tens : K .tens) (k_blend : K .blend) (k_sec : K .sec) (k_upd : K .upd) (k_evq : K .evq) : Nxt (Kept K s) (execHandoverStage s) := by
  have h : Kept K s s := Kept.refl s
  unfold execHandoverStage
  repeat' first
    | with_reducible assumption
    | with_reducible apply kept_begin_
    | with_reducible apply kept_stageStep
    | with_reducible apply Nxt.next

theorem kept_execCompanionStatusPoll {reply : Option (Nat × Nat)} (k_regs : K .regs) (k_fab : K .fab) (k_pix : K .pix) (k_blend : K .blend) (k_upd : K .upd) (k_evq : K .evq) : Nxt (Kept K s) (execCompanionStatusPoll reply s) := by
  have h : Kept K s s := Kept.refl s
  unfold execCompanionStatusPoll
  repeat' first
    | with_reducible assumption
    | with_reducible apply kept_begin_
    | with_reducible apply kept_compPoll
    | with_reducible apply Nxt.next

theorem kept_execPieceProgrammed (k_regs : K .regs) (k_upd : K .upd) (k_evq : K .evq) : Nxt (Kept K s) (execPieceProgrammed s) := by
  have h : Kept K s s := Kept.refl s
  unfold execPieceProgrammed
  repeat' first
    | with_reducible assumption
    | with_reducible apply kept_begin_
    | with_reducible apply kept_pieceDone
    | with_reducible apply Nxt.next

theorem kept_execPieceJournalTimer (k_upd : K .upd) : Nxt (Kept K s) (execPieceJournalTimer s) := by
  have h : Kept K s s := Kept.refl s
  unfold execPieceJournalTimer
  repeat' first
    | with_reducible assumption
    | with_reducible apply kept_begin_
    | with_reducible apply kept_pieceTimer
    | with_reducible apply Nxt.next

theorem kept_execBundleApply (k_regs : K .regs) (k_pix : K .pix) (k_blend : K .blend) (k_sec : K .sec) (k_upd : K .upd) (k_evq : K .evq) : Nxt (Kept K s) (execBundleApply s) := by
  have h : Kept K s s := Kept.refl s
  unfold execBundleApply
  repeat' first
    | with_reducible assumption
    | with_reducible apply kept_applyDue
    | with_reducible apply kept_begin_
    | with_reducible apply Nxt.next

theorem kept_execBundleLoaded (k_regs : K .regs) (k_clips : K .clips) (k_pix : K .pix) (k_blend : K .blend) (k_upd : K .upd) (k_evq : K .evq) (k_dram : K .dram) (k_memc : K .memc) : Nxt (Kept K s) (execBundleLoaded s) := by
  have h : Kept K s s := Kept.refl s
  unfold execBundleLoaded
  repeat' first
    | with_reducible assumption
    | with_reducible apply kept_begin_
    | with_reducible apply kept_loadEnd
    | with_reducible apply Nxt.next

theorem kept_execBundleReload {bb : BundleRead} (k_regs : K .regs) (k_pix : K .pix) (k_blend : K .blend) (k_sec : K .sec) (k_upd : K .upd) (k_evq : K .evq) : Nxt (Kept K s) (execBundleReload bb s) := by
  have h : Kept K s s := Kept.refl s
  unfold execBundleReload
  repeat' first
    | with_reducible assumption
    | with_reducible apply kept_begin_
    | with_reducible apply kept_bundleReload
    | with_reducible apply Nxt.next

theorem kept_execBoot {slotA : ImgRead} {slotB : ImgRead} (kall : ∀ p, K p) : Nxt (Kept K s) (execBoot slotA slotB s) := by
  have h : Kept K s s := Kept.refl s
  unfold execBoot
  repeat' first
    | with_reducible assumption
    | with_reducible apply kept_begin_
    | with_reducible apply kept_romBoot
    | with_reducible apply Nxt.next

end Sys2Proof.Machine
end

