-- ==== Sys2Proof/Laws/KeptUnits.lean ====
section
/-! SUPPORT. The operations of Machine/Units.lean keep the queue, the direction of time and the
invariant, and leave every part of the state alone but those they name. -/

namespace Sys2Proof.Machine

variable {K : Part → Prop} {b s t : State}

theorem kept_enableAsk {w : Who} {p : Nat} (h : Kept K b s) (k_fab : K .fab) : Kept K b (State.enableAsk s w p) := by
  unfold State.enableAsk
  repeat' first
    | with_reducible assumption
    | with_reducible apply kept_modFab
    | with_reducible apply Kept.ite

theorem kept_disableAsk {p : Nat} (h : Kept K b s) (k_regs : K .regs) (k_fab : K .fab) : Kept K b (State.disableAsk s p) := by
  unfold State.disableAsk
  repeat' first
    | with_reducible assumption
    | with_reducible apply Kept.fs
    | with_reducible apply kept_modFab
    | with_reducible apply Kept.ite

theorem kept_enableChecked {p : Nat} (h : Kept K b s) (k_regs : K .regs) (k_fab : K .fab) (k_evq : K .evq) : Kept K b (State.enableChecked s p) := by
  unfold State.enableChecked
  repeat' first
    | with_reducible assumption
    | with_reducible apply Kept.evCmd
    | with_reducible apply Kept.fs
    | with_reducible apply kept_modFab
    | with_reducible apply kept_noteAdm
    | with_reducible apply Kept.ite
    | (intro x; subst x)
    | lift_lets
    | split

theorem kept_startNow {atCycle : Bool} {p : Nat} (h : Kept K b s) (k_regs : K .regs) (k_fab : K .fab) (k_lnk : K .lnk) (k_tim : K .tim) (k_feeds : K .feeds) (k_patts : K .patts) (k_pix : K .pix) (k_blend : K .blend) (k_scan : K .scan) (k_health : K .health) (k_rdbk : K .rdbk) (k_sense : K .sense) (k_sup : K .sup) (k_evq : K .evq) : Kept K b (State.startNow atCycle s p) := by
  unfold State.startNow
  repeat' first
    | with_reducible assumption
    | with_reducible apply kept_modFab
    | with_reducible apply kept_unitOn
    | with_reducible apply Kept.ite

theorem kept_stopNow {p : Nat} (h : Kept K b s) (k_regs : K .regs) (k_fab : K .fab) (k_lnk : K .lnk) (k_tim : K .tim) (k_feeds : K .feeds) (k_patts : K .patts) (k_pix : K .pix) (k_scan : K .scan) (k_sense : K .sense) (k_sup : K .sup) (k_evq : K .evq) : Kept K b (State.stopNow s p) := by
  unfold State.stopNow
  repeat' first
    | with_reducible assumption
    | with_reducible apply kept_modFab
    | with_reducible apply kept_unitOff
    | with_reducible apply Kept.ite

theorem kept_resetAsk {p : Nat} (h : Kept K b s) (k_fab : K .fab) : Kept K b (State.resetAsk s p) := by
  unfold State.resetAsk
  repeat' first
    | with_reducible assumption
    | with_reducible apply kept_modFab
    | with_reducible apply Kept.ite

theorem kept_resetAct {p : Nat} (h : Kept K b s) (k_regs : K .regs) (k_fab : K .fab) (k_tens : K .tens) (k_lnk : K .lnk) (k_tim : K .tim) (k_feeds : K .feeds) (k_patts : K .patts) (k_pix : K .pix) (k_blend : K .blend) (k_scan : K .scan) (k_sense : K .sense) (k_sup : K .sup) (k_evq : K .evq) : Kept K b (State.resetAct s p) := by
  unfold State.resetAct
  repeat' first
    | with_reducible assumption
    | with_reducible apply kept_pageResetNow
    | with_reducible apply Kept.ite

theorem kept_unitsBoundary {atCycle : Bool} (h : Kept K b s) (k_regs : K .regs) (k_fab : K .fab) (k_tens : K .tens) (k_lnk : K .lnk) (k_tim : K .tim) (k_feeds : K .feeds) (k_patts : K .patts) (k_pix : K .pix) (k_blend : K .blend) (k_scan : K .scan) (k_health : K .health) (k_rdbk : K .rdbk) (k_sense : K .sense) (k_sup : K .sup) (k_evq : K .evq) : Kept K b (State.unitsBoundary s atCycle) := by
  unfold State.unitsBoundary
  repeat' first
    | with_reducible assumption
    | with_reducible apply kept_resetAct
    | with_reducible apply kept_startNow
    | with_reducible apply kept_stopNow
    | with_reducible apply Kept.foldl
    | (intro u x hu; replace hu : Kept K b _ := hu)

theorem kept_pgCtrlWrite {w : Who} {p : Nat} {data : Nat} (h : Kept K b s) (k_regs : K .regs) (k_fab : K .fab) : Kept K b (State.pgCtrlWrite s w p data) := by
  unfold State.pgCtrlWrite
  repeat' first
    | with_reducible assumption
    | with_reducible apply kept_disableAsk
    | with_reducible apply kept_enableAsk
    | with_reducible apply kept_resetAsk
    | with_reducible apply Kept.setReg
    | with_reducible apply kept_showHeld
    | with_reducible apply Kept.ite

end Sys2Proof.Machine
end

