-- ==== Sys2Proof/Laws/KeptThermal.lean ====
section
/-! SUPPORT. The operations of Machine/Thermal.lean keep the queue, the direction of time and the
invariant, and leave every part of the state alone but those they name. -/

namespace Sys2Proof.Machine

variable {K : Part → Prop} {b s t : State}

theorem kept_shutDown {d : Nat} (h : Kept K b s) (k_regs : K .regs) (k_fab : K .fab) (k_scan : K .scan) (k_sup : K .sup) (k_pow : K .pow) (k_evq : K .evq) : Kept K b (State.shutDown s d) := by
  unfold State.shutDown
  repeat' first
    | with_reducible assumption
    | with_reducible apply Kept.fs
    | with_reducible apply kept_hardStop
    | with_reducible apply Kept.inc
    | with_reducible apply kept_modPow
    | with_reducible apply kept_modScan
    | with_reducible apply Kept.ite

theorem kept_shutDark (h : Kept K b s) (k_regs : K .regs) (k_mode : K .mode) (k_fab : K .fab) (k_scan : K .scan) (k_sup : K .sup) (k_pow : K .pow) (k_evq : K .evq) : Kept K b (State.shutDark s) := by
  unfold State.shutDark
  repeat' first
    | with_reducible assumption
    | with_reducible apply kept_enterDark
    | with_reducible apply Kept.ev
    | with_reducible apply kept_modPow
    | with_reducible apply Kept.ite
    | split

theorem kept_tripStone {k : Nat} (h : Kept K b s) (k_regs : K .regs) (k_fab : K .fab) (k_scan : K .scan) (k_sup : K .sup) (k_pow : K .pow) (k_evq : K .evq) : Kept K b (State.tripStone s k) := by
  unfold State.tripStone
  repeat' first
    | with_reducible assumption
    | with_reducible apply kept_modPow
    | with_reducible apply kept_shutDown
    | with_reducible apply Kept.ite

theorem kept_thermWarn {tt : Int} (h : Kept K b s) (k_regs : K .regs) (k_evq : K .evq) : Kept K b (State.thermWarn s tt) := by
  unfold State.thermWarn
  repeat' first
    | with_reducible assumption
    | with_reducible apply Kept.ev
    | with_reducible apply Kept.fs
    | with_reducible apply Kept.ite

theorem kept_derate {tt : Int} (h : Kept K b s) (k_pow : K .pow) : Kept K b (State.derate s tt) := by
  unfold State.derate
  repeat' first
    | with_reducible assumption
    | with_reducible apply kept_modPow
    | with_reducible apply Kept.ite
    | lift_lets
    | split

theorem kept_derateBoundary (h : Kept K b s) (k_regs : K .regs) (k_pow : K .pow) (k_evq : K .evq) : Kept K b (State.derateBoundary s) := by
  unfold State.derateBoundary
  repeat' first
    | with_reducible assumption
    | with_reducible apply Kept.ev
    | with_reducible apply Kept.fs
    | with_reducible apply Kept.inc
    | with_reducible apply kept_modPow
    | with_reducible apply Kept.ite
    | (intro x; subst x)
    | lift_lets
    | split

theorem kept_stoneThermal {k : Nat} {v : Nat} (h : Kept K b s) (k_regs : K .regs) : Kept K b (State.stoneThermal s k v) := by
  unfold State.stoneThermal
  repeat' first
    | with_reducible assumption
    | with_reducible apply Kept.fs
    | with_reducible apply Kept.fsi

theorem kept_stoneSample {k : Nat} {tt : Int} (h : Kept K b s) (k_regs : K .regs) (k_pow : K .pow) (k_evq : K .evq) : Kept K b (State.stoneSample s k tt) := by
  unfold State.stoneSample
  repeat' first
    | with_reducible assumption
    | with_reducible apply Kept.ev
    | with_reducible apply kept_modPow
    | with_reducible apply kept_stoneThermal
    | with_reducible apply Kept.ite

theorem kept_thermSample {die : List (Option Int)} (h : Kept K b s) (k_regs : K .regs) (k_fab : K .fab) (k_scan : K .scan) (k_sup : K .sup) (k_trim : K .trim) (k_pow : K .pow) (k_evq : K .evq) : Kept K b (State.thermSample s die) := by
  unfold State.thermSample
  repeat' first
    | with_reducible assumption
    | with_reducible apply kept_derate
    | with_reducible apply Kept.fs
    | with_reducible apply kept_shutDown
    | with_reducible apply kept_stoneSample
    | with_reducible apply kept_thermWarn
    | with_reducible apply kept_trimSample
    | with_reducible apply Kept.ite
    | with_reducible apply Kept.foldl
    | (intro u x hu; replace hu : Kept K b _ := hu)
    | split

theorem kept_judgeAll {die : List (Option Int)} {raw : List (Option Nat)} (h : Kept K b s) (k_regs : K .regs) (k_evq : K .evq) : Kept K b (State.judgeAll s die raw) := by
  unfold State.judgeAll
  repeat' first
    | with_reducible assumption
    | with_reducible apply kept_judge

theorem kept_sensorSample {die : List (Option Int)} (h : Kept K b s) (k_regs : K .regs) (k_fab : K .fab) (k_field : K .field) (k_scan : K .scan) (k_sup : K .sup) (k_trim : K .trim) (k_ser : K .ser) (k_pow : K .pow) (k_evq : K .evq) : Kept K b (State.sensorSample s die) := by
  unfold State.sensorSample
  repeat' first
    | with_reducible assumption
    | with_reducible apply Kept.advance
    | with_reducible apply kept_judgeAll
    | with_reducible apply kept_thermSample
    | with_reducible apply kept_twiGo
    | with_reducible apply Kept.ite
    | (intro x; subst x)
    | lift_lets
    | fail_if_no_progress (with_reducible apply Kept.mk_other <;> first | (with_reducible refine Or.inr ?_; assumption) | with_reducible exact Or.inl rfl | skip)
    | split

theorem kept_boardRead {raw : List (Option Nat)} {sdaLow : Option Bool} (h : Kept K b s) (k_regs : K .regs) (k_field : K .field) (k_ser : K .ser) (k_evq : K .evq) : Kept K b (State.boardRead s raw sdaLow) := by
  unfold State.boardRead
  repeat' first
    | with_reducible assumption
    | with_reducible apply kept_busClear
    | with_reducible apply Kept.emit
    | with_reducible apply kept_judgeAll
    | with_reducible apply kept_twiGo
    | with_reducible apply kept_twiRefuseHeld
    | with_reducible apply Kept.ite
    | with_reducible apply Kept.foldl
    | (intro u x hu; replace hu : Kept K b _ := hu)
    | (intro x; subst x)
    | lift_lets
    | fail_if_no_progress (with_reducible apply Kept.mk_other <;> first | (with_reducible refine Or.inr ?_; assumption) | with_reducible exact Or.inl rfl | skip)
    | split

theorem kept_brownWarn (h : Kept K b s) (k_regs : K .regs) (k_mode : K .mode) (k_fab : K .fab) (k_scan : K .scan) (k_sup : K .sup) (k_pow : K .pow) (k_evq : K .evq) : Kept K b (State.brownWarn s) := by
  unfold State.brownWarn
  repeat' first
    | with_reducible assumption
    | with_reducible apply kept_enterDark
    | with_reducible apply Kept.ev
    | with_reducible apply Kept.inc
    | with_reducible apply kept_modPow

theorem kept_brownReset (h : Kept K b s) (kall : ∀ p, K p) : Kept K b (State.brownReset s) := by
  unfold State.brownReset
  repeat' first
    | with_reducible assumption
    | with_reducible exact kall _
    | with_reducible apply kept_coldReset
    | with_reducible apply Kept.inc

theorem kept_execSensorSample {die : List (Option Int)} (k_regs : K .regs) (k_fab : K .fab) (k_field : K .field) (k_scan : K .scan) (k_sup : K .sup) (k_trim : K .trim) (k_ser : K .ser) (k_pow : K .pow) (k_evq : K .evq) : Nxt (Kept K s) (execSensorSample die s) := by
  have h : Kept K s s := Kept.refl s
  unfold execSensorSample
  repeat' first
    | with_reducible assumption
    | with_reducible apply kept_begin_
    | with_reducible apply kept_sensorSample
    | with_reducible apply Nxt.next

theorem kept_execBoardSensorRead {r : BoardRead} (k_regs : K .regs) (k_field : K .field) (k_ser : K .ser) (k_evq : K .evq) : Nxt (Kept K s) (execBoardSensorRead r s) := by
  have h : Kept K s s := Kept.refl s
  unfold execBoardSensorRead
  repeat' first
    | with_reducible assumption
    | with_reducible apply kept_begin_
    | with_reducible apply kept_boardRead
    | with_reducible apply Nxt.next

theorem kept_execBrownoutWarning (k_regs : K .regs) (k_mode : K .mode) (k_fab : K .fab) (k_scan : K .scan) (k_sup : K .sup) (k_pow : K .pow) (k_evq : K .evq) : Nxt (Kept K s) (execBrownoutWarning s) := by
  have h : Kept K s s := Kept.refl s
  unfold execBrownoutWarning
  repeat' first
    | with_reducible assumption
    | with_reducible apply kept_begin_
    | with_reducible apply kept_brownWarn
    | with_reducible apply Nxt.next

theorem kept_execBrownoutReset (kall : ∀ p, K p) : Nxt (Kept K s) (execBrownoutReset s) := by
  have h : Kept K s s := Kept.refl s
  unfold execBrownoutReset
  repeat' first
    | with_reducible assumption
    | with_reducible apply kept_begin_
    | with_reducible apply kept_brownReset
    | with_reducible apply Nxt.next

theorem kept_execVdd33Return (k_pow : K .pow) : Nxt (Kept K s) (execVdd33Return s) := by
  have h : Kept K s s := Kept.refl s
  unfold execVdd33Return
  repeat' first
    | with_reducible assumption
    | with_reducible apply kept_begin_
    | with_reducible apply kept_modPow
    | with_reducible apply Nxt.next

theorem kept_execOverTemperatureTrip {stone : Option (Fin 16)} (k_regs : K .regs) (k_fab : K .fab) (k_scan : K .scan) (k_sup : K .sup) (k_pow : K .pow) (k_evq : K .evq) : Nxt (Kept K s) (execOverTemperatureTrip stone s) := by
  have h : Kept K s s := Kept.refl s
  unfold execOverTemperatureTrip
  repeat' first
    | with_reducible assumption
    | with_reducible apply kept_begin_
    | with_reducible apply kept_shutDown
    | with_reducible apply kept_tripStone
    | with_reducible apply Kept.ite
    | with_reducible apply Nxt.next
    | lift_lets
    | split

theorem kept_execOverTemperatureClear {stone : Fin 16} (k_pow : K .pow) : Nxt (Kept K s) (execOverTemperatureClear stone s) := by
  have h : Kept K s s := Kept.refl s
  unfold execOverTemperatureClear
  repeat' first
    | with_reducible assumption
    | with_reducible apply kept_begin_
    | with_reducible apply kept_modPow
    | with_reducible apply Nxt.next

theorem kept_execShutdownDark (k_regs : K .regs) (k_mode : K .mode) (k_fab : K .fab) (k_scan : K .scan) (k_sup : K .sup) (k_pow : K .pow) (k_evq : K .evq) : Nxt (Kept K s) (execShutdownDark s) := by
  have h : Kept K s s := Kept.refl s
  unfold execShutdownDark
  repeat' first
    | with_reducible assumption
    | with_reducible apply kept_begin_
    | with_reducible apply kept_shutDark
    | with_reducible apply Nxt.next

end Sys2Proof.Machine
end

