-- ==== Sys2Proof/Laws/KeptPower.lean ====
section
/-! SUPPORT. The operations of Machine/Power.lean keep the queue, the direction of time and the
invariant, and leave every part of the state alone but those they name. -/

namespace Sys2Proof.Machine

variable {K : Part → Prop} {b s t : State}

theorem EvQ.foldl_push_len {l : List Event} {q : EvQ} (h : q.q.length ≤ Config.evqLen) :
    (l.foldl EvQ.push q).q.length ≤ Config.evqLen := by
  induction l generalizing q with
  | nil => exact h
  | cons e l ih => exact ih (EvQ.push_len e h)

theorem imageQueue_len (saved now : EvQ) : (State.imageQueue saved now).q.length ≤ Config.evqLen :=
  EvQ.foldl_push_len (by simp)

/-- The queues of an image come back in bounds. -/
theorem kept_imageQueues {evqs : List EvQ} (h : Kept K b s) (ke : K .evq) : Kept K b { s with tens := s.tens.zipIdx.map fun (x : Ten × Nat) =>
    { x.1 with evq := State.imageQueue (nth evqs x.2 EvQ.empty) x.1.evq } } :=
  h.mk_tens (by simp) (fun _ t ht => by
    obtain ⟨x, _, rfl⟩ := List.mem_map.mp ht
    exact decide_eq_true (imageQueue_len _ _)) (.inl (by
    rw [List.map_map, State.sessions]
    conv_rhs => rw [← List.zipIdx_map_fst 0 s.tens, List.map_map]
    rfl)) (.inr ke)

theorem kept_setPower {d : Nat} {on : Bool} (h : Kept K b s) (k_regs : K .regs) (k_fab : K .fab) (k_evq : K .evq) : Kept K b (State.setPower s d on) := by
  unfold State.setPower
  repeat' first
    | with_reducible assumption
    | with_reducible apply Kept.fs
    | with_reducible apply kept_settle

theorem kept_powerGood {d : Nat} (h : Kept K b s) (k_regs : K .regs) (k_fab : K .fab) (k_sup : K .sup) (k_pow : K .pow) (k_evq : K .evq) : Kept K b (State.powerGood s d) := by
  unfold State.powerGood
  repeat' first
    | with_reducible assumption
    | with_reducible apply kept_auxStart
    | with_reducible apply Kept.fsi
    | with_reducible apply kept_halfIn
    | with_reducible apply kept_modPow
    | with_reducible apply kept_setPower
    | with_reducible apply Kept.ite
    | with_reducible apply Kept.foldl
    | (intro u x hu; replace hu : Kept K b _ := hu)

theorem kept_powerFail {d : Nat} (h : Kept K b s) (k_regs : K .regs) (k_mode : K .mode) (k_fab : K .fab) (k_scan : K .scan) (k_sup : K .sup) (k_trim : K .trim) (k_pow : K .pow) (k_evq : K .evq) : Kept K b (State.powerFail s d) := by
  unfold State.powerFail
  repeat' first
    | with_reducible assumption
    | with_reducible apply Kept.fault
    | with_reducible apply kept_modPow
    | with_reducible apply kept_setPower
    | with_reducible apply kept_trimFailed
    | with_reducible apply Kept.ite

theorem kept_domainOff {d : Nat} (h : Kept K b s) (k_regs : K .regs) (k_fab : K .fab) (k_sup : K .sup) (k_pow : K .pow) (k_evq : K .evq) : Kept K b (State.domainOff s d) := by
  unfold State.domainOff
  repeat' first
    | with_reducible assumption
    | with_reducible apply Kept.fault
    | with_reducible apply Kept.fsi
    | with_reducible apply kept_hardStop
    | with_reducible apply kept_modPow
    | with_reducible apply kept_setPower
    | with_reducible apply Kept.ite
    | with_reducible apply Kept.foldl
    | (intro u x hu; replace hu : Kept K b _ := hu)

theorem kept_domainSwitch (h : Kept K b s) (k_regs : K .regs) (k_fab : K .fab) (k_sup : K .sup) (k_pow : K .pow) (k_evq : K .evq) : Kept K b (State.domainSwitch s) := by
  unfold State.domainSwitch
  repeat' first
    | with_reducible assumption
    | with_reducible apply kept_domainOff
    | with_reducible apply kept_modPow
    | with_reducible apply Kept.ite
    | with_reducible apply Kept.foldl
    | (intro u x hu; replace hu : Kept K b _ := hu)

theorem kept_preset {rec_ : Option (List (Nat × Nat × Word))} (h : Kept K b s) (k_regs : K .regs) (k_fab : K .fab) (k_tens : K .tens) (k_lnk : K .lnk) (k_tim : K .tim) (k_feeds : K .feeds) (k_patts : K .patts) (k_pix : K .pix) (k_blend : K .blend) (k_scan : K .scan) (k_health : K .health) (k_rdbk : K .rdbk) (k_sense : K .sense) (k_sup : K .sup) (k_pow : K .pow) (k_evq : K .evq) : Kept K b (State.preset s rec_) := by
  unfold State.preset
  repeat' first
    | with_reducible assumption
    | with_reducible apply Kept.ev
    | with_reducible apply Kept.fs
    | with_reducible apply kept_modPow
    | with_reducible apply kept_autoFirkin_eq (by assumption)
    | with_reducible apply Kept.ite
    | lift_lets
    | split

theorem kept_probeReads {ack : Nat} (h : Kept K b s) : Kept K b (State.probeReads s ack) := by
  unfold State.probeReads
  repeat' first
    | with_reducible assumption
    | with_reducible apply Kept.emit
    | with_reducible apply Kept.ite
    | with_reducible apply Kept.foldl
    | (intro u x hu; replace hu : Kept K b _ := hu)

theorem kept_sensorProbe {ack : Nat} (h : Kept K b s) (k_regs : K .regs) (k_fab : K .fab) (k_tens : K .tens) (k_lnk : K .lnk) (k_tim : K .tim) (k_feeds : K .feeds) (k_patts : K .patts) (k_pix : K .pix) (k_blend : K .blend) (k_scan : K .scan) (k_health : K .health) (k_rdbk : K .rdbk) (k_sense : K .sense) (k_sup : K .sup) (k_pow : K .pow) (k_evq : K .evq) : Kept K b (State.sensorProbe s ack) := by
  unfold State.sensorProbe
  repeat' first
    | with_reducible assumption
    | with_reducible apply Kept.ev
    | with_reducible apply kept_modPow
    | with_reducible apply kept_probeReads
    | with_reducible apply kept_autoFirkin_eq (by assumption)
    | with_reducible apply Kept.ite
    | lift_lets
    | split

theorem kept_imagePut {x : Nat × Nat × Nat} (h : Kept K b s) (k_regs : K .regs) : Kept K b (State.imagePut s x) := by
  unfold State.imagePut
  repeat' first
    | with_reducible assumption
    | (intro x; subst x)
    | lift_lets
    | with_reducible refine Kept.mk_regs ?_ ?_ (cwf_cput _ _ _)

theorem kept_retention {crcOk : Bool} (h : Kept K b s) (k_regs : K .regs) (k_fab : K .fab) (k_tens : K .tens) (k_lnk : K .lnk) (k_tim : K .tim) (k_feeds : K .feeds) (k_patts : K .patts) (k_pix : K .pix) (k_blend : K .blend) (k_scan : K .scan) (k_health : K .health) (k_rdbk : K .rdbk) (k_sense : K .sense) (k_sup : K .sup) (k_pow : K .pow) (k_evq : K .evq) : Kept K b (State.retention s crcOk) := by
  unfold State.retention
  repeat' first
    | with_reducible assumption
    | with_reducible apply kept_imageQueues
    | with_reducible apply Kept.ev
    | with_reducible apply kept_imagePut
    | with_reducible apply kept_modPow
    | with_reducible apply kept_autoFirkin_eq (by assumption)
    | with_reducible apply Kept.ite
    | with_reducible apply Kept.foldl
    | (intro u x hu; replace hu : Kept K b _ := hu)
    | (intro x; subst x)
    | lift_lets
    | split

theorem kept_fixedPages (h : Kept K b s) (k_regs : K .regs) : Kept K b (State.fixedPages s) := by
  unfold State.fixedPages
  repeat' first
    | with_reducible assumption
    | with_reducible apply Kept.fs
    | with_reducible apply Kept.foldl
    | (intro u x hu; replace hu : Kept K b _ := hu)

theorem kept_portsAsked (h : Kept K b s) (k_fab : K .fab) : Kept K b (State.portsAsked s) := by
  unfold State.portsAsked
  repeat' first
    | with_reducible assumption
    | with_reducible apply kept_enableAsk
    | with_reducible apply Kept.foldl
    | (intro u x hu; replace hu : Kept K b _ := hu)

theorem kept_trimMode (h : Kept K b s) (k_regs : K .regs) (k_mode : K .mode) (k_fab : K .fab) (k_pix : K .pix) (k_blend : K .blend) (k_scan : K .scan) (k_sup : K .sup) (k_pow : K .pow) (k_evq : K .evq) : Kept K b (State.trimMode s) := by
  unfold State.trimMode
  repeat' first
    | with_reducible assumption
    | with_reducible apply kept_darkNow
    | with_reducible apply Kept.ev
    | with_reducible apply kept_modPow
    | with_reducible apply kept_relight
    | with_reducible apply Kept.ite
    | lift_lets
    | split

theorem kept_trimEnd {freed : Bool} (h : Kept K b s) (k_regs : K .regs) (k_mode : K .mode) (k_fab : K .fab) (k_tens : K .tens) (k_pix : K .pix) (k_blend : K .blend) (k_field : K .field) (k_scan : K .scan) (k_sup : K .sup) (k_pow : K .pow) (k_evq : K .evq) : Kept K b (State.trimEnd s freed) := by
  unfold State.trimEnd
  repeat' first
    | with_reducible assumption
    | with_reducible apply kept_auxStart
    | with_reducible apply kept_busClear
    | with_reducible apply kept_fixedPages
    | with_reducible apply Kept.fs
    | with_reducible apply kept_modFab
    | with_reducible apply kept_modPow
    | with_reducible apply kept_portsAsked
    | with_reducible apply kept_restoreAccess
    | with_reducible apply kept_settle
    | with_reducible apply kept_trimMode
    | with_reducible apply Kept.ite
    | (intro x; subst x)
    | lift_lets
    | fail_if_no_progress (with_reducible apply Kept.mk_other <;> first | (with_reducible refine Or.inr ?_; assumption) | with_reducible exact Or.inl rfl | skip)

theorem kept_wakeNoted (h : Kept K b s) (kall : ∀ p, K p) : Kept K b (State.wakeNoted s) := by
  unfold State.wakeNoted
  repeat' first
    | with_reducible assumption
    | with_reducible apply kept_wakeReset
    | with_reducible apply Kept.ite
    | split

theorem kept_sleepGo (h : Kept K b s) (kall : ∀ p, K p) : Kept K b (State.sleepGo s) := by
  unfold State.sleepGo
  repeat' first
    | with_reducible assumption
    | with_reducible exact kall _
    | with_reducible apply kept_sleepStep
    | with_reducible apply kept_wakeNoted
    | with_reducible apply Kept.ite

theorem kept_modeGo (h : Kept K b s) (kall : ∀ p, K p) : Kept K b (State.modeGo s) := by
  unfold State.modeGo
  repeat' first
    | with_reducible assumption
    | with_reducible exact kall _
    | with_reducible apply kept_changeMode
    | with_reducible apply kept_wakeNoted

theorem kept_wakeAt (h : Kept K b s) : Kept K b (State.wakeAt s) := by
  unfold State.wakeAt
  repeat' first
    | with_reducible assumption
    | with_reducible apply Kept.advance
    | with_reducible apply Kept.ite

theorem kept_wake {src : Nat} (h : Kept K b s) (kall : ∀ p, K p) : Kept K b (State.wake s src) := by
  unfold State.wake
  repeat' first
    | with_reducible assumption
    | with_reducible exact kall _
    | with_reducible apply kept_modPow
    | with_reducible apply kept_wakeAt
    | with_reducible apply kept_wakeReset
    | with_reducible apply Kept.ite

theorem kept_execPorn {straps : Fin 4096} (kall : ∀ p, K p) : Nxt (Kept K s) (execPorn straps s) := by
  have h : Kept K s s := Kept.refl s
  unfold execPorn
  repeat' first
    | with_reducible assumption
    | with_reducible apply kept_begin_
    | with_reducible apply kept_pornReset
    | with_reducible apply Nxt.next

theorem kept_execDomainPowerGood {d : Fin 11} (k_regs : K .regs) (k_fab : K .fab) (k_sup : K .sup) (k_pow : K .pow) (k_evq : K .evq) : Nxt (Kept K s) (execDomainPowerGood d s) := by
  have h : Kept K s s := Kept.refl s
  unfold execDomainPowerGood
  repeat' first
    | with_reducible assumption
    | with_reducible apply kept_begin_
    | with_reducible apply kept_powerGood
    | with_reducible apply Nxt.next

theorem kept_execPgoodTimeout {d : Fin 11} (k_regs : K .regs) (k_mode : K .mode) (k_fab : K .fab) (k_scan : K .scan) (k_sup : K .sup) (k_trim : K .trim) (k_pow : K .pow) (k_evq : K .evq) : Nxt (Kept K s) (execPgoodTimeout d s) := by
  have h : Kept K s s := Kept.refl s
  unfold execPgoodTimeout
  repeat' first
    | with_reducible assumption
    | with_reducible apply kept_begin_
    | with_reducible apply kept_powerFail
    | with_reducible apply Nxt.next

theorem kept_execDomainSwitch (k_regs : K .regs) (k_fab : K .fab) (k_sup : K .sup) (k_pow : K .pow) (k_evq : K .evq) : Nxt (Kept K s) (execDomainSwitch s) := by
  have h : Kept K s s := Kept.refl s
  unfold execDomainSwitch
  repeat' first
    | with_reducible assumption
    | with_reducible apply kept_begin_
    | with_reducible apply kept_domainSwitch
    | with_reducible apply Nxt.next

theorem kept_execPreset {rec_ : Option (List (Nat × Nat × Word))} (k_regs : K .regs) (k_fab : K .fab) (k_tens : K .tens) (k_lnk : K .lnk) (k_tim : K .tim) (k_feeds : K .feeds) (k_patts : K .patts) (k_pix : K .pix) (k_blend : K .blend) (k_scan : K .scan) (k_health : K .health) (k_rdbk : K .rdbk) (k_sense : K .sense) (k_sup : K .sup) (k_pow : K .pow) (k_evq : K .evq) : Nxt (Kept K s) (execPreset rec_ s) := by
  have h : Kept K s s := Kept.refl s
  unfold execPreset
  repeat' first
    | with_reducible assumption
    | with_reducible apply kept_begin_
    | with_reducible apply kept_preset
    | with_reducible apply Nxt.next

theorem kept_execSensorProbe {ack : BitVec 8} (k_regs : K .regs) (k_fab : K .fab) (k_tens : K .tens) (k_lnk : K .lnk) (k_tim : K .tim) (k_feeds : K .feeds) (k_patts : K .patts) (k_pix : K .pix) (k_blend : K .blend) (k_scan : K .scan) (k_health : K .health) (k_rdbk : K .rdbk) (k_sense : K .sense) (k_sup : K .sup) (k_pow : K .pow) (k_evq : K .evq) : Nxt (Kept K s) (execSensorProbe ack s) := by
  have h : Kept K s s := Kept.refl s
  unfold execSensorProbe
  repeat' first
    | with_reducible assumption
    | with_reducible apply kept_begin_
    | with_reducible apply kept_sensorProbe
    | with_reducible apply Nxt.next

theorem kept_execRetentionImage {crcOk : Bool} (k_regs : K .regs) (k_fab : K .fab) (k_tens : K .tens) (k_lnk : K .lnk) (k_tim : K .tim) (k_feeds : K .feeds) (k_patts : K .patts) (k_pix : K .pix) (k_blend : K .blend) (k_scan : K .scan) (k_health : K .health) (k_rdbk : K .rdbk) (k_sense : K .sense) (k_sup : K .sup) (k_pow : K .pow) (k_evq : K .evq) : Nxt (Kept K s) (execRetentionImage crcOk s) := by
  have h : Kept K s s := Kept.refl s
  unfold execRetentionImage
  repeat' first
    | with_reducible assumption
    | with_reducible apply kept_begin_
    | with_reducible apply kept_retention
    | with_reducible apply Nxt.next

theorem kept_execTrimEnd {freed : Bool} (k_regs : K .regs) (k_mode : K .mode) (k_fab : K .fab) (k_tens : K .tens) (k_pix : K .pix) (k_blend : K .blend) (k_field : K .field) (k_scan : K .scan) (k_sup : K .sup) (k_pow : K .pow) (k_evq : K .evq) : Nxt (Kept K s) (execTrimEnd freed s) := by
  have h : Kept K s s := Kept.refl s
  unfold execTrimEnd
  repeat' first
    | with_reducible assumption
    | with_reducible apply kept_begin_
    | with_reducible apply kept_trimEnd
    | with_reducible apply Nxt.next

theorem kept_execModeChange (kall : ∀ p, K p) : Nxt (Kept K s) (execModeChange s) := by
  have h : Kept K s s := Kept.refl s
  unfold execModeChange
  repeat' first
    | with_reducible assumption
    | with_reducible apply kept_begin_
    | with_reducible apply kept_modeGo
    | with_reducible apply Nxt.next

theorem kept_execSleepEntry (kall : ∀ p, K p) : Nxt (Kept K s) (execSleepEntry s) := by
  have h : Kept K s s := Kept.refl s
  unfold execSleepEntry
  repeat' first
    | with_reducible assumption
    | with_reducible apply kept_begin_
    | with_reducible apply kept_modeGo
    | with_reducible apply kept_sleepGo
    | with_reducible apply Kept.ite
    | with_reducible apply Nxt.next

theorem kept_execWake {src : Fin 4} (kall : ∀ p, K p) : Nxt (Kept K s) (execWake src s) := by
  have h : Kept K s s := Kept.refl s
  unfold execWake
  repeat' first
    | with_reducible assumption
    | with_reducible apply kept_begin_
    | with_reducible apply kept_wake
    | with_reducible apply Nxt.next

end Sys2Proof.Machine
end

