-- ==== Sys2Proof/Laws/KeptViews.lean ====
section
/-! SUPPORT. The operations of Machine/Views.lean keep the queue, the direction of time and the
invariant, and leave every part of the state alone but those they name. -/

namespace Sys2Proof.Machine

variable {K : Part → Prop} {b s t : State}

theorem kept_latch {key : Nat} {addr : Nat} {ws : List Word} (h : Kept K b s) (k_fab : K .fab) : Kept K b (State.latch s key addr ws) := by
  unfold State.latch
  repeat' first
    | with_reducible assumption
    | with_reducible apply kept_modFab

theorem kept_readClears {w : Who} {p : Nat} {o : Nat} {g : Reg} (h : Kept K b s) (k_regs : K .regs) (k_evq : K .evq) : Kept K b (State.readClears s w p o g) := by
  unfold State.readClears
  repeat' first
    | with_reducible assumption
    | with_reducible apply kept_modTen
    | (with_reducible refine Or.inr ?_; assumption)
    | with_reducible exact or_all fun _ => rfl
    | with_reducible apply Kept.ite
    | (intro x; subst x)
    | lift_lets
    | (intro y hy; with_reducible exact Ten.qOk_mkq hy)
    | with_reducible refine Kept.mk_regs ?_ ?_ (cwf_rput _ _ _ _)
    | dsimp only

theorem kept_readReg {path : Path} {w : Who} {p : Nat} {o : Nat} {g : Reg} (h : Kept K b s) (k_regs : K .regs) (k_fab : K .fab) (k_evq : K .evq) : Kept K b (State.readReg s path w p o g).1 := by
  unfold State.readReg
  repeat' first
    | with_reducible assumption
    | with_reducible apply Kept.freeAdd
    | with_reducible apply kept_latch
    | with_reducible apply kept_readClears
    | with_reducible apply Kept.ite
    | (intro x; subst x)
    | lift_lets
    | split

theorem kept_readReg_eq {path : Path} {w : Who} {p : Nat} {o : Nat} {g : Reg} {y : Nat} (e : State.readReg s path w p o g = (t, y)) (h : Kept K b s) (k_regs : K .regs) (k_fab : K .fab) (k_evq : K .evq) : Kept K b t := fst_of_eq (kept_readReg h k_regs k_fab k_evq) e

theorem kept_accessRead {path : Path} {w : Who} {addr : Nat} (h : Kept K b s) (k_regs : K .regs) (k_fab : K .fab) (k_tens : K .tens) (k_evq : K .evq) : Kept K b (State.accessRead s path w addr).1 := by
  unfold State.accessRead
  repeat' first
    | with_reducible assumption
    | with_reducible apply kept_readReg
    | with_reducible apply kept_refuse
    | with_reducible apply Kept.iteFst
    | (intro x; subst x)
    | lift_lets
    | split

theorem kept_accessRead_eq {path : Path} {w : Who} {addr : Nat} {y : Rc × Nat} (e : State.accessRead s path w addr = (t, y)) (h : Kept K b s) (k_regs : K .regs) (k_fab : K .fab) (k_tens : K .tens) (k_evq : K .evq) : Kept K b t := fst_of_eq (kept_accessRead h k_regs k_fab k_tens k_evq) e

end Sys2Proof.Machine
end

