-- ==== Sys2Proof/Laws/KeptFabric.lean ====
section
/-! SUPPORT. The operations of Machine/Fabric.lean keep the queue, the direction of time and the
invariant, and leave every part of the state alone but those they name. -/

namespace Sys2Proof.Machine

variable {K : Part → Prop} {b s t : State}

theorem Ten.qOk_drop {x : Ten} {n : Nat} {leaseEnd port cause toQuar stored missing permf floodRun feedBytes lost ovf unsent seq}
    (h : x.qOk = true) :
    (Ten.mk leaseEnd port cause toQuar stored missing permf floodRun feedBytes ⟨x.evq.q.drop n, lost, ovf, unsent, seq⟩).qOk = true := by
  simp only [Ten.qOk, decide_eq_true_eq, List.length_drop] at h ⊢
  omega

/-- A handler, where there is one, keeps what every operation keeps. -/
def HOpt (K : Part → Prop) (r : Option Handler) : Prop := ∀ k, r = some k → HKept K k

theorem HOpt.ite {c : Prop} [Decidable c] {u v : Option Handler} (h : HOpt K u) (k : HOpt K v) : HOpt K (if c then u else v) := by
  split <;> assumption

theorem HOpt.some {k : Handler} (h : HKept K k) : HOpt K (some k) := fun _ e => by cases e; exact h

theorem HOpt.none : HOpt K none := fun _ e => nomatch e

theorem kept_plainWrite {path : Path} {w : Who} {p : Nat} {o : Nat} {g : Reg} {data : Nat} (h : Kept K b s) (k_regs : K .regs) (k_fab : K .fab) : Kept K b (State.plainWrite s path w p o g data) := by
  unfold State.plainWrite
  repeat' first
    | with_reducible assumption
    | with_reducible apply kept_dropHalf
    | with_reducible apply kept_keepHalf
    | with_reducible apply kept_storeReg
    | (intro x; subst x)
    | lift_lets
    | split

theorem kept_eqPop {w : Who} (h : Kept K b s) (k_evq : K .evq) : Kept K b (State.eqPop s w) := by
  unfold State.eqPop
  repeat' first
    | with_reducible assumption
    | (intro y hy; with_reducible exact Ten.qOk_drop hy)
    | with_reducible apply kept_modTen
    | (with_reducible refine Or.inr ?_; assumption)
    | with_reducible exact or_all fun _ => rfl

theorem kept_dry (h : Kept K b s) (k_regs : K .regs) : Kept K b (State.dry s) := by
  unfold State.dry
  repeat' first
    | with_reducible assumption
    | with_reducible apply kept_admReport

theorem kept_hEqPop (k_evq : K .evq) : HKept K hEqPop := by
  intro s w p o g d b h
  unfold hEqPop
  repeat' first
    | with_reducible assumption
    | with_reducible apply kept_eqPop
    | with_reducible apply Kept.ite
    | with_reducible apply Rec.ok

theorem kept_hAdmCmd (k_regs : K .regs) : HKept K hAdmCmd := by
  intro s w p o g d b h
  unfold hAdmCmd
  repeat' first
    | with_reducible assumption
    | with_reducible apply kept_dry
    | with_reducible apply Rec.ite
    | with_reducible apply Rec.ok
    | with_reducible apply Rec.error

theorem kept_hPgCtrl (k_regs : K .regs) (k_fab : K .fab) : HKept K hPgCtrl := by
  intro s w p o g d b h
  unfold hPgCtrl
  repeat' first
    | with_reducible assumption
    | with_reducible apply kept_pgCtrlWrite
    | with_reducible apply Rec.ok

theorem kept_hPlain {path : Path} (k_regs : K .regs) (k_fab : K .fab) (k_tens : K .tens) (k_lnk : K .lnk) (k_tim : K .tim) (k_feeds : K .feeds) (k_pix : K .pix) (k_blend : K .blend) (k_scan : K .scan) (k_sup : K .sup) (k_pow : K .pow) (k_evq : K .evq) : HKept K (hPlain path) := by
  intro s w p o g d b h
  unfold hPlain
  repeat' first
    | with_reducible assumption
    | with_reducible apply kept_effect
    | with_reducible apply kept_plainWrite
    | with_reducible apply Rec.ok
    | with_reducible apply Rec.error
    | split

theorem kept_sysHandler {env : Env} {p o : Nat} (kall : ∀ p, K p) : HOpt K (sysHandler env p o) := by
  unfold sysHandler
  repeat' first
    | with_reducible apply HOpt.ite
    | with_reducible exact HOpt.none
    | with_reducible apply HOpt.some
    | (with_reducible apply kept_hPgCtrl <;> first | exact kall | exact kall _)
    | (with_reducible apply kept_hSysMode <;> first | exact kall | exact kall _)
    | (with_reducible apply kept_hRstCmd <;> first | exact kall | exact kall _)
    | (with_reducible apply kept_hKick <;> first | exact kall | exact kall _)
    | (with_reducible apply kept_hAdmCmd <;> first | exact kall | exact kall _)
    | (with_reducible apply kept_hFkCmd <;> first | exact kall | exact kall _)
    | (with_reducible apply kept_hFkData <;> first | exact kall | exact kall _)
    | (with_reducible apply kept_hEqPop <;> first | exact kall | exact kall _)
    | (with_reducible apply kept_hTenCmd <;> first | exact kall | exact kall _)
    | (with_reducible apply kept_hTenRun <;> first | exact kall | exact kall _)
    | (with_reducible apply kept_hOsecCmd <;> first | exact kall | exact kall _)
    | (with_reducible apply kept_hAttCmd <;> first | exact kall | exact kall _)
    | (with_reducible apply kept_hUpdCmd <;> first | exact kall | exact kall _)
    | (with_reducible apply kept_hDbgHalt <;> first | exact kall | exact kall _)

theorem kept_devHandler {env : Env} {p o : Nat} (kall : ∀ p, K p) : HOpt K (devHandler env p o) := by
  unfold devHandler
  repeat' first
    | with_reducible apply HOpt.ite
    | with_reducible exact HOpt.none
    | with_reducible apply HOpt.some
    | (with_reducible apply kept_hHealthCmd <;> first | exact kall | exact kall _)
    | (with_reducible apply kept_hRbClr <;> first | exact kall | exact kall _)
    | (with_reducible apply kept_hLoadAll <;> first | exact kall | exact kall _)
    | (with_reducible apply kept_hPhTest <;> first | exact kall | exact kall _)
    | (with_reducible apply kept_hTrimCmd <;> first | exact kall | exact kall _)
    | (with_reducible apply kept_hInject <;> first | exact kall | exact kall _)
    | (with_reducible apply kept_hInjectAddr <;> first | exact kall | exact kall _)
    | (with_reducible apply kept_hSpibCmd <;> first | exact kall | exact kall _)
    | (with_reducible apply kept_hSpibCfg <;> first | exact kall | exact kall _)
    | (with_reducible apply kept_hGcmd <;> first | exact kall | exact kall _)
    | (with_reducible apply kept_hSpicXfer <;> first | exact kall | exact kall _)
    | (with_reducible apply kept_hTwiXfer <;> first | exact kall | exact kall _)

theorem kept_hWrite {env : Env} {path : Path} (kall : ∀ p, K p) : HKept K (hWrite env path) := by
  intro s w p o g d b h
  unfold hWrite
  split
  · rename_i k e
    have hk : HKept K k := by
      rcases hs : sysHandler env p o with _ | k'
      · rw [hs] at e
        exact kept_devHandler kall k e
      · rw [hs] at e
        cases e
        exact kept_sysHandler kall k hs
    exact hk s w p o g d b h
  · exact (by apply kept_hPlain <;> exact kall _ : HKept K (hPlain path)) s w p o g d b h

theorem kept_memAccess {a : Sys2Proof.Access} {addr : Nat} {wr : Option Word} (h : Kept K b s) (k_regs : K .regs) (k_sram : K .sram) (k_tens : K .tens) (k_memc : K .memc) : Kept K b (State.memAccess s a addr wr) := by
  unfold State.memAccess
  repeat' first
    | with_reducible assumption
    | with_reducible refine Kept.mk_sram ?_ (cwf_cput (fun _ => (0 : Word)) _ _) ?_
    | with_reducible apply kept_dramRequest
    | with_reducible apply Kept.emit
    | with_reducible apply kept_refuse
    | with_reducible apply Kept.ite
    | lift_lets
    | split

theorem kept_directRead {a : Sys2Proof.Access} {addr : Nat} (h : Kept K b s) (k_regs : K .regs) (k_sram : K .sram) (k_fab : K .fab) (k_tens : K .tens) (k_evq : K .evq) (k_memc : K .memc) : Kept K b (State.directRead s a addr) := by
  unfold State.directRead
  repeat' first
    | with_reducible assumption
    | with_reducible apply kept_accessRead
    | with_reducible apply Kept.emit
    | with_reducible apply kept_memAccess
    | with_reducible apply kept_notAdmitted
    | with_reducible apply kept_grantAccess_eq (by assumption)
    | with_reducible apply Kept.ite
    | lift_lets
    | split

theorem kept_execRegisterWrite {a : Sys2Proof.Access} {addr : Nat} {data : Word} {env : Env} (kall : ∀ p, K p) : Nxt (Kept K s) (execRegisterWrite a addr data env s) := by
  have h : Kept K s s := Kept.refl s
  unfold execRegisterWrite
  repeat' first
    | with_reducible assumption
    | with_reducible exact kall _
    | with_reducible apply kept_begin_
    | with_reducible apply kept_direct
    | with_reducible apply kept_hWrite
    | with_reducible apply kept_memAccess
    | with_reducible apply Kept.ite
    | with_reducible apply Nxt.next

theorem kept_execSnapshotRead {a : Sys2Proof.Access} {addr : Nat} (k_regs : K .regs) (k_sram : K .sram) (k_fab : K .fab) (k_tens : K .tens) (k_evq : K .evq) (k_memc : K .memc) : Nxt (Kept K s) (execSnapshotRead a addr s) := by
  have h : Kept K s s := Kept.refl s
  unfold execSnapshotRead
  repeat' first
    | with_reducible assumption
    | with_reducible apply kept_begin_
    | with_reducible apply kept_directRead
    | with_reducible apply Nxt.next

theorem kept_execReadClear {a : Sys2Proof.Access} {addr : Nat} (k_regs : K .regs) (k_sram : K .sram) (k_fab : K .fab) (k_tens : K .tens) (k_evq : K .evq) (k_memc : K .memc) : Nxt (Kept K s) (execReadClear a addr s) := by
  have h : Kept K s s := Kept.refl s
  unfold execReadClear
  repeat' first
    | with_reducible assumption
    | with_reducible apply kept_begin_
    | with_reducible apply kept_directRead
    | with_reducible apply Nxt.next

theorem kept_ctrlWrite {a : Sys2Proof.Access} {p : Nat} {data : Nat} (h : Kept K b s) (k_regs : K .regs) (k_fab : K .fab) (k_tens : K .tens) (k_evq : K .evq) : Kept K b (ctrlWrite s a p data) := by
  unfold ctrlWrite
  repeat' first
    | with_reducible assumption
    | with_reducible apply kept_begin_
    | with_reducible apply kept_direct
    | with_reducible apply kept_hPgCtrl

theorem kept_execEnable {a : Sys2Proof.Access} {page : Nat} (k_regs : K .regs) (k_fab : K .fab) (k_tens : K .tens) (k_evq : K .evq) : Nxt (Kept K s) (execEnable a page s) := by
  have h : Kept K s s := Kept.refl s
  unfold execEnable
  repeat' first
    | with_reducible assumption
    | with_reducible apply kept_ctrlWrite
    | with_reducible apply Nxt.next

theorem kept_execDisable {a : Sys2Proof.Access} {page : Nat} (k_regs : K .regs) (k_fab : K .fab) (k_tens : K .tens) (k_evq : K .evq) : Nxt (Kept K s) (execDisable a page s) := by
  have h : Kept K s s := Kept.refl s
  unfold execDisable
  repeat' first
    | with_reducible assumption
    | with_reducible apply kept_ctrlWrite
    | with_reducible apply Nxt.next

theorem kept_execPageReset {a : Sys2Proof.Access} {page : Nat} (k_regs : K .regs) (k_fab : K .fab) (k_tens : K .tens) (k_evq : K .evq) : Nxt (Kept K s) (execPageReset a page s) := by
  have h : Kept K s s := Kept.refl s
  unfold execPageReset
  repeat' first
    | with_reducible assumption
    | with_reducible apply kept_ctrlWrite
    | with_reducible apply Nxt.next

theorem kept_execHold {a : Sys2Proof.Access} {page : Nat} {on : Bool} (k_regs : K .regs) (k_fab : K .fab) (k_tens : K .tens) (k_evq : K .evq) : Nxt (Kept K s) (execHold a page on s) := by
  have h : Kept K s s := Kept.refl s
  unfold execHold
  repeat' first
    | with_reducible assumption
    | with_reducible apply kept_ctrlWrite
    | with_reducible apply Nxt.next

theorem kept_execEnableCheckDone {page : Nat} (k_regs : K .regs) (k_fab : K .fab) (k_evq : K .evq) : Nxt (Kept K s) (execEnableCheckDone page s) := by
  have h : Kept K s s := Kept.refl s
  unfold execEnableCheckDone
  repeat' first
    | with_reducible assumption
    | with_reducible apply kept_begin_
    | with_reducible apply kept_enableChecked
    | with_reducible apply Nxt.next

theorem kept_execUnitStart {page : Nat} (k_regs : K .regs) (k_fab : K .fab) (k_lnk : K .lnk) (k_tim : K .tim) (k_feeds : K .feeds) (k_patts : K .patts) (k_pix : K .pix) (k_blend : K .blend) (k_scan : K .scan) (k_health : K .health) (k_rdbk : K .rdbk) (k_sense : K .sense) (k_sup : K .sup) (k_evq : K .evq) : Nxt (Kept K s) (execUnitStart page s) := by
  have h : Kept K s s := Kept.refl s
  unfold execUnitStart
  repeat' first
    | with_reducible assumption
    | with_reducible apply kept_begin_
    | with_reducible apply kept_startNow
    | with_reducible apply Nxt.next

theorem kept_execUnitStop {page : Nat} (k_regs : K .regs) (k_fab : K .fab) (k_lnk : K .lnk) (k_tim : K .tim) (k_feeds : K .feeds) (k_patts : K .patts) (k_pix : K .pix) (k_scan : K .scan) (k_sense : K .sense) (k_sup : K .sup) (k_evq : K .evq) : Nxt (Kept K s) (execUnitStop page s) := by
  have h : Kept K s s := Kept.refl s
  unfold execUnitStop
  repeat' first
    | with_reducible assumption
    | with_reducible apply kept_begin_
    | with_reducible apply kept_stopNow
    | with_reducible apply Nxt.next

theorem kept_execPageResetApply {page : Nat} (k_regs : K .regs) (k_fab : K .fab) (k_tens : K .tens) (k_lnk : K .lnk) (k_tim : K .tim) (k_feeds : K .feeds) (k_patts : K .patts) (k_pix : K .pix) (k_blend : K .blend) (k_scan : K .scan) (k_sense : K .sense) (k_sup : K .sup) (k_evq : K .evq) : Nxt (Kept K s) (execPageResetApply page s) := by
  have h : Kept K s s := Kept.refl s
  unfold execPageResetApply
  repeat' first
    | with_reducible assumption
    | with_reducible apply kept_begin_
    | with_reducible apply kept_resetAct
    | with_reducible apply Nxt.next

theorem kept_execEqPop {a : Sys2Proof.Access} (k_regs : K .regs) (k_tens : K .tens) (k_evq : K .evq) : Nxt (Kept K s) (execEqPop a s) := by
  have h : Kept K s s := Kept.refl s
  unfold execEqPop
  repeat' first
    | with_reducible assumption
    | with_reducible apply kept_begin_
    | with_reducible apply kept_direct
    | with_reducible apply kept_hEqPop
    | with_reducible apply Nxt.next

theorem kept_execDry {a : Sys2Proof.Access} (k_regs : K .regs) (k_tens : K .tens) (k_evq : K .evq) : Nxt (Kept K s) (execDry a s) := by
  have h : Kept K s s := Kept.refl s
  unfold execDry
  repeat' first
    | with_reducible assumption
    | with_reducible apply kept_begin_
    | with_reducible apply kept_direct
    | with_reducible apply kept_hAdmCmd
    | with_reducible apply Nxt.next

theorem kept_execReturnToService {a : Sys2Proof.Access} {half : Fin 2} {data : Word} (k_regs : K .regs) (k_fab : K .fab) (k_tens : K .tens) (k_lnk : K .lnk) (k_tim : K .tim) (k_feeds : K .feeds) (k_pix : K .pix) (k_blend : K .blend) (k_scan : K .scan) (k_sup : K .sup) (k_pow : K .pow) (k_evq : K .evq) : Nxt (Kept K s) (execReturnToService a half data s) := by
  have h : Kept K s s := Kept.refl s
  unfold execReturnToService
  repeat' first
    | with_reducible assumption
    | with_reducible apply kept_begin_
    | with_reducible apply kept_direct
    | with_reducible apply kept_hPlain
    | with_reducible apply Nxt.next

theorem kept_execSensorReturn {a : Sys2Proof.Access} {half : Fin 2} {data : Word} (k_regs : K .regs) (k_fab : K .fab) (k_tens : K .tens) (k_lnk : K .lnk) (k_tim : K .tim) (k_feeds : K .feeds) (k_pix : K .pix) (k_blend : K .blend) (k_scan : K .scan) (k_sup : K .sup) (k_pow : K .pow) (k_evq : K .evq) : Nxt (Kept K s) (execSensorReturn a half data s) := by
  have h : Kept K s s := Kept.refl s
  unfold execSensorReturn
  repeat' first
    | with_reducible assumption
    | with_reducible apply kept_begin_
    | with_reducible apply kept_direct
    | with_reducible apply kept_hPlain
    | with_reducible apply Nxt.next

theorem kept_execOverride {a : Sys2Proof.Access} {k : Fin 4} {data : Word} (k_regs : K .regs) (k_fab : K .fab) (k_tens : K .tens) (k_lnk : K .lnk) (k_tim : K .tim) (k_feeds : K .feeds) (k_pix : K .pix) (k_blend : K .blend) (k_scan : K .scan) (k_sup : K .sup) (k_pow : K .pow) (k_evq : K .evq) : Nxt (Kept K s) (execOverride a k data s) := by
  have h : Kept K s s := Kept.refl s
  unfold execOverride
  repeat' first
    | with_reducible assumption
    | with_reducible apply kept_begin_
    | with_reducible apply kept_direct
    | with_reducible apply kept_hPlain
    | with_reducible apply Nxt.next

end Sys2Proof.Machine
end

