-- ==== Sys2Proof/Laws/KeptCycle.lean ====
section
/-! SUPPORT. The operations of Machine/Cycle.lean keep the queue, the direction of time and the
invariant, and leave every part of the state alone but those they name. -/

namespace Sys2Proof.Machine

variable {K : Part → Prop} {b s t : State}

theorem kept_boundaryActs {dcns : List Nat} {atCycle : Bool} {rx : StopRx} (h : Kept K b s) (kall : ∀ p, K p) : Kept K b (State.boundaryActs s dcns atCycle rx) := by
  unfold State.boundaryActs
  repeat' first
    | with_reducible assumption
    | with_reducible exact kall _
    | with_reducible apply kept_cutFrame
    | with_reducible apply kept_domainSwitch
    | with_reducible apply kept_fkApplyDue
    | with_reducible apply kept_halfBack
    | with_reducible apply kept_hbTick
    | with_reducible apply kept_healthBoundary
    | with_reducible apply kept_objBoundary
    | with_reducible apply kept_railBoundary
    | with_reducible apply kept_rdbkBoundary
    | with_reducible apply kept_resetAll
    | with_reducible apply kept_sleepGo
    | with_reducible apply kept_trimBoundary
    | with_reducible apply kept_unitsBoundary
    | with_reducible apply Kept.foldl
    | (intro u x hu; replace hu : Kept K b _ := hu)

theorem kept_idleActs (h : Kept K b s) (kall : ∀ p, K p) : Kept K b (State.idleActs s) := by
  unfold State.idleActs
  repeat' first
    | with_reducible assumption
    | with_reducible exact kall _
    | with_reducible apply kept_derateBoundary
    | with_reducible apply kept_modeGo

theorem kept_loadPort {p : Nat} (h : Kept K b s) (k_regs : K .regs) (k_lnk : K .lnk) : Kept K b (State.loadPort s p) := by
  unfold State.loadPort
  repeat' first
    | with_reducible assumption
    | with_reducible apply Kept.faultBit
    | with_reducible apply Kept.fsi
    | with_reducible apply kept_modPort
    | with_reducible apply Kept.ite

theorem kept_loadCycle (h : Kept K b s) (k_regs : K .regs) (k_lnk : K .lnk) : Kept K b (State.loadCycle s) := by
  unfold State.loadCycle
  repeat' first
    | with_reducible assumption
    | with_reducible apply kept_loadPort
    | with_reducible apply Kept.foldl
    | (intro u x hu; replace hu : Kept K b _ := hu)
    | (intro x; subst x)
    | lift_lets
    | fail_if_no_progress (with_reducible apply Kept.mk_other <;> first | (with_reducible refine Or.inr ?_; assumption) | with_reducible exact Or.inl rfl | skip)

theorem kept_auditMiss {w : Nat} {pl : Plan} {slice : Nat} (h : Kept K b s) (k_regs : K .regs) (k_pix : K .pix) : Kept K b (State.auditMiss s w pl slice) := by
  unfold State.auditMiss
  repeat' first
    | with_reducible assumption
    | with_reducible apply Kept.inc
    | with_reducible apply kept_modPix
    | with_reducible apply kept_releaseWin

theorem kept_auditCycle {err : List (Nat × Nat × Nat)} (h : Kept K b s) (k_regs : K .regs) (k_pix : K .pix) : Kept K b (State.auditCycle s err) := by
  unfold State.auditCycle
  repeat' first
    | with_reducible assumption
    | with_reducible apply kept_auditMiss
    | with_reducible apply Kept.inc
    | with_reducible apply Kept.ite
    | with_reducible apply Kept.foldl
    | (intro u x hu; replace hu : Kept K b _ := hu)

theorem kept_windowPulse (h : Kept K b s) (k_tim : K .tim) : Kept K b (State.windowPulse s) := by
  unfold State.windowPulse
  repeat' first
    | with_reducible assumption
    | with_reducible apply kept_cycleOut
    | with_reducible apply Kept.ite
    | split

theorem kept_darkSpan (h : Kept K b s) (k_regs : K .regs) (k_pix : K .pix) (k_scan : K .scan) (k_sup : K .sup) (k_evq : K .evq) : Kept K b (State.darkSpan s) := by
  unfold State.darkSpan
  repeat' first
    | with_reducible assumption
    | with_reducible apply kept_endOcc
    | with_reducible apply kept_modScan
    | with_reducible apply kept_noteSeen
    | with_reducible apply kept_readDbe
    | with_reducible apply kept_showScan
    | with_reducible apply kept_sweepCut

theorem kept_spanNext {e : SpanEnv} {tt : Nat} (h : Kept K b s) (kall : ∀ p, K p) : Kept K b (State.spanNext s e tt) := by
  unfold State.spanNext
  repeat' first
    | with_reducible assumption
    | with_reducible exact kall _
    | with_reducible apply Kept.advance
    | with_reducible apply kept_boundaryActs
    | with_reducible apply kept_darkSpan
    | with_reducible apply kept_endSpan
    | with_reducible apply kept_headroomLoop
    | with_reducible apply kept_nextPlace
    | with_reducible apply kept_stageSweep
    | with_reducible apply kept_startSpan
    | with_reducible apply kept_windowPulse
    | with_reducible apply Kept.ite

theorem kept_spanBoundary {e : SpanEnv} (h : Kept K b s) (kall : ∀ p, K p) : Kept K b (State.spanBoundary s e) := by
  unfold State.spanBoundary
  repeat' first
    | with_reducible assumption
    | with_reducible apply Kept.advance
    | with_reducible apply kept_boundaryActs
    | with_reducible apply kept_idleActs
    | with_reducible apply kept_spanNext
    | with_reducible apply Kept.ite
    | (intro x; subst x)
    | lift_lets
    | split

theorem kept_lapseSkipped {old : Nat} {new : Nat} (h : Kept K b s) (k_regs : K .regs) (k_fab : K .fab) (k_evq : K .evq) : Kept K b (State.lapseSkipped s old new) := by
  unfold State.lapseSkipped
  repeat' first
    | with_reducible assumption
    | with_reducible apply kept_fkLapse
    | with_reducible apply Kept.ite
    | with_reducible apply Kept.foldl
    | (intro u x hu; replace hu : Kept K b _ := hu)
    | split

theorem kept_endCycle {c : CycNext} {own : Nat} {e : SpanEnv} {err : List (Nat × Nat × Nat)} (h : Kept K b s) (k_regs : K .regs) (k_mode : K .mode) (k_fab : K .fab) (k_tens : K .tens) (k_lnk : K .lnk) (k_feeds : K .feeds) (k_patts : K .patts) (k_pix : K .pix) (k_blend : K .blend) (k_scan : K .scan) (k_health : K .health) (k_rdbk : K .rdbk) (k_sup : K .sup) (k_pow : K .pow) (k_evq : K .evq) (k_memc : K .memc) : Kept K b (State.endCycle s c own e err) := by
  unfold State.endCycle
  repeat' first
    | with_reducible assumption
    | with_reducible apply Kept.advance
    | with_reducible apply kept_auditCycle
    | with_reducible apply kept_endSpan
    | with_reducible apply kept_feedsStale
    | with_reducible apply kept_loadCycle
    | with_reducible apply kept_memCycle
    | with_reducible apply kept_rdbkCompare
    | with_reducible apply kept_stuckTest
    | with_reducible apply Kept.ite

theorem kept_cycleActs {d : Nat} {rx : StopRx} (h : Kept K b s) (kall : ∀ p, K p) : Kept K b (State.cycleActs s d rx) := by
  unfold State.cycleActs
  repeat' first
    | with_reducible assumption
    | with_reducible exact kall _
    | with_reducible apply kept_activateDue
    | with_reducible apply kept_applyDue
    | with_reducible apply kept_blendBoundary
    | with_reducible apply kept_boundaryActs
    | with_reducible apply kept_derateBoundary
    | with_reducible apply kept_feedsCycle
    | with_reducible apply kept_floodCycle
    | with_reducible apply kept_keysCycle
    | with_reducible apply kept_modeGo
    | with_reducible apply kept_pairsCycle
    | with_reducible apply kept_pattCycle
    | with_reducible apply kept_stageCycle
    | with_reducible apply Kept.foldl
    | (intro u x hu; replace hu : Kept K b _ := hu)

theorem kept_cycleStart {e : SpanEnv} {err : List (Nat × Nat × Nat)} (h : Kept K b s) (kall : ∀ p, K p) : Kept K b (State.cycleStart s e err) := by
  unfold State.cycleStart
  repeat' first
    | with_reducible assumption
    | with_reducible exact kall _
    | with_reducible apply Kept.advance
    | with_reducible apply kept_boundaryActs
    | with_reducible apply kept_cycleActs
    | with_reducible apply kept_cycleOut
    | with_reducible apply kept_endCycle
    | with_reducible apply kept_endOcc
    | with_reducible apply kept_headroomLoop
    | with_reducible apply kept_holdOver
    | with_reducible apply kept_idleActs
    | with_reducible apply kept_lapseSkipped
    | with_reducible apply kept_modScan
    | with_reducible apply kept_noteSeen
    | with_reducible apply kept_rdbkCycle
    | with_reducible apply kept_startSpan
    | with_reducible apply kept_startTime
    | with_reducible apply kept_sweepCut
    | with_reducible apply kept_windowPulse
    | with_reducible apply Kept.ite
    | (intro x; subst x)
    | lift_lets
    | split

theorem kept_execSpanBoundary {e : SpanEnv} (kall : ∀ p, K p) : Nxt (Kept K s) (execSpanBoundary e s) := by
  have h : Kept K s s := Kept.refl s
  unfold execSpanBoundary
  repeat' first
    | with_reducible assumption
    | with_reducible apply kept_begin_
    | with_reducible apply kept_spanBoundary
    | with_reducible apply Nxt.next

theorem kept_execCycleStart {e : SpanEnv} {auditErr : List (Nat × Nat × Nat)} (kall : ∀ p, K p) : Nxt (Kept K s) (execCycleStart e auditErr s) := by
  have h : Kept K s s := Kept.refl s
  unfold execCycleStart
  repeat' first
    | with_reducible assumption
    | with_reducible apply kept_begin_
    | with_reducible apply kept_cycleStart
    | with_reducible apply Nxt.next

end Sys2Proof.Machine
end

