-- ==== Sys2Proof/Laws/KeptMgmt.lean ====
section
/-! SUPPORT. The operations of Machine/Mgmt.lean keep the queue, the direction of time and the
invariant, and leave every part of the state alone but those they name. -/

namespace Sys2Proof.Machine

variable {K : Part → Prop} {b s t : State}

theorem kept_opAccess {a : Sys2Proof.Access} {addr : Nat} {f : State → Who → State × Rc × Nat} (h : Kept K b s) (k_regs : K .regs) (k_tens : K .tens) (k_evq : K .evq)
    (hf : ∀ u w, Kept K b u → Kept K b (f u w).1) : Kept K b (opAccess s a addr f).1 := by
  unfold opAccess
  split
  · apply kept_refuse h <;> assumption
  · exact hf _ _ (by apply kept_grantAccess_eq (by assumption) h <;> assumption)

theorem kept_opRead {a : Sys2Proof.Access} {inc : Bool} {addr i : Nat} {d : OpDone} (h : Kept K b d.st) (k_regs : K .regs) (k_fab : K .fab) (k_tens : K .tens) (k_evq : K .evq) :
    Kept K b (opRead a inc addr d i).st :=
  by
  unfold opRead
  exact (by apply kept_opAccess h <;> first | assumption | (intro u w hu; apply kept_accessRead hu <;> assumption))

theorem OpDone.ite_kept {c : Prop} [Decidable c] {d e : OpDone} (h : Kept K b d.st) (k : Kept K b e.st) : Kept K b (if c then d else e).st := by
  split <;> assumption

theorem kept_opWrite {a : Sys2Proof.Access} {env : Env} {inc : Bool} {addr i : Nat} {l : List Word} (h : Kept K b s) (kall : ∀ p, K p) :
    Kept K b (opWrite a env inc addr s i l).st := by
  induction l generalizing s i with
  | nil => exact h
  | cons v l ih =>
    unfold opWrite
    refine OpDone.ite_kept ?_ (ih ?_)
    all_goals
      apply kept_opAccess h <;> first
        | exact kall _
        | (intro u w hu; apply kept_accessWrite hu (kept_hWrite kall) <;> exact kall _)

theorem kept_opRun {a : Sys2Proof.Access} {env : Env} {op : MOp} (h : Kept K b s) (kall : ∀ p, K p) : Kept K b (opRun s a env op).st := by
  have acc : ∀ {addr : Nat} {f : State → Who → State × Rc × Nat}, (∀ u w, Kept K b u → Kept K b (f u w).1) →
      Kept K b (opAccess s a addr f).1 := fun hf => by
    apply kept_opAccess h <;> first | exact kall _ | exact hf
  unfold opRun
  split
  · have aux : ∀ (l : List Nat) (d : OpDone) (inc : Bool) (addr : Nat), Kept K b d.st → Kept K b (l.foldl (opRead a inc addr) d).st := by
      intro l
      induction l with
      | nil => exact fun _ _ _ hd => hd
      | cons x l ih => exact fun d inc addr hd => ih _ _ _ (by apply kept_opRead hd <;> exact kall _)
    exact aux _ _ _ _ h
  · apply kept_opWrite h kall
  · exact acc fun _ _ hu => by apply kept_accessWrite hu (kept_hWrite kall) <;> exact kall _
  · refine acc fun _ _ hu => ?_
    have hp := fun (w : Who) (y : Bool) (c : Option Nat) (p : Piece) =>
      (kept_pieceTake hu (kall _) (kall _) : Kept K b (State.pieceTake _ w y c p).1)
    exact Kept.ite (by apply kept_refuse (hp _ _ _ _) <;> exact kall _) (hp _ _ _ _)
  · exact acc fun _ _ hu => hu
  · exact h

theorem kept_opDo {a : Sys2Proof.Access} {env : Env} {blk : Nat} {op : MOp} (h : Kept K b s) (kall : ∀ p, K p) : Kept K b (opDo s a env blk op).st := by
  unfold opDo
  split
  · exact h
  · exact kept_opRun h kall

theorem kept_opsRun {a : Sys2Proof.Access} {env : Env} {i : Nat} {stopped : Bool} {ops : List MOp} (h : Kept K b s) (kall : ∀ p, K p) :
    Kept K b (opsRun a env i stopped s ops).1 := by
  induction ops generalizing s i stopped with
  | nil => exact h
  | cons op ops ih =>
    unfold opsRun
    split
    · exact ih h
    · exact ih (kept_opDo h kall)

theorem kept_frameRun {a : Sys2Proof.Access} {env : Env} {ops : List MOp} {overrun : Bool} (h : Kept K b s) (kall : ∀ p, K p) : Kept K b (frameRun s a env ops overrun).1 := by
  unfold frameRun
  repeat' first
    | with_reducible assumption
    | with_reducible apply kept_opsRun
    | with_reducible apply Kept.iteFst

theorem kept_frameRun_eq {a : Sys2Proof.Access} {env : Env} {ops : List MOp} {overrun : Bool} {y : Nat × List OpRes} (e : frameRun s a env ops overrun = (t, y)) (h : Kept K b s) (kall : ∀ p, K p) : Kept K b t := fst_of_eq (kept_frameRun h kall) e

theorem kept_setMissing {n : Nat} {l : List Nat} (h : Kept K b s) (k_regs : K .regs) (k_tens : K .tens) : Kept K b (State.setMissing s n l) := by
  unfold State.setMissing
  repeat' first
    | with_reducible assumption
    | with_reducible apply Kept.fsi
    | with_reducible apply kept_modTen
    | (with_reducible refine Or.inr ?_; assumption)
    | with_reducible exact or_all fun _ => rfl
    | lift_lets
    | (intro y hy; with_reducible exact Ten.qOk_mk hy)

theorem kept_windowTo {n : Nat} {q : Nat} (h : Kept K b s) (k_regs : K .regs) (k_tens : K .tens) : Kept K b (State.windowTo s n q) := by
  unfold State.windowTo
  repeat' first
    | with_reducible assumption
    | with_reducible apply Kept.fsi
    | with_reducible apply kept_modTen
    | with_reducible apply kept_setMissing
    | (with_reducible refine Or.inr ?_; assumption)
    | with_reducible exact or_all fun _ => rfl
    | lift_lets
    | (intro y hy; with_reducible exact Ten.qOk_mk hy)

theorem kept_sendAck {f : Frame} {resent : Bool} {status : Nat} {r : List OpRes} (h : Kept K b s) (k_regs : K .regs) (k_lnk : K .lnk) : Kept K b (State.sendAck s f resent status r) := by
  unfold State.sendAck
  repeat' first
    | with_reducible assumption
    | with_reducible apply kept_sendUp

theorem kept_mgmtExec {f : Frame} {env : Env} {ops : List MOp} {overrun : Bool} (h : Kept K b s) (kall : ∀ p, K p) : Kept K b (State.mgmtExec s f env ops overrun) := by
  unfold State.mgmtExec
  repeat' first
    | with_reducible assumption
    | with_reducible exact kall _
    | with_reducible apply kept_frameRun
    | with_reducible apply kept_modTen
    | with_reducible apply kept_sendAck
    | exact Or.inr (kall _)
    | with_reducible apply Kept.ite
    | lift_lets
    | (intro y hy; with_reducible exact Ten.qOk_mk hy)

theorem kept_mgmtWindow {f : Frame} {env : Env} {ops : List MOp} {overrun : Bool} (h : Kept K b s) (kall : ∀ p, K p) : Kept K b (State.mgmtWindow s f env ops overrun) := by
  unfold State.mgmtWindow
  repeat' first
    | with_reducible assumption
    | with_reducible exact kall _
    | with_reducible apply kept_mgmtExec
    | with_reducible apply kept_sendAck
    | with_reducible apply kept_setMissing
    | with_reducible apply kept_windowTo
    | with_reducible apply Kept.ite
    | lift_lets
    | split

theorem kept_mgmtFrame {f : Frame} {key : Nat} {env : Env} {ops : List MOp} {overrun : Bool} (h : Kept K b s) (kall : ∀ p, K p) : Kept K b (State.mgmtFrame s f key env ops overrun) := by
  unfold State.mgmtFrame
  repeat' first
    | with_reducible assumption
    | with_reducible exact kall _
    | with_reducible apply kept_authFail
    | with_reducible apply Kept.inc
    | with_reducible apply kept_mgmtWindow
    | with_reducible apply kept_renewSession
    | with_reducible apply kept_rxDown
    | with_reducible apply kept_sendAck
    | with_reducible apply Kept.ite

theorem kept_execMgmtFrame {f : Frame} {key : Nat} {ops : List MOp} {overrun : Bool} {env : Env} (kall : ∀ p, K p) : Nxt (Kept K s) (execMgmtFrame f key ops overrun env s) := by
  have h : Kept K s s := Kept.refl s
  unfold execMgmtFrame
  repeat' first
    | with_reducible assumption
    | with_reducible apply kept_begin_
    | with_reducible apply kept_mgmtFrame
    | with_reducible apply Nxt.next

theorem kept_spiaCount (h : Kept K b s) (k_regs : K .regs) (k_ser : K .ser) : Kept K b (State.spiaCount s) := by
  unfold State.spiaCount
  repeat' first
    | with_reducible assumption
    | with_reducible apply Kept.inc
    | with_reducible apply kept_modSer

theorem kept_spiaDone {c : Rc} {bad : Option Nat} (h : Kept K b s) (k_regs : K .regs) (k_ser : K .ser) : Kept K b (State.spiaDone s c bad) := by
  unfold State.spiaDone
  repeat' first
    | with_reducible assumption
    | with_reducible apply Kept.fs
    | with_reducible apply Kept.inc
    | with_reducible apply kept_modSer
    | with_reducible apply kept_spiaCount
    | with_reducible apply Kept.ite

theorem kept_spiaDrive {dev : Option (Nat × MOp)} {own : List Nat} (h : Kept K b s) : Kept K b (State.spiaDrive s dev own) := by
  unfold State.spiaDrive
  repeat' first
    | with_reducible assumption
    | with_reducible apply Kept.emit
    | split

theorem kept_spiaSend {dev : Option (Nat × MOp)} {ws : List Nat} {lost : Option Nat} (h : Kept K b s) : Kept K b (State.spiaSend s dev ws lost) := by
  unfold State.spiaSend
  repeat' first
    | with_reducible assumption
    | with_reducible apply kept_spiaDrive

theorem kept_spiaOp {dev : Option Nat} {op : MOp} {short : Option Nat} {lost : Option Nat} {env : Env} (h : Kept K b s) (kall : ∀ p, K p) : Kept K b (State.spiaOp s dev op short lost env) := by
  unfold State.spiaOp
  repeat' first
    | with_reducible assumption
    | with_reducible exact kall _
    | with_reducible apply Kept.emit
    | with_reducible apply kept_opDo
    | with_reducible apply kept_spiaCount
    | with_reducible apply kept_spiaDone
    | with_reducible apply kept_spiaDrive
    | with_reducible apply kept_spiaSend
    | with_reducible apply Kept.ite
    | (intro x; subst x)
    | lift_lets
    | split

theorem kept_spiaForward {d : Nat} {op : MOp} (h : Kept K b s) : Kept K b (State.spiaForward s d op) := by
  unfold State.spiaForward
  repeat' first
    | with_reducible assumption
    | with_reducible apply Kept.emit
    | with_reducible apply Kept.ite

theorem kept_spiaFrame {dev : Option Nat} {op : MOp} {short : Option Nat} {lost : Option Nat} {env : Env} (h : Kept K b s) (kall : ∀ p, K p) : Kept K b (State.spiaFrame s dev op short lost env) := by
  unfold State.spiaFrame
  repeat' first
    | with_reducible assumption
    | with_reducible exact kall _
    | with_reducible apply Kept.emit
    | with_reducible apply kept_spiaCount
    | with_reducible apply kept_spiaDone
    | with_reducible apply kept_spiaForward
    | with_reducible apply kept_spiaOp
    | with_reducible apply Kept.ite
    | (intro x; subst x)
    | lift_lets
    | split

theorem kept_spiaOne {op : MOp} {lost : Option Nat} {env : Env} (h : Kept K b s) (kall : ∀ p, K p) : Kept K b (State.spiaOne s op lost env) := by
  unfold State.spiaOne
  repeat' first
    | with_reducible assumption
    | with_reducible apply kept_spiaFrame

theorem kept_spiaPoll {op : MOp} {env : Env} (h : Kept K b s) (kall : ∀ p, K p) : Kept K b (State.spiaPoll s op env) := by
  unfold State.spiaPoll
  repeat' first
    | with_reducible assumption
    | with_reducible exact kall _
    | with_reducible apply Kept.advance
    | with_reducible apply Kept.emit
    | with_reducible apply kept_modSer
    | with_reducible apply kept_opDo
    | with_reducible apply kept_spiaDone
    | with_reducible apply Kept.ite
    | lift_lets
    | split

theorem kept_execSpiaFrame {dev : Option Nat} {op : MOp} {short : Option Nat} {lost : Option Nat} {env : Env} (kall : ∀ p, K p) : Nxt (Kept K s) (execSpiaFrame dev op short lost env s) := by
  have h : Kept K s s := Kept.refl s
  unfold execSpiaFrame
  repeat' first
    | with_reducible assumption
    | with_reducible apply kept_begin_
    | with_reducible apply kept_spiaFrame
    | with_reducible apply Nxt.next

theorem kept_execRead {inc : Bool} {count : Nat} {addr : Nat} {lost : Option Nat} (kall : ∀ p, K p) : Nxt (Kept K s) (execRead inc count addr lost s) := by
  have h : Kept K s s := Kept.refl s
  unfold execRead
  repeat' first
    | with_reducible assumption
    | with_reducible apply kept_begin_
    | with_reducible apply kept_spiaOne
    | with_reducible apply Nxt.next

theorem kept_execWrite {inc : Bool} {addr : Nat} {data : List Word} {env : Env} (kall : ∀ p, K p) : Nxt (Kept K s) (execWrite inc addr data env s) := by
  have h : Kept K s s := Kept.refl s
  unfold execWrite
  repeat' first
    | with_reducible assumption
    | with_reducible apply kept_begin_
    | with_reducible apply kept_spiaOne
    | with_reducible apply Nxt.next

theorem kept_execWritem {addr : Nat} {mask : Word} {data : Word} {env : Env} (kall : ∀ p, K p) : Nxt (Kept K s) (execWritem addr mask data env s) := by
  have h : Kept K s s := Kept.refl s
  unfold execWritem
  repeat' first
    | with_reducible assumption
    | with_reducible apply kept_begin_
    | with_reducible apply kept_spiaOne
    | with_reducible apply Nxt.next

theorem kept_execPiece {p : Piece} (kall : ∀ p, K p) : Nxt (Kept K s) (execPiece p s) := by
  have h : Kept K s s := Kept.refl s
  unfold execPiece
  repeat' first
    | with_reducible assumption
    | with_reducible apply kept_begin_
    | with_reducible apply kept_spiaOne
    | with_reducible apply Nxt.next

theorem kept_execNop (kall : ∀ p, K p) : Nxt (Kept K s) (execNop s) := by
  have h : Kept K s s := Kept.refl s
  unfold execNop
  repeat' first
    | with_reducible assumption
    | with_reducible apply kept_begin_
    | with_reducible apply kept_spiaOne
    | with_reducible apply Nxt.next

theorem kept_execStatus (kall : ∀ p, K p) : Nxt (Kept K s) (execStatus s) := by
  have h : Kept K s s := Kept.refl s
  unfold execStatus
  repeat' first
    | with_reducible assumption
    | with_reducible apply kept_begin_
    | with_reducible apply kept_spiaOne
    | with_reducible apply Nxt.next

theorem kept_execSpiaPoll {op : MOp} {env : Env} (kall : ∀ p, K p) : Nxt (Kept K s) (execSpiaPoll op env s) := by
  have h : Kept K s s := Kept.refl s
  unfold execSpiaPoll
  repeat' first
    | with_reducible assumption
    | with_reducible apply kept_begin_
    | with_reducible apply kept_spiaPoll
    | with_reducible apply Nxt.next

end Sys2Proof.Machine
end

