-- ==== Sys2Proof/Laws/PageCtrl.lean ====
section
/-! SUPPORT. Laws of PG_CTRL (R41, R42, R44): what a write of it stores, what it shows in PG_STAT, and what the four control commands
write. -/

namespace Sys2Proof.Machine

namespace State

theorem fg_setReg (s : State) (f : FRef) (v : Nat) : (s.setReg f.page f.off v).fg f = bitsOf (v % 2 ^ 32) f.hi f.lo := by
  unfold fg rfget rfgetB setReg
  simp only [Nat.add_zero, Nat.zero_mul, rget_rput]

theorem fg_lt (s : State) (f : FRef) : s.fg f < 2 ^ (f.hi + 1 - f.lo) := bitsOf_lt _ _ _

/-- The word that a control command writes: its low bits, and the other bits as they stand. -/
theorem ctrlBits_eq (s : State) (p : Nat) {d : Nat} (hd : d < 8) : s.ctrlBits p d = 8 * (s.reg p 0x008 / 8) + d := by
  have h1 : Nat.land (s.reg p 0x008) 7 = s.reg p 0x008 % 8 := Nat.and_two_pow_sub_one_eq_mod _ 3
  have h2 : s.reg p 0x008 - s.reg p 0x008 % 8 = 2 ^ 3 * (s.reg p 0x008 / 8) := by omega
  have h3 : 2 ^ 3 * (s.reg p 0x008 / 8) + d = 2 ^ 3 * (s.reg p 0x008 / 8) ||| d := Nat.two_pow_add_eq_or_of_lt hd _
  unfold ctrlBits
  rw [h1, h2]
  exact h3.symm

theorem bit_eq (v i : Nat) : bit v i = decide (v / 2 ^ i % 2 = 1) := by
  unfold bit
  rw [bitsOf_def, show i + 1 - i = 1 by omega, pow_one]
  exact beq_eq_decide _ _

/-- The word that PG_CTRL takes keeps ENABLE, and takes HOLD on a page that has it. -/
theorem ctrlFix_enable (p old x y : Nat) :
    bitsOf (ctrlFix p old (putBits (putBits (old % 2) 2 2 x) 31 16 y)) 0 0 = old % 2 := by
  have hb : ∀ v : Nat, bitsOf (v % 2) 0 0 = v % 2 := fun v => by rw [bitsOf_def]; omega
  have h0 : bitsOf (putBits (putBits (old % 2) 2 2 x) 31 16 y) 0 0 = old % 2 := by
    rw [bitsOf_putBits_below (by omega) (by omega), bitsOf_putBits_below (by omega) (by omega), hb]
  have h1 : bitsOf (if pageHasUnit p then putBits (putBits (old % 2) 2 2 x) 31 16 y else
      putBits (putBits (putBits (old % 2) 2 2 x) 31 16 y) 0 0 (old % 2)) 0 0 = old % 2 := by
    split
    · exact h0
    · rw [bitsOf_putBits]; omega
  unfold ctrlFix
  dsimp only
  rw [bitsOf_putBits_below (by omega) (by omega)]
  split
  · exact h1
  · rw [bitsOf_putBits_below (by omega) (by omega)]
    exact h1

theorem ctrlFix_hold {p : Nat} (hc : pgCapOf p % 2 = 1) (old x y : Nat) :
    bitsOf (ctrlFix p old (putBits (putBits (old % 2) 2 2 x) 31 16 y)) 2 2 = x % 2 := by
  unfold ctrlFix
  dsimp only
  rw [bitsOf_putBits_above (by omega) (by omega), if_pos hc]
  have h0 : bitsOf (putBits (putBits (old % 2) 2 2 x) 31 16 y) 2 2 = x % 2 := by
    rw [bitsOf_putBits_below (by omega) (by omega), bitsOf_putBits]; omega
  split
  · exact h0
  · rw [bitsOf_putBits_above (by omega) (by omega)]
    exact h0

theorem ctrlFix_lt (p old x y : Nat) : ctrlFix p old (putBits (putBits (old % 2) 2 2 x) 31 16 y) < 2 ^ 32 := by
  have h : putBits (putBits (old % 2) 2 2 x) 31 16 y < 2 ^ 32 := putBits_lt (putBits_lt (by omega) (by omega) (by omega)) (by omega) (by omega)
  unfold ctrlFix
  dsimp only
  refine putBits_lt ?_ (by omega) (by omega)
  split
  · split
    · exact h
    · exact putBits_lt h (by omega) (by omega)
  · refine putBits_lt ?_ (by omega) (by omega)
    split
    · exact h
    · exact putBits_lt h (by omega) (by omega)

/-- PG_CTRL after a write, before the command in it acts. -/
def ctrlStored (s : State) (p data : Nat) : State :=
  (s.setReg p 0x008 (ctrlFix p (s.reg p 0x008) (putBits (putBits (s.reg p 0x008 % 2) 2 2 (bitsOf data 2 2)) 31 16 (bitsOf data 31 16)))).showHeld p

theorem pgCtrlWrite_eq (s : State) (w : Who) (p data : Nat) : s.pgCtrlWrite w p data =
    if bit data 1 then (s.ctrlStored p data).resetAsk p else if bit data 0 then (s.ctrlStored p data).enableAsk w p
    else (s.ctrlStored p data).disableAsk p := rfl

theorem showHeld_fab (s : State) (p : Nat) : (s.showHeld p).fab = s.fab := by
  unfold showHeld
  split <;> rfl

theorem regsBut.showHeld {l : List (Nat × Nat)} {s t : State} (h : regsBut l s t) (p : Nat) (hp : p < 256) (hm : (p, 0x00C) ∈ l) :
    regsBut l s (t.showHeld p) := by
  unfold State.showHeld
  split
  · exact h.fs (hHELD p) _ hp (show 0x00C < 4096 by decide) hm
  · exact h

@[simp] theorem ctrlStored_fab (s : State) (p data : Nat) : (s.ctrlStored p data).fab = s.fab := showHeld_fab _ _

@[simp] theorem ctrlStored_outs (s : State) (p data : Nat) : (s.ctrlStored p data).outs = s.outs := by
  unfold ctrlStored showHeld
  split <;> rfl

theorem regsBut.ctrlStored {l : List (Nat × Nat)} {s t : State} (h : regsBut l s t) (p data : Nat) (hp : p < 256) (h1 : (p, 0x008) ∈ l)
    (h2 : (p, 0x00C) ∈ l) : regsBut l s (t.ctrlStored p data) :=
  (h.setReg p 0x008 _ hp (by decide) h1).showHeld p hp h2

theorem regKey_ne {b p o o' : Nat} (h : o ≠ o') : regKey b p o ≠ regKey b p o' := by
  unfold regKey
  omega

theorem showHeld_ctrl (s : State) (p : Nat) (f : FRef) (hp : f.page = p) (ho : f.off = 0x008) : (s.showHeld p).fg f = s.fg f := by
  unfold showHeld
  split
  · refine rfgetB_rfputB_ne _ _ ?_
    simp only [hp, ho, hHELD, Nat.add_zero, Nat.zero_mul]
    exact regKey_ne (by decide)
  · rfl

theorem ctrlStored_enable (s : State) (p data : Nat) : (s.ctrlStored p data).fg (hENABLE p) = s.fg (hENABLE p) := by
  unfold ctrlStored
  refine (showHeld_ctrl _ p (hENABLE p) rfl rfl).trans ?_
  show (s.setReg (hENABLE p).page (hENABLE p).off _).fg (hENABLE p) = _
  rw [fg_setReg, Nat.mod_eq_of_lt (ctrlFix_lt _ _ _ _)]
  show bitsOf _ 0 0 = _
  rw [ctrlFix_enable]
  show _ = bitsOf (rget s.regs 0 (p + 0) (0x008 + 0 * 4)) 0 0
  simp only [Nat.add_zero, Nat.zero_mul, bitsOf_def]
  unfold reg
  omega

/-- A write of PG_CTRL by itself enables nothing and disables nothing. -/
theorem ctrlStored_enabledR (s : State) (p data : Nat) : enabledR (s.ctrlStored p data).regs p = enabledR s.regs p := by
  have h := ctrlStored_enable s p data
  unfold fg at h
  unfold enabledR
  rw [h]

theorem enable_done (u : State) {p : Nat} (hp : p < 256) :
    ((u.bumpGen p).emit (.res ⟨0, 0⟩ [])).fg (hENABLE p) = u.fg (hENABLE p) :=
  done_fgk u p (hENABLE p) 0 0 hp (show 8 < 4096 by decide) hp (by simp [hENABLE])

theorem hold_done (u : State) {p : Nat} (hp : p < 256) : ((u.bumpGen p).emit (.res ⟨0, 0⟩ [])).fg (hHOLD p) = u.fg (hHOLD p) :=
  done_fgk u p (hHOLD p) 0 0 hp (show 8 < 4096 by decide) hp (by simp [hHOLD])

theorem fs_enable (s : State) (p v : Nat) : (s.fs (hENABLE p) v).fg (hENABLE p) = v % 2 :=
  fg_fs s ⟨show 0 ≤ 0 by decide, show 0 < 32 by decide⟩ v

theorem fs_enable_hold (s : State) (p v : Nat) : (s.fs (hENABLE p) v).fg (hHOLD p) = s.fg (hHOLD p) :=
  rfgetB_rfputB_field _ _ ⟨show 0 ≤ 0 by decide, show 0 < 32 by decide⟩ ⟨show 2 ≤ 2 by decide, show 2 < 32 by decide⟩ rfl rfl
    (.inl (show 0 < 2 by decide))

theorem fs_enable_active (s : State) (p v : Nat) : (s.fs (hENABLE p) v).active p = s.active p := by
  unfold active
  rw [show (s.fs (hENABLE p) v).fg (hACTIVE p) = s.fg (hACTIVE p) from
    rfgetB_rfputB_ne _ _ (by simp only [hACTIVE, hENABLE, Nat.add_zero, Nat.zero_mul]; exact regKey_ne (by decide))]

theorem ctrlStored_hold (s : State) {p : Nat} (hc : pgCapOf p % 2 = 1) (data : Nat) :
    (s.ctrlStored p data).fg (hHOLD p) = bitsOf data 2 2 := by
  unfold ctrlStored
  refine (showHeld_ctrl _ p (hHOLD p) rfl rfl).trans ?_
  show (s.setReg (hHOLD p).page (hHOLD p).off _).fg (hHOLD p) = _
  rw [fg_setReg, Nat.mod_eq_of_lt (ctrlFix_lt _ _ _ _)]
  show bitsOf _ 2 2 = _
  rw [ctrlFix_hold hc]
  exact Nat.mod_eq_of_lt (bitsOf_lt _ _ _)

theorem ctrlStored_active (s : State) (p data : Nat) : (s.ctrlStored p data).active p = s.active p := by
  have h : (s.ctrlStored p data).fg (hACTIVE p) = s.fg (hACTIVE p) := by
    unfold ctrlStored
    have h1 : ∀ t : State, (t.showHeld p).fg (hACTIVE p) = t.fg (hACTIVE p) := fun t => by
      unfold showHeld
      split
      · exact rfgetB_rfputB_field _ _ ⟨show 5 ≤ 5 by decide, show 5 < 32 by decide⟩ ⟨show 0 ≤ 0 by decide, show 0 < 32 by decide⟩ rfl rfl (.inr (show 0 < 5 by decide))
      · rfl
    rw [h1]
    unfold fg rfget rfgetB setReg
    rw [rget_rput_ne]
    simp only [hACTIVE, Nat.add_zero, Nat.zero_mul]
    exact regKey_ne (by decide)
  unfold active
  rw [h]

/-- A field of one register of a page's header is apart from another register's. -/
theorem fs_header {p : Nat} (s : State) (f g : FRef) (v : Nat) (hf : f.page = p) (hg : g.page = p) (ho : f.off ≠ g.off) :
    (s.fs f v).fg g = s.fg g :=
  rfgetB_rfputB_ne _ _ (by simp only [hf, hg, Nat.add_zero, Nat.zero_mul]; exact (regKey_ne ho).symm)

/-- A report of an admission check is registers of ADMIT. -/
theorem pagesBut.noteAdm {l : List Nat} {s t : State} (h : pagesBut l s t) (v : Verdict) (k p n : Nat) (hm : pgADMIT ∈ l) :
    pagesBut l s (t.noteAdm v k p n) := by
  unfold State.noteAdm
  split
  · unfold State.admReport
    repeat' first
      | with_reducible assumption
      | ((with_reducible show (_ : Nat) < _); decide)
      | ((with_reducible show _ ∈ l); exact hm)
      | with_reducible apply pagesBut.inc
      | with_reducible apply pagesBut.fs
      | with_reducible apply pagesBut.ite
      | (intro x; refine pagesBut.cut (s := s) (l := l) x ?_ (fun hx => ?_) <;> [dsimp only [x]; clear_value x])
      | (intro x; subst x)
      | lift_lets
  · exact h

@[simp] theorem noteAdm_fab (s : State) (v : Verdict) (k p n : Nat) : (s.noteAdm v k p n).fab = s.fab :=
  ((kept_noteAdm (K := (· = Part.regs)) (Kept.refl s) rfl).same .fab).resolve_right (by decide)

theorem showHeld_active (s : State) (p q : Nat) : (s.showHeld p).active q = s.active q := by
  have h : (s.showHeld p).fg (hACTIVE q) = s.fg (hACTIVE q) := by
    unfold showHeld
    split
    · by_cases e : q = p
      · subst e
        exact rfgetB_rfputB_field _ _ ⟨show 5 ≤ 5 by decide, show 5 < 32 by decide⟩ ⟨show 0 ≤ 0 by decide, show 0 < 32 by decide⟩ rfl rfl
          (.inr (show 0 < 5 by decide))
      · exact rfgetB_rfputB_ne _ _ (by simp only [hACTIVE, hHELD, regKey]; omega)
    · rfl
  unfold active
  rw [h]

theorem fs_active (s : State) (p v : Nat) : (s.fs (hACTIVE p) v).active p = (v % 2 == 1) := by
  unfold active
  rw [fg_fs _ ⟨show 0 ≤ 0 by decide, show 0 < 32 by decide⟩]
  rfl

theorem pagesBut.showHeld {l : List Nat} {s t : State} (h : pagesBut l s t) (p : Nat) (hp : p < 256) (hm : p ∈ l) :
    pagesBut l s (t.showHeld p) := by
  unfold State.showHeld
  exact pagesBut.ite (h.fs (hHELD p) _ hp (show 12 < 4096 by decide) hm) h

/-- An event leaves the header of every page alone. -/
theorem ev_header (s : State) {p : Nat} (hp : p < 256) (q c d k u : Nat) (f : FRef) (hf : f.page = p) (ho : f.off < 0x040) :
    (s.ev q c d k u).fg f = s.fg f := by
  refine (regsBut.ev (regsBut.refl [(pgFAULT, FLT_LAST_CODE.off)] s) q c d k u (by simp)).fg f (hf ▸ hp) (by omega) ?_
  simp only [List.mem_singleton, Prod.mk.injEq, not_and]
  intro _ h
  rw [h] at ho
  exact absurd ho (by decide)

/-! ### Page reset -/

theorem resetFold {boot : Regs} {l : List (Nat × Word)} {r : Regs} {k : Nat} (v : Word)
    (hv : ∀ r : Regs, cget (resetKey boot r k) k (regDflt k) = v) (h : cget r k (regDflt k) = v ∨ ∃ x ∈ l, x.1 = k) :
    cget (l.foldl (fun r x => resetKey boot r x.1) r) k (regDflt k) = v := by
  induction l generalizing r with
  | nil => simpa using h
  | cons x l ih =>
    rw [List.foldl_cons]
    by_cases e : x.1 = k
    · exact ih (.inl (by rw [e]; exact hv r))
    · refine ih ?_
      rcases h with h | ⟨y, hy, ey⟩
      · left
        unfold resetKey
        rw [cget_cput_ne _ _ _ _ (Ne.symm e)]
        exact h
      · rcases List.mem_cons.mp hy with rfl | hy
        · exact absurd ey e
        · exact .inr ⟨y, hy, ey⟩

theorem cget_unlisted {r : Regs} {k : Nat} (d : Word) (h : ∀ x ∈ r, x.1 ≠ k) : cget r k d = d := by
  induction r with
  | nil => rfl
  | cons x r ih =>
    obtain ⟨a, v⟩ := x
    unfold cget
    rw [if_neg (by simpa using h (a, v) List.mem_cons_self)]
    exact ih fun y hy => h y (List.mem_cons_of_mem _ hy)

/-- After the reset of a page with a unit every register but PG_FMASK, PG_EVENT and PG_OWNER reads as the boot leaves it (R42). -/
theorem rget_resetPageRegs {boot r : Regs} {b p o : Nat} (hp : p < 256) (ho : o < 4096) (hu : pageHasUnit p = true) (h1 : o ≠ 0x018)
    (h2 : o ≠ 0x01C) (h3 : o ≠ 0x020) : rget (resetPageRegs boot r p) b p o = rget boot b p o := by
  unfold rget
  congr 1
  have kp : regKey b p o / 2 ^ 12 % 2 ^ 8 = p := by unfold regKey; omega
  have ko : regKey b p o % 2 ^ 12 = o := by unfold regKey; omega
  generalize hk : regKey b p o = k at *
  refine resetFold _ (fun r => ?_) ?_
  · unfold resetKey
    rw [cget_cput, kp, ko]
    unfold resetVal
    rw [if_neg (by simp [h1, h2, h3]), if_pos hu, BitVec.ofNat_toNat]
    exact BitVec.setWidth_eq _
  · by_cases hm : ∃ x ∈ r ++ boot, x.1 = k
    · obtain ⟨x, hx, e⟩ := hm
      exact .inr ⟨x, List.mem_filter.mpr ⟨hx, by simp only [e, kp, beq_self_eq_true]⟩, e⟩
    · left
      push Not at hm
      rw [cget_unlisted _ fun x hx => hm x (List.mem_append_left _ hx), cget_unlisted _ fun x hx => hm x (List.mem_append_right _ hx)]

end State

end Sys2Proof.Machine
end

