-- ==== Sys2Proof/Laws/Handlers.lean ====
section
/-! SUPPORT. What the handlers of the command registers do with the word each command writes: one equation per command. -/

namespace Sys2Proof.Machine

theorem hPgCtrl_eq (s : State) (w : Who) (p o : Nat) (g : Reg) (d : Nat) : hPgCtrl s w p o g d = .ok (s.pgCtrlWrite w p d) := rfl

theorem hFkData_eq (s : State) (w : Who) (p o : Nat) (g : Reg) (d : Nat) : hFkData s w p o g d = .ok (s.fkStage w d) := rfl

/-- The operation and the handle of a word of FK_CMD. -/
theorem fkCmd_bits (h : Nat) {op : Nat} (hop : op < 16) :
    bitsOf (h % 128 * 256 + op) 3 0 = op ∧ bitsOf (h % 128 * 256 + op) 14 8 = h % 128 := by
  simp only [bitsOf_def]
  omega

theorem hFkCmd_open (s : State) (w : Who) (p o : Nat) (g : Reg) (h : Nat) : hFkCmd s w p o g (h % 128 * 256 + 1) = .ok (s.fkOpen w) := by
  unfold hFkCmd
  rw [(fkCmd_bits h (show 1 < 16 by decide)).1]
  rfl

theorem hFkCmd_commit (s : State) (w : Who) (p o : Nat) (g : Reg) (h : Nat) :
    hFkCmd s w p o g (h % 128 * 256 + 2) = .ok (s.fkCommit w (h % 128)) := by
  unfold hFkCmd
  rw [(fkCmd_bits h (show 2 < 16 by decide)).1, (fkCmd_bits h (show 2 < 16 by decide)).2]
  rfl

theorem hFkCmd_abort (s : State) (w : Who) (p o : Nat) (g : Reg) (h : Nat) :
    hFkCmd s w p o g (h % 128 * 256 + 3) = .ok (s.fkAbort w (h % 128)) := by
  unfold hFkCmd
  rw [(fkCmd_bits h (show 3 < 16 by decide)).1, (fkCmd_bits h (show 3 < 16 by decide)).2]
  rfl

theorem hFkCmd_renew (s : State) (w : Who) (p o : Nat) (g : Reg) (h : Nat) :
    hFkCmd s w p o g (h % 128 * 256 + 4) = .ok (s.fkRenew w (h % 128)) := by
  unfold hFkCmd
  rw [(fkCmd_bits h (show 4 < 16 by decide)).1, (fkCmd_bits h (show 4 < 16 by decide)).2]
  rfl

theorem hFkCmd_cancel (s : State) (w : Who) (p o : Nat) (g : Reg) (h : Nat) :
    hFkCmd s w p o g (h % 128 * 256 + 5) = .ok (s.fkCancel w (h % 128)) := by
  unfold hFkCmd
  rw [(fkCmd_bits h (show 5 < 16 by decide)).1, (fkCmd_bits h (show 5 < 16 by decide)).2]
  rfl

end Sys2Proof.Machine
end

