-- ==== Sys2Proof/Laws/Firkins.lean ====
section
/-! SUPPORT. Laws of firkins (R47 to R53): what a result shows, and what setting and freeing a handle change. -/

namespace Sys2Proof.Machine.State

variable (s : State) (w : Who) (c : Rc)

theorem fkRes_pages {l : List Nat} {s t : State} (h : pagesBut l s t) (w : Who) {c : Rc} (hc : c.code / 2 ^ 12 ≠ 5) (hm : pgFIRKIN ∈ l) :
    pagesBut l s (t.fkRes w c) := by
  unfold fkRes
  have h1 := (h.fsb w.bank FK_RESULT_CODE c.code (by decide) (by decide) hm).fsb w.bank FK_RESULT_DETAIL c.detail (by decide) (by decide) hm
  cases w with
  | ten n => exact pagesBut.ite_neg hc h1
  | sys n => exact h1

theorem fkRes_eq {c : Rc} (hc : c.code / 2 ^ 12 ≠ 5) :
    s.fkRes w c = (s.fsb w.bank FK_RESULT_CODE c.code).fsb w.bank FK_RESULT_DETAIL c.detail := by
  unfold fkRes
  cases w with
  | ten n => exact if_neg hc
  | sys n => rfl

@[simp] theorem fkRes_fab : (s.fkRes w c).fab = s.fab := by
  unfold fkRes
  cases w with
  | ten n =>
    dsimp only
    split
    · unfold countPermf
      simp
    · rfl
  | sys n => rfl

theorem fkRes_code : (s.fkRes w c).fgb w.bank FK_RESULT_CODE = c.code % 2 ^ 16 := by
  have h : ((s.fsb w.bank FK_RESULT_CODE c.code).fsb w.bank FK_RESULT_DETAIL c.detail).fgb w.bank FK_RESULT_CODE = c.code % 2 ^ 16 := by
    rw [fgb_fsb_apart _ _ _ (by decide), fgb_fsb _ _ ⟨by decide, by decide⟩]
    rfl
  unfold fkRes
  cases w with
  | ten n =>
    dsimp only
    split
    · refine Eq.trans ?_ h
      exact rfgetB_rfputB_ne _ _ (by simp only [regKey, Who.bank, FK_RESULT_CODE, TEN_ERR_PERMF]; omega)
    · exact h
  | sys n => exact h

theorem fkRes_detail : (s.fkRes w c).fgb w.bank FK_RESULT_DETAIL = c.detail % 2 ^ 16 := by
  have h : ((s.fsb w.bank FK_RESULT_CODE c.code).fsb w.bank FK_RESULT_DETAIL c.detail).fgb w.bank FK_RESULT_DETAIL = c.detail % 2 ^ 16 := by
    rw [fgb_fsb _ _ ⟨by decide, by decide⟩]
    rfl
  unfold fkRes
  cases w with
  | ten n =>
    dsimp only
    split
    · refine Eq.trans ?_ h
      exact rfgetB_rfputB_ne _ _ (by simp only [regKey, Who.bank, FK_RESULT_DETAIL, TEN_ERR_PERMF]; omega)
    · exact h
  | sys n => exact h

@[simp] theorem fkRes_outs : (s.fkRes w c).outs = s.outs := by
  unfold fkRes
  cases w with
  | ten n =>
    dsimp only
    split
    · unfold countPermf
      simp
    · rfl
  | sys n => rfl

@[simp] theorem fkSet_fab (h : Nat) (f : Firkin → Firkin) :
    (s.fkSet h f).fab = { s.fab with fks := s.fab.fks.map fun x => if x.h = h then f x else x } := rfl
@[simp] theorem fkSet_outs (h : Nat) (f : Firkin → Firkin) : (s.fkSet h f).outs = s.outs := rfl
@[simp] theorem fkSet_regs (h : Nat) (f : Firkin → Firkin) : (s.fkSet h f).regs = s.regs := rfl
@[simp] theorem fkFree_fab (h : Nat) : (s.fkFree h).fab = { s.fab with fks := s.fab.fks.filter fun x => x.h != h } := rfl
@[simp] theorem fkFree_outs (h : Nat) : (s.fkFree h).outs = s.outs := rfl
@[simp] theorem fkFree_regs (h : Nat) : (s.fkFree h).regs = s.regs := rfl

/-- A freed handle is FREE. -/
theorem fkFree_none (h : Nat) : (s.fkFree h).fk? h = none := by
  unfold fk?
  rw [fkFree_fab, List.find?_eq_none]
  intro x hx
  have := (List.mem_filter.mp hx).2
  simpa using this

/-- A handle that is found has the number it is found by. -/
theorem fk?_h {s : State} {h : Nat} {f : Firkin} (e : s.fk? h = some f) : f.h = h := by
  have := List.find?_some e
  simpa using this

end Sys2Proof.Machine.State
end

