-- ==== Sys2Proof/WellFormed.lean ====
section
/-! DEFINITION. Which commands can occur: every operand lies in the range that the spec's tables give its field. The meanings of
Machine/ are total and do not need these checks; statements and tests that want a command of the wire cite them. -/

namespace Sys2Proof

/-- `n` fits in `w` bits. -/
def fits (w n : Nat) : Bool := decide (n < 2 ^ w)

/-- The ingress holds no more than its space (R93): 7 KB of a slot's reserve and 64 KB of a pool of 256 KB. -/
def Ingress.wf (i : Ingress) : Bool := decide (i.pool ≤ 262144) && decide (i.own ≤ 7168 + min 65536 i.pool)

/-- The header fields lie within their widths (Table 4.4) and the VLAN length within a 16-bit count. -/
def Frame.wf (f : Frame) : Bool :=
  fits 16 f.etype && fits 16 f.len && fits 4 f.ver && fits 1 f.dir && fits 8 f.typ && fits 8 f.nrec && fits 12 f.first &&
  fits 12 f.last && fits 32 f.dcn && f.ing.wf && fits 64 f.fctr && fits 16 f.seq && fits 16 f.blen && fits 8 f.hop

/-- A segment record (Table 4.7): TILE of 12 bits, SLEN of 16, OFFSET of 32, and as many bytes as SLEN says. -/
def FeedRec.wf (r : FeedRec) : Bool :=
  fits 12 r.tile && fits 16 r.slen && fits 32 r.offset && decide (r.data.length = r.slen)

/-- A piece record (R337): 32-bit UPID and INDEX, LEN as many bytes as it carries. -/
def Piece.wf (p : Piece) : Bool :=
  fits 32 p.upid && fits 32 p.index && decide (p.data.length = p.len)

/-- An operation as laid out (Table 4.10): COUNT of 16 bits, ADDR of 32, and a WRITE carries COUNT words. -/
def MOp.wf : MOp → Bool
  | .read _ c a => fits 16 c && fits 32 a
  | .write _ c a d => fits 16 c && fits 32 a && decide (d.length = c)
  | .writem c a _ _ => fits 16 c && fits 32 a
  | .piece c a p => fits 16 c && fits 32 a && p.wf
  | .nop c a => fits 16 c && fits 32 a
  | .status => true
  | .other op => fits 8 op

/-- A beat body (Table 5.2): seconds of 48 bits, nanoseconds below one second. -/
def Beat.wf (b : Beat) : Bool :=
  fits 48 b.tSec && fits 48 b.tsSec && decide (b.tNs < 1000000000) && decide (b.tsNs < 1000000000)

/-- A PTP message: 16-bit sequence number, 8-bit domain. -/
def PtpMsg.wf (m : PtpMsg) : Bool := fits 16 m.seq && fits 8 m.domain

/-- The management address space is 40 bits wide (R31). -/
def addrWf (a : Nat) : Bool := fits 40 a

/-- A page number is the byte at address bits 19 to 12 (Table 2.2). -/
def pageWf (p : Nat) : Bool := fits 8 p

/-- A handle field names one of 128 handles (R47). -/
def handleWf (h : Nat) : Bool := fits 7 h

/-- Rows of the display and DRAM words an environment names lie in the machine: ROW pins below 128. -/
def SpanEnv.wf (e : SpanEnv) : Bool := e.lowRows.all fun r => decide (r < 128)

/-- Operands in range. -/
def Instr.wf : Instr → Bool
  | .registerWrite _ addr _ _ => addrWf addr
  | .snapshotRead _ addr => addrWf addr
  | .readClear _ addr => addrWf addr
  | .enable _ p => pageWf p
  | .enableCheckDone p => pageWf p
  | .unitStart p => pageWf p
  | .disable _ p => pageWf p
  | .unitStop p => pageWf p
  | .pageReset _ p => pageWf p
  | .pageResetApply p => pageWf p
  | .hold _ p _ => pageWf p
  | .commit _ h => handleWf h
  | .commitChecksDone h => handleWf h
  | .abort _ h => handleWf h
  | .renew _ h => handleWf h
  | .cancel _ h => handleWf h
  | .firkinLeaseExpire h => handleWf h
  | .firkinApply h => handleWf h
  | .firkinInstantPassed h => handleWf h
  | .modeRequest _ r => fits 3 r
  | .feedFrame f rs => f.wf && rs.all FeedRec.wf
  | .mgmtFrame f _ ops _ _ => f.wf && ops.all MOp.wf
  | .upForward f => f.wf
  | .enum f _ => f.wf
  | .heartbeat f _ => f.wf
  | .foreignFrame f => f.wf
  | .establish f _ _ _ => f.wf
  | .object f _ => f.wf
  | .attest f _ => f.wf
  | .cert f => f.wf
  | .beat f b => f.wf && b.wf
  | .sync m => m.wf
  | .followUp m => m.wf
  | .pdelayReq m => m.wf
  | .pdelayResp m _ _ => m.wf
  | .announce m => m.wf
  | .delayReq m => m.wf
  | .spanBoundary e => e.wf
  | .cycleStart e err => e.wf && err.all fun x => decide (x.1 < 16) && decide (x.2.1 < 256) && decide (x.2.2 < 2 ^ 32)
  | .spiaFrame dev op _ _ _ => op.wf && dev.all (fits 8)
  | .read _ c a _ => fits 16 c && fits 32 a
  | .write _ a _ _ => fits 32 a
  | .writem a _ _ _ => fits 32 a
  | .piece p => p.wf
  | .spiaPoll op _ => op.wf
  | .dramRequest _ a _ => addrWf a
  | .open_ _ => true
  | .stageWrite _ _ => true
  | .eqPop _ => true
  | .eventFrameSend _ => true
  | .coldReset _ => true
  | .managementPairReset _ => true
  | .pixaReset _ => true
  | .pixbReset _ => true
  | .kick _ => true
  | .watchdogExpire => true
  | .registerAccessRestored => true
  | .modeChange => true
  | .sleepEntry => true
  | .wake _ => true
  | .retentionImage _ => true
  | .sessionLeaseExpire _ => true
  | .tenCmdReset _ _ => true
  | .tenCmdQuarantine _ _ => true
  | .tenCmdRelease _ _ => true
  | .tenRunWrite _ _ _ => true
  | .quarantineInterval => true
  | .tenantResetInstant _ => true
  | .heartbeatTimeout _ => true
  | .revert => true
  | .linkLock _ _ => true
  | .lossOfLock _ _ => true
  | .speedSeekTimeout _ => true
  | .nospeed _ => true
  | .pdelayInterval => true
  | .syncTimeout => true
  | .ptpHoldoverExpire => true
  | .holdoverExpire => true
  | .pllLoss => true
  | .pllLock => true
  | .pps => true
  | .dry _ => true
  | .patternFrameDone _ _ => true
  | .jobStart => true
  | .jobComplete _ _ => true
  | .returnToService _ _ _ => true
  | .sensorSample _ => true
  | .boardSensorRead _ => true
  | .sensorReturn _ _ _ => true
  | .fieldRefresh => true
  | .blendComplete _ _ _ => true
  | .blendResume => true
  | .override _ _ _ => true
  | .domainSwitch => true
  | .preset _ => true
  | .wireQuery _ _ => true
  | .clear _ => true
  | .clearall _ => true
  | .healthQuery _ _ => true
  | .listQuery _ _ => true
  | .rbClr _ _ => true
  | .conversion _ _ => true
  | .phaseZero _ _ => true
  | .loadAll _ => true
  | .trip _ _ => true
  | .feedbackSample _ _ => true
  | .railStart _ _ => true
  | .railRunning _ _ => true
  | .startTimeout _ => true
  | .railOff _ _ => true
  | .sfltn => true
  | .overVoltage _ _ => true
  | .underVoltage _ _ => true
  | .auxPeriod => true
  | .phTest _ _ _ => true
  | .selfTrim => true
  | .trimResult _ => true
  | .journalWrite => true
  | .journalCommit => true
  | .forget _ => true
  | .dramTraining _ _ => true
  | .trainingComplete _ => true
  | .zqCalibration => true
  | .dqsOscillator _ _ => true
  | .refresh _ _ => true
  | .mr4Poll _ _ => true
  | .dramCompletion _ _ => true
  | .scrubRead _ => true
  | .pageIdleExpire _ _ => true
  | .errorInjection _ _ => true
  | .nop => true
  | .status => true
  | .spibRead _ _ _ => true
  | .program _ _ => true
  | .erase4k _ _ => true
  | .erase64k _ _ => true
  | .readsr _ _ _ => true
  | .statusPoll _ => true
  | .flashTimeout => true
  | .fetch _ _ _ _ => true
  | .request _ _ => true
  | .release _ _ => true
  | .busclear _ _ => true
  | .grantExpire _ _ => true
  | .spicTransfer _ _ => true
  | .spicTransferDone _ => true
  | .twiTransfer _ _ _ => true
  | .twiTransferDone _ => true
  | .stretchTimeout _ _ => true
  | .submit _ _ _ => true
  | .voucher => true
  | .transfer => true
  | .enrol => true
  | .unenrol => true
  | .keywrap => true
  | .debug => true
  | .policy => true
  | .otpcfg => true
  | .report _ => true
  | .attCert _ => true
  | .attestationReady => true
  | .dbgchal _ => true
  | .raise _ => true
  | .challengeExpire => true
  | .boot _ _ => true
  | .begin _ => true
  | .updAbort _ => true
  | .arm _ => true
  | .armComplete _ => true
  | .disarm _ => true
  | .activatePause _ _ => true
  | .activateHandover _ _ => true
  | .applycfg _ _ _ => true
  | .updCancel _ => true
  | .activation => true
  | .activationComplete _ => true
  | .handoverStage => true
  | .companionStatusPoll _ => true
  | .pieceProgrammed => true
  | .pieceJournalTimer => true
  | .bundleApply => true
  | .bundleLoaded => true
  | .bundleReload _ => true
  | .porn _ => true
  | .domainPowerGood _ => true
  | .pgoodTimeout _ => true
  | .trimEnd _ => true
  | .brownoutWarning => true
  | .brownoutReset => true
  | .overTemperatureTrip _ => true
  | .shutdownDark => true
  | .lockstepMismatch => true
  | .halt _ _ => true
  | .resume _ _ => true
  | .bypass _ => true
  | .idcode => true
  | .samplePreload _ _ => true
  | .extest _ => true
  | .sensorProbe _ => true
  | .vdd33Return => true
  | .overTemperatureClear _ => true
  | .sfltnRelease => true
  | .highBitErrorRate _ => true

end Sys2Proof
end

