-- ==== Sys2Proof/Laws/PerInstr.lean ====
section
/-! SUPPORT. Statements about every command as syntax, one lemma per constructor (LAWS.json, family Framed): a well-formed command
that carries a Basius frame has that frame's header fields within the widths of Table 4.4. -/

namespace Sys2Proof.Laws.Framed

/-- The frame a command carries. -/
def frameOf : Instr → Option Frame
  | .feedFrame f _ => some f
  | .mgmtFrame f _ _ _ _ => some f
  | .upForward f => some f
  | .enum f _ => some f
  | .heartbeat f _ => some f
  | .foreignFrame f => some f
  | .beat f _ => some f
  | .establish f _ _ _ => some f
  | .object f _ => some f
  | .attest f _ => some f
  | .cert f => some f
  | .registerWrite _ _ _ _ => none
  | .snapshotRead _ _ => none
  | .readClear _ _ => none
  | .enable _ _ => none
  | .enableCheckDone _ => none
  | .unitStart _ => none
  | .disable _ _ => none
  | .unitStop _ => none
  | .pageReset _ _ => none
  | .pageResetApply _ => none
  | .hold _ _ _ => none
  | .open_ _ => none
  | .stageWrite _ _ => none
  | .commit _ _ => none
  | .commitChecksDone _ => none
  | .abort _ _ => none
  | .renew _ _ => none
  | .cancel _ _ => none
  | .firkinLeaseExpire _ => none
  | .firkinApply _ => none
  | .firkinInstantPassed _ => none
  | .eqPop _ => none
  | .eventFrameSend _ => none
  | .coldReset _ => none
  | .managementPairReset _ => none
  | .pixaReset _ => none
  | .pixbReset _ => none
  | .kick _ => none
  | .watchdogExpire => none
  | .registerAccessRestored => none
  | .modeRequest _ _ => none
  | .modeChange => none
  | .sleepEntry => none
  | .wake _ => none
  | .retentionImage _ => none
  | .sessionLeaseExpire _ => none
  | .tenCmdReset _ _ => none
  | .tenCmdQuarantine _ _ => none
  | .tenCmdRelease _ _ => none
  | .tenRunWrite _ _ _ => none
  | .quarantineInterval => none
  | .tenantResetInstant _ => none
  | .heartbeatTimeout _ => none
  | .revert => none
  | .linkLock _ _ => none
  | .lossOfLock _ _ => none
  | .speedSeekTimeout _ => none
  | .nospeed _ => none
  | .sync _ => none
  | .followUp _ => none
  | .pdelayInterval => none
  | .pdelayReq _ => none
  | .pdelayResp _ _ _ => none
  | .announce _ => none
  | .syncTimeout => none
  | .ptpHoldoverExpire => none
  | .cycleStart _ _ => none
  | .holdoverExpire => none
  | .pllLoss => none
  | .pllLock => none
  | .pps => none
  | .dry _ => none
  | .patternFrameDone _ _ => none
  | .jobStart => none
  | .jobComplete _ _ => none
  | .returnToService _ _ _ => none
  | .sensorSample _ => none
  | .boardSensorRead _ => none
  | .sensorReturn _ _ _ => none
  | .fieldRefresh => none
  | .blendComplete _ _ _ => none
  | .blendResume => none
  | .spanBoundary _ => none
  | .override _ _ _ => none
  | .domainSwitch => none
  | .preset _ => none
  | .wireQuery _ _ => none
  | .clear _ => none
  | .clearall _ => none
  | .healthQuery _ _ => none
  | .listQuery _ _ => none
  | .rbClr _ _ => none
  | .conversion _ _ => none
  | .phaseZero _ _ => none
  | .loadAll _ => none
  | .trip _ _ => none
  | .feedbackSample _ _ => none
  | .railStart _ _ => none
  | .railRunning _ _ => none
  | .startTimeout _ => none
  | .railOff _ _ => none
  | .sfltn => none
  | .overVoltage _ _ => none
  | .underVoltage _ _ => none
  | .auxPeriod => none
  | .phTest _ _ _ => none
  | .selfTrim => none
  | .trimResult _ => none
  | .journalWrite => none
  | .journalCommit => none
  | .forget _ => none
  | .dramTraining _ _ => none
  | .trainingComplete _ => none
  | .zqCalibration => none
  | .dqsOscillator _ _ => none
  | .refresh _ _ => none
  | .mr4Poll _ _ => none
  | .dramRequest _ _ _ => none
  | .dramCompletion _ _ => none
  | .scrubRead _ => none
  | .pageIdleExpire _ _ => none
  | .errorInjection _ _ => none
  | .spiaFrame _ _ _ _ _ => none
  | .read _ _ _ _ => none
  | .write _ _ _ _ => none
  | .writem _ _ _ _ => none
  | .piece _ => none
  | .nop => none
  | .status => none
  | .spiaPoll _ _ => none
  | .spibRead _ _ _ => none
  | .program _ _ => none
  | .erase4k _ _ => none
  | .erase64k _ _ => none
  | .readsr _ _ _ => none
  | .statusPoll _ => none
  | .flashTimeout => none
  | .fetch _ _ _ _ => none
  | .request _ _ => none
  | .release _ _ => none
  | .busclear _ _ => none
  | .grantExpire _ _ => none
  | .spicTransfer _ _ => none
  | .spicTransferDone _ => none
  | .twiTransfer _ _ _ => none
  | .twiTransferDone _ => none
  | .stretchTimeout _ _ => none
  | .submit _ _ _ => none
  | .voucher => none
  | .transfer => none
  | .enrol => none
  | .unenrol => none
  | .keywrap => none
  | .debug => none
  | .policy => none
  | .otpcfg => none
  | .report _ => none
  | .attCert _ => none
  | .attestationReady => none
  | .dbgchal _ => none
  | .raise _ => none
  | .challengeExpire => none
  | .boot _ _ => none
  | .begin _ => none
  | .updAbort _ => none
  | .arm _ => none
  | .armComplete _ => none
  | .disarm _ => none
  | .activatePause _ _ => none
  | .activateHandover _ _ => none
  | .applycfg _ _ _ => none
  | .updCancel _ => none
  | .activation => none
  | .activationComplete _ => none
  | .handoverStage => none
  | .companionStatusPoll _ => none
  | .pieceProgrammed => none
  | .pieceJournalTimer => none
  | .bundleApply => none
  | .bundleLoaded => none
  | .bundleReload _ => none
  | .porn _ => none
  | .domainPowerGood _ => none
  | .pgoodTimeout _ => none
  | .trimEnd _ => none
  | .brownoutWarning => none
  | .brownoutReset => none
  | .overTemperatureTrip _ => none
  | .shutdownDark => none
  | .lockstepMismatch => none
  | .halt _ _ => none
  | .resume _ _ => none
  | .bypass _ => none
  | .idcode => none
  | .samplePreload _ _ => none
  | .extest _ => none
  | .sensorProbe _ => none
  | .vdd33Return => none
  | .overTemperatureClear _ => none
  | .sfltnRelease => none
  | .highBitErrorRate _ => none
  | .delayReq _ => none

/-- A well-formed command's frame, if it carries one, is well formed. -/
def Statement (i : Instr) : Prop := i.wf = true → ∀ f, frameOf i = some f → f.wf = true

theorem registerWrite (a : Sys2Proof.Access) (addr : Nat) (data : Word) (env : Env) : Statement (.registerWrite a addr data env) := fun _ _ hf => nomatch hf

theorem snapshotRead (a : Sys2Proof.Access) (addr : Nat) : Statement (.snapshotRead a addr) := fun _ _ hf => nomatch hf

theorem readClear (a : Sys2Proof.Access) (addr : Nat) : Statement (.readClear a addr) := fun _ _ hf => nomatch hf

theorem enable (a : Sys2Proof.Access) (page : Nat) : Statement (.enable a page) := fun _ _ hf => nomatch hf

theorem enableCheckDone (page : Nat) : Statement (.enableCheckDone page) := fun _ _ hf => nomatch hf

theorem unitStart (page : Nat) : Statement (.unitStart page) := fun _ _ hf => nomatch hf

theorem disable (a : Sys2Proof.Access) (page : Nat) : Statement (.disable a page) := fun _ _ hf => nomatch hf

theorem unitStop (page : Nat) : Statement (.unitStop page) := fun _ _ hf => nomatch hf

theorem pageReset (a : Sys2Proof.Access) (page : Nat) : Statement (.pageReset a page) := fun _ _ hf => nomatch hf

theorem pageResetApply (page : Nat) : Statement (.pageResetApply page) := fun _ _ hf => nomatch hf

theorem hold (a : Sys2Proof.Access) (page : Nat) (on : Bool) : Statement (.hold a page on) := fun _ _ hf => nomatch hf

theorem open_ (a : Sys2Proof.Access) : Statement (.open_ a) := fun _ _ hf => nomatch hf

theorem stageWrite (a : Sys2Proof.Access) (data : Word) : Statement (.stageWrite a data) := fun _ _ hf => nomatch hf

theorem commit (a : Sys2Proof.Access) (h : Nat) : Statement (.commit a h) := fun _ _ hf => nomatch hf

theorem commitChecksDone (h : Nat) : Statement (.commitChecksDone h) := fun _ _ hf => nomatch hf

theorem abort (a : Sys2Proof.Access) (h : Nat) : Statement (.abort a h) := fun _ _ hf => nomatch hf

theorem renew (a : Sys2Proof.Access) (h : Nat) : Statement (.renew a h) := fun _ _ hf => nomatch hf

theorem cancel (a : Sys2Proof.Access) (h : Nat) : Statement (.cancel a h) := fun _ _ hf => nomatch hf

theorem firkinLeaseExpire (h : Nat) : Statement (.firkinLeaseExpire h) := fun _ _ hf => nomatch hf

theorem firkinApply (h : Nat) : Statement (.firkinApply h) := fun _ _ hf => nomatch hf

theorem firkinInstantPassed (h : Nat) : Statement (.firkinInstantPassed h) := fun _ _ hf => nomatch hf

theorem eqPop (a : Sys2Proof.Access) : Statement (.eqPop a) := fun _ _ hf => nomatch hf

theorem eventFrameSend (t : Fin 16) : Statement (.eventFrameSend t) := fun _ _ hf => nomatch hf

theorem coldReset (a : Sys2Proof.Access) : Statement (.coldReset a) := fun _ _ hf => nomatch hf

theorem managementPairReset (a : Sys2Proof.Access) : Statement (.managementPairReset a) := fun _ _ hf => nomatch hf

theorem pixaReset (a : Sys2Proof.Access) : Statement (.pixaReset a) := fun _ _ hf => nomatch hf

theorem pixbReset (a : Sys2Proof.Access) : Statement (.pixbReset a) := fun _ _ hf => nomatch hf

theorem kick (a : Sys2Proof.Access) : Statement (.kick a) := fun _ _ hf => nomatch hf

theorem watchdogExpire : Statement (.watchdogExpire) := fun _ _ hf => nomatch hf

theorem registerAccessRestored : Statement (.registerAccessRestored) := fun _ _ hf => nomatch hf

theorem modeRequest (a : Sys2Proof.Access) (req : Nat) : Statement (.modeRequest a req) := fun _ _ hf => nomatch hf

theorem modeChange : Statement (.modeChange) := fun _ _ hf => nomatch hf

theorem sleepEntry : Statement (.sleepEntry) := fun _ _ hf => nomatch hf

theorem wake (src : Fin 4) : Statement (.wake src) := fun _ _ hf => nomatch hf

theorem retentionImage (crcOk : Bool) : Statement (.retentionImage crcOk) := fun _ _ hf => nomatch hf

theorem sessionLeaseExpire (t : Fin 16) : Statement (.sessionLeaseExpire t) := fun _ _ hf => nomatch hf

theorem tenCmdReset (a : Sys2Proof.Access) (t : Fin 16) : Statement (.tenCmdReset a t) := fun _ _ hf => nomatch hf

theorem tenCmdQuarantine (a : Sys2Proof.Access) (t : Fin 16) : Statement (.tenCmdQuarantine a t) := fun _ _ hf => nomatch hf

theorem tenCmdRelease (a : Sys2Proof.Access) (t : Fin 16) : Statement (.tenCmdRelease a t) := fun _ _ hf => nomatch hf

theorem tenRunWrite (a : Sys2Proof.Access) (t : Fin 16) (run : Bool) : Statement (.tenRunWrite a t run) := fun _ _ hf => nomatch hf

theorem quarantineInterval : Statement (.quarantineInterval) := fun _ _ hf => nomatch hf

theorem tenantResetInstant (rx : StopRx) : Statement (.tenantResetInstant rx) := fun _ _ hf => nomatch hf

theorem feedFrame (f : Frame) (recs : List FeedRec) : Statement (.feedFrame f recs) := by
  intro h g hg
  cases hg
  simp only [Instr.wf, Bool.and_eq_true] at h
  exact h.1

theorem mgmtFrame (f : Frame) (key : Nat) (ops : List MOp) (overrun : Bool) (env : Env) : Statement (.mgmtFrame f key ops overrun env) := by
  intro h g hg
  cases hg
  simp only [Instr.wf, Bool.and_eq_true] at h
  exact h.1

theorem upForward (f : Frame) : Statement (.upForward f) := by
  intro h g hg
  cases hg
  exact h

theorem enum (f : Frame) (key : Nat) : Statement (.enum f key) := by
  intro h g hg
  cases hg
  exact h

theorem heartbeat (f : Frame) (req : Bool) : Statement (.heartbeat f req) := by
  intro h g hg
  cases hg
  exact h

theorem heartbeatTimeout (p : Fin 4) : Statement (.heartbeatTimeout p) := fun _ _ hf => nomatch hf

theorem revert : Statement (.revert) := fun _ _ hf => nomatch hf

theorem linkLock (p : Fin 4) (gig25 : Bool) : Statement (.linkLock p gig25) := fun _ _ hf => nomatch hf

theorem lossOfLock (p : Fin 4) (midFrame : Bool) : Statement (.lossOfLock p midFrame) := fun _ _ hf => nomatch hf

theorem speedSeekTimeout (p : Fin 4) : Statement (.speedSeekTimeout p) := fun _ _ hf => nomatch hf

theorem nospeed (p : Fin 4) : Statement (.nospeed p) := fun _ _ hf => nomatch hf

theorem foreignFrame (f : Frame) : Statement (.foreignFrame f) := by
  intro h g hg
  cases hg
  exact h

theorem sync (m : PtpMsg) : Statement (.sync m) := fun _ _ hf => nomatch hf

theorem followUp (m : PtpMsg) : Statement (.followUp m) := fun _ _ hf => nomatch hf

theorem pdelayInterval : Statement (.pdelayInterval) := fun _ _ hf => nomatch hf

theorem pdelayReq (m : PtpMsg) : Statement (.pdelayReq m) := fun _ _ hf => nomatch hf

theorem pdelayResp (m : PtpMsg) (t2 : Nat) (t3 : Nat) : Statement (.pdelayResp m t2 t3) := fun _ _ hf => nomatch hf

theorem announce (m : PtpMsg) : Statement (.announce m) := fun _ _ hf => nomatch hf

theorem syncTimeout : Statement (.syncTimeout) := fun _ _ hf => nomatch hf

theorem ptpHoldoverExpire : Statement (.ptpHoldoverExpire) := fun _ _ hf => nomatch hf

theorem beat (f : Frame) (b : Beat) : Statement (.beat f b) := by
  intro h g hg
  cases hg
  simp only [Instr.wf, Bool.and_eq_true] at h
  exact h.1

theorem cycleStart (e : SpanEnv) (auditErr : List (Nat × Nat × Nat)) : Statement (.cycleStart e auditErr) := fun _ _ hf => nomatch hf

theorem holdoverExpire : Statement (.holdoverExpire) := fun _ _ hf => nomatch hf

theorem pllLoss : Statement (.pllLoss) := fun _ _ hf => nomatch hf

theorem pllLock : Statement (.pllLock) := fun _ _ hf => nomatch hf

theorem pps : Statement (.pps) := fun _ _ hf => nomatch hf

theorem dry (a : Sys2Proof.Access) : Statement (.dry a) := fun _ _ hf => nomatch hf

theorem patternFrameDone (e : Fin 16) (poison : List (Nat × Nat × Nat)) : Statement (.patternFrameDone e poison) := fun _ _ hf => nomatch hf

theorem jobStart : Statement (.jobStart) := fun _ _ hf => nomatch hf

theorem jobComplete (k : Nat) (r : JobResult) : Statement (.jobComplete k r) := fun _ _ hf => nomatch hf

theorem returnToService (a : Sys2Proof.Access) (half : Fin 2) (data : Word) : Statement (.returnToService a half data) := fun _ _ hf => nomatch hf

theorem sensorSample (die : List (Option Int)) : Statement (.sensorSample die) := fun _ _ hf => nomatch hf

theorem boardSensorRead (r : BoardRead) : Statement (.boardSensorRead r) := fun _ _ hf => nomatch hf

theorem sensorReturn (a : Sys2Proof.Access) (half : Fin 2) (data : Word) : Statement (.sensorReturn a half data) := fun _ _ hf => nomatch hf

theorem fieldRefresh : Statement (.fieldRefresh) := fun _ _ hf => nomatch hf

theorem blendComplete (engines : List Nat) (spots : List Spot) (poison : List Nat) : Statement (.blendComplete engines spots poison) := fun _ _ hf => nomatch hf

theorem blendResume : Statement (.blendResume) := fun _ _ hf => nomatch hf

theorem spanBoundary (e : SpanEnv) : Statement (.spanBoundary e) := fun _ _ hf => nomatch hf

theorem override (a : Sys2Proof.Access) (k : Fin 4) (data : Word) : Statement (.override a k data) := fun _ _ hf => nomatch hf

theorem domainSwitch : Statement (.domainSwitch) := fun _ _ hf => nomatch hf

theorem preset (rec_ : Option (List (Nat × Nat × Word))) : Statement (.preset rec_) := fun _ _ hf => nomatch hf

theorem wireQuery (a : Sys2Proof.Access) (lamp : Nat) : Statement (.wireQuery a lamp) := fun _ _ hf => nomatch hf

theorem clear (a : Sys2Proof.Access) : Statement (.clear a) := fun _ _ hf => nomatch hf

theorem clearall (a : Sys2Proof.Access) : Statement (.clearall a) := fun _ _ hf => nomatch hf

theorem healthQuery (a : Sys2Proof.Access) (lamp : Nat) : Statement (.healthQuery a lamp) := fun _ _ hf => nomatch hf

theorem listQuery (a : Sys2Proof.Access) (idx : Nat) : Statement (.listQuery a idx) := fun _ _ hf => nomatch hf

theorem rbClr (a : Sys2Proof.Access) (stones : Nat) : Statement (.rbClr a stones) := fun _ _ hf => nomatch hf

theorem conversion (code : Nat) (value : Int) : Statement (.conversion code value) := fun _ _ hf => nomatch hf

theorem phaseZero (n : Fin 8) (e : PhaseEnv) : Statement (.phaseZero n e) := fun _ _ hf => nomatch hf

theorem loadAll (a : Sys2Proof.Access) : Statement (.loadAll a) := fun _ _ hf => nomatch hf

theorem trip (n : Fin 8) (cs : CsRead) : Statement (.trip n cs) := fun _ _ hf => nomatch hf

theorem feedbackSample (rail : Fin 2) (mv : Nat) : Statement (.feedbackSample rail mv) := fun _ _ hf => nomatch hf

theorem railStart (rail : Fin 2) (mv : Nat) : Statement (.railStart rail mv) := fun _ _ hf => nomatch hf

theorem railRunning (rail : Fin 2) (mv : Nat) : Statement (.railRunning rail mv) := fun _ _ hf => nomatch hf

theorem startTimeout (rail : Fin 2) : Statement (.startTimeout rail) := fun _ _ hf => nomatch hf

theorem railOff (rail : Fin 2) (mv : Nat) : Statement (.railOff rail mv) := fun _ _ hf => nomatch hf

theorem sfltn : Statement (.sfltn) := fun _ _ hf => nomatch hf

theorem overVoltage (rail : Fin 2) (fb : Nat) : Statement (.overVoltage rail fb) := fun _ _ hf => nomatch hf

theorem underVoltage (rail : Fin 2) (fb : Nat) : Statement (.underVoltage rail fb) := fun _ _ hf => nomatch hf

theorem auxPeriod : Statement (.auxPeriod) := fun _ _ hf => nomatch hf

theorem phTest (a : Sys2Proof.Access) (n : Fin 8) (data : Word) : Statement (.phTest a n data) := fun _ _ hf => nomatch hf

theorem selfTrim : Statement (.selfTrim) := fun _ _ hf => nomatch hf

theorem trimResult (m : Option TrimMeas) : Statement (.trimResult m) := fun _ _ hf => nomatch hf

theorem journalWrite : Statement (.journalWrite) := fun _ _ hf => nomatch hf

theorem journalCommit : Statement (.journalCommit) := fun _ _ hf => nomatch hf

theorem forget (a : Sys2Proof.Access) : Statement (.forget a) := fun _ _ hf => nomatch hf

theorem dramTraining (first : TrainTry) (second : TrainTry) : Statement (.dramTraining first second) := fun _ _ hf => nomatch hf

theorem trainingComplete (r : TrainRes) : Statement (.trainingComplete r) := fun _ _ hf => nomatch hf

theorem zqCalibration : Statement (.zqCalibration) := fun _ _ hf => nomatch hf

theorem dqsOscillator (count : Nat) (wdq : Option (List Nat)) : Statement (.dqsOscillator count wdq) := fun _ _ hf => nomatch hf

theorem refresh (sc : Fin 2) (n : Nat) : Statement (.refresh sc n) := fun _ _ hf => nomatch hf

theorem mr4Poll (a : Fin 8) (b : Fin 8) : Statement (.mr4Poll a b) := fun _ _ hf => nomatch hf

theorem dramRequest (u : DUser) (addr : Nat) (wr : Option (List (Option Byte))) : Statement (.dramRequest u addr wr) := fun _ _ hf => nomatch hf

theorem dramCompletion (k : Nat) (errs : List (Nat × List Nat)) : Statement (.dramCompletion k errs) := fun _ _ hf => nomatch hf

theorem scrubRead (errs : List Nat) : Statement (.scrubRead errs) := fun _ _ hf => nomatch hf

theorem pageIdleExpire (sc : Fin 2) (bank : Fin 8) : Statement (.pageIdleExpire sc bank) := fun _ _ hf => nomatch hf

theorem errorInjection (a : Sys2Proof.Access) (data : Word) : Statement (.errorInjection a data) := fun _ _ hf => nomatch hf

theorem spiaFrame (dev : Option Nat) (op : MOp) (short : Option Nat) (lost : Option Nat) (env : Env) : Statement (.spiaFrame dev op short lost env) := fun _ _ hf => nomatch hf

theorem read (inc : Bool) (count : Nat) (addr : Nat) (lost : Option Nat) : Statement (.read inc count addr lost) := fun _ _ hf => nomatch hf

theorem write (inc : Bool) (addr : Nat) (data : List Word) (env : Env) : Statement (.write inc addr data env) := fun _ _ hf => nomatch hf

theorem writem (addr : Nat) (mask : Word) (data : Word) (env : Env) : Statement (.writem addr mask data env) := fun _ _ hf => nomatch hf

theorem piece (p : Piece) : Statement (.piece p) := fun _ _ hf => nomatch hf

theorem nop : Statement (.nop) := fun _ _ hf => nomatch hf

theorem status : Statement (.status) := fun _ _ hf => nomatch hf

theorem spiaPoll (op : MOp) (env : Env) : Statement (.spiaPoll op env) := fun _ _ hf => nomatch hf

theorem spibRead (a : Sys2Proof.Access) (data : Word) (flash : List Byte) : Statement (.spibRead a data flash) := fun _ _ hf => nomatch hf

theorem program (a : Sys2Proof.Access) (data : Word) : Statement (.program a data) := fun _ _ hf => nomatch hf

theorem erase4k (a : Sys2Proof.Access) (data : Word) : Statement (.erase4k a data) := fun _ _ hf => nomatch hf

theorem erase64k (a : Sys2Proof.Access) (data : Word) : Statement (.erase64k a data) := fun _ _ hf => nomatch hf

theorem readsr (a : Sys2Proof.Access) (data : Word) (sr : Byte) : Statement (.readsr a data sr) := fun _ _ hf => nomatch hf

theorem statusPoll (sr : Byte) : Statement (.statusPoll sr) := fun _ _ hf => nomatch hf

theorem flashTimeout : Statement (.flashTimeout) := fun _ _ hf => nomatch hf

theorem fetch (off : Nat) (flash : List Byte) (lat : Nat) (held : Nat) : Statement (.fetch off flash lat held) := fun _ _ hf => nomatch hf

theorem request (a : Sys2Proof.Access) (twi : Bool) : Statement (.request a twi) := fun _ _ hf => nomatch hf

theorem release (a : Sys2Proof.Access) (twi : Bool) : Statement (.release a twi) := fun _ _ hf => nomatch hf

theorem busclear (a : Sys2Proof.Access) (freed : Bool) : Statement (.busclear a freed) := fun _ _ hf => nomatch hf

theorem grantExpire (twi : Bool) (rx : StopRx) : Statement (.grantExpire twi rx) := fun _ _ hf => nomatch hf

theorem spicTransfer (a : Sys2Proof.Access) (data : Word) : Statement (.spicTransfer a data) := fun _ _ hf => nomatch hf

theorem spicTransferDone (rx : List Bool) : Statement (.spicTransferDone rx) := fun _ _ hf => nomatch hf

theorem twiTransfer (a : Sys2Proof.Access) (data : Word) (sdaLow : Option Bool) : Statement (.twiTransfer a data sdaLow) := fun _ _ hf => nomatch hf

theorem twiTransferDone (r : TwiEnd) : Statement (.twiTransferDone r) := fun _ _ hf => nomatch hf

theorem stretchTimeout (index : Nat) (freed : Bool) : Statement (.stretchTimeout index freed) := fun _ _ hf => nomatch hf

theorem establish (f : Frame) (sctr : Nat) (signer : Nat) (mkey : Nat) : Statement (.establish f sctr signer mkey) := by
  intro h g hg
  cases hg
  exact h

theorem object (f : Frame) (o : Obj) : Statement (.object f o) := by
  intro h g hg
  cases hg
  exact h

theorem submit (a : Sys2Proof.Access) (data : Word) (o : Obj) : Statement (.submit a data o) := fun _ _ hf => nomatch hf

theorem voucher : Statement (.voucher) := fun _ _ hf => nomatch hf

theorem transfer : Statement (.transfer) := fun _ _ hf => nomatch hf

theorem enrol : Statement (.enrol) := fun _ _ hf => nomatch hf

theorem unenrol : Statement (.unenrol) := fun _ _ hf => nomatch hf

theorem keywrap : Statement (.keywrap) := fun _ _ hf => nomatch hf

theorem debug : Statement (.debug) := fun _ _ hf => nomatch hf

theorem policy : Statement (.policy) := fun _ _ hf => nomatch hf

theorem otpcfg : Statement (.otpcfg) := fun _ _ hf => nomatch hf

theorem attest (f : Frame) (nonce : List Word) : Statement (.attest f nonce) := by
  intro h g hg
  cases hg
  exact h

theorem cert (f : Frame) : Statement (.cert f) := by
  intro h g hg
  cases hg
  exact h

theorem report (a : Sys2Proof.Access) : Statement (.report a) := fun _ _ hf => nomatch hf

theorem attCert (a : Sys2Proof.Access) : Statement (.attCert a) := fun _ _ hf => nomatch hf

theorem attestationReady : Statement (.attestationReady) := fun _ _ hf => nomatch hf

theorem dbgchal (a : Sys2Proof.Access) : Statement (.dbgchal a) := fun _ _ hf => nomatch hf

theorem raise (a : Sys2Proof.Access) : Statement (.raise a) := fun _ _ hf => nomatch hf

theorem challengeExpire : Statement (.challengeExpire) := fun _ _ hf => nomatch hf

theorem boot (slotA : ImgRead) (slotB : ImgRead) : Statement (.boot slotA slotB) := fun _ _ hf => nomatch hf

theorem begin (a : Sys2Proof.Access) : Statement (.begin a) := fun _ _ hf => nomatch hf

theorem updAbort (a : Sys2Proof.Access) : Statement (.updAbort a) := fun _ _ hf => nomatch hf

theorem arm (a : Sys2Proof.Access) : Statement (.arm a) := fun _ _ hf => nomatch hf

theorem armComplete (r : ImgRead) : Statement (.armComplete r) := fun _ _ hf => nomatch hf

theorem disarm (a : Sys2Proof.Access) : Statement (.disarm a) := fun _ _ hf => nomatch hf

theorem activatePause (a : Sys2Proof.Access) (trig : Fin 4) : Statement (.activatePause a trig) := fun _ _ hf => nomatch hf

theorem activateHandover (a : Sys2Proof.Access) (trig : Fin 4) : Statement (.activateHandover a trig) := fun _ _ hf => nomatch hf

theorem applycfg (a : Sys2Proof.Access) (trig : Fin 4) (b : BundleRead) : Statement (.applycfg a trig b) := fun _ _ hf => nomatch hf

theorem updCancel (a : Sys2Proof.Access) : Statement (.updCancel a) := fun _ _ hf => nomatch hf

theorem activation : Statement (.activation) := fun _ _ hf => nomatch hf

theorem activationComplete (badHash : Option Nat) : Statement (.activationComplete badHash) := fun _ _ hf => nomatch hf

theorem handoverStage : Statement (.handoverStage) := fun _ _ hf => nomatch hf

theorem companionStatusPoll (reply : Option (Nat × Nat)) : Statement (.companionStatusPoll reply) := fun _ _ hf => nomatch hf

theorem pieceProgrammed : Statement (.pieceProgrammed) := fun _ _ hf => nomatch hf

theorem pieceJournalTimer : Statement (.pieceJournalTimer) := fun _ _ hf => nomatch hf

theorem bundleApply : Statement (.bundleApply) := fun _ _ hf => nomatch hf

theorem bundleLoaded : Statement (.bundleLoaded) := fun _ _ hf => nomatch hf

theorem bundleReload (b : BundleRead) : Statement (.bundleReload b) := fun _ _ hf => nomatch hf

theorem porn (straps : Fin 4096) : Statement (.porn straps) := fun _ _ hf => nomatch hf

theorem domainPowerGood (d : Fin 11) : Statement (.domainPowerGood d) := fun _ _ hf => nomatch hf

theorem pgoodTimeout (d : Fin 11) : Statement (.pgoodTimeout d) := fun _ _ hf => nomatch hf

theorem trimEnd (freed : Bool) : Statement (.trimEnd freed) := fun _ _ hf => nomatch hf

theorem brownoutWarning : Statement (.brownoutWarning) := fun _ _ hf => nomatch hf

theorem brownoutReset : Statement (.brownoutReset) := fun _ _ hf => nomatch hf

theorem overTemperatureTrip (stone : Option (Fin 16)) : Statement (.overTemperatureTrip stone) := fun _ _ hf => nomatch hf

theorem shutdownDark : Statement (.shutdownDark) := fun _ _ hf => nomatch hf

theorem lockstepMismatch : Statement (.lockstepMismatch) := fun _ _ hf => nomatch hf

theorem halt (a : Sys2Proof.Access) (core : Fin 5) : Statement (.halt a core) := fun _ _ hf => nomatch hf

theorem resume (a : Sys2Proof.Access) (core : Fin 5) : Statement (.resume a core) := fun _ _ hf => nomatch hf

theorem bypass (tdi : Bool) : Statement (.bypass tdi) := fun _ _ hf => nomatch hf

theorem idcode : Statement (.idcode) := fun _ _ hf => nomatch hf

theorem samplePreload (pins : Nat) (preload : Nat) : Statement (.samplePreload pins preload) := fun _ _ hf => nomatch hf

theorem extest (tdi : Bool) : Statement (.extest tdi) := fun _ _ hf => nomatch hf

theorem sensorProbe (ack : BitVec 8) : Statement (.sensorProbe ack) := fun _ _ hf => nomatch hf

theorem vdd33Return : Statement (.vdd33Return) := fun _ _ hf => nomatch hf

theorem overTemperatureClear (stone : Fin 16) : Statement (.overTemperatureClear stone) := fun _ _ hf => nomatch hf

theorem sfltnRelease : Statement (.sfltnRelease) := fun _ _ hf => nomatch hf

theorem highBitErrorRate (p : Fin 4) : Statement (.highBitErrorRate p) := fun _ _ hf => nomatch hf

theorem delayReq (m : PtpMsg) : Statement (.delayReq m) := fun _ _ hf => nomatch hf

end Sys2Proof.Laws.Framed
end

