-- ==== Sys2Proof/Tests/Slice0.lean ====
section
/-! SUPPORT. Tests: ill-formed operands that the checks of WellFormed refuse, figures of the spec's worked examples, single steps,
and, for every statement with hypotheses, states and operands that meet them clause by clause. -/

open Sys2Proof Sys2Proof.Machine

namespace Sys2Proof.Tests

set_option Elab.async false

/-! ### Small states -/

/-- The management pair. -/
def mg : Access := ⟨.sys 0, .mgmt⟩

/-- Page `p` enabled and running. -/
def on (s : State) (p : Nat) : State := (s.fs (hENABLE p) 1).fs (hACTIVE p) 1

/-- SHOW, register access there, boot done. -/
def live : State :=
  let s := State.reset
  let s := { s with mode := .show, now := 32000000000, fab := { s.fab with access := true }, pow := { s.pow with trimDone := true, booted := true } }
  { (s.fs SYS_MODE_MODE_ACT 4).fs PD_ACT_DOM 0x7FF with pow := { s.pow with pdReq := (s.reg pgPWRDOM PD_REQ.off) } }

/-- `live` in another mode, with its code. -/
def inMode (m : Mode) (c : Nat) : State := { live with mode := m }.fs SYS_MODE_MODE_ACT c

/-- A firkin without fault. -/
def fk (h : Nat) (st : FkState) (ws : List SWrite) (w : Who := .sys 0) : Firkin :=
  ⟨h, w, false, st, ws, 64000000000, .imm, ⟨0, 0⟩, 0, 0, 0⟩

/-- Firkins held. -/
def withFk (s : State) (l : List Firkin) : State := { s with fab := { s.fab with fks := l } }

/-- A register without fields. -/
def noReg : Reg := ⟨"", 0, 1, 4, 0, false, []⟩

/-- An environment in which nothing answers. -/
def env0 : Env := ⟨[], none, false, ⟨none, 0, 0, 0, [], .reserved⟩, ⟨false, none, 0, 0, [], []⟩⟩

/-- An event. -/
def ev0 : Event := ⟨1, 2, false, 0, 0, 0, 0, 0⟩

/-- Slot n ACTIVE with a session of link p. -/
def act (s : State) (n p : Nat) : State :=
  let s := { s with tens := modAt s.tens n fun t => { t with port := some p, leaseEnd := s.now + 1000000000 } }
  (s.setTst n tACTIVE).fsi TEN_STATE_ROLE n 1

/-- Port `p` passes frames. -/
def port (s : State) (p : Nat) : State := (((on s (pgLNK + p)).fsi LNK_STAT_BLOCK p 1).fsi LNK_STAT_ALIGN p 1).fsi LNK_STAT_UP p 1

/-- Slot 5 with a session on L0 and one event to send. -/
def ten5 : State := let s := port (act live 5 0) 0
  { s with tens := modAt s.tens 5 fun t => { t with evq := ⟨[ev0, ev0], 0, false, 1, 9⟩ } }

/-- TRIM with a retention image to restore. -/
def trimDue : State := { State.reset with pow := { State.reset.pow with image := some ⟨[], []⟩ } }.fs MEMC_STAT_STATE 2

/-- TRIM with a boot done and the DRAM ready. -/
def trimDone : State := ({ State.reset with pow := { State.reset.pow with booted := true } }.fs MEMC_STAT_STATE 2)

/-- The owner by SPIA. -/
def spia : Access := ⟨.ten 0, .spia⟩

/-- The owner's access by SPIA, T0 ACTIVE. -/
def own : State := ((act live 0 0).fs SYS_SPIA_EN 1).fsi TEN_STATE_ROLE 0 1

/-- `own` in another mode. -/
def ownIn (m : Mode) (c : Nat) : State := { own with mode := m }.fs SYS_MODE_MODE_ACT c

/-- The PLL locked. -/
def lit (s : State) : State := s.fs TIME_STAT_PLL_LOCK 1


/-- A frame of type t for tile 5 received on port p. -/
def frm (p : Fin 4) (t : Nat) : Frame :=
  { port := p, at_ := 32000000100, etype := 0x88B5, len := 200, ver := 1, dir := if p.val < 2 then 0 else 1, typ := t, force := false, tenant := 0,
    nrec := if t = 1 then 1 else 0, first := if t = 7 then 0 else 5, last := if t = 7 then 0xFFF else 5, dcn := 0, fctr := 0, seq := 0, blen := 200, hop := 0, resv := false,
    hcrcOk := true, fcsOk := true, ing := ⟨0, 0, false⟩, fecCor := 0, fecUnc := 0 }

/-- Tile 5 in service on a chain, its four ports passing frames. -/
def chain0 : State := ((port (port (port (port (on live 0x24) 0) 1) 2) 3).fs CH_ETYPE_ETYPE 0x88B5 |>.fs CH_TILE_VALID 1 |>.fs CH_TILE_ID 5)

/-- T0 with keys of every kind. -/
def withKey (s : State) : State := { s with keys := modAt s.keys 0 fun _ => ⟨77, [⟨some (1, 53), none⟩, ⟨some (1, 54), none⟩, ⟨some (1, 55), none⟩]⟩ }

/-- Heartbeats of port `p` valid. -/
def hbAt (s : State) (p : Nat) : State := { s with lnk := { s.lnk with ports := modAt s.lnk.ports p fun x => { x with hb := true, hbAt := s.now, hbSince := 0 } } }

/-- SPIA as a device. -/
def sp1 : State := own.fs SPIA_CFG_ROLE 0

/-- Piece 2,559 of update 7. -/
def pc0 : Piece := ⟨none, 0, 7, 2559, 4096, [], true⟩

/-- Update 7 RECEIVING. -/
def recv : State := let s := (own.fs UPD_STAT_STATE 1).fs UPD_STAT_KIND 0
  { s with upd := { s.upd with kind := 0, upid := 7, len := 10485760, target := 1 } }

/-- A clock message. -/
def pm (p : Fin 4) : PtpMsg := ⟨p, 32000000100, 0, -3, 32000000000, 16, false, 0, 99⟩

/-- A locked servo. -/
def ptp0 : State := let s := ((port (port (port (port (on live 0x24) 0) 1) 2) 3).fs PTP_STAT_STATE 2)
  { s with tim := { s.tim with gm := some 99 } }

/-- No frame under way at a stop. -/
def noRx : StopRx := ⟨[], [], []⟩

/-- A span in which nothing is found. -/
def spe : SpanEnv := ⟨[], [], [], [], [], [], [], noRx⟩

/-- Cycles run. -/
def cyc : State := let s := (on (lit live) 0x26).fs TIME_STAT_STATE 4 |>.fs TIME_LOCK_SOURCE 1 |>.fs PTP_STAT_WT_VALID 1
  { s with tim := { s.tim with running := true, cycled := true, acc := 32000000000 * 65536 }, scan := { s.scan with inCycle := true, startAt := 32000000000 } }

/-- What a job of a dark source reads. -/
def jin : JobIn := ⟨.dark, [], none, 0, none, 0, false, ⟨false, 0, 0⟩, 1, 0, none, 0, ⟨4, 4, [⟨0, 0, 3, 0, 3, 0, 0, false, false, false⟩]⟩, 3, false, false, 0⟩

/-- A job of window 3. -/
def job0 (drop : Bool) : Job := ⟨3, jin, [4, 5], 7, 31000000000, drop, none⟩

/-- Both half-arrays serve. -/
def arr : State := (live.fs PIX_HALF_A 1).fs PIX_HALF_B 1

/-- Two jobs in flight. -/
def jobs (d : Bool) : State := { arr with pix := { arr.pix with jobs := [job0 true, job0 d], serial := 8 } }

/-- A job report without findings. -/
def jr : JobResult := ⟨[], [], [], [], []⟩

/-- A phase in order. -/
def pe : PhaseEnv := ⟨some 5, some 5, true, true, none⟩

/-- Phase `n` changed. -/
def ph (s : State) (n : Nat) (f : Phase → Phase) : State := { s with sup := { s.sup with phases := modAt s.sup.phases n f } }

/-- A job of window 15 released. -/
def jstart : State := let s := on (on arr 0x40) 0x63
  { s with pix := { s.pix with released := [⟨15, true, false, none⟩] } }

/-- Rail `k` in a state. -/
def rail (s : State) (k : Nat) (st : Nat) : State := { s with sup := { s.sup with rails := modAt s.sup.rails k fun r => { r with st := st } } }

/-- Values of a bin. -/
def bv : BinVal := ⟨400, [], [], [], [], []⟩

/-- A journal record. -/
def jrec (n : Nat) : JRec := ⟨n, [some bv, none, none, none, none]⟩

/-- Trim measurements in range. -/
def tm0 : TrimMeas := ⟨List.replicate 16 400, [], List.replicate 16 0, [], [], [], [], []⟩

/-- The DRAM in a state, with 1 GB. -/
def mem (st : Nat) : State := (live.fs MEMC_STAT_STATE st).fs MEMC_SIZE_MB 1024

/-- A request of the management pair. -/
def dreq (off : Nat) (w : Option (List (Option Byte))) : DReq := ⟨.mgmt, 3, off, w, 31000000000⟩

/-- A read and a write in flight. -/
def infl : State := { mem 2 with mem := { (mem 2).mem with inflight := [dreq 0 none, dreq 1073741760 (some ((List.range 64).map fun i => some (BitVec.ofNat 8 i)))] } }

/-- A port granted to T0. -/
def granted (twi : Bool) : State := if twi then (own.fs TWI_GRANT_HELD 1).fs TWI_GRANT_HOLDER 0 else (own.fs SPIC_GRANT_HELD 1).fs SPIC_GRANT_HOLDER 0

/-- PROVISIONED. -/
def secS : State := (chain0.fs OSEC_LC_LC 1)

/-- OWNED by key 9. -/
def ownedS : State := { (chain0.fs OSEC_LC_LC 2) with sec := { chain0.sec with store := { chain0.sec.store with owned := true, owner := 9 } } }

/-- A SESSION frame. -/
def ses : Frame := frm 0 9

/-- A voucher for key 9. -/
def vouch : Obj := ⟨none, 0, 0, 1, [1], .voucher 9⟩

/-- One accepted object. -/
def accd (s : State) (o : Obj) : State := { s with sec := { s.sec with acc := [o] } }

/-- An object of the owner. -/
def enr (n : Fin 16) (b : ObjBody) : Obj := ⟨none, n, 0, 1, [9], b⟩

/-- An image. -/
def image1 : Image := ⟨1, 0, 0, 0, 100, []⟩

/-- A manifest. -/
def man (imgs : List Image) : Manifest := ⟨7, 3, true, false, [1, 2, 3, 4], imgs⟩

/-- A slot in order. -/
def good (imgs : List Image) : ImgRead := ⟨true, true, true, none, none, man imgs⟩

/-- A slot whose certificate does not chain. -/
def badR : ImgRead := ⟨false, true, true, none, none, man []⟩

/-- A companion image. -/
def comp1 (c : Nat) : Image := ⟨0x10 + c, 0, 0, 5, 2000, []⟩

/-- An update in a state. -/
def updS (st : Nat) (f : UpdSt → UpdSt) : State := { own with upd := f own.upd }.fs UPD_STAT_STATE st

/-- A bundle with a clip. -/
def bnd : BundleRead := ⟨true, none, 0, 0x12345, [], [.clip 3 1 1 [[(1, 2, 3, 4)]]]⟩

/-- A bundle with a T-set. -/
def bndT : BundleRead := ⟨true, none, 5, 0x12345, [], [.tset 3 2 [8192, 1]]⟩

/-- Reset with a boot record. -/
def bootS (b : BootRec) : State := { State.reset with upd := { State.reset.upd with brec := some b } }

/-- The volume tile of chapters 5 and 9 (R117, R194 and their examples). -/
def volume : State :=
  let s := live
  let s := [0x24,0x26,0x40,0x62,0x63,0x90,0x20,0x21,0x31,0x32,0x33,0x34,0x35].foldl on s
  let s := (List.range 16).foldl (fun (s : State) k => (on s (0x70+k)).fsi ST_CUR_SCALE k 49) s
  let s := (List.range 8).foldl (fun (s : State) n => (((on s (0x91+n)).fsi PH_RUN_RUN_REQ n 1).fsi PH_ILIM_MA n 2000).fsi PH_CFG_RAIL n (if n < 3 then 0 else 1)) s
  let s := s.fs SUP_CFG_PRESENT 1 |>.fs SUP_RAILA_T_HT 12 |>.fs SUP_RAILB_T_HT 12
  let s := ((s.fs TIME_PER_G_GRAINS 266666666).fs TIME_PER_F_FRAC 0xAAAB).fs SCAN_SPAN_UNITS 2034 |>.fs SCAN_BLANK 0x00500064 |>.fs SCAN_PRE_LEN 60
  let s := s.fs SCAN_RATIO_ROWS 128 |>.fs SCAN_GCUR0 0x04B003E8 |>.fs SCAN_GCUR1 0x320 |>.fs WIRE_RAIL 6 |>.fs WIRE_GRID 0x01000100
  let s := (s.fsk WIRE_RJ 0 0 0x80FF0000).fsk WIRE_RR 0 0 0x007F0000
  let s := ((s.fsk WIRE_RJ 0 1 0x81FF0100).fsk WIRE_RR 0 1 0x007F0000).fsk WIRE_RXY 0 1 0x00800000
  let s := (List.range 4).foldl (fun (s : State) n => ((s.fsi FEED_FMT (n+1) (1*256+1)).fsi FEED_RATE_MHZ (n+1) 120000).fsi FEED_RUN_RUN_REQ (n+1) 1) s
  let s := ((s.fsi FEED_FMT 5 (0*256+7)).fsi FEED_RATE_MHZ 5 60000).fsi FEED_RUN_RUN_REQ 5 1
  let s := (List.range 5).foldl (fun (s : State) w => (((s.fsk WIN_SWP_SWEEPS 0 w (if w < 4 then 6 else 8)).fsk WIN_SRC_REQ_KIND 0 w 1).fsk WIN_SRC_REQ_INDEX 0 w (w+1)).fsk WIN_SRC_ACT 0 w (1+16*(w+1))) s
  let s := s.fs CH_SEGMIN_BYTES 8192 |>.fs CH_FWD0_KBPS 22429041 |>.fsi LNK_CFG_SPEED_REQ 0 1 |>.fsi LNK_CFG_SPEED_REQ 1 0 |>.fs MEMC_RATE_MTS 4266
  let s := (s.fs CORR_NSET_NSET 1).fs TF_PERIOD_MS 250
  s.fs ADM_DECL (20 * 2^24 + 40 * 2^16 + 200)

/-! ### Ill-formed operands -/

theorem test_wf_address : (Instr.snapshotRead mg (2 ^ 40)).wf = false ∧ (Instr.snapshotRead mg (2 ^ 40 - 4)).wf = true := by decide
theorem test_wf_page : (Instr.enable mg 256).wf = false ∧ (Instr.enable mg 255).wf = true := by decide
theorem test_wf_handle : (Instr.commit mg 128).wf = false ∧ (Instr.commit mg 127).wf = true := by decide
theorem test_wf_mode : (Instr.modeRequest mg 8).wf = false ∧ (Instr.modeRequest mg 7).wf = true := by decide
theorem test_wf_frame : (Instr.heartbeat { frm 0 7 with last := 4096 } false).wf = false ∧ (Instr.heartbeat (frm 0 7) false).wf = true := by
  decide
theorem test_wf_record : (Instr.feedFrame (frm 0 1) [⟨4096, 0, 0, [], 0⟩]).wf = false ∧
    (Instr.feedFrame (frm 0 1) [⟨5, 2, 0, [1], 0⟩]).wf = false := by decide
theorem test_wf_piece : (Instr.piece { pc0 with len := 1 }).wf = false ∧ (Instr.piece { pc0 with index := 2 ^ 32, len := 0 }).wf = false := by
  decide
theorem test_wf_operation : (Instr.spiaPoll (.write true 2 0 [1]) env0).wf = false ∧ (Instr.spiaPoll (.other 256) env0).wf = false := by
  decide
theorem test_wf_beat : (Instr.beat (frm 0 5) ⟨0, 1000000000, 0, 0, false, 0⟩).wf = false := by decide
theorem test_wf_clock : (Instr.sync { pm 0 with domain := 256 }).wf = false ∧ (Instr.sync (pm 0)).wf = true := by decide
theorem test_wf_rows : (Instr.spanBoundary { spe with lowRows := [128] }).wf = false ∧ (Instr.spanBoundary spe).wf = true := by decide
theorem test_wf_device : (Instr.spiaFrame (some 256) (.nop 0 0) none none env0).wf = false := by decide

/-! ### Steps and reset -/

/-- The command at the front alone is taken; the rest waits in order. -/
theorem test_step_takes_the_front : ∃ t, step { live with pending := [.idcode, .kick mg, .nop] } = .next t ∧ t.pending = [.kick mg, .nop] :=
  ⟨_, rfl, rfl⟩

theorem test_step_idles : step live = .next live := rfl

/-- R61, Table 2.25: TRIM, no register access, T0 alone RUN_REQ 1. -/
theorem test_reset : State.reset.mode = .trim ∧ State.reset.fab.access = false ∧ State.reset.regs = [] ∧ State.reset.pending = [] := by
  decide

/-! ### Figures of the spec's examples -/

/-- Chapter 7, one pixel from feed to plan: red 600 and green 300 of 10 bits. -/
theorem test_replicate_and_degamma : replicate16 10 600 = 38437 ∧ linTable (List.replicate 105 0 ++ [4731393, 5965640]) 38437 = 5205385 ∧
    replicate16 10 300 = 19218 ∧ linTable (List.replicate 97 0 ++ [1029737, 1298334]) 19218 = 1132822 := by
  decide +kernel

/-- The same example: 41.25 °C among 25, 45, 65 and 85 °C. -/
theorem test_zone : zoneSel none 4 [400, 720, 1040, 1360] 660 = (0, 208) := by
  decide +kernel

/-- The same example, Table 7.4: the red lamp. -/
theorem test_blend : (blendCoef ⟨7782, -98, 33, 12, false⟩ ⟨8520, -123, 35, 14, false⟩ 208).toWord = 0x000E0023FF8A20BE := by
  decide +kernel

/-- The same example, Table 7.5. -/
theorem test_dither : ditherTh true 37 200 0 0x12C47 = 5 ∧ ditherTh true 37 200 1 0x12C47 = 127 := by
  decide +kernel

/-- The same example, Table 7.5: red, green and blue. -/
theorem test_correction : correct ⟨8382, -118, 35, 14, false⟩ (5205385, 1132822, 0) 5 = 5310021 ∧
    correct ⟨-177, 8095, 31, 9, false⟩ (5205385, 1132822, 0) 127 = 1007083 ∧
    correct ⟨25, -306, 8213, 22, false⟩ (5205385, 1132822, 0) 0 = 0 := by
  decide +kernel

/-- Chapter 8, Table 8.5: grey 1, 17 and 300. -/
theorem test_control_bytes : ctlByte 256 32 61888 ⟨true, 192, 192⟩ 0 0 0 = 0xC0 ∧ ctlByte 4352 32 61888 ⟨true, 192, 192⟩ 0 0 0 = 0xA0 ∧
    ctlByte 76801 32 61888 ⟨true, 192, 192⟩ 0 0 0 = 0x20 := by
  decide +kernel

/-- Table 8.5: t this cycle, and grey 1 in an odd DCN. -/
theorem test_occurrence_units : occUnits 256 32 61888 0xC0 76872 = 483 ∧ occUnits 4352 32 61888 0xA0 76872 = 8219 ∧ occUnits 76801 32 61888 0x20 76872 = 9065 ∧
    occUnits 256 32 61888 0xC0 76873 = 484 := by
  decide +kernel

/-- Table 8.5: grey 1 in sweeps 15, 31 and 14. -/
theorem test_pulses : pulseAt 256 32 61888 192 0xC0 76872 15 = 241 ∧ pulseAt 256 32 61888 192 0xC0 76872 31 = 242 ∧
    pulseAt 256 32 61888 192 0xC0 76872 14 = 0 := by
  decide +kernel

/-- Table 8.6: sweep 15. -/
theorem test_edges : edgeWordOf 256 32 61888 192 0xC0 76872 15 3200 4 0 32 = ⟨true, true, 3569, 3328⟩ ∧
    edgeWordOf 4352 32 61888 192 0xA0 76872 15 3200 4 0 32 = ⟨true, true, 3585, 3328⟩ ∧
    edgeWordOf 76801 32 61888 192 0x20 76872 15 3200 4 0 32 = ⟨true, false, 3611, 3328⟩ := by
  decide +kernel

/-- Chapter 12, SNK0879 across the bins, at 40.25 °C. -/
theorem test_trim_interpolation : interp1 133 (-5) (-7) = -6 ∧ interp1 133 32102 32870 = 32501 := by
  decide +kernel

/-- Chapter 13, one coefficient entry in DRAM: SC1, bank 2, row 85. -/
theorem test_dram_place : dramPlace 2464632 = (1, 2, 85) := by
  decide +kernel

/-- Table 2.33: a direct write of STONE3.PG_CTRL while a firkin touches the page answers 0x6702. -/
theorem test_pending_page : ∃ t d, exec (.registerWrite mg (regAddr 0x73 0x008) 0 env0)
    (withFk live [fk 17 .pending [⟨0x73, 0x040, 0x3F, 5, 0⟩]]) = .next t ∧ t.outs = [.res ⟨0x6702, d⟩ []] :=
  ⟨_, _, rfl, rfl⟩

/-- Chapter 9, the volume tile: red lamp 111,471 by WIRE_QSEL; 6,000, 5,000 and 4,000 µA; 192 and 288 mA per stone. -/
theorem test_volume_views : (volume.wireQres 111471) = (0x00C80025, 0x8048036F) ∧ volume.viewBlock (.sys 0) 0x70 0x050 0 = 0x17701388 ∧
    volume.viewBlock (.sys 0) 0x70 0x054 0 = 0x00000FA0 ∧ volume.viewBlock (.sys 0) 0x70 0x058 0 = 0x07800B40 := by decide +kernel

/-- Chapter 5, Table 5.9: the volume tile is admitted with these figures. -/
theorem test_admission_volume : (match exec (.dry mg) volume with
    | .next t => [t.fg ADM_RESULT_CODE, t.fg ADM_AK, t.fg ADM_AKPCT_FULL, t.fg ADM_AKPCT_HALF, t.fg ADM_LINK_L0, t.fg ADM_LINK_L1,
        t.fg ADM_DRAM_PERMIL, t.fg ADM_PLAN_UNITS, t.fg ADM_RAIL_A, t.fg ADM_RAIL_B, t.fg ADM_SINK_TJ, t.fg ADM_SINK_MW]
    | _ => []) = [0x0300, 38322176, 100, 200, 23690, 988, 35, 84, 3072, 4608, 783, 5112] := by decide +kernel

/-- Chapter 16, a 10 MB update: 2,560 pieces. -/
theorem test_update_pieces : (match exec (.begin spia) (((own.fs UPD_BEGIN_KIND 0).fs UPD_LEN_BYTES 10485760).fs UPD_ID_UPID 0x521) with
    | .next t => (t.fg UPD_RCVD_TOTAL, t.fg UPD_STAT_STATE, t.fg UPD_RES_CODE)
    | _ => (0, 0, 0)) = (2560, 1, 0) := by decide +kernel

/-- Chapter 18, straps of the volume tile: sensors at 0x48, 0x4A and 0x4D. -/
theorem test_sensor_probe : (match exec (.sensorProbe 0x25) ((State.reset.fs SYS_STRAP_CFG 0x768).modPow fun p => { p with presetDone := true }) with
    | .next t => (t.reg pgTFIELD (TF_SA.off + 8 * 16), t.reg pgTFIELD (TF_SB.off + 8 * 16))
    | _ => (0, 0)) = (0xA4800000, 0x49101020) := by decide +kernel

/-! ### Hypotheses that something meets -/

/-- States and operands that meet the hypotheses of PageControlWrites, clause by clause. -/
theorem witness_PageControlWrites : (
    (let s : State := live
      let a : Access := mg
      let page : Nat := 0xFF - 0xBD
      if !(decide (page < 256)) then false else
      match accepted s.begin_ a (regAddr page 0x008) (s.ctrlBits page (s.fg (hHOLD page) * 4 + 1)) with
      | none => false
      | some (s1, _, _, _, _) =>
      if !(decide (pageHasUnit page = true)) then false else
      if !(decide (enabledR s1.regs page = false)) then false else
      if !(decide (page ∉ s1.fab.checking)) then false else
      true) &&
    (let s : State := on live 0x42
      let a : Access := mg
      let page : Nat := 0x42
      if !(decide (page < 256)) then false else
      match accepted s.begin_ a (regAddr page 0x008) (s.ctrlBits page (s.fg (hHOLD page) * 4)) with
      | none => false
      | some (_, _, _, _, _) =>
      if !(decide (pageHasUnit page = true)) then false else
      true) &&
    (let s : State := on live 0x42
      let a : Access := mg
      let page : Nat := 0x42
      if !(decide (page < 256)) then false else
      match accepted s.begin_ a (regAddr page 0x008) (s.ctrlBits page (s.fg (hHOLD page) * 4 + 2 + s.fg (hENABLE page))) with
      | none => false
      | some (s1, _, _, _, _) =>
      if !(decide (page ∉ s1.fab.resetting)) then false else
      true) &&
    (let s : State := on live 0x42
      let a : Access := mg
      let page : Nat := 0x42
      let on : Bool := true
      if !(decide (page < 256)) then false else
      match accepted s.begin_ a (regAddr page 0x008) (s.ctrlBits page (b2n on * 4 + s.fg (hENABLE page))) with
      | none => false
      | some (_, _, _, _, _) =>
      if !(decide (pgCapOf page % 2 = 1)) then false else
      true)) = true := by
  decide +kernel

/-- States and operands that meet the hypotheses of PageLifecycle, clause by clause. -/
theorem witness_PageLifecycle : (
    (let s : State := { live with fab := { live.fab with checking := [0x53] } }
      let page : Nat := 0x53
      if !(decide (page < 256)) then false else
      if !(decide (page ∈ s.fab.checking)) then false else
      if !(decide ((s.begin_.enableVerdict (s.askerWho page) page).err = none)) then false else
      true) &&
    (let s : State := { live with fab := { live.fab with checking := [0x42] } }
      let page : Nat := 0x42
      if !(decide (page < 256)) then false else
      if !(decide (page ∈ s.fab.checking)) then false else
      match (s.begin_.enableVerdict (s.askerWho page) page).err with
      | none => false
      | some _ =>
      true) &&
    (let s : State := { live with fab := { live.fab with starting := [0x42, 0x82] } }
      let page : Nat := 0x42
      if !(decide (page ∈ s.fab.starting)) then false else
      if !(decide (s.startWaits page false = false)) then false else
      true) &&
    (let s : State := { (on live 0x42) with fab := { live.fab with stopping := [0x42, 0x82] } }
      let page : Nat := 0x42
      if !(decide (page ∈ s.fab.stopping)) then false else
      if !(decide (¬(page = pgSENSE ∧ s.sense.busy = true))) then false else
      true) &&
    (let s : State := { live with fab := { live.fab with resetting := [0x80], checking := [0x80] } }
      let page : Nat := 0x80
      if !(decide (page ∈ s.fab.resetting)) then false else
      true)) = true := by
  decide +kernel

/-- States and operands that meet the hypotheses of FirkinCommands, clause by clause. -/
theorem witness_FirkinCommands : (
    (let s : State := withFk live [fk 0 .pending [], fk 2 .open_ []]
      let a : Access := mg
      let h : Nat := 1
      match accepted s.begin_ a (regAddr pgFIRKIN FK_CMD.off) 1 with
      | none => false
      | some (s1, w, _, _, _) =>
      if !(decide ((∀ k : Fin 16, w = .ten k → roleR s1.regs k.val ≠ 3))) then false else
      if !(decide (s1.fgb w.bank FK_LEASE_MS ≠ 0)) then false else
      if !(decide (s1.fkCount w.slot < Config.tenHandles)) then false else
      if !(decide (h < Config.nHandles)) then false else
      if !(decide (s1.fk? h = none)) then false else
      if !(decide ((∀ j : Nat, j < h → s1.fk? j ≠ none))) then false else
      true) &&
    (let s : State := ((withFk live [fk 5 .open_ []]).fsb 17 FK_SEL_HANDLE 5 |>.fsb 17 FK_SADDR_PAGE 0x60 |>.fsb 17 FK_SADDR_WORD 0x10 |>.fsb 17 FK_SMASK_MASK 0xFFFFFFFF)
      let a : Access := mg
      let data : Word := 0x80C000C0
      match accepted s.begin_ a (regAddr pgFIRKIN FK_SDATA.off) data.toNat with
      | none => false
      | some (s1, w, _, _, _) =>
      let s2 : State := (if s1.fgb w.bank FK_SADDR_INC = 1 then s1.fsb w.bank FK_SADDR_WORD ((s1.fgb w.bank FK_SADDR_WORD + 1) % 1024) else s1)
      match s1.fk? (s1.fgb w.bank FK_SEL_HANDLE) with
      | none => false
      | some f =>
      if !(decide (fkMine w f = true)) then false else
      if !(decide (f.st = .open_)) then false else
      if !(decide (f.writes.length < Config.maxStaged)) then false else
      let x : SWrite := ⟨s1.fgb w.bank FK_SADDR_PAGE, s1.fgb w.bank FK_SADDR_WORD * 4, s1.fgb w.bank FK_SMASK_MASK, data.toNat,
          rfgetB s1.regs w.bank PAL_SEL_FEED 0 0⟩
      if !(decide (s2.stageFail (putWrites s2.bootRegs w s2.regs f.writes) w x = none)) then false else
      true) &&
    (let s : State := withFk live [fk 127 .open_ []]
      let a : Access := mg
      let h : Nat := 127
      if !(decide (h < 128)) then false else
      match accepted s.begin_ a (regAddr pgFIRKIN FK_CMD.off) (h * 256 + 2) with
      | none => false
      | some (s1, w, _, _, _) =>
      match s1.fk? h with
      | none => false
      | some f =>
      if !(decide (fkMine w f = true)) then false else
      if !(decide (f.st = .open_)) then false else
      true) &&
    (let s : State := withFk live [fk 127 .failed [], fk 3 .open_ []]
      let a : Access := mg
      let h : Nat := 127
      if !(decide (h < 128)) then false else
      match accepted s.begin_ a (regAddr pgFIRKIN FK_CMD.off) (h * 256 + 3) with
      | none => false
      | some (s1, w, _, _, _) =>
      match s1.fk? h with
      | none => false
      | some f =>
      if !(decide (fkMine w f = true)) then false else
      if !(decide ((f.st = .open_ ∨ f.st = .failed))) then false else
      true) &&
    (let s : State := withFk live [fk 127 .open_ [], fk 3 .open_ []]
      let a : Access := mg
      let h : Nat := 127
      if !(decide (h < 128)) then false else
      match accepted s.begin_ a (regAddr pgFIRKIN FK_CMD.off) (h * 256 + 4) with
      | none => false
      | some (s1, w, _, _, _) =>
      match s1.fk? h with
      | none => false
      | some f =>
      if !(decide (fkMine w f = true)) then false else
      if !(decide ((f.st = .open_ ∨ f.st = .failed))) then false else
      if !(decide (s1.fgb w.bank FK_LEASE_MS ≠ 0)) then false else
      true) &&
    (let s : State := withFk live [fk 127 .pending [], fk 3 .open_ []]
      let a : Access := mg
      let h : Nat := 127
      if !(decide (h < 128)) then false else
      match accepted s.begin_ a (regAddr pgFIRKIN FK_CMD.off) (h * 256 + 5) with
      | none => false
      | some (s1, w, _, _, _) =>
      match s1.fk? h with
      | none => false
      | some f =>
      if !(decide (fkMine w f = true)) then false else
      if !(decide (f.st = .pending)) then false else
      if !(decide (s1.cancelFail h = none)) then false else
      true)) = true := by
  decide +kernel

/-- States and operands that meet the hypotheses of FirkinInstants, clause by clause. -/
theorem witness_FirkinInstants : (
    (let s : State := withFk live [fk 127 .checking [⟨0x80, 0x018, 1, 1, 0⟩]]
      let h : Nat := 127
      match s.fk? h with
      | none => false
      | some f =>
      if !(decide (f.st = .checking)) then false else
      if !(decide ((s.begin_.commitVerdict f).err = none)) then false else
      true) &&
    (let s : State := withFk live [{ fk 0 .checking [⟨0x80, 0x018, 1, 1, 0⟩] with trig := .bad }]
      let h : Nat := 0
      match s.fk? h with
      | none => false
      | some f =>
      if !(decide (f.st = .checking)) then false else
      match (s.begin_.commitVerdict f).err with
      | none => false
      | some _ =>
      true) &&
    (let s : State := withFk live [fk 127 .failed [⟨0x80, 0x018, 1, 1, 0⟩]]
      let h : Nat := 127
      match s.fk? h with
      | none => false
      | some f =>
      if !(decide ((f.st = .open_ ∨ f.st = .failed))) then false else
      true) &&
    (let s : State := withFk live [fk 127 .pending [⟨0x80, 0x018, 0xFF, 0xA5, 0⟩]]
      let h : Nat := 127
      match s.fk? h with
      | none => false
      | some f =>
      if !(decide (f.st = .pending)) then false else
      if !(decide (f.trig = .imm)) then false else
      if !(decide ((∀ y ∈ s.fab.fks, y.st = .pending → y = f))) then false else
      if !(decide ((s.tim.running = false ∨ s.atSpan = true ∧ f.since < s.now))) then false else
      match (f.writes) with
      | [] => false
      | x :: _ =>
      if !(decide (f.writes = [x])) then false else
      if !(decide (x.page ≠ pgCORR)) then false else
      if !(decide (x.page < 256)) then false else
      if !(decide (x.off < 4096)) then false else
      if !(decide (x.off ≠ 0x008)) then false else
      if !(decide (x.off ≠ 0x020)) then false else
      if !(decide (x.off ≠ 0x024)) then false else
      match anyRegAt x.page x.off with
      | none => false
      | some _ =>
      if !(decide (wideLast x.page x.off = none)) then false else
      if !(decide (State.mapReg x.page x.off = false)) then false else
      true) &&
    (let s : State := withFk live [{ fk 127 .pending [⟨0x80, 0x018, 1, 1, 0⟩] with trig := .dcn 7 }]
      let h : Nat := 127
      let n : Nat := 7
      match s.fk? h with
      | none => false
      | some f =>
      if !(decide (f.h = h)) then false else
      if !(decide (f.st = .pending)) then false else
      if !(decide (f.trig = .dcn n)) then false else
      if !(decide (s.begin_.cycles = false)) then false else
      true)) = true := by
  decide +kernel

/-- States and operands that meet the hypotheses of RegisterReadsAndWrites, clause by clause. -/
theorem witness_RegisterReadsAndWrites : (
    (  let a : Access := mg
      let addr : Nat := 0x103FFFFC
      if !(decide (a.path = .mgmt)) then false else
      if !(decide (0x10000000 ≤ addr)) then false else
      if !(decide (addr < 0x10400000)) then false else
      if !(decide (addr % 4 = 0)) then false else
      true) &&
    (let s : State := live
      let a : Access := mg
      let page : Nat := 0xC3
      let off : Nat := 0x01C
      let data : Word := 0xFFFFFFFF
      if !(decide (page < 256)) then false else
      if !(decide ((off = 0x018 ∨ off = 0x01C))) then false else
      match accepted s.begin_ a (regAddr page off) data.toNat with
      | none => false
      | some (_, _, _, _, _) =>
      true) &&
    (let s : State := live.fs SYS_UID0 7
      let a : Access := mg
      let page : Nat := 0
      let off : Nat := SYS_UID0.off
      let os : List Nat := [SYS_UID0.off, SYS_UID1.off]
      if !(decide (page < 256)) then false else
      if !(decide (off < 4096)) then false else
      if !(decide (off % 4 = 0)) then false else
      match grantAccess s.begin_ a (regAddr page off) with
      | .error _ => false
      | .ok (s1, w) =>
      match anyRegAt page off with
      | none => false
      | some _ =>
      if !(decide (mayReadR s1.regs w page = true)) then false else
      if !(decide (wideOf page off = some (os, 0))) then false else
      true) &&
    (let s : State := { live with fab := { live.fab with latches := [(138, regAddr 0 SYS_UID0.off, [7, 8])] } }
      let a : Access := mg
      let page : Nat := 0
      let off : Nat := SYS_UID1.off
      let k : Nat := 0
      let os : List Nat := [SYS_UID0.off, SYS_UID1.off]
      if !(decide (page < 256)) then false else
      if !(decide (off < 4096)) then false else
      if !(decide (off % 4 = 0)) then false else
      match grantAccess s.begin_ a (regAddr page off) with
      | .error _ => false
      | .ok (s1, w) =>
      match anyRegAt page off with
      | none => false
      | some _ =>
      if !(decide (mayReadR s1.regs w page = true)) then false else
      if !(decide (wideOf page off = some (os, k + 1))) then false else
      match s1.snapshot (pathKey w (some a.path)) (regAddr page (nth os 0 0)) with
      | none => false
      | some _ =>
      true) &&
    (let s : State := ((on live 0x24).setReg 0xE0 0x064 0x12345)
      let a : Access := mg
      let page : Nat := 0xE0
      let off : Nat := 0x064
      if !(decide (page < 256)) then false else
      if !(decide (off < 4096)) then false else
      if !(decide (off % 4 = 0)) then false else
      match grantAccess s.begin_ a (regAddr page off) with
      | .error _ => false
      | .ok (s1, w) =>
      match anyRegAt page off with
      | none => false
      | some g =>
      if !(decide (mayReadR s1.regs w page = true)) then false else
      if !(decide (wideOf page off = none)) then false else
      if !(decide (page ≠ pgEVTQ)) then false else
      let m : Nat := g.flds.foldl (fun m f => if f.acc = .rc then Nat.lor m f.mask else m) 0
      if !(decide (m ≠ 0)) then false else
      true)) = true := by
  decide +kernel

/-- States and operands that meet the hypotheses of EventQueueCommands, clause by clause. -/
theorem witness_EventQueueCommands : (
    (let s : State := live
      let a : Access := mg
      match accepted s.begin_ a (regAddr pgEVTQ EQ_POP.off) 1 with
      | none => false
      | some (_, _, _, _, _) =>
      true) &&
    (let s : State := ten5
      let n : Fin 16 := 5
      if !(decide (s.tst n.val = tACTIVE)) then false else
      match s.tens[n.val]? with
      | none => false
      | some y =>
      if !(decide (y.port.isSome = true)) then false else
      if !(decide (s.fgb (1 + n.val) EQ_CTRL_DELIVER ≠ 0)) then false else
      if !(decide (y.evq.unsent ≠ 0)) then false else
      if !(decide (s.passes s.pathAct = true)) then false else
      true)) = true := by
  decide +kernel

/-- States and operands that meet the hypotheses of ResetCommands, clause by clause. -/
theorem witness_ResetCommands : (
    (let s : State := own
      let a : Access := spia
      match accepted s.begin_ a (regAddr pgRST RST_CMD.off) 0x7A5E0001 with
      | none => false
      | some (_, _, _, _, _) =>
      true) &&
    (let s : State := own
      let a : Access := spia
      match accepted s.begin_ a (regAddr pgRST RST_CMD.off) 0x7A5E0002 with
      | none => false
      | some (_, _, _, _, _) =>
      true) &&
    (let s : State := own
      let a : Access := spia
      match accepted s.begin_ a (regAddr pgRST RST_CMD.off) 0x7A5E0003 with
      | none => false
      | some (_, _, _, _, _) =>
      true) &&
    (let s : State := own
      let a : Access := spia
      match accepted s.begin_ a (regAddr pgRST RST_CMD.off) 0x7A5E0004 with
      | none => false
      | some (_, _, _, _, _) =>
      true) &&
    (let s : State := own
      let a : Access := spia
      match accepted s.begin_ a (regAddr pgRST RST_KICK.off) 1 with
      | none => false
      | some (_, _, _, _, _) =>
      true) &&
    (let s : State := live.fs RST_WDOG_TIMEOUT 1
      if !(decide (s.fg RST_WDOG_TIMEOUT ≠ 0)) then false else
      if !(decide (s.fab.access = true)) then false else
      true) &&
    (let s : State := { live with fab := { live.fab with access := false } }
      if !(decide (s.begin_.mgmtDown = true)) then false else
      true)) = true := by
  decide +kernel

/-- States and operands that meet the hypotheses of ModeCommands, clause by clause. -/
theorem witness_ModeCommands : (
    (let s : State := own
      let a : Access := spia
      let req : Nat := 3
      match accepted s.begin_ a (regAddr pgSYS SYS_MODE.off) (req % 8) with
      | none => false
      | some (s1, _, _, _, _) =>
      if !(decide (s1.modeRefuse (req % 8) = none)) then false else
      true) &&
    (let s : State := { (ownIn .dark 5) with pow := { live.pow with vddLow := true } }
      let a : Access := spia
      let req : Nat := 4
      match accepted s.begin_ a (regAddr pgSYS SYS_MODE.off) (req % 8) with
      | none => false
      | some (s1, _, _, _, _) =>
      match s1.modeRefuse (req % 8) with
      | none => false
      | some _ =>
      true) &&
    (let s : State := { live with pow := { live.pow with req := some (3, 1) } }
      let b : Nat := 1
      if !(decide (s.mode = .show)) then false else
      if !(decide (s.pow.req = some (3, b))) then false else
      true) &&
    (let s : State := { (inMode .service 3) with pow := { live.pow with req := some (4, 1) } }
      let b : Nat := 1
      if !(decide (s.mode = .service)) then false else
      if !(decide (s.pow.req = some (4, b))) then false else
      true) &&
    (let s : State := { live with pow := { live.pow with req := some (5, 1) } }
      let b : Nat := 1
      if !(decide ((s.mode = .show ∨ s.mode = .service))) then false else
      if !(decide (s.pow.req = some (5, b))) then false else
      true) &&
    (let s : State := lit { (inMode .dark 5) with pow := { live.pow with req := some (4, 1) } }
      let r : Nat := 4
      let b : Nat := 1
      if !(decide (s.mode = .dark)) then false else
      if !(decide (s.pow.req = some (r, b))) then false else
      if !(decide ((r = 3 ∨ r = 4))) then false else
      if !(decide (s.activeCauses = 0)) then false else
      true) &&
    (let s : State := { (inMode .dark 5) with pow := { live.pow with req := some (4, 1), vddLow := true } }
      let r : Nat := 4
      let b : Nat := 1
      if !(decide (s.mode = .dark)) then false else
      if !(decide (s.pow.req = some (r, b))) then false else
      if !(decide ((r = 3 ∨ r = 4))) then false else
      if !(decide (s.activeCauses ≠ 0)) then false else
      true)) = true := by
  decide +kernel

/-- States and operands that meet the hypotheses of SleepAndWake, clause by clause. -/
theorem witness_SleepAndWake : (
    (let s : State := { live with pow := { live.pow with req := some (0, 1) } }
      let b : Nat := 1
      if !(decide ((s.mode = .show ∨ s.mode = .service ∨ s.mode = .dark))) then false else
      if !(decide (s.pow.req = some (0, b))) then false else
      if !(decide (s.pow.sleeping = false)) then false else
      true) &&
    (let s : State := { (inMode .dark 5) with pow := { live.pow with sleeping := true } }
      if !(decide (s.mode ≠ .sleep)) then false else
      if !(decide (s.pow.sleeping = true)) then false else
      if !(decide (s.railsOff = true)) then false else
      if !(decide (s.pow.wakeSrc = none)) then false else
      true) &&
    (let s : State := (inMode .sleep 0).setReg pgPWRDOM PD_CFG.off 0xFF
      let src : Fin 4 := 3
      if !(decide (s.mode = .sleep)) then false else
      if !(decide (bit (s.reg pgPWRDOM PD_CFG.off) (4 + src.val) = true)) then false else
      true)) = true := by
  decide +kernel

/-- States and operands that meet the hypotheses of TrimEndActions, clause by clause. -/
theorem witness_TrimEndActions : (
    (let s : State := (State.reset.fs SYS_STRAP_CFG 0x40)
      if !(decide (s.mode = .trim)) then false else
      if !(decide (s.pow.trimDone = false)) then false else
      if !(decide (s.presetDue = true)) then false else
      true) &&
    (let s : State := (State.reset.fs SYS_STRAP_CFG 0x100)
      let ack : BitVec 8 := 3
      if !(decide (s.mode = .trim)) then false else
      if !(decide (s.pow.trimDone = false)) then false else
      if !(decide (s.presetDue = false)) then false else
      if !(decide (s.probeDue = true)) then false else
      if !(decide ((s.fg TWI_STAT_STUCK = 1 ∨ ((List.range 8).filter (bit ack.toNat)).length < 3))) then false else
      true) &&
    (let s : State := trimDue
      let im : RetImage := ⟨[], []⟩
      if !(decide (s.mode = .trim)) then false else
      if !(decide (s.pow.trimDone = false)) then false else
      if !(decide (s.presetDue = false)) then false else
      if !(decide (s.probeDue = false)) then false else
      if !(decide (s.memReady = true)) then false else
      if !(decide (s.pow.image = some im)) then false else
      true) &&
    (let s : State := trimDone.setReg pgTRIM 0x00C 0x10000
      if !(decide (s.trimOver = true)) then false else
      true)) = true := by
  decide +kernel

/-- States and operands that meet the hypotheses of PowerDomains, clause by clause. -/
theorem witness_PowerDomains : (
    (let s : State := { live with pow := { live.pow with powering := [10] } }
      let d : Fin 11 := 10
      if !(decide (s.pow.powering.contains d.val = true)) then false else
      true) &&
    (let s : State := { live with pow := { live.pow with powering := [10] } }
      let d : Fin 11 := 10
      if !(decide (s.pow.powering.contains d.val = true)) then false else
      true) &&
    (let s : State := live
      if !(decide ((s.mode = .show ∨ s.mode = .service ∨ s.mode = .dark))) then false else
      true) &&
    (let s : State := live
      if !(decide ((s.mode = .show ∨ s.mode = .service))) then false else
      true)) = true := by
  decide +kernel

/-- States and operands that meet the hypotheses of OverTemperature, clause by clause. -/
theorem witness_OverTemperature : (
    (let s : State := live
      let k : Fin 16 := 15
      if !(decide (s.powered (State.stoneDomain k.val) = true)) then false else
      if !(decide (s.pow.shut = false)) then false else
      true) &&
    (let s : State := live.fs TH_STAT_DIEMAX 1920
      if !(decide (State.deg 120 ≤ sgn 16 (s.fg TH_STAT_DIEMAX))) then false else
      if !(decide (s.pow.shut = false)) then false else
      true) &&
    (let s : State := { live with pow := { live.pow with shutWait := some 7 } }
      let d : Nat := 7
      if !(decide ((s.mode = .show ∨ s.mode = .service))) then false else
      if !(decide (s.pow.shutWait = some d)) then false else
      if !(decide (s.nvWriting = false)) then false else
      true)) = true := by
  decide +kernel

/-- States and operands that meet the hypotheses of DebugCommands, clause by clause. -/
theorem witness_DebugCommands : (
    (let s : State := (own.fs DBG_SCOPE_SCOPE 31)
      let a : Access := spia
      let k : Fin 5 := 4
      match accepted s.begin_ a (regAddr pgDBG DBG_HALT.off) (putBits (s.fg DBG_HALT_HALT) k.val k.val 1) with
      | none => false
      | some (_, _, _, _, _) =>
      if !(decide (s.fg DBG_HALT_HALT = s.fg DBG_STAT_HALTED)) then false else
      if !(decide (bit (s.fg DBG_STAT_HALTED) k.val = false)) then false else
      if !(decide (bit (s.fg DBG_SCOPE_SCOPE) k.val = true)) then false else
      true) &&
    (let s : State := ((own.fs DBG_SCOPE_SCOPE 31).fs DBG_HALT_HALT 16).fs DBG_STAT_HALTED 16
      let a : Access := spia
      let k : Fin 5 := 4
      match accepted s.begin_ a (regAddr pgDBG DBG_HALT.off) (putBits (s.fg DBG_HALT_HALT) k.val k.val 0) with
      | none => false
      | some (_, _, _, _, _) =>
      if !(decide (s.fg DBG_HALT_HALT = s.fg DBG_STAT_HALTED)) then false else
      if !(decide (bit (s.fg DBG_STAT_HALTED) k.val = true)) then false else
      true) &&
    (let s : State := ((inMode .service 3).fs DBG_SCOPE_SCOPE 31)
      if !(decide (bit (s.fg DBG_SCOPE_SCOPE) 4 = true)) then false else
      if !(decide (s.mode = .service)) then false else
      if !(decide (enabledR s.regs pgSUPPLY = false)) then false else
      true) &&
    (let s : State := live
      if !(decide (s.powered 2 = true)) then false else
      if !(decide (bit (s.fg DBG_STAT_HALTED) 0 = false)) then false else
      true)) = true := by
  decide +kernel

/-- States and operands that meet the hypotheses of TenantCommands, clause by clause. -/
theorem witness_TenantCommands : (
    (let s : State := own.setTst 15 tENROLLED
      let a : Access := spia
      let n : Fin 16 := 15
      match accepted s.begin_ a (regAddr (pgTEN + n.val) TEN_CMD.off) 1 with
      | none => false
      | some (s1, _, _, _, _) =>
      if !(decide (s1.tst n.val ≠ tEMPTY)) then false else
      if !(decide (s1.tst n.val ≠ tRESETTING)) then false else
      true) &&
    (let s : State := own.setTst 15 tACTIVE
      let a : Access := spia
      let n : Fin 16 := 15
      match accepted s.begin_ a (regAddr (pgTEN + n.val) TEN_CMD.off) 2 with
      | none => false
      | some (s1, _, _, _, _) =>
      if !(decide (n.val ≠ 0)) then false else
      if !(decide (s1.tst n.val ≠ tEMPTY)) then false else
      if !(decide (s1.tst n.val ≠ tRESETTING)) then false else
      true) &&
    (let s : State := own
      let a : Access := spia
      match accepted s.begin_ a (regAddr (pgTEN + (0 : Fin 16).val) TEN_CMD.off) 2 with
      | none => false
      | some (s1, _, _, _, _) =>
      if !(decide (s1.tst 0 ≠ tEMPTY)) then false else
      true) &&
    (let s : State := own.setTst 15 tQUAR
      let a : Access := spia
      let n : Fin 16 := 15
      match accepted s.begin_ a (regAddr (pgTEN + n.val) TEN_CMD.off) 3 with
      | none => false
      | some (s1, _, _, _, _) =>
      if !(decide (s1.tst n.val = tQUAR)) then false else
      true) &&
    (let s : State := own.setTst 15 tENROLLED
      let a : Access := spia
      let n : Fin 16 := 15
      match accepted s.begin_ a (regAddr (pgTEN + n.val) TEN_CMD.off) 3 with
      | none => false
      | some (s1, _, _, _, _) =>
      if !(decide (s1.tst n.val ≠ tEMPTY)) then false else
      if !(decide (s1.tst n.val ≠ tQUAR)) then false else
      true) &&
    (let s : State := own.setTst 15 tENROLLED
      let a : Access := spia
      let n : Fin 16 := 15
      match accepted s.begin_ a (regAddr (pgTEN + n.val) TEN_RUN.off) 1 with
      | none => false
      | some (_, _, _, _, _) =>
      true) &&
    (let s : State := ((own.setTst 15 tACTIVE).fsi TEN_RUN_RUN_REQ 15 1)
      let a : Access := spia
      let n : Fin 16 := 15
      match accepted s.begin_ a (regAddr (pgTEN + n.val) TEN_RUN.off) 0 with
      | none => false
      | some (s1, _, _, _, _) =>
      if !(decide (n.val ≠ 0)) then false else
      if !(decide (s1.tst n.val = tACTIVE)) then false else
      true) &&
    (let s : State := (own.setTst 15 tACTIVE)
      let n : Fin 16 := 15
      if !(decide (s.tst n.val = tACTIVE)) then false else
      if !(decide (s.fab.access = true)) then false else
      true) &&
    (let s : State := live
      if !(decide (s.fab.access = true)) then false else
      true)) = true := by
  decide +kernel

/-- States and operands that meet the hypotheses of FramesReceived, clause by clause. -/
theorem witness_FramesReceived : (
    (let s : State := chain0
      let f : Frame := { frm 3 9 with dir := 1, typ := 3, etype := chain0.fg CH_ETYPE_ETYPE }
      if !(decide (2 ≤ f.port.val)) then false else
      if !(decide (s.passes f.port.val = true)) then false else
      if !(decide (s.passes (partner f.port.val) = true)) then false else
      if !(decide (f.fcsOk = true)) then false else
      if !(decide (f.etype = s.fg CH_ETYPE_ETYPE)) then false else
      if !(decide (f.etype ≠ 0)) then false else
      if !(decide (f.len ≤ s.fg CH_MAXFR_BYTES)) then false else
      if !(decide (f.hcrcOk = true)) then false else
      if !(decide (headerBad f = false)) then false else
      if !(decide (f.hop < 64)) then false else
      if !(decide (rangeOk f = true)) then false else
      true) &&
    (let s : State := chain0
      let f : Frame := { frm 0 9 with etype := 0x88F7 }
      if !(decide (f.etype = 0x88F7)) then false else
      if !(decide (s.passes f.port.val = true)) then false else
      if !(decide (s.passes (partner f.port.val) = true)) then false else
      if !(decide (f.fcsOk = true)) then false else
      if !(decide (portUsed s.role (partner f.port.val) = true)) then false else
      true) &&
    (let s : State := chain0
      let f : Frame := frm 0 7
      match s.begin_.rxDown f 7 with
      | (_, false) => false
      | (_, true) =>
      if !(decide (f.port.val < s.lnk.ports.length)) then false else
      true) &&
    (let s : State := withKey chain0
      let f : Frame := frm 0 6
      let key : Nat := 55
      match s.begin_.rxDown f 6 with
      | (_, false) => false
      | (s1, true) =>
      if !(decide (f.port.val = 0)) then false else
      if !(decide (key ≠ 0)) then false else
      if !(decide (((s1.chainKey 0 2).cur.any (fun x => x.2 == key) = true))) then false else
      true) &&
    (let s : State := withKey chain0
      let f : Frame := frm 0 6
      let key : Nat := 0
      match s.begin_.rxDown f 6 with
      | (_, false) => false
      | (_, true) =>
      if !(decide (f.port.val = 0)) then false else
      if !(decide (key = 0)) then false else
      true) &&
    (let s : State := chain0
      let f : Frame := { frm 0 1 with blen := 200, nrec := 1 }
      let recs : List FeedRec := [⟨5, 100, 0, [], 1⟩]
      let own : Nat := chain0.ownId.getD 0
      match s.begin_.rxHead f with
      | (_, false) => false
      | (s1, true) =>
      if !(decide (f.typ = 1)) then false else
      if !(decide (f.fcsOk = true)) then false else
      if !(decide (s1.ownId = some own)) then false else
      if !(decide (State.recsOver f recs = false)) then false else
      match State.ownRec own (recs.take f.nrec) with
      | none => false
      | some r =>
      if !(decide (f.port.val = s1.pathAct)) then false else
      if !(decide (1 ≤ r.slen)) then false else
      if !(decide (r.slen ≤ 8960)) then false else
      if !(decide ((s1.feedServed f.tenant.val = false ∨ State.ingressTakes f.ing (State.recBytes r) = false))) then false else
      true) &&
    (let s : State := { chain0 with fab := { chain0.fab with access := false } }
      let f : Frame := frm 0 2
      match s.begin_.rxDown f 2 with
      | (_, false) => false
      | (s1, true) =>
      if !(decide (s1.ownId = some f.first)) then false else
      if !(decide (mgmtRoom f = true)) then false else
      if !(decide (s1.fab.access = false)) then false else
      true) &&
    (let s : State := withKey ((act chain0 0 0).setTst 0 tRESETTING)
      let f : Frame := frm 0 2
      let key : Nat := 77
      match s.begin_.rxDown f 2 with
      | (_, false) => false
      | (s1, true) =>
      if !(decide (s1.ownId = some f.first)) then false else
      if !(decide (mgmtRoom f = true)) then false else
      if !(decide (s1.fab.access = true)) then false else
      if !(decide (bit (s1.fg DBG_STAT_HALTED) 0 = false)) then false else
      if !(decide (key ≠ 0)) then false else
      if !(decide ((s1.slotKeys f.tenant.val).mkey = key)) then false else
      if !(decide (s1.tst f.tenant.val = tRESETTING)) then false else
      if !(decide (s1.passes f.port.val = true)) then false else
      true) &&
    (let s : State := withKey (act chain0 0 0)
      let f : Frame := { frm 0 2 with seq := 1 }
      let key : Nat := 77
      match s.begin_.rxDown f 2 with
      | (_, false) => false
      | (s1, true) =>
      if !(decide (s1.ownId = some f.first)) then false else
      if !(decide (mgmtRoom f = true)) then false else
      if !(decide (s1.fab.access = true)) then false else
      if !(decide (bit (s1.fg DBG_STAT_HALTED) 0 = false)) then false else
      if !(decide (key ≠ 0)) then false else
      if !(decide ((s1.slotKeys f.tenant.val).mkey = key)) then false else
      if !(decide (s1.tst f.tenant.val = tACTIVE)) then false else
      if !(decide (s1.passes f.port.val = true)) then false else
      if !(decide (f.seq < 2 ^ 16)) then false else
      if !(decide (f.seq = (s1.fgi TEN_SEQ_HIGH f.tenant.val + 1) % 2 ^ 16)) then false else
      true)) = true := by
  decide +kernel

/-- States and operands that meet the hypotheses of PortCommands, clause by clause. -/
theorem witness_PortCommands : (
    (let s : State := (on live 0x23).fsi LNK_CFG_SPEED_REQ 3 1
      let p : Fin 4 := 3
      let g25 : Bool := true
      if !(decide (s.active (pgLNK + p.val) = true)) then false else
      if !(decide (s.locked p.val = false)) then false else
      if !(decide (s.fgi LNK_CFG_SPEED_REQ p.val = (if g25 = true then 1 else 2))) then false else
      if !(decide (s.fgi LNK_CFG_LPBK p.val = 0)) then false else
      true) &&
    (let s : State := hbAt (port live 3) 3
      let p : Fin 4 := 3
      if !(decide (s.active (pgLNK + p.val) = true)) then false else
      if !(decide (s.locked p.val = true)) then false else
      true) &&
    (let s : State := (on live 0x23).fsi LNK_CFG_SPEED_REQ 3 0
      let p : Fin 4 := 3
      if !(decide (s.active (pgLNK + p.val) = true)) then false else
      if !(decide (s.locked p.val = false)) then false else
      if !(decide (s.fgi LNK_CFG_SPEED_REQ p.val = 0)) then false else
      true) &&
    (let s : State := (on live 0x23).fsi LNK_CFG_SPEED_REQ 3 1
      let p : Fin 4 := 3
      if !(decide (s.active (pgLNK + p.val) = true)) then false else
      if !(decide (s.locked p.val = false)) then false else
      if !(decide (s.fgi LNK_CFG_SPEED_REQ p.val = 1)) then false else
      true) &&
    (let s : State := port live 3
      let p : Fin 4 := 3
      if !(decide (s.active (pgLNK + p.val) = true)) then false else
      true) &&
    (let s : State := hbAt (port live 3) 3
      let p : Fin 4 := 3
      if !(decide (s.hbOk p.val = true)) then false else
      true) &&
    (let s : State := hbAt ((chain0.fs CH_PATH_AUTOSW 1).fs CH_PATH_REVERT 100 |>.fs CH_PATH_PATH_ACT 1) 0
      if !(decide (s.fg CH_PATH_AUTOSW = 1)) then false else
      if !(decide (s.fg CH_PATH_REVERT ≠ 0)) then false else
      if !(decide (s.pathAct ≠ s.fg CH_PATH_PATH_REQ)) then false else
      if !(decide (s.hbOk (s.fg CH_PATH_PATH_REQ) = true)) then false else
      true)) = true := by
  decide +kernel

/-- States and operands that meet the hypotheses of SpiaFrames, clause by clause. -/
theorem witness_SpiaFrames : (
    (let s : State := sp1
      if !(decide (s.fg SPIA_CFG_ROLE = 0)) then false else
      if !(decide (s.fg SPIA_CFG_CHAIN = 0)) then false else
      if !(decide (s.mode ≠ .sleep)) then false else
      if !(decide (s.fg SYS_SPIA_EN = 1)) then false else
      if !(decide (s.fg SPIA_CFG_WAIT = 0)) then false else
      match grantAccess s.begin_ s.spiaBy (regAddr pgSYS SYS_SCRATCH.off) with
      | .error _ => false
      | .ok (s1, w) =>
      if !(decide (mayReadR s1.regs w pgSYS = true)) then false else
      true) &&
    (let s : State := sp1
      let v : Word := 0xFFFFFFFF
      if !(decide (s.fg SPIA_CFG_ROLE = 0)) then false else
      if !(decide (s.fg SPIA_CFG_CHAIN = 0)) then false else
      if !(decide (s.mode ≠ .sleep)) then false else
      if !(decide (s.fg SYS_SPIA_EN = 1)) then false else
      match accepted s.begin_ s.spiaBy (regAddr pgSYS SYS_SCRATCH.off) v.toNat with
      | none => false
      | some (_, _, _, _, _) =>
      true) &&
    (let s : State := sp1
      let v : Word := 0xFFFFFFFF
      if !(decide (s.fg SPIA_CFG_ROLE = 0)) then false else
      if !(decide (s.fg SPIA_CFG_CHAIN = 0)) then false else
      if !(decide (s.mode ≠ .sleep)) then false else
      if !(decide (s.fg SYS_SPIA_EN = 1)) then false else
      match accepted s.begin_ s.spiaBy (regAddr pgSYS SYS_SCRATCH.off) v.toNat with
      | none => false
      | some (_, _, _, _, _) =>
      true) &&
    (let s : State := sp1
      if !(decide (s.fg SPIA_CFG_ROLE = 0)) then false else
      if !(decide (s.fg SPIA_CFG_CHAIN = 0)) then false else
      if !(decide (s.mode ≠ .sleep)) then false else
      if !(decide (s.fg SYS_SPIA_EN = 1)) then false else
      match grantAccess s.begin_ s.spiaBy (regAddr pgSYS 0) with
      | .error _ => false
      | .ok (_, _) =>
      true) &&
    (let s : State := sp1
      if !(decide (s.fg SPIA_CFG_ROLE = 0)) then false else
      if !(decide (s.fg SPIA_CFG_CHAIN = 0)) then false else
      if !(decide (s.mode ≠ .sleep)) then false else
      if !(decide (s.fg SYS_SPIA_EN = 1)) then false else
      true) &&
    (let s : State := recv
      let x : Piece := pc0
      if !(decide (s.fg SPIA_CFG_ROLE = 0)) then false else
      if !(decide (s.fg SPIA_CFG_CHAIN = 0)) then false else
      if !(decide (s.mode ≠ .sleep)) then false else
      if !(decide (s.fg SYS_SPIA_EN = 1)) then false else
      if !(decide (x.len ≤ 4096)) then false else
      match grantAccess s.begin_ s.spiaBy (regAddr pgUPD 0) with
      | .error _ => false
      | .ok (s1, w) =>
      if !(decide (s1.pieceFail w true (some (32 + x.len)) x = none)) then false else
      if !(decide (s1.pieceGot x.index = false)) then false else
      if !(decide ((s1.upd.queue.any fun q => q.index == x.index) = false)) then false else
      true) &&
    (let s : State := (sp1.fs SYS_SPIA_EN 0)
      if !(decide (s.fg SPIA_CFG_ROLE = 0)) then false else
      if !(decide (s.mode ≠ .sleep)) then false else
      if !(decide (s.fg SPIA_CFG_CHAIN = 0)) then false else
      if !(decide (s.spiaOff = true)) then false else
      true) &&
    (let s : State := sp1
      if !(decide (s.fg SPIA_CFG_ROLE = 0)) then false else
      if !(decide (s.mode ≠ .sleep)) then false else
      if !(decide (s.fg SPIA_CFG_CHAIN = 0)) then false else
      if !(decide (s.fg SYS_SPIA_EN = 1)) then false else
      true) &&
    (let s : State := sp1
      let v : Word := 7
      if !(decide (s.fg SPIA_CFG_ROLE = 0)) then false else
      if !(decide (s.mode ≠ .sleep)) then false else
      if !(decide (s.fg SPIA_CFG_CHAIN = 0)) then false else
      if !(decide (s.fg SYS_SPIA_EN = 1)) then false else
      match accepted s.begin_ s.spiaBy (regAddr pgSYS SYS_SCRATCH.off) v.toNat with
      | none => false
      | some (_, _, _, _, _) =>
      true) &&
    (let s : State := sp1.fs SPIA_CFG_CHAIN 1
      let d : Nat := 254
      if !(decide (s.fg SPIA_CFG_CHAIN = 1)) then false else
      if !(decide (s.spiaMaster = false)) then false else
      if !(decide (s.mode ≠ .sleep)) then false else
      if !(decide (d ≠ 0xFF)) then false else
      if !(decide (d ≠ s.fg SPIA_CFG_POS)) then false else
      true) &&
    (let s : State := sp1.fs SPIA_CFG_ROLE 1
      if !(decide (s.fg SPIA_CFG_ROLE = 1)) then false else
      if !(decide (s.loader = false)) then false else
      if !(decide (s.mode ≠ .sleep)) then false else
      true)) = true := by
  decide +kernel

/-- States and operands that meet the hypotheses of PtpMessages, clause by clause. -/
theorem witness_PtpMessages : (
    (let s : State := ptp0
      let m : PtpMsg := pm 0
      if !(decide (s.passes m.port.val = true)) then false else
      if !(decide (m.twoStep = false)) then false else
      if !(decide (-7 ≤ m.logInt)) then false else
      if !(decide (m.logInt ≤ 0)) then false else
      if !(decide (s.ptpMine m = true)) then false else
      true) &&
    (let s : State := ptp0
      let m : PtpMsg := { pm 0 with twoStep := true, logInt := -7 }
      if !(decide (s.passes m.port.val = true)) then false else
      if !(decide (m.twoStep = true)) then false else
      if !(decide (-7 ≤ m.logInt)) then false else
      if !(decide (m.logInt ≤ 0)) then false else
      if !(decide (s.ptpMine m = true)) then false else
      true) &&
    (let s : State := ptp0
      let m : PtpMsg := { pm 3 with logInt := 1 }
      if !(decide (s.passes m.port.val = true)) then false else
      if !(decide (m.domain = s.fg PTP_CFG_DOMAIN)) then false else
      if !(decide (0 < m.logInt)) then false else
      true) &&
    (let s : State := { ptp0 with tim := { ptp0.tim with twoStep := some { pm 0 with twoStep := true } } }
      let m : PtpMsg := pm 0
      if !(decide (s.passes m.port.val = true)) then false else
      match s.tim.twoStep with
      | none => false
      | some y =>
      if !(decide (s.ptpMine m = true)) then false else
      if !(decide (y.port = m.port)) then false else
      if !(decide (y.seq = m.seq)) then false else
      true) &&
    (let s : State := ptp0
      if !(decide (s.servo ≠ 0)) then false else
      if !(decide (s.passes 0 = true)) then false else
      if !(decide (s.passes 1 = true)) then false else
      true) &&
    (let s : State := ptp0
      let m : PtpMsg := { pm 3 with domain := 5 }
      if !(decide (s.passes m.port.val = true)) then false else
      if !(decide (m.domain ≠ s.fg PTP_CFG_DOMAIN)) then false else
      true) &&
    (let s : State := ptp0
      let m : PtpMsg := pm 3
      if !(decide (s.passes m.port.val = true)) then false else
      if !(decide (m.domain = s.fg PTP_CFG_DOMAIN)) then false else
      true) &&
    (let s : State := { ptp0 with tim := { ptp0.tim with pdSent := [none, some 31999990000], pdSeq := 0 } }
      let m : PtpMsg := pm 1
      let t2 : Nat := 10000
      let t3 : Nat := 10000
      if !(decide (s.passes m.port.val = true)) then false else
      if !(decide (m.port.val < 2)) then false else
      if !(decide (s.servo ≠ 0)) then false else
      match nth s.tim.pdSent m.port.val none with
      | none => false
      | some t1 =>
      if !(decide (m.seq % 65536 = s.tim.pdSeq % 65536)) then false else
      if !(decide (m.domain = s.fg PTP_CFG_DOMAIN)) then false else
      if !(decide ((((m.at_ : Int) - t1) - ((t3 : Int) - t2) - m.correction) % 2 = 0)) then false else
      true) &&
    (let s : State := { ptp0 with tim := { ptp0.tim with gm := none } }
      let m : PtpMsg := pm 0
      if !(decide (s.passes m.port.val = true)) then false else
      if !(decide (s.servo ≠ 0)) then false else
      if !(decide (m.port.val = s.pathAct)) then false else
      if !(decide (m.domain = s.fg PTP_CFG_DOMAIN)) then false else
      if !(decide (s.tim.gm = none)) then false else
      true) &&
    (let s : State := ptp0
      let m : PtpMsg := pm 3
      if !(decide (s.passes m.port.val = true)) then false else
      true) &&
    (let s : State := ptp0
      if !(decide (s.servo = 2)) then false else
      true) &&
    (let s : State := ptp0.fs PTP_STAT_STATE 3
      if !(decide (s.servo = 3)) then false else
      true) &&
    (let s : State := ptp0.fs PTP_STAT_STATE 4
      if !(decide (s.servo = 4)) then false else
      true)) = true := by
  decide +kernel

/-- States and operands that meet the hypotheses of TimebaseCommands, clause by clause. -/
theorem witness_TimebaseCommands : (
    (let s : State := (withKey ((act chain0 0 0).fsi TEN_STATE_ROLE 0 5)).fs TIME_STAT_STATE 1 |>.fs PTP_STAT_WT_VALID 1
      let f : Frame := { frm 0 5 with first := 0 }
      let b : Beat := ⟨2, 500000, 2, 0, true, 0⟩
      let own : Nat := 5
      match s.begin_.rxDown f 5 with
      | (_, false) => false
      | (s1, true) =>
      if !(decide (s1.ownId = some own)) then false else
      if !(decide (f.first ≤ own)) then false else
      if !(decide (own ≤ f.last)) then false else
      if !(decide (s1.keyOk f.tenant.val 1 f.dcn b.key = false)) then false else
      true) &&
    (let s : State := (withKey ((act chain0 0 0).fsi TEN_STATE_ROLE 0 5)).fs TIME_STAT_STATE 1 |>.fs PTP_STAT_WT_VALID 1
      let f : Frame := { frm 0 5 with first := 0 }
      let b : Beat := ⟨2, 500000, 2, 0, true, 54⟩
      let own : Nat := 5
      match s.begin_.rxDown f 5 with
      | (_, false) => false
      | (s1, true) =>
      if !(decide (s1.ownId = some own)) then false else
      if !(decide (f.first ≤ own)) then false else
      if !(decide (own ≤ f.last)) then false else
      if !(decide (s1.keyOk f.tenant.val 1 f.dcn b.key = true)) then false else
      if !(decide (roleR s1.regs f.tenant.val = roleTiming)) then false else
      if !(decide (nth s1.tim.lastF f.tenant.val 0 ≤ f.fctr)) then false else
      if !(decide (s1.wtValid = true)) then false else
      if !(decide ((((s1.wall : Nat) : Int) - (State.beatTime b.tsSec b.tsNs : Nat)).natAbs ≤ s1.fg TIME_LOCK_SUSP * Config.us)) then false else
      if !(decide ((100 * Config.us : Nat) ≤ ((State.beatTime b.tSec b.tNs : Nat) : Int) - s1.wall)) then false else
      if !(decide (((State.beatTime b.tSec b.tNs : Nat) : Int) - s1.wall ≤ (Config.sec : Nat))) then false else
      if !(decide (s1.gen = 1)) then false else
      if !(decide (s1.tim.held = [])) then false else
      true) &&
    (let s : State := { cyc with tim := { cyc.tim with holdEnd := some 33000000000 } }.fs TIME_STAT_STATE 3
      let e : Nat := 33000000000
      if !(decide (s.tim.holdEnd = some e)) then false else
      if !(decide (s.gen = 3)) then false else
      if !(decide (s.fg TIME_LOCK_FALLBACK = 0)) then false else
      true) &&
    (let s : State := ({ cyc with tim := { cyc.tim with holdEnd := some 33000000000 } }.fs TIME_STAT_STATE 3).fs TIME_LOCK_FALLBACK 1
      let e : Nat := 33000000000
      if !(decide (s.tim.holdEnd = some e)) then false else
      if !(decide (s.gen = 3)) then false else
      if !(decide (s.fg TIME_LOCK_FALLBACK ≠ 0)) then false else
      if !(decide (s.masked pgTIME 2 = false)) then false else
      if !(decide ((s.mode = .show ∨ s.mode = .service))) then false else
      true) &&
    (let s : State := cyc
      if !(decide (s.fg TIME_STAT_PLL_LOCK = 1)) then false else
      if !(decide ((s.mode = .show ∨ s.mode = .service))) then false else
      true) &&
    (let s : State := (on live 0x26).fs TIME_STAT_STATE 0
      if !(decide (s.gen = 0)) then false else
      if !(decide (s.active pgTIME = true)) then false else
      true) &&
    (let s : State := (cyc.fs TIME_PPS_EN 1)
      if !(decide (s.wtValid = true)) then false else
      if !(decide (s.fg TIME_PPS_EN = 1)) then false else
      if !(decide (s.gen ≠ 0)) then false else
      if !(decide (s.gen ≠ 3)) then false else
      true)) = true := by
  decide +kernel

/-- States and operands that meet the hypotheses of SpansAndCycles, clause by clause. -/
theorem witness_SpansAndCycles : (
    (let s : State := live
      if !(decide (s.mode ≠ .sleep)) then false else
      if !(decide (s.tim.running = false)) then false else
      if !(decide (s.fab.starting = [])) then false else
      if !(decide (s.fab.stopping = [])) then false else
      if !(decide (s.fab.resetting = [])) then false else
      if !(decide (s.fab.fks = [])) then false else
      if !(decide (s.pow.req = none)) then false else
      if !(decide (s.pow.sleeping = false)) then false else
      true) &&
    (let s : State := cyc
      if !(decide (s.mode ≠ .sleep)) then false else
      if !(decide (s.tim.running = true)) then false else
      match s.nextCycle with
      | none => false
      | some c =>
      if !(decide (s.scan.startAt + s.spanLen < c.g)) then false else
      if !(decide (s.fab.starting = [])) then false else
      if !(decide (s.fab.stopping = [])) then false else
      if !(decide (s.fab.resetting = [])) then false else
      if !(decide (s.fab.fks = [])) then false else
      true) &&
    (let s : State := inMode .sleep 0
      if !(decide (s.mode = .sleep)) then false else
      true) &&
    (let s : State := { cyc with tim := { cyc.tim with running := false } };
      match s.nextCycle with
      | none => false
      | some _ =>
      if !(decide (s.tim.running = false)) then false else
      if !(decide (s.fab.starting = [])) then false else
      if !(decide (s.fab.stopping = [])) then false else
      if !(decide (s.fab.resetting = [])) then false else
      if !(decide (s.fab.fks = [])) then false else
      if !(decide (s.pow.req = none)) then false else
      if !(decide (s.pow.sleeping = false)) then false else
      true) &&
    (let s : State := live.fs TIME_STAT_STATE 0
      if !(decide (s.nextCycle = none)) then false else
      true)) = true := by
  decide +kernel

/-- States and operands that meet the hypotheses of PicturePipeline, clause by clause. -/
theorem witness_PicturePipeline : (
    (let s : State := { arr with patts := modAt arr.patts 15 fun p => { p with rendering := true } }
      let e : Fin 16 := 15
      if !(decide ((s.patt e.val).rendering = true)) then false else
      if !(decide (s.halfServes (decide (8 ≤ e.val)) = true)) then false else
      if !(decide ((s.patt e.val).overrun = false)) then false else
      true) &&
    (let s : State := jstart.fsk WIN_SWP_SWEEPS 0 15 1
      let r : Rel := ⟨15, true, false, none⟩
      if !(decide (s.nextRel = some r)) then false else
      if !(decide (s.winOn r.win = true)) then false else
      if !(decide (s.active pgWIRE = true)) then false else
      if !(decide (s.arrayServes = true)) then false else
      if !(decide (s.blendFirst = false)) then false else
      if !(decide (s.planUnits ≤ s.unitsFree.length)) then false else
      true) &&
    (let s : State := jobs true
      let k : Nat := 1
      let r : JobResult := jr
      if !(decide (s.arrayServes = true)) then false else
      match s.pix.jobs[k]? with
      | none => false
      | some j =>
      if !(decide (j.audit = none)) then false else
      if !(decide (r.dbe = [])) then false else
      if !(decide ((s.spotCheck j.inp.wire.lamps j.serial (s.sliceEngines j.inp.wire.lamps r.engines []) r.spots).1 = 0)) then false else
      if !(decide (j.drop = true)) then false else
      true) &&
    (let s : State := jobs false
      let k : Nat := 1
      let r : JobResult := jr
      if !(decide (s.arrayServes = true)) then false else
      match s.pix.jobs[k]? with
      | none => false
      | some j =>
      if !(decide (j.audit = none)) then false else
      if !(decide (r.dbe = [])) then false else
      if !(decide ((s.spotCheck j.inp.wire.lamps j.serial (s.sliceEngines j.inp.wire.lamps r.engines []) r.spots).1 = 0)) then false else
      if !(decide (j.drop = false)) then false else
      if !(decide (s.missedNow j.win j.inp = false)) then false else
      true) &&
    (let s : State := ({ arr with scan := { arr.scan with inCycle := true } }.fs CORR_STAT_BLEND 1)
      let engines : List Nat := []
      let spots : List Spot := []
      if !(decide (s.blendState = 1)) then false else
      if !(decide (s.arrayServes = true)) then false else
      if !(decide ((s.spotCheck s.wmap.lamps s.blend.serial (s.sliceEngines s.wmap.lamps engines []) spots).1 = 0)) then false else
      if !(decide ((∀ j ∈ s.pix.jobs, s.blend.swaps ≤ j.inp.copy))) then false else
      if !(decide (s.scan.inCycle = true)) then false else
      if !(decide (s.blend.fast = false)) then false else
      true) &&
    (let s : State := (arr.fs CORR_STAT_BLEND 3)
      if !(decide (s.blendState = 3)) then false else
      if !(decide (s.bothServe = true)) then false else
      if !(decide (s.setsLoaded = true)) then false else
      true) &&
    (let s : State := { arr with field := { arr.field with refreshAt := 40000000000, sampleAt := 40000000001 } }
      if !(decide (s.refreshDue = true)) then false else
      if !((List.range 48).all (fun k => decide (s.sensorOn k = false))) then false else
      if !((List.range 48).all (fun k => decide (s.sensorValid k = false))) then false else
      true)) = true := by
  decide +kernel

/-- States and operands that meet the hypotheses of EnginesAndSensors, clause by clause. -/
theorem witness_EnginesAndSensors : (
    (let s : State := own
      let a : Access := spia
      let h : Fin 2 := 1
      let v : Word := 0xFFFFFFFF
      match accepted s.begin_ a (regAddr pgPIX (if h = 0 then PIX_RET_A.off else PIX_RET_B.off)) v.toNat with
      | none => false
      | some (_, _, _, _, _) =>
      true) &&
    (let s : State := live.setReg pgTFIELD TF_SFAIL0.off 0xFF
      let a : Access := mg
      let h : Fin 2 := 0
      let v : Word := 0x0F
      match accepted s.begin_ a (regAddr pgTFIELD (if h = 0 then TF_SFAIL0.off else TF_SFAIL1.off)) v.toNat with
      | none => false
      | some (_, _, _, _, _) =>
      true) &&
    (let s : State := inMode .service 3
      let a : Access := mg
      let k : Fin 4 := 3
      let v : Word := 5
      match accepted s.begin_ a (regAddr pgEDGE (EDGE_OVR_CTRL.off + 4 * k.val)) v.toNat with
      | none => false
      | some (s1, w, _, o, _) =>
      if !(decide (s1.overrideFail w pgEDGE o v.toNat = none)) then false else
      true) &&
    (let s : State := live
      let a : Access := mg
      match accepted s.begin_ a (regAddr pgADMIT ADM_CMD.off) 1 with
      | none => false
      | some (_, _, _, _, _) =>
      true) &&
    (let s : State := live
      let v : Int := -640
      if !(decide (s.pow.trimDone = true)) then false else
      if !(decide (s.mode = .show)) then false else
      if !(decide (s.boardOn = false)) then false else
      if !(decide (s.field.queued = none)) then false else
      if !(decide (-640 ≤ v)) then false else
      if !(decide (v < 1200)) then false else
      if !(decide (v < State.deg (s.fg TH_CFG_WARN))) then false else
      if !(decide (v < State.deg (s.fg TH_CFG_DERATE))) then false else
      if !(decide (v < State.deg (s.fg TH_STONE_DARK))) then false else
      if !(decide (s.fg TH_BCFG_BDERATE = 0)) then false else
      true) &&
    (let s : State := { live with field := { live.field with queued := some (List.replicate 16 (some 400)) } };
      match s.field.queued with
      | none => false
      | some _ =>
      if !(decide (s.ser.twiX = none)) then false else
      true)) = true := by
  decide +kernel

/-- States and operands that meet the hypotheses of HealthCommands, clause by clause. -/
theorem witness_HealthCommands : (
    (let s : State := live
      let a : Access := mg
      let v : Nat := 0x20005
      match accepted s.begin_ a (regAddr pgWIRE WIRE_QSEL.off) (v % 2 ^ 18) with
      | none => false
      | some (_, _, _, _, _) =>
      true) &&
    (let s : State := live
      let a : Access := mg
      let v : Nat := 0x3FFFF
      match accepted s.begin_ a (regAddr pgHEALTH HEALTH_QSEL.off) (v % 2 ^ 18) with
      | none => false
      | some (_, _, _, _, _) =>
      true) &&
    (let s : State := live
      let a : Access := mg
      let v : Nat := 1023
      match accepted s.begin_ a (regAddr pgHEALTH HEALTH_LSEL.off) (v % 2 ^ 10) with
      | none => false
      | some (_, _, _, _, _) =>
      true) &&
    (let s : State := live
      let a : Access := mg
      match accepted s.begin_ a (regAddr pgHEALTH HEALTH_CMD.off) 1 with
      | none => false
      | some (_, _, _, _, _) =>
      true) &&
    (let s : State := live
      let a : Access := mg
      match accepted s.begin_ a (regAddr pgHEALTH HEALTH_CMD.off) 2 with
      | none => false
      | some (_, _, _, _, _) =>
      true) &&
    (let s : State := live
      let a : Access := mg
      let v : Nat := 65535
      match accepted s.begin_ a (regAddr pgRDBK RB_CLR.off) (v % 2 ^ 16) with
      | none => false
      | some (_, _, _, _, _) =>
      true) &&
    (let s : State := { live with sense := { live.sense with busy := true, tagLeft := 2 } }
      if !(decide (s.sense.busy = true)) then false else
      if !(decide (s.sense.tagLeft ≠ 0)) then false else
      if !(decide (pgSENSE ∉ s.fab.stopping)) then false else
      true) &&
    (let s : State := { live with sense := { live.sense with busy := true, entry := 31 } }
      if !(decide (s.sense.busy = true)) then false else
      if !(decide (s.sense.tagLeft = 0)) then false else
      if !(decide (s.sense.codes = [])) then false else
      if !(decide (s.sense.last = none)) then false else
      if !(decide (s.sense.entry < 32)) then false else
      true)) = true := by
  decide +kernel

/-- States and operands that meet the hypotheses of SupplyPhases, clause by clause. -/
theorem witness_SupplyPhases : (
    (let s : State := ph (on live 0x98) 7 fun p => { p with due := true }
      let n : Fin 8 := 7
      if !(decide (s.active (pgPHASE + n.val) = true)) then false else
      if !(decide (s.powered 10 = true)) then false else
      if !(decide (s.sup.halt = false)) then false else
      if !(decide ((s.phase n.val).st ≠ 1)) then false else
      if !(decide ((s.phase n.val).due = true)) then false else
      if !(decide ((s.phase n.val).evAt = none)) then false else
      if !(decide (n.val < s.sup.phases.length)) then false else
      true) &&
    (let s : State := ph ((on live 0x98).fs SUP_CFG_LOCK 0) 7 fun p => { p with st := 1, failRun := 14 }
      let n : Fin 8 := 7
      if !(decide (s.active (pgPHASE + n.val) = true)) then false else
      if !(decide (s.powered 10 = true)) then false else
      if !(decide (s.sup.halt = false)) then false else
      if !(decide ((s.phase n.val).st = 1)) then false else
      if !(decide ((s.phase n.val).due = false)) then false else
      if !(decide ((s.phase n.val).failRun < 15)) then false else
      if !(decide (s.fg SUP_CFG_LOCK = 0)) then false else
      if !(decide ((s.phase n.val).gridFrom (((s.phase n.val).hold).getD s.stageRef) (s.nextZero n.val) = s.nextZero n.val)) then false else
      true) &&
    (let s : State := live
      let a : Access := mg
      match accepted s.begin_ a (regAddr pgSUPPLY LOAD_ALL.off) 1 with
      | none => false
      | some (s1, _, _, _, _) =>
      if !(decide (s1.sup.phases.length = 8)) then false else
      true) &&
    (let s : State := (ph live 7 fun p => { p with st := 1, hg := true, per := 20000, zeroAt := 32000000000 }).fsi PH_TRIP_N 7 2
      let n : Fin 8 := 7
      let mv : Nat := 70000
      let g : Nat := 7000
      let v : GateLv := (s.phase n.val).gates (max s.now ((s.phase n.val).zeroAt + g))
      if !(decide (v.hg = true)) then false else
      if !(decide (v.hgAt + 32 * s.fgi PH_TRIP_LEB n.val ≤ max s.now ((s.phase n.val).zeroAt + g))) then false else
      if !(decide (s.fgi PH_TRIP_THR n.val < mv)) then false else
      if !(decide ((s.phase n.val).st = 1)) then false else
      if !(decide ((s.phase n.val).trippedNow = false)) then false else
      if !(decide ((s.phase n.val).tripCount + 1 < s.fgi PH_TRIP_N n.val)) then false else
      true) &&
    (let s : State := (ph live 7 fun p => { p with st := 1, hg := true, per := 20000, zeroAt := 32000000000 }).fsi PH_TRIP_N 7 1
      let n : Fin 8 := 7
      let mv : Nat := 70000
      let g : Nat := 7000
      let v : GateLv := (s.phase n.val).gates (max s.now ((s.phase n.val).zeroAt + g))
      if !(decide (v.hg = true)) then false else
      if !(decide (v.hgAt + 32 * s.fgi PH_TRIP_LEB n.val ≤ max s.now ((s.phase n.val).zeroAt + g))) then false else
      if !(decide (s.fgi PH_TRIP_THR n.val < mv)) then false else
      if !(decide ((s.phase n.val).st = 1)) then false else
      if !(decide ((s.phase n.val).trippedNow = false)) then false else
      if !(decide (s.fgi PH_TRIP_N n.val ≤ (s.phase n.val).tripCount + 1)) then false else
      true) &&
    (let s : State := live
      let k : Fin 2 := 1
      if !(decide ((s.railPhases k.val fun n => (s.phase n).st == 1) = [])) then false else
      true) &&
    (let s : State := (ph { live with sup := { live.sup with rails := modAt live.sup.rails 0 fun r => { r with st := 2 } } } 7 fun p => { p with st := 1, evAt := some (32000000001, true) })
      let k : Fin 2 := 0
      match ((s.railPhases k.val fun n => (s.phase n).st == 1)) with
      | [] => false
      | n :: _ =>
      match (s.phase n).evAt with
      | none => false
      | some (_, _) =>
      if !(decide ((s.rail k.val).st = 2)) then false else
      true) &&
    (let s : State := (inMode .service 3).fs SUP_CFG_PRESENT 1
      let a : Access := mg
      let n : Fin 8 := 7
      let v : Word := 0x7FF8
      match accepted s.begin_ a (regAddr (pgPHASE + n.val) PH_TEST.off) v.toNat with
      | none => false
      | some (s1, _, _, _, _) =>
      if !(decide (s1.mode = .service)) then false else
      if !(decide (enabledR s1.regs pgSUPPLY = false)) then false else
      if !(decide ((bit v.toNat 0 && bit v.toNat 1 && bit v.toNat 2) = false)) then false else
      if !(decide (n.val < s1.sup.phases.length)) then false else
      true)) = true := by
  decide +kernel

/-- States and operands that meet the hypotheses of SupplyRails, clause by clause. -/
theorem witness_SupplyRails : (
    (let s : State := (on (on live 0x90) 0x91).fs SUP_CFG_PRESENT 1 |>.fsi PH_RUN_RUN_REQ 0 1
      let k : Fin 2 := 0
      if !(decide (s.startsFrom k.val = true)) then false else
      if !(decide (k.val < s.sup.rails.length)) then false else
      true) &&
    (let s : State := (fun s : State => { s with sup := { s.sup with rails := modAt s.sup.rails 0 fun r => { r with ask := some 3000 } } }) ((on (on live 0x90) 0x91).fs SUP_CFG_PRESENT 1 |>.fsi PH_RUN_RUN_REQ 0 1)
      let k : Fin 2 := 0
      let mv : Nat := 3000
      if !(decide ((s.rail k.val).ask = some mv)) then false else
      if !(decide ((s.rail k.val).st = 0)) then false else
      if !(decide (s.railMayStart k.val = true)) then false else
      if !(decide (s.pow.pdReq = s.reg pgPWRDOM PD_REQ.off)) then false else
      if !(decide (s.mode ≠ .sleep)) then false else
      if !(decide (s.tim.running = false)) then false else
      if !(decide (s.fab.starting = [])) then false else
      if !(decide (s.fab.stopping = [])) then false else
      if !(decide (s.fab.resetting = [])) then false else
      if !(decide (s.fab.fks = [])) then false else
      if !(decide (s.pow.req = none)) then false else
      if !(decide (s.pow.sleeping = false)) then false else
      true) &&
    (let s : State := rail live 1 1
      let k : Fin 2 := 1
      let mv : Nat := (railCfg (rail live 1 1).regs 1).vmin * 10 - 50
      if !(decide ((s.rail k.val).st = 1)) then false else
      if !(decide (mv ≤ (railCfg s.regs k.val).vmin * 10 + 50)) then false else
      if !(decide ((railCfg s.regs k.val).vmin * 10 ≤ mv + 50)) then false else
      true) &&
    (let s : State := rail live 1 1
      let k : Fin 2 := 1
      if !(decide ((s.rail k.val).st = 1)) then false else
      true) &&
    (let s : State := rail live 1 3
      let k : Fin 2 := 1
      if !(decide ((s.rail k.val).st = 3)) then false else
      true) &&
    (let s : State := rail live 1 2
      let k : Fin 2 := 1
      let fb : Nat := 9000
      if !(decide (10 * ((railCfg s.regs k.val).vmax + s.fg SUP_PROT_OVM) < 8 * fb)) then false else
      true) &&
    (let s : State := (rail live 1 2).fs SUP_RAILB_V_VMIN 400
      let k : Fin 2 := 1
      let fb : Nat := 0
      if !(decide ((s.rail k.val).st = 2)) then false else
      if !(decide (8 * fb + 10 * s.fg SUP_PROT_UVM < 10 * (railCfg s.regs k.val).vmin)) then false else
      true) &&
    (let s : State := live
      if !(decide (s.powered 10 = true)) then false else
      if !(decide (s.mode ≠ .trim)) then false else
      if !(decide (s.mode ≠ .sleep)) then false else
      true)) = true := by
  decide +kernel

/-- States and operands that meet the hypotheses of TrimCommands, clause by clause. -/
theorem witness_TrimCommands : (
    (let s : State := { State.reset with trim := { State.reset.trim with blocks := [some (jrec 0xFFFFFFFF), some (jrec 0)] } }
      if !(decide (s.mode = .trim)) then false else
      if !(decide (s.trim.active = false)) then false else
      match nth s.trim.blocks 0 none with
      | none => false
      | some _ =>
      match nth s.trim.blocks 1 none with
      | none => false
      | some _ =>
      true) &&
    (let s : State := State.reset
      if !(decide (s.mode = .trim)) then false else
      if !(decide (s.trim.active = false)) then false else
      if !(decide (nth s.trim.blocks 0 none = none)) then false else
      if !(decide (nth s.trim.blocks 1 none = none)) then false else
      true) &&
    (let s : State := { State.reset with trim := { State.reset.trim with active := true } }
      let m : Option TrimMeas := some { tm0 with taps := [16383] }
      if !(decide (s.mode = .trim)) then false else
      if !(decide (s.trim.active = true)) then false else
      if !(decide ((m.bind trimValues) = none)) then false else
      true) &&
    (let s : State := { State.reset with trim := { State.reset.trim with active := true } }
      let m : TrimMeas := { tm0 with taps := [16384] }
      if !(decide (s.trim.active = true)) then false else
      match trimValues m with
      | none => false
      | some _ =>
      true) &&
    (let s : State := { live with trim := { live.trim with wanted := some (jrec 3), used := some 1, blocks := [none, some (jrec 2)] } }
      let r : JRec := jrec 3
      let old : JRec := jrec 2
      let j : Nat := 1
      if !(decide (s.trim.wanted = some r)) then false else
      if !(decide (s.mode ≠ .trim)) then false else
      if !(decide (s.trim.writing = none)) then false else
      if !(decide (s.pow.vddLow = false)) then false else
      if !(decide (s.pow.shut = false)) then false else
      if !(decide (s.dieNow ≤ 1840)) then false else
      if !(decide (s.trim.used = some j)) then false else
      if !(decide (nth s.trim.blocks j none = some old)) then false else
      true) &&
    (let s : State := { live with trim := { live.trim with wanted := some (jrec 3) } }.fs TH_STAT_DIEMAX 1841;
      match s.trim.wanted with
      | none => false
      | some _ =>
      if !(decide (s.mode ≠ .trim)) then false else
      if !(decide (s.trim.writing = none)) then false else
      if !(decide (s.pow.vddLow = false)) then false else
      if !(decide (s.pow.shut = false)) then false else
      if !(decide (1840 < s.dieNow)) then false else
      true) &&
    (let s : State := { live with trim := { live.trim with writing := some (1, jrec 3) } }
      let r : JRec := jrec 3
      let b : Nat := 1
      if !(decide (s.trim.writing = some (b, r))) then false else
      if !(decide (s.trim.forget = false)) then false else
      true) &&
    (let s : State := ownIn .service 3
      let a : Access := spia
      match accepted s.begin_ a (regAddr pgTRIM TRIM_CMD.off) 1 with
      | none => false
      | some (s1, w, _, _, _) =>
      if !(decide (w.isT0 = true)) then false else
      if !(decide (s1.mode = .service)) then false else
      if !(decide (s1.dieNow ≤ 1840)) then false else
      if !(decide (s1.trim.writing = none)) then false else
      true) &&
    (let s : State := ownIn .service 3
      let a : Access := mg
      match accepted s.begin_ a (regAddr pgTRIM TRIM_CMD.off) 1 with
      | none => false
      | some (_, w, _, _, _) =>
      if !(decide (w.isT0 = false)) then false else
      true)) = true := by
  decide +kernel

/-- States and operands that meet the hypotheses of MemoryUpkeep, clause by clause. -/
theorem witness_MemoryUpkeep : (
    (let s : State := mem 0
      if !(decide (s.powered 4 = true)) then false else
      if !(decide (s.memState = 0)) then false else
      true) &&
    (let s : State := mem 3
      if !(decide (s.powered 4 = true)) then false else
      if !(decide (s.memState = 3)) then false else
      true) &&
    (let s : State := mem 3
      let a : TrainTry := ⟨none, some 5⟩
      let b : TrainTry := ⟨some 1, some 5⟩
      if !(decide (s.powered 4 = true)) then false else
      if !(decide ((s.memState = 0 ∧ (State.trainFails a).isSome = true ∨ s.memState = 3 ∧ (a.fail = some 4 ∨ a.fail = some 5)))) then false else
      match State.trainFails b with
      | none => false
      | some _ =>
      true) &&
    (let s : State := mem 1
      if !(decide (s.memState = 1)) then false else
      true) &&
    (let s : State := mem 2
      if !(decide (s.memReady = true)) then false else
      true) &&
    (let s : State := mem 2
      if !(decide (s.memReady = true)) then false else
      true) &&
    (let s : State := mem 2
      let sc : Fin 2 := 1
      let n : Nat := 0
      if !(decide (s.memReady = true)) then false else
      if !(decide (n ≤ nth s.mem.owed (8 * sc.val + nth s.mem.turn sc.val 0 % 8) 0 + 1)) then false else
      if !(decide (nth s.mem.owed (8 * sc.val + nth s.mem.turn sc.val 0 % 8) 0 + 1 ≤ s.fg MEMC_REF_POSTMAX + n)) then false else
      true) &&
    (let s : State := mem 2
      if !(decide (s.memReady = true)) then false else
      true) &&
    (let s : State := { mem 2 with mem := { (mem 2).mem with rows := modAt (mem 2).mem.rows 15 fun _ => some (65535, 31000000000) } }
      let sc : Fin 2 := 1
      let b : Fin 8 := 7
      let row : Nat := 65535
      let at_ : Nat := 31000000000
      if !(decide (nth s.mem.rows (8 * sc.val + b.val) none = some (row, at_))) then false else
      true) &&
    (let s : State := (mem 2).fs ME_CFG_SCRUB 1
      if !(decide (s.memReady = true)) then false else
      if !(decide (s.fg ME_CFG_SCRUB ≠ 0)) then false else
      if !(decide (s.viewBytes ≠ 0)) then false else
      if !(decide (s.mem.inflight = [])) then false else
      if !(decide (s.mem.waiting = [])) then false else
      true) &&
    (let s : State := { (ownIn .service 3) with now := 32000000000 }
      let a : Access := mg
      let v : Word := 1
      match accepted s.begin_ a (regAddr pgMECC ME_INJ.off) v.toNat with
      | none => false
      | some (s1, _, _, _, _) =>
      if !(decide (s1.mode = .service)) then false else
      true) &&
    (let s : State := live
      let a : Access := mg
      let v : Word := 1
      match accepted s.begin_ a (regAddr pgMECC ME_INJ.off) v.toNat with
      | none => false
      | some (s1, _, _, _, _) =>
      if !(decide (s1.mode ≠ .service)) then false else
      if !(decide (v.toNat % 4 ≠ 0)) then false else
      true)) = true := by
  decide +kernel

/-- States and operands that meet the hypotheses of DramRequests, clause by clause. -/
theorem witness_DramRequests : (
    (let s : State := mem 2
      let u : DUser := .feed
      let addr : Nat := 0x1040000000
      if !(decide ((addr < 0x1000000000 ∨ s.viewBytes ≤ (addr - 0x1000000000) / 64 * 64 ∨
          userMay u (areaOf ((addr - 0x1000000000) / 64 * 64)) = false))) then false else
      true) &&
    (let s : State := mem 2
      let u : DUser := .mgmt
      let addr : Nat := 0x103FFFFFC0
      if !(decide (0x1000000000 ≤ addr)) then false else
      if !(decide ((addr - 0x1000000000) / 64 * 64 < s.viewBytes)) then false else
      if !(decide (userMay u (areaOf ((addr - 0x1000000000) / 64 * 64)) = true)) then false else
      if !(decide (s.memReady = true)) then false else
      if !(decide (s.credit (userCls u) = true)) then false else
      true) &&
    (let s : State := infl
      let k : Nat := 1
      let r : DReq := dreq 1073741760 (some ((List.range 64).map fun i => some (BitVec.ofNat 8 i)))
      let l : List (Option Byte) := ((List.range 64).map fun i => some (BitVec.ofNat 8 i))
      let v : Nat → Byte := fun i => BitVec.ofNat 8 i
      if !(decide (s.mem.inflight[k]? = some r)) then false else
      if !(decide (r.wr = some l)) then false else
      if !(decide (r.off % 64 = 0)) then false else
      if !(decide (((s.mem.inflight.take k).any fun x => x.off == r.off) = false)) then false else
      if !((List.range 64).all (fun i => decide (nth l i none = some (v i)))) then false else
      true) &&
    (let s : State := infl
      let k : Nat := 1
      let r : DReq := dreq 1073741760 (some ((List.range 64).map fun i => some (BitVec.ofNat 8 i)))
      if !(decide (s.mem.inflight[k]? = some r)) then false else
      if !(decide (r.off % 64 = 0)) then false else
      true)) = true := by
  decide +kernel

/-- States and operands that meet the hypotheses of FlashCommands, clause by clause. -/
theorem witness_FlashCommands : (
    (let s : State := own
      let a : Access := mg
      let v : Word := 256
      match accepted s.begin_ a (regAddr pgSPIB SPIB_CMD.off) (1 * 2 ^ 28 + v.toNat % 2 ^ 28) with
      | none => false
      | some (s1, _, _, _, _) =>
      if !(decide (s1.flashRefuse 1 (v.toNat % 512) = none)) then false else
      true) &&
    (let s : State := own
      let a : Access := mg
      let v : Word := 256
      match accepted s.begin_ a (regAddr pgSPIB SPIB_CMD.off) (2 * 2 ^ 28 + v.toNat % 2 ^ 28) with
      | none => false
      | some (s1, _, _, _, _) =>
      if !(decide (s1.flashRefuse 2 (v.toNat % 512) = none)) then false else
      true) &&
    (let s : State := own.fs SPIB_ADDR_ADDR 4096
      let a : Access := mg
      let v : Word := 0
      match accepted s.begin_ a (regAddr pgSPIB SPIB_CMD.off) (3 * 2 ^ 28 + v.toNat % 2 ^ 28) with
      | none => false
      | some (s1, _, _, _, _) =>
      if !(decide (s1.flashRefuse 3 (v.toNat % 512) = none)) then false else
      true) &&
    (let s : State := own.fs SPIB_ADDR_ADDR 65536
      let a : Access := mg
      let v : Word := 0
      match accepted s.begin_ a (regAddr pgSPIB SPIB_CMD.off) (4 * 2 ^ 28 + v.toNat % 2 ^ 28) with
      | none => false
      | some (s1, _, _, _, _) =>
      if !(decide (s1.flashRefuse 4 (v.toNat % 512) = none)) then false else
      true) &&
    (let s : State := own
      let a : Access := spia
      let v : Word := 0
      match accepted s.begin_ a (regAddr pgSPIB SPIB_CMD.off) (5 * 2 ^ 28 + v.toNat % 2 ^ 28) with
      | none => false
      | some (s1, _, _, _, _) =>
      if !(decide (s1.flashRefuse 5 (v.toNat % 512) = none)) then false else
      true) &&
    (let s : State := own.fs SPIB_ADDR_ADDR 1
      let a : Access := mg
      let v : Word := 256
      match accepted s.begin_ a (regAddr pgSPIB SPIB_CMD.off) (2 * 2 ^ 28 + v.toNat % 2 ^ 28) with
      | none => false
      | some (s1, _, _, _, _) =>
      match s1.flashRefuse 2 (v.toNat % 512) with
      | none => false
      | some _ =>
      true) &&
    (let s : State := { live with ser := { live.ser with op := 2 } }
      if !(decide (s.flashBusy = true)) then false else
      true) &&
    (let s : State := { live with ser := { live.ser with op := 4, held := 9 } }
      if !(decide (s.flashBusy = true)) then false else
      true) &&
    (let s : State := live.fs SPIB_CFG_XIP_EN 1
      let off : Nat := 16777212
      if !(decide (s.fg SPIB_CFG_XIP_EN = 1)) then false else
      if !(decide (off < 2 ^ 24)) then false else
      if !(decide (s.flashBusy = false)) then false else
      true) &&
    (let s : State := live.fs SPIB_CFG_XIP_EN 1
      let off : Nat := 16777216
      if !(decide ((s.fg SPIB_CFG_XIP_EN = 0 ∨ 2 ^ 24 ≤ off))) then false else
      true)) = true := by
  decide +kernel

/-- States and operands that meet the hypotheses of BusPorts, clause by clause. -/
theorem witness_BusPorts : (
    (let s : State := own
      let a : Access := spia
      let twi : Bool := true
      match accepted s.begin_ a (gcmdAddr twi) 1 with
      | none => false
      | some (s1, _, _, _, _) =>
      if !(decide (s1.grantOf twi = none)) then false else
      true) &&
    (let s : State := granted false |>.fs SPIC_GRANT_HOLDER 15
      let a : Access := spia
      let twi : Bool := false
      match accepted s.begin_ a (gcmdAddr twi) 1 with
      | none => false
      | some (s1, w, _, _, _) =>
      match s1.grantOf twi with
      | none => false
      | some n =>
      if !(decide (n ≠ w.slot)) then false else
      true) &&
    (let s : State := granted true
      let a : Access := spia
      let twi : Bool := true
      match accepted s.begin_ a (gcmdAddr twi) 2 with
      | none => false
      | some (_, _, _, _, _) =>
      true) &&
    (let s : State := own
      let a : Access := spia
      match accepted s.begin_ a (gcmdAddr true) 3 with
      | none => false
      | some (s1, _, _, _, _) =>
      if !(decide (s1.ser.twiX = none)) then false else
      true) &&
    (let s : State := granted true
      let twi : Bool := true
      match s.grantOf twi with
      | none => false
      | some _ =>
      if !(decide ((∀ x, s.ser.spicX = some x → x.bits ≤ 16384))) then false else
      if !(decide ((∀ x, s.ser.twiX = some x → x.rlen ≤ 256))) then false else
      true) &&
    (let s : State := granted false
      let a : Access := spia
      let v : Word := 16384 * 65536
      match accepted s.begin_ a (regAddr pgSPIC SPIC_XFER.off) v.toNat with
      | none => false
      | some (s1, _, _, _, _) =>
      if !(decide (1 ≤ bitsOf v.toNat 30 16)) then false else
      if !(decide (bitsOf v.toNat 30 16 ≤ 16384)) then false else
      if !(decide (s1.ser.spicX = none)) then false else
      if !(decide ((∀ x, s1.ser.kept = some x → x = v.toNat % 8))) then false else
      true) &&
    (let s : State := { (granted false) with ser := { own.ser with spicX := some ⟨0, 1, 16384, false, 32000000999⟩ } };
      match s.ser.spicX with
      | none => false
      | some x =>
      if !(decide (x.bits ≤ 16384)) then false else
      true) &&
    (let s : State := granted true
      let a : Access := spia
      let v : Word := 256 * 131072 + 0x77
      match accepted s.begin_ a (regAddr pgTWI TWI_XFER.off) v.toNat with
      | none => false
      | some (s1, _, _, _, _) =>
      if !(decide (1 ≤ bitsOf v.toNat 25 17 + bitsOf v.toNat 16 8)) then false else
      if !(decide (bitsOf v.toNat 25 17 + bitsOf v.toNat 16 8 ≤ 256)) then false else
      if !(decide (8 ≤ v.toNat % 128)) then false else
      if !(decide (v.toNat % 128 < 0x78)) then false else
      if !(decide (s1.fg TWI_STAT_STUCK = 0)) then false else
      if !(decide (s1.ser.twiX = none)) then false else
      true) &&
    (let s : State := { (granted true) with ser := { own.ser with twiX := some ⟨0, 0x50, 1, 255, none⟩ } };
      match s.ser.twiX with
      | none => false
      | some x =>
      if !(decide (x.wait = none)) then false else
      if !(decide (x.rlen ≤ 256)) then false else
      true) &&
    (let s : State := { (granted true) with ser := { own.ser with twiX := some ⟨0, 0x50, 1, 255, none⟩ } };
      match s.ser.twiX with
      | none => false
      | some x =>
      if !(decide (x.wait = none)) then false else
      if !(decide (x.rlen ≤ 256)) then false else
      true)) = true := by
  decide +kernel

/-- States and operands that meet the hypotheses of SecuritySessions, clause by clause. -/
theorem witness_SecuritySessions : (
    (let s : State := ((ownedS.setTst 5 tENROLLED).fsi TEN_RUN_RUN_REQ 5 1 |> fun s => { s with sec := { s.sec with store := { s.sec.store with recs := modAt s.sec.store.recs 5 fun _ => some ⟨2, 0, [], [], 66⟩ } } })
      let f : Frame := { ses with tenant := 5 }
      let c : Nat := 4294967295
      let k : Nat := 66
      match s.begin_.rxDown f 9 with
      | (_, false) => false
      | (s1, true) =>
      if !(decide (s1.ownId = some f.first)) then false else
      if !(decide (mgmtRoom f = true)) then false else
      if !(decide (s1.loaderServes f = true)) then false else
      if !(decide (1 ≤ s1.fg OSEC_RATE_PER_S)) then false else
      if !(decide (nth s1.sec.served f.port.val [] = [])) then false else
      if !(decide (s1.sec.replies = [])) then false else
      if !(decide (s1.establishFail f c k = none)) then false else
      if !(decide (c < 2 ^ 32)) then false else
      if !(decide (f.tenant.val < s1.keys.length)) then false else
      true) &&
    (let s : State := ((ownedS.setTst 5 tENROLLED).fsi TEN_RUN_RUN_REQ 5 1 |> fun s => { s with sec := { s.sec with store := { s.sec.store with recs := modAt s.sec.store.recs 5 fun _ => some ⟨2, 0, [], [], 66⟩ } } })
      let f : Frame := { ses with tenant := 5 }
      let c : Nat := 1
      let k : Nat := 65
      match s.begin_.rxDown f 9 with
      | (_, false) => false
      | (s1, true) =>
      if !(decide (s1.ownId = some f.first)) then false else
      if !(decide (mgmtRoom f = true)) then false else
      if !(decide (s1.loaderServes f = true)) then false else
      if !(decide (1 ≤ s1.fg OSEC_RATE_PER_S)) then false else
      if !(decide (nth s1.sec.served f.port.val [] = [])) then false else
      if !(decide (s1.sec.replies = [])) then false else
      match s1.establishFail f c k with
      | none => false
      | some _ =>
      if !(decide (s1.passes f.port.val = true)) then false else
      true) &&
    (let s : State := ownedS
      let f : Frame := ses
      match s.begin_.rxDown f 9 with
      | (_, false) => false
      | (s1, true) =>
      if !(decide (s1.ownId = some f.first)) then false else
      if !(decide (mgmtRoom f = true)) then false else
      if !(decide (s1.loaderServes f = true)) then false else
      if !(decide (1 ≤ s1.fg OSEC_RATE_PER_S)) then false else
      if !(decide (nth s1.sec.served f.port.val [] = [])) then false else
      if !(decide (s1.sec.replies = [])) then false else
      if !(decide (s1.secBusy = false)) then false else
      if !(decide (s1.passes f.port.val = true)) then false else
      true) &&
    (let s : State := ownedS
      let f : Frame := { ses with tenant := 15 }
      match s.begin_.rxDown f 9 with
      | (_, false) => false
      | (s1, true) =>
      if !(decide (s1.ownId = some f.first)) then false else
      if !(decide (mgmtRoom f = true)) then false else
      if !(decide (s1.loaderServes f = true)) then false else
      if !(decide (1 ≤ s1.fg OSEC_RATE_PER_S)) then false else
      if !(decide (nth s1.sec.served f.port.val [] = [])) then false else
      if !(decide (s1.sec.replies = [])) then false else
      if !(decide (s1.secBusy = false)) then false else
      true) &&
    (let s : State := own
      let a : Access := spia
      match accepted s.begin_ a (regAddr pgATTEST ATT_CMD.off) 1 with
      | none => false
      | some (s1, w, _, _, _) =>
      if !(decide (s1.fgb w.bank ATT_STAT_BUSY = 0)) then false else
      if !(decide (s1.secBusy = false)) then false else
      true) &&
    (let s : State := own
      let a : Access := spia
      match accepted s.begin_ a (regAddr pgATTEST ATT_CMD.off) 2 with
      | none => false
      | some (s1, w, _, _, _) =>
      if !(decide (s1.fgb w.bank ATT_STAT_BUSY = 0)) then false else
      if !(decide (s1.secBusy = false)) then false else
      true) &&
    (let s : State := { ownedS with sec := { ownedS.sec with att := [⟨16, none, 17, [1]⟩, ⟨0, none, 1, []⟩] } }
      let r : AttReq := ⟨16, none, 17, [1]⟩
      let rest : List AttReq := [⟨0, none, 1, []⟩]
      if !(decide (s.sec.att = r :: rest)) then false else
      if !(decide (r.sess = none)) then false else
      true) &&
    (let s : State := { ownedS with sec := { ownedS.sec with att := [⟨15, some ses, 0, [1]⟩] } }
      let r : AttReq := ⟨15, some ses, 0, [1]⟩
      let rest : List AttReq := []
      let f : Frame := ses
      if !(decide (s.sec.att = r :: rest)) then false else
      if !(decide (r.sess = some f)) then false else
      if !(decide (s.passes f.port.val = true)) then false else
      true)) = true := by
  decide +kernel

/-- States and operands that meet the hypotheses of SecurityObjects, clause by clause. -/
theorem witness_SecurityObjects : (
    (let s : State := secS
      let f : Frame := ses
      let o : Obj := vouch
      match s.begin_.rxDown f 9 with
      | (_, false) => false
      | (s1, true) =>
      if !(decide (s1.ownId = some f.first)) then false else
      if !(decide (mgmtRoom f = true)) then false else
      if !(decide (s1.loaderServes f = true)) then false else
      if !(decide (1 ≤ s1.fg OSEC_RATE_PER_S)) then false else
      if !(decide (nth s1.sec.served f.port.val [] = [])) then false else
      if !(decide (s1.sec.replies = [])) then false else
      if !(decide (s1.secBusy = false)) then false else
      if !(decide (s1.objCheck o = none)) then false else
      if !(decide (s1.passes f.port.val = true)) then false else
      true) &&
    (let s : State := secS
      let f : Frame := ses
      let o : Obj := { vouch with malformed := some 12 }
      match s.begin_.rxDown f 9 with
      | (_, false) => false
      | (s1, true) =>
      if !(decide (s1.ownId = some f.first)) then false else
      if !(decide (mgmtRoom f = true)) then false else
      if !(decide (s1.loaderServes f = true)) then false else
      if !(decide (1 ≤ s1.fg OSEC_RATE_PER_S)) then false else
      if !(decide (nth s1.sec.served f.port.val [] = [])) then false else
      if !(decide (s1.sec.replies = [])) then false else
      if !(decide (s1.secBusy = false)) then false else
      match s1.objCheck o with
      | none => false
      | some _ =>
      if !(decide (s1.passes f.port.val = true)) then false else
      true) &&
    (let s : State := own.fs OSEC_LC_LC 1
      let a : Access := spia
      let v : Word := 2048 * 65536
      let ob : Obj := vouch
      match accepted s.begin_ a (regAddr pgOSEC OSEC_CMD.off) (bitsOf v.toNat 27 16 * 2 ^ 16 + 1) with
      | none => false
      | some (s1, _, _, _, _) =>
      if !(decide (24 ≤ bitsOf v.toNat 27 16)) then false else
      if !(decide (bitsOf v.toNat 27 16 ≤ 2048)) then false else
      if !(decide (s1.secBusy = false)) then false else
      if !(decide (s1.objCheck ob = none)) then false else
      true) &&
    (let s : State := accd secS vouch
      let o : Obj := vouch
      let pub : Nat := 9
      if !(decide (s.sec.acc = [o])) then false else
      if !(decide (o.body = .voucher pub)) then false else
      if !(decide (s.owned = false)) then false else
      true) &&
    (let s : State := accd ownedS (enr 0 (.transfer 8))
      let o : Obj := enr 0 (.transfer 8)
      let next : Nat := 8
      if !(decide (s.sec.acc = [o])) then false else
      if !(decide (o.body = .transfer next)) then false else
      if !(decide (next ≠ 0)) then false else
      true) &&
    (let s : State := accd (act ownedS 0 0) (enr 0 (.transfer 0))
      let o : Obj := enr 0 (.transfer 0)
      if !(decide (s.sec.acc = [o])) then false else
      if !(decide (o.body = .transfer 0)) then false else
      true) &&
    (let s : State := accd ownedS (enr 15 (.enrol 2 65535 [1] [2] 66))
      let o : Obj := enr 15 (.enrol 2 65535 [1] [2] 66)
      let role : Nat := 2
      let wp : Nat := 65535
      let pub : Nat := 66
      let pw : List Word := [1]
      let pr : List Word := [2]
      if !(decide (s.sec.acc = [o])) then false else
      if !(decide (o.body = .enrol role wp pw pr pub)) then false else
      true) &&
    (let s : State := accd (act ownedS 15 0) (enr 15 .unenrol)
      let o : Obj := enr 15 .unenrol
      if !(decide (s.sec.acc = [o])) then false else
      if !(decide (o.body = .unenrol)) then false else
      true) &&
    (let s : State := accd (act ownedS 15 0) (enr 15 (.keywrap 2 7 0 88))
      let o : Obj := enr 15 (.keywrap 2 7 0 88)
      let kind : Nat := 2
      let gen : Nat := 7
      let act : Nat := 0
      let key : Nat := 88
      if !(decide (s.sec.acc = [o])) then false else
      if !(decide (o.body = .keywrap kind gen act key)) then false else
      if !(decide (s.tst o.slot.val ≠ tEMPTY)) then false else
      if !(decide ((s.chainKey o.slot.val kind).cur = none)) then false else
      if !(decide (o.slot.val < s.keys.length)) then false else
      if !(decide (kind < (s.slotKeys o.slot.val).kinds.length)) then false else
      true) &&
    (let s : State := accd ownedS (enr 0 (.debug [] 31))
      let o : Obj := enr 0 (.debug [] 31)
      let chal : List Word := []
      let scope : Word := 31
      if !(decide (s.sec.acc = [o])) then false else
      if !(decide (o.body = .debug chal scope)) then false else
      if !(decide (scope.toNat < 32)) then false else
      true) &&
    (let s : State := accd ownedS (enr 0 (.policy 3 [1, 256]))
      let o : Obj := enr 0 (.policy 3 [1, 256])
      let flags : Word := 3
      let m : List Nat := [1, 256]
      if !(decide (s.sec.acc = [o])) then false else
      if !(decide (o.body = .policy flags m)) then false else
      true) &&
    (let s : State := accd ownedS (enr 0 (.otpcfg [1, 2]))
      let o : Obj := enr 0 (.otpcfg [1, 2])
      let b : List Nat := [1, 2]
      if !(decide (s.sec.acc = [o])) then false else
      if !(decide (o.body = .otpcfg b)) then false else
      true) &&
    (let s : State := own
      let a : Access := spia
      match accepted s.begin_ a (regAddr pgOSEC OSEC_CMD.off) 2 with
      | none => false
      | some (s1, w, _, _, _) =>
      if !(decide (w.isT0 = true)) then false else
      if !(decide (s1.secBusy = false)) then false else
      true) &&
    (let s : State := own
      let a : Access := spia
      match accepted s.begin_ a (regAddr pgOSEC OSEC_CMD.off) 3 with
      | none => false
      | some (s1, w, _, _, _) =>
      if !(decide (w.isT0 = true)) then false else
      if !(decide (s1.secBusy = false)) then false else
      if !(decide (s1.nvOk = true)) then false else
      true) &&
    (let s : State := { (own.fs OSEC_STAT_CHAL 1) with sec := { own.sec with chalEnd := 40000000000 } }
      if !(decide (s.fg OSEC_STAT_CHAL = 1)) then false else
      true)) = true := by
  decide +kernel

/-- States and operands that meet the hypotheses of UpdateCommands, clause by clause. -/
theorem witness_UpdateCommands : (
    (let s : State := ((own.fs UPD_BEGIN_KIND 0).fs UPD_LEN_BYTES 8192).fs UPD_ID_UPID 7
      let a : Access := spia
      match accepted s.begin_ a (regAddr pgUPD UPD_CMD.off) 1 with
      | none => false
      | some (s1, _, _, _, _) =>
      if !(decide (s1.beginFail = none)) then false else
      true) &&
    (let s : State := own
      let a : Access := spia
      match accepted s.begin_ a (regAddr pgUPD UPD_CMD.off) 1 with
      | none => false
      | some (s1, _, _, _, _) =>
      match s1.beginFail with
      | none => false
      | some _ =>
      true) &&
    (let s : State := updS 4 fun u => { u with pend := [⟨false, false, none, 0, 1⟩, ⟨true, false, none, 1, 1⟩], queue := [pc0], target := 1 }
      let a : Access := spia
      match accepted s.begin_ a (regAddr pgUPD UPD_CMD.off) 2 with
      | none => false
      | some (s1, _, _, _, _) =>
      if !(decide (s1.loader = false)) then false else
      if !(decide (1 ≤ s1.updState)) then false else
      if !(decide (s1.updState ≤ 4)) then false else
      true) &&
    (let s : State := updS 2 id
      let a : Access := spia
      match accepted s.begin_ a (regAddr pgUPD UPD_CMD.off) 3 with
      | none => false
      | some (s1, _, _, _, _) =>
      if !(decide (s1.updState = 2)) then false else
      if !(decide ((s1.upd.kind = 0 ∨ s1.upd.kind = 3))) then false else
      true) &&
    (let s : State := updS 3 id
      let a : Access := spia
      match accepted s.begin_ a (regAddr pgUPD UPD_CMD.off) 3 with
      | none => false
      | some (s1, _, _, _, _) =>
      if !(decide (s1.updState ≠ 2)) then false else
      true) &&
    (let s : State := (updS 4 fun u => { u with pend := [⟨false, false, none, 0, 1⟩], target := 1, slots := [none, some (man [image1, comp1 3]), none] }).fs UPD_STAT_COMP 8
      let a : Access := spia
      match accepted s.begin_ a (regAddr pgUPD UPD_CMD.off) 4 with
      | none => false
      | some (s1, _, _, _, _) =>
      if !(decide (s1.loader = false)) then false else
      if !(decide (3 ≤ s1.updState)) then false else
      if !(decide (s1.updState ≤ 4)) then false else
      true) &&
    (let s : State := (updS 4 id).fs UPD_TDCN_DCN 5
      let a : Access := spia
      let trig : Fin 4 := 1
      match accepted s.begin_ a (regAddr pgUPD UPD_CMD.off) (trig.val * 256 + 5) with
      | none => false
      | some (s1, _, _, _, _) =>
      if !(decide (s1.loader = false)) then false else
      if !(decide (s1.updState = 4)) then false else
      if !(decide (s1.pendAct = none)) then false else
      if !(decide (s1.trigRefused (if trig = 1 then some (s1.fg UPD_TDCN_DCN) else none) = none)) then false else
      true) &&
    (let s : State := (updS 4 id).fs UPD_TDCN_DCN 0
      let a : Access := spia
      match accepted s.begin_ a (regAddr pgUPD UPD_CMD.off) (1 * 256 + 5) with
      | none => false
      | some (s1, _, _, _, _) =>
      if !(decide (s1.loader = false)) then false else
      if !(decide (s1.updState = 4)) then false else
      if !(decide (s1.pendAct = none)) then false else
      if !(decide (s1.trigPassed (s1.fg UPD_TDCN_DCN) = true)) then false else
      true) &&
    (let s : State := ((updS 4 fun u => { u with target := 1, slots := [some (man [image1]), some (man [image1]), none] }).fs UPD_CFG_HOENROL 1).fs UPD_TDCN_DCN 5
      let a : Access := spia
      let trig : Fin 4 := 1
      match accepted s.begin_ a (regAddr pgUPD UPD_CMD.off) (trig.val * 256 + 0x15) with
      | none => false
      | some (s1, _, _, _, _) =>
      if !(decide (s1.loader = false)) then false else
      if !(decide (s1.updState = 4)) then false else
      if !(decide (s1.pendAct = none)) then false else
      if !(decide (s1.handoverFail (if trig = 1 then some (s1.fg UPD_TDCN_DCN) else none) = none)) then false else
      if !(decide (s1.trigRefused (if trig = 1 then some (s1.fg UPD_TDCN_DCN) else none) = none)) then false else
      true) &&
    (let s : State := updS 4 id
      let a : Access := spia
      match accepted s.begin_ a (regAddr pgUPD UPD_CMD.off) 0x15 with
      | none => false
      | some (s1, _, _, _, _) =>
      if !(decide (s1.loader = false)) then false else
      if !(decide (s1.updState = 4)) then false else
      if !(decide (s1.pendAct = none)) then false else
      if !(decide (s1.fg UPD_CFG_HOENROL = 0)) then false else
      true) &&
    (let s : State := (updS 2 fun u => { u with kind := 2 }).fs UPD_TDCN_DCN 5
      let a : Access := spia
      let trig : Fin 4 := 1
      let b : BundleRead := bnd
      match accepted s.begin_ a (regAddr pgUPD UPD_CMD.off) (trig.val * 256 + 6) with
      | none => false
      | some (s1, _, _, _, _) =>
      if !(decide (s1.loader = false)) then false else
      if !(decide (s1.updState = 2)) then false else
      if !(decide ((s1.upd.kind = 1 ∨ s1.upd.kind = 2))) then false else
      if !(decide ((s1.upd.pend.any fun x => x.cfg) = false)) then false else
      if !(decide (s1.bundleFail b = none)) then false else
      if !(decide (s1.clipsOver b = none)) then false else
      if !(decide (s1.trigRefused (if trig = 1 then some (s1.fg UPD_TDCN_DCN) else none) = none)) then false else
      true) &&
    (let s : State := updS 2 fun u => { u with kind := 1, target := 1 }
      let a : Access := spia
      let b : BundleRead := { bnd with sigOk := false }
      match accepted s.begin_ a (regAddr pgUPD UPD_CMD.off) 6 with
      | none => false
      | some (s1, _, _, _, _) =>
      if !(decide (s1.loader = false)) then false else
      if !(decide (s1.updState = 2)) then false else
      if !(decide (s1.upd.kind = 1)) then false else
      if !(decide (s1.upd.target < 2)) then false else
      if !(decide ((s1.upd.pend.any fun x => x.cfg) = false)) then false else
      match s1.bundleFail b with
      | none => false
      | some _ =>
      true) &&
    (let s : State := updS 4 fun u => { u with pend := [⟨false, false, none, 0, 1⟩, ⟨true, false, none, 1, 1⟩] }
      let a : Access := spia
      match accepted s.begin_ a (regAddr pgUPD UPD_CMD.off) 7 with
      | none => false
      | some (s1, _, _, _, _) =>
      if !(decide (s1.loader = false)) then false else
      if !(decide (s1.upd.pend ≠ [])) then false else
      true)) = true := by
  decide +kernel

/-- States and operands that meet the hypotheses of UpdateProgress, clause by clause. -/
theorem witness_UpdateProgress : (
    (let s : State := updS 1 fun u => { u with len := 8192, got := [(0, true)], queue := [{ pc0 with index := 1 }] }
      let p : Piece := { pc0 with index := 1 }
      let rest : List Piece := []
      if !(decide (s.upd.queue = p :: rest)) then false else
      if !(decide ((2 ≤ s.upd.kind ∨ s.upd.prog = true ∨ s.nvOk = true))) then false else
      true) &&
    (let s : State := updS 1 fun u => { u with unjAt := some 31000000000, unj := 3, kind := 1 }
      let t0 : Nat := 31000000000
      if !(decide (s.upd.unjAt = some t0)) then false else
      if !(decide (s.upd.kind ≤ 1)) then false else
      if !(decide (s.nvOk = true)) then false else
      if !(decide (s.updState ≠ 0)) then false else
      true) &&
    (let s : State := updS 3 fun u => { u with target := 1 }
      let r : ImgRead := good [image1]
      if !(decide (s.updState = 3)) then false else
      if !(decide (s.upd.comp = none)) then false else
      if !(decide (s.begin_.verifyFail r = none)) then false else
      if !(decide (State.companions r.man = [])) then false else
      if !(decide (s.upd.kind = 0)) then false else
      if !(decide (s.upd.target < 2)) then false else
      true) &&
    (let s : State := updS 3 fun u => { u with target := 1 }
      let r : ImgRead := badR
      let c : Rc := ⟨0x8D10, 0⟩
      if !(decide (s.updState = 3)) then false else
      if !(decide (s.upd.comp = none)) then false else
      if !(decide (s.begin_.verifyFail r = some c)) then false else
      if !(decide (s.upd.kind = 0)) then false else
      if !(decide (s.upd.target < 2)) then false else
      true) &&
    (let s : State := updS 3 fun u => { u with target := 1 }
      let r : ImgRead := good [comp1 3, comp1 1]
      if !(decide (s.updState = 3)) then false else
      if !(decide (s.upd.comp = none)) then false else
      if !(decide (s.begin_.verifyFail r = none)) then false else
      match (State.companions r.man) with
      | [] => false
      | _ :: _ =>
      true) &&
    (let s : State := updS 4 fun u => { u with target := 1, slots := [none, some (man [image1]), none], pend := [⟨true, false, none, 1, 1⟩, ⟨false, false, none, 0, 1⟩] }
      let a : Act := ⟨false, false, none, 0, 1⟩
      if !(decide (s.begin_.pendAct = some a)) then false else
      if !(decide (State.actDue a (add32 s.begin_.dcn 1) = true)) then false else
      if !(decide (s.updState = 4)) then false else
      if !(decide (s.nvOk = true)) then false else
      if !(decide (a.handover = false)) then false else
      true) &&
    (let s : State := updS 4 fun u => { u with target := 1, slots := [none, some (man [image1]), none], pend := [⟨true, false, none, 1, 1⟩, ⟨false, true, none, 0, 1⟩] }
      let a : Act := ⟨false, true, none, 0, 1⟩
      if !(decide (s.begin_.pendAct = some a)) then false else
      if !(decide (State.actDue a (add32 s.begin_.dcn 1) = true)) then false else
      if !(decide (s.updState = 4)) then false else
      if !(decide (s.nvOk = true)) then false else
      if !(decide (a.handover = true)) then false else
      true) &&
    (let s : State := { (updS 4 fun u => { u with target := 1, slots := [none, some (man [image1]), none], pend := [⟨true, false, none, 1, 1⟩, ⟨false, false, none, 0, 1⟩] }) with pow := { own.pow with vddLow := true } }
      let a : Act := ⟨false, false, none, 0, 1⟩
      if !(decide (s.begin_.pendAct = some a)) then false else
      if !(decide (State.actDue a (add32 s.begin_.dcn 1) = true)) then false else
      if !(decide (s.updState = 4)) then false else
      if !(decide (s.nvOk = false)) then false else
      true) &&
    (let s : State := ({ (updS 5 fun u => { u with target := 1, prev := 0, brec := some ⟨1, 1, true, false, 0, 0⟩, slots := [none, some (man [image1]), none] }) with fab := { own.fab with access := false } })
      if !(decide (s.actPaused = true)) then false else
      if !(decide (s.upd.comp = none)) then false else
      if !(decide (s.upd.target < 2)) then false else
      if !(decide (s.upd.prev < 2)) then false else
      if !(decide (s.pow.trimDone = true)) then false else
      true) &&
    (let s : State := ({ (updS 5 fun u => { u with target := 1, prev := 0, brec := some ⟨1, 1, true, false, 0, 0⟩, slots := [none, some (man [image1]), none] }) with fab := { own.fab with access := false } })
      if !(decide (s.actPaused = true)) then false else
      if !(decide (s.upd.comp = none)) then false else
      if !(decide (s.upd.target < 2)) then false else
      if !(decide (s.pow.trimDone = true)) then false else
      true) &&
    (let s : State := updS 5 fun u => { u with stage := 5 }
      if !(decide (1 ≤ s.upd.stage)) then false else
      if !(decide (s.upd.stage ≤ 5)) then false else
      true) &&
    (let s : State := updS 5 fun u => { u with stage := 6, target := 1 }
      if !(decide (s.upd.stage = 6)) then false else
      if !(decide (s.upd.target < 2)) then false else
      if !(decide (s.upd.prev < 2)) then false else
      true) &&
    (let s : State := updS 3 fun u => { u with target := 1, slots := [none, some (man [comp1 3]), none], comp := some ⟨0, [3], 1, 0, 32000000000, 32000000000, 0, false⟩ }
      let x : CompSt := ⟨0, [3], 1, 0, 32000000000, 32000000000, 0, false⟩
      let c : Nat := 3
      let cs : List Nat := []
      if !(decide (s.upd.comp = some x)) then false else
      if !(decide (x.todo = c :: cs)) then false else
      if !(decide (x.cmd ≤ 2)) then false else
      if !(decide (x.held = false)) then false else
      if !(decide (s.compFree c = true)) then false else
      if !(decide (max s.now (x.pollAt + 10 * Config.ms) - x.sentAt ≤ Config.sec)) then false else
      true) &&
    (let s : State := updS 3 fun u => { u with target := 1, slots := [none, some (man [comp1 3]), none], comp := some ⟨0, [3], 1, 0, 32000000000, 32000000000, 0, false⟩ }
      let x : CompSt := ⟨0, [3], 1, 0, 32000000000, 32000000000, 0, false⟩
      let c : Nat := 3
      let cs : List Nat := []
      if !(decide (s.upd.comp = some x)) then false else
      if !(decide (x.todo = c :: cs)) then false else
      if !(decide (x.purpose = 0)) then false else
      if !(decide (c < 4)) then false else
      if !(decide (x.held = false)) then false else
      if !(decide (s.compFree c = true)) then false else
      true) &&
    (let s : State := updS 3 fun u => { u with target := 1, slots := [none, some (man [comp1 3]), none], comp := some ⟨1, [3], 4, 0, 32000000000, 32000000000, 0, false⟩ }
      let x : CompSt := ⟨1, [3], 4, 0, 32000000000, 32000000000, 0, false⟩
      let c : Nat := 3
      if !(decide (s.upd.comp = some x)) then false else
      if !(decide (x.todo = [c])) then false else
      if !(decide (x.purpose = 1)) then false else
      if !(decide (x.cmd = 4)) then false else
      if !(decide (x.held = false)) then false else
      if !(decide (s.compFree c = true)) then false else
      true) &&
    (let s : State := updS 2 fun u => { u with kind := 2, bundle := some bnd, pend := [⟨true, false, none, 2, 2⟩] }
      let a : Act := ⟨true, false, none, 2, 2⟩
      let b : BundleRead := bnd
      if !(decide (s.upd.pend = [a])) then false else
      if !(decide (a.cfg = true)) then false else
      if !(decide (a.kind = 2)) then false else
      if !(decide (State.actDue a (add32 s.begin_.dcn 1) = true)) then false else
      if !(decide (s.upd.bundle = some b)) then false else
      true) &&
    (let s : State := updS 2 fun u => { u with kind := 1, target := 1, bundle := some bnd, pend := [⟨true, false, none, 1, 1⟩] }
      let a : Act := ⟨true, false, none, 1, 1⟩
      let b : BundleRead := bnd
      if !(decide (s.upd.pend = [a])) then false else
      if !(decide (a.cfg = true)) then false else
      if !(decide (a.kind = 1)) then false else
      if !(decide (a.target < 2)) then false else
      if !(decide (s.nvOk = true)) then false else
      if !(decide (State.actDue a (add32 s.begin_.dcn 1) = true)) then false else
      if !(decide (s.upd.bundle = some b)) then false else
      true) &&
    (let s : State := updS 6 fun u => { u with loading := some bndT }
      let b : BundleRead := bndT
      let k : Nat := 3
      let lamps : Nat := 2
      let ents : List Nat := [8192, 1]
      if !(decide (s.upd.loading = some b)) then false else
      if !(decide (b.sections = [.tset k lamps ents])) then false else
      if !(decide (k < 4)) then false else
      if !(decide (ents.length ≤ 0x3_0000)) then false else
      true) &&
    (let s : State := (updS 0 id).fs SLOT_BOOT_BUNDLE 2
      let b : BundleRead := bnd
      if !(decide (s.fg SLOT_BOOT_BUNDLE ≠ 0)) then false else
      if !(decide (s.pow.trimDone = true)) then false else
      if !(decide (s.upd.loading = none)) then false else
      if !(decide (nth s.upd.areas (s.fg SLOT_BOOT_BUNDLE - 1) none = none)) then false else
      if !(decide (s.begin_.bundleFail b = none)) then false else
      true) &&
    (let s : State := (updS 0 id).fs SLOT_BOOT_BUNDLE 2
      let b : BundleRead := { bnd with badHash := some 0 }
      let c : Rc := ⟨0x8E13, 0⟩
      if !(decide (1 ≤ s.fg SLOT_BOOT_BUNDLE)) then false else
      if !(decide (s.fg SLOT_BOOT_BUNDLE ≤ 2)) then false else
      if !(decide (s.pow.trimDone = true)) then false else
      if !(decide (s.upd.loading = none)) then false else
      if !(decide (nth s.upd.areas (s.fg SLOT_BOOT_BUNDLE - 1) none = none)) then false else
      if !(decide (s.begin_.bundleFail b = some c)) then false else
      true) &&
    (let s : State := bootS ⟨5, 0, true, false, 0, 0⟩
      let x : ImgRead := good [image1]
      let b : BootRec := ⟨5, 0, true, false, 0, 0⟩
      if !(decide (s.pow.trimDone = false)) then false else
      if !(decide (s.mode = .trim)) then false else
      if !(decide (s.pow.booted = false)) then false else
      if !(decide (s.loader = false)) then false else
      if !(decide (s.strap 1 0 = 0)) then false else
      if !(decide (s.upd.brec = some b)) then false else
      if !(decide (b.active = 0)) then false else
      if !(decide (b.pendcomp = false)) then false else
      if !(decide (s.begin_.verifyFail x = none)) then false else
      true) &&
    (let s : State := bootS ⟨5, 0, true, false, 0, 0⟩
      let x : ImgRead := badR
      let y : ImgRead := good [image1]
      let b : BootRec := ⟨5, 0, true, false, 0, 0⟩
      let c : Rc := ⟨0x8D10, 0⟩
      if !(decide (s.pow.trimDone = false)) then false else
      if !(decide (s.mode = .trim)) then false else
      if !(decide (s.pow.booted = false)) then false else
      if !(decide (s.loader = false)) then false else
      if !(decide (s.strap 1 0 = 0)) then false else
      if !(decide (s.upd.brec = some b)) then false else
      if !(decide (b.active = 0)) then false else
      if !(decide (b.fbvalid = true)) then false else
      if !(decide (s.begin_.verifyFail x = some c)) then false else
      if !(decide (s.begin_.verifyFail y = none)) then false else
      true) &&
    (let s : State := { (bootS ⟨5, 0, false, false, 0, 0⟩) with pow := { State.reset.pow with bootFails := 1 } }
      let x : ImgRead := badR
      let b : BootRec := ⟨5, 0, false, false, 0, 0⟩
      let c : Rc := ⟨0x8D10, 0⟩
      if !(decide (s.pow.trimDone = false)) then false else
      if !(decide (s.mode = .trim)) then false else
      if !(decide (s.pow.booted = false)) then false else
      if !(decide (s.loader = false)) then false else
      if !(decide (s.strap 1 0 = 0)) then false else
      if !(decide (s.upd.brec = some b)) then false else
      if !(decide (b.fbvalid = false)) then false else
      if !(decide (b.active = 0)) then false else
      if !(decide (s.begin_.verifyFail x = some c)) then false else
      if !(decide (1 ≤ s.pow.bootFails)) then false else
      true) &&
    (let s : State := State.reset.fs SYS_STRAP_CFG 3
      if !(decide (s.pow.trimDone = false)) then false else
      if !(decide (s.mode = .trim)) then false else
      if !(decide (s.pow.booted = false)) then false else
      if !(decide (s.loader = false)) then false else
      if !(decide (s.strap 1 0 = 3)) then false else
      true)) = true := by
  decide +kernel

/-- States and operands that meet the hypotheses of StagedFieldsAndPendingPages, clause by clause. -/
theorem witness_StagedFieldsAndPendingPages : (
    (let s : State := on live 0x60
      let a : Access := mg
      let page : Nat := 0x60
      let off : Nat := 0x040
      let data : Word := 0
      if !(decide (page < 256)) then false else
      if !(decide (off < 4096)) then false else
      match grantAccess s.begin_ a (regAddr page off) with
      | .error _ => false
      | .ok (s1, w) =>
      match writeTarget s1.regs w (regAddr page off) data.toNat (2 ^ 32 - 1) with
      | .error _ => false
      | .ok (_, _, g) =>
      if !(decide (enabledR s1.regs page = true)) then false else
      if !(decide (0x40 ≤ off)) then false else
      if !(decide ((g.flds.any fun f => (f.cls == .staged || f.cls == .cycle) && f.writable && decide (0 < f.mask)) = true)) then false else
      if !(decide ((s1.fab.fks.any fun f => f.st == .pending && f.writes.any fun x => x.page == page) = false)) then false else
      true) &&
    (let s : State := withFk live [fk 127 .pending [⟨0x42, 0x040, 1, 1, 0⟩]]
      let a : Access := mg
      let page : Nat := 0x42
      let off : Nat := 0x008
      let data : Word := 2
      if !(decide (page < 256)) then false else
      if !(decide (off < 4096)) then false else
      match grantAccess s.begin_ a (regAddr page off) with
      | .error _ => false
      | .ok (s1, w) =>
      match writeTarget s1.regs w (regAddr page off) data.toNat (2 ^ 32 - 1) with
      | .error _ => false
      | .ok (_, _, _) =>
      if !(decide ((0x40 ≤ off ∨ off = 0x008))) then false else
      if !(decide ((s1.fab.fks.any fun f => f.st == .pending && f.writes.any fun x => x.page == page) = true)) then false else
      true)) = true := by
  decide +kernel

/-- States and operands that meet the hypotheses of HandoverBroken, clause by clause. -/
theorem witness_HandoverBroken : (
    (let s : State := updS 5 fun u => { u with stage := 6 }
      let a : Access := spia
      match accepted s.begin_ a (regAddr pgRST RST_CMD.off) 0x7A5E0002 with
      | none => false
      | some (s1, _, _, _, _) =>
      if !(decide (s1.updState = 5)) then false else
      if !(decide (1 ≤ s1.upd.stage)) then false else
      true) &&
    (let s : State := (updS 5 fun u => { u with stage := 1 }).fs RST_WDOG_TIMEOUT 1
      if !(decide (s.updState = 5)) then false else
      if !(decide (1 ≤ s.upd.stage)) then false else
      if !(decide (s.fg RST_WDOG_TIMEOUT ≠ 0)) then false else
      if !(decide (s.fab.access = true)) then false else
      true) &&
    (let s : State := updS 5 fun u => { u with stage := 3 }
      if !(decide (s.updState = 5)) then false else
      if !(decide (1 ≤ s.upd.stage)) then false else
      if !(decide (s.powered 2 = true)) then false else
      if !(decide (bit (s.fg DBG_STAT_HALTED) 0 = false)) then false else
      true) &&
    (let s : State := ({ (updS 5 fun u => { u with target := 1, prev := 0, brec := some ⟨1, 1, true, false, 0, 0⟩, slots := [none, some (man [image1]), none] }) with fab := { own.fab with access := false } })
      if !(decide (s.actPaused = true)) then false else
      if !(decide (s.upd.comp = none)) then false else
      if !(decide (s.upd.target < 2)) then false else
      if !(decide (s.upd.prev < 2)) then false else
      if !(decide (s.pow.trimDone = true)) then false else
      true)) = true := by
  decide +kernel

/-- States and operands that meet the hypotheses of LeavingDark, clause by clause. -/
theorem witness_LeavingDark : (
    (let s : State := lit (ownIn .dark 5)
      let a : Access := spia
      let req : Nat := 4
      let gc : Reg := (anyRegAt pgFAULT FLT_CAUSE.off).getD noReg
      if !(decide ((req = 3 ∨ req = 4))) then false else
      match accepted s.begin_ a (regAddr pgSYS SYS_MODE.off) req with
      | none => false
      | some (s1, w, _, _, _) =>
      if !(decide (s1.mode = .dark)) then false else
      if !(decide (s1.readNow w pgFAULT FLT_CAUSE.off gc = 0)) then false else
      true) &&
    (let s : State := lit { (ownIn .dark 5) with pow := { live.pow with req := some (3, 1) } }
      let w : Who := .sys 0
      let gc : Reg := (anyRegAt pgFAULT FLT_CAUSE.off).getD noReg
      let r : Nat := 3
      let b : Nat := 1
      if !(decide (s.mode = .dark)) then false else
      if !(decide (s.pow.req = some (r, b))) then false else
      if !(decide ((r = 3 ∨ r = 4))) then false else
      if !(decide (s.readNow w pgFAULT FLT_CAUSE.off gc = 0)) then false else
      true) &&
    (let s : State := (ownIn .dark 5).setReg 0x90 0x014 0xFFFFFFFF
      let a : Access := mg
      let page : Nat := 0x90
      let data : Word := 0x80000001
      if !(decide (page < 256)) then false else
      if !(decide (pageHasUnit page = true)) then false else
      match accepted s.begin_ a (regAddr page 0x014) data.toNat with
      | none => false
      | some (_, _, _, _, _) =>
      true) &&
    (  let page : Nat := 0x90
      if !(decide (page < 256)) then false else
      true)) = true := by
  decide +kernel

/-- States and operands that meet the hypotheses of TenantPermissions, clause by clause. -/
theorem witness_TenantPermissions : (
    (let s : State := (act chain0 15 0).fsi TEN_STATE_ROLE 15 2
      let a : Access := ⟨.ten 15, .link 0⟩
      let page : Nat := 0x60
      let off : Nat := 0x040
      let n : Fin 16 := 15
      let g : Reg := (anyRegAt 0x60 0x040).getD noReg
      if !(decide (page < 256)) then false else
      if !(decide (off < 4096)) then false else
      if !(decide (off % 4 = 0)) then false else
      match grantAccess s.begin_ a (regAddr page off) with
      | .error _ => false
      | .ok (s1, w) =>
      if !(decide (w = .ten n)) then false else
      if !(decide (anyRegAt page off = some g)) then false else
      if !(decide (page / 16 ≠ 1)) then false else
      if !(decide (mayWriteR s1.regs (.ten n) page = false)) then false else
      true) &&
    (let s : State := ((act chain0 15 0).fsi TEN_STATE_ROLE 15 2).fsk TEN_PW_PW 15 2 1
      let a : Access := ⟨.ten 15, .link 0⟩
      let k : Nat := 15
      let e : Nat := 6
      let n : Fin 16 := 15
      if !(decide (k < 16)) then false else
      if !(decide (e < 8)) then false else
      match grantAccess s.begin_ a (regAddr pgWIN (0x100 + 32 * k + 4 * e)) with
      | .error _ => false
      | .ok (s1, w) =>
      if !(decide (w = .ten n)) then false else
      match anyRegAt pgWIN (0x100 + 32 * k + 4 * e) with
      | none => false
      | some _ =>
      if !(decide (mayWriteR s1.regs (.ten n) pgWIN = true)) then false else
      if !(decide (roleR s1.regs n.val ≠ roleOwner)) then false else
      if !(decide (bit (s1.fgi TEN_WINPERM_WIN n.val) k = false)) then false else
      true) &&
    (let s : State := (((act chain0 15 0).fsi TEN_STATE_ROLE 15 2).fsk TEN_PW_PW 15 2 1).fsi TEN_WINPERM_WIN 15 0xFFFF
      let a : Access := ⟨.ten 15, .link 0⟩
      let k : Nat := 15
      let data : Word := 0xE1
      let n : Fin 16 := 15
      if !(decide (k < 16)) then false else
      if !(decide (n ≠ 0)) then false else
      match grantAccess s.begin_ a (regAddr pgWIN (0x100 + 32 * k + 4)) with
      | .error _ => false
      | .ok (s1, w) =>
      if !(decide (w = .ten n)) then false else
      match anyRegAt pgWIN (0x100 + 32 * k + 4) with
      | none => false
      | some _ =>
      if !(decide (mayWriteR s1.regs (.ten n) pgWIN = true)) then false else
      if !(decide (bitsOf data.toNat 1 0 = 1)) then false else
      if !(decide (bitsOf data.toNat 7 4 ≠ n.val)) then false else
      true)) = true := by
  decide +kernel

/-- States and operands that meet the hypotheses of KeysErased, clause by clause. -/
theorem witness_KeysErased : (
    (let s : State := withKey own
      let a : Access := spia
      match accepted s.begin_ a (regAddr pgRST RST_CMD.off) 0x7A5E0001 with
      | none => false
      | some (_, _, _, _, _) =>
      true) &&
    (let s : State := accd (act (withKey ownedS) 0 0) (enr 0 .unenrol)
      let o : Obj := enr 0 .unenrol
      if !(decide (s.sec.acc = [o])) then false else
      if !(decide (o.body = .unenrol)) then false else
      if !(decide (s.tst o.slot.val ≠ tEMPTY)) then false else
      if !(decide (o.slot.val < s.keys.length)) then false else
      true) &&
    (let s : State := accd (act (withKey ownedS) 0 0) (enr 0 (.transfer 0))
      let o : Obj := enr 0 (.transfer 0)
      if !(decide (s.sec.acc = [o])) then false else
      if !(decide (o.body = .transfer 0)) then false else
      if !(decide (s.tst 0 ≠ tEMPTY)) then false else
      if !(decide (s.keys.length = 16)) then false else
      true)) = true := by
  decide +kernel

/-- States and operands that meet the hypotheses of FirkinsSleepAndTrimComplete, clause by clause. -/
theorem witness_FirkinsSleepAndTrimComplete : (
    (let s : State := withFk live [fk 127 .checking [⟨0x80, 0x018, 1, 1, 0⟩]]
      let h : Nat := 127
      match s.fk? h with
      | none => false
      | some f =>
      if !(decide (f.st = .checking)) then false else
      true) &&
    (let s : State := withFk live [fk 127 .failed [⟨0x80, 0x018, 1, 1, 0⟩]]
      let h : Nat := 127
      match s.fk? h with
      | none => false
      | some f =>
      if !(decide ((f.st = .open_ ∨ f.st = .failed))) then false else
      true) &&
    (let s : State := withFk live [fk 127 .pending [⟨0x80, 0x018, 0xFF, 0xA5, 0⟩]]
      let h : Nat := 127
      match s.fk? h with
      | none => false
      | some f =>
      if !(decide (f.st = .pending)) then false else
      if !(decide ((∀ y ∈ s.fab.fks, y.st = .pending → y = f))) then false else
      if !(decide ((s.tim.running = false ∧ f.trig = .imm ∨
          s.tim.running = true ∧ s.atSpan = true ∧ s.fkDue f (if s.atCycle = true then [s.dcn] else []) = true))) then false else
      true) &&
    (let s : State := withFk live [{ fk 127 .pending [⟨0x80, 0x018, 1, 1, 0⟩] with trig := .dcn 7 }]
      let h : Nat := 127
      match s.fk? h with
      | none => false
      | some f =>
      if !(decide (f.st = .pending)) then false else
      if !(decide (f.trig ≠ .imm)) then false else
      if !(decide (s.begin_.cycles = false)) then false else
      true) &&
    (let s : State := { live with pow := { live.pow with req := some (0, 1) } }
      let b : Nat := 1
      if !(decide ((s.mode = .show ∨ s.mode = .service ∨ s.mode = .dark))) then false else
      if !(decide (s.pow.req = some (0, b))) then false else
      if !(decide (s.pow.sleeping = false)) then false else
      true) &&
    (let s : State := (inMode .sleep 0).setReg pgPWRDOM PD_CFG.off 0xFF
      let src : Fin 4 := 3
      if !(decide (s.mode = .sleep)) then false else
      if !(decide (bit (s.reg pgPWRDOM PD_CFG.off) (4 + src.val) = true)) then false else
      true) &&
    (let s : State := (State.reset.fs SYS_STRAP_CFG 0x40)
      if !(decide (s.mode = .trim)) then false else
      if !(decide (s.pow.trimDone = false)) then false else
      if !(decide (s.presetDue = true)) then false else
      true) &&
    (let s : State := (State.reset.fs SYS_STRAP_CFG 0x40).fs SLOT_BOOT_BUNDLE 1
      let l : List (Nat × Nat × Word) := [(bitsOf 0 0 0 + pgSCAN * 2 ^ FK_SADDR_PAGE.lo + (SCAN_HR.off / 4) * 2 ^ FK_SADDR_WORD.lo, 1, 1)]
      if !(decide (s.mode = .trim)) then false else
      if !(decide (s.pow.trimDone = false)) then false else
      if !(decide (s.presetDue = true)) then false else
      if !(decide (s.fg SLOT_BOOT_BUNDLE ≠ 0)) then false else
      if !(decide (l ≠ [])) then false else
      if !(decide (l.length ≤ 256)) then false else
      if !(decide ((∀ x ∈ l, State.presetPage (State.presetWrite x).page = true))) then false else
      match (s.begin_.modPow fun p => { p with presetDone := true }).autoFirkin (l.map State.presetWrite) false with
      | (_, some _) => false
      | (_, none) =>
      true) &&
    (let s : State := (State.reset.fs SYS_STRAP_CFG 0x100)
      if !(decide (s.mode = .trim)) then false else
      if !(decide (s.pow.trimDone = false)) then false else
      if !(decide (s.presetDue = false)) then false else
      if !(decide (s.probeDue = true)) then false else
      true) &&
    (let s : State := (State.reset.fs SYS_STRAP_CFG 0x100)
      let ack : BitVec 8 := 0x87
      let ms : List Nat := [0, 1, 2, 7]
      if !(decide (s.mode = .trim)) then false else
      if !(decide (s.pow.trimDone = false)) then false else
      if !(decide (s.presetDue = false)) then false else
      if !(decide (s.probeDue = true)) then false else
      if !(decide (s.fg TWI_STAT_STUCK = 0)) then false else
      if !(decide (ms = (List.range 8).filter (bit ack.toNat))) then false else
      if !(decide (3 ≤ ms.length)) then false else
      match ((s.begin_.modPow fun p => { p with probed := true }).probeReads ack.toNat).autoFirkin
          (ms.zipIdx.flatMap fun x => State.probeWrites ms.length x.2 x.1) false with
      | (_, some _) => false
      | (_, none) =>
      true) &&
    (let s : State := trimDue
      let im : RetImage := ⟨[], []⟩
      if !(decide (s.mode = .trim)) then false else
      if !(decide (s.pow.trimDone = false)) then false else
      if !(decide (s.presetDue = false)) then false else
      if !(decide (s.probeDue = false)) then false else
      if !(decide (s.memReady = true)) then false else
      if !(decide (s.pow.image = some im)) then false else
      true) &&
    (let s : State := { trimDue with pow := { trimDue.pow with image := some ⟨[], [⟨[ev0, ev0], 3, true, 1, 4⟩, ⟨[ev0], 0, false, 0, 1⟩]⟩ } }
      let im : RetImage := ⟨[], [⟨[ev0, ev0], 3, true, 1, 4⟩, ⟨[ev0], 0, false, 0, 1⟩]⟩
      if !(decide (s.mode = .trim)) then false else
      if !(decide (s.pow.trimDone = false)) then false else
      if !(decide (s.presetDue = false)) then false else
      if !(decide (s.probeDue = false)) then false else
      if !(decide (s.memReady = true)) then false else
      if !(decide (s.pow.image = some im)) then false else
      if !(decide (im.regs = [])) then false else
      true) &&
    (let s : State := trimDone.setReg pgTRIM 0x00C 0x10000
      if !(decide (s.trimOver = true)) then false else
      true)) = true := by
  decide +kernel

/-- States and operands that meet the hypotheses of PowerAndDebugComplete, clause by clause. -/
theorem witness_PowerAndDebugComplete : (
    (let s : State := { live with pow := { live.pow with powering := [10] } }
      let d : Fin 11 := 10
      if !(decide (s.pow.powering.contains d.val = true)) then false else
      true) &&
    (let s : State := { live with pow := { live.pow with powering := [10] } }
      let d : Fin 11 := 10
      if !(decide (s.pow.powering.contains d.val = true)) then false else
      true) &&
    (let s : State := live
      if !(decide ((s.mode = .show ∨ s.mode = .service ∨ s.mode = .dark))) then false else
      true) &&
    (let s : State := live
      if !(decide ((s.mode = .show ∨ s.mode = .service))) then false else
      true) &&
    (let s : State := live
      let k : Fin 16 := 15
      if !(decide (s.powered (State.stoneDomain k.val) = true)) then false else
      true) &&
    (let s : State := { live with pow := { live.pow with shutWait := some 7 } }
      let d : Nat := 7
      if !(decide ((s.mode = .show ∨ s.mode = .service))) then false else
      if !(decide (s.pow.shutWait = some d)) then false else
      if !(decide (s.nvWriting = false)) then false else
      true) &&
    (let s : State := (own.fs DBG_SCOPE_SCOPE 31)
      let a : Access := spia
      let k : Fin 5 := 4
      match accepted s.begin_ a (regAddr pgDBG DBG_HALT.off) (putBits (s.fg DBG_HALT_HALT) k.val k.val 1) with
      | none => false
      | some (_, _, _, _, _) =>
      if !(decide (bit (s.fg DBG_STAT_HALTED) k.val = false)) then false else
      if !(decide (bit (s.fg DBG_SCOPE_SCOPE) k.val = true)) then false else
      true) &&
    (let s : State := ((own.fs DBG_SCOPE_SCOPE 31).fs DBG_HALT_HALT 16).fs DBG_STAT_HALTED 16
      let a : Access := spia
      let k : Fin 5 := 4
      match accepted s.begin_ a (regAddr pgDBG DBG_HALT.off) (putBits (s.fg DBG_HALT_HALT) k.val k.val 0) with
      | none => false
      | some (_, _, _, _, _) =>
      if !(decide (bit (s.fg DBG_STAT_HALTED) k.val = true)) then false else
      true) &&
    (let s : State := ((inMode .service 3).fs DBG_SCOPE_SCOPE 31)
      if !(decide (bit (s.fg DBG_SCOPE_SCOPE) 4 = true)) then false else
      if !(decide (s.mode = .service)) then false else
      if !(decide (enabledR s.regs pgSUPPLY = false)) then false else
      true) &&
    (let s : State := live
      if !(decide (s.powered 2 = true)) then false else
      if !(decide (bit (s.fg DBG_STAT_HALTED) 0 = false)) then false else
      true)) = true := by
  decide +kernel

/-- States and operands that meet the hypotheses of TenantsAndLinksComplete, clause by clause. -/
theorem witness_TenantsAndLinksComplete : (
    (let s : State := own.setTst 15 tENROLLED
      let a : Access := spia
      let n : Fin 16 := 15
      match accepted s.begin_ a (regAddr (pgTEN + n.val) TEN_CMD.off) 1 with
      | none => false
      | some (s1, _, _, _, _) =>
      if !(decide (s1.tst n.val ≠ tEMPTY)) then false else
      true) &&
    (let s : State := own.setTst 15 tACTIVE
      let a : Access := spia
      let n : Fin 16 := 15
      match accepted s.begin_ a (regAddr (pgTEN + n.val) TEN_CMD.off) 2 with
      | none => false
      | some (s1, _, _, _, _) =>
      if !(decide (n.val ≠ 0)) then false else
      if !(decide (s1.tst n.val ≠ tEMPTY)) then false else
      true) &&
    (let s : State := own.setTst 15 tQUAR
      let a : Access := spia
      let n : Fin 16 := 15
      match accepted s.begin_ a (regAddr (pgTEN + n.val) TEN_CMD.off) 3 with
      | none => false
      | some (s1, _, _, _, _) =>
      if !(decide (s1.tst n.val = tQUAR)) then false else
      true) &&
    (let s : State := own.setTst 15 tENROLLED
      let a : Access := spia
      let n : Fin 16 := 15
      let run : Bool := true
      match accepted s.begin_ a (regAddr (pgTEN + n.val) TEN_RUN.off) (b2n run) with
      | none => false
      | some (_, _, _, _, _) =>
      true) &&
    (let s : State := (own.setTst 15 tACTIVE)
      let n : Fin 16 := 15
      if !(decide (s.tst n.val = tACTIVE)) then false else
      if !(decide (s.fab.access = true)) then false else
      true) &&
    (let s : State := live
      if !(decide (s.fab.access = true)) then false else
      true) &&
    (let s : State := ((own.setTst 15 tRESETTING).setTst 3 tRESETTING)
      let n : Fin 16 := 15
      if !(decide (s.tst n.val = tRESETTING)) then false else
      true) &&
    (let s : State := (((withKey (act (on chain0 0x30) 0 0)).fs FEED_FMT_FPC 2).fs CH_PATH_PATH_ACT 0).fsi FEED_RUN_RUN_ACT 0 1
      let f : Frame := { frm 0 1 with blen := 200, nrec := 1, ing := ⟨0, 0, true⟩ }
      let recs : List FeedRec := [⟨5, 100, 0, [], 53⟩]
      let own : Nat := chain0.ownId.getD 0
      match s.begin_.rxHead f with
      | (_, false) => false
      | (s1, true) =>
      if !(decide (f.typ = 1)) then false else
      if !(decide (f.fcsOk = true)) then false else
      if !(decide (s1.ownId = some own)) then false else
      if !(decide (State.recsOver f recs = false)) then false else
      match State.ownRec own (recs.take f.nrec) with
      | none => false
      | some r =>
      if !(decide (f.port.val = s1.pathAct)) then false else
      if !(decide (1 ≤ r.slen)) then false else
      if !(decide (r.slen ≤ 8960)) then false else
      if !(decide (s1.feedServed f.tenant.val = true)) then false else
      if !(decide (State.ingressTakes f.ing (State.recBytes r) = true)) then false else
      if !(decide (s1.keyOk f.tenant.val 0 f.dcn r.key = true)) then false else
      if !(decide (f.tenant.val < s1.tens.length)) then false else
      true) &&
    (let s : State := withKey (act chain0 0 0)
      let f : Frame := { frm 0 2 with seq := 1 }
      let key : Nat := 77
      match s.begin_.rxDown f 2 with
      | (_, false) => false
      | (s1, true) =>
      if !(decide (s1.ownId = some f.first)) then false else
      if !(decide (mgmtRoom f = true)) then false else
      if !(decide (s1.fab.access = true)) then false else
      if !(decide (bit (s1.fg DBG_STAT_HALTED) 0 = false)) then false else
      if !(decide (key ≠ 0)) then false else
      if !(decide ((s1.slotKeys f.tenant.val).mkey = key)) then false else
      if !(decide (s1.tst f.tenant.val = tACTIVE)) then false else
      if !(decide (f.seq < 2 ^ 16)) then false else
      if !(decide (f.seq = (s1.fgi TEN_SEQ_HIGH f.tenant.val + 1) % 2 ^ 16)) then false else
      true) &&
    (let s : State := chain0
      let f : Frame := { frm 3 9 with dir := 1, typ := 3, etype := chain0.fg CH_ETYPE_ETYPE }
      if !(decide (2 ≤ f.port.val)) then false else
      if !(decide (s.passes f.port.val = true)) then false else
      if !(decide (s.passes (partner f.port.val) = true)) then false else
      if !(decide (f.fcsOk = true)) then false else
      if !(decide (f.etype = s.fg CH_ETYPE_ETYPE)) then false else
      if !(decide (f.etype ≠ 0)) then false else
      if !(decide (f.len ≤ s.fg CH_MAXFR_BYTES)) then false else
      if !(decide (f.hcrcOk = true)) then false else
      if !(decide (headerBad f = false)) then false else
      if !(decide (f.hop < 64)) then false else
      if !(decide (rangeOk f = true)) then false else
      true) &&
    (let s : State := withKey chain0
      let f : Frame := frm 0 6
      let key : Nat := 55
      match s.begin_.rxDown f 6 with
      | (_, false) => false
      | (s1, true) =>
      if !(decide (f.port.val = 0)) then false else
      if !(decide (key ≠ 0)) then false else
      if !(decide (((s1.chainKey 0 2).cur.any (fun x => x.2 == key) = true))) then false else
      true) &&
    (let s : State := chain0
      let f : Frame := frm 0 7
      match s.begin_.rxDown f 7 with
      | (_, false) => false
      | (_, true) =>
      if !(decide (f.port.val < s.lnk.ports.length)) then false else
      true) &&
    (let s : State := chain0
      let f : Frame := { frm 0 9 with etype := 0x88F7 }
      if !(decide (f.etype = 0x88F7)) then false else
      if !(decide (s.passes f.port.val = true)) then false else
      if !(decide (s.passes (partner f.port.val) = true)) then false else
      if !(decide (f.fcsOk = true)) then false else
      if !(decide (portUsed s.role (partner f.port.val) = true)) then false else
      true) &&
    (let s : State := hbAt (port live 3) 3
      let p : Fin 4 := 3
      if !(decide (s.hbOk p.val = true)) then false else
      true) &&
    (let s : State := hbAt ((chain0.fs CH_PATH_AUTOSW 1).fs CH_PATH_REVERT 100 |>.fs CH_PATH_PATH_ACT 1) 0
      if !(decide (s.fg CH_PATH_AUTOSW = 1)) then false else
      if !(decide (s.fg CH_PATH_REVERT ≠ 0)) then false else
      if !(decide (s.pathAct ≠ s.fg CH_PATH_PATH_REQ)) then false else
      if !(decide (s.hbOk (s.fg CH_PATH_PATH_REQ) = true)) then false else
      true) &&
    (let s : State := (on live 0x23).fsi LNK_CFG_SPEED_REQ 3 1
      let p : Fin 4 := 3
      let g25 : Bool := true
      if !(decide (s.active (pgLNK + p.val) = true)) then false else
      if !(decide (s.locked p.val = false)) then false else
      if !(decide ((s.fgi LNK_CFG_SPEED_REQ p.val = (if g25 = true then 1 else 2) ∨ s.fgi LNK_CFG_SPEED_REQ p.val = 0 ∧ (s.port p.val).seek25 = g25))) then false else
      true) &&
    (let s : State := hbAt (port live 3) 3
      let p : Fin 4 := 3
      if !(decide (s.active (pgLNK + p.val) = true)) then false else
      if !(decide (s.locked p.val = true)) then false else
      true) &&
    (let s : State := (on live 0x23).fsi LNK_CFG_SPEED_REQ 3 0
      let p : Fin 4 := 3
      if !(decide (s.active (pgLNK + p.val) = true)) then false else
      if !(decide (s.locked p.val = false)) then false else
      if !(decide (s.fgi LNK_CFG_SPEED_REQ p.val = 0)) then false else
      if !(decide (p.val < s.lnk.ports.length)) then false else
      true) &&
    (let s : State := (on live 0x23).fsi LNK_CFG_SPEED_REQ 3 1
      let p : Fin 4 := 3
      if !(decide (s.active (pgLNK + p.val) = true)) then false else
      if !(decide (s.locked p.val = false)) then false else
      if !(decide (s.fgi LNK_CFG_SPEED_REQ p.val = 1)) then false else
      true) &&
    (let s : State := port live 3
      let p : Fin 4 := 3
      if !(decide (s.active (pgLNK + p.val) = true)) then false else
      true)) = true := by
  decide +kernel

/-- States and operands that meet the hypotheses of SpiaAndTimeComplete, clause by clause. -/
theorem witness_SpiaAndTimeComplete : (
    (let s : State := sp1
      if !(decide (s.fg SPIA_CFG_ROLE = 0)) then false else
      if !(decide (s.fg SPIA_CFG_CHAIN = 0)) then false else
      if !(decide (s.mode ≠ .sleep)) then false else
      if !(decide (s.fg SYS_SPIA_EN = 1)) then false else
      if !(decide (s.fg SPIA_CFG_WAIT = 0)) then false else
      match grantAccess s.begin_ s.spiaBy (regAddr pgSYS SYS_SCRATCH.off) with
      | .error _ => false
      | .ok (s1, w) =>
      if !(decide (mayReadR s1.regs w pgSYS = true)) then false else
      true) &&
    (let s : State := sp1
      let v : Word := 0xFFFFFFFF
      if !(decide (s.fg SPIA_CFG_ROLE = 0)) then false else
      if !(decide (s.fg SPIA_CFG_CHAIN = 0)) then false else
      if !(decide (s.mode ≠ .sleep)) then false else
      if !(decide (s.fg SYS_SPIA_EN = 1)) then false else
      match accepted s.begin_ s.spiaBy (regAddr pgSYS SYS_SCRATCH.off) v.toNat with
      | none => false
      | some (_, _, _, _, _) =>
      true) &&
    (let s : State := sp1
      let v : Word := 0xFFFFFFFF
      if !(decide (s.fg SPIA_CFG_ROLE = 0)) then false else
      if !(decide (s.fg SPIA_CFG_CHAIN = 0)) then false else
      if !(decide (s.mode ≠ .sleep)) then false else
      if !(decide (s.fg SYS_SPIA_EN = 1)) then false else
      match accepted s.begin_ s.spiaBy (regAddr pgSYS SYS_SCRATCH.off) v.toNat with
      | none => false
      | some (_, _, _, _, _) =>
      true) &&
    (let s : State := sp1
      if !(decide (s.fg SPIA_CFG_ROLE = 0)) then false else
      if !(decide (s.fg SPIA_CFG_CHAIN = 0)) then false else
      if !(decide (s.mode ≠ .sleep)) then false else
      if !(decide (s.fg SYS_SPIA_EN = 1)) then false else
      match grantAccess s.begin_ s.spiaBy (regAddr pgSYS 0) with
      | .error _ => false
      | .ok (_, _) =>
      true) &&
    (let s : State := sp1
      if !(decide (s.fg SPIA_CFG_ROLE = 0)) then false else
      if !(decide (s.fg SPIA_CFG_CHAIN = 0)) then false else
      if !(decide (s.mode ≠ .sleep)) then false else
      if !(decide (s.fg SYS_SPIA_EN = 1)) then false else
      true) &&
    (let s : State := recv
      let x : Piece := pc0
      if !(decide (s.fg SPIA_CFG_ROLE = 0)) then false else
      if !(decide (s.fg SPIA_CFG_CHAIN = 0)) then false else
      if !(decide (s.mode ≠ .sleep)) then false else
      if !(decide (s.fg SYS_SPIA_EN = 1)) then false else
      if !(decide (x.len ≤ 4096)) then false else
      match grantAccess s.begin_ s.spiaBy (regAddr pgUPD 0) with
      | .error _ => false
      | .ok (s1, w) =>
      if !(decide (s1.pieceFail w true (some (32 + x.len)) x = none)) then false else
      if !(decide (s1.pieceGot x.index = false)) then false else
      if !(decide ((s1.upd.queue.any fun q => q.index == x.index) = false)) then false else
      true) &&
    (let s : State := sp1
      if !(decide (s.fg SPIA_CFG_ROLE = 0)) then false else
      if !(decide (s.mode ≠ .sleep)) then false else
      if !(decide (s.fg SPIA_CFG_CHAIN = 0)) then false else
      if !(decide (s.fg SYS_SPIA_EN = 1)) then false else
      match grantAccess s.begin_ s.spiaBy (regAddr pgSYS 0) with
      | .error _ => false
      | .ok (_, _) =>
      true) &&
    (let s : State := (sp1.fs SPIA_CFG_ROLE 1).fs SYS_SPIA_EN 0
      if !(decide (s.fg SPIA_CFG_ROLE = 1)) then false else
      if !(decide (s.loader = false)) then false else
      if !(decide (s.mode ≠ .sleep)) then false else
      if !(decide (s.fg SYS_SPIA_EN = 0)) then false else
      true) &&
    (let s : State := ptp0
      let m : PtpMsg := { pm 0 with twoStep := true, logInt := -7 }
      if !(decide (s.passes m.port.val = true)) then false else
      if !(decide (-7 ≤ m.logInt)) then false else
      if !(decide (m.logInt ≤ 0)) then false else
      if !(decide (s.ptpMine m = true)) then false else
      true) &&
    (let s : State := { ptp0 with tim := { ptp0.tim with twoStep := some { pm 0 with twoStep := true } } }
      let m : PtpMsg := pm 0
      if !(decide (s.passes m.port.val = true)) then false else
      match s.tim.twoStep with
      | none => false
      | some y =>
      if !(decide (s.ptpMine m = true)) then false else
      if !(decide (y.port = m.port)) then false else
      if !(decide (y.seq = m.seq)) then false else
      true) &&
    (let s : State := ptp0
      if !(decide (s.servo ≠ 0)) then false else
      true) &&
    (let s : State := ptp0
      let m : PtpMsg := pm 3
      if !(decide (s.passes m.port.val = true)) then false else
      if !(decide (m.domain = s.fg PTP_CFG_DOMAIN)) then false else
      true) &&
    (let s : State := { ptp0 with tim := { ptp0.tim with pdSent := [none, some 31999990000], pdSeq := 0 } }
      let m : PtpMsg := pm 1
      if !(decide (s.passes m.port.val = true)) then false else
      if !(decide (m.port.val < 2)) then false else
      if !(decide (s.servo ≠ 0)) then false else
      match nth s.tim.pdSent m.port.val none with
      | none => false
      | some _ =>
      if !(decide (m.seq % 65536 = s.tim.pdSeq % 65536)) then false else
      if !(decide (m.domain = s.fg PTP_CFG_DOMAIN)) then false else
      true) &&
    (let s : State := { ptp0 with tim := { ptp0.tim with gm := none } }
      let m : PtpMsg := pm 0
      if !(decide (s.passes m.port.val = true)) then false else
      if !(decide (s.servo ≠ 0)) then false else
      if !(decide (m.port.val = s.pathAct)) then false else
      if !(decide (m.domain = s.fg PTP_CFG_DOMAIN)) then false else
      if !(decide (s.tim.gm = none)) then false else
      true) &&
    (let s : State := ptp0
      let m : PtpMsg := pm 3
      if !(decide (s.passes m.port.val = true)) then false else
      true) &&
    (let s : State := ptp0.fs PTP_STAT_STATE 3
      if !(decide ((s.servo = 2 ∨ s.servo = 3))) then false else
      true) &&
    (let s : State := ptp0.fs PTP_STAT_STATE 4
      if !(decide (s.servo = 4)) then false else
      true) &&
    (let s : State := (withKey ((act chain0 0 0).fsi TEN_STATE_ROLE 0 5)).fs TIME_STAT_STATE 1 |>.fs PTP_STAT_WT_VALID 1
      let f : Frame := { frm 0 5 with first := 0 }
      let b : Beat := ⟨2, 500000, 2, 0, true, 54⟩
      let own : Nat := 5
      match s.begin_.rxDown f 5 with
      | (_, false) => false
      | (s1, true) =>
      if !(decide (s1.ownId = some own)) then false else
      if !(decide (f.first ≤ own)) then false else
      if !(decide (own ≤ f.last)) then false else
      if !(decide (s1.keyOk f.tenant.val 1 f.dcn b.key = true)) then false else
      if !(decide (roleR s1.regs f.tenant.val = roleTiming)) then false else
      if !(decide (nth s1.tim.lastF f.tenant.val 0 ≤ f.fctr)) then false else
      if !(decide (s1.wtValid = true)) then false else
      if !(decide (f.tenant.val < s1.tim.lastF.length)) then false else
      if !(decide ((((s1.wall : Nat) : Int) - (State.beatTime b.tsSec b.tsNs : Nat)).natAbs ≤ s1.fg TIME_LOCK_SUSP * Config.us)) then false else
      if !(decide ((100 * Config.us : Nat) ≤ ((State.beatTime b.tSec b.tNs : Nat) : Int) - s1.wall)) then false else
      if !(decide (((State.beatTime b.tSec b.tNs : Nat) : Int) - s1.wall ≤ (Config.sec : Nat))) then false else
      true) &&
    (let s : State := { cyc with tim := { cyc.tim with holdEnd := some 33000000000 } }.fs TIME_STAT_STATE 3
      let e : Nat := 33000000000
      if !(decide (s.tim.holdEnd = some e)) then false else
      if !(decide (s.gen = 3)) then false else
      true) &&
    (let s : State := cyc
      if !(decide (s.fg TIME_STAT_PLL_LOCK = 1)) then false else
      true) &&
    (let s : State := (on live 0x26).fs TIME_STAT_STATE 0
      if !(decide (s.gen = 0)) then false else
      if !(decide (s.active pgTIME = true)) then false else
      true) &&
    (let s : State := (cyc.fs TIME_PPS_EN 1)
      if !(decide (s.wtValid = true)) then false else
      if !(decide (s.fg TIME_PPS_EN = 1)) then false else
      if !(decide (s.gen ≠ 0)) then false else
      if !(decide (s.gen ≠ 3)) then false else
      true) &&
    (let s : State := live
      if !(decide (s.mode ≠ .sleep)) then false else
      if !(decide (s.tim.running = false)) then false else
      true) &&
    (let s : State := { cyc with tim := { cyc.tim with running := false } };
      match s.nextCycle with
      | none => false
      | some c =>
      if !(decide ((s.tim.running = false ∨ c.g ≤ s.scan.startAt + s.spanLen))) then false else
      true)) = true := by
  decide +kernel

/-- States and operands that meet the hypotheses of PixelsAndHealthComplete, clause by clause. -/
theorem witness_PixelsAndHealthComplete : (
    (let s : State := { arr with patts := modAt arr.patts 15 fun p => { p with rendering := true } }
      let e : Fin 16 := 15
      if !(decide ((s.patt e.val).rendering = true)) then false else
      if !(decide (s.halfServes (decide (8 ≤ e.val)) = true)) then false else
      true) &&
    (let s : State := jstart.fsk WIN_SWP_SWEEPS 0 15 1
      let r : Rel := ⟨15, true, false, none⟩
      if !(decide (s.nextRel = some r)) then false else
      if !(decide (s.winOn r.win = true)) then false else
      if !(decide (s.active pgWIRE = true)) then false else
      if !(decide (s.arrayServes = true)) then false else
      if !(decide (s.blendFirst = false)) then false else
      if !(decide (s.planUnits ≤ s.unitsFree.length)) then false else
      true) &&
    (let s : State := jobs false
      let k : Nat := 1
      if !(decide (s.arrayServes = true)) then false else
      match s.pix.jobs[k]? with
      | none => false
      | some _ =>
      true) &&
    (let s : State := ({ arr with scan := { arr.scan with inCycle := true } }.fs CORR_STAT_BLEND 1)
      if !(decide (s.blendState = 1)) then false else
      if !(decide (s.arrayServes = true)) then false else
      if !(decide ((∀ j ∈ s.pix.jobs, s.blend.swaps ≤ j.inp.copy))) then false else
      true) &&
    (let s : State := (arr.fs CORR_STAT_BLEND 3)
      if !(decide (s.blendState = 3)) then false else
      if !(decide (s.bothServe = true)) then false else
      if !(decide (s.setsLoaded = true)) then false else
      true) &&
    (let s : State := { arr with field := { arr.field with refreshAt := 40000000000, sampleAt := 40000000001 } }
      if !(decide (s.refreshDue = true)) then false else
      true) &&
    (let s : State := live
      let a : Access := mg
      match accepted s.begin_ a (regAddr pgADMIT ADM_CMD.off) 1 with
      | none => false
      | some (_, _, _, _, _) =>
      true) &&
    (let s : State := own
      let a : Access := spia
      let h : Fin 2 := 1
      let v : Word := 0xFFFFFFFF
      match accepted s.begin_ a (regAddr pgPIX (if h = 0 then PIX_RET_A.off else PIX_RET_B.off)) v.toNat with
      | none => false
      | some (_, _, _, _, _) =>
      true) &&
    (let s : State := live.setReg pgTFIELD TF_SFAIL0.off 0xFF
      let a : Access := mg
      let h : Fin 2 := 0
      let v : Word := 0x0F
      match accepted s.begin_ a (regAddr pgTFIELD (if h = 0 then TF_SFAIL0.off else TF_SFAIL1.off)) v.toNat with
      | none => false
      | some (_, _, _, _, _) =>
      true) &&
    (let s : State := inMode .service 3
      let a : Access := mg
      let k : Fin 4 := 3
      let v : Word := 5
      match accepted s.begin_ a (regAddr pgEDGE (EDGE_OVR_CTRL.off + 4 * k.val)) v.toNat with
      | none => false
      | some (s1, w, _, o, _) =>
      if !(decide (s1.overrideFail w pgEDGE o v.toNat = none)) then false else
      true) &&
    (let s : State := live
      if !(decide (s.pow.trimDone = true)) then false else
      if !(decide (s.mode ≠ .sleep)) then false else
      if !(decide (s.mode ≠ .recovery)) then false else
      true) &&
    (let s : State := { live with field := { live.field with queued := some (List.replicate 16 (some 400)) } }
      let die : List (Option Int) := List.replicate 16 (some 400)
      if !(decide (s.field.queued = some die)) then false else
      if !(decide (s.ser.twiX = none)) then false else
      true) &&
    (let s : State := live
      let a : Access := mg
      let v : Nat := 0x20005
      match accepted s.begin_ a (regAddr pgWIRE WIRE_QSEL.off) (v % 2 ^ 18) with
      | none => false
      | some (_, _, _, _, _) =>
      true) &&
    (let s : State := live
      let a : Access := mg
      let v : Nat := 0x3FFFF
      match accepted s.begin_ a (regAddr pgHEALTH HEALTH_QSEL.off) (v % 2 ^ 18) with
      | none => false
      | some (_, _, _, _, _) =>
      true) &&
    (let s : State := live
      let a : Access := mg
      let v : Nat := 1023
      match accepted s.begin_ a (regAddr pgHEALTH HEALTH_LSEL.off) (v % 2 ^ 10) with
      | none => false
      | some (_, _, _, _, _) =>
      true) &&
    (let s : State := live
      let a : Access := mg
      match accepted s.begin_ a (regAddr pgHEALTH HEALTH_CMD.off) 1 with
      | none => false
      | some (_, _, _, _, _) =>
      true) &&
    (let s : State := live
      let a : Access := mg
      match accepted s.begin_ a (regAddr pgHEALTH HEALTH_CMD.off) 2 with
      | none => false
      | some (_, _, _, _, _) =>
      true) &&
    (let s : State := live
      let a : Access := mg
      let v : Nat := 65535
      match accepted s.begin_ a (regAddr pgRDBK RB_CLR.off) (v % 2 ^ 16) with
      | none => false
      | some (_, _, _, _, _) =>
      true) &&
    (let s : State := { live with sense := { live.sense with busy := true, entry := 31 } }
      if !(decide (s.sense.busy = true)) then false else
      true)) = true := by
  decide +kernel

/-- States and operands that meet the hypotheses of SupplyAndTrimComplete, clause by clause. -/
theorem witness_SupplyAndTrimComplete : (
    (let s : State := ph ((on live 0x98).fs SUP_CFG_LOCK 0) 7 fun p => { p with st := 1, failRun := 14 }
      let n : Fin 8 := 7
      if !(decide (s.active (pgPHASE + n.val) = true)) then false else
      if !(decide (s.powered 10 = true)) then false else
      if !(decide (s.sup.halt = false)) then false else
      true) &&
    (let s : State := live
      let a : Access := mg
      match accepted s.begin_ a (regAddr pgSUPPLY LOAD_ALL.off) 1 with
      | none => false
      | some (s1, _, _, _, _) =>
      if !(decide (s1.sup.phases.any (·.due) = false)) then false else
      true) &&
    (let s : State := (ph live 7 fun p => { p with st := 1, hg := true, per := 20000, zeroAt := 32000000000 }).fsi PH_TRIP_N 7 1
      let n : Fin 8 := 7
      let mv : Nat := 70000
      let g : Nat := 7000
      let v : GateLv := (s.phase n.val).gates (max s.now ((s.phase n.val).zeroAt + g))
      if !(decide (v.hg = true)) then false else
      if !(decide (v.hgAt + 32 * s.fgi PH_TRIP_LEB n.val ≤ max s.now ((s.phase n.val).zeroAt + g))) then false else
      if !(decide (s.fgi PH_TRIP_THR n.val < mv)) then false else
      if !(decide ((s.phase n.val).st = 1)) then false else
      if !(decide ((s.phase n.val).trippedNow = false)) then false else
      true) &&
    (let s : State := (ph { live with sup := { live.sup with rails := modAt live.sup.rails 0 fun r => { r with st := 2 } } } 7 fun p => { p with st := 1, evAt := some (32000000001, true) })
      let k : Fin 2 := 0
      match ((s.railPhases k.val fun n => (s.phase n).st == 1)) with
      | [] => false
      | n :: _ =>
      match (s.phase n).evAt with
      | none => false
      | some (_, _) =>
      true) &&
    (let s : State := (inMode .service 3).fs SUP_CFG_PRESENT 1
      let a : Access := mg
      let n : Fin 8 := 7
      let v : Word := 0x7FF8
      match accepted s.begin_ a (regAddr (pgPHASE + n.val) PH_TEST.off) v.toNat with
      | none => false
      | some (s1, _, _, _, _) =>
      if !(decide (s1.mode = .service)) then false else
      if !(decide (enabledR s1.regs pgSUPPLY = false)) then false else
      if !(decide ((bit v.toNat 0 && bit v.toNat 1 && bit v.toNat 2) = false)) then false else
      if !(decide (n.val < s1.sup.phases.length)) then false else
      true) &&
    (let s : State := (on (on live 0x90) 0x91).fs SUP_CFG_PRESENT 1 |>.fsi PH_RUN_RUN_REQ 0 1
      let k : Fin 2 := 0
      if !(decide (s.startsFrom k.val = true)) then false else
      if !(decide (k.val < s.sup.rails.length)) then false else
      true) &&
    (let s : State := rail live 1 1
      let k : Fin 2 := 1
      let mv : Nat := (railCfg (rail live 1 1).regs 1).vmin * 10 - 50
      if !(decide ((s.rail k.val).st = 1)) then false else
      if !(decide (mv ≤ (railCfg s.regs k.val).vmin * 10 + 50)) then false else
      if !(decide ((railCfg s.regs k.val).vmin * 10 ≤ mv + 50)) then false else
      true) &&
    (let s : State := rail live 1 1
      let k : Fin 2 := 1
      if !(decide ((s.rail k.val).st = 1)) then false else
      true) &&
    (let s : State := rail live 1 3
      let k : Fin 2 := 1
      if !(decide ((s.rail k.val).st = 3)) then false else
      true) &&
    (let s : State := rail live 1 2
      let k : Fin 2 := 1
      let fb : Nat := 9000
      if !(decide (10 * ((railCfg s.regs k.val).vmax + s.fg SUP_PROT_OVM) < 8 * fb)) then false else
      true) &&
    (let s : State := (rail live 1 2).fs SUP_RAILB_V_VMIN 400
      let k : Fin 2 := 1
      let fb : Nat := 0
      if !(decide ((s.rail k.val).st = 2)) then false else
      if !(decide (8 * fb + 10 * s.fg SUP_PROT_UVM < 10 * (railCfg s.regs k.val).vmin)) then false else
      true) &&
    (let s : State := live
      if !(decide (s.powered 10 = true)) then false else
      if !(decide (s.mode ≠ .trim)) then false else
      if !(decide (s.mode ≠ .sleep)) then false else
      true) &&
    (let s : State := { State.reset with trim := { State.reset.trim with blocks := [some (jrec 0xFFFFFFFF), some (jrec 0)] } }
      if !(decide (s.mode = .trim)) then false else
      if !(decide (s.trim.active = false)) then false else
      true) &&
    (let s : State := { State.reset with trim := { State.reset.trim with active := true } }
      let m : TrimMeas := { tm0 with taps := [16384] }
      if !(decide (s.trim.active = true)) then false else
      match trimValues m with
      | none => false
      | some _ =>
      true) &&
    (let s : State := { live with trim := { live.trim with wanted := some (jrec 3), used := some 1, blocks := [none, some (jrec 2)] } }
      let r : JRec := jrec 3
      if !(decide (s.trim.wanted = some r)) then false else
      if !(decide (s.mode ≠ .trim)) then false else
      if !(decide (s.trim.writing = none)) then false else
      if !(decide (s.pow.vddLow = false)) then false else
      if !(decide (s.pow.shut = false)) then false else
      if !(decide (s.dieNow ≤ 1840)) then false else
      true) &&
    (let s : State := { live with trim := { live.trim with writing := some (1, jrec 3) } }
      let r : JRec := jrec 3
      let b : Nat := 1
      if !(decide (s.trim.writing = some (b, r))) then false else
      if !(decide (s.trim.forget = false)) then false else
      true) &&
    (let s : State := ownIn .service 3
      let a : Access := spia
      match accepted s.begin_ a (regAddr pgTRIM TRIM_CMD.off) 1 with
      | none => false
      | some (s1, w, _, _, _) =>
      if !(decide (w.isT0 = true)) then false else
      if !(decide (s1.mode = .service)) then false else
      if !(decide (s1.dieNow ≤ 1840)) then false else
      true)) = true := by
  decide +kernel

/-- States and operands that meet the hypotheses of MemoryAndFlashComplete, clause by clause. -/
theorem witness_MemoryAndFlashComplete : (
    (let s : State := mem 3
      if !(decide (s.powered 4 = true)) then false else
      if !(decide ((s.memState = 0 ∨ s.memState = 3))) then false else
      true) &&
    (let s : State := mem 1
      if !(decide (s.memState = 1)) then false else
      true) &&
    (let s : State := mem 2
      if !(decide (s.memReady = true)) then false else
      true) &&
    (let s : State := mem 2
      if !(decide (s.memReady = true)) then false else
      true) &&
    (let s : State := mem 2
      if !(decide (s.memReady = true)) then false else
      true) &&
    (let s : State := mem 2
      if !(decide (s.memReady = true)) then false else
      true) &&
    (let s : State := { mem 2 with mem := { (mem 2).mem with rows := modAt (mem 2).mem.rows 15 fun _ => some (65535, 31000000000) } }
      let sc : Fin 2 := 1
      let b : Fin 8 := 7
      let row : Nat := 65535
      let at_ : Nat := 31000000000
      if !(decide (nth s.mem.rows (8 * sc.val + b.val) none = some (row, at_))) then false else
      true) &&
    (let s : State := (mem 2).fs ME_CFG_SCRUB 1
      if !(decide (s.memReady = true)) then false else
      if !(decide (s.fg ME_CFG_SCRUB ≠ 0)) then false else
      if !(decide (8 ≤ s.viewBytes)) then false else
      if !(decide (((s.mem.inflight ++ s.mem.waiting).any fun r => decide (r.cls < 3)) = false)) then false else
      true) &&
    (let s : State := { (ownIn .service 3) with now := 32000000000 }
      let a : Access := mg
      let v : Word := 1
      match accepted s.begin_ a (regAddr pgMECC ME_INJ.off) v.toNat with
      | none => false
      | some (s1, _, _, _, _) =>
      if !(decide (s1.mode = .service)) then false else
      true) &&
    (let s : State := mem 2
      let u : DUser := .mgmt
      let addr : Nat := 0x103FFFFFC0
      if !(decide (0x1000000000 ≤ addr)) then false else
      if !(decide ((addr - 0x1000000000) / 64 * 64 < s.viewBytes)) then false else
      if !(decide (userMay u (areaOf ((addr - 0x1000000000) / 64 * 64)) = true)) then false else
      if !(decide (s.memReady = true)) then false else
      if !(decide (s.credit (userCls u) = true)) then false else
      true) &&
    (let s : State := infl
      let k : Nat := 1
      let r : DReq := dreq 1073741760 (some ((List.range 64).map fun i => some (BitVec.ofNat 8 i)))
      if !(decide (s.mem.inflight[k]? = some r)) then false else
      if !(decide (s.mem.waiting = [])) then false else
      if !(decide (s.dramHeld k = false)) then false else
      true) &&
    (let s : State := own
      let a : Access := mg
      let v : Word := 256
      match accepted s.begin_ a (regAddr pgSPIB SPIB_CMD.off) (1 * 2 ^ 28 + v.toNat % 2 ^ 28) with
      | none => false
      | some (s1, _, _, _, _) =>
      if !(decide (s1.flashRefuse 1 (v.toNat % 512) = none)) then false else
      true) &&
    (let s : State := own
      let a : Access := mg
      let v : Word := 256
      match accepted s.begin_ a (regAddr pgSPIB SPIB_CMD.off) (2 * 2 ^ 28 + v.toNat % 2 ^ 28) with
      | none => false
      | some (s1, _, _, _, _) =>
      if !(decide (s1.flashRefuse 2 (v.toNat % 512) = none)) then false else
      true) &&
    (let s : State := own.fs SPIB_ADDR_ADDR 4096
      let a : Access := mg
      let v : Word := 0
      match accepted s.begin_ a (regAddr pgSPIB SPIB_CMD.off) (3 * 2 ^ 28 + v.toNat % 2 ^ 28) with
      | none => false
      | some (s1, _, _, _, _) =>
      if !(decide (s1.flashRefuse 3 (v.toNat % 512) = none)) then false else
      true) &&
    (let s : State := own.fs SPIB_ADDR_ADDR 65536
      let a : Access := mg
      let v : Word := 0
      match accepted s.begin_ a (regAddr pgSPIB SPIB_CMD.off) (4 * 2 ^ 28 + v.toNat % 2 ^ 28) with
      | none => false
      | some (s1, _, _, _, _) =>
      if !(decide (s1.flashRefuse 4 (v.toNat % 512) = none)) then false else
      true) &&
    (let s : State := own
      let a : Access := spia
      let v : Word := 0
      match accepted s.begin_ a (regAddr pgSPIB SPIB_CMD.off) (5 * 2 ^ 28 + v.toNat % 2 ^ 28) with
      | none => false
      | some (s1, _, _, _, _) =>
      if !(decide (s1.flashRefuse 5 (v.toNat % 512) = none)) then false else
      true) &&
    (let s : State := { live with ser := { live.ser with op := 2 } }
      if !(decide (s.flashBusy = true)) then false else
      true) &&
    (let s : State := { live with ser := { live.ser with op := 4, held := 9 } }
      if !(decide (s.flashBusy = true)) then false else
      true) &&
    (let s : State := live.fs SPIB_CFG_XIP_EN 1
      let off : Nat := 16777212
      if !(decide (s.fg SPIB_CFG_XIP_EN = 1)) then false else
      if !(decide (off < 2 ^ 24)) then false else
      if !(decide (s.flashBusy = false)) then false else
      true)) = true := by
  decide +kernel

/-- States and operands that meet the hypotheses of BusAndSessionsComplete, clause by clause. -/
theorem witness_BusAndSessionsComplete : (
    (let s : State := own
      let a : Access := spia
      let twi : Bool := true
      match accepted s.begin_ a (gcmdAddr twi) 1 with
      | none => false
      | some (s1, _, _, _, _) =>
      if !(decide (s1.grantOf twi = none)) then false else
      true) &&
    (let s : State := granted true
      let a : Access := spia
      let twi : Bool := true
      match accepted s.begin_ a (gcmdAddr twi) 2 with
      | none => false
      | some (_, _, _, _, _) =>
      true) &&
    (let s : State := own
      let a : Access := spia
      match accepted s.begin_ a (gcmdAddr true) 3 with
      | none => false
      | some (s1, _, _, _, _) =>
      if !(decide (s1.ser.twiX = none)) then false else
      true) &&
    (let s : State := granted true
      let twi : Bool := true
      match s.grantOf twi with
      | none => false
      | some _ =>
      true) &&
    (let s : State := granted false
      let a : Access := spia
      let v : Word := 16384 * 65536
      match accepted s.begin_ a (regAddr pgSPIC SPIC_XFER.off) v.toNat with
      | none => false
      | some (s1, _, _, _, _) =>
      if !(decide (1 ≤ bitsOf v.toNat 30 16)) then false else
      if !(decide (bitsOf v.toNat 30 16 ≤ 16384)) then false else
      if !(decide (s1.ser.spicX = none)) then false else
      if !(decide ((∀ x, s1.ser.kept = some x → x = v.toNat % 8))) then false else
      true) &&
    (let s : State := { (granted false) with ser := { own.ser with spicX := some ⟨0, 1, 16384, false, 32000000999⟩ } };
      match s.ser.spicX with
      | none => false
      | some _ =>
      true) &&
    (let s : State := granted true
      let a : Access := spia
      let v : Word := 256 * 131072 + 0x77
      match accepted s.begin_ a (regAddr pgTWI TWI_XFER.off) v.toNat with
      | none => false
      | some (s1, _, _, _, _) =>
      if !(decide (1 ≤ bitsOf v.toNat 25 17 + bitsOf v.toNat 16 8)) then false else
      if !(decide (bitsOf v.toNat 25 17 + bitsOf v.toNat 16 8 ≤ 256)) then false else
      if !(decide (8 ≤ v.toNat % 128)) then false else
      if !(decide (v.toNat % 128 < 0x78)) then false else
      if !(decide (s1.fg TWI_STAT_STUCK = 0)) then false else
      if !(decide (s1.ser.twiX = none)) then false else
      true) &&
    (let s : State := { (granted true) with ser := { own.ser with twiX := some ⟨0, 0x50, 1, 255, none⟩ } };
      match s.ser.twiX with
      | none => false
      | some x =>
      if !(decide (x.wait = none)) then false else
      true) &&
    (let s : State := { (granted true) with ser := { own.ser with twiX := some ⟨0, 0x50, 1, 255, none⟩ } };
      match s.ser.twiX with
      | none => false
      | some x =>
      if !(decide (x.wait = none)) then false else
      true) &&
    (let s : State := ((ownedS.setTst 5 tENROLLED).fsi TEN_RUN_RUN_REQ 5 1 |> fun s => { s with sec := { s.sec with store := { s.sec.store with recs := modAt s.sec.store.recs 5 fun _ => some ⟨2, 0, [], [], 66⟩ } } })
      let f : Frame := { ses with tenant := 5 }
      let c : Nat := 4294967295
      let k : Nat := 66
      match s.begin_.rxDown f 9 with
      | (_, false) => false
      | (s1, true) =>
      if !(decide (s1.ownId = some f.first)) then false else
      if !(decide (mgmtRoom f = true)) then false else
      if !(decide (s1.loaderServes f = true)) then false else
      if !(decide (1 ≤ s1.fg OSEC_RATE_PER_S)) then false else
      if !(decide (nth s1.sec.served f.port.val [] = [])) then false else
      if !(decide (s1.sec.replies = [])) then false else
      if !(decide (s1.establishFail f c k = none)) then false else
      if !(decide (f.tenant.val < s1.keys.length)) then false else
      true) &&
    (let s : State := ownedS
      let f : Frame := ses
      match s.begin_.rxDown f 9 with
      | (_, false) => false
      | (s1, true) =>
      if !(decide (s1.ownId = some f.first)) then false else
      if !(decide (mgmtRoom f = true)) then false else
      if !(decide (s1.loaderServes f = true)) then false else
      if !(decide (1 ≤ s1.fg OSEC_RATE_PER_S)) then false else
      if !(decide (nth s1.sec.served f.port.val [] = [])) then false else
      if !(decide (s1.sec.replies = [])) then false else
      if !(decide (s1.secBusy = false)) then false else
      if !(decide (s1.passes f.port.val = true)) then false else
      true) &&
    (let s : State := ownedS
      let f : Frame := { ses with tenant := 15 }
      match s.begin_.rxDown f 9 with
      | (_, false) => false
      | (s1, true) =>
      if !(decide (s1.ownId = some f.first)) then false else
      if !(decide (mgmtRoom f = true)) then false else
      if !(decide (s1.loaderServes f = true)) then false else
      if !(decide (1 ≤ s1.fg OSEC_RATE_PER_S)) then false else
      if !(decide (nth s1.sec.served f.port.val [] = [])) then false else
      if !(decide (s1.sec.replies = [])) then false else
      if !(decide (s1.secBusy = false)) then false else
      true) &&
    (let s : State := own
      let a : Access := spia
      match accepted s.begin_ a (regAddr pgATTEST ATT_CMD.off) 1 with
      | none => false
      | some (s1, w, _, _, _) =>
      if !(decide (s1.fgb w.bank ATT_STAT_BUSY = 0)) then false else
      if !(decide (s1.secBusy = false)) then false else
      true) &&
    (let s : State := own
      let a : Access := spia
      match accepted s.begin_ a (regAddr pgATTEST ATT_CMD.off) 2 with
      | none => false
      | some (s1, w, _, _, _) =>
      if !(decide (s1.fgb w.bank ATT_STAT_BUSY = 0)) then false else
      if !(decide (s1.secBusy = false)) then false else
      true) &&
    (let s : State := { ownedS with sec := { ownedS.sec with att := [⟨16, none, 17, [1]⟩, ⟨0, none, 1, []⟩] } }
      let r : AttReq := ⟨16, none, 17, [1]⟩
      let rest : List AttReq := [⟨0, none, 1, []⟩]
      if !(decide (s.sec.att = r :: rest)) then false else
      true)) = true := by
  decide +kernel

/-- States and operands that meet the hypotheses of SignedObjectsComplete, clause by clause. -/
theorem witness_SignedObjectsComplete : (
    (let s : State := secS
      let f : Frame := ses
      let o : Obj := vouch
      match s.begin_.rxDown f 9 with
      | (_, false) => false
      | (s1, true) =>
      if !(decide (s1.ownId = some f.first)) then false else
      if !(decide (mgmtRoom f = true)) then false else
      if !(decide (s1.loaderServes f = true)) then false else
      if !(decide (1 ≤ s1.fg OSEC_RATE_PER_S)) then false else
      if !(decide (nth s1.sec.served f.port.val [] = [])) then false else
      if !(decide (s1.sec.replies = [])) then false else
      if !(decide (s1.secBusy = false)) then false else
      if !(decide (s1.objCheck o = none)) then false else
      true) &&
    (let s : State := own.fs OSEC_LC_LC 1
      let a : Access := spia
      let v : Word := 2048 * 65536
      let ob : Obj := vouch
      match accepted s.begin_ a (regAddr pgOSEC OSEC_CMD.off) (bitsOf v.toNat 27 16 * 2 ^ 16 + 1) with
      | none => false
      | some (s1, _, _, _, _) =>
      if !(decide (24 ≤ bitsOf v.toNat 27 16)) then false else
      if !(decide (bitsOf v.toNat 27 16 ≤ 2048)) then false else
      if !(decide (s1.secBusy = false)) then false else
      if !(decide (s1.objCheck ob = none)) then false else
      true) &&
    (let s : State := accd secS vouch
      let o : Obj := vouch
      let pub : Nat := 9
      if !(decide (s.sec.acc = [o])) then false else
      if !(decide (o.body = .voucher pub)) then false else
      if !(decide (s.owned = false)) then false else
      true) &&
    (let s : State := accd ownedS (enr 0 (.transfer 8))
      let o : Obj := enr 0 (.transfer 8)
      let next : Nat := 8
      if !(decide (s.sec.acc = [o])) then false else
      if !(decide (o.body = .transfer next)) then false else
      true) &&
    (let s : State := accd ownedS (enr 15 (.enrol 2 65535 [1] [2] 66))
      let o : Obj := enr 15 (.enrol 2 65535 [1] [2] 66)
      let role : Nat := 2
      let wp : Nat := 65535
      let pub : Nat := 66
      let pw : List Word := [1]
      let pr : List Word := [2]
      if !(decide (s.sec.acc = [o])) then false else
      if !(decide (o.body = .enrol role wp pw pr pub)) then false else
      true) &&
    (let s : State := accd (act ownedS 15 0) (enr 15 .unenrol)
      let o : Obj := enr 15 .unenrol
      if !(decide (s.sec.acc = [o])) then false else
      if !(decide (o.body = .unenrol)) then false else
      true) &&
    (let s : State := accd (act ownedS 15 0) (enr 15 (.keywrap 2 7 0 88))
      let o : Obj := enr 15 (.keywrap 2 7 0 88)
      let kind : Nat := 2
      let gen : Nat := 7
      let act : Nat := 0
      let key : Nat := 88
      if !(decide (s.sec.acc = [o])) then false else
      if !(decide (o.body = .keywrap kind gen act key)) then false else
      if !(decide (s.tst o.slot.val ≠ tEMPTY)) then false else
      if !(decide (o.slot.val < s.keys.length)) then false else
      if !(decide (kind < (s.slotKeys o.slot.val).kinds.length)) then false else
      true) &&
    (let s : State := accd ownedS (enr 0 (.debug [] 31))
      let o : Obj := enr 0 (.debug [] 31)
      let chal : List Word := []
      let scope : Word := 31
      if !(decide (s.sec.acc = [o])) then false else
      if !(decide (o.body = .debug chal scope)) then false else
      if !(decide (scope.toNat < 32)) then false else
      true) &&
    (let s : State := accd ownedS (enr 0 (.policy 3 [1, 256]))
      let o : Obj := enr 0 (.policy 3 [1, 256])
      let flags : Word := 3
      let m : List Nat := [1, 256]
      if !(decide (s.sec.acc = [o])) then false else
      if !(decide (o.body = .policy flags m)) then false else
      true) &&
    (let s : State := accd ownedS (enr 0 (.otpcfg [1, 2]))
      let o : Obj := enr 0 (.otpcfg [1, 2])
      let b : List Nat := [1, 2]
      if !(decide (s.sec.acc = [o])) then false else
      if !(decide (o.body = .otpcfg b)) then false else
      true) &&
    (let s : State := own
      let a : Access := spia
      match accepted s.begin_ a (regAddr pgOSEC OSEC_CMD.off) 2 with
      | none => false
      | some (s1, w, _, _, _) =>
      if !(decide (w.isT0 = true)) then false else
      if !(decide (s1.secBusy = false)) then false else
      true) &&
    (let s : State := own
      let a : Access := spia
      match accepted s.begin_ a (regAddr pgOSEC OSEC_CMD.off) 3 with
      | none => false
      | some (s1, w, _, _, _) =>
      if !(decide (w.isT0 = true)) then false else
      if !(decide (s1.secBusy = false)) then false else
      if !(decide (s1.nvOk = true)) then false else
      true) &&
    (let s : State := { (own.fs OSEC_STAT_CHAL 1) with sec := { own.sec with chalEnd := 40000000000 } }
      if !(decide (s.fg OSEC_STAT_CHAL = 1)) then false else
      true)) = true := by
  decide +kernel

/-- States and operands that meet the hypotheses of UpdatesComplete, clause by clause. -/
theorem witness_UpdatesComplete : (
    (let s : State := ((own.fs UPD_BEGIN_KIND 0).fs UPD_LEN_BYTES 8192).fs UPD_ID_UPID 7
      let a : Access := spia
      match accepted s.begin_ a (regAddr pgUPD UPD_CMD.off) 1 with
      | none => false
      | some (s1, _, _, _, _) =>
      if !(decide (s1.beginFail = none)) then false else
      true) &&
    (let s : State := updS 4 fun u => { u with pend := [⟨false, false, none, 0, 1⟩, ⟨true, false, none, 1, 1⟩], queue := [pc0], target := 1 }
      let a : Access := spia
      match accepted s.begin_ a (regAddr pgUPD UPD_CMD.off) 2 with
      | none => false
      | some (s1, _, _, _, _) =>
      if !(decide (s1.loader = false)) then false else
      if !(decide (1 ≤ s1.updState)) then false else
      if !(decide (s1.updState ≤ 4)) then false else
      true) &&
    (let s : State := updS 2 id
      let a : Access := spia
      match accepted s.begin_ a (regAddr pgUPD UPD_CMD.off) 3 with
      | none => false
      | some (s1, _, _, _, _) =>
      if !(decide (s1.updState = 2)) then false else
      if !(decide ((s1.upd.kind = 0 ∨ s1.upd.kind = 3))) then false else
      true) &&
    (let s : State := (updS 4 fun u => { u with pend := [⟨false, false, none, 0, 1⟩], target := 1, slots := [none, some (man [image1, comp1 3]), none] }).fs UPD_STAT_COMP 8
      let a : Access := spia
      match accepted s.begin_ a (regAddr pgUPD UPD_CMD.off) 4 with
      | none => false
      | some (s1, _, _, _, _) =>
      if !(decide (s1.loader = false)) then false else
      if !(decide (3 ≤ s1.updState)) then false else
      if !(decide (s1.updState ≤ 4)) then false else
      true) &&
    (let s : State := (updS 4 id).fs UPD_TDCN_DCN 5
      let a : Access := spia
      let trig : Fin 4 := 1
      match accepted s.begin_ a (regAddr pgUPD UPD_CMD.off) (trig.val * 256 + 5) with
      | none => false
      | some (s1, _, _, _, _) =>
      if !(decide (s1.loader = false)) then false else
      if !(decide (s1.updState = 4)) then false else
      if !(decide (s1.pendAct = none)) then false else
      if !(decide (s1.trigRefused (if trig = 1 then some (s1.fg UPD_TDCN_DCN) else none) = none)) then false else
      true) &&
    (let s : State := ((updS 4 fun u => { u with target := 1, slots := [some (man [image1]), some (man [image1]), none] }).fs UPD_CFG_HOENROL 1).fs UPD_TDCN_DCN 5
      let a : Access := spia
      let trig : Fin 4 := 1
      match accepted s.begin_ a (regAddr pgUPD UPD_CMD.off) (trig.val * 256 + 0x15) with
      | none => false
      | some (s1, _, _, _, _) =>
      if !(decide (s1.loader = false)) then false else
      if !(decide (s1.updState = 4)) then false else
      if !(decide (s1.pendAct = none)) then false else
      if !(decide (s1.handoverFail (if trig = 1 then some (s1.fg UPD_TDCN_DCN) else none) = none)) then false else
      if !(decide (s1.trigRefused (if trig = 1 then some (s1.fg UPD_TDCN_DCN) else none) = none)) then false else
      true) &&
    (let s : State := (updS 2 fun u => { u with kind := 2 }).fs UPD_TDCN_DCN 5
      let a : Access := spia
      let trig : Fin 4 := 1
      let b : BundleRead := bnd
      match accepted s.begin_ a (regAddr pgUPD UPD_CMD.off) (trig.val * 256 + 6) with
      | none => false
      | some (s1, _, _, _, _) =>
      if !(decide (s1.loader = false)) then false else
      if !(decide (s1.updState = 2)) then false else
      if !(decide ((s1.upd.kind = 1 ∨ s1.upd.kind = 2))) then false else
      if !(decide ((s1.upd.pend.any fun x => x.cfg) = false)) then false else
      if !(decide (s1.bundleFail b = none)) then false else
      if !(decide (s1.clipsOver b = none)) then false else
      if !(decide (s1.trigRefused (if trig = 1 then some (s1.fg UPD_TDCN_DCN) else none) = none)) then false else
      true) &&
    (let s : State := updS 4 fun u => { u with pend := [⟨false, false, none, 0, 1⟩, ⟨true, false, none, 1, 1⟩] }
      let a : Access := spia
      match accepted s.begin_ a (regAddr pgUPD UPD_CMD.off) 7 with
      | none => false
      | some (s1, _, _, _, _) =>
      if !(decide (s1.loader = false)) then false else
      if !(decide (s1.upd.pend ≠ [])) then false else
      true) &&
    (let s : State := updS 1 fun u => { u with len := 8192, got := [(0, true)], queue := [{ pc0 with index := 1 }] }
      let p : Piece := { pc0 with index := 1 }
      let rest : List Piece := []
      if !(decide (s.upd.queue = p :: rest)) then false else
      if !(decide ((2 ≤ s.upd.kind ∨ s.upd.prog = true ∨ s.nvOk = true))) then false else
      true) &&
    (let s : State := updS 1 fun u => { u with unjAt := some 31000000000, unj := 3, kind := 1 }
      let t0 : Nat := 31000000000
      if !(decide (s.upd.unjAt = some t0)) then false else
      if !(decide (s.upd.kind ≤ 1)) then false else
      if !(decide (s.nvOk = true)) then false else
      if !(decide (s.updState ≠ 0)) then false else
      true) &&
    (let s : State := updS 3 fun u => { u with target := 1 }
      if !(decide (s.updState = 3)) then false else
      if !(decide (s.upd.comp = none)) then false else
      true) &&
    (let s : State := updS 4 fun u => { u with target := 1, slots := [none, some (man [image1]), none], pend := [⟨true, false, none, 1, 1⟩, ⟨false, true, none, 0, 1⟩] }
      let a : Act := ⟨false, true, none, 0, 1⟩
      if !(decide (s.begin_.pendAct = some a)) then false else
      if !(decide (State.actDue a (add32 s.begin_.dcn 1) = true)) then false else
      if !(decide (s.updState = 4)) then false else
      if !(decide (s.nvOk = true)) then false else
      true) &&
    (let s : State := ({ (updS 5 fun u => { u with target := 1, prev := 0, brec := some ⟨1, 1, true, false, 0, 0⟩, slots := [none, some (man [image1]), none] }) with fab := { own.fab with access := false } })
      if !(decide (s.actPaused = true)) then false else
      true) &&
    (let s : State := updS 5 fun u => { u with stage := 5 }
      if !(decide (1 ≤ s.upd.stage)) then false else
      if !(decide (s.upd.stage ≤ 5)) then false else
      true) &&
    (let s : State := updS 3 fun u => { u with target := 1, slots := [none, some (man [comp1 3]), none], comp := some ⟨0, [3], 1, 0, 32000000000, 32000000000, 0, false⟩ }
      let x : CompSt := ⟨0, [3], 1, 0, 32000000000, 32000000000, 0, false⟩
      let c : Nat := 3
      let cs : List Nat := []
      if !(decide (s.upd.comp = some x)) then false else
      if !(decide (x.todo = c :: cs)) then false else
      if !(decide (x.held = false)) then false else
      if !(decide (s.compFree c = true)) then false else
      true) &&
    (let s : State := updS 2 fun u => { u with kind := 1, target := 1, bundle := some bnd, pend := [⟨true, false, none, 1, 1⟩] }
      let a : Act := ⟨true, false, none, 1, 1⟩
      let b : BundleRead := bnd
      if !(decide (s.upd.pend = [a])) then false else
      if !(decide (a.cfg = true)) then false else
      if !(decide ((a.kind = 2 ∨ s.nvOk = true))) then false else
      if !(decide (State.actDue a (add32 s.begin_.dcn 1) = true)) then false else
      if !(decide (s.upd.bundle = some b)) then false else
      true) &&
    (let s : State := updS 6 fun u => { u with loading := some bndT }
      let b : BundleRead := bndT
      if !(decide (s.upd.loading = some b)) then false else
      true) &&
    (let s : State := (updS 0 id).fs SLOT_BOOT_BUNDLE 2
      let b : BundleRead := bnd
      if !(decide (s.fg SLOT_BOOT_BUNDLE ≠ 0)) then false else
      if !(decide (s.pow.trimDone = true)) then false else
      if !(decide (s.upd.loading = none)) then false else
      if !(decide (nth s.upd.areas (s.fg SLOT_BOOT_BUNDLE - 1) none = none)) then false else
      if !(decide (s.begin_.bundleFail b = none)) then false else
      true) &&
    (let s : State := { (bootS ⟨5, 0, false, false, 0, 0⟩) with pow := { State.reset.pow with bootFails := 1 } }
      if !(decide (s.pow.trimDone = false)) then false else
      if !(decide (s.mode = .trim)) then false else
      if !(decide (s.pow.booted = false)) then false else
      if !(decide (s.loader = false)) then false else
      if !(decide (s.strap 1 0 = 0)) then false else
      true)) = true := by
  decide +kernel

/-- The clause of FirkinInstants on the register written: FIRKIN_APPLY of a write of HEALTH's PG_FMASK, whose effect is its storing. -/
theorem witness_FirkinInstants_effect : ∀ u v : State, State.effect u v 17 0 0x80 0x018 0xA5 0xFF true = v := fun _ _ => rfl

/-- The clauses of PageLifecycle on pages without an action of their own at start, stop and reset: SCAN's page is one. -/
theorem witness_PageLifecycle_plain : (∀ u : State, u.unitStarts 0x62 = u) ∧ (∀ u : State, u.unitStops 0x62 = u) ∧
    (∀ u v : State, u.resync v 0x62 = u) ∧ pageHasUnit 0x62 = true := ⟨fun _ => rfl, fun _ => rfl, fun _ _ => rfl, by decide⟩

end Sys2Proof.Tests
end

/-! PROOFS. The scope of a command and the invariant of every step. Each command's own lemma (`kept_exec…`, Laws/Kept*.lean) says
which parts it needs leave to change; here these are held against the list that `commandParts` gives the command, and both
obligations follow from the one fact `exec_kept`. -/

namespace Sys2Proof.Machine

/-- Part `p` stands in the list of parts that command `c` may touch. The list is a literal for each command, so this Boolean form of
membership computes whatever the operands are. -/
def Touches (c : Instr) (p : Part) : Prop := (commandParts c).contains p = true

theorem touches_iff (c : Instr) (p : Part) : Touches c p ↔ p ∈ commandParts c := List.contains_iff_mem

theorem Part.all_contains (p : Part) : Part.all.contains p = true := by cases p <;> rfl

/-- A command keeps the queue, the direction of time, the invariant, and every part outside its list. Each case is the lemma of the
command's meaning, and each `rfl` finds one part that the lemma asks for in the command's list. -/
theorem exec_kept : ∀ (c : Instr) (s : State), Nxt (Kept (Touches c) s) (exec c s)
  | .registerWrite _ _ _ _, _ => kept_execRegisterWrite Part.all_contains
  | .snapshotRead _ _, _ => kept_execSnapshotRead rfl rfl rfl rfl rfl rfl
  | .readClear _ _, _ => kept_execReadClear rfl rfl rfl rfl rfl rfl
  | .enable _ _, _ => kept_execEnable rfl rfl rfl rfl
  | .enableCheckDone _, _ => kept_execEnableCheckDone rfl rfl rfl
  | .unitStart _, _ => kept_execUnitStart rfl rfl rfl rfl rfl rfl rfl rfl rfl rfl rfl rfl rfl rfl
  | .disable _ _, _ => kept_execDisable rfl rfl rfl rfl
  | .unitStop _, _ => kept_execUnitStop rfl rfl rfl rfl rfl rfl rfl rfl rfl rfl rfl
  | .pageReset _ _, _ => kept_execPageReset rfl rfl rfl rfl
  | .pageResetApply _, _ => kept_execPageResetApply rfl rfl rfl rfl rfl rfl rfl rfl rfl rfl rfl rfl rfl
  | .hold _ _ _, _ => kept_execHold rfl rfl rfl rfl
  | .open_ _, _ => kept_execOpen rfl rfl rfl rfl
  | .stageWrite _ _, _ => kept_execStageWrite rfl rfl rfl rfl
  | .commit _ _, _ => kept_execCommit rfl rfl rfl rfl
  | .commitChecksDone _, _ => kept_execCommitChecksDone rfl rfl rfl
  | .abort _ _, _ => kept_execAbort rfl rfl rfl rfl
  | .renew _ _, _ => kept_execRenew rfl rfl rfl rfl
  | .cancel _ _, _ => kept_execCancel rfl rfl rfl rfl
  | .firkinLeaseExpire _, _ => kept_execFirkinLeaseExpire rfl rfl rfl
  | .firkinApply _, _ => kept_execFirkinApply rfl rfl rfl rfl rfl rfl rfl rfl rfl rfl rfl rfl rfl rfl rfl rfl
  | .firkinInstantPassed _, _ => kept_execFirkinInstantPassed rfl rfl rfl
  | .eqPop _, _ => kept_execEqPop rfl rfl rfl
  | .eventFrameSend _, _ => kept_execEventFrameSend rfl rfl rfl
  | .coldReset _, _ => kept_execColdReset Part.all_contains
  | .managementPairReset _, _ => kept_execManagementPairReset Part.all_contains
  | .pixaReset _, _ => kept_execPixaReset Part.all_contains
  | .pixbReset _, _ => kept_execPixbReset Part.all_contains
  | .kick _, _ => kept_execKick rfl rfl rfl rfl
  | .watchdogExpire, _ => kept_execWatchdogExpire rfl rfl rfl rfl rfl rfl
  | .registerAccessRestored, _ => kept_execRegisterAccessRestored rfl rfl rfl rfl
  | .modeRequest _ _, _ => kept_execModeRequest rfl rfl rfl rfl rfl
  | .modeChange, _ => kept_execModeChange Part.all_contains
  | .sleepEntry, _ => kept_execSleepEntry Part.all_contains
  | .wake _, _ => kept_execWake Part.all_contains
  | .retentionImage _, _ => kept_execRetentionImage rfl rfl rfl rfl rfl rfl rfl rfl rfl rfl rfl rfl rfl rfl rfl rfl
  | .sessionLeaseExpire _, _ => kept_execSessionLeaseExpire rfl rfl rfl
  | .tenCmdReset _ _, _ => kept_execTenCmdReset rfl rfl rfl rfl
  | .tenCmdQuarantine _ _, _ => kept_execTenCmdQuarantine rfl rfl rfl rfl
  | .tenCmdRelease _ _, _ => kept_execTenCmdRelease rfl rfl rfl rfl
  | .tenRunWrite _ _ _, _ => kept_execTenRunWrite rfl rfl rfl rfl
  | .quarantineInterval, _ => kept_execQuarantineInterval rfl rfl rfl rfl
  | .tenantResetInstant _, _ => kept_execTenantResetInstant rfl rfl rfl rfl rfl rfl rfl rfl rfl rfl rfl
  | .feedFrame _ _, _ => kept_execFeedFrame rfl rfl rfl rfl rfl rfl
  | .mgmtFrame _ _ _ _ _, _ => kept_execMgmtFrame Part.all_contains
  | .upForward _, _ => kept_execUpForward rfl rfl
  | .enum _ _, _ => kept_execEnum rfl rfl rfl rfl
  | .heartbeat _ _, _ => kept_execHeartbeat rfl rfl rfl rfl
  | .heartbeatTimeout _, _ => kept_execHeartbeatTimeout rfl rfl rfl rfl
  | .revert, _ => kept_execRevert rfl rfl rfl rfl
  | .linkLock _ _, _ => kept_execLinkLock rfl rfl rfl rfl
  | .lossOfLock _ _, _ => kept_execLossOfLock rfl rfl rfl rfl
  | .speedSeekTimeout _, _ => kept_execSpeedSeekTimeout rfl
  | .nospeed _, _ => kept_execNospeed rfl rfl
  | .foreignFrame _, _ => kept_execForeignFrame rfl rfl
  | .sync _, _ => kept_execSync rfl rfl
  | .followUp _, _ => kept_execFollowUp rfl rfl
  | .pdelayInterval, _ => kept_execPdelayInterval rfl rfl
  | .pdelayReq _, _ => kept_execPdelayReq rfl
  | .pdelayResp _ _ _, _ => kept_execPdelayResp rfl rfl
  | .announce _, _ => kept_execAnnounce rfl rfl
  | .syncTimeout, _ => kept_execSyncTimeout rfl rfl rfl
  | .ptpHoldoverExpire, _ => kept_execPtpHoldoverExpire rfl
  | .beat _ _, _ => kept_execBeat rfl rfl rfl rfl
  | .cycleStart _ _, _ => kept_execCycleStart Part.all_contains
  | .holdoverExpire, _ => kept_execHoldoverExpire rfl rfl rfl rfl rfl rfl rfl rfl
  | .pllLoss, _ => kept_execPllLoss rfl rfl rfl rfl rfl rfl rfl rfl
  | .pllLock, _ => kept_execPllLock rfl rfl
  | .pps, _ => kept_execPps rfl
  | .dry _, _ => kept_execDry rfl rfl rfl
  | .patternFrameDone _ _, _ => kept_execPatternFrameDone rfl rfl rfl
  | .jobStart, _ => kept_execJobStart rfl rfl
  | .jobComplete _ _, _ => kept_execJobComplete rfl rfl rfl rfl rfl
  | .returnToService _ _ _, _ => kept_execReturnToService rfl rfl rfl rfl rfl rfl rfl rfl rfl rfl rfl rfl
  | .sensorSample _, _ => kept_execSensorSample rfl rfl rfl rfl rfl rfl rfl rfl rfl
  | .boardSensorRead _, _ => kept_execBoardSensorRead rfl rfl rfl rfl
  | .sensorReturn _ _ _, _ => kept_execSensorReturn rfl rfl rfl rfl rfl rfl rfl rfl rfl rfl rfl rfl
  | .fieldRefresh, _ => kept_execFieldRefresh rfl rfl rfl rfl rfl
  | .blendComplete _ _ _, _ => kept_execBlendComplete rfl rfl rfl rfl
  | .blendResume, _ => kept_execBlendResume rfl rfl rfl
  | .spanBoundary _, _ => kept_execSpanBoundary Part.all_contains
  | .override _ _ _, _ => kept_execOverride rfl rfl rfl rfl rfl rfl rfl rfl rfl rfl rfl rfl
  | .domainSwitch, _ => kept_execDomainSwitch rfl rfl rfl rfl rfl
  | .preset _, _ => kept_execPreset rfl rfl rfl rfl rfl rfl rfl rfl rfl rfl rfl rfl rfl rfl rfl rfl
  | .wireQuery _ _, _ => kept_execWireQuery rfl rfl rfl
  | .clear _, _ => kept_execClear rfl rfl rfl rfl
  | .clearall _, _ => kept_execClearall rfl rfl rfl rfl
  | .healthQuery _ _, _ => kept_execHealthQuery rfl rfl rfl
  | .listQuery _ _, _ => kept_execListQuery rfl rfl rfl
  | .rbClr _ _, _ => kept_execRbClr rfl rfl rfl rfl
  | .conversion _ _, _ => kept_execConversion rfl rfl rfl
  | .phaseZero _ _, _ => kept_execPhaseZero rfl rfl rfl rfl
  | .loadAll _, _ => kept_execLoadAll rfl rfl rfl rfl
  | .trip _ _, _ => kept_execTrip rfl rfl rfl rfl
  | .feedbackSample _ _, _ => kept_execFeedbackSample rfl rfl
  | .railStart _ _, _ => kept_execRailStart rfl
  | .railRunning _ _, _ => kept_execRailRunning rfl rfl rfl rfl
  | .startTimeout _, _ => kept_execStartTimeout rfl rfl rfl
  | .railOff _ _, _ => kept_execRailOff rfl rfl rfl rfl
  | .sfltn, _ => kept_execSfltn rfl rfl rfl rfl rfl rfl rfl
  | .overVoltage _ _, _ => kept_execOverVoltage rfl rfl rfl rfl rfl rfl rfl
  | .underVoltage _ _, _ => kept_execUnderVoltage rfl rfl
  | .auxPeriod, _ => kept_execAuxPeriod rfl
  | .phTest _ _ _, _ => kept_execPhTest rfl rfl rfl rfl
  | .selfTrim, _ => kept_execSelfTrim rfl rfl rfl
  | .trimResult _, _ => kept_execTrimResult rfl rfl rfl rfl rfl rfl rfl rfl
  | .journalWrite, _ => kept_execJournalWrite rfl rfl
  | .journalCommit, _ => kept_execJournalCommit rfl rfl rfl
  | .forget _, _ => kept_execForget rfl rfl rfl rfl
  | .dramTraining _ _, _ => kept_execDramTraining rfl rfl rfl rfl rfl rfl rfl rfl rfl
  | .trainingComplete _, _ => kept_execTrainingComplete rfl rfl rfl
  | .zqCalibration, _ => kept_execZqCalibration rfl
  | .dqsOscillator _ _, _ => kept_execDqsOscillator rfl rfl
  | .refresh _ _, _ => kept_execRefresh rfl rfl rfl
  | .mr4Poll _ _, _ => kept_execMr4Poll rfl rfl rfl
  | .dramRequest _ _ _, _ => kept_execDramRequest rfl rfl
  | .dramCompletion _ _, _ => kept_execDramCompletion rfl rfl rfl rfl
  | .scrubRead _, _ => kept_execScrubRead rfl rfl rfl
  | .pageIdleExpire _ _, _ => kept_execPageIdleExpire rfl
  | .errorInjection _ _, _ => kept_execErrorInjection rfl rfl rfl
  | .spiaFrame _ _ _ _ _, _ => kept_execSpiaFrame Part.all_contains
  | .read _ _ _ _, _ => kept_execRead Part.all_contains
  | .write _ _ _ _, _ => kept_execWrite Part.all_contains
  | .writem _ _ _ _, _ => kept_execWritem Part.all_contains
  | .piece _, _ => kept_execPiece Part.all_contains
  | .nop, _ => kept_execNop Part.all_contains
  | .status, _ => kept_execStatus Part.all_contains
  | .spiaPoll _ _, _ => kept_execSpiaPoll Part.all_contains
  | .spibRead _ _ _, _ => kept_execSpibRead rfl rfl rfl rfl
  | .program _ _, _ => kept_execProgram rfl rfl rfl rfl
  | .erase4k _ _, _ => kept_execErase4k rfl rfl rfl rfl
  | .erase64k _ _, _ => kept_execErase64k rfl rfl rfl rfl
  | .readsr _ _ _, _ => kept_execReadsr rfl rfl rfl rfl
  | .statusPoll _, _ => kept_execStatusPoll rfl rfl
  | .flashTimeout, _ => kept_execFlashTimeout rfl rfl rfl
  | .fetch _ _ _ _, _ => kept_execFetch rfl rfl
  | .request _ _, _ => kept_execRequest rfl rfl rfl rfl rfl
  | .release _ _, _ => kept_execRelease rfl rfl rfl rfl rfl
  | .busclear _ _, _ => kept_execBusclear rfl rfl rfl rfl rfl
  | .grantExpire _ _, _ => kept_execGrantExpire rfl rfl rfl rfl
  | .spicTransfer _ _, _ => kept_execSpicTransfer rfl rfl rfl rfl
  | .spicTransferDone _, _ => kept_execSpicTransferDone rfl rfl rfl rfl
  | .twiTransfer _ _ _, _ => kept_execTwiTransfer rfl rfl rfl rfl
  | .twiTransferDone _, _ => kept_execTwiTransferDone rfl rfl rfl rfl
  | .stretchTimeout _ _, _ => kept_execStretchTimeout rfl rfl rfl rfl
  | .establish _ _ _ _, _ => kept_execEstablish rfl rfl rfl rfl rfl rfl
  | .object _ _, _ => kept_execObject rfl rfl rfl rfl rfl rfl
  | .submit _ _ _, _ => kept_execSubmit rfl rfl rfl rfl
  | .voucher, _ => kept_execVoucher rfl rfl rfl rfl rfl rfl rfl rfl rfl rfl rfl
  | .transfer, _ => kept_execTransfer rfl rfl rfl rfl rfl rfl rfl rfl rfl rfl rfl
  | .enrol, _ => kept_execEnrol rfl rfl rfl rfl rfl rfl rfl rfl rfl rfl rfl
  | .unenrol, _ => kept_execUnenrol rfl rfl rfl rfl rfl rfl rfl rfl rfl rfl rfl
  | .keywrap, _ => kept_execKeywrap rfl rfl rfl rfl rfl rfl rfl rfl rfl rfl rfl
  | .debug, _ => kept_execDebug rfl rfl rfl rfl rfl rfl rfl rfl rfl rfl rfl
  | .policy, _ => kept_execPolicy rfl rfl rfl rfl rfl rfl rfl rfl rfl rfl rfl
  | .otpcfg, _ => kept_execOtpcfg rfl rfl rfl rfl rfl rfl rfl rfl rfl rfl rfl
  | .attest _ _, _ => kept_execAttest rfl rfl rfl rfl rfl rfl
  | .cert _, _ => kept_execCert rfl rfl rfl rfl rfl rfl
  | .report _, _ => kept_execReport rfl rfl rfl rfl
  | .attCert _, _ => kept_execAttCert rfl rfl rfl rfl
  | .attestationReady, _ => kept_execAttestationReady rfl rfl rfl
  | .dbgchal _, _ => kept_execDbgchal rfl rfl rfl rfl
  | .raise _, _ => kept_execRaise rfl rfl rfl rfl
  | .challengeExpire, _ => kept_execChallengeExpire rfl
  | .boot _ _, _ => kept_execBoot Part.all_contains
  | .begin _, _ => kept_execBegin Part.all_contains
  | .updAbort _, _ => kept_execUpdAbort Part.all_contains
  | .arm _, _ => kept_execArm Part.all_contains
  | .armComplete _, _ => kept_execArmComplete rfl rfl rfl
  | .disarm _, _ => kept_execDisarm Part.all_contains
  | .activatePause _ _, _ => kept_execActivatePause Part.all_contains
  | .activateHandover _ _, _ => kept_execActivateHandover Part.all_contains
  | .applycfg _ _ _, _ => kept_execApplycfg Part.all_contains
  | .updCancel _, _ => kept_execUpdCancel Part.all_contains
  | .activation, _ => kept_execActivation rfl rfl rfl rfl rfl rfl
  | .activationComplete _, _ => kept_execActivationComplete rfl rfl rfl rfl rfl rfl
  | .handoverStage, _ => kept_execHandoverStage rfl rfl rfl rfl rfl rfl rfl
  | .companionStatusPoll _, _ => kept_execCompanionStatusPoll rfl rfl rfl rfl rfl rfl
  | .pieceProgrammed, _ => kept_execPieceProgrammed rfl rfl rfl
  | .pieceJournalTimer, _ => kept_execPieceJournalTimer rfl
  | .bundleApply, _ => kept_execBundleApply rfl rfl rfl rfl rfl rfl
  | .bundleLoaded, _ => kept_execBundleLoaded rfl rfl rfl rfl rfl rfl rfl rfl
  | .bundleReload _, _ => kept_execBundleReload rfl rfl rfl rfl rfl rfl
  | .porn _, _ => kept_execPorn Part.all_contains
  | .domainPowerGood _, _ => kept_execDomainPowerGood rfl rfl rfl rfl rfl
  | .pgoodTimeout _, _ => kept_execPgoodTimeout rfl rfl rfl rfl rfl rfl rfl rfl
  | .trimEnd _, _ => kept_execTrimEnd rfl rfl rfl rfl rfl rfl rfl rfl rfl rfl rfl
  | .brownoutWarning, _ => kept_execBrownoutWarning rfl rfl rfl rfl rfl rfl rfl
  | .brownoutReset, _ => kept_execBrownoutReset Part.all_contains
  | .overTemperatureTrip _, _ => kept_execOverTemperatureTrip rfl rfl rfl rfl rfl rfl
  | .shutdownDark, _ => kept_execShutdownDark rfl rfl rfl rfl rfl rfl rfl
  | .lockstepMismatch, _ => kept_execLockstepMismatch rfl rfl rfl rfl rfl rfl
  | .halt _ _, _ => kept_execHalt rfl rfl rfl rfl rfl rfl
  | .resume _ _, _ => kept_execResume rfl rfl rfl rfl rfl rfl
  | .bypass _, _ => kept_execBypass rfl rfl
  | .idcode, _ => kept_execIdcode rfl
  | .samplePreload _ _, _ => kept_execSamplePreload rfl rfl
  | .extest _, _ => kept_execExtest rfl rfl rfl rfl
  | .sensorProbe _, _ => kept_execSensorProbe rfl rfl rfl rfl rfl rfl rfl rfl rfl rfl rfl rfl rfl rfl rfl rfl
  | .vdd33Return, _ => kept_execVdd33Return rfl
  | .overTemperatureClear _, _ => kept_execOverTemperatureClear rfl
  | .sfltnRelease, _ => kept_execSfltnRelease rfl
  | .highBitErrorRate _, _ => kept_execHighBitErrorRate rfl
  | .delayReq _, _ => kept_execDelayReq rfl

theorem exec_keeps_wf {c : Instr} {s t : State} (h : exec c s = .next t) (hs : s.wf = true) : t.wf = true :=
  (exec_kept c s t h).wf hs

theorem exec_same_of_notMem_commandParts {c : Instr} {s t : State} (h : exec c s = .next t) {p : Part} (hp : p ∉ commandParts c) :
    p.same s t :=
  ((exec_kept c s t h).same p).resolve_right fun ht => hp ((touches_iff c p).mp ht)

theorem step_of_pending_nil {s : State} (h : s.pending = []) : step s = .next s := by simp only [step, h]

theorem step_of_pending_cons {s : State} {c : Instr} {rest : List Instr} (h : s.pending = c :: rest) :
    step s = exec c { s with pending := rest } := by simp only [step, h]

/-- The invariant says nothing of the queue of commands. -/
@[simp] theorem State.wf_pending (s : State) (q : List Instr) : ({ s with pending := q } : State).wf = s.wf := rfl

theorem step_keeps_wf {s t : State} (hs : s.wf = true) (h : step s = .next t) : t.wf = true := by
  cases hq : s.pending with
  | nil =>
    rw [step_of_pending_nil hq] at h
    cases h
    exact hs
  | cons c rest =>
    rw [step_of_pending_cons hq] at h
    exact exec_keeps_wf h ((s.wf_pending rest).trans hs)

/-- Settles O5: an idle step changes nothing, and any other runs a command, whose meaning keeps the invariant. -/
theorem everyStepKeepsTheInvariant : Obligations.EveryStepKeepsTheInvariant :=
  fun _ _ hs h => step_keeps_wf hs h

/-- Settles O8: the parts that the lemma of a command's meaning asks leave for all stand in `commandParts`. -/
theorem untouchedPartsStand : Obligations.UntouchedPartsStand :=
  fun _ _ _ h _ hp => exec_same_of_notMem_commandParts h hp

end Sys2Proof.Machine

/-! PROOFS. The queue of commands, timebase time and the count of free values over one command. -/

namespace Sys2Proof.Machine

/-- Settles O4: the queue, the clock and the counter of free values are three of the things that every command's meaning keeps
(`exec_kept`). -/
theorem queueStandsAndTimeGoesOn : Obligations.QueueStandsAndTimeGoesOn := by
  intro c s t h
  have kept : Kept (Touches c) s t := exec_kept c s t h
  exact ⟨kept.pending, kept.now, kept.free⟩

end Sys2Proof.Machine

/-! PROOFS. Every command takes a next state. -/

namespace Sys2Proof.Machine

/-- An answer is a next state: neither a fault nor a refusal. -/
def GoesOn (r : Ans State) : Prop := ∃ t, r = .next t

theorem GoesOn.next (t : State) : GoesOn (.next t) := ⟨t, rfl⟩

theorem GoesOn.ite {p : Prop} [Decidable p] {r q : Ans State} (h : GoesOn r) (k : GoesOn q) : GoesOn (if p then r else q) := by
  split <;> assumption

theorem execSync_goesOn (m : PtpMsg) (s : State) : GoesOn (execSync m s) := by
  unfold execSync
  split
  exact .ite (.next _) (.ite (.next _) (.ite (.next _) (.ite (.next _) (.ite (.next _) (.next _)))))

theorem execFollowUp_goesOn (m : PtpMsg) (s : State) : GoesOn (execFollowUp m s) := by
  unfold execFollowUp
  split
  refine .ite (.next _) (.ite (.next _) ?_)
  dsimp only
  split
  · exact .next _
  · exact .ite (.next _) (.next _)

theorem execPdelayResp_goesOn (m : PtpMsg) (t2 t3 : Nat) (s : State) : GoesOn (execPdelayResp m t2 t3 s) := by
  unfold execPdelayResp
  split
  refine .ite (.next _) ?_
  split
  · exact .next _
  · exact .ite (.next _) (.next _)

theorem execAnnounce_goesOn (m : PtpMsg) (s : State) : GoesOn (execAnnounce m s) := by
  unfold execAnnounce
  split
  exact .ite (.next _) (.ite (.next _) (.ite (.next _) (.next _)))

theorem execBeat_goesOn (f : Frame) (b : Beat) (s : State) : GoesOn (execBeat f b s) := by
  unfold execBeat
  split
  refine .ite (.next _) ?_
  split
  · exact .next _
  · exact .ite (.next _) (.ite (.next _) (.next _))

theorem execHoldoverExpire_goesOn (s : State) : GoesOn (execHoldoverExpire s) := by
  unfold execHoldoverExpire
  dsimp only
  split
  · exact .next _
  · exact .ite (.next _) (.ite (.next _) (.next _))

theorem execFeedbackSample_goesOn (k : Fin 2) (mv : Nat) (s : State) : GoesOn (execFeedbackSample k mv s) := by
  unfold execFeedbackSample
  dsimp only
  split <;> exact .next _

theorem execTrimResult_goesOn (m : Option TrimMeas) (s : State) : GoesOn (execTrimResult m s) := by
  unfold execTrimResult
  refine .ite (.next _) ?_
  split <;> exact .next _

theorem execJournalWrite_goesOn (s : State) : GoesOn (execJournalWrite s) := by
  unfold execJournalWrite
  dsimp only
  split
  · exact .next _
  · exact .ite (.next _) (.ite (.next _) (.next _))

theorem execJournalCommit_goesOn (s : State) : GoesOn (execJournalCommit s) := by
  unfold execJournalCommit
  dsimp only
  split <;> exact .next _

/-- The meaning of a command answers a next state: most outright, some after one test or two of the state, the others by the lemmas
above. -/
theorem exec_goesOn (c : Instr) (s : State) : GoesOn (exec c s) := by
  cases c
  case sync m => exact execSync_goesOn m s
  case followUp m => exact execFollowUp_goesOn m s
  case pdelayResp m t2 t3 => exact execPdelayResp_goesOn m t2 t3 s
  case announce m => exact execAnnounce_goesOn m s
  case beat f b => exact execBeat_goesOn f b s
  case holdoverExpire => exact execHoldoverExpire_goesOn s
  case feedbackSample k mv => exact execFeedbackSample_goesOn k mv s
  case trimResult m => exact execTrimResult_goesOn m s
  case journalWrite => exact execJournalWrite_goesOn s
  case journalCommit => exact execJournalCommit_goesOn s
  case heartbeat | heartbeatTimeout | revert | speedSeekTimeout | nospeed | foreignFrame | pdelayInterval | pdelayReq | ptpHoldoverExpire
    | pllLoss | trip | railRunning | startTimeout | railOff | overVoltage | underVoltage | selfTrim | highBitErrorRate =>
    exact .ite (.next _) (.next _)
  case enum | syncTimeout | pps | phaseZero => exact .ite (.next _) (.ite (.next _) (.next _))
  all_goals exact .next _

/-- Settles O3: a step idles or runs a command, and every command's meaning answers a next state. -/
theorem everyCommandTakesANextState : Obligations.EveryCommandTakesANextState := by
  refine ⟨fun c s => ?_, fun s => ?_⟩
  · obtain ⟨t, ht⟩ := exec_goesOn c s
    exact ⟨t, ht, trivial⟩
  · unfold State.safe
    cases hq : s.pending with
    | nil =>
      rw [step_of_pending_nil hq]
      rfl
    | cons c rest =>
      obtain ⟨t, ht⟩ := exec_goesOn c { s with pending := rest }
      rw [step_of_pending_cons hq, ht]
      rfl

end Sys2Proof.Machine

/-! PROOFS. The reset state, and event queues (R56, R57). -/

namespace Sys2Proof.Machine

/-- Settles O6: after reset the memories list nothing, and the 16 slots hold empty queues. -/
theorem resetMeetsTheInvariant : Obligations.ResetMeetsTheInvariant :=
  (State.wf_iff _).mpr ⟨rfl, rfl, rfl, rfl, fun _ ht => List.eq_of_mem_replicate ht ▸ rfl⟩

/-! ### One slot of the tenant table -/

theorem modAt_eq_modify {α : Type} (l : List α) (i : Nat) (f : α → α) : modAt l i f = l.modify i f := by
  induction l generalizing i with
  | nil => cases i <;> rfl
  | cons a l ih =>
    cases i with
    | zero => rfl
    | succ i => rw [modAt, ih, List.modify_succ_cons]

theorem getElem?_modAt_ne {α : Type} (l : List α) {i n : Nat} (f : α → α) (h : n ≠ i) : (modAt l i f)[n]? = l[n]? := by
  rw [modAt_eq_modify, List.getElem?_modify_ne _ _ (Ne.symm h)]

/-- Only the element that is changed decides what a change is. -/
theorem modAt_congr {α : Type} {l : List α} {i : Nat} {x : α} {f g : α → α} (hx : l[i]? = some x) (h : f x = g x) :
    modAt l i f = modAt l i g := by
  rw [modAt_eq_modify, modAt_eq_modify]
  refine List.ext_getElem? fun n => ?_
  by_cases hn : n = i
  · subst hn
    rw [List.getElem?_modify_eq, List.getElem?_modify_eq, hx]
    exact congrArg some h
  · rw [List.getElem?_modify_ne _ _ (Ne.symm hn), List.getElem?_modify_ne _ _ (Ne.symm hn)]

/-! ### Events -/

/-- The entry that an event is. -/
def State.entry (s : State) (page code detail kind unit : Nat) : Event :=
  ⟨code, detail % 2 ^ 16, false, kind, unit % 256, page, s.dcn, s.wallNs⟩

/-- An event of a page enters the queue of the page's owner. -/
theorem State.ev_tens (s : State) (page code detail kind unit : Nat) : (s.ev page code detail kind unit).tens =
    modAt s.tens (evOwner s.regs page) fun x => { x with evq := x.evq.push (s.entry page code detail kind unit) } := by
  unfold State.ev State.evTo
  dsimp only
  split <;> rfl

theorem EvQ.push_of_room {q : EvQ} (e : Event) (h : q.q.length < Config.evqLen) :
    q.push e = { q with q := q.q ++ [{ e with ovf := q.ovf }], ovf := false, unsent := q.unsent + 1 } :=
  if_neg (Nat.not_le.mpr h)

theorem EvQ.push_of_full {q : EvQ} (e : Event) (h : Config.evqLen ≤ q.q.length) :
    q.push e = { q with lost := min (q.lost + 1) 0xFFFF, ovf := true } :=
  if_pos h

/-- Settles O48: an event is one push on the queue of the page's owner. -/
theorem eventsAndFullQueues : Obligations.EventsAndFullQueues := by
  refine ⟨fun s page code detail kind unit x hx hq => ?_, fun s page code detail kind unit x hx hq => ?_,
    fun s page code detail kind unit n hn => ?_⟩
  · refine (s.ev_tens page code detail kind unit).trans (modAt_congr hx ?_)
    rw [EvQ.push_of_room _ hq]
    rfl
  · refine (s.ev_tens page code detail kind unit).trans (modAt_congr hx ?_)
    rw [EvQ.push_of_full _ hq]
  · rw [s.ev_tens, getElem?_modAt_ne _ _ hn]

end Sys2Proof.Machine

/-! PROOFS. The four writes of PG_CTRL (R41, R42, R44). -/

namespace Sys2Proof.Machine

namespace State

/-- The command bits of the word that a control command writes are those it names. -/
theorem bit_ctrlBits (s : State) (p : Nat) {d i : Nat} (hd : d < 8) (hi : i < 3) : bit (s.ctrlBits p d) i = bit d i := by
  rw [ctrlBits_eq s p hd, bit_eq, bit_eq]
  interval_cases i <;> congr 1 <;> simp only [eq_iff_iff] <;> omega

theorem fg_bit (s : State) (f : FRef) (hf : f.hi = f.lo) : s.fg f < 2 := by
  have h := s.fg_lt f
  rwa [hf, show f.lo + 1 - f.lo = 1 by omega] at h

theorem enableAsk_fab {s : State} {p : Nat} (w : Who) (hu : pageHasUnit p = true) (he : enabledR s.regs p = false)
    (hc : p ∉ s.fab.checking) : s.enableAsk w p = s.modFab fun f => { f with
      checking := f.checking ++ [p], asked := f.asked.filter (·.1 != p) ++ (w.tenant.map fun n => (p, n)).toList } := by
  unfold enableAsk
  rw [if_neg (by simp [hu, he, hc])]

/-- Asking for a check changes no register. -/
theorem enableAsk_regs (s : State) (w : Who) (p : Nat) : (s.enableAsk w p).regs = s.regs := by
  unfold enableAsk
  split <;> rfl

theorem enableAsk_outs (s : State) (w : Who) (p : Nat) : (s.enableAsk w p).outs = s.outs := by
  unfold enableAsk
  split <;> rfl

theorem resetAsk_fab {s : State} {p : Nat} (hr : p ∉ s.fab.resetting) :
    s.resetAsk p = s.modFab fun f => { f with resetting := f.resetting ++ [p] } := by
  unfold resetAsk
  rw [if_neg (by simpa using hr)]

/-- DISABLE of a page with a unit, as a change of ENABLE and of the lists of what is armed. -/
theorem disableAsk_eq {s : State} {p : Nat} (hu : pageHasUnit p = true) :
    s.disableAsk p = (s.fs (hENABLE p) 0).modFab fun f => { f with
      checking := f.checking.filter (· != p), asked := f.asked.filter (·.1 != p), starting := f.starting.filter (· != p),
      stopping := if s.active p && !s.fab.stopping.contains p then f.stopping ++ [p] else f.stopping } := by
  unfold disableAsk
  simp only [hu, Bool.not_true, Bool.false_eq_true, ↓reduceIte, modFab_active, fs_enable_active, modFab_fab, fs_fab]
  generalize (s.active p && !s.fab.stopping.contains p) = arms
  cases arms <;> rfl

theorem disableAsk_outs (s : State) (p : Nat) : (s.disableAsk p).outs = s.outs := by
  cases hu : pageHasUnit p with
  | true => rw [disableAsk_eq hu]; rfl
  | false => unfold disableAsk; simp [hu]

theorem disableAsk_hold (s : State) (p : Nat) : (s.disableAsk p).fg (hHOLD p) = s.fg (hHOLD p) := by
  cases hu : pageHasUnit p with
  | true => rw [disableAsk_eq hu, modFab_fg, fs_enable_hold]
  | false => unfold disableAsk; simp [hu]

theorem regsBut.disableAsk {l : List (Nat × Nat)} {s t : State} (h : regsBut l s t) (p : Nat) (hp : p < 256) (hm : (p, 0x008) ∈ l) :
    regsBut l s (t.disableAsk p) := by
  cases hu : pageHasUnit p with
  | true =>
    rw [disableAsk_eq hu]
    exact (h.fs (hENABLE p) 0 hp (show 0x008 < 4096 by decide) hm).modFab _
  | false => unfold State.disableAsk; simpa [hu] using h

theorem regsBut_ctrlStored (s : State) {p : Nat} (data : Nat) (hp : p < 256) :
    regsBut [(p, 0x008), (p, 0x00C), (p, 0x024)] s (s.ctrlStored p data) :=
  (regsBut.refl _ s).ctrlStored p data hp (by simp) (by simp)

end State

/-- What a control command's word does, by the command bits `d` in it. -/
theorem State.pgCtrlWrite_bits (s u : State) (w : Who) (p : Nat) {d : Nat} (hd : d < 8) : u.pgCtrlWrite w p (s.ctrlBits p d) =
    if d / 2 % 2 = 1 then (u.ctrlStored p (s.ctrlBits p d)).resetAsk p
    else if d % 2 = 1 then (u.ctrlStored p (s.ctrlBits p d)).enableAsk w p
    else (u.ctrlStored p (s.ctrlBits p d)).disableAsk p := by
  rw [State.pgCtrlWrite_eq, State.bit_ctrlBits s p hd (by decide), State.bit_ctrlBits s p hd (by decide), State.bit_eq, State.bit_eq]
  simp

/-- A control command whose write is accepted: the word acts on the page, whose generation counts up, and the answer is code 0. -/
theorem Runs.pageCtrl {i : Instr} {s s1 : State} {a : Access} {page p o data : Nat} {w : Who} {g : Reg} {P : State → Prop}
    (hp : page < 256) (e : exec i s = .next (ctrlWrite s a page data))
    (ha : accepted s.begin_ a (regAddr page 0x008) data = some (s1, w, p, o, g))
    (hP : P (((s1.pgCtrlWrite w page data).bumpGen page).emit (.res ⟨0, 0⟩ []))) : Runs i s P := by
  obtain ⟨rfl, rfl⟩ := accepted_reg hp (by decide) ha
  exact Runs.direct e ha (hPgCtrl_eq ..) hP

/-- Settles O10: each command's word is one of the three writes of PG_CTRL, by its bits RESET and ENABLE. -/
theorem pageControlWrites : Obligations.PageControlWrites := by
  refine ⟨?enable, ?disable, ?reset, ?hold⟩
  case enable =>
    intro s s1 a page p o w g hp ha hu he hc
    have hh := s.fg_bit (hHOLD page) rfl
    refine Runs.pageCtrl hp rfl ha ?_
    rw [State.pgCtrlWrite_bits s s1 w page (by omega), if_neg (by omega), if_pos (by omega)]
    generalize s.ctrlBits page _ = data at ha ⊢
    refine ⟨?_, ?_, done_outs ha ((State.enableAsk_outs _ _ _).trans (State.ctrlStored_outs _ _ _))⟩
    · rw [State.enableAsk_fab w hu (by rwa [State.ctrlStored_enabledR]) (by rwa [State.ctrlStored_fab])]
      simp
    · exact ((State.regsBut_ctrlStored s1 data hp).of_eq (State.enableAsk_regs _ _ _)).done hp (by simp)
  case disable =>
    intro s s1 a page p o w g hp ha hu
    have hh := s.fg_bit (hHOLD page) rfl
    refine Runs.pageCtrl hp rfl ha ?_
    rw [State.pgCtrlWrite_bits s s1 w page (by omega), if_neg (by omega), if_neg (by omega)]
    generalize s.ctrlBits page _ = data at ha ⊢
    have hr := ((State.regsBut_ctrlStored s1 data hp).disableAsk page hp (by simp)).done hp (by simp)
    have ho := done_outs (q := page) ha ((State.disableAsk_outs _ page).trans (State.ctrlStored_outs s1 page data))
    refine ⟨?_, ?_, ?_, fun hact => ?_, hr, ho⟩
    · rw [State.enable_done _ hp, State.disableAsk_eq hu, State.modFab_fg, State.fs_enable]
    · simp [State.disableAsk_eq hu]
    · simp [State.disableAsk_eq hu]
    · simp only [State.disableAsk_eq hu, State.emit_fab, State.bumpGen_fab, State.modFab_fab, State.fs_fab,
        State.ctrlStored_active, State.ctrlStored_fab, hact, Bool.true_and]
      by_cases hs : page ∈ s1.fab.stopping <;> simp [hs]
  case reset =>
    intro s s1 a page p o w g hp ha hr
    have hh := s.fg_bit (hHOLD page) rfl
    have he := s.fg_bit (hENABLE page) rfl
    refine Runs.pageCtrl hp rfl ha ?_
    rw [State.pgCtrlWrite_bits s s1 w page (by omega), if_pos (by omega)]
    generalize s.ctrlBits page _ = data at ha ⊢
    rw [State.resetAsk_fab (by rwa [State.ctrlStored_fab])]
    refine ⟨by simp, ((State.regsBut_ctrlStored s1 data hp).modFab _).done hp (by simp), done_outs ha (by simp)⟩
  case hold =>
    intro s s1 a page p o w g on hp ha hc
    have he := s.fg_bit (hENABLE page) rfl
    have hb : b2n on < 2 := by cases on <;> decide
    refine Runs.pageCtrl hp rfl ha ?_
    have hh : bitsOf (s.ctrlBits page (b2n on * 4 + s.fg (hENABLE page))) 2 2 = b2n on := by
      rw [State.ctrlBits_eq s page (by omega), bitsOf_def]
      omega
    rw [State.pgCtrlWrite_bits s s1 w page (by omega), if_neg (by omega)]
    generalize s.ctrlBits page _ = data at ha hh ⊢
    have hr := State.regsBut_ctrlStored s1 data hp
    have hs := (State.ctrlStored_hold s1 hc data).trans hh
    split
    · refine ⟨?_, (hr.of_eq (State.enableAsk_regs _ _ _)).done hp (by simp), done_outs ha ?_⟩
      · rw [State.hold_done _ hp, ← hs, State.fg, State.fg, State.enableAsk_regs]
      · exact (State.enableAsk_outs _ _ _).trans (State.ctrlStored_outs _ _ _)
    · refine ⟨?_, (hr.disableAsk page hp (by simp)).done hp (by simp), done_outs ha ?_⟩
      · rw [State.hold_done _ hp, State.disableAsk_hold, hs]
      · exact (State.disableAsk_outs _ _).trans (State.ctrlStored_outs _ _ _)

end Sys2Proof.Machine

/-! PROOFS. Direct writes that the page's own rules refuse (R36): what the refusal records, and the two refusals of R36. -/

namespace Sys2Proof.Machine

/-! ### The register map -/

/-- Every field of the map lies in its 32-bit register, and every block digit is one hexadecimal digit. -/
theorem pageRows_fit : (pageRows.all fun r => decide (r.blk < 16) && r.regs.all fun g => g.flds.all fun f => decide (f.hi < 32)) = true := by
  decide

theorem pageRow?_mem {p : Nat} {r : PageRow} (h : pageRow? p = some r) : r ∈ pageRows := List.mem_of_find?_eq_some h

theorem pageBlk_lt (p : Nat) : pageBlk p < 16 := by
  unfold pageBlk
  split
  · rename_i r hr
    have h := List.all_eq_true.mp pageRows_fit r (pageRow?_mem hr)
    simp only [Bool.and_eq_true, decide_eq_true_eq] at h
    exact h.1
  · decide

theorem headerRegs_fit {p : Nat} {g : Reg} (hg : g ∈ headerRegs p) {f : Fld} (hf : f ∈ g.flds) : f.hi < 32 := by
  have h : ((headerRegs p).all fun g => g.flds.all fun f => decide (f.hi < 32)) = true := by
    unfold headerRegs
    cases pageEvents p <;> decide
  exact of_decide_eq_true (List.all_eq_true.mp (List.all_eq_true.mp h g hg) f hf)

theorem anyRegAt_fit {p o : Nat} {g : Reg} (hg : anyRegAt p o = some g) {f : Fld} (hf : f ∈ g.flds) : f.hi < 32 := by
  unfold anyRegAt at hg
  split at hg
  · cases hg
  · split at hg
    · exact headerRegs_fit (List.mem_of_find?_eq_some hg) hf
    · obtain ⟨r, hr, hg⟩ := Option.bind_eq_some_iff.mp hg
      have h := List.all_eq_true.mp pageRows_fit r (pageRow?_mem hr)
      simp only [Bool.and_eq_true] at h
      exact of_decide_eq_true (List.all_eq_true.mp (List.all_eq_true.mp h.2 g (List.mem_of_find?_eq_some hg)) f hf)

/-- The mask of a field of a 32-bit register is a 32-bit word. -/
theorem Fld.mask_lt {f : Fld} (h : f.hi < 32) : f.mask < 2 ^ 32 := by
  unfold Fld.mask
  by_cases hl : f.lo ≤ f.hi
  · calc (2 ^ (f.hi + 1 - f.lo) - 1) * 2 ^ f.lo < 2 ^ (f.hi + 1 - f.lo) * 2 ^ f.lo :=
          Nat.mul_lt_mul_of_pos_right (Nat.sub_lt (Nat.two_pow_pos _) Nat.one_pos) (Nat.two_pow_pos _)
      _ = 2 ^ (f.hi + 1) := by rw [← pow_add]; congr 1; omega
      _ ≤ 2 ^ 32 := Nat.pow_le_pow_right (by decide) (by omega)
  · rw [show f.hi + 1 - f.lo = 0 by omega]
    simp

/-- A write of a whole register touches every field that can be written. -/
theorem Fld.mask_whole {f : Fld} (h : f.hi < 32) : Nat.land f.mask (2 ^ 32 - 1) = f.mask :=
  (Nat.and_two_pow_sub_one_eq_mod _ 32).trans (Nat.mod_eq_of_lt (Fld.mask_lt h))

/-- A reason code's family, the top digit, is the one it is made of. -/
theorem pageCode_family (fam p : Nat) {spec : Nat} (h : spec < 256) : pageCode fam p spec / 2 ^ 12 = fam := by
  have := pageBlk_lt p
  unfold pageCode
  omega

/-! ### The register pages -/

/-- A register's address lies in no region of memory. -/
theorem regSide_regAddr (s : State) {p o : Nat} (hp : p < 256) (ho : o < 4096) : s.regSide (regAddr p o) = true := by
  unfold State.regSide regionOf regAddr
  rw [if_neg (by omega), if_neg (by omega), if_neg (by omega)]
  rfl

/-- The page, the offset and the register that a permitted write reaches are those of its address. -/
theorem writeTarget_addr {r : Regs} {w : Who} {addr data mask p o : Nat} {g : Reg}
    (h : writeTarget r w addr data mask = .ok (p, o, g)) : addrReg addr = some (p, o) ∧ anyRegAt p o = some g := by
  unfold writeTarget at h
  dsimp only at h
  split at h
  · cases h
  · rename_i p' o' ha
    split at h
    · cases h
    · split at h
      · cases h
      · rename_i g' hg
        split at h
        · cases h
        · split at h
          · cases h
          · cases h
            exact ⟨ha, hg⟩

theorem writeTarget_reg {r : Regs} {w : Who} {page off data mask p o : Nat} {g : Reg} (hp : page < 256) (ho : off < 4096)
    (h : writeTarget r w (regAddr page off) data mask = .ok (p, o, g)) : p = page ∧ o = off ∧ anyRegAt page off = some g := by
  obtain ⟨ha, hg⟩ := writeTarget_addr h
  rw [addrReg_regAddr hp ho] at ha
  cases ha
  exact ⟨rfl, rfl, hg⟩

/-- An admitted write that reaches its register and that a rule of the page refuses: the refusal is recorded and answered. -/
theorem direct_ruled {s s1 : State} {a : Access} {addr data p o : Nat} {w : Who} {g : Reg} {c : Rc} (h : Handler)
    (ha : grantAccess s a addr = .ok (s1, w)) (ht : writeTarget s1.regs w addr data (2 ^ 32 - 1) = .ok (p, o, g))
    (hr : directRule s1 p o g (2 ^ 32 - 1) = some c) :
    direct s a addr data h = ((s1.refuse w c).resetRefused w addr data c).emit (.res c []) := by
  unfold direct accessWrite writeMasked
  simp only [ha, ht, hr]

/-! ### What a refusal records -/

namespace State

/-- A refusal that is no refusal of permission is recorded in the requester's SYS_WRERR alone. -/
theorem refuse_eq (s : State) (w : Who) {c : Rc} (hc : c.code / 2 ^ 12 ≠ 5) :
    s.refuse w c = (s.fsb w.bank SYS_WRERR_CODE c.code).fsb w.bank SYS_WRERR_DETAIL c.detail := by
  unfold refuse
  cases w with
  | ten n => exact if_neg hc
  | sys n => rfl

theorem regsBut_refuse {l : List (Nat × Nat)} (s : State) (w : Who) {c : Rc} (hc : c.code / 2 ^ 12 ≠ 5) (hm : (pgSYS, SYS_WRERR.off) ∈ l) :
    regsBut l s (s.refuse w c) := by
  rw [refuse_eq s w hc]
  exact ((regsBut.refl l s).fsb _ SYS_WRERR_CODE _ (by decide) (by decide) hm).fsb _ SYS_WRERR_DETAIL _ (by decide) (by decide) hm

/-- An event of any family but 7 writes no register. -/
theorem evTo_regs (s : State) (n p d k u : Nat) {c : Nat} (hc : c / 2 ^ 12 ≠ 7) : (s.evTo n p c d k u).regs = s.regs := by
  unfold evTo
  dsimp only
  rw [if_neg hc]

theorem evCmd_regs (s : State) (w : Option Nat) (p d k u : Nat) {c : Nat} (hc : c / 2 ^ 12 ≠ 7) : (s.evCmd w p c d k u).regs = s.regs := by
  cases w with
  | some n => exact s.evTo_regs n p d k u hc
  | none => exact s.evTo_regs _ p d k u hc

@[simp] theorem evCmd_outs (s : State) (w : Option Nat) (p c d k u : Nat) : (s.evCmd w p c d k u).outs = s.outs := by
  cases w with
  | some n => exact evTo_outs s n p c d k u
  | none => exact ev_outs s p c d k u

@[simp] theorem evCmd_fab (s : State) (w : Option Nat) (p c d k u : Nat) : (s.evCmd w p c d k u).fab = s.fab := by
  cases w with
  | some n => exact evTo_fab s n p c d k u
  | none => exact ev_fab s p c d k u

/-- A refusal other than 0x6x02 is no refusal of a RESET. -/
theorem resetRefused_other (s : State) (w : Who) {addr p o : Nat} (data : Nat) {c : Rc} (ha : addrReg addr = some (p, o))
    (hc : c.code ≠ pageCode 6 p 2) : s.resetRefused w addr data c = s := by
  unfold resetRefused
  simp [ha, hc]

/-- A refused RESET leaves the fabric and the answers alone, and no register but the page's PG_REASON. -/
theorem resetRefused_frame (s : State) (w : Who) {addr p o : Nat} (data : Nat) {c : Rc} (ha : addrReg addr = some (p, o)) (hp : p < 256)
    (hc : c.code / 2 ^ 12 ≠ 7) : (s.resetRefused w addr data c).fab = s.fab ∧ (s.resetRefused w addr data c).outs = s.outs ∧
      regsBut [(p, 0x010)] s (s.resetRefused w addr data c) := by
  have hr : ∀ v, regsBut [(p, 0x010)] s (s.fs (hREASON p) v) := fun v =>
    (regsBut.refl _ s).fs (hREASON p) v hp (show 0x010 < 4096 by decide) (List.mem_singleton_self _)
  unfold resetRefused
  simp only [ha]
  split
  · split
    · exact ⟨by simp, by simp, (hr _).of_eq (evCmd_regs _ _ _ _ _ _ hc)⟩
    · exact ⟨rfl, rfl, hr _⟩
  · exact ⟨rfl, rfl, regsBut.refl _ s⟩

end State

/-- REGISTER_WRITE of a register is a direct write by the handlers of the register map. -/
theorem exec_registerWrite (s : State) (a : Access) {page off : Nat} (data : Word) (env : Env) (hp : page < 256) (ho : off < 4096) :
    exec (.registerWrite a (regAddr page off) data env) s =
      .next (direct s.begin_ a (regAddr page off) data.toNat (hWrite env a.path)) := by
  unfold exec execRegisterWrite
  simp only [regSide_regAddr _ hp ho, ↓reduceIte]

/-- What an admission and a recorded refusal of family 6 leave. -/
theorem refused_frame {s s1 : State} {a : Access} {addr : Nat} {w : Who} {c : Rc} (ha : grantAccess s.begin_ a addr = .ok (s1, w))
    (hc : c.code / 2 ^ 12 = 6) : (s1.refuse w c).outs = [] ∧ (s1.refuse w c).fab = s1.fab ∧
      State.regsBut [(pgSYS, SYS_WRERR.off)] s1 (s1.refuse w c) := by
  have h5 : c.code / 2 ^ 12 ≠ 5 := by omega
  refine ⟨?_, ?_, s1.regsBut_refuse w h5 (List.mem_singleton_self _)⟩
  · rw [s1.refuse_eq w h5, State.fsb_outs, State.fsb_outs, (admit_admitted ha).all]
    rfl
  · rw [s1.refuse_eq w h5]
    rfl

/-- The rule on staged fields: a whole-register write of an enabled page that no pending firkin touches. -/
theorem directRule_staged {s : State} {p o : Nat} {g : Reg} (hg : anyRegAt p o = some g) (hn : s.pendingOn p = false)
    (he : enabledR s.regs p = true) (ho : 0x40 ≤ o)
    (hs : (g.flds.any fun f => (f.cls == .staged || f.cls == .cycle) && f.writable && decide (0 < f.mask)) = true) :
    directRule s p o g (2 ^ 32 - 1) = some ⟨pageCode 6 p 5, regAddr p o % 2 ^ 16⟩ := by
  have ht : (touchesCls g.flds (2 ^ 32 - 1) .staged || touchesCls g.flds (2 ^ 32 - 1) .cycle) = true := by
    obtain ⟨f, hf, h⟩ := List.any_eq_true.mp hs
    simp only [Bool.and_eq_true, Bool.or_eq_true] at h
    obtain ⟨⟨hcls, hw⟩, hm⟩ := h
    rw [← Fld.mask_whole (anyRegAt_fit hg hf)] at hm
    unfold touchesCls
    refine Bool.or_eq_true_iff.mpr (hcls.imp (fun h => ?_) fun h => ?_) <;>
      exact List.any_eq_true.mpr ⟨f, hf, by rw [h, hw, hm]; rfl⟩
  unfold directRule
  rw [if_neg (by simp [hn]), if_pos (by rw [he, ht, decide_eq_true ho]; rfl)]

/-- The rule on pages of pending firkins: block registers and PG_CTRL. -/
theorem directRule_pending {s : State} {p o : Nat} (g : Reg) (mask : Nat) (hn : s.pendingOn p = true) (ho : 0x40 ≤ o ∨ o = 0x008) :
    directRule s p o g mask = some ⟨pageCode 6 p 2, regAddr p o % 2 ^ 16⟩ := by
  unfold directRule
  rw [if_pos (by simpa [hn] using ho)]

/-- Settles O44: the rules of R36 refuse the write before the register's own checks, and the refusal's record is all that it leaves. -/
theorem stagedFieldsAndPendingPages : Obligations.StagedFieldsAndPendingPages := by
  refine ⟨fun s s1 a page off p o data env w g hp ho ha ht he h40 hs hn => ?_,
    fun s s1 a page off p o data env w g hp ho ha ht h40 hn => ?_⟩
  · obtain ⟨rfl, rfl, hg⟩ := writeTarget_reg hp ho ht
    have hr := directRule_staged hg hn he h40 hs
    have hcode : pageCode 6 p 5 ≠ pageCode 6 p 2 := by unfold pageCode; omega
    obtain ⟨kout, kfab, kreg⟩ := refused_frame (c := ⟨pageCode 6 p 5, regAddr p o % 2 ^ 16⟩) ha (pageCode_family 6 p (by decide))
    refine ⟨_, exec_registerWrite s a data env hp ho, ?_⟩
    rw [direct_ruled _ ha ht hr, State.resetRefused_other _ w data.toNat (addrReg_regAddr hp ho) hcode]
    exact ⟨⟨_, by rw [State.emit_outs, kout]; rfl⟩, kreg.emit _, kfab⟩
  · obtain ⟨rfl, rfl, hg⟩ := writeTarget_reg hp ho ht
    have hr := directRule_pending g (2 ^ 32 - 1) hn h40
    have h6 : pageCode 6 p 2 / 2 ^ 12 = 6 := pageCode_family 6 p (by decide)
    obtain ⟨kout, kfab, kreg⟩ := refused_frame (c := ⟨pageCode 6 p 2, regAddr p o % 2 ^ 16⟩) ha h6
    obtain ⟨rfab, rout, rreg⟩ := (s1.refuse w ⟨pageCode 6 p 2, regAddr p o % 2 ^ 16⟩).resetRefused_frame w data.toNat
      (addrReg_regAddr hp ho) hp (c := ⟨pageCode 6 p 2, regAddr p o % 2 ^ 16⟩) (by rw [h6]; decide)
    refine ⟨_, exec_registerWrite s a data env hp ho, ?_⟩
    rw [direct_ruled _ ha ht hr]
    exact ⟨⟨_, by rw [State.emit_outs, rout, kout]; rfl⟩, ((kreg.mono (by simp)).trans (rreg.mono (by simp))).emit _, rfab.trans kfab⟩

end Sys2Proof.Machine

/-! PROOFS. Register reads and writes (R31 to R37). -/

namespace Sys2Proof.Machine

/-! ### General SRAM -/

theorem regionOf_sram (d : Nat) {addr : Nat} (h1 : 0x10000000 ≤ addr) (h2 : addr < 0x10400000) : regionOf d addr = .sram :=
  if_pos ⟨h1, h2⟩

/-- A word that the management pair writes to general SRAM is stored there. -/
theorem exec_registerWrite_sram (s : State) {a : Access} {addr : Nat} (data : Word) (env : Env) (ha : a.path = .mgmt)
    (h1 : 0x10000000 ≤ addr) (h2 : addr < 0x10400000) (h4 : addr % 4 = 0) :
    exec (.registerWrite a addr data env) s =
      .next ({ s.begin_ with sram := cput s.sram (addr / 4) data 0 }.emit (.res ⟨0, 0⟩ [])) := by
  unfold exec execRegisterWrite State.regSide State.memAccess
  simp only [regionOf_sram _ h1 h2, ha, h4]
  rfl

/-! ### Plain header registers -/

/-- No header register but PG_CTRL has a handler of its own. -/
theorem ownHandler_header (env : Env) (p : Nat) {o : Nat} (ho : o < 0x040) (h8 : o ≠ 0x008) :
    sysHandler env p o = none ∧ devHandler env p o = none := by
  have hne : ∀ f : FRef, 0x040 ≤ f.off → o ≠ f.off := fun f hf => by omega
  constructor
  · unfold sysHandler
    simp only [h8, hne SYS_MODE (by decide), hne RST_CMD (by decide), hne RST_KICK (by decide), hne ADM_CMD (by decide),
      hne FK_CMD (by decide), hne FK_SDATA (by decide), hne EQ_POP (by decide), hne TEN_CMD (by decide), hne TEN_RUN (by decide),
      hne OSEC_CMD (by decide), hne ATT_CMD (by decide), hne UPD_CMD (by decide), hne DBG_HALT (by decide), ↓reduceIte, ite_self]
  · unfold devHandler
    simp only [hne HEALTH_CMD (by decide), hne RB_CLR (by decide), hne LOAD_ALL (by decide), hne PH_TEST (by decide),
      hne TRIM_CMD (by decide), hne ME_INJ (by decide), hne ME_INJA (by decide), hne SPIB_CMD (by decide), hne SPIB_CFG (by decide),
      hne SPIC_GCMD (by decide), hne SPIC_XFER (by decide), hne TWI_GCMD (by decide), hne TWI_XFER (by decide), ↓reduceIte, ite_self]

/-- No header register is part of a wide value that is written. -/
theorem wideLast_header (p : Nat) {o : Nat} (ho : o < 0x040) : wideLast p o = none := by
  have hne : ∀ f : FRef, 0x040 ≤ f.off → o ≠ f.off := fun f hf => by omega
  unfold wideLast
  simp only [hne CH_UPDA_H (by decide), hne PTP_GMID_H (by decide), hne FK_TSEC_H (by decide), and_false, ↓reduceIte]

/-- A write of PG_FMASK or PG_EVENT stores its fields and does nothing else. -/
theorem hWrite_header (env : Env) (path : Path) (s : State) (w : Who) (p : Nat) {o : Nat} (g : Reg) (d : Nat) (ho : o < 0x040)
    (h8 : o ≠ 0x008) (h20 : o ≠ 0x020) : hWrite env path s w p o g d = .ok (storeReg s w p o g d) := by
  have hne : ∀ f : FRef, 0x040 ≤ f.off → o ≠ f.off := fun f hf => by omega
  have hp : hWrite env path s w p o g d = hPlain path s w p o g d := by
    unfold hWrite
    rw [(ownHandler_header env p ho h8).1, (ownHandler_header env p ho h8).2]
    rfl
  have hl : s.lpbkFail w p o d = none := by
    unfold State.lpbkFail
    simp only [hne LNK_CFG (by decide), false_and, and_false, ↓reduceIte]
  have hv : s.overrideFail w p o d = none := by
    unfold State.overrideFail
    rw [if_neg]
    rintro ⟨-, h, -⟩
    exact absurd (Nat.lt_of_le_of_lt h ho) (by decide)
  have hpw : s.plainWrite path w p o g d = storeReg s w p o g d := by
    unfold State.plainWrite
    simp only [wideLast_header p ho, wideLast_header p (show o - 4 < 0x040 by omega), reduceCtorEq, ↓reduceIte]
  have he : ∀ u v : State, State.effect u v w.bank (rfgetB s.regs w.bank PAL_SEL_FEED 0 0) p o d (2 ^ 32 - 1) false = v := by
    intro u v
    unfold State.effect
    rw [if_neg h20, if_pos ho]
  rw [hp]
  unfold hPlain
  rw [hl, hv, if_pos ho, hpw, he]
  rfl

/-! ### Reads -/

namespace State

/-- What a read leaves: RC fields cleared, and free values used up. -/
def afterRead (s : State) (w : Who) (p o : Nat) (g : Reg) : State :=
  let u := s.readClears w p o g
  if (p = pgPIX ∧ o = PIX_SPEED.off) ∨ (p = pgFAULT ∧ o = FLT_COND.off) then { u with freeCtr := u.freeCtr + 2 } else u

/-- The fields of a register that clear with a read, as a mask. -/
def rcMask (g : Reg) : Nat := g.flds.foldl (fun m f => if f.acc = .rc then Nat.lor m f.mask else m) 0

theorem afterRead_outs (s : State) (w : Who) (p o : Nat) (g : Reg) : (s.afterRead w p o g).outs = s.outs := by
  have h : (s.readClears w p o g).outs = s.outs := by
    unfold readClears
    dsimp only
    split
    · rfl
    · split <;> rfl
  unfold afterRead
  dsimp only
  split <;> exact h

/-- A read of a register off EVTQ clears its RC fields, in the reader's copy. -/
theorem afterRead_regs (s : State) (w : Who) {p : Nat} (o : Nat) {g : Reg} (hp : p ≠ pgEVTQ) (hm : rcMask g ≠ 0) :
    (s.afterRead w p o g).regs = rput s.regs (bankOfReg s.regs w p o) p o
      (rget s.regs (bankOfReg s.regs w p o) p o - Nat.land (rget s.regs (bankOfReg s.regs w p o) p o) (rcMask g)) := by
  have h : (s.readClears w p o g).regs = rput s.regs (bankOfReg s.regs w p o) p o
      (rget s.regs (bankOfReg s.regs w p o) p o - Nat.land (rget s.regs (bankOfReg s.regs w p o) p o) (rcMask g)) := by
    change (if rcMask g = 0 then s else if p = pgEVTQ then _ else _ : State).regs = _
    rw [if_neg hm, if_neg hp]
    rfl
  unfold afterRead
  dsimp only
  split <;> exact h

theorem readReg_single (s : State) (path : Path) (w : Who) {p o : Nat} (g : Reg) (h : wideOf p o = none) :
    s.readReg path w p o g = (s.afterRead w p o g, s.readNow w p o g) := by
  unfold readReg
  simp only [h]
  rfl

/-- The words of a wide value as its registers read now. -/
def wideWords (s : State) (w : Who) (p : Nat) (os : List Nat) : List Word :=
  os.map fun x => BitVec.ofNat 32 (match anyRegAt p x with
    | some r => s.readNow w p x r
    | none => 0)

theorem readReg_first (s : State) (path : Path) (w : Who) {p o : Nat} (g : Reg) {os : List Nat} (h : wideOf p o = some (os, 0)) :
    s.readReg path w p o g =
      ((s.afterRead w p o g).latch (pathKey w (some path)) (regAddr p o) (s.wideWords w p os), s.readNow w p o g) := by
  unfold readReg
  simp only [h]
  rfl

theorem readReg_higher (s : State) (path : Path) (w : Who) {p o k : Nat} (g : Reg) {os : List Nat} {ws : List Word}
    (h : wideOf p o = some (os, k + 1)) (hs : s.snapshot (pathKey w (some path)) (regAddr p (nth os 0 0)) = some ws) :
    s.readReg path w p o g = (s.afterRead w p o g, (nth ws (k + 1) 0).toNat) := by
  unfold readReg
  simp only [h, hs]
  rfl

/-- A path's snapshot of a value is the last one latched. -/
theorem snapshot_latch (s : State) (key addr : Nat) (ws : List Word) : (s.latch key addr ws).snapshot key addr = some ws := by
  unfold snapshot latch
  rw [modFab_fab, List.find?_append, List.find?_eq_none.mpr ?_]
  · simp
  · intro x hx
    simpa [imp_iff_not_or] using (List.mem_filter.mp hx).2

end State

/-- A permitted read of a register answers code 0 and the word. -/
theorem directRead_ok {s s1 : State} {a : Access} {page off : Nat} {w : Who} {g : Reg} (hp : page < 256) (ho : off < 4096) (h4 : off % 4 = 0)
    (ha : grantAccess s a (regAddr page off) = .ok (s1, w)) (hg : anyRegAt page off = some g) (hr : mayReadR s1.regs w page = true) :
    s.directRead a (regAddr page off) =
      (s1.readReg a.path w page off g).1.emit (.res ⟨0, 0⟩ [BitVec.ofNat 32 (s1.readReg a.path w page off g).2]) := by
  have hal : ¬ regAddr page off % 4 ≠ 0 := by unfold regAddr; omega
  unfold State.directRead State.accessRead
  simp only [regSide_regAddr _ hp ho, ha, addrReg_regAddr hp ho, hal, hg, hr, Bool.not_true, Bool.false_eq_true, ↓reduceIte]

/-- A command that comes as a permitted read of a register. -/
theorem Runs.read {i : Instr} {s s1 : State} {a : Access} {page off : Nat} {w : Who} {g : Reg} {P : State → Prop}
    (e : exec i s = .next (s.begin_.directRead a (regAddr page off))) (hp : page < 256) (ho : off < 4096) (h4 : off % 4 = 0)
    (ha : grantAccess s.begin_ a (regAddr page off) = .ok (s1, w)) (hg : anyRegAt page off = some g) (hr : mayReadR s1.regs w page = true)
    (hP : P ((s1.readReg a.path w page off g).1.emit (.res ⟨0, 0⟩ [BitVec.ofNat 32 (s1.readReg a.path w page off g).2]))) : Runs i s P :=
  ⟨_, e, by rw [directRead_ok hp ho h4 ha hg hr]; exact hP⟩

/-- What a read leaves holds no output yet. -/
theorem afterRead_outs_nil {s s1 : State} {a : Access} {addr : Nat} {w : Who} (ha : grantAccess s.begin_ a addr = .ok (s1, w)) (p o : Nat)
    (g : Reg) : (s1.afterRead w p o g).outs = [] := by
  rw [s1.afterRead_outs, (admit_admitted ha).all]
  rfl

/-- Settles O14: the word stored in SRAM, the field write of a header register, and the three kinds of read. -/
theorem registerReadsAndWrites : Obligations.RegisterReadsAndWrites := by
  refine ⟨?sram, ?write, ?first, ?higher, ?clear⟩
  case sram =>
    intro s a addr data env ha h1 h2 h4
    refine ⟨_, exec_registerWrite_sram s data env ha h1 h2 h4, cget_cput _ _ _ _, fun k hk => cget_cput_ne _ _ _ _ hk, rfl, rfl⟩
  case write =>
    intro s s1 a page off p o data env w g hp hoff ha
    have ho : off < 0x040 := by omega
    have h24 : (0x024 : Nat) ≠ off := by omega
    obtain ⟨rfl, rfl⟩ := accepted_reg hp (by omega) ha
    refine Runs.direct (exec_registerWrite s a data env hp (by omega)) ha
      (hWrite_header env a.path s1 w p g _ ho (by omega) (by omega)) ⟨?_, ?_, done_outs ha rfl⟩
    · rw [State.emit_regs]
      refine (rget_rput_ne _ _ ?_).trans (rget_rput _ _ _ _ _)
      simp only [hGEN, Nat.add_zero, Nat.zero_mul, regKey]
      omega
    · exact ((State.regsBut.refl _ s1).put _ hp (by omega) (by simp)).done hp (by simp)
  case first =>
    intro s s1 a page off w g os hp ho h4 ha hg hr hw
    refine Runs.read rfl hp ho h4 ha hg hr ?_
    rw [State.readReg_first s1 a.path w g hw]
    refine ⟨?_, State.snapshot_latch _ _ _ _⟩
    exact congrArg (· ++ _) (afterRead_outs_nil ha page off g)
  case higher =>
    intro s s1 a page off k w g os ws hp ho h4 ha hg hr hw hs
    refine Runs.read rfl hp ho h4 ha hg hr ?_
    rw [State.readReg_higher s1 a.path w g hw hs, State.emit_outs, afterRead_outs_nil ha, BitVec.ofNat_toNat, BitVec.setWidth_eq]
    rfl
  case clear =>
    intro s s1 a page off m w g hp ho h4 ha hg hr hw hq hm h0
    subst hm
    have hregs := s1.afterRead_regs w off hq h0
    refine Runs.read rfl hp ho h4 ha hg hr ?_
    rw [State.readReg_single s1 a.path w g hw]
    refine ⟨?_, ?_, ?_⟩
    · rw [State.emit_outs, afterRead_outs_nil ha]
      rfl
    · rw [State.emit_regs, hregs, rget_rput]
      exact Nat.mod_eq_of_lt (Nat.lt_of_le_of_lt (Nat.sub_le _ _) (rget_lt _ _ _ _))
    · exact (((State.regsBut.refl [(page, off)] s1).put _ hp ho (by simp)).of_eq hregs).emit _

end Sys2Proof.Machine

/-! PROOFS. The writes of FK_CMD and FK_SDATA (R47, R48, R49, R52). -/

namespace Sys2Proof.Machine

namespace State

/-- OPEN by an identity that may hold a further handle takes the lowest free one. -/
theorem fkOpen_eq {s : State} {w : Who} {h : Nat} (hw : ∀ k : Fin 16, w = .ten k → roleR s.regs k.val ≠ 3)
    (hl : s.fgb w.bank FK_LEASE_MS ≠ 0) (hc : s.fkCount w.slot < Config.tenHandles) (hh : h < Config.nHandles) (hf : s.fk? h = none)
    (hj : ∀ j : Nat, j < h → s.fk? j ≠ none) :
    s.fkOpen w = ((s.modFab fun b => { b with fks := b.fks ++ [⟨h, w, false, .open_, [], s.fkLeaseEnd w, .imm, ⟨0, 0⟩, 0, 0, 0⟩] }).fsb
      w.bank FK_SEL_HANDLE h).fkRes w ⟨0, h⟩ := by
  have hfind : ∀ n, h < n → (List.range n).find? (fun j => (s.fk? j).isNone) = some h := fun n hn =>
    List.find?_range_eq_some.mpr ⟨by rw [hf]; rfl, List.mem_range.mpr hn, fun j hjh => by simpa [Option.isSome_iff_ne_none] using hj j hjh⟩
  unfold fkOpen
  rw [if_neg]
  · simp only [hl, Nat.not_le.mpr hc, hfind _ hh, ↓reduceIte]
  · cases w with
    | ten k => exact fun e => hw k rfl (beq_iff_eq.mp e)
    | sys n => exact Bool.false_ne_true

/-- A staged write that its checks pass is appended to the selected handle. -/
theorem fkStage_eq {s u : State} {w : Who} {data : Nat} {f : Firkin} {x : SWrite}
    (hu : u = (if s.fgb w.bank FK_SADDR_INC = 1 then s.fsb w.bank FK_SADDR_WORD ((s.fgb w.bank FK_SADDR_WORD + 1) % 1024) else s))
    (hx : x = ⟨s.fgb w.bank FK_SADDR_PAGE, s.fgb w.bank FK_SADDR_WORD * 4, s.fgb w.bank FK_SMASK_MASK, data,
      rfgetB s.regs w.bank PAL_SEL_FEED 0 0⟩)
    (hf : s.fk? (s.fgb w.bank FK_SEL_HANDLE) = some f) (hm : fkMine w f = true) (ho : f.st = .open_) (hn : f.writes.length < Config.maxStaged)
    (hc : u.stageFail (putWrites u.bootRegs w u.regs f.writes) w x = none) :
    s.fkStage w data = u.fkSet f.h fun y => { y with writes := y.writes ++ [x] } := by
  have huf : u.fk? (s.fgb w.bank FK_SEL_HANDLE) = some f := by
    rw [hu]
    split <;> exact hf
  unfold fkStage
  simp only [← hu, ← hx, huf, hm, ho, hc, fk?_h hf, firstOf, failIf, Nat.not_le.mpr hn]
  rfl

theorem fkCommit_eq {s : State} {w : Who} {h : Nat} {f : Firkin} (hf : s.fk? h = some f) (hm : fkMine w f = true) (ho : f.st = .open_) :
    s.fkCommit w h = s.fkSet h fun y => { y with st := .checking, trig := s.fkTrig w } := by
  unfold fkCommit
  simp [hf, hm, ho]

/-- The handle may be given up or its lease restarted: it is OPEN or FAILED. -/
theorem open_or_failed {f : Firkin} (h : f.st = .open_ ∨ f.st = .failed) : (f.st == .open_ || f.st == .failed) = true := by
  rcases h with h | h <;> rw [h] <;> rfl

theorem fkAbort_eq {s : State} {w : Who} {h : Nat} {f : Firkin} (hf : s.fk? h = some f) (hm : fkMine w f = true)
    (ho : f.st = .open_ ∨ f.st = .failed) : s.fkAbort w h = (s.fkFree h).fkRes w ⟨0, 0⟩ := by
  unfold fkAbort
  simp only [hf, hm, open_or_failed ho, Bool.and_self, ↓reduceIte]

theorem fkRenew_eq {s : State} {w : Who} {h : Nat} {f : Firkin} (hf : s.fk? h = some f) (hm : fkMine w f = true)
    (ho : f.st = .open_ ∨ f.st = .failed) (hl : s.fgb w.bank FK_LEASE_MS ≠ 0) :
    s.fkRenew w h = (s.fkSet h fun y => { y with leaseEnd := s.fkLeaseEnd w }).fkRes w ⟨0, 0⟩ := by
  unfold fkRenew
  simp only [hf, hm, open_or_failed ho, hl, Bool.and_self, ↓reduceIte]

theorem fkCancel_eq {s : State} {w : Who} {h : Nat} {f : Firkin} (hf : s.fk? h = some f) (hm : fkMine w f = true) (ho : f.st = .pending)
    (hc : s.cancelFail h = none) : s.fkCancel w h = (s.fkFree h).fkRes w ⟨0, 0⟩ := by
  unfold fkCancel
  simp [hf, hm, ho, hc]

/-- A banked field outside the page's header keeps its value over the answer to a write. -/
theorem done_fgb (u : State) (p b : Nat) (f : FRef) (hp : f.page < 256) (hpp : p < 256) (ho : f.off < 4096) (hh : 0x040 ≤ f.off) :
    ((u.bumpGen p).emit (.res ⟨0, 0⟩ [])).fgb b f = u.fgb b f := by
  have h := ((regsBut.refl [(p, 0x024)] u).done hpp (List.mem_singleton_self _)) b f.page f.off hp ho
    (by simp only [List.mem_singleton, Prod.mk.injEq]; omega)
  unfold fgb rfgetB
  simp only [Nat.add_zero, Nat.zero_mul, h]

end State

/-- The words of FK_CMD name an operation and a handle of 7 bits. -/
theorem Runs.firkin {i : Instr} {s s1 u : State} {a : Access} {p o op h : Nat} {w : Who} {g : Reg} {P : State → Prop}
    (e : exec i s = .next (fkCmd s a op h)) (hh : h < 128)
    (ha : accepted s.begin_ a (regAddr pgFIRKIN FK_CMD.off) (h * 256 + op) = some (s1, w, p, o, g))
    (hu : hFkCmd s1 w p o g (h % 128 * 256 + op) = .ok u)
    (hP : P ((u.bumpGen pgFIRKIN).emit (.res ⟨0, 0⟩ []))) : Runs i s P := by
  obtain ⟨rfl, rfl⟩ := accepted_reg (by decide) (by decide) ha
  have hmod : h % 128 * 256 + op = h * 256 + op := by rw [Nat.mod_eq_of_lt hh]
  rw [← hmod] at ha
  exact Runs.direct e ha hu hP

/-- Settles O12: each operation is one change of the handle table, and its result one of the identity's own FK_RESULT. -/
theorem firkinCommands : Obligations.FirkinCommands := by
  have result (u : State) (w : Who) (h : Nat) : (((u.fkRes w ⟨0, h⟩).bumpGen pgFIRKIN).emit (.res ⟨0, 0⟩ [])).fgb w.bank FK_RESULT_CODE = 0 := by
    rw [State.done_fgb _ _ _ _ (by decide) (by decide) (by decide) (by decide), State.fkRes_code]
    rfl
  have pages {s u : State} (h : State.pagesBut [pgFIRKIN] s u) (o : Out) : State.pagesBut [pgFIRKIN] s ((u.bumpGen pgFIRKIN).emit o) :=
    (h.bumpGen pgFIRKIN (by decide) (by simp)).emit o
  have told {s u : State} (w : Who) (h : Nat) (hu : u.regs = s.regs) (o : Out) :
      State.pagesBut [pgFIRKIN] s (((u.fkRes w ⟨0, h⟩).bumpGen pgFIRKIN).emit o) :=
    pages (State.fkRes_pages ((State.pagesBut.refl _ s).of_eq hu) w (show (0 : Nat) / 2 ^ 12 ≠ 5 by decide) (by simp)) o
  refine ⟨?open_, ?stage, ?commit, ?abort, ?renew, ?cancel⟩
  case open_ =>
    intro s s1 a p o h w g ha hw hl hc hh hf hj
    refine Runs.firkin (h := 0) rfl (by decide) ha ((hFkCmd_open s1 w p o g 0).trans (congrArg _ (State.fkOpen_eq hw hl hc hh hf hj)))
      ⟨?_, ?_, result _ _ _, ?_, pages ?_ _, done_outs ha (by simp)⟩
    · simp [State.fkLeaseEnd, accepted_now ha]
    · rw [State.done_fgb _ _ _ _ (by decide) (by decide) (by decide) (by decide), State.fkRes_eq _ _ (show (0 : Nat) / 2 ^ 12 ≠ 5 by decide),
        State.fgb_fsb_apart _ _ _ (by decide), State.fgb_fsb_apart _ _ _ (by decide), State.fgb_fsb _ _ ⟨by decide, by decide⟩]
      exact Nat.mod_eq_of_lt hh
    · rw [State.done_fgb _ _ _ _ (by decide) (by decide) (by decide) (by decide), State.fkRes_detail]
      exact Nat.mod_eq_of_lt (Nat.lt_trans hh (by decide))
    · refine State.fkRes_pages ?_ w (show (0 : Nat) / 2 ^ 12 ≠ 5 by decide) (by simp)
      exact ((State.pagesBut.refl _ s1).modFab _).fsb _ _ _ (by decide) (by decide) (by simp [FK_SEL_HANDLE, pgFIRKIN])
  case stage =>
    intro s s1 s2 a data p o w g f x ha h2 hf hm ho hn hx hc
    obtain ⟨rfl, rfl⟩ := accepted_reg (by decide) (by decide) ha
    have hs2 : s2.fab = s1.fab ∧ s2.outs = s1.outs ∧ State.pagesBut [pgFIRKIN] s1 s2 := by
      rw [h2]
      split
      · exact ⟨rfl, rfl, (State.pagesBut.refl _ s1).fsb _ _ _ (by decide) (by decide) (by simp [FK_SADDR_WORD, pgFIRKIN])⟩
      · exact ⟨rfl, rfl, State.pagesBut.refl _ _⟩
    obtain ⟨hfab, hout, hpg⟩ := hs2
    refine Runs.direct rfl ha ((hFkData_eq ..).trans (congrArg _ (State.fkStage_eq h2 hx hf hm ho hn hc)))
      ⟨?_, pages (hpg.of_eq (State.fkSet_regs _ _ _)) _, done_outs ha hout⟩
    simp [hfab]
  case commit =>
    intro s s1 a p o h w g f hh ha hf hm ho
    have hu : hFkCmd s1 w p o g (h % 128 * 256 + 2) = .ok (s1.fkSet h fun y => { y with st := .checking, trig := s1.fkTrig w }) := by
      rw [hFkCmd_commit, Nat.mod_eq_of_lt hh, State.fkCommit_eq hf hm ho]
    refine Runs.firkin rfl hh ha hu ⟨by simp, pages ?_ _, done_outs ha (by simp)⟩
    exact (State.pagesBut.refl _ s1).of_eq (State.fkSet_regs _ _ _)
  case abort =>
    intro s s1 a p o h w g f hh ha hf hm ho
    have hu : hFkCmd s1 w p o g (h % 128 * 256 + 3) = .ok ((s1.fkFree h).fkRes w ⟨0, 0⟩) := by
      rw [hFkCmd_abort, Nat.mod_eq_of_lt hh, State.fkAbort_eq hf hm ho]
    exact Runs.firkin rfl hh ha hu ⟨by simp, result _ _ _, told w 0 (State.fkFree_regs s1 h) _, done_outs ha (by simp)⟩
  case renew =>
    intro s s1 a p o h w g f hh ha hf hm ho hl
    have hu : hFkCmd s1 w p o g (h % 128 * 256 + 4) = .ok ((s1.fkSet h fun y => { y with leaseEnd := s1.fkLeaseEnd w }).fkRes w ⟨0, 0⟩) := by
      rw [hFkCmd_renew, Nat.mod_eq_of_lt hh, State.fkRenew_eq hf hm ho hl]
    refine Runs.firkin rfl hh ha hu ⟨?_, result _ _ _, told w 0 (State.fkSet_regs s1 h _) _, done_outs ha (by simp)⟩
    simp [State.fkLeaseEnd, accepted_now ha]
  case cancel =>
    intro s s1 a p o h w g f hh ha hf hm ho hc
    have hu : hFkCmd s1 w p o g (h % 128 * 256 + 5) = .ok ((s1.fkFree h).fkRes w ⟨0, 0⟩) := by
      rw [hFkCmd_cancel, Nat.mod_eq_of_lt hh, State.fkCancel_eq hf hm ho hc]
    exact Runs.firkin rfl hh ha hu ⟨by simp, result _ _ _, told w 0 (State.fkFree_regs s1 h) _, done_outs ha (by simp)⟩

end Sys2Proof.Machine

/-! PROOFS. The event queues' own commands (R56, R92). -/

namespace Sys2Proof.Machine

namespace State

/-- The queue of a slot that the table holds. -/
theorem evq_of_slot {s : State} {n : Nat} {y : Ten} (h : s.tens[n]? = some y) : s.evq n = y.evq := by
  unfold evq nth
  rw [List.getElem?_map, h]
  rfl

/-- A slot of whose entries `k` more have been sent, in one more frame. -/
def sentTen (k : Nat) (x : Ten) : Ten :=
  { x with evq := { x.evq with unsent := x.evq.unsent - k, seq := (x.evq.seq + 1) % 65536 } }

/-- Entries of an ACTIVE slot with a link session leave in one EVENT frame when the path passes frames. -/
theorem sendEvents_eq {s : State} {n : Nat} {y : Ten} (ht : s.tst n = tACTIVE) (hy : s.tens[n]? = some y) (hp : y.port.isSome = true)
    (hd : s.fgb (1 + n) EQ_CTRL_DELIVER ≠ 0) (hu : y.evq.unsent ≠ 0) (ha : s.passes s.pathAct = true) :
    s.sendEvents n =
      (({ (s.modTen n (sentTen (min 16 y.evq.unsent))) with lnk := { s.lnk with fctr := s.lnk.fctr + 1 } }).inc
        LNK_TXFR_COUNT s.pathAct 1).emit
        (.event (s.upHdr 4 n false y.evq.seq (4 + 16 * min 16 y.evq.unsent + 16)) s.pathAct n y.evq.seq
          (((y.evq.q.drop (y.evq.q.length - y.evq.unsent)).take (min 16 y.evq.unsent)).map Event.words)) := by
  unfold sendEvents
  simp only [evq_of_slot hy, hy]
  rw [if_neg (by simp [ht, hp, hd, hu, ha])]
  exact if_pos ha

end State

/-- Settles O15: a pop is one change of the queue in view, and a send one frame with the entries that wait. -/
theorem eventQueueCommands : Obligations.EventQueueCommands := by
  refine ⟨fun s s1 a p o w g ha => ?_, fun s n y ht hy hp hd hu hpass => ?_⟩
  · obtain ⟨rfl, rfl⟩ := accepted_reg (by decide) (by decide) ha
    exact Runs.direct (h := hEqPop) (u := s1.eqPop w) rfl ha rfl
      ⟨rfl, (((State.pagesBut.refl _ s1).modTen _ _).bumpGen pgEVTQ (by decide) (by simp)).emit _, done_outs ha rfl⟩
  · exact ⟨_, congrArg Host.Outcome.next (State.sendEvents_eq (s := s.begin_) ht hy hp hd hu hpass), rfl, rfl, rfl⟩

end Sys2Proof.Machine

/-! PROOFS. The page lifecycle's claim on the fabric fails at a unit's start (R41, R45). -/

namespace Sys2Proof.Machine

/-- The start of FEED page 0 is armed, its slot is ACTIVE and RUN_REQ is 1, so that RUN_ACT follows at the start; for two display cycles
the pair RUN_REQ, RUN_ACT has disagreed. -/
def feedStartDue : State :=
  (({ State.reset with fab := { State.reset.fab with starting := [pgFEED], agree := [(pgFEED * 64, 2)] } }.setTst 0 tACTIVE).fsi
    FEED_RUN_RUN_REQ 0 1)

/-- The start makes the pair agree, and the count of its disagreement returns to 0 (R45). -/
theorem feedStartDue_agree : (State.startNow false feedStartDue.begin_ pgFEED).fab.agree = [] := by decide

/-- Refutes O11: UNIT_START of a FEED page changes more of the fabric than its armed starts. Its unit's start settles the pair RUN_REQ,
RUN_ACT, whose disagreement count then returns to 0. -/
theorem not_pageLifecycle : ¬ Obligations.PageLifecycle := by
  rintro ⟨-, -, start, -⟩
  obtain ⟨t, ht, hfab, -⟩ := start feedStartDue pgFEED (by decide) (by decide)
  cases ht
  have h := feedStartDue_agree
  rw [hfab] at h
  exact absurd h (by decide)

end Sys2Proof.Machine

/-! PROOFS. What is loaded at a restart through TRIM (R312, R322, R332, R339, R388): registers, and state that shows what flash and OTP
hold. -/

namespace Sys2Proof.Machine

/-- From `s` to `t` no more has changed than the loads of a restart may: registers and the agreement of their pairs, tenant slots, and what
the power, security and update units hold. -/
structure Loaded (s t : State) : Prop where
  all : t = { s with
    regs := t.regs, fab := { s.fab with agree := t.fab.agree }, tens := t.tens, sec := t.sec, upd := t.upd, pow := t.pow }

namespace Loaded

variable {s t u : State}

theorem refl (s : State) : Loaded s s := ⟨rfl⟩

theorem trans (h : Loaded s t) (k : Loaded t u) : Loaded s u := ⟨by
  rw [k.all]
  conv_lhs => rw [h.all]⟩

theorem fs (h : Loaded s t) (f : FRef) (v : Nat) : Loaded s (t.fs f v) := h.trans ⟨rfl⟩
theorem fsi (h : Loaded s t) (f : FRef) (i v : Nat) : Loaded s (t.fsi f i v) := h.trans ⟨rfl⟩
theorem fsk (h : Loaded s t) (f : FRef) (i k v : Nat) : Loaded s (t.fsk f i k v) := h.trans ⟨rfl⟩
theorem setReg (h : Loaded s t) (p o v : Nat) : Loaded s (t.setReg p o v) := h.trans ⟨rfl⟩
theorem modSec (h : Loaded s t) (f : SecSt → SecSt) : Loaded s (t.modSec f) := h.trans ⟨rfl⟩
theorem modUpd (h : Loaded s t) (f : UpdSt → UpdSt) : Loaded s (t.modUpd f) := h.trans ⟨rfl⟩
theorem modPow (h : Loaded s t) (f : PowSt → PowSt) : Loaded s (t.modPow f) := h.trans ⟨rfl⟩

theorem ite {c : Prop} [Decidable c] (h : Loaded s t) (k : Loaded s u) : Loaded s (if c then t else u) := by
  split <;> assumption

theorem foldl {α : Type} (l : List α) {f : State → α → State} (hf : ∀ u x, Loaded u (f u x)) (h : Loaded s t) : Loaded s (l.foldl f t) := by
  induction l generalizing t with
  | nil => exact h
  | cons x l ih => exact ih (h.trans (hf t x))

theorem ev (h : Loaded s t) (p c d k n : Nat) : Loaded s (t.ev p c d k n) := by
  refine h.trans ⟨?_⟩
  unfold State.ev State.evTo
  dsimp only
  split <;> rfl

theorem fault (h : Loaded s t) (p b c d n : Nat) : Loaded s (t.fault p b c d n) := by
  unfold State.fault
  exact .ite (h.fs _ _) ((h.fs _ _).ev _ _ _ _ _)

theorem settle (h : Loaded s t) (p : Nat) : Loaded s (t.settle p) := by
  unfold State.settle
  have hc := foldl ((t.pairsOf p).filter (·.agree)) (f := fun s x => s.setAgree x 0) (fun _ _ => ⟨rfl⟩) h
  exact .ite (.ite ((hc.fs _ _).ev _ _ _ _ _) (hc.fs _ _)) hc

theorem runAct (h : Loaded s t) (n : Nat) : Loaded s (t.runAct n) := (h.fsi _ _ _).settle _

end Loaded

namespace State

variable {s t : State}

theorem loaded_showArb (h : Loaded s t) (k : Nat) : Loaded s (t.showArb k) := by
  unfold showArb
  dsimp only
  exact .ite (((((h.fsk _ _ _ _).fsk _ _ _ _).fsk _ _ _ _).fsk _ _ _ _).fs _ _) ((((h.fsk _ _ _ _).fsk _ _ _ _).fsk _ _ _ _).fsk _ _ _ _)

theorem loaded_arbLoad (h : Loaded s t) : Loaded s t.arbLoad :=
  .foldl _ (fun u k => .ite ((loaded_showArb (.refl u) k).fault _ _ _ _ _) (loaded_showArb (.refl u) k)) h

theorem loaded_arbRaise (h : Loaded s t) (k v : Nat) : Loaded s (t.arbRaise k v) := loaded_showArb (h.modSec _) k

theorem loaded_strapLoad (h : Loaded s t) : Loaded s t.strapLoad := by
  unfold strapLoad
  dsimp only
  exact (((((((h.fs _ _).fs _ _).fs _ _).fs _ _).fs _ _).fs _ _).fs _ _).fs _ _

theorem loaded_otpLoad (h : Loaded s t) : Loaded s t.otpLoad := by
  unfold otpLoad
  dsimp only
  exact (((((((((h.fs _ _).fs _ _).fs _ _).fs _ _).fs _ _).fs _ _).fs _ _).setReg _ _ _).fs _ _).fs _ _

theorem loaded_showStore (h : Loaded s t) : Loaded s t.showStore :=
  .foldl _ (fun u k => loaded_showArb (.refl u) k) (((h.fs _ _).setReg _ _ _).fs _ _)

theorem loaded_slotFill (h : Loaded s t) (n role winperm : Nat) (pw pr : List Nat) (pub : Nat) :
    Loaded s (t.slotFill n role winperm pw pr pub) := by
  unfold slotFill
  dsimp only
  exact (((Loaded.foldl _ (fun u k => ((Loaded.refl u).fsk _ _ _ _).fsk _ _ _ _) ((h.fsi _ _ _).fsi _ _ _)).fsk _ _ _ _).fsk _ _ _ _
    |>.fsi _ _ _).runAct n

/-- A block of the store is taken up: its epoch is shown, the arbiter's epoch is raised to it where it is behind, and its slots are
filled. -/
theorem loaded_storeLoad (h : Loaded s t) : Loaded s t.storeLoad := by
  unfold storeLoad
  dsimp only
  split
  · exact .ite ((loaded_showStore (h.modSec _)).fault _ _ _ _ _) (loaded_showStore (h.modSec _))
  next b r _ =>
    have he : Loaded s (((t.modStore fun _ => r.body).fs OSEC_EPOCH_BLOCK b).fs OSEC_EPOCH_STORE r.epoch) :=
      ((h.modSec _).fs _ _).fs _ _
    have hs := loaded_showStore ((Loaded.ite (c := t.arbVal 63 < r.epoch) (loaded_arbRaise he 63 r.epoch) he).fs OSEC_LC_STORE 1)
    refine .foldl _ (fun u x => ?_) (.ite (loaded_slotFill hs _ _ _ _ _ _) hs)
    split
    · exact loaded_slotFill (.refl u) _ _ _ _ _ _
    · exact .refl u

theorem loaded_showBoot (h : Loaded s t) : Loaded s t.showBoot := by
  unfold showBoot
  split
  · exact h
  · exact ((((h.fs _ _).fs _ _).fs _ _).fs _ _).fs _ _

theorem loaded_targetState (h : Loaded s t) (v : Nat) : Loaded s (t.targetState v) :=
  .ite (h.fsk _ _ _ _) (.ite (h.fsk _ _ _ _) h)

theorem loaded_showRcvd (h : Loaded s t) : Loaded s t.showRcvd := (h.fs _ _).fs _ _

theorem loaded_updLoad (h : Loaded s t) : Loaded s t.updLoad := by
  have hb := loaded_showBoot h
  unfold updLoad
  dsimp only
  generalize t.showBoot = b at hb ⊢
  split
  on_goal 2 =>
    refine .ite (loaded_targetState (loaded_showRcvd (((Loaded.modUpd ?_ _).fs _ _).fs _ _)) _)
      (loaded_showRcvd (((Loaded.modUpd ?_ _).fs _ _).fs _ _))
  all_goals
    split
    · exact .ite hb ((hb.fsk _ _ _ _).fsk _ _ _ _)
    · exact hb

theorem loaded_loads (h : Loaded s t) : Loaded s t.loads :=
  loaded_updLoad (loaded_storeLoad (loaded_arbLoad (loaded_otpLoad (loaded_strapLoad h))))

theorem loaded_keepReg (h : Loaded s t) (old : State) (p o : Nat) : Loaded s (t.keepReg old p o) := h.setReg _ _ _

theorem loaded_keepAon (h : Loaded s t) (old : State) : Loaded s (t.keepAon old) := by
  unfold keepAon
  dsimp only
  exact .foldl _ (fun u n => (Loaded.refl u).fsk _ _ _ _) (((loaded_keepReg (loaded_keepReg (loaded_keepReg (loaded_keepReg
    (loaded_keepReg (loaded_keepReg h _ _ _) _ _ _) _ _ _) _ _ _) _ _ _) _ _ _).fs _ _).fs _ _)

/-- A cold reset leaves the bare state with what is loaded (Table 2.25). -/
theorem loaded_coldReset (old : State) (cause : Nat) : Loaded old.bare (old.coldReset cause) :=
  ((((loaded_loads (((loaded_keepAon (.refl _) old).modSec _).modPow _)).fs _ _).fsi _ _ _).fs _ _).fs _ _

end State
end Sys2Proof.Machine

/-! PROOFS. The resets and the watchdog (R55, R69, R345, Table 2.25). -/

namespace Sys2Proof.Machine

namespace State

/-! ### Register access ends and returns -/

theorem pauseAccess_access (s : State) : s.pauseAccess.fab.access = false := by
  unfold pauseAccess
  split
  · rfl
  · exact Bool.eq_false_iff.mpr ‹_›

@[simp] theorem pauseAccess_fks (s : State) : s.pauseAccess.fab.fks = s.fab.fks := by
  unfold pauseAccess
  split <;> rfl

@[simp] theorem pauseAccess_now (s : State) : s.pauseAccess.now = s.now := by
  unfold pauseAccess
  split <;> rfl

/-- Without register access the loss of a handle waits to be told. -/
theorem foldl_fkTell_paused (l : List Firkin) {s : State} (h : s.fab.access = false) :
    l.foldl (fun s f => s.fkTell f.h f.who.slot) s =
      s.modFab fun b => { b with fkLost := b.fkLost ++ l.map fun f => (f.h, f.who.slot) } := by
  induction l generalizing s with
  | nil => simp [modFab]
  | cons f l ih =>
    have hf : s.fkTell f.h f.who.slot = s.modFab fun b => { b with fkLost := b.fkLost ++ [(f.h, f.who.slot)] } :=
      if_neg (Bool.eq_false_iff.mp h)
    rw [List.foldl_cons, hf]
    refine (ih (by exact h)).trans ?_
    simp [modFab]

/-- The stop of the management pair: no register access, no OPEN or FAILED handle, no latched word. -/
theorem mgmtStop_eq (s : State) : s.mgmtStop = s.pauseAccess.modFab fun b =>
    { b with
      fks := b.fks.filter fun f => !(f.st == .open_ || f.st == .failed)
      fkLost := b.fkLost ++ (b.fks.filter fun f => f.st == .open_ || f.st == .failed).map fun f => (f.h, f.who.slot)
      latches := [], wide := [] } := by
  unfold mgmtStop fkDrop
  simp only [Bool.and_true]
  rw [foldl_fkTell_paused _ (by exact pauseAccess_access s)]
  rfl

/-- With register access a lost handle is told at once, which leaves the fabric and the clock. -/
theorem foldl_fkTell_open (l : List (Nat × Nat)) {s : State} (h : s.fab.access = true) :
    (l.foldl (fun s x => s.fkTell x.1 x.2) s).fab = s.fab ∧ (l.foldl (fun s x => s.fkTell x.1 x.2) s).now = s.now := by
  induction l generalizing s with
  | nil => exact ⟨rfl, rfl⟩
  | cons x l ih =>
    have hx : s.fkTell x.1 x.2 = s.evTo x.2 pgFIRKIN 0x6006 x.1 kFirkin x.1 := if_pos h
    rw [List.foldl_cons, hx]
    simpa using ih (s := s.evTo x.2 pgFIRKIN 0x6006 x.1 kFirkin x.1) (by simpa using h)

theorem restoreAccess_access (s : State) : s.restoreAccess.fab.access = true := by
  unfold restoreAccess
  split
  · assumption
  · dsimp only
    rw [(foldl_fkTell_open _ rfl).1]
    rfl

theorem restoreAccess_now (s : State) : s.restoreAccess.now = s.now := by
  unfold restoreAccess
  split
  · rfl
  · dsimp only
    rw [(foldl_fkTell_open _ rfl).2]
    rfl

/-- The management pair is up again: register access, and a watchdog that starts now. -/
theorem mgmtUp_up (s : State) : s.mgmtUp.fab.access = true ∧ s.mgmtUp.fab.wdogAt = s.now ∧ s.mgmtUp.now = s.now := by
  have ha := restoreAccess_access s
  have hn := restoreAccess_now s
  unfold mgmtUp
  dsimp only
  split <;> simp [ha, hn]

/-! ### Half-arrays out of service -/

@[simp] theorem blendHalf_now (s : State) : s.blendHalf.now = s.now := by
  unfold blendHalf
  split <;> rfl

@[simp] theorem releaseFor_now (s : State) (w : Nat) (src ovl : Bool) : (s.releaseFor w src ovl).now = s.now := by
  unfold releaseFor
  split <;> rfl

@[simp] theorem arrayStop_now (s : State) : s.arrayStop.now = s.now := by
  unfold arrayStop halfOut
  simp only [blendHalf_now, fs_now]
  refine List.foldlRecOn (motive := fun t : State => t.now = s.now) _ _ rfl fun t ht j _ => ?_
  split
  · exact ht
  · exact (releaseFor_now _ _ _ _).trans ht

theorem handoverBreak_fab (s : State) : s.handoverBreak.fab = s.fab :=
  ((kept_handoverBreak (K := fun p => p ∈ [.regs, .pix, .blend, .upd]) (Kept.refl s) (by decide) (by decide) (by decide)
    (by decide)).same .fab).resolve_right (by decide)

theorem handoverBreak_now (s : State) : s.handoverBreak.now = s.now := by
  unfold handoverBreak
  split
  · rfl
  · exact arrayStop_now _

theorem fg_blendHalf_apart (s : State) {g : FRef} (h : apart CORR_STAT_BLEND g = true) : s.blendHalf.fg g = s.fg g := by
  unfold blendHalf
  split
  · exact fg_fs_apart _ _ h
  · rfl

theorem halfOut_half (s : State) (b : Bool) : (s.halfOut b 2).fg (halfRef b) = 2 := by
  unfold halfOut
  cases b
  · exact (fg_blendHalf_apart _ (by decide)).trans (fg_fs _ (by unfold FRef.fits; decide) _)
  · exact (fg_blendHalf_apart _ (by decide)).trans (fg_fs _ (by unfold FRef.fits; decide) _)

theorem pagesBut_halfOut (s : State) (b : Bool) (code : Nat) : pagesBut [pgRST, pgPIX, pgCORR] s (s.halfOut b code) := by
  have h : pagesBut [pgRST, pgPIX, pgCORR] s (s.fs (halfRef b) code) := by
    cases b <;> exact (pagesBut.refl _ s).fs _ _ (by decide) (by decide) (by decide)
  exact .ite ((h.modBlend _).fs _ _ (by decide) (by decide) (by decide)) h

/-! ### The resets -/

/-- A cold reset leaves TRIM, no register access, no firkin and empty memories; it sends nothing. -/
theorem coldReset_leaves (s : State) (c : Nat) : (s.coldReset c).mode = .trim ∧ (s.coldReset c).fab.access = false ∧
    (s.coldReset c).fab.fks = [] ∧ (s.coldReset c).mem = reset.mem ∧ (s.coldReset c).sram = [] ∧ (s.coldReset c).scan = reset.scan ∧
    (s.coldReset c).tim = reset.tim ∧ (s.coldReset c).outs = s.outs := by
  have h := loaded_coldReset s c
  generalize s.coldReset c = t at h
  rw [h.all]
  exact ⟨rfl, rfl, rfl, rfl, rfl, rfl, rfl, rfl⟩

theorem coldReset_cause (s : State) : (s.coldReset 3).fg RST_CAUSE_CAUSE = 3 := by
  unfold coldReset halvesUp inc
  rw [fg_fs_apart _ _ (by decide), fg_fs_apart _ _ (by decide)]
  exact (fg_fs_apart _ _ (by decide)).trans (fg_fs _ (by unfold FRef.fits; decide) _)

theorem mgmtReset_cause (s : State) {c : Nat} (hc : c < 256) : (s.mgmtReset c).fg RST_CAUSE_CAUSE = c :=
  ((fg_fs_apart _ _ (by decide)).trans (fg_fs _ (by unfold FRef.fits; decide) _)).trans (Nat.mod_eq_of_lt hc)

theorem mgmtReset_fab (s : State) (c : Nat) : (s.mgmtReset c).fab = s.mgmtStop.fab := handoverBreak_fab _

theorem mgmtReset_now (s : State) (c : Nat) : (s.mgmtReset c).now = s.now := by
  refine (handoverBreak_now _).trans ?_
  rw [mgmtStop_eq]
  exact pauseAccess_now s

/-- A reset of the management pair takes register access and frees every OPEN and FAILED handle (Table 2.25). -/
theorem mgmtReset_stops (s : State) (c : Nat) : (s.mgmtReset c).fab.access = false ∧
    (s.mgmtReset c).fab.fks = s.fab.fks.filter (fun y => !(y.st == .open_ || y.st == .failed)) ∧ (s.mgmtReset c).fab.latches = [] := by
  rw [mgmtReset_fab, mgmtStop_eq]
  exact ⟨pauseAccess_access s, congrArg _ (pauseAccess_fks s), rfl⟩

end State

/-- The write of RST_CMD that takes a half-array out of service. -/
theorem halfReset_done {s1 : State} (b : Bool) :
    (((s1.halfOut b 2).bumpGen pgRST).emit (.res ⟨0, 0⟩ [])).fg (halfRef b) = 2 ∧
      State.pagesBut [pgRST, pgPIX, pgCORR] s1 (((s1.halfOut b 2).bumpGen pgRST).emit (.res ⟨0, 0⟩ [])) := by
  refine ⟨?_, ((State.pagesBut_halfOut s1 b 2).bumpGen pgRST (by decide) (by decide)).emit _⟩
  refine Eq.trans ?_ (State.halfOut_half s1 b)
  cases b <;> exact State.done_fgk _ pgRST _ 0 0 (by decide) (by decide) (by decide) (by decide)

/-- COLD_RESET: the machine restarts, and the write is answered (R55). -/
theorem hRstCmd_cold (s : State) (w : Who) (g : Reg) :
    hRstCmd s w pgRST RST_CMD.off g 0x7A5E0001 = .ok ((s.coldReset 3).fs (hGEN pgRST) (2 ^ 32 - 1)) := rfl

theorem hRstCmd_mgmt (s : State) (w : Who) (g : Reg) : hRstCmd s w pgRST RST_CMD.off g 0x7A5E0002 = .ok (s.mgmtReset 4) := rfl

theorem hRstCmd_pixa (s : State) (w : Who) (g : Reg) : hRstCmd s w pgRST RST_CMD.off g 0x7A5E0003 = .ok (s.halfOut false 2) := rfl

theorem hRstCmd_pixb (s : State) (w : Who) (g : Reg) : hRstCmd s w pgRST RST_CMD.off g 0x7A5E0004 = .ok (s.halfOut true 2) := rfl

/-- The answer to a write that sets one field changes registers and outputs. -/
theorem State.done_fs_eq (t : State) (f : FRef) (v p : Nat) : ∃ r o, ((t.fs f v).bumpGen p).emit (.res ⟨0, 0⟩ []) =
    { t with regs := r, outs := o } := ⟨_, _, rfl⟩

theorem coldReset_runs {s s1 : State} {a : Access} {p o : Nat} {w : Who} {g : Reg}
    (ha : accepted s.begin_ a (regAddr pgRST RST_CMD.off) 0x7A5E0001 = some (s1, w, p, o, g)) :
    Runs (.coldReset a) s fun t => t.mode = .trim ∧ t.fab.access = false ∧ t.fab.fks = [] ∧ t.mem = State.reset.mem ∧ t.sram = [] ∧
      t.scan = State.reset.scan ∧ t.tim = State.reset.tim ∧ t.fg RST_CAUSE_CAUSE = 3 ∧ t.outs = doneOuts := by
  obtain ⟨rfl, rfl⟩ := accepted_reg (by decide) (by decide) ha
  obtain ⟨hmode, hacc, hfks, hmem, hsram, hscan, htim, houts⟩ := s1.coldReset_leaves 3
  refine Runs.direct rfl ha (hRstCmd_cold s1 w g) ?_
  have hcause : ((((s1.coldReset 3).fs (hGEN pgRST) (2 ^ 32 - 1)).bumpGen pgRST).emit (.res ⟨0, 0⟩ [])).fg RST_CAUSE_CAUSE = 3 :=
    (State.done_fgk _ pgRST RST_CAUSE_CAUSE 0 0 (by decide) (by decide) (by decide) (by decide)).trans
      ((State.fg_fs_apart _ _ (by decide)).trans s1.coldReset_cause)
  have hout := done_outs (q := pgRST) (u := (s1.coldReset 3).fs (hGEN pgRST) (2 ^ 32 - 1)) ha (by simpa using houts)
  obtain ⟨r, out, hu⟩ := State.done_fs_eq (s1.coldReset 3) (hGEN pgRST) (2 ^ 32 - 1) pgRST
  rw [hu] at hcause hout ⊢
  generalize s1.coldReset 3 = t at *
  exact ⟨hmode, hacc, hfks, hmem, hsram, hscan, htim, hcause, hout⟩

/-- Settles O16: a cold reset is the bare state with its loads; a reset of the management pair is its stop; the rest is each handler's
effect. -/
theorem resetCommands : Obligations.ResetCommands := by
  refine ⟨?cold, ?mgmt, ?pixa, ?pixb, ?kick, ?expire, ?restored⟩
  case cold => exact fun s s1 a p o w g ha => coldReset_runs ha
  case mgmt =>
    intro s s1 a p o w g ha
    obtain ⟨rfl, rfl⟩ := accepted_reg (by decide) (by decide) ha
    obtain ⟨hacc, hfks, hlat⟩ := s1.mgmtReset_stops 4
    exact Runs.direct rfl ha (hRstCmd_mgmt s1 w g) ⟨hacc, hfks, hlat,
      (State.done_fgk _ pgRST RST_CAUSE_CAUSE 0 0 (by decide) (by decide) (by decide) (by decide)).trans
        (s1.mgmtReset_cause (by decide))⟩
  case pixa =>
    intro s s1 a p o w g ha
    obtain ⟨rfl, rfl⟩ := accepted_reg (by decide) (by decide) ha
    exact Runs.direct rfl ha (hRstCmd_pixa s1 w g) (halfReset_done false)
  case pixb =>
    intro s s1 a p o w g ha
    obtain ⟨rfl, rfl⟩ := accepted_reg (by decide) (by decide) ha
    exact Runs.direct rfl ha (hRstCmd_pixb s1 w g) (halfReset_done true)
  case kick =>
    intro s s1 a p o w g ha
    obtain ⟨rfl, rfl⟩ := accepted_reg (by decide) (by decide) ha
    have hnow := accepted_now ha
    refine Runs.direct (h := hKick) (u := s1.modFab fun f => { f with wdogAt := s1.now }) rfl ha rfl
      ⟨?_, ((State.regsBut.refl _ s1).modFab _).done (by decide) (by decide), done_outs ha rfl⟩
    rw [← hnow]
    rfl
  case expire =>
    intro s ht hacc
    have hw : s.begin_.watchdog = (s.begin_.advance (s.fab.wdogAt + s.fg RST_WDOG_TIMEOUT * Config.ms)).mgmtReset 6 :=
      if_neg (by simp [ht, hacc])
    refine ⟨_, congrArg Host.Outcome.next hw, (State.mgmtReset_stops _ 6).1, State.mgmtReset_cause _ (by decide), ?_⟩
    exact State.mgmtReset_now _ 6
  case restored =>
    intro s hd
    exact ⟨_, congrArg Host.Outcome.next (if_pos hd), State.mgmtUp_up _⟩

end Sys2Proof.Machine

/-! PROOFS. RELEASE of SPIC, and the companion's command that waits behind a kept select (R294, R297, R346). -/

namespace Sys2Proof.Machine

namespace State

/-- A companion's command that waits for its port goes out as soon as the port is free (R297). -/
theorem compGo_sends {s : State} {x : CompSt} {c : Nat} {rest : List Nat} {i : Image} (hx : s.upd.comp = some x)
    (ht : x.todo = c :: rest) (hh : x.held = true) (hi : s.compImage c = some i) (hf : s.compFree c = true) :
    ∃ wire, s.compGo.outs = s.outs ++ [.serial wire (compBytes i x.cmd x.off)] := by
  unfold compGo compEmit
  simp only [hx, ht, hh, hi, hf, Bool.and_self, ↓reduceIte]
  exact ⟨_, rfl⟩

/-- Once no transfer runs and no select is kept, SPIC takes a companion's command. -/
theorem compFree_of_idle {s : State} {c : Nat} {i : Image} (hi : s.compImage c = some i) (hp : i.port < 128)
    (hx : s.ser.spicX = none) (hk : s.ser.kept = none) : s.compFree c = true := by
  unfold compFree
  simp [hi, hp, hx, hk]

theorem setGrant_spic (s : State) (h : Option Nat) :
    s.setGrant false h = (s.fs SPIC_GRANT_HELD (b2n h.isSome)).fs SPIC_GRANT_HOLDER (h.getD 0) := rfl

/-- SPIC without grant and without a kept select. -/
def spicFreed (s : State) : State := ((s.setGrant false none).modSer fun y => { y with kept := none }).fs SPIC_CTRL_KEPT 0

theorem spicFreed_ser (s : State) : s.spicFreed.ser = { s.ser with kept := none } := by
  rw [spicFreed, fs_ser, modSer_ser, setGrant_spic, fs_ser, fs_ser]

theorem spicFreed_upd (s : State) : s.spicFreed.upd = s.upd := by
  rw [spicFreed, fs_upd, modSer_upd, setGrant_spic, fs_upd, fs_upd]

theorem spicFreed_outs (s : State) : s.spicFreed.outs = s.outs := by
  rw [spicFreed, fs_outs, modSer_outs, setGrant_spic, fs_outs, fs_outs]

/-- RELEASE of SPIC between transfers frees the select that KEEP holds, and what waits for the port goes out. -/
theorem grantRelease_spic {s : State} (hx : s.ser.spicX = none) : s.grantRelease false = s.spicFreed.compGo :=
  if_neg (by simp [setGrant, hx])

theorem compImage_congr {s t : State} (h : t.upd = s.upd) (c : Nat) : t.compImage c = s.compImage c := by
  unfold compImage
  rw [h]

end State

theorem hGcmd_release (freed : Bool) (s : State) (w : Who) (o : Nat) (g : Reg) :
    hGcmd freed s w pgSPIC o g 2 = .ok (s.grantRelease false) := rfl

/-- RELEASE of SPIC between transfers, while a companion's command waits for the port: the command goes out before the answer. -/
theorem release_sends_companion {s s1 : State} {a : Access} {p o : Nat} {w : Who} {g : Reg} {x : CompSt} {c : Nat} {rest : List Nat}
    {i : Image} (ha : accepted s.begin_ a (gcmdAddr false) 2 = some (s1, w, p, o, g)) (hs : s.ser.spicX = none)
    (hx : s.upd.comp = some x) (ht : x.todo = c :: rest) (hh : x.held = true) (hi : s.compImage c = some i) (hp : i.port < 128) :
    Runs (.release a false) s fun t => ∃ wire, t.outs = [.serial wire (State.compBytes i x.cmd x.off), .res ⟨0, 0⟩ []] := by
  obtain ⟨rfl, rfl⟩ := accepted_reg (by decide) (by decide) ha
  have hadm := (accepted_admitted ha).all
  have hser : s1.ser = s.ser := by rw [hadm]; rfl
  have hupd : s1.spicFreed.upd = s.upd := by rw [s1.spicFreed_upd, hadm]; rfl
  have hspicX : s1.spicFreed.ser.spicX = none := by rw [s1.spicFreed_ser, hser]; exact hs
  have hkept : s1.spicFreed.ser.kept = none := by rw [s1.spicFreed_ser]
  have himg : s1.spicFreed.compImage c = some i := (State.compImage_congr hupd c).trans hi
  obtain ⟨wire, hgo⟩ := State.compGo_sends (hupd ▸ hx) ht hh himg (State.compFree_of_idle himg hp hspicX hkept)
  refine Runs.direct rfl ha (hGcmd_release true s1 w _ g) ⟨wire, ?_⟩
  rw [State.grantRelease_spic (hser ▸ hs), State.emit_outs, State.bumpGen_outs, hgo, s1.spicFreed_outs, accepted_outs ha]
  rfl

/-- An image for companion 0, which select 1 of SPIC reaches. -/
def spicCompanion : Image := ⟨0x10, 0, 0, 1, 4096, []⟩

/-- T0 has a session and holds SPIC, whose select 0 KEEP holds; COMMIT for companion 0 waits until no select is held. -/
def companionWaits : State :=
  let s : State := { State.reset with
    fab := { State.reset.fab with access := true }
    ser := { State.reset.ser with kept := some 0 }
    upd := { State.reset.upd with
      target := 1
      slots := [none, some ⟨1, 0, false, false, [], [spicCompanion]⟩, none]
      comp := some ⟨1, [0], 4, 0, 0, 0, 0, true⟩ } }
  (((s.setTst 0 tACTIVE).fsi TEN_STATE_ROLE 0 roleOwner).setGrant false (some 0)).fs SPIC_CTRL_KEPT 1

/-- The owner, by its session on link 0. -/
def ownerLink : Access := ⟨.ten 0, .link 0⟩

/-- The fabric accepts the owner's RELEASE of SPIC. -/
theorem companionWaits_accepted : (accepted companionWaits.begin_ ownerLink (gcmdAddr false) 2).isSome = true := by decide

/-- Refutes O39: RELEASE of SPIC can send more than its answer. While a select is kept, a companion's command waits (R297); RELEASE
frees the select, and the command goes out. -/
theorem not_busPorts : ¬ Obligations.BusPorts := by
  rintro ⟨-, -, release, -⟩
  obtain ⟨⟨s1, w, p, o, g⟩, ha⟩ := Option.isSome_iff_exists.mp companionWaits_accepted
  obtain ⟨t, ht, wire, hsent⟩ := release_sends_companion (i := spicCompanion) ha rfl rfl rfl rfl rfl (by decide)
  obtain ⟨u, hu, -, -, -, -, -, hdone⟩ := release companionWaits s1 ownerLink false p o w g ha
  cases ht.symm.trans hu
  cases hsent.symm.trans hdone

end Sys2Proof.Machine

/-! PROOFS. A lock can send a REPORT: it first settles the heartbeats that the lack of lock has ended (R89, R90). -/

namespace Sys2Proof.Machine

namespace State

theorem settle_outs (s : State) (p : Nat) : (s.settle p).outs = s.outs := by
  rw [((Loaded.refl s).settle p).all]

/-- Settling a page changes its MISMATCH alone, beside what an event changes. -/
theorem pagesBut.settle {l : List Nat} {s t : State} (h : pagesBut l s t) (p : Nat) (hp : p < 256) (hm : p ∈ l) (hf : pgFAULT ∈ l) :
    pagesBut l s (t.settle p) := by
  unfold State.settle
  have hc : pagesBut l s (((t.pairsOf p).filter (·.agree)).foldl (fun s x => s.setAgree x 0) t) :=
    .foldl _ (fun _ _ _ hu => hu.of_eq rfl) h
  have hs := hc.fs (hMISMATCH p) 0 hp (show 0x00C < 4096 by decide) hm
  exact .ite (.ite (hs.ev _ _ _ _ _ hf) hs) hc

/-- A port whose page stands passes frames as before. -/
theorem pagesBut.passes {l : List Nat} {s t : State} (h : pagesBut l s t) {p : Nat} (hp : p < 4) (hm : pgLNK + p ∉ l) :
    t.passes p = s.passes p := by
  have hpg : pgLNK + p < 256 := show 0x20 + p < 256 by omega
  unfold State.passes
  rw [h.active _ hpg hm]
  exact congrArg (fun x => s.active (pgLNK + p) && x == 1) (h.fgk LNK_STAT_UP p 0 hpg (by decide) hm)

/-! ### Reports and the switch of the path -/

/-- A REPORT leaves on a port that passes frames. -/
theorem report_outs {s : State} {p : Nat} (reason : Nat) (h : s.passes p = true) : ∃ o, (s.report p reason).outs = s.outs ++ [o] :=
  ⟨_, congrArg State.outs (if_pos h)⟩

/-- The path has switched to the other port; its REPORT is still to come (R90). -/
def switched (s : State) : State :=
  ((((s.fs CH_PATH_PATH_ACT (1 - s.pathAct)).settle pgCHAIN).faultBit pgCHAIN 0).inc CH_SWCNT_COUNT 0 1).ev pgCHAIN 0x0210 (1 - s.pathAct)
    kInfo 0

theorem switched_outs (s : State) : s.switched.outs = s.outs := by
  rw [switched, ev_outs, inc_outs, faultBit_outs, settle_outs, fs_outs]

theorem pagesBut_switched (s : State) : pagesBut [pgCHAIN, pgFAULT] s s.switched :=
  (((((pagesBut.refl _ s).fs _ _ (by decide) (by decide) (by decide)).settle _ (by decide) (by decide) (by decide)).faultBit _ _
    (by decide) (by decide)).inc _ _ _ (by decide) (by decide) (by decide)).ev _ _ _ _ _ (by decide)

/-- While the active heartbeat is lost and the other one valid, the check of the path sends a REPORT on the other port. -/
theorem pathCheck_outs {s : State} (ha : s.fg CH_PATH_AUTOSW = 1) (hl : s.hbOk s.pathAct = false) (ho : s.hbOk (1 - s.pathAct) = true)
    (hp : s.passes (1 - s.pathAct) = true) : ∃ o, s.pathCheck.outs = s.outs ++ [o] := by
  have hsw : s.pathCheck = s.switched.report (1 - s.pathAct) 1 := if_pos ⟨ha, by rw [hl]; rfl, ho⟩
  have hpg : pgLNK + (1 - s.pathAct) ∉ [pgCHAIN, pgFAULT] := by
    simp only [pgLNK, pgCHAIN, pgFAULT, List.mem_cons, List.not_mem_nil, or_false, not_or]
    omega
  have hps : s.switched.passes (1 - s.pathAct) = true := (s.pagesBut_switched.passes (by omega) hpg).trans hp
  rw [hsw, ← s.switched_outs]
  exact report_outs 1 hps

/-! ### A heartbeat that is lost -/

/-- The heartbeat of port `p` is marked lost (R89). -/
def hbGone (s : State) (p : Nat) : State :=
  ((s.modPort p fun x => { x with hb := false }).fsi LNK_STAT_HB_OK p 0).faultBit (pgLNK + p) 3

theorem hbGone_same (s : State) (p : Nat) : (s.hbGone p).hbOk p = false := by
  show (nth (modAt s.lnk.ports p _) p _).hb = false
  rw [nth, modAt_eq_modify, List.getElem?_modify_eq]
  cases s.lnk.ports[p]? <;> rfl

theorem hbGone_other (s : State) {p q : Nat} (h : q ≠ p) : (s.hbGone p).hbOk q = s.hbOk q := by
  show (nth (modAt s.lnk.ports p _) q _).hb = _
  rw [nth, getElem?_modAt_ne _ _ h]
  rfl

theorem pagesBut_hbGone (s : State) {p : Nat} (hp : p < 4) : pagesBut [pgLNK + p] s (s.hbGone p) := by
  have hpg : pgLNK + p < 256 := show 0x20 + p < 256 by omega
  exact (((pagesBut.refl _ s).modPort _ _).fsi LNK_STAT_HB_OK _ _ hpg (by decide) List.mem_cons_self).faultBit _ _ hpg List.mem_cons_self

/-- L1, the active path, loses its heartbeat while L0 has one and passes frames: a REPORT goes out. -/
theorem hbLost_outs {s : State} (h1 : s.hbOk 1 = true) (h0 : s.hbOk 0 = true) (ha : s.fg CH_PATH_AUTOSW = 1) (hact : s.pathAct = 1)
    (hp : s.passes 0 = true) : ∃ o, (s.hbLost 1).outs = s.outs ++ [o] := by
  have hpg := s.pagesBut_hbGone (p := 1) (by decide)
  have hact' : (s.hbGone 1).pathAct = 1 := (hpg.fg CH_PATH_PATH_ACT (by decide) (by decide) (by decide)).trans hact
  have h0' : (s.hbGone 1).hbOk 0 = true := (s.hbGone_other (by decide)).trans h0
  have hlost : s.hbLost 1 = (s.hbGone 1).pathCheck := by
    unfold hbLost
    rw [if_neg (by simp [h1])]
    exact congrArg pathCheck (if_neg fun hb : (!(s.hbGone 1).hbOk 0) = true ∧ _ => by simp [h0'] at hb)
  rw [hlost]
  refine pathCheck_outs ((hpg.fg CH_PATH_AUTOSW (by decide) (by decide) (by decide)).trans ha) ?_ ?_ ?_
  · rw [hact']; exact s.hbGone_same 1
  · rw [hact']; exact h0'
  · rw [hact']; exact (hpg.passes (by decide) (by decide)).trans hp

/-- L0 keeps its lock and L1 has been without lock for 1 µs: L1's heartbeat alone is lost. -/
theorem hbTick_eq {s : State} (h1 : s.hbOk 1 = true) (hl0 : s.locked 0 = true) (hl1 : s.locked 1 = false)
    (ht : (s.port 1).noLockAt + Config.us ≤ s.now) : s.hbTick = s.hbLost 1 := by
  simp [hbTick, h1, hl0, hl1, ht]

/-- A lock at the speed the port takes sees to the heartbeats first; the rest is registers of the port and its pair. -/
theorem loaded_lockGained {s : State} {p : Nat} {g25 : Bool} (ha : s.active (pgLNK + p) = true) (hl : s.locked p = false)
    (hr : s.fgi LNK_CFG_SPEED_REQ p = if g25 = true then 1 else 2) : Loaded s.hbTick (s.lockGained p g25) := by
  have hs (v : Nat) := ((((((Loaded.refl s.hbTick).fsi LNK_STAT_BLOCK p 1).fsi LNK_STAT_ALIGN p (b2n g25)).fsi LNK_STAT_SIGDET p 1).fsi
    LNK_STAT_SPEED_ACT p v).fsi LNK_STAT_HIBER p 0).settle (pgLNK + p)
  unfold lockGained
  dsimp only
  rw [if_neg (by cases g25 <;> simp [ha, hl, hr])]
  exact .ite (hs _) (.ite ((((hs _).fsi _ _ _).fsi _ _ _).fsi _ _ _) ((hs _).fsi _ _ _))

end State

/-- L1, the active path, regains lock after 1 µs or more without it, before its heartbeat's loss was settled, while L0 has a heartbeat
and passes frames: the lock settles the loss, the path switches, and a REPORT goes out. -/
theorem linkLock_sends {s : State} {g25 : Bool} (ha : s.active (pgLNK + 1) = true) (hl : s.locked 1 = false)
    (hr : s.fgi LNK_CFG_SPEED_REQ 1 = if g25 = true then 1 else 2) (ht : (s.port 1).noLockAt + Config.us ≤ s.now) (h1 : s.hbOk 1 = true)
    (h0 : s.hbOk 0 = true) (hl0 : s.locked 0 = true) (hp : s.passes 0 = true) (hs : s.fg CH_PATH_AUTOSW = 1) (hact : s.pathAct = 1) :
    Runs (.linkLock 1 g25) s fun t => ∃ o, t.outs = [o] := by
  obtain ⟨o, ho⟩ := State.hbLost_outs (s := s.begin_) h1 h0 hs hact hp
  refine ⟨_, rfl, o, ?_⟩
  calc (s.begin_.lockGained 1 g25).outs = s.begin_.hbTick.outs := by rw [(State.loaded_lockGained (s := s.begin_) ha hl hr).all]
    _ = (s.begin_.hbLost 1).outs := congrArg State.outs (State.hbTick_eq h1 hl0 hl ht)
    _ = [o] := ho

/-- Port `p` runs, with a valid heartbeat. -/
def State.portRuns (s : State) (p : Nat) : State :=
  (s.fs (hACTIVE (pgLNK + p)) 1).modPort p fun x => { x with hb := true }

/-- A 25G-only L1, the active path, has been without lock for 1 µs since its last heartbeat; L0 has lock, passes frames and has a
heartbeat. -/
def l1WithoutLock : State :=
  (((((({ State.reset with now := Config.us }.portRuns 0).portRuns 1).fsi LNK_STAT_BLOCK 0 1).fsi LNK_STAT_UP 0 1).fsi
    LNK_CFG_SPEED_REQ 1 1).fs CH_PATH_PATH_REQ 1).fs CH_PATH_PATH_ACT 1

/-- Refutes O25: a lock can send a REPORT. Where L1's heartbeat ends with its lack of lock, the lock finds that end first, and the path
switches to L0 (R89, R90). -/
theorem not_portCommands : ¬ Obligations.PortCommands := by
  rintro ⟨lock, -⟩
  obtain ⟨t, ht, o, hsent⟩ := linkLock_sends (s := l1WithoutLock) (g25 := true) (by decide) (by decide) (by decide) (by decide)
    (by decide) (by decide) (by decide) (by decide) (by decide) (by decide)
  obtain ⟨u, hu, -, -, -, -, -, -, hnone⟩ := lock l1WithoutLock 1 true (by decide) (by decide) (by decide) (by decide)
  cases ht.symm.trans hu
  cases hsent.symm.trans hnone

end Sys2Proof.Machine

/-! PROOFS. What a restart leaves of the cycle in progress: SYS_DCN and the timebase's state over the loads of a restart, and the wake from
SLEEP (R360, R361). -/

namespace Sys2Proof.Machine

namespace State

/-- From `s` to `t` SYS_DCN and the timebase's state read the same. -/
structure SameCycle (s t : State) : Prop where
  dcn : t.dcn = s.dcn
  tim : t.tim = s.tim

/-- SYS_DCN is 0x054 of page 0: every register beyond page 0 has its key above. -/
theorem regKey_ne_dcn (b : Nat) {p : Nat} (o : Nat) (hp : p ≠ 0) : regKey b p o ≠ regKey 0 0 0x054 := by
  unfold regKey
  omega

namespace SameCycle

variable {s t u : State}

theorem refl (s : State) : SameCycle s s := ⟨rfl, rfl⟩

theorem trans (h : SameCycle s t) (k : SameCycle t u) : SameCycle s u := ⟨k.dcn.trans h.dcn, k.tim.trans h.tim⟩

/-- The word at SYS_DCN's key is all that SYS_DCN shows. -/
theorem of_cget (h : SameCycle s t) (ht : u.tim = t.tim)
    (hr : cget u.regs (regKey 0 0 0x054) (regDflt (regKey 0 0 0x054)) = cget t.regs (regKey 0 0 0x054) (regDflt (regKey 0 0 0x054))) :
    SameCycle s u := h.trans ⟨congrArg (fun w : Word => bitsOf w.toNat 31 0) hr, ht⟩

theorem of_regs (h : SameCycle s t) (ht : u.tim = t.tim) (hr : u.regs = t.regs) : SameCycle s u := h.of_cget ht (by rw [hr])

theorem put (h : SameCycle s t) {b p o : Nat} (v : Nat) (hk : regKey b p o ≠ regKey 0 0 0x054) :
    SameCycle s { t with regs := rput t.regs b p o v } := h.of_cget rfl (cget_cput_ne _ _ _ _ hk.symm)

theorem fs (h : SameCycle s t) (f : FRef) (v : Nat) (hf : f.page ≠ 0 ∨ f.off ≠ 0x054 := by decide) : SameCycle s (t.fs f v) :=
  h.put _ (by unfold regKey; omega)

theorem fsk (h : SameCycle s t) (f : FRef) (i k v : Nat) (hf : f.page ≠ 0 := by decide) : SameCycle s (t.fsk f i k v) :=
  h.put _ (regKey_ne_dcn _ _ (by omega))

theorem fsi (h : SameCycle s t) (f : FRef) (i v : Nat) (hf : f.page ≠ 0 := by decide) : SameCycle s (t.fsi f i v) := h.fsk f i 0 v hf

theorem setReg (h : SameCycle s t) (p o v : Nat) (hp : p ≠ 0 := by decide) : SameCycle s (t.setReg p o v) :=
  h.put _ (regKey_ne_dcn _ _ hp)

theorem modSec (h : SameCycle s t) (f : SecSt → SecSt) : SameCycle s (t.modSec f) := h.of_regs rfl rfl
theorem modUpd (h : SameCycle s t) (f : UpdSt → UpdSt) : SameCycle s (t.modUpd f) := h.of_regs rfl rfl
theorem modPow (h : SameCycle s t) (f : PowSt → PowSt) : SameCycle s (t.modPow f) := h.of_regs rfl rfl

theorem heldOver (h : SameCycle s t) (sec : SecSt) (keys : List SlotKeys) (fab : FabSt) :
    SameCycle s { t with sec := sec, keys := keys, fab := fab } := h.of_regs rfl rfl

theorem ite {c : Prop} [Decidable c] (h : SameCycle s t) (k : SameCycle s u) : SameCycle s (if c then t else u) := by
  split <;> assumption

theorem foldl {α : Type} (l : List α) {f : State → α → State} (hf : ∀ u x, SameCycle u (f u x)) (h : SameCycle s t) :
    SameCycle s (l.foldl f t) := by
  induction l generalizing t with
  | nil => exact h
  | cons x l ih => exact ih (h.trans (hf t x))

theorem ev (h : SameCycle s t) (p c d k n : Nat) : SameCycle s (t.ev p c d k n) := by
  unfold State.ev State.evTo
  dsimp only
  split
  · exact ((h.fs FLT_LAST_CODE c).fs FLT_LAST_DETAIL d).of_regs rfl rfl
  · exact h.of_regs rfl rfl

theorem fault (h : SameCycle s t) (p b c d n : Nat) : SameCycle s (t.fault p b c d n) := by
  have hb := h.fs (hFAULT p) (Nat.lor (t.fg (hFAULT p)) (2 ^ b)) (.inr (by decide : (0x014 : Nat) ≠ 0x054))
  unfold State.fault
  exact .ite hb (hb.ev _ _ _ _ _)

theorem settle (h : SameCycle s t) (p : Nat) : SameCycle s (t.settle p) := by
  have hc := foldl ((t.pairsOf p).filter (·.agree)) (f := fun s x => s.setAgree x 0) (fun _ _ => ⟨rfl, rfl⟩) h
  have hm := hc.fs (hMISMATCH p) 0 (.inr (by decide : (0x00C : Nat) ≠ 0x054))
  unfold State.settle
  exact .ite (.ite (hm.ev _ _ _ _ _) hm) hc

theorem runAct (h : SameCycle s t) (n : Nat) : SameCycle s (t.runAct n) := (h.fsi _ _ _).settle _

/-! ### The loads of a restart -/

theorem showArb (h : SameCycle s t) (k : Nat) : SameCycle s (t.showArb k) := by
  unfold State.showArb
  dsimp only
  exact .ite (((((h.fsk _ _ _ _).fsk _ _ _ _).fsk _ _ _ _).fsk _ _ _ _).fs _ _) ((((h.fsk _ _ _ _).fsk _ _ _ _).fsk _ _ _ _).fsk _ _ _ _)

theorem arbRaise (h : SameCycle s t) (k v : Nat) : SameCycle s (t.arbRaise k v) := (h.modSec _).showArb k

theorem arbLoad (h : SameCycle s t) : SameCycle s t.arbLoad :=
  .foldl _ (fun u k => .ite (((refl u).showArb k).fault _ _ _ _ _) ((refl u).showArb k)) h

theorem strapLoad (h : SameCycle s t) : SameCycle s t.strapLoad :=
  (((((((h.fs SLOT_BOOT_SOURCE _).fs SPIB_CFG_XIP_EN _).fs SYS_MODE_MODE_REQ _).fs SPIA_CFG_ROLE _).fs CH_ROLE_ROLE _).fs
    SUP_CFG_PRESENT _).fs UPD_CFG_HOENROL _).fs MEMC_CFG_HINT _

theorem otpLoad (h : SameCycle s t) : SameCycle s t.otpLoad :=
  (((((((((h.fs CH_ETYPE_ETYPE _).fs SYS_SPIA_EN _).fs SYS_SPIA_TEN _).fs MEMC_RATE_MTS _).fs SPIB_CFG_DIV _).fs SPIB_CFG_ADDR4 _).fs
    PD_BOOT_SVCBOOT _).setReg pgMEMPHY MP_DRV.off _).fs OSEC_CFGREC_USED _).fs OSEC_CFGREC_CUR _

theorem showStore (h : SameCycle s t) : SameCycle s t.showStore :=
  .foldl _ (fun u k => (refl u).showArb k) (((h.fs OSEC_LC_LC _).setReg pgOSEC OSEC_POL.off _).fs OSEC_OCTR_CTR _)

theorem slotFill (h : SameCycle s t) (n role winperm : Nat) (pw pr : List Nat) (pub : Nat) :
    SameCycle s (t.slotFill n role winperm pw pr pub) := by
  have hp := foldl (List.range 8) (f := fun s k => (s.fsk TEN_PW_PW n k (nth pw k 0)).fsk TEN_PR_PR n k (nth pr k 0))
    (fun u k => ((refl u).fsk _ _ _ _).fsk _ _ _ _) ((h.fsi TEN_STATE_ROLE n role).fsi TEN_WINPERM_WIN n winperm)
  exact (((hp.fsk KS_SLOT_ENROLLED 0 n 1).fsk KS_KEYID_ID 0 n _).fsi TEN_STATE_STATE n _).runAct n

theorem storeLoad (h : SameCycle s t) : SameCycle s t.storeLoad := by
  unfold State.storeLoad
  dsimp only
  split
  · have hb : SameCycle s (t.modStore fun _ => Store.blank).showStore := (h.modSec _).showStore
    exact .ite (hb.fault _ _ _ _ _) hb
  next b r _ =>
    have he : SameCycle s (((t.modStore fun _ => r.body).fs OSEC_EPOCH_BLOCK b).fs OSEC_EPOCH_STORE r.epoch) :=
      ((h.modSec _).fs _ _).fs _ _
    have hs := ((ite (c := t.arbVal 63 < r.epoch) (he.arbRaise 63 r.epoch) he).fs OSEC_LC_STORE 1).showStore
    refine .foldl _ (fun u x => ?_) (.ite (hs.slotFill _ _ _ _ _ _) hs)
    split
    · exact (refl u).slotFill _ _ _ _ _ _
    · exact refl u

theorem showBoot (h : SameCycle s t) : SameCycle s t.showBoot := by
  unfold State.showBoot
  split
  · exact h
  · exact ((((h.fs _ _).fs _ _).fs _ _).fs _ _).fs _ _

theorem targetState (h : SameCycle s t) (v : Nat) : SameCycle s (t.targetState v) :=
  .ite (h.fsk SLOT_INFO_STATE _ _ _) (.ite (h.fsk SLOT_BND_STATE _ _ _) h)

theorem updLoad (h : SameCycle s t) : SameCycle s t.updLoad := by
  have hb := h.showBoot
  unfold State.updLoad
  dsimp only
  generalize t.showBoot = b at hb ⊢
  split
  on_goal 2 =>
    refine .ite (targetState ((((modUpd ?_ _).fs _ _).fs _ _).fs UPD_RCVD_TOTAL _ |>.fs UPD_RCVD_DONE _) _)
      ((((modUpd ?_ _).fs _ _).fs _ _).fs UPD_RCVD_TOTAL _ |>.fs UPD_RCVD_DONE _)
  all_goals
    split
    · exact .ite hb ((hb.fsk _ _ _ _).fsk _ _ _ _)
    · exact hb

theorem loads (h : SameCycle s t) : SameCycle s t.loads := h.strapLoad.otpLoad.arbLoad.storeLoad.updLoad

/-! ### What a restart keeps -/

theorem keepReg (h : SameCycle s t) (old : State) (p o : Nat) (hk : regKey 0 p o ≠ regKey 0 0 0x054 := by decide) :
    SameCycle s (t.keepReg old p o) := h.put _ hk

theorem keepAon (h : SameCycle s t) (old : State) : SameCycle s (t.keepAon old) := by
  have hr := (((((h.keepReg old pgSYS SYS_STRAP.off).keepReg old pgRST RST_COUNT.off).keepReg old pgPWRDOM PD_BOD.off).keepReg old
    pgPWRDOM PD_WAKESRC.off).keepReg old pgTHERM TH_PEAK.off).keepReg old pgDBG DBG_SCOPE.off
  exact .foldl _ (fun u n => (refl u).fsk _ _ _ _) ((hr.fs TH_CNT_SHUTDOWNS _).fs OSEC_LC_DEBUGGED _)

/-- Registers of another page are copied to their own keys. -/
theorem keepPage (h : SameCycle s t) (old : State) {p : Nat} (hp : p ≠ 0) : SameCycle s (t.keepPage old p) := by
  refine h.of_cget rfl (List.foldlRecOn (motive := fun r : Regs => cget r _ _ = cget t.regs _ _) _ _ rfl fun r hr x hx => ?_)
  have hpage : x.1 / 2 ^ 12 % 2 ^ 8 = p := by simpa using (List.mem_filter.mp hx).2
  refine (cget_cput_ne _ _ _ _ fun hx0 => hp ?_).trans hr
  rw [← hpage, ← hx0]
  decide

theorem keepDram (h : SameCycle s t) (old : State) : SameCycle s (t.keepDram old) := by
  have hm := (h.of_regs (u := { t with mem := old.mem }) rfl rfl).keepPage old (p := pgMEMPHY) (by decide)
  unfold State.keepDram
  exact .ite (((hm.fs MEMC_STAT_STATE 3).fs MEMC_SIZE_MB _).fs MEMC_CFG_DENSITY _) h

theorem keepSession (h : SameCycle s t) (old : State) (n : Nat) : SameCycle s (old.keepSession t n) := by
  have hs := (((h.fsi TEN_STATE_STATE n tACTIVE).fsi TEN_STATE_VIA_LINK n (old.fgi TEN_STATE_VIA_LINK n)).fsi TEN_STATE_VIA_SPIA n
    (old.fgi TEN_STATE_VIA_SPIA n)).keepReg old (pgTEN + n) TEN_SEQ.off (regKey_ne_dcn _ _ (by unfold pgTEN; omega))
  unfold State.keepSession
  exact .ite (hs.of_regs rfl rfl) h

end SameCycle

/-- A wake restarts the bare state. -/
theorem sameCycle_wakeReset (old : State) (src : Nat) : SameCycle old.bare (old.wakeReset src) := by
  have hk := ((SameCycle.refl old.bare).keepAon old).keepReg old pgRST RST_CAUSE.off
  have hp := ((hk.heldOver old.sec old.keys
    { old.bare.fab with pausedAt := old.fab.pausedAt, fkLost := old.fab.fkLost }).keepPage old (p := pgOSEC) (by decide)).keepPage old
    (p := pgKEYST) (by decide)
  have hl := ((hp.keepDram old).modPow
    fun p => { p with bootFails := old.pow.bootFails, image := old.pow.image, powering := [2] }).loads
  have hs := SameCycle.foldl (List.range 16) (f := keepSession old) (fun u n => (SameCycle.refl u).keepSession old n) hl
  exact ((((hs.fs PD_ACT_DOM 3).fsi PD_WAKESRC_WAKES 0 _).fs PD_WAKESRC_SRC src).ev _ _ _ _ _).ev _ _ _ _ _

theorem wakeReset_dcn (old : State) (src : Nat) : (old.wakeReset src).dcn = 0 := (sameCycle_wakeReset old src).dcn.trans rfl

/-- No cycle runs after a wake. -/
theorem wakeReset_running (old : State) (src : Nat) : (old.wakeReset src).tim.running = false :=
  congrArg TimeSt.running (sameCycle_wakeReset old src).tim

end State

end Sys2Proof.Machine

/-! PROOFS. A span boundary at which SLEEP entry completes with a wake noted (R190, R360, R374). -/

namespace Sys2Proof.Machine

/-- The one part that may not change reads the same. -/
theorem Kept.part {p : Part} {s t : State} (h : Kept (· ≠ p) s t) : p.same s t := (h.same p).resolve_right fun hp => hp rfl

namespace State

/-! ### The last step of SLEEP entry -/

theorem setMode_mode (s : State) (m : Mode) : (s.setMode m).mode = m := by
  unfold setMode
  dsimp only
  rw [((Loaded.refl _).settle pgSYS).all]
  simp

theorem setMode_pow (s : State) (m : Mode) : (s.setMode m).pow = s.pow :=
  (kept_setMode (K := (· ≠ .pow)) (Kept.refl s) (by decide) (by decide) (by decide) (by decide) (by decide)).part

theorem sleepFinish_mode (s : State) : s.sleepFinish.mode = .sleep := setMode_mode _ _

/-- Before the last step of SLEEP entry puts SLEEP in force, it leaves modes and power alone. -/
theorem sleepFinish_eq (s : State) : ∃ u : State, u.pow = s.pow ∧
    s.sleepFinish = (u.modPow fun p => { p with sleeping := false }).setMode .sleep := by
  refine ⟨_, Kept.part (p := .pow) ?_, rfl⟩
  refine kept_settle (.fs (.fs (.foldl _ (fun u p hu => .ite (hu.fs _ _ ?_) hu) (kept_dropPlans (kept_genStop (.foldl _
    (fun u p hu => kept_portStop hu ?_ ?_ ?_ ?_) (.ite (.fs (kept_memDrain (.refl s) ?_ ?_ ?_ ?_) _ _ ?_)
      (kept_memOff (.refl s) ?_ ?_ ?_))) ?_ ?_ ?_) ?_ ?_)) _ _ ?_) _ _ ?_) ?_ ?_ ?_
  all_goals decide

theorem sleepFinish_pow (s : State) : s.sleepFinish.pow = { s.pow with sleeping := false } := by
  obtain ⟨u, hu, hs⟩ := s.sleepFinish_eq
  rw [hs, setMode_pow, modPow_pow, hu]

/-- SLEEP entry has its last step to make: the rails are OFF, and none is to start. Wake `src` is noted. -/
structure WakesAsleep (src : Nat) (s : State) : Prop where
  sleeping : s.pow.sleeping = true
  wake : s.pow.wakeSrc = some src
  off : ∀ r ∈ s.sup.rails, r.st = 0 ∧ r.ask = none

variable {src : Nat} {s t : State}

theorem WakesAsleep.sleepGo (h : WakesAsleep src s) : s.sleepGo = s.sleepFinish.wakeReset src := by
  have hoff : s.railsOff = true := by
    simp only [railsOff, List.all_eq_true, beq_iff_eq]
    exact fun r hr => (h.off r hr).1
  simp [State.sleepGo, sleepStep, wakeNoted, h.sleeping, hoff, sleepFinish_pow, h.wake, sleepFinish_mode]

/-! ### The boundary up to that step -/

theorem WakesAsleep.of_eq (h : WakesAsleep src s) (hp : t.pow.sleeping = s.pow.sleeping) (hw : t.pow.wakeSrc = s.pow.wakeSrc)
    (hs : t.sup = s.sup) : WakesAsleep src t := ⟨hp.trans h.sleeping, hw.trans h.wake, hs ▸ h.off⟩

/-- What leaves power and supply alone. -/
theorem WakesAsleep.kept (h : WakesAsleep src s) (k : Kept (· ∉ [Part.pow, Part.sup]) s t) : WakesAsleep src t := by
  have hp : t.pow = s.pow := (k.same .pow).resolve_right (by decide)
  have hs : t.sup = s.sup := (k.same .sup).resolve_right (by decide)
  exact h.of_eq (by rw [hp]) (by rw [hp]) hs

/-- A hard stop puts every rail OFF, with no start in view. -/
theorem WakesAsleep.hardStop (h : WakesAsleep src s) (safe : Bool) : WakesAsleep src (s.hardStop safe) := by
  unfold State.hardStop
  refine List.foldlRecOn (motive := WakesAsleep src) _ _ ⟨h.sleeping, h.wake, ?_⟩ fun u hu n _ => hu.kept ?_
  · simp only [List.mem_map, forall_exists_index, and_imp, forall_apply_eq_imp_iff₂]
    exact fun _ _ => ⟨rfl, rfl⟩
  · exact kept_showPhase (.refl u) (by decide) (by decide) (by decide)

theorem WakesAsleep.domainOff (h : WakesAsleep src s) (d : Nat) : WakesAsleep src (s.domainOff d) := by
  have hp : WakesAsleep src ((s.setPower d false).modPow fun p => { p with powering := p.powering.filter (· != d) }) :=
    (h.kept (kept_setPower (.refl s) (by decide) (by decide) (by decide))).of_eq rfl rfl rfl
  unfold State.domainOff
  dsimp only
  split
  · exact hp.hardStop false
  · refine List.foldlRecOn (motive := WakesAsleep src) _ _ hp fun u hu k _ => hu.kept ?_
    exact .ite (((Kept.refl u).fsi _ _ _ (by decide)).fault _ _ _ _ _ (by decide) (by decide)) (.refl u)

theorem WakesAsleep.domainSwitch (h : WakesAsleep src s) : WakesAsleep src s.domainSwitch := by
  unfold State.domainSwitch
  split
  · refine WakesAsleep.of_eq (List.foldlRecOn (motive := WakesAsleep src) _ _ h fun u hu d _ => ?_) rfl rfl rfl
    split
    · exact hu
    · split
      · exact hu.of_eq rfl rfl rfl
      · exact hu.domainOff d
  · exact h

theorem WakesAsleep.railBoundary (h : WakesAsleep src s) : s.railBoundary = s :=
  if_neg (by simpa using fun r hr => (h.off r hr).2)

/-- Without a heartbeat no lack of lock ends one. -/
theorem hbTick_of_none (h0 : s.hbOk 0 = false) (h1 : s.hbOk 1 = false) : s.hbTick = s := by
  simp [hbTick, h0, h1]

/-- At a boundary for which nothing is armed, and with no heartbeat to lose, SLEEP entry completes and the wake follows at once. -/
theorem WakesAsleep.boundaryActs (h : WakesAsleep src s) (h0 : s.hbOk 0 = false) (h1 : s.hbOk 1 = false) (hst : s.fab.starting = [])
    (hsp : s.fab.stopping = []) (hrs : s.fab.resetting = []) (hfk : s.fab.fks = []) (dcns : List Nat) (atCycle : Bool) (rx : StopRx) :
    ∃ u : State, s.boundaryActs dcns atCycle rx = u.wakeReset src := by
  have hq : WakesAsleep src (s.resetAll rx).objBoundary.rdbkBoundary.healthBoundary.trimBoundary := h.kept <| by
    refine kept_trimBoundary (kept_healthBoundary (kept_rdbkBoundary (kept_objBoundary (kept_resetAll (.refl s)
      ?_ ?_ ?_ ?_ ?_ ?_ ?_ ?_ ?_ ?_ ?_) ?_ ?_ ?_ ?_ ?_ ?_ ?_ ?_ ?_ ?_ ?_) ?_ ?_ ?_) ?_ ?_ ?_) ?_ ?_
    all_goals decide
  have hd := hq.domainSwitch
  have hb := hd.kept (kept_halfBack (bb := true) (kept_halfBack (bb := false) (.refl _) (by decide)) (by decide))
  refine ⟨_, Eq.trans ?_ hb.sleepGo⟩
  simp [State.boundaryActs, unitsBoundary, fkApplyDue, hst, hsp, hrs, hfk, hbTick_of_none h0 h1, hd.railBoundary]

/-- Within a cycle whose next start comes later, the boundary comes at the span's end (R190). -/
theorem spanBoundary_within {c : CycNext} (e : SpanEnv) (hm : s.mode ≠ .sleep) (hr : s.tim.running = true) (hc : s.nextCycle = some c)
    (hlate : s.scan.startAt + s.spanLen < c.g) : s.spanBoundary e = s.spanNext e (s.scan.startAt + s.spanLen) := by
  simp [spanBoundary, hm, hr, hc, Nat.not_le.mpr hlate]

/-- Once a wake has ended the cycle, a boundary within a sweep does no more. -/
theorem spanNext_of_wake {e : SpanEnv} {n : Nat}
    (hsweep : ((s.advance n).endSpan e true).scan.span + 1 ≠ ((s.advance n).endSpan e true).rows)
    (hw : ((s.advance n).endSpan e true).nextPlace.boundaryActs [] false e.rx = t.wakeReset src) : s.spanNext e n = t.wakeReset src := by
  simp [spanNext, hsweep, hw, wakeReset_running]

end State

theorem State.begin_of_outs {s : State} (h : s.outs = []) : s.begin_ = s := by
  cases s
  cases h
  rfl

theorem exec_spanBoundary (e : SpanEnv) (s : State) : exec (.spanBoundary e) s = .next (s.begin_.spanBoundary e) := rfl

/-- SHOW, in the first span of the cycle with DCN 1, the timebase LOCKED: the request for SLEEP has acted, the rails are OFF, and a wake by
WAKEN is noted. -/
def wakesAtSpanEnd : State :=
  let s : State := { State.reset with
    mode := .show
    tim := { State.reset.tim with running := true, cycled := true }
    scan := { State.reset.scan with inCycle := true }
    pow := { State.reset.pow with sleeping := true, wakeSrc := some 1 } }
  (s.fs TIME_STAT_STATE 2).fs SYS_DCN_DCN 1

/-- A span that ends with nothing found. -/
def quietSpan : SpanEnv := ⟨[], [], [], [], [], [], [], ⟨[], [], []⟩⟩

/-- `wakesAtSpanEnd` where its span has ended and the next place is taken. -/
def spanEnded : State :=
  let s := wakesAtSpanEnd
  ((s.advance (s.scan.startAt + s.spanLen)).endSpan quietSpan true).nextPlace

theorem spanEnded_wakesAsleep : spanEnded.WakesAsleep 1 := ⟨by decide, by decide, by decide⟩

/-- The start that the timebase LOCKED without a beat foresees, one period of reset from grain 0. -/
def secondCycle : CycNext := ⟨266666667, 17476266666667, 2, false, false⟩

theorem wakesAtSpanEnd_nextCycle : wakesAtSpanEnd.nextCycle = some secondCycle := by decide

/-- At the end of that span the wake puts SYS_DCN back to 0. -/
theorem wakesAtSpanEnd_dcn : (wakesAtSpanEnd.spanBoundary quietSpan).dcn = 0 := by
  obtain ⟨u, hu⟩ := spanEnded_wakesAsleep.boundaryActs (by decide) (by decide) (by decide) (by decide) (by decide) (by decide) []
    false quietSpan.rx
  calc (wakesAtSpanEnd.spanBoundary quietSpan).dcn = (u.wakeReset 1).dcn := congrArg State.dcn <|
        (State.spanBoundary_within quietSpan (by decide) (by decide) wakesAtSpanEnd_nextCycle (by decide)).trans
          (State.spanNext_of_wake (by decide) hu)
    _ = 0 := u.wakeReset_dcn 1

/-- Refutes O29: a span boundary within a cycle can change SYS_DCN. Where SLEEP entry has only its last step to make and a wake is noted,
the entry completes at the boundary and the wake follows at once, which restarts SYS_DCN with every domain but AON and SEC (R361, R374). -/
theorem not_spansAndCycles : ¬ Obligations.SpansAndCycles := by
  rintro ⟨-, within, -⟩
  obtain ⟨t, ht, -, hdcn⟩ := within wakesAtSpanEnd quietSpan secondCycle (by decide) (by decide) wakesAtSpanEnd_nextCycle (by decide)
    (by decide) (by decide) (by decide) (by decide)
  rw [exec_spanBoundary, State.begin_of_outs (by decide)] at ht
  have hzero : t.dcn = 0 := Host.Outcome.next.inj ht ▸ wakesAtSpanEnd_dcn
  have hone : wakesAtSpanEnd.dcn = 1 := by decide
  omega

end Sys2Proof.Machine

/-! PROOFS. One register's word over the operations of the picture path and of the sensors (R35), and the clock beside it. -/

namespace Sys2Proof.Machine

namespace State

/-- From `s` to `t` register `o` of page `p` reads the same. -/
def SameReg (p o : Nat) (s t : State) : Prop := t.reg p o = s.reg p o

namespace SameReg

variable {p o : Nat} {s t u : State}

theorem refl (p o : Nat) (s : State) : SameReg p o s s := rfl

theorem trans (h : SameReg p o s t) (k : SameReg p o t u) : SameReg p o s u := Eq.trans k h

theorem of_regs (h : SameReg p o s t) (e : u.regs = t.regs) : SameReg p o s u :=
  Eq.trans (congrArg (fun r => rget r 0 p o) e) h

/-- An operation that leaves the register file alone. -/
theorem of_kept (h : SameReg p o s t) (k : Kept (· ≠ .regs) t u) : SameReg p o s u := h.of_regs k.part

/-- A field of the register keeps its value. -/
theorem fg {f : FRef} (h : SameReg f.page f.off s t) : t.fg f = s.fg f := by
  have e : rget t.regs 0 f.page f.off = rget s.regs 0 f.page f.off := h
  simp only [State.fg, rfget, rfgetB, Nat.add_zero, Nat.zero_mul, e]

theorem put (h : SameReg p o s t) {b' p' o' : Nat} (v : Nat) (hk : regKey b' p' o' ≠ regKey 0 p o) :
    SameReg p o s { t with regs := rput t.regs b' p' o' v } := h.trans (rget_rput_ne _ v hk.symm)

theorem fsk (h : SameReg p o s t) (f : FRef) (i k v : Nat) (hk : regKey 0 (f.page + i) (f.off + k * f.stride) ≠ regKey 0 p o) :
    SameReg p o s (t.fsk f i k v) := h.put _ hk

theorem fsi (h : SameReg p o s t) (f : FRef) (i v : Nat) (hk : regKey 0 (f.page + i) f.off ≠ regKey 0 p o) :
    SameReg p o s (t.fsi f i v) := h.put _ (by simpa using hk)

theorem fs (h : SameReg p o s t) (f : FRef) (v : Nat) (hk : regKey 0 f.page f.off ≠ regKey 0 p o := by decide) :
    SameReg p o s (t.fs f v) := h.put _ (by simpa using hk)

theorem inc (h : SameReg p o s t) (f : FRef) (i n : Nat) (hk : regKey 0 (f.page + i) f.off ≠ regKey 0 p o := by decide) :
    SameReg p o s (t.inc f i n) := h.fsi _ _ _ hk

theorem ite {c : Prop} [Decidable c] (h : SameReg p o s t) (k : SameReg p o s u) : SameReg p o s (if c then t else u) := by
  split <;> assumption

theorem foldl {α : Type} (l : List α) {f : State → α → State} (hf : ∀ u x, SameReg p o u (f u x)) (h : SameReg p o s t) :
    SameReg p o s (l.foldl f t) :=
  List.foldlRecOn (motive := SameReg p o s) l f h fun u hu x _ => hu.trans (hf u x)

/-- An event changes FLT_LAST alone. -/
theorem ev (h : SameReg p o s t) (q c d k n : Nat) (hk : regKey 0 pgFAULT FLT_LAST.off ≠ regKey 0 p o := by decide) :
    SameReg p o s (t.ev q c d k n) := by
  unfold State.ev State.evTo
  dsimp only
  split
  · exact ((h.fs FLT_LAST_CODE c hk).fs FLT_LAST_DETAIL d hk).of_regs rfl
  · exact h.of_regs rfl

/-- A fault changes the page's PG_FAULT beside what its event changes. -/
theorem fault (h : SameReg p o s t) (q i c d n : Nat) (hq : regKey 0 q 0x014 ≠ regKey 0 p o := by decide)
    (hk : regKey 0 pgFAULT FLT_LAST.off ≠ regKey 0 p o := by decide) : SameReg p o s (t.fault q i c d n) := by
  have hb := h.fs (hFAULT q) (Nat.lor (t.fg (hFAULT q)) (2 ^ i)) hq
  unfold State.fault
  exact .ite hb (hb.ev _ _ _ _ _ hk)

end SameReg

/-! ### The clock -/

theorem foldl_now {α : Type} (l : List α) {f : State → α → State} (hf : ∀ u x, (f u x).now = u.now) (s : State) :
    (l.foldl f s).now = s.now :=
  List.foldlRecOn (motive := fun t : State => t.now = s.now) l f rfl fun u hu x _ => (hf u x).trans hu

@[simp] theorem blendBegin_now (s : State) : s.blendBegin.now = s.now := by
  unfold blendBegin
  dsimp only
  split <;> rfl

@[simp] theorem blendStart_now (s : State) (fast : Bool) : (s.blendStart fast).now = s.now := by
  unfold blendStart
  simp

@[simp] theorem blendIdle_now (s : State) (fast : Bool) : (s.blendIdle fast).now = s.now := by
  unfold blendIdle
  split <;> simp

end State

end Sys2Proof.Machine

/-! PROOFS. A pattern engine ends its frame (R137, R138). -/

namespace Sys2Proof.Machine

theorem nth_modAt {α : Type} {l : List α} {i : Nat} (f : α → α) (d : α) (h : i < l.length) : nth (modAt l i f) i d = f (nth l i d) := by
  simp [nth, modAt_eq_modify, h]

namespace State

/-- What the program of engine `e` draws from where it stands. -/
def pattDraw (s : State) (e : Nat) (poison : List (Nat × Nat × Nat)) : Draw :=
  let p := s.patt e
  runFrame ((List.range 96).map (pinstr s.regs e p.bank)) s.wmap.w s.wmap.h (s.fgi PATT_FC_FC e) 97
    ⟨{ p with clips := if poison.isEmpty then p.clips else poisonClips p.clips poison },
      List.replicate (s.wmap.w * s.wmap.h) Px.zero, s.fgi PATT_STAT_PC e, false⟩

/-- The DCN for which engine `e`'s frame in progress is promised as it ends. -/
def pattDue (s : State) (e : Nat) : Nat := if (s.patt e).overrun then s.pattLateDcn e else (s.patt e).promised

/-- Engine `e` once the frame `d` has ended, for `dcn`. -/
def pattEnded (p : Patt) (d : Draw) (dcn : Nat) : Patt := { d.patt with
  clips := p.clips, rendering := false, halted := d.stop, k := p.k + 1, promised := dcn, newest := some (dcn, d.img) }

/-- The engine and its registers as the frame `d` ends, for `dcn`. -/
def pattShow (s : State) (e : Nat) (d : Draw) (dcn : Nat) : State :=
  let s := s.modPatt e fun _ => pattEnded (s.patt e) d dcn
  let s := (s.fsi PATT_STAT_PC e d.pc).fsi PATT_FC_FC e (add32 (s.fgi PATT_FC_FC e) 1)
  let s := (s.inc PATT_CNT_FRAMES e 1).fsi PATT_NEWDCN_DCN e dcn
  s.fsi PATT_STAT_STATE e (if d.stop ∨ s.fgi PATT_CFG_DIV e = 0 then 3 else 2)

/-- Window `w` learns of a frame of engine `e`. -/
def tellWindow (e dcn : Nat) (s : State) (w : Nat) : State :=
  let src := s.fgk WIN_SRC_ACT_KIND 0 w == 2 && s.fgk WIN_SRC_ACT_INDEX 0 w == e
  let ovl := s.fgk WIN_OVL_ACT_OKIND 0 w == 2 && s.fgk WIN_OVL_ACT_OINDEX 0 w == e
  if src || ovl then s.newFrame w dcn src ovl else s

/-- A frame that may end: the engine and its registers, then the windows. -/
theorem pattDone_eq {s : State} {e : Nat} (poison : List (Nat × Nat × Nat)) (hr : (s.patt e).rendering = true)
    (hh : s.halfServes (decide (8 ≤ e)) = true) : s.pattDone e poison =
      (List.range 16).foldl (tellWindow e (s.pattDue e)) (s.pattShow e (s.pattDraw e poison) (s.pattDue e)) := by
  unfold pattDone
  dsimp only
  rw [if_neg (by simp [hr, hh])]
  rfl

/-- Telling the windows changes the array's state alone. -/
theorem kept_tellWindows (s : State) (e dcn : Nat) : Kept (· = .pix) s ((List.range 16).foldl (tellWindow e dcn) s) :=
  .foldl _ (fun _ _ hu => .ite (kept_newFrame hu rfl) hu) (.refl s)

theorem regs_tellWindows (s : State) (e dcn : Nat) : ((List.range 16).foldl (tellWindow e dcn) s).regs = s.regs :=
  ((kept_tellWindows s e dcn).same .regs).resolve_right nofun

theorem patts_tellWindows (s : State) (e dcn : Nat) : ((List.range 16).foldl (tellWindow e dcn) s).patts = s.patts :=
  ((kept_tellWindows s e dcn).same .patts).resolve_right nofun

/-- An engine that renders is one of the list. -/
theorem lt_patts_of_rendering {s : State} {e : Nat} (hr : (s.patt e).rendering = true) : e < s.patts.length := by
  by_contra hn
  rw [patt, nth, List.getElem?_eq_none (Nat.le_of_not_lt hn)] at hr
  exact absurd hr (by decide)

/-- The engine after its frame has ended. -/
theorem pattDone_patt {s : State} {e : Nat} (poison : List (Nat × Nat × Nat)) (hr : (s.patt e).rendering = true)
    (hh : s.halfServes (decide (8 ≤ e)) = true) :
    (s.pattDone e poison).patt e = pattEnded (s.patt e) (s.pattDraw e poison) (s.pattDue e) := by
  rw [pattDone_eq poison hr hh, patt, patts_tellWindows]
  exact nth_modAt _ _ (lt_patts_of_rendering hr)

theorem pagesBut_pattShow (s : State) {e : Nat} (he : e < 16) (d : Draw) (dcn : Nat) : pagesBut [pgPATT + e] s (s.pattShow e d dcn) := by
  have hp : 0x42 + e < 256 := by omega
  have hm : 0x42 + e ∈ [pgPATT + e] := List.mem_singleton.mpr rfl
  exact ((((((pagesBut.refl _ s).modPatt _ _).fsi PATT_STAT_PC _ _ hp (by decide) hm).fsi PATT_FC_FC _ _ hp (by decide) hm).inc
    PATT_CNT_FRAMES _ _ hp (by decide) hm).fsi PATT_NEWDCN_DCN _ _ hp (by decide) hm).fsi PATT_STAT_STATE _ _ hp (by decide) hm

theorem pattShow_newdcn (s : State) (e : Nat) (d : Draw) (dcn : Nat) : (s.pattShow e d dcn).fgi PATT_NEWDCN_DCN e = dcn % 2 ^ 32 :=
  (rfgetB_rfputB_ne _ _ (by simp only [regKey, PATT_NEWDCN_DCN, PATT_STAT_STATE]; omega)).trans
    (fgi_fsi _ (by unfold FRef.fits; decide) _ _)

theorem pattDone_newdcn {s : State} {e : Nat} (poison : List (Nat × Nat × Nat)) (hr : (s.patt e).rendering = true)
    (hh : s.halfServes (decide (8 ≤ e)) = true) : (s.pattDone e poison).fgi PATT_NEWDCN_DCN e = s.pattDue e % 2 ^ 32 := by
  rw [pattDone_eq poison hr hh, fgi, regs_tellWindows]
  exact pattShow_newdcn _ _ _ _

theorem pagesBut_pattDone {s : State} {e : Nat} (he : e < 16) (poison : List (Nat × Nat × Nat)) (hr : (s.patt e).rendering = true)
    (hh : s.halfServes (decide (8 ≤ e)) = true) : pagesBut [pgPATT + e] s (s.pattDone e poison) := by
  rw [pattDone_eq poison hr hh]
  exact (pagesBut_pattShow s he _ _).of_eq (regs_tellWindows _ _ _)

/-- Without an overrun the frame ends for the DCN it was promised for. -/
theorem pattDue_of_intime {s : State} {e : Nat} (ho : (s.patt e).overrun = false) : s.pattDue e = (s.patt e).promised :=
  if_neg (Bool.eq_false_iff.mp ho)

end State

/-! PROOFS. The array's jobs: their start, what their end counts, and their plans (R18, R153 to R156). -/

namespace State

theorem regs_blendBegin (s : State) : s.blendBegin.regs = s.regs :=
  ((kept_blendBegin (K := (· = .blend)) (.refl s) rfl).same .regs).resolve_right nofun

theorem pix_blendBegin (s : State) : s.blendBegin.pix = s.pix :=
  ((kept_blendBegin (K := (· = .blend)) (.refl s) rfl).same .pix).resolve_right nofun

theorem blendBegin_outs (s : State) : s.blendBegin.outs = s.outs := by
  unfold blendBegin
  dsimp only
  split <;> rfl

/-- The first released job, with its units free: out of the released ones, and in flight. -/
theorem jobStart_eq {s : State} {r : Rel} (hn : s.nextRel = some r) (hw : s.winOn r.win = true) (hm : s.active pgWIRE = true)
    (ha : s.arrayServes = true) (hb : s.blendFirst = false) (hu : s.planUnits ≤ s.unitsFree.length) :
    s.jobStart = s.modPix fun p => { p with
      released := p.released.filter (· != r), serial := p.serial + 1,
      jobs := p.jobs ++ [⟨r.win, s.jobInput r, s.unitsFree.take s.planUnits, p.serial % 64, s.now, s.auditOld r, r.audit⟩] } := by
  unfold jobStart
  rw [hn]
  dsimp only
  rw [if_neg (by simp [hw, hm]), if_neg (by simp [ha, hb, hu])]
  rfl

/-! ### The engines in service -/

/-- Equal retired engines and half-arrays: equal engines in service. -/
theorem inService_congr {s t : State} (ha : t.fg PIX_RET_A = s.fg PIX_RET_A) (hb : t.fg PIX_RET_B = s.fg PIX_RET_B)
    (hx : t.fg PIX_HALF_A = s.fg PIX_HALF_A) (hy : t.fg PIX_HALF_B = s.fg PIX_HALF_B) : t.inService = s.inService := by
  simp only [inService, retired, halfServes, ha, hb, hx, hy]

theorem sliceEngines_congr {s t : State} (h : t.inService = s.inService) (n : Nat) (pick : List Nat) (audit : List (Nat × Nat)) :
    t.sliceEngines n pick audit = s.sliceEngines n pick audit := by
  simp only [sliceEngines, h]

theorem spotCheck_congr {s t : State} (h : t.inService = s.inService) (n j : Nat) (engines : List Nat) (l : List Spot) :
    t.spotCheck n j engines l = s.spotCheck n j engines l := by
  have hsecond : t.secondOf = s.secondOf := funext fun e => by simp only [secondOf, h]
  unfold spotCheck
  rw [hsecond, h]

/-! ### What the end of work counts -/

/-- Work of `n` lamps with serial `j`, begun at `t`, ends: its latency, and the spot checks it makes. -/
def workCounted (s : State) (t n j : Nat) : State := (s.jobLat t).inc PIX_SPOTCNT_CHECKS 0 (spotLamps n j)

/-- The counts alone change. -/
theorem regsBut_workCounted (s : State) (t n j : Nat) :
    regsBut [(pgPIX, PIX_JOBLAT.off), (pgPIX, PIX_SPOTCNT.off)] s (s.workCounted t n j) :=
  (((regsBut.refl _ s).fs PIX_JOBLAT_LAST _ (by decide) (by decide) (by decide)).fs PIX_JOBLAT_MAX _ (by decide) (by decide)
    (by decide)).inc PIX_SPOTCNT_CHECKS 0 _ (by decide) (by decide) (by decide)

theorem pagesBut_workCounted {l : List Nat} {s u : State} (h : pagesBut l s u) (t n j : Nat) (hm : pgPIX ∈ l) :
    pagesBut l s (u.workCounted t n j) :=
  ((h.fs PIX_JOBLAT_LAST _ (by decide) (by decide) hm).fs PIX_JOBLAT_MAX _ (by decide) (by decide) hm).inc
    PIX_SPOTCNT_CHECKS 0 _ (by decide) (by decide) hm

@[simp] theorem inService_workCounted (s : State) (t n j : Nat) : (s.workCounted t n j).inService = s.inService := by
  have h := regsBut_workCounted s t n j
  exact inService_congr (h.fg _ (by decide) (by decide) (by decide)) (h.fg _ (by decide) (by decide) (by decide))
    (h.fg _ (by decide) (by decide) (by decide)) (h.fg _ (by decide) (by decide) (by decide))

theorem satN_lt (w n : Nat) : satN w n < 2 ^ w := by
  have := Nat.two_pow_pos w
  unfold satN
  omega

/-- The latency shown: whole microseconds, saturated. -/
theorem workCounted_lat (s : State) (t n j : Nat) : (s.workCounted t n j).fg PIX_JOBLAT_LAST = satN 16 ((s.now - t) / Config.us) := by
  have hinc : ((s.jobLat t).inc PIX_SPOTCNT_CHECKS 0 (spotLamps n j)).fg PIX_JOBLAT_LAST = (s.jobLat t).fg PIX_JOBLAT_LAST :=
    ((SameReg.refl pgPIX PIX_JOBLAT.off (s.jobLat t)).inc PIX_SPOTCNT_CHECKS 0 _).fg (f := PIX_JOBLAT_LAST)
  rw [workCounted, hinc, jobLat, fg_fs_apart _ _ (by decide), fg_fs _ (by unfold FRef.fits; decide)]
  exact Nat.mod_eq_of_lt (satN_lt 16 _)

/-! ### The end of a job -/

/-- Job `j` leaves flight: its latency, its spot checks, and the double-bit errors it met. -/
def jobTaken (s : State) (k : Nat) (r : JobResult) (j : Job) : State :=
  r.dbe.foldl State.coefDbe
    ((s.modPix fun p => { p with jobs := p.jobs.eraseIdx k }).workCounted j.startAt j.inp.wire.lamps j.serial)

/-- One slice of the audit that a job decides (R218). -/
def auditSlice (r : JobResult) (s : State) (x : Nat × Nat) : State :=
  if r.auditDiff.contains x.1 then (s.retire x.2).fault pgRDBK 2 0x7813 x.2 x.2
  else (s.fs RB_CFG_AUDIT_EN 0).fault pgRDBK 2 0x7813 0x00FF 0xFF

/-- The slices that job `j` audits. -/
def auditOf (j : Job) : List (Nat × Nat) := (j.audit.map (·.slices)).getD []

/-- A job whose spot checks `spots` differ: discarded, and released again unless it was to be dropped. -/
def jobSpoiled (s : State) (j : Job) (spots : Nat × List Nat) : State :=
  let s := spots.2.foldl State.retire ((s.inc PIX_SPOTCNT_MISMATCH 0 spots.1).inc PIX_JOBCNT_DISCARDED 0 1)
  if j.drop then s else s.releaseFor j.win j.inp.srcNew j.inp.ovlNew

/-- A job that leaves no plan. -/
def jobDiscarded (s : State) : State := (s.inc PIX_JOBCNT_DISCARDED 0 1).feedTidyAll

/-- The plan of job `j` becomes its window's pending one. -/
def jobPlanned (s : State) (r : JobResult) (j : Job) (engines : List Nat) : State :=
  let pl : Plan := ⟨s.pix.plans, j.units, j.inp, j.inp.entries (r.dbe ++ r.poison), engines, r.dbe ++ r.poison⟩
  let s := s.modPix fun p => { p with plans := p.plans + 1, dir := modAt p.dir j.win fun d => { d with pend := some pl } }
  ((s.inc PIX_JOBCNT_DONE 0 1).deferHeld j.win).feedTidyAll

/-- A job to be kept, that may have missed its DCN. -/
def jobJudged (s : State) (r : JobResult) (j : Job) (engines : List Nat) : State :=
  let x := if s.missedNow j.win j.inp then s.missed j.inp else (s, false)
  if x.2 then x.1.jobDiscarded else x.1.jobPlanned r j engines

/-- The end of job `j`: spoiled, dropped, or kept. -/
theorem jobDone_eq {s : State} {k : Nat} {j : Job} (r : JobResult) (ha : s.arrayServes = true) (hj : s.pix.jobs[k]? = some j) :
    s.jobDone k r =
      let u := s.jobTaken k r j
      let engines := u.sliceEngines j.inp.wire.lamps r.engines (auditOf j)
      let spots := u.spotCheck j.inp.wire.lamps j.serial engines r.spots
      let v := (auditOf j).foldl (auditSlice r) u
      if spots.1 ≠ 0 then v.jobSpoiled j spots else if j.drop then v.jobDiscarded else v.jobJudged r j engines := by
  unfold jobDone
  rw [if_pos ha, hj]
  rfl

/-- Without double-bit errors and an audit, leaving flight is all that comes before the judgement of the spot checks, which sees the
engines in service before. -/
theorem jobDone_plain {s : State} {k : Nat} {j : Job} {r : JobResult} (ha : s.arrayServes = true) (hj : s.pix.jobs[k]? = some j)
    (hau : j.audit = none) (hd : r.dbe = [])
    (hs : (s.spotCheck j.inp.wire.lamps j.serial (s.sliceEngines j.inp.wire.lamps r.engines []) r.spots).1 = 0) :
    s.jobDone k r = if j.drop then (s.jobTaken k r j).jobDiscarded
      else (s.jobTaken k r j).jobJudged r j (s.sliceEngines j.inp.wire.lamps r.engines []) := by
  have hin : (s.jobTaken k r j).inService = s.inService := by
    rw [jobTaken, hd]
    exact inService_workCounted _ _ _ _
  have hau' : auditOf j = [] := by rw [auditOf, hau]; rfl
  rw [jobDone_eq r ha hj, hau']
  dsimp only
  rw [sliceEngines_congr hin, spotCheck_congr hin, if_neg (by simp [hs])]
  rfl

theorem pagesBut_jobTaken (s : State) (k : Nat) {r : JobResult} (j : Job) (hd : r.dbe = []) : pagesBut [pgPIX] s (s.jobTaken k r j) := by
  rw [jobTaken, hd]
  exact pagesBut_workCounted ((pagesBut.refl _ s).modPix _) _ _ _ (by decide)

theorem pix_jobTaken (s : State) (k : Nat) {r : JobResult} (j : Job) (hd : r.dbe = []) :
    (s.jobTaken k r j).pix = { s.pix with jobs := s.pix.jobs.eraseIdx k } := by
  rw [jobTaken, hd]
  rfl

theorem regs_feedTidyAll (s : State) : s.feedTidyAll.regs = s.regs :=
  ((kept_feedTidyAll (K := (· = .feeds)) (.refl s) rfl).same .regs).resolve_right nofun

theorem pix_feedTidyAll (s : State) : s.feedTidyAll.pix = s.pix :=
  ((kept_feedTidyAll (K := (· = .feeds)) (.refl s) rfl).same .pix).resolve_right nofun

theorem regs_deferHeld (s : State) (w : Nat) : (s.deferHeld w).regs = s.regs :=
  ((kept_deferHeld (K := (· = .pix)) (.refl s) rfl).same .regs).resolve_right nofun

theorem deferRel_work (s : State) (w : Nat) (src ovl : Bool) :
    (s.deferRel w src ovl).pix.jobs = s.pix.jobs ∧ (s.deferRel w src ovl).pix.plans = s.pix.plans := by
  unfold deferRel
  rw [modPix_pix]
  split <;> exact ⟨rfl, rfl⟩

/-- Deferring releases leaves the jobs in flight and the number of plans. -/
theorem deferHeld_work (s : State) (w : Nat) :
    (s.deferHeld w).pix.jobs = s.pix.jobs ∧ (s.deferHeld w).pix.plans = s.pix.plans := by
  unfold deferHeld
  refine List.foldlRecOn (motive := fun t : State => t.pix.jobs = s.pix.jobs ∧ t.pix.plans = s.pix.plans) _ _ ⟨rfl, rfl⟩
    fun t ht x _ => ?_
  obtain ⟨hjobs, hplans⟩ := deferRel_work (t.modPix fun p => { p with released := p.released.filter (· != x) }) w x.src x.ovl
  exact ⟨hjobs.trans ht.1, hplans.trans ht.2⟩

theorem pix_jobDiscarded (s : State) : s.jobDiscarded.pix = s.pix := (pix_feedTidyAll _).trans rfl

theorem pagesBut_jobDiscarded {s u : State} (h : pagesBut [pgPIX] s u) : pagesBut [pgPIX] s u.jobDiscarded :=
  (h.inc PIX_JOBCNT_DISCARDED 0 1 (by decide) (by decide) (by decide)).of_eq (regs_feedTidyAll _)

/-- The new plan is counted, and no other job leaves flight. -/
theorem jobPlanned_pix (s : State) (r : JobResult) (j : Job) (engines : List Nat) :
    (s.jobPlanned r j engines).pix.jobs = s.pix.jobs ∧ (s.jobPlanned r j engines).pix.plans = s.pix.plans + 1 := by
  unfold jobPlanned
  dsimp only
  rw [pix_feedTidyAll]
  exact deferHeld_work _ _

theorem pagesBut_jobPlanned {s u : State} (h : pagesBut [pgPIX] s u) (r : JobResult) (j : Job) (engines : List Nat) :
    pagesBut [pgPIX] s (u.jobPlanned r j engines) :=
  ((h.modPix _).inc PIX_JOBCNT_DONE 0 1 (by decide) (by decide) (by decide)).of_eq ((regs_feedTidyAll _).trans (regs_deferHeld _ _))

/-- A job in time leaves its plan. -/
theorem jobJudged_intime {s : State} {r : JobResult} {j : Job} {engines : List Nat} (h : s.missedNow j.win j.inp = false) :
    s.jobJudged r j engines = s.jobPlanned r j engines := by
  unfold jobJudged
  rw [h]
  rfl

/-- Whether a job has missed its DCN is a matter of the directory reads made. -/
theorem missedNow_congr {s t : State} (h : t.pix.readFor = s.pix.readFor) (w : Nat) (j : JobIn) : t.missedNow w j = s.missedNow w j := by
  unfold missedNow
  rw [h]

end State

/-- A job without double-bit errors ends, and the blend's slices may begin. -/
theorem execJobComplete_plain {s : State} {k : Nat} {r : JobResult} (hd : r.dbe = []) :
    exec (.jobComplete k r) s = .next (s.begin_.jobDone k r).blendBegin := by
  unfold exec execJobComplete
  dsimp only
  rw [if_pos (.inl (by rw [hd]; rfl))]

end Sys2Proof.Machine

/-! PROOFS. The blend (R161 to R165) and the temperature field (R158 to R160). -/

namespace Sys2Proof.Machine

namespace State

/-! ### The blend -/

/-- Equal registers of WIRE: equal wiring maps in force. -/
theorem wmap_congr {l : List Nat} {s t : State} (h : pagesBut l s t) (hm : pgWIRE ∉ l) : t.wmap = s.wmap := by
  have hget : ∀ {f : FRef} {k : Nat}, f.page = pgWIRE → f.off + k * f.stride < 4096 → rfget t.regs f 0 k = rfget s.regs f 0 k :=
    fun {f k} hp ho => h.fgk f 0 k (by rw [hp]; decide) ho (by rw [hp]; exact hm)
  have hgrid : wireMapR t.regs = wireMapR s.regs := by
    unfold wireMapR enabledR
    rw [hget (f := hENABLE pgWIRE) rfl (by decide), hget (f := WIRE_GRID_W) rfl (by decide), hget (f := WIRE_GRID_H) rfl (by decide)]
    congr 2
    refine List.filterMap_congr fun g hg => ?_
    have hg : g < 16 := List.mem_range.mp hg
    rw [hget (f := WIRE_RJ_EN) rfl (by simp only [WIRE_RJ_EN]; omega), hget (f := WIRE_RJ_JFIRST) rfl (by simp only [WIRE_RJ_JFIRST]; omega),
      hget (f := WIRE_RJ_JLAST) rfl (by simp only [WIRE_RJ_JLAST]; omega), hget (f := WIRE_RR_RFIRST) rfl (by simp only [WIRE_RR_RFIRST]; omega),
      hget (f := WIRE_RR_RLAST) rfl (by simp only [WIRE_RR_RLAST]; omega), hget (f := WIRE_RXY_X0) rfl (by simp only [WIRE_RXY_X0]; omega),
      hget (f := WIRE_RXY_Y0) rfl (by simp only [WIRE_RXY_Y0]; omega), hget (f := WIRE_RO_SWAP) rfl (by simp only [WIRE_RO_SWAP]; omega),
      hget (f := WIRE_RO_YNEG) rfl (by simp only [WIRE_RO_YNEG]; omega), hget (f := WIRE_RO_XNEG) rfl (by simp only [WIRE_RO_XNEG]; omega)]
  unfold wmap
  rw [h.active _ (by decide) hm, hgrid]

/-- The blend job ends: its latency and its spot checks. -/
def blendCounted (s : State) : State := s.workCounted s.blend.startAt s.wmap.lamps s.blend.serial

/-- The back copy is finished. -/
def blendWritten (s : State) (poison : List Nat) : State := s.modBlend fun b => { b with back := some (s.blendCopy poison) }

/-- The blend job's spot checks `r` differ: it runs again. -/
def blendSpoiled (s : State) (r : Nat × List Nat) : State :=
  let s := r.2.foldl State.retire (s.inc PIX_SPOTCNT_MISMATCH 0 r.1)
  (s.modBlend fun b => { b with startAt := s.now, serial := s.pix.serial % 64 }).modPix fun p => { p with serial := p.serial + 1 }

/-- A blend job that may end: run again, kept for the cycle boundary, or swapped at once. -/
theorem blendDone_eq {s : State} (pick : List Nat) (spots : List Spot) (poison : List Nat) (hb : s.blendState = 1)
    (ha : s.arrayServes = true) (hj : ∀ j ∈ s.pix.jobs, s.blend.swaps ≤ j.inp.copy) : s.blendDone pick spots poison =
      let u := s.blendCounted
      let r := u.spotCheck u.wmap.lamps u.blend.serial (u.sliceEngines u.wmap.lamps pick []) spots
      let v := u.blendWritten poison
      if r.1 ≠ 0 then u.blendSpoiled r
      else if v.scan.inCycle = true ∧ (!v.blend.fast) = true then v.fs CORR_STAT_BLEND 2 else v.blendSwap := by
  unfold blendDone
  rw [if_neg (by simpa [hb, ha] using hj)]
  rfl

theorem workCounted_blend (s : State) (t n j : Nat) : (s.workCounted t n j).blend = s.blend := by
  rw [workCounted, jobLat, inc_blend, fs_blend, fs_blend]

theorem workCounted_scan (s : State) (t n j : Nat) : (s.workCounted t n j).scan = s.scan := by
  rw [workCounted, jobLat, inc_scan, fs_scan, fs_scan]

/-- A finished back copy is all that the blend's state gains. -/
theorem blendWritten_blend (s : State) (poison : List Nat) :
    (s.blendCounted.blendWritten poison).blend = { s.blend with back := some (s.blendCounted.blendCopy poison) } := by
  rw [blendWritten, modBlend_blend, blendCounted, workCounted_blend]

theorem blendWritten_scan (s : State) (poison : List Nat) : (s.blendCounted.blendWritten poison).scan = s.scan := by
  rw [blendWritten, modBlend_scan, blendCounted, workCounted_scan]

theorem blendState_fs (s : State) (v : Nat) : (s.fs CORR_STAT_BLEND v).blendState = v % 8 := fg_fs _ (by unfold FRef.fits; decide) _

theorem wmap_workCounted (s : State) (t n j : Nat) : (s.workCounted t n j).wmap = s.wmap :=
  wmap_congr (pagesBut_workCounted (pagesBut.refl [pgPIX] s) t n j (by decide)) (by decide)

/-- Within a cycle a blend without a spot error is kept for the boundary. -/
theorem blendDone_kept {s : State} {pick : List Nat} {spots : List Spot} (poison : List Nat) (hb : s.blendState = 1)
    (ha : s.arrayServes = true) (hj : ∀ j ∈ s.pix.jobs, s.blend.swaps ≤ j.inp.copy) (hc : s.scan.inCycle = true)
    (hf : s.blend.fast = false)
    (hs : (s.spotCheck s.wmap.lamps s.blend.serial (s.sliceEngines s.wmap.lamps pick []) spots).1 = 0) :
    s.blendDone pick spots poison = (s.blendCounted.blendWritten poison).fs CORR_STAT_BLEND 2 := by
  have hin : s.blendCounted.inService = s.inService := inService_workCounted _ _ _ _
  have hw : s.blendCounted.wmap = s.wmap := wmap_workCounted _ _ _ _
  have hbl : s.blendCounted.blend = s.blend := workCounted_blend _ _ _ _
  rw [blendDone_eq _ _ _ hb ha hj]
  dsimp only
  rw [hw, hbl, sliceEngines_congr hin, spotCheck_congr hin, if_neg (by simp [hs]), blendWritten_blend, blendWritten_scan,
    if_pos (by simp [hc, hf])]

/-- A blend begins its slices without a change of its state. -/
theorem blendBegin_blend (s : State) : s.blendBegin.blend = { s.blend with begun := s.blendBegin.blend.begun } := by
  unfold blendBegin
  dsimp only
  split <;> rfl

theorem regs_blendStart (s : State) (fast : Bool) : (s.blendStart fast).regs = (s.fs CORR_STAT_BLEND 1).regs :=
  (regs_blendBegin _).trans rfl

/-- A blend that starts is BLENDING from now on, and writes the back copy. -/
theorem blendStart_state (s : State) (fast : Bool) : (s.blendStart fast).blendState = 1 ∧ (s.blendStart fast).blend.startAt = s.now ∧
    (s.blendStart fast).blend.rewriting = true := by
  refine ⟨?_, ?_, ?_⟩
  · rw [blendState, fg, regs_blendStart]
    exact blendState_fs s 1
  · rw [blendStart, blendBegin_blend]; rfl
  · rw [blendStart, blendBegin_blend]; rfl

theorem blendResume_eq {s : State} (hb : s.blendState = 3) (ho : s.bothServe = true) (hl : s.setsLoaded = true) :
    s.blendResume = s.blendStart s.blend.fast := if_pos ⟨hb, ho, hl⟩

/-! ### A refresh of the field -/

/-- Zone `z` reads `f z`. -/
def zonesPut (s : State) (f : Nat → Int) (n : Nat) : State := (List.range n).foldl (fun u z => u.fsk TF_Z_TEMP 0 z (twos 16 (f z))) s

/-- The zones of a refresh: from the valid sensors; with none enabled 25 °C. -/
def zonesSensed (s : State) : State :=
  if (List.range 48).any s.sensorValid then s.zonesPut s.zoneCalc 64
  else if (List.range 48).any s.sensorOn then s else s.zonesPut (fun _ => 400) 64

/-- The zones, and the fault of a field that has just lost its last valid sensor. -/
def zonesFaulted (s : State) : State :=
  if !(List.range 48).any s.sensorValid && (List.range 48).any s.sensorOn && !s.field.noField then
    s.zonesSensed.fault pgTFIELD 1 0x7514 0 0
  else s.zonesSensed

/-- The field's own state after a refresh: known or not, and the next refresh instant. -/
def fieldSet (s : State) (noField : Bool) (next : Nat) : State :=
  { s with field := { s.field with noField := noField, refreshAt := next } }

/-- The field's zones and own state after a refresh. -/
def fieldSensed (s : State) : State := s.zonesFaulted.fieldSet
  (!(List.range 48).any s.sensorValid && ((List.range 48).any s.sensorOn || s.zonesFaulted.field.noField))
  (s.field.refreshAt + s.fg TF_PERIOD_MS * Config.ms)

/-- TF_STAT, TF_RDCN and TF_ZMAX after a refresh. -/
def fieldShown (s : State) : State :=
  let s := (s.fs TF_STAT_REFRESH (s.fg TF_STAT_REFRESH + 1)).fs TF_RDCN_DCN s.dcn
  (s.fs TF_ZMAX_ZONE s.hottest).fs TF_ZMAX_TEMP (twos 16 (s.zoneT s.hottest))

/-- What a refresh releases (R161). -/
def fieldBlend (s : State) : State := match s.blendState with
  | 0 => if s.selection = s.selInForce then s.inc CORR_CNT_SKIPPED 0 1 else s.blendIdle false
  | 3 => s
  | _ => s.modBlend fun b => { b with fresh := true }

theorem refresh_eq (s : State) : s.refresh = s.fieldSensed.fieldShown.fieldBlend := by
  unfold refresh fieldSensed
  extract_lets valid enabled put s1 none_ s2 f s3 s4 hot s5
  have h2 : s2 = s.zonesFaulted := rfl
  have h3 : s3 = s2.fieldSet (!valid && (enabled || s2.field.noField)) (s.field.refreshAt + s.fg TF_PERIOD_MS * Config.ms) := rfl
  clear_value f s2 s3
  have h5 : s5 = s3.fieldShown := rfl
  clear_value s5
  rw [← h2, ← h3, ← h5]
  rfl

theorem zonesPut_succ (s : State) (f : Nat → Int) (n : Nat) :
    s.zonesPut f (n + 1) = (s.zonesPut f n).fsk TF_Z_TEMP 0 n (twos 16 (f n)) := by
  simp [zonesPut, List.range_succ]

theorem zonesPut_zone (s : State) (f : Nat → Int) {n z : Nat} (hz : z < n) :
    (s.zonesPut f n).fgk TF_Z_TEMP 0 z = twos 16 (f z) % 2 ^ 16 := by
  induction n with
  | zero => omega
  | succ n ih =>
    rw [zonesPut_succ]
    by_cases h : z = n
    · subst h
      exact fgk_fsk _ (by unfold FRef.fits; decide) _ _ _
    · rw [fgk_fsk_ne _ _ (by simp only [regKey, TF_Z_TEMP]; omega)]
      exact ih (by omega)

@[simp] theorem zonesPut_now (s : State) (f : Nat → Int) (n : Nat) : (s.zonesPut f n).now = s.now := by
  unfold zonesPut
  exact foldl_now _ (fun u z => fsk_now u TF_Z_TEMP 0 z _) s

@[simp] theorem zonesSensed_now (s : State) : s.zonesSensed.now = s.now := by
  unfold zonesSensed
  split
  · simp
  · split <;> simp

@[simp] theorem zonesFaulted_now (s : State) : s.zonesFaulted.now = s.now := by
  unfold zonesFaulted
  split <;> simp

theorem fieldSet_now (s : State) (b : Bool) (n : Nat) : (s.fieldSet b n).now = s.now := rfl

theorem fieldSet_fgk (s : State) (b : Bool) (n : Nat) (f : FRef) (i k : Nat) : (s.fieldSet b n).fgk f i k = s.fgk f i k := rfl

theorem fieldSet_noField (s : State) (b : Bool) (n : Nat) : (s.fieldSet b n).field.noField = b := rfl

theorem fieldSet_refreshAt (s : State) (b : Bool) (n : Nat) : (s.fieldSet b n).field.refreshAt = n := rfl

theorem zonesPut_field (s : State) (f : Nat → Int) (n : Nat) : (s.zonesPut f n).field = s.field :=
  List.foldlRecOn (motive := fun t : State => t.field = s.field) _ _ rfl fun _ ht _ _ => ht

/-- With no sensor enabled and none valid every zone reads 25 °C, and the field is no more or less known than before. -/
theorem fieldSensed_unsensed {s : State} (hon : ∀ k < 48, s.sensorOn k = false) (hv : ∀ k < 48, s.sensorValid k = false) :
    s.fieldSensed.field.noField = s.field.noField ∧ ∀ z < 64, s.fieldSensed.fgk TF_Z_TEMP 0 z = 400 := by
  have hva : (List.range 48).any s.sensorValid = false := by
    rw [List.any_eq_false]
    exact fun k hk => by simp [hv k (List.mem_range.mp hk)]
  have hona : (List.range 48).any s.sensorOn = false := by
    rw [List.any_eq_false]
    exact fun k hk => by simp [hon k (List.mem_range.mp hk)]
  have hput : s.zonesFaulted = s.zonesPut (fun _ => 400) 64 := by simp [zonesFaulted, zonesSensed, hva, hona]
  rw [fieldSensed, fieldSet_noField, hput, zonesPut_field, hva, hona]
  refine ⟨by simp, fun z hz => ?_⟩
  rw [fieldSet_fgk, zonesPut_zone _ _ hz]
  decide

theorem regsBut_fieldShown (s : State) :
    regsBut [(pgTFIELD, TF_STAT.off), (pgTFIELD, TF_RDCN.off), (pgTFIELD, TF_ZMAX.off)] s s.fieldShown :=
  ((((regsBut.refl _ s).fs TF_STAT_REFRESH _ (by decide) (by decide) (by decide)).fs TF_RDCN_DCN _ (by decide) (by decide) (by decide)).fs
    TF_ZMAX_ZONE _ (by decide) (by decide) (by decide)).fs TF_ZMAX_TEMP _ (by decide) (by decide) (by decide)

theorem fieldShown_zone (s : State) {z : Nat} (hz : z < 64) : s.fieldShown.fgk TF_Z_TEMP 0 z = s.fgk TF_Z_TEMP 0 z :=
  (regsBut_fieldShown s).fgk TF_Z_TEMP 0 z (by decide) (by simp only [TF_Z_TEMP]; omega)
    (by simp only [TF_Z_TEMP, List.mem_cons, Prod.mk.injEq, List.not_mem_nil, or_false, TF_STAT, TF_RDCN, TF_ZMAX]; omega)

theorem hottest_lt (s : State) : s.hottest < 64 := by
  refine List.foldlRecOn (motive := (· < 64)) _ _ (by decide) fun b hb z hz => ?_
  split
  · exact List.mem_range.mp hz
  · exact hb

/-- With every zone at `v` in two's complement, so is TF_ZMAX. -/
theorem fieldShown_zmax {s : State} {v : Nat} (hv : v < 2 ^ 16) (hz : ∀ z < 64, s.fgk TF_Z_TEMP 0 z = v) :
    s.fieldShown.fg TF_ZMAX_TEMP = v := by
  have hzone : ∀ u : State, u.fgk TF_Z_TEMP 0 u.hottest = v → twos 16 (u.zoneT u.hottest) % 2 ^ 16 = v := by
    intro u hu
    rw [zoneT, hu, twos, sgn]
    split <;> omega
  unfold fieldShown
  dsimp only
  rw [fg_fs _ (by unfold FRef.fits; decide)]
  refine hzone _ ((regsBut.fgk (l := [(pgTFIELD, TF_STAT.off), (pgTFIELD, TF_RDCN.off)]) (s := s)
    (((regsBut.refl _ s).fs TF_STAT_REFRESH _ (by decide) (by decide) (by decide)).fs TF_RDCN_DCN _ (by decide) (by decide) (by decide))
    TF_Z_TEMP 0 _ (by decide) ?_ ?_).trans (hz _ (hottest_lt _)))
  all_goals
    have := hottest_lt ((s.fs TF_STAT_REFRESH (s.fg TF_STAT_REFRESH + 1)).fs TF_RDCN_DCN s.dcn)
    simp only [TF_Z_TEMP, List.mem_cons, Prod.mk.injEq, List.not_mem_nil, or_false, TF_STAT, TF_RDCN]
    omega

@[simp] theorem fieldShown_now (s : State) : s.fieldShown.now = s.now := by
  unfold fieldShown
  rw [fs_now, fs_now, fs_now, fs_now]

@[simp] theorem fieldShown_field (s : State) : s.fieldShown.field = s.field := by
  unfold fieldShown
  rw [fs_field, fs_field, fs_field, fs_field]

@[simp] theorem fieldBlend_now (s : State) : s.fieldBlend.now = s.now := by
  unfold fieldBlend
  split
  · split <;> simp
  · rfl
  · rfl

@[simp] theorem fieldBlend_field (s : State) : s.fieldBlend.field = s.field := by
  have h : Kept (· ≠ .field) s s.fieldBlend := by
    unfold fieldBlend
    split
    · exact .ite ((Kept.refl s).inc _ _ _ nofun) (kept_blendIdle (.refl s) nofun nofun nofun nofun)
    · exact .refl s
    · exact kept_modBlend (.refl s) nofun
  exact h.part

theorem pagesBut_blendStart {s u : State} (h : pagesBut [pgCORR, pgFAULT] s u) (fast : Bool) :
    pagesBut [pgCORR, pgFAULT] s (u.blendStart fast) :=
  (h.fs CORR_STAT_BLEND 1 (by decide) (by decide) (by decide)).of_eq (regs_blendStart u fast)

theorem pagesBut_blendIdle {s u : State} (h : pagesBut [pgCORR, pgFAULT] s u) (fast : Bool) :
    pagesBut [pgCORR, pgFAULT] s (u.blendIdle fast) :=
  .ite (pagesBut_blendStart h fast) ((((h.inc CORR_CNT_DEFERRED 0 1 (by decide) (by decide) (by decide)).ev _ _ _ _ _ (by decide)).modBlend
    _).fs CORR_STAT_BLEND 3 (by decide) (by decide) (by decide))

theorem pagesBut_fieldBlend (s : State) : pagesBut [pgCORR, pgFAULT] s s.fieldBlend := by
  have h := pagesBut.refl [pgCORR, pgFAULT] s
  unfold fieldBlend
  split
  · exact .ite (h.inc CORR_CNT_SKIPPED 0 1 (by decide) (by decide) (by decide)) (pagesBut_blendIdle h false)
  · exact h
  · exact h.modBlend _

/-- A refresh takes no time, and the next one comes a period later. -/
theorem refresh_instants (s : State) :
    s.refresh.now = s.now ∧ s.refresh.field.refreshAt = s.field.refreshAt + s.fg TF_PERIOD_MS * Config.ms := by
  rw [refresh_eq, fieldBlend_now, fieldShown_now, fieldBlend_field, fieldShown_field, fieldSensed, fieldSet_now, zonesFaulted_now,
    fieldSet_refreshAt]
  exact ⟨rfl, rfl⟩

/-- A refresh with no sensor enabled: every zone and the hottest at 25 °C. -/
theorem refresh_unsensed {s : State} (hon : ∀ k < 48, s.sensorOn k = false) (hv : ∀ k < 48, s.sensorValid k = false) :
    s.refresh.field.noField = s.field.noField ∧ (∀ z < 64, s.refresh.fgk TF_Z_TEMP 0 z = 400) ∧ s.refresh.fg TF_ZMAX_TEMP = 400 := by
  obtain ⟨hfield, hzones⟩ := fieldSensed_unsensed hon hv
  have hframe := pagesBut_fieldBlend s.fieldSensed.fieldShown
  rw [refresh_eq, fieldBlend_field, fieldShown_field]
  refine ⟨hfield, fun z hz => ?_, ?_⟩
  · rw [hframe.fgk TF_Z_TEMP 0 z (by decide) (by simp only [TF_Z_TEMP]; omega) (by decide), fieldShown_zone _ hz]
    exact hzones z hz
  · rw [hframe.fg TF_ZMAX_TEMP (by decide) (by decide) (by decide)]
    exact fieldShown_zmax (by decide) hzones

end State

/-- A refresh whose instant may come is made at that instant. -/
theorem exec_fieldRefresh {s : State} (h : s.refreshDue = true) :
    exec .fieldRefresh s = .next (s.begin_.advance s.field.refreshAt).refresh := by
  unfold exec execFieldRefresh
  dsimp only
  rw [if_pos (by exact h)]
  rfl

/-- Settles O30: each command is one operation of the picture path, by the equation of its case. -/
theorem picturePipeline : Obligations.PicturePipeline := by
  refine ⟨?pattern, ?start, ?dropped, ?planned, ?blended, ?resumed, ?refreshed⟩
  case pattern =>
    intro s e hr hh ho
    have hdue := State.pattDue_of_intime (s := s.begin_) (e := e.val) ho
    refine ⟨_, rfl, ?_, ?_, ⟨(s.begin_.pattDraw e.val []).img, ?_⟩, ?_, State.pagesBut_pattDone (s := s.begin_) e.isLt [] hr hh⟩
    · rw [State.pattDone_patt (s := s.begin_) [] hr hh]; rfl
    · rw [State.pattDone_patt (s := s.begin_) [] hr hh]; rfl
    · rw [State.pattDone_patt (s := s.begin_) [] hr hh, hdue]; rfl
    · rw [State.pattDone_newdcn (s := s.begin_) [] hr hh, hdue]; rfl
  case start =>
    intro s r hn hw hm ha hb hu
    refine ⟨_, rfl, ?_⟩
    beta_reduce
    rw [State.jobStart_eq (s := s.begin_) hn hw hm ha hb hu, State.regs_blendBegin, State.blendBegin_now, State.blendBegin_outs,
      State.pix_blendBegin]
    exact ⟨rfl, rfl, rfl, rfl⟩
  case dropped =>
    intro s k r j ha hj hau hd hs hdrop
    refine ⟨_, execJobComplete_plain hd, ?_⟩
    beta_reduce
    rw [State.jobDone_plain (s := s.begin_) ha hj hau hd hs, if_pos hdrop, State.pix_blendBegin, State.pix_jobDiscarded,
      State.pix_jobTaken _ _ _ hd]
    exact ⟨rfl, rfl, rfl, (State.pagesBut_jobDiscarded (State.pagesBut_jobTaken s.begin_ k j hd)).of_eq (State.regs_blendBegin _)⟩
  case planned =>
    intro s k r j ha hj hau hd hs hdrop hmiss
    have htaken := State.pix_jobTaken s.begin_ k j hd
    have hmiss' : (s.begin_.jobTaken k r j).missedNow j.win j.inp = false :=
      (State.missedNow_congr (s := s) (by rw [htaken]; rfl) _ _).trans hmiss
    refine ⟨_, execJobComplete_plain hd, ?_⟩
    beta_reduce
    rw [State.jobDone_plain (s := s.begin_) ha hj hau hd hs, if_neg (by simp [hdrop]), State.jobJudged_intime hmiss',
      State.pix_blendBegin]
    obtain ⟨hjobs, hplans⟩ := State.jobPlanned_pix (s.begin_.jobTaken k r j) r j
      (s.begin_.sliceEngines j.inp.wire.lamps r.engines [])
    exact ⟨hjobs.trans (by rw [htaken]; rfl), hplans.trans (by rw [htaken]; rfl),
      (State.pagesBut_jobPlanned (State.pagesBut_jobTaken s.begin_ k j hd) r j _).of_eq (State.regs_blendBegin _)⟩
  case blended =>
    intro s engines poison spots hb ha hs hj hc hf
    refine ⟨_, rfl, ?_⟩
    beta_reduce
    rw [State.blendDone_kept (s := s.begin_) poison hb ha hj hc hf hs]
    have hblend := s.begin_.blendWritten_blend poison
    exact ⟨State.blendState_fs _ 2, by rw [State.fs_blend, hblend]; rfl, by rw [State.fs_blend, hblend]; rfl,
      ((State.pagesBut_workCounted (State.pagesBut.refl _ _) _ _ _ (by decide)).modBlend _).fs CORR_STAT_BLEND 2 (by decide)
        (by decide) (by decide)⟩
  case resumed =>
    intro s hb ho hl
    obtain ⟨hstate, hstart, hrewriting⟩ := s.begin_.blendStart_state s.begin_.blend.fast
    refine ⟨_, rfl, ?_⟩
    beta_reduce
    rw [State.blendResume_eq (s := s.begin_) hb ho hl]
    exact ⟨hstate, hstart, hrewriting, State.blendStart_now _ _,
      ((State.regsBut.refl _ _).fs CORR_STAT_BLEND 1 (by decide) (by decide) (by decide)).of_eq (State.regs_blendStart _ _)⟩
  case refreshed =>
    intro s hdue hon hv
    obtain ⟨hnow, hnext⟩ := (s.begin_.advance s.field.refreshAt).refresh_instants
    obtain ⟨hfield, hzones, hmax⟩ := State.refresh_unsensed (s := s.begin_.advance s.field.refreshAt) hon hv
    exact ⟨_, exec_fieldRefresh hdue, hnow, hfield, hnext, hzones, hmax⟩

end Sys2Proof.Machine

/-! PROOFS. The latency that the end of a job or of a blend leaves in PIX_JOBLAT (R154). -/

namespace Sys2Proof.Machine

namespace State

/-- From `s` to `t` PIX_JOBLAT reads the same. -/
abbrev SameLat (s t : State) : Prop := SameReg pgPIX PIX_JOBLAT.off s t

namespace SameLat

variable {s t : State}

theorem retire (h : SameLat s t) (e : Nat) : SameLat s (t.retire e) := by
  have hret : SameLat s (if e < 32 then t.fs PIX_RET_A (Nat.lor (t.fg PIX_RET_A) (2 ^ e))
      else t.fs PIX_RET_B (Nat.lor (t.fg PIX_RET_B) (2 ^ (e - 32)))) := .ite (SameReg.fs h _ _) (SameReg.fs h _ _)
  unfold State.retire
  exact .ite h (.ite ((hret.fault _ _ _ _ _).fault _ _ _ _ _) (hret.fault _ _ _ _ _))

theorem blendStart (h : SameLat s t) (fast : Bool) : SameLat s (t.blendStart fast) :=
  (SameReg.fs h CORR_STAT_BLEND 1).of_regs (regs_blendStart t fast)

theorem blendIdle (h : SameLat s t) (fast : Bool) : SameLat s (t.blendIdle fast) := by
  have hdef := (SameReg.inc h CORR_CNT_DEFERRED 0 1).ev pgCORR 0x0511 0 kInfo 0
  unfold State.blendIdle
  exact .ite (blendStart h fast) ((hdef.of_regs rfl).fs _ _)

theorem blendDbe (h : SameLat s t) : SameLat s t.blendDbe := .ite (blendIdle h false) h

/-- The zones' selection shown is not PIX's register of the latency. -/
theorem zonesShown (sel : List (Nat × Nat)) (u : State) (z : Nat) :
    SameLat u ((u.fsk CORR_ZB_SET 0 z (nth sel z (0, 0)).1).fsk CORR_ZB_F 0 z (nth sel z (0, 0)).2) :=
  ((SameReg.refl _ _ u).fsk CORR_ZB_SET 0 z _ (by simp only [regKey, CORR_ZB_SET, pgPIX, PIX_JOBLAT]; omega)).fsk CORR_ZB_F 0 z _
    (by simp only [regKey, CORR_ZB_F, pgPIX, PIX_JOBLAT]; omega)

/-- The swap shown: the copy in force, its DCN, the count and the event. -/
theorem swapShown (h : SameLat s t) (c d : Nat) :
    SameLat s (((((t.fs CORR_STAT_COPY c).fs CORR_STAT_BLEND 0).fs CORR_SWDCN_DCN d).inc CORR_CNT_BLENDS 0 1).ev pgCORR 0x0510 c kInfo 0) :=
  ((((h.fs _ _).fs _ _).fs _ _).inc _ _ _).ev _ _ _ _ _

theorem blendSwap (h : SameLat s t) : SameLat s t.blendSwap := by
  unfold State.blendSwap
  split
  · exact h
  · extract_lets sel fresh u v c w x
    have hv : SameLat s v := .foldl _ (zonesShown sel) (h.of_regs rfl)
    have hx : SameLat s x := (swapShown hv c _).of_kept (kept_releaseAll (.refl _) nofun)
    exact .ite (blendIdle hx false) hx

/-- A missed plan is counted on its feed's page, which is not PIX's register of the latency. -/
theorem missed (h : SameLat s t) (j : JobIn) : SameLat s (t.missed j).1 := by
  unfold State.missed
  split
  · exact SameReg.inc h _ _ _ (by simp only [regKey, FEED_CNT2_MISSED, pgPIX, PIX_JOBLAT]; omega)
  · exact h

theorem feedTidyAll (h : SameLat s t) : SameLat s t.feedTidyAll := SameReg.of_regs h (regs_feedTidyAll t)

theorem jobDiscarded (h : SameLat s t) : SameLat s t.jobDiscarded := feedTidyAll (SameReg.inc h PIX_JOBCNT_DISCARDED 0 1)

theorem jobPlanned (h : SameLat s t) (r : JobResult) (j : Job) (engines : List Nat) : SameLat s (t.jobPlanned r j engines) :=
  feedTidyAll (((h.of_regs rfl).inc PIX_JOBCNT_DONE 0 1).of_regs (regs_deferHeld _ _))

theorem jobJudged (h : SameLat s t) (r : JobResult) (j : Job) (engines : List Nat) : SameLat s (t.jobJudged r j engines) := by
  have hx : SameLat s (if t.missedNow j.win j.inp then t.missed j.inp else (t, false)).1 := by
    split
    · exact missed h _
    · exact h
  exact .ite (jobDiscarded hx) (jobPlanned hx r j engines)

theorem jobSpoiled (h : SameLat s t) (j : Job) (spots : Nat × List Nat) : SameLat s (t.jobSpoiled j spots) := by
  have hret := SameReg.foldl spots.2 (fun u e => retire (SameReg.refl _ _ u) e)
    ((SameReg.inc h PIX_SPOTCNT_MISMATCH 0 spots.1).inc PIX_JOBCNT_DISCARDED 0 1)
  exact .ite hret (hret.of_kept (kept_releaseFor (.refl _) nofun))

theorem auditSlice (r : JobResult) (u : State) (x : Nat × Nat) : SameLat u (State.auditSlice r u x) :=
  .ite (SameReg.fault (retire (.refl _ _ _) _) _ _ _ _ _) (((SameReg.refl _ _ u).fs _ _).fault _ _ _ _ _)

/-- What follows a job's counts leaves its latency. -/
theorem jobTaken (s : State) (k : Nat) (r : JobResult) (j : Job) :
    SameLat ((s.modPix fun p => { p with jobs := p.jobs.eraseIdx k }).workCounted j.startAt j.inp.wire.lamps j.serial)
      (s.jobTaken k r j) :=
  .foldl _ (fun u l => ((SameReg.refl _ _ u).fs CORR_DBE_LAMP l).fault _ _ _ _ _) (.refl _ _ _)

theorem jobDone {k : Nat} {j : Job} (r : JobResult) (ha : s.arrayServes = true) (hj : s.pix.jobs[k]? = some j) :
    SameLat (s.jobTaken k r j) (s.jobDone k r) := by
  rw [jobDone_eq r ha hj]
  have haud := SameReg.foldl (auditOf j) (fun u x => auditSlice r u x) (.refl pgPIX PIX_JOBLAT.off (s.jobTaken k r j))
  exact .ite (jobSpoiled haud _ _) (.ite (jobDiscarded haud) (jobJudged haud _ _ _))

theorem blendSpoiled (h : SameLat s t) (r : Nat × List Nat) : SameLat s (t.blendSpoiled r) :=
  (SameReg.foldl r.2 (fun u e => retire (SameReg.refl _ _ u) e) (SameReg.inc h PIX_SPOTCNT_MISMATCH 0 r.1)).of_regs rfl

theorem blendDone (pick : List Nat) (spots : List Spot) (poison : List Nat) (hb : s.blendState = 1) (ha : s.arrayServes = true)
    (hj : ∀ j ∈ s.pix.jobs, s.blend.swaps ≤ j.inp.copy) : SameLat s.blendCounted (s.blendDone pick spots poison) := by
  rw [blendDone_eq _ _ _ hb ha hj]
  have hw : SameLat s.blendCounted (s.blendCounted.blendWritten poison) := SameReg.of_regs (.refl _ _ _) rfl
  exact .ite (blendSpoiled (.refl _ _ _) _) (.ite (hw.fs _ _) (blendSwap hw))

end SameLat

/-- The latency of a job that ends, whatever its outcome. -/
theorem jobDone_lat {s : State} {k : Nat} {j : Job} (r : JobResult) (ha : s.arrayServes = true) (hj : s.pix.jobs[k]? = some j) :
    (s.jobDone k r).fg PIX_JOBLAT_LAST = satN 16 ((s.now - j.startAt) / Config.us) :=
  (((SameLat.jobTaken s k r j).trans (SameLat.jobDone r ha hj)).fg (f := PIX_JOBLAT_LAST)).trans (workCounted_lat _ _ _ _)

/-- The latency of a blend job that ends, whatever its outcome. -/
theorem blendDone_lat {s : State} (pick : List Nat) (spots : List Spot) (poison : List Nat) (hb : s.blendState = 1)
    (ha : s.arrayServes = true) (hj : ∀ j ∈ s.pix.jobs, s.blend.swaps ≤ j.inp.copy) :
    (s.blendDone pick spots poison).fg PIX_JOBLAT_LAST = satN 16 ((s.now - s.blend.startAt) / Config.us) :=
  ((SameLat.blendDone pick spots poison hb ha hj).fg (f := PIX_JOBLAT_LAST)).trans (workCounted_lat _ _ _ _)

end State

/-- A job's end as a command: the blend that it may release leaves the latency. -/
theorem exec_jobComplete_lat {s : State} {k : Nat} {j : Job} (r : JobResult) (ha : s.arrayServes = true)
    (hj : s.pix.jobs[k]? = some j) :
    Runs (.jobComplete k r) s fun t => t.fg PIX_JOBLAT_LAST = satN 16 ((s.now - j.startAt) / Config.us) := by
  have hd : State.SameLat (s.begin_.jobDone k r) (s.begin_.jobDone k r) := .refl _ _ _
  refine ⟨_, rfl, ?_⟩
  beta_reduce
  exact (State.SameReg.fg (f := PIX_JOBLAT_LAST) (.of_regs (.ite hd hd.blendDbe) (State.regs_blendBegin _))).trans
    (State.jobDone_lat (s := s.begin_) r ha hj)

end Sys2Proof.Machine

/-! PROOFS. Accepted writes of plain registers (R32, R33): the register's row, what it then holds, and what else changes. -/

namespace Sys2Proof.Machine

/-- The register of an accepted write to a named place is that place's row of the register map. -/
theorem accepted_row {s s1 : State} {a : Access} {data p o p' o' : Nat} {w : Who} {g r : Reg} (hr : anyRegAt p' o' = some r)
    (ha : accepted s a (regAddr p' o') data = some (s1, w, p, o, g)) (hp : p' < 256 := by decide) (ho : o' < 4096 := by decide) :
    p = p' ∧ o = o' ∧ g = r := by
  obtain ⟨rfl, rfl⟩ := accepted_reg hp ho ha
  exact ⟨rfl, rfl, Option.some.inj ((accepted_addr ha).2.symm.trans hr)⟩

/-! ### The stored word -/

/-- A register of one bank holds what its fields take of the word written. -/
theorem storeReg_reg (s : State) (w : Who) {p o : Nat} {g : Reg} (d : Nat) (hg : anyRegAt p o = some g) (hb : g.banked = false)
    (hp : p ≠ pgPAL) : (storeReg s w p o g d).reg p o = mergeFlds g.flds (s.reg p o) d (2 ^ 32 - 1) % 2 ^ 32 := by
  have hbank : bankOfReg s.regs w p o = 0 := by simp [bankOfReg, hp, hg, hb]
  unfold storeReg
  rw [hbank]
  exact rget_rput _ _ _ _ _

/-- A word written to a whole register of bits that clear when written 1. -/
theorem mergeFlds_w1c {old v : Nat} (ho : old < 2 ^ 32) (hv : v < 2 ^ 32) :
    mergeFlds [⟨31, 0, .w1c, .plain, []⟩] old v (2 ^ 32 - 1) % 2 ^ 32 = old - Nat.land old v := by
  have hmask : Nat.land v (Nat.land (Fld.mask ⟨31, 0, .w1c, .plain, []⟩) (2 ^ 32 - 1)) = v :=
    (Nat.and_two_pow_sub_one_eq_mod v 32).trans (Nat.mod_eq_of_lt hv)
  simp only [mergeFlds, List.foldl_cons, List.foldl_nil, hmask]
  omega

/-- A word written to a field of bits `n - 1` to 0 is read back from them. -/
theorem bitsOf_mergeFlds_rw {n : Nat} (old d : Nat) (h0 : 0 < n) (hn : n ≤ 32) :
    bitsOf (mergeFlds [⟨n - 1, 0, .rw, .plain, []⟩] old d (2 ^ 32 - 1) % 2 ^ 32) (n - 1) 0 = d % 2 ^ n := by
  have hm : Nat.land (Fld.mask ⟨n - 1, 0, .rw, .plain, []⟩) (2 ^ 32 - 1) = 2 ^ n - 1 :=
    (Fld.mask_whole (show n - 1 < 32 by omega)).trans (by simp [Fld.mask, Nat.sub_add_cancel h0])
  have hland : ∀ x, Nat.land x (2 ^ n - 1) = x % 2 ^ n := fun x => Nat.and_two_pow_sub_one_eq_mod x n
  have hold : (old - old % 2 ^ n) % 2 ^ n = 0 := Nat.sub_mod_eq_zero_of_mod_eq (Nat.mod_mod _ _).symm
  simp only [mergeFlds, List.foldl_cons, List.foldl_nil, hm, hland]
  rw [bitsOf_def, pow_zero, Nat.div_one, Nat.sub_zero, Nat.sub_add_cancel h0, Nat.mod_mod_of_dvd _ (Nat.pow_dvd_pow 2 hn)]
  exact (Nat.or_mod_two_pow (n := n)).trans (by rw [hold, Nat.mod_mod, Nat.zero_or])

/-- A banked register outside the headers whose one field `f` is its bits `n - 1` to 0. -/
structure OneField (f : FRef) (n : Nat) : Prop where
  row : ∃ g, anyRegAt f.page f.off = some g ∧ g.banked = true ∧ g.flds = [⟨n - 1, 0, .rw, .plain, []⟩]
  bits : f.hi = n - 1 ∧ f.lo = 0
  width : 0 < n ∧ n ≤ 32
  page : f.page < 256 ∧ f.page ≠ pgPAL
  off : 0x040 ≤ f.off ∧ f.off < 4096

theorem wireQsel_oneField : OneField WIRE_QSEL_LAMP 18 := ⟨⟨_, rfl, rfl, rfl⟩, by decide, by decide, by decide, by decide⟩
theorem healthQsel_oneField : OneField HEALTH_QSEL_LAMP 18 := ⟨⟨_, rfl, rfl, rfl⟩, by decide, by decide, by decide, by decide⟩
theorem healthLsel_oneField : OneField HEALTH_LSEL_INDEX 10 := ⟨⟨_, rfl, rfl, rfl⟩, by decide, by decide, by decide, by decide⟩

/-- The one field of a banked register reads back what was written. -/
theorem storeReg_fgb (s : State) (w : Who) {f : FRef} {n : Nat} {g : Reg} (d : Nat) (h : OneField f n)
    (hg : anyRegAt f.page f.off = some g) : (storeReg s w f.page f.off g d).fgb w.bank f = d % 2 ^ n := by
  obtain ⟨⟨r, hr, hb, hf⟩, ⟨hhi, hlo⟩, ⟨h0, hn⟩, ⟨-, hpal⟩, -⟩ := h
  obtain rfl : r = g := Option.some.inj (hr.symm.trans hg)
  have hbank : bankOfReg s.regs w f.page f.off = w.bank := by simp [bankOfReg, hpal, hr, hb]
  unfold storeReg
  rw [hbank, State.fgb, rfgetB, hhi, hlo, hf]
  simp only [Nat.add_zero, Nat.zero_mul]
  rw [rget_rput]
  exact bitsOf_mergeFlds_rw _ _ h0 hn

/-! ### The answer -/

/-- A register that is no generation reads the same after the answer. -/
theorem State.done_rget (u : State) (b : Nat) {p o : Nat} (hp : p < 256) (ho : o < 4096) (hm : o ≠ 0x024) :
    rget ((u.bumpGen p).emit (.res ⟨0, 0⟩ [])).regs b p o = rget u.regs b p o :=
  (State.regsBut.refl [(p, 0x024)] u).done hp (List.mem_singleton.mpr rfl) b p o hp ho (by simpa using hm)

/-- A command that writes such a register with the default handler. -/
theorem runs_query {i : Instr} {s s1 : State} {a : Access} {d p o : Nat} {w : Who} {g : Reg} {f : FRef} {n : Nat} (h : OneField f n)
    (e : exec i s = .next (direct s.begin_ a (regAddr f.page f.off) (d % 2 ^ n) hStore))
    (ha : accepted s.begin_ a (regAddr f.page f.off) (d % 2 ^ n) = some (s1, w, p, o, g)) :
    Runs i s fun t => t.fgb w.bank f = d % 2 ^ n ∧ t.outs = doneOuts := by
  obtain ⟨rfl, rfl⟩ := accepted_reg h.page.1 h.off.2 ha
  refine Runs.direct e ha rfl ⟨?_, done_outs ha rfl⟩
  rw [State.done_fgb _ _ _ _ h.page.1 h.page.1 h.off.2 h.off.1, storeReg_fgb _ _ _ h (accepted_addr ha).2, Nat.mod_mod]

/-! ### Plain registers -/

/-- A register outside the pages with refusals of their own, with banks and with wide values: its fields change, and its effect
follows. -/
theorem hPlain_eq {s : State} {w : Who} {p o : Nat} {d : Nat} (path : Path) (g : Reg) (hp : p ∈ [pgPIX, pgTFIELD, pgEDGE])
    (hv : s.overrideFail w p o d = none) : hPlain path s w p o g d =
      .ok (State.effect s (storeReg s w p o g d) w.bank (rfgetB s.regs w.bank PAL_SEL_FEED 0 0) p o d (2 ^ 32 - 1) false) := by
  have hpage : p = 0x52 ∨ p = 0x54 ∨ p = 0x61 := by simpa [pgPIX, pgTFIELD, pgEDGE] using hp
  have hwide : ∀ x, wideLast p x = none := fun x => by
    unfold wideLast
    rw [if_neg, if_neg, if_neg] <;> simp only [pgCHAIN, pgPTP, pgFIRKIN] <;> omega
  have hloop : s.lpbkFail w p o d = none := if_neg (by simp only [pgLNK, pgCHAIN]; omega)
  have hbank : bankOfEntry p o = none := by
    unfold bankOfEntry
    rw [if_neg (by omega), if_neg (by simp only [pgPATT]; omega)]
  have hstore : s.plainWrite path w p o g d = storeReg s w p o g d := by
    simp only [State.plainWrite, hwide, reduceCtorEq, ↓reduceIte]
  unfold hPlain
  rw [hloop, hv, bankFail, hbank, ite_self, hstore]
  rfl

theorem overrideFail_elsewhere (s : State) (w : Who) {p : Nat} (o d : Nat) (hp : p ≠ pgEDGE) : s.overrideFail w p o d = none :=
  if_neg fun h => hp h.1

/-- Of the array's page only PIX_DITH does more than store. -/
theorem effect_pix (old s : State) (bank feed : Nat) {o : Nat} (d mask : Nat) (fk : Bool) (ho : 0x040 ≤ o) (hd : o ≠ PIX_DITH.off) :
    State.effect old s bank feed pgPIX o d mask fk = s := by
  unfold State.effect
  rw [if_neg (by omega), if_neg (by omega)]
  simp [pgPIX, pgSYS, pgLNK, pgCHAIN, pgPWRDOM, pgTIME, pgWIN, pgPAL, pgCORR, pgTFIELD, pgDIM, pgSCAN, pgSENSE, pgSUPPLY,
    pgPHASE, hd]

/-- The registers of EDGE only store. -/
theorem effect_edge (old s : State) (bank feed : Nat) {o : Nat} (d mask : Nat) (fk : Bool) (ho : 0x040 ≤ o) :
    State.effect old s bank feed pgEDGE o d mask fk = s := by
  unfold State.effect
  rw [if_neg (by omega), if_neg (by omega)]
  simp [pgEDGE, pgPIX, pgSYS, pgLNK, pgCHAIN, pgPWRDOM, pgTIME, pgWIN, pgPAL, pgCORR, pgTFIELD, pgDIM, pgSCAN, pgSENSE,
    pgSUPPLY, pgPHASE]

/-- TF_SFAIL returns sensors to service. -/
theorem effect_sfail (old s : State) (bank feed : Nat) {o : Nat} (d mask : Nat) (fk : Bool) (ho : o = TF_SFAIL0.off ∨ o = TF_SFAIL1.off) :
    State.effect old s bank feed pgTFIELD o d mask fk = s.sfailEffect o d mask := by
  have hlt : 0x040 ≤ o := by rcases ho with rfl | rfl <;> decide
  unfold State.effect
  rw [if_neg (by omega), if_neg (by omega)]
  simp [pgPIX, pgSYS, pgLNK, pgCHAIN, pgPWRDOM, pgTIME, pgWIN, pgPAL, pgCORR, pgTFIELD, ho]

/-- An accepted write to a plain register of the array, of the temperature field or of EDGE. -/
theorem runs_plain {i : Instr} {s s1 : State} {a : Access} {addr d p o : Nat} {w : Who} {g : Reg} {P : State → Prop}
    (e : exec i s = .next (direct s.begin_ a addr d (hPlain a.path))) (ha : accepted s.begin_ a addr d = some (s1, w, p, o, g))
    (hp : p ∈ [pgPIX, pgTFIELD, pgEDGE]) (hv : s1.overrideFail w p o d = none)
    (hP : P (((State.effect s1 (storeReg s1 w p o g d) w.bank (rfgetB s1.regs w.bank PAL_SEL_FEED 0 0) p o d (2 ^ 32 - 1) false).bumpGen
      p).emit (.res ⟨0, 0⟩ []))) : Runs i s P :=
  Runs.direct e ha (hPlain_eq a.path g hp hv) hP

/-! ### Sensors that return to service -/

namespace State

/-- Sensor `i` of the half from `base` returns to service when its bit is written 1. -/
def sfailOne (base data : Nat) (s : State) (i : Nat) : State :=
  if bit data i && decide (base + i < 48) then s.fsk TF_SRD_SUSP 0 (base + i) 0 else s

/-- A suspect count that is 0 stays 0, whichever sensor returns. -/
theorem sfailOne_zero {s : State} {k : Nat} (base data i : Nat) (h : s.fgk TF_SRD_SUSP 0 k = 0) :
    (sfailOne base data s i).fgk TF_SRD_SUSP 0 k = 0 := by
  unfold sfailOne
  split
  · by_cases hk : k = base + i
    · rw [hk]
      exact fgk_fsk _ (by unfold FRef.fits; decide) _ _ _
    · rw [fgk_fsk_ne _ _ (by simp only [regKey, TF_SRD_SUSP]; omega)]
      exact h
  · exact h

/-- The suspect count of a sensor written back to service. -/
theorem sfailOnes_susp (base data : Nat) {n i : Nat} (s : State) (hi : i < n) (hb : bit data i = true) (hk : base + i < 48) :
    ((List.range n).foldl (sfailOne base data) s).fgk TF_SRD_SUSP 0 (base + i) = 0 := by
  induction n with
  | zero => omega
  | succ n ih =>
    rw [List.range_succ, List.foldl_append]
    by_cases h : i = n
    · subst h
      simp only [List.foldl_cons, List.foldl_nil, sfailOne, hb, hk, decide_true, Bool.and_self, ↓reduceIte]
      exact fgk_fsk _ (by unfold FRef.fits; decide) _ _ _
    · exact sfailOne_zero _ _ _ (ih (by omega))

theorem sfailEffect_eq (s : State) {o d : Nat} (hd : d < 2 ^ 32) :
    s.sfailEffect o d (2 ^ 32 - 1) = (List.range 32).foldl (sfailOne (if o = TF_SFAIL1.off then 32 else 0) d) s := by
  have hmask : Nat.land d (2 ^ 32 - 1) = d := (Nat.and_two_pow_sub_one_eq_mod d 32).trans (Nat.mod_eq_of_lt hd)
  unfold sfailEffect
  rw [hmask]
  rfl

theorem sfailOne_outs (base data : Nat) (s : State) (i : Nat) : (sfailOne base data s i).outs = s.outs := by
  unfold sfailOne
  split
  · exact fsk_outs s TF_SRD_SUSP 0 (base + i) 0
  · exact rfl

theorem sfailOnes_outs (base data n : Nat) (s : State) : ((List.range n).foldl (sfailOne base data) s).outs = s.outs :=
  List.foldlRecOn (motive := fun t : State => t.outs = s.outs) _ _ rfl fun _ ht _ _ => (sfailOne_outs _ _ _ _).trans ht

end State

end Sys2Proof.Machine

/-! PROOFS. The commands of the picture path and of lamp health that come as one accepted write (R119, R156, R159, R185, R206, R212,
R217, R222). -/

namespace Sys2Proof.Machine

namespace State

/-- The report of an admission check names what asked for it. -/
theorem admReport_kind (s : State) (res : Option Rc × AdmFig) (kind page handle : Nat) :
    (s.admReport res kind page handle).fg ADM_SRC_KIND = kind % 4 := by
  unfold admReport
  extract_lets c f u v w x y z
  have hkind : v.fg ADM_SRC_KIND = kind % 4 :=
    (fg_fs_apart _ _ (by decide)).trans ((fg_fs_apart _ _ (by decide)).trans (fg_fs _ (by unfold FRef.fits; decide) _))
  have hw : SameReg pgADMIT ADM_SRC.off v w := (((SameReg.refl _ _ v).fs ADM_AK_PXS _).fs ADM_AKPCT_HALF _).fs ADM_AKPCT_FULL _
  have hx : SameReg pgADMIT ADM_SRC.off v x := ((hw.fs ADM_LINK_L0 _).fs ADM_LINK_L1 _).fs ADM_DRAM_PERMIL _
  have hy : SameReg pgADMIT ADM_SRC.off v y := ((hx.fs ADM_DRAM_MBPS _).fs ADM_PLAN_UNITS _).fs ADM_RAIL_A _
  have hz : SameReg pgADMIT ADM_SRC.off v z := ((hy.fs ADM_RAIL_B _).fs ADM_SINK_TJ _).fs ADM_SINK_MW _
  exact (SameReg.fg (f := ADM_SRC_KIND) (.ite (hz.inc ADM_COUNT_REFUSED 0 1) (hz.inc ADM_COUNT_ACCEPTED 0 1))).trans hkind

theorem admReport_outs (s : State) (res : Option Rc × AdmFig) (kind page handle : Nat) : (s.admReport res kind page handle).outs = s.outs := by
  unfold admReport
  dsimp only
  rw [apply_ite State.outs, inc_outs, inc_outs, ite_self]
  repeat rw [fs_outs]

end State

/-- DRY is admission's report of its own kind. -/
theorem runs_dry {s s1 : State} {a : Access} {p o : Nat} {w : Who} {g : Reg}
    (ha : accepted s.begin_ a (regAddr pgADMIT ADM_CMD.off) 1 = some (s1, w, p, o, g)) :
    Runs (.dry a) s fun t => t.fg ADM_SRC_KIND = 2 ∧ t.outs = doneOuts := by
  obtain ⟨rfl, rfl⟩ := accepted_reg (by decide) (by decide) ha
  refine Runs.direct rfl ha (if_pos rfl) ⟨?_, done_outs ha (State.admReport_outs _ _ _ _ _)⟩
  exact (State.done_fgb _ _ 0 ADM_SRC_KIND (by decide) (by decide) (by decide) (by decide)).trans (State.admReport_kind _ _ _ _ _)

/-- A clear waits for the span boundary. -/
theorem runs_clear {s s1 : State} {a : Access} {p o : Nat} {w : Who} {g : Reg}
    (ha : accepted s.begin_ a (regAddr pgHEALTH HEALTH_CMD.off) 1 = some (s1, w, p, o, g)) :
    Runs (.clear a) s fun t => some (s1.fgb w.bank HEALTH_QSEL_LAMP) ∈ t.health.clr ∧ t.outs = doneOuts :=
  Runs.direct rfl ha rfl ⟨List.mem_append_right _ (List.mem_singleton.mpr rfl), done_outs ha rfl⟩

/-- So does the clear of all lamps. -/
theorem runs_clearall {s s1 : State} {a : Access} {p o : Nat} {w : Who} {g : Reg}
    (ha : accepted s.begin_ a (regAddr pgHEALTH HEALTH_CMD.off) 2 = some (s1, w, p, o, g)) :
    Runs (.clearall a) s fun t => none ∈ t.health.clr ∧ t.outs = doneOuts :=
  Runs.direct rfl ha rfl ⟨List.mem_append_right _ (List.mem_singleton.mpr rfl), done_outs ha rfl⟩

/-- The stones named wait for their release. -/
theorem runs_rbClr {s s1 : State} {a : Access} {v p o : Nat} {w : Who} {g : Reg}
    (ha : accepted s.begin_ a (regAddr pgRDBK RB_CLR.off) (v % 2 ^ 16) = some (s1, w, p, o, g)) :
    Runs (.rbClr a v) s fun t => (∀ k < 16, bit (v % 2 ^ 16) k = true → k ∈ t.rdbk.toFree) ∧ t.outs = doneOuts :=
  Runs.direct rfl ha rfl
    ⟨fun _ hk hb => List.mem_append_right _ (List.mem_filter.mpr ⟨List.mem_range.mpr hk, hb⟩), done_outs ha rfl⟩

/-- A word written to a register of the array's page whose bits clear when written 1. -/
theorem runs_clearing {i : Instr} {s s1 : State} {a : Access} {p o x : Nat} {v : Word} {w : Who} {g : Reg}
    (hr : ∃ r, anyRegAt pgPIX x = some r ∧ r.banked = false ∧ r.flds = [⟨31, 0, .w1c, .plain, []⟩])
    (hx : 0x040 ≤ x ∧ x < 4096 ∧ x ≠ PIX_DITH.off)
    (e : exec i s = .next (direct s.begin_ a (regAddr pgPIX x) v.toNat (hPlain a.path)))
    (ha : accepted s.begin_ a (regAddr pgPIX x) v.toNat = some (s1, w, p, o, g)) :
    Runs i s fun t => t.reg pgPIX o = s1.reg pgPIX o - Nat.land (s1.reg pgPIX o) v.toNat ∧ t.outs = doneOuts := by
  obtain ⟨r, hr, hb, hf⟩ := hr
  obtain ⟨hlow, hlt, hdith⟩ := hx
  obtain ⟨rfl, rfl, rfl⟩ := accepted_row hr ha (by decide) hlt
  refine runs_plain e ha (by decide) (overrideFail_elsewhere _ _ _ _ (by decide)) ?_
  rw [effect_pix _ _ _ _ _ _ _ hlow hdith]
  refine ⟨?_, done_outs ha rfl⟩
  exact (State.done_rget _ 0 (by decide) hlt (by omega)).trans ((storeReg_reg _ _ _ hr hb (by decide)).trans
    (hf ▸ mergeFlds_w1c (rget_lt _ _ _ _) v.isLt))

/-- A write of PIX_RET_A or PIX_RET_B clears the engines named. -/
theorem runs_returnToService {s s1 : State} {a : Access} (h : Fin 2) (v : Word) {p o : Nat} {w : Who} {g : Reg}
    (ha : accepted s.begin_ a (regAddr pgPIX (if h = 0 then PIX_RET_A.off else PIX_RET_B.off)) v.toNat = some (s1, w, p, o, g)) :
    Runs (.returnToService a h v) s fun t =>
      t.reg pgPIX o = s1.reg pgPIX o - Nat.land (s1.reg pgPIX o) v.toNat ∧ t.outs = doneOuts := by
  match h with
  | 0 => exact runs_clearing ⟨_, rfl, rfl, rfl⟩ (by decide) rfl ha
  | 1 => exact runs_clearing ⟨_, rfl, rfl, rfl⟩ (by decide) rfl ha

/-- A write of an override register that passes the override's checks stores its fields. -/
theorem runs_override {s s1 : State} {a : Access} (k : Fin 4) (v : Word) {p o : Nat} {w : Who} {g : Reg}
    (ha : accepted s.begin_ a (regAddr pgEDGE (EDGE_OVR_CTRL.off + 4 * k.val)) v.toNat = some (s1, w, p, o, g))
    (hv : s1.overrideFail w pgEDGE o v.toNat = none) :
    Runs (.override a k v) s fun t =>
      t.reg pgEDGE o = mergeFlds g.flds (s1.reg pgEDGE o) v.toNat (2 ^ 32 - 1) % 2 ^ 32 ∧ t.outs = doneOuts := by
  have hrow : ∀ k : Fin 4, ((anyRegAt pgEDGE (EDGE_OVR_CTRL.off + 4 * k.val)).map Reg.banked) = some false := by decide
  obtain ⟨r, hr, hb⟩ := Option.map_eq_some_iff.mp (hrow k)
  have hlow : 0x040 ≤ EDGE_OVR_CTRL.off + 4 * k.val := Nat.le_trans (by decide) (Nat.le_add_right _ _)
  have hlt : EDGE_OVR_CTRL.off + 4 * k.val < 4096 := by
    have := k.isLt
    simp only [EDGE_OVR_CTRL]
    omega
  obtain ⟨rfl, rfl, rfl⟩ := accepted_row hr ha (by decide) hlt
  refine runs_plain rfl ha (by decide) hv ?_
  rw [effect_edge _ _ _ _ _ _ _ hlow]
  exact ⟨(State.done_rget _ 0 (by decide) hlt (by omega)).trans (storeReg_reg _ _ _ hr hb (by decide)), done_outs ha rfl⟩

/-- Sensors written back to service at one of the two registers, the one of the sensors from `base` on. -/
theorem runs_sfail {i : Instr} {s s1 : State} {a : Access} {p o x base : Nat} {v : Word} {w : Who} {g : Reg}
    (e : exec i s = .next (direct s.begin_ a (regAddr pgTFIELD x) v.toNat (hPlain a.path))) (hx : x = TF_SFAIL0.off ∨ x = TF_SFAIL1.off)
    (hbase : (if x = TF_SFAIL1.off then 32 else 0) = base)
    (ha : accepted s.begin_ a (regAddr pgTFIELD x) v.toNat = some (s1, w, p, o, g)) :
    Runs i s fun t => t.outs = doneOuts ∧
      ∀ i < 32, bit v.toNat i = true → base + i < 48 → t.fgk TF_SRD_SUSP 0 (base + i) = 0 := by
  obtain ⟨rfl, rfl⟩ := accepted_reg (by decide) (by rcases hx with rfl | rfl <;> decide) ha
  refine runs_plain e ha (by decide) (overrideFail_elsewhere _ _ _ _ (by decide)) ?_
  rw [effect_sfail _ _ _ _ _ _ _ hx, State.sfailEffect_eq _ v.isLt, hbase]
  refine ⟨done_outs ha (State.sfailOnes_outs _ _ _ _), fun i hi hb hk => ?_⟩
  rw [State.done_fgk _ _ _ _ _ (by decide) (by simp only [TF_SRD_SUSP]; omega) (by decide)
    (by simp only [TF_SRD_SUSP, ne_eq, Prod.mk.injEq]; omega)]
  exact State.sfailOnes_susp _ _ _ hi hb hk

/-- The suspect counts of the sensors written restart. -/
theorem runs_sensorReturn {s s1 : State} {a : Access} (h : Fin 2) (v : Word) {p o : Nat} {w : Who} {g : Reg}
    (ha : accepted s.begin_ a (regAddr pgTFIELD (if h = 0 then TF_SFAIL0.off else TF_SFAIL1.off)) v.toNat = some (s1, w, p, o, g)) :
    Runs (.sensorReturn a h v) s fun t => t.outs = doneOuts ∧
      ∀ i < 32, bit v.toNat i = true → 32 * h.val + i < 48 → t.fgk TF_SRD_SUSP 0 (32 * h.val + i) = 0 := by
  match h with
  | 0 => exact runs_sfail rfl (.inl rfl) (by decide) ha
  | 1 => exact runs_sfail rfl (.inr rfl) (by decide) ha

end Sys2Proof.Machine

/-! PROOFS. Conversions of SADC1 (R219, R220, R224): SENSE_RAW shows each of them. -/

namespace Sys2Proof.Machine

namespace State

/-- From `s` to `t` SENSE_RAW reads the same. -/
abbrev SameRaw (s t : State) : Prop := SameReg pgSENSE SENSE_RAW.off s t

namespace SameRaw

variable {s t : State}

/-- The results have registers of their own, whatever the entry. -/
theorem result (h : SameRaw s t) (f : FRef) (e v : Nat) (hf : f.page = pgSENSE ∧ f.off = SENSE_RES.off := by decide) :
    SameRaw s (t.fsk f 0 e v) :=
  h.fsk f 0 e v (by simp only [regKey, hf.1, hf.2, pgSENSE, SENSE_RES, SENSE_RAW]; omega)

theorem senseStart (h : SameRaw s t) (e : Nat) : SameRaw s (t.senseStart e) :=
  ((h.of_regs (u := { t with sense := (t.senseStart e).sense }) rfl).fs SENSE_STAT_ENTRY e).fs SENSE_STAT_BUSY 1

theorem senseStop (h : SameRaw s t) : SameRaw s t.senseStop :=
  (h.of_regs (u := { t with sense := t.senseStop.sense }) rfl).fs SENSE_STAT_BUSY 0

end SameRaw

/-- SENSE_RAW of one conversion. -/
def rawShown (s : State) (code : Nat) : State :=
  ((s.fs SENSE_RAW_SETTLING (b2n (decide (0 < s.sense.tagLeft)))).fs SENSE_RAW_ENTRY s.sense.entry).fs SENSE_RAW_CODE code

theorem rawShown_code (s : State) (code : Nat) : (s.rawShown code).fg SENSE_RAW_CODE = code % 2 ^ 12 :=
  fg_fs _ (by unfold FRef.fits; decide) _

theorem rawShown_entry (s : State) (code : Nat) : (s.rawShown code).fg SENSE_RAW_ENTRY = s.sense.entry % 2 ^ 4 :=
  (fg_fs_apart _ _ (by decide)).trans (fg_fs _ (by unfold FRef.fits; decide) _)

/-- What a conversion that is not tagged as settling gives: a result once enough codes are averaged, and the next entry. -/
def rawAveraged (s : State) (e : Nat) (value : Int) : State :=
  let n := s.sense.codes.length + 1
  let sum := (s.sense.codes.foldl (fun (a : Int) (c : Nat) => a + sgn 32 c) 0) + value
  let avg := match s.sense.last with
    | some f => 4 ^ f.2.2
    | none => 1
  let s := s.fsk SENSE_RES_SETTLING 0 e 0
  if n < avg then { s with sense := { s.sense with codes := s.sense.codes ++ [twos 32 value] } }
  else
    let s := (s.fsk SENSE_RES_VALUE 0 e (twos 16 ((2 * sum + n) / (2 * n)))).fsk SENSE_RES_VALID 0 e 1
    let s := s.fsk SENSE_RES_COUNT 0 e (s.fgk SENSE_RES_COUNT 0 e + 1)
    if e + 1 < s.fg SENSE_CFG_LEN then s.senseStart (e + 1)
    else if s.fg SENSE_CFG_CONT = 1 then s.senseStart 0
    else s.senseStop

/-- A conversion is shown, and then tagged as settling or averaged. -/
def rawJudged (s : State) (e : Nat) (tagged : Bool) (value : Int) : State :=
  if tagged then { s with sense := { s.sense with tagLeft := s.sense.tagLeft - 1 } }.inc SENSE_CNT_TAGGED 0 1
  else s.rawAveraged e value

theorem senseMake_eq (s : State) (code : Nat) (value : Int) :
    s.senseMake code value = (s.rawShown code).rawJudged s.sense.entry (decide (0 < s.sense.tagLeft)) value := rfl

theorem rawAveraged_raw (s : State) (e : Nat) (value : Int) : SameRaw s (s.rawAveraged e value) := by
  unfold rawAveraged
  extract_lets n sum avg u _ v w
  have hu : SameRaw s u := SameRaw.result (.refl _ _ _) SENSE_RES_SETTLING e 0
  have hv : SameRaw s v := SameRaw.result (SameRaw.result hu SENSE_RES_VALUE e _) SENSE_RES_VALID e 1
  have hw : SameRaw s w := SameRaw.result hv SENSE_RES_COUNT e _
  exact .ite (SameReg.of_regs hu rfl) (.ite (SameRaw.senseStart hw _) (.ite (SameRaw.senseStart hw _) (SameRaw.senseStop hw)))

theorem rawJudged_raw (s : State) (e : Nat) (tagged : Bool) (value : Int) : SameRaw s (s.rawJudged e tagged value) := by
  have htag : SameRaw s { s with sense := { s.sense with tagLeft := s.sense.tagLeft - 1 } } := SameReg.of_regs (.refl _ _ s) rfl
  unfold rawJudged
  exact .ite (htag.inc SENSE_CNT_TAGGED 0 1) (rawAveraged_raw s e value)

/-- What a conversion does after SENSE_RAW is shown leaves it. -/
theorem senseMake_raw (s : State) (code : Nat) (value : Int) : SameRaw (s.rawShown code) (s.senseMake code value) :=
  senseMake_eq s code value ▸ rawJudged_raw _ _ _ _

/-- SADC1's last conversion, when it is to stop. -/
def senseLast (s : State) : State :=
  { s.senseStop.fs (hACTIVE pgSENSE) 0 with fab := { s.fab with stopping := s.fab.stopping.filter (· != pgSENSE) } }

theorem senseConv_eq {s : State} (code : Nat) (value : Int) (hb : s.sense.busy = true) :
    s.senseConv code value = if s.fab.stopping.contains pgSENSE then (s.senseMake code value).senseLast else s.senseMake code value := by
  have hfab : (s.senseMake code value).fab = s.fab :=
    ((kept_senseMake (K := fun p => p = .regs ∨ p = .sense) (.refl s) (.inl rfl) (.inr rfl)).same .fab).resolve_right (by simp)
  unfold senseConv
  generalize s.senseMake code value = u at hfab ⊢
  rw [if_neg (by simp [hb]), ← hfab]
  rfl

theorem senseLast_raw (s : State) : SameRaw s s.senseLast :=
  (((SameRaw.senseStop (.refl _ _ _)).fs (hACTIVE pgSENSE) 0).of_regs rfl)

theorem senseLast_busy (s : State) : s.senseLast.sense.busy = false := rfl

theorem senseLast_active (s : State) : s.senseLast.active pgSENSE = false := by
  have h : s.senseLast.fg (hACTIVE pgSENSE) = 0 := fg_fs s.senseStop (by unfold FRef.fits; decide) 0
  rw [active, h]
  rfl

end State

/-- A conversion is shown; the last one leaves SADC1 stopped. -/
theorem runs_conversion {s : State} (code : Nat) (v : Int) (hb : s.sense.busy = true) :
    Runs (.conversion code v) s fun t => t.fg SENSE_RAW_CODE = code % 2 ^ 12 ∧ t.fg SENSE_RAW_ENTRY = s.sense.entry % 2 ^ 4 ∧
      (pgSENSE ∈ s.fab.stopping → t.sense.busy = false ∧ t.active pgSENSE = false) := by
  have hmake := s.begin_.senseMake_raw code v
  have hraw : State.SameRaw (s.begin_.rawShown code) (s.begin_.senseConv code v) := by
    rw [State.senseConv_eq (s := s.begin_) code v hb]
    exact .ite (hmake.trans (State.senseLast_raw _)) hmake
  refine ⟨_, rfl, ?_, ?_, fun hstop => ?_⟩
  · exact (State.SameReg.fg (f := SENSE_RAW_CODE) hraw).trans (State.rawShown_code _ _)
  · exact (State.SameReg.fg (f := SENSE_RAW_ENTRY) hraw).trans (State.rawShown_entry _ _)
  · have hlast : s.begin_.fab.stopping.contains pgSENSE = true := List.contains_iff_mem.mpr hstop
    rw [State.senseConv_eq (s := s.begin_) code v hb, if_pos hlast]
    exact ⟨State.senseLast_busy _, State.senseLast_active _⟩

end Sys2Proof.Machine

/-! PROOFS. The sensors' samples and the board reads (R158, R159, R366): what they do takes no time and leaves the field's own state. -/

namespace Sys2Proof.Machine

namespace State

/-! ### The clock over a sample -/

theorem settle_now (s : State) (p : Nat) : (s.settle p).now = s.now := by rw [((Loaded.refl s).settle p).all]

theorem showPhase_now (s : State) (n : Nat) : (s.showPhase n).now = s.now := by
  unfold showPhase
  dsimp only
  rw [settle_now]
  repeat rw [fsi_now]

theorem hardStop_now (s : State) (safe : Bool) : (s.hardStop safe).now = s.now := by
  unfold hardStop
  extract_lets stop _ u
  exact foldl_now _ showPhase_now u

theorem shutDown_now (s : State) (d : Nat) : (s.shutDown d).now = s.now := by
  unfold shutDown
  split
  · rfl
  · rw [modPow_now, modScan_now, inc_now, fs_now, hardStop_now]

theorem thermWarn_now (s : State) (t : Int) : (s.thermWarn t).now = s.now := by
  unfold thermWarn
  dsimp only
  split
  · split
    · rfl
    · rw [ev_now, fs_now]
  · split
    · rw [fs_now]
    · rfl

theorem derate_now (s : State) (t : Int) : (s.derate t).now = s.now := by
  unfold derate
  extract_lets d h b z hot cool ds since may
  clear_value since
  split
  · exact modPow_now _ _
  · split
    · split <;> exact modPow_now _ _
    · exact modPow_now _ _

theorem stoneThermal_now (s : State) (k v : Nat) : (s.stoneThermal k v).now = s.now := by rw [stoneThermal, fs_now, fsi_now]

theorem stoneSample_now (s : State) (k : Nat) (t : Int) : (s.stoneSample k t).now = s.now := by
  have hcool : ∀ v, (s.modPow fun p => { p with stoneCool := modAt p.stoneCool k fun _ => v }).now = s.now := fun _ => modPow_now _ _
  unfold stoneSample
  dsimp only
  split
  · split
    · exact hcool _
    · rw [ev_now, stoneThermal_now, hcool]
  · split
    · rfl
    · split
      · split
        · rw [ev_now, stoneThermal_now, hcool]
        · exact hcool _
      · exact hcool _

theorem trimSample_now (s : State) (t : Int) : (s.trimSample t).now = s.now := by rw [trimSample, modTrim_now, showDie, fs_now, fs_now]

/-- What the thermal functions do with a sample takes no time. -/
theorem thermSample_now (s : State) (die : List (Option Int)) : (s.thermSample die).now = s.now := by
  unfold thermSample
  split
  · rfl
  next t k _ =>
    extract_lets u v w x y
    have hu : u.now = s.now := by rw [fs_now, fs_now]
    have hv : v.now = s.now := (apply_ite State.now _ _ _).trans (by rw [fs_now, ite_self, hu])
    have hw : w.now = s.now := by rw [derate_now, thermWarn_now, hv]
    have hx : x.now = s.now := (foldl_now _ (fun u x => by
      split
      · exact stoneSample_now _ _ _
      · rfl) w).trans hw
    have hy : y.now = s.now := (apply_ite State.now _ _ _).trans (by rw [trimSample_now, ite_self, hx])
    exact (apply_ite State.now _ _ _).trans (by rw [shutDown_now, ite_self, hy])

/-- The sensors are judged in no time. -/
theorem judge_now (s : State) (reads : List (Option Int)) (skip : List Nat) : (s.judge reads skip).now = s.now := by
  unfold judge
  extract_lets d rd far suspect
  refine foldl_now _ (fun u k => ?_) s
  split
  · rfl
  · extract_lets v n w
    have hv : v.now = u.now := by
      dsimp only [v]
      split
      · rw [fsk_now, fsk_now]
      · rfl
    have hw : w.now = u.now := (apply_ite State.now _ _ _).trans (by rw [fs_now, fs_now, ite_self, hv])
    split
    · rw [fsk_now, hv]
    · split
      · rw [fsk_now, hv]
      · rw [fault_now, fsk_now, fsk_now, hw]

theorem judgeAll_now (s : State) (die : List (Option Int)) (raw : List (Option Nat)) : (s.judgeAll die raw).now = s.now :=
  judge_now _ _ _

theorem twiGo_now (s : State) : s.twiGo.now = s.now := by
  unfold twiGo
  split
  · split
    · rw [emit_now, modSer_now]
    · rfl
  · rfl

theorem busClear_now (s : State) (freed : Bool) : (s.busClear freed).now = s.now := by
  unfold busClear
  dsimp only
  split
  · rw [ev_now, fs_now, fs_now, fs_now, emit_now]
  · rw [fault_now, fs_now, fs_now, emit_now]

/-! ### The field's own state over a sample -/

theorem judgeAll_field (s : State) (die : List (Option Int)) (raw : List (Option Nat)) : (s.judgeAll die raw).field = s.field :=
  (kept_judgeAll (K := (· ≠ .field)) (.refl s) nofun nofun).part

theorem thermSample_field (s : State) (die : List (Option Int)) : (s.thermSample die).field = s.field :=
  (kept_thermSample (K := (· ≠ .field)) (.refl s) nofun nofun nofun nofun nofun nofun nofun).part

theorem twiGo_field (s : State) : s.twiGo.field = s.field := (kept_twiGo (K := (· ≠ .field)) (.refl s) nofun).part

theorem busClear_field (s : State) (freed : Bool) : (s.busClear freed).field = s.field :=
  (kept_busClear (K := (· ≠ .field)) (.refl s) nofun nofun).part

/-- The field's own state once the sample of an instant is taken: none queued, and the next sample 250 ms later. -/
def sampled (s : State) : State :=
  { s with field := { s.field with queued := none, sampleAt := s.field.sampleAt + 250 * Config.ms } }

/-- What a sample does after its thermal functions: it queues the board reads, or judges the sensors at once. -/
def sampleEnd (s : State) (die : List (Option Int)) : State :=
  if s.boardOn then { s with field := { s.field with queued := some die } } else s.twiGo.judgeAll die []

theorem sampleEnd_instants (s : State) (die : List (Option Int)) :
    (s.sampleEnd die).now = s.now ∧ (s.sampleEnd die).field.sampleAt = s.field.sampleAt := by
  unfold sampleEnd
  split
  · exact ⟨rfl, rfl⟩
  · rw [judgeAll_now, twiGo_now, judgeAll_field, twiGo_field]
    exact ⟨rfl, rfl⟩

/-- A set of board reads still queued counts as failed. -/
def sampleLate (s : State) : State := match s.field.queued with
  | some d => s.judgeAll d []
  | none => s

theorem sampleLate_kept (s : State) : s.sampleLate.now = s.now ∧ s.sampleLate.field = s.field := by
  unfold sampleLate
  split
  · exact ⟨judgeAll_now _ _ _, judgeAll_field _ _ _⟩
  · exact ⟨rfl, rfl⟩

theorem sensorSample_eq {s : State} (die : List (Option Int)) (ht : s.pow.trimDone = true) (hs : s.mode ≠ .sleep)
    (hr : s.mode ≠ .recovery) :
    s.sensorSample die = ((s.advance s.field.sampleAt).sampleLate.sampled.thermSample die).sampleEnd die := by
  unfold sensorSample
  rw [if_neg (by simp [ht, hs, hr])]
  rfl

/-- A sample comes at its instant, and the next one 250 ms after it. -/
theorem sensorSample_instants {s : State} (die : List (Option Int)) (ht : s.pow.trimDone = true) (hs : s.mode ≠ .sleep)
    (hr : s.mode ≠ .recovery) : (s.sensorSample die).now = max s.now s.field.sampleAt ∧
      (s.sensorSample die).field.sampleAt = s.field.sampleAt + 250 * Config.ms := by
  have hsampled : ∀ u : State, u.sampled.now = u.now ∧ u.sampled.field.sampleAt = u.field.sampleAt + 250 * Config.ms := fun _ => ⟨rfl, rfl⟩
  obtain ⟨hnow, hfield⟩ := (s.advance s.field.sampleAt).sampleLate_kept
  obtain ⟨hendNow, hendField⟩ := ((s.advance s.field.sampleAt).sampleLate.sampled.thermSample die).sampleEnd_instants die
  obtain ⟨hsNow, hsField⟩ := hsampled (s.advance s.field.sampleAt).sampleLate
  rw [sensorSample_eq die ht hs hr, hendNow, hendField, thermSample_now, thermSample_field, hsNow, hsField, hnow, hfield]
  exact ⟨rfl, rfl⟩

/-! ### The queued board reads -/

/-- Without a transaction nothing waits for the board reads. -/
theorem twiGo_idle {s : State} (h : s.ser.twiX = none) : s.twiGo = s := by
  unfold twiGo
  rw [h]

theorem twiRefuseHeld_idle {s : State} (h : s.ser.twiX = none) : s.twiRefuseHeld = s := by
  unfold twiRefuseHeld
  rw [h]

/-- A bus clear that SDA, found low, asks for. -/
def lowCleared (s : State) : Option Bool → State
  | some freed => if s.fg TWI_STAT_STUCK = 1 then s else s.busClear freed
  | none => s

/-- The frames of the board reads on TWI. -/
def readSent (s : State) (l : List Nat) : State :=
  l.foldl (fun (s : State) k => (s.emit (.serial s.twiWire (s.boardFrame (16 + k)))).emit .twiStop) s

/-- From `s` to `t` the clock, the field's own state and the serial ports' state are the same. -/
structure SameSample (s t : State) : Prop where
  now : t.now = s.now
  field : t.field = s.field
  ser : t.ser = s.ser

theorem SameSample.trans {s t u : State} (h : SameSample s t) (k : SameSample t u) : SameSample s u :=
  ⟨k.now.trans h.now, k.field.trans h.field, k.ser.trans h.ser⟩

theorem sameSample_lowCleared (s : State) (low : Option Bool) : SameSample s (s.lowCleared low) := by
  cases low with
  | none => exact ⟨rfl, rfl, rfl⟩
  | some freed =>
    by_cases h : s.fg TWI_STAT_STUCK = 1
    · rw [lowCleared, if_pos h]
      exact ⟨rfl, rfl, rfl⟩
    · rw [lowCleared, if_neg h]
      exact ⟨busClear_now _ _, busClear_field _ _, (kept_busClear (K := (· ≠ .ser)) (.refl s) nofun nofun).part⟩

theorem sameSample_readSent (s : State) (l : List Nat) : SameSample s (s.readSent l) :=
  List.foldlRecOn (motive := SameSample s) _ _ ⟨rfl, rfl, rfl⟩ fun _ ht _ _ => ht.trans ⟨rfl, rfl, rfl⟩

/-- The queued set is taken. -/
def readTaken (s : State) : State := { s with field := { s.field with queued := none } }

/-- The queued reads of the on-die sample `die` are sent, unless TWI is stuck, and the sensors are judged. -/
def readMade (s : State) (die : List (Option Int)) (raw : List (Option Nat)) : State :=
  let stuck := s.fg TWI_STAT_STUCK == 1
  let late := decide (s.field.sampleAt + 50 * Config.ms < s.now + 250 * Config.ms)
  let s := s.readTaken
  let s := if stuck then s else s.readSent ((List.range 32).filter fun k => s.sensorOn (16 + k))
  let s := if stuck then s.twiRefuseHeld else s.twiGo
  s.judgeAll die (if stuck || late then [] else raw)

theorem boardRead_eq {s : State} {die : List (Option Int)} (raw : List (Option Nat)) (low : Option Bool) (hq : s.field.queued = some die)
    (hx : s.ser.twiX = none) : s.boardRead raw low = (s.lowCleared low).readMade die raw := by
  unfold boardRead
  rw [hq, hx]
  rfl

/-- Reads made with no transaction on TWI. -/
theorem readMade_kept {s : State} (die : List (Option Int)) (raw : List (Option Nat)) (hx : s.ser.twiX = none) :
    (s.readMade die raw).now = s.now ∧ (s.readMade die raw).field = { s.field with queued := none } := by
  unfold readMade
  extract_lets stuck late u v w
  have hv : SameSample u v := by
    dsimp only [v]
    split
    · exact ⟨rfl, rfl, rfl⟩
    · exact sameSample_readSent u _
  have hidle : v.ser.twiX = none := (congrArg _ hv.ser).trans hx
  have hw : w = v := by
    dsimp only [w]
    rw [twiGo_idle hidle, twiRefuseHeld_idle hidle, ite_self]
  rw [judgeAll_now, judgeAll_field, hw]
  exact ⟨hv.now, hv.field⟩

end State

/-- A sample comes at its instant. -/
theorem runs_sensorSample {s : State} (die : List (Option Int)) (ht : s.pow.trimDone = true) (hs : s.mode ≠ .sleep)
    (hr : s.mode ≠ .recovery) :
    Runs (.sensorSample die) s fun t => t.now = max s.now s.field.sampleAt ∧ t.field.sampleAt = s.field.sampleAt + 250 * Config.ms :=
  ⟨_, rfl, State.sensorSample_instants (s := s.begin_) die ht hs hr⟩

/-- The queued board reads are made at once when TWI is free. -/
theorem runs_boardSensorRead {s : State} {die : List (Option Int)} (raw : List (Option Nat)) (low : Option Bool)
    (hq : s.field.queued = some die) (hx : s.ser.twiX = none) :
    Runs (.boardSensorRead ⟨raw, low⟩) s fun t => t.field = { s.field with queued := none } ∧ t.now = s.now := by
  have hclear := s.begin_.sameSample_lowCleared low
  obtain ⟨hnow, hfield⟩ := State.readMade_kept die raw ((congrArg SerSt.twiX hclear.ser).trans hx)
  refine ⟨_, rfl, ?_⟩
  beta_reduce
  rw [State.boardRead_eq (s := s.begin_) raw low hq hx, hfield, hnow]
  exact ⟨congrArg (fun f : FieldSt => { f with queued := none }) hclear.field, hclear.now⟩

end Sys2Proof.Machine

/-! PROOFS. The picture and health commands complete. -/

namespace Sys2Proof.Machine

/-- Settles O55: each command by the lemma of its operation. -/
theorem pixelsAndHealthComplete : Obligations.PixelsAndHealthComplete := by
  refine ⟨?pattern, ?start, fun s k r j ha hj => exec_jobComplete_lat r ha hj,
    fun s engines poison spots hb ha hj => ⟨_, rfl, State.blendDone_lat (s := s.begin_) engines spots poison hb ha hj⟩, ?resumed, ?refreshed,
    fun _ _ _ _ _ _ _ ha => runs_dry ha, fun _ _ _ h v _ _ _ _ ha => runs_returnToService h v ha,
    fun _ _ _ h v _ _ _ _ ha => runs_sensorReturn h v ha, fun _ _ _ k v _ _ _ _ ha hv => runs_override k v ha hv,
    fun _ die ht hs hr => runs_sensorSample die ht hs hr, fun _ _ raw low hq hx => runs_boardSensorRead raw low hq hx,
    fun _ _ _ _ _ _ _ _ ha => runs_query wireQsel_oneField rfl ha, fun _ _ _ _ _ _ _ _ ha => runs_query healthQsel_oneField rfl ha,
    fun _ _ _ _ _ _ _ _ ha => runs_query healthLsel_oneField rfl ha,
    fun _ _ _ _ _ _ _ ha => runs_clear ha, fun _ _ _ _ _ _ _ ha => runs_clearall ha, fun _ _ _ _ _ _ _ _ ha => runs_rbClr ha,
    fun _ code v hb => runs_conversion code v hb⟩
  case pattern =>
    intro s e poison hr hh
    refine ⟨_, rfl, ?_⟩
    beta_reduce
    rw [State.pattDone_patt (s := s.begin_) poison hr hh]
    exact ⟨rfl, rfl⟩
  case start =>
    intro s r hn hw hm ha hb hu
    refine ⟨_, rfl, ?_⟩
    beta_reduce
    rw [State.jobStart_eq (s := s.begin_) hn hw hm ha hb hu, State.pix_blendBegin]
    exact ⟨List.length_append, rfl⟩
  case resumed =>
    intro s hb ho hl
    obtain ⟨hstate, -, hrewriting⟩ := s.begin_.blendStart_state s.begin_.blend.fast
    refine ⟨_, rfl, ?_⟩
    beta_reduce
    rw [State.blendResume_eq (s := s.begin_) hb ho hl]
    exact ⟨hstate, hrewriting⟩
  case refreshed =>
    intro s hdue
    exact ⟨_, exec_fieldRefresh hdue, (s.begin_.advance s.field.refreshAt).refresh_instants⟩

end Sys2Proof.Machine

/-! PROOFS. The correction of one lamp, its bypass entry and its dither threshold (R150 to R152). -/

namespace Sys2Proof.Machine

/-! ### The correction -/

theorem correct_off {c : Coef} (h : c.off = true) (y : Nat × Nat × Nat) (th : Nat) : correct c y th = 0 := by
  simp only [correct, h, Bool.true_or, if_true]

/-- The black offset is added only to a lamp that the matrix lights (R150). -/
theorem correct_black (c : Coef) (th : Nat) : correct c (0, 0, 0) th = 0 := by
  simp [correct]

theorem correct_le (c : Coef) (y : Nat × Nat × Nat) (th : Nat) : correct c y th ≤ 0xFFFFFF := by
  unfold correct
  dsimp only
  split
  · exact Nat.zero_le _
  · exact Nat.min_le_right _ _

/-- An entry without OFF and OFS whose weights make `8192 * x` (1.0000 times `x`) of the inputs gives `x`: the accumulator holds
`256 * x`, and a threshold below 256 is rounded away. -/
theorem correct_unit {c : Coef} {y : Nat × Nat × Nat} {x th : Nat} (hoff : c.off = false) (hofs : c.ofs = 0)
    (hacc : c.cr * y.1 + c.cg * y.2.1 + c.cb * y.2.2 = 8192 * x) (hx : x ≤ 0xFFFFFF) (hth : th < 256) : correct c y th = x := by
  have ha : (8192 * (x : Int)) / 32 = 256 * x := by omega
  simp only [correct, hacc, ha, hoff, hofs, Bool.false_or, decide_eq_true_eq]
  split <;> omega

/-! ### The dither threshold -/

/-- The entry of the ordered pattern at column `bx`, where `a` is the column crossed with the row: the bits of `a` and `bx` in turn,
lowest bits first into the highest places. -/
def ditherCell (a bx : Nat) : Nat :=
  (List.range 4).foldl (fun th b => th + bitsOf a b b * 2 ^ (7 - 2 * b) + bitsOf bx b b * 2 ^ (6 - 2 * b)) 0

theorem ditherTh_on (px py col d : Nat) : ditherTh true px py col d =
    ditherCell (Nat.xor ((px + 3 * col + d % 16) % 16) ((py + 5 * col + d / 16 % 16) % 16)) ((px + 3 * col + d % 16) % 16) := rfl

theorem ditherCell_eq (a bx : Nat) : ditherCell a bx =
    a % 2 * 128 + bx % 2 * 64 + a / 2 % 2 * 32 + bx / 2 % 2 * 16 + a / 4 % 2 * 8 + bx / 4 % 2 * 4 + a / 8 % 2 * 2 + bx / 8 % 2 := by
  simp [ditherCell, bitsOf_def, List.range_succ]

theorem ditherCell_lt (a bx : Nat) : ditherCell a bx < 256 := by
  rw [ditherCell_eq]
  omega

/-- Bits 6, 4, 2 and 0 of `v` in reverse: the column at which the pattern holds `v`. The column crossed with the row is that of `v / 2`. -/
def ditherColumn (v : Nat) : Nat := v / 64 % 2 + v / 16 % 2 * 2 + v / 4 % 2 * 4 + v % 2 * 8

theorem ditherColumn_lt (v : Nat) : ditherColumn v < 16 := by
  unfold ditherColumn
  omega

theorem bits_of_sum {b0 b1 b2 b3 : Nat} (h0 : b0 < 2) (h1 : b1 < 2) (h2 : b2 < 2) (h3 : b3 < 2) :
    (b0 + b1 * 2 + b2 * 4 + b3 * 8) % 2 = b0 ∧ (b0 + b1 * 2 + b2 * 4 + b3 * 8) / 2 % 2 = b1 ∧
    (b0 + b1 * 2 + b2 * 4 + b3 * 8) / 4 % 2 = b2 ∧ (b0 + b1 * 2 + b2 * 4 + b3 * 8) / 8 % 2 = b3 := by
  omega

theorem ditherColumn_bits (v : Nat) : ditherColumn v % 2 = v / 64 % 2 ∧ ditherColumn v / 2 % 2 = v / 16 % 2 ∧
    ditherColumn v / 4 % 2 = v / 4 % 2 ∧ ditherColumn v / 8 % 2 = v % 2 :=
  bits_of_sum (Nat.mod_lt _ two_pos) (Nat.mod_lt _ two_pos) (Nat.mod_lt _ two_pos) (Nat.mod_lt _ two_pos)

theorem sum_of_bits {v : Nat} (h : v < 256) : v / 128 % 2 * 128 + v / 64 % 2 * 64 + v / 32 % 2 * 32 + v / 16 % 2 * 16 +
    v / 8 % 2 * 8 + v / 4 % 2 * 4 + v / 2 % 2 * 2 + v % 2 = v := by
  have hbits : v % 2 ^ 8 = v := Nat.mod_eq_of_lt h
  iterate 8 rw [Nat.mod_pow_succ] at hbits
  norm_num only [Nat.mod_one, Nat.div_one] at hbits
  linarith only [hbits]

theorem ditherCell_ditherColumn {v : Nat} (h : v < 256) : ditherCell (ditherColumn (v / 2)) (ditherColumn v) = v := by
  obtain ⟨x0, x1, x2, x3⟩ := ditherColumn_bits v
  obtain ⟨a0, a1, a2, a3⟩ := ditherColumn_bits (v / 2)
  rw [ditherCell_eq, x0, x1, x2, x3, a0, a1, a2, a3]
  simp only [Nat.div_div_eq_div_mul]
  exact sum_of_bits h

/-- The colour and the DCN only move the pattern: every place of it is reached by a coordinate below 16. -/
theorem exists_coordinate (k m : Nat) {b : Nat} (hb : b < 16) : ∃ p, p < 16 ∧ (p + k + m) % 16 = b :=
  ⟨(b + 15 * (k + m)) % 16, by omega, by omega⟩

theorem ditherTh_on_lt (px py col d : Nat) : ditherTh true px py col d < 256 := by
  rw [ditherTh_on]
  exact ditherCell_lt _ _

theorem exists_ditherTh_on_eq {v : Nat} (col d : Nat) (h : v < 256) :
    ∃ px py, px < 16 ∧ py < 16 ∧ ditherTh true px py col d = v := by
  have hrow : ditherColumn v ^^^ ditherColumn (v / 2) < 2 ^ 4 := Nat.xor_lt_two_pow (ditherColumn_lt v) (ditherColumn_lt (v / 2))
  obtain ⟨px, hpx, hx⟩ := exists_coordinate (3 * col) (d % 16) (ditherColumn_lt v)
  obtain ⟨py, hpy, hy⟩ := exists_coordinate (5 * col) (d / 16 % 16) hrow
  have hcross : Nat.xor (ditherColumn v) (ditherColumn v ^^^ ditherColumn (v / 2)) = ditherColumn (v / 2) :=
    Nat.xor_xor_cancel_left _ _
  refine ⟨px, py, hpx, hpy, ?_⟩
  rw [ditherTh_on, hx, hy, hcross, ditherCell_ditherColumn h]

/-! ### The job's entry -/

theorem JobIn.coefOf_of_none {j : JobIn} (h : j.coef = none) (l col : Nat) : j.coefOf l col = Coef.bypass col := by
  rw [JobIn.coefOf, h]

/-- Settles O47: the bypass entries by `correct_unit`, the thresholds by the place of each value in the pattern. -/
theorem correctionOfOneLamp : Obligations.CorrectionOfOneLamp := by
  refine ⟨fun y th hr hg hb hth => ⟨?red, ?green, ?blue⟩, fun j l col h => JobIn.coefOf_of_none h l col, correct_black,
    fun c y th h => correct_off h y th, correct_le, fun px py col d => ⟨rfl, ditherTh_on_lt px py col d⟩,
    fun v col d h => exists_ditherTh_on_eq col d h⟩
  case red => exact correct_unit rfl rfl (by simp [Coef.bypass]) hr hth
  case green => exact correct_unit rfl rfl (by simp [Coef.bypass]) hg hth
  case blue => exact correct_unit rfl rfl (by simp [Coef.bypass]) hb hth

end Sys2Proof.Machine

/-! PROOFS. Lamp health, read-back and sensing commands (R206, R211, R212, R217, R219, R222): what each stores, and what it leaves. -/

namespace Sys2Proof.Machine

/-! ### Selections and clears -/

/-- A write of a selection register changes it in the writer's copy, and no other register but the page's PG_GEN. -/
theorem runs_selection {i : Instr} {s s1 : State} {a : Access} {p' o' d p o : Nat} {w : Who} {g : Reg} (hp : p' < 256)
    (ho : 0x040 ≤ o' ∧ o' < 4096) (e : exec i s = .next (direct s.begin_ a (regAddr p' o') d hStore))
    (ha : accepted s.begin_ a (regAddr p' o') d = some (s1, w, p, o, g)) :
    Runs i s fun t => rget t.regs (bankOfReg s1.regs w p o) p o =
        mergeFlds g.flds (rget s1.regs (bankOfReg s1.regs w p o) p o) d (2 ^ 32 - 1) % 2 ^ 32 ∧
      State.regsBut [(p', o'), (p', 0x024)] s1 t ∧ t.outs = doneOuts := by
  obtain ⟨rfl, rfl⟩ := accepted_reg hp ho.2 ha
  have hframe : State.regsBut [(p, o), (p, 0x024)] s1 (storeReg s1 w p o g d) := (State.regsBut.refl _ s1).put _ hp ho.2 (by simp)
  refine Runs.direct e ha rfl ⟨?_, hframe.done hp (by simp), done_outs ha rfl⟩
  exact (State.done_rget _ _ hp ho.2 (by omega)).trans (rget_rput _ _ _ _ _)

/-- A write whose handler leaves the registers alone changes the page's PG_GEN alone. -/
theorem regsBut_done {s u : State} {p : Nat} (hp : p < 256) (hr : u.regs = s.regs) :
    State.regsBut [(p, 0x024)] s ((u.bumpGen p).emit (.res ⟨0, 0⟩ [])) :=
  ((State.regsBut.refl _ s).of_eq hr).done hp (List.mem_singleton.mpr rfl)

/-- HEALTH_CMD OP 0x1 adds the lamp selected to the clears that wait. -/
theorem runs_clear_noted {s s1 : State} {a : Access} {p o : Nat} {w : Who} {g : Reg}
    (ha : accepted s.begin_ a (regAddr pgHEALTH HEALTH_CMD.off) 1 = some (s1, w, p, o, g)) :
    Runs (.clear a) s fun t => t.health = { s1.health with clr := s1.health.clr ++ [some (s1.fgb w.bank HEALTH_QSEL_LAMP)] } ∧
      State.regsBut [(pgHEALTH, 0x024)] s1 t ∧ t.outs = doneOuts := by
  obtain ⟨rfl, rfl⟩ := accepted_reg (by decide) (by decide) ha
  exact Runs.direct rfl ha rfl ⟨rfl, regsBut_done (by decide) rfl, done_outs ha rfl⟩

/-- HEALTH_CMD OP 0x2 adds the clear of every lamp. -/
theorem runs_clearall_noted {s s1 : State} {a : Access} {p o : Nat} {w : Who} {g : Reg}
    (ha : accepted s.begin_ a (regAddr pgHEALTH HEALTH_CMD.off) 2 = some (s1, w, p, o, g)) :
    Runs (.clearall a) s fun t => t.health = { s1.health with clr := s1.health.clr ++ [none] } ∧
      State.regsBut [(pgHEALTH, 0x024)] s1 t ∧ t.outs = doneOuts := by
  obtain ⟨rfl, rfl⟩ := accepted_reg (by decide) (by decide) ha
  exact Runs.direct rfl ha rfl ⟨rfl, regsBut_done (by decide) rfl, done_outs ha rfl⟩

/-- RB_CLR adds the stones named to those that wait for release. -/
theorem runs_rbClr_noted {s s1 : State} {a : Access} {v p o : Nat} {w : Who} {g : Reg}
    (ha : accepted s.begin_ a (regAddr pgRDBK RB_CLR.off) (v % 2 ^ 16) = some (s1, w, p, o, g)) :
    Runs (.rbClr a v) s fun t =>
      t.rdbk = { s1.rdbk with toFree := s1.rdbk.toFree ++ (List.range 16).filter (fun k => bit (v % 2 ^ 16) k) } ∧
      State.regsBut [(pgRDBK, 0x024)] s1 t ∧ t.outs = doneOuts := by
  obtain ⟨rfl, rfl⟩ := accepted_reg (by decide) (by decide) ha
  exact Runs.direct rfl ha rfl ⟨rfl, regsBut_done (by decide) rfl, done_outs ha rfl⟩

/-! ### What a conversion leaves alone -/

namespace State

/-- From `s` to `t` no page but SENSE has changed, and no time has passed. -/
structure SenseOnly (s t : State) : Prop where
  pages : pagesBut [pgSENSE] s t
  now : t.now = s.now

namespace SenseOnly

variable {s t u : State}

theorem refl (s : State) : SenseOnly s s := ⟨.refl _ s, rfl⟩

theorem of_eq (h : SenseOnly s t) (hr : u.regs = t.regs) (hn : u.now = t.now) : SenseOnly s u := ⟨h.pages.of_eq hr, hn.trans h.now⟩

theorem fsk (h : SenseOnly s t) (f : FRef) (k v : Nat) (hp : f.page = pgSENSE := by decide) (ho : f.off + k * f.stride < 4096) :
    SenseOnly s (t.fsk f 0 k v) := ⟨h.pages.fsk f 0 k v (by rw [hp]; decide) ho (by rw [hp]; decide), h.now⟩

theorem fs (h : SenseOnly s t) (f : FRef) (v : Nat) (hp : f.page = pgSENSE := by decide) (ho : f.off < 4096 := by decide) :
    SenseOnly s (t.fs f v) := h.fsk f 0 v hp (by omega)

theorem ite {c : Prop} [Decidable c] (h : SenseOnly s t) (k : SenseOnly s u) : SenseOnly s (if c then t else u) := by
  split <;> assumption

theorem senseStart (h : SenseOnly s t) (e : Nat) : SenseOnly s (t.senseStart e) :=
  ((h.of_eq (u := { t with sense := (t.senseStart e).sense }) rfl rfl).fs SENSE_STAT_ENTRY e).fs SENSE_STAT_BUSY 1

theorem senseStop (h : SenseOnly s t) : SenseOnly s t.senseStop :=
  (h.of_eq (u := { t with sense := t.senseStop.sense }) rfl rfl).fs SENSE_STAT_BUSY 0

theorem rawShown (h : SenseOnly s t) (code : Nat) : SenseOnly s (t.rawShown code) :=
  ((h.fs SENSE_RAW_SETTLING _).fs SENSE_RAW_ENTRY _).fs SENSE_RAW_CODE code

theorem senseLast (h : SenseOnly s t) : SenseOnly s t.senseLast := (h.senseStop.fs (hACTIVE pgSENSE) 0).of_eq rfl rfl

end SenseOnly

/-! ### A conversion that settles -/

theorem rawShown_settling (s : State) (code : Nat) : (s.rawShown code).fg SENSE_RAW_SETTLING = b2n (decide (0 < s.sense.tagLeft)) % 2 := by
  unfold rawShown
  rw [fg_fs_apart _ _ (by decide), fg_fs_apart _ _ (by decide)]
  exact fg_fs _ (by unfold FRef.fits; decide) _

theorem rawShown_sense (s : State) (code : Nat) : (s.rawShown code).sense = s.sense := by
  unfold rawShown
  rw [fs_sense, fs_sense, fs_sense]

theorem senseMake_tagged {s : State} (code : Nat) (value : Int) (ht : s.sense.tagLeft ≠ 0) :
    s.senseMake code value =
      { s.rawShown code with sense := { s.sense with tagLeft := s.sense.tagLeft - 1 } }.inc SENSE_CNT_TAGGED 0 1 := by
  rw [senseMake_eq, rawJudged, if_pos (by simpa using Nat.pos_of_ne_zero ht), rawShown_sense]

/-! ### A conversion that is a result of its own -/

/-- The result of entry `e`, and one more in its count. -/
def resultShown (s : State) (e value : Nat) : State :=
  let t := ((s.fsk SENSE_RES_SETTLING 0 e 0).fsk SENSE_RES_VALUE 0 e value).fsk SENSE_RES_VALID 0 e 1
  t.fsk SENSE_RES_COUNT 0 e (t.fgk SENSE_RES_COUNT 0 e + 1)

/-- After the result of entry `e` the sequence goes on, restarts or ends. -/
def entryNext (s : State) (e : Nat) : State :=
  if e + 1 < s.fg SENSE_CFG_LEN then s.senseStart (e + 1)
  else if s.fg SENSE_CFG_CONT = 1 then s.senseStart 0
  else s.senseStop

/-- Without averaging, one conversion is the result: the mean of one value is that value. -/
theorem rawAveraged_single {s : State} (e : Nat) (value : Int) (hc : s.sense.codes = []) (hl : s.sense.last = none) :
    s.rawAveraged e value = (s.resultShown e (twos 16 value)).entryNext e := by
  have hmean : (2 * ((0 : Int) + value) + 1) / (2 * 1) = value := by omega
  unfold rawAveraged
  simp only [hc, hl, List.length_nil, List.foldl_nil, Nat.zero_add, Nat.lt_irrefl, ↓reduceIte, Nat.cast_one, hmean]
  rfl

theorem senseMake_single {s : State} (code : Nat) (value : Int) (ht : s.sense.tagLeft = 0) (hc : s.sense.codes = [])
    (hl : s.sense.last = none) : s.senseMake code value =
      ((s.rawShown code).resultShown s.sense.entry (twos 16 value)).entryNext s.sense.entry := by
  rw [senseMake_eq, rawJudged, if_neg (by simp [ht])]
  exact rawAveraged_single _ _ (by rw [rawShown_sense, hc]) (by rw [rawShown_sense, hl])

theorem SenseOnly.resultShown {s t : State} (h : SenseOnly s t) {e : Nat} (v : Nat) (he : e < 32) : SenseOnly s (t.resultShown e v) := by
  have ho : 0x070 + e * 4 < 4096 := by omega
  exact (((h.fsk SENSE_RES_SETTLING e 0 (ho := ho)).fsk SENSE_RES_VALUE e v (ho := ho)).fsk SENSE_RES_VALID e 1 (ho := ho)).fsk
    SENSE_RES_COUNT e _ (ho := ho)

theorem SenseOnly.entryNext {s t : State} (h : SenseOnly s t) (e : Nat) : SenseOnly s (t.entryNext e) :=
  .ite (h.senseStart _) (.ite (h.senseStart _) h.senseStop)

/-- A field of an array's register keeps its value. -/
theorem SameReg.fgk {s t : State} {f : FRef} {k : Nat} (h : SameReg f.page (f.off + k * f.stride) s t) : t.fgk f 0 k = s.fgk f 0 k := by
  have e : rget t.regs 0 f.page (f.off + k * f.stride) = rget s.regs 0 f.page (f.off + k * f.stride) := h
  simp only [State.fgk, rfget, rfgetB, Nat.add_zero, e]

/-- Setting a field of an array's register leaves the fields beside it. -/
theorem fgk_fsk_beside (s : State) {f g : FRef} (k v : Nat) (hf : f.fits ∧ g.fits)
    (hr : g.page = f.page ∧ g.off = f.off ∧ g.stride = f.stride) (h : f.hi < g.lo ∨ g.hi < f.lo) : (s.fsk f 0 k v).fgk g 0 k = s.fgk g 0 k :=
  rfgetB_rfputB_field _ _ hf.1 hf.2 (by rw [hr.1]) (by rw [hr.2.1, hr.2.2]) h

theorem twos_lt (w : Nat) (v : Int) : twos w v < 2 ^ w := by
  unfold twos
  have hpos : (0 : Int) < (2 ^ w : Nat) := by exact_mod_cast Nat.two_pow_pos w
  have := Int.emod_lt_of_pos v hpos
  have := Int.emod_nonneg v hpos.ne'
  omega

theorem resultShown_value (s : State) (e : Nat) (v : Int) : (s.resultShown e (twos 16 v)).fgk SENSE_RES_VALUE 0 e = twos 16 v := by
  unfold resultShown
  dsimp only
  rw [fgk_fsk_beside _ _ _ (by unfold FRef.fits; decide) (by decide) (by decide),
    fgk_fsk_beside _ _ _ (by unfold FRef.fits; decide) (by decide) (by decide), fgk_fsk _ (by unfold FRef.fits; decide)]
  exact Nat.mod_eq_of_lt (twos_lt 16 v)

theorem resultShown_valid (s : State) (e v : Nat) : (s.resultShown e v).fgk SENSE_RES_VALID 0 e = 1 := by
  unfold resultShown
  dsimp only
  rw [fgk_fsk_beside _ _ _ (by unfold FRef.fits; decide) (by decide) (by decide), fgk_fsk _ (by unfold FRef.fits; decide)]
  rfl

/-- From `s` to `t` the result of entry `k` reads the same. -/
abbrev SameResult (k : Nat) (s t : State) : Prop := SameReg pgSENSE (SENSE_RES.off + k * SENSE_RES.stride) s t

namespace SameResult

variable {s t : State} {k : Nat}

/-- The registers of the results lie above those that show what SADC1 does. -/
theorem fs (h : SameResult k s t) (f : FRef) (v : Nat) (hf : f.page = pgSENSE ∧ f.off < SENSE_RES.off := by decide) :
    SameResult k s (t.fs f v) := SameReg.fs h f v (by unfold regKey; omega)

theorem senseStart (h : SameResult k s t) (e : Nat) : SameResult k s (t.senseStart e) :=
  fs (fs (h.of_regs (u := { t with sense := (t.senseStart e).sense }) rfl) SENSE_STAT_ENTRY e) SENSE_STAT_BUSY 1

theorem senseStop (h : SameResult k s t) : SameResult k s t.senseStop :=
  fs (h.of_regs (u := { t with sense := t.senseStop.sense }) rfl) SENSE_STAT_BUSY 0

theorem entryNext (h : SameResult k s t) (e : Nat) : SameResult k s (t.entryNext e) :=
  .ite (senseStart h _) (.ite (senseStart h _) (senseStop h))

theorem senseLast (h : SameResult k s t) : SameResult k s t.senseLast := (fs (senseStop h) (hACTIVE pgSENSE) 0).of_regs rfl

end SameResult

end State

/-- A conversion while settling goes on is tagged, and one fewer is left to tag. -/
theorem runs_conversion_tagged {s : State} (code : Nat) (v : Int) (hb : s.sense.busy = true) (ht : s.sense.tagLeft ≠ 0)
    (hs : pgSENSE ∉ s.fab.stopping) :
    Runs (.conversion code v) s fun t => t.sense = { s.sense with tagLeft := s.sense.tagLeft - 1 } ∧ t.fg SENSE_RAW_SETTLING = 1 ∧
      State.pagesBut [pgSENSE] s t ∧ t.now = s.now := by
  have hconv : s.begin_.senseConv code v = s.begin_.senseMake code v := by
    rw [State.senseConv_eq (s := s.begin_) code v hb]
    exact if_neg fun h => hs (List.contains_iff_mem.mp h)
  have honly : State.SenseOnly s (s.begin_.rawShown code) := .rawShown ((State.SenseOnly.refl s).of_eq (u := s.begin_) rfl rfl) code
  have hraw := (State.SameReg.fg (f := SENSE_RAW_SETTLING) (s.begin_.senseMake_raw code v)).trans (State.rawShown_settling _ _)
  refine ⟨_, rfl, ?_⟩
  beta_reduce
  rw [hconv]
  refine ⟨?_, hraw.trans ?_, ?_⟩
  · rw [State.senseMake_tagged (s := s.begin_) code v ht]
    rfl
  · rw [decide_eq_true (p := 0 < s.begin_.sense.tagLeft) (Nat.pos_of_ne_zero ht)]
    rfl
  · rw [State.senseMake_tagged (s := s.begin_) code v ht]
    obtain ⟨hpages, hnow⟩ := State.SenseOnly.fs (honly.of_eq (u := { s.begin_.rawShown code with
      sense := { s.sense with tagLeft := s.sense.tagLeft - 1 } }) rfl rfl) SENSE_CNT_TAGGED _
    exact ⟨hpages, hnow⟩

/-- A settled conversion of an entry without averaging is the entry's result, also where it is the last one. -/
theorem runs_conversion_single {s : State} (code : Nat) (v : Int) (hb : s.sense.busy = true) (ht : s.sense.tagLeft = 0)
    (hc : s.sense.codes = []) (hl : s.sense.last = none) (he : s.sense.entry < 32) :
    Runs (.conversion code v) s fun t => t.fgk SENSE_RES_VALUE 0 s.sense.entry = twos 16 v ∧ t.fgk SENSE_RES_VALID 0 s.sense.entry = 1 ∧
      State.pagesBut [pgSENSE] s t ∧ t.now = s.now := by
  have hmake := State.senseMake_single (s := s.begin_) code v ht hc hl
  have honly : State.SenseOnly s (s.begin_.senseMake code v) := hmake ▸
    ((State.SenseOnly.rawShown ((State.SenseOnly.refl s).of_eq (u := s.begin_) rfl rfl) code).resultShown _ he).entryNext _
  have hsame : State.SameResult s.sense.entry ((s.begin_.rawShown code).resultShown s.sense.entry (twos 16 v))
      (s.begin_.senseMake code v) := hmake ▸ State.SameResult.entryNext (.refl _ _ _) _
  have hend : State.SenseOnly s (s.begin_.senseConv code v) ∧ State.SameResult s.sense.entry
      ((s.begin_.rawShown code).resultShown s.sense.entry (twos 16 v)) (s.begin_.senseConv code v) := by
    rw [State.senseConv_eq (s := s.begin_) code v hb]
    split
    · exact ⟨honly.senseLast, State.SameResult.senseLast hsame⟩
    · exact ⟨honly, hsame⟩
  obtain ⟨⟨hpages, hnow⟩, hres⟩ := hend
  refine ⟨_, rfl, ?_, ?_, hpages, hnow⟩
  · exact (State.SameReg.fgk (f := SENSE_RES_VALUE) hres).trans (State.resultShown_value _ _ _)
  · exact (State.SameReg.fgk (f := SENSE_RES_VALID) hres).trans (State.resultShown_valid _ _ _)

/-- Settles O32: a selection is one stored register, a clear one entry of a list that waits, a conversion one step of SADC1. -/
theorem healthCommands : Obligations.HealthCommands := by
  refine ⟨?wire, ?health, ?list, fun _ _ _ _ _ _ _ ha => runs_clear_noted ha, fun _ _ _ _ _ _ _ ha => runs_clearall_noted ha,
    fun _ _ _ _ _ _ _ _ ha => runs_rbClr_noted ha, fun _ code v hb ht hs => runs_conversion_tagged code v hb ht hs,
    fun _ code v hb ht hc hl he => runs_conversion_single code v hb ht hc hl he⟩
  case wire => exact fun _ _ _ _ _ _ _ _ ha => runs_selection (by decide) (by decide) rfl ha
  case health => exact fun _ _ _ _ _ _ _ _ ha => runs_selection (by decide) (by decide) rfl ha
  case list => exact fun _ _ _ _ _ _ _ _ ha => runs_selection (by decide) (by decide) rfl ha

end Sys2Proof.Machine

/-! PROOFS. What TRIM applies without a record, without sensors and with a bad image, and its end (R203, R356, R361, R390, R415). -/

namespace Sys2Proof.Machine

namespace State

/-! ### Actions that leave no more than an event -/

/-- An event on top of what leaves registers and clock changes FAULT's page at most. -/
theorem event_frame {s u : State} (hr : u.regs = s.regs) (hn : u.now = s.now) (p c d k n : Nat) :
    (u.ev p c d k n).pow = u.pow ∧ pagesBut [pgFAULT] s (u.ev p c d k n) ∧ (u.ev p c d k n).now = s.now :=
  ⟨ev_pow _ _ _ _ _ _, ((pagesBut.refl _ s).of_eq hr).ev _ _ _ _ _ (List.mem_singleton.mpr rfl), (ev_now _ _ _ _ _ _).trans hn⟩

theorem inTrim_of {s : State} (hm : s.mode = .trim) (ht : s.pow.trimDone = false) : s.inTrim = true := by simp [inTrim, hm, ht]

/-- PRESET without a record. -/
theorem preset_none {s : State} (hi : s.inTrim = true) (hd : s.presetDue = true) :
    s.preset none = (s.modPow fun p => { p with presetDone := true }).ev pgSCAN 0x8710 (s.strap 7 6) kInfo 0 := by
  unfold preset
  rw [if_neg (by simp [hi, hd])]
  exact if_pos (.inr (.inl rfl))

theorem probeReads_regs (s : State) (ack : Nat) : (s.probeReads ack).regs = s.regs :=
  (kept_probeReads (K := (· ≠ .regs)) (.refl s)).part

theorem probeReads_pow (s : State) (ack : Nat) : (s.probeReads ack).pow = s.pow :=
  (kept_probeReads (K := (· ≠ .pow)) (.refl s)).part

theorem probeReads_now (s : State) (ack : Nat) : (s.probeReads ack).now = s.now := by
  unfold probeReads
  split
  · rfl
  · exact foldl_now _ (fun _ _ => by rw [emit_now, emit_now]) s

/-- The probe is done, and its reads are on TWI. -/
def probeTaken (s : State) (ack : Nat) : State := (s.modPow fun p => { p with probed := true }).probeReads ack

theorem probeTaken_regs (s : State) (ack : Nat) : (s.probeTaken ack).regs = s.regs := probeReads_regs _ ack

theorem probeTaken_pow (s : State) (ack : Nat) : (s.probeTaken ack).pow = { s.pow with probed := true } := probeReads_pow _ ack

theorem probeTaken_now (s : State) (ack : Nat) : (s.probeTaken ack).now = s.now := probeReads_now _ ack

/-- SENSOR_PROBE on a stuck bus, or with fewer than three acknowledgements. -/
theorem sensorProbe_few {s : State} {ack : Nat} (hi : s.inTrim = true) (hd : s.probeDue = true) (hp : s.presetDue = false)
    (hfew : s.fg TWI_STAT_STUCK = 1 ∨ ((List.range 8).filter (bit ack)).length < 3) :
    ∃ d, s.sensorProbe ack = (s.probeTaken ack).ev pgTFIELD 0x4018 d kInfo 0 := by
  have hstuck : (s.probeTaken ack).fg TWI_STAT_STUCK = s.fg TWI_STAT_STUCK :=
    congrArg (fun r => rfget r TWI_STAT_STUCK 0 0) (probeTaken_regs s ack)
  unfold sensorProbe
  rw [if_neg (by simp [hi, hd, hp])]
  by_cases hs : (s.probeTaken ack).fg TWI_STAT_STUCK = 1
  · exact ⟨0, if_pos hs⟩
  · exact ⟨ack % 256, (if_neg hs).trans (if_pos (hfew.resolve_left (hstuck ▸ hs)))⟩

/-- RETENTION_IMAGE with an image whose CRC fails. -/
theorem retention_bad {s : State} {im : RetImage} (hi : s.inTrim = true) (hp : s.presetDue = false) (hq : s.probeDue = false)
    (hm : s.memReady = true) (him : s.pow.image = some im) :
    s.retention false = (s.modPow fun p => { p with image := none }).ev pgSYS 0x4015 0xFFFF kInfo 0 := by
  unfold retention
  rw [him]
  exact (if_neg (by simp [hi, hp, hq, hm])).trans (if_pos rfl)

/-! ### What TRIM_END sets -/

/-- TRIM has ended at instant `n`: register access stands, and the watchdog and the sample timers count from `n`. -/
structure TrimLeft (n : Nat) (t : State) : Prop where
  done : t.pow.trimDone = true
  access : t.fab.access = true
  wdog : t.fab.wdogAt = n
  sample : t.field.sampleAt = n

namespace TrimLeft

variable {n : Nat} {t u : State}

theorem of_eq (h : TrimLeft n t) (hp : u.pow.trimDone = t.pow.trimDone) (hf : u.fab = { t.fab with agree := u.fab.agree })
    (hx : u.field = t.field) : TrimLeft n u := by
  obtain ⟨hdone, haccess, hwdog, hsample⟩ := h
  refine ⟨hp.trans hdone, ?_, ?_, ?_⟩
  · rw [hf]; exact haccess
  · rw [hf]; exact hwdog
  · rw [hx]; exact hsample

/-- An operation that leaves power, fabric and field alone. -/
theorem of_kept (h : TrimLeft n t) (k : Kept (· ∉ [Part.pow, Part.fab, Part.field]) t u) : TrimLeft n u := by
  have hpow : u.pow = t.pow := (k.same .pow).resolve_right (by decide)
  have hfab : u.fab = t.fab := (k.same .fab).resolve_right (by decide)
  have hfield : u.field = t.field := (k.same .field).resolve_right (by decide)
  exact h.of_eq (by rw [hpow]) (by rw [hfab]) hfield

theorem modPow (h : TrimLeft n t) (f : PowSt → PowSt) (hf : ∀ p, (f p).trimDone = p.trimDone) : TrimLeft n (t.modPow f) :=
  h.of_eq (hf _) rfl rfl

theorem modScan (h : TrimLeft n t) (f : ScanSt → ScanSt) : TrimLeft n (t.modScan f) := h.of_eq rfl rfl rfl

theorem auxStart (h : TrimLeft n t) : TrimLeft n t.auxStart := h.of_eq rfl rfl rfl

theorem fs (h : TrimLeft n t) (f : FRef) (v : Nat) : TrimLeft n (t.fs f v) := h.of_eq rfl rfl rfl

theorem ev (h : TrimLeft n t) (p c d k x : Nat) : TrimLeft n (t.ev p c d k x) :=
  h.of_kept (Kept.ev (.refl t) _ _ _ _ _ (by decide) (by decide))

theorem fault (h : TrimLeft n t) (p i c d x : Nat) : TrimLeft n (t.fault p i c d x) :=
  h.of_kept (Kept.fault (.refl t) _ _ _ _ _ (by decide) (by decide))

theorem settle (h : TrimLeft n t) (p : Nat) : TrimLeft n (t.settle p) := by
  have hpow : (t.settle p).pow = t.pow := (kept_settle (K := (· ≠ .pow)) (.refl t) nofun nofun nofun).part
  have hall := ((Loaded.refl t).settle p).all
  exact h.of_eq (by rw [hpow]) (by rw [hall]) (by rw [hall])

theorem setMode (h : TrimLeft n t) (m : Mode) : TrimLeft n (t.setMode m) := by
  have hleft : TrimLeft n (if t.mode = .service ∧ m ≠ .service then t.leaveService else t) := by
    split
    · exact h.of_kept (kept_leaveService (.refl t) (by decide) (by decide))
    · exact h
  have hmode : ∀ {v : State}, TrimLeft n v → TrimLeft n { v with mode := m } := fun hv => hv.of_eq rfl rfl rfl
  exact (((hmode hleft).fs SYS_MODE_MODE_ACT m.code).ev pgSYS 0x0010 m.code kInfo 0).settle pgSYS

theorem darkNow (h : TrimLeft n t) (cause : Nat) : TrimLeft n (t.darkNow cause) := by
  have hlatch : TrimLeft n (t.latchCause cause) := h.fs _ _
  have hdark : ∀ {v : State}, TrimLeft n v → TrimLeft n v.darkActions := fun hv => hv.of_eq rfl rfl rfl
  have hpow : ∀ {v : State} (a r), TrimLeft n v → TrimLeft n { v with pow := { v.pow with darkAt := a, req := r } } :=
    fun _ _ hv => hv.of_eq rfl rfl rfl
  unfold State.darkNow
  dsimp only
  split
  · split
    · exact hlatch.fs _ _
    · exact hlatch
  · exact ((hpow _ _ (hdark ((hlatch.fs _ _).fs _ _))).setMode _).fault _ _ _ _ _

theorem relight (h : TrimLeft n t) (m : Mode) : TrimLeft n (t.relight m) := by
  have hdrop : ∀ {v : State}, TrimLeft n v → TrimLeft n v.dropPlans := fun hv => hv.of_eq rfl rfl rfl
  have hshut : TrimLeft n ((t.modPow fun p => { p with shut := false, shutWait := none }).fs TH_STAT_SHUT 0).dropPlans :=
    hdrop ((h.modPow (fun p => { p with shut := false, shutWait := none }) fun _ => rfl).fs _ _)
  have hlit : TrimLeft n (((t.modPow fun p => { p with shut := false, shutWait := none }).fs TH_STAT_SHUT 0).dropPlans.enterLit m) := by
    unfold State.enterLit
    dsimp only
    split
    · exact (hshut.setMode m).of_kept (kept_blendRelease (.refl _) (by decide) (by decide) (by decide) (by decide))
    · exact hshut.setMode m
  have hrel := hlit.of_kept (kept_releaseAll (.refl _) (by decide))
  unfold State.relight
  dsimp only
  exact hrel.modScan _

theorem trimMode (h : TrimLeft n t) : TrimLeft n t.trimMode := by
  have hwait : TrimLeft n (t.modPow fun p => { p with shutWait := none }) := h.modPow _ fun _ => rfl
  unfold State.trimMode
  dsimp only
  split
  · exact h
  · split
    · exact (hwait.ev _ _ _ _ _).darkNow _
    · split
      · exact h.darkNow _
      · split
        · exact h.darkNow _
        · exact h.relight _
        · exact h.relight _

end TrimLeft

/-! ### The mode in which TRIM ends -/

theorem darkNow_mode (s : State) (cause : Nat) : (s.darkNow cause).mode = .dark := by
  unfold darkNow
  dsimp only
  split
  next hd =>
    split
    · rw [fs_mode, hd]
    · exact hd
  next => rw [fault_mode, setMode_mode]

theorem relight_mode (s : State) (m : Mode) : (s.relight m).mode = m := by
  have hlit : ∀ u : State, (u.enterLit m).mode = m := fun u => by
    have hrel := (kept_blendRelease (K := (· ≠ .mode)) (fast := true) (.refl (u.setMode m)) nofun nofun nofun nofun).part
    unfold enterLit
    dsimp only
    split
    · exact hrel.trans (setMode_mode u m)
    · exact setMode_mode u m
  have hrel : ∀ u : State, u.releaseAll.mode = u.mode := fun u => (kept_releaseAll (K := (· ≠ .mode)) (.refl u) nofun).part
  unfold relight
  dsimp only
  rw [modScan_mode, hrel, hlit]

/-- Whatever the causes and the request, TRIM is left. -/
theorem trimMode_mode (s : State) : s.trimMode.mode ≠ .trim := by
  unfold trimMode
  dsimp only
  split
  · assumption
  · split
    · rw [darkNow_mode]; decide
    · split
      · rw [darkNow_mode]; decide
      · split
        · rw [darkNow_mode]; decide
        · rw [relight_mode]; decide
        · rw [relight_mode]; decide

/-! ### TRIM_END -/

/-- TRIM_END before register access: the boot record's SERVICE, TWI's bus clear, the pages without a unit and the checks of the ports. -/
def trimBooted (s : State) (freed : Bool) : State :=
  let s := if s.fg PD_BOOT_SVCBOOT = 1 ∧ s.strap 1 0 ≠ 3 then (s.fs SYS_MODE_MODE_REQ 3).settle pgSYS else s
  (s.busClear freed).fixedPages.portsAsked

/-- Register access returns, and the timers start. -/
def trimTimers (s : State) : State :=
  let s := (s.modPow fun p => { p with trimDone := true }).restoreAccess
  let s := s.modFab fun f => { f with wdogAt := s.now }
  { s with field := { s.field with sampleAt := s.now, refreshAt := s.now + 250 * Config.ms } }

theorem trimEnd_eq {s : State} (freed : Bool) (ho : s.trimOver = true) :
    s.trimEnd freed = (s.trimBooted freed).trimTimers.auxStart.trimMode := by
  unfold trimEnd trimBooted trimTimers
  dsimp only
  rw [if_neg (by simp [ho])]

theorem fixedPages_now (s : State) : s.fixedPages.now = s.now := by
  unfold fixedPages
  exact foldl_now _ (fun _ _ => by rw [fs_now, fs_now]) s

theorem enableAsk_now (s : State) (w : Who) (p : Nat) : (s.enableAsk w p).now = s.now := by
  unfold enableAsk
  split <;> rfl

theorem portsAsked_now (s : State) : s.portsAsked.now = s.now := by
  unfold portsAsked
  rw [foldl_now _ fun _ _ => enableAsk_now _ _ _, enableAsk_now]

theorem trimBooted_now (s : State) (freed : Bool) : (s.trimBooted freed).now = s.now := by
  unfold trimBooted
  dsimp only
  rw [portsAsked_now, fixedPages_now, busClear_now]
  split
  · rw [settle_now, fs_now]
  · rfl

theorem restoreAccess_pow (s : State) : s.restoreAccess.pow = s.pow :=
  (kept_restoreAccess (K := (· ≠ .pow)) (.refl s) nofun nofun nofun nofun).part

theorem trimTimers_left (s : State) : TrimLeft s.now s.trimTimers := by
  have hnow : (s.modPow fun p => { p with trimDone := true }).restoreAccess.now = s.now := restoreAccess_now _
  have hpow := restoreAccess_pow (s.modPow fun p => { p with trimDone := true })
  exact ⟨congrArg PowSt.trimDone hpow, restoreAccess_access _, hnow, hnow⟩

theorem trimEnd_left {s : State} (freed : Bool) (ho : s.trimOver = true) : TrimLeft s.now (s.trimEnd freed) := by
  have haux : TrimLeft (s.trimBooted freed).now (s.trimBooted freed).trimTimers.auxStart := (trimTimers_left _).auxStart
  rw [trimEnd_eq freed ho, ← trimBooted_now s freed]
  exact haux.trimMode

end State

/-- Settles O19: three actions leave an event alone, and of the steps of TRIM_END none undoes what an earlier one sets. -/
theorem trimEndActions : Obligations.TrimEndActions := by
  refine ⟨?preset, ?probe, ?image, ?end_⟩
  case preset =>
    intro s hm ht hd
    refine ⟨_, rfl, ?_⟩
    beta_reduce
    rw [State.preset_none (s := s.begin_) (State.inTrim_of hm ht) hd]
    exact State.event_frame rfl rfl _ _ _ _ _
  case probe =>
    intro s ack hm ht hp hd hfew
    obtain ⟨d, hd⟩ := State.sensorProbe_few (s := s.begin_) (State.inTrim_of hm ht) hd hp hfew
    obtain ⟨hpow, hframe⟩ := State.event_frame (State.probeTaken_regs s.begin_ ack.toNat) (State.probeTaken_now _ _) pgTFIELD 0x4018 d
      kInfo 0
    refine ⟨_, rfl, ?_⟩
    beta_reduce
    rw [hd]
    exact ⟨hpow.trans (State.probeTaken_pow _ _), hframe⟩
  case image =>
    intro s im hm ht hp hq hr him
    refine ⟨_, rfl, ?_⟩
    beta_reduce
    rw [State.retention_bad (s := s.begin_) (State.inTrim_of hm ht) hp hq hr him]
    exact State.event_frame rfl rfl _ _ _ _ _
  case end_ =>
    intro s freed ho
    obtain ⟨hdone, haccess, hwdog, hsample⟩ := State.trimEnd_left (s := s.begin_) freed ho
    refine ⟨_, rfl, ?_, hdone, haccess, hwdog, hsample⟩
    rw [State.trimEnd_eq (s := s.begin_) freed ho]
    exact State.trimMode_mode _

end Sys2Proof.Machine

/-! PROOFS. A period that starts and counts as tripped at once: the interlock suppresses an edge of it (R232, R233). -/

namespace Sys2Proof.Machine

/-- Phase 0 runs with half its longest duty, on a grid from grain 0 with zeros every 16,000 grains; LG is still to rise 6,000 grains after
the next zero, as an earlier period left it, and the new period's HG is high there. -/
def lgRisesLate : State :=
  let s : State := { State.reset with sup := { State.reset.sup with
    phases := modAt State.reset.sup.phases 0 fun p => { p with st := 1, next := 4000, edges := [⟨22000, false, true⟩] } } }
  (s.fs (hACTIVE pgPHASE) 1).fs SUP_CFG_LOCK 0

/-- The pins at a zero after which nothing fails and no current turns. -/
def quietZero : PhaseEnv := ⟨none, none, true, true, none⟩

/-- The present period of phase `n` counts as tripped in the next state. -/
def periodTripped (n : Nat) : Ans State → Bool
  | .next t => (t.phase n).trippedNow
  | _ => false

/-- LG's edge would rise under HG: the interlock suppresses it, and the period counts as tripped. -/
theorem lgRisesLate_tripped : periodTripped 0 (exec (.phaseZero 0 quietZero) lgRisesLate) = true := by decide +kernel

/-- Refutes O33: a period that starts without a failure and on its reference can count as tripped from its zero on. An edge that the period
before it left to come meets one of its own, the interlock suppresses the later rise, and R232 counts that period as tripped. -/
theorem not_supplyPhases : ¬ Obligations.SupplyPhases := by
  rintro ⟨-, running, -⟩
  obtain ⟨t, ht, -, -, -, hclean, -⟩ := running lgRisesLate 0 quietZero (by decide) (by decide) (by decide) (by decide) (by decide)
    (by decide) (by decide) (by decide)
  have htripped := lgRisesLate_tripped
  rw [ht] at htripped
  exact Bool.false_ne_true (hclean.symm.trans htripped)

end Sys2Proof.Machine

/-! PROOFS. A rail that starts at a span boundary and stops there again: its budget is short (R226, R235). -/

namespace Sys2Proof.Machine

/-- SHOW with rail A OFF and a start of it waiting: phase 1 is runnable. Phase 0 of the same rail still runs though its page is not ACTIVE,
and one mapped column of stone 0 draws current from the rail. -/
def budgetShortAtStart : State :=
  let s : State := { State.reset with
    mode := .show
    sup := { State.reset.sup with
      rails := modAt State.reset.sup.rails 0 fun r => { r with ask := some 3000 }
      phases := modAt State.reset.sup.phases 0 fun p => { p with st := 1 } } }
  let s := ((s.fs SUP_CFG_PRESENT 1).fs (hACTIVE pgSUPPLY) 1).fs (hACTIVE (pgPHASE + 1)) 1
  let s := ((s.fs (hENABLE pgWIRE) 1).fs (hACTIVE pgWIRE) 1).fs (hENABLE pgSTONE) 1
  (s.fsk WIRE_RJ_EN 0 0 1).fs SCAN_GCUR0_R 100

/-- The state of rail `k` in the next state. -/
def railAfter (k : Nat) : Ans State → Option Nat
  | .next t => some (t.rail k).st
  | _ => none

/-- Phase 0 stops before phase 1 starts: no running phase carries the rail's figure, and the rail enters STOPPING. -/
theorem budgetShortAtStart_stopping : railAfter 0 (exec (.spanBoundary quietSpan) budgetShortAtStart) = some 3 := by decide +kernel

/-- Refutes O34: a rail that enters STARTING at a span boundary can leave it there. The phases that should not run stop when the rail
starts; where none of the rail's phases runs between that stop and the starts, R235 finds the budget short and stops the rail. -/
theorem not_supplyRails : ¬ Obligations.SupplyRails := by
  rintro ⟨-, entering, -⟩
  obtain ⟨t, ht, hstarting, -⟩ := entering budgetShortAtStart 0 3000 quietSpan (by decide) (by decide) (by decide) (by decide) (by decide)
    (by decide) (by decide) (by decide) (by decide) (by decide) (by decide) (by decide)
  have hstopping := budgetShortAtStart_stopping
  rw [ht] at hstopping
  have hst : (t.rail 0).st = 3 := Option.some.inj hstopping
  exact absurd (hstarting.symm.trans hst) (by decide)

end Sys2Proof.Machine

/-! PROOFS. Rails and phases of the supply stage after an operation (Tables 11.2 and 11.3): which of them changes, and what the stops and
the count of a tripped period leave of them. -/

namespace Sys2Proof.Machine

theorem nth_of_length_le {α : Type} {l : List α} {i : Nat} (d : α) (h : l.length ≤ i) : nth l i d = d := by
  simp [nth, List.getElem?_eq_none h]

theorem nth_modAt_ne {α : Type} (l : List α) {i j : Nat} (f : α → α) (d : α) (h : j ≠ i) : nth (modAt l i f) j d = nth l j d := by
  rw [nth, nth, getElem?_modAt_ne l f h]

/-- What a change of one element keeps is kept of every element. -/
theorem nth_modAt_of_keeps {α : Type} {Q : α → Prop} (l : List α) (i j : Nat) {f : α → α} (d : α) (hf : ∀ x, Q x → Q (f x))
    (h : Q (nth l j d)) : Q (nth (modAt l i f) j d) := by
  by_cases hj : j = i
  · subst hj
    by_cases hl : j < l.length
    · rw [nth_modAt f d hl]
      exact hf _ h
    · rw [nth_of_length_le d (by rw [modAt_length]; omega)]
      rwa [nth_of_length_le d (by omega)] at h
  · rwa [nth_modAt_ne l f d hj]

namespace State

theorem phase_modPhase {s : State} {n : Nat} (f : Phase → Phase) (h : n < s.sup.phases.length) :
    (s.modPhase n f).phase n = f (s.phase n) := nth_modAt f _ h

theorem rail_modRail {s : State} {k : Nat} (f : Rail → Rail) (h : k < s.sup.rails.length) : (s.modRail k f).rail k = f (s.rail k) :=
  nth_modAt f _ h

/-- A phase in a state other than STOPPED stands in the list of phases. -/
theorem phase_lt {s : State} {n : Nat} (h : (s.phase n).st ≠ 0) : n < s.sup.phases.length := by
  by_contra hn
  exact h (congrArg Phase.st (nth_of_length_le Phase.reset (Nat.not_lt.mp hn)))

/-- So does a rail in a state other than OFF. -/
theorem rail_lt {s : State} {k : Nat} (h : (s.rail k).st ≠ 0) : k < s.sup.rails.length := by
  by_contra hk
  exact h (congrArg Rail.st (nth_of_length_le Rail.off0 (Nat.not_lt.mp hk)))

theorem settle_sup (s : State) (p : Nat) : (s.settle p).sup = s.sup := by rw [((Loaded.refl s).settle p).all]

theorem showPhase_sup (s : State) (n : Nat) : (s.showPhase n).sup = s.sup := by
  unfold showPhase
  dsimp only
  rw [settle_sup]
  repeat rw [fsi_sup]

theorem haltPhase_rails (s : State) (n st : Nat) : (s.haltPhase n st).sup.rails = s.sup.rails := by
  rw [haltPhase, showPhase_sup]
  rfl

/-! ### One phase and the clock -/

/-- The clock reads `now`, and phase `n` meets `Q`. -/
structure PhaseIs (Q : Phase → Prop) (n now : Nat) (s : State) : Prop where
  now : s.now = now
  phase : Q (s.phase n)

/-- Neither a stop of a phase nor the count of a tripped period breaks `Q`. -/
structure StandsTrips (Q : Phase → Prop) : Prop where
  stop : ∀ (p : Phase) (st : Nat), Q p → Q (p.idle st).gatesLow
  count : ∀ (p : Phase) (l : List Nat), Q p → Q { p with trips := l, trippedNow := true }

namespace PhaseIs

variable {Q : Phase → Prop} {n m now : Nat} {s t : State}

theorem of_eq (h : PhaseIs Q n now s) (hn : t.now = s.now) (hp : t.sup.phases = s.sup.phases) : PhaseIs Q n now t :=
  ⟨hn.trans h.now, by rw [State.phase, hp]; exact h.phase⟩

theorem modPhase (h : PhaseIs Q n now s) (m : Nat) {f : Phase → Phase} (hf : ∀ p, Q p → Q (f p)) : PhaseIs Q n now (s.modPhase m f) :=
  ⟨h.now, nth_modAt_of_keeps _ m n _ hf h.phase⟩

theorem ite {c : Prop} [Decidable c] (h : PhaseIs Q n now s) (k : PhaseIs Q n now t) : PhaseIs Q n now (if c then s else t) := by
  split <;> assumption

theorem fault (h : PhaseIs Q n now s) (p b c d u : Nat) : PhaseIs Q n now (s.fault p b c d u) :=
  h.of_eq (fault_now _ _ _ _ _ _) (by rw [fault_sup])

theorem inc (h : PhaseIs Q n now s) (f : FRef) (i x : Nat) : PhaseIs Q n now (s.inc f i x) := h.of_eq rfl rfl

theorem showPhase (h : PhaseIs Q n now s) (m : Nat) : PhaseIs Q n now (s.showPhase m) :=
  h.of_eq (showPhase_now _ _) (by rw [showPhase_sup])

theorem budget (h : PhaseIs Q n now s) (k : Nat) : PhaseIs Q n now (s.budget k) := by
  have hf := h.fault pgSUPPLY (5 + k) 0x7914 k k
  unfold State.budget
  exact .ite (.ite hf (hf.of_eq rfl rfl)) h

theorem failPhase (h : PhaseIs Q n now s) (hQ : StandsTrips Q) (m st b c : Nat) : PhaseIs Q n now (s.failPhase m st b c) :=
  (((h.modPhase m fun p => hQ.stop p st).showPhase m).fault _ _ _ _ _).budget _

theorem shoot (h : PhaseIs Q n now s) (m : Nat) : PhaseIs Q n now (s.shoot m) := (h.fault _ _ _ _ _).inc _ _ _

theorem tripPeriod (h : PhaseIs Q n now s) (hQ : StandsTrips Q) (m : Nat) : PhaseIs Q n now (s.tripPeriod m) := by
  unfold State.tripPeriod
  extract_lets p recent u v w
  have hu : PhaseIs Q n now u := (h.modPhase m fun p => hQ.count p _).inc _ _ _
  have hv : PhaseIs Q n now v := .ite (hu.fault _ _ _ _ _) (hu.of_eq rfl rfl)
  exact .ite h (.ite ((hv.showPhase m).failPhase hQ _ _ _ _) (hv.showPhase m))

end PhaseIs

/-! ### The zero of a period -/

/-- A stop and a count leave the instant of the last zero. -/
theorem standsTrips_zeroAt (z : Nat) : StandsTrips fun p => p.zeroAt = z := ⟨fun _ _ h => h, fun _ _ h => h⟩

variable {n z now : Nat} {s : State}

theorem placeEdges_zeroAt (h : PhaseIs (fun p => p.zeroAt = z) n now s) (m a b : Nat) (held refNow : Bool) :
    PhaseIs (fun p => p.zeroAt = z) n now (s.placeEdges m a b held refNow) := by
  unfold placeEdges
  extract_lets p v left own all keep
  split
  split
  extract_lets u w
  have hu : PhaseIs (fun p => p.zeroAt = z) n now u := h.modPhase m fun _ hp => hp
  have hw : PhaseIs (fun p => p.zeroAt = z) n now w := .ite (hu.inc _ _ _) hu
  exact .ite hw (.tripPeriod (List.foldlRecOn (motive := PhaseIs (fun p => p.zeroAt = z) n now) _ _ hw fun _ hx y _ => hx.shoot y)
    (standsTrips_zeroAt z) m)

theorem placeEvent_zeroAt (h : PhaseIs (fun p => p.zeroAt = z) n now s) (m a : Nat) :
    PhaseIs (fun p => p.zeroAt = z) n now (s.placeEvent m a) := by
  unfold placeEvent
  extract_lets p at_
  clear_value at_
  cases at_ with
  | none => exact h
  | some t =>
    refine .ite (h.modPhase m fun _ hp => hp) ?_
    extract_lets u
    have hu : PhaseIs (fun p => p.zeroAt = z) n now u := h.modPhase m fun _ hp => hp
    exact .ite (hu.inc _ _ _) hu

theorem deadTimes_keeps (s : State) (n : Nat) (e : PhaseEnv) :
    (s.deadTimes n e).now = s.now ∧ (s.deadTimes n e).sup.phases.length = s.sup.phases.length := by
  unfold deadTimes
  dsimp only
  split <;> exact ⟨rfl, modAt_length _ _ _⟩

/-- The period that starts has its zero where the phase stands. -/
theorem startPeriod_zeroAt (s : State) (n z : Nat) (e : PhaseEnv) (h : n < s.sup.phases.length) :
    PhaseIs (fun p => p.zeroAt = z) n s.now (s.startPeriod n z e) := by
  unfold startPeriod
  extract_lets ref u p cut hold held
  split
  next d full _ =>
    extract_lets refNext v w
    have hu : u.now = s.now ∧ n < u.sup.phases.length := by
      obtain ⟨hnow, hlen⟩ := deadTimes_keeps (if (s.phase n).due then s.takeShadows n else s) n e
      refine ⟨hnow.trans ?_, lt_of_lt_of_eq ?_ hlen.symm⟩
      · split <;> rfl
      · split
        · rwa [takeShadows, State.modPhase, modAt_length]
        · exact h
    have hv : PhaseIs (fun p => p.zeroAt = z) n s.now v := ⟨hu.1, congrArg Phase.zeroAt (phase_modPhase _ hu.2)⟩
    have hw : PhaseIs (fun p => p.zeroAt = z) n s.now w := placeEdges_zeroAt hv _ _ _ _ _
    clear_value v w
    exact .showPhase (.ite hw (placeEvent_zeroAt hw _ _)) n

end State

end Sys2Proof.Machine

/-! PROOFS. Fault bits that are set stay set over the supply's operations and over the entry to DARK (R40, R358), and the rails that a hard
stop puts OFF stay OFF over it (R237). -/

namespace Sys2Proof.Machine

theorem bit_eq_testBit (v i : Nat) : bit v i = v.testBit i := by
  rw [State.bit_eq, Nat.testBit_eq_decide_div_mod_eq]

/-- A register is another than any page's PG_FAULT when its offset is another. -/
theorem regKey_ne_fault {b p o : Nat} (q : Nat) (ho : o % 4096 ≠ 0x014) : regKey b p o ≠ regKey 0 q 0x014 := by
  unfold regKey
  omega

namespace State

/-- Setting bit `b` of a page's PG_FAULT leaves that page's bits with `b` set. -/
theorem faultBit_hasFault (s : State) (p b i : Nat) (hi : i < 32) :
    (s.faultBit p b).hasFault p i = (s.hasFault p i || decide (b = i)) := by
  have hfits : (hFAULT p).fits := ⟨Nat.zero_le _, show 31 < 32 by decide⟩
  rw [hasFault, hasFault, faultBit, fg_fs _ hfits, bit_eq_testBit, bit_eq_testBit]
  exact (Nat.testBit_mod_two_pow _ 32 i).trans (by
    rw [decide_eq_true hi, Bool.true_and]
    exact (Nat.testBit_or _ _ i).trans (by rw [Nat.testBit_two_pow]))

/-- No fault bit of any page clears. -/
def FaultsStand (s t : State) : Prop := ∀ p b, s.hasFault p b = true → t.hasFault p b = true

namespace FaultsStand

variable {s t u : State}

theorem refl (s : State) : FaultsStand s s := fun _ _ h => h

theorem trans (h : FaultsStand s t) (k : FaultsStand t u) : FaultsStand s u := fun p b hb => k p b (h p b hb)

/-- Every page's PG_FAULT reads the same. -/
theorem of_same (h : FaultsStand s t) (k : ∀ q, SameReg q 0x014 t u) : FaultsStand s u := fun p b hb => by
  have hp : u.fg (hFAULT p) = t.fg (hFAULT p) := SameReg.fg (f := hFAULT p) (k p)
  rw [hasFault, hp]
  exact h p b hb

theorem of_regs (h : FaultsStand s t) (hr : u.regs = t.regs) : FaultsStand s u := h.of_same fun q => (SameReg.refl q _ t).of_regs hr

theorem fsi (h : FaultsStand s t) (f : FRef) (i v : Nat) (hf : f.off % 4096 ≠ 0x014 := by decide) : FaultsStand s (t.fsi f i v) :=
  h.of_same fun q => (SameReg.refl q _ t).fsi f i v (regKey_ne_fault q hf)

theorem fs (h : FaultsStand s t) (f : FRef) (v : Nat) (hf : f.off % 4096 ≠ 0x014 := by decide) : FaultsStand s (t.fs f v) :=
  h.of_same fun q => (SameReg.refl q _ t).fs f v (regKey_ne_fault q hf)

theorem ite {c : Prop} [Decidable c] (h : FaultsStand s t) (k : FaultsStand s u) : FaultsStand s (if c then t else u) := by
  split <;> assumption

theorem foldl {α : Type} (l : List α) {f : State → α → State} (hf : ∀ u x, FaultsStand u (f u x)) (h : FaultsStand s t) :
    FaultsStand s (l.foldl f t) :=
  List.foldlRecOn (motive := FaultsStand s) l f h fun u hu x _ => hu.trans (hf u x)

theorem ev (h : FaultsStand s t) (p c d k n : Nat) : FaultsStand s (t.ev p c d k n) :=
  h.of_same fun q => (SameReg.refl q _ t).ev p c d k n (regKey_ne_fault q (by decide))

theorem faultBit (h : FaultsStand s t) (p b : Nat) : FaultsStand s (t.faultBit p b) := h.trans fun q i hi => by
  by_cases hq : q = p
  · subst hq
    have hlt : i < 32 := by
      by_contra hge
      have hv : t.fg (hFAULT q) < 2 ^ i :=
        Nat.lt_of_lt_of_le (bitsOf_lt _ 31 0) (Nat.pow_le_pow_right (by decide) (Nat.not_lt.mp hge))
      rw [hasFault, bit_eq_testBit, Nat.testBit_lt_two_pow hv] at hi
      exact Bool.false_ne_true hi
    rw [faultBit_hasFault _ _ _ _ hlt, hi, Bool.true_or]
  · have hsame : (t.faultBit p b).fg (hFAULT q) = t.fg (hFAULT q) :=
      SameReg.fg (f := hFAULT q) ((SameReg.refl q 0x014 t).fs (hFAULT p) _ (by simp only [regKey, hFAULT]; omega))
    rwa [hasFault, hsame]

theorem fault (h : FaultsStand s t) (p b c d n : Nat) : FaultsStand s (t.fault p b c d n) := by
  have hb := h.faultBit p b
  unfold State.fault
  exact .ite hb (hb.ev _ _ _ _ _)

theorem settle (h : FaultsStand s t) (p : Nat) : FaultsStand s (t.settle p) := by
  have hc : FaultsStand s (((t.pairsOf p).filter (·.agree)).foldl (fun s x => s.setAgree x 0) t) :=
    .foldl _ (fun u _ => (refl u).of_regs rfl) h
  have hm := hc.fs (hMISMATCH p) 0 (by decide : (0x00C : Nat) % 4096 ≠ 0x014)
  unfold State.settle
  exact .ite (.ite (hm.ev _ _ _ _ _) hm) hc

theorem showPhase (h : FaultsStand s t) (n : Nat) : FaultsStand s (t.showPhase n) := by
  unfold State.showPhase
  exact (((((((h.fsi _ _ _).fsi _ _ _).fsi _ _ _).fsi _ _ _).fsi _ _ _).fsi _ _ _).fsi _ _ _).settle _

theorem budget (h : FaultsStand s t) (k : Nat) : FaultsStand s (t.budget k) := by
  have hf := h.fault pgSUPPLY (5 + k) 0x7914 k k
  unfold State.budget
  exact .ite (.ite hf (hf.of_regs rfl)) h

theorem modPhase (h : FaultsStand s t) (n : Nat) (f : Phase → Phase) : FaultsStand s (t.modPhase n f) := h.of_regs rfl

theorem failPhase (h : FaultsStand s t) (n st b c : Nat) : FaultsStand s (t.failPhase n st b c) :=
  (((h.modPhase n _).showPhase n).fault _ _ _ _ _).budget _

theorem leaveService (h : FaultsStand s t) : FaultsStand s t.leaveService := by
  have hsup : ∀ {v : State} (x : SupplySt), FaultsStand s v → FaultsStand s { v with sup := x } := fun _ hv => hv.of_regs rfl
  have hfs := ((h.fs EDGE_OVR_CTRL_EN 0).fs SUP_CFG_MODE 0).fs ME_INJ 0
  have htest := hfs.foldl (List.range 8) (f := fun u n => u.fsi PH_TEST n 0) fun u n => (refl u).fsi PH_TEST n 0
  have hloop := htest.foldl (List.range 4) (f := fun u p => u.fsi LNK_CFG_LPBK p 0) fun u p => (refl u).fsi LNK_CFG_LPBK p 0
  unfold State.leaveService
  exact hsup _ hloop

theorem setMode (h : FaultsStand s t) (m : Mode) : FaultsStand s (t.setMode m) := by
  have hleft : FaultsStand s (if t.mode = .service ∧ m ≠ .service then t.leaveService else t) := .ite h.leaveService h
  have hmode : ∀ {v : State}, FaultsStand s v → FaultsStand s { v with mode := m } := fun hv => hv.of_regs rfl
  exact (((hmode hleft).fs SYS_MODE_MODE_ACT m.code).ev pgSYS 0x0010 m.code kInfo 0).settle pgSYS

theorem darkNow (h : FaultsStand s t) (cause : Nat) : FaultsStand s (t.darkNow cause) := by
  have hlatch : FaultsStand s (t.latchCause cause) := h.fs _ _
  have hdark : ∀ {v : State}, FaultsStand s v → FaultsStand s v.darkActions := fun hv => hv.of_regs rfl
  have hpow : ∀ {v : State} (x : PowSt), FaultsStand s v → FaultsStand s { v with pow := x } := fun _ hv => hv.of_regs rfl
  unfold State.darkNow
  refine .ite (.ite (hlatch.fs _ _) hlatch) ?_
  exact ((hpow _ (hdark ((hlatch.fs _ _).fs _ _))).setMode _).fault _ _ _ _ _

theorem enterDarkFor (h : FaultsStand s t) (p b cause : Nat) : FaultsStand s (t.enterDarkFor p b cause) := by
  have hl : FaultsStand s (t.latchCause cause) := h.fs _ _
  refine .ite h ?_
  unfold State.enterDark
  split
  · exact hl
  · exact hl
  · exact .ite (h.darkNow cause) hl
  · exact h.darkNow cause

end FaultsStand

theorem fault_hasFault (s : State) (p c d u : Nat) {b : Nat} (hb : b < 32) : (s.fault p b c d u).hasFault p b = true := by
  have h : (s.faultBit p b).hasFault p b = true := by rw [faultBit_hasFault _ _ _ _ hb]; simp
  unfold fault
  split
  · exact h
  · exact (FaultsStand.refl _).ev _ _ _ _ _ p b h

/-! ### The rails that a hard stop leaves -/

/-- Every rail is OFF, and pin SFLTN reads `pin`. -/
structure RailsDown (pin : Bool) (s : State) : Prop where
  off : ∀ r ∈ s.sup.rails, r.st = 0
  sfltn : s.sup.sfltn = pin

namespace RailsDown

variable {pin : Bool} {s t : State}

theorem of_eq (h : RailsDown pin s) (hr : t.sup.rails = s.sup.rails) (hs : t.sup.sfltn = s.sup.sfltn) : RailsDown pin t :=
  ⟨hr ▸ h.off, hs.trans h.sfltn⟩

theorem of_sup (h : RailsDown pin s) (hs : t.sup = s.sup) : RailsDown pin t := h.of_eq (by rw [hs]) (by rw [hs])

theorem ite {c : Prop} [Decidable c] (h : RailsDown pin s) (k : RailsDown pin t) : RailsDown pin (if c then s else t) := by
  split <;> assumption

theorem fs (h : RailsDown pin s) (f : FRef) (v : Nat) : RailsDown pin (s.fs f v) := h.of_sup rfl

theorem foldl {α : Type} (l : List α) {f : State → α → State} (hf : ∀ u x, (f u x).sup = u.sup) (h : RailsDown pin s) :
    RailsDown pin (l.foldl f s) := List.foldlRecOn (motive := RailsDown pin) l f h fun u hu x _ => hu.of_sup (hf u x)

theorem leaveService (h : RailsDown pin s) : RailsDown pin s.leaveService := by
  have hphases : ∀ {v : State} (x : List Phase), RailsDown pin v → RailsDown pin { v with sup := { v.sup with phases := x } } :=
    fun _ hv => hv.of_eq rfl rfl
  unfold State.leaveService
  exact hphases _ (.foldl _ (fun _ _ => fsi_sup _ _ _ _) (.foldl _ (fun _ _ => fsi_sup _ _ _ _) (((h.fs _ _).fs _ _).fs _ _)))

theorem setMode (h : RailsDown pin s) (m : Mode) : RailsDown pin (s.setMode m) := by
  have hleft : RailsDown pin (if s.mode = .service ∧ m ≠ .service then s.leaveService else s) := .ite h.leaveService h
  have hmode : ∀ {v : State}, RailsDown pin v → RailsDown pin { v with mode := m } := fun hv => hv.of_sup rfl
  exact (((hmode hleft).fs SYS_MODE_MODE_ACT m.code).of_sup (ev_sup _ pgSYS 0x0010 m.code kInfo 0)).of_sup (settle_sup _ pgSYS)

/-- The entry to DARK turns no rail that is OFF. -/
theorem darkActions (h : RailsDown pin s) : RailsDown pin s.darkActions := by
  refine ⟨fun r hr => ?_, h.sfltn⟩
  obtain ⟨x, hx, rfl⟩ := List.mem_map.mp hr
  rw [Rail.soft, if_neg (by rw [h.off x hx]; decide)]
  exact h.off x hx

theorem darkNow (h : RailsDown pin s) (cause : Nat) : RailsDown pin (s.darkNow cause) := by
  have hlatch : RailsDown pin (s.latchCause cause) := h.fs _ _
  have hpow : ∀ {v : State} (x : PowSt), RailsDown pin v → RailsDown pin { v with pow := x } := fun _ hv => hv.of_sup rfl
  unfold State.darkNow
  refine .ite (.ite (hlatch.fs _ _) hlatch) ?_
  exact ((hpow _ ((hlatch.fs _ _).fs _ _).darkActions).setMode _).of_sup (fault_sup _ _ _ _ _ _)

theorem enterDarkFor (h : RailsDown pin s) (p b cause : Nat) : RailsDown pin (s.enterDarkFor p b cause) := by
  have hl : RailsDown pin (s.latchCause cause) := h.fs _ _
  refine .ite h ?_
  unfold State.enterDark
  split
  · exact hl
  · exact hl
  · exact .ite (h.darkNow cause) hl
  · exact h.darkNow cause

end RailsDown

theorem hardStop_railsDown (s : State) (safe : Bool) : RailsDown s.sup.sfltn (s.hardStop safe) := by
  unfold hardStop
  refine List.foldlRecOn (motive := RailsDown s.sup.sfltn) _ _ ⟨fun r hr => ?_, rfl⟩ fun u hu n _ => hu.of_sup (showPhase_sup u n)
  obtain ⟨x, -, rfl⟩ := List.mem_map.mp hr
  rfl

end State

end Sys2Proof.Machine

/-! PROOFS. The commands of a phase: its zero, a trip, LOAD_ALL, a feedback sample and PH_TEST (R228, R233, R240, R246). -/

namespace Sys2Proof.Machine

/-! ### The zero -/

namespace State

theorem countEvent_keeps (s : State) (n : Nat) : (s.countEvent n).now = s.now ∧ (s.countEvent n).sup = s.sup := by
  unfold countEvent
  split <;> exact ⟨rfl, rfl⟩

/-- The next zero of phase `n` has come, and the event of the period that ends is counted. -/
def atZero (s : State) (n : Nat) : State := (s.begin_.advance (s.nextZero n)).countEvent n

theorem atZero_now (s : State) (n : Nat) : (s.atZero n).now = max s.now (s.nextZero n) := (countEvent_keeps _ n).1

theorem atZero_sup (s : State) (n : Nat) : (s.atZero n).sup = s.sup := (countEvent_keeps _ n).2

theorem atZero_phase (s : State) (n m : Nat) : (s.atZero n).phase m = s.phase m := by rw [phase, atZero_sup, phase]

end State

theorem exec_phaseZero_idle {s : State} {n : Fin 8} (e : PhaseEnv) (ha : s.active (pgPHASE + n.val) = true) (hp : s.powered 10 = true)
    (hh : s.sup.halt = false) (hst : (s.phase n.val).st ≠ 1) :
    ∃ u : State, exec (.phaseZero n e) s = .next u ∧ u.now = max s.now (s.nextZero n.val) := by
  have hrun : (!s.active (pgPHASE + n.val) || !s.powered 10 || s.sup.halt) = false := by rw [ha, hp, hh]; rfl
  have hst' : ((s.atZero n.val).phase n.val).st ≠ 1 := by rwa [State.atZero_phase]
  refine ⟨_, (if_neg (ne_true_of_eq_false hrun)).trans (if_pos hst'), Eq.trans ?_ (s.atZero_now n.val)⟩
  show (if ((s.atZero n.val).phase n.val).due then (s.atZero n.val).takeShadows n.val else s.atZero n.val).now = _
  split <;> rfl

namespace State

/-- The failed run of phase `n` once the period that ends is judged (R234). -/
def failedRun (s : State) (n : Nat) (e : PhaseEnv) : Nat :=
  let p := s.phase n
  if !p.full && decide (160 ≤ 2 * p.d) then (if e.rose && e.fell then 0 else p.failRun + 1) else p.failRun

theorem failedRun_le (s : State) (n : Nat) (e : PhaseEnv) : s.failedRun n e ≤ (s.phase n).failRun + 1 := by
  unfold failedRun
  dsimp only
  split_ifs <;> omega

/-- A running phase at its zero, judged. -/
def judgedAtZero (s : State) (n : Nat) (e : PhaseEnv) : State :=
  (s.atZero n).modPhase n fun p => { p with failRun := (s.atZero n).failedRun n e }

end State

theorem exec_phaseZero_running {s : State} {n : Fin 8} (e : PhaseEnv) (ha : s.active (pgPHASE + n.val) = true)
    (hp : s.powered 10 = true) (hh : s.sup.halt = false) (hst : (s.phase n.val).st = 1) :
    exec (.phaseZero n e) s = .next (if 16 ≤ (s.atZero n.val).failedRun n.val e then (s.judgedAtZero n.val e).failPhase n.val 3 3 0x7913
      else (s.judgedAtZero n.val e).startPeriod n.val (s.nextZero n.val) e) := by
  have hrun : (!s.active (pgPHASE + n.val) || !s.powered 10 || s.sup.halt) = false := by rw [ha, hp, hh]; rfl
  have hst' : ¬((s.atZero n.val).phase n.val).st ≠ 1 := by rw [State.atZero_phase]; exact not_not_intro hst
  exact (if_neg (ne_true_of_eq_false hrun)).trans (if_neg hst')

/-- A zero of an ACTIVE phase with power comes at its instant, and a phase that runs without 16 failures begins anew from it. -/
theorem runs_phaseZero {s : State} {n : Fin 8} (e : PhaseEnv) (ha : s.active (pgPHASE + n.val) = true) (hp : s.powered 10 = true)
    (hh : s.sup.halt = false) : Runs (.phaseZero n e) s fun t => t.now = max s.now (s.nextZero n.val) ∧
      ((s.phase n.val).st = 1 → (s.phase n.val).failRun < 15 → (t.phase n.val).zeroAt = s.nextZero n.val) := by
  by_cases hst : (s.phase n.val).st = 1
  · have hlen : n.val < (s.judgedAtZero n.val e).sup.phases.length := by
      rw [State.judgedAtZero, State.modPhase, modAt_length, State.atZero_sup]
      exact State.phase_lt (by rw [hst]; decide)
    have hnow : (s.judgedAtZero n.val e).now = max s.now (s.nextZero n.val) := s.atZero_now n.val
    have hfail := (s.atZero n.val).failedRun_le n.val e
    rw [State.atZero_phase] at hfail
    refine ⟨_, exec_phaseZero_running e ha hp hh hst, ?_⟩
    split
    next hlong =>
      have hstop : State.PhaseIs (fun _ => True) n.val _ ((s.judgedAtZero n.val e).failPhase n.val 3 3 0x7913) :=
        State.PhaseIs.failPhase ⟨hnow, trivial⟩ ⟨fun _ _ _ => trivial, fun _ _ _ => trivial⟩ _ _ _ _
      exact ⟨hstop.now, fun _ hshort => by omega⟩
    next =>
      have hstart := State.startPeriod_zeroAt (s.judgedAtZero n.val e) n.val (s.nextZero n.val) e hlen
      exact ⟨hstart.now.trans hnow, fun _ _ => hstart.phase⟩
  · obtain ⟨u, hu, hnow⟩ := exec_phaseZero_idle e ha hp hh hst
    exact ⟨u, hu, hnow, fun h => absurd h hst⟩

/-! ### A trip -/

theorem mem_insertEdge {x y : GateEdge} {l : List GateEdge} (h : y ∈ insertEdge x l) : y = x ∨ y ∈ l := by
  induction l with
  | nil => exact .inl (List.mem_singleton.mp h)
  | cons z l ih =>
    unfold insertEdge at h
    split at h
    · exact List.mem_cons.mp h
    · rcases List.mem_cons.mp h with rfl | h
      · exact .inr List.mem_cons_self
      · exact (ih h).imp_right (List.mem_cons_of_mem z)

/-- Sorting adds no edge. -/
theorem mem_of_mem_sortEdges {y : GateEdge} {l : List GateEdge} (h : y ∈ sortEdges l) : y ∈ l :=
  List.foldlRecOn (motive := fun acc => ∀ y ∈ acc, y ∈ l) l _ (fun _ hy => absurd hy List.not_mem_nil)
    (fun _ hacc _ hx _ hy => (mem_insertEdge hy).elim (fun e => e ▸ hx) (hacc _)) y h

/-- Diode emulation adds an edge of LG alone. -/
theorem mem_diodeCut {t : Option Nat} {nz : Nat} {y : GateEdge} {l : List GateEdge} (h : y ∈ diodeCut t nz l) : y ∈ l ∨ y.hs = false := by
  unfold diodeCut at h
  split at h
  · exact .inl h
  · rcases List.mem_append.mp h with h | h
    · exact .inl (List.mem_filter.mp h).1
    · exact .inr (congrArg GateEdge.hs (List.mem_singleton.mp h))

/-- HG stays low while no edge of its own comes. -/
theorem Phase.gates_hg_low {p : Phase} {t : Nat} (h : p.hg = false) (he : ∀ x ∈ p.edges, x.at_ ≤ t → x.hs = false) :
    (p.gates t).hg = false := by
  refine List.foldlRecOn (motive := fun v : GateLv => v.hg = false) _ GateLv.edge h fun v hv x hx => ?_
  obtain ⟨hmem, hat⟩ := List.mem_filter.mp hx
  rw [GateLv.edge, if_neg (by rw [he x hmem (of_decide_eq_true hat)]; decide)]
  exact hv

/-- The end of a pulse leaves HG low at its grain: what comes later is LG's, or a refresh after it. -/
theorem Phase.endPulse_gates (p : Phase) (t : Nat) : ((p.endPulse t).gates t).hg = false := by
  refine Phase.gates_hg_low rfl fun x hx hat => ?_
  rcases mem_diodeCut (mem_of_mem_sortEdges hx) with hmem | hlow
  · rcases List.mem_cons.mp hmem with rfl | hrest
    · rfl
    · split at hrest
      · have hlater : t < x.at_ := of_decide_eq_true (List.mem_filter.mp hrest).2
        omega
      · exact nomatch hrest
  · exact hlow

namespace State

/-- A stop and a count leave HG low that is low. -/
theorem standsTrips_hg_low (t : Nat) : StandsTrips fun p => (p.gates t).hg = false := ⟨fun _ _ _ => rfl, fun _ _ h => h⟩

/-- A period that comes to count as tripped leaves PG_FAULT.TRIP set. -/
theorem tripPeriod_hasFault {s : State} {n : Nat} (hst : (s.phase n).st = 1) (htr : (s.phase n).trippedNow = false) :
    (s.tripPeriod n).hasFault (pgPHASE + n) 1 = true := by
  unfold tripPeriod
  extract_lets p recent u v w
  have hv : v.hasFault (pgPHASE + n) 1 = true :=
    iteInduction (motive := fun x : State => x.hasFault (pgPHASE + n) 1 = true) (fun _ => fault_hasFault _ _ _ _ _ (by decide))
      fun _ => by rw [faultBit_hasFault _ _ _ _ (by decide)]; exact Bool.or_true _
  have hw : w.hasFault (pgPHASE + n) 1 = true := (FaultsStand.refl v).showPhase n _ _ hv
  clear_value v w
  have hidle : ¬(p.trippedNow = true ∨ p.st ≠ 1) :=
    not_or.mpr ⟨ne_true_of_eq_false htr, not_not_intro hst⟩
  rw [if_neg hidle]
  split
  · exact (FaultsStand.refl w).failPhase n 2 2 0x7912 _ _ hw
  · exact hw

/-- Where phase `n` stands `g` grains after its last zero. -/
def atReading (s : State) (n g : Nat) : State := s.begin_.advance ((s.phase n).zeroAt + g)

/-- The pulse of phase `n` ends there. -/
def pulseEnded (s : State) (n g : Nat) : State := (s.atReading n g).modPhase n fun p => p.endPulse (s.atReading n g).now

end State

/-- A reading above the threshold while HG is high, after its blanking, ends the pulse of a running phase and counts its period. -/
theorem runs_trip {s : State} {n : Fin 8} {mv g : Nat} {v : GateLv} (hv : v = (s.phase n.val).gates (max s.now ((s.phase n.val).zeroAt + g)))
    (hhg : v.hg = true) (hleb : v.hgAt + 32 * s.fgi PH_TRIP_LEB n.val ≤ max s.now ((s.phase n.val).zeroAt + g))
    (hthr : s.fgi PH_TRIP_THR n.val < mv) (hst : (s.phase n.val).st = 1) (htr : (s.phase n.val).trippedNow = false) :
    Runs (.trip n ⟨mv, g⟩) s fun t => t.now = max s.now ((s.phase n.val).zeroAt + g) ∧ ((t.phase n.val).gates t.now).hg = false ∧
      t.hasFault (pgPHASE + n.val) 1 = true := by
  subst hv
  have hlen : n.val < (s.atReading n.val g).sup.phases.length := State.phase_lt (s := s) (by rw [hst]; decide)
  have hphase : (s.pulseEnded n.val g).phase n.val = (s.phase n.val).endPulse (s.atReading n.val g).now := State.phase_modPhase _ hlen
  have hlow : State.PhaseIs (fun p => (p.gates (s.atReading n.val g).now).hg = false) n.val (s.atReading n.val g).now
      (s.pulseEnded n.val g) := ⟨rfl, by rw [hphase]; exact Phase.endPulse_gates _ _⟩
  have htrip := hlow.tripPeriod (State.standsTrips_hg_low _) n.val
  refine ⟨(s.pulseEnded n.val g).tripPeriod n.val, if_pos ⟨hst, hhg, hleb, hthr⟩, htrip.now, ?_, State.tripPeriod_hasFault ?_ ?_⟩
  · rw [htrip.now]
    exact htrip.phase
  · rw [hphase]
    exact hst
  · rw [hphase]
    exact htr

/-! ### LOAD_ALL -/

namespace State

/-- Phase `n` is to take its shadows at its next zero when its page is ACTIVE. -/
def markDue (s : State) (n : Nat) : State := if s.active (pgPHASE + n) then s.modPhase n fun p => { p with due := true } else s

theorem loadAll_eq {s : State} (h : s.sup.phases.any (·.due) = false) :
    s.loadAll = (List.range 8).foldl markDue (s.inc SUP_CNT_LOADS 0 1) := if_neg (ne_true_of_eq_false h)

theorem markDue_regs (s : State) (n : Nat) : (s.markDue n).regs = s.regs := by
  unfold markDue
  split <;> rfl

theorem markDue_length (s : State) (n : Nat) : (s.markDue n).sup.phases.length = s.sup.phases.length := by
  unfold markDue
  split
  · exact modAt_length _ _ _
  · rfl

theorem markDue_other (s : State) {n m : Nat} (h : n ≠ m) : (s.markDue m).phase n = s.phase n := by
  unfold markDue
  split
  · exact nth_modAt_ne _ _ _ h
  · rfl

theorem markDue_due {s : State} {n : Nat} (h : n < s.sup.phases.length) (hd : (s.phase n).due = false) :
    ((s.markDue n).phase n).due = s.active (pgPHASE + n) := by
  unfold markDue
  split
  next ha => rw [phase_modPhase _ h, ha]
  next ha => rw [hd, Bool.eq_false_iff.mpr ha]

/-- Of phases none of which was due, the first `m` are due as their pages are ACTIVE, and the others are not. -/
theorem foldl_markDue_due (s : State) (m : Nat) {n : Nat} (h : n < s.sup.phases.length) (hd : (s.phase n).due = false) :
    (((List.range m).foldl markDue s).phase n).due = (decide (n < m) && s.active (pgPHASE + n)) ∧
      ((List.range m).foldl markDue s).regs = s.regs ∧
      ((List.range m).foldl markDue s).sup.phases.length = s.sup.phases.length := by
  induction m with
  | zero => exact ⟨hd.trans (by simp), rfl, rfl⟩
  | succ m ih =>
    obtain ⟨hdue, hregs, hlen⟩ := ih
    rw [List.range_succ, List.foldl_append, List.foldl_cons, List.foldl_nil]
    refine ⟨?_, (markDue_regs _ _).trans hregs, (markDue_length _ _).trans hlen⟩
    by_cases hn : n = m
    · subst hn
      rw [markDue_due (lt_of_lt_of_eq h hlen.symm) (hdue.trans (by simp)), active, fg, hregs]
      simp [active, fg]
    · rw [markDue_other _ hn, hdue, decide_eq_decide.mpr (show n < m ↔ n < m + 1 by omega)]

end State

/-- An accepted LOAD_ALL with no shadow due makes every phase due whose page is ACTIVE. -/
theorem runs_loadAll {s s1 : State} {a : Access} {p o : Nat} {w : Who} {g : Reg}
    (ha : accepted s.begin_ a (regAddr pgSUPPLY LOAD_ALL.off) 1 = some (s1, w, p, o, g)) (hd : s1.sup.phases.any (·.due) = false) :
    Runs (.loadAll a) s fun t =>
      (∀ n < s1.sup.phases.length, n < 8 → (t.phase n).due = s1.active (pgPHASE + n)) ∧ t.outs = doneOuts := by
  have hload : hLoadAll s1 w p o g 1 = .ok ((List.range 8).foldl State.markDue (s1.inc SUP_CNT_LOADS 0 1)) :=
    congrArg Except.ok (State.loadAll_eq hd)
  have houts : ((List.range 8).foldl State.markDue (s1.inc SUP_CNT_LOADS 0 1)).outs = s1.outs :=
    List.foldlRecOn (motive := fun u : State => u.outs = s1.outs) _ _ rfl fun u hu m _ => by
      unfold State.markDue
      split <;> exact hu
  have hdue : ∀ n < s1.sup.phases.length, n < 8 →
      (((List.range 8).foldl State.markDue (s1.inc SUP_CNT_LOADS 0 1)).phase n).due = s1.active (pgPHASE + n) := fun n hn h8 => by
    have hnot : (s1.phase n).due = false := by
      rw [State.phase, nth, List.getElem?_eq_getElem hn]
      exact Bool.eq_false_iff.mpr (List.any_eq_false.mp hd _ (List.getElem_mem hn))
    have hactive : (s1.inc SUP_CNT_LOADS 0 1).active (pgPHASE + n) = s1.active (pgPHASE + n) :=
      ((State.pagesBut.refl [pgSUPPLY] s1).inc SUP_CNT_LOADS 0 1 (by decide) (by decide) (by decide)).active _
        (show 0x91 + n < 256 by omega) (by simp only [pgPHASE, pgSUPPLY, List.mem_singleton]; omega)
    exact (State.foldl_markDue_due (s1.inc SUP_CNT_LOADS 0 1) 8 hn hnot).1.trans (by rw [hactive, decide_eq_true h8, Bool.true_and])
  generalize (List.range 8).foldl State.markDue (s1.inc SUP_CNT_LOADS 0 1) = u at hload houts hdue
  exact Runs.direct rfl ha hload ⟨hdue, done_outs ha houts⟩

/-! ### A feedback sample -/

namespace State

theorem ramp_keeps (s : State) (k : Nat) : (s.ramp k).now = s.now ∧ (s.ramp k).regs = s.regs := by
  unfold ramp
  dsimp only
  split <;> exact ⟨rfl, rfl⟩

/-- The event of phase `n` at `at_` has come, and the reading of rail `k` is shown. -/
def sampleShown (s : State) (k mv n at_ : Nat) : State :=
  let u := ((s.begin_.advance at_).countEvent n).modPhase n fun p => { p with evAt := none }
  if k = 0 then u.fs SUP_VFB_A mv else u.fs SUP_VFB_B mv

theorem sampleShown_now (s : State) (k mv n at_ : Nat) : (s.sampleShown k mv n at_).now = max s.now at_ := by
  unfold sampleShown
  dsimp only
  split <;> exact (countEvent_keeps (s.begin_.advance at_) n).1

theorem sampleShown_reading (s : State) (k mv n at_ : Nat) :
    (if k = 0 then (s.sampleShown k mv n at_).fg SUP_VFB_A else (s.sampleShown k mv n at_).fg SUP_VFB_B) = mv % 2 ^ 16 := by
  unfold sampleShown
  dsimp only
  split
  · exact fg_fs _ ⟨by decide, by decide⟩ _
  · exact fg_fs _ ⟨by decide, by decide⟩ _

/-- The inner loop of rail `k` on the reading, and the duty that the phases of `run` take at their next zeros (R240). -/
def innerLooped (s : State) (k mv n : Nat) (run : List Nat) : State :=
  let x := innerLoop (s.fg SUP_LOOP_KI) (s.fg SUP_LOOP_KP) (s.rail k).integ (s.rail k).vset mv ((s.phase n).per / 2)
  let u := s.modRail k fun r => { r with integ := x.1 }
  if s.fg SUP_CFG_MODE = 0 then run.foldl (fun s n => s.modPhase n fun p => { p with next := x.2 }) u else u

theorem innerLooped_keeps (s : State) (k mv n : Nat) (run : List Nat) :
    (s.innerLooped k mv n run).now = s.now ∧ (s.innerLooped k mv n run).regs = s.regs := by
  unfold innerLooped
  extract_lets x u
  split
  · exact List.foldlRecOn (motive := fun v : State => v.now = s.now ∧ v.regs = s.regs) run _ ⟨rfl, rfl⟩ fun _ hv _ _ => hv
  · exact ⟨rfl, rfl⟩

end State

theorem exec_feedbackSample {s : State} {k : Fin 2} {n at_ : Nat} (mv : Nat) {done : Bool} {l : List Nat}
    (hrun : (s.railPhases k.val fun n => (s.phase n).st == 1) = n :: l) (hev : (s.phase n).evAt = some (at_, done)) :
    exec (.feedbackSample k mv) s = .next (((s.sampleShown k.val mv n at_).ramp k.val).innerLooped k.val mv n (n :: l)) := by
  have hrun' : (s.begin_.railPhases k.val fun n => (s.begin_.phase n).st == 1) = n :: l := hrun
  have hev' : (s.begin_.phase n).evAt = some (at_, done) := hev
  show execFeedbackSample k mv s = _
  unfold execFeedbackSample
  dsimp only
  rw [hrun', List.head?_cons, Option.bind_some, hev']
  rfl

/-- The sample at the event of a rail's lowest running phase takes its instant and shows the reading. -/
theorem runs_feedbackSample {s : State} {k : Fin 2} {mv n at_ : Nat} {done : Bool} {l : List Nat}
    (hrun : (s.railPhases k.val fun n => (s.phase n).st == 1) = n :: l) (hev : (s.phase n).evAt = some (at_, done)) :
    Runs (.feedbackSample k mv) s fun t => t.now = max s.now at_ ∧
      (if k.val = 0 then t.fg SUP_VFB_A else t.fg SUP_VFB_B) = mv % 2 ^ 16 := by
  obtain ⟨hlnow, hlregs⟩ := ((s.sampleShown k.val mv n at_).ramp k.val).innerLooped_keeps k.val mv n (n :: l)
  obtain ⟨hrnow, hrregs⟩ := (s.sampleShown k.val mv n at_).ramp_keeps k.val
  refine ⟨_, exec_feedbackSample mv hrun hev, hlnow.trans (hrnow.trans (s.sampleShown_now k.val mv n at_)), ?_⟩
  rw [State.fg, State.fg, hlregs, hrregs]
  exact s.sampleShown_reading k.val mv n at_

/-! ### PH_TEST -/

namespace State

/-- Gates forced to levels that are not both high have them while the stage and its power are there, and are low without. -/
theorem forceGates_gates {s : State} {n : Nat} {hg lg : Bool} (t : Nat) (h : n < s.sup.phases.length) (hboth : (hg && lg) = false) :
    (((s.forceGates n hg lg).phase n).gates t).hg = (s.supPresent && s.powered 10 && hg) ∧
      (((s.forceGates n hg lg).phase n).gates t).lg = (s.supPresent && s.powered 10 && lg) := by
  unfold forceGates
  dsimp only
  split
  next hoff =>
    have hon : (s.supPresent && s.powered 10) = false := by
      revert hoff
      cases s.supPresent <;> cases s.powered 10 <;> decide
    rw [phase_modPhase _ h, hon]
    exact ⟨rfl, rfl⟩
  next hon =>
    have hon' : (s.supPresent && s.powered 10) = true := by simpa using hon
    rw [if_neg (ne_true_of_eq_false hboth), phase_modPhase _ h, hon']
    exact ⟨rfl, rfl⟩

end State

/-- PH_TEST in SERVICE with the supply disabled drives the gates named, which stay low without the stage or its power. -/
theorem runs_phTest {s s1 : State} {a : Access} {n : Fin 8} {v : Word} {p o : Nat} {w : Who} {g : Reg}
    (ha : accepted s.begin_ a (regAddr (pgPHASE + n.val) PH_TEST.off) v.toNat = some (s1, w, p, o, g)) (hm : s1.mode = .service)
    (he : enabledR s1.regs pgSUPPLY = false) (hboth : (bit v.toNat 0 && bit v.toNat 1 && bit v.toNat 2) = false)
    (hn : n.val < s1.sup.phases.length) :
    Runs (.phTest a n v) s fun t =>
      ((t.phase n.val).gates t.now).hg = (s1.supPresent && s1.powered 10 && bit v.toNat 0 && bit v.toNat 1) ∧
      ((t.phase n.val).gates t.now).lg = (s1.supPresent && s1.powered 10 && bit v.toNat 0 && bit v.toNat 2) := by
  have hpg : pgPHASE + n.val < 256 := show 0x91 + n.val < 256 by omega
  obtain ⟨rfl, rfl⟩ := accepted_reg hpg (by decide) ha
  have hstored : State.pagesBut [pgPHASE + n.val] s1 (storeReg s1 w (pgPHASE + n.val) PH_TEST.off g v.toNat) :=
    (State.pagesBut.refl _ s1).put _ hpg (by decide) (List.mem_singleton.mpr rfl)
  have hpresent : (storeReg s1 w (pgPHASE + n.val) PH_TEST.off g v.toNat).supPresent = s1.supPresent := by
    unfold State.supPresent
    rw [hstored.fg SUP_CFG_PRESENT (by decide) (by decide) (by simp only [SUP_CFG_PRESENT, pgPHASE, List.mem_singleton]; omega)]
  have hpower : (storeReg s1 w (pgPHASE + n.val) PH_TEST.off g v.toNat).powered 10 = s1.powered 10 := by
    unfold State.powered
    rw [hstored.fg PD_ACT_DOM (by decide) (by decide) (by simp only [PD_ACT_DOM, pgPHASE, List.mem_singleton]; omega)]
  have hok : hPhTest s1 w (pgPHASE + n.val) PH_TEST.off g v.toNat = .ok ((storeReg s1 w (pgPHASE + n.val) PH_TEST.off g v.toNat).forceGates
      n.val (bit v.toNat 0 && bit v.toNat 1) (bit v.toNat 0 && bit v.toNat 2)) := by
    unfold hPhTest
    rw [if_neg (by simp [hm, he]), Nat.add_sub_cancel_left]
  have hlow : (bit v.toNat 0 && bit v.toNat 1 && (bit v.toNat 0 && bit v.toNat 2)) = false := by
    revert hboth
    cases bit v.toNat 0 <;> simp
  have hgates := fun t => State.forceGates_gates (s := storeReg s1 w (pgPHASE + n.val) PH_TEST.off g v.toNat) t hn hlow
  rw [hpresent, hpower] at hgates
  refine Runs.direct rfl ha hok ?_
  rw [Bool.and_assoc _ (bit v.toNat 0), Bool.and_assoc _ (bit v.toNat 0)]
  exact hgates _

end Sys2Proof.Machine

/-! PROOFS. The commands of a rail, SFLTN, the over- and under-voltage and the AUX outputs (Table 11.2, R236 to R238, R247). -/

namespace Sys2Proof.Machine

theorem State.ev_rail (s : State) (p c d i u k : Nat) : (s.ev p c d i u).rail k = s.rail k := by
  unfold State.rail
  rw [ev_sup]

theorem runs_railStart {s : State} {k : Fin 2} (mv : Nat) (hs : s.startsFrom k.val = true) (hk : k.val < s.sup.rails.length) :
    Runs (.railStart k mv) s fun t => (t.rail k.val).ask = some mv :=
  ⟨s.begin_.modRail k.val fun r => { r with ask := some mv }, congrArg _ (if_pos hs),
    congrArg Rail.ask (State.rail_modRail (s := s.begin_) _ hk)⟩

theorem runs_railRunning {s : State} {k : Fin 2} {mv : Nat} (hst : (s.rail k.val).st = 1)
    (hlow : mv ≤ (railCfg s.regs k.val).vmin * 10 + 50) (hhigh : (railCfg s.regs k.val).vmin * 10 ≤ mv + 50) :
    Runs (.railRunning k mv) s fun t => (t.rail k.val).st = 2 := by
  have hk : k.val < s.begin_.sup.rails.length := State.rail_lt (s := s) (by rw [hst]; decide)
  exact ⟨_, if_pos ⟨hst, hlow, hhigh⟩, congrArg Rail.st ((State.ev_rail _ _ _ _ _ _ _).trans (State.rail_modRail _ hk))⟩

/-- Rail `k` has been in STARTING for 100 ms: the fault of Table 11.2. -/
def State.startExpired (s : State) (k : Nat) : State :=
  (s.begin_.advance ((s.rail k).since + 100 * Config.ms)).fault pgSUPPLY (7 + k) 0x7918 k k

theorem runs_startTimeout {s : State} {k : Fin 2} (hst : (s.rail k.val).st = 1) :
    Runs (.startTimeout k) s fun t => (t.rail k.val).st = 3 ∧ t.hasFault pgSUPPLY (7 + k.val) = true := by
  have hk : k.val < (s.startExpired k.val).sup.rails.length := by
    rw [State.startExpired, State.fault_sup]
    exact State.rail_lt (s := s) (by rw [hst]; decide)
  have hfault : (s.startExpired k.val).hasFault pgSUPPLY (7 + k.val) = true := State.fault_hasFault _ _ _ _ _ (by omega)
  exact ⟨_, if_pos hst, congrArg Rail.st (State.rail_modRail (s := s.startExpired k.val) _ hk), hfault⟩

/-- A rail that enters OFF is OFF once its phases are halted. -/
theorem State.railOff_st {s : State} {k : Nat} (hk : k < s.sup.rails.length) : ((s.railOff k).rail k).st = 0 := by
  unfold State.railOff
  extract_lets u
  have hu : u.sup.rails = s.sup.rails :=
    List.foldlRecOn (motive := fun v : State => v.sup.rails = s.sup.rails) _ _ rfl fun v hv n _ => (v.haltPhase_rails n 0).trans hv
  rw [rail_modRail _ (by rwa [hu])]
  rfl

theorem runs_railOff {s : State} {k : Fin 2} (mv : Nat) (hst : (s.rail k.val).st = 3) :
    Runs (.railOff k mv) s fun t => (t.rail k.val).st = 0 := by
  obtain ⟨u, hu⟩ : ∃ u, u = if mv < 300 then s.begin_ else s.begin_.advance ((s.rail k.val).since + 50 * Config.ms) := ⟨_, rfl⟩
  have hsup : u.sup = s.sup := by rw [hu]; split <;> rfl
  have hk : k.val < u.sup.rails.length := by rw [hsup]; exact State.rail_lt (by rw [hst]; decide)
  refine ⟨(u.railOff k.val).ev pgSUPPLY 0x0911 k.val kInfo k.val, ?_, ?_⟩
  · rw [hu]
    exact if_pos hst
  · exact (congrArg Rail.st (State.ev_rail _ _ _ _ _ _ _)).trans (State.railOff_st hk)

theorem runs_sfltn (s : State) : Runs .sfltn s fun t => t.sup.sfltn = false ∧ ∀ r ∈ t.sup.rails, r.st = 0 := by
  have hdown := State.hardStop_railsDown { s.begin_ with sup := { s.begin_.sup with sfltn := false } } false
  have hdark := (hdown.of_sup (State.fault_sup _ pgSUPPLY 0 0x7917 0 0)).enterDarkFor pgSUPPLY 0 5
  exact ⟨_, rfl, hdark.sfltn, hdark.off⟩

theorem runs_overVoltage {s : State} {k : Fin 2} {fb : Nat} (h : 10 * ((railCfg s.regs k.val).vmax + s.fg SUP_PROT_OVM) < 8 * fb) :
    Runs (.overVoltage k fb) s fun t => (∀ r ∈ t.sup.rails, r.st = 0) ∧ t.hasFault pgSUPPLY (1 + k.val) = true := by
  have hdown := (s.begin_.hardStop_railsDown false).of_sup (State.fault_sup _ pgSUPPLY (1 + k.val) 0x7915 k.val k.val)
  refine ⟨_, if_pos h, (hdown.enterDarkFor pgSUPPLY (1 + k.val) 5).off, ?_⟩
  exact (State.FaultsStand.refl _).enterDarkFor pgSUPPLY (1 + k.val) 5 _ _ (State.fault_hasFault _ _ _ _ _ (by omega))

theorem runs_underVoltage {s : State} {k : Fin 2} {fb : Nat} (hst : (s.rail k.val).st = 2)
    (h : 8 * fb + 10 * s.fg SUP_PROT_UVM < 10 * (railCfg s.regs k.val).vmin) :
    Runs (.underVoltage k fb) s fun t => t.hasFault pgSUPPLY (3 + k.val) = true :=
  ⟨_, if_pos ⟨hst, h⟩, State.fault_hasFault _ _ _ _ _ (by omega)⟩

theorem runs_auxPeriod {s : State} (hp : s.powered 10 = true) (ht : s.mode ≠ .trim) (hs : s.mode ≠ .sleep) :
    Runs .auxPeriod s fun t => t.now = max s.now (s.sup.auxAt + 640000) ∧
      t.sup.aux = [auxLen (s.fg AUX_CMP0_CMP), auxLen (s.fg AUX_CMP1_CMP)] := by
  have hon : (s.powered 10 && s.mode != .trim && s.mode != .sleep) = true := by simp [hp, ht, hs]
  exact ⟨(s.begin_.advance (s.sup.auxAt + 640000)).auxStart, congrArg _ (if_pos hon), rfl, rfl⟩

end Sys2Proof.Machine

/-! PROOFS. Self-trim and its journal complete (R251 to R259). -/

namespace Sys2Proof.Machine

theorem runs_selfTrim {s : State} (hm : s.mode = .trim) (ha : s.trim.active = false) :
    Runs .selfTrim s fun t => t.trim.active = true :=
  ⟨_, if_neg (not_or.mpr ⟨not_not_intro hm, ne_true_of_eq_false ha⟩), rfl⟩

namespace State

/-- Running values change neither the bins nor whether the measurements run. -/
theorem loadTrim_keeps (s : State) (x : BinVal × Nat × Nat × Nat) :
    (s.loadTrim x).trim = { s.trim with run := some x.1, next := none } ∧ SameReg pgTRIM 0x00C s (s.loadTrim x) := by
  refine ⟨rfl, ?_⟩
  have hrun : SameReg pgTRIM 0x00C s (s.modTrim fun t => { t with run := some x.1, next := none }) := .of_regs (.refl _ _ s) rfl
  have hinterp := ((hrun.fs TRIM_INTERP_BIN_LO x.2.1).fs TRIM_INTERP_BIN_HI x.2.2.1).fs TRIM_INTERP_FRAC x.2.2.2
  exact (((hinterp.fs EDGE_STAT_BIN_LO x.2.1).fs EDGE_STAT_BIN_HI x.2.2.1).fs EDGE_STAT_FRAC x.2.2.2).fs EDGE_STAT_TAPCAL 1

/-- What a passed self-trim shows and keeps before the running values are loaded (R252, R253, R257). -/
def trimPassed (s : State) (v : BinVal) : State :=
  let b := binOf v.tm
  let bins := modAt s.trim.bins b fun _ => some v
  let u := (s.fs (hSTATPAGE pgTRIM) 3).showDie v.tm
  let u := (u.fs TRIM_BINS_NOW b).fs TRIM_BINS_MEAS (sumNat (bins.zipIdx.map fun x => b2n x.1.isSome * 2 ^ x.2))
  u.modTrim fun t => { t with active := false, bins := bins, wanted := if moved (nth s.trim.bins b none) v then some ⟨0, bins⟩ else none }

theorem trimPassed_stat (s : State) (v : BinVal) : (s.trimPassed v).fg (hSTATPAGE pgTRIM) = 3 := by
  have hshow : SameReg pgTRIM 0x00C (s.fs (hSTATPAGE pgTRIM) 3) (s.trimPassed v) := by
    unfold trimPassed
    extract_lets b bins u u'
    have hdie : SameReg pgTRIM 0x00C (s.fs (hSTATPAGE pgTRIM) 3) u := ((SameReg.refl _ _ _).fs TRIM_DIE_TEMP _).fs TRIM_DIE_BIN _
    have hbins : SameReg pgTRIM 0x00C (s.fs (hSTATPAGE pgTRIM) 3) u' := (hdie.fs TRIM_BINS_NOW _).fs TRIM_BINS_MEAS _
    exact hbins.of_regs (modTrim_regs _ _)
  have hfits : (hSTATPAGE pgTRIM).fits := ⟨show 16 ≤ 31 by decide, show 31 < 32 by decide⟩
  have hset : (s.fs (hSTATPAGE pgTRIM) 3).fg (hSTATPAGE pgTRIM) = 3 % 2 ^ (31 + 1 - 16) := fg_fs _ hfits 3
  exact (SameReg.fg (f := hSTATPAGE pgTRIM) hshow).trans hset

/-- What a passed self-trim leaves: running values where the bins give them (R254). -/
def trimEnded (s : State) (v : BinVal) : State :=
  match runAt (modAt s.trim.bins (binOf v.tm) fun _ => some v) v.tm with
  | some x => (s.trimPassed v).loadTrim x
  | none => s.trimPassed v

theorem trimEnded_stat (s : State) (v : BinVal) : (s.trimEnded v).fg (hSTATPAGE pgTRIM) = 3 := by
  unfold trimEnded
  split
  next x _ => exact (SameReg.fg (f := hSTATPAGE pgTRIM) ((s.trimPassed v).loadTrim_keeps x).2).trans (s.trimPassed_stat v)
  next => exact s.trimPassed_stat v

theorem trimEnded_trim (s : State) (v : BinVal) :
    (s.trimEnded v).trim.active = false ∧ (s.trimEnded v).trim.bins = modAt s.trim.bins (binOf v.tm) fun _ => some v := by
  unfold trimEnded
  split <;> exact ⟨rfl, rfl⟩

end State

/-- Values in range end the measurements with PASS and stand in the bin of their temperature. -/
theorem runs_trimResult {s : State} {m : TrimMeas} {v : BinVal} (ha : s.trim.active = true) (hv : trimValues m = some v) :
    Runs (.trimResult (some m)) s fun t => t.trim.active = false ∧ t.fg (hSTATPAGE pgTRIM) = 3 ∧
      t.trim.bins = modAt s.trim.bins (binOf v.tm) (fun _ => some v) := by
  have hon : ¬(!s.begin_.trim.active) = true := by rw [State.begin_trim, ha]; decide
  have hval : (some m).bind trimValues = some v := hv
  obtain ⟨hactive, hbins⟩ := s.begin_.trimEnded_trim v
  refine ⟨(s.begin_.trimEnded v).ev pgTRIM 0x0A10 (binOf v.tm) kInfo 0, ?_, ?_, ?_, ?_⟩
  · show execTrimResult (some m) s = _
    unfold execTrimResult
    dsimp only
    rw [if_neg hon, hval]
    rfl
  · rw [State.ev_trim, hactive]
  · exact (State.SameReg.fg (f := hSTATPAGE pgTRIM) ((State.SameReg.refl _ _ _).ev _ _ _ _ _)).trans (s.begin_.trimEnded_stat v)
  · rw [State.ev_trim, hbins]
    rfl

/-- A wanted record goes to its block when nothing forbids a non-volatile write. -/
theorem runs_journalWrite {s : State} {r : JRec} (hw : s.trim.wanted = some r) (hm : s.mode ≠ .trim) (hn : s.trim.writing = none)
    (hv : s.pow.vddLow = false) (hsh : s.pow.shut = false) (hd : s.dieNow ≤ 1840) :
    Runs .journalWrite s fun t => t.trim.wanted = none ∧ t.trim.writing.isSome = true := by
  have hmay : ¬(s.begin_.mode = .trim ∨ s.trim.writing.isSome = true ∨ s.begin_.pow.vddLow = true ∨ s.begin_.pow.shut = true) := by
    simp [hm, hn, hv, hsh]
  have hcool : ¬1840 < s.begin_.dieNow := Int.not_lt.mpr hd
  show ∃ t, execJournalWrite s = .next t ∧ _
  unfold execJournalWrite
  dsimp only
  rw [State.begin_trim, hw]
  dsimp only
  rw [if_neg hmay, if_neg hcool]
  exact ⟨_, rfl, rfl, rfl⟩

/-- The record under way is committed, and its block is the one in use. -/
theorem runs_journalCommit {s : State} {r : JRec} {b : Nat} (hw : s.trim.writing = some (b, r)) :
    Runs .journalCommit s fun t => t.trim.used = some b ∧ t.trim.writing = none := by
  show ∃ t, execJournalCommit s = .next t ∧ _
  unfold execJournalCommit
  dsimp only
  rw [State.begin_trim, hw]
  refine ⟨_, rfl, ?_, ?_⟩ <;> rw [State.ev_trim] <;> rfl

/-- A record without values is wanted, or noted while a record is written (R259, Table 12.5). -/
def State.forgetWanted (s : State) : State := s.modTrim fun t =>
  if t.writing.isSome then { t with forget := true } else { t with wanted := some ⟨0, List.replicate 5 none⟩ }

/-- FORGET of T0 in SERVICE wants an empty record, at once or after the write under way. -/
theorem runs_forget {s s1 : State} {a : Access} {p o : Nat} {w : Who} {g : Reg}
    (ha : accepted s.begin_ a (regAddr pgTRIM TRIM_CMD.off) 1 = some (s1, w, p, o, g)) (hw : w.isT0 = true) (hm : s1.mode = .service)
    (hd : s1.dieNow ≤ 1840) : Runs (.forget a) s fun t => t.outs = doneOuts ∧
      (if s1.trim.writing.isSome = true then t.trim.forget else t.trim.wanted.isSome) = true := by
  have hok : hTrimCmd s1 w p o g 1 = .ok s1.forgetWanted := by
    unfold hTrimCmd
    rw [hw, if_neg (by decide), if_neg (not_not_intro hm), if_neg (Int.not_lt.mpr hd)]
    rfl
  refine Runs.direct rfl ha hok ⟨done_outs ha rfl, ?_⟩
  show (if s1.trim.writing.isSome = true then s1.forgetWanted.trim.forget else s1.forgetWanted.trim.wanted.isSome) = true
  unfold State.forgetWanted
  split
  next hw => exact congrArg TrimSt.forget (if_pos hw)
  next hw => exact congrArg (fun t : TrimSt => t.wanted.isSome) (if_neg hw)

/-- Settles O56: each command by the lemma of its operation. -/
theorem supplyAndTrimComplete : Obligations.SupplyAndTrimComplete :=
  ⟨fun _ _ e => runs_phaseZero e, fun _ _ _ _ _ _ _ => runs_loadAll, fun _ _ _ _ _ => runs_trip,
    fun _ _ _ _ _ _ _ => runs_feedbackSample, fun _ _ _ _ _ _ _ _ _ => runs_phTest, fun _ _ mv => runs_railStart mv,
    fun _ _ _ => runs_railRunning, fun _ _ => runs_startTimeout, fun _ _ mv => runs_railOff mv, runs_sfltn, fun _ => ⟨_, rfl, rfl⟩,
    fun _ _ _ => runs_overVoltage, fun _ _ _ => runs_underVoltage, fun _ => runs_auxPeriod, fun _ => runs_selfTrim,
    fun _ _ _ => runs_trimResult, fun _ _ => runs_journalWrite, fun _ _ _ h _ => runs_journalCommit h,
    fun _ _ _ _ _ _ _ => runs_forget⟩

end Sys2Proof.Machine

/-! PROOFS. The entry to DARK from TRIM (R252, R358): the cause that it records, and what it keeps. -/

namespace Sys2Proof.Machine

namespace State

/-- Settling page `q` changes its MISMATCH and, by its event, FLT_LAST. -/
theorem SameReg.settle {p o : Nat} {s t : State} (h : SameReg p o s t) (q : Nat) (hq : regKey 0 q 0x00C ≠ regKey 0 p o := by decide)
    (hk : regKey 0 pgFAULT FLT_LAST.off ≠ regKey 0 p o := by decide) : SameReg p o s (t.settle q) := by
  have hcounts : SameReg p o s (((t.pairsOf q).filter (·.agree)).foldl (fun s x => s.setAgree x 0) t) :=
    .foldl _ (fun u _ => (refl p o u).of_regs rfl) h
  have hclear := hcounts.fs (hMISMATCH q) 0 hq
  unfold State.settle
  exact .ite (.ite (hclear.ev _ _ _ _ _ hk) hclear) hcounts

/-- A mode put in force from a mode other than SERVICE leaves FLT_ENTRY alone. -/
theorem setMode_keeps_entry {s : State} (m : Mode) (hm : s.mode ≠ .service) : SameReg pgFAULT FLT_ENTRY.off s (s.setMode m) := by
  have hmode : SameReg pgFAULT FLT_ENTRY.off s { s with mode := m } := .of_regs (.refl _ _ s) rfl
  unfold setMode
  rw [if_neg fun h => hm h.1]
  exact ((hmode.fs SYS_MODE_MODE_ACT m.code).ev pgSYS 0x0010 m.code kInfo 0).settle pgSYS

/-- What an entry to DARK records and stops before the mode changes (R358). -/
def darkRecorded (s : State) (cause : Nat) : State :=
  let u := s.latchCause cause
  let u := ((u.fs FLT_ENTRY_CAUSE cause).fs FLT_ENTRY_DCN (u.dcn % 2 ^ 16)).darkActions
  u.modPow fun p => { p with darkAt := u.now, req := p.req.filter (·.1 == 0) }

theorem darkActions_mode (s : State) : s.darkActions.mode = s.mode := rfl

theorem darkActions_pow (s : State) : s.darkActions.pow = s.pow := rfl

theorem darkActions_fg (s : State) (f : FRef) : s.darkActions.fg f = s.fg f := rfl

theorem darkRecorded_mode (s : State) (cause : Nat) : (s.darkRecorded cause).mode = s.mode := by
  unfold darkRecorded latchCause
  rw [modPow_mode, darkActions_mode, fs_mode, fs_mode, fs_mode]

theorem darkRecorded_trimFail (s : State) (cause : Nat) : (s.darkRecorded cause).pow.trimFail = s.pow.trimFail := by
  unfold darkRecorded latchCause
  rw [modPow_pow, darkActions_pow, fs_pow, fs_pow, fs_pow]

theorem darkRecorded_entryCause (s : State) {cause : Nat} (hc : cause < 16) : (s.darkRecorded cause).fg FLT_ENTRY_CAUSE = cause := by
  unfold darkRecorded
  rw [modPow_fg, darkActions_fg, fg_fs_apart _ _ (by decide), fg_fs _ ⟨by decide, by decide⟩]
  exact Nat.mod_eq_of_lt hc

/-- From a mode other than DARK, the entry is recorded, then DARK is in force, then FAULT has its bit. -/
theorem darkNow_eq {s : State} (cause : Nat) (hd : s.mode ≠ .dark) :
    s.darkNow cause = ((s.darkRecorded cause).setMode .dark).fault pgFAULT 0 0x7010 cause 0 := if_neg hd

/-- An entry to DARK that leaves another mode than SERVICE records its cause. -/
theorem darkNow_entryCause {s : State} {cause : Nat} (hd : s.mode ≠ .dark) (hm : s.mode ≠ .service) (hc : cause < 16) :
    (s.darkNow cause).fg FLT_ENTRY_CAUSE = cause := by
  have hleft : (s.darkRecorded cause).mode ≠ .service := by rwa [darkRecorded_mode]
  have hentry := (setMode_keeps_entry .dark hleft).fault pgFAULT 0 0x7010 cause 0
  rw [darkNow_eq cause hd]
  exact (SameReg.fg (f := FLT_ENTRY_CAUSE) hentry).trans (s.darkRecorded_entryCause hc)

/-- Whether self-trim failed is no matter of the entry to DARK. -/
theorem darkNow_trimFail {s : State} (cause : Nat) (hd : s.mode ≠ .dark) : (s.darkNow cause).pow.trimFail = s.pow.trimFail := by
  rw [darkNow_eq cause hd, fault_pow, setMode_pow, darkRecorded_trimFail]

theorem darkNow_trim (s : State) (cause : Nat) : (s.darkNow cause).trim = s.trim :=
  (kept_darkNow (K := (· ≠ .trim)) (.refl s) nofun nofun nofun nofun nofun nofun nofun).part

/-- A failed self-trim is one of the causes that enter DARK from TRIM (Table 17.2). -/
theorem enterDark_of_trim {s : State} (hm : s.mode = .trim) : s.enterDark 1 = s.darkNow 1 := by
  unfold enterDark
  rw [hm]
  rfl

end State

end Sys2Proof.Machine

/-! PROOFS. Self-trim: its start with the journal's load, its failure and its pass (R251 to R256). -/

namespace Sys2Proof.Machine

namespace State

/-- An event of any family but 7 writes no register. -/
theorem ev_regs (s : State) (p d k u : Nat) {c : Nat} (hc : c / 2 ^ 12 ≠ 7) : (s.ev p c d k u).regs = s.regs := s.evTo_regs _ p d k u hc

/-- From `s` to `t` no more has changed than registers, event queues and the state of self-trim. -/
structure TrimOnly (s t : State) : Prop where
  all : t = { s with regs := t.regs, tens := t.tens, trim := t.trim }

namespace TrimOnly

variable {s t u : State}

theorem refl (s : State) : TrimOnly s s := ⟨rfl⟩

theorem trans (h : TrimOnly s t) (k : TrimOnly t u) : TrimOnly s u := ⟨by
  rw [k.all]
  conv_lhs => rw [h.all]⟩

theorem now (h : TrimOnly s t) : t.now = s.now := by rw [h.all]

theorem mode (h : TrimOnly s t) : t.mode = s.mode := by rw [h.all]

theorem fs (h : TrimOnly s t) (f : FRef) (v : Nat) : TrimOnly s (t.fs f v) := h.trans ⟨rfl⟩

theorem modTrim (h : TrimOnly s t) (f : TrimSt → TrimSt) : TrimOnly s (t.modTrim f) := h.trans ⟨rfl⟩

theorem ite {c : Prop} [Decidable c] (h : TrimOnly s t) (k : TrimOnly s u) : TrimOnly s (if c then t else u) := by
  split <;> assumption

theorem modTens (h : TrimOnly s t) (l : List Ten) : TrimOnly s { t with tens := l } := h.trans ⟨rfl⟩

theorem ev (h : TrimOnly s t) (p c d k n : Nat) : TrimOnly s (t.ev p c d k n) :=
  (ite ((h.fs FLT_LAST_CODE c).fs FLT_LAST_DETAIL d) h).modTens _

theorem loadTrim (h : TrimOnly s t) (x : BinVal × Nat × Nat × Nat) : TrimOnly s (t.loadTrim x) := by
  have hinterp := (((h.modTrim fun t => { t with run := some x.1, next := none }).fs TRIM_INTERP_BIN_LO x.2.1).fs
    TRIM_INTERP_BIN_HI x.2.2.1).fs TRIM_INTERP_FRAC x.2.2.2
  exact (((hinterp.fs EDGE_STAT_BIN_LO x.2.1).fs EDGE_STAT_BIN_HI x.2.2.1).fs EDGE_STAT_FRAC x.2.2.2).fs EDGE_STAT_TAPCAL 1

end TrimOnly

/-! ### The start -/

/-- The journal block that the load uses, and its record (R256). -/
def journalUsed (s : State) : Option (Nat × JRec) := match nth s.trim.blocks 0 none, nth s.trim.blocks 1 none with
  | some x, some y => if dcnFuture y.seq x.seq then some (1, y) else some (0, x)
  | some x, none => some (0, x)
  | none, some y => some (1, y)
  | none, none => none

/-- The load tells of the blocks it ignores. -/
def blocksTold (s : State) : State :=
  let u := if (nth s.trim.blocks 0 none).isNone then s.ev pgTRIM 0x8A10 0 kInfo 0 else s
  if (nth s.trim.blocks 1 none).isNone then u.ev pgTRIM 0x8A10 1 kInfo 0 else u

/-- What the TRIM page shows of the load (R256). -/
def journalShown (s : State) : State :=
  let u := s.blocksTold.fs TRIM_JSTAT_IGN (b2n (nth s.trim.blocks 0 none).isNone + 2 * b2n (nth s.trim.blocks 1 none).isNone)
  let u := (u.fs TRIM_JSTAT_BLOCK ((s.journalUsed.map (·.1)).getD 0)).fs TRIM_JSEQ_SEQ ((s.journalUsed.map (·.2.seq)).getD 0)
  u.fs TRIM_BINS_NOFLASH (b2n s.journalUsed.isNone)

/-- The measurements run, with the bins of the block in use (R251). -/
def selfTrimStarted (s : State) : State :=
  s.journalShown.modTrim fun t => { t with
    active := true, bins := (s.journalUsed.map (·.2.bins)).getD (List.replicate 5 none), used := s.journalUsed.map (·.1), wanted := none,
    writing := none, forget := false }

theorem blocksTold_only (s : State) : TrimOnly s s.blocksTold := by
  have hfirst := TrimOnly.ite (c := (nth s.trim.blocks 0 none).isNone = true) ((TrimOnly.refl s).ev pgTRIM 0x8A10 0 kInfo 0) (.refl s)
  exact .ite (hfirst.ev pgTRIM 0x8A10 1 kInfo 0) hfirst

theorem selfTrimStarted_only (s : State) : TrimOnly s s.selfTrimStarted := by
  unfold selfTrimStarted journalShown
  exact ((((s.blocksTold_only.fs _ _).fs _ _).fs _ _).fs _ _).modTrim _

theorem pagesBut_blocksTold (s : State) : pagesBut [pgTRIM] s s.blocksTold := by
  have hev : ∀ (u : State) (d : Nat), pagesBut [pgTRIM] u (u.ev pgTRIM 0x8A10 d kInfo 0) := fun u d =>
    (pagesBut.refl _ u).of_eq (u.ev_regs _ _ _ _ (by decide))
  have hfirst := pagesBut.ite (c := (nth s.trim.blocks 0 none).isNone = true) (hev s 0) (.refl _ s)
  exact .ite (hfirst.trans (hev _ 1)) hfirst

theorem pagesBut_selfTrimStarted (s : State) : pagesBut [pgTRIM] s s.selfTrimStarted := by
  have hign := fun v => s.pagesBut_blocksTold.fs TRIM_JSTAT_IGN v (by decide) (by decide) (by decide)
  have hblock := fun v w => (hign v).fs TRIM_JSTAT_BLOCK w (by decide) (by decide) (by decide)
  have hseq := fun v w x => (hblock v w).fs TRIM_JSEQ_SEQ x (by decide) (by decide) (by decide)
  unfold selfTrimStarted journalShown
  exact ((hseq _ _ _).fs TRIM_BINS_NOFLASH _ (by decide) (by decide) (by decide)).modTrim _

/-- NOFLASH shows that no block is valid. -/
theorem selfTrimStarted_noflash (s : State) : s.selfTrimStarted.fg TRIM_BINS_NOFLASH = b2n s.journalUsed.isNone := by
  unfold selfTrimStarted journalShown
  rw [modTrim_fg, fg_fs _ ⟨by decide, by decide⟩]
  cases s.journalUsed.isNone <;> rfl

theorem journalUsed_of_both {s : State} {x y : JRec} (hx : nth s.trim.blocks 0 none = some x) (hy : nth s.trim.blocks 1 none = some y) :
    s.journalUsed = if dcnFuture y.seq x.seq = true then some (1, y) else some (0, x) := by
  unfold journalUsed
  rw [hx, hy]

theorem journalUsed_of_none {s : State} (hx : nth s.trim.blocks 0 none = none) (hy : nth s.trim.blocks 1 none = none) :
    s.journalUsed = none := by
  unfold journalUsed
  rw [hx, hy]

end State

/-- SELF_TRIM in TRIM with no measurement under way. -/
theorem exec_selfTrim_starts {s : State} (hm : s.mode = .trim) (ha : s.trim.active = false) :
    exec .selfTrim s = .next s.begin_.selfTrimStarted :=
  if_neg (not_or.mpr ⟨not_not_intro hm, ne_true_of_eq_false ha⟩)

/-- Of two valid blocks, the measurements start with the one ahead modulo 2^32, and with J0 when neither is. -/
theorem runs_selfTrim_ofBlocks {s : State} {x y : JRec} (hm : s.mode = .trim) (ha : s.trim.active = false)
    (hx : nth s.trim.blocks 0 none = some x) (hy : nth s.trim.blocks 1 none = some y) :
    Runs .selfTrim s fun t => t.trim.active = true ∧ t.trim.wanted = none ∧
      t.trim.used = some (if dcnFuture y.seq x.seq = true then 1 else 0) ∧
      t.trim.bins = (if dcnFuture y.seq x.seq = true then y.bins else x.bins) ∧ State.pagesBut [pgTRIM] s t ∧ t.now = s.now := by
  have hu : s.begin_.journalUsed = _ := State.journalUsed_of_both hx hy
  refine ⟨_, exec_selfTrim_starts hm ha, rfl, rfl, ?_, ?_, ?_, s.begin_.selfTrimStarted_only.now⟩
  · show s.begin_.journalUsed.map (·.1) = _
    rw [hu]
    split <;> rfl
  · show (s.begin_.journalUsed.map (·.2.bins)).getD (List.replicate 5 none) = _
    rw [hu]
    split <;> rfl
  · exact (State.pagesBut.refl _ s).begin.trans s.begin_.pagesBut_selfTrimStarted

/-- Without a valid block the measurements start with no block in use, and NOFLASH says so. -/
theorem runs_selfTrim_noBlock {s : State} (hm : s.mode = .trim) (ha : s.trim.active = false) (hx : nth s.trim.blocks 0 none = none)
    (hy : nth s.trim.blocks 1 none = none) :
    Runs .selfTrim s fun t => t.trim.active = true ∧ t.trim.used = none ∧ t.fg TRIM_BINS_NOFLASH = 1 ∧ t.now = s.now := by
  have hu : s.begin_.journalUsed = none := State.journalUsed_of_none hx hy
  refine ⟨_, exec_selfTrim_starts hm ha, rfl, ?_, ?_, s.begin_.selfTrimStarted_only.now⟩
  · show s.begin_.journalUsed.map (·.1) = none
    rw [hu]
    rfl
  · rw [State.selfTrimStarted_noflash, hu]
    rfl

/-! ### The failure -/

namespace State

/-- What a failed self-trim records before DARK is entered (R252). -/
def trimFaulted (s : State) : State :=
  (((s.modTrim fun t => { t with active := false }).fs (hSTATPAGE pgTRIM) 2).fault pgTRIM 0 0x7A01 0 0).modPow fun p =>
    { p with trimFail := true }

theorem trimFaulted_mode (s : State) : s.trimFaulted.mode = s.mode := by
  unfold trimFaulted
  rw [modPow_mode, fault_mode, fs_mode, modTrim_mode]

theorem trimFaulted_trim (s : State) : s.trimFaulted.trim = { s.trim with active := false } := by
  unfold trimFaulted
  rw [modPow_trim, fault_trim, fs_trim, modTrim_trim]

theorem trimFaulted_hasFault (s : State) : s.trimFaulted.hasFault pgTRIM 0 = true := by
  unfold trimFaulted hasFault
  rw [modPow_fg]
  exact fault_hasFault _ _ _ _ _ (by decide)

theorem trimFailed_of_trim {s : State} (hm : s.mode = .trim) : s.trimFailed = s.trimFaulted.darkNow 1 :=
  enterDark_of_trim (s := s.trimFaulted) (s.trimFaulted_mode.trans hm)

end State

/-- A result out of range, or none, while the measurements run. -/
theorem exec_trimResult_fails {s : State} {m : Option TrimMeas} (ha : s.trim.active = true) (hv : (m.bind trimValues) = none) :
    exec (.trimResult m) s = .next s.begin_.trimFailed := by
  have hon : ¬(!s.begin_.trim.active) = true := by rw [State.begin_trim, ha]; decide
  show execTrimResult m s = _
  unfold execTrimResult
  dsimp only
  rw [if_neg hon, hv]

/-- A failed self-trim ends the measurements with its fault and enters DARK for its cause. -/
theorem runs_trimResult_fails {s : State} {m : Option TrimMeas} (hm : s.mode = .trim) (ha : s.trim.active = true)
    (hv : (m.bind trimValues) = none) :
    Runs (.trimResult m) s fun t => t.mode = .dark ∧ t.trim.active = false ∧ t.pow.trimFail = true ∧ t.hasFault pgTRIM 0 = true ∧
      t.fg FLT_ENTRY_CAUSE = 1 := by
  have hmode : s.begin_.trimFaulted.mode = .trim := s.begin_.trimFaulted_mode.trans hm
  have hlit : s.begin_.trimFaulted.mode ≠ .dark := by rw [hmode]; decide
  refine ⟨s.begin_.trimFaulted.darkNow 1, ?_, State.darkNow_mode _ _, ?_, ?_, ?_, ?_⟩
  · rw [exec_trimResult_fails ha hv, State.trimFailed_of_trim (s := s.begin_) hm]
  · rw [State.darkNow_trim, State.trimFaulted_trim]
  · exact State.darkNow_trimFail 1 hlit
  · exact (State.FaultsStand.refl _).darkNow 1 _ _ s.begin_.trimFaulted_hasFault
  · exact State.darkNow_entryCause hlit (by rw [hmode]; decide) (by decide)

/-! ### The pass -/

/-- Values in range while the measurements run: what a pass leaves, and its event. -/
theorem exec_trimResult_passes {s : State} {m : TrimMeas} {v : BinVal} (ha : s.trim.active = true) (hv : trimValues m = some v) :
    exec (.trimResult (some m)) s = .next ((s.begin_.trimEnded v).ev pgTRIM 0x0A10 (binOf v.tm) kInfo 0) := by
  have hon : ¬(!s.begin_.trim.active) = true := by rw [State.begin_trim, ha]; decide
  have hval : (some m).bind trimValues = some v := hv
  show execTrimResult (some m) s = _
  unfold execTrimResult
  dsimp only
  rw [if_neg hon, hval]
  rfl

namespace State

theorem trimPassed_only (s : State) (v : BinVal) : TrimOnly s (s.trimPassed v) := by
  unfold trimPassed showDie
  exact ((((((TrimOnly.refl s).fs _ _).fs _ _).fs _ _).fs _ _).fs _ _).modTrim _

/-- A pass changes registers and the state of self-trim alone. -/
theorem trimEnded_only (s : State) (v : BinVal) : TrimOnly s (s.trimEnded v) := by
  unfold trimEnded
  split
  next x _ => exact (s.trimPassed_only v).loadTrim x
  next => exact s.trimPassed_only v

end State

/-- Values in range end the measurements with PASS, stand in the bin of their temperature, and leave mode and clock. -/
theorem runs_trimResult_passes {s : State} {m : TrimMeas} {v : BinVal} (ha : s.trim.active = true) (hv : trimValues m = some v) :
    Runs (.trimResult (some m)) s fun t => t.trim.active = false ∧
      t.trim.bins = modAt s.trim.bins (binOf v.tm) (fun _ => some v) ∧ t.fg (hSTATPAGE pgTRIM) = 3 ∧ t.mode = s.mode ∧
      t.now = s.now := by
  obtain ⟨t, ht, hactive, hstat, hbins⟩ := runs_trimResult ha hv
  obtain rfl : (s.begin_.trimEnded v).ev pgTRIM 0x0A10 (binOf v.tm) kInfo 0 = t :=
    Host.Outcome.next.inj ((exec_trimResult_passes ha hv).symm.trans ht)
  have honly := (s.begin_.trimEnded_only v).ev pgTRIM 0x0A10 (binOf v.tm) kInfo 0
  exact ⟨_, ht, hactive, hbins, hstat, honly.mode, honly.now⟩

end Sys2Proof.Machine

/-! PROOFS. The journal's write and its commit (R255, R257). -/

namespace Sys2Proof.Machine

namespace State

/-- The write of record `r` starts: the block not in use loses its old record, and the record takes the next sequence number (R257). -/
def journalStarted (s : State) (r : JRec) : State :=
  let b := match s.trim.used with
    | some j => 1 - j
    | none => 0
  let (sq, u) := match s.trim.used.bind fun j => nth s.trim.blocks j none with
    | some old => (add32 old.seq 1, s)
    | none => s.free (2 ^ 32)
  u.modTrim fun t => { t with
    wanted := none, writing := some (b, { r with seq := sq }), blocks := modAt t.blocks b fun _ => none }

/-- With block `j` in use, the sequence number follows that of its record. -/
theorem journalStarted_of_used {s : State} {old : JRec} {j : Nat} (r : JRec) (hu : s.trim.used = some j)
    (ho : nth s.trim.blocks j none = some old) :
    s.journalStarted r = s.modTrim fun t => { t with
      wanted := none, writing := some (1 - j, { r with seq := add32 old.seq 1 }), blocks := modAt t.blocks (1 - j) fun _ => none } := by
  have hold : (s.trim.used.bind fun j => nth s.trim.blocks j none) = some old := by rw [hu, Option.bind_some, ho]
  unfold journalStarted
  rw [hold, hu]

end State

/-- A wanted record when no rule forbids the write: above 115 °C it is dropped, else its write starts. -/
theorem exec_journalWrite_issued {s : State} {r : JRec} (hw : s.trim.wanted = some r) (hm : s.mode ≠ .trim)
    (hn : s.trim.writing = none) (hv : s.pow.vddLow = false) (hsh : s.pow.shut = false) :
    exec .journalWrite s = if 1840 < s.dieNow then
        .next ((s.begin_.modTrim fun t => { t with wanted := none }).fs TRIM_BINS_HOT 1)
      else .next (s.begin_.journalStarted r) := by
  have hmay : ¬(s.begin_.mode = .trim ∨ s.trim.writing.isSome = true ∨ s.begin_.pow.vddLow = true ∨ s.begin_.pow.shut = true) := by
    simp [hm, hn, hv, hsh]
  show execJournalWrite s = _
  unfold execJournalWrite
  dsimp only
  rw [State.begin_trim, hw]
  dsimp only
  rw [if_neg hmay]
  rfl

/-- A wanted record goes into the block not in use, numbered after the record in use. -/
theorem runs_journalWrite_starts {s : State} {r old : JRec} {j : Nat} (hw : s.trim.wanted = some r) (hm : s.mode ≠ .trim)
    (hn : s.trim.writing = none) (hv : s.pow.vddLow = false) (hsh : s.pow.shut = false) (hd : s.dieNow ≤ 1840)
    (hu : s.trim.used = some j) (ho : nth s.trim.blocks j none = some old) :
    Runs .journalWrite s fun t => t.trim = { s.trim with
        wanted := none, writing := some (1 - j, { r with seq := add32 old.seq 1 }), blocks := modAt s.trim.blocks (1 - j) (fun _ => none) } ∧
      t.regs = s.regs ∧ t.now = s.now := by
  refine ⟨_, (exec_journalWrite_issued hw hm hn hv hsh).trans (if_neg (Int.not_lt.mpr hd)), ?_⟩
  rw [State.journalStarted_of_used (s := s.begin_) r hu ho]
  exact ⟨rfl, rfl, rfl⟩

/-- Above 115 °C a wanted record is dropped, and HOT says so. -/
theorem runs_journalWrite_hot {s : State} {r : JRec} (hw : s.trim.wanted = some r) (hm : s.mode ≠ .trim)
    (hn : s.trim.writing = none) (hv : s.pow.vddLow = false) (hsh : s.pow.shut = false) (hd : 1840 < s.dieNow) :
    Runs .journalWrite s fun t => t.trim = { s.trim with wanted := none } ∧ t.fg TRIM_BINS_HOT = 1 :=
  ⟨_, (exec_journalWrite_issued hw hm hn hv hsh).trans (if_pos hd), rfl, State.fg_fs _ ⟨by decide, by decide⟩ 1⟩

namespace State

/-- The mark of record `r` in block `b` is programmed, with no FORGET noted: the block is the one in use (R255, R257). -/
def journalMarked (s : State) (b : Nat) (r : JRec) : State :=
  (((s.modTrim fun t => { t with writing := none, used := some b, blocks := modAt t.blocks b fun _ => some r }).fs
    TRIM_BINS_STORED 1).fs TRIM_JSEQ_SEQ r.seq).fs TRIM_JSTAT_BLOCK b

theorem pagesBut_journalMarked (s : State) (b : Nat) (r : JRec) : pagesBut [pgTRIM] s (s.journalMarked b r) := by
  have hblock := (pagesBut.refl [pgTRIM] s).modTrim fun t => { t with
    writing := none, used := some b, blocks := modAt t.blocks b fun _ => some r }
  have hstored := hblock.fs TRIM_BINS_STORED 1 (by decide) (by decide) (by decide)
  have hseq := hstored.fs TRIM_JSEQ_SEQ r.seq (by decide) (by decide) (by decide)
  exact hseq.fs TRIM_JSTAT_BLOCK b (by decide) (by decide) (by decide)

theorem journalMarked_only (s : State) (b : Nat) (r : JRec) : TrimOnly s (s.journalMarked b r) :=
  ((((TrimOnly.refl s).modTrim _).fs _ _).fs _ _).fs _ _

theorem journalMarked_trim (s : State) (b : Nat) (r : JRec) : (s.journalMarked b r).trim = { s.trim with
    writing := none, used := some b, blocks := modAt s.trim.blocks b fun _ => some r } := by
  unfold journalMarked
  rw [fs_trim, fs_trim, fs_trim, modTrim_trim]

theorem journalMarked_stored (s : State) (b : Nat) (r : JRec) : (s.journalMarked b r).fg TRIM_BINS_STORED = 1 := by
  have hstored : ∀ u : State, (u.fs TRIM_BINS_STORED 1).fg TRIM_BINS_STORED = 1 := fun u => fg_fs u ⟨by decide, by decide⟩ 1
  exact ((fg_fs_apart _ b (by decide)).trans (fg_fs_apart _ r.seq (by decide))).trans (hstored _)

end State

/-- The commit of the record under way, with no FORGET noted. -/
theorem exec_journalCommit_marks {s : State} {r : JRec} {b : Nat} (hw : s.trim.writing = some (b, r)) (hf : s.trim.forget = false) :
    exec .journalCommit s = .next ((s.begin_.journalMarked b r).ev pgTRIM 0x0A11 (r.seq % 2 ^ 16) kInfo 0) := by
  have htrim : s.begin_.modTrim (fun t => { t with
      writing := none, blocks := modAt t.blocks b fun _ => some r, used := some b, forget := false,
      wanted := if t.forget then some ⟨0, List.replicate 5 none⟩ else t.wanted }) =
      s.begin_.modTrim fun t => { t with writing := none, used := some b, blocks := modAt t.blocks b fun _ => some r } := by
    simp [State.modTrim, hf]
  show execJournalCommit s = _
  unfold execJournalCommit
  dsimp only
  rw [State.begin_trim, hw]
  dsimp only
  rw [htrim]
  rfl

/-- The commit makes the record the one in use, and STORED says so. -/
theorem runs_journalCommit_marks {s : State} {r : JRec} {b : Nat} (hw : s.trim.writing = some (b, r)) (hf : s.trim.forget = false) :
    Runs .journalCommit s fun t => t.trim = { s.trim with
        writing := none, used := some b, blocks := modAt s.trim.blocks b (fun _ => some r) } ∧
      t.fg TRIM_BINS_STORED = 1 ∧ State.pagesBut [pgTRIM] s t ∧ t.now = s.now := by
  have hregs := (s.begin_.journalMarked b r).ev_regs pgTRIM (r.seq % 2 ^ 16) kInfo 0 (c := 0x0A11) (by decide)
  refine ⟨_, exec_journalCommit_marks hw hf, ?_, ?_, ?_, ((s.begin_.journalMarked_only b r).ev _ _ _ _ _).now⟩
  · rw [State.ev_trim, State.journalMarked_trim, State.begin_trim]
  · exact (State.SameReg.fg (.of_regs (.refl _ _ _) hregs)).trans (s.begin_.journalMarked_stored b r)
  · exact ((State.pagesBut.refl _ s).begin.trans (s.begin_.pagesBut_journalMarked b r)).of_eq hregs

end Sys2Proof.Machine

/-! PROOFS. FORGET, accepted and refused (R259), and self-trim's statement. -/

namespace Sys2Proof.Machine

theorem admitted_fsb {s t : State} (h : Admitted s t) (b : Nat) (f : FRef) (v : Nat) : Admitted s (t.fsb b f v) := h.trans ⟨rfl⟩

/-- A recorded refusal touches registers and slots alone. -/
theorem admitted_refuse {s t : State} (h : Admitted s t) (w : Who) (c : Rc) : Admitted s (t.refuse w c) := by
  have hlog := admitted_fsb (admitted_fsb h w.bank SYS_WRERR_CODE c.code) w.bank SYS_WRERR_DETAIL c.detail
  unfold State.refuse
  cases w with
  | sys n => exact hlog
  | ten n =>
    dsimp only
    split
    · exact admitted_modTen (admitted_fsi hlog TEN_ERR_PERMF n.val _) _ _
    · exact hlog

/-- T0 in SERVICE at no more than 115 °C may ask to forget. -/
theorem hTrimCmd_forgets {s : State} {w : Who} (p o : Nat) (g : Reg) (hw : w.isT0 = true) (hm : s.mode = .service)
    (hd : s.dieNow ≤ 1840) : hTrimCmd s w p o g 1 = .ok s.forgetWanted := by
  unfold hTrimCmd
  rw [hw, if_neg (by decide), if_neg (not_not_intro hm), if_neg (Int.not_lt.mpr hd)]
  rfl

/-- An accepted FORGET with no write under way wants an empty record, and changes no register but the page's generation. -/
theorem runs_forget_wants {s s1 : State} {a : Access} {p o : Nat} {w : Who} {g : Reg}
    (ha : accepted s.begin_ a (regAddr pgTRIM TRIM_CMD.off) 1 = some (s1, w, p, o, g)) (hw : w.isT0 = true) (hm : s1.mode = .service)
    (hd : s1.dieNow ≤ 1840) (hn : s1.trim.writing = none) :
    Runs (.forget a) s fun t => t.trim = { s1.trim with wanted := some ⟨0, List.replicate 5 none⟩ } ∧
      State.regsBut [(pgTRIM, 0x024)] s1 t ∧ t.outs = doneOuts := by
  obtain ⟨rfl, rfl⟩ := accepted_reg (by decide) (by decide) ha
  have hwanted : s1.forgetWanted.trim = { s1.trim with wanted := some ⟨0, List.replicate 5 none⟩ } := if_neg (by rw [hn]; decide)
  have hregs : State.regsBut [(pgTRIM, 0x024)] s1 s1.forgetWanted := (State.regsBut.refl _ s1).modTrim _
  exact Runs.direct rfl ha (hTrimCmd_forgets _ _ g hw hm hd)
    ⟨hwanted, hregs.done (by decide) (List.mem_singleton_self _), done_outs ha rfl⟩

/-- FORGET of another than T0 is answered with 0x5A01 and its slot, and leaves self-trim alone. -/
theorem runs_forget_refused {s s1 : State} {a : Access} {p o : Nat} {w : Who} {g : Reg}
    (ha : accepted s.begin_ a (regAddr pgTRIM TRIM_CMD.off) 1 = some (s1, w, p, o, g)) (hw : w.isT0 = false) :
    Runs (.forget a) s fun t => t.outs = [.res ⟨0x5A01, w.slot⟩ []] ∧ t.trim = s1.trim := by
  have herr : hTrimCmd s1 w p o g 1 = .error ⟨0x5A01, w.slot⟩ := by
    unfold hTrimCmd
    rw [hw]
    rfl
  have hlogged := (admitted_refuse (.refl s1) w ⟨0x5A01, w.slot⟩).all
  have hdirect := direct_turned ha herr
  rw [State.resetRefused_other _ w 1 (addrReg_regAddr (p := pgTRIM) (o := TRIM_CMD.off) (by decide) (by decide))
    (show 0x5A01 ≠ pageCode 6 pgTRIM 2 by decide)] at hdirect
  refine ⟨_, congrArg Host.Outcome.next hdirect, ?_, ?_⟩
  · rw [State.emit_outs, hlogged]
    exact congrArg (· ++ _) (accepted_outs ha)
  · rw [State.emit_trim, hlogged]

/-- Settles O35: each command by the lemma of its operation, at its start, failure, pass, write, commit and FORGET. -/
theorem trimCommands : Obligations.TrimCommands :=
  ⟨fun _ _ _ => runs_selfTrim_ofBlocks, fun _ => runs_selfTrim_noBlock, fun _ _ => runs_trimResult_fails,
    fun _ _ _ => runs_trimResult_passes, fun _ _ _ _ => runs_journalWrite_starts, fun _ _ => runs_journalWrite_hot,
    fun _ _ _ => runs_journalCommit_marks, fun _ _ _ _ _ _ _ => runs_forget_wants, fun _ _ _ _ _ _ _ => runs_forget_refused⟩

end Sys2Proof.Machine

/-! PROOFS. The queue of commands, what reset leaves, and the bytes of DRAM (log entries 1, 3 and 9). -/

namespace Sys2Proof.Machine

/-- Settles O1: the command at the front goes, and exec runs it with the rest in place. -/
theorem stepRunsTheFrontCommand : Obligations.StepRunsTheFrontCommand := fun _ _ => step_of_pending_cons rfl

/-- Settles O2. -/
theorem emptyQueueIdles : Obligations.EmptyQueueIdles := fun _ => step_of_pending_nil

theorem State.queues_reset : State.reset.queues = List.replicate 16 EvQ.empty := List.map_replicate

/-- Settles O7: reset's queues are copies of the empty one, and TEN_STATE reads 0 where no register is listed. -/
theorem whatResetLeaves : Obligations.WhatResetLeaves :=
  ⟨rfl, rfl, rfl, rfl, rfl, rfl, rfl, fun _ h => List.eq_of_mem_replicate (State.queues_reset ▸ h), by decide⟩

/-- Settles O9: a command whose parts do not name DRAM leaves its contents, and a byte is read from them. -/
theorem dramStandsElsewhere : Obligations.DramStandsElsewhere := fun _ _ _ h hd a =>
  congrArg (cget · a dramBlank) (exec_same_of_notMem_commandParts h hd)

end Sys2Proof.Machine

/-! PROOFS. RELEASE of a bus port beside a companion's command that waits (R294, R297). -/

namespace Sys2Proof.Machine

/-- Refutes O58: RELEASE of SPIC can send more than its answer. While a select is kept, a companion's command waits (R297); RELEASE
frees the select, and the command goes out before the answer. -/
theorem not_busAndSessionsComplete : ¬ Obligations.BusAndSessionsComplete := by
  rintro ⟨-, release, -⟩
  obtain ⟨⟨s1, w, p, o, g⟩, ha⟩ := Option.isSome_iff_exists.mp companionWaits_accepted
  obtain ⟨t, ht, wire, hsent⟩ := release_sends_companion (i := spicCompanion) ha rfl rfl rfl rfl rfl (by decide)
  obtain ⟨u, hu, -, hdone⟩ := release companionWaits s1 ownerLink false p o w g ha
  cases ht.symm.trans hu
  cases hsent.symm.trans hdone

end Sys2Proof.Machine

/-! PROOFS. A POLICY whose FLAGS word exceeds two bits (Table 15.2): the store keeps the whole word. -/

namespace Sys2Proof.Machine

namespace State

/-- What OSEC shows of the store is registers alone. -/
theorem showStore_sec (s : State) : s.showStore.sec = s.sec := (kept_showStore (K := (· ≠ .sec)) (.refl s) nofun).part

/-- Raising a counter leaves the store in force. -/
theorem arbRaise_store (s : State) (k v : Nat) : (s.arbRaise k v).sec.store = s.sec.store := by
  unfold arbRaise
  rw [show ∀ u : State, (u.showArb k).sec = u.sec from fun u => (kept_showArb (K := (· ≠ .sec)) (.refl u) nofun).part]
  rfl

/-- A record of the store in force does not change the store in force. -/
theorem storeWrite_store (s : State) (raise : Bool) : (s.storeWrite raise).sec.store = s.sec.store := by
  unfold storeWrite
  dsimp only
  rw [showStore_sec]
  split
  · rw [arbRaise_store]
    rfl
  · rfl

/-- At its boundary a POLICY puts its FLAGS word into the store as it stands. -/
theorem policyApply_flags (s : State) (flags : Nat) (m : List Nat) : (s.policyApply flags m).sec.store.flags = flags := by
  unfold policyApply
  rw [ev_sec, storeWrite_store]
  rfl

/-- A POLICY at the front of those that wait takes effect. -/
theorem objTake_policy {s : State} {o : Obj} {flags : Word} {m : List Nat} (h : s.sec.acc = [o]) (hb : o.body = .policy flags m) :
    (s.objTake 7).sec.store.flags = flags.toNat := by
  have found : s.sec.acc.find? (fun o => objType o == 7) = some o := by simp [h, objType, hb]
  unfold objTake
  rw [found]
  dsimp only
  rw [objApply, hb]
  exact policyApply_flags _ _ _

end State

theorem runs_policy {s : State} {o : Obj} {flags : Word} {m : List Nat} (ha : s.sec.acc = [o]) (hb : o.body = .policy flags m) :
    Runs .policy s fun t => t.sec.store.flags = flags.toNat :=
  ⟨_, rfl, State.objTake_policy (s := s.begin_) ha hb⟩

/-- A POLICY that waits, with bit 2 of FLAGS set. -/
def wideFlags : Obj := ⟨none, 0, 0, 1, [], .policy 4 []⟩

/-- The state after reset, with that POLICY waiting for its boundary. -/
def policyWaits : State := { State.reset with sec := { State.reset.sec with acc := [wideFlags] } }

/-- The boundary leaves 4 in the store's flags. -/
theorem policyWaits_flags : Runs .policy policyWaits fun t => t.sec.store.flags = 4 := runs_policy (o := wideFlags) rfl rfl

/-- Refutes O41: a POLICY with bit 2 of FLAGS set leaves that bit in the store. -/
theorem not_securityObjects : ¬ Obligations.SecurityObjects := by
  rintro ⟨-, -, -, -, -, -, -, -, -, -, policy, -⟩
  obtain ⟨t, ht, hkept⟩ := policyWaits_flags
  obtain ⟨u, hu, -, hstore⟩ := policy policyWaits wideFlags 4 [] rfl rfl
  cases ht.symm.trans hu
  rw [hstore] at hkept
  cases hkept

/-- Refutes O59: the same POLICY leaves bit 2 of FLAGS in the store. -/
theorem not_signedObjectsComplete : ¬ Obligations.SignedObjectsComplete := by
  rintro ⟨-, -, -, -, -, -, -, -, policy, -⟩
  obtain ⟨t, ht, hkept⟩ := policyWaits_flags
  obtain ⟨u, hu, hflags⟩ := policy policyWaits wideFlags 4 [] rfl rfl
  cases ht.symm.trans hu
  rw [hkept] at hflags
  cases hflags

end Sys2Proof.Machine

/-! PROOFS. A report asked for with a short nonce is a short SESSREP (R323, Table 15.7). -/

namespace Sys2Proof.Machine

@[simp] theorem length_be (k v : Nat) : (be k v).length = k := by simp [be]

@[simp] theorem length_hash48 (b : List Nat) : (State.hash48 b).length = 48 := by simp [State.hash48]

namespace State

/-- Bytes of a report's body: 292, and four for each word of the nonce. -/
theorem length_reportBody (s : State) (r : AttReq) : (s.reportBody r).length = 292 + 4 * r.nonce.length := by
  simp [reportBody, List.length_flatMap]
  omega

/-- Bytes 22 and 23 of an UP frame's header hold BLEN (Table 4.4); this is the lower one. -/
theorem upHdr_blen (s : State) (typ tenant : Nat) (resent : Bool) (seq blen : Nat) :
    (s.upHdr typ tenant resent seq blen).bytes[23]? = some (blen % 256) := by
  simp [upHdr, be, List.range_succ]

theorem begin_passes (s : State) (p : Nat) : s.begin_.passes p = s.passes p := rfl

/-- A report for a session goes out on its port, under a header that tells its length. -/
theorem attReady_sends {s : State} {r : AttReq} {rest : List AttReq} {f : Frame} (ha : s.sec.att = r :: rest) (hf : r.sess = some f)
    (hp : s.passes f.port.val = true) : ∃ b, s.attReady.outs = s.outs ++
      [.sessrep (s.upHdr 10 f.tenant.val false 0 (392 + 4 * r.nonce.length)) f.port.val f.tenant.val 0x0D00 0 b] := by
  have sent (u : State) (h : UpHdr) (o : UpHdr → Out) (hu : u.passes f.port.val = true) : (u.sendUp f.port.val h o).outs = u.outs ++ [o h] := by
    unfold sendUp transmit
    rw [if_pos (show State.passes { u with lnk := { u.lnk with fctr := u.lnk.fctr + 1 } } f.port.val = true from hu)]
    rfl
  unfold attReady
  simp only [ha, hf]
  unfold sessAnswer sessSend
  rw [sent]
  · refine ⟨_, congrArg₂ (fun k b => s.outs ++ [Out.sessrep (s.upHdr 10 f.tenant.val false 0 k) f.port.val f.tenant.val 0x0D00 0 b]) ?_ rfl⟩
    simp [length_reportBody, freeBytes]
    omega
  · exact hp

end State

/-- A SESSION frame of T0 for tile 5 on port 0. -/
def sessionFrame : Frame :=
  { port := 0, at_ := 0, etype := 0x88B5, len := 64, ver := 1, dir := 0, typ := 9, force := false, tenant := 0, nrec := 0, first := 5, last := 5,
    dcn := 0, fctr := 0, seq := 0, blen := 4, hop := 0, resv := false, hcrcOk := true, fcsOk := true, ing := ⟨0, 0, false⟩, fecCor := 0, fecUnc := 0 }

/-- Port 0 passes frames, and a report with a nonce of no words is the only one asked for. -/
def shortReport : State :=
  (({ State.reset with sec := { State.reset.sec with att := [⟨16, some sessionFrame, 0, []⟩] } } : State).fs (hACTIVE pgLNK) 1).fsi LNK_STAT_UP 0 1

theorem shortReport_att : shortReport.sec.att = [⟨16, some sessionFrame, 0, []⟩] := rfl

theorem shortReport_passes : shortReport.passes sessionFrame.port.val = true := by decide

/-- Refutes O40: the report with a nonce of no words is a SESSREP of 392 bytes, and its header says so. -/
theorem not_securitySessions : ¬ Obligations.SecuritySessions := by
  rintro ⟨-, -, -, -, -, -, -, ready⟩
  obtain ⟨t, ht, -, -, b, hb⟩ := ready shortReport _ _ _ shortReport_att rfl shortReport_passes
  obtain ⟨c, hc⟩ := State.attReady_sends (s := shortReport.begin_) shortReport_att rfl ((State.begin_passes _ _).trans shortReport_passes)
  obtain rfl : t = shortReport.begin_.attReady := by
    cases ht
    rfl
  have sent := hb.symm.trans hc
  rw [show shortReport.begin_.outs = [] from rfl, List.nil_append] at sent
  obtain ⟨header, -⟩ := Out.sessrep.inj (List.head_eq_of_cons_eq sent)
  have lengths := congrArg (·.bytes[23]?) header
  dsimp only at lengths
  rw [State.upHdr_blen, State.upHdr_blen] at lengths
  cases lengths

end Sys2Proof.Machine

/-! PROOFS. Three statements that other state of the device refutes: another core's request, the mismatch flag, and a slot's index. -/

namespace Sys2Proof.Machine

/-- Whether a core is halted after an answer. -/
def haltedAfter (k : Nat) : Ans State → Option Bool
  | .next t => some (bit (t.fg DBG_STAT_HALTED) k)
  | _ => none

/-- The word of a register after an answer. -/
def wordAfter (b p o : Nat) : Ans State → Option Nat
  | .next t => some (rget t.regs b p o)
  | _ => none

/-- Register access is available, and T0 has a session with the owner's role. -/
def ownerServed : State :=
  (({ State.reset with fab := { State.reset.fab with access := true } } : State).setTst 0 tACTIVE).fsi TEN_STATE_ROLE 0 roleOwner

/-- DBG_HALT asks core 1 to halt, which does not, and the scope of core 0 alone is open. -/
def otherCoreAsked : State := (ownerServed.fs DBG_HALT_HALT 2).fs DBG_SCOPE_SCOPE 1

theorem otherCoreAsked_accepted :
    (accepted otherCoreAsked.begin_ ownerLink (regAddr pgDBG DBG_HALT.off) (putBits (otherCoreAsked.fg DBG_HALT_HALT) 0 0 1)).isSome = true := by
  decide

theorem otherCoreAsked_runs : haltedAfter 0 (exec (.halt ownerLink 0) otherCoreAsked) = some false := by decide

/-- Refutes O52: HALT of core 0 writes the request of core 1 again (R372), whose scope is closed; the handler refuses the write, and core 0
goes on. -/
theorem not_powerAndDebugComplete : ¬ Obligations.PowerAndDebugComplete := by
  rintro ⟨-, -, -, -, -, -, -, -, -, -, halt, -⟩
  obtain ⟨⟨s1, w, p, o, g⟩, ha⟩ := Option.isSome_iff_exists.mp otherCoreAsked_accepted
  obtain ⟨t, ht, halted⟩ := halt otherCoreAsked s1 ownerLink 0 p o w g ha (by decide) (by decide)
  have ran := otherCoreAsked_runs
  rw [ht, haltedAfter, show bit (t.fg DBG_STAT_HALTED) 0 = true from halted] at ran
  cases ran

/-- SHOW in force, SERVICE last asked for, and the mismatch between them shown. -/
def settledRequest : State := ((({ ownerServed with mode := .show } : State).fs SYS_MODE_MODE_ACT 4).fs SYS_MODE_MODE_REQ 3).fs (hMISMATCH pgSYS) 1

theorem settledRequest_accepted :
    ((accepted settledRequest.begin_ ownerLink (regAddr pgSYS SYS_MODE.off) 4).map fun x =>
      (rget x.1.regs 0 pgSYS 0x00C, x.1.modeRefuse 4)) = some (8, none) := by
  decide

theorem settledRequest_runs : wordAfter 0 pgSYS 0x00C (exec (.modeRequest ownerLink 4) settledRequest) = some 0 := by decide

/-- Refutes O17: a request for the mode in force ends the mismatch of SYS, so PG_STAT of SYS (offset 0x00C) changes with SYS_MODE. -/
theorem not_modeCommands : ¬ Obligations.ModeCommands := by
  rintro ⟨request, -⟩
  obtain ⟨⟨s1, w, p, o, g⟩, ha, hword⟩ := Option.map_eq_some_iff.mp settledRequest_accepted
  obtain ⟨before, served⟩ := Prod.mk.inj hword
  obtain ⟨t, ht, -, -, kept, -⟩ := request settledRequest s1 ownerLink 4 p o w g ha served
  have ran := settledRequest_runs
  rw [ht, wordAfter, kept 0 pgSYS 0x00C (by decide) (by decide) (by decide), before] at ran
  cases ran

/-- An update is being received for a slot number that no slot has. -/
def farTarget : State := { ownerServed with upd := { State.reset.upd with target := 251 } }.fs UPD_STAT_STATE 1

theorem farTarget_accepted :
    ((accepted farTarget.begin_ ownerLink (regAddr pgUPD UPD_CMD.off) 2).map fun x =>
      (rget x.1.regs 0 0xE2 0, x.1.loader, x.1.updState)) = some (0, false, 1) := by
  decide

theorem farTarget_runs : wordAfter 0 0xE2 0 (exec (.updAbort ownerLink) farTarget) = some 1 := by decide

/-- Refutes O42: the statement holds of any slot number, and ABORT marks slot 251 invalid at an address of page 0xE2, not of SLOT. -/
theorem not_updateCommands : ¬ Obligations.UpdateCommands := by
  rintro ⟨-, -, abort, -⟩
  obtain ⟨⟨s1, w, p, o, g⟩, ha, hword⟩ := Option.map_eq_some_iff.mp farTarget_accepted
  obtain ⟨before, hword⟩ := Prod.mk.inj hword
  obtain ⟨loader, state⟩ := Prod.mk.inj hword
  obtain ⟨t, ht, -, -, -, -, -, -, kept⟩ := abort farTarget s1 ownerLink p o w g ha loader (state ▸ Nat.le_refl 1) (state ▸ by decide)
  have ran := farTarget_runs
  rw [ht, wordAfter, kept 0 0xE2 0 (by decide) (by decide) (by decide), before] at ran
  cases ran

end Sys2Proof.Machine

/-! PROOFS. How DARK is left (R355, R356, R359). -/

namespace Sys2Proof.Machine

namespace State

/-! ### FLT_CAUSE -/

theorem activeCauses_lt (s : State) : s.activeCauses < 2 ^ 32 := by
  have hb : ∀ x : Bool, b2n x ≤ 1 := fun x => by cases x <;> decide
  unfold activeCauses
  dsimp only
  have h1 := hb s.pow.trimFail
  have h2 := hb s.pow.memFail
  have h3 := hb (s.fg TIME_STAT_PLL_LOCK == 0)
  have h4 := hb (s.tim.lost && !(s.fg TIME_STAT_STATE == 2 || (s.fg TIME_LOCK_SOURCE == 1 && s.fg TIME_STAT_STATE == 4)))
  have h5 := hb (!s.sup.sfltn || s.hasFault pgSUPPLY 0 || s.hasFault pgSUPPLY 1 || s.hasFault pgSUPPLY 2)
  have h6 := hb (s.hasFault pgSCAN 1)
  have h7 := hb (s.hasFault pgRDBK 1)
  have h8 := hb (!s.pow.tripped.isEmpty || decide (1760 ≤ sgn 16 (s.fg TH_STAT_DIEMAX)))
  have h9 := hb s.pow.vddLow
  omega

/-- FLT_CAUSE reads the active causes (Table 17.15). -/
theorem readNow_fltCause (s : State) (w : Who) (g : Reg) : s.readNow w pgFAULT FLT_CAUSE.off g = s.activeCauses := by
  exact Nat.mod_eq_of_lt s.activeCauses_lt

/-! ### The request -/

theorem settle_pow (s : State) (p : Nat) : (s.settle p).pow = s.pow := (kept_settle (K := (· ≠ .pow)) (.refl s) nofun nofun nofun).part
theorem settle_mode (s : State) (p : Nat) : (s.settle p).mode = s.mode := by rw [((Loaded.refl s).settle p).all]

/-- In DARK with no cause active, a request for SHOW or SERVICE is not refused. -/
theorem modeRefuse_dark {s : State} {req : Nat} (hm : s.mode = .dark) (hc : s.activeCauses = 0) (hr : req = 3 ∨ req = 4) :
    s.modeRefuse req = none := by
  unfold modeRefuse
  rw [hm]
  dsimp only
  rw [if_neg (show req ≠ 0 by omega), hc, if_pos rfl, ite_self]

/-- A request for another mode than the one in force waits. -/
theorem modeReqWritten_pow {s : State} (bank : Nat) (h : s.fg SYS_MODE_MODE_REQ ≠ s.mode.code) :
    (s.modeReqWritten bank).pow = { s.pow with req := some (s.fg SYS_MODE_MODE_REQ, bank) } := by
  unfold modeReqWritten
  dsimp only
  rw [if_neg h, settle_pow]
  rfl

theorem modeReqWritten_mode (s : State) (bank : Nat) : (s.modeReqWritten bank).mode = s.mode := settle_mode _ _

theorem modeReqWritten_outs (s : State) (bank : Nat) : (s.modeReqWritten bank).outs = s.outs := settle_outs _ _

end State

/-- MODE_REQ holds what was written to SYS_MODE. -/
theorem storeReg_modeReq (s : State) (w : Who) {g : Reg} (d : Nat) (hg : anyRegAt pgSYS SYS_MODE.off = some g) :
    (storeReg s w pgSYS SYS_MODE.off g d).fg SYS_MODE_MODE_REQ = d % 2 ^ 3 := by
  have hreg := storeReg_reg s w d hg (Option.some.inj hg ▸ rfl) (by decide)
  have hfld : g.flds = [⟨10, 8, .ro, .plain, []⟩, ⟨2, 0, .rw, .plain, [.rng 1 2 0x1003, .rng 6 7 0x1003]⟩] :=
    Option.some.inj hg ▸ rfl
  have hbits := bitsOf_mergeFlds_rw (n := 3) (s.reg pgSYS SYS_MODE.off) d (by decide) (by decide)
  rw [hfld] at hreg
  exact (congrArg (bitsOf · 2 0) hreg).trans hbits

/-- An accepted request for SHOW or SERVICE waits for its boundary, in DARK with no cause active. -/
theorem runs_modeRequest_dark {s s1 : State} {a : Access} {req p o : Nat} {w : Who} {g : Reg} (hr : req = 3 ∨ req = 4)
    (ha : accepted s.begin_ a (regAddr pgSYS SYS_MODE.off) req = some (s1, w, p, o, g)) (hm : s1.mode = .dark)
    (hc : s1.activeCauses = 0) :
    Runs (.modeRequest a req) s fun t => t.pow.req = some (req, w.bank) ∧ t.mode = .dark ∧ t.outs = doneOuts := by
  have h8 : req % 8 = req := by omega
  obtain ⟨rfl, rfl⟩ := accepted_reg (by decide) (by decide) ha
  have hreq : (storeReg s1 w pgSYS SYS_MODE.off g req).fg SYS_MODE_MODE_REQ = req :=
    (storeReg_modeReq s1 w req (accepted_addr ha).2).trans h8
  have hdark : (storeReg s1 w pgSYS SYS_MODE.off g req).mode.code = 5 := congrArg Mode.code hm
  refine Runs.direct (u := (storeReg s1 w pgSYS SYS_MODE.off g req).modeReqWritten w.bank)
    (show exec (.modeRequest a req) s = .next (direct s.begin_ a _ (req % 8) hSysMode) from rfl) (h8.symm ▸ ha) ?_ ⟨?_, ?_, ?_⟩
  · unfold hSysMode
    simp only [h8, State.modeRefuse_dark hm hc hr]
  · rw [State.emit_pow, State.bumpGen_pow, State.modeReqWritten_pow _ (by rw [hreq, hdark]; omega), hreq]
  · rw [State.emit_mode, State.bumpGen_mode, State.modeReqWritten_mode]
    exact hm
  · exact done_outs ha (State.modeReqWritten_outs _ _)

/-! ### The boundary -/

namespace State

/-- SYS_MODE reads the same. -/
abbrev SameMode (s t : State) : Prop := SameReg pgSYS SYS_MODE.off s t

/-- A release of a blend shows in CORR, and its event in FAULT. -/
theorem sameMode_blendIdle {s t : State} (h : SameMode s t) (fast : Bool) : SameMode s (t.blendIdle fast) := by
  have hdef := (SameReg.inc h CORR_CNT_DEFERRED 0 1).ev pgCORR 0x0511 0 kInfo 0
  unfold blendIdle
  exact .ite ((SameReg.fs h CORR_STAT_BLEND 1).of_regs (regs_blendStart t fast)) ((hdef.of_regs rfl).fs _ _)

theorem sameMode_blendRelease {s t : State} (h : SameMode s t) (fast : Bool) : SameMode s (t.blendRelease fast) := by
  have hcnt (f : BlendSt → BlendSt) : SameMode s ((t.inc CORR_CNT_DEFERRED 0 1).modBlend f) :=
    (SameReg.inc h CORR_CNT_DEFERRED 0 1).of_regs rfl
  unfold blendRelease
  split
  · exact sameMode_blendIdle h fast
  · exact h.of_regs rfl
  · exact sameMode_blendIdle (hcnt _) _

theorem setMode_act (s : State) (m : Mode) : (s.setMode m).fg SYS_MODE_MODE_ACT = m.code := by
  have hcode : m.code < 2 ^ 3 := by cases m <;> decide
  unfold setMode
  refine (SameReg.fg (f := SYS_MODE_MODE_ACT) ((SameReg.ev (.refl pgSYS SYS_MODE.off _) _ _ _ _ _).settle _)).trans ?_
  exact (fg_fs _ (by unfold FRef.fits; decide) _).trans (Nat.mod_eq_of_lt hcode)

/-- DARK is left with the new mode shown as the one in force. -/
theorem relight_act (s : State) (m : Mode) : (s.relight m).fg SYS_MODE_MODE_ACT = m.code := by
  have hrel (u : State) : SameMode u u.releaseAll := (SameReg.refl _ _ u).of_kept (kept_releaseAll (.refl u) nofun)
  have hlit (u : State) : (u.enterLit m).fg SYS_MODE_MODE_ACT = m.code := by
    unfold enterLit
    dsimp only
    split
    · exact (SameReg.fg (f := SYS_MODE_MODE_ACT) (sameMode_blendRelease (.refl _ _ _) true)).trans (setMode_act u m)
    · exact setMode_act u m
  have hscan (u : State) (f : ScanSt → ScanSt) : (u.modScan f).fg SYS_MODE_MODE_ACT = u.fg SYS_MODE_MODE_ACT := rfl
  unfold relight
  dsimp only
  rw [hscan, SameReg.fg (f := SYS_MODE_MODE_ACT) (hrel _), hlit]

/-- With no cause active, the request that waits in DARK enters SHOW or SERVICE. -/
theorem modeGo_dark {s : State} {r b : Nat} (hm : s.mode = .dark) (hq : s.pow.req = some (r, b)) (hr : r = 3 ∨ r = 4)
    (hc : s.activeCauses = 0) : s.modeGo = (s.modPow fun p => { p with req := none }).relight (Mode.ofCode r) := by
  have hne : Mode.ofCode r ≠ .dark ∧ Mode.ofCode r ≠ .sleep := by rcases hr with rfl | rfl <;> decide
  have hgo : s.changeMode = (s.modPow fun p => { p with req := none }).relight (Mode.ofCode r) := by
    have hc' : (s.modPow fun p => { p with req := none }).activeCauses = 0 := hc
    unfold changeMode
    rcases hr with rfl | rfl <;> simp [hq, hm, hc', Mode.ofCode]
  unfold modeGo wakeNoted
  rw [hgo]
  split
  · rw [relight_mode, if_neg hne.2]
  · rfl

end State

theorem runs_modeChange_dark {s : State} {r b : Nat} (hm : s.mode = .dark) (hq : s.pow.req = some (r, b)) (hr : r = 3 ∨ r = 4)
    (hc : s.activeCauses = 0) :
    Runs .modeChange s fun t => t.mode = (if r = 4 then .show else .service) ∧ t.fg SYS_MODE_MODE_ACT = r := by
  have hgo : s.begin_.modeGo = _ := State.modeGo_dark (s := s.begin_) hm hq hr hc
  refine ⟨s.begin_.modeGo, rfl, ?_⟩
  rw [hgo]
  refine ⟨(State.relight_mode _ _).trans ?_, (State.relight_act _ _).trans ?_⟩ <;> rcases hr with rfl | rfl <;> rfl

/-! ### PG_FAULT -/

/-- A write of a header register but PG_CTRL and PG_OWNER stores its fields. -/
theorem direct_header (s : State) (a : Access) {page o : Nat} (data : Nat) (env : Env) (path : Path) (hp : page < 256) (ho : o < 0x040)
    (h8 : o ≠ 0x008) (h20 : o ≠ 0x020) :
    direct s a (regAddr page o) data (hWrite env path) = direct s a (regAddr page o) data hStore := by
  have hmask (u : State) (w : Who) : writeMasked u w (regAddr page o) data (2 ^ 32 - 1) (hWrite env path) =
      writeMasked u w (regAddr page o) data (2 ^ 32 - 1) hStore := by
    unfold writeMasked
    split
    · rfl
    · next p o' g ht =>
      obtain ⟨rfl, rfl, -⟩ := writeTarget_reg hp (show o < 4096 by omega) ht
      simp only [hWrite_header env path u w p g _ ho h8 h20, hStore]
  unfold direct accessWrite
  simp only [hmask]

/-- PG_FAULT of a page with registers. -/
theorem anyRegAt_pgFault {page : Nat} {g : Reg} (h : anyRegAt page 0x014 = some g) :
    g.banked = false ∧ g.flds = [⟨31, 0, .w1c, .plain, []⟩] := by
  unfold anyRegAt at h
  split at h
  · cases h
  · cases h
    exact ⟨rfl, rfl⟩

theorem bankOfReg_pgFault {page : Nat} (r : Regs) (w : Who) {g : Reg} (h : anyRegAt page 0x014 = some g) :
    bankOfReg r w page 0x014 = 0 := by
  simp [bankOfReg, h, (anyRegAt_pgFault h).1]

/-- An accepted write of 1 to fault bits clears them. -/
theorem runs_faultBits {s s1 : State} {a : Access} {page p o : Nat} {data : Word} (env : Env) {w : Who} {g : Reg} (hp : page < 256)
    (ha : accepted s.begin_ a (regAddr page 0x014) data.toNat = some (s1, w, p, o, g)) :
    Runs (.registerWrite a (regAddr page 0x014) data env) s fun t =>
      rget t.regs 0 page 0x014 = rget s1.regs 0 page 0x014 - Nat.land (rget s1.regs 0 page 0x014) data.toNat ∧ t.mode = s1.mode := by
  obtain ⟨rfl, rfl⟩ := accepted_reg hp (by decide) ha
  have hg := (accepted_addr ha).2
  refine Runs.direct ((exec_registerWrite s a data env hp (by decide)).trans
    (congrArg _ (direct_header _ a _ env _ hp (by decide) (by decide) (by decide)))) ha rfl ⟨?_, rfl⟩
  rw [State.done_rget _ 0 hp (by decide) (by decide)]
  unfold storeReg
  rw [bankOfReg_pgFault _ _ hg, rget_rput, (anyRegAt_pgFault hg).2]
  exact mergeFlds_w1c (rget_lt _ _ _ _) data.isLt

/-- Accepted or not, a write of fault bits leaves the mode as it is. -/
theorem runs_faultBits_mode (s : State) (a : Access) {page : Nat} (data : Word) (env : Env) (hp : page < 256) :
    Runs (.registerWrite a (regAddr page 0x014) data env) s fun t => t.mode = s.mode :=
  ⟨_, (exec_registerWrite s a data env hp (by decide)).trans
      (congrArg _ (direct_header _ a _ env _ hp (by decide) (by decide) (by decide))),
    (kept_direct (K := (· ≠ .mode)) (kept_begin_ (.refl s)) (kept_hStore nofun) nofun nofun nofun).part⟩

/-- Settles O46: the request while no cause is active, its boundary, and the fault bits, whose clearing asks for no mode. -/
theorem leavingDark : Obligations.LeavingDark := by
  refine ⟨fun s s1 a req p o w g gc hr ha hm hc => ?_, fun s w gc r b hm hq hr hc => ?_, fun _ _ _ _ _ _ _ env _ _ hp _ => runs_faultBits env hp,
    fun s a _ data env => runs_faultBits_mode s a data env⟩
  · exact runs_modeRequest_dark hr ha hm (s1.readNow_fltCause w gc ▸ hc)
  · exact runs_modeChange_dark hm hq hr (s.readNow_fltCause w gc ▸ hc)

end Sys2Proof.Machine

/-! PROOFS. The DRAM controller: training and upkeep (R266 to R271, R277, R281). -/

namespace Sys2Proof.Machine

namespace State

/-! ### An entry to DARK leaves MEMC_STAT alone -/

/-- MEMC_STAT reads the same. -/
abbrev SameMemStat (s t : State) : Prop := SameReg pgMEMC MEMC_STAT.off s t

namespace SameMemStat

variable {s t : State}

theorem leaveService (h : SameMemStat s t) : SameMemStat s t.leaveService := by
  have hfs : SameMemStat s (((t.fs EDGE_OVR_CTRL_EN 0).fs SUP_CFG_MODE 0).fs ME_INJ 0) := ((SameReg.fs h _ _).fs _ _).fs _ _
  have htest := SameReg.foldl (List.range 8) (f := fun u n => u.fsi PH_TEST n 0)
    (fun u n => (SameReg.refl _ _ u).fsi PH_TEST n 0 (by simp only [regKey, PH_TEST, pgMEMC, MEMC_STAT]; omega)) hfs
  have hloop := htest.foldl (List.range 4) (f := fun u p => u.fsi LNK_CFG_LPBK p 0)
    (fun u p => (SameReg.refl _ _ u).fsi LNK_CFG_LPBK p 0 (by simp only [regKey, LNK_CFG_LPBK, pgMEMC, MEMC_STAT]; omega))
  exact hloop.of_regs rfl

theorem setMode (h : SameMemStat s t) (m : Mode) : SameMemStat s (t.setMode m) := by
  have hleft : SameMemStat s (if t.mode = .service ∧ m ≠ .service then t.leaveService else t) := .ite h.leaveService h
  have hmode : ∀ {v : State}, SameMemStat s v → SameMemStat s { v with mode := m } := fun hv => SameReg.of_regs hv rfl
  exact ((SameReg.fs (hmode hleft) SYS_MODE_MODE_ACT m.code).ev pgSYS 0x0010 m.code kInfo 0).settle pgSYS

theorem darkNow (h : SameMemStat s t) (cause : Nat) : SameMemStat s (t.darkNow cause) := by
  have hlatch : SameMemStat s (t.latchCause cause) := SameReg.fs h _ _
  by_cases hd : t.mode = .dark
  · rw [State.darkNow, if_pos (show (t.latchCause cause).mode = .dark from hd)]
    exact .ite (hlatch.fs _ _) hlatch
  · have hrec : SameMemStat s (t.darkRecorded cause) :=
      SameReg.of_regs (SameReg.fs (SameReg.fs hlatch FLT_ENTRY_CAUSE cause) FLT_ENTRY_DCN _) rfl
    rw [darkNow_eq cause hd]
    exact (setMode hrec .dark).fault pgFAULT 0 0x7010 cause 0

theorem enterDark (h : SameMemStat s t) (cause : Nat) : SameMemStat s (t.enterDark cause) := by
  have hlatch : SameMemStat s (t.latchCause cause) := SameReg.fs h _ _
  unfold State.enterDark
  split
  · exact hlatch
  · exact hlatch
  · exact .ite (h.darkNow cause) hlatch
  · exact h.darkNow cause

end SameMemStat

/-! ### Training -/

/-- A device that starts to be trained; from self-refresh the first steps stand (R266, R270). -/
def trainOpened (s : State) : State :=
  let kept := s.memState == 3
  let u := (s.fs MEMC_STAT_STATE 1).modMem fun m => { m with trainAt := s.now, restored := kept }
  (u.fs MP_TRAIN_DONE (if kept then 7 else 0)).fs MP_TRAIN_FAILSTEP 0

/-- Attempt `n` has passed all steps. -/
def trainPassed (s : State) (t : TrainTry) (n : Nat) : State :=
  let d := (t.density.map (·.val)).getD 0
  ((s.fs MP_TRAIN_ATTEMPTS n).fs MEMC_CFG_DENSITY d).fs MEMC_SIZE_MB (dramMB d)

/-- Contents that self-refresh held are lost with an attempt that fails (R270). -/
def trainRetried (s : State) (kept : Bool) : State := s.modMem fun m =>
  { m with restored := false, dram := if kept then [] else m.dram, flips := if kept then [] else m.flips }

/-- Failed memory is a cause of DARK (Table 17.3). -/
def noteMemFail (s : State) : State := { s with pow := { s.pow with memFail := true } }

/-- The second attempt has failed at step `f` (R267). -/
def trainFailed (s : State) (f : Nat) : State :=
  let u := ((s.fs MP_TRAIN_ATTEMPTS 2).fs MP_TRAIN_FAILSTEP f).fs MP_TRAIN_DONE (trainDone f)
  ((u.fs MEMC_STAT_STATE 4).fault pgMEMC 0 0x7B10 f 0).noteMemFail.enterDark 2

/-- The first attempt fails: from self-refresh only its two last steps are made. -/
def firstFails (s : State) (a : TrainTry) : Bool :=
  if s.memState == 3 then a.fail.any (fun x => decide (4 ≤ x.val) && decide (x.val ≤ 5)) else (trainFails a).isSome

/-- The first attempt passes. -/
theorem trainStart_once {s : State} {a : TrainTry} (b : TrainTry) (h : s.firstFails a = false) : s.trainStart a b =
    if s.memState == 3 then s.trainOpened.fs MP_TRAIN_ATTEMPTS 1 else s.trainOpened.trainPassed a 1 := by
  unfold trainStart
  extract_lets kept u u2 ok fails u3
  rw [show fails = false from h]
  rfl

/-- The first attempt fails, and the second passes. -/
theorem trainStart_twice {s : State} {a b : TrainTry} (h : s.firstFails a = true) (hb : trainFails b = none) :
    s.trainStart a b = (s.trainOpened.trainRetried (s.memState == 3)).trainPassed b 2 := by
  unfold trainStart
  extract_lets kept u u2 ok fails u3
  rw [show fails = true from h, hb]
  rfl

/-- Both attempts fail. -/
theorem trainStart_fails {s : State} {a b : TrainTry} {f : Nat} (h : s.firstFails a = true) (hb : trainFails b = some f) :
    s.trainStart a b = (s.trainOpened.trainRetried (s.memState == 3)).trainFailed f := by
  unfold trainStart
  extract_lets kept u u2 ok fails u3
  rw [show fails = true from h, hb, if_neg (by decide)]
  have hu : u3 = s.trainOpened.trainRetried (s.memState == 3) := rfl
  rw [← hu]
  clear_value u3
  rfl

theorem trainOpened_memState (s : State) : s.trainOpened.memState = 1 := by
  unfold trainOpened memState
  rw [fg_fs_apart _ _ (by decide), fg_fs_apart _ _ (by decide), modMem_fg, fg_fs _ ⟨by decide, by decide⟩]
  rfl

theorem trainPassed_memState (s : State) (t : TrainTry) (n : Nat) : (s.trainPassed t n).memState = s.memState := by
  unfold trainPassed memState
  rw [fg_fs_apart _ _ (by decide), fg_fs_apart _ _ (by decide), fg_fs_apart _ _ (by decide)]

theorem trainRetried_memState (s : State) (kept : Bool) : (s.trainRetried kept).memState = s.memState := modMem_fg _ _ _

theorem trainFailed_memState (s : State) (f : Nat) : (s.trainFailed f).memState = 4 := by
  have hfault (u : State) (hu : u.memState = 4) : (u.fault pgMEMC 0 0x7B10 f 0).noteMemFail.memState = 4 :=
    (SameReg.fg (f := MEMC_STAT_STATE) ((SameReg.refl pgMEMC MEMC_STAT.off u).fault pgMEMC 0 0x7B10 f 0)).trans hu
  unfold trainFailed
  exact (SameReg.fg (f := MEMC_STAT_STATE) (SameMemStat.enterDark (.refl _ _ _) 2)).trans
    (hfault _ ((fg_fs _ ⟨by decide, by decide⟩ 4).trans rfl))

/-- A field of a named page. -/
theorem pagesBut.set {l : List Nat} {s t : State} (h : pagesBut l s t) (f : FRef) (v : Nat)
    (hf : f.page < 256 ∧ f.off < 4096 ∧ f.page ∈ l := by decide) : pagesBut l s (t.fs f v) := h.fs f v hf.1 hf.2.1 hf.2.2

theorem pagesBut_trainOpened (s : State) : pagesBut [pgMEMC, pgMEMPHY] s s.trainOpened :=
  ((((pagesBut.refl _ s).set MEMC_STAT_STATE 1).modMem _).set MP_TRAIN_DONE _).set MP_TRAIN_FAILSTEP 0

theorem pagesBut_trainPassed {s u : State} (h : pagesBut [pgMEMC, pgMEMPHY] s u) (t : TrainTry) (n : Nat) :
    pagesBut [pgMEMC, pgMEMPHY] s (u.trainPassed t n) :=
  ((h.set MP_TRAIN_ATTEMPTS n).set MEMC_CFG_DENSITY _).set MEMC_SIZE_MB _

theorem trainPassed_density (s : State) (d : Fin 3) (n : Nat) : (s.trainPassed ⟨some d, none⟩ n).fg MEMC_CFG_DENSITY = d.val := by
  have hd : d.val < 2 ^ 2 := by omega
  unfold trainPassed
  rw [fg_fs_apart _ _ (by decide), fg_fs _ ⟨by decide, by decide⟩]
  exact Nat.mod_eq_of_lt hd

theorem trainPassed_attempts (s : State) (t : TrainTry) : (s.trainPassed t 1).fg MP_TRAIN_ATTEMPTS = 1 := by
  unfold trainPassed
  rw [fg_fs_apart _ _ (by decide), fg_fs_apart _ _ (by decide), fg_fs _ ⟨by decide, by decide⟩]
  rfl

theorem enterDark_pow_memFail (s : State) (h : s.pow.memFail = true) : (s.enterDark 2).pow.memFail = true := by
  have hdark : (s.darkNow 2).pow.memFail = true := by
    by_cases hd : s.mode = .dark
    · rw [darkNow, if_pos (show (s.latchCause 2).mode = .dark from hd)]
      exact (congrArg PowSt.memFail (apply_ite pow _ _ _)).trans (by rw [fs_pow, ite_self]; exact h)
    · rw [darkNow_eq _ hd, fault_pow, setMode_pow]
      exact h
  unfold enterDark
  split
  · exact h
  · exact h
  · exact hdark
  · exact hdark

/-- Failed memory is a cause that enters DARK from TRIM, SHOW and SERVICE (Table 17.2). -/
theorem enterDark_mode_memory {s : State} (h : s.mode = .trim ∨ s.mode = .show ∨ s.mode = .service) : (s.enterDark 2).mode = .dark := by
  have hdark : s.enterDark 2 = s.darkNow 2 := by
    unfold enterDark
    rw [if_pos (.inr rfl)]
    rcases h with h | h | h <;> rw [h]
  rw [hdark, darkNow_mode]

theorem trainFailed_fault (s : State) (f : Nat) : (s.trainFailed f).hasFault pgMEMC 0 = true := by
  have hdark {u : State} (h : u.hasFault pgMEMC 0 = true) (c : Nat) : (u.noteMemFail.enterDark c).hasFault pgMEMC 0 = true := by
    have h : u.noteMemFail.hasFault pgMEMC 0 = true := h
    generalize u.noteMemFail = u at h
    have hl : FaultsStand u (u.latchCause c) := (FaultsStand.refl u).fs _ _
    have hd : FaultsStand u (u.darkNow c) := (FaultsStand.refl u).darkNow c
    unfold enterDark
    split
    · exact hl _ _ h
    · exact hl _ _ h
    · exact (FaultsStand.ite hd hl) _ _ h
    · exact hd _ _ h
  unfold trainFailed
  exact hdark (fault_hasFault _ pgMEMC 0x7B10 f 0 (by decide)) 2

theorem trainFailed_memFail (s : State) (f : Nat) : (s.trainFailed f).pow.memFail = true := by
  unfold trainFailed
  exact enterDark_pow_memFail _ rfl

theorem trainFailed_mode {s : State} (f : Nat) (h : s.mode = .trim ∨ s.mode = .show ∨ s.mode = .service) : (s.trainFailed f).mode = .dark := by
  have hmode (u : State) : (u.fault pgMEMC 0 0x7B10 f 0).noteMemFail.mode = u.mode := fault_mode u _ _ _ _ _
  unfold trainFailed
  exact enterDark_mode_memory (by simpa only [hmode, fs_mode] using h)

end State

/-- Training starts where the controller is off or in self-refresh. -/
theorem exec_dramTraining {s : State} (a b : TrainTry) (hp : s.powered 4 = true) (hm : s.memState = 0 ∨ s.memState = 3) :
    exec (.dramTraining a b) s = .next (s.begin_.trainStart a b) := by
  have hok : (s.begin_.powered 4 && (s.begin_.memState == 0 || s.begin_.memState == 3)) = true := by
    rw [show s.begin_.powered 4 = true from hp, show s.begin_.memState = s.memState from rfl]
    rcases hm with hm | hm <;> rw [hm] <;> rfl
  exact congrArg _ (if_pos hok)

theorem runs_dramTraining_off {s : State} (d : Fin 3) (b : TrainTry) (hp : s.powered 4 = true) (hm : s.memState = 0) :
    Runs (.dramTraining ⟨some d, none⟩ b) s fun t => t.memState = 1 ∧ t.fg MEMC_CFG_DENSITY = d.val ∧ t.fg MP_TRAIN_ATTEMPTS = 1 ∧
      t.mem = { s.mem with trainAt := s.now, restored := false } ∧ State.pagesBut [pgMEMC, pgMEMPHY] s t ∧ t.now = s.now := by
  have hm' : s.begin_.memState = 0 := hm
  have hfirst : s.begin_.firstFails ⟨some d, none⟩ = false := by
    rw [State.firstFails, hm']
    rfl
  have hstart := State.trainStart_once b hfirst
  rw [hm'] at hstart
  refine ⟨_, (exec_dramTraining _ b hp (.inl hm)).trans (congrArg Host.Outcome.next hstart), ?_⟩
  refine ⟨(State.trainPassed_memState _ _ _).trans (State.trainOpened_memState _), State.trainPassed_density _ d 1,
    State.trainPassed_attempts _ _, ?_, State.pagesBut_trainPassed (State.pagesBut_trainOpened _) _ _, rfl⟩
  show { s.mem with trainAt := s.now, restored := s.begin_.memState == 3 } = _
  rw [hm']
  rfl

theorem runs_dramTraining_kept {s : State} (d : Option (Fin 3)) (b : TrainTry) (hp : s.powered 4 = true) (hm : s.memState = 3) :
    Runs (.dramTraining ⟨d, none⟩ b) s fun t => t.memState = 1 ∧ t.mem = { s.mem with trainAt := s.now, restored := true } ∧
      State.pagesBut [pgMEMC, pgMEMPHY] s t ∧ t.now = s.now := by
  have hm' : s.begin_.memState = 3 := hm
  have hfirst : s.begin_.firstFails ⟨d, none⟩ = false := by
    rw [State.firstFails, hm']
    rfl
  have hstart := State.trainStart_once b hfirst
  rw [hm'] at hstart
  refine ⟨_, (exec_dramTraining _ b hp (.inr hm)).trans (congrArg Host.Outcome.next hstart), ?_⟩
  refine ⟨(State.fg_fs_apart _ _ (by decide)).trans (State.trainOpened_memState _), ?_, (State.pagesBut_trainOpened _).set _ _, rfl⟩
  show { s.mem with trainAt := s.now, restored := s.begin_.memState == 3 } = _
  rw [hm']
  rfl

/-- Two attempts that fail (R267). -/
theorem runs_dramTraining_fails {s : State} {a b : TrainTry} {f : Nat} (hp : s.powered 4 = true)
    (ha : s.memState = 0 ∧ (State.trainFails a).isSome = true ∨ s.memState = 3 ∧ (a.fail = some 4 ∨ a.fail = some 5))
    (hb : State.trainFails b = some f) :
    Runs (.dramTraining a b) s fun t => t.memState = 4 ∧ t.hasFault pgMEMC 0 = true ∧ t.pow.memFail = true ∧
      ((s.mode = .trim ∨ s.mode = .show ∨ s.mode = .service) → t.mode = .dark) := by
  have hfirst : s.begin_.firstFails a = true := by
    rw [State.firstFails, show s.begin_.memState = s.memState from rfl]
    rcases ha with ⟨hm, hf⟩ | ⟨hm, hf | hf⟩ <;> rw [hm, hf] <;> rfl
  have hm : s.memState = 0 ∨ s.memState = 3 := ha.imp And.left And.left
  have hmode : (s.begin_.trainOpened.trainRetried (s.begin_.memState == 3)).mode = s.mode := rfl
  have hstart := State.trainStart_fails hfirst hb
  refine ⟨_, (exec_dramTraining a b hp hm).trans (congrArg Host.Outcome.next hstart), ?_⟩
  generalize s.begin_.trainOpened.trainRetried (s.begin_.memState == 3) = u at hmode
  exact ⟨State.trainFailed_memState _ _, State.trainFailed_fault _ _, State.trainFailed_memFail _ _,
    fun h => State.trainFailed_mode _ (hmode ▸ h)⟩

/-- Training of a powered controller goes on to its completion, or has failed. -/
theorem runs_dramTraining (s : State) (a b : TrainTry) (hp : s.powered 4 = true) (hm : s.memState = 0 ∨ s.memState = 3) :
    Runs (.dramTraining a b) s fun t => t.memState = 1 ∨ t.memState = 4 := by
  refine ⟨_, exec_dramTraining a b hp hm, ?_⟩
  cases hfirst : s.begin_.firstFails a with
  | false =>
    rw [State.trainStart_once b hfirst]
    split
    · exact .inl ((State.fg_fs_apart _ _ (by decide)).trans (State.trainOpened_memState _))
    · exact .inl ((State.trainPassed_memState _ _ _).trans (State.trainOpened_memState _))
  | true =>
    cases hb : State.trainFails b with
    | none =>
      rw [State.trainStart_twice hfirst hb]
      exact .inl ((State.trainPassed_memState _ _ _).trans ((State.trainRetried_memState _ _).trans (State.trainOpened_memState _)))
    | some f =>
      rw [State.trainStart_fails hfirst hb]
      exact .inr (State.trainFailed_memState _ f)

end Sys2Proof.Machine

/-! PROOFS. DRAM: the timers of the memory controller (R267 to R269, R271, R281). -/

namespace Sys2Proof.Machine

namespace State

/-! ### The end of training -/

/-- The controller's state, the clock and all of the memory but its requests read the same. -/
structure SameUpkeep (s t : State) : Prop where
  memState : t.memState = s.memState
  now : t.now = s.now
  mem : t.mem = { s.mem with inflight := t.mem.inflight, waiting := t.mem.waiting }

namespace SameUpkeep

variable {s t u : State}

theorem refl (s : State) : SameUpkeep s s := ⟨rfl, rfl, rfl⟩

theorem trans (h : SameUpkeep s t) (k : SameUpkeep t u) : SameUpkeep s u :=
  ⟨k.memState.trans h.memState, k.now.trans h.now, by
    rw [k.mem]
    conv_lhs => rw [h.mem]⟩

theorem fs (h : SameUpkeep s t) (f : FRef) (v : Nat) (hf : apart f MEMC_STAT_STATE = true := by decide) : SameUpkeep s (t.fs f v) :=
  ⟨(fg_fs_apart _ _ hf).trans h.memState, h.now, h.mem⟩

theorem inc (h : SameUpkeep s t) (f : FRef) (n : Nat) (hf : apart f MEMC_STAT_STATE = true := by decide) : SameUpkeep s (t.inc f 0 n) :=
  ⟨(fg_fs_apart _ _ hf).trans h.memState, h.now, h.mem⟩

theorem ite {c : Prop} [Decidable c] (h : SameUpkeep s t) (k : SameUpkeep s u) : SameUpkeep s (if c then t else u) := by
  split <;> assumption

theorem ev (h : SameUpkeep s t) (p d k n : Nat) {c : Nat} (hc : c / 2 ^ 12 ≠ 7) : SameUpkeep s (t.ev p c d k n) :=
  ⟨(congrArg (fun r => rfget r MEMC_STAT_STATE 0 0) (ev_regs t p d k n hc)).trans h.memState, (ev_now t _ _ _ _ _).trans h.now,
    by rw [ev_mem]; exact h.mem⟩

/-- Requests may come and go. -/
theorem queues (h : SameUpkeep s t) (l m : List DReq) : SameUpkeep s (t.modMem fun x => { x with inflight := l, waiting := m }) :=
  ⟨h.memState, h.now, by
    show { t.mem with inflight := l, waiting := m } = _
    rw [h.mem]
    rfl⟩

theorem showCredits (h : SameUpkeep s t) : SameUpkeep s t.showCredits :=
  ((((h.fs _ _).fs _ _).fs _ _).fs _ _).fs _ _

theorem accept (h : SameUpkeep s t) (r : DReq) : SameUpkeep s (t.accept r) := by
  have hq {v : State} (hv : SameUpkeep s v) : SameUpkeep s
      ((v.modMem fun m => { m with inflight := m.inflight ++ [{ r with since := v.now }] }).showCredits) :=
    (hv.queues _ v.mem.waiting).showCredits
  unfold State.accept
  dsimp only
  split
  · exact hq (.ite (h.inc _ _) h)
  · exact hq (.ite (h.inc _ _) h)

theorem acceptWaiting (h : SameUpkeep s t) : SameUpkeep s t.acceptWaiting := by
  unfold State.acceptWaiting
  refine .ite (List.foldlRecOn (motive := SameUpkeep s) _ _ (h.queues t.mem.inflight []) fun u hu r _ => ?_) h
  exact .ite (hu.accept r) (hu.queues u.mem.inflight _)

end SameUpkeep

/-- Training has ended at this instant: the controller is READY and its upkeep begins (R266, R268, R269). -/
def memBegins (s : State) : State :=
  (s.fs MEMC_STAT_STATE 2).modMem fun m => { m with
    rows := List.replicate 16 none, owed := List.replicate 16 0, turn := [0, 0], refAt := [s.now, s.now], mr4At := s.now,
    zqAt := s.now, oscAt := s.now, bwAt := s.now, scrubAt := s.now }

theorem memBegins_memState (s : State) : s.memBegins.memState = 2 := by
  unfold memBegins memState
  rw [modMem_fg, fg_fs _ ⟨by decide, by decide⟩]
  rfl

/-- What training found, in the PHY's registers. -/
def trainShown (s : State) (r : TrainRes) : State :=
  let u := (s.fs MP_TRAIN_TIME (satN 16 r.us)).fs MP_TRAIN_DONE 0x1F
  let u := (u.setReg pgMEMPHY MP_VREF.off (Nat.land r.vref.toNat 0x3F3F)).setReg pgMEMPHY MP_MR.off r.mr.toNat
  let u := r.lanes.zipIdx.foldl (fun s x => if x.2 < 4 then s.fsk MP_LANE 0 x.2 x.1.toNat else s) u
  r.cas.zipIdx.foldl (fun s x => if x.2 < 2 then s.fsk MP_CA 0 x.2 (x.1.toNat % 2 ^ 24) else s) u

/-- Registers are all that differs. -/
structure RegsOnly (s t : State) : Prop where
  all : t = { s with regs := t.regs }

theorem RegsOnly.put {s t : State} (h : RegsOnly s t) (r : Regs) : RegsOnly s { t with regs := r } := ⟨by
  conv_lhs => rw [h.all]⟩

theorem RegsOnly.fs {s t : State} (h : RegsOnly s t) (f : FRef) (v : Nat) : RegsOnly s (t.fs f v) := h.put _
theorem RegsOnly.fsk {s t : State} (h : RegsOnly s t) (f : FRef) (i k v : Nat) : RegsOnly s (t.fsk f i k v) := h.put _
theorem RegsOnly.setReg {s t : State} (h : RegsOnly s t) (p o v : Nat) : RegsOnly s (t.setReg p o v) := h.put _

theorem RegsOnly.foldl {α : Type} {s t : State} (l : List α) {f : State → α → State} (hf : ∀ u x, RegsOnly s u → RegsOnly s (f u x))
    (h : RegsOnly s t) : RegsOnly s (l.foldl f t) :=
  List.foldlRecOn (motive := RegsOnly s) l f h fun u hu x _ => hf u x hu

theorem regsOnly_trainShown (s : State) (r : TrainRes) : RegsOnly s (s.trainShown r) := by
  have hite (c : Prop) [Decidable c] (f : FRef) (k v : Nat) (u : State) (hu : RegsOnly s u) :
      RegsOnly s (if c then u.fsk f 0 k v else u) := by
    split
    · exact hu.fsk f 0 k v
    · exact hu
  have hregs : RegsOnly s s := ⟨rfl⟩
  exact .foldl _ (fun u x => hite _ _ _ _ u) (.foldl _ (fun u x => hite _ _ _ _ u)
    ((((hregs.fs _ _).fs _ _).setReg _ _ _).setReg _ _ _))

theorem trainEnd_upkeep (s : State) (r : TrainRes) :
    SameUpkeep ((s.advance (s.mem.trainAt + r.us * Config.us)).trainShown r).memBegins (s.trainEnd r) := by
  have hev (u : State) (d hint : Nat) : SameUpkeep u
      (if hint ≠ 3 ∧ hint ≠ d ∧ !u.mem.restored then u.ev pgMEMC 0x0B11 d kInfo 0 else u) :=
    .ite ((SameUpkeep.refl u).ev _ _ _ _ (by decide)) (.refl u)
  have hinfo (u : State) : SameUpkeep u (u.ev pgMEMC 0x0B10 (u.fg MEMC_RATE_MTS) kInfo 0) := (SameUpkeep.refl u).ev _ _ _ _ (by decide)
  exact ((hinfo _).trans (hev _ _ _)).acceptWaiting

end State

theorem runs_trainingComplete {s : State} (r : TrainRes) (hm : s.memState = 1) :
    Runs (.trainingComplete r) s fun t => t.memReady = true ∧ t.now = max s.now (s.mem.trainAt + r.us * Config.us) ∧
      t.mem.dram = s.mem.dram ∧ t.mem.zqAt = t.now ∧ t.mem.refAt = [t.now, t.now] := by
  have hup := State.trainEnd_upkeep s.begin_ r
  have hshown := State.regsOnly_trainShown (s.begin_.advance (s.begin_.mem.trainAt + r.us * Config.us)) r
  have hm' : s.begin_.memState = 1 := hm
  have hrun : exec (.trainingComplete r) s = .next (s.begin_.trainEnd r) := congrArg Host.Outcome.next (if_pos hm')
  refine ⟨_, hrun, ?_⟩
  generalize (s.begin_.advance (s.begin_.mem.trainAt + r.us * Config.us)).trainShown r = u at hup hshown
  have hnow : u.now = max s.now (s.mem.trainAt + r.us * Config.us) := by rw [hshown.all]; rfl
  have hmem : u.mem = s.mem := by rw [hshown.all]; rfl
  have hnow' : u.memBegins.now = max s.now (s.mem.trainAt + r.us * Config.us) := hnow
  refine ⟨?_, hup.now.trans hnow', ?_, ?_, ?_⟩
  · rw [State.memReady, hup.memState, State.memBegins_memState]
    rfl
  · have hdram : u.mem.dram = s.mem.dram := congrArg MemSt.dram hmem
    rw [hup.mem]
    exact hdram
  · rw [hup.mem, hup.now]
    rfl
  · rw [hup.mem, hup.now]
    rfl

/-! ### Upkeep of a READY memory -/

theorem runs_zqCalibration {s : State} (hr : s.memReady = true) :
    Runs .zqCalibration s fun t => t.now = max s.now (s.mem.zqAt + 64 * Config.ms) ∧ t.mem = { s.mem with zqAt := t.now } ∧
      t.regs = s.regs := by
  have hrun : exec .zqCalibration s = .next ((s.begin_.advance (s.begin_.mem.zqAt + 64 * Config.ms)).modMem fun m =>
      { m with zqAt := max s.now (s.mem.zqAt + 64 * Config.ms) }) := congrArg Host.Outcome.next (if_pos hr)
  exact ⟨_, hrun, rfl, rfl, rfl⟩

/-- The oscillator has run, and its count is shown (R268). -/
def State.oscRan (s : State) (count : Nat) : State :=
  let u := s.advance (s.mem.oscAt + 100 * Config.ms)
  (u.fs MP_TRACK_OSC count).modMem fun m => { m with oscAt := u.now }

theorem State.oscRan_count (s : State) (count : Nat) : (s.oscRan count).fg MP_TRACK_OSC = count % 2 ^ 16 := by
  unfold oscRan
  rw [modMem_fg, fg_fs _ ⟨by decide, by decide⟩]
  rfl

/-- Write DQ delays of the lanes after a move. -/
def State.lanesMoved (s : State) (l : List Nat) : State :=
  l.zipIdx.foldl (fun s x => if x.2 < 4 then s.fsk MP_LANE_WDQ 0 x.2 x.1 else s) s

theorem State.lanesMoved_osc (s : State) (l : List Nat) : SameReg pgMEMPHY MP_TRACK_OSC.off s (s.lanesMoved l) := by
  refine .foldl _ (fun u x => ?_) (.refl _ _ s)
  split
  · exact (SameReg.refl _ _ u).fsk _ _ _ _ (by simp only [regKey, MP_LANE_WDQ, MP_TRACK_OSC, pgMEMPHY]; omega)
  · exact .refl _ _ u

theorem State.regsOnly_lanesMoved (s : State) (l : List Nat) : RegsOnly s (s.lanesMoved l) := by
  refine .foldl _ (fun u x hu => ?_) ⟨rfl⟩
  split
  · exact hu.fsk _ _ _ _
  · exact hu

theorem exec_dqsOscillator {s : State} (count : Nat) (wdq : Option (List Nat)) (hr : s.memReady = true) :
    exec (.dqsOscillator count wdq) s = .next (match wdq with
      | some l => ((s.begin_.oscRan count).lanesMoved l).fs MP_TRACK_ADJ ((s.begin_.oscRan count).fg MP_TRACK_ADJ + 1)
      | none => s.begin_.oscRan count) := by
  have hready : s.begin_.memReady = true := hr
  cases wdq <;> exact congrArg Host.Outcome.next (if_pos hready)

theorem runs_dqsOscillator {s : State} (count : Nat) (hr : s.memReady = true) :
    Runs (.dqsOscillator count none) s fun t => t.now = max s.now (s.mem.oscAt + 100 * Config.ms) ∧
      t.mem = { s.mem with oscAt := t.now } ∧ t.fg MP_TRACK_OSC = count % 2 ^ 16 ∧ State.regsBut [(pgMEMPHY, MP_TRACK_OSC.off)] s t :=
  ⟨_, exec_dqsOscillator count none hr, rfl, rfl, State.oscRan_count _ _,
    (State.regsBut.refl _ s).fs MP_TRACK_OSC count (by decide) (by decide) (by decide)⟩

theorem runs_dqsOscillator_moved {s : State} (count : Nat) (wdq : Option (List Nat)) (hr : s.memReady = true) :
    Runs (.dqsOscillator count wdq) s fun t => t.mem.oscAt = max s.now (s.mem.oscAt + 100 * Config.ms) ∧
      t.fg MP_TRACK_OSC = count % 2 ^ 16 := by
  refine ⟨_, exec_dqsOscillator count wdq hr, ?_⟩
  cases wdq with
  | none => exact ⟨rfl, State.oscRan_count _ _⟩
  | some l =>
    have hmem : ((s.begin_.oscRan count).lanesMoved l).mem = (s.begin_.oscRan count).mem := by
      rw [(State.regsOnly_lanesMoved _ l).all]
    refine ⟨congrArg MemSt.oscAt hmem, ?_⟩
    exact (State.fg_fs_apart _ _ (by decide)).trans
      ((State.SameReg.fg (f := MP_TRACK_OSC) (State.lanesMoved_osc _ l)).trans (State.oscRan_count _ _))

/-- The event of corrected errors changes their count and event queues (R276). -/
theorem State.sbeTick_keeps (s : State) : s.sbeTick.now = s.now ∧ s.sbeTick.regs = s.regs ∧
    s.sbeTick.mem = { s.mem with sbeCnt := s.sbeTick.mem.sbeCnt } := by
  unfold sbeTick
  split
  · have hev : (if s.masked pgMECC 0 then s else s.ev pgMECC 0x0B12 (satN 16 s.mem.sbeCnt) kFault 0).now = s.now ∧
        (if s.masked pgMECC 0 then s else s.ev pgMECC 0x0B12 (satN 16 s.mem.sbeCnt) kFault 0).regs = s.regs ∧
        (if s.masked pgMECC 0 then s else s.ev pgMECC 0x0B12 (satN 16 s.mem.sbeCnt) kFault 0).mem = s.mem := by
      split
      · exact ⟨rfl, rfl, rfl⟩
      · exact ⟨ev_now _ _ _ _ _ _, ev_regs _ _ _ _ _ (by decide), ev_mem _ _ _ _ _ _⟩
    obtain ⟨hnow, hregs, hmem⟩ := hev
    refine ⟨hnow, hregs, ?_⟩
    dsimp only
    rw [modMem_mem, hmem]
  · exact ⟨rfl, rfl, rfl⟩

/-- The bank whose turn it is (R269). -/
def State.turnBank (s : State) (sc : Nat) : Nat := 8 * sc + nth s.mem.turn sc 0 % 8

/-- Refreshes that a bank owes once `n` are issued: at most POSTMAX. -/
def State.owedAfter (s : State) (b n : Nat) : Nat :=
  let left := nth s.mem.owed b 0 + 1 - n
  if decide (s.fg MEMC_REF_POSTMAX < left) = true then s.fg MEMC_REF_POSTMAX else left

/-- A refresh has fallen due, before the event of corrected errors. -/
def State.refreshed (s : State) (sc n : Nat) : State :=
  let u := s.advance (nth s.mem.refAt sc 0 + s.refInterval)
  let force := decide (s.fg MEMC_REF_POSTMAX < nth s.mem.owed (s.turnBank sc) 0 + 1 - n)
  u.modMem fun m => { m with
    owed := modAt m.owed (s.turnBank sc) fun _ => s.owedAfter (s.turnBank sc) n,
    rows := if force ∨ 0 < n then modAt m.rows (s.turnBank sc) fun _ => none else m.rows,
    turn := modAt m.turn sc fun x => (x + 1) % 8, refAt := modAt m.refAt sc fun _ => u.now }

theorem runs_refresh {s : State} (sc : Fin 2) (n : Nat) (hr : s.memReady = true) :
    Runs (.refresh sc n) s fun t => t.now = max s.now (nth s.mem.refAt sc.val 0 + s.refInterval) ∧ t.regs = s.regs ∧
      t.mem.dram = s.mem.dram ∧ t.mem.turn = modAt s.mem.turn sc.val (fun x => (x + 1) % 8) ∧
      t.mem.owed = modAt s.mem.owed (s.turnBank sc.val) (fun _ => s.owedAfter (s.turnBank sc.val) n) := by
  have hready : s.begin_.memReady = true := hr
  have hrun : exec (.refresh sc n) s = .next (s.begin_.refreshed sc.val n).sbeTick := congrArg Host.Outcome.next (if_pos hready)
  obtain ⟨hnow, hregs, hmem⟩ := (s.begin_.refreshed sc.val n).sbeTick_keeps
  refine ⟨_, hrun, hnow, hregs, ?_, ?_, ?_⟩ <;> rw [hmem] <;> rfl

theorem State.owedAfter_le {s : State} {b n : Nat} (h : nth s.mem.owed b 0 + 1 ≤ s.fg MEMC_REF_POSTMAX + n) :
    s.owedAfter b n = nth s.mem.owed b 0 + 1 - n := by
  unfold owedAfter
  dsimp only
  rw [if_neg (by rw [decide_eq_true_iff]; omega)]

/-- MR4 has been read, and the hotter die is shown (Table 13.5). -/
def State.mr4Shown (s : State) (h : Nat) : State :=
  let u := s.advance (s.mem.mr4At + s.fg MEMC_REF_MR4MS * Config.ms)
  let u := (u.fs MEMC_REFST_MR4 h).fs MEMC_REFST_MULT (if h < 4 then 0 else if h = 4 then 1 else 2)
  let u := (u.fs MEMC_REFST_DERATE (b2n (decide (6 ≤ h)))).fs MEMC_REFST_OVERTEMP (b2n (h == 7))
  u.modMem fun m => { m with mr4At := u.now }

theorem State.mr4Shown_mr4 (s : State) {h : Nat} (hh : h < 8) : (s.mr4Shown h).fg MEMC_REFST_MR4 = h := by
  unfold mr4Shown
  rw [modMem_fg, fg_fs_apart _ _ (by decide), fg_fs_apart _ _ (by decide), fg_fs_apart _ _ (by decide), fg_fs _ ⟨by decide, by decide⟩]
  exact Nat.mod_eq_of_lt hh

theorem State.mr4Shown_overtemp (s : State) (h : Nat) : (s.mr4Shown h).fg MEMC_REFST_OVERTEMP = b2n (h == 7) := by
  unfold mr4Shown
  rw [modMem_fg, fg_fs _ ⟨by decide, by decide⟩]
  cases h == 7 <;> rfl

theorem State.pagesBut_mr4Shown (s : State) (h : Nat) : pagesBut [pgMEMC, pgFAULT] s (s.mr4Shown h) :=
  ((((((pagesBut.refl _ s).advance _).set MEMC_REFST_MR4 _).set MEMC_REFST_MULT _).set MEMC_REFST_DERATE _).set MEMC_REFST_OVERTEMP _).modMem _

theorem runs_mr4Poll {s : State} (a b : Fin 8) (hr : s.memReady = true) :
    Runs (.mr4Poll a b) s fun t => t.fg MEMC_REFST_MR4 = max a.val b.val ∧ t.fg MEMC_REFST_OVERTEMP = b2n (max a.val b.val == 7) ∧
      t.mem = { s.mem with mr4At := t.now } ∧ State.pagesBut [pgMEMC, pgFAULT] s t ∧
      t.now = max s.now (s.mem.mr4At + s.fg MEMC_REF_MR4MS * Config.ms) := by
  have hready : s.begin_.memReady = true := hr
  have hlt : max a.val b.val < 8 := by omega
  have hmr4 := s.begin_.mr4Shown_mr4 hlt
  have hover := s.begin_.mr4Shown_overtemp (max a.val b.val)
  have hpages : State.pagesBut [pgMEMC, pgFAULT] s (s.begin_.mr4Shown (max a.val b.val)) := s.begin_.pagesBut_mr4Shown _
  have hnow : (s.begin_.mr4Shown (max a.val b.val)).now = max s.now (s.mem.mr4At + s.fg MEMC_REF_MR4MS * Config.ms) := rfl
  have hmem : (s.begin_.mr4Shown (max a.val b.val)).mem =
      { s.mem with mr4At := (s.begin_.mr4Shown (max a.val b.val)).now } := rfl
  have hrun : exec (.mr4Poll a b) s = .next
      (if max a.val b.val = 7 ∧ !(s.begin_.mr4Shown (max a.val b.val)).hasFault pgMEMC 1 then
        (s.begin_.mr4Shown (max a.val b.val)).fault pgMEMC 1 0x7B12 (if a.val = 7 then 0 else 1) 0
      else s.begin_.mr4Shown (max a.val b.val)) := congrArg Host.Outcome.next (if_pos hready)
  generalize s.begin_.mr4Shown (max a.val b.val) = u at *
  refine ⟨_, hrun, ?_⟩
  split
  · have hreg := (State.SameReg.refl pgMEMC MEMC_REFST.off u).fault pgMEMC 1 0x7B12 (if a.val = 7 then 0 else 1) 0
    rw [State.fault_mem, State.fault_now]
    exact ⟨(State.SameReg.fg (f := MEMC_REFST_MR4) hreg).trans hmr4, (State.SameReg.fg (f := MEMC_REFST_OVERTEMP) hreg).trans hover, hmem,
      hpages.fault _ _ _ _ _ (by decide) (by decide) (by decide), hnow⟩
  · exact ⟨hmr4, hover, hmem, hpages, hnow⟩

theorem runs_pageIdleExpire {s : State} {sc : Fin 2} {b : Fin 8} {row at_ : Nat} (h : nth s.mem.rows (8 * sc.val + b.val) none = some (row, at_)) :
    Runs (.pageIdleExpire sc b) s fun t => t.mem = { s.mem with rows := modAt s.mem.rows (8 * sc.val + b.val) (fun _ => none) } ∧
      t.regs = s.regs ∧ t.now = max s.now (at_ + ceilDiv (s.fg MEMC_PAGE_IDLE * 32000) (s.fg MEMC_RATE_MTS)) := by
  have hrow : nth s.begin_.mem.rows (8 * sc.val + b.val) none = some (row, at_) := h
  have hrun : exec (.pageIdleExpire sc b) s = .next ((s.begin_.advance
      (at_ + ceilDiv (s.fg MEMC_PAGE_IDLE * 32000) (s.fg MEMC_RATE_MTS))).modMem fun m =>
        { m with rows := modAt m.rows (8 * sc.val + b.val) fun _ => none }) := by
    show execPageIdleExpire sc b s = _
    unfold execPageIdleExpire
    simp only [hrow]
    rfl
  exact ⟨_, hrun, rfl, rfl, rfl⟩

end Sys2Proof.Machine

/-! PROOFS. DRAM: refresh, page timers and the scrub (R271, R276, R277). -/

namespace Sys2Proof.Machine

namespace State

/-! ### Checks of stored words -/

/-- What a check of a stored word changes: registers of MECC and FAULT, event queues, wrong bits and the count of corrected errors. -/
structure MemChecked (s t : State) : Prop where
  now : t.now = s.now
  pages : pagesBut [pgMECC, pgFAULT] s t
  mem : t.mem = { s.mem with flips := t.mem.flips, sbeAt := t.mem.sbeAt, sbeCnt := t.mem.sbeCnt }

namespace MemChecked

variable {s t u : State}

theorem refl (s : State) : MemChecked s s := ⟨rfl, .refl _ _, rfl⟩

theorem trans (h : MemChecked s t) (k : MemChecked t u) : MemChecked s u :=
  ⟨k.now.trans h.now, h.pages.trans k.pages, by
    rw [k.mem]
    conv_lhs => rw [h.mem]⟩

theorem ite {c : Prop} [Decidable c] (h : MemChecked s t) (k : MemChecked s u) : MemChecked s (if c then t else u) := by
  split <;> assumption

theorem fs (h : MemChecked s t) (f : FRef) (v : Nat) (hf : f.page < 256 ∧ f.off < 4096 ∧ f.page ∈ [pgMECC, pgFAULT] := by decide) :
    MemChecked s (t.fs f v) := ⟨h.now, h.pages.set f v hf, h.mem⟩

theorem inc (h : MemChecked s t) (f : FRef) (n : Nat) (hf : f.page < 256 ∧ f.off < 4096 ∧ f.page ∈ [pgMECC, pgFAULT] := by decide) :
    MemChecked s (t.inc f 0 n) := ⟨h.now, h.pages.inc f 0 n hf.1 hf.2.1 hf.2.2, h.mem⟩

theorem fault (h : MemChecked s t) (b c d n : Nat) : MemChecked s (t.fault pgMECC b c d n) :=
  ⟨(fault_now t _ _ _ _ _).trans h.now, h.pages.fault _ _ _ _ _ (by decide) (by decide) (by decide), by rw [fault_mem]; exact h.mem⟩

theorem ev (h : MemChecked s t) (c d k n : Nat) : MemChecked s (t.ev pgMECC c d k n) :=
  ⟨(ev_now t _ _ _ _ _).trans h.now, h.pages.ev _ _ _ _ _ (by decide), by rw [ev_mem]; exact h.mem⟩

theorem counted (h : MemChecked s t) (a n : Nat) : MemChecked s (t.modMem fun m => { m with sbeAt := a, sbeCnt := n }) :=
  ⟨h.now, h.pages.modMem _, by
    show { t.mem with sbeAt := a, sbeCnt := n } = _
    rw [h.mem]
    rfl⟩

theorem setFlips (h : MemChecked s t) (w : Nat) (l : List Nat) : MemChecked s (t.setFlips w l) :=
  ⟨h.now, h.pages.modMem _, by
    show { t.mem with flips := cput t.mem.flips w l [] } = _
    rw [h.mem]
    rfl⟩

theorem addFlips (h : MemChecked s t) (w : Nat) (bits : List Nat) : MemChecked s (t.addFlips w bits) := .ite h (h.setFlips _ _)

theorem sbeTick (h : MemChecked s t) : MemChecked s t.sbeTick := by
  unfold State.sbeTick
  exact .ite ((ite h (h.ev _ _ _ _)).counted _ 0) h

theorem scrub (h : MemChecked s t) : t.mem.scrub = s.mem.scrub := by rw [h.mem]
theorem scrubAt (h : MemChecked s t) : t.mem.scrubAt = s.mem.scrubAt := by rw [h.mem]
theorem dram (h : MemChecked s t) : t.mem.dram = s.mem.dram := by rw [h.mem]

theorem checkWord (h : MemChecked s t) (w cls : Nat) (wback : Bool) : MemChecked s (t.checkWord w cls wback).1 := by
  unfold State.checkWord
  split
  · exact h
  · have hshown {b : Nat} := ((((h.inc ME_SBE_COUNT 1).fs ME_SADDR_WORD w).fs ME_SINFO_BIT b).fs ME_SINFO_CLASS cls).fs (hFAULT pgMECC)
      (Nat.lor (((((t.inc ME_SBE_COUNT 0 1).fs ME_SADDR_WORD w).fs ME_SINFO_BIT b).fs ME_SINFO_CLASS cls).fg (hFAULT pgMECC)) (2 ^ 0))
    have hcount {v : State} (hv : MemChecked s v) : MemChecked s (if v.mem.sbeCnt = 0 then v.modMem fun m => { m with sbeAt := v.now, sbeCnt := 1 }
        else v.modMem fun m => { m with sbeCnt := m.sbeCnt + 1 }) := .ite (hv.counted _ 1) (hv.counted v.mem.sbeAt _)
    exact .ite ((hcount hshown).setFlips _ _) (hcount hshown)
  · exact (((h.inc ME_DBE_COUNT 1).fs ME_DADDR_WORD w).fs ME_DINFO_CLASS cls).fault _ _ _ _

end MemChecked

/-! ### Scrubbing -/

/-- When the next scrub read is due (R277). -/
def scrubDue (s : State) : Nat := s.mem.scrubAt + s.fg ME_CFG_SCRUBH * 3600 * Config.sec / (s.viewBytes / 8)

theorem viewBytes_begin (s : State) : s.begin_.viewBytes = s.viewBytes := by simp only [viewBytes, begin_fg]

theorem scrubDue_begin (s : State) : s.begin_.scrubDue = s.scrubDue := by
  simp only [scrubDue, viewBytes, begin_mem, begin_fg]

/-- A scrub read of the next of `words` words at its instant `due`, before the event of corrected errors. -/
def scrubRead (s : State) (errs : List Nat) (words due : Nat) : State :=
  let s := (s.advance due).modMem fun m => { m with scrubAt := due }
  let w := s.mem.scrub % words
  let late := s.mem.inflight.any fun x => x.off == w / 8 * 64 && x.wr.isSome
  let s := s.addFlips w errs
  let s := (s.checkWord w 4 (s.fg ME_CFG_WBACK == 1 && !late)).1
  let nx := (w + 1) % words
  let s := s.fs ME_SCRUBST_POS (nx * 65536 / words)
  let s := if nx = 0 then s.fs ME_SCRUBST_PASSES (s.fg ME_SCRUBST_PASSES + 1) else s
  s.modMem fun m => { m with scrub := nx }

theorem scrub_eq {s : State} (errs : List Nat) (hr : s.memReady = true) (hc : s.fg ME_CFG_SCRUB ≠ 0) (hw : s.viewBytes / 8 ≠ 0)
    (hq : ((s.mem.inflight ++ s.mem.waiting).any fun r => decide (r.cls < 3)) = false) :
    s.scrub errs = (s.scrubRead errs (s.viewBytes / 8) s.scrubDue).sbeTick := by
  have hrun : ¬(!s.memReady ∨ s.fg ME_CFG_SCRUB = 0 ∨ s.viewBytes / 8 = 0 ∨
      (s.mem.inflight ++ s.mem.waiting).any (fun r => decide (r.cls < 3))) := by
    simp only [hr, hc, hw, hq]
    decide
  unfold scrub scrubRead scrubDue
  exact if_neg hrun

/-- The word is checked, and the next word is noted. -/
theorem scrubRead_checks (s : State) (errs : List Nat) (words due : Nat) :
    ∃ x, MemChecked ((s.advance due).modMem fun m => { m with scrubAt := due }) x ∧
      s.scrubRead errs words due = x.modMem fun m => { m with scrub := (s.mem.scrub % words + 1) % words } := by
  unfold scrubRead
  extract_lets u w late v x nx y z
  have hv : MemChecked u v := (MemChecked.refl u).addFlips w errs
  have hx : MemChecked u x := hv.checkWord w 4 _
  have hy : MemChecked u y := hx.fs _ _
  have hz : MemChecked u z := .ite (hy.fs _ _) hy
  exact ⟨z, hz, rfl⟩

/-- What a scrub read at `due` leaves, whatever the word. -/
def ScrubLeaves (s : State) (due nx : Nat) (t : State) : Prop :=
  t.mem.scrub = nx ∧ t.mem.dram = s.mem.dram ∧ pagesBut [pgMECC, pgFAULT] s t ∧ t.mem.scrubAt ≤ t.now ∧ t.mem.scrubAt = due

theorem scrubLeaves {s x : State} {due : Nat} (hx : MemChecked ((s.begin_.advance due).modMem fun m => { m with scrubAt := due }) x) (nx : Nat) :
    ScrubLeaves s due nx (x.modMem fun m => { m with scrub := nx }).sbeTick := by
  have hpages : pagesBut [pgMECC, pgFAULT] s x := (pagesBut.of_eq (.refl _ s) rfl).trans hx.pages
  have hnow : x.now = max s.now due := hx.now
  have ht := (MemChecked.refl (x.modMem fun m => { m with scrub := nx })).sbeTick
  have hat := ht.scrubAt.trans hx.scrubAt
  refine ⟨ht.scrub, ht.dram.trans hx.dram, (hpages.modMem _).trans ht.pages, ?_, hat⟩
  rw [hat, ht.now, modMem_now, hnow]
  exact Nat.le_max_right _ _

end State

/-- With no request waiting but the host's, the next word is read. -/
theorem runs_scrubRead {s : State} (errs : List Nat) (hr : s.memReady = true) (hc : s.fg ME_CFG_SCRUB ≠ 0) (hw : s.viewBytes / 8 ≠ 0)
    (hq : ((s.mem.inflight ++ s.mem.waiting).any fun r => decide (r.cls < 3)) = false) :
    Runs (.scrubRead errs) s (s.ScrubLeaves s.scrubDue ((s.mem.scrub % (s.viewBytes / 8) + 1) % (s.viewBytes / 8))) := by
  have hscrub := State.scrub_eq (s := s.begin_) errs hr hc (by rwa [State.viewBytes_begin]) hq
  rw [State.viewBytes_begin, State.scrubDue_begin] at hscrub
  obtain ⟨x, hx, hread⟩ := s.begin_.scrubRead_checks errs (s.viewBytes / 8) s.scrubDue
  rw [hread, State.begin_mem] at hscrub
  exact ⟨_, congrArg Host.Outcome.next hscrub, State.scrubLeaves hx _⟩

/-! ### Error injection -/

/-- An error injection in SERVICE is stored (R281). -/
theorem runs_errorInjection {s s1 : State} {a : Access} {v : Word} {p o : Nat} {w : Who} {g : Reg}
    (ha : accepted s.begin_ a (regAddr pgMECC ME_INJ.off) v.toNat = some (s1, w, p, o, g)) (hm : s1.mode = .service) :
    Runs (.errorInjection a v) s fun t => t.reg pgMECC ME_INJ.off = mergeFlds g.flds (s1.reg pgMECC ME_INJ.off) v.toNat (2 ^ 32 - 1) % 2 ^ 32 ∧
      State.regsBut [(pgMECC, ME_INJ.off), (pgMECC, 0x024)] s1 t ∧ t.mem = s1.mem ∧ t.outs = doneOuts := by
  obtain ⟨rfl, rfl⟩ := accepted_reg (by decide) (by decide) ha
  have hg := (accepted_addr ha).2
  have hb : g.banked = false := Option.some.inj hg ▸ rfl
  have hok : hInject s1 w pgMECC ME_INJ.off g v.toNat = .ok (storeReg s1 w pgMECC ME_INJ.off g v.toNat) := if_neg fun h => h.2 hm
  have hstored := (State.regsBut.refl [(pgMECC, ME_INJ.off), (pgMECC, 0x024)] s1).put (b' := bankOfReg s1.regs w pgMECC ME_INJ.off)
    (mergeFlds g.flds (rget s1.regs (bankOfReg s1.regs w pgMECC ME_INJ.off) pgMECC ME_INJ.off) v.toNat (2 ^ 32 - 1)) (p' := pgMECC)
    (o' := ME_INJ.off) (by decide) (by decide) (by decide)
  exact Runs.direct rfl ha hok ⟨(State.done_rget _ 0 (by decide) (by decide) (by decide)).trans (storeReg_reg _ _ _ hg hb (by decide)),
    hstored.done (by decide) (by decide), rfl, done_outs ha rfl⟩

/-- Outside SERVICE it is refused. -/
theorem runs_errorInjection_refused {s s1 : State} {a : Access} {v : Word} {p o : Nat} {w : Who} {g : Reg}
    (ha : accepted s.begin_ a (regAddr pgMECC ME_INJ.off) v.toNat = some (s1, w, p, o, g)) (hm : s1.mode ≠ .service) (hv : v.toNat % 4 ≠ 0) :
    Runs (.errorInjection a v) s fun t => t.outs = [.res ⟨0x5B10, w.slot⟩ []] ∧ t.mem = s1.mem := by
  have hok : hInject s1 w p o g v.toNat = .error ⟨0x5B10, w.slot⟩ := if_pos ⟨hv, hm⟩
  have hrest := (admitted_refuse (.refl s1) w ⟨0x5B10, w.slot⟩).all
  have hdirect := direct_turned ha hok
  rw [State.resetRefused_other _ w v.toNat (addrReg_regAddr (p := pgMECC) (o := ME_INJ.off) (by decide) (by decide))
    (show 0x5B10 ≠ pageCode 6 pgMECC 2 by decide)] at hdirect
  refine ⟨_, congrArg Host.Outcome.next hdirect, ?_, ?_⟩
  · rw [State.emit_outs, hrest]
    exact congrArg (· ++ _) (accepted_outs ha)
  · rw [State.emit_mem, hrest]

end Sys2Proof.Machine

/-! PROOFS. DRAM: error injection, requests and completions (R272, R274, R276, R281). -/

namespace Sys2Proof.Machine

namespace State

/-! ### Requests in flight -/

/-- The requests in flight and those that wait are the same. -/
structure SameReqs (s t : State) : Prop where
  inflight : t.mem.inflight = s.mem.inflight
  waiting : t.mem.waiting = s.mem.waiting

namespace SameReqs

variable {s t u : State}

theorem refl (s : State) : SameReqs s s := ⟨rfl, rfl⟩

theorem trans (h : SameReqs s t) (k : SameReqs t u) : SameReqs s u := ⟨k.inflight.trans h.inflight, k.waiting.trans h.waiting⟩

theorem of_mem (h : SameReqs s t) (e : u.mem = t.mem) : SameReqs s u := ⟨e ▸ h.inflight, e ▸ h.waiting⟩

theorem ite {c : Prop} [Decidable c] (h : SameReqs s t) (k : SameReqs s u) : SameReqs s (if c then t else u) := by
  split <;> assumption

theorem foldl {α : Type} (l : List α) {f : State → α → State} (hf : ∀ u x, SameReqs u (f u x)) (h : SameReqs s t) :
    SameReqs s (l.foldl f t) :=
  List.foldlRecOn (motive := SameReqs s) l f h fun u hu x _ => hu.trans (hf u x)

theorem checked (h : SameReqs s t) (k : MemChecked t u) : SameReqs s u :=
  h.trans ⟨by rw [k.mem], by rw [k.mem]⟩

theorem setFlips (h : SameReqs s t) (w : Nat) (l : List Nat) : SameReqs s (t.setFlips w l) := ⟨h.inflight, h.waiting⟩

theorem putByte (h : SameReqs s t) (off : Nat) (v : Byte) : SameReqs s (t.putByte off v) := ⟨h.inflight, h.waiting⟩

theorem inject (h : SameReqs s t) (w : Nat) : SameReqs s (t.inject w) := by
  unfold State.inject
  exact .ite h ⟨h.inflight, h.waiting⟩

/-- Bytes of a word go in, and it has no wrong bits then but what is injected. -/
theorem stored (h : SameReqs s t) (w : Nat) (zeros : Bool) (new : List (Option Byte)) :
    SameReqs s (((new.zipIdx.foldl (fun (s : State) x => match x.1 with
      | some v => s.putByte (8 * w + x.2) v
      | none => if zeros then s.putByte (8 * w + x.2) 0 else s) t).setFlips w []).inject w) := by
  refine ((foldl _ (fun u x => ?_) h).setFlips w []).inject w
  split
  · exact (refl u).putByte _ _
  · exact .ite ((refl u).putByte _ _) (refl u)

theorem storeWord (h : SameReqs s t) (r : DReq) (i : Nat) : SameReqs s (t.storeWord r i).1 := by
  have hcheck : SameReqs s (t.checkWord (r.off / 8 + i) r.cls false).1 := h.checked ((MemChecked.refl t).checkWord _ _ _)
  unfold State.storeWord
  extract_lets w new put
  split
  · exact h
  · split
    · exact h.stored _ _ _
    · split
      next x bad hx =>
      have hfst : (t.checkWord w r.cls false).1 = x := congrArg Prod.fst hx
      have hx : SameReqs s x := hfst ▸ hcheck
      split
      · exact hx.stored _ _ _
      · split
        · exact hx.stored _ _ _
        · exact hx

/-- The eight words of a block, one after another. -/
theorem block (h : SameReqs s t) (f : State × List Nat → Nat → State × List Nat) (hf : ∀ a i, SameReqs a.1 (f a i).1) (l : List Nat) :
    SameReqs s (l.foldl f (t, [])).1 :=
  List.foldlRecOn (motive := fun a : State × List Nat => SameReqs s a.1) l f h fun a ha i _ => ha.trans (hf a i)

theorem mgLat (h : SameReqs s t) (r : DReq) : SameReqs s (t.mgLat r) := by
  have hround (n : Int) (d : Nat) : SameReqs s (t.roundFree n d).2 := by
    unfold State.roundFree
    split
    · exact h
    · exact ⟨h.inflight, h.waiting⟩
  unfold State.mgLat
  exact .ite ((hround _ _).of_mem rfl) h

end SameReqs

theorem showCredits_mem (s : State) : s.showCredits.mem = s.mem := by
  unfold showCredits
  rw [fs_mem, fs_mem, fs_mem, fs_mem, fs_mem]

/-- A request that is served leaves the list, and nothing else of the list changes; those that wait come after. -/
theorem dramComplete_serves {s : State} {k : Nat} (errs : List (Nat × List Nat)) {r : DReq} (hk : s.mem.inflight[k]? = some r)
    (hh : s.dramHeld k = false) :
    ∃ u, SameReqs (s.modMem fun m => { m with inflight := m.inflight.eraseIdx k }) u ∧
      s.dramComplete k errs = (u.showCredits.acceptWaiting).sbeTick := by
  unfold dramComplete
  rw [hk]
  dsimp -zeta only
  extract_lets before u v w late bytes x
  rw [if_neg (by rw [hh]; decide)]
  have hu : SameReqs (s.modMem fun m => { m with inflight := m.inflight.eraseIdx k }) u := ⟨rfl, rfl⟩
  have hv := hu.foldl errs (f := fun s x => if x.1 < 8 then s.addFlips (r.off / 8 + x.1) x.2 else s) fun y e =>
    .ite ((SameReqs.refl y).checked ((MemChecked.refl y).addFlips _ _)) (.refl y)
  have hw := hv.block (fun a i => ((a.1.storeWord r i).1, if (a.1.storeWord r i).2 = true then a.2 ++ [i] else a.2))
    (fun a i => (SameReqs.refl a.1).storeWord r i) (List.range 8)
  have hread := hv.block (fun a i =>
      if ((List.range 8).all fun b => (pendingByte before r.off (8 * i + b)).isSome) = true then a
      else ((a.1.checkWord (r.off / 8 + i) r.cls (a.1.fg ME_CFG_WBACK == 1 && !late)).1,
        if (a.1.checkWord (r.off / 8 + i) r.cls (a.1.fg ME_CFG_WBACK == 1 && !late)).2 = true then a.2 ++ [i] else a.2))
    (fun a i => by
      split
      · exact .refl _
      · exact (SameReqs.refl a.1).checked ((MemChecked.refl a.1).checkWord _ _ _)) (List.range 8)
  have hx : SameReqs (s.modMem fun m => { m with inflight := m.inflight.eraseIdx k }) x := by
    dsimp only [x]
    split
    · exact .ite ⟨hw.inflight, hw.waiting⟩ ⟨hw.inflight, hw.waiting⟩
    · exact ⟨hread.inflight, hread.waiting⟩
  exact ⟨x.mgLat r, hx.mgLat r, rfl⟩

end State

/-- A request that is not held completes, with none waiting. -/
theorem runs_dramCompletion {s : State} {k : Nat} (errs : List (Nat × List Nat)) {r : DReq} (hk : s.mem.inflight[k]? = some r)
    (hw : s.mem.waiting = []) (hh : s.dramHeld k = false) :
    Runs (.dramCompletion k errs) s fun t => t.mem.inflight = s.mem.inflight.eraseIdx k := by
  obtain ⟨u, hu, hserve⟩ := State.dramComplete_serves (s := s.begin_) errs hk hh
  have hwait : u.showCredits.mem.waiting = [] := by rw [State.showCredits_mem, hu.waiting, State.modMem_mem]; exact hw
  have haccept : u.showCredits.acceptWaiting.mem.inflight = u.mem.inflight := by
    unfold State.acceptWaiting
    split
    · rw [hwait, List.foldl_nil, State.modMem_mem, State.showCredits_mem]
    · rw [State.showCredits_mem]
  have htick := ((State.SameReqs.refl u.showCredits.acceptWaiting).checked (State.MemChecked.refl _).sbeTick).inflight
  exact ⟨_, congrArg Host.Outcome.next hserve, htick.trans (haccept.trans hu.inflight)⟩

/-- An allowed request with a credit free is in flight at once. -/
theorem runs_dramRequest {s : State} {u : DUser} {addr : Nat} (wr : Option (List (Option Byte))) (ha : 0x1000000000 ≤ addr)
    (hv : (addr - 0x1000000000) / 64 * 64 < s.viewBytes) (hu : userMay u (areaOf ((addr - 0x1000000000) / 64 * 64)) = true)
    (hr : s.memReady = true) (hc : s.credit (userCls u) = true) :
    Runs (.dramRequest u addr wr) s fun t => t.mem.inflight.length = s.mem.inflight.length + 1 := by
  have haccept (r : DReq) : (s.begin_.accept r).mem.inflight.length = s.mem.inflight.length + 1 := by
    have hlen (v : State) (hv : v.mem = s.mem) : ((v.modMem fun m => { m with inflight := m.inflight ++
        [{ r with since := v.now }] }).showCredits).mem.inflight.length = s.mem.inflight.length + 1 := by
      show (v.mem.inflight ++ [{ r with since := v.now }]).length = _
      rw [hv, List.length_append]
      rfl
    unfold State.accept
    split <;> exact hlen _ (by split <;> rfl)
  have hrun : s.begin_.dramRequest u addr wr = s.begin_.accept ⟨u, userCls u, (addr - 0x1000000000) / 64 * 64,
      wr.map fun l => (List.range 64).map fun i => nth l i none, s.now⟩ := by
    have hmay : ¬(addr < 0x1000000000 ∨ s.begin_.viewBytes ≤ (addr - 0x1000000000) / 64 * 64 ∨
        (!userMay u (areaOf ((addr - 0x1000000000) / 64 * 64))) = true) := by
      rw [State.viewBytes_begin, hu]
      simp only [Bool.not_true, Bool.false_eq_true, or_false, not_or, not_lt, not_le]
      exact ⟨ha, hv⟩
    unfold State.dramRequest
    extract_lets off r
    rw [if_neg hmay, if_pos (show s.begin_.memReady = true ∧ s.begin_.credit (userCls u) = true from ⟨hr, hc⟩)]
    rfl
  exact ⟨_, congrArg Host.Outcome.next hrun, haccept _⟩

/-- Settles O36: training by how many attempts fail, its end, and each duty of the upkeep. -/
theorem memoryUpkeep : Obligations.MemoryUpkeep := by
  refine ⟨fun _ => runs_dramTraining_off, fun _ => runs_dramTraining_kept, fun _ _ _ _ => runs_dramTraining_fails,
    fun _ => runs_trainingComplete, fun _ => runs_zqCalibration, fun _ => runs_dqsOscillator, fun s sc n hr _ hle => ?_,
    fun _ => runs_mr4Poll, fun _ _ _ _ _ => runs_pageIdleExpire, fun s errs hr hc hv hi hw => ?_,
    fun _ _ _ _ _ _ _ _ => runs_errorInjection, fun _ _ _ _ _ _ _ _ => runs_errorInjection_refused⟩
  · have h := runs_refresh sc n hr
    rw [State.owedAfter_le (b := s.turnBank sc.val) hle] at h
    exact h
  · have hq : ((s.mem.inflight ++ s.mem.waiting).any fun r => decide (r.cls < 3)) = false := by rw [hi, hw]; rfl
    have hwords : s.viewBytes / 8 ≠ 0 := by
      unfold State.viewBytes at hv ⊢
      omega
    obtain ⟨t, hrun, hscrub, hdram, hpages, hle, hat⟩ := runs_scrubRead errs hr hc hwords hq
    rw [State.scrubDue] at hat
    exact ⟨t, hrun, hscrub, hdram, hpages, hle, hat⟩

end Sys2Proof.Machine

/-! PROOFS. The boot flash on SPIB (R290 to R293). -/

namespace Sys2Proof.Machine

/-! ### The buffer -/

/-- A byte of a buffer that has just been put. -/
theorem bufByte_putBufByte (r : Regs) (p off b v : Nat) : bufByte (putBufByte r p off b v) p off b = v % 2 ^ 8 := by
  have hw : 8 * (b % 4) + 7 + 1 - 8 * (b % 4) = 8 := by omega
  unfold bufByte putBufByte
  rw [rget_rput, Nat.mod_eq_of_lt (putBits_lt (rget_lt _ _ _ _) (by omega) (by omega)), bitsOf_putBits, hw]

/-- Another byte of it stays. -/
theorem bufByte_putBufByte_ne (r : Regs) {p off b c : Nat} (v : Nat) (h : c ≠ b) :
    bufByte (putBufByte r p off b v) p off c = bufByte r p off c := by
  unfold bufByte putBufByte
  by_cases hq : c / 4 = b / 4
  · rw [hq, rget_rput, Nat.mod_eq_of_lt (putBits_lt (rget_lt _ _ _ _) (by omega) (by omega))]
    rcases Nat.lt_or_gt_of_ne (show c % 4 ≠ b % 4 by omega) with hlt | hgt
    · exact bitsOf_putBits_below (by omega) (by omega)
    · exact bitsOf_putBits_above (by omega) (by omega)
  · rw [rget_rput_ne _ _ (by unfold regKey; omega)]

/-- The bytes put from byte `k` on are those of the list, and no other byte of the buffer changes. -/
theorem bufByte_putBufBytes {p off : Nat} (h4 : off % 4 = 0) (l : List Nat) (r : Regs) {k i : Nat} (hl : off + k + l.length < 4096)
    (hi : off + i < 4096) : bufByte ((l.zipIdx k).foldl (fun r x => putBufByte r p off x.2 x.1) r) p off i =
      if k ≤ i ∧ i < k + l.length then nth l (i - k) 0 % 2 ^ 8 else bufByte r p off i := by
  induction l generalizing r k with
  | nil => rw [if_neg (by simp only [List.length_nil]; omega)]; rfl
  | cons x xs ih =>
    rw [List.length_cons] at hl ⊢
    rw [List.zipIdx_cons, List.foldl_cons, ih _ (by omega)]
    by_cases hk : i = k
    · subst hk
      rw [if_neg (by omega), if_pos (by omega), bufByte_putBufByte]
      simp [nth]
    · by_cases hin : k ≤ i ∧ i < k + (xs.length + 1)
      · rw [if_pos (by omega), if_pos hin]
        obtain ⟨d, rfl⟩ : ∃ d, i = k + 1 + d := ⟨i - (k + 1), by omega⟩
        simp [nth, show k + 1 + d - k = d + 1 by omega]
      · rw [if_neg (by omega), if_neg hin]
        exact bufByte_putBufByte_ne r x hk

theorem bufByte_putBuf {p off : Nat} (h4 : off % 4 = 0) (l : List Nat) (r : Regs) {i : Nat} (hl : off + l.length < 4096) (hi : i < l.length) :
    bufByte (putBuf r p off l) p off i = nth l i 0 % 2 ^ 8 := by
  have h := bufByte_putBufBytes (p := p) h4 l r (k := 0) (i := i) (by omega) (by omega)
  rw [if_pos ⟨Nat.zero_le _, by omega⟩] at h
  exact h

/-- Bytes put into a buffer change its page alone. -/
theorem State.pagesBut.putBuf {q : List Nat} {s t : State} (h : State.pagesBut q s t) {p off : Nat} (l : List Nat) (hp : p < 256)
    (hl : off + l.length < 4096) (hm : p ∈ q) : State.pagesBut q s { t with regs := putBuf t.regs p off l } := by
  have hbytes : ∀ (k : Nat) (u : State), off + k + l.length < 4096 → State.pagesBut q s u →
      State.pagesBut q s { u with regs := (l.zipIdx k).foldl (fun r x => putBufByte r p off x.2 x.1) u.regs } := by
    induction l with
    | nil => exact fun _ _ _ hu => hu
    | cons x xs ih =>
      intro k u hk hu
      rw [List.length_cons] at hk hl
      exact ih (by omega) (k + 1) { u with regs := putBufByte u.regs p off k x } (by omega) (hu.put _ hp (by omega) hm)
  exact hbytes 0 t (by omega) h

/-! ### Commands that nothing refuses -/

/-- The operation and the length in a word written to SPIB_CMD. -/
theorem spibCmd_fields (op v : Nat) (ho : op < 16) :
    bitsOf (op * 2 ^ 28 + v % 2 ^ 28) 31 28 = op ∧ (op * 2 ^ 28 + v % 2 ^ 28) % 512 = v % 512 := by
  rw [bitsOf_def]
  constructor
  · omega
  · omega

/-- A command that an admitted write asks for and nothing refuses is run. -/
theorem runs_spibCmd {i : Instr} {s s1 : State} {a : Access} {data op len p o : Nat} {fl : List Byte} {w : Who} {g : Reg}
    {P : State → Prop} (hd : bitsOf data 31 28 = op ∧ data % 512 = len)
    (e : exec i s = .next (direct s.begin_ a (regAddr pgSPIB SPIB_CMD.off) data (hSpibCmd fl)))
    (ha : accepted s.begin_ a (regAddr pgSPIB SPIB_CMD.off) data = some (s1, w, p, o, g))
    (hr : s1.flashRefuse op len = none) (hP : P (((s1.flashRun op len fl).bumpGen pgSPIB).emit (.res ⟨0, 0⟩ []))) : Runs i s P := by
  obtain ⟨rfl, rfl⟩ := accepted_reg (by decide) (by decide) ha
  obtain ⟨rfl, rfl⟩ := hd
  refine Runs.direct e ha ?_ hP
  unfold hSpibCmd
  simp only [hr]

/-- A length that the flash refuses is none of a command that it runs (Table 14.9). -/
theorem State.flashRefuse_len {s : State} {op len : Nat} (ho : op = 1 ∨ op = 2) (h : s.flashRefuse op len = none) : 1 ≤ len ∧ len ≤ 256 := by
  have hsized : (op == 1 || op == 2) = true := by rcases ho with rfl | rfl <;> rfl
  unfold flashRefuse at h
  dsimp only at h
  rw [hsized, Bool.true_and, Bool.true_and] at h
  split at h
  · cases h
  next h0 =>
    split at h
    · cases h
    next h256 =>
      rw [beq_iff_eq] at h0
      rw [decide_eq_true_eq] at h256
      omega

/-- The flash's bytes, in the buffer. -/
def State.flashRead (s : State) (len : Nat) (fl : List Byte) : State :=
  let u := s.emit (.serial s.spibWire (flashOp s.addr4 1 :: flashAddr s.addr4 (s.fg SPIB_ADDR_ADDR) ++ [0]))
  { u with regs := putBuf u.regs pgSPIB SPIB_BUF.off ((List.range len).map fun i => (nth fl i 0).toNat) }

theorem State.flashRun_read (s : State) (len : Nat) (fl : List Byte) : s.flashRun 1 len fl = (s.flashRead len fl).spibRes ⟨0x0C00, 0⟩ := rfl

/-- The flash's status byte, shown. -/
theorem State.flashRun_status (s : State) (len : Nat) (sr : Byte) :
    s.flashRun 5 len [sr] = ((s.emit (.serial s.spibWire [0x05])).fs SPIB_STAT_SR sr.toNat).spibRes ⟨0x0C00, 0⟩ := rfl

/-- The bytes that a program or an erase sends after its write enable. -/
def State.flashSends (s : State) (op len : Nat) : List Nat :=
  flashOp s.addr4 op :: flashAddr s.addr4 (s.fg SPIB_ADDR_ADDR) ++
    if op = 2 then (List.range len).map fun i => bufByte s.regs pgSPIB SPIB_BUF.off i else []

theorem State.flashSends_erase (s : State) {op : Nat} (len : Nat) (h : op ≠ 2) :
    s.flashSends op len = flashOp s.addr4 op :: flashAddr s.addr4 (s.fg SPIB_ADDR_ADDR) := by
  unfold flashSends
  rw [if_neg h, List.append_nil]

/-- When it makes the flash busy. -/
def State.flashStart (s : State) (b : List Nat) : Nat :=
  s.now + s.spibWire.time 8 + 160 * s.spibWire.gap + s.spibWire.time (8 * b.length)

theorem State.flashRun_write (s : State) {op : Nat} (len : Nat) (fl : List Byte) (h1 : op ≠ 1) (h5 : op ≠ 5) : s.flashRun op len fl =
    (((s.emit (.serial s.spibWire [0x06])).emit (.serial s.spibWire (s.flashSends op len))).fs SPIB_STAT_STATE 2).modSer fun x =>
      { x with op := op, opAt := s.flashStart (s.flashSends op len), srAt := s.flashStart (s.flashSends op len), held := 0 } := by
  unfold flashRun
  rw [if_neg h1, if_neg h5]
  rfl

/-- The result of a command shows in SPIB_RES. -/
theorem State.spibRes_code (s : State) (c : Rc) (h : c.code < 2 ^ 16) : (s.spibRes c).fg SPIB_RES_CODE = c.code := by
  unfold spibRes
  rw [fg_fs_apart _ _ (by decide), State.fg_fs _ ⟨by decide, by decide⟩]
  exact Nat.mod_eq_of_lt h

/-- Nothing else of SPIB changes. -/
theorem State.spibRes_apart (s : State) (c : Rc) {f : FRef} (h : apart SPIB_RES_CODE f = true ∧ apart SPIB_RES_DETAIL f = true) :
    (s.spibRes c).fg f = s.fg f := by
  unfold spibRes
  rw [fg_fs_apart _ _ h.2, fg_fs_apart _ _ h.1]

/-- It touches registers alone. -/
theorem State.spibRes_kept (s : State) (c : Rc) : (s.spibRes c).now = s.now ∧ (s.spibRes c).outs = s.outs ∧ (s.spibRes c).ser = s.ser :=
  ⟨rfl, rfl, rfl⟩

theorem State.pagesBut.spibRes {q : List Nat} {s t : State} (h : pagesBut q s t) (c : Rc) (hm : pgSPIB ∈ q) : pagesBut q s (t.spibRes c) :=
  (h.fs SPIB_RES_CODE _ (by decide) (by decide) hm).fs SPIB_RES_DETAIL _ (by decide) (by decide) hm

/-- What an answered write of SPIB leaves of its fields. -/
theorem State.done_spib (u : State) (f : FRef) (h : f.page < 256 ∧ f.off < 4096 ∧ (f.page, f.off) ≠ (pgSPIB, 0x024)) :
    ((u.bumpGen pgSPIB).emit (.res ⟨0, 0⟩ [])).fg f = u.fg f :=
  u.done_fgk pgSPIB f 0 0 (by omega) (by omega) (by decide) (by simpa using h.2.2)

/-- An answered command leaves all registers of SPIB but its result and PG_GEN. -/
theorem State.regsBut.spibDone {l : List (Nat × Nat)} {s u : State} (h : State.regsBut l s u) (c : Rc)
    (hl : (pgSPIB, SPIB_RES.off) ∈ l ∧ (pgSPIB, 0x024) ∈ l := by decide) :
    State.regsBut l s (((u.spibRes c).bumpGen pgSPIB).emit (.res ⟨0, 0⟩ [])) :=
  ((h.fs SPIB_RES_CODE _ (by decide) (by decide) hl.1).fs SPIB_RES_DETAIL _ (by decide) (by decide) hl.1).done (by decide) hl.2

theorem State.regsBut.bufByte {l : List (Nat × Nat)} {s t : State} (h : State.regsBut l s t) {p off i : Nat} (hi : off + i < 4096)
    (hp : p < 256) (hl : (p, off + i / 4 * 4) ∉ l) : bufByte t.regs p off i = bufByte s.regs p off i := by
  unfold Machine.bufByte
  rw [h 0 p (off + i / 4 * 4) hp (by omega) hl]

theorem runs_spibRead {s s1 : State} {a : Access} {v : Word} {fl : List Byte} {p o : Nat} {w : Who} {g : Reg}
    (ha : accepted s.begin_ a (regAddr pgSPIB SPIB_CMD.off) (1 * 2 ^ 28 + v.toNat % 2 ^ 28) = some (s1, w, p, o, g))
    (hr : s1.flashRefuse 1 (v.toNat % 512) = none) :
    Runs (.spibRead a v fl) s fun t => t.fg SPIB_RES_CODE = 0x0C00 ∧ (∀ i < v.toNat % 512, bufByte t.regs pgSPIB SPIB_BUF.off i =
        (nth fl i 0).toNat) ∧ State.pagesBut [pgSPIB] s1 t ∧ t.ser = s1.ser ∧
      t.outs = [.serial s1.spibWire (flashOp s1.addr4 1 :: flashAddr s1.addr4 (s1.fg SPIB_ADDR_ADDR) ++ [0]), .res ⟨0, 0⟩ []] := by
  obtain ⟨-, hlen⟩ := State.flashRefuse_len (.inl rfl) hr
  refine runs_spibCmd (spibCmd_fields 1 _ (by decide)) rfl ha hr ?_
  have houts := accepted_outs ha
  generalize v.toNat % 512 = len at hlen hr ⊢
  rw [State.flashRun_read]
  have hbytes : ((List.range len).map fun i => (nth fl i 0).toNat).length ≤ 256 := by simpa using hlen
  have hread : State.pagesBut [pgSPIB] s1 (s1.flashRead len fl) :=
    ((State.pagesBut.refl _ s1).emit _).putBuf _ (by decide) (by simp only [SPIB_BUF]; omega) (by decide)
  refine ⟨?_, fun i hi => ?_, ?_, rfl, ?_⟩
  · rw [State.done_spib _ _ (by decide), State.spibRes_code _ _ (by decide)]
  · have hleaves := (State.regsBut.refl [(pgSPIB, SPIB_RES.off), (pgSPIB, 0x024)] (s1.flashRead len fl)).spibDone ⟨0x0C00, 0⟩
    rw [hleaves.bufByte (by simp only [SPIB_BUF]; omega) (by decide) (by simp [SPIB_BUF, SPIB_RES]; omega)]
    refine (bufByte_putBuf (by decide) _ _ (by simp only [SPIB_BUF]; omega) (by simpa using hi)).trans ?_
    simp only [nth, List.getElem?_map, List.getElem?_range hi, Option.map_some, Option.getD_some]
    exact Nat.mod_eq_of_lt (nth fl i 0).isLt
  · exact ((hread.spibRes _ (by decide)).bumpGen _ (by decide) (by decide)).emit _
  · show s1.outs ++ _ ++ _ = _
    rw [houts]
    rfl

/-- A program or an erase: write enable, command, and the flash is busy. -/
theorem runs_flashWrite {i : Instr} {s s1 : State} {a : Access} {v : Word} {op : Nat} {p o : Nat} {w : Who} {g : Reg}
    (hop : op = 2 ∨ op = 3 ∨ op = 4)
    (e : exec i s = .next (direct s.begin_ a (regAddr pgSPIB SPIB_CMD.off) (op * 2 ^ 28 + v.toNat % 2 ^ 28) (hSpibCmd [])))
    (ha : accepted s.begin_ a (regAddr pgSPIB SPIB_CMD.off) (op * 2 ^ 28 + v.toNat % 2 ^ 28) = some (s1, w, p, o, g))
    (hr : s1.flashRefuse op (v.toNat % 512) = none) :
    Runs i s fun t => t.fg SPIB_STAT_STATE = 2 ∧ t.flashBusy = true ∧
      t.ser = { s1.ser with
        op := op, opAt := s1.flashStart (s1.flashSends op (v.toNat % 512)), srAt := s1.flashStart (s1.flashSends op (v.toNat % 512)), held := 0 } ∧
      State.pagesBut [pgSPIB] s1 t ∧
      t.outs = [.serial s1.spibWire [0x06], .serial s1.spibWire (s1.flashSends op (v.toNat % 512)), .res ⟨0, 0⟩ []] := by
  refine runs_spibCmd (spibCmd_fields op _ (by omega)) e ha hr ?_
  have houts := accepted_outs ha
  generalize v.toNat % 512 = len at hr ⊢
  rw [State.flashRun_write _ _ _ (by omega) (by omega)]
  generalize s1.flashStart _ = at_
  refine ⟨?_, ?_, rfl, ?_, ?_⟩
  · rw [State.done_spib _ _ (by decide)]
    exact State.fg_fs (f := SPIB_STAT_STATE) ((s1.emit _).emit _) ⟨by decide, by decide⟩ 2
  · show (op != 0) = true
    rcases hop with rfl | rfl | rfl <;> rfl
  · exact ((((((State.pagesBut.refl [pgSPIB] s1).emit _).emit _).fs SPIB_STAT_STATE 2 (by decide) (by decide) (by decide)).modSer _).bumpGen _
      (by decide) (by decide)).emit _
  · show s1.outs ++ _ ++ _ ++ _ = _
    rw [houts]
    rfl

/-- READSR: the flash's status byte shows in SPIB_STAT. -/
theorem runs_readsr {s s1 : State} {a : Access} {v : Word} {sr : Byte} {p o : Nat} {w : Who} {g : Reg}
    (ha : accepted s.begin_ a (regAddr pgSPIB SPIB_CMD.off) (5 * 2 ^ 28 + v.toNat % 2 ^ 28) = some (s1, w, p, o, g))
    (hr : s1.flashRefuse 5 (v.toNat % 512) = none) :
    Runs (.readsr a v sr) s fun t => t.fg SPIB_STAT_SR = sr.toNat ∧ t.fg SPIB_RES_CODE = 0x0C00 ∧ t.ser = s1.ser ∧
      State.pagesBut [pgSPIB] s1 t ∧ t.outs = [.serial s1.spibWire [0x05], .res ⟨0, 0⟩ []] := by
  refine runs_spibCmd (spibCmd_fields 5 _ (by decide)) rfl ha hr ?_
  have houts := accepted_outs ha
  rw [State.flashRun_status]
  refine ⟨?_, ?_, rfl, ?_, ?_⟩
  · rw [State.done_spib _ _ (by decide), State.spibRes_apart _ _ ⟨by decide, by decide⟩, State.fg_fs _ ⟨by decide, by decide⟩]
    exact Nat.mod_eq_of_lt sr.isLt
  · rw [State.done_spib _ _ (by decide), State.spibRes_code _ _ (by decide)]
  · exact ((((State.pagesBut.refl [pgSPIB] s1).emit _).fs SPIB_STAT_SR _ (by decide) (by decide) (by decide)).spibRes _ (by decide)
      |>.bumpGen _ (by decide) (by decide)).emit _
  · show s1.outs ++ _ ++ _ = _
    rw [houts]
    rfl

/-- No refusal of a flash command has the code by which a page refuses a RESET. -/
theorem State.flashRefuse_other {s : State} {op len : Nat} {c : Rc} (h : s.flashRefuse op len = some c) : c.code ≠ pageCode 6 pgSPIB 2 := by
  unfold flashRefuse at h
  dsimp only at h
  split_ifs at h <;> cases h <;> exact Nat.ne_of_beq_eq_false rfl

/-- A refused PROGRAM sends nothing. -/
theorem runs_program_refused {s s1 : State} {a : Access} {v : Word} {p o : Nat} {w : Who} {g : Reg} {c : Rc}
    (ha : accepted s.begin_ a (regAddr pgSPIB SPIB_CMD.off) (2 * 2 ^ 28 + v.toNat % 2 ^ 28) = some (s1, w, p, o, g))
    (hr : s1.flashRefuse 2 (v.toNat % 512) = some c) :
    Runs (.program a v) s fun t => t.outs = [.res c []] ∧ t.ser = s1.ser := by
  have hd := spibCmd_fields 2 v.toNat (by decide)
  have hturn : hSpibCmd [] s1 w p o g (2 * 2 ^ 28 + v.toNat % 2 ^ 28) = .error c := by
    unfold hSpibCmd
    simp only [hd, hr]
  have hall := admitted_refuse (accepted_admitted ha) w c
  refine ⟨_, congrArg Host.Outcome.next (direct_turned ha hturn), ?_⟩
  rw [State.resetRefused_other _ _ _ (addrReg_regAddr (by decide) (by decide)) (State.flashRefuse_other hr)]
  generalize s1.refuse w c = u at hall
  refine ⟨?_, (congrArg State.ser hall.all).trans (congrArg State.ser (accepted_admitted ha).all).symm⟩
  show u.outs ++ [.res c []] = _
  rw [congrArg State.outs hall.all]
  rfl

/-! ### Polls and the limit of a busy flash -/

theorem State.flashBusy_begin (s : State) : s.begin_.flashBusy = s.flashBusy := rfl

/-- The state in which a poll has shown the status byte. -/
def State.flashSeen (s : State) (sr : Byte) : State :=
  let u := s.advance (s.ser.srAt + 10 * Config.us)
  ((u.emit (.serial u.spibWire [0x05])).fs SPIB_STAT_SR sr.toNat).modSer fun x => { x with srAt := u.now }

/-- The state in which an operation has ended. -/
def State.flashDone (s : State) (c : Rc) : State := ((s.fs SPIB_STAT_STATE 0).modSer fun x => { x with op := 0 }).spibRes c

theorem State.flashPoll_busy {s : State} (sr : Byte) (h : s.flashBusy = true) :
    s.flashPoll sr = if bit sr.toNat 0 = true then s.flashSeen sr else (s.flashSeen sr).flashDone ⟨0x0C00, 0⟩ := by
  unfold flashPoll
  rw [if_pos h]
  rfl

theorem State.flashSeen_sr (s : State) (sr : Byte) : (s.flashSeen sr).fg SPIB_STAT_SR = sr.toNat :=
  (fg_fs (f := SPIB_STAT_SR) ((s.advance (s.ser.srAt + 10 * Config.us)).emit _) ⟨by decide, by decide⟩ _).trans (Nat.mod_eq_of_lt sr.isLt)

theorem State.flashDone_fg (s : State) (c : Rc) {f : FRef} (h : apart SPIB_RES_CODE f = true ∧ apart SPIB_RES_DETAIL f = true)
    (hs : apart SPIB_STAT_STATE f = true) : (s.flashDone c).fg f = s.fg f :=
  (spibRes_apart _ _ h).trans (fg_fs_apart _ _ hs)

theorem State.flashDone_kept (s : State) (c : Rc) : (s.flashDone c).now = s.now ∧ (s.flashDone c).outs = s.outs ∧
    (s.flashDone c).flashBusy = false := ⟨rfl, rfl, rfl⟩

theorem State.pagesBut.flashDone {q : List Nat} {s t : State} (h : pagesBut q s t) (c : Rc) (hm : pgSPIB ∈ q) : pagesBut q s (t.flashDone c) :=
  ((h.fs SPIB_STAT_STATE 0 (by decide) (by decide) hm).modSer _).spibRes c hm

/-- A poll of a busy flash, 10 µs after the last. -/
theorem runs_statusPoll {s : State} (sr : Byte) (hb : s.flashBusy = true) :
    Runs (.statusPoll sr) s fun t => t.now = max s.now (s.ser.srAt + 10 * Config.us) ∧ t.fg SPIB_STAT_SR = sr.toNat ∧
      t.flashBusy = bit sr.toNat 0 ∧ t.outs = [.serial s.spibWire [0x05]] ∧ State.pagesBut [pgSPIB] s t := by
  have hsr := s.begin_.flashSeen_sr sr
  have hpages : State.pagesBut [pgSPIB] s (s.begin_.flashSeen sr) :=
    ((((State.pagesBut.refl [pgSPIB] s).begin.advance _).emit _).fs SPIB_STAT_SR _ (by decide) (by decide) (by decide)).modSer _
  have hbusy : (s.begin_.flashSeen sr).flashBusy = true := hb
  have hnow : (s.begin_.flashSeen sr).now = max s.now (s.ser.srAt + 10 * Config.us) := rfl
  have houts : (s.begin_.flashSeen sr).outs = [.serial s.spibWire [0x05]] := rfl
  refine ⟨_, congrArg Host.Outcome.next (State.flashPoll_busy sr hb), ?_⟩
  generalize s.begin_.flashSeen sr = x at *
  generalize max s.now (s.ser.srAt + 10 * Config.us) = due at *
  by_cases hbit : bit sr.toNat 0 = true
  · rw [if_pos hbit]
    exact ⟨hnow, hsr, hbusy.trans hbit.symm, houts, hpages⟩
  · rw [if_neg hbit]
    obtain ⟨know, kouts, kbusy⟩ := x.flashDone_kept ⟨0x0C00, 0⟩
    exact ⟨know.trans hnow, (x.flashDone_fg _ ⟨by decide, by decide⟩ (by decide)).trans hsr, kbusy.trans (Bool.eq_false_iff.mpr hbit).symm,
      kouts.trans houts, hpages.flashDone _ (by decide)⟩

/-- The state in which an operation has failed at its limit. -/
def State.flashFailed (s : State) (op : Nat) : State :=
  (((s.fs SPIB_STAT_STATE 0).modSer fun x => { x with op := 0 }).fault pgSPIB 0 0x7C12 op op).spibRes ⟨0x7C12, op⟩

theorem State.flashTimeout_busy {s : State} {due : Nat} (h : s.flashBusy = true)
    (hd : s.ser.opAt + s.ser.held + (if s.ser.op = 2 then 4 else 400) * Config.ms = due) :
    s.flashTimeout = (s.advance due).flashFailed s.ser.op := by
  unfold flashTimeout
  rw [if_pos h, ← hd]
  rfl

theorem State.flashFailed_fails (s : State) (op : Nat) : (s.flashFailed op).flashBusy = false ∧ (s.flashFailed op).hasFault pgSPIB 0 = true ∧
    (s.flashFailed op).fg SPIB_RES_CODE = 0x7C12 ∧ (s.flashFailed op).now = s.now ∧ pagesBut [pgSPIB, pgFAULT] s (s.flashFailed op) := by
  have hpages := ((pagesBut.refl [pgSPIB, pgFAULT] s).fs SPIB_STAT_STATE 0 (by decide) (by decide) (by decide)).modSer fun x => { x with op := 0 }
  have hidle : ((s.fs SPIB_STAT_STATE 0).modSer fun x => { x with op := 0 }).flashBusy = false := rfl
  have hnow : ((s.fs SPIB_STAT_STATE 0).modSer fun x => { x with op := 0 }).now = s.now := rfl
  unfold flashFailed
  generalize (s.fs SPIB_STAT_STATE 0).modSer (fun x => { x with op := 0 }) = u at *
  obtain ⟨know, -, kser⟩ := (u.fault pgSPIB 0 0x7C12 op op).spibRes_kept ⟨0x7C12, op⟩
  refine ⟨?_, ?_, spibRes_code _ _ (show 0x7C12 < 2 ^ 16 by decide), ?_,
    (hpages.fault _ _ _ _ _ (by decide) (by decide) (by decide)).spibRes _ (by decide)⟩
  · rw [flashBusy, kser, fault_ser]
    exact hidle
  · unfold hasFault
    rw [spibRes_apart _ _ ⟨by decide, by decide⟩]
    exact u.fault_hasFault pgSPIB 0x7C12 op op (by decide)
  · rw [know, fault_now, hnow]

/-- A busy flash reaches its limit: what it was doing has failed, with fault 0. -/
theorem runs_flashTimeout {s : State} (hb : s.flashBusy = true) :
    Runs .flashTimeout s fun t => t.flashBusy = false ∧ t.hasFault pgSPIB 0 = true ∧ t.fg SPIB_RES_CODE = 0x7C12 ∧
      t.now = max s.now (s.ser.opAt + s.ser.held + (if s.ser.op = 2 then 4 else 400) * Config.ms) ∧
      State.pagesBut [pgSPIB, pgFAULT] s t := by
  generalize hd : s.ser.opAt + s.ser.held + (if s.ser.op = 2 then 4 else 400) * Config.ms = due
  refine ⟨_, congrArg Host.Outcome.next (State.flashTimeout_busy (s := s.begin_) hb hd), ?_⟩
  obtain ⟨hbusy, hfault, hcode, hnow, hpages⟩ := (s.begin_.advance due).flashFailed_fails s.ser.op
  exact ⟨hbusy, hfault, hcode, hnow, ((State.pagesBut.refl _ s).begin.advance due).trans hpages⟩

/-! ### Fetches through the window -/

/-- A fetch through the window while the flash is not busy. -/
theorem State.xipFetch_open {s : State} {off : Nat} (fl : List Byte) (lat held : Nat) (hx : s.fg SPIB_CFG_XIP_EN = 1) (ho : off < 2 ^ 24)
    (hb : s.flashBusy = false) : s.xipFetch off fl lat held =
      let u := s.emit (.serial s.spibWire (flashOp s.addr4 1 ::
        flashAddr s.addr4 ((s.fg SPIB_XBASE_BASE * 65536 + off) % (if s.addr4 = true then 2 ^ 32 else 2 ^ 24) / 4 * 4) ++ [0]))
      (u.fs SPIB_CNT_FWMAX (max (u.fg SPIB_CNT_FWMAX) (satN 16 (lat / 1600)))).emit
        (.res ⟨0, 0⟩ ((List.range ((32 - off / 4 * 4 % 32) / 4)).map fun k =>
         BitVec.ofNat 32 ((nth fl (4 * k) 0).toNat + (nth fl (4 * k + 1) 0).toNat * 2 ^ 8 + (nth fl (4 * k + 2) 0).toNat * 2 ^ 16 +
           (nth fl (4 * k + 3) 0).toNat * 2 ^ 24))) := by
  unfold xipFetch
  rw [if_neg (by omega)]
  extract_lets a n sus s1 s2 s3 s4 b u
  have hsus : sus = false := by simp only [sus, hb, Bool.false_and]
  have h1 : s1 = s := by simp only [s1, hsus, Bool.false_eq_true, if_false]
  have h3 : s3 = s2 := by simp only [s3, hsus, Bool.false_eq_true, if_false]
  simp only [s4, h3, s2, h1, n, a, b, u]

/-- Such a fetch sends the read and answers the bytes up to the end of its line. -/
theorem runs_fetch {s : State} {off : Nat} (fl : List Byte) (lat held : Nat) (hx : s.fg SPIB_CFG_XIP_EN = 1) (ho : off < 2 ^ 24)
    (hb : s.flashBusy = false) :
    Runs (.fetch off fl lat held) s fun t => t.ser = s.ser ∧ State.pagesBut [pgSPIB] s t ∧ t.now = s.now ∧ t.outs =
      [.serial s.spibWire (flashOp s.addr4 1 ::
        flashAddr s.addr4 ((s.fg SPIB_XBASE_BASE * 65536 + off) % (if s.addr4 = true then 2 ^ 32 else 2 ^ 24) / 4 * 4) ++ [0]),
       .res ⟨0, 0⟩ ((List.range ((32 - off / 4 * 4 % 32) / 4)).map fun k =>
         BitVec.ofNat 32 ((nth fl (4 * k) 0).toNat + (nth fl (4 * k + 1) 0).toNat * 2 ^ 8 + (nth fl (4 * k + 2) 0).toNat * 2 ^ 16 +
           (nth fl (4 * k + 3) 0).toNat * 2 ^ 24))] := by
  refine ⟨_, congrArg Host.Outcome.next (State.xipFetch_open (s := s.begin_) fl lat held hx ho hb), rfl, ?_, rfl, rfl⟩
  exact ((((State.pagesBut.refl [pgSPIB] s).begin.emit _).fs SPIB_CNT_FWMAX _ (by decide) (by decide) (by decide)).emit _)

/-- A fetch with the window disabled or beyond it is an error to the core. -/
theorem runs_fetch_closed {s : State} {off : Nat} (fl : List Byte) (lat held : Nat) (h : s.fg SPIB_CFG_XIP_EN = 0 ∨ 2 ^ 24 ≤ off) :
    Runs (.fetch off fl lat held) s fun t => t.outs = [.coreError] ∧ t.regs = s.regs ∧ t.ser = s.ser :=
  ⟨s.begin_.emit .coreError, congrArg Host.Outcome.next (if_pos h), rfl, rfl, rfl⟩

/-! ### The statements -/

/-- Settles O38: each command's run, the polls, the limit and the fetches. -/
theorem flashCommands : Obligations.FlashCommands := by
  unfold Obligations.FlashCommands
  refine ⟨fun _ _ _ _ _ _ _ _ _ ha hr => runs_spibRead ha hr, ?_, ?_, ?_, fun _ _ _ _ _ _ _ _ _ ha hr => runs_readsr ha hr,
    fun _ _ _ _ _ _ _ _ _ ha hr => runs_program_refused ha hr, fun _ sr hb => runs_statusPoll sr hb, fun _ hb => runs_flashTimeout hb,
    fun _ _ fl lat held hx ho hb => runs_fetch fl lat held hx ho hb, fun _ _ fl lat held h => runs_fetch_closed fl lat held h⟩
  · intro s s1 a v p o e b w g ha hr hb he
    rw [← accepted_now ha] at he
    subst hb he
    exact runs_flashWrite (.inl rfl) rfl ha hr
  · intro s s1 a v p o e b w g ha hr hb he
    rw [← accepted_now ha] at he
    have h := runs_flashWrite (.inr (.inl rfl)) (rfl : exec (.erase4k a v) s = _) ha hr
    rw [s1.flashSends_erase _ (by decide)] at h
    subst hb he
    exact h
  · intro s s1 a v p o e b w g ha hr hb he
    rw [← accepted_now ha] at he
    have h := runs_flashWrite (.inr (.inr rfl)) (rfl : exec (.erase64k a v) s = _) ha hr
    rw [s1.flashSends_erase _ (by decide)] at h
    subst hb he
    exact h

/-- What a run leaves implies what is asked of it. -/
theorem Runs.mono {i : Instr} {s : State} {P Q : State → Prop} (h : Runs i s P) (hq : ∀ t, P t → Q t) : Runs i s Q := by
  obtain ⟨t, he, ht⟩ := h
  exact ⟨t, he, hq t ht⟩

/-- A row found open is none afterwards. -/
theorem State.row_closed {s : State} {k row at_ : Nat} (h : nth s.mem.rows k none = some (row, at_)) :
    nth (modAt s.mem.rows k fun _ => none) k none = none := by
  have hk : k < s.mem.rows.length := by
    by_contra hk
    rw [nth, List.getElem?_eq_none (Nat.le_of_not_lt hk)] at h
    cases h
  exact nth_modAt _ _ hk

/-- Settles O57: what each command of O36 and O38 leaves, where it takes its turn. -/
theorem memoryAndFlashComplete : Obligations.MemoryAndFlashComplete := by
  unfold Obligations.MemoryAndFlashComplete
  refine ⟨fun s a b => runs_dramTraining s a b, fun s r hm => (runs_trainingComplete r hm).mono fun _ h => h.1,
    fun s hr => (runs_zqCalibration hr).mono fun t h => ?_, fun s count wdq => runs_dqsOscillator_moved count wdq,
    fun s sc n hr => (runs_refresh sc n hr).mono fun t h => ?_, fun s a b hr => (runs_mr4Poll a b hr).mono fun t h => ?_,
    fun s sc b row at_ hr => (runs_pageIdleExpire hr).mono fun t h => ?_,
    fun s errs hr hc hv hq => (runs_scrubRead errs hr hc (Nat.ne_of_gt (Nat.div_pos hv (by decide))) hq).mono fun t h => h.1,
    fun s s1 a v p o w g ha hm => (runs_errorInjection ha hm).mono fun t h => ?_, fun s u addr wr => runs_dramRequest wr,
    fun s k errs r => runs_dramCompletion errs, fun s s1 a v fl p o w g ha hr => (runs_spibRead ha hr).mono fun t h => ⟨h.1, h.2.1⟩,
    fun s s1 a v p o w g ha hr => (runs_flashWrite (.inl rfl) rfl ha hr).mono fun t h => ?_,
    fun s s1 a v p o w g ha hr => (runs_flashWrite (.inr (.inl rfl)) rfl ha hr).mono fun t h => ?_,
    fun s s1 a v p o w g ha hr => (runs_flashWrite (.inr (.inr rfl)) rfl ha hr).mono fun t h => ?_,
    fun s s1 a v sr p o w g ha hr => (runs_readsr ha hr).mono fun t h => h.1,
    fun s sr hb => (runs_statusPoll sr hb).mono fun t h => ?_, fun s hb => (runs_flashTimeout hb).mono fun t h => ?_,
    fun s off fl lat held hx ho hb => (runs_fetch fl lat held hx ho hb).mono fun t h => ?_⟩
  · obtain ⟨hnow, hmem, -⟩ := h
    rw [hmem, ← hnow]
  · obtain ⟨hnow, -, -, hturn, -⟩ := h
    exact ⟨hnow, hturn⟩
  · obtain ⟨hmr4, -, hmem, -⟩ := h
    exact ⟨hmr4, by rw [hmem]⟩
  · obtain ⟨hmem, -⟩ := h
    rw [hmem]
    exact State.row_closed hr
  · obtain ⟨hreg, -, -, houts⟩ := h
    exact ⟨houts, hreg⟩
  · obtain ⟨-, hbusy, hser, -⟩ := h
    exact ⟨hbusy, by rw [hser]⟩
  · obtain ⟨-, hbusy, hser, -⟩ := h
    exact ⟨hbusy, by rw [hser]⟩
  · obtain ⟨-, hbusy, hser, -⟩ := h
    exact ⟨hbusy, by rw [hser]⟩
  · obtain ⟨-, hsr, hbusy, -⟩ := h
    exact ⟨hsr, hbusy⟩
  · obtain ⟨hbusy, -, hcode, -⟩ := h
    exact ⟨hbusy, hcode⟩
  · obtain ⟨-, -, -, houts⟩ := h
    rw [houts]
    exact List.mem_cons_of_mem _ List.mem_cons_self

end Sys2Proof.Machine

/-! PROOFS. Where keys are erased and where they stand (R318, R66). -/

namespace Sys2Proof.Machine

namespace State

variable {s t u : State}

/-! ### Wrap counters and keys over what is loaded -/

/-- The same wrap counters. -/
def SameWraps (s t : State) : Prop := t.sec.wrap = s.sec.wrap

namespace SameWraps

theorem refl (s : State) : SameWraps s s := rfl

theorem trans (h : SameWraps s t) (k : SameWraps t u) : SameWraps s u := Eq.trans k h

theorem of_kept (h : SameWraps s t) (k : Kept (· ≠ .sec) t u) : SameWraps s u := (congrArg SecSt.wrap k.part).trans h

theorem ite {c : Prop} [Decidable c] (h : SameWraps s t) (k : SameWraps s u) : SameWraps s (if c then t else u) := by
  split; exacts [h, k]

theorem fs (h : SameWraps s t) (f : FRef) (v : Nat) : SameWraps s (t.fs f v) := h

theorem modStore (h : SameWraps s t) (f : Store → Store) : SameWraps s (t.modStore f) := h

theorem arbRaise (h : SameWraps s t) (k v : Nat) : SameWraps s (t.arbRaise k v) :=
  of_kept (t := t.modSec fun x => { x with arb := modAt x.arb k fun c => (c.1.map (max v), c.2.map (max v)) }) h (kept_showArb (.refl _) nofun)

theorem showStore (h : SameWraps s t) : SameWraps s t.showStore := h.of_kept (kept_showStore (.refl t) nofun)

theorem fault (h : SameWraps s t) (p b c d u : Nat) : SameWraps s (t.fault p b c d u) := h.of_kept ((Kept.refl t).fault _ _ _ _ _ nofun nofun)

theorem recFill (h : SameWraps s t) (n : Nat) (e : Enrol) : SameWraps s (t.recFill n e) := h.of_kept (kept_recFill (.refl t) nofun nofun nofun)

theorem ownerFill (h : SameWraps s t) (pub : Nat) : SameWraps s (t.ownerFill pub) := h.of_kept (kept_ownerFill (.refl t) nofun nofun nofun)

theorem foldl {α : Type} (l : List α) {f : State → α → State} (hf : ∀ u x, SameWraps u (f u x)) (h : SameWraps s t) :
    SameWraps s (l.foldl f t) :=
  List.foldlRecOn l f h fun u hu x _ => hu.trans (hf u x)

/-- The store that is loaded says nothing of wrap counters. -/
theorem storeLoad (h : SameWraps s t) : SameWraps s t.storeLoad := by
  unfold State.storeLoad
  dsimp only
  split
  · exact .ite ((h.modStore _).showStore.fault _ _ _ _ _) (h.modStore _).showStore
  next b r _ =>
    have he := ((h.modStore fun _ => r.body).fs OSEC_EPOCH_BLOCK b).fs OSEC_EPOCH_STORE r.epoch
    have hs := ((SameWraps.ite (c := t.arbVal 63 < r.epoch) (he.arbRaise 63 r.epoch) he).fs OSEC_LC_STORE 1).showStore
    refine .foldl _ (fun u x => ?_) (.ite (hs.ownerFill _) hs)
    split
    · exact (refl u).recFill _ _
    · exact refl u

theorem loads (h : SameWraps s t) : SameWraps s t.loads := by
  have hotp : SameWraps s t.strapLoad.otpLoad := h.of_kept (kept_otpLoad (kept_strapLoad (.refl t) nofun) nofun)
  have harb : SameWraps s t.strapLoad.otpLoad.arbLoad := hotp.of_kept (kept_arbLoad (.refl _) nofun nofun)
  exact harb.storeLoad.of_kept (kept_updLoad (.refl _) nofun nofun)

end SameWraps

theorem loads_keys (s : State) : s.loads.keys = s.keys := (kept_loads (K := (· ≠ .keys)) (.refl s) nofun nofun nofun nofun nofun).part

theorem bare_keys (s : State) : s.bare.keys = reset.keys := rfl

theorem bare_wrap (s : State) : s.bare.sec.wrap = reset.sec.wrap := rfl

theorem loads_wrap (s : State) : s.loads.sec.wrap = s.sec.wrap := SameWraps.loads (.refl s)

/-- What is loaded touches neither keys nor wrap counters, and a restart starts with none. -/
theorem pornReset_keys (s : State) (x : Nat) : (s.pornReset x).keys = reset.keys ∧ (s.pornReset x).sec.wrap = reset.sec.wrap := by
  unfold pornReset
  dsimp only
  constructor
  · rw [modPow_keys, fs_keys, loads_keys, fs_keys, bare_keys]
  · rw [modPow_sec, fs_sec, loads_wrap, fs_sec, bare_wrap]

theorem keepAon_eq (s old : State) : (s.keepAon old).keys = s.keys ∧ (s.keepAon old).sec = s.sec :=
  ⟨(kept_keepAon (K := (· ≠ .keys)) (.refl s) nofun).part, (kept_keepAon (K := (· ≠ .sec)) (.refl s) nofun).part⟩

theorem coldReset_keys (s : State) (c : Nat) : (s.coldReset c).keys = reset.keys ∧ (s.coldReset c).sec.wrap = reset.sec.wrap := by
  obtain ⟨hkeys, hsec⟩ := s.bare.keepAon_eq s
  unfold coldReset halvesUp
  dsimp only
  constructor
  · rw [fs_keys, fs_keys, inc_keys, fs_keys, loads_keys, modPow_keys, modSec_keys, hkeys, bare_keys]
  · rw [fs_sec, fs_sec, inc_sec, fs_sec, loads_wrap, modPow_sec, modSec_sec, hsec, bare_wrap]

/-! ### A wake -/

theorem keepSession_keys (s old : State) (n : Nat) : (keepSession old s n).keys = s.keys :=
  (kept_keepSession (K := (· ≠ .keys)) (.refl s) nofun nofun nofun).part

theorem keepDram_keys (s old : State) : (s.keepDram old).keys = s.keys := by
  unfold keepDram
  split <;> rfl

theorem keepSessions_keys (s old : State) (l : List Nat) : (l.foldl (keepSession old) s).keys = s.keys :=
  List.foldlRecOn l (keepSession old) (motive := fun u => u.keys = s.keys) rfl fun u hu n _ => (keepSession_keys u old n).trans hu

theorem keepPage_keys (s old : State) (p : Nat) : (s.keepPage old p).keys = s.keys := rfl

/-- SEC's keys are put back before anything is loaded. -/
theorem wakeReset_keys (s : State) (src : Nat) : (s.wakeReset src).keys = s.keys := by
  unfold wakeReset
  dsimp only
  rw [ev_keys, ev_keys, fs_keys, inc_keys, fs_keys, keepSessions_keys, loads_keys, modPow_keys, keepDram_keys, keepPage_keys, keepPage_keys]

theorem wakeNoted_keys (s : State) : s.wakeNoted.keys = s.keys := by
  unfold wakeNoted
  split
  · split
    · exact wakeReset_keys _ _
    · rfl
  · rfl

theorem wake_keys (s : State) (src : Nat) : (s.wake src).keys = s.keys := by
  have hat : s.wakeAt.keys = s.keys := (kept_wakeAt (K := (· ≠ .keys)) (.refl s)).part
  have hsame : (if src = 3 ∧ s.mode = .sleep then s.wakeAt else s).keys = s.keys := by split; exacts [hat, rfl]
  unfold wake
  dsimp only
  generalize (if src = 3 ∧ s.mode = .sleep then s.wakeAt else s) = u at hsame ⊢
  split_ifs
  · rfl
  · rw [wakeReset_keys, hsame]
  · exact hsame
  · exact hsame

/-- SLEEP entry, at its boundary and once the rails are OFF. -/
theorem modeGo_keys (s : State) : s.modeGo.keys = s.keys :=
  (wakeNoted_keys _).trans (kept_changeMode (K := (· ≠ .keys)) (.refl s) nofun nofun nofun nofun nofun nofun nofun nofun nofun nofun nofun
    nofun nofun).part

theorem sleepGo_keys (s : State) : s.sleepGo.keys = s.keys := by
  unfold sleepGo
  split
  · exact (wakeNoted_keys _).trans (kept_sleepStep (K := (· ≠ .keys)) (.refl s) nofun nofun nofun nofun nofun nofun nofun nofun nofun nofun
      nofun nofun).part
  · rfl

/-! ### A slot's keys -/

theorem eraseKeys_keys (s : State) (n : Nat) : (s.eraseKeys n).keys = modAt s.keys n fun _ => SlotKeys.empty := by
  have hlast (u : State) : (if n = 0 then u.setReg pgKEYST KS_ENUM.off 0 else u).keys = u.keys := by split <;> rfl
  have hbeat (u : State) : (if u.fg KS_BEAT_SLOT = n then u.setReg pgKEYST KS_BEAT.off 0 else u).keys = u.keys := by split <;> rfl
  unfold eraseKeys
  dsimp only
  rw [hlast, hbeat, setReg_keys, setReg_keys]

theorem modAt_const_twice {α : Type} (l : List α) (n : Nat) (c : α) : modAt (modAt l n fun _ => c) n (fun _ => c) = modAt l n fun _ => c := by
  rw [modAt_eq_modify, modAt_eq_modify, List.modify_modify_eq]
  rfl

/-- Every revocation erases the slot's keys and no other's. -/
theorem revokeAll_keys (s : State) (n : Nat) (rx : StopRx) : (s.revokeAll n rx).keys = modAt s.keys n fun _ => SlotKeys.empty := by
  have hdrop (p : Firkin → Bool) : (s.fkDrop p).keys = s.keys := (kept_fkDrop (K := (· ≠ .keys)) (.refl s) nofun nofun nofun).part
  have hbus (u : State) : (u.busRevoke n rx).keys = u.keys := (kept_busRevoke (K := (· ≠ .keys)) (.refl u) nofun nofun nofun nofun).part
  have hfeed (u : State) : (u.feedRevoke n).keys = u.keys := (kept_feedRevoke (K := (· ≠ .keys)) (.refl u) nofun nofun nofun nofun).part
  have hunbind (u : State) : (u.unbindFeed n).keys = u.keys :=
    (kept_unbindFeed (K := (· ≠ .keys)) (.refl u) nofun nofun nofun nofun nofun nofun).part
  have hdisown (u : State) : (u.disown n).keys = u.keys := (kept_disown (K := (· ≠ .keys)) (.refl u) nofun).part
  unfold revokeAll
  dsimp only
  rw [hbus, hfeed, hunbind, hdisown, fsi_keys, fsi_keys, fsi_keys, fsi_keys, modTen_keys, eraseKeys_keys, hdrop]

theorem resetNow_keys (s : State) (rx : StopRx) (n : Nat) :
    (s.resetNow rx n).keys = s.keys ∨ (s.resetNow rx n).keys = modAt s.keys n fun _ => SlotKeys.empty := by
  have hboth (u : State) (c d : Nat) : (if n = 0 then u.evTo 0 (pgTEN + n) c d kInfo n else
      (u.evTo 0 (pgTEN + n) c d kInfo n).evTo n (pgTEN + n) c d kInfo n).keys = u.keys := by
    split
    · rw [evTo_keys]
    · rw [evTo_keys, evTo_keys]
  have hrun (u : State) : (u.runAct n).keys = u.keys := (kept_runAct (K := (· ≠ .keys)) (.refl u) nofun nofun nofun).part
  unfold resetNow
  split
  · exact .inl rfl
  · refine .inr ?_
    dsimp only
    split
    · rw [hboth, hboth, modTen_keys, hrun, setTst_keys, fsi_keys, inc_keys, revokeAll_keys]
    · rw [hboth, modTen_keys, hrun, setTst_keys, fsi_keys, inc_keys, revokeAll_keys]

theorem slotEmpty_keys (s : State) (n : Nat) : (s.slotEmpty n).keys = modAt s.keys n fun _ => SlotKeys.empty := by
  have hperm (u : State) : ((List.range 8).foldl (fun s k => (s.fsk TEN_PW_PW n k 0).fsk TEN_PR_PR n k 0) u).keys = u.keys :=
    List.foldlRecOn _ _ (motive := fun v : State => v.keys = u.keys) rfl fun v hv k _ => hv
  unfold slotEmpty
  dsimp only
  rw [setTst_keys, fsk_keys, fsk_keys, fsi_keys, fsi_keys, hperm, fsi_keys, fsi_keys, modTen_keys, eraseKeys_keys]

/-- An unenrolled slot's keys are erased, and no other's. -/
theorem slotUnenrol_keys {s : State} {n : Nat} (h : s.tst n ≠ tEMPTY) :
    (s.slotUnenrol n).keys = modAt s.keys n fun _ => SlotKeys.empty := by
  unfold slotUnenrol
  rw [if_neg h, ev_keys, slotEmpty_keys]
  rcases s.resetNow_keys ⟨[], [], []⟩ n with hr | hr
  · rw [hr]
  · rw [hr, modAt_const_twice]

theorem storeWrite_keys (s : State) (raise : Bool) : (s.storeWrite raise).keys = s.keys :=
  (kept_storeWrite (K := (· ≠ .keys)) (.refl s) nofun nofun).part

theorem modStore_keys (s : State) (f : Store → Store) : (s.modStore f).keys = s.keys := rfl

theorem unenrolApply_keys {s : State} {n : Nat} (h : s.tst n ≠ tEMPTY) :
    (s.unenrolApply n).keys = modAt s.keys n fun _ => SlotKeys.empty := by
  unfold unenrolApply
  rw [storeWrite_keys]
  exact slotUnenrol_keys h

/-! ### The end of an ownership -/

/-- As many slots have keys. -/
theorem slotUnenrol_slots (s : State) (n : Nat) : (s.slotUnenrol n).keys.length = s.keys.length := by
  by_cases h : s.tst n = tEMPTY
  · unfold slotUnenrol
    rw [if_pos h]
  · rw [slotUnenrol_keys h, modAt_length]

theorem transferDone_slots (s : State) : s.transferDone.keys.length = s.keys.length := by
  have hout (u : State) (k : Nat) : ((if u.tst (k + 1) = tACTIVE then u.orderReset (k + 1) 7 0 else u).slotUnenrol (k + 1)).keys.length =
      u.keys.length := by
    rw [slotUnenrol_slots]
    split
    · exact congrArg List.length (kept_orderReset (K := (· ≠ .keys)) (.refl u) nofun nofun).part
    · rfl
  have hslots (l : List Nat) (u : State) : (l.foldl (fun s k =>
      let n := k + 1
      let s := if s.tst n = tACTIVE then s.orderReset n 7 0 else s
      s.slotUnenrol n) u).keys.length = u.keys.length :=
    List.foldlRecOn l _ (motive := fun v : State => v.keys.length = u.keys.length) rfl fun v hv k _ => (hout v k).trans hv
  have herase (l : List Nat) (u : State) : (l.foldl eraseKeys u).keys.length = u.keys.length :=
    List.foldlRecOn l _ (motive := fun v : State => v.keys.length = u.keys.length) rfl fun v hv k _ => by
      rw [eraseKeys_keys, modAt_length, hv]
  have hsess (u : State) : (if u.tst 0 = tACTIVE then ((u.setTst 0 tENROLLED).fsi TEN_STATE_VIA_LINK 0 0).fsi TEN_STATE_VIA_SPIA 0 0
      else u).keys = u.keys := by split <;> rfl
  unfold transferDone
  dsimp only
  rw [modSec_keys, modStore_keys, hsess, modTen_keys, herase]
  exact hslots _ s

/-- A release of ownership empties T0 last. -/
theorem transferApply_keys {s : State} (h : 0 < s.keys.length) : (s.transferApply 0).slotKeys 0 = SlotKeys.empty := by
  have hslots : ((s.transferDone.modStore fun x => { x with owned := false, owner := 0 }).storeWrite true).keys.length = s.keys.length := by
    rw [storeWrite_keys, modStore_keys, transferDone_slots]
  unfold transferApply
  rw [if_neg (not_not_intro rfl)]
  unfold slotKeys
  rw [slotEmpty_keys]
  exact nth_modAt _ _ (by rw [hslots]; exact h)

theorem objTake_only {s : State} {o : Obj} {k : Nat} (h : s.sec.acc = [o]) (ht : objType o = k) :
    s.objTake k = (s.modSec fun x => { x with acc := x.acc.erase o }).objApply o := by
  have found : s.sec.acc.find? (fun o => objType o == k) = some o := by simp [h, ht]
  unfold objTake
  rw [found]

end State

/-- Settles O50: PORN and a cold reset restart without keys; an UNENROL and a release of ownership erase; SLEEP and a wake keep. -/
theorem keysErased : Obligations.KeysErased := by
  refine ⟨fun s x => ⟨_, rfl, s.begin_.pornReset_keys _⟩, fun s s1 a p o w g ha => ?_, fun s o ha hb ht hl => ?_, fun s o ha hb _ hl => ?_,
    fun s => ?_, fun s src => ⟨_, rfl, s.begin_.wake_keys _⟩⟩
  · obtain ⟨rfl, rfl⟩ := accepted_reg (by decide) (by decide) ha
    refine Runs.direct rfl ha (hRstCmd_cold s1 w g) ?_
    rw [State.emit_keys, State.emit_sec, State.bumpGen_keys, State.bumpGen_sec, State.fs_keys, State.fs_sec]
    exact s1.coldReset_keys 3
  · have hrun : exec .unenrol s = .next ((s.begin_.modSec fun x => { x with acc := x.acc.erase o }).unenrolApply o.slot.val) := by
      refine (congrArg Host.Outcome.next (State.objTake_only (s := s.begin_) ha (by rw [objType, hb]))).trans ?_
      rw [State.objApply, hb]
    have hkeys := State.unenrolApply_keys (s := s.begin_.modSec fun x => { x with acc := x.acc.erase o }) ht
    refine ⟨_, hrun, ?_, fun n hn => ?_⟩
    · unfold State.slotKeys
      rw [hkeys]
      exact nth_modAt _ _ hl
    · unfold State.slotKeys
      rw [hkeys]
      exact nth_modAt_ne _ _ _ hn
  · have hrun : exec .transfer s = .next ((s.begin_.modSec fun x => { x with acc := x.acc.erase o }).transferApply 0) := by
      refine (congrArg Host.Outcome.next (State.objTake_only (s := s.begin_) ha (by rw [objType, hb]))).trans ?_
      rw [State.objApply, hb]
    exact ⟨_, hrun, State.transferApply_keys (show 0 < s.keys.length by omega)⟩
  · refine ⟨_, rfl, ?_⟩
    dsimp only
    split
    · exact s.begin_.sleepGo_keys
    · split
      · exact s.begin_.modeGo_keys
      · rfl

end Sys2Proof.Machine

/-! PROOFS. A handover that a reset of the management pair ends (R345). -/

namespace Sys2Proof.Machine

namespace State

variable {s t u : State}

/-! ### The array stops -/

theorem halfOut_code (s : State) (b : Bool) {code : Nat} (h : code < 4) : (s.halfOut b code).fg (halfRef b) = code := by
  unfold halfOut
  rw [fg_blendHalf_apart _ (by cases b <;> decide)]
  cases b
  · exact (fg_fs (f := PIX_HALF_A) _ ⟨by decide, by decide⟩ _).trans (Nat.mod_eq_of_lt h)
  · exact (fg_fs (f := PIX_HALF_B) _ ⟨by decide, by decide⟩ _).trans (Nat.mod_eq_of_lt h)

/-- The other half-array stays as it is. -/
theorem halfOut_other (s : State) (b : Bool) (code : Nat) : (s.halfOut b code).fg (halfRef !b) = s.fg (halfRef !b) := by
  unfold halfOut
  rw [fg_blendHalf_apart _ (by cases b <;> decide)]
  cases b
  · exact fg_fs_apart _ _ (by decide)
  · exact fg_fs_apart _ _ (by decide)

theorem halfOut_pix (s : State) (b : Bool) (code : Nat) : (s.halfOut b code).pix = s.pix :=
  (kept_halfOut (K := (· ≠ .pix)) (.refl s) nofun nofun).part

/-- Every half-array reloads, and no job is in flight. -/
structure Stopped (s t : State) : Prop where
  jobs : t.pix.jobs = []
  halfA : t.fg PIX_HALF_A = 3
  halfB : t.fg PIX_HALF_B = 3
  pages : pagesBut [pgRST, pgPIX, pgCORR] s t
  upd : t.upd = s.upd

theorem releaseFor_keeps (s : State) (w : Nat) (src ovl : Bool) : (s.releaseFor w src ovl).pix.jobs = s.pix.jobs ∧
    (s.releaseFor w src ovl).regs = s.regs := by
  unfold releaseFor
  split
  · rw [modPix_pix, modPix_regs]
    refine ⟨?_, rfl⟩
    split <;> rfl
  · exact ⟨rfl, rfl⟩

theorem arrayStop_stopped (s : State) : Stopped s s.arrayStop := by
  have hupd : s.arrayStop.upd = s.upd := (kept_arrayStop (K := (· ≠ .upd)) (.refl s) nofun nofun nofun).part
  have hreleased (l : List Job) (u : State) : (l.foldl (fun s j => if j.drop then s else s.releaseFor j.win j.inp.srcNew j.inp.ovlNew) u).pix.jobs =
      u.pix.jobs ∧ (l.foldl (fun s j => if j.drop then s else s.releaseFor j.win j.inp.srcNew j.inp.ovlNew) u).regs = u.regs := by
    refine List.foldlRecOn l _ (motive := fun v : State => v.pix.jobs = u.pix.jobs ∧ v.regs = u.regs) ⟨rfl, rfl⟩ fun v hv j _ => ?_
    obtain ⟨hjobs, hregs⟩ := v.releaseFor_keeps j.win j.inp.srcNew j.inp.ovlNew
    split
    · exact hv
    · exact ⟨hjobs.trans hv.1, hregs.trans hv.2⟩
  obtain ⟨hjobs, hregs⟩ := hreleased s.pix.jobs (s.modPix fun p => { p with jobs := [] })
  unfold arrayStop at hupd ⊢
  dsimp only at hupd ⊢
  generalize List.foldl _ (s.modPix fun p => { p with jobs := [] }) s.pix.jobs = u at *
  have hpages : pagesBut [pgRST, pgPIX, pgCORR] s u := (pagesBut.refl _ s).of_eq hregs
  exact ⟨by rw [halfOut_pix, halfOut_pix]; exact hjobs, ((u.halfOut false 3).halfOut_other true 3).trans (u.halfOut_code false (by decide)),
    (u.halfOut false 3).halfOut_code true (by decide), (hpages.trans (u.pagesBut_halfOut false 3)).trans (pagesBut_halfOut _ true 3), hupd⟩

/-! ### The handover ends -/

/-- A pause activation is under way from `at_` on with the whole array stopped, and register access is gone. -/
structure Broken (upd : UpdSt) (at_ : Nat) (t : State) : Prop where
  paused : t.actPaused = true
  upd : t.upd = { upd with stage := 0, actAt := at_ }
  jobs : t.pix.jobs = []
  halfA : t.fg PIX_HALF_A = 3
  halfB : t.fg PIX_HALF_B = 3
  access : t.fab.access = false

/-- What the reset of the pair leaves of the registers of other pages, and of the update. -/
theorem mgmtStop_keeps (s : State) : s.mgmtStop.regs = s.regs ∧ s.mgmtStop.upd = s.upd ∧ s.mgmtStop.now = s.now := by
  have hpause : s.pauseAccess.regs = s.regs ∧ s.pauseAccess.upd = s.upd ∧ s.pauseAccess.now = s.now := by
    unfold pauseAccess
    split <;> exact ⟨rfl, rfl, rfl⟩
  rw [mgmtStop_eq]
  exact hpause

theorem handoverBreak_eq (h : 1 ≤ s.upd.stage) :
    s.handoverBreak = (s.modUpd fun u => { u with stage := 0, actAt := s.now }).arrayStop := if_neg (by omega)

theorem actPaused_of (hs : t.fg UPD_STAT_STATE = 5) (hg : t.upd.stage = 0) : t.actPaused = true := by
  unfold actPaused
  rw [hs, hg]
  rfl

/-- A reset of the management pair ends a handover at any of its stages. -/
theorem mgmtReset_breaks (s : State) (c : Nat) (h5 : s.updState = 5) (h1 : 1 ≤ s.upd.stage) : Broken s.upd s.now (s.mgmtReset c) := by
  obtain ⟨hregs, hupd, hnow⟩ := s.mgmtStop_keeps
  have hacc := (s.mgmtReset_stops c).1
  have hstop := (s.mgmtStop.modUpd fun u => { u with stage := 0, actAt := s.mgmtStop.now }).arrayStop_stopped
  unfold mgmtReset at hacc ⊢
  rw [handoverBreak_eq (by rw [hupd]; exact h1)] at hacc ⊢
  obtain ⟨hjobs, hA, hB, hpages, hu⟩ := hstop
  generalize (s.mgmtStop.modUpd fun u => { u with stage := 0, actAt := s.mgmtStop.now }).arrayStop = t at *
  have hall : pagesBut [pgRST, pgPIX, pgCORR] s ((t.fs RST_CAUSE_CAUSE c).inc RST_COUNT_MGMT 0 1) :=
    ((((pagesBut.refl _ s).of_eq hregs).trans hpages).fs _ _ (by decide) (by decide) (by decide)).inc _ _ _ (by decide) (by decide) (by decide)
  have hupd' : t.upd = { s.upd with stage := 0, actAt := s.now } := by rw [hu, modUpd_upd, hupd, hnow]
  have hafter : pagesBut [pgRST] t ((t.fs RST_CAUSE_CAUSE c).inc RST_COUNT_MGMT 0 1) :=
    ((pagesBut.refl _ t).fs _ _ (by decide) (by decide) (by decide)).inc _ _ _ (by decide) (by decide) (by decide)
  exact ⟨actPaused_of ((hall.fg _ (by decide) (by decide) (by decide)).trans h5) (congrArg UpdSt.stage hupd'), hupd', hjobs,
    (hafter.fg _ (by decide) (by decide) (by decide)).trans hA, (hafter.fg _ (by decide) (by decide) (by decide)).trans hB, hacc⟩

/-- It stands over changes of registers of other pages. -/
theorem Broken.of_pages {x : UpdSt} {at_ : Nat} (h : Broken x at_ t) {l : List Nat} (hp : pagesBut l t u)
    (hl : pgUPD ∉ l ∧ pgPIX ∉ l) (hu : u.upd = t.upd) (hx : u.pix = t.pix) (ha : u.fab.access = t.fab.access) : Broken x at_ u := by
  have hstate := hp.fg UPD_STAT_STATE (by decide) (by decide) hl.1
  have hA := hp.fg PIX_HALF_A (by decide) (by decide) hl.2
  have hB := hp.fg PIX_HALF_B (by decide) (by decide) hl.2
  obtain ⟨paused, upd, jobs, halfA, halfB, access⟩ := h
  refine ⟨?_, hu.trans upd, by rw [hx, jobs], hA.trans halfA, hB.trans halfB, ha.trans access⟩
  rw [actPaused, hstate, hu]
  exact paused

theorem Broken.done {x : UpdSt} {at_ : Nat} (h : Broken x at_ t) : Broken x at_ ((t.bumpGen pgRST).emit (.res ⟨0, 0⟩ [])) :=
  h.of_pages (((pagesBut.refl [pgRST] _).bumpGen _ (by decide) (by decide)).emit _) ⟨by decide, by decide⟩ rfl rfl rfl

/-- The lockstep event waits for register access. -/
theorem Broken.lockstep {x : UpdSt} {at_ : Nat} (h : Broken x at_ t) :
    Broken x at_ ((t.inc FLT_LOCK_COUNT 0 1).modFab fun f => { f with lockEv := true }) :=
  h.of_pages (((pagesBut.refl [pgFAULT] _).inc _ _ _ (by decide) (by decide) (by decide)).modFab _) ⟨by decide, by decide⟩ rfl rfl rfl

/-! ### A pause activation completes -/

/-- Everything that the pause stopped runs again. -/
theorem pauseEnd_ends (s : State) (h : s.pow.trimDone = true) : s.pauseEnd.fab.access = true ∧ s.pauseEnd.upd = s.upd := by
  have hpow : ((s.halfLoaded false).halfLoaded true).pow.trimDone = true := by
    rw [show ((s.halfLoaded false).halfLoaded true).pow = s.pow from
      (kept_halfLoaded (K := (· ≠ .pow)) (kept_halfLoaded (.refl s) nofun) nofun).part]
    exact h
  have hfab (u : State) (n : Nat) : (u.showStop n).fab = u.fab := (kept_showStop (K := (· ≠ .fab)) (.refl u) nofun).part
  refine ⟨?_, (kept_pauseEnd (K := (· ≠ .upd)) (.refl s) nofun nofun nofun nofun).part⟩
  unfold pauseEnd
  dsimp only
  rw [hfab, if_pos hpow]
  exact restoreAccess_access _

/-- What an ended activation shows in registers: the slot that runs, its window, the slots' states, and an IDLE update. -/
def actShown (s : State) : State :=
  let u := (s.fs SLOT_BOOT_RUN s.upd.target).fs SPIB_XBASE_BASE (if s.upd.target = 0 then 0x0010 else 0x00D0)
  ((u.slotState s.upd.target 4).slotState s.upd.prev 5).setUpd 0

theorem actDone_regs (s : State) (commit : Bool) : (s.actDone commit).regs = s.actShown.regs := by
  have hstart (u : State) (l : List Nat) : (u.compStart 1 l 0).regs = u.regs := (kept_compStart (K := (· ≠ .regs)) (.refl u) nofun).part
  have hmeas (u : State) (m : Manifest) : (u.measured m).regs = u.regs := (kept_measured (K := (· ≠ .regs)) (.refl u) nofun).part
  have hev (u : State) (d : Nat) : (u.updEv 0x0E12 d).regs = u.regs := u.ev_regs pgUPD d kInfo 0 (by decide)
  have hif (u : State) (l : List Nat) : (if commit = true then u.compStart 1 l 0 else u).regs = u.regs := by
    split
    · exact hstart u l
    · rfl
  unfold actDone
  dsimp only
  rw [hif, hev]
  split
  · exact hmeas _ _
  · rfl

/-- The new slot runs, and the update is IDLE. -/
theorem actDone_runs (s : State) (commit : Bool) (ht : s.upd.target < 2) (hp : s.upd.prev < 2) :
    (s.actDone commit).fg UPD_STAT_STATE = 0 ∧ (s.actDone commit).fg SLOT_BOOT_RUN = s.upd.target := by
  have hslot (u : State) (k v : Nat) (hk : k < 2) : SameReg pgSLOT SLOT_BOOT_RUN.off u (u.slotState k v) :=
    (SameReg.refl _ _ u).fsk SLOT_INFO_STATE 0 k v (by simp only [regKey, SLOT_INFO_STATE, SLOT_BOOT_RUN, pgSLOT]; omega)
  have hshown : SameReg pgSLOT SLOT_BOOT_RUN.off (s.fs SLOT_BOOT_RUN s.upd.target) s.actShown :=
    ((((SameReg.refl _ _ _).fs SPIB_XBASE_BASE _).trans (hslot _ _ 4 ht)).trans (hslot _ _ 5 hp)).fs UPD_STAT_STATE 0
  have hrun : (s.fs SLOT_BOOT_RUN s.upd.target).fg SLOT_BOOT_RUN = s.upd.target :=
    (fg_fs (f := SLOT_BOOT_RUN) s ⟨by decide, by decide⟩ s.upd.target).trans (Nat.mod_eq_of_lt (show s.upd.target < 4 by omega))
  have hregs (p o : Nat) : SameReg p o s.actShown (s.actDone commit) := (SameReg.refl p o _).of_regs (s.actDone_regs commit)
  exact ⟨(SameReg.fg (f := UPD_STAT_STATE) (hregs _ _)).trans (fg_fs (f := UPD_STAT_STATE) _ ⟨by decide, by decide⟩ 0),
    (SameReg.fg (f := SLOT_BOOT_RUN) (hshown.trans (hregs _ _))).trans hrun⟩

theorem activateEnd_paused (h : s.actPaused = true) (hc : s.upd.comp = none) : s.activateEnd none = s.pauseEnd.actDone true := by
  have hupd : s.pauseEnd.upd = s.upd := (kept_pauseEnd (K := (· ≠ .upd)) (.refl s) nofun nofun nofun nofun).part
  unfold activateEnd
  rw [h]
  simp only [hupd, hc, Bool.not_true, Bool.false_eq_true, if_false, Option.bind_none]

end State

/-- Settles O45: the reset of the pair breaks the handover, and its pause activation completes like any other. -/
theorem handoverBroken : Obligations.HandoverBroken := by
  refine ⟨fun s s1 a p o w g ha h5 h1 => ?_, fun s h5 h1 hw hacc => ?_, fun s h5 h1 hp hh => ?_, fun s hpause hc ht hp htrim => ?_⟩
  · obtain ⟨rfl, rfl⟩ := accepted_reg (by decide) (by decide) ha
    have h := s1.mgmtReset_breaks 4 h5 h1
    obtain ⟨paused, upd, jobs, halfA, halfB, access⟩ := h.done
    exact Runs.direct rfl ha (hRstCmd_mgmt s1 w g) ⟨paused, upd, jobs, halfA, halfB, access⟩
  · generalize hd : s.fab.wdogAt + s.fg RST_WDOG_TIMEOUT * Config.ms = due
    have hrun : s.begin_.watchdog = (s.begin_.advance due).mgmtReset 6 := by
      rw [← hd]
      exact if_neg (by simp [hw, hacc])
    obtain ⟨paused, upd, jobs, halfA, halfB, access⟩ := (s.begin_.advance due).mgmtReset_breaks 6 h5 h1
    refine ⟨_, congrArg Host.Outcome.next hrun, paused, ?_, jobs, halfA, halfB, access⟩
    rw [State.mgmtReset_now]
    exact upd
  · have hrun : s.begin_.lockstep = ((s.begin_.mgmtReset 5).inc FLT_LOCK_COUNT 0 1).modFab fun f => { f with lockEv := true } :=
      if_pos ⟨hp, by simp [hh]⟩
    obtain ⟨paused, upd, jobs, halfA, halfB, access⟩ := (s.begin_.mgmtReset_breaks 5 h5 h1).lockstep
    exact ⟨_, congrArg Host.Outcome.next hrun, paused, upd, jobs, halfA, halfB, access⟩
  · obtain ⟨hacc, hupd⟩ := s.begin_.pauseEnd_ends htrim
    refine ⟨_, congrArg Host.Outcome.next (State.activateEnd_paused (s := s.begin_) hpause hc), ?_⟩
    have hend := s.begin_.pauseEnd.actDone_runs true (by rw [hupd]; exact ht) (by rw [hupd]; exact hp)
    have hfab : (s.begin_.pauseEnd.actDone true).fab = s.begin_.pauseEnd.fab :=
      (kept_actDone (K := (· ≠ .fab)) (.refl _) nofun nofun nofun nofun).part
    rw [hupd] at hend
    rw [← hfab] at hacc
    generalize s.begin_.pauseEnd.actDone true = t at *
    exact ⟨by rw [State.actPaused, hend.1]; rfl, hend.2, hacc⟩

end Sys2Proof.Machine

/-! PROOFS. What an admission and a debug halt leave of registers (R61, R372). -/

namespace Sys2Proof.Machine

/-- A fold in which one element alone changes anything, and changes nothing that the others ask for. -/
theorem foldl_only {σ α : Type} [DecidableEq α] {f : σ → α → σ} {s : σ} {k : α} {l : List α} (hn : l.Nodup) (hk : k ∈ l)
    (hb : ∀ b ∈ l, b ≠ k → f s b = s) (ha : ∀ b ∈ l, b ≠ k → f (f s k) b = f s k) : l.foldl f s = f s k := by
  have still {t : σ} {l : List α} (h : ∀ b ∈ l, f t b = t) : l.foldl f t = t := by
    induction l with
    | nil => rfl
    | cons x xs ih => rw [List.foldl_cons, h x List.mem_cons_self]; exact ih fun b hb => h b (List.mem_cons_of_mem _ hb)
  induction l with
  | nil => cases hk
  | cons x xs ih =>
    rw [List.nodup_cons] at hn
    rw [List.foldl_cons]
    by_cases hx : x = k
    · subst hx
      exact still fun b hb => ha b (List.mem_cons_of_mem _ hb) fun e => hn.1 (e ▸ hb)
    · rw [hb x List.mem_cons_self hx]
      exact ih hn.2 ((List.mem_cons.mp hk).resolve_left fun e => hx e.symm) (fun b h => hb b (List.mem_cons_of_mem _ h))
        fun b h => ha b (List.mem_cons_of_mem _ h)

/-- One bit of a word of which another is put. -/
theorem bit_putBits (v : Nat) (x : Bool) (k b : Nat) : bit (putBits v k k (b2n x)) b = if b = k then x else bit v b := by
  unfold bit
  by_cases h : b = k
  · subst h
    rw [if_pos rfl, bitsOf_putBits]
    cases x <;> simp [b2n]
  · rw [if_neg h]
    rcases Nat.lt_or_gt_of_ne h with hlt | hgt
    · rw [bitsOf_putBits_below hlt (Nat.le_refl _)]
    · rw [bitsOf_putBits_above hgt (Nat.le_refl _)]

/-- A bit put into a word of five stays among them. -/
theorem putBits_bit_lt {v k : Nat} (x : Bool) (hv : v < 32) (hk : k < 5) : putBits v k k (b2n x) < 32 := by
  have habove := bitsOf_putBits_above (v := v) (x := b2n x) (hi' := 31) hk (Nat.le_refl k)
  have hword := putBits_lt (x := b2n x) (show v < 2 ^ 32 by omega) (Nat.le_refl k) (by omega)
  rw [bitsOf_def, bitsOf_def] at habove
  omega

namespace State

variable {s t u : State}

/-! ### An admission changes registers of a TEN page at most -/

/-- The pages of the tenants. -/
def tenPages : List Nat := (List.range 16).map (pgTEN + ·)

theorem mem_tenPages {n : Nat} (h : n < 16) : pgTEN + n ∈ tenPages := List.mem_map_of_mem (List.mem_range.mpr h)

theorem pagesBut_startSession (s : State) {n : Nat} (port : Option Nat) (seq : Nat) (hn : n < 16) :
    pagesBut tenPages s (s.startSession n port seq) := by
  have hm := mem_tenPages hn
  have hp : pgTEN + n < 256 := by simp only [pgTEN]; omega
  unfold startSession
  dsimp only
  exact (((((((pagesBut.refl tenPages s).fsi TEN_STATE_STATE n _ hp (by decide) hm).fsi TEN_STATE_VIA_LINK n _ hp (by decide) hm).fsi
    TEN_STATE_VIA_SPIA n _ hp (by decide) hm).fsi TEN_SEQ_HIGH n _ hp (by decide) hm).fsi TEN_SEQ_MISSING n _ hp (by decide) hm).modTen _
    _).of_eq (ev_regs _ _ _ _ _ (by decide))

theorem renewSession_regs (s : State) (n : Nat) : (s.renewSession n).regs = s.regs := by
  unfold renewSession
  split <;> rfl

/-- What an admission changes of registers. -/
theorem pagesBut_grant {a : Access} {addr : Nat} {w : Who} (h : grantAccess s a addr = .ok (t, w)) : pagesBut tenPages s t := by
  have hspia : s.fg SYS_SPIA_TEN < 16 := s.fg_lt SYS_SPIA_TEN
  have hrenew (n : Nat) : pagesBut tenPages s (s.renewSession n) := (pagesBut.refl _ s).of_eq (renewSession_regs _ _)
  unfold grantAccess at h
  dsimp only at h
  repeat' split at h
  all_goals cases h
  · exact .refl _ _
  · exact .refl _ _
  · exact hrenew _
  · exact pagesBut_startSession s none 0 hspia
  · exact hrenew _
  · exact .refl _ _
  · exact .refl _ _

end State

theorem accepted_grant {s s1 : State} {a : Access} {addr data p o : Nat} {w : Who} {g : Reg}
    (ha : accepted s a addr data = some (s1, w, p, o, g)) : grantAccess s a addr = .ok (s1, w) := by
  unfold accepted at ha
  split at ha
  · cases ha
  next s2 w2 hgrant =>
    split at ha
    · cases ha
    · split at ha
      · cases ha
        exact hgrant
      · cases ha

/-- An accepted write finds every field as it was, but of the TEN pages. -/
theorem accepted_fg {s s1 : State} {a : Access} {addr data p o : Nat} {w : Who} {g : Reg}
    (ha : accepted s.begin_ a addr data = some (s1, w, p, o, g)) (f : FRef)
    (hf : f.page < 256 ∧ f.off < 4096 ∧ f.page ∉ State.tenPages := by decide) : s1.fg f = s.fg f :=
  (State.pagesBut_grant (accepted_grant ha)).fg f hf.1 hf.2.1 hf.2.2

end Sys2Proof.Machine

/-! PROOFS. Debug halts of cores and the TAP (R371 to R373, Table 17.8). -/

namespace Sys2Proof.Machine

namespace State

variable {s t u : State}

/-! ### What a halt touches beside DBG_STAT -/

/-- Pages that a halt or a resume changes beside DBG. -/
def haltPages : List Nat := [pgFAULT, pgRST, pgPIX, pgCORR] ++ (List.range 8).map (pgPHASE + ·)

theorem pagesBut_showPhase (s : State) {n : Nat} (hn : n < 8) : pagesBut haltPages s (s.showPhase n) := by
  have hm : pgPHASE + n ∈ haltPages := List.mem_append_right _ (List.mem_map_of_mem (List.mem_range.mpr hn))
  have hp : pgPHASE + n < 256 := by simp only [pgPHASE]; omega
  unfold showPhase
  exact ((((((((pagesBut.refl haltPages s).fsi _ n _ hp (by decide) hm).fsi _ n _ hp (by decide) hm).fsi _ n _ hp (by decide) hm).fsi _ n _ hp
    (by decide) hm).fsi _ n _ hp (by decide) hm).fsi _ n _ hp (by decide) hm).fsi _ n _ hp (by decide) hm).settle _ hp hm (by decide)

theorem showPhase_outs (s : State) (n : Nat) : (s.showPhase n).outs = s.outs := by
  unfold showPhase
  dsimp only
  rw [settle_outs]
  repeat rw [fsi_outs]

/-- A hard stop shows the phases and sends nothing. -/
theorem hardStop_shows (s : State) (safe : Bool) : pagesBut haltPages s (s.hardStop safe) ∧ (s.hardStop safe).outs = s.outs ∧
    (s.hardStop safe).sup.halt = s.sup.halt := by
  unfold hardStop
  extract_lets stop _ u
  have hu : pagesBut haltPages s u ∧ u.outs = s.outs ∧ u.sup.halt = s.sup.halt := ⟨.refl _ _, rfl, rfl⟩
  refine List.foldlRecOn (motive := fun v : State => pagesBut haltPages s v ∧ v.outs = s.outs ∧ v.sup.halt = s.sup.halt) _ _ hu
    fun v hv n hn => ?_
  obtain ⟨hpages, houts, hhalt⟩ := hv
  exact ⟨hpages.trans (v.pagesBut_showPhase (List.mem_range.mp hn)), (v.showPhase_outs n).trans houts, by rw [showPhase_sup]; exact hhalt⟩

theorem haltSupply_shows (s : State) : pagesBut haltPages s s.haltSupply ∧ s.haltSupply.outs = s.outs ∧ s.haltSupply.sup.halt = true := by
  obtain ⟨hpages, houts, hhalt⟩ := State.hardStop_shows { s with sup := { s.sup with halt := true } } true
  unfold haltSupply
  dsimp only
  refine ⟨hpages.ev _ _ _ _ _ (by decide), ?_, ?_⟩
  · rw [ev_outs, houts]
  · rw [ev_sup, hhalt]

theorem resumeSupply_shows (s : State) : pagesBut haltPages s s.resumeSupply ∧ s.resumeSupply.outs = s.outs ∧ s.resumeSupply.sup.halt = false := by
  have hu : pagesBut haltPages s { s with sup := { s.sup with halt := false } } ∧ s.outs = s.outs ∧ false = false := ⟨.refl _ _, rfl, rfl⟩
  unfold resumeSupply
  refine List.foldlRecOn (motive := fun v : State => pagesBut haltPages s v ∧ v.outs = s.outs ∧ v.sup.halt = false) _ _ hu fun v hv n hn => ?_
  obtain ⟨hpages, houts, hhalt⟩ := hv
  split
  · unfold haltPhase
    exact ⟨(hpages.modPhase _ _).trans (pagesBut_showPhase _ (List.mem_range.mp hn)), (showPhase_outs _ n).trans houts,
      by rw [showPhase_sup]; exact hhalt⟩
  · exact ⟨hpages, houts, hhalt⟩

theorem fkTell_outs (s : State) (h n : Nat) : (s.fkTell h n).outs = s.outs := by
  unfold fkTell
  split
  · rw [evTo_outs]
  · rfl

theorem fkTell_regs (s : State) (h n : Nat) : pagesBut haltPages s (s.fkTell h n) := by
  unfold fkTell
  split
  · exact (pagesBut.refl _ s).evTo _ _ _ _ _ _ (by decide)
  · exact .refl _ _

theorem restoreAccess_shows (s : State) : pagesBut haltPages s s.restoreAccess ∧ s.restoreAccess.outs = s.outs := by
  unfold restoreAccess
  split
  · exact ⟨.refl _ _, rfl⟩
  · dsimp only
    refine List.foldlRecOn (motive := fun v : State => pagesBut haltPages s v ∧ v.outs = s.outs) _ _ ⟨.refl _ _, rfl⟩ fun v hv x _ => ?_
    exact ⟨hv.1.trans (v.fkTell_regs _ _), (v.fkTell_outs _ _).trans hv.2⟩

theorem pauseAccess_shows (s : State) : s.pauseAccess.regs = s.regs ∧ s.pauseAccess.outs = s.outs := by
  unfold pauseAccess
  split <;> exact ⟨rfl, rfl⟩

theorem halfOut_outs (s : State) (b : Bool) (code : Nat) : (s.halfOut b code).outs = s.outs := by
  unfold halfOut blendHalf
  split <;> rfl

/-! ### One core -/

/-- Core `k`'s bit of DBG_STAT is `on`, and the requests and the other bits stand. -/
structure CoreSet (k : Nat) (on : Bool) (s t : State) : Prop where
  asked : t.fg DBG_HALT_HALT = s.fg DBG_HALT_HALT
  shown : t.fg DBG_STAT_HALTED = putBits (s.fg DBG_STAT_HALTED) k k (b2n on)
  outs : t.outs = s.outs

theorem coreSet_setHalted (s : State) {k : Nat} (on : Bool) (hk : k < 5) : CoreSet k on s (s.setHalted k on) := by
  refine ⟨fg_fs_apart _ _ (by decide), ?_, rfl⟩
  exact (fg_fs (f := DBG_STAT_HALTED) s ⟨by decide, by decide⟩ _).trans (Nat.mod_eq_of_lt (putBits_bit_lt on (s.fg_lt DBG_STAT_HALTED) hk))

theorem CoreSet.of_pages {k : Nat} {on : Bool} (h : CoreSet k on s t) (hp : pagesBut haltPages t u) (ho : u.outs = t.outs) : CoreSet k on s u :=
  ⟨(hp.fg _ (by decide) (by decide) (by decide)).trans h.asked, (hp.fg _ (by decide) (by decide) (by decide)).trans h.shown, ho.trans h.outs⟩

theorem CoreSet.ev {k : Nat} {on : Bool} (h : CoreSet k on s t) (p c d n u : Nat) : CoreSet k on s (t.ev p c d n u) :=
  h.of_pages ((pagesBut.refl _ t).ev _ _ _ _ _ (by decide)) (ev_outs _ _ _ _ _ _)

theorem haltCore_set (s : State) {k : Nat} (hk : k < 5) : CoreSet k true s (s.haltCore k) := by
  have h := (s.coreSet_setHalted true hk).ev pgDBG 0x0F10 k kInfo k
  unfold haltCore
  dsimp only
  generalize (s.setHalted k true).ev pgDBG 0x0F10 k kInfo k = t at h
  split
  · exact h.of_pages ((pagesBut.refl _ t).of_eq t.pauseAccess_shows.1) t.pauseAccess_shows.2
  · exact h.of_pages t.haltSupply_shows.1 t.haltSupply_shows.2.1
  · exact h.of_pages ((t.pagesBut_halfOut false 2).mono (by decide)) (t.halfOut_outs _ _)
  · exact h.of_pages ((t.pagesBut_halfOut true 2).mono (by decide)) (t.halfOut_outs _ _)
  · exact h

/-- What the halt of a core stops (Table 17.8). -/
theorem haltCore_stops (s : State) (k : Nat) : (k = 0 → (s.haltCore k).fab.access = false) ∧ (k = 1 → (s.haltCore k).sup.halt = true) ∧
    (k = 2 → (s.haltCore k).fg PIX_HALF_A = 2) ∧ (k = 3 → (s.haltCore k).fg PIX_HALF_B = 2) := by
  refine ⟨?_, ?_, ?_, ?_⟩ <;> rintro rfl
  · exact pauseAccess_access _
  · exact (haltSupply_shows _).2.2
  · exact halfOut_half _ false
  · exact halfOut_half _ true

theorem resumeCore_set (s : State) {k : Nat} (hk : k < 5) : CoreSet k false s (s.resumeCore k) := by
  have h := (s.coreSet_setHalted false hk).ev pgDBG 0x0F11 k kInfo k
  have hin (v : State) (b : Bool) : pagesBut haltPages v (v.halfIn b) := by
    cases b <;> exact (pagesBut.refl _ v).fs _ _ (by decide) (by decide) (by decide)
  unfold resumeCore
  dsimp only
  generalize (s.setHalted k false).ev pgDBG 0x0F11 k kInfo k = t at h
  split
  · split
    · exact h
    · have hr := (t.modFab fun f => { f with wdogAt := f.wdogAt + (t.now - t.fab.pausedAt) }).restoreAccess_shows
      exact h.of_pages hr.1 hr.2
  · exact h.of_pages t.resumeSupply_shows.1 t.resumeSupply_shows.2.1
  · split
    · exact h.of_pages (hin t false) rfl
    · exact h
  · split
    · exact h.of_pages (hin t true) rfl
    · exact h
  · exact h

theorem resumeCore_supply (s : State) : (s.resumeCore 1).sup.halt = false := by
  rw [show s.resumeCore 1 = ((s.setHalted 1 false).ev pgDBG 0x0F11 1 kInfo 1).resumeSupply from rfl]
  exact (resumeSupply_shows _).2.2

/-! ### A request of one core -/

/-- What core `b` does about its request (Table 17.8). -/
def follow (s : State) (b : Nat) : State :=
  if bit (s.fg DBG_HALT_HALT) b && !bit (s.fg DBG_STAT_HALTED) b then s.haltCore b
  else if bit (s.fg DBG_STAT_HALTED) b && !bit (s.fg DBG_HALT_HALT) b then s.resumeCore b else s

theorem haltWritten_eq (s : State) : s.haltWritten = (List.range 5).foldl follow s := rfl

theorem follow_same {b : Nat} (h : bit (s.fg DBG_HALT_HALT) b = bit (s.fg DBG_STAT_HALTED) b) : s.follow b = s := by
  unfold follow
  rw [h]
  simp

theorem follow_set {k : Nat} {on : Bool} (hr : bit (s.fg DBG_HALT_HALT) k = on) (hs : bit (s.fg DBG_STAT_HALTED) k = !on) :
    s.follow k = if on then s.haltCore k else s.resumeCore k := by
  unfold follow
  rw [hr, hs]
  cases on <;> simp

/-- When one core's request alone differs from its state, that core follows and no other changes. -/
theorem haltWritten_one {k : Nat} {on : Bool} (hk : k < 5) (ho : ∀ b < 5, b ≠ k → bit (s.fg DBG_HALT_HALT) b = bit (s.fg DBG_STAT_HALTED) b)
    (hr : bit (s.fg DBG_HALT_HALT) k = on) (hs : bit (s.fg DBG_STAT_HALTED) k = !on) :
    s.haltWritten = s.follow k ∧ CoreSet k on s (s.follow k) := by
  have hset : CoreSet k on s (s.follow k) := by
    rw [follow_set hr hs]
    cases on
    · exact s.resumeCore_set hk
    · exact s.haltCore_set hk
  rw [haltWritten_eq]
  refine ⟨foldl_only List.nodup_range (List.mem_range.mpr hk) (fun b hb hne => follow_same (ho b (List.mem_range.mp hb) hne)) fun b hb hne => ?_, hset⟩
  refine follow_same ?_
  rw [hset.asked, hset.shown, bit_putBits, if_neg hne]
  exact ho b (List.mem_range.mp hb) hne

end State

/-! ### Writes of DBG_HALT -/

/-- A write of DBG_HALT stores its requests. -/
theorem storeReg_halt (s : State) (w : Who) {g : Reg} (d : Nat) (hg : anyRegAt pgDBG DBG_HALT.off = some g) :
    (storeReg s w pgDBG DBG_HALT.off g d).fg DBG_HALT_HALT = d % 2 ^ 5 ∧
      (storeReg s w pgDBG DBG_HALT.off g d).fg DBG_STAT_HALTED = s.fg DBG_STAT_HALTED ∧ (storeReg s w pgDBG DBG_HALT.off g d).outs = s.outs := by
  have hreg := storeReg_reg s w d hg (Option.some.inj hg ▸ rfl) (by decide)
  have hfld : g.flds = [⟨4, 0, .rw, .plain, []⟩] := Option.some.inj hg ▸ rfl
  have hbits := bitsOf_mergeFlds_rw (n := 5) (s.reg pgDBG DBG_HALT.off) d (by decide) (by decide)
  rw [hfld] at hreg
  refine ⟨(congrArg (bitsOf · 4 0) hreg).trans hbits, ?_, rfl⟩
  exact ((State.regsBut.refl [(pgDBG, DBG_HALT.off)] s).put (b' := bankOfReg s.regs w pgDBG DBG_HALT.off) _ (p' := pgDBG) (o' := DBG_HALT.off)
    (by decide) (by decide) (by decide)).fg DBG_STAT_HALTED (by decide) (by decide) (by decide)

/-- An accepted write that differs from the states in one core's bit makes that core follow. -/
theorem runs_dbgHalt {i : Instr} {s s1 : State} {a : Access} {k p o : Nat} {on : Bool} {w : Who} {g : Reg} {P : State → Prop} (hk : k < 5)
    (e : exec i s = .next (dbgHalt s a k on))
    (ha : accepted s.begin_ a (regAddr pgDBG DBG_HALT.off) (putBits (s.fg DBG_HALT_HALT) k k (b2n on)) = some (s1, w, p, o, g))
    (hsame : s.fg DBG_HALT_HALT = s.fg DBG_STAT_HALTED) (hs : bit (s.fg DBG_STAT_HALTED) k = !on)
    (hscope : on = true → bit (s.fg DBG_SCOPE_SCOPE) k = true)
    (hP : ∀ u : State, State.CoreSet k on u (u.follow k) → u.outs = [] → bit (u.fg DBG_HALT_HALT) k = on → bit (u.fg DBG_STAT_HALTED) k = !on →
      P (((u.follow k).bumpGen pgDBG).emit (.res ⟨0, 0⟩ []))) : Runs i s P := by
  obtain ⟨rfl, rfl⟩ := accepted_reg (by decide) (by decide) ha
  replace e : exec i s = .next (direct s.begin_ a (regAddr pgDBG DBG_HALT.off) (putBits (s.fg DBG_HALT_HALT) k k (b2n on)) hDbgHalt) := e
  have hstat : s1.fg DBG_STAT_HALTED = s.fg DBG_STAT_HALTED := accepted_fg ha _
  have hopen : s1.fg DBG_SCOPE_SCOPE = s.fg DBG_SCOPE_SCOPE := accepted_fg ha _
  have hdata (b : Nat) : bit (putBits (s.fg DBG_HALT_HALT) k k (b2n on)) b = if b = k then on else bit (s.fg DBG_STAT_HALTED) b := by
    rw [bit_putBits, hsame]
  have hlt := putBits_bit_lt on (s.fg_lt DBG_HALT_HALT) hk
  obtain ⟨hasked, hshown, houts⟩ := storeReg_halt s1 w (putBits (s.fg DBG_HALT_HALT) k k (b2n on)) (accepted_addr ha).2
  have hemp := accepted_outs ha
  generalize putBits (s.fg DBG_HALT_HALT) k k (b2n on) = data at *
  rw [Nat.mod_eq_of_lt (show data < 2 ^ 5 from hlt)] at hasked
  rw [hstat] at hshown
  have hnone : ((List.range 5).find? fun b => bit data b && !bit (s1.fg DBG_STAT_HALTED) b && !bit (s1.fg DBG_SCOPE_SCOPE) b) = none := by
    refine List.find?_eq_none.mpr fun b _ => ?_
    rw [hdata b, hstat, hopen]
    by_cases hb : b = k
    · subst hb
      rw [if_pos rfl]
      cases on
      · simp
      · simp [hscope rfl]
    · rw [if_neg hb]
      simp
  obtain ⟨hwritten, hset⟩ := State.haltWritten_one (s := storeReg s1 w pgDBG DBG_HALT.off g data) (on := on) hk
    (fun b _ hne => by rw [hasked, hshown, hdata, if_neg hne]) (by rw [hasked, hdata, if_pos rfl]) (by rw [hshown, hs])
  have hok : hDbgHalt s1 w pgDBG DBG_HALT.off g data = .ok ((storeReg s1 w pgDBG DBG_HALT.off g data).follow k) := by
    unfold hDbgHalt
    simp only [hnone, hwritten]
  exact Runs.direct e ha hok (hP _ hset (houts.trans hemp) (by rw [hasked, hdata, if_pos rfl]) (by rw [hshown, hs]))

/-- The answer changes PG_GEN of DBG alone. -/
theorem done_dbg (u : State) {f : FRef} (h : f.page < 256 ∧ f.off < 4096 ∧ (f.page, f.off) ≠ (pgDBG, 0x024) := by decide) :
    ((u.bumpGen pgDBG).emit (.res ⟨0, 0⟩ [])).fg f = u.fg f :=
  u.done_fgk pgDBG f 0 0 (by omega) (by omega) (by decide) (by simpa using h.2.2)

theorem done_dbg_outs {u : State} (h : u.outs = []) : ((u.bumpGen pgDBG).emit (.res ⟨0, 0⟩ [])).outs = doneOuts := by
  rw [State.emit_outs, State.bumpGen_outs, h]
  rfl

/-! ### The TAP -/

theorem State.tapOther_dbg (s : State) : s.tapOther.fg DBG_STAT_EXTEST = 0 ∧ State.regsBut [(pgDBG, DBG_STAT.off)] s s.tapOther :=
  ⟨State.fg_fs (f := DBG_STAT_EXTEST) s ⟨by decide, by decide⟩ 0,
    (State.regsBut.refl _ s).fs DBG_STAT_EXTEST 0 (by decide) (by decide) (by decide)⟩

theorem State.tapExtest_drives {s : State} (tdi : Bool) (hs : bit (s.fg DBG_SCOPE_SCOPE) 4 = true) (hm : s.mode = .service)
    (he : enabledR s.regs pgSUPPLY = false) : s.tapExtest tdi = ((s.fs DBG_STAT_EXTEST 1).emit (.pins s.pow.tapPins)).modScan fun x =>
      { x with placed := x.placed.map PSink.dark, driven := false, drive := none } := by
  unfold tapExtest
  rw [if_neg (by simp [hs]), if_neg (by simp [hm, he])]

/-- Settles O22: one core follows DBG_HALT; the TAP's instructions put out what Table 17.11 names; a mismatch resets the pair. -/
theorem debugCommands : Obligations.DebugCommands := by
  refine ⟨fun s s1 a k p o w g ha hsame hs hscope => ?_, fun s s1 a k p o w g ha hsame hs => ?_, fun s tdi => ?_, fun s => ?_, fun s pins preload => ?_,
    fun s tdi hscope hm he => ?_, fun s hp hh => ?_⟩
  · refine runs_dbgHalt (on := true) k.isLt rfl ha hsame hs (fun _ => hscope) fun u hset houts hasked hshown => ?_
    have hfollow : u.follow k.val = u.haltCore k.val := State.follow_set (on := true) hasked hshown
    obtain ⟨hacc, hsup, hA, hB⟩ := u.haltCore_stops k.val
    rw [hfollow] at hset ⊢
    generalize u.haltCore k.val = t at *
    refine ⟨?_, hacc, hsup, fun h => (done_dbg t).trans (hA h), fun h => (done_dbg t).trans (hB h), done_dbg_outs (hset.outs.trans houts)⟩
    rw [done_dbg, hset.shown, bit_putBits, if_pos rfl]
  · refine runs_dbgHalt (on := false) k.isLt rfl ha hsame hs nofun fun u hset houts hasked hshown => ?_
    have hfollow : u.follow k.val = u.resumeCore k.val := State.follow_set (on := false) hasked hshown
    have hsup (h : k.val = 1) : (u.resumeCore k.val).sup.halt = false := by rw [h]; exact u.resumeCore_supply
    rw [hfollow] at hset ⊢
    generalize u.resumeCore k.val = t at *
    refine ⟨?_, hsup, done_dbg_outs (hset.outs.trans houts)⟩
    rw [done_dbg, hset.shown, bit_putBits, if_pos rfl]
  · obtain ⟨hext, hregs⟩ := s.begin_.tapOther_dbg
    exact ⟨_, rfl, rfl, rfl, hext, hregs⟩
  · obtain ⟨-, hregs⟩ := s.begin_.tapOther_dbg
    have hid : s.begin_.tapOther.reg pgDBG DBG_IDCODE.off = s.reg pgDBG DBG_IDCODE.off :=
      hregs 0 pgDBG DBG_IDCODE.off (by decide) (by decide) (by decide)
    exact ⟨_, rfl, by rw [hid]; rfl, rfl, hregs⟩
  · obtain ⟨-, hregs⟩ := s.begin_.tapOther_dbg
    exact ⟨_, rfl, rfl, rfl, hregs⟩
  · have hregs := ((State.regsBut.refl [(pgDBG, DBG_STAT.off)] s).begin.fs DBG_STAT_EXTEST 1 (by decide) (by decide) (by decide)).emit
      (.pins s.pow.tapPins)
    have hrun : exec (.extest tdi) s = .next (((s.begin_.fs DBG_STAT_EXTEST 1).emit (.pins s.pow.tapPins)).modScan fun x =>
        { x with placed := x.placed.map PSink.dark, driven := false, drive := none }) :=
      congrArg Host.Outcome.next (State.tapExtest_drives (s := s.begin_) tdi hscope hm he)
    exact ⟨_, hrun, rfl, State.fg_fs (f := DBG_STAT_EXTEST) s.begin_ ⟨by decide, by decide⟩ 1, rfl, rfl, hregs.modScan _⟩
  · have hrun : s.begin_.lockstep = ((s.begin_.mgmtReset 5).inc FLT_LOCK_COUNT 0 1).modFab fun f => { f with lockEv := true } :=
      if_pos ⟨hp, by simp [hh]⟩
    have hcause := s.begin_.mgmtReset_cause (c := 5) (by decide)
    have hacc := (s.begin_.mgmtReset_stops 5).1
    refine ⟨_, congrArg Host.Outcome.next hrun, ?_⟩
    generalize s.begin_.mgmtReset 5 = t at *
    exact ⟨hacc, rfl, State.SameReg.fg (f := RST_CAUSE_CAUSE) ((State.SameReg.refl _ _ t).inc FLT_LOCK_COUNT 0 1) |>.trans hcause⟩

end Sys2Proof.Machine

/-! PROOFS. A direct access of SYS_SCRATCH (R32, R37), under any mask. -/

namespace Sys2Proof.Machine

/-! ### SYS_SCRATCH -/

theorem sysScratch_oneField : OneField SYS_SCRATCH_DATA 32 := ⟨⟨_, rfl, rfl, rfl⟩, by decide, by decide, by decide, by decide⟩

/-- The row of SYS_SCRATCH in the register map. -/
def scratchRow : Reg := ⟨"SYS_SCRATCH", 0x060, 1, 4, 0x00000000, true, [⟨31, 0, .rw, .plain, []⟩]⟩

theorem anyRegAt_scratch : anyRegAt pgSYS SYS_SCRATCH.off = some scratchRow := rfl

theorem bankOf_scratch (r : Regs) (w : Who) : bankOfReg r w pgSYS SYS_SCRATCH.off = w.bank := rfl

/-- It holds what is written to it. -/
theorem storeReg_scratch (s : State) (w : Who) (d : Nat) :
    rget (storeReg s w pgSYS SYS_SCRATCH.off scratchRow d).regs w.bank pgSYS SYS_SCRATCH.off = d % 2 ^ 32 := by
  have h := storeReg_fgb s w d sysScratch_oneField anyRegAt_scratch
  have hlt := rget_lt (storeReg s w pgSYS SYS_SCRATCH.off scratchRow d).regs w.bank pgSYS SYS_SCRATCH.off
  rw [State.fgb, rfgetB, bitsOf_def] at h
  exact ((Nat.mod_eq_of_lt hlt).symm.trans (congrArg (· % 2 ^ 32) (Nat.div_one _)).symm).trans h

theorem writerRule_scratch (r : Regs) (w : Who) (cur data mask : Nat) : writerRule r w pgSYS SYS_SCRATCH.off cur data mask = none := rfl

theorem fieldFail_scratch (s : State) (w : Who) (data mask addr : Nat) :
    s.fieldFail w pgSYS SYS_SCRATCH.off scratchRow data mask addr = none := by
  have hfmt (old : Nat) : fmtCheck scratchRow.flds old data mask addr = none := by
    unfold fmtCheck scratchRow
    simp [Fld.refuses]
  unfold State.fieldFail
  dsimp only
  rw [hfmt]
  rfl

theorem hWrite_scratch (env : Env) (path : Path) (s : State) (w : Who) (d : Nat) :
    hWrite env path s w pgSYS SYS_SCRATCH.off scratchRow d = .ok (storeReg s w pgSYS SYS_SCRATCH.off scratchRow d) := rfl

/-- Its one field is neither staged nor of the cycle, so that no mask matters to R36. -/
theorem directRule_scratch (s : State) (mask : Nat) : directRule s pgSYS SYS_SCRATCH.off scratchRow mask =
    if s.pendingOn pgSYS = true then some ⟨pageCode 6 pgSYS 2, regAddr pgSYS SYS_SCRATCH.off % 2 ^ 16⟩ else none := by
  have hcls (c : Cls) (hc : (Cls.plain == c) = false) : touchesCls scratchRow.flds mask c = false := by
    unfold touchesCls scratchRow
    simp only [List.any_cons, List.any_nil, hc, Bool.false_and, Bool.or_false]
  unfold directRule
  rw [hcls .staged rfl, hcls .cycle rfl]
  simp [SYS_SCRATCH]

theorem writeTarget_scratch (r : Regs) (w : Who) (data mask : Nat) : writeTarget r w (regAddr pgSYS SYS_SCRATCH.off) data mask =
    if (!mayWriteR r w pgSYS && !(pgSYS / 16 == 1) && !feedWindow r w pgSYS SYS_SCRATCH.off) = true then .error ⟨pageCode 5 pgSYS 1, w.slot⟩
    else .ok (pgSYS, SYS_SCRATCH.off, scratchRow) := by
  have hal : ¬ regAddr pgSYS SYS_SCRATCH.off % 4 ≠ 0 := by
    simp only [regAddr, pgSYS, SYS_SCRATCH]
    omega
  unfold writeTarget
  rw [addrReg_regAddr (by decide) (by decide)]
  dsimp only
  rw [if_neg hal, anyRegAt_scratch]
  dsimp only
  rw [writerRule_scratch]

/-- The word that a write under a mask leaves. -/
def maskedWord (old v m : Nat) : Nat := if m = 2 ^ 32 - 1 then v else maskedData scratchRow old v m

/-- An accepted write finds it written under any mask. -/
theorem writeMasked_scratch {s s1 : State} {a : Access} {v p o : Nat} {w : Who} {g : Reg} (m : Nat) (env : Env) (path : Path)
    (ha : accepted s a (regAddr pgSYS SYS_SCRATCH.off) v = some (s1, w, p, o, g)) :
    writeMasked s1 w (regAddr pgSYS SYS_SCRATCH.off) v m (hWrite env path) = .ok ((storeReg s1 w pgSYS SYS_SCRATCH.off scratchRow
      (maskedWord (rget s1.regs w.bank pgSYS SYS_SCRATCH.off) v m)).bumpGen pgSYS) := by
  have hgrant := accepted_grant ha
  unfold accepted at ha
  rw [hgrant] at ha
  dsimp only at ha
  have hto : writeTarget s1.regs w (regAddr pgSYS SYS_SCRATCH.off) v m = writeTarget s1.regs w (regAddr pgSYS SYS_SCRATCH.off) v (2 ^ 32 - 1) := by
    rw [writeTarget_scratch, writeTarget_scratch]
  have hrule : directRule s1 pgSYS SYS_SCRATCH.off scratchRow m = directRule s1 pgSYS SYS_SCRATCH.off scratchRow (2 ^ 32 - 1) := by
    rw [directRule_scratch, directRule_scratch]
  unfold writeMasked
  rw [hto]
  rw [writeTarget_scratch] at ha ⊢
  by_cases hno : (!mayWriteR s1.regs w pgSYS && !(pgSYS / 16 == 1) && !feedWindow s1.regs w pgSYS SYS_SCRATCH.off) = true
  · rw [if_pos hno] at ha
    cases ha
  · rw [if_neg hno] at ha ⊢
    dsimp only at ha ⊢
    split at ha
    next hc =>
      simp only [Bool.and_eq_true, Option.isNone_iff_eq_none] at hc
      obtain ⟨⟨hdirect, -⟩, -⟩ := hc
      rw [hrule, hdirect]
      dsimp only
      rw [if_neg (by decide), fieldFail_scratch]
      cases ha
      rfl
    · cases ha

/-- What the masked word holds: the bits of the mask are written, the others stand. -/
theorem maskedWord_bits {old : Nat} (v m : Word) (ho : old < 2 ^ 32) :
    BitVec.ofNat 32 (maskedWord old v.toNat m.toNat % 2 ^ 32) = (BitVec.ofNat 32 old &&& ~~~m) ||| (v &&& m) := by
  have ho' : (BitVec.ofNat 32 old).toNat = old := Nat.mod_eq_of_lt ho
  generalize hO : BitVec.ofNat 32 old = O at ho' ⊢
  have hadd : (O &&& m) + (O &&& ~~~m) = O := by
    rw [BitVec.add_eq_or_of_and_eq_zero]
    · ext i hi
      simp only [BitVec.getElem_or, BitVec.getElem_and, BitVec.getElem_not]
      cases O[i] <;> cases m[i] <;> rfl
    · ext i hi
      simp only [BitVec.getElem_and, BitVec.getElem_not, BitVec.getElem_zero]
      cases O[i] <;> cases m[i] <;> rfl
  have hrest : old - Nat.land old m.toNat = (O &&& ~~~m).toNat := by
    have hle : O &&& m ≤ O := by
      rw [BitVec.le_def, BitVec.toNat_and]
      exact Nat.and_le_left
    have hsub : O &&& ~~~m = O - (O &&& m) := by
      rw [eq_comm, BitVec.sub_eq_iff_eq_add, BitVec.add_comm]
      exact hadd.symm
    rw [hsub, BitVec.toNat_sub_of_le hle, BitVec.toNat_and, ho']
    rfl
  unfold maskedWord
  split
  next hm =>
    obtain rfl : m = BitVec.allOnes 32 := BitVec.eq_of_toNat_eq (by rw [hm, BitVec.toNat_allOnes])
    rw [Nat.mod_eq_of_lt v.isLt, BitVec.and_allOnes, show ~~~BitVec.allOnes 32 = 0#32 from rfl, BitVec.and_zero, BitVec.zero_or,
      BitVec.ofNat_toNat, BitVec.setWidth_eq]
  · have hkeep : maskedData scratchRow old v.toNat m.toNat = ((v &&& m) ||| (O &&& ~~~m)).toNat := by
      have hfull : Nat.land (O &&& ~~~m).toNat (2 ^ 32 - 1) = (O &&& ~~~m).toNat :=
        (Nat.and_two_pow_sub_one_eq_mod _ 32).trans (Nat.mod_eq_of_lt (O &&& ~~~m).isLt)
      show Nat.lor (Nat.land v.toNat m.toNat) (Nat.land (old - Nat.land old m.toNat) (2 ^ 32 - 1)) = _
      rw [hrest, hfull, BitVec.toNat_or, BitVec.toNat_and]
      rfl
    rw [hkeep, Nat.mod_eq_of_lt (BitVec.isLt _), BitVec.ofNat_toNat, BitVec.setWidth_eq, BitVec.or_comm]

end Sys2Proof.Machine

/-! PROOFS. SPIA as slave: one operation of a frame (R285 to R288). -/

namespace Sys2Proof.Machine

namespace State

variable {s t u : State}

/-! ### The end of a frame -/

/-- Registers of listed places are on listed pages. -/
theorem regsBut.pages {l : List (Nat × Nat)} {m : List Nat} (h : regsBut l s t) (hm : ∀ x ∈ l, x.1 ∈ m := by decide) : pagesBut m s t :=
  fun b p o hp ho hl => h b p o hp ho fun hx => hl (hm _ hx)

/-- The places of SPIA's result and counts. -/
def spiaShown : List (Nat × Nat) := [(pgSPIA, SPIA_LAST.off), (pgSPIA, SPIA_CNT.off)]

/-- A frame has ended with a code: SPIA_LAST shows it, and no more than the result, the counts and the port's own state has changed. -/
structure FrameEnded (c : Rc) (s t : State) : Prop where
  last : t.fg SPIA_LAST_CODE = c.code
  regs : regsBut spiaShown s t
  all : t = { s with regs := t.regs, ser := t.ser }

theorem FrameEnded.inc {c : Rc} (h : FrameEnded c s t) (f : FRef) (hf : f.page + 0 < 256 ∧ f.off < 4096 ∧ (f.page + 0, f.off) ∈ spiaShown)
    (ha : regKey 0 (f.page + 0) f.off ≠ regKey 0 SPIA_LAST_CODE.page SPIA_LAST_CODE.off) : FrameEnded c s (t.inc f 0 1) := by
  refine ⟨?_, h.regs.inc f 0 1 hf.1 hf.2.1 hf.2.2, by rw [h.all]; rfl⟩
  exact (SameReg.fg (f := SPIA_LAST_CODE) ((SameReg.refl _ _ t).inc f 0 1 ha)).trans h.last

theorem FrameEnded.modSer {c : Rc} (h : FrameEnded c s t) (f : SerSt → SerSt) : FrameEnded c s (t.modSer f) :=
  ⟨h.last, h.regs.modSer f, by rw [h.all]; rfl⟩

theorem frameEnded_spiaDone (s : State) {c : Rc} (bad : Option Nat) (hc : c.code < 2 ^ 16) : FrameEnded c s (s.spiaDone c bad) := by
  have hlast : ((s.fs SPIA_LAST_CODE c.code).fs SPIA_LAST_DETAIL c.detail).fg SPIA_LAST_CODE = c.code := by
    rw [fg_fs_apart _ _ (by decide), fg_fs _ ⟨by decide, by decide⟩]
    exact Nat.mod_eq_of_lt hc
  have h0 : FrameEnded c s ((s.fs SPIA_LAST_CODE c.code).fs SPIA_LAST_DETAIL c.detail) :=
    ⟨hlast, ((regsBut.refl spiaShown s).fs _ _ (by decide) (by decide) (by decide)).fs _ _ (by decide) (by decide) (by decide), rfl⟩
  have h1 := ((h0.inc SPIA_CNT_FRAMES (by decide) (by decide)).modSer fun x => { x with frames := x.frames + 1 }).modSer fun x =>
    { x with badWord := bad.getD 0xFFFF }
  unfold spiaDone
  dsimp only
  split
  · exact h1.inc SPIA_CNT_UNDERRUN (by decide) (by decide)
  · split
    · exact h1.inc SPIA_CNT_SHORT (by decide) (by decide)
    · exact h1

theorem FrameEnded.outs {c : Rc} (h : FrameEnded c s t) : t.outs = s.outs := by rw [h.all]
theorem FrameEnded.tens {c : Rc} (h : FrameEnded c s t) : t.tens = s.tens := by rw [h.all]
theorem FrameEnded.upd {c : Rc} (h : FrameEnded c s t) : t.upd = s.upd := by rw [h.all]

/-- A word of another page reads the same. -/
theorem FrameEnded.rget {c : Rc} (h : FrameEnded c s t) (b : Nat) {p o : Nat} (hp : p < 256 ∧ o < 4096 ∧ p ≠ pgSPIA) :
    Machine.rget t.regs b p o = Machine.rget s.regs b p o :=
  h.regs.pages (m := [pgSPIA]) (by decide) b p o hp.1 hp.2.1 (by simpa using hp.2.2)

/-! ### Which frames are this device's -/

theorem spiaMaster_slave (h : s.fg SPIA_CFG_ROLE = 0) : s.spiaMaster = false := by
  unfold spiaMaster
  rw [h]
  rfl

theorem spiaWire_slave (h : s.fg SPIA_CFG_ROLE = 0) : s.spiaWire = ⟨0, 0, 0, s.fg SPIA_CFG_MODE, false, 0, 0, 0⟩ := by
  unfold spiaWire
  rw [spiaMaster_slave h]
  rfl

theorem spiaOff_enabled (h : s.fg SYS_SPIA_EN = 1) : s.spiaOff = false := by
  unfold spiaOff
  rw [h]
  rfl

/-- Without a chain every frame to a slave outside SLEEP is its own. -/
theorem spiaFrame_own (dev : Option Nat) (op : MOp) (short lost : Option Nat) (env : Env) (hr : s.fg SPIA_CFG_ROLE = 0) (hm : s.mode ≠ .sleep)
    (hc : s.fg SPIA_CFG_CHAIN = 0) : s.spiaFrame dev op short lost env = s.spiaOp none op short lost env := by
  unfold spiaFrame
  rw [if_neg (by simp [spiaMaster_slave hr, hm]), if_pos hc]

/-- An operation other than READ and STATUS on an open port: what it did, its end and its answer. -/
theorem spiaOp_plain {op : MOp} (lost : Option Nat) (env : Env) (ho : s.spiaOff = false) (hs : op ≠ .status)
    (hr : ∀ inc n addr, op ≠ .read inc n addr) :
    s.spiaOp none op none lost env =
      (((opDo s s.spiaBy env 12 op).st.spiaDone (opDo s s.spiaBy env 12 op).rc (opDo s s.spiaBy env 12 op).bad).emit
        (.res (opDo s s.spiaBy env 12 op).rc ((opDo s s.spiaBy env 12 op).words.map (BitVec.ofNat 32)))) := by
  unfold spiaOp
  rw [if_neg (by simp [ho])]
  cases op with
  | status => exact absurd rfl hs
  | read inc n addr => exact absurd rfl (hr inc n addr)
  | _ => simp

end State

/-- A frame of such an operation that ends with code 0 on a state of no output. -/
theorem runs_frame {i : Instr} {s x : State} {op : MOp} {lost : Option Nat} {env : Env} {dev : Option Nat} {P : State → Prop}
    (e : exec i s = .next (s.begin_.spiaFrame dev op none lost env))
    (hr : s.fg SPIA_CFG_ROLE = 0) (hc : s.fg SPIA_CFG_CHAIN = 0) (hm : s.mode ≠ .sleep) (hen : s.fg SYS_SPIA_EN = 1)
    (hs : op ≠ .status) (hop : ∀ inc n addr, op ≠ .read inc n addr)
    (hd : opDo s.begin_ s.spiaBy env 12 op = ⟨x, ⟨0, 0⟩, [], none⟩)
    (hP : ∀ t : State, State.FrameEnded ⟨0, 0⟩ x t → P (t.emit (.res ⟨0, 0⟩ []))) : Runs i s P := by
  have hframe := State.spiaFrame_own (s := s.begin_) dev op none lost env hr hm hc
  rw [State.spiaOp_plain lost env (State.spiaOff_enabled (s := s.begin_) hen) hs hop] at hframe
  rw [show s.begin_.spiaBy = s.spiaBy from rfl, hd] at hframe
  exact ⟨_, e.trans (congrArg Host.Outcome.next hframe), hP _ (x.frameEnded_spiaDone none (by decide))⟩

/-! ### The accesses of an operation -/

theorem opAddr_scratch (inc : Bool) : opAddr (SYS_SCRATCH.off + if inc = true then 4 * 0 else 0) = regAddr pgSYS SYS_SCRATCH.off := by
  cases inc <;> rfl

theorem opAccess_granted {s s1 : State} {a : Access} {addr : Nat} {w : Who} (f : State → Who → State × Rc × Nat)
    (h : grantAccess s a addr = .ok (s1, w)) : opAccess s a addr f = f s1 w := by
  unfold opAccess
  rw [h]

/-- SYS_SCRATCH written under a mask. -/
def State.scratchWritten (s : State) (w : Who) (v m : Nat) : State :=
  (storeReg s w pgSYS SYS_SCRATCH.off scratchRow (maskedWord (rget s.regs w.bank pgSYS SYS_SCRATCH.off) v m)).bumpGen pgSYS

theorem accessWrite_scratch {s s1 : State} {a : Access} {v p o : Nat} {w : Who} {g : Reg} (m : Nat) (env : Env) (path : Path)
    (ha : accepted s a (regAddr pgSYS SYS_SCRATCH.off) v = some (s1, w, p, o, g)) :
    accessWrite s1 w (regAddr pgSYS SYS_SCRATCH.off) v m (hWrite env path) = (s1.scratchWritten w v m, ⟨0, 0⟩) := by
  unfold accessWrite
  rw [writeMasked_scratch m env path ha]
  rfl

theorem State.pagesBut_scratchWritten (s : State) (w : Who) (v m : Nat) : State.pagesBut [pgSYS] s (s.scratchWritten w v m) :=
  ((State.pagesBut.refl [pgSYS] s).put (b' := bankOfReg s.regs w pgSYS SYS_SCRATCH.off) _ (p' := pgSYS) (o' := SYS_SCRATCH.off)
    (by decide) (by decide) (by decide)).bumpGen _ (by decide) (by decide)

theorem State.scratchWritten_word (s : State) (w : Who) (v m : Nat) :
    rget (s.scratchWritten w v m).regs w.bank pgSYS SYS_SCRATCH.off = maskedWord (rget s.regs w.bank pgSYS SYS_SCRATCH.off) v m % 2 ^ 32 := by
  refine Eq.trans ?_ (storeReg_scratch s w _)
  exact (State.regsBut.refl [(pgSYS, (hGEN pgSYS).off)] _).bumpGen pgSYS (by decide) (by decide) w.bank pgSYS SYS_SCRATCH.off (by decide)
    (by decide) (by decide)

theorem opWrite_scratch {s s1 : State} {a : Access} {v : Word} {p o : Nat} {w : Who} {g : Reg} (inc : Bool) (env : Env)
    (ha : accepted s a (regAddr pgSYS SYS_SCRATCH.off) v.toNat = some (s1, w, p, o, g)) :
    opDo s a env 12 (.write inc 1 SYS_SCRATCH.off [v]) = ⟨s1.scratchWritten w v.toNat (2 ^ 32 - 1), ⟨0, 0⟩, [], none⟩ := by
  show opWrite a env inc SYS_SCRATCH.off s 0 [v] = _
  unfold opWrite
  rw [opAddr_scratch]
  dsimp only
  rw [opAccess_granted _ (accepted_grant ha), accessWrite_scratch _ env a.path ha]
  rfl

theorem opWritem_scratch {s s1 : State} {a : Access} {v : Word} {p o : Nat} {w : Who} {g : Reg} (m : Word) (env : Env)
    (ha : accepted s a (regAddr pgSYS SYS_SCRATCH.off) v.toNat = some (s1, w, p, o, g)) :
    opDo s a env 12 (.writem 1 SYS_SCRATCH.off m v) = ⟨s1.scratchWritten w v.toNat m.toNat, ⟨0, 0⟩, [], none⟩ := by
  show opRun s a env (.writem 1 SYS_SCRATCH.off m v) = _
  unfold opRun
  dsimp only
  rw [show opAddr SYS_SCRATCH.off = regAddr pgSYS SYS_SCRATCH.off from rfl, opAccess_granted _ (accepted_grant ha),
    accessWrite_scratch _ env a.path ha]
  rfl

theorem opNop {s s1 : State} {a : Access} {w : Who} (env : Env) (ha : grantAccess s a (regAddr pgSYS 0) = .ok (s1, w)) :
    opDo s a env 12 (.nop 0 0) = ⟨s1, ⟨0, 0⟩, [], none⟩ := by
  show opRun s a env (.nop 0 0) = _
  unfold opRun
  dsimp only
  rw [show opAddr 0 = regAddr pgSYS 0 from rfl, opAccess_granted _ ha]

/-- What a read of SYS_SCRATCH answers: the reader's copy. -/
theorem State.accessRead_scratch {s : State} {w : Who} (path : Path) (hr : mayReadR s.regs w pgSYS = true) :
    s.accessRead path w (regAddr pgSYS SYS_SCRATCH.off) = (s, ⟨0, 0⟩, rget s.regs w.bank pgSYS SYS_SCRATCH.off) := by
  have hal : ¬ regAddr pgSYS SYS_SCRATCH.off % 4 ≠ 0 := by
    simp only [regAddr, pgSYS, SYS_SCRATCH]
    omega
  have hnow : s.readNow w pgSYS SYS_SCRATCH.off scratchRow = rget s.regs w.bank pgSYS SYS_SCRATCH.off := by
    have h0 (v : Nat) : v - Nat.land v 0 = v := by rw [show Nat.land v 0 = 0 from Nat.and_zero v, Nat.sub_zero]
    refine Eq.trans ?_ (Nat.mod_eq_of_lt (rget_lt s.regs w.bank pgSYS SYS_SCRATCH.off))
    exact congrArg (· % 2 ^ 32) (h0 _)
  unfold State.accessRead
  rw [addrReg_regAddr (by decide) (by decide)]
  dsimp only
  rw [if_neg hal, anyRegAt_scratch]
  dsimp only
  rw [hr, State.readReg_single s path w scratchRow rfl, hnow]
  rfl

theorem opRead_scratch {s s1 : State} {a : Access} {w : Who} (inc : Bool) (env : Env)
    (ha : grantAccess s a (regAddr pgSYS SYS_SCRATCH.off) = .ok (s1, w)) (hr : mayReadR s1.regs w pgSYS = true) :
    opDo s a env 12 (.read inc 1 SYS_SCRATCH.off) = ⟨s1, ⟨0, 0⟩, [rget s1.regs w.bank pgSYS SYS_SCRATCH.off], none⟩ := by
  show opRead a inc SYS_SCRATCH.off ⟨s, ⟨0, 0⟩, [], none⟩ 0 = _
  unfold opRead
  rw [opAddr_scratch]
  dsimp only
  rw [opAccess_granted _ ha, State.accessRead_scratch a.path hr]
  rfl

/-- The answer to a READ of words with WAIT 0: the token and the words, and then the code. -/
theorem State.spiaOp_read {s x : State} {inc : Bool} {n addr : Nat} {ws : List Nat} (env : Env) (ho : s.spiaOff = false) (hw : s.fg SPIA_CFG_WAIT = 0)
    (hx : x.fg SPIA_CFG_WAIT = 0) (hd : opDo s s.spiaBy env 12 (.read inc n addr) = ⟨x, ⟨0, 0⟩, ws, none⟩) (hws : ws ≠ []) :
    s.spiaOp none (.read inc n addr) none none env = ((x.spiaDone ⟨0, 0⟩ none).emit (.serial (x.spiaDone ⟨0, 0⟩ none).spiaWire
      (0xA5 :: ws.flatMap wordOut))).emit (.res ⟨0, 0⟩ (ws.map (BitVec.ofNat 32))) := by
  have hwait : (x.spiaDone ⟨0, 0⟩ none).fg SPIA_CFG_WAIT = 0 :=
    ((x.frameEnded_spiaDone none (c := ⟨0, 0⟩) (by decide)).regs.fg SPIA_CFG_WAIT (by decide) (by decide) (by decide)).trans hx
  unfold spiaOp
  rw [if_neg (by simp [ho])]
  simp only [hd, hw, ne_eq, not_true_eq_false, and_false, if_false, hws, not_false_eq_true, and_self, if_true, spiaSend, hwait, spiaDrive,
    List.singleton_append, Option.map_none]

theorem opPiece {s s1 : State} {a : Access} {w : Who} {x : Piece} (env : Env) (hl : x.len ≤ 4096) (hp : a.path = .spia)
    (ha : grantAccess s a (regAddr pgUPD 0) = .ok (s1, w)) (hf : s1.pieceFail w true (some (32 + x.len)) x = none)
    (hg : s1.pieceGot x.index = false) (hq : (s1.upd.queue.any fun q => q.index == x.index) = false) :
    opDo s a env 12 (.piece (32 + x.len) 0 x) =
      ⟨(s1.inc UPD_CNT_ACCEPTED 0 1).modUpd fun u => { u with queue := u.queue ++ [x], prog := true }, ⟨0, 0⟩, [], none⟩ := by
  have hlimit : MOp.limit 12 (.piece (32 + x.len) 0 x) = none := by
    unfold MOp.limit
    simp only
    rw [if_neg (by omega), if_neg (by omega), if_neg (by omega)]
  have htake : s1.pieceTake w true (some (32 + x.len)) x =
      ((s1.inc UPD_CNT_ACCEPTED 0 1).modUpd fun u => { u with queue := u.queue ++ [x], prog := true }, ⟨0, 0⟩) := by
    unfold State.pieceTake
    rw [hf]
    dsimp only
    rw [if_neg]
    rw [show (s1.inc UPD_CNT_ACCEPTED 0 1).pieceGot x.index = s1.pieceGot x.index from rfl, hg,
      show (s1.inc UPD_CNT_ACCEPTED 0 1).upd = s1.upd from rfl, hq]
    decide
  unfold opDo
  rw [hlimit]
  dsimp only
  unfold opRun
  dsimp only
  rw [show opAddr (pgUPD * 2 ^ 12) = regAddr pgUPD 0 from rfl, opAccess_granted _ ha, hp]
  dsimp only
  rw [show (Path.spia == Path.spia || mayWriteR s1.regs w pgUPD) = true from rfl, htake]
  dsimp only
  rw [if_neg (by decide)]

end Sys2Proof.Machine

/-! PROOFS. O26: the frames of SPIA. -/

namespace Sys2Proof.Machine

namespace State

variable {s t : State}

theorem pagesBut_frame {c : Rc} (l : List Nat) (h : FrameEnded c s t) (hl : pgSPIA ∈ l := by decide) : pagesBut l s t :=
  h.regs.pages (by simpa [spiaShown] using hl)

/-- The same of what the frame answers. -/
theorem pagesBut_answered {c : Rc} {o : Out} (l : List Nat) (h : FrameEnded c s t) (hl : pgSPIA ∈ l := by decide) : pagesBut l s (t.emit o) :=
  (pagesBut_frame l h hl).of_eq rfl

/-- The mode of the lines of a slave is that of SPIA_CFG. -/
theorem spiaWire_eq (hs : s.fg SPIA_CFG_ROLE = 0) (hr : t.fg SPIA_CFG_ROLE = s.fg SPIA_CFG_ROLE) (hm : t.fg SPIA_CFG_MODE = s.fg SPIA_CFG_MODE) :
    t.spiaWire = s.spiaWire := by
  rw [spiaWire_slave hs, spiaWire_slave (hr.trans hs), hm]

end State

theorem scratchWritten_full (s : State) (w : Who) (v : Word) :
    rget (s.scratchWritten w v.toNat (2 ^ 32 - 1)).regs w.bank pgSYS SYS_SCRATCH.off = v.toNat := by
  rw [State.scratchWritten_word, maskedWord, if_pos rfl]
  exact Nat.mod_eq_of_lt v.isLt

theorem scratchWritten_outs (s : State) (w : Who) (v m : Nat) : (s.scratchWritten w v m).outs = s.outs := rfl

/-- An admission puts nothing out. -/
theorem grant_outs {s s1 : State} {a : Access} {addr : Nat} {w : Who} (h : grantAccess s.begin_ a addr = .ok (s1, w)) : s1.outs = [] := by
  rw [(admit_admitted h).all]
  rfl

/-- A frame of such an operation that ends with code 0 puts that alone out. -/
theorem frameEnded_outs {x t : State} (h : State.FrameEnded ⟨0, 0⟩ x t) (hx : x.outs = []) : (t.emit (.res ⟨0, 0⟩ [])).outs = doneOuts := by
  show t.outs ++ [_] = _
  rw [h.outs, hx]
  rfl

section
variable {s s1 : State} {w : Who} {p o : Nat} {g : Reg}

theorem spia_read {inc : Bool} (hr : s.fg SPIA_CFG_ROLE = 0) (hc : s.fg SPIA_CFG_CHAIN = 0) (hm : s.mode ≠ .sleep) (hen : s.fg SYS_SPIA_EN = 1)
    (hw : s.fg SPIA_CFG_WAIT = 0) (ha : grantAccess s.begin_ s.spiaBy (regAddr pgSYS SYS_SCRATCH.off) = .ok (s1, w))
    (hmay : mayReadR s1.regs w pgSYS = true) :
    Runs (.read inc 1 SYS_SCRATCH.off none) s fun t => t.fg SPIA_LAST_CODE = 0 ∧
      t.outs = [.serial s.spiaWire (0xA5 :: wordOut (rget s1.regs w.bank pgSYS SYS_SCRATCH.off)),
        .res ⟨0, 0⟩ [BitVec.ofNat 32 (rget s1.regs w.bank pgSYS SYS_SCRATCH.off)]] ∧
      State.pagesBut [pgSPIA] s1 t := by
  have hs1 := State.pagesBut_grant ha
  have hend := s1.frameEnded_spiaDone none (c := ⟨0, 0⟩) (by decide)
  have hfg (f : FRef) (hf : f.page < 256 ∧ f.off < 4096 ∧ f.page ∉ State.tenPages) (hf' : (f.page, f.off) ∉ State.spiaShown) :
      (s1.spiaDone ⟨0, 0⟩ none).fg f = s.fg f :=
    (hend.regs.fg f hf.1 hf.2.1 hf').trans (hs1.fg f hf.1 hf.2.1 hf.2.2)
  refine ⟨_, congrArg Host.Outcome.next ((State.spiaFrame_own (s := s.begin_) _ _ none none Env.none_ hr hm hc).trans
    (State.spiaOp_read (s := s.begin_) Env.none_ (State.spiaOff_enabled hen) hw ((hs1.fg SPIA_CFG_WAIT (by decide) (by decide) (by decide)).trans hw)
      (opRead_scratch inc _ ha hmay) (List.cons_ne_nil _ _))), ?_⟩
  have hwire := State.spiaWire_eq (t := s1.spiaDone ⟨0, 0⟩ none) hr (hfg SPIA_CFG_ROLE (by decide) (by decide))
    (hfg SPIA_CFG_MODE (by decide) (by decide))
  refine ⟨hend.last, ?_, (State.pagesBut_frame _ hend).of_eq rfl⟩
  show ((s1.spiaDone ⟨0, 0⟩ none).outs ++ [_]) ++ [_] = _
  rw [hend.outs, grant_outs ha, hwire, List.flatMap_singleton]
  rfl

/-- A frame that writes SYS_SCRATCH. -/
theorem spia_scratch {i : Instr} {op : MOp} {lost : Option Nat} {env : Env} {dev : Option Nat} {v : Word} {m : Nat}
    (e : exec i s = .next (s.begin_.spiaFrame dev op none lost env)) (hs : op ≠ .status) (hop : ∀ inc n addr, op ≠ .read inc n addr)
    (hr : s.fg SPIA_CFG_ROLE = 0) (hc : s.fg SPIA_CFG_CHAIN = 0) (hm : s.mode ≠ .sleep) (hen : s.fg SYS_SPIA_EN = 1)
    (ha : accepted s.begin_ s.spiaBy (regAddr pgSYS SYS_SCRATCH.off) v.toNat = some (s1, w, p, o, g))
    (hd : opDo s.begin_ s.spiaBy env 12 op = ⟨s1.scratchWritten w v.toNat m, ⟨0, 0⟩, [], none⟩) :
    Runs i s fun t => rget t.regs w.bank pgSYS SYS_SCRATCH.off = rget (s1.scratchWritten w v.toNat m).regs w.bank pgSYS SYS_SCRATCH.off ∧
      t.fg SPIA_LAST_CODE = 0 ∧ t.outs = doneOuts ∧ State.pagesBut [pgSYS, pgSPIA] s1 t :=
  runs_frame e hr hc hm hen hs hop hd fun _ ht => ⟨ht.rget _ (by decide), ht.last,
    frameEnded_outs ht ((scratchWritten_outs _ _ _ _).trans (grant_outs (accepted_grant ha))),
    ((s1.pagesBut_scratchWritten w v.toNat m).mono (by decide)).trans (State.pagesBut_answered _ ht)⟩

theorem spia_status (hr : s.fg SPIA_CFG_ROLE = 0) (hc : s.fg SPIA_CFG_CHAIN = 0) (hm : s.mode ≠ .sleep) (hen : s.fg SYS_SPIA_EN = 1) :
    Runs .status s fun t => State.regsBut [(pgSPIA, SPIA_CNT_FRAMES.off)] s t ∧ t.ser = { s.ser with frames := s.ser.frames + 1 } ∧
      t.tens = s.tens ∧ t.outs = [.serial s.spiaWire (s.statusWords.flatMap wordOut), .res ⟨0, 0⟩ (s.statusWords.map (BitVec.ofNat 32))] := by
  have hregs : State.regsBut [(pgSPIA, SPIA_CNT_FRAMES.off)] s s.begin_.spiaCount :=
    (State.regsBut.refl _ s).inc SPIA_CNT_FRAMES 0 1 (by decide) (by decide) (by decide)
  have hwire : s.begin_.spiaCount.spiaWire = s.spiaWire :=
    State.spiaWire_eq hr (hregs.fg _ (by decide) (by decide) (by decide)) (hregs.fg _ (by decide) (by decide) (by decide))
  have hop : s.begin_.spiaOp none .status none none Env.none_ =
      (s.begin_.spiaCount.spiaDrive none (s.statusWords.flatMap wordOut)).emit (.res ⟨0, 0⟩ (s.statusWords.map (BitVec.ofNat 32))) := by
    unfold State.spiaOp
    rw [if_neg (by simp [State.spiaOff_enabled (s := s.begin_) hen])]
    rfl
  refine ⟨_, congrArg Host.Outcome.next ((State.spiaFrame_own (s := s.begin_) _ _ none none Env.none_ hr hm hc).trans hop), hregs, rfl, rfl, ?_⟩
  show ([] ++ [Out.serial s.begin_.spiaCount.spiaWire _]) ++ [_] = _
  rw [hwire]
  rfl

theorem spia_piece {x : Piece} (hr : s.fg SPIA_CFG_ROLE = 0) (hc : s.fg SPIA_CFG_CHAIN = 0) (hm : s.mode ≠ .sleep) (hen : s.fg SYS_SPIA_EN = 1)
    (hl : x.len ≤ 4096) (ha : grantAccess s.begin_ s.spiaBy (regAddr pgUPD 0) = .ok (s1, w))
    (hf : s1.pieceFail w true (some (32 + x.len)) x = none) (hg : s1.pieceGot x.index = false)
    (hq : (s1.upd.queue.any fun q => q.index == x.index) = false) :
    Runs (.piece x) s fun t => t.upd = { s1.upd with queue := s1.upd.queue ++ [x], prog := true } ∧ t.fg SPIA_LAST_CODE = 0 ∧
      t.outs = doneOuts ∧ State.pagesBut [pgUPD, pgSPIA] s1 t :=
  runs_frame rfl hr hc hm hen nofun nofun (opPiece Env.none_ hl rfl ha hf hg hq) fun _ ht => ⟨ht.upd, ht.last,
    frameEnded_outs ht (show s1.outs = [] from grant_outs ha),
    State.pagesBut.trans (t := (s1.inc UPD_CNT_ACCEPTED 0 1).modUpd _)
      (((State.pagesBut.refl [pgUPD, pgSPIA] s1).inc UPD_CNT_ACCEPTED 0 1 (by decide) (by decide) (by decide)).of_eq rfl)
      (State.pagesBut_answered _ ht)⟩

/-- A frame that is refused before its operation: the code is answered, and shown but for a STATUS. -/
def spiaRefused (s : State) (op : MOp) (c : Rc) : State := (if op = .status then s.spiaCount else s.spiaDone c none).emit (.res c [])

theorem spiaRefused_spec (s : State) (op : MOp) {c : Rc} (hcode : c.code < 2 ^ 16) :
    (spiaRefused s.begin_ op c).outs = [.res c []] ∧ (op ≠ .status → (spiaRefused s.begin_ op c).fg SPIA_LAST_CODE = c.code) ∧
      State.pagesBut [pgSPIA] s (spiaRefused s.begin_ op c) ∧ (spiaRefused s.begin_ op c).tens = s.tens := by
  have hend := s.begin_.frameEnded_spiaDone none hcode
  by_cases h : op = .status
  · rw [spiaRefused, if_pos h]
    exact ⟨rfl, fun h' => absurd h h', (State.pagesBut.refl [pgSPIA] s).inc SPIA_CNT_FRAMES 0 1 (by decide) (by decide) (by decide), rfl⟩
  · rw [spiaRefused, if_neg h]
    refine ⟨?_, fun _ => hend.last, State.pagesBut_answered (s := s.begin_) _ hend, hend.tens⟩
    show (s.begin_.spiaDone c none).outs ++ [_] = _
    rw [hend.outs]
    rfl

theorem spiaOp_off (op : MOp) (short lost : Option Nat) (env : Env) (h : s.spiaOff = true) :
    s.spiaOp none op short lost env = spiaRefused s op ⟨0x5C01, s.fg SYS_SPIA_TEN⟩ := by
  unfold State.spiaOp
  rw [if_pos h]
  rfl

theorem spiaOp_short (n : Nat) (op : MOp) (lost : Option Nat) (env : Env) (h : s.spiaOff = false) :
    s.spiaOp none op (some n) lost env = spiaRefused s op ⟨0x1C10, n⟩ := by
  unfold State.spiaOp
  rw [if_neg (by simp [h])]
  rfl

theorem runs_refused {op : MOp} {short lost : Option Nat} {env : Env} {dev : Option Nat} {c : Rc} (hr : s.fg SPIA_CFG_ROLE = 0)
    (hm : s.mode ≠ .sleep) (hc : s.fg SPIA_CFG_CHAIN = 0) (hop : s.begin_.spiaOp none op short lost env = spiaRefused s.begin_ op c)
    (hcode : c.code < 2 ^ 16) :
    Runs (.spiaFrame dev op short lost env) s fun t => t.outs = [.res c []] ∧ (op ≠ .status → t.fg SPIA_LAST_CODE = c.code) ∧
      State.pagesBut [pgSPIA] s t ∧ t.tens = s.tens :=
  ⟨_, congrArg Host.Outcome.next ((State.spiaFrame_own (s := s.begin_) dev op short lost env hr hm hc).trans hop), spiaRefused_spec s op hcode⟩

theorem spia_chain {d : Nat} {op : MOp} {short lost : Option Nat} {env : Env} (hc : s.fg SPIA_CFG_CHAIN = 1) (hma : s.spiaMaster = false)
    (hm : s.mode ≠ .sleep) (hd : d ≠ 0xFF) (hp : d ≠ s.fg SPIA_CFG_POS) :
    Runs (.spiaFrame (some d) op short lost env) s fun t => t = s.begin_.emit (.chain s.spiaWire d op none) := by
  refine ⟨_, rfl, ?_⟩
  show s.begin_.spiaFrame _ _ _ _ _ = _
  unfold State.spiaFrame
  rw [if_neg (by simpa using ⟨hma, hm⟩), if_neg (by rw [show s.begin_.fg SPIA_CFG_CHAIN = 1 from hc]; decide)]
  dsimp only
  rw [if_neg hd, if_neg (show d ≠ s.begin_.fg SPIA_CFG_POS from hp)]
  rfl

theorem spiaMaster_role (hr : s.fg SPIA_CFG_ROLE = 1) (hl : s.loader = false) : s.spiaMaster = true := by
  unfold State.spiaMaster
  simp [hr, hl]

theorem spia_idlePoll {env : Env} (hr : s.fg SPIA_CFG_ROLE = 1) (hl : s.loader = false) (hm : s.mode ≠ .sleep) :
    Runs (.spiaPoll (.nop 0 0) env) s fun t => t.now = max s.now (s.ser.pollAt + s.fg SPIA_MCFG_POLL * Config.us) ∧
      t.regs = s.regs ∧ t.ser = { s.ser with toSend := [], pollAt := t.now } ∧
      t.outs = [.serial s.spiaWire ((s.statusWords ++ s.ser.toSend.map BitVec.toNat).flatMap wordOut)] := by
  refine ⟨_, rfl, ?_⟩
  rw [show s.begin_.spiaPoll (.nop 0 0) env = _ from if_neg (by simpa using ⟨spiaMaster_role (s := s.begin_) hr hl, hm⟩)]
  show _ ∧ _
  rw [show s.begin_.ser.pollAt + s.begin_.fg SPIA_MCFG_POLL * Config.us = s.ser.pollAt + s.fg SPIA_MCFG_POLL * Config.us from rfl]
  generalize s.ser.pollAt + s.fg SPIA_MCFG_POLL * Config.us = due
  exact ⟨rfl, rfl, rfl, rfl⟩

end

/-- Settles O26: every frame of a slave goes through `spiaFrame_own` and, where its operation runs, through `runs_frame`. -/
theorem spiaFrames : Obligations.SpiaFrames := by
  unfold Obligations.SpiaFrames
  refine ⟨fun s s1 w inc hr hc hm hen hw ha hmay => spia_read hr hc hm hen hw ha hmay, ?_, ?_, ?_,
    fun s hr hc hm hen => spia_status hr hc hm hen, fun s s1 w x hr hc hm hen hl ha hf hg hq => spia_piece hr hc hm hen hl ha hf hg hq,
    fun s op short lost env dev hr hm hc ho => runs_refused hr hm hc (spiaOp_off op short lost env (s := s.begin_) ho) (show 0x5C01 < 2 ^ 16 by decide), ?_, ?_,
    fun s d op short lost env hc hma hm hd hp => spia_chain hc hma hm hd hp, fun s env hr hl hm => spia_idlePoll hr hl hm⟩
  · intro s s1 w inc v env p o g hr hc hm hen ha
    refine (spia_scratch (op := .write inc 1 SYS_SCRATCH.off [v]) (m := 2 ^ 32 - 1) rfl nofun nofun hr hc hm hen ha (opWrite_scratch inc env ha)).mono ?_
    rintro t ⟨hword, hrest⟩
    exact ⟨hword.trans (scratchWritten_full s1 w v), hrest⟩
  · intro s s1 w m v env p o g hr hc hm hen ha
    refine (spia_scratch (op := .writem 1 SYS_SCRATCH.off m v) (m := m.toNat) rfl nofun nofun hr hc hm hen ha (opWritem_scratch m env ha)).mono ?_
    rintro t ⟨hword, hrest⟩
    rw [hword, State.scratchWritten_word]
    exact ⟨maskedWord_bits v m (rget_lt _ _ _ _), hrest⟩
  · intro s s1 w hr hc hm hen ha
    exact runs_frame (op := .nop 0 0) rfl hr hc hm hen nofun nofun (opNop Env.none_ ha) fun _ ht =>
      ⟨ht.last, frameEnded_outs ht (grant_outs ha), State.pagesBut_answered _ ht, ht.tens⟩
  · intro s n op lost env dev hr hm hc hen
    refine (runs_refused (c := ⟨0x1C10, n⟩) hr hm hc (spiaOp_short n op lost env (State.spiaOff_enabled (s := s.begin_) hen)) (show 0x1C10 < 2 ^ 16 by decide)).mono ?_
    rintro t ⟨houts, -, hpages, -⟩
    exact ⟨houts, hpages⟩
  · intro s s1 w v lost env dev p o g hr hm hc hen ha
    refine (spia_scratch (op := .write true 1 SYS_SCRATCH.off [v]) (m := 2 ^ 32 - 1) rfl nofun nofun hr hc hm hen ha
      (opWrite_scratch true env ha)).mono ?_
    rintro t ⟨hword, -, houts, hpages⟩
    exact ⟨hword.trans (scratchWritten_full s1 w v), houts, hpages⟩

end Sys2Proof.Machine

/-! PROOFS. The commands of UPD_CMD that nothing refuses (R341 to R352): the state, the pending commands and the queue that each leaves. -/

namespace Sys2Proof.Machine

namespace State

variable {s t u : State}

/-! ### What leaves UPD_STAT alone -/

/-- UPD_STAT reads the same. -/
def SameStat (s t : State) : Prop := SameReg pgUPD UPD_STAT_STATE.off s t

theorem SameStat.refl (s : State) : SameStat s s := SameReg.refl _ _ s
theorem SameStat.trans (h : SameStat s t) (k : SameStat t u) : SameStat s u := SameReg.trans h k
theorem SameStat.of_regs (h : SameStat s t) (e : u.regs = t.regs) : SameStat s u := SameReg.of_regs h e
theorem SameStat.state (h : SameStat s t) : t.updState = s.updState := SameReg.fg (f := UPD_STAT_STATE) h
theorem SameStat.pend (h : SameStat s t) : t.fg UPD_STAT_PEND = s.fg UPD_STAT_PEND := SameReg.fg (f := UPD_STAT_PEND) h

/-- The records of SLOT stand above UPD, whatever their number. -/
theorem sameStat_slot (s : State) (f : FRef) (k v : Nat) (hf : f.page = pgSLOT := by rfl) : SameStat s (s.fsk f 0 k v) :=
  (SameReg.refl _ _ s).fsk f 0 k v (by simp only [hf, regKey, UPD_STAT_STATE, pgUPD, pgSLOT]; omega)

theorem sameStat_targetState (s : State) (v : Nat) : SameStat s (s.targetState v) := by
  unfold targetState
  split
  · exact sameStat_slot _ _ _ _
  · split
    · exact sameStat_slot _ _ _ _
    · exact .refl s

theorem sameStat_showRcvd (s : State) : SameStat s s.showRcvd := ((SameReg.refl _ _ s).fs UPD_RCVD_TOTAL _).fs UPD_RCVD_DONE _

theorem sameStat_journal (s : State) : SameStat s s.journal :=
  (SameStat.refl s).of_regs (kept_journal (K := (· ≠ .regs)) (.refl s) nofun).part

theorem sameStat_updEv (s : State) {c : Nat} (d : Nat) (hc : c / 2 ^ 12 ≠ 7 := by decide) : SameStat s (s.updEv c d) :=
  (SameStat.refl s).of_regs (s.ev_regs pgUPD d kInfo 0 hc)

theorem updState_setUpd (s : State) {v : Nat} (hv : v < 8) : (s.setUpd v).updState = v :=
  (fg_fs (f := UPD_STAT_STATE) s ⟨by decide, by decide⟩ v).trans (Nat.mod_eq_of_lt hv)

/-! ### What a journal record leaves -/

/-- No more than the record and what waits for one has changed. -/
theorem journal_all (s : State) :
    s.journal = { s with upd := { s.upd with jrec := s.journal.upd.jrec, unj := s.journal.upd.unj, unjAt := s.journal.upd.unjAt } } := by
  unfold journal
  split
  · rfl
  · split
    · rfl
    · split <;> rfl

theorem journal_queue (s : State) : s.journal.upd.queue = s.upd.queue := by rw [journal_all]
theorem journal_got (s : State) : s.journal.upd.got = s.upd.got := by rw [journal_all]
theorem journal_upid (s : State) : s.journal.upd.upid = s.upd.upid := by rw [journal_all]
theorem journal_outs (s : State) : s.journal.outs = s.outs := by rw [journal_all]

theorem targetState_regs (s : State) (v : Nat) : s.targetState v = { s with regs := (s.targetState v).regs } := by
  unfold targetState
  split
  · rfl
  · split <;> rfl

theorem targetState_upd (s : State) (v : Nat) : (s.targetState v).upd = s.upd := by rw [targetState_regs]
theorem targetState_outs (s : State) (v : Nat) : (s.targetState v).outs = s.outs := by rw [targetState_regs]

/-! ### The end of a command -/

/-- The answer of a command whose result is 0. -/
def updAnswered (s : State) : State := ((s.updRes ⟨0, 0⟩).bumpGen pgUPD).emit (.res ⟨0, 0⟩ [])

theorem updAnswered_upd (s : State) : s.updAnswered.upd = s.upd := by simp [updAnswered, updRes]

theorem updAnswered_outs (h : s.outs = []) : s.updAnswered.outs = doneOuts := by
  simp [updAnswered, updRes, h, doneOuts]

theorem sameStat_answered (s : State) : SameStat s s.updAnswered := by
  have h := (((SameReg.refl pgUPD UPD_STAT_STATE.off s).fs UPD_RES_CODE 0).fs UPD_RES_DETAIL 0)
  unfold updAnswered updRes
  generalize (s.fs UPD_RES_CODE 0).fs UPD_RES_DETAIL 0 = t at h ⊢
  exact SameReg.of_regs (h.fs (hGEN pgUPD) _) rfl

theorem updCmdRes_done (s : State) (w : Who) : s.updCmdRes w ⟨0, 0⟩ = s.updRes ⟨0, 0⟩ := by
  cases w <;> rfl

/-! ### The operations -/

/-- An operation of UPD_CMD that the ROM loader or a running slot takes. -/
def updOp (s : State) (op data : Nat) (b : BundleRead) : State × Rc := match op with
  | 1 => match s.beginFail with
    | some c => (s, c)
    | none => (s.updBegin, ⟨0, 0⟩)
  | 2 => s.updStop true
  | 3 => if s.updState = 2 ∧ (s.upd.kind = 0 ∨ s.upd.kind = 3) then (s.setUpd 3, ⟨0, 0⟩) else (s, ⟨0x2E11, s.updState⟩)
  | 4 => s.updStop false
  | 5 => s.updActivate data
  | 6 => s.updApply data b
  | _ => if s.upd.pend.isEmpty then (s, ⟨0x2E11, s.updState⟩) else ((s.modUpd fun u => { u with pend := [] }).showPend, ⟨0, 0⟩)

theorem updCmd_op (data : Nat) (b : BundleRead) (h : s.loader = false ∨ bitsOf data 3 0 = 1 ∨ bitsOf data 3 0 = 3 ∨ bitsOf data 3 0 = 5) :
    s.updCmd data b = s.updOp (bitsOf data 3 0) data b := by
  unfold updCmd
  dsimp only
  rw [if_neg]
  · rfl
  · simp only [Bool.not_eq_true', decide_eq_false_iff_not]
    rintro ⟨hl, hn⟩
    rcases h with h | h
    · rw [h] at hl
      cases hl
    · exact hn h

theorem updOp_begin (data : Nat) (b : BundleRead) (h : s.beginFail = none) : s.updOp 1 data b = (s.updBegin, ⟨0, 0⟩) := by
  unfold updOp
  rw [h]
  rfl

/-- The update once BEGIN has set it up. -/
theorem updBegin_state (s : State) : s.updBegin.updState = 1 := by
  unfold updBegin
  dsimp only
  rw [(sameStat_journal _).state, (sameStat_targetState _ _).state, (sameStat_showRcvd _).state]
  exact (fg_fs_apart _ _ (by decide)).trans ((fg_fs_apart _ _ (by decide)).trans (updState_setUpd _ (by decide)))

theorem updBegin_upid (s : State) : s.updBegin.upd.upid = s.fg UPD_ID_UPID := by
  unfold updBegin
  dsimp only
  simp only [journal_upid, targetState_upd, showRcvd, setUpd, fs_upd, modUpd_upd]

theorem updBegin_outs (s : State) : s.updBegin.outs = s.outs := by
  unfold updBegin
  dsimp only
  simp only [journal_outs, targetState_outs, showRcvd, setUpd, fs_outs, modUpd_outs]

/-- ABORT of an update that is received, complete, arming or armed. -/
theorem updStop_abort (s : State) (h1 : 1 ≤ s.updState) (h4 : s.updState ≤ 4) :
    ∃ u : State, s.updStop true = (u, ⟨0, 0⟩) ∧ u.updState = 0 ∧ u.upd.queue = [] := by
  have hguard : (s.updState == 0 || decide (5 ≤ s.updState)) = false := by
    simp only [Bool.or_eq_false_iff, beq_eq_false_iff_ne, decide_eq_false_iff_not]
    omega
  unfold updStop
  simp only [if_true, hguard, Bool.false_eq_true, if_false]
  refine ⟨_, rfl, ?_, journal_queue _⟩
  rw [(sameStat_journal _).state]
  exact (sameStat_targetState _ _).state.trans (updState_setUpd _ (by decide))

/-- DISARM of an update that is arming or armed. -/
theorem updStop_disarm (s : State) (h3 : 3 ≤ s.updState) (h4 : s.updState ≤ 4) :
    ∃ u : State, s.updStop false = (u, ⟨0, 0⟩) ∧ u.updState = 2 := by
  have hguard : (s.updState != 3 && s.updState != 4) = false := by
    rw [Bool.and_eq_false_iff, bne_eq_false_iff_eq, bne_eq_false_iff_eq]
    omega
  unfold updStop
  simp only [hguard, Bool.false_eq_true, if_false]
  exact ⟨_, rfl, (sameStat_targetState _ _).state.trans (updState_setUpd _ (by decide))⟩

/-- A command begins to wait for its trigger. -/
def waits (s : State) (a : Act) : State := (s.modUpd fun u => { u with pend := u.pend ++ [a] }).showPend

theorem waits_pend (s : State) (a : Act) : (s.waits a).fg UPD_STAT_PEND = 1 ∧ (s.waits a).upd.pend.length = s.upd.pend.length + 1 := by
  have hshown : (s.waits a).fg UPD_STAT_PEND = b2n (!(s.upd.pend ++ [a]).isEmpty) % 2 :=
    fg_fs (f := UPD_STAT_PEND) (s.modUpd fun u => { u with pend := u.pend ++ [a] }) ⟨by decide, by decide⟩ _
  refine ⟨?_, List.length_append⟩
  rw [hshown, show (s.upd.pend ++ [a]).isEmpty = false by simp]
  rfl

/-- ACTIVATE of an ARMED update that nothing else waits for. -/
theorem updActivate_waits (s : State) (data : Nat) (hs : s.updState = 4) (hl : s.loader = false) (hp : s.pendAct = none)
    (hh : bitsOf data 5 4 = 1 → s.handoverFail (s.updTrig data) = none) (ht : s.trigRefused (s.updTrig data) = none) :
    s.updActivate data = (s.waits ⟨false, bitsOf data 5 4 == 1, s.updTrig data, s.upd.kind, s.upd.target⟩, ⟨0, 0⟩) := by
  have hnone : ((if (bitsOf data 5 4 == 1) = true then s.handoverFail (s.updTrig data) else none).orElse fun _ => s.trigRefused (s.updTrig data)) =
      none := by
    by_cases h : bitsOf data 5 4 = 1
    · rw [if_pos (by simpa using h), hh h, ht]
      rfl
    · rw [if_neg (by simpa using h), ht]
      rfl
  unfold updActivate
  dsimp only
  rw [if_neg (by simp [hs]), hl, hp, if_neg (by decide), if_neg (by decide), hnone]
  rfl

end State

/-! ### The words of UPD_CMD -/

theorem activateWord (trig : Fin 4) : (bitsOf (trig.val * 256 + 5) 3 0 = 5 ∧ bitsOf (trig.val * 256 + 5) 5 4 = 0 ∧
    (bitsOf (trig.val * 256 + 5) 9 8 = 1 ↔ trig = 1)) ∧ bitsOf (trig.val * 256 + 0x15) 3 0 = 5 ∧
    (bitsOf (trig.val * 256 + 0x15) 9 8 = 1 ↔ trig = 1) ∧ bitsOf (trig.val * 256 + 6) 3 0 = 6 ∧
    (bitsOf (trig.val * 256 + 6) 9 8 = 1 ↔ trig = 1) := by
  revert trig
  decide

theorem updTrig_eq {s : State} {data : Nat} {trig : Fin 4} (h : bitsOf data 9 8 = 1 ↔ trig = 1) :
    s.updTrig data = if trig = 1 then some (s.fg UPD_TDCN_DCN) else none := by
  unfold State.updTrig
  exact if_congr h rfl rfl

section
variable {s s1 u : State} {a : Access} {p o : Nat} {w : Who} {g : Reg}

/-- A write of UPD_CMD that nothing refuses. -/
theorem Runs.updWrite {i : Instr} {data : Nat} {b : BundleRead} {P : State → Prop} (e : exec i s = .next (updWrite s a data b))
    (ha : accepted s.begin_ a (regAddr pgUPD UPD_CMD.off) data = some (s1, w, p, o, g)) (hu : s1.updCmd data b = (u, ⟨0, 0⟩))
    (hP : P u.updAnswered) : Runs i s P := by
  obtain ⟨rfl, rfl⟩ := accepted_reg (by decide) (by decide) ha
  refine Runs.direct e ha ?_ hP
  show Except.ok ((s1.updCmd data b).1.updCmdRes w (s1.updCmd data b).2) = _
  rw [hu, State.updCmdRes_done]

theorem updBegin_runs (ha : accepted s.begin_ a (regAddr pgUPD UPD_CMD.off) 1 = some (s1, w, p, o, g)) (hf : s1.beginFail = none) :
    Runs (.begin a) s fun t => t.updState = 1 ∧ t.upd.upid = s1.fg UPD_ID_UPID ∧ t.outs = doneOuts := by
  exact Runs.updWrite (u := s1.updBegin) rfl ha ((State.updCmd_op _ _ (.inr (.inl rfl))).trans (State.updOp_begin _ _ hf)) ⟨(State.sameStat_answered _).state.trans s1.updBegin_state, s1.updBegin_upid,
    State.updAnswered_outs (s1.updBegin_outs.trans (accepted_outs ha))⟩
theorem updAbort_runs (ha : accepted s.begin_ a (regAddr pgUPD UPD_CMD.off) 2 = some (s1, w, p, o, g)) (hl : s1.loader = false)
    (h1 : 1 ≤ s1.updState) (h4 : s1.updState ≤ 4) : Runs (.updAbort a) s fun t => t.updState = 0 ∧ t.upd.queue = [] := by
  obtain ⟨u, hu, hstate, hqueue⟩ := s1.updStop_abort h1 h4
  exact Runs.updWrite rfl ha ((State.updCmd_op _ _ (.inl hl)).trans hu) ⟨(State.sameStat_answered _).state.trans hstate, hqueue⟩

theorem updArm_runs (ha : accepted s.begin_ a (regAddr pgUPD UPD_CMD.off) 3 = some (s1, w, p, o, g)) (h2 : s1.updState = 2)
    (hk : s1.upd.kind = 0 ∨ s1.upd.kind = 3) : Runs (.arm a) s fun t => t.updState = 3 ∧ t.outs = doneOuts := by
  have hu : s1.updCmd 3 BundleRead.none_ = (s1.setUpd 3, ⟨0, 0⟩) :=
    (State.updCmd_op _ _ (.inr (.inr (.inl rfl)))).trans (if_pos ⟨h2, hk⟩)
  exact Runs.updWrite rfl ha hu ⟨(State.sameStat_answered _).state.trans (State.updState_setUpd _ (by decide)),
    State.updAnswered_outs (s := s1.setUpd 3) (show s1.outs = [] from accepted_outs ha)⟩

theorem updDisarm_runs (ha : accepted s.begin_ a (regAddr pgUPD UPD_CMD.off) 4 = some (s1, w, p, o, g)) (hl : s1.loader = false)
    (h3 : 3 ≤ s1.updState) (h4 : s1.updState ≤ 4) : Runs (.disarm a) s fun t => t.updState = 2 := by
  obtain ⟨u, hu, hstate⟩ := s1.updStop_disarm h3 h4
  exact Runs.updWrite rfl ha ((State.updCmd_op _ _ (.inl hl)).trans hu) ((State.sameStat_answered _).state.trans hstate)

/-- ACTIVATE by either method waits for its trigger. -/
theorem updActivate_runs {i : Instr} {data : Nat} (e : exec i s = .next (updWrite s a data BundleRead.none_))
    (ha : accepted s.begin_ a (regAddr pgUPD UPD_CMD.off) data = some (s1, w, p, o, g)) (hop : bitsOf data 3 0 = 5) (hl : s1.loader = false)
    (h4 : s1.updState = 4) (hp : s1.pendAct = none) (hh : bitsOf data 5 4 = 1 → s1.handoverFail (s1.updTrig data) = none)
    (ht : s1.trigRefused (s1.updTrig data) = none) :
    Runs i s fun t => t.fg UPD_STAT_PEND = 1 ∧ t.upd.pend.length = s1.upd.pend.length + 1 := by
  have hact := s1.updActivate_waits data h4 hl hp hh ht
  obtain ⟨hpend, hlen⟩ := s1.waits_pend ⟨false, bitsOf data 5 4 == 1, s1.updTrig data, s1.upd.kind, s1.upd.target⟩
  refine Runs.updWrite e ha ?_ ⟨(State.sameStat_answered _).pend.trans hpend, hlen⟩
  rw [State.updCmd_op _ _ (.inl hl), hop]
  exact hact

theorem updApply_runs {trig : Fin 4} {b : BundleRead} (ha : accepted s.begin_ a (regAddr pgUPD UPD_CMD.off) (trig.val * 256 + 6) = some (s1, w, p, o, g))
    (hl : s1.loader = false) (h2 : s1.updState = 2) (hk : s1.upd.kind = 1 ∨ s1.upd.kind = 2) (hp : (s1.upd.pend.any fun x => x.cfg) = false)
    (hf : s1.bundleFail b = none) (hc : s1.clipsOver b = none)
    (ht : s1.trigRefused (if trig = 1 then some (s1.fg UPD_TDCN_DCN) else none) = none) :
    Runs (.applycfg a trig b) s fun t => t.upd.bundle = some b ∧ t.upd.pend.length = s1.upd.pend.length + 1 := by
  obtain ⟨-, -, -, hop, htrig⟩ := activateWord trig
  rw [← updTrig_eq htrig] at ht
  generalize htr : s1.updTrig (trig.val * 256 + 6) = tr at ht
  have hu : s1.updApply (trig.val * 256 + 6) b =
      ((s1.modUpd fun u => { u with bundle := some b, pend := u.pend ++ [⟨true, false, tr, u.kind, u.target⟩] }).showPend, ⟨0, 0⟩) := by
    unfold State.updApply
    dsimp only
    rw [if_neg (by omega), if_neg (by simpa using hp), hf]
    dsimp only
    rw [hc, htr, Option.map_none, Option.orElse_none, ht]
  refine Runs.updWrite (u := (s1.modUpd fun u => { u with bundle := some b, pend := u.pend ++ [⟨true, false, tr, u.kind, u.target⟩] }).showPend)
    rfl ha ?_ ?_
  · rw [State.updCmd_op _ _ (.inl hl), hop]
    exact hu
  · rw [State.updAnswered_upd]
    exact ⟨rfl, List.length_append⟩

theorem updCancel_runs (ha : accepted s.begin_ a (regAddr pgUPD UPD_CMD.off) 7 = some (s1, w, p, o, g)) (hl : s1.loader = false)
    (hp : s1.upd.pend ≠ []) : Runs (.updCancel a) s fun t => t.upd.pend = [] := by
  have hu : s1.updCmd 7 BundleRead.none_ = ((s1.modUpd fun u => { u with pend := [] }).showPend, ⟨0, 0⟩) :=
    (State.updCmd_op _ _ (.inl hl)).trans (if_neg (by simpa using hp))
  exact Runs.updWrite rfl ha hu rfl

end

end Sys2Proof.Machine

/-! PROOFS. O60: the commands of UPD_CMD and the instants of an update, of a companion, of a bundle and of a boot each complete. -/

namespace Sys2Proof.Machine

namespace State

variable {s t u : State}

theorem updEv_upd (s : State) (c d : Nat) : (s.updEv c d).upd = s.upd := (kept_updEv (K := (· ≠ .upd)) (.refl s) nofun nofun).part

/-! ### Pieces (R338, R339) -/

/-- The piece at the front of the queue is programmed. -/
def pieceStored (s : State) (p : Piece) (rest : List Piece) : State := (s.modUpd fun u => { u with
  queue := rest, prog := !rest.isEmpty && s.nvOk, got := cput u.got p.index true false, unj := u.unj + 1,
  unjAt := u.unjAt.orElse fun _ => some s.now }).showRcvd

/-- What follows a piece in the same command: the update is complete, or a journal record is due. -/
def pieceAfter (s : State) : State :=
  if piecesOf s.upd.len ≤ s.upd.got.length then ((s.setUpd 2).targetState 2).journal.updEv 0x0E10 (s.upd.upid % 2 ^ 16)
  else if s.upd.kind ≤ 1 ∧ s.fg UPD_CFG_JPIECES ≤ s.upd.unj then s.journal
  else s

theorem pieceDone_eq {p : Piece} {rest : List Piece} (hq : s.upd.queue = p :: rest) (h : 2 ≤ s.upd.kind ∨ s.upd.prog = true ∨ s.nvOk = true) :
    s.pieceDone = (s.pieceStored p rest).pieceAfter := by
  have hgo : ¬(2 > s.upd.kind ∧ (!decide ((s.upd.prog || s.nvOk) = true)) = true) := by
    rintro ⟨hk, hn⟩
    simp only [Bool.not_eq_true', decide_eq_false_iff_not, Bool.or_eq_true] at hn
    exact hn (h.resolve_left (by omega))
  unfold pieceDone
  rw [hq]
  dsimp only
  rw [if_neg hgo]
  rfl

/-- It leaves the queue and the pieces. -/
theorem pieceAfter_keeps (s : State) : s.pieceAfter.upd.queue = s.upd.queue ∧ s.pieceAfter.upd.got = s.upd.got := by
  unfold pieceAfter
  split
  · rw [updEv_upd, journal_queue, journal_got, targetState_upd]
    exact ⟨rfl, rfl⟩
  · split
    · exact ⟨journal_queue s, journal_got s⟩
    · exact ⟨rfl, rfl⟩

theorem journal_records (h : s.nvOk = true) (hs : s.updState ≠ 0) (hk : s.upd.kind ≤ 1) : s.journal.upd.jrec.isSome = true := by
  unfold journal
  rw [if_neg (by simp [h]), if_neg hs, if_pos hk]
  rfl

theorem journal_now (s : State) : s.journal.now = s.now := by rw [journal_all]

/-! ### Companions (R346) -/

theorem compGo_isSome (s : State) : s.compGo.upd.comp.isSome = s.upd.comp.isSome := by
  unfold compGo
  split
  next x hx =>
    split
    · split
      · rw [hx]
        rfl
      · rfl
    · rfl
  · rfl

/-- Companions that are served are at hand. -/
theorem compStart_isSome (s : State) (purpose c : Nat) (cs : List Nat) (failed : Nat) :
    (s.compStart purpose (c :: cs) failed).upd.comp.isSome = true := by
  unfold compStart compSend
  dsimp only
  rw [compGo_isSome]
  rfl

theorem compFail_le {n : Nat} (x : CompSt) (c : Nat) (h : n ≤ s.now) : n ≤ (s.compFail x c).now :=
  Nat.le_trans h (kept_compFail (K := fun _ => True) (.refl s) trivial trivial trivial trivial trivial trivial).now

theorem compStep_le {n : Nat} (x : CompSt) (c : Nat) (h : n ≤ s.now) : n ≤ (s.compStep x c).now :=
  Nat.le_trans h (kept_compStep (K := fun _ => True) (.refl s) trivial trivial trivial trivial trivial trivial).now

theorem ite_le {n : Nat} {c : Prop} [Decidable c] (h : n ≤ s.now) (k : n ≤ t.now) : n ≤ (if c then s else t).now := by
  split <;> assumption

theorem compEmit_now (s : State) (c cmd off : Nat) : (s.compEmit c cmd off).now = s.now := by
  unfold compEmit
  split <;> rfl

/-- A poll comes 10 ms after the last. -/
theorem compPoll_now {x : CompSt} {c : Nat} {cs : List Nat} (reply : Option (Nat × Nat)) (hc : s.upd.comp = some x) (ht : x.todo = c :: cs)
    (hh : x.held = false) (hf : s.compFree c = true) : max s.now (x.pollAt + 10 * Config.ms) ≤ (s.compPoll reply).now := by
  unfold compPoll
  rw [hc]
  dsimp only
  rw [ht]
  dsimp only
  rw [if_neg (by simp [hh, hf])]
  generalize x.pollAt + 10 * Config.ms = due
  have hpoll : max s.now due ≤ ((s.advance due).compEmit c 6 0).now := Nat.le_of_eq (compEmit_now (s.advance due) c 6 0).symm
  generalize (s.advance due).compEmit c 6 0 = v at hpoll ⊢
  cases reply with
  | none => exact ite_le (compFail_le _ _ hpoll) hpoll
  | some r =>
    exact ite_le (compFail_le _ _ hpoll) (ite_le (compStep_le _ _ hpoll) (ite_le (compFail_le _ _ hpoll) hpoll))

/-! ### Arming (R341) -/

theorem armed_state (s : State) : s.armed.updState = 4 :=
  (sameStat_updEv _ _).state.trans ((sameStat_targetState _ _).state.trans (updState_setUpd _ (by decide)))

/-- Arming ends, or goes on with the companions. -/
theorem armEnd_ends (r : ImgRead) (h : s.updState = 3) (hc : s.upd.comp = none) :
    (s.armEnd r).updState ≠ 3 ∨ (s.armEnd r).upd.comp.isSome = true := by
  unfold armEnd
  rw [if_neg (by simp [h, hc])]
  split
  next c _ =>
    have hres (v : State) : SameStat v (v.updRes c) := ((SameReg.refl _ _ v).fs UPD_RES_CODE _).fs UPD_RES_DETAIL _
    refine .inl ?_
    rw [(hres _).state, (sameStat_targetState _ _).state, updState_setUpd _ (by decide)]
    decide
  · dsimp only
    cases companions r.man with
    | nil =>
      refine .inl ?_
      rw [if_pos (by rfl), armed_state]
      decide
    | cons c cs => exact .inr (compStart_isSome _ _ _ _ _)

/-! ### Activation (R342, R343) -/

theorem setUpd_upd (s : State) (v : Nat) : (s.setUpd v).upd = s.upd := rfl

theorem nvOk_showPend (s : State) : s.showPend.nvOk = s.nvOk := by
  unfold nvOk dieNow showPend
  rw [fg_fs_apart _ _ (by decide), fg_fs_apart _ _ (by decide)]
  rfl

theorem bootRecord_pend (s : State) (f : BootRec → BootRec) : (s.bootRecord f).upd.pend = s.upd.pend := by
  have hshow (v : State) : v.showBoot.upd = v.upd := (kept_showBoot (K := (· ≠ .upd)) (.refl v) nofun).part
  unfold bootRecord
  dsimp only
  rw [hshow, modUpd_upd]

theorem pauseBegin_pend (s : State) : s.pauseBegin.upd.pend = s.upd.pend := by
  unfold pauseBegin
  rw [setUpd_upd, (arrayStop_stopped _).upd, modUpd_upd, s.mgmtStop_keeps.2.1]

theorem activate_pend (s : State) (handover : Bool) : (s.activate handover).upd.pend = s.upd.pend := by
  have hhalf (v : State) : (v.halfOut false 3).upd = v.upd := (kept_halfOut (K := (· ≠ .upd)) (.refl v) nofun nofun).part
  unfold activate
  split
  · rw [updEv_upd]
  · dsimp only
    unfold actRecord
    split
    · rw [setUpd_upd, hhalf, modUpd_upd, bootRecord_pend, modUpd_upd]
    · rw [pauseBegin_pend, bootRecord_pend, modUpd_upd]

theorem activate_state (handover : Bool) (h : s.nvOk = true) : (s.activate handover).updState = 5 := by
  unfold activate
  rw [if_neg (by simp [h])]
  dsimp only
  split
  · exact updState_setUpd _ (by decide)
  · exact updState_setUpd _ (by decide)

/-- A due activation begins. -/
theorem activateDue_begins {a : Act} {d : Nat} (ha : s.pendAct = some a) (hd : actDue a d = true) (h4 : s.updState = 4) (hn : s.nvOk = true) :
    (s.activateDue d).updState = 5 ∧ (s.activateDue d).pendAct = none := by
  have hnv : ((s.modUpd fun u => { u with pend := u.pend.filter (·.cfg) }).showPend).nvOk = true :=
    (nvOk_showPend _).trans hn
  unfold activateDue
  rw [ha]
  dsimp only
  rw [if_pos (by simp [hd, h4])]
  refine ⟨activate_state _ hnv, ?_⟩
  unfold pendAct
  rw [activate_pend]
  exact List.find?_eq_none.mpr fun x hx => by simpa using (List.mem_filter.mp hx).2

theorem actPaused_idle (h : s.updState = 0) : s.actPaused = false := by
  unfold actPaused
  rw [show s.fg UPD_STAT_STATE = 0 from h]
  rfl

theorem actDone_state (s : State) (commit : Bool) : (s.actDone commit).updState = 0 :=
  ((SameStat.refl s.actShown).of_regs (s.actDone_regs commit)).state.trans (updState_setUpd _ (by decide))

/-- An activation by pause ends, on the new images or back on the previous ones. -/
theorem activateEnd_ends (bad : Option Nat) (h : s.actPaused = true) : (s.activateEnd bad).actPaused = false := by
  refine actPaused_idle ?_
  unfold activateEnd
  rw [h, if_neg (by decide)]
  dsimp only
  split
  · rw [(sameStat_updEv _ _).state, actDone_state]
  · split
    · exact actDone_state _ _
    · rw [(sameStat_updEv _ _).state]
      exact updState_setUpd _ (by decide)

/-- Each stage of a handover is followed by the next (R344). -/
theorem stageStep_next (h1 : 1 ≤ s.upd.stage) (h5 : s.upd.stage ≤ 5) : s.stageStep.upd.stage = s.upd.stage + 1 := by
  have hshow (v : State) (n : Nat) : (v.showStop n).upd = v.upd := (kept_showStop (K := (· ≠ .upd)) (.refl v) nofun).part
  generalize hs : s.upd.stage = n at h1 h5 ⊢
  unfold stageStep
  rw [hs]
  interval_cases n
  · rfl
  · rfl
  · rfl
  · rfl
  · change (((s.restoreAccess.setStage 6).showStop s.upd.actAt).modFab _).upd.stage = 6
    rw [modFab_upd, hshow]
    rfl

/-! ### Bundles (R336, R350) -/

theorem loadBegin_upd (s : State) (b : BundleRead) (announce : Bool) :
    (s.loadBegin b announce).upd = { s.upd with loading := some b, announce := announce } := by
  have hwriting (v : State) (k : Nat) : (v.setWriting k).upd = v.upd :=
    (kept_setWriting (K := (· ≠ .upd)) (.refl v) nofun nofun nofun nofun).part
  have hfold : (b.sections.foldl (fun s x => match x with
      | .tset k _ _ => s.setWriting k
      | _ => s) s).upd = s.upd := by
    refine List.foldlRecOn b.sections _ (motive := fun v : State => v.upd = s.upd) rfl fun v hv x _ => ?_
    cases x with
    | tset k lamps ents => exact (hwriting v k).trans hv
    | _ => exact hv
  unfold loadBegin
  dsimp only
  rw [modSec_upd, modUpd_upd]
  exact congrArg (fun u : UpdSt => { u with loading := some b, announce := announce }) hfold

/-- A bundle that its trigger applies begins to load. -/
theorem applyBundle_loads {b : BundleRead} (a : Act) (hb : s.upd.bundle = some b) (h : a.kind = 2 ∨ s.nvOk = true) :
    (s.applyBundle a).upd.loading = some b ∧ (s.applyBundle a).upd.pend = s.upd.pend := by
  have hgo : ¬(a.kind = 1 ∧ (!decide (s.nvOk = true)) = true) := by
    rintro ⟨hk, hn⟩
    rcases h with h | h
    · omega
    · simp [h] at hn
  unfold applyBundle
  rw [hb]
  dsimp only
  rw [if_neg hgo]
  rw [loadBegin_upd]
  refine ⟨rfl, ?_⟩
  dsimp only
  repeat' split
  all_goals rfl

/-- The pending APPLYCFG that is due is performed. -/
theorem applyDue_loads {a : Act} {b : BundleRead} {d : Nat} (hp : s.upd.pend = [a]) (hc : a.cfg = true) (h : a.kind = 2 ∨ s.nvOk = true)
    (hd : actDue a d = true) (hb : s.upd.bundle = some b) : (s.applyDue d).upd.pend = [] ∧ (s.applyDue d).upd.loading = some b := by
  have hfind : s.upd.pend.find? (·.cfg) = some a := by rw [hp, List.find?_cons_of_pos hc]
  have hfilter : (s.upd.pend.filter fun a => !a.cfg) = [] := by rw [hp, List.filter_cons_of_neg (by simp [hc]), List.filter_nil]
  unfold applyDue
  rw [hfind]
  dsimp only
  rw [if_pos hd]
  obtain ⟨hloading, hpend⟩ :=
    applyBundle_loads (s := (s.modUpd fun u => { u with pend := u.pend.filter fun a => !a.cfg }).showPend) a hb
      (h.imp_right (nvOk_showPend _).trans)
  exact ⟨hpend.trans hfilter, hloading⟩

theorem loadEnd_none {b : BundleRead} (h : s.upd.loading = some b) : s.loadEnd.upd.loading = none := by
  unfold loadEnd
  rw [h]
  dsimp only
  repeat' split
  all_goals rfl

theorem bundleReload_loads {b : BundleRead} (hk : s.fg SLOT_BOOT_BUNDLE ≠ 0) (ht : s.pow.trimDone = true) (hl : s.upd.loading = none)
    (ha : nth s.upd.areas (s.fg SLOT_BOOT_BUNDLE - 1) none = none) (hf : s.bundleFail b = none) :
    (s.bundleReload b).upd.loading = some b := by
  unfold bundleReload
  dsimp only
  rw [if_neg (by simp [hk, ht, hl, ha]), hf]
  dsimp only
  rw [loadBegin_upd]

/-! ### Boot (R348) -/

theorem bootOk_booted (s : State) (k : Nat) (m : Manifest) : (s.bootOk k m).pow.booted = true := by
  have hre (v : State) : v.retarget.pow = v.pow := (kept_retarget (K := (· ≠ .pow)) (.refl v) nofun nofun).part
  unfold bootOk
  dsimp only
  rw [hre]
  rfl

theorem bootBad_pow (s : State) (k : Nat) (c : Rc) : (s.bootBad k c).pow = s.pow :=
  (kept_bootBad (K := (· ≠ .pow)) (.refl s) nofun nofun).part

/-- A cold reset keeps the count of failed boots. -/
theorem coldReset_bootFails (s : State) (c : Nat) : (s.coldReset c).pow.bootFails = s.pow.bootFails := by
  have hloads (v : State) : v.loads.pow = v.pow := (kept_loads (K := (· ≠ .pow)) (.refl v) nofun nofun nofun nofun nofun).part
  unfold coldReset halvesUp
  dsimp only
  rw [fs_pow, fs_pow, inc_pow, fs_pow, hloads, modPow_pow]

/-- Both slots failed: the count rises. -/
theorem bootFailed_counts (s : State) : s.bootFailed.pow.bootFails = s.pow.bootFails + 1 := by
  have hrec (v : State) : v.enterRecovery.pow = v.pow := (kept_enterRecovery (K := (· ≠ .pow)) (.refl v) nofun nofun nofun nofun nofun
    nofun nofun nofun nofun nofun nofun nofun nofun nofun nofun nofun).part
  have hev (v : State) (c d : Nat) : (v.updEv c d).pow = v.pow := (kept_updEv (K := (· ≠ .pow)) (.refl v) nofun nofun).part
  unfold bootFailed
  dsimp only
  split
  · rw [fs_pow, coldReset_bootFails, fs_pow, modPow_pow]
  · rw [hev, hrec, fs_pow, modPow_pow]

theorem ite_booted {c : Prop} [Decidable c] (h : s.pow.booted = true) (k : t.pow.booted = true) :
    (if c then s else t).pow.booted = true := by
  split <;> assumption

theorem compStart_booted (f : UpdSt → UpdSt) (p : Nat) (l : List Nat) (n : Nat) (h : s.pow.booted = true) :
    ((s.modUpd f).compStart p l n).pow.booted = true := by
  rw [show ((s.modUpd f).compStart p l n).pow = (s.modUpd f).pow from (kept_compStart (K := (· ≠ .pow)) (.refl _) nofun).part, modUpd_pow, h]

/-- A boot from flash succeeds, or its failure is counted. -/
theorem romBoot_ends (a b : ImgRead) (ht : s.pow.trimDone = false) (hm : s.mode = .trim) (hb : s.pow.booted = false) (hl : s.loader = false)
    (hs : s.strap 1 0 = 0) : (s.romBoot a b).pow.booted = true ∨ (s.romBoot a b).pow.bootFails = s.pow.bootFails + 1 := by
  unfold romBoot
  rw [if_neg (by simp [ht, hm, hb, hl]), if_neg (by omega), if_neg (by omega)]
  dsimp only
  split
  · exact .inl (ite_booted (compStart_booted _ _ _ _ (ite_booted (bootOk_booted _ _ _) (bootOk_booted _ _ _)))
      (ite_booted (bootOk_booted _ _ _) (bootOk_booted _ _ _)))
  · split
    · split
      · exact .inl (bootOk_booted _ _ _)
      · exact .inr (by rw [bootFailed_counts, bootBad_pow, bootBad_pow])
    · exact .inr (by rw [bootFailed_counts, bootBad_pow])

end State

/-- The journal's timer writes a record. -/
theorem pieceJournalTimer_runs {s : State} {t0 : Nat} (hu : s.upd.unjAt = some t0) (hk : s.upd.kind ≤ 1) (hn : s.nvOk = true) (h0 : s.updState ≠ 0) :
    Runs .pieceJournalTimer s fun t => t.now = max s.now (t0 + 10 * Config.sec) ∧ t.upd.jrec.isSome = true := by
  have hrun : s.begin_.pieceTimer = (s.begin_.advance (t0 + 10 * Config.sec)).journal := by
    unfold State.pieceTimer
    rw [show s.begin_.upd.unjAt = some t0 from hu]
    exact if_pos hk
  generalize t0 + 10 * Config.sec = due at hrun ⊢
  exact ⟨_, congrArg Host.Outcome.next hrun, State.journal_now _, State.journal_records (s := s.begin_.advance due) hn h0 hk⟩

/-- Settles O60: the commands from what `updCmd` does of each operation, the instants from the lemmas above. -/
theorem updatesComplete : Obligations.UpdatesComplete := by
  unfold Obligations.UpdatesComplete
  refine ⟨fun s s1 a p o w g ha hf => updBegin_runs ha hf, fun s s1 a p o w g ha hl h1 h4 => updAbort_runs ha hl h1 h4,
    fun s s1 a p o w g ha h2 hk => updArm_runs ha h2 hk, fun s s1 a p o w g ha hl h3 h4 => updDisarm_runs ha hl h3 h4, ?_, ?_,
    fun s s1 a trig b p o w g ha hl h2 hk hp hf hc ht => updApply_runs ha hl h2 hk hp hf hc ht,
    fun s s1 a p o w g ha hl hp => updCancel_runs ha hl hp, ?_, fun s t0 hu hk hn h0 => pieceJournalTimer_runs hu hk hn h0,
    fun s r h3 hc => ⟨_, rfl, s.begin_.armEnd_ends r h3 hc⟩,
    fun s a ha hd h4 hn => ⟨_, rfl, s.begin_.activateDue_begins ha hd h4 hn⟩,
    fun s bad hp => ⟨_, rfl, s.begin_.activateEnd_ends bad hp⟩,
    fun s h1 h5 => ⟨_, rfl, s.begin_.stageStep_next h1 h5⟩,
    fun s reply x c cs hc ht hh hf => ⟨_, rfl, s.begin_.compPoll_now reply hc ht hh hf⟩,
    fun s a b hp hc h hd hb => ⟨_, rfl, s.begin_.applyDue_loads hp hc h hd hb⟩,
    fun s b h => ⟨_, rfl, s.begin_.loadEnd_none h⟩,
    fun s b hk ht hl ha hf => ⟨_, rfl, s.begin_.bundleReload_loads hk ht hl ha hf⟩,
    fun s x y ht hm hb hl hs => ⟨_, rfl, (s.begin_.romBoot_ends x y ht hm hb hl hs).imp_right .inl⟩⟩
  · intro s s1 a trig p o w g ha hl h4 hp ht
    obtain ⟨⟨hop, hho, htrig⟩, -⟩ := activateWord trig
    exact updActivate_runs rfl ha hop hl h4 hp (fun h => absurd (hho.symm.trans h) (by decide)) (updTrig_eq htrig ▸ ht)
  · intro s s1 a trig p o w g ha hl h4 hp hh ht
    obtain ⟨-, hop, htrig, -⟩ := activateWord trig
    exact updActivate_runs rfl ha hop hl h4 hp (fun _ => updTrig_eq htrig ▸ hh) (updTrig_eq htrig ▸ ht)
  · intro s p rest hq h
    obtain ⟨hqueue, hgot⟩ := (s.begin_.pieceStored p rest).pieceAfter_keeps
    refine ⟨_, congrArg Host.Outcome.next (State.pieceDone_eq (s := s.begin_) hq h), hqueue, ?_⟩
    rw [hgot]
    exact cget_cput s.upd.got p.index true false

end Sys2Proof.Machine
